-- ==== Sys2Proof/Word.lean ====
section
/-! DEFINITION. The word types of the package and their plainest arithmetic (R7 to R9): bytes, FP32 words, stream words,
256-bit command words, and naturals cut to a width. Bit 0 is the least significant bit; every multi-byte value is little-endian. -/

namespace Sys2Proof

/-- One byte. -/
abbrev Byte := BitVec 8

/-- An FP32 code (R41). -/
abbrev F32 := BitVec 32

/-- The state of a stochastic rounding stream (R56). -/
abbrev Word64 := BitVec 64

/-- A command word of a queue ring (R221). -/
abbrev CmdWord := BitVec 256

/-- `n` modulo 2^w: a CNT-WRAP value of width w (R447). -/
abbrev wrap (w n : Nat) : Nat := n % 2 ^ w

/-- Bits [lo + len - 1 : lo] of a natural number. -/
abbrev bits (n lo len : Nat) : Nat := (n >>> lo) % 2 ^ len

/-- Round up to a multiple of `k`. -/
abbrev roundUp (n k : Nat) : Nat := (n + (k - 1)) / k * k

/-- Ceiling division. -/
abbrev ceilDiv' (n k : Nat) : Nat := (n + (k - 1)) / k

end Sys2Proof
end

