-- ==== Sys2Proof/Syntax.lean ====
section
/-! DEFINITION. The commands of the block: one constructor of `Instr` for each row of spec/opcode_table.json, with its operands.
What the physical world, the host or a peer contributes to a step (a reading, an outcome, bytes that host memory returns) is an
operand of the row that the spec lets take it. A unit is a core id (R12), or 0x80 + 2d + u for sweep unit d.Su (R206). -/

namespace Sys2Proof

/-- The path of an object dictionary request (R459, R470, R471, R475). -/
inductive Path where
  | mailbox (dbg : Bool)
  | job (ctx : Nat) (dbg : Bool)
  | hasowa (session : Nat) (dbg : Bool)
  deriving DecidableEq, Repr

/-- What host memory answers to an access of the package (R486): whether it succeeded, whether a read's data is poisoned (R531), and
the bytes of a read. -/
structure HostAns where
  ok : Bool
  poisoned : Bool
  data : List Byte
  deriving DecidableEq, Repr

/-- An error met by an accumulator or a hawk while a matrix command runs (R93, R99, R127, R143); positions name the array of the
engine, bank, row and column. `product` is a wrong value that a failing cell leaves in the working tile (R97). -/
inductive MatEvent where
  | clean
  | parity (e row : Nat)
  | working (e row col : Nat)
  | resident (e row col : Nat)
  | corrected (e bank row col : Nat)
  | hawkSlot (h slot : Nat)
  | product (e row col : Nat) (code : F32)
  deriving DecidableEq, Repr

/-- Uncorrectable lane, stage or output-store errors met by a vector command (R188): in how many executions, and where. -/
structure LaneEvent where
  times : Nat
  stage : Nat
  lane : Nat
  deriving DecidableEq, Repr

/-- The outcome of a sector read (R258); `row` is the DRAM row, `onDieReport` an on-die ECC report (R262); `symbols`: so many of the codeword's
symbols came back wrong (R257). -/
inductive ReadOutcome where
  | clean
  | corrected
  | uncorrectable (row : Nat)
  | symbols (n : Nat) (row : Nat)
  | onDieReport
  deriving DecidableEq, Repr

/-- A read of a sector by the controller, with its outcome. -/
structure SectorRead where
  sector : Nat
  outcome : ReadOutcome
  deriving DecidableEq, Repr

/-- A run of a slot's relocation (R265): how many rows it copies, and the rows w whose source proves uncorrectable. -/
structure RelocRun where
  rows : Nat
  bad : List Nat
  deriving DecidableEq, Repr

/-- A 512 B frame of a port (R293): the control flit and seven data slots; `badLanes` are data lanes, and `badSpares` SPARE receive slots, whose
codeword was uncorrectable (R323); `corrected`: the symbols corrected, by receive slot (R322). -/
structure Frame where
  ctl : BitVec 512
  slots : List (BitVec 512)
  badLanes : List Nat
  badSpares : List Nat
  corrected : List (Nat × Nat)
  deriving DecidableEq, Repr

/-- A sensor of R413: SITE (die 0 to 3, or 0xF), number, and its reading in 1/16 °C. -/
structure Reading where
  site : Nat
  sensor : Nat
  t16 : Int
  deriving DecidableEq, Repr

/-- The readings of a port's monitor stages in 0.01 dBm (R336): LI, SP, MB, RI, and MB and DF of each slot. -/
structure MonReadings where
  li : Int
  sp : Int
  mb : Int
  ri : Int
  mbSlot : List Int
  dfSlot : List Int
  farLpwr : Int
  ber : List Nat
  deriving DecidableEq, Repr

/-- The outcome of one heater sweep of a ring (R330): the heater powers in µW at which the drop monitor peaked, rising, and whether the receive
input had held within 0.2 dB for 1 ms before it. -/
structure SweepOutcome where
  peaks : List Nat
  riSteady : Bool
  deriving DecidableEq, Repr

/-- A droop at a VCORE sense point (R416): the die, and how far below the set-point voltage it fell, in mV. -/
structure DroopSense where
  die : Nat
  below : Nat
  deriving DecidableEq, Repr

/-- A release step of one row of R416 on a die: cause 0 droop, 1 overcurrent, 2 die thermal, 3 lath or stack thermal, 4 die junction, 6 lath
junction. -/
structure StretchStep where
  die : Nat
  cause : Nat
  deriving DecidableEq, Repr

/-- A refresh under load of a calibration (R424): it begins, or it is done. -/
structure RefreshRun where
  index : Nat
  done : Bool
  deriving DecidableEq, Repr

/-- What the host has set in the function's configuration space (R483, R486, R493): CXL.mem, bus mastering, MSI-X and its function mask. -/
structure HostConfig where
  mem : Bool
  busMaster : Bool
  msix : Bool
  masked : Bool
  deriving DecidableEq, Repr

/-- The header and the addressing of a datagram that arrives on the management port (R474): VER, KIND, the destination's UDP port and address. -/
structure HasowaHead where
  ver : Nat
  kind : Nat
  port : Nat
  dest : BitVec 128
  deriving DecidableEq, Repr

/-- What a scan or a capture re-run of the unit under test gave (R440, R441): whether every structural and field pattern passed,
and for each held capture whether some suspect run differed from the reference run. -/
structure ScanResult where
  patternsPass : Bool
  captureDiffers : List Bool
  newPattern : Nat
  deriving DecidableEq, Repr

/-- An object dictionary request header and the data of a write (R463). -/
structure OdReq where
  index : Nat
  sub : Nat
  op : Nat
  dbg : Bool
  last : Bool
  reserved : Nat
  offset : Nat
  length : Nat
  tag : Nat
  data : List Byte
  deriving DecidableEq, Repr

/-- The commands, in the order of spec/opcode_table.json. -/
inductive Instr where
  | nop (u q : Nat)
  | twait (u q : Nat)
  | tset (u q : Nat)
  | qfence (u q : Nat)
  | mmul (u q : Nat)
  | setvl (u q : Nat)
  | skim (u q : Nat) (ev : LaneEvent)
  | sweep (u q : Nat) (ev : LaneEvent)
  | copy (u q : Nat) (host : HostAns)
  | xpose (u q : Nat) (ev : MatEvent)
  | screed (u q : Nat)
  | put (u q : Nat)
  | get (u q : Nat)
  | atomic (u q : Nat)
  | signal (u q : Nat)
  | reduce (u q : Nat)
  | gather (u q : Nat)
  | permute (u q : Nat)
  | breserve (u q : Nat)
  | brelease (u q : Nat)
  | commandFetch (u q : Nat) (host : HostAns)
  | commandIssue (u q : Nat)
  | admissionRead (u q : Nat)
  | dispatch (d : Nat)
  | holdLimitExpiry (d : Nat)
  | bucketRefill (d : Nat)
  | reserveExpiry (u q : Nat)
  | preemptionRequest (u q : Nat)
  | waitTimeout (u q : Nat)
  | contextRestart (p : Path) (ctx value : Nat)
  | partitionTableWrite (p : Path) (len table : Nat)
  | ringBaseWrite (p : Path) (u q : Nat) (size : Bool) (value : Nat)
  | tailWrite (p : Path) (u q value : Nat)
  | tallyWrite (p : Path) (value : Nat)
  | srSeedWrite (p : Path) (value : Nat)
  | weightTileLoad (u q : Nat)
  | pass (u q : Nat) (ev : MatEvent)
  | passEnd (u q : Nat)
  | rowForm (u q : Nat) (ev : MatEvent)
  | copyPhase (u q : Nat) (ev : MatEvent)
  | commit (u q : Nat)
  | correctedWordWriteBack (array bank row col : Nat)
  | hawkTileWrite (u q h : Nat)
  | dualCompare (u q : Nat) (mismatch : Option Nat)
  | writeBack (u q : Nat)
  | screedTileLand (core strm : Nat)
  | orphanDrainLimit
  | patrolScrub (sector : Nat) (o : ReadOutcome) (passDone : Bool)
  | correctedRewrite (read : SectorRead)
  | periodicRetraining (stack : Nat) (failed : Option Nat)
  | retireStack (p : Path) (value : Nat) (token : List Byte)
  | sealedRetirement (stack channel : Nat)
  | slotRelocation (r : RelocRun)
  | retirementComplete
  | flitCrcError (d m : Nat) (lane : Option Nat)
  | laneFailure (d m : Nat) (lanes : List Nat)
  | moduleRetrainDone (d m : Nat)
  | packageNumberWrite (p : Path) (value : Nat)
  | routeActivate (p : Path) (value : Nat)
  | frameReceive (port : Nat) (f : Frame)
  | escapeMove (port : Nat)
  | hopHoldLimit (port : Nat)
  | putMessage (spkg msgid : Nat)
  | getMessage (spkg msgid : Nat)
  | atomicMessage (spkg msgid : Nat)
  | controlMessage (spkg msgid : Nat)
  | getData (msgid : Nat)
  | ack (msgid : Nat)
  | nakBusy (msgid : Nat)
  | nakIncomplete (msgid : Nat)
  | nakCrc (msgid : Nat)
  | nakNoroute (msgid : Nat)
  | nakAddress (msgid : Nat)
  | nakTally (msgid : Nat)
  | nakPoison (msgid : Nat)
  | resendTimer (msgid : Nat)
  | gapTime (spkg msgid : Nat)
  | tombstoneExpiry (spkg msgid : Nat)
  | streamRecordFree (source : Bool) (peer vc : Nat)
  | laserLost (port : Nat) (li : Int)
  | ringSweep (port : Nat) (tx : Bool) (slot : Nat) (o : SweepOutcome)
  | feedforward (port : Nat) (dT16tx dT16rx : Int)
  | lockLoss (port : Nat) (tx : Bool) (slot : Nat)
  | recapture (port : Nat) (tx : Bool) (slot : Nat)
  | holdExpiry (port : Nat) (tx : Bool) (slot : Nat)
  | heaterJump (port : Nat) (tx : Bool) (slot : Nat)
  | marker (port slot : Nat) (word : BitVec 160)
  | alignmentLoss (port slot : Nat)
  | report (port : Nat) (word : BitVec 160)
  | move (port : Nat) (word : BitVec 160)
  | moveTakesEffect (port : Nat) (tx : Bool)
  | echo (port : Nat) (word : BitVec 160) (portCycle fixed : Nat)
  | ident (port : Nat) (word : BitVec 160)
  | margin (port : Nat) (word : BitVec 160)
  | mistCoat (port : Nat) (power tracking : List (List Nat)) (refs : MonReadings)
  | monitorCompare (port : Nat) (r : MonReadings)
  | keying (port : Nat)
  | keyingTimeExpiry (port : Nat)
  | keyingDarkRetry (port : Nat)
  | reKeyRequest (p : Path) (value : Nat)
  | portEnableWrite (p : Path) (port value : Nat)
  | riLow (port : Nat) (ri : Int)
  | channelBind (p : Path) (chan : Nat)
  | channelUnbind (p : Path) (chan : Nat)
  | backupMapWrite (p : Path) (value : Nat)
  | reduceUp (spkg msgid : Nat) (adderFault : Nat)
  | reduceDown (spkg msgid : Nat)
  | gatherMessage (spkg msgid : Nat)
  | permuteMessage (spkg msgid : Nat)
  | lateLimit (chan chunk : Nat) (right : Bool)
  | collectiveLimit (chan : Nat)
  | supplyGood (supply : Nat)
  | vbulkUndervoltage (mV : Nat)
  | vbulkPowerFail (overvoltage : Bool)
  | packagePowerFail (cause : Nat)
  | heatersOff (mV : Nat)
  | droop (x : DroopSense)
  | overcurrent (watts : Nat)
  | thermalStretch (r : Reading)
  | junctionLimit (r : Reading)
  | stretchStepDown (d : Nat)
  | stretchReleaseStep (x : StretchStep)
  | governorLoop (measured : List Nat) (watts : Nat) (rs : List Reading)
  | policyLoop (watts1ms watts100ms : Nat) (refs : List Int)
  | thermalTrip (r : Reading)
  | emergN
  | emergencyRequest (p : Path) (value : Nat)
  | emergencyReleaseStep (watts : Nat)
  | calibrationRefresh (run : RefreshRun) (temp : Int)
  | refreshRequest (p : Path) (index : Nat) (value : Nat)
  | snagClear (p : Path) (mask : Nat)
  | fence (core cause : Nat)
  | fenceCore (p : Path) (value : Nat) (token : List Byte)
  | unfenceCore (p : Path) (value : Nat) (token : List Byte)
  | testStart (core : Nat)
  | scanTest (r : ScanResult)
  | testReturn
  | sweepUnitScan (unit : Nat) (done : Bool) (r : ScanResult)
  | installFieldPattern (p : Path) (pattern : List Byte) (token : List Byte)
  | counterReset (p : Path) (value : Nat)
  | flush (ok : Bool)
  | dustSheetLay (p : Path)
  | dustSheetLift (p : Path)
  | dustSheetLimit
  | recordRead (p : Path)
  | archiveRead (p : Path)
  | clearRecorder (p : Path) (token : List Byte)
  | odRead (p : Path) (r : OdReq)
  | odWrite (p : Path) (r : OdReq)
  | odMeta (p : Path) (r : OdReq)
  | authWrite (p : Path) (r : OdReq)
  | stagingTimeout (p : Path)
  | hotWindowWrite (offset size value : Nat)
  | unsupportedMailboxOpcode (opcode : Nat)
  | jobPageDoorbell (ctx value : Nat) (r : OdReq)
  | hasowaRequest (session seq : Nat) (head : HasowaHead) (source : BitVec 128) (r : OdReq)
  | sessionTimeout (session : Nat)
  | discover
  | announce
  | beaconLoss
  | beaconReturn
  | linkTraining (modes widths : List Nat) (cache : Bool) (config : HostConfig) (lanes : List Nat)
  | linkLoss
  | perstN
  | hdmAccess (write : Bool) (addr len : Nat) (data : List Byte)
  | hostAccessFail (write : Bool) (u q : Nat)
  | ringFetchRetry (u q : Nat) (host : HostAns)
  | doorbellWrite (offset size value : Nat)
  | heartbeat (size value : Nat)
  | heartbeatLapse
  | attach (p : Path)
  | fresh (p : Path)
  | detach (p : Path)
  | load (p : Path) (image : Option (List Byte))
  | stage (p : Path) (image : Option (List Byte))
  | activationRequest (p : Path)
  | activationCancel (p : Path)
  | quiescing
  | blackout (us : Nat)
  | newImageStartTimeout (us : Nat)
  | commitSecurityVersion (p : Path) (value : Nat) (token : List Byte)
  | lockDebug (p : Path) (value : Nat) (token : List Byte)
  | clearLaneRecord (p : Path) (d value : Nat) (token : List Byte)
  | operatorKeyHashWrite (p : Path) (value : Nat)
  | attestationChallenge (p : Path) (value : Nat) (flashOk : Bool)
  | fuseLoad (result rpos : Nat)
  | bootRomStart
  | hbm4Training (failed : List (Nat × Nat)) (ms : Nat)
  | dieLinkTraining (failed : List (Nat × Nat × Nat)) (errataOk : Bool) (ms : Nat)
  | quickLogicSelfTest (failed : List Nat) (ms : Nat)
  | opticalStart (laser : List Nat)
  | laserWaitExpiry
  | vbulkResume
  | clk25Loss
  | laserPresent (port : Nat) (li : Int)
  | emergNReturnsHigh
  | stretchCauseClears (cause d : Nat) (rs : List Reading)
  | riRestored (port : Nat) (ri : Int)
  | bisnpinvResponse (line : Nat)
  deriving DecidableEq, Repr

end Sys2Proof
end

