-- ==== Sys2Proof/Config.lean ====
section
/-! DEFINITION. What an implementation or a part fixes, and the free values the spec leaves open. Every opaque constant has no
body: nothing can evaluate it or prove a value of it. -/

namespace Sys2Proof

/-- A free byte: the contents of memory the spec calls undefined (R108, R188); applied to the State's counter and the offset. -/
opaque Config.freeByte : Nat → Nat → Byte

/-- A free code for a function the spec states within a bound only (R112, R175): operation, operand code. -/
opaque Config.freeFunction : Nat → Nat → Nat

/-- A free natural number for a value the spec states no result for: what it stands for, the State's counter. -/
opaque Config.freeNat : Nat → Nat → Nat

/-- SHAKE256-256 of a byte string (R494, R507, R509): a function of another standard. -/
opaque Config.shake256 : List Byte → Nat

/-- Whether an XMSS-SHAKE256_20_256 signature verifies: public key, message, signature (R494, R507). -/
opaque Config.xmssVerify : List Byte → List Byte → List Byte → Bool

/-- The OID of XMSS-SHAKE256_20_256, a value of another standard (R494). -/
opaque Config.xmssOid : Nat

/-- The XMSS^MT signature of a message under the device identity key at an index (R508): 5,605 bytes as a number. -/
opaque Config.xmssMtSign : Nat → List Byte → Nat

/-- Die d's spare positions, from its repair fuses (R25): two core numbers below 26. -/
opaque Config.spareFuse : Nat → Nat → Nat

/-- What the fuses of die d hold (R284): the issue less 1 in [15:8], the version less 1 in [4], the feature bits in [1:0]. -/
opaque Config.dieFuse : Nat → Nat

/-- The device serial (R480), the MAC address (R480) and the firmware signer hash (R505), from fuses. -/
opaque Config.serial : Nat
opaque Config.mac : Nat
opaque Config.signerHash : Nat

/-- Operator key hash, security version count and debug lock as delivered (R505). -/
opaque Config.operatorKeyHash : Nat
opaque Config.svnCount : Nat
opaque Config.debugUnlocked : Bool

/-- Die identities and repair summary (R505), ROM version and ROM digest (R495, R509), endorsement and public key (R508). -/
opaque Config.dieIdentity : Nat
opaque Config.repairSummary : Nat
opaque Config.romVersion : Nat
opaque Config.romDigest : Nat
opaque Config.endorsement : Nat
opaque Config.endorsementBytes : Nat
opaque Config.identityKey : Nat

/-- The check symbols of a sector's 64 bytes: three symbols over GF(2^16), 6 bytes (R257). Neither the field's polynomial nor the generator of
the code is stated (log 138). -/
opaque Config.sectorCheck : List Byte → Nat

/-- The droop margin of a die in mV, as the calibration with this tag holds it (R416, R424). -/
opaque Config.droopMargin : Nat → Nat → Nat

/-- The static energy of a die over 1 ms in nJ that the leakage model with this tag states at the die's temperatures, the voltages being free
(R417; log 71). -/
opaque Config.leakage : Nat → Nat → List Int → Nat → Nat

/-- The place of the control register of the HDM decoder among the 1,024 words of the CXL component registers, and what a word of the
registers at 0x1_0000 to 0x1_FFFF of BAR0 reads as that the host has not written (R488, R490; log 168): the CXL specification lays them out. -/
opaque Config.hdmControl : Nat
opaque Config.cxlRegister : Nat → Nat

/-- The IDCODE of the boundary-scan port (R518). -/
def Config.idcode : BitVec 32 := 0x1D4A0C6F

/-- The rights policy table as shipped (R460), range 0x0 in the low byte. -/
def Config.rightsPolicy (range : Nat) : Nat :=
  match range with
  | 1 => 0x73
  | 2 => 0x73
  | 3 => 0x77
  | 4 => 0x73
  | 5 => 0x73
  | 6 => 0x33
  | 7 => 0x73
  | 8 => 0x33
  | 9 => 0x75
  | 10 => 0x33
  | 15 => 0x88
  | _ => 0

end Sys2Proof
end

