-- ==== Sys2Proof/Machine/Store.lean ====
section
/-! DEFINITION. Sparse stores: a list of (key, value) pairs with strictly rising keys and no entry equal to what an unlisted
key reads as. The byte memory of the package (R249), its accumulators (R99), tallies (R201), streams (R56) and object dictionary
values (R456) are held this way, so that equal contents are equal data. -/

namespace Sys2Proof.Machine

/-- A sparse store: keys strictly rising. -/
abbrev Store (α : Type) := List (Nat × α)

/-- What the store holds at `k`; `d` where it lists nothing. -/
def Store.get {α : Type} (d : α) : Store α → Nat → α
  | [], _ => d
  | (j, v) :: r, k => if k < j then d else if k = j then v else Store.get d r k

/-- The store with `v` at `k` (no entry when `v` is what an unlisted key reads as). -/
def Store.put {α : Type} [DecidableEq α] (d : α) : Store α → Nat → α → Store α
  | [], k, v => if v = d then [] else [(k, v)]
  | (j, w) :: r, k, v =>
    if k < j then (if v = d then (j, w) :: r else (k, v) :: (j, w) :: r)
    else if k = j then (if v = d then r else (k, v) :: r)
    else (j, w) :: Store.put d r k v

/-- Keys strictly rising from above `lo`, and no entry equal to `d`. -/
def Store.okFrom {α : Type} [DecidableEq α] (d : α) : Option Nat → Store α → Bool
  | _, [] => true
  | lo, (j, v) :: r => (match lo with | none => true | some l => decide (l < j)) && decide (v ≠ d) && Store.okFrom d (some j) r

/-- The canonical form of a store. -/
def Store.wf {α : Type} [DecidableEq α] (d : α) (m : Store α) : Bool := Store.okFrom d none m

/-- The store without the keys from `lo` to `hi - 1`. -/
def Store.dropRange {α : Type} (m : Store α) (lo hi : Nat) : Store α :=
  m.filter (fun p => p.1 < lo || hi ≤ p.1)

/-- Write the values of a list at consecutive keys from `k`. -/
def Store.putList {α : Type} [DecidableEq α] (d : α) (m : Store α) (k : Nat) : List α → Store α
  | [] => m
  | v :: r => Store.putList d (Store.put d m k v) (k + 1) r

/-- The values at `n` consecutive keys from `k`. -/
def Store.getList {α : Type} (d : α) (m : Store α) (k n : Nat) : List α :=
  (List.range n).map (fun i => Store.get d m (k + i))

/-- Little-endian value of a list of bytes (R8). -/
def leNat : List Byte → Nat
  | [] => 0
  | b :: r => b.toNat + 256 * leNat r

/-- The `n` low bytes of a natural number, little-endian (R8). -/
def leBytes : Nat → Nat → List Byte
  | 0, _ => []
  | n + 1, v => BitVec.ofNat 8 v :: leBytes n (v / 256)

/-- Read an element of a list, with a value for an index beyond its end. -/
def listGet {α : Type} (d : α) (l : List α) (i : Nat) : α := l.getD i d

/-- The list with element `i` replaced (unchanged when there is no such element). -/
def listSet {α : Type} (l : List α) (i : Nat) (v : α) : List α := l.set i v

/-- The list with `f` applied to every element that satisfies `p`. -/
def mapWhere {α : Type} (p : α → Bool) (f : α → α) (l : List α) : List α :=
  l.map (fun a => if p a then f a else a)

/-- The list with `f` applied to the first element that satisfies `p`. -/
def mapFirst {α : Type} (p : α → Bool) (f : α → α) : List α → List α
  | [] => []
  | a :: r => if p a then f a :: r else a :: mapFirst p f r

end Sys2Proof.Machine
end

