-- ==== Sys2Proof/Machine/Num.lean ====
section
/-! DEFINITION. Exact values and the number formats of the package (R40 to R55): decoding, rounding to nearest and
stochastically, narrowing conversion with its special values and flags, MX blocks, exact sums and products, and the fixed-point
reference of the transcendental functions (R112, R175). -/

namespace Sys2Proof.Machine

/-- A value on its way through a stage: NaN, an infinity, or the exact finite value (−1)^neg × m × 2^e (zeros are signed, R44). -/
inductive Val where
  | nan
  | inf (neg : Bool)
  | fin (neg : Bool) (m : Nat) (e : Int)
  deriving DecidableEq, Repr

/-- The flag word (R62): [5] NFIN, [4] INX, [3] UFL, [2] OFL, [1] DZ, [0] INV. -/
abbrev Flags := BitVec 8

def fINV : Flags := 1
def fDZ : Flags := 2
def fOFL : Flags := 4
def fUFL : Flags := 8
def fINX : Flags := 16
def fNFIN : Flags := 32

/-- A floating-point layout (R41). `kind`: 0 has infinities and NaNs at the top exponent, 1 is E4M3, 2 has neither. -/
structure FpFmt where
  eb : Nat
  mb : Nat
  bias : Nat
  kind : Nat
  deriving DecidableEq, Repr

def fpFP32 : FpFmt := ⟨8, 23, 127, 0⟩
def fpBF16 : FpFmt := ⟨8, 7, 127, 0⟩
def fpFP16 : FpFmt := ⟨5, 10, 15, 0⟩
def fpE4M3 : FpFmt := ⟨4, 3, 7, 1⟩
def fpE5M2 : FpFmt := ⟨5, 2, 15, 0⟩
def fpE3M2 : FpFmt := ⟨3, 2, 3, 2⟩
def fpE2M3 : FpFmt := ⟨2, 3, 1, 2⟩
def fpE2M1 : FpFmt := ⟨2, 1, 1, 2⟩

/-- The element layout of a format code (R40); INT8 and E8M0 have none of these. -/
def fpOf (f : Nat) : FpFmt :=
  match f with
  | 0 => fpFP32
  | 1 => fpBF16
  | 2 => fpFP16
  | 3 => fpE4M3
  | 4 => fpE5M2
  | 5 => fpE4M3
  | 6 => fpE5M2
  | 7 => fpE3M2
  | 8 => fpE2M3
  | _ => fpE2M1

/-- Format codes 0x5 to 0x9 are the MX formats (R40). -/
def isMX (f : Nat) : Bool := 5 ≤ f && f ≤ 9

/-- Element width in bits (R46, R236). -/
def fmtBits (f : Nat) : Nat :=
  match f with
  | 0 => 32
  | 1 => 16
  | 2 => 16
  | 7 => 6
  | 8 => 6
  | 9 => 4
  | _ => 8

/-- Bytes of `n` packed elements of format `f` (R236; `n` a multiple of 32 for the packed formats). -/
def fmtBytes (f n : Nat) : Nat := ceilDiv' (n * fmtBits f) 8

/-- Operand formats that travel in 16 bits (R72). -/
def is16 (f : Nat) : Bool := f = 1 || f = 2

/-- emax of the block scale rule (R47). -/
def mxEmax (f : Nat) : Int :=
  match f with
  | 5 => 8
  | 6 => 15
  | 7 => 4
  | _ => 2

def Val.zero : Val := .fin false 0 0
def Val.one : Val := .fin false 1 0

def Val.isZero : Val → Bool
  | .fin _ m _ => m = 0
  | _ => false

def Val.isNaN : Val → Bool
  | .nan => true
  | _ => false

/-- NaN or infinite. -/
def Val.nonFinite : Val → Bool
  | .fin _ _ _ => false
  | _ => true

def Val.isInf : Val → Bool
  | .inf _ => true
  | _ => false

def Val.sign : Val → Bool
  | .nan => false
  | .inf s => s
  | .fin s _ _ => s

def Val.neg : Val → Val
  | .nan => .nan
  | .inf s => .inf (!s)
  | .fin s m e => .fin (!s) m e

def Val.abs : Val → Val
  | .nan => .nan
  | .inf _ => .inf false
  | .fin _ m e => .fin false m e

/-- Multiply by 2^k, exactly. -/
def Val.scale (k : Int) : Val → Val
  | .nan => .nan
  | .inf s => .inf s
  | .fin s m e => .fin s m (e + k)

/-- The signed mantissa of a finite value at exponent `e0` (at or below its own). -/
def sigAt (s : Bool) (m : Nat) (e e0 : Int) : Int :=
  let k := m <<< (e - e0).toNat
  if s then -(k : Int) else (k : Int)

/-- Exact comparison of the order of two values, neither NaN: negative, zero or positive. -/
def Val.cmp (a b : Val) : Int :=
  match a, b with
  | .fin s m e, .fin t n f =>
    let e0 := min e f
    sigAt s m e e0 - sigAt t n f e0
  | .inf s, .inf t => (if s then -1 else 1) - (if t then -1 else 1)
  | .inf s, _ => if s then -1 else 1
  | _, .inf t => if t then 1 else -1
  | _, _ => 0

def Val.lt (a b : Val) : Bool := decide (Val.cmp a b < 0)
def Val.le (a b : Val) : Bool := decide (Val.cmp a b ≤ 0)

/-- Exact sum with IEEE special cases (R44, R59): the value and INV when a NaN arises from infinities. -/
def Val.add (a b : Val) : Val × Flags :=
  match a, b with
  | .nan, _ => (.nan, 0)
  | _, .nan => (.nan, 0)
  | .inf s, .inf t => if s = t then (.inf s, 0) else (.nan, fINV)
  | .inf s, .fin _ _ _ => (.inf s, 0)
  | .fin _ _ _, .inf t => (.inf t, 0)
  | .fin s m e, .fin t n f =>
    let e0 := min e f
    let v := sigAt s m e e0 + sigAt t n f e0
    if v = 0 then (.fin (s && t && m = 0 && n = 0) 0 0, 0) else (.fin (v < 0) v.natAbs e0, 0)

/-- Exact product (R44, R59): the value and INV for infinity × 0. -/
def Val.mul (a b : Val) : Val × Flags :=
  match a, b with
  | .nan, _ => (.nan, 0)
  | _, .nan => (.nan, 0)
  | .inf s, .inf t => (.inf (s != t), 0)
  | .inf s, .fin t n _ => if n = 0 then (.nan, fINV) else (.inf (s != t), 0)
  | .fin s m _, .inf t => if m = 0 then (.nan, fINV) else (.inf (s != t), 0)
  | .fin s m e, .fin t n f => (.fin (s != t) (m * n) (e + f), 0)

/-- floor(log₂ |v|) of a finite non-zero value. -/
def Val.ilog2 : Val → Int
  | .fin _ m e => (Nat.log2 m : Int) + e
  | _ => 0

/-- Decode an element code of a floating-point layout (R41). -/
def fpDecode (p : FpFmt) (code : Nat) : Val :=
  let s := code.testBit (p.eb + p.mb)
  let ex := bits code p.mb p.eb
  let mant := bits code 0 p.mb
  let top := 2 ^ p.eb - 1
  if p.kind = 0 && ex = top then (if mant = 0 then .inf s else .nan)
  else if p.kind = 1 && ex = top && mant = 2 ^ p.mb - 1 then .nan
  else if ex = 0 then .fin s mant (1 - (p.bias : Int) - (p.mb : Int))
  else .fin s (2 ^ p.mb + mant) ((ex : Int) - (p.bias : Int) - (p.mb : Int))

/-- Decode a code of any element format (R40); INT8 is two's complement. -/
def decodeFmt (f code : Nat) : Val :=
  if f = 10 then
    let c := code % 256
    if c < 128 then .fin false c 0 else .fin true (256 - c) 0
  else fpDecode (fpOf f) code

/-- The value of an E8M0 scale code; 0xFF is NaN (R41). -/
def decodeE8M0 (c : Nat) : Val := if c = 255 then .nan else .fin false 1 ((c : Int) - 127)

/-- How a conversion rounds: to nearest even, or stochastically with a 16-bit draw (R53, R55). -/
inductive Rnd where
  | near
  | stoch (r : Nat)
  deriving DecidableEq, Repr

/-- Round m × 2^e (m > 0) to a multiple of 2^q: the kept multiple and whether a tail was dropped (R54, R55). -/
def roundAt (rnd : Rnd) (m : Nat) (e q : Int) : Nat × Bool :=
  if e ≥ q then (m <<< (e - q).toNat, false)
  else
    let sh := (q - e).toNat
    let keep := m >>> sh
    let tail := m % 2 ^ sh
    match rnd with
    | .near =>
      let twice := 2 * tail
      let up := twice > 2 ^ sh || (twice = 2 ^ sh && keep % 2 = 1)
      (if up then keep + 1 else keep, tail ≠ 0)
    | .stoch r =>
      let t16 := tail * 65536 / 2 ^ sh
      (if t16 + r ≥ 65536 then keep + 1 else keep, tail ≠ 0)

/-- Largest finite exponent of a layout (R41). -/
def fpEmax (p : FpFmt) : Int :=
  match p.kind with
  | 0 => (2 ^ p.eb : Int) - 2 - p.bias
  | _ => (2 ^ p.eb : Int) - 1 - p.bias

/-- Largest finite significand, an integer with p.mb fraction bits (R41). -/
def fpMaxSig (p : FpFmt) : Nat := if p.kind = 1 then 2 ^ (p.mb + 1) - 2 else 2 ^ (p.mb + 1) - 1

/-- The code of ± the largest finite value. -/
def fpMaxCode (p : FpFmt) (s : Bool) : Nat :=
  let mant := fpMaxSig p - 2 ^ p.mb
  let ex := (fpEmax p + p.bias).toNat
  (if s then 2 ^ (p.eb + p.mb) else 0) + ex * 2 ^ p.mb + mant

/-- The code of ± infinity, for layouts that have one. -/
def fpInfCode (p : FpFmt) (s : Bool) : Nat :=
  (if s then 2 ^ (p.eb + p.mb) else 0) + (2 ^ p.eb - 1) * 2 ^ p.mb

/-- The canonical NaN of a layout (R42). -/
def fpNaNCode (p : FpFmt) : Nat :=
  if p.kind = 1 then 2 ^ (p.eb + p.mb) - 1 else (2 ^ p.eb - 1) * 2 ^ p.mb + 2 ^ (p.mb - 1)

/-- The result of rounding a finite value to a layout. -/
structure Rounded where
  code : Nat
  inexact : Bool
  tiny : Bool
  ovf : Bool
  deriving DecidableEq, Repr

/-- Round a finite value to a layout; on overflow the code is that of the largest finite value (R53 to R55). `tiny` says that the delivered
result is subnormal or zero: R54 does not say whether a value that rounds up to the smallest normal is tiny, and the model judges the
delivered code (DESIGN CHOICE, log 106). -/
def fpRound (p : FpFmt) (rnd : Rnd) (s : Bool) (m : Nat) (e : Int) : Rounded :=
  let sb := if s then 2 ^ (p.eb + p.mb) else 0
  if m = 0 then ⟨sb, false, false, false⟩
  else
    let emin : Int := 1 - p.bias
    let top := (Nat.log2 m : Int) + e
    let q := max top emin - p.mb
    let (k0, inx) := roundAt rnd m e q
    let (k, q) := if k0 ≥ 2 ^ (p.mb + 1) then (k0 / 2, q + 1) else (k0, q)
    let ex := q + p.mb
    if ex > fpEmax p || (ex = fpEmax p && k > fpMaxSig p) then ⟨fpMaxCode p s, inx, false, true⟩
    else if k < 2 ^ p.mb then ⟨sb + k, inx, true, false⟩
    else ⟨sb + (ex + p.bias).toNat * 2 ^ p.mb + (k - 2 ^ p.mb), inx, false, false⟩

/-- INX and UFL of a rounding (R54, R62). -/
def rndFlags (r : Rounded) : Flags :=
  (if r.inexact then fINX else 0) ||| (if r.inexact && r.tiny then fUFL else 0)

/-- Round a stage result to a layout that has infinities (FP32, BF16, FP16): overflow gives the infinity (R51, R58, R59). -/
def fpStage (p : FpFmt) (rnd : Rnd) (v : Val) : Nat × Flags :=
  match v with
  | .nan => (fpNaNCode p, 0)
  | .inf s => (fpInfCode p s, 0)
  | .fin s m e =>
    let r := fpRound p rnd s m e
    if r.ovf then (fpInfCode p s, fOFL ||| fINX) else (r.code, rndFlags r)

/-- Narrowing conversion to a non-MX format (R53): the stored code and the flags. Saturation of INT8 raises OFL, and INX only where the
rounding itself dropped a tail (R55). -/
def convert (f : Nat) (rnd : Rnd) (sat : Bool) (v : Val) : Nat × Flags :=
  if f = 10 then
    match v with
    | .nan => (0, fINV ||| fNFIN)
    | .inf s => (if s then 128 else 127, fINV ||| fNFIN)
    | .fin s m e =>
      if m = 0 then (0, 0)
      else
        let (k, inx) := roundAt rnd m e 0
        if s && k > 128 then (128, fOFL ||| (if inx then fINX else 0))
        else if !s && k > 127 then (127, fOFL ||| (if inx then fINX else 0))
        else (if s then (256 - k) % 256 else k, if inx then fINX else 0)
  else
    let p := fpOf f
    match v with
    | .nan => (fpNaNCode p, fNFIN)
    | .inf s => if p.kind = 1 then (fpNaNCode p, fINV ||| fNFIN) else (fpInfCode p s, fNFIN)
    | .fin s m e =>
      let r := fpRound p rnd s m e
      if r.ovf then
        (if sat || p.kind = 1 then fpMaxCode p s else fpInfCode p s, fOFL ||| fINX)
      else (r.code, rndFlags r)

/-- The draw a conversion takes: none under RM = 0 (R55). -/
def rndOf (rm : Bool) (r : Nat) : Rnd := if rm then .stoch r else .near

/-- The block scale code of 32 values (R47), 0xFF when one of them is NaN or infinite. -/
def mxScale (f : Nat) (vs : List Val) : Nat :=
  if vs.any Val.nonFinite then 255
  else
    let nz := vs.filter (fun v => !v.isZero)
    match nz with
    | [] => 0
    | v :: r =>
      let top := r.foldl (fun t w => max t w.ilog2) v.ilog2
      let x := max (-127) (min 127 (top - mxEmax f))
      (x + 127).toNat

/-- One element of an MX block under its scale (R47, R48): clamped with INX, never OFL. -/
def mxElem (f scale : Nat) (rnd : Rnd) (v : Val) : Nat × Flags :=
  if scale = 255 then (0, 0)
  else match v with
  | .fin s m e =>
    let r := fpRound ⟨(fpOf f).eb, (fpOf f).mb, (fpOf f).bias, if (fpOf f).kind = 1 then 1 else if f = 6 then 0 else 2⟩ rnd s m (e - ((scale : Int) - 127))
    (r.code, if r.ovf then fINX else rndFlags r)
  | _ => (0, 0)

/-- Convert 32 values to an MX block (R47): scale, element codes, flags. `draws` are the draws of the elements' lanes. A block made NaN by an
infinity raises NFIN, as R47 names it, and not INV, which R47 and R53 do not name for MX formats (DESIGN CHOICE, log 122). -/
def mxConvert (f : Nat) (rm : Bool) (draws : List Nat) (vs : List Val) : Nat × List Nat × Flags :=
  let sc := mxScale f vs
  let es := (vs.zip (draws ++ List.replicate vs.length 0)).map (fun p => mxElem f sc (rndOf rm p.2) p.1)
  (sc, es.map (·.1), (if sc = 255 then fNFIN else 0) ||| es.foldl (fun a p => a ||| p.2) 0)

/-- The value of an MX element: scale × element (R45); every element of a block with scale 0xFF is NaN (R59). -/
def mxValue (f scale code : Nat) : Val :=
  if scale = 255 then .nan else Val.scale ((scale : Int) - 127) (decodeFmt f code)

/-- The value of an operand element: MX elements take their block scale, others the implied scale (R49). -/
def elemValue (f scale code : Nat) : Val := if isMX f then mxValue f scale code else decodeFmt f code

/-- Whether an operand read raises the non-finite input flag (R59, operand read). -/
def operandNFIN (f scale code : Nat) : Flags :=
  if (elemValue f scale code).nonFinite then fNFIN else 0

/-- Widening to FP32 (R52): exact, infinity with OFL beyond the FP32 range. -/
def widen32 (v : Val) : Nat × Flags :=
  match v with
  | .nan => (fpNaNCode fpFP32, 0)
  | .inf s => (fpInfCode fpFP32 s, 0)
  | .fin s m e =>
    let r := fpRound fpFP32 .near s m e
    if r.ovf then (fpInfCode fpFP32 s, fOFL) else (r.code, 0)

/-! ### FP32 operations of drains, lanes and port adders (R58: round to nearest) -/

def v32 (c : Nat) : Val := fpDecode fpFP32 c

def rn32 (v : Val) : Nat × Flags := fpStage fpFP32 .near v

def add32 (a b : Nat) : Nat × Flags :=
  let (v, f) := Val.add (v32 a) (v32 b)
  let (c, g) := rn32 v
  (c, f ||| g)

def sub32 (a b : Nat) : Nat × Flags :=
  let (v, f) := Val.add (v32 a) (Val.neg (v32 b))
  let (c, g) := rn32 v
  (c, f ||| g)

def mul32 (a b : Nat) : Nat × Flags :=
  let (v, f) := Val.mul (v32 a) (v32 b)
  let (c, g) := rn32 v
  (c, f ||| g)

/-- a × b + c, the product exact, one rounding (R116, R174). -/
def fma32 (a b c : Nat) : Nat × Flags :=
  let (v, f) := Val.mul (v32 a) (v32 b)
  let (w, g) := Val.add v (v32 c)
  let (r, h) := rn32 w
  (r, f ||| g ||| h)

/-- The larger operand with the NaN rule of R174; −0 lies below +0. -/
def max32 (a b : Nat) : Nat :=
  let x := v32 a
  let y := v32 b
  if x.isNaN || y.isNaN then fpNaNCode fpFP32
  else if x.isZero && y.isZero then (if x.sign then b else a)
  else if Val.lt x y then b else a

def min32 (a b : Nat) : Nat :=
  let x := v32 a
  let y := v32 b
  if x.isNaN || y.isNaN then fpNaNCode fpFP32
  else if x.isZero && y.isZero then (if x.sign then a else b)
  else if Val.lt y x then b else a

/-- Integer square root, bit by bit. -/
def isqrtFrom (m : Nat) : Nat → Nat → Nat
  | 0, r => r
  | b + 1, r => isqrtFrom m b (if (r + 2 ^ b) * (r + 2 ^ b) ≤ m then r + 2 ^ b else r)

/-- Square root, rounded once to nearest FP32 (R381). -/
def sqrt32 (x : Nat) : Nat × Flags :=
  match v32 x with
  | .nan => (0x7FC00000, 0)
  | .inf s => if s then (0x7FC00000, fINV) else (0x7F800000, 0)
  | .fin s m e =>
    if m = 0 then (x, 0)
    else if s then (0x7FC00000, fINV)
    else
      let k : Nat := if e % 2 = 0 then 120 else 121
      let n := m * 2 ^ k
      let r := isqrtFrom n 76 0
      rn32 (.fin false (2 * r + (if r * r = n then 0 else 1)) ((e - (k : Int)) / 2 - 1))

/-- Quotient of finite non-zero values, rounded once to nearest FP32 (R381). -/
def div32 (a b : Nat) : Nat × Flags :=
  match v32 a, v32 b with
  | .fin s m e, .fin t n f =>
    if n = 0 then (0x7FC00000, fDZ)
    else rn32 (.fin (s != t) (2 * (m * 2 ^ 100 / n) + (if m * 2 ^ 100 % n = 0 then 0 else 1)) (e - f - 101))
  | _, _ => (0x7FC00000, 0)

def c32NaN : Nat := 0x7FC00000
def c32PInf : Nat := 0x7F800000
def c32NInf : Nat := 0xFF800000
def c32One : Nat := 0x3F800000

/-! ### Fixed-point reference of the transcendental functions -/

/-- Fraction bits of the reference. -/
def fxP : Nat := 256
/-- ln 2, log₂ e and √(2/π), times 2^256, rounded down. -/
def fxLn2 : Int := 80260960185991308862233904206310070533990667611589946606122867505419956976171
def fxLog2e : Int := 167052672916848388242985626561247531987276682633131050150846402744536260568207
def fxSqrt2Pi : Int := 92388720265562225100004042351473451001048276763068025688572742865826802514525
def fxOne : Int := 2 ^ 256

def fxMul (a b : Int) : Int := (a * b) / 2 ^ 256
def fxDiv (a b : Int) : Int := if b = 0 then 0 else (a * 2 ^ 256) / b

/-- A finite value as fixed point (bits below 2^-256 dropped). -/
def fxOf : Val → Int
  | .fin s m e =>
    let k : Int := if e + 256 ≥ 0 then (m <<< (e + 256).toNat : Nat) else (m >>> (-(e + 256)).toNat : Nat)
    if s then -k else k
  | _ => 0

def fxVal (x : Int) : Val := .fin (x < 0) x.natAbs (-256)

/-- Taylor sum of exp on [0, ln 2): fuel terms. -/
def fxExpSum : Nat → Int → Int → Int → Int → Int
  | 0, _, _, _, acc => acc
  | n + 1, x, term, k, acc => fxExpSum n x (fxMul term x / (k + 1)) (k + 1) (acc + term)

/-- exp2 of a fixed-point number, as a value: 2^floor × exp(frac × ln 2). -/
def fxExp2 (t : Int) : Val :=
  let n := t / 2 ^ 256
  let f := t - n * 2 ^ 256
  .fin false (fxExpSum 60 (fxMul f fxLn2) fxOne 0 0).toNat (n - 256)

/-- e^x of a finite value, as a value (x held within ±4096, where FP32 has long saturated). -/
def fxExp (x : Int) : Val :=
  let lim : Int := 4096 * 2 ^ 256
  fxExp2 (fxMul (max (-lim) (min lim x)) fxLog2e)

/-- Bits of log₂ y for y in [1, 2), by repeated squaring. -/
def fxLogBits : Nat → Int → Int → Int
  | 0, _, acc => acc
  | n + 1, y, acc =>
    let y2 := fxMul y y
    if y2 ≥ 2 * fxOne then fxLogBits n (y2 / 2) (2 * acc + 1) else fxLogBits n y2 (2 * acc)

/-- log₂ of a positive finite value, fixed point. -/
def fxLog2 (m : Nat) (e : Int) : Int :=
  let l := Nat.log2 m
  let y : Int := (m : Int) * 2 ^ 256 / 2 ^ l
  ((l : Int) + e) * 2 ^ 256 + (fxLogBits 96 y 0) * 2 ^ 160

/-- tanh of a fixed-point number. -/
def fxTanh (z : Int) : Int :=
  let lim : Int := 64 * 2 ^ 256
  let z := max (-lim) (min lim z)
  let a := fxOf (fxExp (2 * (if z < 0 then -z else z)))
  let t := fxDiv (a - fxOne) (a + fxOne)
  if z < 0 then -t else t

/-- The logistic sigmoid of a fixed-point number. -/
def fxSigmoid (z : Int) : Int :=
  let lim : Int := 120 * 2 ^ 256
  let z := max (-lim) (min lim z)
  fxDiv fxOne (fxOne + fxOf (fxExp (-z)))

/-- ln(1 + e^z). -/
def fxSoftplus (z : Int) : Int :=
  let lim : Int := 120 * 2 ^ 256
  if z > lim then z
  else if z < -lim then 0
  else
    match fxVal (fxOne + fxOf (fxExp z)) with
    | .fin _ m e => fxMul (fxLog2 m e) fxLn2
    | _ => 0

/-- φ(z) = √(2/π)(z + 0.044715 z³) of GELU (R112). -/
def fxPhi (z : Int) : Int :=
  fxMul fxSqrt2Pi (z + fxMul (44715 * 2 ^ 256 / 1000000) (fxMul z (fxMul z z)))

def fxGelu (z : Int) : Int := fxMul (z / 2) (fxOne + fxTanh (fxPhi z))

def fxGeluD (z : Int) : Int :=
  let t := fxTanh (fxPhi z)
  (fxOne + t) / 2 + fxMul (fxMul (z / 2) (fxOne - fxMul t t)) (fxMul fxSqrt2Pi (fxOne + fxMul (134145 * 2 ^ 256 / 1000000) (fxMul z z)))

/-- 2^e as a value. -/
def pow2Val (e : Int) : Val := .fin false 1 e

/-- Whether FP32 code `c` lies within `ulps` units in the last place of the exact value `v`, or within 2^-30 where that is wider
and the result lies below 2^-6 (`absolute`) (R112, R175). -/
def withinBound (ulps : Nat) (absolute : Bool) (v : Val) (c : Nat) : Bool :=
  match v32 c, v with
  | .fin s m e, .fin t n f =>
    let d := (Val.add (.fin s m e) (Val.neg (.fin t n f))).1.abs
    let top := if n = 0 then (-149 : Int) else max (Val.ilog2 v - 23) (-149)
    Val.le d (.fin false ulps top) ||
      (absolute && Val.lt v.abs (pow2Val (-6)) && Val.le d (pow2Val (-30)))
  | .inf s, .fin t n f => (s = t) && Val.le (pow2Val 128) (.fin false n f)
  | _, _ => false

/-- The result of a bounded function: the free code of the package where it keeps the bound, otherwise the nearest code of the
reference value. Every result the bound allows is some free code. -/
def boundedResult (op x ulps : Nat) (absolute : Bool) (v : Val) : Nat × Flags :=
  let c := Config.freeFunction op x % 2 ^ 32
  let (r, f) := rn32 v
  (if withinBound ulps absolute v c then c else r, f)

end Sys2Proof.Machine
end

