-- ==== Sys2Proof/Machine/OdTable.lean ====
section
/-! DEFINITION. The tables of the object dictionary (R456 to R482 and the tables of every chapter): one row for each sub-index, with
its type, access, size, named classes and stated range, and the defaults. A default the tables give as a dash is 0 here, unless the
assumption log says otherwise. -/

namespace Sys2Proof.Machine

/-- A row of an OD table: `base` to `base + count - 1` are its indexes (only those of a core id when `core`, R12); `queues` of a
queue entry gives the number of queues, whose sub-index is q × 16 + `sub` (R196); `ty` is the type code (R457), `acc` the access
(R458: 0 RO, 1 RW, 2 WO, 3 W1C, 4 AUTH), `size` in bytes, `cls` the classes the Meaning names (R461), `lo` to `hi` the range. -/
structure OdRow where
  base : Nat
  count : Nat
  core : Bool
  sub : Nat
  queues : Nat
  ty : Nat
  acc : Nat
  size : Nat
  cls : Nat
  lo : Nat
  hi : Nat
  deriving DecidableEq, Repr

/-- R37. -/
def odCore : List OdRow :=
  [⟨0x3000, 128, true, 0x01, 0, 8, 0, 1, 15, 0, 0xffffffffffffffff⟩,
   ⟨0x3000, 128, true, 0x02, 0, 1, 0, 1, 15, 0, 255⟩,
   ⟨0x3000, 128, true, 0x03, 0, 1, 0, 1, 15, 0, 255⟩]

/-- R87, R98. -/
def odArray : List OdRow :=
  [⟨0x3200, 128, true, 0x01, 0, 12, 0, 8, 15, 0, 0xffffffffffffffff⟩,
   ⟨0x3200, 128, true, 0x02, 0, 12, 0, 8, 15, 0, 0xffffffffffffffff⟩,
   ⟨0x3200, 128, true, 0x03, 0, 12, 0, 8, 15, 0, 0xffffffffffffffff⟩,
   ⟨0x3200, 128, true, 0x04, 0, 12, 0, 8, 15, 0, 0xffffffffffffffff⟩,
   ⟨0x3200, 128, true, 0x05, 0, 12, 0, 8, 15, 0, 0xffffffffffffffff⟩,
   ⟨0x3200, 128, true, 0x06, 0, 12, 0, 8, 15, 0, 0xffffffffffffffff⟩,
   ⟨0x3200, 128, true, 0x07, 0, 12, 0, 8, 15, 0, 0xffffffffffffffff⟩,
   ⟨0x9000, 1, false, 0x0A, 0, 8, 1, 1, 15, 0, 1⟩,
   ⟨0x9000, 1, false, 0x0B, 0, 1, 1, 1, 15, 1, 64⟩]

/-- R130, R131. -/
def odDrain : List OdRow :=
  [⟨0x3300, 128, true, 0x01, 0, 12, 0, 8, 15, 0, 0xffffffffffffffff⟩,
   ⟨0x3300, 128, true, 0x02, 0, 12, 0, 8, 15, 0, 0xffffffffffffffff⟩,
   ⟨0x3300, 128, true, 0x03, 0, 12, 0, 8, 15, 0, 0xffffffffffffffff⟩,
   ⟨0x3300, 128, true, 0x04, 0, 12, 0, 8, 15, 0, 0xffffffffffffffff⟩,
   ⟨0x3300, 128, true, 0x05, 0, 12, 0, 8, 15, 0, 0xffffffffffffffff⟩,
   ⟨0x3300, 128, true, 0x06, 0, 12, 0, 8, 15, 0, 0xffffffffffffffff⟩,
   ⟨0x3300, 128, true, 0x07, 0, 12, 0, 8, 15, 0, 0xffffffffffffffff⟩,
   ⟨0x3300, 128, true, 0x08, 0, 12, 0, 8, 15, 0, 0xffffffffffffffff⟩,
   ⟨0xF000, 1, false, 0x01, 0, 2, 1, 2, 15, 0, 0xffff⟩,
   ⟨0xF000, 1, false, 0x02, 0, 1, 1, 1, 15, 0, 1⟩,
   ⟨0xF000, 1, false, 0x03, 0, 2, 1, 2, 15, 0, 1023⟩,
   ⟨0xF000, 1, false, 0x04, 0, 8, 0, 1, 15, 0, 0xffffffffffffffff⟩,
   ⟨0xF000, 1, false, 0x05, 0, 11, 0, 512, 15, 0, 0xffffffffffffffff⟩,
   ⟨0xF000, 1, false, 0x06, 0, 9, 0, 8, 15, 0, 0xffffffffffffffff⟩,
   ⟨0xF000, 1, false, 0x07, 0, 7, 0, 1, 15, 0, 1⟩]

/-- R152, R161. -/
def odHawk : List OdRow :=
  [⟨0x9000, 1, false, 0x07, 0, 8, 1, 1, 15, 0, 1⟩,
   ⟨0x3200, 128, true, 0x08, 0, 12, 0, 8, 15, 0, 0xffffffffffffffff⟩,
   ⟨0x3200, 128, true, 0x09, 0, 12, 0, 8, 15, 0, 0xffffffffffffffff⟩,
   ⟨0x3200, 128, true, 0x0A, 0, 12, 0, 8, 15, 0, 0xffffffffffffffff⟩,
   ⟨0x3200, 128, true, 0x0B, 0, 12, 0, 8, 15, 0, 0xffffffffffffffff⟩]

/-- R193. -/
def odVector : List OdRow :=
  [⟨0x3400, 128, true, 0x01, 0, 12, 0, 8, 15, 0, 0xffffffffffffffff⟩,
   ⟨0x3400, 128, true, 0x02, 0, 12, 0, 8, 15, 0, 0xffffffffffffffff⟩,
   ⟨0x3400, 128, true, 0x03, 0, 12, 0, 8, 15, 0, 0xffffffffffffffff⟩,
   ⟨0x3400, 128, true, 0x04, 0, 12, 0, 8, 15, 0, 0xffffffffffffffff⟩,
   ⟨0x3400, 128, true, 0x05, 0, 12, 0, 8, 15, 0, 0xffffffffffffffff⟩,
   ⟨0x3400, 128, true, 0x06, 0, 12, 0, 8, 15, 0, 0xffffffffffffffff⟩,
   ⟨0x3480, 8, false, 0x01, 0, 12, 0, 8, 15, 0, 0xffffffffffffffff⟩,
   ⟨0x3480, 8, false, 0x02, 0, 12, 0, 8, 15, 0, 0xffffffffffffffff⟩,
   ⟨0x3480, 8, false, 0x03, 0, 12, 0, 8, 15, 0, 0xffffffffffffffff⟩,
   ⟨0x3480, 8, false, 0x04, 0, 12, 0, 8, 15, 0, 0xffffffffffffffff⟩,
   ⟨0x3480, 8, false, 0x05, 0, 12, 0, 8, 15, 0, 0xffffffffffffffff⟩,
   ⟨0x3480, 8, false, 0x06, 0, 12, 0, 8, 15, 0, 0xffffffffffffffff⟩,
   ⟨0x3480, 8, false, 0x07, 0, 12, 0, 8, 15, 0, 0xffffffffffffffff⟩,
   ⟨0x3480, 8, false, 0x08, 0, 12, 0, 8, 15, 0, 0xffffffffffffffff⟩]

/-- R196, R205, R212, R218, R220. -/
def odQueue : List OdRow :=
  [⟨0x3600, 128, true, 0x01, 16, 4, 1, 8, 15, 0, 0xffffffffffffffff⟩,
   ⟨0x3680, 8, false, 0x01, 8, 4, 1, 8, 15, 0, 0xffffffffffffffff⟩,
   ⟨0x3600, 128, true, 0x02, 16, 1, 1, 1, 15, 8, 16⟩,
   ⟨0x3680, 8, false, 0x02, 8, 1, 1, 1, 15, 8, 16⟩,
   ⟨0x3600, 128, true, 0x03, 16, 4, 1, 8, 15, 0, 0xffffffffffffffff⟩,
   ⟨0x3680, 8, false, 0x03, 8, 4, 1, 8, 15, 0, 0xffffffffffffffff⟩,
   ⟨0x3600, 128, true, 0x04, 16, 3, 1, 4, 15, 0, 0xffffffff⟩,
   ⟨0x3680, 8, false, 0x04, 8, 3, 1, 4, 15, 0, 0xffffffff⟩,
   ⟨0x3600, 128, true, 0x05, 16, 3, 1, 4, 15, 0, 0xffffffff⟩,
   ⟨0x3680, 8, false, 0x05, 8, 3, 1, 4, 15, 0, 0xffffffff⟩,
   ⟨0x3600, 128, true, 0x06, 16, 8, 0, 1, 15, 0, 0xffffffffffffffff⟩,
   ⟨0x3680, 8, false, 0x06, 8, 8, 0, 1, 15, 0, 0xffffffffffffffff⟩,
   ⟨0x3600, 128, true, 0x07, 16, 9, 3, 1, 15, 0, 0xffffffffffffffff⟩,
   ⟨0x3680, 8, false, 0x07, 8, 9, 3, 1, 15, 0, 0xffffffffffffffff⟩,
   ⟨0x3600, 128, true, 0x08, 16, 2, 0, 2, 15, 0, 0xffff⟩,
   ⟨0x9300, 1, false, 0x01, 0, 2, 1, 2, 15, 0, 0x3fff⟩,
   ⟨0x9300, 1, false, 0x02, 0, 3, 1, 4, 15, 0, 0xffffffff⟩,
   ⟨0x9000, 1, false, 0x03, 0, 11, 1, 2048, 1, 0, 0xffffffffffffffff⟩,
   ⟨0x9010, 16, false, 0x01, 0, 8, 0, 1, 15, 0, 0xffffffffffffffff⟩,
   ⟨0x9010, 16, false, 0x02, 0, 7, 2, 1, 15, 0, 1⟩,
   ⟨0x2300, 4, false, 0x01, 0, 4, 0, 8, 15, 0, 0xffffffffffffffff⟩,
   ⟨0x2300, 4, false, 0x02, 0, 2, 1, 2, 15, 10, 1000⟩,
   ⟨0x2300, 4, false, 0x03, 0, 2, 0, 2, 15, 0, 0xffff⟩,
   ⟨0x2300, 4, false, 0x04, 0, 2, 1, 2, 15, 10, 0xffff⟩,
   ⟨0x2300, 4, false, 0x05, 0, 12, 0, 8, 15, 0, 0xffffffffffffffff⟩,
   ⟨0x2300, 4, false, 0x06, 0, 12, 0, 8, 15, 0, 0xffffffffffffffff⟩,
   ⟨0x2300, 4, false, 0x07, 0, 12, 0, 8, 15, 0, 0xffffffffffffffff⟩,
   ⟨0x2300, 4, false, 0x08, 0, 12, 0, 8, 15, 0, 0xffffffffffffffff⟩,
   ⟨0x9000, 1, false, 0x08, 0, 3, 1, 4, 15, 0, 0xffffffff⟩]

/-- R268. -/
def odStack : List OdRow :=
  [⟨0x4000, 1, false, 0x01, 0, 4, 0, 8, 15, 0, 0xffffffffffffffff⟩,
   ⟨0x4000, 1, false, 0x02, 0, 1, 0, 1, 15, 0, 255⟩,
   ⟨0x4000, 1, false, 0x03, 0, 8, 0, 1, 15, 0, 0xffffffffffffffff⟩,
   ⟨0x4000, 1, false, 0x04, 0, 2, 0, 2, 15, 0, 0xffff⟩,
   ⟨0x4000, 1, false, 0x05, 0, 2, 1, 2, 15, 50, 2000⟩,
   ⟨0x4000, 1, false, 0x06, 0, 2, 1, 2, 15, 1, 168⟩,
   ⟨0x4000, 1, false, 0x07, 0, 2, 1, 2, 15, 0, 4095⟩,
   ⟨0x4000, 1, false, 0x08, 0, 3, 0, 4, 15, 0, 0xffffffff⟩,
   ⟨0x4000, 1, false, 0x09, 0, 1, 4, 1, 2, 0, 23⟩,
   ⟨0x4000, 1, false, 0x0A, 0, 2, 1, 2, 15, 1, 1000⟩,
   ⟨0x4100, 24, false, 0x01, 0, 8, 0, 1, 15, 0, 0xffffffffffffffff⟩,
   ⟨0x4100, 24, false, 0x02, 0, 12, 0, 8, 15, 0, 0xffffffffffffffff⟩,
   ⟨0x4100, 24, false, 0x03, 0, 12, 0, 8, 15, 0, 0xffffffffffffffff⟩,
   ⟨0x4100, 24, false, 0x04, 0, 9, 0, 4, 15, 0, 0xffffffffffffffff⟩,
   ⟨0x4100, 24, false, 0x05, 0, 12, 0, 8, 15, 0, 0xffffffffffffffff⟩,
   ⟨0x4100, 24, false, 0x06, 0, 2, 0, 2, 15, 0, 0xffff⟩,
   ⟨0x4100, 24, false, 0x07, 0, 12, 0, 8, 15, 0, 0xffffffffffffffff⟩]

/-- R285. -/
def odDieLink : List OdRow :=
  [⟨0x3800, 4, false, 0x01, 0, 11, 0, 64, 15, 0, 0xffffffffffffffff⟩,
   ⟨0x3800, 4, false, 0x02, 0, 1, 0, 1, 15, 0, 255⟩,
   ⟨0x3800, 4, false, 0x03, 0, 1, 0, 1, 15, 0, 255⟩,
   ⟨0x3800, 4, false, 0x04, 0, 1, 0, 1, 15, 0, 255⟩,
   ⟨0x3800, 4, false, 0x05, 0, 12, 0, 8, 15, 0, 0xffffffffffffffff⟩,
   ⟨0x3800, 4, false, 0x06, 0, 7, 0, 1, 15, 0, 1⟩,
   ⟨0x3800, 4, false, 0x07, 0, 11, 1, 64, 2, 0, 0xffffffffffffffff⟩,
   ⟨0x3800, 4, false, 0x08, 0, 1, 4, 1, 2, 0, 63⟩,
   ⟨0x3900, 256, false, 0x01, 0, 1, 0, 1, 15, 0, 255⟩,
   ⟨0x3900, 256, false, 0x02, 0, 9, 0, 9, 15, 0, 0xffffffffffffffff⟩,
   ⟨0x3900, 256, false, 0x03, 0, 12, 0, 8, 15, 0, 0xffffffffffffffff⟩,
   ⟨0x3900, 256, false, 0x04, 0, 12, 0, 8, 15, 0, 0xffffffffffffffff⟩,
   ⟨0x3900, 256, false, 0x05, 0, 12, 0, 8, 15, 0, 0xffffffffffffffff⟩,
   ⟨0x3A00, 1, false, 0x01, 0, 1, 1, 1, 15, 1, 64⟩,
   ⟨0x3A00, 1, false, 0x02, 0, 1, 1, 1, 15, 1, 64⟩,
   ⟨0x3A00, 1, false, 0x03, 0, 1, 1, 1, 15, 1, 64⟩,
   ⟨0x3A00, 1, false, 0x04, 0, 1, 1, 1, 15, 1, 64⟩,
   ⟨0x3A00, 1, false, 0x05, 0, 1, 1, 1, 15, 1, 64⟩,
   ⟨0x3A00, 1, false, 0x06, 0, 12, 0, 8, 15, 0, 0xffffffffffffffff⟩,
   ⟨0x3A00, 1, false, 0x07, 0, 12, 0, 8, 15, 0, 0xffffffffffffffff⟩]

/-- R317. -/
def odFabric : List OdRow :=
  [⟨0x5000, 1, false, 0x01, 0, 3, 1, 4, 3, 0, 0xfffff⟩,
   ⟨0x5000, 1, false, 0x02, 0, 8, 0, 1, 15, 0, 0xffffffffffffffff⟩,
   ⟨0x5000, 1, false, 0x03, 0, 2, 1, 2, 15, 20, 0x2710⟩,
   ⟨0x5000, 1, false, 0x04, 0, 2, 1, 2, 15, 20, 0x4e20⟩,
   ⟨0x5000, 1, false, 0x05, 0, 1, 1, 1, 15, 1, 15⟩,
   ⟨0x5000, 1, false, 0x06, 0, 2, 1, 2, 15, 2, 1000⟩,
   ⟨0x5000, 1, false, 0x07, 0, 2, 1, 2, 15, 10, 2000⟩,
   ⟨0x5000, 1, false, 0x08, 0, 1, 1, 1, 15, 2, 100⟩,
   ⟨0x5000, 1, false, 0x09, 0, 2, 1, 2, 15, 100, 0xffff⟩,
   ⟨0x5000, 1, false, 0x0A, 0, 2, 1, 2, 15, 1024, 0x6000⟩,
   ⟨0x5000, 1, false, 0x0B, 0, 2, 0, 2, 15, 0, 0xffff⟩,
   ⟨0x5000, 1, false, 0x0C, 0, 4, 1, 8, 15, 0, 0xffffffffffffffff⟩,
   ⟨0x5000, 1, false, 0x0D, 0, 1, 1, 1, 15, 0, 16⟩,
   ⟨0x5000, 1, false, 0x0E, 0, 3, 1, 4, 15, 0, 0xffffffff⟩,
   ⟨0x5000, 1, false, 0x0F, 0, 3, 0, 4, 15, 0, 0xffffffff⟩,
   ⟨0x5000, 1, false, 0x10, 0, 12, 0, 8, 15, 0, 0xffffffffffffffff⟩,
   ⟨0x5000, 1, false, 0x11, 0, 12, 0, 8, 15, 0, 0xffffffffffffffff⟩,
   ⟨0x5000, 1, false, 0x12, 0, 12, 0, 8, 15, 0, 0xffffffffffffffff⟩,
   ⟨0x5000, 1, false, 0x13, 0, 12, 0, 8, 15, 0, 0xffffffffffffffff⟩,
   ⟨0x5000, 1, false, 0x14, 0, 12, 0, 8, 15, 0, 0xffffffffffffffff⟩,
   ⟨0x5000, 1, false, 0x15, 0, 3, 0, 4, 15, 0, 0xffffffff⟩,
   ⟨0x5000, 1, false, 0x16, 0, 2, 0, 2, 15, 0, 0xffff⟩,
   ⟨0x5100, 1, false, 0x01, 0, 11, 1, 16, 15, 0, 0xffffffffffffffff⟩,
   ⟨0x5100, 1, false, 0x02, 0, 11, 1, 2048, 15, 0, 0xffffffffffffffff⟩,
   ⟨0x5100, 1, false, 0x03, 0, 11, 1, 2048, 15, 0, 0xffffffffffffffff⟩,
   ⟨0x5100, 1, false, 0x04, 0, 7, 2, 1, 15, 0, 1⟩,
   ⟨0x5100, 1, false, 0x05, 0, 3, 0, 4, 15, 0, 0xffffffff⟩,
   ⟨0x5100, 1, false, 0x06, 0, 3, 0, 4, 15, 0, 0xffffffff⟩,
   ⟨0x5100, 1, false, 0x07, 0, 11, 0, 4112, 15, 0, 0xffffffffffffffff⟩,
   ⟨0x5200, 16, false, 0x01, 0, 8, 0, 1, 15, 0, 0xffffffffffffffff⟩]

/-- R317. -/
def odFabric2 : List OdRow :=
  [⟨0x5200, 16, false, 0x02, 0, 8, 1, 1, 2, 0, 1⟩,
   ⟨0x5200, 16, false, 0x03, 0, 3, 0, 4, 15, 0, 0xffffffff⟩,
   ⟨0x5200, 16, false, 0x04, 0, 3, 0, 4, 15, 0, 0xffffffff⟩,
   ⟨0x5200, 16, false, 0x05, 0, 12, 0, 8, 15, 0, 0xffffffffffffffff⟩,
   ⟨0x5200, 16, false, 0x06, 0, 12, 0, 8, 15, 0, 0xffffffffffffffff⟩,
   ⟨0x5200, 16, false, 0x07, 0, 12, 0, 8, 15, 0, 0xffffffffffffffff⟩,
   ⟨0x5200, 16, false, 0x08, 0, 12, 0, 8, 15, 0, 0xffffffffffffffff⟩,
   ⟨0x5200, 16, false, 0x09, 0, 12, 0, 8, 15, 0, 0xffffffffffffffff⟩]

/-- R347. -/
def odPort : List OdRow :=
  [⟨0x5200, 16, false, 0x0A, 0, 11, 0, 18, 15, 0, 0xffffffffffffffff⟩,
   ⟨0x5200, 16, false, 0x0B, 0, 11, 0, 18, 15, 0, 0xffffffffffffffff⟩,
   ⟨0x5200, 16, false, 0x0C, 0, 7, 1, 1, 2, 0, 1⟩,
   ⟨0x5200, 16, false, 0x0D, 0, 7, 0, 1, 15, 0, 1⟩,
   ⟨0x5200, 16, false, 0x0E, 0, 12, 0, 8, 15, 0, 0xffffffffffffffff⟩,
   ⟨0x5200, 16, false, 0x0F, 0, 12, 0, 8, 15, 0, 0xffffffffffffffff⟩,
   ⟨0x5200, 16, false, 0x10, 0, 12, 0, 8, 15, 0, 0xffffffffffffffff⟩,
   ⟨0x5300, 1, false, 0x01, 0, 11, 1, 64, 3, 0, 0xffffffffffffffff⟩,
   ⟨0x5300, 1, false, 0x02, 0, 2, 1, 2, 15, 10, 0x2710⟩,
   ⟨0x5300, 1, false, 0x03, 0, 9, 2, 2, 15, 0, 0xffffffffffffffff⟩,
   ⟨0x5310, 1, false, 0x01, 0, 11, 0, 128, 15, 0, 0xffffffffffffffff⟩,
   ⟨0x5310, 1, false, 0x02, 0, 4, 0, 8, 15, 0, 0xffffffffffffffff⟩,
   ⟨0x5310, 1, false, 0x03, 0, 12, 0, 8, 15, 0, 0xffffffffffffffff⟩,
   ⟨0x5400, 16, false, 0x01, 0, 5, 0, 4, 15, 0, 0xffffffff⟩,
   ⟨0x5400, 16, false, 0x02, 0, 5, 0, 4, 15, 0, 0xffffffff⟩,
   ⟨0x5400, 16, false, 0x03, 0, 5, 0, 4, 15, 0, 0xffffffff⟩,
   ⟨0x5400, 16, false, 0x04, 0, 5, 0, 4, 15, 0, 0xffffffff⟩,
   ⟨0x5400, 16, false, 0x05, 0, 2, 1, 2, 15, 1, 1000⟩,
   ⟨0x5400, 16, false, 0x06, 0, 3, 0, 4, 15, 0, 0xffffffff⟩,
   ⟨0x5400, 16, false, 0x07, 0, 2, 1, 2, 15, 20, 1000⟩,
   ⟨0x5400, 16, false, 0x08, 0, 2, 0, 2, 15, 0, 0xffff⟩,
   ⟨0x5400, 16, false, 0x09, 0, 2, 1, 2, 15, 0, 1000⟩,
   ⟨0x5400, 16, false, 0x0A, 0, 2, 1, 2, 15, 0, 60⟩,
   ⟨0x5400, 16, false, 0x0B, 0, 1, 1, 1, 15, 0, 17⟩,
   ⟨0x5400, 16, false, 0x0C, 0, 8, 0, 1, 15, 0, 0xffffffffffffffff⟩,
   ⟨0x5400, 16, false, 0x0D, 0, 3, 0, 4, 15, 0, 0xffffffff⟩,
   ⟨0x5400, 16, false, 0x0E, 0, 5, 0, 4, 15, 0, 0xffffffff⟩,
   ⟨0x5400, 16, false, 0x0F, 0, 8, 0, 1, 15, 0, 0xffffffffffffffff⟩,
   ⟨0x5400, 16, false, 0x10, 0, 3, 0, 4, 15, 0, 0xffffffff⟩,
   ⟨0x5400, 16, false, 0x11, 0, 5, 0, 4, 15, 0, 0xffffffff⟩]

/-- R347. -/
def odPort2 : List OdRow :=
  [⟨0x5400, 16, false, 0x12, 0, 2, 0, 2, 15, 0, 0xffff⟩,
   ⟨0x5400, 16, false, 0x13, 0, 2, 0, 2, 15, 0, 0xffff⟩,
   ⟨0x5400, 16, false, 0x14, 0, 6, 0, 4, 15, 0, 0xffffffff⟩,
   ⟨0x5400, 16, false, 0x15, 0, 12, 0, 8, 15, 0, 0xffffffffffffffff⟩,
   ⟨0x5400, 16, false, 0x16, 0, 12, 0, 8, 15, 0, 0xffffffffffffffff⟩]

/-- R353, R373, R382, R389. -/
def odCollective : List OdRow :=
  [⟨0x9100, 64, false, 0x01, 0, 8, 0, 1, 15, 0, 0xffffffffffffffff⟩,
   ⟨0x9100, 64, false, 0x02, 0, 11, 1, 32, 1, 0, 0xffffffffffffffff⟩,
   ⟨0x9100, 64, false, 0x03, 0, 1, 2, 1, 15, 0, 1⟩,
   ⟨0x9100, 64, false, 0x04, 0, 11, 0, 32, 15, 0, 0xffffffffffffffff⟩,
   ⟨0x9100, 64, false, 0x05, 0, 13, 0, 4, 15, 0, 0xffffffff⟩,
   ⟨0x9100, 64, false, 0x06, 0, 1, 0, 1, 15, 0, 255⟩,
   ⟨0x9200, 1, false, 0x01, 0, 11, 1, 2048, 1, 0, 0xffffffffffffffff⟩,
   ⟨0x9200, 1, false, 0x02, 0, 2, 0, 2, 15, 0, 0xffff⟩,
   ⟨0x9000, 1, false, 0x0C, 0, 6, 1, 4, 15, 0, 0xffffffff⟩,
   ⟨0x9000, 1, false, 0x0D, 0, 7, 1, 1, 15, 0, 1⟩,
   ⟨0x9000, 1, false, 0x0E, 0, 7, 1, 1, 15, 0, 1⟩,
   ⟨0x9000, 1, false, 0x0F, 0, 6, 1, 4, 15, 0, 0xffffffff⟩,
   ⟨0x9000, 1, false, 0x10, 0, 6, 1, 4, 15, 0, 0xffffffff⟩,
   ⟨0x9100, 64, false, 0x07, 0, 12, 0, 8, 15, 0, 0xffffffffffffffff⟩,
   ⟨0x9100, 64, false, 0x08, 0, 12, 0, 8, 15, 0, 0xffffffffffffffff⟩,
   ⟨0x9100, 64, false, 0x09, 0, 12, 0, 8, 15, 0, 0xffffffffffffffff⟩,
   ⟨0x9100, 64, false, 0x0A, 0, 12, 0, 8, 15, 0, 0xffffffffffffffff⟩,
   ⟨0x9100, 64, false, 0x0B, 0, 12, 0, 8, 15, 0, 0xffffffffffffffff⟩,
   ⟨0x9100, 64, false, 0x0C, 0, 12, 0, 8, 15, 0, 0xffffffffffffffff⟩,
   ⟨0x9100, 64, false, 0x0D, 0, 12, 0, 8, 15, 0, 0xffffffffffffffff⟩,
   ⟨0x5200, 16, false, 0x11, 0, 7, 0, 1, 15, 0, 1⟩]

/-- R408. -/
def odJob : List OdRow :=
  [⟨0x9000, 1, false, 0x09, 0, 3, 1, 4, 15, 128, 0x100000⟩,
   ⟨0x9000, 1, false, 0x11, 0, 2, 1, 2, 1, 0, 2048⟩]

/-- R426. -/
def odPower : List OdRow :=
  [⟨0x2100, 1, false, 0x01, 0, 2, 1, 2, 3, 0, 5600⟩,
   ⟨0x2100, 1, false, 0x02, 0, 4, 1, 8, 15, 0, 0xffffffffffffffff⟩,
   ⟨0x2100, 1, false, 0x03, 0, 2, 1, 2, 2, 2400, 5600⟩,
   ⟨0x2100, 1, false, 0x04, 0, 8, 1, 1, 15, 0, 1⟩,
   ⟨0x2100, 1, false, 0x05, 0, 9, 0, 1, 15, 0, 0xffffffffffffffff⟩,
   ⟨0x2100, 1, false, 0x06, 0, 7, 1, 1, 2, 0, 1⟩,
   ⟨0x2100, 1, false, 0x07, 0, 3, 0, 4, 15, 0, 0xffffffff⟩,
   ⟨0x2100, 1, false, 0x08, 0, 3, 0, 4, 15, 0, 0xffffffff⟩,
   ⟨0x2100, 1, false, 0x09, 0, 2, 0, 2, 15, 0, 0xffff⟩,
   ⟨0x2100, 1, false, 0x0A, 0, 1, 0, 1, 15, 0, 255⟩,
   ⟨0x2100, 1, false, 0x0B, 0, 12, 0, 8, 15, 0, 0xffffffffffffffff⟩,
   ⟨0x2100, 1, false, 0x0C, 0, 12, 0, 8, 15, 0, 0xffffffffffffffff⟩,
   ⟨0x2200, 1, false, 0x01, 0, 5, 0, 4, 15, 0, 0xffffffff⟩,
   ⟨0x2200, 1, false, 0x02, 0, 3, 0, 4, 15, 0, 0xffffffff⟩,
   ⟨0x2200, 1, false, 0x03, 0, 5, 0, 4, 15, 0, 0xffffffff⟩,
   ⟨0x2200, 1, false, 0x04, 0, 5, 0, 4, 15, 0, 0xffffffff⟩,
   ⟨0x2200, 1, false, 0x05, 0, 3, 1, 4, 15, 0, 0xffffffff⟩,
   ⟨0x2200, 1, false, 0x06, 0, 5, 0, 4, 15, 0, 0xffffffff⟩,
   ⟨0x2200, 1, false, 0x07, 0, 3, 0, 4, 15, 0, 0xffffffff⟩,
   ⟨0x2200, 1, false, 0x08, 0, 3, 0, 4, 15, 0, 0xffffffff⟩,
   ⟨0x2200, 1, false, 0x09, 0, 3, 0, 4, 15, 0, 0xffffffff⟩,
   ⟨0x2200, 1, false, 0x0A, 0, 3, 0, 4, 15, 0, 0xffffffff⟩,
   ⟨0x2200, 1, false, 0x0B, 0, 3, 1, 4, 15, 0, 0xffffffff⟩,
   ⟨0x2200, 1, false, 0x0C, 0, 3, 0, 4, 15, 0, 0xffffffff⟩,
   ⟨0x2200, 1, false, 0x0D, 0, 3, 0, 4, 15, 0, 0xffffffff⟩,
   ⟨0x2300, 4, false, 0x09, 0, 2, 1, 2, 15, 400, 1650⟩,
   ⟨0x2300, 4, false, 0x0A, 0, 2, 1, 2, 15, 1000, 1800⟩,
   ⟨0x2300, 4, false, 0x0B, 0, 2, 0, 2, 15, 0, 0xffff⟩,
   ⟨0x2300, 4, false, 0x0C, 0, 2, 0, 2, 15, 0, 0xffff⟩,
   ⟨0x2300, 4, false, 0x0D, 0, 2, 0, 2, 15, 0, 0xffff⟩]

/-- R426. -/
def odPower2 : List OdRow :=
  [⟨0x2300, 4, false, 0x0E, 0, 12, 0, 8, 15, 0, 0xffffffffffffffff⟩,
   ⟨0x2300, 4, false, 0x0F, 0, 12, 0, 8, 15, 0, 0xffffffffffffffff⟩,
   ⟨0x2400, 1, false, 0x01, 0, 5, 1, 4, 15, 0, 0xffffffff⟩,
   ⟨0x2400, 1, false, 0x02, 0, 5, 1, 4, 15, 0, 0xffffffff⟩,
   ⟨0x2400, 1, false, 0x03, 0, 5, 0, 4, 15, 0, 0xffffffff⟩,
   ⟨0x2400, 1, false, 0x04, 0, 5, 1, 4, 15, 0, 0xffffffff⟩,
   ⟨0x2400, 1, false, 0x05, 0, 5, 1, 4, 15, 0, 0xffffffff⟩,
   ⟨0x2400, 1, false, 0x06, 0, 5, 0, 4, 15, 0, 0xffffffff⟩,
   ⟨0x2400, 1, false, 0x07, 0, 5, 1, 4, 15, 0, 0xffffffff⟩,
   ⟨0x2400, 1, false, 0x08, 0, 5, 1, 4, 15, 0, 0xffffffff⟩,
   ⟨0x2400, 1, false, 0x09, 0, 5, 0, 4, 15, 0, 0xffffffff⟩,
   ⟨0xA001, 3, false, 0x01, 0, 3, 0, 4, 15, 0, 0xffffffff⟩,
   ⟨0xA010, 16, false, 0x01, 0, 3, 0, 4, 15, 0, 0xffffffff⟩,
   ⟨0xA020, 16, false, 0x01, 0, 3, 0, 4, 15, 0, 0xffffffff⟩,
   ⟨0xA001, 3, false, 0x02, 0, 4, 0, 8, 15, 0, 0xffffffffffffffff⟩,
   ⟨0xA010, 16, false, 0x02, 0, 4, 0, 8, 15, 0, 0xffffffffffffffff⟩,
   ⟨0xA020, 16, false, 0x02, 0, 4, 0, 8, 15, 0, 0xffffffffffffffff⟩,
   ⟨0xA001, 3, false, 0x03, 0, 8, 0, 1, 15, 0, 0xffffffffffffffff⟩,
   ⟨0xA010, 16, false, 0x03, 0, 8, 0, 1, 15, 0, 0xffffffffffffffff⟩,
   ⟨0xA020, 16, false, 0x03, 0, 8, 0, 1, 15, 0, 0xffffffffffffffff⟩,
   ⟨0xA001, 3, false, 0x04, 0, 12, 0, 8, 15, 0, 0xffffffffffffffff⟩,
   ⟨0xA010, 16, false, 0x04, 0, 12, 0, 8, 15, 0, 0xffffffffffffffff⟩,
   ⟨0xA020, 16, false, 0x04, 0, 12, 0, 8, 15, 0, 0xffffffffffffffff⟩,
   ⟨0xA001, 3, false, 0x05, 0, 7, 2, 1, 2, 0, 1⟩,
   ⟨0xA010, 16, false, 0x05, 0, 7, 2, 1, 2, 0, 1⟩,
   ⟨0xA020, 16, false, 0x05, 0, 7, 2, 1, 2, 0, 1⟩]

/-- R431, R432, R443, R444, R447. -/
def odFault : List OdRow :=
  [⟨0x7100, 1, false, 0x01, 0, 13, 0, 4, 15, 0, 0xffffffff⟩,
   ⟨0x7100, 1, false, 0x02, 0, 3, 1, 4, 1, 0, 0xffffffff⟩,
   ⟨0x7100, 1, false, 0x03, 0, 11, 0, 64, 15, 0, 0xffffffffffffffff⟩,
   ⟨0x7100, 1, false, 0x04, 0, 3, 1, 4, 2, 0, 0xffffffff⟩,
   ⟨0x7100, 1, false, 0x05, 0, 11, 0, 64, 15, 0, 0xffffffffffffffff⟩,
   ⟨0x7100, 1, false, 0x06, 0, 12, 0, 8, 15, 0, 0xffffffffffffffff⟩,
   ⟨0x7100, 1, false, 0x07, 0, 12, 0, 8, 15, 0, 0xffffffffffffffff⟩,
   ⟨0x7100, 1, false, 0x08, 0, 12, 0, 8, 15, 0, 0xffffffffffffffff⟩,
   ⟨0x7000, 1, false, 0x01, 0, 9, 0, 32, 15, 0, 0xffffffffffffffff⟩,
   ⟨0x7000, 1, false, 0x02, 0, 9, 3, 32, 3, 0, 0xffffffffffffffff⟩,
   ⟨0x7000, 1, false, 0x03, 0, 12, 0, 8, 15, 0, 0xffffffffffffffff⟩,
   ⟨0x7200, 1, false, 0x01, 0, 2, 1, 2, 15, 1, 168⟩,
   ⟨0x7200, 1, false, 0x02, 0, 3, 0, 4, 15, 0, 0xffffffff⟩,
   ⟨0x7200, 1, false, 0x03, 0, 2, 1, 2, 15, 1, 1440⟩,
   ⟨0x7200, 1, false, 0x04, 0, 12, 0, 8, 15, 0, 0xffffffffffffffff⟩,
   ⟨0x7200, 1, false, 0x05, 0, 12, 0, 8, 15, 0, 0xffffffffffffffff⟩,
   ⟨0x7200, 1, false, 0x06, 0, 1, 0, 1, 15, 0, 255⟩,
   ⟨0x7200, 1, false, 0x07, 0, 12, 0, 8, 15, 0, 0xffffffffffffffff⟩,
   ⟨0x7200, 1, false, 0x08, 0, 12, 0, 8, 15, 0, 0xffffffffffffffff⟩,
   ⟨0x7200, 1, false, 0x09, 0, 1, 4, 1, 2, 0, 127⟩,
   ⟨0x7200, 1, false, 0x0A, 0, 1, 4, 1, 2, 0, 127⟩,
   ⟨0x7200, 1, false, 0x0B, 0, 1, 0, 1, 15, 0, 255⟩,
   ⟨0x7200, 1, false, 0x0C, 0, 3, 0, 4, 15, 0, 0xffffffff⟩,
   ⟨0x7200, 1, false, 0x0D, 0, 1, 0, 1, 15, 0, 255⟩,
   ⟨0x7200, 1, false, 0x0E, 0, 1, 1, 1, 15, 1, 16⟩,
   ⟨0x7200, 1, false, 0x0F, 0, 11, 4, 0x100000, 2, 0, 0xffffffffffffffff⟩,
   ⟨0x7200, 1, false, 0x10, 0, 1, 1, 1, 15, 0, 127⟩,
   ⟨0x7300, 1, false, 0x01, 0, 2, 1, 2, 3, 0, 256⟩,
   ⟨0x7300, 1, false, 0x02, 0, 12, 0, 8, 15, 0, 0xffffffffffffffff⟩,
   ⟨0x7400, 1, false, 0x01, 0, 3, 2, 4, 15, 0, 0xffffffff⟩]

/-- R453. -/
def odFault2 : List OdRow :=
  [⟨0x7A00, 1, false, 0x01, 0, 7, 1, 1, 15, 0, 1⟩,
   ⟨0x7A00, 1, false, 0x02, 0, 4, 1, 8, 15, 0, 0xffffffffffffffff⟩,
   ⟨0x7A00, 1, false, 0x03, 0, 11, 4, 0, 2, 0, 0xffffffffffffffff⟩,
   ⟨0x7A00, 1, false, 0x04, 0, 12, 0, 8, 15, 0, 0xffffffffffffffff⟩,
   ⟨0x7A00, 1, false, 0x05, 0, 4, 0, 8, 15, 0, 0xffffffffffffffff⟩,
   ⟨0x7A00, 1, false, 0x06, 0, 11, 0, 64, 15, 0, 0xffffffffffffffff⟩,
   ⟨0x7A00, 1, false, 0x07, 0, 4, 0, 8, 15, 0, 0xffffffffffffffff⟩,
   ⟨0x7A00, 1, false, 0x08, 0, 1, 0, 1, 15, 0, 255⟩,
   ⟨0x7A00, 1, false, 0x09, 0, 2, 1, 2, 15, 1, 600⟩,
   ⟨0x7A10, 1, false, 0x01, 0, 4, 1, 8, 15, 0, 0xffffffffffffffff⟩,
   ⟨0x7A10, 1, false, 0x02, 0, 11, 0, 64, 15, 0, 0xffffffffffffffff⟩,
   ⟨0x7A10, 1, false, 0x03, 0, 4, 0, 8, 15, 0, 0xffffffffffffffff⟩]

/-- R480, R481, R482. -/
def odIdentity : List OdRow :=
  [⟨0x1000, 1, false, 0x01, 0, 10, 0, 7, 15, 0, 0xffffffffffffffff⟩,
   ⟨0x1000, 1, false, 0x02, 0, 4, 0, 8, 15, 0, 0xffffffffffffffff⟩,
   ⟨0x1000, 1, false, 0x03, 0, 4, 0, 8, 15, 0, 0xffffffffffffffff⟩,
   ⟨0x1000, 1, false, 0x04, 0, 2, 0, 2, 15, 0, 0xffff⟩,
   ⟨0x1000, 1, false, 0x05, 0, 4, 0, 8, 15, 0, 0xffffffffffffffff⟩,
   ⟨0x1000, 1, false, 0x06, 0, 10, 0, 7, 15, 0, 0xffffffffffffffff⟩,
   ⟨0x1000, 1, false, 0x07, 0, 4, 0, 8, 15, 0, 0xffffffffffffffff⟩,
   ⟨0x1000, 1, false, 0x08, 0, 2, 0, 2, 15, 0, 0xffff⟩,
   ⟨0x9000, 1, false, 0x01, 0, 4, 1, 8, 15, 0, 0xffffffffffffffff⟩,
   ⟨0x9000, 1, false, 0x02, 0, 4, 1, 8, 15, 0, 0xffffffffffffffff⟩,
   ⟨0x9000, 1, false, 0x04, 0, 4, 1, 8, 15, 0, 0xffffffffffffffff⟩,
   ⟨0x6200, 1, false, 0x01, 0, 2, 1, 2, 1, 0, 0x3000⟩,
   ⟨0x6200, 1, false, 0x02, 0, 12, 0, 8, 15, 0, 0xffffffffffffffff⟩,
   ⟨0x6800, 1, false, 0x01, 0, 8, 0, 1, 15, 0, 0xffffffffffffffff⟩,
   ⟨0x6800, 1, false, 0x02, 0, 1, 0, 1, 15, 0, 255⟩,
   ⟨0x6800, 1, false, 0x03, 0, 1, 1, 1, 2, 2, 17⟩,
   ⟨0x6800, 1, false, 0x04, 0, 1, 1, 1, 2, 16, 255⟩,
   ⟨0x6800, 1, false, 0x05, 0, 12, 0, 8, 15, 0, 0xffffffffffffffff⟩,
   ⟨0x6800, 1, false, 0x06, 0, 11, 1, 64, 1, 0, 0xffffffffffffffff⟩,
   ⟨0x6800, 1, false, 0x07, 0, 1, 0, 1, 15, 0, 255⟩,
   ⟨0x6800, 1, false, 0x08, 0, 12, 0, 8, 15, 0, 0xffffffffffffffff⟩,
   ⟨0x6800, 1, false, 0x09, 0, 12, 0, 8, 15, 0, 0xffffffffffffffff⟩,
   ⟨0x6800, 1, false, 0x0A, 0, 12, 0, 8, 15, 0, 0xffffffffffffffff⟩]

/-- R505, R509. -/
def odHost : List OdRow :=
  [⟨0x8100, 1, false, 0x01, 0, 11, 0, 32, 15, 0, 0xffffffffffffffff⟩,
   ⟨0x8100, 1, false, 0x02, 0, 11, 1, 32, 1, 0, 0xffffffffffffffff⟩,
   ⟨0x8100, 1, false, 0x03, 0, 11, 0, 16, 15, 0, 0xffffffffffffffff⟩,
   ⟨0x8100, 1, false, 0x04, 0, 8, 4, 1, 15, 0, 0⟩,
   ⟨0x8100, 1, false, 0x05, 0, 1, 0, 1, 15, 0, 255⟩,
   ⟨0x8100, 1, false, 0x06, 0, 11, 0, 64, 15, 0, 0xffffffffffffffff⟩,
   ⟨0x8100, 1, false, 0x07, 0, 11, 0, 64, 15, 0, 0xffffffffffffffff⟩,
   ⟨0x8100, 1, false, 0x08, 0, 8, 0, 1, 15, 0, 0xffffffffffffffff⟩,
   ⟨0x8100, 1, false, 0x09, 0, 4, 0, 8, 15, 0, 0xffffffffffffffff⟩,
   ⟨0x6000, 1, false, 0x01, 0, 8, 0, 1, 15, 0, 0xffffffffffffffff⟩,
   ⟨0x6000, 1, false, 0x02, 0, 1, 0, 1, 15, 0, 255⟩,
   ⟨0x6000, 1, false, 0x03, 0, 1, 0, 1, 15, 0, 255⟩,
   ⟨0x6000, 1, false, 0x04, 0, 9, 0, 1, 15, 0, 0xffffffffffffffff⟩,
   ⟨0x6000, 1, false, 0x05, 0, 12, 0, 8, 15, 0, 0xffffffffffffffff⟩,
   ⟨0x6000, 1, false, 0x06, 0, 12, 0, 8, 15, 0, 0xffffffffffffffff⟩,
   ⟨0x6000, 1, false, 0x07, 0, 12, 0, 8, 15, 0, 0xffffffffffffffff⟩,
   ⟨0x6000, 1, false, 0x08, 0, 12, 0, 8, 15, 0, 0xffffffffffffffff⟩,
   ⟨0x6000, 1, false, 0x09, 0, 12, 0, 8, 15, 0, 0xffffffffffffffff⟩,
   ⟨0x6100, 1, false, 0x01, 0, 3, 1, 4, 1, 100, 0xea60⟩,
   ⟨0x6100, 1, false, 0x02, 0, 8, 0, 1, 15, 0, 0xffffffffffffffff⟩,
   ⟨0x6100, 1, false, 0x03, 0, 3, 0, 4, 15, 0, 0xffffffff⟩,
   ⟨0x6100, 1, false, 0x04, 0, 12, 0, 8, 15, 0, 0xffffffffffffffff⟩,
   ⟨0x6300, 1, false, 0x01, 0, 4, 1, 8, 1, 0, 0xffffffffffffffff⟩,
   ⟨0x6300, 1, false, 0x02, 0, 2, 1, 2, 1, 0, 1024⟩,
   ⟨0x6300, 1, false, 0x03, 0, 7, 0, 1, 15, 0, 1⟩,
   ⟨0x6300, 1, false, 0x04, 0, 12, 0, 8, 15, 0, 0xffffffffffffffff⟩,
   ⟨0x6300, 1, false, 0x05, 0, 12, 0, 8, 15, 0, 0xffffffffffffffff⟩,
   ⟨0x6400, 1, false, 0x01, 0, 11, 1, 256, 1, 0, 0xffffffffffffffff⟩,
   ⟨0x8000, 1, false, 0x01, 0, 3, 0, 4, 15, 0, 0xffffffff⟩,
   ⟨0x8000, 1, false, 0x02, 0, 4, 0, 8, 15, 0, 0xffffffffffffffff⟩]

/-- R509. -/
def odHost2 : List OdRow :=
  [⟨0x8000, 1, false, 0x03, 0, 3, 0, 4, 15, 0, 0xffffffff⟩,
   ⟨0x8000, 1, false, 0x04, 0, 1, 0, 1, 15, 0, 255⟩,
   ⟨0x8000, 1, false, 0x05, 0, 4, 1, 8, 1, 0, 0xffffffffffffffff⟩,
   ⟨0x8000, 1, false, 0x06, 0, 3, 1, 4, 15, 0, 0xffffffff⟩,
   ⟨0x8000, 1, false, 0x07, 0, 8, 2, 1, 1, 1, 2⟩,
   ⟨0x8000, 1, false, 0x08, 0, 8, 0, 1, 15, 0, 0xffffffffffffffff⟩,
   ⟨0x8000, 1, false, 0x09, 0, 8, 1, 1, 1, 0, 1⟩,
   ⟨0x8000, 1, false, 0x0A, 0, 3, 0, 4, 15, 0, 0xffffffff⟩,
   ⟨0x8000, 1, false, 0x0B, 0, 8, 0, 1, 15, 0, 0xffffffffffffffff⟩,
   ⟨0x8000, 1, false, 0x0C, 0, 1, 4, 1, 15, 0, 255⟩,
   ⟨0x8000, 1, false, 0x0D, 0, 4, 0, 8, 15, 0, 0xffffffffffffffff⟩,
   ⟨0x8000, 1, false, 0x10, 0, 3, 1, 4, 1, 0, 0xffffffff⟩,
   ⟨0x8000, 1, false, 0x11, 0, 9, 1, 32, 1, 0, 0xffffffffffffffff⟩,
   ⟨0x8000, 1, false, 0x12, 0, 9, 1, 32, 1, 0, 0xffffffffffffffff⟩,
   ⟨0x8000, 1, false, 0x13, 0, 8, 2, 1, 1, 1, 3⟩,
   ⟨0x8000, 1, false, 0x14, 0, 8, 0, 1, 15, 0, 0xffffffffffffffff⟩,
   ⟨0x8000, 1, false, 0x15, 0, 9, 0, 32, 15, 0, 0xffffffffffffffff⟩,
   ⟨0x8000, 1, false, 0x16, 0, 9, 0, 32, 15, 0, 0xffffffffffffffff⟩,
   ⟨0x8000, 1, false, 0x17, 0, 3, 0, 4, 15, 0, 0xffffffff⟩,
   ⟨0x8200, 1, false, 0x01, 0, 11, 0, 0x100000, 15, 0, 0xffffffffffffffff⟩,
   ⟨0x8200, 1, false, 0x02, 0, 11, 0, 68, 15, 0, 0xffffffffffffffff⟩,
   ⟨0x8200, 1, false, 0x03, 0, 11, 2, 32, 3, 0, 0xffffffffffffffff⟩,
   ⟨0x8200, 1, false, 0x04, 0, 11, 0, 5821, 15, 0, 0xffffffffffffffff⟩,
   ⟨0x8200, 1, false, 0x05, 0, 4, 0, 8, 15, 0, 0xffffffffffffffff⟩,
   ⟨0x8200, 1, false, 0x06, 0, 12, 0, 8, 15, 0, 0xffffffffffffffff⟩]

/-- R527. -/
def odStart : List OdRow :=
  [⟨0x1100, 1, false, 0x01, 0, 1, 0, 1, 15, 0, 255⟩,
   ⟨0x1100, 1, false, 0x02, 0, 8, 0, 1, 15, 0, 0xffffffffffffffff⟩,
   ⟨0x1100, 1, false, 0x03, 0, 11, 0, 44, 15, 0, 0xffffffffffffffff⟩,
   ⟨0x1100, 1, false, 0x04, 0, 1, 0, 1, 15, 0, 255⟩,
   ⟨0x1100, 1, false, 0x05, 0, 12, 0, 8, 15, 0, 0xffffffffffffffff⟩,
   ⟨0x1100, 1, false, 0x06, 0, 12, 0, 8, 15, 0, 0xffffffffffffffff⟩,
   ⟨0x1100, 1, false, 0x07, 0, 2, 1, 2, 2, 1, 600⟩]

/-- Defaults of the tables other than 0: index, number of indexes, sub-index, queues, value. -/
def odDflt1 : List (Nat × Nat × Nat × Nat × Nat) :=
  [(0x3000, 128, 0x02, 0, 255),
   (0x3000, 128, 0x03, 0, 255),
   (0x9000, 1, 0x0B, 0, 1),
   (0x3600, 128, 0x02, 16, 8),
   (0x3680, 8, 0x02, 8, 8),
   (0x3600, 128, 0x08, 16, 256),
   (0x2300, 4, 0x02, 0, 200),
   (0x2300, 4, 0x03, 0, 4096),
   (0x2300, 4, 0x04, 0, 1000),
   (0x9000, 1, 0x08, 0, 0x7530),
   (0x4000, 1, 0x01, 0, 0x18000000000),
   (0x4000, 1, 0x04, 0, 4096),
   (0x4000, 1, 0x05, 0, 200),
   (0x4000, 1, 0x06, 0, 24),
   (0x4000, 1, 0x0A, 0, 8),
   (0x3800, 4, 0x01, 0, 0x40404040404040800000000000000000000000000000000000000000000000004040404040404080),
   (0x3800, 4, 0x03, 0, 96),
   (0x3800, 4, 0x04, 0, 28),
   (0x3A00, 1, 0x01, 0, 16),
   (0x3A00, 1, 0x02, 0, 32),
   (0x3A00, 1, 0x03, 0, 12),
   (0x3A00, 1, 0x04, 0, 2),
   (0x3A00, 1, 0x05, 0, 2),
   (0x5000, 1, 0x01, 0, 0xfffff),
   (0x5000, 1, 0x03, 0, 200)]

/-- Defaults of the tables other than 0: index, number of indexes, sub-index, queues, value. -/
def odDflt2 : List (Nat × Nat × Nat × Nat × Nat) :=
  [(0x5000, 1, 0x04, 0, 1600),
   (0x5000, 1, 0x05, 0, 6),
   (0x5000, 1, 0x06, 0, 20),
   (0x5000, 1, 0x07, 0, 1000),
   (0x5000, 1, 0x08, 0, 20),
   (0x5000, 1, 0x09, 0, 2000),
   (0x5000, 1, 0x0A, 0, 8192),
   (0x5200, 16, 0x0A, 0, 0x40400f0e0d0c0b0a09080706050403020100),
   (0x5200, 16, 0x0B, 0, 0x40400f0e0d0c0b0a09080706050403020100),
   (0x5200, 16, 0x0C, 0, 1),
   (0x5300, 1, 0x02, 0, 100),
   (0x5310, 1, 0x02, 0, 0xfedcba9876543210),
   (0x5400, 16, 0x05, 0, 100),
   (0x5400, 16, 0x07, 0, 100),
   (0x5400, 16, 0x09, 0, 200),
   (0x5400, 16, 0x0A, 0, 15),
   (0x5200, 16, 0x11, 0, 1),
   (0x9000, 1, 0x09, 0, 0x4000),
   (0x2100, 1, 0x01, 0, 5600),
   (0x2100, 1, 0x02, 0, 0x384038403840384),
   (0x2100, 1, 0x03, 0, 2800),
   (0x2100, 1, 0x09, 0, 4096),
   (0x2200, 1, 0x05, 0, 0xc0000000),
   (0x2200, 1, 0x0B, 0, 0xb0000000),
   (0x2300, 4, 0x09, 0, 1500)]

/-- Defaults of the tables other than 0: index, number of indexes, sub-index, queues, value. -/
def odDflt3 : List (Nat × Nat × Nat × Nat × Nat) :=
  [(0x2300, 4, 0x0A, 0, 1800),
   (0x2300, 4, 0x0C, 0, 4096),
   (0x2300, 4, 0x0D, 0, 4096),
   (0x2400, 1, 0x01, 0, 1440),
   (0x2400, 1, 0x02, 0, 1552),
   (0x2400, 1, 0x03, 0, 1680),
   (0x2400, 1, 0x04, 0, 1360),
   (0x2400, 1, 0x05, 0, 1472),
   (0x2400, 1, 0x06, 0, 1600),
   (0x2400, 1, 0x07, 0, 1360),
   (0x2400, 1, 0x08, 0, 1520),
   (0x2400, 1, 0x09, 0, 1680),
   (0x7200, 1, 0x01, 0, 24),
   (0x7200, 1, 0x02, 0, 0xffffffff),
   (0x7200, 1, 0x03, 0, 60),
   (0x7200, 1, 0x0B, 0, 96),
   (0x7200, 1, 0x0C, 0, 0x2020202),
   (0x7200, 1, 0x0E, 0, 2),
   (0x7300, 1, 0x01, 0, 16),
   (0x7A00, 1, 0x09, 0, 10),
   (0x1000, 1, 0x01, 0, 0x4834322d345644),
   (0x1000, 1, 0x04, 0, 1),
   (0x1000, 1, 0x06, 0, 0x736f6d656e6c4f),
   (0x1000, 1, 0x08, 0, 1),
   (0x6800, 1, 0x03, 0, 17)]

/-- Defaults of the tables other than 0: index, number of indexes, sub-index, queues, value. -/
def odDflt4 : List (Nat × Nat × Nat × Nat × Nat) :=
  [(0x6800, 1, 0x04, 0, 32),
   (0x6100, 1, 0x01, 0, 2000),
   (0x6300, 1, 0x01, 0, 0x40000000),
   (0x8000, 1, 0x14, 0, 1),
   (0x1100, 1, 0x07, 0, 10),
   (0x2300, 4, 0x0B, 0, 1500)]

/-- The object dictionary. -/
def odTable : List OdRow :=
  odCore ++ odArray ++ odDrain ++ odHawk ++ odVector ++ odQueue ++ odStack ++ odDieLink ++ odFabric ++ odFabric2 ++ odPort ++
  odPort2 ++ odCollective ++ odJob ++ odPower ++ odPower2 ++ odFault ++ odFault2 ++ odIdentity ++ odHost ++ odHost2 ++ odStart

/-- The role byte of module m by default (R276, R285). -/
def roleDefault (m : Nat) : Nat :=
  if m = 0 || m = 32 then 0x80 else if m % 32 ≤ 7 then 0x40 else 0

/-- The default of a sub-index. -/
def odDefault (i sub : Nat) : Nat :=
  if 0x3900 ≤ i && i < 0x3A00 then (if sub = 1 then roleDefault (i % 64) else 0)
  else
    match (odDflt1 ++ odDflt2 ++ odDflt3 ++ odDflt4).find? (fun r =>
      r.1 ≤ i && i < r.1 + r.2.1 && (if r.2.2.2.1 = 0 then sub == r.2.2.1 else sub % 16 == r.2.2.1)) with
    | some r => r.2.2.2.2
    | none => 0

/-- Whether the row names the index. -/
def OdRow.hasIndex (r : OdRow) (i : Nat) : Bool :=
  r.base ≤ i && i < r.base + r.count && (!r.core || (i - r.base) % 32 < 26)

/-- Whether the row names the sub-index. -/
def OdRow.hasSub (r : OdRow) (sub : Nat) : Bool :=
  if r.queues = 0 then sub == r.sub else sub % 16 == r.sub && sub / 16 < r.queues

/-- The row of a sub-index (R456). -/
def odRow (i sub : Nat) : Option OdRow := odTable.find? (fun r => r.hasIndex i && r.hasSub sub)

/-- The highest sub-index an entry defines (R456). -/
def odHighest (i : Nat) : Nat :=
  (odTable.filter (fun r => r.hasIndex i)).foldl (fun m r =>
    max m (if r.queues = 0 then r.sub else (r.queues - 1) * 16 + r.sub)) 0

/-- The entry exists (R456). -/
def odPresent (i : Nat) : Bool := odTable.any (fun r => r.hasIndex i)

end Sys2Proof.Machine
end

