-- ==== Sys2Proof/Machine/State.lean ====
section
/-! DEFINITION. The state of one package: everything the spec gives it, as plain data, the queue of waiting commands, and the
state right after reset (every supply absent, R38, R410; every object dictionary value at its default). -/

namespace Sys2Proof.Machine

/-- No command of the table ends in a fault: the spec gives every failure of the package a status, a record or a state (R207). -/
inductive Fault where
  /-- Raised by nobody. Safe. -/
  | impossible
  deriving DecidableEq, Repr

inductive Refusal where
  /-- Raised by exec for a row that has no meaning yet. Safe: the machine stops. -/
  | notModelled (mnemonic : String)
  deriving DecidableEq, Repr

/-- The states of a command (R198). `held`: a vector command whose outputs wait in the output store (R186, R187). `parked`:
admitted and running on an engine or with messages in flight. `done`: its record waits for earlier serials (R206). -/
inductive Stage where
  | fetched
  | issued
  | admitted
  | parked
  | held
  | done
  deriving DecidableEq, Repr

/-- An error report (R427). `temp` in 1/16 °C, `volt` in mV; `opv`: the fault belongs to a command. -/
structure Report where
  seq : Nat
  uptime : Nat
  ophash : Nat
  detail : Nat
  unit : Nat
  serial : Nat
  code : Nat
  temp : Int
  volt : Nat
  opcode : Nat
  qunit : Nat
  queue : Nat
  ctx : Nat
  sev : Nat
  opv : Bool
  peer : Nat
  deriving DecidableEq, Repr

/-- The run of a matrix command on its engine (R69, R104 to R107, R124). -/
structure MatRun where
  /-- weight tiles applied so far (R234) -/
  passes : Nat
  /-- a pass has been run and its last write is awaited (PASS_END) -/
  inPass : Bool
  /-- rows of the form phase already formed (R104) -/
  formed : Nat
  /-- the copy phase has run (R106) -/
  copied : Bool
  /-- exponent marks by (e × 1,024 + row) × 128 + column (R76) -/
  marks : List (Nat × Int)
  /-- carry records by row index, as updated in drain registers (R114) -/
  carry : List (Nat × Nat)
  /-- sum-of-squares scalars by array position, in drain registers (R116) -/
  ssq : List (Nat × Nat)
  /-- tiles claimed from a screed stream: first tile number, and the serial of the stream's SCREED (R242) -/
  claimAt : Nat
  stream : Nat
  /-- of the latest pass of a checked or split command: its operands by array position, and the states of its streams at its start; of a
  dual execution: the states of its lanes' streams at the start of each group (R440) -/
  operands : List (Nat × List Byte)
  streams : List (Nat × BitVec 64)
  deriving DecidableEq, Repr

def MatRun.start : MatRun := ⟨0, false, 0, false, [], [], [], 0, 0, [], []⟩

/-- A run from the first pass again, with the tiles it has claimed (R124, R127). -/
def MatRun.again (r : MatRun) : MatRun := { MatRun.start with claimAt := r.claimAt, stream := r.stream }

/-- What a collective command takes at its admission: the job seed (R388), the step norm accumulator and step flag (R380), the uptime. -/
structure CollStart where
  seed : Nat
  norm : Nat
  flag : Bool
  admittedAt : Nat
  deriving DecidableEq, Repr

/-- A command in flight: fetched and not yet recorded (R198). -/
structure Cmd where
  u : Nat
  q : Nat
  serial : Nat
  word : CmdWord
  /-- the slot's address, of a word that was delivered poisoned and is not decoded: its command has completed (R531) -/
  bad : Option Nat
  stage : Stage
  /-- uptime at issue (R205), and order of issue (R121, R215) -/
  issuedAt : Nat
  age : Nat
  /-- uptime since which a ready candidate has waited for budget (R215) -/
  budgetAt : Option Nat
  /-- the admission read has been made (R199) -/
  adRead : Bool
  /-- chain descriptor as read at admission, 336 B (R167); product descriptor as read at issue, 192 B (R235) -/
  desc : Nat
  /-- permute tables read at admission, by stage number (R179) -/
  tables : List (Nat × List Byte)
  /-- verdict word read at admission (R172) -/
  verdict : Nat
  /-- VL of the queue at issue (R164) -/
  vl : Nat
  /-- dual execution (R189, R444) -/
  dual : Bool
  /-- a collective command as admitted -/
  begun : CollStart
  /-- a matrix command runs checked, as found at its issue (R95; log 123) -/
  checked : Bool
  /-- nJ charged over every admission (R206) -/
  energy : Nat
  /-- stream epoch of the admission (R57) -/
  epoch : Nat
  /-- flags of this execution and of earlier ones (R62, R64) -/
  flags : BitVec 8
  oldFlags : BitVec 8
  rerun : Bool
  /-- the report of the fault that caused the re-run, as detected: it is filed once the re-run has cured it (R427, R430) -/
  firstFault : Option Report
  preemptReq : Bool
  preempted : Bool
  run : MatRun
  /-- output store: (address, byte) in the order written (R186, R187) -/
  held : List (Nat × Byte)
  /-- ranges that its scatter stages have written (R188), and a comparison of a dual execution has failed once (R189) -/
  scattered : List (Nat × Nat)
  mismatched : Bool
  /-- messages of the command not yet acknowledged (R203) -/
  msgs : List Nat
  /-- nominal energy, windows of expected duration and windows already counted (R530) -/
  nominal : Nat
  winTotal : Nat
  winDone : Nat
  /-- the record to write, when done (R206) -/
  record : Nat
  deriving DecidableEq, Repr

/-- A weight tile in the shadow or active registers of an engine or half (R77, R78). -/
structure WTile where
  core : Nat
  eng : Nat
  half : Nat
  active : Bool
  u : Nat
  q : Nat
  serial : Nat
  tile : Nat
  fmt : Nat
  ncol : Nat
  /-- codes, row-major, K-slice rows of ncol (R68) -/
  codes : List Nat
  /-- scales, one per column for each block, block-major (R74) -/
  scales : List Nat
  /-- check weights, one FP32 per K row (R96) -/
  check : List Nat
  /-- lowest poisoned local offset read, if any (R127) -/
  poison : Option Nat
  deriving DecidableEq, Repr

/-- A tile in a hawk slot (R135): 16,384 codes as stored, its scale bytes, the poisoned offset it carries (R143). -/
structure HawkTile where
  fmt : Nat
  /-- MX blocks lie along storage rows (0: scale row × 4 + block) or storage columns (1: scale block × 128 + column) -/
  axis : Nat
  codes : List Nat
  scales : List Nat
  poison : Option Nat
  deriving DecidableEq, Repr

/-- A hawk of a core (R133 to R143), number core × 2 + h. -/
structure Hawk where
  id : Nat
  /-- the command that claims it: unit, queue, serial (R140) -/
  owner : Option (Nat × Nat × Nat)
  tiles : List HawkTile
  /-- a held tile set: queue, producing serial (R141) -/
  held : Option (Nat × Nat)
  /-- the word of the command that produced the held set (R143) -/
  made : CmdWord
  deriving DecidableEq, Repr

/-- A screed stream of a core (R241, R242). -/
structure Screed where
  core : Nat
  strm : Nat
  u : Nat
  q : Nat
  serial : Nat
  src : Nat
  sscl : Nat
  ring : Nat
  nt : Nat
  cfmt : Nat
  wfmt : Nat
  rs : Nat
  asked : Nat
  landed : Nat
  claimed : Nat
  completed : Bool
  /-- tile messages in flight: (tile, message id of elements, message id of scales) -/
  flight : List (Nat × Nat × Nat)
  deriving DecidableEq, Repr

/-- A packet (R290, R291); `vc` and `inPort` belong to the link that carried it. -/
structure Packet where
  daddr : Nat
  spkg : Nat
  msgid : Nat
  syncid : Nat
  oseq : Nat
  kind : Nat
  op : Nat
  pkt : Nat
  tflit : Nat
  len : Nat
  chan : Nat
  rtally : Nat
  rten : Bool
  ord : Bool
  tail : Bool
  nfin : Bool
  hops : Nat
  poison : Nat
  arg : Nat
  arg2 : Nat
  mcrc : Nat
  payload : List Byte
  vc : Nat
  inPort : Nat
  deriving DecidableEq, Repr

/-- A message the package originated and still keeps (R305). -/
structure SendMsg where
  msgid : Nat
  /-- header of packet 0 -/
  head : Packet
  /-- where the payload is re-read from, when it is not stored (R305) -/
  src : Option Nat
  /-- stored payload (ATOMIC, CONTROL, reduction chunks; R305) -/
  stored : List Byte
  storedPoison : List Nat
  owner : Option (Nat × Nat × Nat)
  /-- interval index i and re-sends made; uptime at which its timer last started (R311) -/
  i : Nat
  resends : Nat
  sentAt : Nat
  /-- GET: landed packets, and the uptime of the last of them -/
  got : List Packet
  gotAt : Nat
  /-- collective progress: channel, serial, and what the message carries (chunk, piece or image) -/
  coll : Option (Nat × Nat × Nat)
  /-- holds a send context; waits for one, for the store or for a stream record before it is sent (R299, R305, R315) -/
  ctx : Bool
  waiting : Bool
  deriving DecidableEq, Repr

/-- A receive context (R307), with the uptime of the last whole packet it gained (R309). -/
structure RecvCtx where
  spkg : Nat
  msgid : Nat
  pkts : List Packet
  gainedAt : Nat
  deriving DecidableEq, Repr

/-- A tombstone (R310): the answer to repeat, and the uptime at which it was made. -/
structure Tomb where
  spkg : Nat
  msgid : Nat
  answer : Packet
  madeAt : Nat
  deriving DecidableEq, Repr

/-- A stream record (R299). `source` true at the sender: `next` is the next OSEQ; at the receiver, the expected one.
`usedAt`: uptime of its last message or arrival. -/
structure StreamRec where
  source : Bool
  peer : Nat
  vc : Nat
  syncid : Nat
  next : Nat
  usedAt : Nat
  deriving DecidableEq, Repr

/-- A packet held at this hop (R301): the port chosen, if any, whether it has left for the escape path, the uptime since which it is held, and
that since which it is the head of its queue. -/
structure Transit where
  pkt : Packet
  port : Option Nat
  escaped : Bool
  since : Nat
  headAt : Option Nat
  deriving DecidableEq, Repr

/-- A ring (R329 to R333): 0 OFF, 1 SWEEP, 2 LOCKED, 3 HOLD, 4 FAILED; heater drive, 16 bits; sweeps without a gap; fault marks. -/
structure Ring where
  st : Nat
  heater : Nat
  tries : Nat
  wrong : Bool
  recheck : Bool
  deriving DecidableEq, Repr

def Ring.off : Ring := ⟨0, 0, 0, false, false⟩

/-- A pending lane move (R326, R334). -/
structure Mv where
  lane : Nat
  nslot : Nat
  orole : Nat
  cwidx : Nat
  mseq : Nat
  deriving DecidableEq, Repr

/-- One fibre port (R294, R295, R318 to R346). Lists indexed by slot have 18 elements, by VC eight. -/
structure Port where
  tx : List Ring
  rx : List Ring
  /-- receive alignment, consecutive missing or bad markers and slot-check failure, by slot (R327, R332) -/
  aligned : List Bool
  missed : List Nat
  slotBad : List Bool
  txMove : List Mv
  rxMove : List Mv
  mseq : Nat
  lastMseq : Option Nat
  /-- REPORT words: sequence and SLOTST last sent, SLOTST last received (R326) -/
  rseq : Nat
  sentReport : Nat
  lastReport : Nat
  /-- mist coat: 0 not run, 1 running, 2 done; MARGIN step, value and sequence -/
  mist : Nat
  mStep : Nat
  mValue : Nat
  mSeq : Nat
  mVerdict : Nat
  /-- the sequence number of the last MARGIN word sent (R326); lanes with too low a margin stayed in service at the last mist coat (R339) -/
  sseq : Nat
  low : Bool
  power : List Nat
  tracking : List Nat
  refs : Option MonReadings
  last : Option MonReadings
  /-- far identity of the last IDENT: package, port, serial, reach (R342) -/
  far : Option (Nat × Nat × Nat × Nat)
  /-- round trips by exchange number (R342) -/
  echoes : List (Nat × Nat)
  farLpwr : Int
  rekey : Bool
  laser : Bool
  riLost : Bool
  /-- receive side of the link: flits of the packet in reception and the drop mark, by VC (R294) -/
  partialFlits : List (List (BitVec 512))
  dropping : List Bool
  /-- VCs the far end has stopped, and those this end has stopped (R295) -/
  xoffFar : Nat
  xoffSent : Nat
  /-- bytes queued for transmission (R301, adaptive choice) -/
  txBytes : Nat
  /-- reach class in force since the port was last keyed (R296); sequence number of the next frame sent (R293) -/
  cls : Nat
  fseq : Nat
  /-- frame of the codeword in reception, and the receive slots whose codeword is uncorrectable (R322, R323); codewords counted in each
  direction (R326) -/
  phase : Nat
  badNow : List Nat
  rxCount : Nat
  txCount : Nat
  /-- path loss recorded at the last mist coat, in 0.01 dB (R338); plan entry that the far end equalled at the last keying (R343, R345) -/
  pathLoss : Int
  claim : Option Nat
  deriving DecidableEq, Repr

/-- The SLOTST of a receiver none of whose rings is LOCKED (R326): what either end stands at until the first REPORT after TRAINING begins. -/
def Port.noneLocked : Nat := 0xAAAAAAAAA

def Port.reset : Port :=
  { tx := List.replicate 18 Ring.off, rx := List.replicate 18 Ring.off, aligned := List.replicate 18 false,
    missed := List.replicate 18 0, slotBad := List.replicate 18 false, txMove := [], rxMove := [], mseq := 0, lastMseq := none,
    rseq := 0, sentReport := Port.noneLocked, lastReport := Port.noneLocked, mist := 0, mStep := 0, mValue := 0, mSeq := 0, mVerdict := 0, sseq := 0, low := false,
    power := List.replicate 18 0, tracking := List.replicate 18 0, refs := none, last := none, far := none, echoes := [],
    farLpwr := 0, rekey := false, laser := false, riLost := false, partialFlits := List.replicate 8 [],
    dropping := List.replicate 8 false, xoffFar := 0, xoffSent := 0, txBytes := 0, cls := 0, fseq := 0, phase := 0, badNow := [],
    rxCount := 0, txCount := 0, pathLoss := 0, claim := none }

/-- A copy of a chunk from a child position (R356, R359): area 1 to 4, sender, claim, flags and side values, the port it arrived on,
when it was accepted, and whether it passed its digest, once computed (R367). -/
structure ChunkCopy where
  area : Nat
  spkg : Nat
  claim : Nat
  dge : Bool
  nfin : Bool
  q : Nat
  snf : Bool
  port : Nat
  acceptedAt : Nat
  pass : Option Bool
  deriving DecidableEq, Repr

/-- A chunk of a reduction at this position. -/
structure Chunk where
  c : Nat
  copies : List ChunkCopy
  /-- chosen area for the left and right child (R374); 5 stands for the NaN chunk of R369 -/
  left : Option Nat
  right : Option Nat
  lateL : Bool
  lateR : Bool
  /-- which port adders err in its second pass: bits of the adding, check and third port (R371) -/
  faults : Nat
  /-- formed, and sent or written: its slot is free (R361) -/
  formed : Bool
  /-- at the root: the sum of squares of the result (R379) -/
  sq : Nat
  deriving DecidableEq, Repr

/-- The collective that runs on a channel (R353). `kind`: 0 REDUCE, 1 GATHER, 2 PERMUTE. -/
structure Coll where
  kind : Nat
  u : Nat
  q : Nat
  serial : Nat
  word : CmdWord
  seed : Nat
  side : Nat
  /-- step norm accumulator and step flag as read at admission (R380) -/
  norm : Nat
  flag : Bool
  admittedAt : Nat
  /-- chunks, messages or pieces sent; pieces staged (R386) -/
  sent : List Nat
  staged : Nat
  /-- NFIN and side values of the result (R379) -/
  nfinAcc : Bool
  qAcc : Nat
  snfAcc : Bool
  /-- the report of R376 has been filed -/
  reported : Bool
  deriving DecidableEq, Repr

/-- A bound collective channel (R348 to R353): the serial of its current or next collective, chunks by number, what has landed, READY
marks (R386), edge bytes of gathered messages by (rank × 2^14 + message) × 2 + end (R384), the running collective, and whether its last
one was stopped (R388). -/
structure Chan where
  id : Nat
  /-- the channel record as read at the bind (R350) -/
  crecord : Nat
  ranks : List Nat
  perm : List Nat
  /-- backup map entries of the channel at the bind: (rank, package) -/
  backups : List (Nat × Nat)
  chunks : List Chunk
  landed : List Nat
  readyIn : List Nat
  edges : List (Nat × Byte)
  run : Option Coll
  stopped : Bool
  deriving DecidableEq, Repr

/-- A capture held for the next test window (R440). -/
structure Capture where
  core : Nat
  array : Nat
  word : CmdWord
  desc : Nat
  operands : List Byte
  streams : List (Nat × BitVec 64)
  windows : Nat
  runs : Nat
  sweepUnit : Option Nat
  /-- of a dual mismatch: the first element that differed -/
  element : Nat
  deriving DecidableEq, Repr

/-- What the package sends or raises toward the outside (packets, MSI-X vectors, responses, notifications). -/
inductive Output where
  /-- a packet, and the frames of the port that carry its flits (R293) -/
  | packet (port : Nat) (vc : Nat) (p : Packet) (frames : List Frame)
  /-- the first flits of a packet that is dropped here, and a slot with ABORT (R294, R301) -/
  | aborted (port : Nat) (vc : Nat) (p : Packet) (frames : List Frame)
  /-- a vector is raised, and the message that carries it, unless masked (R493) -/
  | msix (vector : Nat)
  | message (vector : Nat)
  /-- the header of a Hasowa response, and the address it goes to (R474) -/
  | datagram (dest : BitVec 128) (header : Nat)
  | odResponse (p : Path) (index sub status offset length tag : Nat) (data : List Byte)
  | returnCode (unsupported : Bool)
  | notify (session : Nat) (count : Nat) (payload : Nat)
  | announce (part serial mac pkg : Nat)
  | hdm (poison : Bool) (data : List Byte)
  | hostWrite (addr : Nat) (data : List Byte) (poison : List (Nat × Nat))
  | control (port : Nat) (slot : Nat) (word : Nat)
  | bisnpInv (line : Nat)
  | replay (d m : Nat)
  /-- a frame that carries a changed XOFF state (R295) -/
  | xoff (port : Nat) (mask : Nat) (frame : Frame)
  deriving DecidableEq, Repr

/-- A requester's snapshot and staging buffers and its select entries (R465, R469). -/
structure Requester where
  p : Path
  snap : Option (Nat × List Byte)
  staged : Option (Nat × List Byte)
  stagedAt : Nat
  selects : List (Nat × Nat)
  challenge : Nat
  evidence : List Byte
  deriving DecidableEq, Repr

/-- A Hasowa session (R475): its source, the SEQ last taken, the SEQs taken and not yet answered, and the last one served with its response. -/
structure Session where
  id : Nat
  source : BitVec 128
  lastSeq : Nat
  seenAt : Nat
  asked : List Nat
  served : Nat
  stored : List Output
  deriving DecidableEq, Repr

/-- A request that waits while an activation quiesces or is in its blackout (R478, R503), with what its row supplies. -/
structure Waiting where
  p : Path
  r : OdReq
  image : Option (List Byte)
  flashOk : Bool
  deriving DecidableEq, Repr

/-- A clock stretch in force on a die (R416): cause 0 droop, 1 overcurrent, 2 die thermal, 3 lath or stack thermal, 4 die junction,
5 emergency, 6 lath junction; the frequency it allows, in 1/1,024 MHz. `active` false: its cause has cleared and its release raises the frequency. -/
structure Stretch where
  d : Nat
  cause : Nat
  active : Bool
  f : Nat
  deriving DecidableEq, Repr

/-- What a die's energy bucket runs on: allocation in W, capacity time in µs and price, as they were at its last AON tick (R218). -/
structure Budget where
  alloc : Nat
  capTime : Nat
  price : Nat
  deriving DecidableEq, Repr

def Budget.reset : Budget := ⟨0, 200, 4096⟩

/-- A stack retirement in progress or waiting (R264 to R266). -/
structure Retire where
  stack : Nat
  k : Nat
  sealedR : Bool
  step3 : Bool
  deriving DecidableEq, Repr

/-- A recorder record (R448, R528): for KIND 0 its body is that of the report. -/
structure LogRec where
  seq : Nat
  kind : Nat
  unit : Nat
  code : Nat
  sev : Nat
  detail : Nat
  extra : Nat
  report : Option Report
  deriving DecidableEq, Repr

/-- An event held under the dust sheet (R451), with its order. -/
structure HeldEvent where
  order : Nat
  body : LogRec
  deriving DecidableEq, Repr

set_option maxRecDepth 2048 in
structure State where
  /-- commands that are waiting, first in, first out -/
  pending : List Instr
  /-- AON uptime count (R454) -/
  uptime : Nat
  /-- the model's own counter of free values drawn -/
  free : Nat
  /-- object dictionary values by index × 256 + sub, where they differ from the default (R456) -/
  od : List (Nat × Nat)
  /-- every byte of the local offset space that reads other than 0 (R249) -/
  mem : List Host.Cell
  /-- poisoned 64 B sectors, rising (R257) -/
  poison : List Nat
  /-- cells written poisoned by a sealed relocation, by slot × 24 + cell, with the first such row plus 1, and their sectors written whole since
  (R259, R265) -/
  lostCells : List (Nat × Nat)
  cleaned : List Nat
  /-- sectors corrected and awaiting their rewrite (R258) -/
  corrected : List Nat
  /-- uncorrectable and corrected reads for R258, R262 and R263: ((kind, stack, place), uptime); kind 0 uncorrectable by row,
  1 corrected by channel -/
  readCounts : List ((Nat × Nat × Nat) × Nat)
  /-- accumulator words, by ((array × 2 + bank) × 1,024 + row) × 128 + column (R99) -/
  acc : List (Nat × BitVec 32)
  /-- accumulator words with an uncorrectable error, and corrected words awaiting write-back (R99) -/
  accBad : List Nat
  accFix : List Nat
  /-- valid bits, 128 per array: bit 64 × bank + 32 × half + segment (R102) -/
  valid : List (Nat × Nat)
  cmds : List Cmd
  /-- commands issued so far: the order of issue -/
  issues : Nat
  tallies : List (Nat × Nat)
  /-- queue reserves in nJ by queue number u × 16 + q (R217) -/
  reserves : List (Nat × Nat)
  /-- uptime at which a queue's reserve runs out (R217) -/
  reserveEnds : List (Nat × Nat)
  /-- the settings that each die's bucket runs on (R218) -/
  budgets : List Budget
  /-- candidates held by the hold limit, by die (R215) -/
  holds : List (Nat × Nat)
  /-- stochastic rounding streams by epoch × 2^40 + id (R56); seeds by epoch (R57) -/
  streams : List (Nat × BitVec 64)
  seeds : List (Nat × Nat)
  epoch : Nat
  seedPending : Bool
  wtiles : List WTile
  hawks : List Hawk
  screeds : List Screed
  /-- interleave entries by slot (R256), relocation row pointer, retirements (R264) -/
  slots : List (Nat × Nat)
  rowPtr : Nat
  retires : List Retire
  retirements : Nat
  /-- die-link modules in retraining, die × 64 + module (R280); CRC errors attributed to lanes, (module × 68 + lane, uptime); lanes
  recorded failed in flash, (module, lane) in order of failure (R282); modules to retry at the next start; dies out of service -/
  retraining : List Nat
  laneErrs : List (Nat × Nat)
  flashLanes : List (Nat × Nat)
  retryLanes : List Nat
  diesOut : List Nat
  features : Nat
  msgidNext : Nat
  sends : List SendMsg
  recvs : List RecvCtx
  tombs : List Tomb
  srecs : List StreamRec
  /-- responses arrived and not yet acted on -/
  inbox : List Packet
  transit : List Transit
  ports : List Port
  /-- uncorrectable codewords (R323) and corrected symbols (R322) by port × 18 + receive slot -/
  codewords : List (Nat × Nat)
  symbols : List (Nat × Nat)
  chans : List Chan
  /-- supplies that count as good: VBULK, VAUX, VHTR (R529) -/
  vbulk : Bool
  vaux : Bool
  vhtr : Bool
  clk25 : Bool
  aonUp : Bool
  stretches : List Stretch
  /-- set points in force (R419): ARRAY.d in MHz, CORE.d in MHz; CORE.d frequency in force -/
  arraySet : List Nat
  coreSet : List Nat
  coreMHz : List Nat
  /-- allocations that the emergency share is taken of (R421, R422) -/
  allocHeld : Option Nat
  overWindows : Nat
  /-- measured ratio r per die and the window sums of C (R417, R530) -/
  nominal : List (List Nat)
  /-- M of each die, nJ of dynamic energy over the last 1 ms (R417) -/
  dynamic : List Nat
  emergAt : Nat
  releasing : Bool
  emergNLow : Bool
  /-- sensor readings last seen, by site × 256 + sensor -/
  sensors : List (Nat × Int)
  trips : List Nat
  refreshes : List (Nat × Nat)
  /-- uptime of the last refresh of a calibration (R424) -/
  refreshed : List (Nat × Nat)
  /-- the last 256 error reports (R431) and the recorder (R448 to R453) -/
  reports : List Report
  ring : List LogRec
  archive : List LogRec
  nextSeq : Nat
  flashMark : Nat
  copied : Nat
  flushing : Bool
  flushFailed : Bool
  flushRan : Bool
  /-- FENCED cores whose fault record is not complete: their islands are on (R36) -/
  unrecorded : List Nat
  dust : Bool
  /-- uptime at which the dust sheet was laid -/
  dustAt : Nat
  heldEvents : List HeldEvent
  heldCount : Nat
  captures : List Capture
  patterns : List (List Byte)
  /-- core under test and its stand-in, whether its test has passed (R439); sweep unit under scan; next core in turn (R437) -/
  testing : Option (Nat × Option Nat)
  scanned : Bool
  sweepTest : Option Nat
  testNext : Nat
  /-- uptime of the last test in turn; by core or sweep unit, that of its last test and of its last skipped one (R437, R438) -/
  testAt : Nat
  tested : List (Nat × Nat)
  skipped : List (Nat × Nat)
  fenceErrs : List (Nat × Nat)
  /-- cores fenced since the last policy loop (R455) -/
  fencesIn : List Nat
  /-- flash: cores recorded FENCED, position record, cores to rescan, stacks recorded RETIRED -/
  flashFenced : List Nat
  flashPos : List (Nat × Nat)
  rescan : List Nat
  flashRetired : List Nat
  /-- repair list in flash: rows repaired, by stack and place (R262) -/
  flashRepairs : List (Nat × Nat)
  sweepOut : List Nat
  requesters : List Requester
  sessions : List Session
  notifies : Nat
  /-- ANNOUNCE answers that are scheduled (R476) -/
  announces : Nat
  waitingReqs : List Waiting
  /-- the payload of a job page after a response (R492) -/
  jobPages : List (Nat × List Byte)
  /-- the attestation that is being signed: its requester and evidence, and the uptime at which the evidence appears (R509) -/
  signing : Option (Path × List Byte × Nat)
  linkUp : Bool
  /-- bus mastering is enabled (R486); values that the host wrote to the CXL component registers, by BAR0 offset (R490) -/
  busMaster : Bool
  component : List (Nat × Nat)
  perstLow : Bool
  biFilter : List Nat
  biHeld : List Nat
  /-- ILLEGAL records of tails not taken, as (queue key, serial, record), that wait for a line of the host (R195, R489) -/
  heldRecords : List (Nat × Nat × Nat)
  /-- uptime of the last restart of the heartbeat timer (R499) -/
  beatAt : Nat
  featuresBefore : Nat
  draining : List (Nat × Nat)
  drainAt : Nat
  /-- running image header and body digest, staged image (R494, R502) -/
  image : List Byte
  imageDigest : Nat
  staged : Option (List Byte)
  romRuns : Bool
  fwRuns : Bool
  /-- a lapse met in a blackout, and the reports of events detected in it: they are filed after it (R504) -/
  lapsed : Bool
  deferred : List Report
  sigIndex : Nat
  rposLatched : Nat
  /-- uptime at which the start-up step in progress began (R527); VBULK has been lost since step 3 (R513) -/
  stepAt : Nat
  vbulkLost : Bool
  keyed : List Nat
  /-- MSI-X: enabled, function mask; table words that the host wrote, by word number; pending bits (R490, R493) -/
  msixOn : Bool
  msixMasked : Bool
  msixTable : List (Nat × Nat)
  msixPending : List Nat
  out : List Output
  deriving DecidableEq, Repr

/-- The package right after reset: no supply counts as good, nothing runs (R410); EMERG_N is high (its pull-up, R517). -/
def State.reset : State :=
  { pending := [], uptime := 0, free := 0, od := [], mem := [], poison := [], lostCells := [], cleaned := [], corrected := [], readCounts := [], acc := [],
    accBad := [], accFix := [], valid := [], cmds := [], issues := 0, tallies := [], reserves := [], reserveEnds := [], budgets := List.replicate 4 Budget.reset, holds := [], streams := [], seeds := [],
    epoch := 0, seedPending := false, wtiles := [], hawks := [], screeds := [], slots := [], rowPtr := 0, retires := [],
    retirements := 0, retraining := [], laneErrs := [], flashLanes := [], retryLanes := [], diesOut := [], features := 0,
    msgidNext := 0, sends := [], recvs := [], tombs := [], srecs := [], inbox := [], transit := [],
    ports := List.replicate 16 Port.reset, codewords := [], symbols := [], chans := [], vbulk := false, vaux := false, vhtr := false, clk25 := true,
    aonUp := false, stretches := [], arraySet := [1500, 1500, 1500, 1500],
    coreSet := [1800, 1800, 1800, 1800], coreMHz := [1800, 1800, 1800, 1800], allocHeld := none, overWindows := 0, nominal := [[], [], [], []], dynamic := [0, 0, 0, 0],
    emergAt := 0, releasing := false, emergNLow := false, sensors := [], trips := [], refreshes := [], refreshed := [],
    reports := [], ring := [], archive := [], nextSeq := 0, flashMark := 0, copied := 0, flushing := false,
    flushFailed := false, flushRan := false, unrecorded := [], dust := false, dustAt := 0, heldEvents := [], heldCount := 0, captures := [], patterns := [],
    testing := none, scanned := false, sweepTest := none, testNext := 0, testAt := 0, tested := [], skipped := [], fenceErrs := [], fencesIn := [], flashFenced := [], flashPos := [], rescan := [],
    flashRetired := [], flashRepairs := [], sweepOut := [], requesters := [], sessions := [], notifies := 0, announces := 0, waitingReqs := [],
    jobPages := [], signing := none, linkUp := false, busMaster := false, component := [], perstLow := false, biFilter := [], biHeld := [], heldRecords := [], beatAt := 0,
    featuresBefore := 0, draining := [], drainAt := 0, image := [], imageDigest := 0, staged := none, romRuns := false,
    fwRuns := false, lapsed := false, deferred := [], sigIndex := 0, rposLatched := 0, stepAt := 0, vbulkLost := false, keyed := [], msixOn := false, msixMasked := false, msixTable := [], msixPending := [], out := [] }

end Sys2Proof.Machine
end

