-- ==== Sys2Proof/Machine/Ops.lean ====
section
/-! DEFINITION. The shared operations of the package: object dictionary values and counters, the event recorder, snags and error
reports (R427 to R455), message-signalled interrupts (R493), the partition table (R212), queue entries (R196), tallies (R201). -/

namespace Sys2Proof.Machine

/-! ### Object dictionary values -/

/-- The key of a sub-index. -/
abbrev odKey (i sub : Nat) : Nat := i * 256 + sub

/-- The listed value of a key. -/
def odLook : List (Nat × Nat) → Nat → Option Nat
  | [], _ => none
  | (j, v) :: r, k => if k = j then some v else odLook r k

/-- The list with `v` at `k`, keys rising. -/
def odIns : List (Nat × Nat) → Nat → Nat → List (Nat × Nat)
  | [], k, v => [(k, v)]
  | (j, w) :: r, k, v => if k < j then (k, v) :: (j, w) :: r else if k = j then (k, v) :: r else (j, w) :: odIns r k v

/-- The value a sub-index holds (its default until it has been written). -/
def odGet (s : State) (i sub : Nat) : Nat := (odLook s.od (odKey i sub)).getD (odDefault i sub)

def odSet (s : State) (i sub v : Nat) : State := { s with od := odIns s.od (odKey i sub) v }

/-- What a saturated CNT-SAT counter reads (R446). -/
def cntMax : Nat := 2 ^ 64 - 1

/-- Add to a CNT-SAT counter; its store is taken as 64 bits wide (R446). -/
def odCount (s : State) (i sub n : Nat) : State := odSet s i sub (min cntMax (odGet s i sub + n))

/-- Bit `b` of a value. -/
def bitOf (v b : Nat) : Bool := v.testBit b

/-- The value with bit `b` set or cleared. -/
def withBit (v b : Nat) (on : Bool) : Nat := if on then v ||| 2 ^ b else if v.testBit b then v - 2 ^ b else v

/-- The value with `len` bits from `lo` replaced. -/
def withField (v lo len x : Nat) : Nat := v - bits v lo len * 2 ^ lo + x % 2 ^ len * 2 ^ lo

/-- What the package sends or raises. -/
def emit (s : State) (o : Output) : State := { s with out := s.out ++ [o] }

def emitAll (s : State) (os : List Output) : State := { s with out := s.out ++ os }

/-! ### Interrupt messages -/

/-- The control word of a vector's table entry: masked until the host writes it (R493, log 163). -/
def vectorControl (s : State) (v : Nat) : Nat := (odLook s.msixTable (4 * v + 3)).getD 1

/-- Neither the function nor the vector is masked. -/
def vectorOpen (s : State) (v : Nat) : Bool := !s.msixMasked && !bitOf (vectorControl s v) 0

/-- Raise a vector: its message goes out, or while it is masked its pending bit is set; nothing while MSI-X is not enabled (R493). -/
def raiseVector (s : State) (v : Nat) : State :=
  let s1 := emit s (.msix v)
  if !s.msixOn then s1
  else if vectorOpen s v then emit s1 (.message v)
  else { s1 with msixPending := if s.msixPending.contains v then s.msixPending else v :: s.msixPending }

/-- The messages of pending vectors that are masked no longer go out, and their pending bits clear (R493). -/
def sendPending (s : State) : State :=
  if !s.msixOn then s
  else
    { (emitAll s ((s.msixPending.filter (vectorOpen s)).map Output.message)) with msixPending := s.msixPending.filter (fun v => !vectorOpen s v) }

/-! ### Free values -/

/-- A fresh free number below 2^w: what it stands for is `what`. -/
def freshNat (s : State) (what w : Nat) : Nat × State := (Config.freeNat what s.free % 2 ^ w, { s with free := s.free + 1 })

/-! ### Supplies -/

/-- The fuse load is complete: a start-up step is in progress, or the start has stopped for another reason than FUSE (R505, R510, R527). -/
def fusesLoaded (s : State) : Bool := odGet s 0x1100 0x01 != 0 || 2 ≤ odGet s 0x1100 0x02

/-- The islands on VBULK are out of reset: VBULK is good, the AON island is up, and the fuse load is complete (R35, R410). -/
def bulkOn (s : State) : Bool := s.vbulk && s.aonUp && fusesLoaded s

/-! ### Units -/

/-- Unit id (R21). -/
def unitId (cls site a b : Nat) : Nat := cls * 2 ^ 28 + site * 2 ^ 24 + a * 2 ^ 12 + b

def pkgUnit : Nat := unitId 0 0xF 0 0xFFF

def isSweep (u : Nat) : Bool := 128 ≤ u && u < 136

/-- A core id that names a core (R12). -/
def isCore (u : Nat) : Bool := u < 128 && u % 32 < 26

/-- The die of a unit. -/
def dieOf (u : Nat) : Nat := if 128 ≤ u then (u - 128) / 2 else u / 32

/-- The unit id of a core or sweep unit (R22). -/
def unitOf (u : Nat) : Nat :=
  if 128 ≤ u then unitId 3 (dieOf u) ((u - 128) % 2) 0xFFF else unitId 1 (dieOf u) u 0xFFF

/-- The unit id of an array (R13, R22). -/
def arrayUnit (a : Nat) : Nat := unitId 2 (a / 256) (a / 8) (a % 8)

def stackUnit (st ch : Nat) : Nat := unitId 4 0xF st ch

def portUnit (p : Nat) : Nat := unitId 6 0xF p 0xFFF

/-- The sensor nearest to a unit (R427, R413), as site × 256 + number. -/
def sensorOf (unit : Nat) : Nat :=
  let site := bits unit 24 4
  let a := bits unit 12 12
  match bits unit 28 4 with
  | 1 => site * 256 + a % 32
  | 2 => site * 256 + a % 32
  | 3 => site * 256 + 26 + a
  | 4 => 0xF * 256 + 64 + a
  | 5 => site * 256 + 28 + a / 16
  | 6 => 0xF * 256 + 2 * a
  | 8 => 0xF * 256 + 32 + a
  | 9 => 0xF * 256 + 60
  | 10 => 0xF * 256 + 61
  | _ => 0xF * 256 + 56

/-! ### The event recorder -/

/-- The most severe held events, the earlier one kept on equal severity: at most 32 (R451). -/
def holdEvent (l : List HeldEvent) (e : HeldEvent) : List HeldEvent :=
  if l.length < 32 then l ++ [e]
  else
    let low := l.foldl (fun m x => min m x.body.sev) 7
    if low < e.body.sev then
      match l.reverse.find? (fun x => x.body.sev == low) with
      | some v => (l.filter (fun x => x.order != v.order)) ++ [e]
      | none => l
    else l

/-- Enter a record into the ring with the next sequence number (R448), write the flash mark (R450), and start or extend the flush
that a record of severity 3 or above demands (R449, R455). -/
def ringPush (s : State) (r : LogRec) : State :=
  let r' := { r with seq := s.nextSeq, report := r.report.map (fun p => { p with seq := s.nextSeq }) }
  { s with ring := (s.ring ++ [r']).drop (s.ring.length + 1 - 4096), nextSeq := s.nextSeq + 1,
           flashMark := if s.nextSeq % 4096 = 4095 then s.nextSeq + 1 + 4096 else s.flashMark,
           flushing := s.flushing || decide (3 ≤ r.sev) }

/-- Make a record: into the ring, or held or dropped under the dust sheet (R448, R451). -/
def addRecordRaw (s : State) (r : LogRec) : State :=
  if s.dust then
    let s1 := odCount s 0x7A00 0x04 1
    { s1 with heldEvents := holdEvent s1.heldEvents ⟨s1.heldCount, r⟩, heldCount := s1.heldCount + 1 }
  else ringPush s r

/-- Notify the manager of every open session (R476). -/
def notifyAll (s : State) (payload : Nat) : State :=
  s.sessions.foldl (fun s x => { s with notifies := s.notifies + 1, out := s.out ++ [.notify x.id s.notifies payload] }) s

/-- Set a snag bit (R432). -/
def snagSetRaw (s : State) (b : Nat) : State :=
  let v := odGet s 0x7000 0x01
  if bitOf v b then s
  else
    let s1 := odCount (odSet s 0x7000 0x01 (withBit v b true)) 0x7000 0x03 1
    notifyAll (addRecordRaw s1 ⟨0, 1, pkgUnit, 0, 0, b, 0, none⟩) b

/-! ### Error reports -/

/-- One step of the reflected CRC-64 of R306. -/
def crcBit (c : Nat) : Nat := if c % 2 = 1 then (c / 2) ^^^ 0xC96C5795D7870F42 else c / 2

def crcByte (c : Nat) (b : Byte) : Nat :=
  crcBit (crcBit (crcBit (crcBit (crcBit (crcBit (crcBit (crcBit (c ^^^ b.toNat))))))))

/-- The CRC-64 of ECMA-182, reflected, initial value and final XOR all ones (R306). -/
def crc64 (l : List Byte) : Nat := (l.foldl crcByte (2 ^ 64 - 1)) ^^^ (2 ^ 64 - 1)

/-- The severity of a code; a cured fault (code plus 0x0080) has severity 2 (R430). -/
def severityOf (code : Nat) : Nat :=
  match code with
  | 0x8001 => 4
  | 0x8002 => 5
  | 0x8003 => 2
  | 0x8004 => 0
  | 0x8011 => 5
  | 0x8012 => 7
  | 0x8020 => 4
  | 0x8021 => 5
  | 0x8022 => 1
  | 0x8030 => 2
  | 0x8031 => 4
  | 0x8032 => 1
  | 0x8041 => 4
  | 0x8050 => 6
  | 0x8060 => 0
  | _ => if code < 0x8000 && code % 256 ≥ 0x80 then 2 else 3

/-- The 64 bytes of a report as a number (R427). -/
def Report.encode (r : Report) : Nat :=
  r.seq * 2 ^ 448 + r.uptime % 2 ^ 64 * 2 ^ 384 + r.ophash * 2 ^ 320 + r.detail % 2 ^ 64 * 2 ^ 256 + r.unit * 2 ^ 224
    + r.serial * 2 ^ 192 + r.code * 2 ^ 176 + (r.temp % 65536).toNat * 2 ^ 160 + r.volt * 2 ^ 144 + r.opcode * 2 ^ 136
    + r.qunit * 2 ^ 128 + r.queue * 2 ^ 124 + r.ctx * 2 ^ 120 + r.sev * 2 ^ 117 + r.opv.toNat * 2 ^ 116 + r.peer * 2 ^ 96

/-- The 64 bytes of a record as a number (R448, R528). -/
def LogRec.encode (r : LogRec) : Nat :=
  r.seq * 2 ^ 448 + r.kind * 2 ^ 440 +
    (match r.report with
     | some p => p.encode % 2 ^ 384
     | none => r.detail % 2 ^ 64 * 2 ^ 256 + r.unit * 2 ^ 224 + r.code * 2 ^ 176 + r.sev * 2 ^ 117 + r.extra % 2 ^ 96)

/-- A head that falls more than 256 behind the tail moves to tail - 256; its reader's lost count rises (R431). -/
def moveHead (s : State) (tail headSub lostSub : Nat) : State :=
  let h := odGet s 0x7100 headSub
  let behind := (tail + 2 ^ 32 - h) % 2 ^ 32
  if behind ≤ 256 then s
  else snagSetRaw (odCount (odSet s 0x7100 headSub ((tail + 2 ^ 32 - 256) % 2 ^ 32)) 0x7100 lostSub (behind - 256)) 9

/-- What detection adds to a report: uptime, the nearest sensor and the rail voltage, a free value (R427). -/
def detectReport (s : State) (r : Report) : Report × State :=
  let volt := freshNat s 1 16
  ({ r with uptime := s.uptime, temp := Store.get 0 s.sensors (sensorOf r.unit), volt := volt.1 }, volt.2)

/-- File a detected report: queue, recorder, vector 0 and NOTIFY (R427, R431, R476). -/
def fileDetected (s : State) (r : Report) : State :=
  let r' := { r with seq := if s.dust then 0 else s.nextSeq }
  let s1 := addRecordRaw s ⟨0, 0, r.unit, r.code, r.sev, r.detail, 0, some r'⟩
  let tail := wrap 32 (odGet s1 0x7100 0x01 + 1)
  let s2 := odCount (odSet { s1 with reports := (s1.reports ++ [r']).drop (s1.reports.length + 1 - 256) } 0x7100 0x01 tail)
    0x7100 0x08 1
  let s3 := moveHead (moveHead s2 tail 0x02 0x06) tail 0x04 0x07
  if 2 ≤ r.sev then notifyAll (raiseVector s3 0) r'.encode else s3

/-- An activation is in its blackout (R503). -/
def inBlackout (s : State) : Bool := odGet s 0x8000 0x09 == 3

/-- File an error report; one detected in a blackout is filed after it (R504). -/
def fileReportRaw (s : State) (r : Report) : State :=
  let d := detectReport s r
  if inBlackout s then { d.2 with deferred := d.2.deferred ++ [d.1] } else fileDetected d.2 d.1

/-- A report without a command (OPV = 0): OPHASH over UNIT, CODE and DETAIL (R429). -/
def plainReport (code sev unit detail peer : Nat) : Report :=
  { seq := 0, uptime := 0, ophash := crc64 (leBytes 4 unit ++ leBytes 2 code ++ leBytes 8 (detail % 2 ^ 64)), detail := detail,
    unit := unit, serial := 0, code := code, temp := 0, volt := 0, opcode := 0, qunit := 0, queue := 0, ctx := 0, sev := sev,
    opv := false, peer := peer }

/-- No peer (R427). -/
def noPeer : Nat := 0xFFFFF

/-- The unit that owns a counter (R430, code 0x8060). -/
def counterUnit (i : Nat) : Nat :=
  if 0x3200 ≤ i && i < 0x3480 then unitOf (i % 0x80)
  else if 0x3480 ≤ i && i < 0x3488 then unitOf (128 + (i - 0x3480))
  else if 0x3900 ≤ i && i < 0x3A00 then unitId 5 ((i - 0x3900) / 64) (i % 64) 0xFFF
  else if i = 0x3A00 then unitId 7 0xF 0 0xFFF
  else if 0x4100 ≤ i && i < 0x4118 then stackUnit (i - 0x4100) 0xFFF
  else if 0x5200 ≤ i && i < 0x5210 then portUnit (i - 0x5200)
  else if 0x5400 ≤ i && i < 0x5410 then portUnit (i - 0x5400)
  else pkgUnit

/-- The event of a counter that saturates: snag bit 8 and code 0x8060 (R446). -/
def saturationEvent (s : State) (i sub : Nat) : State :=
  fileReportRaw (snagSetRaw s 8) (plainReport 0x8060 0 (counterUnit i) (i * 65536 + sub) noPeer)

/-- The counters that reports, snags and the recorder themselves count. -/
def recorderCounters : List (Nat × Nat) := [(0x7000, 3), (0x7100, 6), (0x7100, 7), (0x7100, 8), (0x7A00, 4)]

/-- Those of them that saturated between two states. -/
def newlySaturated (s0 s : State) : List (Nat × Nat) :=
  recorderCounters.filter (fun k => odGet s k.1 k.2 == cntMax && odGet s0 k.1 k.2 != cntMax)

/-- Their events, until no further one saturates (each saturates at most once). -/
def saturationEvents : Nat → State → State → State
  | 0, _, s => s
  | n + 1, s0, s =>
    match newlySaturated s0 s with
    | [] => s
    | l => saturationEvents n s (l.foldl (fun s k => saturationEvent s k.1 k.2) s)

/-- Make a record, with what a counter that it saturates does (R446, R448). -/
def addRecord (s : State) (r : LogRec) : State := saturationEvents 5 s (addRecordRaw s r)

/-- Set a snag bit (R432). -/
def snagSet (s : State) (b : Nat) : State := saturationEvents 5 s (snagSetRaw s b)

/-- File an error report (R427). -/
def fileReport (s : State) (r : Report) : State := saturationEvents 5 s (fileReportRaw s r)

/-- File a report that has been detected before (R427). -/
def fileKept (s : State) (r : Report) : State :=
  saturationEvents 5 s (if inBlackout s then { s with deferred := s.deferred ++ [r] } else fileDetected s r)

/-- File the report of a code without a command. -/
def fileCode (s : State) (code unit detail : Nat) : State := fileReport s (plainReport code (severityOf code) unit detail noPeer)

/-- Count in a CNT-SAT counter, with what its saturation does (R446). -/
def odBump (s : State) (i sub n : Nat) : State :=
  let s1 := odCount s i sub n
  if odGet s1 i sub = cntMax ∧ odGet s i sub ≠ cntMax then saturationEvents 5 s1 (saturationEvent s1 i sub) else s1

/-- Make a record of a state change (KIND 3, R528), and set the entry: `i.sub` of `unit` from its value to `v`, `code` and `sev` of
the report whose event caused it. -/
def stateChange (s : State) (unit i sub v code sev : Nat) : State :=
  let old := odGet s i sub
  if old = v then s
  else addRecord (odSet s i sub v) ⟨0, 3, unit, code, sev, i * 65536 + sub, old * 256 + v, none⟩

/-! ### Interrupt vectors -/

/-- The bits of context c in the partition table (R212). -/
def ctxRec (s : State) (c : Nat) : Nat := bits (odGet s 0x9000 0x03) (128 * c) 128

def ctxEnabled (s : State) (c : Nat) : Bool := c < 16 && bitOf (ctxRec s c) 127

/-- Raise the vector of every enabled context (R493). -/
def msixAllContexts (s : State) : State :=
  ((List.range 16).filter (ctxEnabled s)).foldl (fun s c => raiseVector s (16 + c)) s

/-! ### Contexts and queues -/

/-- Unit record i of the partition table (R212). -/
def unitRec (s : State) (i : Nat) : Nat := bits (odGet s 0x9000 0x03) (2048 + 128 * i) 128

/-- The unit of a unit record: a core id, or 0x80 + 2d + u. -/
def urUnit (r : Nat) : Nat := if bitOf r 115 then 128 + bits r 116 7 else bits r 116 7
def urCtx (r : Nat) : Nat := bits r 124 4
def urQmask (r : Nat) : Nat := bits r 99 16
/-- Column halves, first row segment and segments on the F-engine (0) or the B-engine (1). -/
def urHalf (r e : Nat) : Nat := if e = 0 then bits r 97 2 else bits r 95 2
def urBase (r e : Nat) : Nat := if e = 0 then bits r 90 5 else bits r 79 5
def urCnt (r e : Nat) : Nat := if e = 0 then bits r 84 6 else bits r 73 6
def urBand (r q : Nat) : Nat := bits r (41 + 2 * q) 2

/-- The unit records in use, those that hold anything (R212). -/
def unitRecs (s : State) : List Nat := ((List.range 112).map (unitRec s)).filter (· ≠ 0)

/-- The unit record that names a queue. -/
def queueRec (s : State) (u q : Nat) : Option Nat :=
  (unitRecs s).find? (fun r => urUnit r == u && bitOf (urQmask r) q)

/-- The enabled context that owns a queue (R212). -/
def ctxOf (s : State) (u q : Nat) : Option Nat :=
  match queueRec s u q with
  | some r => if ctxEnabled s (urCtx r) then some (urCtx r) else none
  | none => none

/-- Number of queues of a unit (R194). -/
def queuesOf (u : Nat) : Nat := if isSweep u then 8 else 16

/-- A unit and queue that exist (R12, R14). -/
def queueExists (u q : Nat) : Bool := (isCore u || isSweep u) && q < queuesOf u

/-- Every queue of the package. -/
def allQueues : List (Nat × Nat) :=
  (((List.range 136).filter (fun u => isCore u || isSweep u)).map
    (fun u => (List.range (queuesOf u)).map (fun q => (u, q)))).flatten

/-- Index of a queue's entry (R196). -/
def queueIndex (u : Nat) : Nat := if 128 ≤ u then 0x3680 + (u - 128) else 0x3600 + u

/-- Sub-index n of queue q (R196): 1 ring base, 2 ring size, 3 completion base, 4 head, 5 tail, 6 state, 7 sticky flags, 8 VL. -/
def qGet (s : State) (u q n : Nat) : Nat := odGet s (queueIndex u) (q * 16 + n)
def qSet (s : State) (u q n v : Nat) : State := odSet s (queueIndex u) (q * 16 + n) v

/-- Context state (0x9010 + ctx .01): 0 OFF, 1 RUNNING, 2 STOPPED, 3 DRAINED. -/
def ctxState (s : State) (c : Nat) : Nat := odGet s (0x9010 + c) 0x01

/-- The queues that a context owns. -/
def ctxQueues (s : State) (c : Nat) : List (Nat × Nat) :=
  ((unitRecs s).filter (fun r => urCtx r == c)).flatMap
    (fun r => ((List.range (queuesOf (urUnit r))).filter (fun q => bitOf (urQmask r) q)).map (fun q => (urUnit r, q)))

/-- The package is Orphaned (0x6100.02 = 2, R500). -/
def orphaned (s : State) : Bool := odGet s 0x6100 0x02 == 2

/-- A queue is IDLE when head = tail, and RUNNING otherwise (R196); states 0, 3 and 4 stand. -/
def settleQueue (s : State) (u q : Nat) : State :=
  if qGet s u q 6 = 1 ∨ qGet s u q 6 = 2 then
    qSet s u q 6 (if qGet s u q 4 = qGet s u q 5 then 1 else 2)
  else s

/-! ### Tallies -/

def tallyGet (s : State) (t : Nat) : Nat := Store.get 0 s.tallies t

/-- Set a tally (R200, R228). -/
def tallySet (s : State) (t v : Nat) : State := { s with tallies := Store.put 0 s.tallies t (wrap 32 v) }

/-- Add to a tally, a 32-bit CNT-WRAP counter (R201, R202). -/
def tallyAdd (s : State) (t a : Nat) : State := tallySet s t (tallyGet s t + a)

/-- First tally and number of tallies of a context (R212). -/
def tallyBase (s : State) (c : Nat) : Nat := bits (ctxRec s c) 113 14
def tallyCount (s : State) (c : Nat) : Nat := bits (ctxRec s c) 98 15

/-- A tally lies in the range of a context (R205). -/
def tallyIn (s : State) (c t : Nat) : Bool := tallyBase s c ≤ t && t < tallyBase s c + tallyCount s c

/-- A tally that an enabled context owns (R204). -/
def tallyOwned (s : State) (t : Nat) : Bool := (List.range 16).any (fun c => ctxEnabled s c && tallyIn s c t)

/-- The wait is met when (tally - W) mod 2^32 < 2^31 (R201). -/
def tallyMet (v w : Nat) : Bool := (v + 2 ^ 32 - w) % 2 ^ 32 < 2 ^ 31

/-! ### Core states -/

/-- 0x3000 + core id: .01 state (0 UNUSED, 1 ACTIVE, 2 SPARE, 3 FENCED, 4 TESTING), .02 position served, .03 served by (R37). -/
def coreState (s : State) (k : Nat) : Nat := odGet s (0x3000 + k) 0x01
def servedBy (s : State) (k : Nat) : Nat := odGet s (0x3000 + k) 0x03

/-- Position k is served by a core (R251). -/
def positionServed (s : State) (k : Nat) : Bool := isCore k && servedBy s k != 0xFF

/-! ### Time -/

/-- The evidence of an attestation that has been signed appears at its requester (R509). -/
def showEvidence (s : State) : State :=
  match s.signing with
  | some (p, e, due) =>
    if due ≤ s.uptime then { s with signing := none, requesters := s.requesters.map (fun r => if r.p == p then { r with evidence := e } else r) }
    else s
  | none => s

/-- One AON tick with no command waiting: the uptime count advances by one while the always-on domain runs (R19, R454). -/
def aonTick (s : State) : State := if s.aonUp then showEvidence { s with uptime := s.uptime + 1 } else s

end Sys2Proof.Machine
end

