-- ==== Sys2Proof/Machine/Operands.lean ====
section
/-! DEFINITION. Operands: fields of a command word (R222 to R248), the local address map (R249 to R256), reads and writes of the
byte memory with poison (R257 to R260), address words and rows of a product descriptor (R235, R236). -/

namespace Sys2Proof.Machine

/-! ### Command words (R221, R222) -/

/-- Bits [hi:lo] of a command word. -/
def fld (w : CmdWord) (hi lo : Nat) : Nat := bits w.toNat lo (hi + 1 - lo)

def Cmd.op (c : Cmd) : Nat := fld c.word 7 0
def Cmd.cls (c : Cmd) : Nat := fld c.word 11 8
def Cmd.est (c : Cmd) : Nat := fld c.word 23 12
def Cmd.sb (c : Cmd) : Bool := fld c.word 24 24 == 1
def Cmd.irq (c : Cmd) : Bool := fld c.word 25 25 == 1
def Cmd.wen (c : Cmd) : Bool := fld c.word 26 26 == 1
def Cmd.aen (c : Cmd) : Bool := fld c.word 27 27 == 1
def Cmd.wtally (c : Cmd) : Nat := fld c.word 41 28
def Cmd.atally (c : Cmd) : Nat := fld c.word 55 42
def Cmd.aval (c : Cmd) : Nat := fld c.word 71 56
def Cmd.wval (c : Cmd) : Nat := fld c.word 103 72

/-- The groups of R223: control, matrix, skim, sweep, transfer, fabric, collective issue, budget, reserved. -/
inductive Group where
  | control
  | matrix
  | skim
  | sweep
  | transfer
  | fabric
  | collective
  | budget
  | reserved
  deriving DecidableEq, Repr

/-- The group of an opcode (R223, R224). -/
def groupOf (op : Nat) : Group :=
  if op ≤ 0x03 then .control
  else if op = 0x20 then .matrix
  else if 0x40 ≤ op ∧ op ≤ 0x41 then .skim
  else if op = 0x60 then .sweep
  else if 0x80 ≤ op ∧ op ≤ 0x82 then .transfer
  else if 0xA0 ≤ op ∧ op ≤ 0xA3 then .fabric
  else if 0xB0 ≤ op ∧ op ≤ 0xB2 then .collective
  else if 0xC0 ≤ op ∧ op ≤ 0xC1 then .budget
  else .reserved

def Cmd.group (c : Cmd) : Group := groupOf c.op

/-- The command runs in the sequencer at issue (R200). -/
def Group.atIssue : Group → Bool
  | .control => true
  | .budget => true
  | _ => false

/-- Vector commands (R185). -/
def Group.vector : Group → Bool
  | .skim => true
  | .sweep => true
  | _ => false

/-! ### The local address map (R249 to R253) -/

/-- The region of a local offset. -/
inductive Region where
  | system
  | job
  | vacated
  | scratch (core off : Nat)
  | tally (t off : Nat)
  | reserved
  deriving DecidableEq, Repr

def jobBase : Nat := 0x40000000
def stackTop : Nat := 0x18000000000
def scratchBase : Nat := 0xE0000000000
def scratchSize : Nat := 0xC00000
def tallyWindow : Nat := 0xE0080000000

/-- First local offset above job stack memory (0x4000.01). -/
def capacity (s : State) : Nat := odGet s 0x4000 0x01

/-- The region of a local offset (R249 to R252); a scratch window is reserved while its position is served by no core (R251). -/
def region (s : State) (a : Nat) : Region :=
  if a < jobBase then .system
  else if a < capacity s then .job
  else if a < stackTop then .vacated
  else if scratchBase ≤ a ∧ a < tallyWindow then
    let k := (a - scratchBase) / 2 ^ 24
    let off := (a - scratchBase) % 2 ^ 24
    if positionServed s k && off < scratchSize then .scratch k off else .reserved
  else if tallyWindow ≤ a ∧ a < tallyWindow + 0x10000 then .tally ((a - tallyWindow) / 4) ((a - tallyWindow) % 4)
  else .reserved

/-- Local offset of byte `off` of the scratch of position k (R251). -/
def scr (k off : Nat) : Nat := scratchBase + k * 2 ^ 24 + off

/-- The range [a, a + n) lies in job stack memory. -/
def inJob (s : State) (a n : Nat) : Bool := jobBase ≤ a && a + n ≤ capacity s

/-- The range lies in the scratch window of one served position. -/
def inScratch (s : State) (a n : Nat) : Bool :=
  match region s a with
  | .scratch _ off => off + n ≤ scratchSize
  | _ => false

/-- The range is an aligned word of the tally window (R252). -/
def isTallyWord (s : State) (a n : Nat) : Bool :=
  match region s a with
  | .tally _ off => off == 0 && n == 4
  | _ => false

/-- The range can be read or written by a local unit: job stack memory or one scratch window (R249). -/
def inMemory (s : State) (a n : Nat) : Bool := inJob s a n || inScratch s a n

/-! ### Slots, cells and places (R254 to R256) -/

structure Place where
  slot : Nat
  row : Nat
  cell : Nat
  w : Nat
  place : Nat
  stack : Nat
  channel : Nat
  offset : Nat
  deriving DecidableEq, Repr

/-- Fields of an interleave table entry (R256). -/
def slotEntry (s : State) (j : Nat) : Nat := Store.get 0 s.slots j
def slotMst (s : State) (j : Nat) : Nat := bits (slotEntry s j) 8 2

/-- The place of cell e of slot j under the first override alone, and under both. -/
def placeFirst (ent e : Nat) : Nat := if bitOf ent 31 && bits ent 26 5 == e then bits ent 21 5 else e
def placeBoth (ent e : Nat) : Nat := if bitOf ent 20 && bits ent 15 5 == e then bits ent 10 5 else placeFirst ent e

/-- The place before the latest override came into force. -/
def placeOld (ent e : Nat) : Nat := if bitOf ent 20 then placeFirst ent e else e

/-- The next slot to relocate, in ascending order, and its entry (R264, step 4). -/
def pendingSlot (s : State) : Option (Nat × Nat) := s.slots.find? (fun p => bits p.2 8 2 != 0)

/-- Rows of a slot that its relocation has copied: the row pointer is that of the slot in relocation (R265). -/
def rowDone (s : State) (j : Nat) : Nat :=
  match pendingSlot s with
  | some p => if p.1 = j then s.rowPtr else 0
  | none => 0

/-- The current place of row w of cell e of slot j: the old place until the row has been relocated (R265). -/
def placeOf (s : State) (j e w : Nat) : Nat :=
  let ent := slotEntry s j
  if slotMst s j = 0 then placeBoth ent e
  else if slotMst s j = 1 then placeOld ent e
  else if w < rowDone s j then placeBoth ent e else placeOld ent e

/-- `translate` of R254. -/
def translate (s : State) (a : Nat) : Place :=
  let g := a / 512
  let j := (g ^^^ (g / 2 ^ 12) ^^^ (g / 2 ^ 24)) % 4096
  let r := g / 4096
  let e := r / 2 ^ 15
  let w := r % 2 ^ 15
  let p := placeOf s j e w
  ⟨j, r, e, w, p, (j + p) % 24, j % 32, (j / 32) * 2 ^ 24 + w * 512 + a % 512⟩

/-- State of a stack: 0 IN SERVICE, 1 RETIRING, 2 RETIRED, 3 SEALED (0x4100 + stack .01). -/
def stackState (s : State) (st : Nat) : Nat := odGet s (0x4100 + st) 0x01

/-- A stack whose cells answer as sealed: SEALED for good, or under a sealed retirement (R265 to R267). -/
def stackSealed (s : State) (st : Nat) : Bool :=
  stackState s st == 3 || s.retires.any (fun r => r.stack == st && r.sealedR)

def anySealed (s : State) : Bool := (List.range 24).any (stackSealed s)

/-- The offset lies at a sealed old place (R265). -/
def sealedAt (s : State) (a : Nat) : Bool := a < stackTop && anySealed s && stackSealed s (translate s a).stack

/-- A write of the range meets a sealed place: the writer's command ends FAULT (R265). -/
def sealedRange (s : State) (a n : Nat) : Bool :=
  anySealed s && (List.range (ceilDiv' (n + a % 512) 512)).any (fun i => sealedAt s (a / 512 * 512 + i * 512))

/-! ### Bytes and poison (R257 to R260) -/

/-- A sector of a cell whose row a sealed relocation wrote poisoned, or will, and that no whole write has cleaned since (R259, R265). -/
def sectorLost (s : State) (sec : Nat) : Bool :=
  s.lostCells != [] && sec * 64 < stackTop &&
    (let p := translate s (sec * 64)
     let from' := Store.get 0 s.lostCells (p.slot * 24 + p.cell)
     from' != 0 && decide (from' ≤ p.w + 1)) && !s.cleaned.contains sec

/-- The sector is marked poisoned. -/
def sectorMarked (s : State) (sec : Nat) : Bool := s.poison.contains sec || sectorLost s sec

/-- The sector is delivered poisoned (R258, R265). -/
def sectorBad (s : State) (sec : Nat) : Bool := sectorMarked s sec || sealedAt s (sec * 64)

/-- Sorted list with `k`. -/
def insertNat : List Nat → Nat → List Nat
  | [], k => [k]
  | j :: r, k => if k < j then k :: j :: r else if k = j then j :: r else j :: insertNat r k

def eraseNat (l : List Nat) (k : Nat) : List Nat := l.filter (· != k)

/-- Set or clear the poison mark of a sector. -/
def setMark (s : State) (sec : Nat) (on : Bool) : State :=
  if on then { s with poison := insertNat s.poison sec, cleaned := eraseNat s.cleaned sec }
  else
    let s1 := { s with poison := eraseNat s.poison sec }
    if sectorLost s1 sec then { s1 with cleaned := insertNat s1.cleaned sec } else s1

/-- The sectors of a range. -/
def sectorsOf (a n : Nat) : List Nat := if n = 0 then [] else (List.range ((a + n - 1) / 64 - a / 64 + 1)).map (a / 64 + ·)

/-- No sector can be bad: nothing is marked, lost or sealed. -/
def allClean (s : State) : Bool := s.poison == [] && s.lostCells == [] && !anySealed s

/-- The sectors of a range that are delivered poisoned. -/
def badSectors (s : State) (a n : Nat) : List Nat := if allClean s then [] else (sectorsOf a n).filter (sectorBad s)

/-- The lowest poisoned offset read in a range (R430, code 0x3001). -/
def lowestBad (s : State) (a n : Nat) : Option Nat := (badSectors s a n).head?.map (fun p => max a (p * 64))

def memByte (s : State) (a : Nat) : Byte := Store.get 0 s.mem a

/-- The bytes of a range. A word of the tally window reads as its tally (R252). -/
def memRead (s : State) (a n : Nat) : List Byte :=
  if isTallyWord s a n then leBytes 4 (tallyGet s ((a - tallyWindow) / 4)) else Store.getList 0 s.mem a n

/-- The value of n bytes, little-endian. -/
def memNat (s : State) (a n : Nat) : Nat := leNat (memRead s a n)

/-- The poison mark of a written sector: of the data when written whole, else also its own (R259, R260). `bad`: ranges of the data
that are poisoned, as (first offset, length) in the destination. -/
def markSector (a n : Nat) (bad : List (Nat × Nat)) (s : State) (sec : Nat) : State :=
  let src := bad.any (fun r => r.1 < sec * 64 + 64 && sec * 64 < r.1 + r.2)
  let whole := a ≤ sec * 64 && sec * 64 + 64 ≤ a + n
  setMark s sec (src || (!whole && sectorMarked s sec))

def markWrite (s : State) (a n : Nat) (bad : List (Nat × Nat)) : State :=
  if s.poison == [] && s.lostCells == [] && bad == [] then s else (sectorsOf a n).foldl (markSector a n bad) s

/-- Write bytes whose ranges `bad` are poisoned (R259, R260). -/
def memWriteBad (s : State) (a : Nat) (d : List Byte) (bad : List (Nat × Nat)) : State :=
  markWrite { s with mem := Store.putList 0 s.mem a d } a d.length bad

/-- Write bytes. -/
def memWrite (s : State) (a : Nat) (d : List Byte) : State := memWriteBad s a d []

/-- Write n bytes of a value, little-endian. -/
def memPut (s : State) (a n v : Nat) : State := memWrite s a (leBytes n v)

/-- Clear the scratch of a position (R36). -/
def clearScratch (s : State) (k : Nat) : State :=
  { s with mem := Store.dropRange s.mem (scr k 0) (scr k 0 + 2 ^ 24),
           poison := s.poison.filter (fun p => p * 64 < scr k 0 || scr k 0 + 2 ^ 24 ≤ p * 64) }

/-- The poisoned ranges of a source, moved to a destination (R260). -/
def moveBad (s : State) (src dst n : Nat) : List (Nat × Nat) :=
  (badSectors s src n).map (fun p =>
    let lo := max src (p * 64)
    (dst + (lo - src), min (src + n) (p * 64 + 64) - lo))

/-! ### Address words and rows (R235, R236) -/

/-- ADDR and PITCH (in 32 B units) of an address word. -/
def awAddr (w : Nat) : Nat := bits w 0 44
def awPitch (w : Nat) : Nat := bits w 48 16

/-- Offset of row r of an operand whose packed rows have `width` bytes. -/
def awRow (w width r : Nat) : Nat := awAddr w + r * (if awPitch w = 0 then width else awPitch w * 32)

/-- Quadword at byte offset `off` of a descriptor held as a number. -/
def qword (d off : Nat) : Nat := bits d (8 * off) 64

/-- Element i of packed elements of b bits in a string of bytes: a bit string, element 0 in the lowest bits (R46). -/
def elemBits (l : Nat) (b i : Nat) : Nat := bits l (b * i) b

/-- The codes of n packed elements at an offset (R46). -/
def readCodes (s : State) (a fmt n : Nat) : List Nat :=
  let v := memNat s a (fmtBytes fmt n)
  (List.range n).map (fun i => elemBits v (fmtBits fmt) i)

/-- Codes packed into bytes (R46). -/
def packCodes (fmt : Nat) (cs : List Nat) : List Byte :=
  leBytes (fmtBytes fmt cs.length) (cs.foldr (fun c acc => c % 2 ^ fmtBits fmt + acc * 2 ^ fmtBits fmt) 0)

end Sys2Proof.Machine
end

