-- ==== Sys2Proof/Machine/Flags.lean ====
section
/-! DEFINITION. The flag word of a command and the sticky flags of its queue (R62 to R64), and the stochastic rounding streams
whose draws the rounding of R55 consumes (R56, R57). -/

namespace Sys2Proof.Machine

/-! ### Flag words -/

/-- The OR of flag words (R62). -/
def orFlags (l : List Flags) : Flags := l.foldl (· ||| ·) 0

/-- What a matrix command keeps of the flags of a stage other than its output conversion: INX and UFL are never raised there (R63). -/
def matFlags (f : Flags) : Flags := f &&& (fINV ||| fDZ ||| fOFL ||| fNFIN)

/-- OR a flag word into the sticky flags of a queue (R62, R208). -/
def stickyOr (s : State) (u q : Nat) (f : Flags) : State := qSet s u q 7 (qGet s u q 7 ||| (f.toNat % 64))

/-! ### Streams -/

/-- Initial state of a stream (R56). -/
def streamInit (seed id : Nat) : Word64 := BitVec.ofNat 64 seed ^^^ (BitVec.ofNat 64 id * 0x9E3779B97F4A7C15#64)

/-- One step of a stream: the draw and the next state (R56). -/
def streamStep (id : Nat) (w : Word64) : Nat × Word64 :=
  let w' := w * 0x5851F42D4C957F2D#64 + BitVec.ofNat 64 (2 * id + 1)
  (((w' ^^^ (w' >>> 29)) >>> 40).toNat % 65536, w')

/-- The seed of an epoch: the SR seed in force when its commands were admitted (R57). -/
def seedOf (s : State) (epoch : Nat) : Nat := Store.get 0 s.seeds epoch

/-- Streams are listed by epoch × 2^40 + id. -/
def streamKey (epoch id : Nat) : Nat := epoch * 2 ^ 40 + id

def streamGet (s : State) (epoch id : Nat) : Word64 :=
  Store.get (streamInit (seedOf s epoch) id) s.streams (streamKey epoch id)

def streamPut (s : State) (epoch id : Nat) (w : Word64) : State :=
  { s with streams := Store.put (streamInit (seedOf s epoch) id) s.streams (streamKey epoch id) w }

/-- A draw from a stream. -/
def draw (s : State) (epoch id : Nat) : Nat × State :=
  let r := streamStep id (streamGet s epoch id)
  (r.1, streamPut s epoch id r.2)

/-- A draw from each stream of a list, in order. -/
def drawList (epoch : Nat) : List Nat → State → List Nat × State
  | [], s => ([], s)
  | id :: r, s =>
    let d := draw s epoch id
    let t := drawList epoch r d.2
    (d.1 :: t.1, t.2)

/-- Stream ids (R56). -/
def addStream (array c : Nat) : Nat := array * 256 + c
def drainStream (array c : Nat) : Nat := array * 256 + 128 + c
def skimStream (k l : Nat) : Nat := 0x10000000 + k * 256 + l
def sweepStream (su l : Nat) : Nat := 0x20000000 + su * 512 + l

end Sys2Proof.Machine
end

