-- ==== Sys2Proof/Machine/Commands.lean ====
section
/-! DEFINITION. The life of a command beyond its own effect: selection among the commands in flight (R198), completion with its
tally add, sticky flags and record (R202, R203, R206), hawks and held sets (R140 to R142), the stop of a context (R209), draining
(R219, R220), and the back-invalidate filter that a local write meets (R489). -/

namespace Sys2Proof.Machine

/-! ### Commands in flight -/

def sameCmd (c d : Cmd) : Bool := c.u == d.u && c.q == d.q && c.serial == d.serial

/-- The commands of a queue in program order. -/
def qCmds (s : State) (u q : Nat) : List Cmd := s.cmds.filter (fun c => c.u == u && c.q == q)

/-- Replace a command by its new value. -/
def putCmd (s : State) (c : Cmd) : State := { s with cmds := mapFirst (sameCmd c) (fun _ => c) s.cmds }

def dropCmd (s : State) (c : Cmd) : State := { s with cmds := s.cmds.filter (fun d => !sameCmd c d) }

def findCmd (s : State) (u q serial : Nat) : Option Cmd :=
  s.cmds.find? (fun c => c.u == u && c.q == q && c.serial == serial)

/-- The first command of a queue in a stage. -/
def firstIn (s : State) (u q : Nat) (st : Stage) : Option Cmd := (qCmds s u q).find? (fun c => c.stage == st)

/-- The commands of a queue that are issued and not yet complete (R198). -/
def inFlight (s : State) (u q : Nat) : List Cmd :=
  (qCmds s u q).filter (fun c => c.stage != .fetched && c.stage != .done)

/-- The command has been admitted and not yet completed. -/
def Cmd.running (c : Cmd) : Bool := c.stage == .admitted || c.stage == .parked || c.stage == .held

/-- The tally wait of a command is met (R201); a command without a wait has none. -/
def waitMet (s : State) (c : Cmd) : Bool := !c.wen || tallyMet (tallyGet s c.wtally) c.wval

/-! ### The back-invalidate filter (R489) -/

/-- The filtered or awaited lines among the written ranges. -/
def snooped (s : State) (ranges : List (Nat × Nat)) : List Nat :=
  (s.biFilter ++ s.biHeld).filter (fun l => ranges.any (fun r => r.1 < l * 64 + 64 && l * 64 < r.1 + r.2))

/-- Issue BISnpInv for the filtered lines that a write meets. -/
def issueSnoops (s : State) (ranges : List (Nat × Nat)) : State :=
  let l := (snooped s ranges).filter (fun x => s.biFilter.contains x)
  let s1 := { s with biFilter := s.biFilter.filter (fun x => !l.contains x), biHeld := s.biHeld ++ l }
  odBump (emitAll s1 (l.map (fun x => Output.bisnpInv x))) 0x6300 0x04 l.length

/-- A local write of ranges: carried out at once where the host holds no line of them; otherwise the invalidations are issued and
the write waits for the responses. -/
def localWrite (s : State) (ranges : List (Nat × Nat)) (f : State → State) : State :=
  if (s.biFilter == [] && s.biHeld == []) || snooped s ranges == [] then f s
  else if ((snooped s ranges).any (fun x => s.biFilter.contains x)) then issueSnoops s ranges else s

/-! ### Completion records (R206) -/

/-- The record of a completion. -/
def recordWord (s : State) (c : Cmd) (status code tval : Nat) (flags : Flags) : Nat :=
  let n := qGet s c.u c.q 2
  s.uptime % 2 ^ 64 * 2 ^ 192 + min c.energy (2 ^ 32 - 1) * 2 ^ 160 + tval * 2 ^ 128 + c.serial % 2 ^ 32 * 2 ^ 96 + code * 2 ^ 80
    + (flags.toNat % 64) * 2 ^ 72 + status * 2 ^ 64 + c.op * 2 ^ 56 + c.u * 2 ^ 48 + c.q * 2 ^ 44
    + (1 - c.serial / 2 ^ n % 2) * 2 ^ 43 + c.rerun.toNat * 2 ^ 42 + c.sb.toNat * 2 ^ 41

def recStatus (r : Nat) : Nat := bits r 64 8

/-- Host range record i (R487). -/
def hostRange (s : State) (i : Nat) : Nat := bits (odGet s 0x6400 0x01) (128 * i) 128

/-- A host access of [a, a + n) lies in a valid record that permits it (R487). -/
def hostOk (s : State) (a n : Nat) (write : Bool) : Bool :=
  (List.range 16).any (fun i =>
    let r := hostRange s i
    bitOf r 0 && bitOf r (if write then 2 else 1) && bits r 64 64 ≤ a && a + n ≤ bits r 64 64 + bits r 24 40 * 4096)

/-- A path to host memory: CXL.cache where the host has enabled it and feature 17 is in force, otherwise CXL.io with bus mastering enabled
(R486). -/
def hostPath (s : State) : Bool := s.linkUp && ((bitOf (odGet s 0x6000 0x04) 1 && bitOf s.features 17) || s.busMaster)

/-- A write of host memory whose ranges `bad` go poisoned (R260): sent, or discarded and counted when no range or path permits it (R486, R487). -/
def hostWrite (s : State) (a : Nat) (d : List Byte) (bad : List (Nat × Nat)) : State :=
  if hostOk s a d.length true && hostPath s then emit s (.hostWrite a d bad) else odBump s 0x6000 0x08 1

/-- Where the record of a serial goes: host bit and address (R206). -/
def recordSlot (s : State) (u q serial : Nat) : Bool × Nat :=
  let b := qGet s u q 3
  (bitOf b 63, bits b 0 44 + 32 * (serial % 2 ^ qGet s u q 2))

/-- Write a record into the completion ring, and raise the queue's vector where R206 says so. -/
def writeRecord (s : State) (u q serial r : Nat) (irq : Bool) : State :=
  let a := recordSlot s u q serial
  let s1 := if a.1 then hostWrite s a.2 (leBytes 32 r) []
            else if inJob s a.2 32 then memPut s a.2 32 r else s
  if irq || 2 ≤ recStatus r then
    match ctxOf s u q with
    | some c => raiseVector s1 (32 + c)
    | none => s1
  else s1

/-- Write a record, or hold it while the host has a line of its slot (R489). -/
def writeOrHold (s : State) (x : Nat × Nat × Nat) : State :=
  let a := recordSlot s (x.1 / 16) (x.1 % 16) x.2.1
  if !a.1 && snooped s [(a.2, 32)] != [] then { (issueSnoops s [(a.2, 32)]) with heldRecords := s.heldRecords ++ [x] }
  else writeRecord s (x.1 / 16) (x.1 % 16) x.2.1 x.2.2 false

/-- Write the records of a queue in serial order, up to the first command that is not complete (R206), `n` at most. -/
def writeRecords : Nat → State → Nat → Nat → State
  | 0, s, _, _ => s
  | n + 1, s, u, q =>
    match qCmds s u q with
    | c :: _ =>
      if c.stage == .done then
        let a := recordSlot s u q c.serial
        if !a.1 && snooped s [(a.2, 32)] != [] then issueSnoops s [(a.2, 32)]
        else writeRecords n (writeRecord (dropCmd s c) u q c.serial c.record c.irq) u q
      else s
    | [] => s

/-! ### Hawks and weight tiles (R140 to R142) -/

def getHawk (s : State) (id : Nat) : Hawk := (s.hawks.find? (fun h => h.id == id)).getD ⟨id, none, [], none, 0⟩

def putHawk (s : State) (h : Hawk) : State :=
  { s with hawks := if h.owner == none && h.held == none && h.tiles == [] then s.hawks.filter (fun x => x.id != h.id)
                    else h :: s.hawks.filter (fun x => x.id != h.id) }

/-- Release the hawks a command claims. A held set stays when `keep` (a pre-emption, R142). -/
def releaseHawks (s : State) (c : Cmd) (keep : Bool) : State :=
  { s with hawks := (s.hawks.map (fun h =>
      if h.owner == some (c.u, c.q, c.serial) then
        (if keep && h.held.isSome then h else { h with owner := none, tiles := [], held := none })
      else h)).filter (fun h => h.owner != none || h.held != none || h.tiles != []) }

/-- Discard the held sets of a queue (R142). -/
def discardHeld (s : State) (u q : Nat) : State :=
  let mine : Hawk → Bool := fun h => h.id / 2 == u && (match h.held with | some x => x.1 == q | none => false)
  let n := (s.hawks.filter mine).length
  if n = 0 then s else odBump { s with hawks := s.hawks.filter (fun h => !mine h) } (0x3200 + u) 0x0B n

/-- Drop the weight tiles of a command. -/
def dropTiles (s : State) (c : Cmd) : State :=
  { s with wtiles := s.wtiles.filter (fun w => !(w.u == c.u && w.q == c.q && w.serial == c.serial)) }

/-! ### Charged energy by windows (R530) -/

/-- Part i of n equal parts of an energy. -/
def energyPart (total n i : Nat) : Nat := (i + 1) * total / n - i * total / n

/-- Add to the present window of a die. -/
def addWindow (s : State) (d e : Nat) : State :=
  { s with nominal := s.nominal.mapIdx (fun i l => if i = d then (match l with | [] => [e] | x :: r => (x + e) :: r) else l) }

/-- Count the rest of a completed command's energy in the present window. -/
def settleEnergy (s : State) (c : Cmd) : State :=
  if c.winDone < c.winTotal then
    addWindow s (dieOf c.u) (c.nominal - c.winDone * c.nominal / c.winTotal)
  else s

/-! ### Reports of commands -/

/-- The report of a fault of a command (R427, R429); OPHASH over the command word, or over captured operands when given. -/
def cmdReport (s : State) (c : Cmd) (code unit detail peer : Nat) (operands : Option (List Byte)) : Report :=
  { seq := 0, uptime := 0, ophash := crc64 (operands.getD (leBytes 32 c.word.toNat)), detail := detail, unit := unit,
    serial := c.serial, code := code, temp := 0, volt := 0, opcode := c.op, qunit := c.u, queue := c.q,
    ctx := (ctxOf s c.u c.q).getD 0, sev := severityOf code, opv := true, peer := peer }

/-! ### Draining (R219, R220) -/

def drainKey (u q : Nat) : Nat := u * 16 + q

/-- No step-boundary command was found at the lapse. -/
def noLimit : Nat := 2 ^ 32

/-- Commands of a queue that were fetched or issued and never admitted. -/
def neverAdmitted (s : State) (u q : Nat) : List Cmd :=
  (qCmds s u q).filter (fun c => c.stage == .fetched || (c.stage == .issued && !c.preempted))

/-- Set such commands aside: they write no record, and the head returns to the first of them (R219). -/
def setAside (s : State) (u q : Nat) : State :=
  match neverAdmitted s u q with
  | [] => s
  | c :: r =>
    let s1 := (c :: r).foldl (fun s x => dropTiles (dropCmd (releaseHawks s x true) x) x) s
    qSet { s1 with hawks := s1.hawks.map (fun h =>
      if (c :: r).any (fun x => h.owner == some (x.u, x.q, x.serial)) then { h with owner := none } else h) } u q 4 c.serial

/-- The context shows DRAINED once every queue it owns that is not DISABLED is DRAINED (R220). -/
def settleContext (s : State) (c : Nat) : State :=
  if ctxState s c = 1 && (ctxQueues s c).all (fun p => qGet s p.1 p.2 6 == 4 || qGet s p.1 p.2 6 == 0) then
    stateChange s pkgUnit (0x9010 + c) 0x01 3 0 0
  else s

/-- A queue becomes DRAINED (R219). -/
def becomeDrained (s : State) (u q : Nat) : State :=
  let s1 := discardHeld (setAside s u q) u q
  let s2 := qSet { s1 with draining := s1.draining.filter (fun p => p.1 != drainKey u q) } u q 6 4
  match ctxOf s2 u q with
  | some c => settleContext s2 c
  | none => s2

/-- After a completion in a draining queue: DRAINED once the step-boundary command has completed, or, where none was found, once no
admitted command is left (R219). -/
def drainCheck (s : State) (u q : Nat) (done : Option Nat) : State :=
  match s.draining.find? (fun p => p.1 == drainKey u q) with
  | none => s
  | some p =>
    if p.2 = noLimit then
      if (qCmds s u q).any (fun c => c.running || c.preempted && c.stage != .done) then s else becomeDrained s u q
    else if done = some p.2 then becomeDrained s u q else s

/-! ### Completion (R202, R203, R206) -/

/-- Status codes (R207). -/
def stOK : Nat := 0x00
def stSKIPPED : Nat := 0x01
def stILLEGAL : Nat := 0x10
def stFAULT : Nat := 0x11
def stPOISON : Nat := 0x12
def stABORTED : Nat := 0x13
def stTIMEOUT : Nat := 0x14
def stFABRIC : Nat := 0x15

/-- The add of a completing command: applied once, and only with status OK or SKIPPED (R202). -/
def applyAdd (s : State) (c : Cmd) (status : Nat) : State :=
  if c.aen && status ≤ 1 then tallyAdd s c.atally c.aval else s

/-- The command in its last form, with the record it will write (R206). -/
def Cmd.complete (c : Cmd) (record : Nat) : Cmd := { c with stage := .done, preempted := false, msgs := [], record := record }

/-- After a completion: the hawks and tiles it claimed are released, poison sets its snag, SB discards held sets, records leave in
serial order (R206), and a draining queue may have reached its end (R219). A running consumer whose held set SB discards waits on without
tiles until its context stops: R142 does not say what becomes of it (DESIGN CHOICE, log 153). -/
def afterCompletion (s : State) (c : Cmd) (status : Nat) : State :=
  let s1 := dropTiles (releaseHawks s c false) c
  let s2 := if status = stPOISON then snagSet s1 135 else s1
  let s3 := if c.sb then discardHeld s2 c.u c.q else s2
  drainCheck (writeRecords s3.cmds.length s3 c.u c.q) c.u c.q (some c.serial)

/-- Every command's completion: the add, the sticky flags, the record held until its serial order allows it (R206). -/
def completeCmd (s : State) (c : Cmd) (status code : Nat) : State :=
  let s1 := applyAdd s c status
  let tval := if c.aen && status ≤ 1 then tallyGet s1 c.atally else 0
  let s2 := stickyOr s1 c.u c.q (c.flags ||| c.oldFlags)
  afterCompletion (settleEnergy (putCmd s2 (c.complete (recordWord s2 c status code tval c.flags))) c) c status

/-! ### Valid bits (R102) -/

def validGet (s : State) (array : Nat) : Nat := Store.get 0 s.valid array
def validPut (s : State) (array v : Nat) : State := { s with valid := Store.put 0 s.valid array v }

/-- The column halves that HALF or a region names: 0 and 3 the whole width, 1 left, 2 right. -/
def halvesOf (h : Nat) : List Nat := if h = 1 then [0] else if h = 2 then [1] else [0, 1]

/-- The mask of segments base to base + cnt - 1 of a bank and halves. -/
def tileMask (bank half base cnt : Nat) : Nat :=
  ((halvesOf half).map (fun h => (2 ^ cnt - 1) * 2 ^ (64 * bank + 32 * h + base))).foldl (· ||| ·) 0

def clearMask (v m : Nat) : Nat := v - (v &&& m)

/-- Clear the valid bits of a tile; a tile that had any is counted (0x3300 + core id .07). -/
def invalidateTile (s : State) (array bank half base cnt : Nat) : State :=
  let v := validGet s array
  let m := tileMask bank half base cnt
  if v &&& m = 0 then s else odBump (validPut s array (clearMask v m)) (0x3300 + array / 8) 0x07 1

/-- The arrays of engine e (0 F, 1 B): a = 0 to 1, or 2 to 5 (R13). -/
def engineArrays (e : Nat) : List Nat := if e = 0 then [0, 1] else [2, 3, 4, 5]

/-- Clear the valid bits of every tile of a context's regions (R129). The valid bits of a region in one bank of one array that had any
set count as one invalidated tile: the package keeps no record of which tiles they were set as (DESIGN CHOICE, log 125). -/
def invalidateContext (s : State) (ctx : Nat) : State :=
  ((unitRecs s).filter (fun r => urCtx r == ctx && !bitOf r 115)).foldl (fun s r =>
    [0, 1].foldl (fun s e =>
      if urHalf r e = 0 || urCnt r e = 0 then s
      else (engineArrays e).foldl (fun s a =>
        [0, 1].foldl (fun s bank => invalidateTile s (urUnit r * 8 + a) bank (urHalf r e) (urBase r e) (urCnt r e)) s) s) s) s

/-! ### The stop of a context (R209) -/

/-- Commands that a stop ends: every fetched or issued command, and every admitted one that is not a vector command (R209, steps 2 and 3;
DEDUCED of control commands and of vector commands not yet admitted, log 35). -/
def stops (c : Cmd) : Bool :=
  match c.stage with
  | .fetched => true
  | .issued => true
  | .admitted => !c.group.vector
  | .parked => !c.group.vector
  | _ => false

/-! Fields of COPY (R239) -/

def cpLEN (w : CmdWord) : Nat := fld w 241 210
def cpDHOST (w : CmdWord) : Bool := fld w 209 209 == 1
def cpDST (w : CmdWord) : Nat := fld w 208 157
def cpSHOST (w : CmdWord) : Bool := fld w 156 156 == 1
def cpSRC (w : CmdWord) : Nat := fld w 155 104

/-- Bytes that nothing defines: the delivery of a host read that failed (R486). -/
def freeBytes (s : State) (n : Nat) : List Byte × State :=
  ((List.range n).map (fun i => Config.freeByte s.free i), { s with free := s.free + 1 })

/-- The poisoned ranges that a COPY of n bytes takes with it (R260); `host`: a host read that was delivered poisoned. -/
def copyMarks (s : State) (w : CmdWord) (n : Nat) (host : Bool) : List (Nat × Nat) :=
  if cpSHOST w then (if host then [(cpDST w, n)] else [])
  else if isTallyWord s (cpSRC w) n then [] else moveBad s (cpSRC w) (cpDST w) n

/-- The first n bytes of a COPY that stops there are written: those of a host source are free bytes, as its read is the host's answer. -/
def copyPart (s : State) (w : CmdWord) (n : Nat) : State :=
  let d : List Byte × State := if cpSHOST w then freeBytes s n else (memRead s (cpSRC w) n, s)
  if cpDHOST w then hostWrite d.2 (cpDST w) d.1 (copyMarks s w n false)
  else if !inMemory s (cpDST w) n || sealedRange s (cpDST w) n then s
  else localWrite d.2 [(cpDST w, n)] (fun t => memWriteBad t (cpDST w) d.1 (copyMarks s w n false))

/-- A running COPY that is stopped has moved its bytes up to a 4 KiB boundary of the destination (R209, R239): which of the boundaries
inside the destination it has reached, or none, is free (log 60). -/
def copyStopped (s : State) (c : Cmd) : State :=
  if c.op = 0x80 ∧ c.stage = .admitted then
    let first := 4096 - cpDST c.word % 4096
    let inside := if first < cpLEN c.word then 1 + (cpLEN c.word - first - 1) / 4096 else 0
    let k := Config.freeNat 4 s.free % (inside + 1)
    let s1 := { s with free := s.free + 1 }
    if k = 0 then s1 else copyPart s1 c.word (first + (k - 1) * 4096)
  else s

/-- End a command ABORTED (R207). -/
def abortCmd (s : State) (c : Cmd) (code : Nat) : State :=
  let s1 := completeCmd (copyStopped s c) c stABORTED code
  if code = 0x6003 then fileReport s1 (cmdReport s c code (unitOf c.u) 0 noPeer none) else s1

/-- Drop the fetched commands of a queue; the first one's slot becomes the head again. -/
def unfetch (s : State) (u q : Nat) : State :=
  match firstIn s u q .fetched with
  | some c => qSet { s with cmds := s.cmds.filter (fun d => !(d.u == u && d.q == q && d.stage == .fetched)) } u q 4 c.serial
  | none => s

/-- End the collective that runs on a channel: it has taken the channel's serial (R353, R388). -/
def endColl (s : State) (k : Chan) (stopped : Bool) : State :=
  let clear := fun (x : Chan) => { x with chunks := [], landed := [], readyIn := [], edges := [], run := none, stopped := stopped }
  let s1 := { s with chans := mapFirst (fun x => x.id == k.id) clear s.chans }
  odSet (odSet s1 (0x9100 + k.id) 0x05 (wrap 32 (odGet s1 (0x9100 + k.id) 0x05 + 1))) (0x9100 + k.id) 0x01 1

/-- CTX of a channel record (R348). -/
def crCTX (r : Nat) : Nat := bits r 252 4

/-- The channels of a stopping context: chunks are answered BUSY until the channel's next collective is admitted (R388). -/
def stopChans (s : State) (ctx : Nat) : State :=
  { s with chans := s.chans.map (fun k => if crCTX k.crecord == ctx then { k with stopped := true } else k) }

/-- End the collectives of a queue that stops (R388). -/
def endColls (s : State) (u q : Nat) : State :=
  (s.chans.filter (fun k => match k.run with | some r => r.u == u && r.q == q | none => false)).foldl (fun s k => endColl s k true) s

/-- Stop one queue of a context: STOPPED with its head where it stands, its drain at an end, unfinished work ended ABORTED, held sets discarded (R209,
R142). -/
def stopQueue (s : State) (u q : Nat) : State :=
  let s1 := qSet s u q 6 3
  let s2 := { s1 with draining := s1.draining.filter (fun p => p.1 != drainKey u q) }
  let s3 := endColls (((qCmds s2 u q).filter stops).foldl (fun s c => abortCmd s c 0x6002) s2) u q
  discardHeld { s3 with screeds := s3.screeds.filter (fun x => !(x.u == u && x.q == q)) } u q

/-- Stop every queue that a context owns. -/
def stopQueues (s : State) (ctx : Nat) : State := (ctxQueues s ctx).foldl (fun s p => stopQueue s p.1 p.2) s

/-- The head of the stopping command's queue stays just past it. -/
def headPast (s : State) (head : Option (Nat × Nat × Nat)) : State :=
  match head with
  | some (u, q, n) => qSet s u q 4 (wrap 32 (n + 1))
  | none => s

/-- Stop a context (R209, steps 1 to 4); `head` names the queue whose head stays just past the stopping command. -/
def stopContext (s : State) (ctx code : Nat) (head : Option (Nat × Nat × Nat)) : State :=
  if ctxState s ctx = 2 || ctxState s ctx = 0 then s
  else invalidateContext (stopChans (headPast (stopQueues (stateChange s pkgUnit (0x9010 + ctx) 0x01 2 code (severityOf code)) ctx) head) ctx) ctx

/-- Stop the context that owned a queue. -/
def stopOwner (s : State) (owner : Option Nat) (code : Nat) (c : Cmd) : State :=
  match owner with
  | some ctx => stopContext s ctx code (some (c.u, c.q, c.serial))
  | none => s

/-- An error of the arrays, the hawks or the skim chain, codes 0x1000 to 0x2FFF, against the core or an array counts toward the core's fence
(R434). -/
def noteFault (s : State) (status code unit core : Nat) : State :=
  if status = stFAULT && (bits unit 28 4 == 1 || bits unit 28 4 == 2) && 0x1000 ≤ code && code < 0x3000 then { s with fenceErrs := s.fenceErrs ++ [(core, s.uptime)] } else s

/-- Complete a command with a status that stops its context, and file its report (R207, R209). -/
def failCmd (s : State) (c : Cmd) (status code : Nat) (r : Report) : State :=
  fileReport (noteFault (stopOwner (completeCmd s c status code) (ctxOf s c.u c.q) code c) status r.code r.unit (servedBy s c.u)) r

/-- Complete a command OK or SKIPPED. -/
def finishCmd (s : State) (c : Cmd) (status : Nat) : State := completeCmd s c status 0

/-- Reject a word (R225): status ILLEGAL with its code, and the report of R430. -/
def rejectCmd (s : State) (c : Cmd) (code : Nat) : State :=
  failCmd s c stILLEGAL code (cmdReport s c code (unitOf c.u) 0 noPeer none)

end Sys2Proof.Machine
end

