-- ==== Sys2Proof/Machine/Legality.lean ====
section
/-! DEFINITION. The checks of a command word at issue (R221 to R248): each illegal-word code of R226 as the list of conditions that
reject with it, taken in ascending order of code (R225). -/

namespace Sys2Proof.Machine

/-! ### Fields of the matrix command (R233) -/

def mmEng (w : CmdWord) : Nat := fld w 104 104
def mmGrad (w : CmdWord) : Nat := fld w 106 105
def mmDefer (w : CmdWord) : Bool := fld w 107 107 == 1
def mmHA (w : CmdWord) : Nat := fld w 109 108
def mmHW (w : CmdWord) : Nat := fld w 111 110
def mmHSRC (w : CmdWord) : Nat := fld w 113 112
def mmRBW (w : CmdWord) : Bool := fld w 114 114 == 1
def mmHRM (w : CmdWord) : Bool := fld w 115 115 == 1
def mmACC (w : CmdWord) : Bool := fld w 116 116 == 1
def mmKEEP (w : CmdWord) : Bool := fld w 117 117 == 1
def mmRES (w : CmdWord) : Bool := fld w 118 118 == 1
def mmCHK (w : CmdWord) : Bool := fld w 119 119 == 1
def mmHALF (w : CmdWord) : Nat := fld w 121 120
def mmAMASK (w : CmdWord) : Nat := fld w 125 122
def mmBANK (w : CmdWord) : Nat := fld w 126 126
def mmRBASE (w : CmdWord) : Nat := fld w 131 127
def mmRCNT (w : CmdWord) : Nat := fld w 137 132
def mmWBEN (w : CmdWord) : Bool := fld w 138 138 == 1
def mmWBASE (w : CmdWord) : Nat := fld w 143 139
def mmAFMT (w : CmdWord) : Nat := fld w 147 144
def mmWFMT (w : CmdWord) : Nat := fld w 151 148
def mmKLEN (w : CmdWord) : Nat := fld w 168 152
def mmNCOL (w : CmdWord) : Nat := fld w 176 169
def mmWSRC (w : CmdWord) : Bool := fld w 177 177 == 1
def mmWSTRM (w : CmdWord) : Nat := fld w 178 178
def mmDESC (w : CmdWord) : Nat := fld w 196 179
def mmFN (w : CmdWord) : Nat := fld w 199 197
def mmSOP (w : CmdWord) : Nat := fld w 201 200
def mmDF (w : CmdWord) : Nat := fld w 204 202
def mmRST (w : CmdWord) : Nat := fld w 206 205
def mmEXPO (w : CmdWord) : Bool := fld w 207 207 == 1
def mmCINIT (w : CmdWord) : Bool := fld w 208 208 == 1
def mmSSQ (w : CmdWord) : Bool := fld w 209 209 == 1
def mmSSQC (w : CmdWord) : Bool := fld w 210 210 == 1
def mmMASK (w : CmdWord) : Bool := fld w 211 211 == 1
def mmZOUT (w : CmdWord) : Bool := fld w 212 212 == 1
def mmSCL (w : CmdWord) : Bool := fld w 213 213 == 1
def mmBIAS (w : CmdWord) : Bool := fld w 214 214 == 1
def mmRSCL (w : CmdWord) : Bool := fld w 215 215 == 1
def mmOFMT (w : CmdWord) : Nat := fld w 219 216
def mmZFMT (w : CmdWord) : Nat := fld w 223 220
def mmRM (w : CmdWord) : Bool := fld w 224 224 == 1
def mmSAT (w : CmdWord) : Bool := fld w 225 225 == 1
def mmOUT (w : CmdWord) : Nat := fld w 227 226
def mmOHAWK (w : CmdWord) : Nat := fld w 228 228

/-- Rows per array (R233). -/
def mmM (w : CmdWord) : Nat := 32 * mmRCNT w

/-- Positions of the arrays named in AMASK, ascending (R236). -/
def mmArrays (w : CmdWord) : List Nat := (List.range 4).filter (fun e => bitOf (mmAMASK w) e)

/-- Array id of position e of the engine on position k (R13). -/
def mmArrayId (k : Nat) (w : CmdWord) (e : Nat) : Nat := k * 8 + (if mmEng w = 0 then e else 2 + e)

/-- Rows of the command's matrix (R236). -/
def mmRows (w : CmdWord) : Nat := (mmArrays w).length * mmM w

/-- Working row base in segments (R101, R234). -/
def mmWB (w : CmdWord) : Nat := if mmWBEN w then mmWBASE w else mmRBASE w

/-- The command runs checked (R95): its check bit, or the job's policy at its issue (DESIGN CHOICE, log 123). -/
def mmChecked (s : State) (w : CmdWord) : Bool := mmCHK w || odGet s 0x9000 0x0A == 1

/-- BF16 compatibility applies to the command (R154). -/
def mmCompat (s : State) (w : CmdWord) : Bool := bitOf s.features 20 && odGet s 0x9000 0x07 == 1 && mmGrad w != 0

/-- A hawk delivers an operand (R133). -/
def mmHawked (w : CmdWord) : Bool := mmHA w != 0 || mmHW w != 0

/-- The K-slice of a weight tile (R68, R135, R234). -/
def mmSlice (w : CmdWord) : Nat := if mmAFMT w = 9 && mmWFMT w = 9 && !mmHawked w then 256 else 128

/-- Weight tiles of the command, each one pass (R69, R234). -/
def mmPasses (w : CmdWord) : Nat := ceilDiv' (mmKLEN w) (mmSlice w)

/-- First column of the command's tile, and its number of columns (R91, R100). -/
def mmCol0 (w : CmdWord) : Nat := if mmHALF w = 2 then 64 else 0
def mmWidth (w : CmdWord) : Nat := if mmHALF w = 0 then 128 else 64

/-- The hawk numbers (0, 1) of the row-feed operand and of the weight-tile operand (R133). -/
def mmHaList (w : CmdWord) : List Nat := if mmHA w = 1 then [0] else if mmHA w = 2 then [1] else if mmHA w = 3 then [0, 1] else []
def mmHwList (w : CmdWord) : List Nat := if mmHW w = 1 then [0] else if mmHW w = 2 then [1] else []

/-- Positions of the arrays that hawk h feeds (R133, R136). -/
def mmFed (w : CmdWord) (h : Nat) : List Nat :=
  if mmHA w = 3 then (mmArrays w).filter (fun e => e / 2 == h) else mmArrays w

/-- Tiles of one pass through hawk h (R138): one for a weight loader or a screed stream, one per fed array and 128 rows else. -/
def mmTilesPerPass (w : CmdWord) (h : Nat) : Nat :=
  if mmHwList w = [h] then 1 else if mmHSRC w = 2 then 1 else (mmFed w h).length * ceilDiv' (mmM w) 128

/-! ### Address words of the product descriptor (R235, R236) -/

/-- A region that a command reads or writes through one address word: rows of `width` bytes at a stride (R118). -/
structure Span where
  slot : Nat
  addr : Nat
  width : Nat
  stride : Nat
  rows : Nat
  /-- in scratch, or (hawk from stack memory) a local offset -/
  stack : Bool
  reads : Bool
  writes : Bool
  deriving DecidableEq, Repr

def mkSpan (d slot width rows : Nat) (stack reads writes : Bool) : Span :=
  let w := qword d slot
  ⟨slot, awAddr w, width, if awPitch w = 0 then width else awPitch w * 32, rows, stack, reads, writes⟩

/-- A span's last byte plus one. -/
def Span.stop (p : Span) : Nat := if p.rows = 0 then p.addr else p.addr + (p.rows - 1) * p.stride + p.width

/-- Some byte of [x, x + n) belongs to a span (R118). -/
def Span.meets (p : Span) (x n : Nat) : Bool :=
  if p.stride = 0 then p.rows != 0 && x < p.addr + p.width && p.addr < x + n
  else
    let lo := if p.addr + p.width ≤ x then (x - (p.addr + p.width)) / p.stride + 1 else 0
    lo < p.rows && p.addr + lo * p.stride < x + n && p.width != 0 && n != 0

/-- Two spans share a byte. -/
def Span.overlaps (p q : Span) : Bool := (List.range p.rows).any (fun r => q.meets (p.addr + r * p.stride) p.width)

/-- Stored width of n elements, and of their scales along a row (R236). -/
def rowBytes (fmt n : Nat) : Nat := fmtBytes fmt n
def sclBytes (n : Nat) : Nat := ceilDiv' n 32

/-- Which address words a command requires (R235). -/
def mmNeeds (w : CmdWord) (slot : Nat) (ufmt : Nat) : Bool :=
  let held := mmHSRC w = 3
  let wfrom := (!mmWSRC w && mmHW w = 0) || (mmHW w ≠ 0 && mmHSRC w ≤ 1)
  match slot with
  | 0x00 => mmHA w = 0 || !held
  | 0x08 => isMX (mmAFMT w) && !(mmHA w ≠ 0 && held)
  | 0x10 => wfrom
  | 0x18 => wfrom && isMX (mmWFMT w)
  | 0x20 => mmOUT w = 1
  | 0x28 => mmOUT w = 1 && isMX (mmOFMT w)
  | 0x30 => mmZOUT w
  | 0x38 => mmZOUT w && isMX (mmZFMT w)
  | 0x40 => mmSOP w ≠ 0
  | 0x48 => mmSOP w ≠ 0 && isMX ufmt
  | 0x50 => mmBIAS w
  | 0x58 => mmRSCL w
  | 0x60 => mmSOP w = 2
  | 0x68 => mmRST w ≠ 0
  | 0x70 => mmSSQ w
  | _ => false

/-- UFMT of a descriptor (R235). -/
def pdUFMT (d : Nat) : Nat := bits (qword d 0x80) 32 4

/-- The spans of a command (R236). Through a hawk the stored rows run along the other axis: K rows of the command's rows for the
row-feed operand, NCOL rows of K elements for the weight-tile operand (R132). The sum-of-squares region is one FP32 scalar for each
named array (R116). -/
def mmSpans (w : CmdWord) (d : Nat) : List Span :=
  let m := mmRows w
  let k := mmKLEN w
  let n := mmNCOL w
  let fromStack := mmHSRC w = 1
  let a := if mmHA w = 0 then [mkSpan d 0x00 (rowBytes (mmAFMT w) k) m false true false, mkSpan d 0x08 (sclBytes k) m false true false]
    else if mmHSRC w ≤ 1 then [mkSpan d 0x00 (rowBytes (mmAFMT w) m) k fromStack true false,
                               mkSpan d 0x08 (sclBytes m) k fromStack true false]
    else []
  let wt := if mmHW w ≠ 0 then [mkSpan d 0x10 (rowBytes (mmWFMT w) k) n fromStack true false,
                                mkSpan d 0x18 (sclBytes k) n fromStack true false]
    else [mkSpan d 0x10 (rowBytes (mmWFMT w) n) k false true false,
          if mmRBW w then mkSpan d 0x18 (sclBytes n) k false true false else mkSpan d 0x18 n (k / 32) false true false]
  let u := pdUFMT d
  (a ++ wt ++
    [mkSpan d 0x20 (rowBytes (mmOFMT w) n) m false false true, mkSpan d 0x28 (sclBytes n) m false false true,
     mkSpan d 0x30 (rowBytes (mmZFMT w) n) m false false true, mkSpan d 0x38 (sclBytes n) m false false true,
     mkSpan d 0x40 (rowBytes u n) m false true false, mkSpan d 0x48 (sclBytes n) m false true false,
     mkSpan d 0x50 512 1 false true false, mkSpan d 0x58 4 m false true false, mkSpan d 0x60 4 m false true false,
     mkSpan d 0x68 16 m false (!mmCINIT w) true]
    ++ (mmArrays w).map (fun e => { (mkSpan d 0x70 4 1 false (!mmSSQC w) true) with addr := awAddr (qword d 0x70) + 4 * e })).filter
    (fun p => mmNeeds w p.slot u)

/-! ### Illegal-word codes (R226) -/

/-- The first code whose condition holds. -/
def firstCode : List (Bool × Nat) → Option Nat
  | [] => none
  | (b, n) :: r => if b then some n else firstCode r

/-- A field of a feature that is not selected must be 0 (R221). -/
def unselected (sel : Bool) (v : Nat) : Bool := !sel && v != 0

/-- Reserved bits of the body of an opcode, and fields of unselected features, are not 0 (R221, R227 to R248). -/
def badReserved (w : CmdWord) : Bool :=
  let op := fld w 7 0
  let hdr := unselected (fld w 26 26 == 1) (fld w 103 72) || unselected (fld w 26 26 == 1) (fld w 41 28)
    || unselected (fld w 27 27 == 1) (fld w 71 56) || unselected (fld w 27 27 == 1) (fld w 55 42)
  let body :=
    if op = 0x00 ∨ op = 0x01 ∨ op = 0x03 ∨ op = 0xC1 then fld w 255 104 != 0
    else if op = 0x02 then fld w 255 150 != 0
    else if op = 0xC0 then fld w 255 146 != 0
    else if op = 0x40 then fld w 255 117 != 0
    else if op = 0x41 then fld w 255 141 != 0
    else if op = 0x60 then fld w 255 163 != 0
    else if op = 0x20 then
      let conv := mmOUT w != 0 || mmZOUT w
      fld w 255 229 != 0 || unselected (mmOUT w = 2) (mmOHAWK w) || unselected conv (fld w 225 224)
        || unselected (mmZOUT w) (mmZFMT w) || unselected (mmOUT w != 0) (mmOFMT w)
        || unselected (mmWSRC w || mmHSRC w = 2) (mmWSTRM w) || unselected (mmWBEN w) (mmWBASE w)
        || unselected (mmHawked w) (mmHSRC w) || unselected (mmHawked w || mmRBW w) (fld w 115 115)
    else if op = 0x80 then fld w 255 242 != 0
    else if op = 0x81 then fld w 255 253 != 0 || unselected (isMX (fld w 111 108)) (fld w 252 229)
      || unselected (isMX (fld w 111 108)) (fld w 204 161) || unselected (fld w 106 106 == 1) (fld w 107 107)
    else if op = 0x82 then fld w 255 250 != 0 || unselected (isMX (fld w 111 108)) (fld w 249 206)
    else if op = 0xA0 then fld w 255 249 != 0 || unselected (fld w 105 105 == 1) (fld w 119 106)
    else if op = 0xA1 then fld w 255 249 != 0 || fld w 119 105 != 0
    else if op = 0xA2 then fld w 255 232 != 0 || unselected (fld w 109 109 == 1) (fld w 123 110)
    else if op = 0xA3 then fld w 255 219 != 0 || unselected (fld w 204 204 == 1) (fld w 218 205)
    else if op = 0xB0 then fld w 255 247 != 0
    else if op = 0xB1 then fld w 255 210 != 0
    else if op = 0xB2 then fld w 255 186 != 0
    else false
  hdr || body

/-- The queue kind does not carry the opcode (R223). -/
def badQueue (u : Nat) (w : CmdWord) : Bool :=
  let op := fld w 7 0
  if isSweep u then !(op ≤ 0x03 || op = 0x60 || op = 0x80 || op = 0xC0 || op = 0xC1) else op = 0x60

/-- EST and CLS against the group (R213, R200). -/
def badEnergy (w : CmdWord) : Bool :=
  if (groupOf (fld w 7 0)).atIssue then fld w 23 8 != 0 else fld w 23 12 == 0

/-- Tallies outside the context's range, or an add of 0 (R205, R222, R228). -/
def badTally (s : State) (ctx : Nat) (w : CmdWord) : Bool :=
  (fld w 26 26 == 1 && !tallyIn s ctx (fld w 41 28))
    || (fld w 27 27 == 1 && (!tallyIn s ctx (fld w 55 42) || fld w 71 56 == 0))
    || (fld w 7 0 == 0x02 && !tallyIn s ctx (fld w 117 104))

/-- A wire format of SCREED and GATHER and the landing formats it widens to (R238). -/
def wireFormat (f : Nat) : Bool := f = 1 || f = 5 || f = 6 || f = 7 || f = 8
def widens (wf cf : Nat) : Bool :=
  (wf = cf && wireFormat wf) || (wf = 7 && (cf = 5 || cf = 6)) || (wf = 8 && cf = 5)

/-- Format fields outside their lists (R238). -/
def badFormat (w : CmdWord) : Bool :=
  let op := fld w 7 0
  let oper := fun f => 1 ≤ f && f ≤ 10
  if op = 0x20 then !oper (mmAFMT w) || !oper (mmWFMT w) || 10 < mmOFMT w || 10 < mmZFMT w || (mmOUT w = 2 && mmOFMT w = 0)
  else if op = 0x81 then !oper (fld w 111 108)
  else if op = 0x82 then !wireFormat (fld w 111 108) || !wireFormat (fld w 115 112)
  else if op = 0xB0 then 1 < fld w 115 112
  else if op = 0xB1 then !wireFormat (fld w 113 110) || !wireFormat (fld w 117 114)
  else false

/-- Formats of the FP8 group of R49. -/
def fp8Group (f : Nat) : Bool := 3 ≤ f && f ≤ 9

/-- Operand formats pair (R49). -/
def pairs (a b : Nat) : Bool := (fp8Group a && fp8Group b) || (a = b && (a = 1 || a = 2 || a = 10))

def badPairing (s : State) (w : CmdWord) : Bool :=
  let op := fld w 7 0
  if op = 0x20 then !mmCompat s w && !pairs (mmAFMT w) (mmWFMT w)
  else if op = 0x82 then !widens (fld w 111 108) (fld w 115 112)
  else if op = 0xB1 then !widens (fld w 113 110) (fld w 117 114)
  else false

def outside (v lo hi : Nat) : Bool := v < lo || hi < v

/-- Counts, lengths, rows, segments, columns and times outside their ranges, and values a layout marks illegal (R226, R237). A drain
into a hawk of more than 16 tiles of 1-byte or 8 of 2-byte elements (R141) is a row count out of range (DEDUCED, log 124). -/
def badRange (s : State) (w : CmdWord) : Bool :=
  let op := fld w 7 0
  if op = 0xC0 then outside (fld w 145 136) 1 1000 || fld w 135 104 == 0
  else if op = 0x41 then outside (fld w 140 128) 1 4096
  else if op = 0x60 then outside (fld w 162 148) 1 16384
  else if op = 0x20 then
    let chk := mmChecked s w
    let lim := (if mmHALF w = 0 then 128 else 64) - (if chk then 1 else 0)
    (mmEng w = 0 && 4 ≤ mmAMASK w) || mmAMASK w = 0 || outside (mmRCNT w) 1 32
      || ((is16 (mmAFMT w) || is16 (mmWFMT w) || mmCompat s w) && 16 < mmRCNT w)
      || 32 < mmRBASE w + mmRCNT w || (mmWBEN w && 32 < mmWBASE w + mmRCNT w)
      || outside (mmNCOL w) 1 lim || outside (mmKLEN w) 1 65536
      || ((isMX (mmAFMT w) || isMX (mmWFMT w)) && mmKLEN w % 32 ≠ 0)
      || mmHALF w = 3 || mmOUT w = 3 || mmGrad w = 3 || mmHW w = 3
      || (mmOUT w = 2 && 16 < ceilDiv' (mmRows w) 128 * (if is16 (mmOFMT w) then 2 else 1))
  else if op = 0x80 then fld w 241 210 == 0
  else if op = 0x81 then
    fld w 116 112 == 0 || (if is16 (fld w 111 108) then 8 else 16) < fld w 116 112
  else if op = 0x82 then fld w 129 116 == 0 || outside (fld w 107 105) 1 4
  else if op = 0xA0 ∨ op = 0xA1 then outside (fld w 140 120) 1 1048576
  else if op = 0xA2 then 4 ≤ fld w 106 104 || (fld w 106 104 == 1 && fld w 107 107 == 1)
  else if op = 0xA3 then 0xF000 ≤ fld w 139 124
  else if op = 0xB0 then fld w 144 117 == 0 || fld w 111 110 == 3
      || (fld w 116 116 == 1 && (fld w 111 110 != 1 || fld w 115 112 != 0 || 8 < fld w 144 117))
  else if op = 0xB1 then fld w 145 118 == 0 || (isMX (fld w 113 110) && fld w 145 118 % 32 != 0)
  else if op = 0xB2 then fld w 129 110 == 0 || outside (fld w 185 174) 1 3072 || fld w 185 174 % 2 != 0
  else false

/-- A local range that a command names in reach of its unit: job stack memory or a served scratch window. -/
def localOk (s : State) (a n : Nat) : Bool := inMemory s a n

/-- Stored bytes of a SCREED or GATHER image of n elements: elements, then for MX the scales from the next 4 KiB boundary, padded to
4 KiB (R247). -/
def imageSize (fmt n : Nat) : Nat :=
  if isMX fmt then roundUp (fmtBytes fmt n) 4096 + roundUp (n / 32) 4096 else roundUp (fmtBytes fmt n) 4096

/-- A screed slot (R241). -/
def slotSize (cf : Nat) : Nat := roundUp (fmtBytes cf 16384 + (if isMX cf then 512 else 0)) 4096

/-- The record a channel is bound with (R348, R350); of an unbound channel, the one written. -/
def chanRecord (s : State) (ch : Nat) : Nat :=
  match s.chans.find? (fun k => k.id == ch) with
  | some k => k.crecord
  | none => odGet s (0x9100 + ch) 0x02
/-- Its fields. -/
def crP (r : Nat) : Nat := bits r 230 20
def crROLE (r : Nat) : Nat := bits r 250 2

/-- Addresses outside scratch or stack memory, in a reserved region, outside the host ranges, or on package 0xF_FFFF (R226, R253). -/
def badAddress (s : State) (w : CmdWord) : Bool :=
  let op := fld w 7 0
  if op = 0x41 then scratchSize < fld w 127 104 + 336
  else if op = 0x60 then !inJob s (fld w 147 104) 336
  else if op = 0x20 then scratchSize < mmDESC w * 64 + 192
  else if op = 0x80 then
    let len := fld w 241 210
    let src := fld w 155 104
    let dst := fld w 208 157
    let sh := fld w 156 156 == 1
    let dh := fld w 209 209 == 1
    (sh && dh) || (if sh then !hostOk s src len false else !(localOk s src len || isTallyWord s src len))
      || (if dh then !hostOk s dst len true else !localOk s dst len)
  else if op = 0x81 then
    let fmt := fld w 111 108
    let nt := fld w 116 112
    let tile := fmtBytes fmt 16384
    let stk := fld w 105 105 == 1
    let inSrc := fun a n => if stk then inJob s a n else a + n ≤ scratchSize
    !inSrc (fld w 160 117) (nt * tile) || (isMX fmt && !inSrc (fld w 204 161) (nt * 512))
      || scratchSize < fld w 228 205 + nt * tile || (isMX fmt && scratchSize < fld w 252 229 + nt * 512)
  else if op = 0x82 then
    bits (fld w 205 142) 44 20 == 0xFFFFF ||
      scratchSize < fld w 141 130 * 4096 + 2 ^ fld w 107 105 * slotSize (fld w 115 112)
  else if op = 0xA0 ∨ op = 0xA1 then bits (fld w 248 185) 44 20 == 0xFFFFF || !localOk s (fld w 184 141) (fld w 140 120)
  else if op = 0xA2 then bits (fld w 231 168) 44 20 == 0xFFFFF || !localOk s (fld w 167 124) 32
  else if op = 0xA3 then fld w 123 104 == 0xFFFFF
  else if op = 0xB0 then
    let n := fld w 144 117
    let sz := if fld w 115 112 == 0 then 4 else 2
    (fld w 111 110 != 2 && !inJob s (fld w 246 209 * 64) 64) || !inJob s (fld w 176 145 * 4096) (n * sz) || !inJob s (fld w 208 177 * 4096) (n * 4)
  else if op = 0xB1 then
    let n := fld w 145 118
    let p := crP (chanRecord s (fld w 109 104))
    !inJob s (fld w 177 146 * 4096) (imageSize (fld w 113 110) n)
      || !inJob s (fld w 209 178 * 4096) (p * imageSize (fld w 117 114) n)
  else if op = 0xB2 then
    !inJob s (fld w 161 130 * 4096) (fld w 129 110 * 4096) || 3072 < fld w 173 162 + fld w 185 174
  else false

/-- Alignments (R226). -/
def badAlign (w : CmdWord) : Bool :=
  let op := fld w 7 0
  if op = 0x41 then fld w 127 104 % 64 != 0
  else if op = 0x60 then fld w 147 104 % 64 != 0
  else if op = 0x81 then fld w 160 117 % 32 != 0 || fld w 228 205 % 32 != 0
  else if op = 0x82 then fld w 205 142 % 4096 != 0
  else if op = 0xA2 then fld w 167 124 % 32 != 0 || fld w 231 168 % (if fld w 107 107 == 1 then 8 else 4) != 0
  else false

/-- Overlaps of COPY (R239) and XPOSE (R118). -/
def badOverlap (u : Nat) (w : CmdWord) : Bool :=
  let op := fld w 7 0
  if op = 0x80 then
    let len := fld w 241 210
    let src := fld w 155 104
    let dst := fld w 208 157
    fld w 156 156 == 0 && fld w 209 209 == 0 && !(dst ≤ src || src + len ≤ dst)
  else if op = 0x81 then
    let fmt := fld w 111 108
    let nt := fld w 116 112
    let base := if fld w 105 105 == 1 then 0 else scr u 0
    let reads := (base + fld w 160 117, nt * fmtBytes fmt 16384) ::
      (if isMX fmt then [(base + fld w 204 161, nt * 512)] else [])
    let writes := (scr u (fld w 228 205), nt * fmtBytes fmt 16384) ::
      (if isMX fmt then [(scr u (fld w 252 229), nt * 512)] else [])
    reads.any (fun r => writes.any (fun x => r.1 < x.1 + x.2 && x.1 < r.1 + r.2))
  else false

/-! ### Matrix rules that need the context or the descriptor -/

/-- The context's unit records of a core. -/
def regionsOf (s : State) (ctx u : Nat) : List Nat := (unitRecs s).filter (fun r => urCtx r == ctx && urUnit r == u)

/-- A half of an engine is owned alone by some context of the core (R91, R212). -/
def ownsHalf (r e h : Nat) : Bool := urHalf r e == h

/-- The footprint leaves the context's region, or HALF disagrees with how the context owns the engine (R103, R237). -/
def badOwnership (s : State) (ctx u : Nat) (w : CmdWord) : Bool :=
  let e := mmEng w
  let want := if mmHALF w = 0 then 3 else mmHALF w
  !(regionsOf s ctx u).any (fun r =>
    ownsHalf r e want && urBase r e ≤ mmRBASE w && mmRBASE w + mmRCNT w ≤ urBase r e + urCnt r e
      && urBase r e ≤ mmWB w && mmWB w + mmRCNT w ≤ urBase r e + urCnt r e)

/-- Forbidden hawk combinations (R134, R237). -/
def badHawk (w : CmdWord) : Bool :=
  (mmHA w = 3 && mmEng w = 0) || (mmHaList w).any (fun h => mmHwList w == [h])
    || (mmEng w = 1 && mmHA w = 2 && mmAMASK w % 4 ≠ 0) || (mmEng w = 1 && mmHA w = 1 && 4 ≤ mmAMASK w)
    || (mmRBW w && mmHW w ≠ 0) || (mmRBW w && !isMX (mmWFMT w))
    || (mmWSRC w && mmHW w ≠ 0)
    || (mmOUT w = 2 && ((mmHaList w).contains (mmOHAWK w) || mmHwList w == [mmOHAWK w]))

/-- The hawks of an operand with HSRC = 3 that a command consumes. -/
def heldHawks (w : CmdWord) : List Nat := if mmHSRC w = 3 then mmHaList w ++ mmHwList w else []

/-- A named hawk that nothing claims holds no tile set, or the queue's set of another format or size (R141). A hawk that its producer
still claims, or that holds another queue's set, holds the command at issue instead (R140, R142). -/
def badHeld (s : State) (u q : Nat) (w : CmdWord) : Bool :=
  (heldHawks w).any (fun h =>
    let k := getHawk s (u * 2 + h)
    k.owner == none &&
      (match k.held with
       | some x => x.1 == q && (k.tiles.length != mmPasses w * mmTilesPerPass w h
           || k.tiles.any (fun t => t.fmt != (if mmHwList w == [h] then mmWFMT w else mmAFMT w)))
       | none => true))

/-- Forbidden recipe combinations (R237, R112, R119). -/
def badRecipe (s : State) (w : CmdWord) : Bool :=
  mmFN w = 7 || mmDF w = 7 || (mmEXPO w && mmRST w ≠ 1) || (mmCINIT w && mmRST w = 0) || (mmSSQC w && !mmSSQ w)
    || (mmDF w ≠ 0 && mmSOP w ≠ 1)
    || (mmChecked s w && (isMX (mmOFMT w) || (mmZOUT w && isMX (mmZFMT w)))
        && (if mmHALF w = 0 then 96 else 32) < mmNCOL w)

/-- The word breaks BF16 compatibility mode (R154). -/
def badGradMode (s : State) (w : CmdWord) : Bool :=
  mmCompat s w &&
    (let g := if mmGrad w = 1 then mmAFMT w else mmWFMT w
     let otherPath := if mmGrad w = 1 then true else mmHA w ≠ 0
     g ≠ 1 || (mmOUT w ≠ 0 && 1 < mmOFMT w) || (mmZOUT w && 1 < mmZFMT w) || !otherPath)

/-- Screed tiles of one pass: two for MXFP4 × MXFP4 without a hawk, one otherwise (R242). -/
def screedPer (w : CmdWord) : Nat := mmSlice w / 128

/-- Tiles that a command claims from a screed stream (R242). -/
def screedNeed (w : CmdWord) : Nat :=
  if mmWSRC w || (mmHawked w && mmHSRC w = 2) then mmPasses w * screedPer w else 0

/-- The stream that a core's screed runs: the latest. -/
def getScreed (s : State) (u st : Nat) : Option Screed := s.screeds.find? (fun x => x.core == u && x.strm == st)

/-- The streams of a screed: the one it runs, and earlier ones of which commands still hold claimed tiles (R242, rule 1). -/
def streamsOf (s : State) (u st : Nat) : List Screed := s.screeds.filter (fun x => x.core == u && x.strm == st)

/-- The stream that a matrix command has claimed its tiles of (R242). -/
def claimedStream (s : State) (c : Cmd) : Option Screed :=
  (streamsOf s c.u (mmWSTRM c.word)).find? (fun x => x.q == c.q && x.serial == c.run.stream)

/-- A stream is inactive, of another queue, or holds fewer unclaimed tiles than the command needs (R242). -/
def badScreed (s : State) (u q : Nat) (w : CmdWord) : Bool :=
  screedNeed w != 0 &&
    (match getScreed s u (mmWSTRM w) with
     | some x => x.q != q || x.nt < x.claimed + screedNeed w
     | none => true)

/-- The slots of a screed's ring that a command reads: those of the tiles it claims, each up to KLEN, or whole where a hawk takes it (R118,
R241, R242). -/
def ringSpans (s : State) (u : Nat) (w : CmdWord) : List Span :=
  if screedNeed w = 0 then []
  else
    match getScreed s u (mmWSTRM w) with
    | some x => (List.range (min (screedNeed w) (2 ^ x.rs))).flatMap (fun i =>
        let a := x.ring * 4096 + (x.claimed + i) % 2 ^ x.rs * slotSize x.cfmt
        let kn := if mmHawked w then 128 else min 128 (mmKLEN w - i * 128)
        ⟨0xFF, a, kn * rowBytes x.cfmt 128, 0, 1, false, true, false⟩ ::
          (if isMX x.cfmt then [⟨0xFF, a + fmtBytes x.cfmt 16384, if mmRBW w then kn * 4 else ceilDiv' kn 32 * 128, 0, 1, false, true, false⟩]
           else []))
    | none => []

/-- A channel that is not bound, or not bound for the issuing context (R226, R352). -/
def badChannel (s : State) (ctx : Nat) (w : CmdWord) : Bool :=
  let ch := fld w 109 104
  0xB0 ≤ fld w 7 0 && fld w 7 0 ≤ 0xB2 && (odGet s (0x9100 + ch) 0x01 == 0 || crCTX (chanRecord s ch) != ctx ||
    (crROLE (chanRecord s ch) == 2 && !(fld w 7 0 == 0xB0 && fld w 111 110 ≤ 1 && fld w 116 116 == 0)))

/-- Descriptor words that are not required but not 0, and its reserved bits (R235). -/
def pdReserved (w : CmdWord) (d : Nat) : Bool :=
  let u := pdUFMT d
  (List.range 16).any (fun i => !mmNeeds w (8 * i) u && qword d (8 * i) != 0)
    || (List.range 15).any (fun i => bits (qword d (8 * i)) 44 4 != 0)
    || [0x50, 0x58, 0x60, 0x68, 0x70].any (fun o => awPitch (qword d o) != 0)
    || unselected (mmSCL w) (bits (qword d 0x80) 0 32) || unselected (mmSOP w ≠ 0) u || bits (qword d 0x80) 36 28 != 0
    || unselected (mmMASK w) (qword d 0x88) || unselected (mmMASK w) (bits (qword d 0x90) 0 32)
    || bits (qword d 0x90) 32 32 != 0 || bits d (8 * 0x98) 320 != 0

/-- The conditions of a word and (for MMUL) its descriptor, in ascending order of code (R225, R226). `d`: the product descriptor, 0
where none is read. -/
def wordChecks (s : State) (u q ctx : Nat) (w : CmdWord) (d : Option Nat) : List (Bool × Nat) :=
  let op := fld w 7 0
  let mm := op == 0x20
  let spans := match d with | some x => mmSpans w x | none => []
  let reads := spans.filter (fun r => r.reads && !r.stack) ++ ringSpans s u w
  let pd := d.getD 0
  [(groupOf op == .reserved, 0x0001),
   (badQueue u w, 0x0002),
   (badReserved w || (d.isSome && pdReserved w pd), 0x0003),
   (badEnergy w, 0x0004),
   (badTally s ctx w, 0x0005),
   (badFormat w || (d.isSome && 9 < pdUFMT pd), 0x0006),
   (badPairing s w, 0x0007),
   (badRange s w || (d.isSome && mmMASK w &&
      (2 ^ 32 < bits (qword pd 0x88) 0 32 + mmRows w || 2 ^ 32 < bits (qword pd 0x88) 32 32 + mmNCOL w)), 0x0008),
   (badAddress s w || spans.any (fun p => if p.stack then !inJob s p.addr (p.stop - p.addr) else scratchSize < p.stop), 0x0009),
   (badAlign w || spans.any (fun p => p.addr % (if p.slot == 0x70 then 4 else 32) != 0), 0x000A),
   (badOverlap u w || spans.any (fun p => p.writes &&
      (p.meets (mmDESC w * 64) 192 || reads.any (fun r => r.slot != p.slot && p.overlaps r))), 0x000B),
   (mm && badOwnership s ctx u w, 0x000C),
   (mm && badHawk w, 0x000D),
   (mm && badHeld s u q w, 0x000E),
   (mm && badRecipe s w, 0x000F),
   (mm && badGradMode s w, 0x0010),
   (op == 0x40 && (fld w 116 104 == 0 || 4096 < fld w 116 104), 0x0012),
   (mm && badScreed s u q w, 0x0013),
   (badChannel s ctx w, 0x0014)]

/-- The code that rejects a word at issue, if any. -/
def illegalCode (s : State) (u q ctx : Nat) (w : CmdWord) (d : Option Nat) : Option Nat :=
  firstCode (wordChecks s u q ctx w d)

end Sys2Proof.Machine
end

