-- ==== Sys2Proof/Machine/Chain.lean ====
section
/-! DEFINITION. The chain descriptor (R167): its header, streams, stages and constants, the regions its streams read and write
(R169, R170), and the check the engine makes at admission (R168). -/

namespace Sys2Proof.Machine

/-! ### Fields (R167) -/

def chVADDR (d : Nat) : Nat := bits d 84 44
def chNSTG (d : Nat) : Nat := bits d 68 4
def chVCHK (d : Nat) : Bool := bitOf d 67
def chCLIP (d : Nat) : Bool := bitOf d 66
def chDUAL (d : Nat) : Bool := bitOf d 65

def chIn (d i : Nat) : Nat := bits d (8 * (16 + 16 * i)) 128
def chOut (d i : Nat) : Nat := bits d (8 * (80 + 16 * i)) 128
def chStage (d i : Nat) : Nat := bits d (8 * (144 + 16 * i)) 128
def chConst (d i : Nat) : Nat := bits d (8 * (272 + 4 * i)) 32

def swFMT (w : Nat) : Nat := bits w 124 4
def swMODE (w : Nat) : Nat := bits w 121 3
def swRM (w : Nat) : Bool := bitOf w 120
def swSAT (w : Nat) : Bool := bitOf w 119
def swSEL (w : Nat) : Nat := bits w 113 6
def swMSEL (w : Nat) : Nat := bits w 107 6
def swPITCH (w : Nat) : Nat := bits w 91 16
def swSADDR (w : Nat) : Nat := bits w 44 44
def swADDR (w : Nat) : Nat := bits w 0 44

def sgKIND (w : Nat) : Nat := bits w 124 4
def sgOP (w : Nat) : Nat := bits w 120 4
def sgFMT (w : Nat) : Nat := bits w 116 4
def sgRM (w : Nat) : Bool := bitOf w 115
def sgSAT (w : Nat) : Bool := bitOf w 114
def sgA (w : Nat) : Nat := bits w 108 6
def sgB (w : Nat) : Nat := bits w 102 6
def sgC (w : Nat) : Nat := bits w 96 6
def sgD (w : Nat) : Nat := bits w 90 6
def sgIMM (w : Nat) : Nat := bits w 64 16
def sgADDR (w : Nat) : Nat := bits w 0 64

/-! ### Regions of a stream (R167, R169, R170) -/

/-- The spans of a stream over `rows` rows of `len` elements: its data, and for an MX format its scales. Mode 1 is an element stream,
2 one value a row, 3 one a column, 4 one value; an accumulating output (`acc`) holds FP32 words. A row store lies as a row broadcast
does (DEDUCED, log 21). -/
def streamSpans (w rows len : Nat) (out : Bool) : List Span :=
  let f := swFMT w
  let pitch := if swPITCH w = 0 then fmtBytes f len else swPITCH w * 32
  match swMODE w with
  | 1 => ⟨0, swADDR w, fmtBytes f len, pitch, rows, false, !out, out⟩ ::
      (if isMX f then [⟨0, swSADDR w, len / 32, len / 32, rows, false, !out, out⟩] else [])
  | 2 => ⟨0, swADDR w, fmtBytes f rows, 0, 1, false, !out, out⟩ ::
      (if isMX f then [⟨0, swSADDR w, ceilDiv' rows 32, 0, 1, false, !out, out⟩] else [])
  | 3 => ⟨0, swADDR w, fmtBytes f len, 0, 1, false, !out, out⟩ ::
      (if isMX f then [⟨0, swSADDR w, len / 32, 0, 1, false, !out, out⟩] else [])
  | 4 => ⟨0, swADDR w, fmtBytes f 1, 0, 1, false, !out, out⟩ :: (if isMX f then [⟨0, swSADDR w, 1, 0, 1, false, !out, out⟩] else [])
  | _ => []

def chainIns (d rows len : Nat) : List Span := (List.range 4).flatMap (fun i => streamSpans (chIn d i) rows len false)
def chainOuts (d rows len : Nat) : List Span := (List.range 4).flatMap (fun i => streamSpans (chOut d i) rows len true)

/-- Some output region overlaps some input region (R187). -/
def chainInPlace (d rows len : Nat) : Bool :=
  (chainOuts d rows len).any (fun p => (chainIns d rows len).any (fun r => p.overlaps r))

/-- Stored bytes of the outputs (R187). -/
def chainStored (d rows len : Nat) : Nat := ((chainOuts d rows len).map (fun p => p.width * p.rows)).foldl (· + ·) 0

/-! ### The check (R168) -/

/-- A selector of the operand table. -/
def selKnown (x : Nat) : Bool := x ≤ 3 || (8 ≤ x && x ≤ 0x23) || x == 0x3F

/-- The selector names a constant: C0 to C15, +0 or +1.0. -/
def selConst (x : Nat) : Bool := 0x10 ≤ x && x ≤ 0x21

/-- The selector names a used input or a stage below `lim`. -/
def selLive (d lim x : Nat) : Bool :=
  if x ≤ 3 then swMODE (chIn d x) != 0 else if 8 ≤ x && x < 16 then x - 8 < lim else true

/-- The selector names the result of a REDUCE stage. -/
def selReduce (d x : Nat) : Bool := 8 ≤ x && x < 16 && x - 8 < chNSTG d && sgKIND (chStage d (x - 8)) == 4

/-- Number of operands a stage uses, A first; 9 for a reserved KIND or OP (R173). -/
def stageArity (w : Nat) : Nat :=
  match sgKIND w with
  | 0 => if sgOP w = 0 then 1 else 9
  | 1 =>
    match sgOP w with
    | 0 => 2
    | 1 => 2
    | 2 => 2
    | 3 => 3
    | 4 => 2
    | 5 => 2
    | 6 => 4
    | 7 => 1
    | _ => 9
  | 2 => if sgOP w ≤ 5 then 3 else 9
  | 3 => if sgOP w ≤ 6 then 4 else 9
  | 4 => if sgOP w ≤ 1 then 1 else 9
  | 5 => if sgOP w = 0 then 1 else 9
  | 6 => if sgOP w ≤ 3 then 1 else 9
  | 7 => if sgOP w = 0 then 2 else 9
  | 8 => if sgOP w ≤ 1 then 3 else 9
  | _ => 9

/-- An operand of a stage: used ones name a live value that is no REDUCE result, ignored ones name 0x3F (R168, R173). -/
def badOperand (d k : Nat) (used : Bool) (x : Nat) : Bool :=
  if used then !selKnown x || x == 0x3F || !selLive d k x || selReduce d x else x != 0x3F

/-- What makes a used stage illegal (R168, R173): a reserved code, a format the kind does not accept (R40), an operand out of order, an
EXCHANGE distance outside 1 to 255 (R179), a core that the die has not, an address region that leaves scratch. Fields that a kind does
not use are not looked at: R168 lists none of them (log 108). -/
def badStage (sweep : Bool) (d k : Nat) : Bool :=
  let w := chStage d k
  let n := stageArity w
  let kind := sgKIND w
  n == 9
    || badOperand d k true (sgA w) || badOperand d k (2 ≤ n) (sgB w) || badOperand d k (3 ≤ n) (sgC w)
    || badOperand d k (4 ≤ n) (sgD w)
    || (match kind with
        | 1 => 2 < sgFMT w
        | 5 => 10 < sgFMT w
        | 7 => 10 < sgFMT w || isMX (sgFMT w)
        | 8 => 10 < sgFMT w || isMX (sgFMT w) || (sgOP w == 1 && sgFMT w != 0)
        | _ => false)
    || (kind == 6 && sgOP w == 2 && (sgIMM w == 0 || 255 < sgIMM w))
    || (sweep && (kind == 7 || kind == 8 || (kind == 6 && sgOP w == 3)) && 25 < sgIMM w)
    || (kind == 6 && sgOP w == 3 && scratchSize < sgADDR w + 256)
    || (!sweep && (kind == 7 || kind == 8) && scratchSize < sgADDR w + fmtBits (sgFMT w) / 8)

/-- An input stream with a reserved mode, or a format that streams do not accept (R167, R168, R169). -/
def badIn (w : Nat) : Bool := swMODE w != 0 && (4 < swMODE w || 10 < swFMT w)

/-- Fields and values of an output stream (R168, R170). -/
def badOut (d w : Nat) : Bool :=
  swMODE w != 0 && (4 < swMODE w || 10 < swFMT w
    || !selKnown (swSEL w) || swSEL w == 0x3F || !selLive d (chNSTG d) (swSEL w)
    || !selKnown (swMSEL w) || !selLive d (chNSTG d) (swMSEL w) || selReduce d (swMSEL w)
    || (if swMODE w = 2 ∨ swMODE w = 4 then !selReduce d (swSEL w) && !selConst (swSEL w) else selReduce d (swSEL w))
    || ((swMODE w == 3 || swMODE w == 4) && swFMT w != 0))

/-- An MX format is used by a stream or a conversion stage. -/
def chainMX (d : Nat) : Bool :=
  (List.range 4).any (fun i => (swMODE (chIn d i) != 0 && isMX (swFMT (chIn d i)))
      || (swMODE (chOut d i) != 0 && isMX (swFMT (chOut d i))))
    || (List.range (chNSTG d)).any (fun k => sgKIND (chStage d k) == 5 && isMX (sgFMT (chStage d k)))

/-- Two regions of the list overlap. -/
def anyOverlap : List Span → Bool
  | [] => false
  | p :: r => r.any (fun x => p.overlaps x) || anyOverlap r

/-- Scatter and gather stages. -/
def chainHas (d kind : Nat) : Bool := (List.range (chNSTG d)).any (fun k => sgKIND (chStage d k) == kind)

/-- The descriptor at `daddr` (scratch offset, or local offset for a sweep command) is illegal for `rows` rows of `len` elements
(R168): reserved fields are looked at in unused streams and stages too, and so is the PITCH of a sweep command's streams. Sweep regions must lie in job stack memory, and the verdict word where a local unit can read it (DEDUCED, log 22). -/
def chainIllegal (s : State) (sweep : Bool) (d daddr rows len : Nat) : Bool :=
  let outs := chainOuts d rows len
  bits d 72 12 != 0 || bits d 0 65 != 0 || 8 < chNSTG d
    || (List.range 8).any (fun k => bits (chStage d k) 80 10 != 0)
    || (List.range 4).any (fun i => bits (chIn d i) 88 3 != 0 || bits (chOut d i) 88 3 != 0)
    || (List.range (min 8 (chNSTG d))).any (fun k => badStage sweep d k)
    || (List.range 4).any (fun i => badIn (chIn d i) || badOut d (chOut d i))
    || (chainMX d && len % 32 != 0)
    || (chCLIP d && !chVCHK d) || (chDUAL d && !sweep)
    || (sweep && (List.range 4).any (fun i => swPITCH (chIn d i) != 0 || swPITCH (chOut d i) != 0))
    || (chainIns d rows len ++ outs).any (fun p =>
          if sweep then !inJob s p.addr (p.stop - p.addr) else scratchSize < p.stop)
    || (chVCHK d && !inMemory s (chVADDR d) 32)
    || anyOverlap outs || outs.any (fun p => p.meets daddr 336)
    || (!sweep && chainInPlace d rows len && 65536 < chainStored d rows len)

/-! ### Shape of a vector command (R163, R231, R232) -/

def Cmd.isSweepCmd (c : Cmd) : Bool := c.op == 0x60

def Cmd.rows (c : Cmd) : Nat := if c.isSweepCmd then 1 else fld c.word 140 128
def Cmd.len (c : Cmd) : Nat := if c.isSweepCmd then fld c.word 162 148 else c.vl

/-- Index of a vector engine's statistics (R193) and the sub-indexes that differ: re-runs and command faults. -/
def Cmd.statIndex (c : Cmd) : Nat := if c.isSweepCmd then 0x3480 + (c.u - 128) else 0x3400 + c.u
def Cmd.rerunSub (c : Cmd) : Nat := if c.isSweepCmd then 0x07 else 0x04
def Cmd.faultSub (c : Cmd) : Nat := if c.isSweepCmd then 0x08 else 0x06

/-- Descriptor address within the engine's space, and as a local offset. -/
def Cmd.daddr (c : Cmd) : Nat := if c.isSweepCmd then fld c.word 147 104 else fld c.word 127 104

/-- Local offset of an engine address (R167): scratch of the core, or stack memory. -/
def Cmd.at (c : Cmd) (a : Nat) : Nat := if c.isSweepCmd then a else scr c.u a

/-- The position whose scratch a gather, scatter or table stage reaches (R180). A sweep command's permute table too lies in the scratch of core
IMM of the die, which R179 does not name, and whether that position is served is not looked at (DESIGN CHOICE, log 157). -/
def Cmd.stageCore (c : Cmd) (w : Nat) : Nat := if c.isSweepCmd then dieOf c.u * 32 + sgIMM w else c.u

/-- The command holds its outputs in an output store (R186, R187). -/
def Cmd.holds (c : Cmd) : Bool := c.isSweepCmd || chainInPlace c.desc c.rows c.len

end Sys2Proof.Machine
end

