-- ==== Sys2Proof/Machine/Queues.lean ====
section
/-! DEFINITION. The queues (R194 to R200): fetching a command word, issuing it, the control commands, and the wait limit (R205). -/

namespace Sys2Proof.Machine

/-- A command just fetched (R198). -/
def Cmd.fresh (u q serial : Nat) (word : CmdWord) : Cmd :=
  { u := u, q := q, serial := serial, word := word, bad := none, stage := .fetched, issuedAt := 0, age := 0, budgetAt := none, adRead := false,
    desc := 0, tables := [], verdict := 0, vl := 0, dual := false, begun := ⟨0, 0, false, 0⟩, checked := false, energy := 0, nominal := 0, winTotal := 0, winDone := 0, epoch := 0,
    flags := 0, oldFlags := 0, rerun := false, firstFault := none, preemptReq := false, preempted := false, run := MatRun.start, held := [], scattered := [], mismatched := false, msgs := [],
    record := 0 }

/-- The queue fetches and issues: IDLE or RUNNING (R196). -/
def queueLive (s : State) (u q : Nat) : Bool := qGet s u q 6 == 1 || qGet s u q 6 == 2

/-- The position is served by a core (R251, R435); the queues of a sweep unit by it or by the other one of its die (R443). -/
def unitServed (s : State) (u : Nat) : Bool :=
  if isSweep u then !(s.sweepOut.contains (u / 2 * 2) && s.sweepOut.contains (u / 2 * 2 + 1)) else positionServed s u

/-- A draining queue issues and admits up to its step-boundary command, and nothing while it has found none (R219). -/
def drainAllows (s : State) (u q serial : Nat) : Bool :=
  match s.draining.find? (fun p => p.1 == drainKey u q) with
  | none => true
  | some p => p.2 < noLimit && (p.2 + 2 ^ 32 - serial) % 2 ^ 32 < 2 ^ 31

/-- The queue drains, and still looks for its step-boundary command in a ring of host memory (R219; log 87). -/
def drainSearch (s : State) (u q : Nat) : Bool := s.draining.any (fun p => p.1 == drainKey u q && noLimit < p.2)

/-- A draining queue reads on to its boundary, or while it looks for one in a ring of host memory (R219). -/
def drainFetches (s : State) (u q : Nat) : Bool := drainSearch s u q || drainAllows s u q (qGet s u q 4)

/-- The queue has a slot to fetch: live, head ≠ tail (R195), its unit served, within the drain. A slot that has been rewound to is fetched
again once the record of its earlier serial has been written (R206, R209). -/
def canFetch (s : State) (u q : Nat) : Bool :=
  queueExists u q && queueLive s u q && qGet s u q 4 != qGet s u q 5 && unitServed s u && drainFetches s u q
    && !(qCmds s u q).any (fun c => c.serial == qGet s u q 4)

/-- Host bit and address of the slot of index i (R194, R196). -/
def ringSlot (s : State) (u q i : Nat) : Bool × Nat :=
  let b := qGet s u q 1
  (bitOf b 63, bits b 0 44 + 32 * (i % 2 ^ qGet s u q 2))

/-- Put a fetched command in flight; the head advances. -/
def enterFetched (s : State) (c : Cmd) : State :=
  settleQueue (qSet { s with cmds := s.cmds ++ [c] } c.u c.q 4 (wrap 32 (c.serial + 1))) c.u c.q

/-- A draining queue that looks for its step-boundary command has read a word: the boundary, one before it, or, with the tail of the lapse
reached, the proof that there is none (R219). -/
def searchStep (s : State) (c : Cmd) : State :=
  if !drainSearch s c.u c.q then s
  else
    let put : Nat → State := fun v => { s with draining := mapWhere (fun p => p.1 == drainKey c.u c.q) (fun p => (p.1, v)) s.draining }
    if c.sb then put c.serial
    else if s.draining.contains (drainKey c.u c.q, noLimit + 1 + wrap 32 (c.serial + 1)) then drainCheck (put noLimit) c.u c.q none
    else s

/-- Take a word as the command at head: its serial is the ring index (R196). -/
def takeWord (s : State) (u q : Nat) (word : CmdWord) : State :=
  let c := Cmd.fresh u q (qGet s u q 4) word
  searchStep (enterFetched s c) c

/-- A word delivered poisoned completes POISON with CODE 0x3005 and OPCODE 0, and its context stops (R531). -/
def failPoisoned (s : State) (c : Cmd) (addr : Nat) : State :=
  failCmd s c stPOISON 0x3005 (cmdReport s c 0x3005 (unitOf c.u) addr noPeer none)

/-- A word delivered poisoned is not decoded: its command completes at once, and its record takes its place in serial order (R531,
R206). -/
def takePoisoned (s : State) (u q addr : Nat) : State :=
  let c := { (Cmd.fresh u q (qGet s u q 4) 0) with bad := some addr }
  failPoisoned (enterFetched s c) c addr

/-- Fetch the word at head from stack memory or host memory; a fetch that fails leaves the queue at its head (R198, R486, R531). -/
def fetchWord (s : State) (u q : Nat) (host : HostAns) : State :=
  let a := ringSlot s u q (qGet s u q 4)
  if a.1 then
    if !host.ok || !hostOk s a.2 32 false || !hostPath s then s
    else if host.poisoned then takePoisoned s u q a.2
    else takeWord s u q (BitVec.ofNat 256 (leNat (host.data.take 32)))
  else if !inJob s a.2 32 then s
  else if badSectors s a.2 32 != [] then takePoisoned s u q a.2
  else takeWord s u q (BitVec.ofNat 256 (memNat s a.2 32))

/-- COMMAND_FETCH (R198, R196, R531). -/
def execCommandFetch (u q : Nat) (host : HostAns) (s : State) : Host.Outcome State Fault Refusal :=
  .next (if canFetch s u q then fetchWord s u q host else s)

/-- RING_FETCH_RETRY (R486): a ring in host memory whose last fetch failed is fetched again. -/
def execRingFetchRetry (u q : Nat) (host : HostAns) (s : State) : Host.Outcome State Fault Refusal :=
  .next (if canFetch s u q && (ringSlot s u q (qGet s u q 4)).1 then fetchWord s u q host else s)

/-! ### Issue -/

/-- A queue issues its next command once the one before it is admitted and fewer than four are in flight (R198). -/
def canIssue (s : State) (u q : Nat) : Bool :=
  queueLive s u q && !(qCmds s u q).any (fun c => c.stage == .issued && !c.preempted) && (inFlight s u q).length < 4

/-- The hawks a command names (R133, R140, R240): HA, HW, the destination of OUT = 2, and XPOSE's. -/
def namedHawks (w : CmdWord) : List Nat :=
  if fld w 7 0 = 0x20 then mmHaList w ++ mmHwList w ++ (if mmOUT w = 2 then [mmOHAWK w] else [])
  else if fld w 7 0 = 0x81 then [fld w 104 104] else []

/-- A named hawk is claimed, or holds a set that this command does not consume: the command is held at issue (R140 to R142). -/
def hawkBusy (s : State) (u q : Nat) (w : CmdWord) : Bool :=
  (namedHawks w).any (fun h =>
    let k := getHawk s (u * 2 + h)
    k.owner != none || (match k.held with | some x => !((heldHawks w).contains h && x.1 == q) | none => false))

/-- Claim the hawks of a command (R140). -/
def claimHawks (s : State) (c : Cmd) : State :=
  (namedHawks c.word).foldl (fun s h => putHawk s { (getHawk s (c.u * 2 + h)) with owner := some (c.u, c.q, c.serial) }) s

/-- A SCREED is held while an earlier one still holds its stream (R242, rule 1). -/
def screedBusy (s : State) (u : Nat) (w : CmdWord) : Bool :=
  fld w 7 0 == 0x82 && s.cmds.any (fun c => c.u == u && c.op == 0x82 && fld c.word 104 104 == fld w 104 104 &&
    c.stage != .fetched && c.stage != .done)

def putScreed (s : State) (x : Screed) : State :=
  { s with screeds := mapFirst (fun y => y.core == x.core && y.strm == x.strm && y.q == x.q && y.serial == x.serial) (fun _ => x) s.screeds }

/-- Claim the tiles that a command consumes, in program order (R242): the first of them, and the stream's SCREED. -/
def claimTiles (s : State) (c : Cmd) : State × Nat × Nat :=
  if screedNeed c.word = 0 || c.op ≠ 0x20 then (s, 0, 0)
  else
    match getScreed s c.u (mmWSTRM c.word) with
    | some x => (putScreed s { x with claimed := x.claimed + screedNeed c.word }, x.claimed, x.serial)
    | none => (s, 0, 0)

/-- The product descriptor that an MMUL names, when it lies in scratch (R235). -/
def productDesc (s : State) (u : Nat) (w : CmdWord) : Option Nat :=
  if fld w 7 0 = 0x20 ∧ mmDESC w * 64 + 192 ≤ scratchSize then some (memNat s (scr u (mmDESC w * 64)) 192) else none

/-- The lowest poisoned offset of the product descriptor. -/
def descPoison (s : State) (u : Nat) (w : CmdWord) : Option Nat :=
  if fld w 7 0 = 0x20 ∧ mmDESC w * 64 + 192 ≤ scratchSize then lowestBad s (scr u (mmDESC w * 64)) 192 else none

/-- The command enters the issued state (R198): its issue time, VL (R164), descriptor (R235), hawks and tiles. -/
def enterIssued (s : State) (c : Cmd) (d : Option Nat) : State :=
  let t := claimTiles (claimHawks s c) c
  putCmd { t.1 with issues := t.1.issues + 1 }
    { c with stage := .issued, issuedAt := s.uptime, age := s.issues, vl := qGet s c.u c.q 8, desc := d.getD 0,
             checked := c.op == 0x20 && mmChecked s c.word, run := { MatRun.start with claimAt := t.2.1, stream := t.2.2 } }

/-- Check and issue a fetched command (R225, R235): rejected by the first code that applies, POISON on a poisoned product
descriptor (a fault of R127, counted in 0x3300 + core id .06), held at issue for a hawk or a stream, and otherwise issued. -/
def issueCmd (s : State) (c : Cmd) (ctx : Nat) : State :=
  match illegalCode s c.u c.q ctx c.word none with
  | some n =>
    if (descPoison s c.u c.word).isSome || (productDesc s c.u c.word).isNone then rejectCmd s c n
    else rejectCmd s c ((illegalCode s c.u c.q ctx c.word (productDesc s c.u c.word)).getD n)
  | none =>
    match descPoison s c.u c.word with
    | some a => failCmd (odBump s (0x3300 + c.u) 0x06 1) c stPOISON 0x3001 (cmdReport s c 0x3001 (unitOf c.u) a noPeer none)
    | none =>
      match illegalCode s c.u c.q ctx c.word (productDesc s c.u c.word) with
      | some n => rejectCmd s c n
      | none => if hawkBusy s c.u c.q c.word || screedBusy s c.u c.word then s else enterIssued s c (productDesc s c.u c.word)

/-- COMMAND_ISSUE (R198, R225). -/
def execCommandIssue (u q : Nat) (s : State) : Host.Outcome State Fault Refusal :=
  .next (match firstIn s u q .fetched, ctxOf s u q with
    | some c, some ctx =>
      if canIssue s u q && drainAllows s u q c.serial then
        match c.bad with
        | some a => failPoisoned s c a
        | none => issueCmd s c ctx
      else s
    | _, _ => s)

/-! ### Control commands (R200) -/

/-- The command of a queue that is issued and was never admitted. -/
def atAdmission (s : State) (u q : Nat) : Option Cmd := (qCmds s u q).find? (fun c => c.stage == .issued && !c.preempted)

/-- The issued command of a queue with an opcode, once its wait is met. -/
def readyControl (s : State) (u q op : Nat) : Option Cmd :=
  match atAdmission s u q with
  | some c => if c.op = op ∧ waitMet s c ∧ queueLive s u q ∧ drainAllows s u q c.serial then some c else none
  | none => none

/-- NOP (R200, R227). -/
def execNop (u q : Nat) (s : State) : Host.Outcome State Fault Refusal :=
  .next (match readyControl s u q 0x00 with
    | some c => finishCmd s c stOK
    | none => s)

/-- TWAIT (R200, R227): a wait with no work. -/
def execTwait (u q : Nat) (s : State) : Host.Outcome State Fault Refusal :=
  .next (match readyControl s u q 0x01 with
    | some c => finishCmd s c stOK
    | none => s)

/-- TSET (R228): the set applies before any add (R202). -/
def execTset (u q : Nat) (s : State) : Host.Outcome State Fault Refusal :=
  .next (match readyControl s u q 0x02 with
    | some c => finishCmd (tallySet s (fld c.word 117 104) (fld c.word 149 118)) c stOK
    | none => s)

/-- Every earlier command of the queue has completed. -/
def fenceOpen (s : State) (c : Cmd) : Bool :=
  ((qCmds s c.u c.q).takeWhile (fun d => !sameCmd c d)).all (fun d => d.stage == .done)

/-- QFENCE (R200, R203): it runs at issue, and completes with the last earlier command of its queue. -/
def execQfence (u q : Nat) (s : State) : Host.Outcome State Fault Refusal :=
  .next (match readyControl s u q 0x03 with
    | some c => if fenceOpen s c then finishCmd s c stOK else putCmd s { c with stage := .parked }
    | none =>
      match (qCmds s u q).find? (fun c => c.stage == .parked && c.op == 0x03) with
      | some c => if fenceOpen s c then finishCmd s c stOK else s
      | none => s)

/-- The wait limit of a context in AON ticks of 10 ns; 0 is none (R205, R212). -/
def waitLimit (s : State) (ctx : Nat) : Nat := bits (ctxRec s ctx) 82 16 * 100000

/-- WAIT_TIMEOUT (R205). -/
def execWaitTimeout (u q : Nat) (s : State) : Host.Outcome State Fault Refusal :=
  .next (match atAdmission s u q, ctxOf s u q with
    | some c, some ctx =>
      if c.wen && !waitMet s c && waitLimit s ctx != 0 && c.issuedAt + waitLimit s ctx < s.uptime then
        failCmd s c stTIMEOUT 0x6001 (cmdReport s c 0x6001 (unitOf u) c.wtally noPeer none)
      else s
    | _, _ => s)

end Sys2Proof.Machine
end

