-- ==== Sys2Proof/Machine/Admission.lean ====
section
/-! DEFINITION. The admission read (R199), the energy bucket and the dispatcher of a die (R213 to R218), tile hazards (R121, R122)
and pre-emption (R123, R124, R216). -/

namespace Sys2Proof.Machine

/-! ### Tile hazards (R101, R121, R122) -/

/-- Two runs of segments of banks share a segment. -/
def tilesMeet (b1 s1 b2 s2 n1 n2 : Nat) : Bool := b1 == b2 && s1 < s2 + n2 && s2 < s1 + n1

/-- The commands use an array in common, in overlapping column halves. -/
def sameArrays (x y : CmdWord) : Bool :=
  mmEng x == mmEng y && mmAMASK x &&& mmAMASK y != 0 && (mmHALF x == 0 || mmHALF y == 0 || mmHALF x == mmHALF y)

/-- L starts no pass until E commits (R121): L's working tile meets E's footprint, or L's resident tile E's working tile. -/
def startHold (l e : CmdWord) : Bool :=
  sameArrays l e &&
    (tilesMeet (1 - mmBANK l) (mmWB l) (mmBANK e) (mmRBASE e) (mmRCNT l) (mmRCNT e)
      || tilesMeet (1 - mmBANK l) (mmWB l) (1 - mmBANK e) (mmWB e) (mmRCNT l) (mmRCNT e)
      || tilesMeet (mmBANK l) (mmRBASE l) (1 - mmBANK e) (mmWB e) (mmRCNT l) (mmRCNT e))

/-- L's form phase waits until E commits (R121): the two resident tiles meet. -/
def formHold (l e : CmdWord) : Bool :=
  sameArrays l e && tilesMeet (mmBANK l) (mmRBASE l) (mmBANK e) (mmRBASE e) (mmRCNT l) (mmRCNT e)

/-- The command's footprint stands in the scoreboard (R198, R124). -/
def holdsFootprint (c : Cmd) : Bool :=
  c.op == 0x20 && c.stage != .fetched && c.stage != .done && !(c.preempted && !mmRES c.word)

/-- Earlier commands of the unit whose footprints stand: earlier is the order of issue, also of a command that was pre-empted with RES = 0
and runs again, which is not held against a later one that has begun meanwhile (DESIGN CHOICE, log 152). -/
def earlierFeet (s : State) (c : Cmd) : List Cmd :=
  s.cmds.filter (fun e => e.u == c.u && e.age < c.age && holdsFootprint e && !sameCmd c e)

def startHeld (s : State) (c : Cmd) : Bool := (earlierFeet s c).any (fun e => startHold c.word e.word)
def formHeld (s : State) (c : Cmd) : Bool := (earlierFeet s c).any (fun e => formHold c.word e.word)

/-! ### Readiness (R198) -/

/-- An admitted matrix command that still has passes to run or end. -/
def inPasses (c : Cmd) : Bool :=
  c.op == 0x20 && c.stage == .admitted && (c.run.inPass || c.run.passes < mmPasses c.word)

/-- Commands whose passes occupy the engine, or the half of it, that c would use. -/
def engineUsers (s : State) (c : Cmd) : List Cmd :=
  s.cmds.filter (fun e => e.u == c.u && inPasses e && !sameCmd c e && mmEng e.word == mmEng c.word &&
    (mmHALF e.word == 0 || mmHALF c.word == 0 || mmHALF e.word == mmHALF c.word))

/-- A vector command of the queue is admitted and has not written its last output (R185). -/
def vectorBusy (s : State) (u q : Nat) : Bool := (qCmds s u q).any (fun c => c.group.vector && c.running)

/-- The other sweep unit of the die. -/
def sibling (u : Nat) : Nat := if u % 2 = 0 then u + 1 else u - 1

/-- A sweep unit that cannot help: taken from service, or under its scan (R443). -/
def sweepAway (s : State) (u : Nat) : Bool := s.sweepOut.contains u || s.sweepTest == some u

/-- Some command runs on a sweep unit. -/
def sweepBusy (s : State) (u : Nat) : Bool := s.cmds.any (fun c => c.u == u && c.group == .sweep && c.running)

/-- A command runs with a second execution on the other unit, and their outputs have not been compared yet (R189). -/
def dualRunning (s : State) (u : Nat) : Bool :=
  s.cmds.any (fun c => c.u == u && c.group == .sweep && (c.stage == .admitted || c.stage == .parked) && c.dual)

/-- The unit can take a vector command: the queue's last one has written its outputs (R185); for a sweep unit, no dual execution of
the other unit holds it, and a dual command finds the other unit free (R189). -/
def vectorFree (s : State) (c : Cmd) : Bool :=
  !vectorBusy s c.u c.q &&
    (c.group != .sweep || sweepAway s (sibling c.u) ||
      (!dualRunning s (sibling c.u) && (!c.dual || !sweepBusy s (sibling c.u))))

/-- A collective already runs, or has been admitted, on the command's channel (R353). -/
def channelBusy (s : State) (c : Cmd) : Bool :=
  odGet s (0x9100 + fld c.word 109 104) 0x01 == 2
    || s.cmds.any (fun e => e.group == .collective && e.running && fld e.word 109 104 == fld c.word 109 104)

/-- The hawks that a resuming command claims again are free: unclaimed, and holding no set (R140, R142). -/
def hawksBack (s : State) (c : Cmd) : Bool :=
  !c.preempted || (namedHawks c.word).all (fun h =>
    let k := getHawk s (c.u * 2 + h)
    (k.owner == none && k.held.isNone) || k.owner == some (c.u, c.q, c.serial))

/-- Message contexts that serve sends, from the moment a message is formed, and all in use (R315). -/
def sendContexts (s : State) : Nat := (s.sends.filter (fun m => m.ctx)).length
def contextsInUse (s : State) : Nat := sendContexts s + s.recvs.length

/-- A send context is free: within the hub's 32,768 and outside the receive reserve (R315). -/
def sendContextFree (s : State) : Bool := sendContexts s < 32768 - odGet s 0x5000 0x0A && contextsInUse s < 32768

/-- The unit can take the command (R198). -/
def unitFree (s : State) (c : Cmd) : Bool :=
  match c.group with
  | .matrix => (engineUsers s c).isEmpty
  | .skim => vectorFree s c
  | .sweep => vectorFree s c
  | .collective => !channelBusy s c && sendContextFree s
  | .fabric => sendContextFree s
  | _ => true

/-- The command at the admission point of a queue: the earliest one issued, or pre-empted and waiting to resume. -/
def admissionPoint (s : State) (u q : Nat) : Option Cmd := (qCmds s u q).find? (fun c => c.stage == .issued)

/-- Ready but for its unit: the queue admits (R219), the wait is met (R201), no hold on starting passes (R121), hawks free (R140). -/
def almostReady (s : State) (c : Cmd) : Bool :=
  !c.group.atIssue && queueLive s c.u c.q && unitServed s c.u && (c.preempted || drainAllows s c.u c.q c.serial)
    && (c.preempted || waitMet s c) && !(c.op == 0x20 && startHeld s c) && hawksBack s c

def ready (s : State) (c : Cmd) : Bool := almostReady s c && unitFree s c

/-! ### The admission read (R199) -/

/-- The optimizer sampling choice (R444): k is the local offset of I0 in units of 64 KiB. -/
def sampled (s : State) (d verdict : Nat) : Bool :=
  let p := odGet s 0x7300 0x01
  p != 0 && chVCHK d && !bitOf verdict 97 && (swADDR (chIn d 0) / 65536 + bits verdict 112 16) % p == 0

/-- The tables of TABLE stages, and the lowest poisoned offset among them (R179). -/
def tableStages (c : Cmd) (d : Nat) : List (Nat × Nat) :=
  ((List.range (chNSTG d)).filter (fun k => sgKIND (chStage d k) == 6 && sgOP (chStage d k) == 3)).map
    (fun k => (k, scr (c.stageCore (chStage d k)) (sgADDR (chStage d k))))

/-- The chain descriptor, permute tables and verdict word are read once; a poisoned one ends the command POISON, a command fault
(R188, R193); a descriptor that has left memory since its issue ends it FAULT (R253, R264), and an illegal one ILLEGAL, uncharged
(R168). -/
def admissionRead (s : State) (c : Cmd) : State :=
  let a := c.at c.daddr
  let fail := fun (x : Nat) =>
    failCmd (odBump s c.statIndex c.faultSub 1) c stPOISON 0x3003 (cmdReport s c 0x3003 (unitOf c.u) x noPeer none)
  let gone := fun (x : Nat) =>
    failCmd (odBump s c.statIndex c.faultSub 1) c stFAULT 0x4001 (cmdReport s c 0x4001 (unitOf c.u) x noPeer none)
  match (if inMemory s a 336 then none else some a), lowestBad s a 336 with
  | some x, _ => gone x
  | none, some x => fail x
  | none, none =>
    let d := memNat s a 336
    let c1 := { c with desc := d }
    if chainIllegal s c.isSweepCmd d c.daddr c1.rows c1.len then rejectCmd s c 0x0011
    else
      let tabs := tableStages c d
      let reads := tabs.map (fun t => (t.2, 256)) ++ (if chVCHK d then [(chVADDR d, 32)] else [])
      match (if chVCHK d && !inMemory s (chVADDR d) 32 then some (chVADDR d) else none), reads.findSome? (fun r => lowestBad s r.1 r.2) with
      | some x, _ => gone x
      | none, some x => fail x
      | none, none =>
        let v := if chVCHK d then memNat s (chVADDR d) 32 else 0
        putCmd s { c with adRead := true, desc := d, tables := tabs.map (fun t => (t.1, memRead s t.2 256)), verdict := v,
                          dual := c.isSweepCmd && (chDUAL d || sampled s d v) }

/-- ADMISSION_READ (R199). -/
def execAdmissionRead (u q : Nat) (s : State) : Host.Outcome State Fault Refusal :=
  .next (match admissionPoint s u q with
    | some c => if c.group.vector && c.op != 0x40 && !c.adRead && ready s c then admissionRead s c else s
    | none => s)

/-! ### The bucket (R213, R214, R217) -/

/-- The settings a die's bucket runs on (R218). -/
def budgetOf (s : State) (d : Nat) : Budget := listGet Budget.reset s.budgets d

/-- Allocation of a die in W as it is set (0x2100.02). -/
def allocation (s : State) (d : Nat) : Nat := bits (odGet s 0x2100 0x02) (16 * d) 16

/-- Capacity in nJ (R214). -/
def bucketCapacity (s : State) (d : Nat) : Nat := (budgetOf s d).alloc * (budgetOf s d).capTime * 1000

def bucketLevel (s : State) (d : Nat) : Nat := odGet s (0x2300 + d) 0x01
def setLevel (s : State) (d v : Nat) : State := odSet s (0x2300 + d) 0x01 v
def price (s : State) (d : Nat) : Nat := (budgetOf s d).price

def reserveOf (s : State) (u q : Nat) : Nat := Store.get 0 s.reserves (drainKey u q)
def setReserve (s : State) (u q v : Nat) : State := { s with reserves := Store.put 0 s.reserves (drainKey u q) v }

/-- The uptime at which a queue's reserve runs out. -/
def setReserveEnd (s : State) (u q v : Nat) : State := { s with reserveEnds := Store.put 0 s.reserveEnds (drainKey u q) v }

/-- Reserves of the queues of a die (R217). -/
def dieReserves (s : State) (d : Nat) : Nat :=
  ((s.reserves.filter (fun p => dieOf (p.1 / 16) == d)).map (·.2)).foldl (· + ·) 0

/-- The nominal energy (R213). -/
def Cmd.nominalEnergy (c : Cmd) : Nat := c.est * 2 ^ c.cls

/-- Ceiling and charge of a command (R214). -/
def ceiling (s : State) (c : Cmd) : Nat :=
  min (ceilDiv' (2 ^ (c.cls + 12) * price s (dieOf c.u)) 4096) (bucketCapacity s (dieOf c.u))
def charge (s : State) (c : Cmd) : Nat :=
  min (ceilDiv' (c.nominalEnergy * price s (dieOf c.u)) 4096) (ceiling s c)

/-- The command fits: its ceiling against the reserve of its queue plus the level (R214, R217). -/
def fits (s : State) (c : Cmd) : Bool := ceiling s c ≤ reserveOf s c.u c.q + bucketLevel s (dieOf c.u)

/-- Draw the charge: from the reserve first, then from the bucket (R217). -/
def drawCharge (s : State) (c : Cmd) : State :=
  let r := reserveOf s c.u c.q
  let n := charge s c
  let fromR := min r n
  setLevel (setReserve s c.u c.q (r - fromR)) (dieOf c.u) (bucketLevel s (dieOf c.u) - (n - fromR))

/-! ### Expected duration (R530) -/

/-- Windows of 10 µs that a number of cycles takes at a clock in MHz, rounded up to whole windows. -/
def windowsOf (cycles mhz : Nat) : Nat := max 1 (ceilDiv' cycles (10 * max 1 mhz))

/-- The row interval (R71, R72). -/
def rowInterval (w : CmdWord) : Nat := if is16 (mmAFMT w) || is16 (mmWFMT w) then 2 else 1

/-- Windows of the expected duration at the set points in force (R530). -/
def expectedWindows (s : State) (c : Cmd) : Nat :=
  let d := dieOf c.u
  let arr := listGet 1500 s.arraySet d
  let slow := fun k => if chainHas c.desc 7 || chainHas c.desc 8 then k else 1
  match c.group with
  | .matrix => windowsOf (mmPasses c.word * 32 * mmRCNT c.word * rowInterval c.word + 271) arr
  | .skim => windowsOf (c.rows * ceilDiv' c.len 256 * slow 4) arr
  | .sweep => windowsOf (ceilDiv' c.len 512 * slow 8) (listGet 1800 s.coreSet d)
  | _ => 1

/-! ### Admission (R199, R215) -/

/-- Apply a changed SR seed (R57, R199): every stream starts anew in the next epoch. -/
def applySeed (s : State) : State :=
  if s.seedPending then
    { s with epoch := s.epoch + 1, seeds := Store.put 0 s.seeds (s.epoch + 1) (odGet s 0x9000 0x02), seedPending := false }
  else s

/-- Complete a skipped vector command (R172): no flag, its adds applied. -/
def skipCmd (s : State) (c : Cmd) : State :=
  let s1 := if c.isSweepCmd then odBump s (0x3480 + (c.u - 128)) 0x06 1 else odBump s (0x3400 + c.u) 0x05 1
  let s2 := if c.isSweepCmd then odBump s1 (0x3480 + (c.u - 128)) 0x01 1 else odBump s1 (0x3400 + c.u) 0x01 1
  finishCmd s2 { c with flags := 0, oldFlags := 0 } stSKIPPED

/-- The channel of a collective command that is admitted answers again (R388). -/
def openChan (s : State) (c : Cmd) : State :=
  if c.group == .collective then { s with chans := mapFirst (fun x => x.id == fld c.word 109 104) (fun x => { x with stopped := false }) s.chans } else s

/-- What a collective command takes at its admission (R380, R388). -/
def collStart (s : State) : CollStart := ⟨odGet s 0x9000 0x01, odGet s 0x9000 0x0C, odGet s 0x9000 0x0D != 0, s.uptime⟩

/-- Admit and charge a command, with the choice of a dual execution as its admission read made it (R444): the seed applies, lanes or slots are granted; a command whose verdict has SKIP set completes at once
(R172, R203), and so does SETVL, which only writes VL (R164, R230), a skim command that counts as completed (R193, R223). -/
def admitCmd (s : State) (c : Cmd) : State :=
  let s1 := applySeed (odBump (drawCharge s c) (0x2300 + dieOf c.u) 0x05 1)
  let e := c.energy + charge s c
  let n := expectedWindows s c
  let c1 := { c with stage := .admitted, energy := e, epoch := if c.preempted then c.epoch else s1.epoch, budgetAt := none,
                     preempted := false, preemptReq := false, nominal := c.nominalEnergy, winTotal := n, winDone := 1,
                     begun := collStart s }
  let s2 := addWindow (claimHawks (putCmd (openChan s1 c1) c1) c1) (dieOf c.u) (energyPart c.nominalEnergy n 0)
  if c.op = 0x40 then finishCmd (odBump (qSet s2 c.u c.q 8 (fld c.word 116 104)) (0x3400 + c.u) 0x01 1) c1 stOK
  else if c.group.vector && chVCHK c.desc && bitOf c.verdict 97 then skipCmd s2 c1
  else if c.isSweepCmd && !chDUAL c.desc && c.dual then odBump s2 0x7300 0x02 1
  else s2

/-- Priority band of a queue (R212). -/
def bandOf (s : State) (u q : Nat) : Nat :=
  match queueRec s u q with
  | some r => urBand r q
  | none => 3

/-- DEFER of a command (R133). -/
def Cmd.defers (c : Cmd) : Bool := c.op == 0x20 && mmDefer c.word

/-- The place of a candidate in the order: band, then DEFER, then issue age (R215). -/
def orderKey (s : State) (c : Cmd) : Nat := (bandOf s c.u c.q * 2 + c.defers.toNat) * 2 ^ 64 + c.age

def insertCand (s : State) (c : Cmd) : List Cmd → List Cmd
  | [] => [c]
  | x :: r => if orderKey s c < orderKey s x then c :: x :: r else x :: insertCand s c r

/-- The candidates of a die in order (R215); a vector command is one once its admission read has been made (R199). -/
def candidates (s : State) (d : Nat) : List Cmd :=
  (((allQueues.filter (fun p => dieOf p.1 == d)).filterMap (fun p => admissionPoint s p.1 p.2)).filter
    (fun c => ready s c && (!c.group.vector || c.op == 0x40 || c.adRead))).foldr (insertCand s) []

/-- The first candidate has waited for budget longer than the hold limit (R215). -/
def holdPassed (s : State) (d : Nat) (c : Cmd) : Bool :=
  match c.budgetAt with
  | some t => odGet s (0x2300 + d) 0x04 < (s.uptime - t) * 10
  | none => false

/-- Candidates that do not fit begin to wait for budget, and the wait is counted (R215, 0x2300 + d .06). -/
def markWaits (s : State) (d : Nat) (l : List Cmd) : State :=
  let no := l.filter (fun c => !fits s c)
  if no.isEmpty then s
  else odBump (no.foldl (fun s c => if c.budgetAt.isNone then putCmd s { c with budgetAt := some s.uptime } else s) s)
    (0x2300 + d) 0x06 1

/-- The dispatcher's choice (R215). -/
def chosen (s : State) (d : Nat) (l : List Cmd) : Option Cmd :=
  match l with
  | [] => none
  | c :: r => if holdPassed s d c then (if fits s c then some c else none) else (c :: r).find? (fits s)

/-- One HUB cycle of a die's dispatcher (R215). -/
def dispatchDie (s : State) (d : Nat) : State :=
  let l := candidates s d
  let s1 := markWaits s d l
  match chosen s d l with
  | some c => admitCmd { s1 with holds := s1.holds.filter (fun p => p.1 != d) } c
  | none => s1

/-- ADMIT (R215). -/
def execAdmit (d : Nat) (s : State) : Host.Outcome State Fault Refusal := .next (if d < 4 then dispatchDie s d else s)

/-- HOLD_LIMIT_EXPIRY (R215): the hold limit blocks the order; counted once for each blocking candidate. -/
def execHoldLimitExpiry (d : Nat) (s : State) : Host.Outcome State Fault Refusal :=
  .next (match candidates s d with
    | c :: _ =>
      if d < 4 && holdPassed s d c && !fits s c && !s.holds.contains (d, c.age) then
        odBump { s with holds := (d, c.age) :: s.holds.filter (fun p => p.1 != d) } (0x2300 + d) 0x07 1
      else s
    | [] => s)

/-- The allocation, capacity time and price as set come into force (R218). -/
def takeBudget (s : State) (d : Nat) : State :=
  { s with budgets := [0, 1, 2, 3].map (fun e =>
      if e = d then ⟨allocation s d, odGet s (0x2300 + d) 0x02, odGet s (0x2300 + d) 0x03⟩ else budgetOf s e) }

/-- Reserves beyond a capacity that has fallen are cut, those of the later queues first (R217; DESIGN CHOICE, log 136). -/
def cutReserves (s : State) (d : Nat) : State :=
  ((s.reserves.filter (fun p => dieOf (p.1 / 16) == d)).foldl (fun (x : State × Nat) p =>
    ({ x.1 with reserves := Store.put 0 x.1.reserves p.1 (min p.2 x.2) }, x.2 - p.2)) (s, bucketCapacity s d)).1

/-- BUCKET_REFILL (R214): one AON tick of a die's bucket. Changed settings apply from it (R218; DESIGN CHOICE, log 137), and the level and
the reserves never exceed the capacity (R217). -/
def execBucketRefill (d : Nat) (s : State) : Host.Outcome State Fault Refusal :=
  .next (if d < 4 && bulkOn s then
      let s1 := cutReserves (takeBudget s d) d
      setLevel s1 d (min (bucketLevel s1 d + (budgetOf s1 d).alloc * 10) (bucketCapacity s1 d - dieReserves s1 d))
    else s)

/-- Return a queue's reserve to its bucket (R217). -/
def returnReserve (s : State) (u q : Nat) : State :=
  let r := reserveOf s u q
  let d := dieOf u
  let s1 := setReserveEnd (setReserve s u q 0) u q 0
  setLevel s1 d (min (bucketLevel s d + r) (bucketCapacity s d - dieReserves s1 d))

/-- RESERVE_EXPIRY (R217): the reserve's time has run out. -/
def execReserveExpiry (u q : Nat) (s : State) : Host.Outcome State Fault Refusal :=
  .next (if reserveOf s u q != 0 && Store.get 0 s.reserveEnds (drainKey u q) ≤ s.uptime then returnReserve s u q else s)

/-- BRESERVE (R217, R229): E nJ for T µs. -/
def execBreserve (u q : Nat) (s : State) : Host.Outcome State Fault Refusal :=
  .next (match readyControl s u q 0xC0 with
    | some c =>
      let s1 := returnReserve s u q
      let n := min (fld c.word 135 104) (bucketLevel s1 (dieOf u))
      let s2 := setReserve (setLevel s1 (dieOf u) (bucketLevel s1 (dieOf u) - n)) u q n
      finishCmd (setReserveEnd s2 u q (s.uptime + 100 * fld c.word 145 136)) c stOK
    | none => s)

/-- BRELEASE (R217, R227). -/
def execBrelease (u q : Nat) (s : State) : Host.Outcome State Fault Refusal :=
  .next (match readyControl s u q 0xC1 with
    | some c => finishCmd (returnReserve s u q) c stOK
    | none => s)

/-- SETVL (R164, R230): a skim command that writes VL and completes; it is admitted and charged as any skim command, where it is the
dispatcher's choice of this HUB cycle. -/
def execSetvl (u q : Nat) (s : State) : Host.Outcome State Fault Refusal :=
  .next (match admissionPoint s u q with
    | some c => if c.op == 0x40 && ready s c && chosen s (dieOf u) (candidates s (dieOf u)) == some c then dispatchDie s (dieOf u) else s
    | none => s)

/-! ### Pre-emption (R123, R124, R216) -/

/-- A screed stream rewinds to a command's first tile and fetches again (R242, rule 5). -/
def screedRewind (s : State) (c : Cmd) : State :=
  if screedNeed c.word = 0 then s
  else
    match claimedStream s c with
    | some x =>
      putScreed s { x with asked := min x.asked c.run.claimAt, landed := min x.landed c.run.claimAt,
                           flight := x.flight.filter (fun f => f.1 < c.run.claimAt) }
    | none => s

/-- Pre-empt a command at a pass boundary: its progress is kept under RES = 1, and it restarts from its first pass under RES = 0. Flags
raised before a restart are kept for the sticky register and left out of the record, as those of a re-run are (R64; DESIGN CHOICE,
log 126). -/
def preempt (s : State) (c : Cmd) : State :=
  let c1 := { c with stage := .issued, preempted := true, preemptReq := false, winTotal := 0, winDone := 0 }
  let s1 := dropTiles (releaseHawks s c true) c
  if mmRES c.word then odBump (putCmd s1 c1) (0x3300 + c.u) 0x03 1
  else odBump (screedRewind (putCmd s1 { c1 with run := c.run.again,
                                                 flags := 0, oldFlags := c.oldFlags ||| c.flags }) c) (0x3300 + c.u) 0x04 1

/-- A ready command l requests the pre-emption of the running command e (R216). -/
def mayPreempt (s : State) (l e : Cmd) : Bool :=
  bandOf s l.u l.q < bandOf s e.u e.q
    || (bandOf s l.u l.q == bandOf s e.u e.q && mmDefer e.word && !mmDefer l.word && mmRES e.word)

/-- PREEMPTION_REQUEST (R216): of every command whose passes hold the engine; one that is between passes is at its boundary. -/
def execPreemptionRequest (u q : Nat) (s : State) : Host.Outcome State Fault Refusal :=
  .next (match admissionPoint s u q with
    | some c =>
      if c.op == 0x20 && almostReady s c then
        ((engineUsers s c).filter (fun e => !e.preemptReq && mayPreempt s c e)).foldl (fun s e =>
          let s1 := odBump s (0x2300 + dieOf u) 0x08 1
          if e.run.inPass then putCmd s1 { e with preemptReq := true } else preempt s1 e) s
      else s
    | none => s)

end Sys2Proof.Machine
end

