-- ==== Sys2Proof/Machine/Array.lean ====
section
/-! DEFINITION. The arrays: weight tiles and their loader (R68, R70, R77, R96, R145 to R148), the hawks (R133 to R147), the feed of
activation rows, and the numeric effect of a pass: exact block sums (R50), the add chain (R51, R75), exponent marks (R76). -/

namespace Sys2Proof.Machine

/-! ### Accumulator words (R99) -/

def accKey (array bank row col : Nat) : Nat := ((array * 2 + bank) * 1024 + row) * 128 + col

def accGet (s : State) (k : Nat) : Nat := (Store.get 0 s.acc k).toNat

/-- A write replaces the word and its code. -/
def accPut (s : State) (k v : Nat) : State :=
  { s with acc := Store.put 0 s.acc k (BitVec.ofNat 32 v), accBad := s.accBad.filter (· != k), accFix := s.accFix.filter (· != k) }

/-- Write a run of (key, value) pairs. -/
def accPutAll (s : State) (l : List (Nat × Nat)) : State := l.foldl (fun s p => accPut s p.1 p.2) s

/-- The arrays of the working tile: bank and first row (R101, R234). -/
def workBank (w : CmdWord) : Nat := 1 - mmBANK w
def workRow (w : CmdWord) (m : Nat) : Nat := 32 * mmWB w + m
def resRow (w : CmdWord) (m : Nat) : Nat := 32 * mmRBASE w + m

/-- Key of a working or resident word of array position e, row m and engine column c. -/
def workKey (c : Cmd) (e m col : Nat) : Nat := accKey (mmArrayId c.u c.word e) (workBank c.word) (workRow c.word m) col
def resKey (c : Cmd) (e m col : Nat) : Nat := accKey (mmArrayId c.u c.word e) (mmBANK c.word) (resRow c.word m) col

/-! ### Exact block sums (R50, R59, R60, R89, R96) -/

/-- A product in a cell: a zero operand with a NaN or an infinity makes NaN with INV, gated or not (R60). -/
def cellMul (a w : Val) : Val × Flags :=
  if (a.isZero && w.nonFinite) || (w.isZero && a.nonFinite) then (.nan, fINV) else Val.mul a w

/-- The exact sum of values; INV only where no operand is a NaN (R59). -/
def exactSum (l : List Val) : Val × Flags :=
  if l.any Val.isNaN then (.nan, 0)
  else l.foldl (fun (a : Val × Flags) v => let r := Val.add a.1 v; (r.1, a.2 ||| r.2)) (Val.zero, 0)

/-- The exponent of the largest finite non-zero value of a list. -/
def topExp (l : List Val) : Option Int :=
  l.foldl (fun t v => match v with
    | .fin _ m _ => if m = 0 then t else (match t with | none => some v.ilog2 | some x => some (max x v.ilog2))
    | _ => t) none

/-- Drop the bits of a magnitude below 2^q; whether any were not zero (R50). -/
def dropBelow (q : Int) (v : Val) : Val × Bool :=
  match v with
  | .fin s m e => if e ≥ q then (v, false) else (.fin s (m >>> (q - e).toNat) q, m % 2 ^ (q - e).toNat != 0)
  | _ => (v, false)

/-- The block sum under weights of zero: +0, or NaN with INV where an activation is not finite (R60, R89). -/
def zeroBlock (as : List Val) : Val × Flags := if as.any Val.nonFinite then (.nan, fINV) else (Val.zero, 0)

/-- The block sum of a column: exact, or in a window whose bit `top` holds the leading bit of the largest product (R50, R96). -/
def blockSum (window : Option Nat) (as ws : List Val) : Val × Flags :=
  let ps := (as.zip ws).map (fun p => cellMul p.1 p.2)
  let fl := orFlags (ps.map (·.2))
  let vs := ps.map (·.1)
  match window, topExp vs with
  | some t, some x =>
    let ds := vs.map (dropBelow (x - t))
    let r := exactSum (ds.map (·.1))
    (r.1, fl ||| r.2 ||| (if ds.any (·.2) then fINX else 0))
  | _, _ => let r := exactSum vs; (r.1, fl ||| r.2)

/-! ### The add chain (R75, R76) -/

/-- No mark: no value other than zero has been handled. -/
def noMark : Int := -1048576

/-- The unbiased exponent of a running value (R76): of a subnormal its leading bit's, and none of a NaN or an infinity, whose row the
check skips (R97; DESIGN CHOICE, log 127). -/
def markOf (v : Val) : Int :=
  match v with
  | .fin _ m _ => if m = 0 then noMark else v.ilog2
  | _ => noMark

/-- A column of the add chain: stream state, running value, exponent mark, flags. -/
structure AddCol where
  w : Word64
  run : Nat
  mark : Int
  fl : Flags
  deriving DecidableEq, Repr

/-- One stage: an exact addition rounded stochastically, one draw (R51, R75). -/
def addStage (id : Nat) (a : AddCol) (blk : Val) : AddCol :=
  let d := streamStep id a.w
  let v := Val.add (v32 a.run) blk
  let r := fpStage fpFP32 (.stoch d.1) v.1
  ⟨d.2, r.1, max (max a.mark (markOf (v32 a.run))) (max (markOf blk) (markOf (v32 r.1))), a.fl ||| matFlags (v.2 ||| r.2)⟩

/-- Advance a stream by n draws. -/
def streamSkip (id : Nat) : Nat → Word64 → Word64
  | 0, w => w
  | n + 1, w => streamSkip id n (streamStep id w).2

/-! ### Reading packed operands -/

/-- Codes of elements k0 to k0 + n - 1 of a packed row at an offset. -/
def rowCodes (s : State) (a fmt k0 n : Nat) : List Nat := readCodes s (a + k0 * fmtBits fmt / 8) fmt n

/-- The scale byte at an offset; 127 for formats without scales (R49). -/
def scaleAt (s : State) (fmt a : Nat) : Nat := if isMX fmt then (memByte s a).toNat else 127

/-- The list cut or filled with zeros to n. -/
def padTo (n : Nat) (l : List Nat) : List Nat := l.take n ++ List.replicate (n - l.length) 0

/-! ### Re-blocking (R146, R147) and BF16 compatibility (R154) -/

/-- Flags that re-blocking and the compatibility conversion raise (R63). -/
def reblockFlags (f : Flags) : Flags := f &&& (fNFIN ||| fINV ||| fOFL)

/-- Re-block 32 values into a format: scale, codes, flags, number of elements whose value changes. -/
def reblock (fmt : Nat) (hrm : Bool) (draws : List Nat) (vs : List Val) : Nat × List Nat × Flags × Nat :=
  let r := mxConvert fmt hrm draws vs
  let ch := ((vs.zip r.2.1).filter (fun p => !(mxValue fmt r.1 p.2 == p.1) &&
    !(Val.cmp (mxValue fmt r.1 p.2) p.1 == 0 && !(mxValue fmt r.1 p.2).nonFinite && !p.1.nonFinite) &&
    !((mxValue fmt r.1 p.2).isNaN && p.1.isNaN))).length
  (r.1, r.2.1, reblockFlags r.2.2, ch)

/-- The conversion of an element to BF16 (R154): code, flags, whether its value changes. -/
def toBF16 (v : Val) : Nat × Flags × Nat :=
  let r := convert 1 .near false v
  let w := decodeFmt 1 r.1
  (r.1, r.2 &&& (fNFIN ||| fINV ||| fOFL), if v.isNaN || (Val.cmp w v == 0 && w.nonFinite == v.nonFinite) then 0 else 1)

/-- Streams of re-blocking (R147). -/
def hawkStream (k h l : Nat) : Nat := 0x30000000 + k * 512 + h * 256 + l
def loaderStream (k e c : Nat) : Nat := 0x31000000 + k * 256 + e * 128 + c

/-- The draws of one group of 32 elements. -/
def drawsFor (s : State) (hrm : Bool) (epoch : Nat) (ids : List Nat) : List Nat × State :=
  if hrm then drawList epoch ids s else ([], s)

/-- Result of re-blocking several groups: scales and codes by group, flags, changes. -/
structure Blocks where
  groups : List (Nat × List Nat)
  fl : Flags
  changed : Nat
  st : State

/-- Re-block groups in order; each comes with the streams of its elements. -/
def reblockAll (fmt : Nat) (hrm : Bool) (epoch : Nat) (gs : List (List Nat × List Val)) (s : State) : Blocks :=
  gs.foldl (fun b g =>
    let d := drawsFor b.st hrm epoch g.1
    let r := reblock fmt hrm d.1 g.2
    ⟨b.groups ++ [(r.1, r.2.1)], b.fl ||| r.2.2.1, b.changed + r.2.2.2, d.2⟩) ⟨[], 0, 0, s⟩

/-- Element (r, c) of a hawk tile as a value. -/
def HawkTile.value (t : HawkTile) (r c : Nat) : Val :=
  elemValue t.fmt (if isMX t.fmt then listGet 127 t.scales (if t.axis = 0 then r * 4 + c / 32 else r / 32 * 128 + c) else 127)
    (listGet 0 t.codes (r * 128 + c))

/-! ### Weight tiles (R68, R70, R77, R96) -/

/-- The weight operand is converted to BF16 at the loader (R154). -/
def weightToBF16 (s : State) (w : CmdWord) : Bool := mmCompat s w && mmGrad w == 1 && mmWFMT w != 1

/-- A weight tile as read: codes by K row, scales by block and column, lowest poisoned offset. -/
structure RawTile where
  codes : List (List Nat)
  scales : List (List Nat)
  poison : Option Nat
  deriving DecidableEq, Repr

def minOpt (a b : Option Nat) : Option Nat :=
  match a, b with
  | some x, some y => some (min x y)
  | some x, none => some x
  | none, y => y

def minOpts (l : List (Option Nat)) : Option Nat := l.foldl minOpt none

/-- Weights from scratch (R236): rows k0 to k0 + kn - 1; with RBW each scale row holds one scale per 32 columns of a K row. -/
def weightsFromScratch (s : State) (c : Cmd) (k0 kn : Nat) : RawTile :=
  let w := c.word
  let f := mmWFMT w
  let n := mmNCOL w
  let a := fun k => scr c.u (awRow (qword c.desc 0x10) (rowBytes f n) k)
  let sa := fun k => scr c.u (awRow (qword c.desc 0x18) (if mmRBW w then sclBytes n else n) k)
  let rows := (List.range kn).map (k0 + ·)
  let blocks := (List.range (ceilDiv' kn 32)).map (fun b => k0 / 32 + b)
  let sn := if mmRBW w then sclBytes n else n
  let srows := if !isMX f then [] else if mmRBW w then rows else blocks
  ⟨rows.map (fun k => readCodes s (a k) f n), srows.map (fun k => (memRead s (sa k) sn).map BitVec.toNat),
   minOpts (rows.map (fun k => lowestBad s (a k) (rowBytes f n)) ++ srows.map (fun k => lowestBad s (sa k) sn))⟩

/-- Offset of a screed slot in the core's scratch (R241). -/
def screedSlot (x : Screed) (tile : Nat) : Nat := x.ring * 4096 + tile % 2 ^ x.rs * slotSize x.cfmt

/-- A landed screed tile, of which the first `kn` K rows of 128 columns are read (R70), stored as a weight tile of R236 (R241): its scales
are rows of one per column and block, or, with `rbw`, one row of four for each K row. -/
def screedTile (s : State) (u : Nat) (x : Screed) (f tile kn : Nat) (rbw : Bool) : RawTile :=
  let a := scr u (screedSlot x tile)
  let rb := rowBytes f 128
  let sb := a + fmtBytes x.cfmt 16384
  ⟨(List.range kn).map (fun k => readCodes s (a + k * rb) f 128),
   if !isMX f then []
   else if rbw then (List.range kn).map (fun k => (memRead s (sb + k * 4) 4).map BitVec.toNat)
   else (List.range (ceilDiv' kn 32)).map (fun b => (memRead s (sb + b * 128) 128).map BitVec.toNat),
   minOpts [lowestBad s a (kn * rb), if isMX f then lowestBad s sb (if rbw then kn * 4 else ceilDiv' kn 32 * 128) else none]⟩

/-- Weights of a tile from a screed stream: one landed tile, or two for a K-slice of 256 (R242), each up to KLEN (R70). -/
def weightsFromScreed (s : State) (c : Cmd) (x : Screed) (t : Nat) : RawTile :=
  let per := screedPer c.word
  let ts := (List.range per).map (fun h => screedTile s c.u x (mmWFMT c.word) (c.run.claimAt + t * per + h)
    (min 128 (mmKLEN c.word - (t * per + h) * 128)) (mmRBW c.word))
  ⟨ts.flatMap (·.codes), ts.flatMap (·.scales), minOpts (ts.map (·.poison))⟩

/-- Weights of a tile from a hawk: cell (k, j) takes the element of storage row j and column k (R132, R144). -/
def weightsFromHawk (t : HawkTile) (n : Nat) : RawTile :=
  ⟨(List.range 128).map (fun k => (List.range n).map (fun j => listGet 0 t.codes (j * 128 + k))),
   if isMX t.fmt then (List.range 4).map (fun b => (List.range n).map (fun j => listGet 127 t.scales (j * 4 + b))) else [],
   t.poison⟩

/-- The tile with its K rows and columns filled with zeros (R70). -/
def RawTile.codeAt (t : RawTile) (k j : Nat) : Nat := listGet 0 (listGet [] t.codes k) j
def RawTile.scaleAt (t : RawTile) (b j : Nat) : Nat := listGet 127 (listGet [] t.scales b) j

/-- What loading a tile gives. -/
structure Loaded where
  tile : WTile
  fl : Flags
  changed : Nat
  st : State

/-- Form the weight tile of tile number t from what was read: RBW re-blocking along K (R145), BF16 conversion of the elements decoded
exactly (R154), check weights (R96, R148). Re-blocking takes its draws for every group of the K-slice, padding too (DESIGN CHOICE, log 150). `f` is the format as it arrives. Forming a check weight raises no flag: the spec names none
for its rounding or for weights of opposite infinities (DESIGN CHOICE, log 128). -/
def formTile (s : State) (c : Cmd) (t f : Nat) (raw : RawTile) : Loaded :=
  let w := c.word
  let n := mmNCOL w
  let sl := mmSlice w
  let ks := List.range sl
  let js := List.range n
  let conv := weightToBF16 s w && f != 1
  let rbw := mmRBW w && !conv
  -- re-blocking groups: by column, then block
  let b : Blocks := if rbw then
      reblockAll f (mmHRM w) c.epoch (js.flatMap (fun j => (List.range (sl / 32)).map (fun g =>
        (List.replicate 32 (loaderStream c.u (mmEng w) (mmCol0 w + j)),
         (List.range 32).map (fun i => elemValue f (listGet 127 (listGet [] raw.scales (g * 32 + i)) (j / 32))
           (raw.codeAt (g * 32 + i) j)))))) s
    else ⟨[], 0, 0, s⟩
  let nb := sl / 32
  let codes0 := if rbw then
      ks.flatMap (fun k => js.map (fun j => listGet 0 (listGet (0, []) b.groups (j * nb + k / 32)).2 (k % 32)))
    else ks.flatMap (fun k => js.map (fun j => raw.codeAt k j))
  let scales0 := if !isMX f then List.replicate (nb * n) 127
    else if rbw then (List.range nb).flatMap (fun g => js.map (fun j => (listGet (127, []) b.groups (j * nb + g)).1))
    else (List.range nb).flatMap (fun g => js.map (fun j => raw.scaleAt g j))
  let value0 := fun k j => elemValue f (if mmRBW w then raw.scaleAt k (j / 32) else raw.scaleAt (k / 32) j) (raw.codeAt k j)
  let cv := if conv then ks.flatMap (fun k => js.map (fun j => toBF16 (value0 k j))) else []
  let fmt := if conv then 1 else f
  let codes := if conv then cv.map (·.1) else codes0
  let scales := if conv then List.replicate (nb * n) 127 else scales0
  let value := fun k j => elemValue fmt (listGet 127 scales (k / 32 * n + j)) (listGet 0 codes (k * n + j))
  let check := if c.checked then ks.map (fun k => (rn32 (exactSum (js.map (fun j => value k j))).1).1) else []
  ⟨⟨c.u, mmEng w, mmHALF w, false, c.u, c.q, c.serial, t, fmt, n, codes, scales, check, raw.poison⟩,
   b.fl ||| orFlags (cv.map (fun x => x.2.1)), b.changed + (cv.map (fun x => x.2.2)).foldl (· + ·) 0, b.st⟩

/-! ### Hawk tiles (R135 to R147) -/

/-- Slots a tile takes (R135). -/
def tileSlots (fmt : Nat) : Nat := if is16 fmt then 2 else 1

/-- The index of the next pass whose tiles a hawk's front holds: the weight loader runs one load ahead of the passes. -/
def nextPass (c : Cmd) : Nat := c.run.passes + c.run.inPass.toNat

def hasShadow (s : State) (c : Cmd) : Bool :=
  s.wtiles.any (fun t => !t.active && t.u == c.u && t.q == c.q && t.serial == c.serial)

/-- Pass index of the front tile of hawk h. -/
def hawkPass (s : State) (c : Cmd) (h : Nat) : Nat :=
  nextPass c + (if mmHwList c.word == [h] && hasShadow s c then 1 else 0)

/-- The MX block axis of a stored hawk source: the spec does not name it, so it is a free value (log 23). -/
def sourceAxis (s : State) : Nat × State := freshNat s 2 1

/-- A tile with zeros beyond its first `nr` storage rows and `nc` storage columns, as the loader and the feed fill a K-slice beyond KLEN
(R70). -/
def HawkTile.within (t : HawkTile) (nr nc : Nat) : HawkTile :=
  if 128 ≤ nr && 128 ≤ nc then t
  else
    { t with
      codes := (List.range 16384).map (fun i => if i / 128 < nr && i % 128 < nc then listGet 0 t.codes i else 0),
      scales := if !isMX t.fmt then t.scales
        else (List.range 512).map (fun i =>
          if (if t.axis = 0 then i / 4 < nr && i % 4 * 32 < nc else i / 128 * 32 < nr && i % 128 < nc) then listGet 127 t.scales i else 127) }

/-- A tile whose K dimension is cut at KLEN: K runs along the storage columns for the weight loader and along the storage rows for row
feeds (R70, R132). -/
def HawkTile.cutK (t : HawkTile) (w : CmdWord) (loader : Bool) (n : Nat) : HawkTile :=
  let kn := min 128 (mmKLEN w - n * 128)
  if loader then t.within 128 kn else t.within kn 128

/-- Raw 128 × 128 tile of a stored source: storage rows r0 on, columns c0 on, `nr` by `nc` of them present. -/
def storedTile (s : State) (base : Nat → Nat) (ea sa : Nat) (f width swidth axis r0 nr c0 nc : Nat) : HawkTile :=
  let row := fun r => base (awRow ea width r)
  let codes := (List.range 128).flatMap (fun r =>
    if r < nr then padTo 128 (rowCodes s (row (r0 + r)) f c0 nc) else List.replicate 128 0)
  let sAt := fun r => base (awRow sa swidth r)
  let scales := if !isMX f then []
    else if axis = 0 then (List.range 128).flatMap (fun r => (List.range 4).map (fun b =>
      if r < nr && b * 32 < nc then (memByte s (sAt (r0 + r) + c0 / 32 + b)).toNat else 127))
    else (List.range 4).flatMap (fun b => (List.range 128).map (fun x =>
      if b * 32 < nr && x < nc then (memByte s (base (awAddr sa) + (r0 / 32 + b) * (swidth * 32) + c0 + x)).toNat else 127))
  let bad := (List.range nr).map (fun r => lowestBad s (row (r0 + r) + c0 * fmtBits f / 8) (fmtBytes f nc)) ++
    (if !isMX f then []
     else if axis = 0 then (List.range nr).map (fun r => lowestBad s (sAt (r0 + r) + c0 / 32) (ceilDiv' nc 32))
     else (List.range (ceilDiv' nr 32)).map (fun b => lowestBad s (base (awAddr sa) + (r0 / 32 + b) * (swidth * 32) + c0) nc))
  ⟨f, axis, codes, scales, minOpts bad⟩

/-- Move the blocks of a tile to the other axis (R144, R146), drawing from the hawk's lanes: lane 128 × (fed array mod 2) + column for a
row feed, the column of the loader for a weight tile (DEDUCED, log 24). Every one of its 128 × 128 elements takes its draw, padding too
(DESIGN CHOICE, log 150). -/
def reblockTile (s : State) (t : HawkTile) (want : Nat) (hrm : Bool) (epoch : Nat) (lane : Nat → Nat → Nat) : Blocks × HawkTile :=
  let gs := if want = 1 then
      (List.range 128).flatMap (fun x => (List.range 4).map (fun g =>
        ((List.range 32).map (fun i => lane (g * 32 + i) x), (List.range 32).map (fun i => t.value (g * 32 + i) x))))
    else
      (List.range 128).flatMap (fun x => (List.range 4).map (fun g =>
        ((List.range 32).map (fun i => lane x (g * 32 + i)), (List.range 32).map (fun i => t.value x (g * 32 + i)))))
  let b := reblockAll t.fmt hrm epoch gs s
  let get := fun x y => listGet 0 (listGet (0, []) b.groups (x * 4 + y / 32)).2 (y % 32)
  let codes := (List.range 128).flatMap (fun r => (List.range 128).map (fun x => if want = 1 then get x r else get r x))
  let scales := if want = 1 then (List.range 4).flatMap (fun g => (List.range 128).map (fun x => (listGet (127, []) b.groups (x * 4 + g)).1))
    else (List.range 128).flatMap (fun r => (List.range 4).map (fun g => (listGet (127, []) b.groups (r * 4 + g)).1))
  (b, ⟨t.fmt, want, codes, scales, t.poison⟩)

/-- Bring the blocks of a tile onto the axis its destination needs: unchanged where they lie there already (R144). -/
def blocksOnto (s : State) (t : HawkTile) (want : Nat) (hrm : Bool) (epoch : Nat) (lane : Nat → Nat → Nat) : Blocks × HawkTile :=
  if !isMX t.fmt || t.axis = want then (⟨[], 0, 0, s⟩, t) else reblockTile s t want hrm epoch lane

/-- A hawk's tile number n of a matrix command, as stored: through the weight loader (HW), storage rows are columns of the tile; through
row feeds (HA), storage rows are K rows (R132). From a screed stream the tile is a landed weight tile (R241). -/
def sourceTile (s : State) (c : Cmd) (h n : Nat) : HawkTile × State :=
  let w := c.word
  let d := c.desc
  let base := fun a => if mmHSRC w = 1 then a else scr c.u a
  if mmHSRC w = 2 then
    match claimedStream s c with
    | some x =>
      let f := if mmHwList w == [h] then mmWFMT w else mmAFMT w
      let t := screedTile s c.u x f (c.run.claimAt + n) 128 false
      ((⟨f, 1, t.codes.flatten, t.scales.flatten, t.poison⟩ : HawkTile).cutK w (mmHwList w == [h]) n, s)
    | none => (⟨mmWFMT w, 1, [], [], none⟩, s)
  else
    let ax := sourceAxis s
    if mmHwList w == [h] then
      (storedTile s base (qword d 0x10) (qword d 0x18) (mmWFMT w) (rowBytes (mmWFMT w) (mmKLEN w)) (sclBytes (mmKLEN w)) ax.1
        0 (mmNCOL w) (n * 128) (min 128 (mmKLEN w - n * 128)), ax.2)
    else
      let tpp := mmTilesPerPass w h
      let groups := ceilDiv' (mmM w) 128
      let e := listGet 0 (mmFed w h) (n % tpp / groups)
      let g := n % tpp % groups
      let col0 := ((mmArrays w).takeWhile (· != e)).length * mmM w + g * 128
      let k0 := n / tpp * 128
      (storedTile s base (qword d 0x00) (qword d 0x08) (mmAFMT w) (rowBytes (mmAFMT w) (mmRows w)) (sclBytes (mmRows w)) ax.1
        k0 (min 128 (mmKLEN w - k0)) col0 (min 128 (mmM w - g * 128)), ax.2)

/-- The command has claimed hawk h of its core (R140). -/
def ownsHawk (s : State) (c : Cmd) (h : Nat) : Bool := (getHawk s (c.u * 2 + h)).owner == some (c.u, c.q, c.serial)

/-- The tiles of hawk h that stand there for the command. -/
def ownTiles (s : State) (c : Cmd) (h : Nat) : List HawkTile := if ownsHawk s c h then (getHawk s (c.u * 2 + h)).tiles else []

/-- The tiles of hawk h still to be written for a command: the number of the next one, if any. -/
def nextHawkTile (s : State) (c : Cmd) (h : Nat) : Option Nat :=
  let k := (ownTiles s c h).length
  let w := c.word
  let f := if mmHwList w == [h] then mmWFMT w else mmAFMT w
  let tpp := mmTilesPerPass w h
  let n := hawkPass s c h * tpp + k
  if mmHSRC w = 3 || !(mmHaList w ++ mmHwList w).contains h then none
  else if n < mmPasses w * tpp && (k + 1) * tileSlots f ≤ 16 then some n else none

/-- A screed tile that hawk h would take has landed. -/
def hawkSourceReady (s : State) (c : Cmd) (n : Nat) : Bool :=
  mmHSRC c.word != 2 || (match claimedStream s c with
    | some x => c.run.claimAt + n < x.landed
    | none => false)

/-- The row operand is converted to BF16 in its hawk (R154). -/
def feedToBF16 (s : State) (w : CmdWord) : Bool := mmCompat s w && mmGrad w == 2 && mmAFMT w != 1

/-- A tile with each element decoded exactly and converted to BF16 (R154), the flags, and the elements whose value changes. -/
def tileToBF16 (t : HawkTile) : HawkTile × Flags × Nat :=
  let v := (List.range 16384).map (fun i => toBF16 (t.value (i / 128) (i % 128)))
  (⟨1, t.axis, v.map (·.1), [], t.poison⟩, orFlags (v.map (fun x => x.2.1)), (v.map (fun x => x.2.2)).foldl (· + ·) 0)

/-- A tile as a hawk gives it to the weight loader or to row feeds: in BF16 compatibility mode the operand that is no gradient is
converted (R154), and otherwise the blocks lie along the axis the destination needs (R144). -/
def hawkGive (s : State) (w : CmdWord) (epoch : Nat) (loader : Bool) (t : HawkTile) (lane : Nat → Nat → Nat) : Blocks × HawkTile :=
  if (if loader then weightToBF16 s w else feedToBF16 s w) then (⟨[], (tileToBF16 t).2.1, (tileToBF16 t).2.2, s⟩, (tileToBF16 t).1)
  else blocksOnto s t (if loader then 0 else 1) (mmHRM w) epoch lane

/-- The stream of a hawk's output lane for storage row r (R147): a row feed's lane is 128 × (fed array mod 2) + its place in the output
row, the weight loader's its place in the row (DEDUCED, log 24). `pos`: the place of the fed array. -/
def hawkLane (c : Cmd) (h : Nat) (loader : Bool) (pos r : Nat) : Nat := hawkStream c.u h (if loader then r else 128 * (pos % 2) + r)

/-- Write one tile of a matrix command into a hawk, as its destination needs it. -/
def hawkWrite (s : State) (c : Cmd) (h n : Nat) : State :=
  let src := sourceTile s c h n
  let loader := mmHwList c.word == [h]
  let pos := n % mmTilesPerPass c.word h / ceilDiv' (mmM c.word) 128
  let b := hawkGive src.2 c.word c.epoch loader src.1 (fun r _ => hawkLane c h loader pos r)
  let k := getHawk b.1.st (c.u * 2 + h)
  let s1 := putHawk b.1.st { k with tiles := k.tiles ++ [b.2] }
  let s2 := if b.1.changed = 0 then s1 else odBump s1 (0x3200 + c.u) 0x0A b.1.changed
  putCmd s2 { c with flags := c.flags ||| b.1.fl }

/-! ### The row feed (R81, R133, R236) -/

/-- The K-slice of one activation row as it enters the array: its codes and scale bytes, its values, their NFIN, and the lowest
poisoned offset. -/
structure Feed where
  codes : List Nat
  scales : List Nat
  vals : List Val
  fl : Flags
  poison : Option Nat

def feedOf (codes scales : List Nat) (vs : List Val) (p : Option Nat) : Feed :=
  ⟨codes, scales, vs, if vs.any Val.nonFinite then fNFIN else 0, p⟩

/-- Row m of array position e from scratch, pass p. -/
def feedScratch (s : State) (c : Cmd) (e m p : Nat) : Feed :=
  let w := c.word
  let f := mmAFMT w
  let sl := mmSlice w
  let k0 := p * sl
  let kn := min sl (mmKLEN w - k0)
  let r := ((mmArrays w).takeWhile (· != e)).length * mmM w + m
  let a := scr c.u (awRow (qword c.desc 0x00) (rowBytes f (mmKLEN w)) r)
  let sa := scr c.u (awRow (qword c.desc 0x08) (sclBytes (mmKLEN w)) r) + k0 / 32
  let codes := rowCodes s a f k0 kn
  let sc := if isMX f then (memRead s sa (ceilDiv' kn 32)).map BitVec.toNat else []
  let vs := (codes.zipIdx).map (fun x => elemValue f (listGet 127 sc (x.2 / 32)) x.1)
  feedOf codes sc (vs ++ List.replicate (sl - kn) Val.zero)
    (minOpt (lowestBad s (a + k0 * fmtBits f / 8) (fmtBytes f kn)) (if isMX f then lowestBad s sa (ceilDiv' kn 32) else none))

/-- The hawk that feeds array position e, and the index within its pass of the tile that holds row m. -/
def feedHawk (w : CmdWord) (e : Nat) : Nat := if mmHA w = 3 then e / 2 else mmHA w - 1

/-- The tiles of hawk h that the next pass reads: those of the pass in a held set, which is read at its place, else the front ones. The
tiles of a held set serve pass by pass, in a pass the fed arrays in ascending order, and for each array its groups of 128 rows (DESIGN
CHOICE, log 151: R141 names no order). -/
def passTiles (s : State) (c : Cmd) (h : Nat) : List HawkTile :=
  let n := mmTilesPerPass c.word h
  let ts := (getHawk s (c.u * 2 + h)).tiles
  (if mmHSRC c.word = 3 then ts.drop (c.run.passes * n) else ts).take n

/-- Tiles by hawk as given to the row feeds, with the flags and changes of giving them. -/
structure Given where
  tiles : List (Nat × HawkTile)
  fl : Flags
  changed : Nat

/-- The tiles that the next pass reads from the row-feed hawks. Tiles of a ring entered it as their destination needs them (`hawkWrite`);
those of a held set are cut at KLEN (R70) and brought there as they leave (R144, R154). -/
def fedTiles (s : State) (c : Cmd) : Given × State :=
  let w := c.word
  let all := (mmHaList w).flatMap (fun h => (passTiles s c h).zipIdx.map (fun t => (h, t)))
  if mmHSRC w = 3 then
    all.foldl (fun (x : Given × State) t =>
      let b := hawkGive x.2 w c.epoch false (t.2.1.cutK w false c.run.passes) (fun r _ => hawkLane c t.1 false (t.2.2 / ceilDiv' (mmM w) 128) r)
      (⟨x.1.tiles ++ [(t.1, b.2)], x.1.fl ||| b.1.fl, x.1.changed + b.1.changed⟩, b.1.st)) (⟨[], 0, 0⟩, s)
  else (⟨all.map (fun t => (t.1, t.2.1)), 0, 0⟩, s)

/-- Row m of array position e from its hawk's tiles. -/
def feedFromHawk (c : Cmd) (tiles : List (Nat × HawkTile)) (e m : Nat) : Feed :=
  let w := c.word
  let h := feedHawk w e
  let pos := ((mmFed w h).takeWhile (· != e)).length
  let within := if mmHSRC w = 2 then 0 else pos * ceilDiv' (mmM w) 128 + m / 128
  let t := (listGet (0, ⟨mmAFMT w, 1, [], [], none⟩) (tiles.filter (fun x => x.1 == h)) within).2
  feedOf ((List.range 128).map (fun i => listGet 0 t.codes (i * 128 + m % 128)))
    (if isMX t.fmt then (List.range 4).map (fun g => listGet 127 t.scales (g * 128 + m % 128)) else [])
    ((List.range 128).map (fun i => t.value i (m % 128))) t.poison

def feedRow (s : State) (c : Cmd) (tiles : List (Nat × HawkTile)) (e m : Nat) : Feed :=
  if mmHA c.word = 0 then feedScratch s c e m c.run.passes else feedFromHawk c tiles e m

/-- Every hawk that drives row feeds is the command's and holds the tiles of its next pass (R138, R140). -/
def feedsReady (s : State) (c : Cmd) : Bool :=
  (mmHaList c.word).all (fun h =>
    let k := (ownTiles s c h).length
    ownsHawk s c h &&
      (if mmHSRC c.word = 3 then k == mmPasses c.word * mmTilesPerPass c.word h else decide (mmTilesPerPass c.word h ≤ k)))

/-- Drop the tiles that a pass has taken from the row-feed hawks. -/
def consumeFeeds (s : State) (c : Cmd) : State :=
  if mmHSRC c.word = 3 then s
  else (mmHaList c.word).foldl (fun s h =>
    let k := getHawk s (c.u * 2 + h)
    putHawk s { k with tiles := k.tiles.drop (mmTilesPerPass c.word h) }) s

/-! ### A pass (R69, R75, R76, R89) -/

/-- Window bit of the largest product: 16-bit formats alone have one (R50). -/
def passWindow (t : WTile) : Option Nat := if is16 t.fmt then some 74 else none

/-- Column j of a weight tile as values. -/
def tileColumn (t : WTile) (sl j : Nat) : List Val :=
  (List.range sl).map (fun k => elemValue t.fmt (listGet 127 t.scales (k / 32 * t.ncol + j)) (listGet 0 t.codes (k * t.ncol + j)))

/-- Cut a list into runs of 32. -/
def chunks32 : Nat → List Val → List (List Val)
  | 0, _ => []
  | n + 1, l => l.take 32 :: chunks32 n (l.drop 32)

/-- The start of a column's running value: zero at the first pass (R75), else the working word. -/
def runStart (s : State) (c : Cmd) (e m col : Nat) : Nat := if c.run.passes = 0 then 0 else accGet s (workKey c e m col)

def markGet (c : Cmd) (k : Nat) : Int := Store.get noMark c.run.marks k
def markKey (e m col : Nat) : Nat := (e * 1024 + m) * 128 + col

/-- What a pass does to one column of one array. -/
structure ColOut where
  words : List (Nat × Nat)
  marks : List (Nat × Int)
  fl : Flags
  w : Word64

/-- The block sums of one row in a column: `ws` its blocks of weights, none where they are all zero. -/
def columnBlocks (win : Option Nat) (ws : Option (List (List Val))) (as : List (List Val)) : List (Val × Flags) :=
  match ws with
  | some w => (as.zip w).map (fun p => blockSum win p.1 p.2)
  | none => as.map zeroBlock

/-- Run the rows of a pass down one column: `ws` its blocks of weights, none where the column's weights are all zero (R70): there too the
add chain runs (R75), and adding +0 to a running value of +0 leaves it. -/
def passColumn (s : State) (c : Cmd) (e col : Nat) (win : Option Nat) (ws : Option (List (List Val)))
    (rows : List (List (List Val))) : ColOut :=
  let id := addStream (mmArrayId c.u c.word e) col
  let nb := mmSlice c.word / 32
  rows.zipIdx.foldl (fun o r =>
    let key := workKey c e r.2 col
    let start := runStart s c e r.2 col
    if ws.isNone && start == 0 && !(r.1.any (fun b => b.any Val.nonFinite)) then ⟨o.words ++ [(key, 0)], o.marks, o.fl, streamSkip id nb o.w⟩
    else
      let bs := columnBlocks win ws r.1
      let a := bs.foldl (fun a b => addStage id a b.1) ⟨o.w, start, markGet c (markKey e r.2 col), 0⟩
      ⟨o.words ++ [(key, a.run)], o.marks ++ [(markKey e r.2 col, a.mark)],
       o.fl ||| a.fl ||| orFlags (bs.map (fun b => b.2 &&& (fINV ||| (if win == some 74 then fINX else 0)))), a.w⟩) ⟨[], [], 0, streamGet s c.epoch id⟩

/-- MAC slots suppressed by zero gating on one array (0x3200 + core id .04). -/
def gatedMacs (sl width : Nat) (rows : List (List Val)) (cols : List (List Val)) : Nat :=
  let act := (List.range sl).map (fun k =>
    (rows.filter (fun r => !(listGet Val.zero r k).isZero)).length * (cols.filter (fun x => !(listGet Val.zero x k).isZero)).length)
  rows.length * width * sl - act.foldl (· + ·) 0

/-- The numeric effect of a pass on one array: words, marks, flags, streams, gated slots. -/
def passArray (s : State) (c : Cmd) (t : WTile) (e : Nat) (feeds : List Feed) : State × Cmd :=
  let w := c.word
  let sl := mmSlice w
  let nb := sl / 32
  let rows := feeds.map (fun f => chunks32 nb f.vals)
  let cols := (List.range (mmNCOL w)).map (fun j => tileColumn t sl j)
  let chk := c.checked
  let checkVals := t.check.map v32
  let start : State × Cmd := (s, { c with flags := c.flags ||| matFlags (orFlags (feeds.map (·.fl))) })
  let r := (List.range (mmWidth w)).foldl (fun (x : State × Cmd) j =>
    let col := mmCol0 w + j
    let isCheck := chk && j + 1 == mmWidth w
    let ws := if isCheck then some (chunks32 nb checkVals)
      else if j < mmNCOL w then some (chunks32 nb (listGet [] cols j)) else none
    let o := passColumn s c e col (if isCheck then some 90 else passWindow t) ws rows
    let s1 := streamPut (accPutAll x.1 o.words) c.epoch (addStream (mmArrayId c.u w e) col) o.w
    let marks := if chk then o.marks.foldl (fun m p => Store.put noMark m p.1 p.2) x.2.run.marks else x.2.run.marks
    (s1, { x.2 with flags := x.2.flags ||| o.fl, run := { (x.2.run) with marks := marks } })) start
  let g := gatedMacs sl (mmWidth w) (feeds.map (·.vals)) (cols ++ (if chk then [checkVals] else []))
  (if g = 0 then r.1 else odBump r.1 (0x3200 + c.u) 0x04 g, r.2)

end Sys2Proof.Machine
end

