-- ==== Sys2Proof/Machine/Drain.lean ====
section
/-! DEFINITION. The drain (R109 to R119): functions and derivatives (R112), the recipe of one row in the order of its steps, carry
records (R114, R115), sums of squares (R116), output conversion (R117), and the row check of checked mode (R97). -/

namespace Sys2Proof.Machine

/-! ### Functions within a bound (R112, R175) -/

/-- A bounded function of a finite argument: operation number, argument code, reference value. -/
def bounded4 (op x : Nat) (v : Int) : Nat × Flags := boundedResult op x 4 true (fxVal v)

/-- Activation f(z) (R112, R59). -/
def actF (fn z : Nat) : Nat × Flags :=
  let v := v32 z
  if fn = 0 then (if v.isNaN then c32NaN else z, 0)
  else if v.isNaN then (c32NaN, 0)
  else if fn = 1 then (if v.isZero || v.sign then 0 else z, 0)
  else
    match v with
    | .inf true => (if fn = 5 then 0xBF800000 else 0, 0)
    | .inf false => (if fn = 4 ∨ fn = 5 then c32One else c32PInf, 0)
    | _ =>
      let x := fxOf v
      match fn with
      | 2 => bounded4 (16 + fn) z (fxGelu x)
      | 3 => bounded4 (16 + fn) z (fxMul x (fxSigmoid x))
      | 4 => bounded4 (16 + fn) z (fxSigmoid x)
      | 5 => bounded4 (16 + fn) z (fxTanh x)
      | 6 => bounded4 (16 + fn) z (fxSoftplus x)
      | _ => (z, 0)

/-- Derivative f′(z) (R112); limits at ±∞ raise no flag (R59). -/
def actD (fn z : Nat) : Nat × Flags :=
  let v := v32 z
  if v.isNaN then (c32NaN, 0)
  else if fn = 0 then (c32One, 0)
  else if fn = 1 then (if v.isZero || v.sign then 0 else c32One, 0)
  else
    match v with
    | .inf true => (0, 0)
    | .inf false => (if fn = 4 ∨ fn = 5 then 0 else c32One, 0)
    | _ =>
      let x := fxOf v
      let sg := fxSigmoid x
      match fn with
      | 2 => bounded4 (32 + fn) z (fxGeluD x)
      | 3 => bounded4 (32 + fn) z (fxMul sg (fxOne + fxMul x (fxOne - sg)))
      | 4 => bounded4 (32 + fn) z (fxMul sg (fxOne - sg))
      | 5 => bounded4 (32 + fn) z (fxOne - fxMul (fxTanh x) (fxTanh x))
      | 6 => bounded4 (32 + fn) z sg
      | _ => (c32One, 0)

/-- exp of an FP32 argument, formed as exp2(x × log₂e) to the accuracy of R112 (R114). -/
def expF (x : Nat) : Nat × Flags :=
  match v32 x with
  | .nan => (c32NaN, 0)
  | .inf true => (0, 0)
  | .inf false => (c32PInf, 0)
  | .fin s m e =>
    if m = 0 then (c32One, 0) else boundedResult 48 x 4 true (fxExp (fxOf (.fin s m e)))

/-! ### Reads of the form phase -/

/-- An FP32 word of scratch. -/
def fp32At (s : State) (a : Nat) : Nat := memNat s a 4

/-- The ranges that forming matrix row m reads (R110, R113), as local offsets and lengths; the carry records are read at the start of the
form phase, with row 0 (R114). -/
def formReads (c : Cmd) (m : Nat) : List (Nat × Nat) :=
  let w := c.word
  let d := c.desc
  let n := mmNCOL w
  let u := pdUFMT d
  (if mmRSCL w then [(scr c.u (awAddr (qword d 0x58) + 4 * m), 4)] else [])
    ++ (if mmBIAS w then [(scr c.u (awAddr (qword d 0x50)), 512)] else [])
    ++ (if mmSOP w ≠ 0 then [(scr c.u (awRow (qword d 0x40) (rowBytes u n) m), rowBytes u n)] else [])
    ++ (if mmSOP w ≠ 0 ∧ isMX u then [(scr c.u (awRow (qword d 0x48) (sclBytes n) m), sclBytes n)] else [])
    ++ (if mmSOP w = 2 then [(scr c.u (awAddr (qword d 0x60) + 4 * m), 4)] else [])
    ++ (if mmRST w ≠ 0 ∧ !mmCINIT w ∧ m = 0 then [(scr c.u (awAddr (qword d 0x68)), 16 * mmRows w)] else [])
    ++ (if mmSSQ w && !mmSSQC w && m % mmM w == 0 then
      [(scr c.u (awAddr (qword d 0x70) + 4 * listGet 0 (mmArrays w) (m / mmM w)), 4)] else [])

/-- The lowest poisoned offset among them. -/
def formPoison (s : State) (c : Cmd) (m : Nat) : Option Nat := minOpts ((formReads c m).map (fun r => lowestBad s r.1 r.2))

/-- The command with its carry records in drain registers: they are read at the start of the form phase (R114). -/
def readCarry (s : State) (c : Cmd) : Cmd :=
  if mmRST c.word = 0 || mmCINIT c.word || c.run.formed != 0 then c
  else { c with run := { (c.run) with carry := (List.range (mmRows c.word)).map (fun m =>
    (m, memNat s (scr c.u (awAddr (qword c.desc 0x68) + 16 * m)) 16)) } }

/-- A carried row record as (m, l), from its drain register (R114). -/
def carryStart (c : Cmd) (m : Nat) : Nat × Nat :=
  if mmCINIT c.word then (c32NInf, 0)
  else
    let r := (odLook c.run.carry m).getD 0
    (bits r 0 32, bits r 32 32)

/-! ### The recipe (R109) -/

/-- A value of a step with the flags gathered so far. -/
abbrev Elt := Nat × Flags

/-- Step 2 (R110). -/
def stepScale (w : CmdWord) (alpha gamma beta : Nat) (v : Nat) : Elt :=
  let a := if mmSCL w then mul32 alpha v else (v, 0)
  let b := if mmRSCL w then mul32 gamma a.1 else (a.1, 0)
  let r := if mmBIAS w then add32 b.1 beta else (b.1, 0)
  (r.1, a.2 ||| b.2 ||| r.2)

/-- Step 3 (R111): masked where k0 + j > q0 + m + δ. -/
def masked (d m j : Nat) : Bool :=
  let q0 := bits (qword d 0x88) 0 32
  let k0 := bits (qword d 0x88) 32 32
  let dl := (BitVec.ofNat 32 (bits (qword d 0x90) 0 32)).toInt
  decide ((k0 + j : Int) > (q0 + m : Int) + dl)

/-- Step 5 (R113). -/
def stepStream (w : CmdWord) (a u dm : Nat) : Elt :=
  match mmSOP w with
  | 1 => let f := actD (mmDF w) u; let r := mul32 a f.1; (r.1, f.2 ||| r.2)
  | 2 => let t := sub32 a dm; let r := mul32 u t.1; (r.1, t.2 ||| r.2)
  | 3 => mul32 a u
  | _ => (a, 0)

/-- The streamed operand of element j, widened (R113, R52). -/
def streamedOf (s : State) (c : Cmd) (m : Nat) : List Elt :=
  let w := c.word
  let n := mmNCOL w
  let u := pdUFMT c.desc
  if mmSOP w = 0 then List.replicate n (0, 0)
  else
    let codes := readCodes s (scr c.u (awRow (qword c.desc 0x40) (rowBytes u n) m)) u n
    let sa := scr c.u (awRow (qword c.desc 0x48) (sclBytes n) m)
    codes.zipIdx.map (fun x =>
      let sc := scaleAt s u (sa + x.2 / 32)
      let r := widen32 (elemValue u sc x.1)
      (r.1, operandNFIN u sc x.1 ||| r.2))

/-- Step 6 and what steps 7 and 8 receive: the record (m, l, ρ), the values, flags (R114, R115). A carried maximum of +∞ or NaN is taken as
such a value of the row itself, of which alone R115 speaks (DESIGN CHOICE, log 159). -/
def rowStats (w : CmdWord) (rec0 : Nat × Nat) (g : List Nat) : (Nat × Nat × Nat) × List Nat × Flags :=
  match mmRST w with
  | 1 =>
    let mx := g.foldl max32 rec0.1
    let bad := g.any (fun x => (v32 x).isNaN || v32 x == .inf false) || (v32 rec0.1).isNaN || v32 rec0.1 == .inf false
    if bad then
      -- INV where a NaN arises from no NaN: an infinity less itself (R59)
      ((c32NaN, c32NaN, c32NaN), if mmEXPO w then g.map (fun _ => c32NaN) else g,
        if g.any (fun x => (v32 x).isNaN) || (v32 rec0.1).isNaN then 0 else fINV)
    else if v32 mx == .inf true then
      ((mx, rec0.2, c32One), if mmEXPO w then g.map (fun _ => 0) else g, 0)
    else
      let dr := sub32 rec0.1 mx
      let rho := expF dr.1
      let es := g.map (fun x => let t := sub32 x mx; let e := expF t.1; (e.1, t.2 ||| e.2))
      let sum := es.foldl (fun (a : Elt) e => let r := add32 a.1 e.1; (r.1, a.2 ||| r.2 ||| e.2)) (0, 0)
      let p := mul32 rec0.2 rho.1
      let l := add32 p.1 sum.1
      ((mx, l.1, rho.1), if mmEXPO w then es.map (·.1) else g, dr.2 ||| rho.2 ||| sum.2 ||| p.2 ||| l.2)
  | 2 =>
    let sum := match g with
      | [] => (0, 0)
      | x :: r => r.foldl (fun (a : Elt) y => let t := add32 a.1 y; (t.1, a.2 ||| t.2)) (x, (0 : Flags))
    let l := add32 rec0.2 sum.1
    ((rec0.1, l.1, c32One), g, sum.2 ||| l.2)
  | 3 => ((g.foldl max32 rec0.1, rec0.2, c32One), g, 0)
  | _ => (rec0 |> fun r => (r.1, r.2, c32One), g, 0)

/-- A carry record as 16 B (R114). -/
def carryWord (r : Nat × Nat × Nat) : Nat := r.2.2 * 2 ^ 64 + r.2.1 * 2 ^ 32 + r.1

/-- q_m of step 7 (R116): one fused multiply-add for each term. -/
def sumSquares (xs : List Nat) : Elt :=
  xs.foldl (fun (a : Elt) x => let r := fma32 x x a.1; (r.1, a.2 ||| r.2)) (0, 0)

/-! ### Output conversion (R117) -/

/-- Converted row: element codes, scale bytes, flags. -/
def convertRow (fmt : Nat) (rm sat : Bool) (draws xs : List Nat) : List Nat × List Nat × Flags :=
  let ds := draws ++ List.replicate xs.length 0
  if isMX fmt then
    let gs := (List.range (ceilDiv' xs.length 32)).map (fun b =>
      mxConvert fmt rm ((ds.drop (32 * b)).take 32) (((xs.drop (32 * b)).take 32).map v32))
    (gs.flatMap (fun g => g.2.1), gs.map (·.1), orFlags (gs.map (fun g => g.2.2)))
  else
    let r := (xs.zip ds).map (fun p => convert fmt (rndOf rm p.2) sat (v32 p.1))
    (r.map (·.1), [], orFlags (r.map (·.2)))

/-- The draws of a row's conversions: for each column, ZOUT's first and the main output's next (R117). -/
def rowDraws (epoch : Nat) (z o : Bool) (ids : List Nat) (s : State) : (List Nat × List Nat) × State :=
  ids.foldl (fun (x : (List Nat × List Nat) × State) id =>
    let a := if z then draw x.2 epoch id else (0, x.2)
    let b := if o then draw a.2 epoch id else (0, a.2)
    ((x.1.1 ++ [a.1], x.1.2 ++ [b.1]), b.2)) (([], []), s)

/-- Whether the MX block scale of an element is NaN raises NFIN of conversion (R47, R53); both are in `convertRow`'s flags. The bytes of
an output row at its destination, with its scale row. -/
def rowWrites (c : Cmd) (eslot sslot fmt m : Nat) (o : List Nat × List Nat × Flags) : List (Nat × List Byte) :=
  let n := mmNCOL c.word
  (scr c.u (awRow (qword c.desc eslot) (rowBytes fmt n) m), packCodes fmt o.1) ::
    (if isMX fmt then [(scr c.u (awRow (qword c.desc sslot) (sclBytes n) m), o.2.1.map (BitVec.ofNat 8))] else [])

/-! ### The row check (R97) -/

/-- 2^k as an exact value, times a natural number. -/
def natPow (n : Nat) (k : Int) : Val := .fin false n k

/-- The verdict of the check on a row: 0 passes, 1 fails, 2 skipped. -/
def rowCheck (s : State) (c : Cmd) (e m : Nat) : Nat :=
  let w := c.word
  let ys := (List.range (mmNCOL w)).map (fun j => accGet s (workKey c e m (mmCol0 w + j)))
  let cv := accGet s (workKey c e m (mmCol0 w + mmWidth w - 1))
  if (cv :: ys).any (fun x => (v32 x).nonFinite) then 2
  else
    let sum := ys.foldl (fun a y => (add32 a y).1) 0
    let n := mmPasses w * mmSlice w / 32
    let tm := odGet s 0x9000 0x0B
    let es := ((List.range (mmWidth w)).map (fun j => markGet c (markKey e m (mmCol0 w + j)))).filter (· != noMark)
    let tot := es.foldl (fun a x => (Val.add a (natPow 1 (x + 1))).1) Val.zero
    let tol := (Val.mul (natPow (tm * (n + 192)) (-23)) tot).1
    let diff := (Val.add (v32 cv) (Val.neg (v32 sum))).1.abs
    if Val.lt tol diff then 1 else 0

end Sys2Proof.Machine
end

