-- ==== Sys2Proof/Machine/Matrix.lean ====
section
/-! DEFINITION. The matrix command's steps (R69, R104 to R107, R127): weight tile load, hawk tile write, pass, pass end, row form, copy,
commit, the write-back of a corrected word, and MMUL as their whole run. -/

namespace Sys2Proof.Machine

/-! ### Selection -/

/-- The first admitted matrix command of a queue that satisfies a condition. -/
def matCmd (s : State) (u q : Nat) (p : Cmd → Bool) : Option Cmd :=
  (qCmds s u q).find? (fun c => c.op == 0x20 && c.stage == .admitted && p c)

/-- Every pass has ended. -/
def passesDone (c : Cmd) : Bool := !c.run.inPass && c.run.passes == mmPasses c.word

def formDone (c : Cmd) : Bool := passesDone c && c.run.formed == mmRows c.word

/-! ### Faults (R127, R98, R143, R440) -/

/-- Where a range that was legal at issue has left memory since (R253). -/
def vacatedAt (s : State) (a n : Nat) : Option Nat := if inMemory s a n then none else some (max a (min (capacity s) (a + n - 1)))

/-- The bytes of a capture, as it is kept in the management data and in the field-pattern region: word, descriptor, operands, and the states
of its streams (R440, R441). -/
def Capture.bytes (k : Capture) : List Byte :=
  leBytes 32 k.word.toNat ++ leBytes 336 k.desc ++ k.operands ++ k.streams.flatMap (fun x => leBytes 8 x.1 ++ leBytes 8 x.2.toNat)

/-- A capture (R440) of at most 256 KiB enters the store of 64; a full store drops its oldest capture that has been re-run, and takes none
where there is no such capture (DEDUCED, log 25). -/
def addCapture (s : State) (k : Capture) : State :=
  let s1 := if 262144 < k.bytes.length then s else if s.captures.length < 64 then { s with captures := s.captures ++ [k] }
    else match s.captures.find? (fun x => x.runs != 0) with
      | some x => { s with captures := s.captures.erase x ++ [k] }
      | none => s
  odSet s1 0x7200 0x06 s1.captures.length

/-- The operands of a pass on one array: the weight tile's codes, scales and check weights, and the rows' codes, in format `f`, and scales
as they enter the array. -/
def passBytes (t : WTile) (f : Nat) (feeds : List Feed) : List Byte :=
  packCodes t.fmt t.codes ++ t.scales.map (BitVec.ofNat 8) ++ t.check.flatMap (leBytes 4) ++
    feeds.flatMap (fun x => packCodes f x.codes ++ x.scales.map (BitVec.ofNat 8))

/-- The streams of a command's columns as they stand: those of the add chain, and under RM = 1 those of the drain (R56). -/
def columnStreams (s : State) (c : Cmd) : List (Nat × BitVec 64) :=
  (mmArrays c.word).flatMap (fun e => (List.range (mmWidth c.word)).flatMap (fun j =>
    let a := mmArrayId c.u c.word e
    let l := addStream a (mmCol0 c.word + j) :: (if mmRM c.word then [drainStream a (mmCol0 c.word + j)] else [])
    l.map (fun i => (i, streamGet s c.epoch i))))

/-- Keep what a capture of the pass that starts would hold (R440). -/
def keepPass (s : State) (c : Cmd) (t : WTile) (feeds : List (Nat × List Feed)) : Cmd :=
  let f := if feedToBF16 s c.word then 1 else mmAFMT c.word
  { c with run := { (c.run) with operands := feeds.map (fun x => (x.1, passBytes t f x.2)), streams := columnStreams s c } }

/-- The operands of a command's kept pass on array position e: what a capture of it holds and its reports hash (R429, R440). -/
def keptOps (c : Cmd) (e : Nat) : Option (List Byte) := (c.run.operands.find? (fun o => o.1 == e)).map (·.2)

/-- Capture a failing matrix command that works on array position e: word, descriptor, and the operands of the kept pass on that array with
the states of its streams at the start of that pass (R440). Of a failed row, whose values all passes made, it is the last one (log 129). -/
def captureMat (s : State) (c : Cmd) (e : Nat) : State :=
  match keptOps c e with
  | some ops => addCapture s ⟨servedBy s c.u, mmArrayId c.u c.word e, c.word, c.desc, ops, c.run.streams, 0, 0, none, 0⟩
  | none => s

/-- Overwrite ranges with free bytes: contents the spec calls undefined (R108, R188). -/
def undefine (s : State) (l : List (Nat × Nat)) : State :=
  l.foldl (fun s r =>
    let s1 := memWrite s r.1 ((List.range r.2).map (fun i => Config.freeByte s.free (r.1 + i)))
    { s1 with free := s1.free + 1 }) s

/-- The drain destination of a matrix command: the rows of its outputs and of its pre-activations, with their scales (R108). -/
def drainRanges (c : Cmd) : List (Nat × Nat) :=
  let w := c.word
  let rows := fun (eslot sslot fmt : Nat) => (List.range (mmRows w)).flatMap (fun m =>
    (scr c.u (awRow (qword c.desc eslot) (rowBytes fmt (mmNCOL w)) m), rowBytes fmt (mmNCOL w)) ::
      (if isMX fmt then [(scr c.u (awRow (qword c.desc sslot) (sclBytes (mmNCOL w)) m), sclBytes (mmNCOL w))] else []))
  (if mmOUT w = 1 then rows 0x20 0x28 (mmOFMT w) else []) ++ (if mmZOUT w then rows 0x30 0x38 (mmZFMT w) else [])

/-- A fault before the copy leaves the contents of the drain destination undefined (R108). -/
def undefineDrain (s : State) (c : Cmd) : State := undefine s (drainRanges c)

/-- The report of a fault that a re-run may cure, as detected: code plus 0x0080, severity 2 (R427, R430). -/
def curedReport (s : State) (c : Cmd) (code unit detail : Nat) (ops : Option (List Byte)) : Report × State :=
  detectReport s { (cmdReport s c (code + 0x80) unit detail noPeer ops) with sev := 2 }

/-- Discard the working tile and run the command once more, at once (R127): flags of R64, fresh tiles, its screed tiles again. -/
def rerunMat (s : State) (c : Cmd) (code unit detail : Nat) (ops : Option (List Byte)) : State :=
  let r := curedReport s c code unit detail ops
  let s0 := undefineDrain r.2 c
  let s1 := dropTiles { s0 with hawks := s0.hawks.map (fun h =>
    if h.owner == some (c.u, c.q, c.serial) && h.held.isNone then { h with tiles := [] } else h) } c
  odBump (screedRewind (putCmd s1 { c with
    rerun := true, firstFault := some r.1, flags := 0, oldFlags := c.oldFlags ||| c.flags,
    run := c.run.again }) c) (0x3300 + c.u) 0x05 1

/-- A held set that the command consumes is still there (R142). -/
def heldThere (s : State) (c : Cmd) : Bool :=
  (heldHawks c.word).all (fun h => (getHawk s (c.u * 2 + h)).owner == some (c.u, c.q, c.serial))

/-- Complete with an error report against an array or the core (R127). -/
def failMat (s : State) (c : Cmd) (status code unit detail : Nat) (ops : Option (List Byte)) : State :=
  failCmd (odBump s (0x3300 + c.u) 0x06 1) c status code (cmdReport s c code unit detail noPeer ops)

/-- The same for a fault before the copy phase (R108). -/
def faultMat (s : State) (c : Cmd) (status code unit detail : Nat) (ops : Option (List Byte)) : State :=
  failMat (undefineDrain s c) c status code unit detail ops

/-- A fault with a re-run: the first one re-runs the command, the second completes it. A held set that was released at the last pass
cannot be read again, so its consumer completes at the first fault after it (DEDUCED, log 26). -/
def faultOrRerun (s : State) (c : Cmd) (code unit detail : Nat) (ops : Option (List Byte)) : State :=
  if c.rerun || !heldThere s c then faultMat s c stFAULT code unit detail ops else rerunMat s c code unit detail ops

/-- DETAIL of several values, 16 bits each from bit 0 (R430). -/
def pack3 (a b c : Nat) : Nat := a + b * 65536 + c * 2 ^ 32

/-- The resident tile's valid bits of an array are cleared (R127). -/
def clearResident (s : State) (c : Cmd) (e : Nat) : State :=
  invalidateTile s (mmArrayId c.u c.word e) (mmBANK c.word) (mmHALF c.word) (mmRBASE c.word) (mmRCNT c.word)

/-- The valid bits of the whole resident tile are cleared, on every array of the command: its arrays copy in step, so each resident tile
may be partly written (R108). -/
def clearResidents (s : State) (c : Cmd) : State := (mmArrays c.word).foldl (fun s e => clearResident s c e) s

/-- A re-run has cured its fault: the report of the fault is filed, as it was detected (R427, R430). -/
def reportCured (s : State) (c : Cmd) : State :=
  match c.firstFault with
  | some r => if c.rerun then fileKept s r else s
  | none => s

/-! ### Hawk tile write (R135 to R147) -/

/-- A later command of the queue on the arrays of c, which starts no pass while c is being run once more (R127). -/
def behindRerun (c e : Cmd) : Bool :=
  c.rerun && inPasses c && e.op == 0x20 && e.u == c.u && e.q == c.q && c.age < e.age && !sameCmd c e && sameArrays c.word e.word

/-- The command may write into hawk h: it has claimed it, or the hawk is unclaimed and holds no set (R140, R141). A command that is run
once more after its last pass claims the hawks that it released there again at its next HAWK_TILE_WRITE, also from a later command that
waits for the re-run, whose tiles are then discarded (DESIGN CHOICE, log 149). -/
def hawkOpen (s : State) (c : Cmd) (h : Nat) : Bool :=
  ownsHawk s c h || ((getHawk s (c.u * 2 + h)).held.isNone &&
    (match (getHawk s (c.u * 2 + h)).owner with
     | none => true
     | some o => s.cmds.any (fun e => o == (e.u, e.q, e.serial) && behindRerun c e)))

/-- The command, hawk tile number and readiness for HAWK_TILE_WRITE. -/
def hawkJob (s : State) (u q h : Nat) : Option (Cmd × Nat) :=
  match matCmd s u q (fun c => (nextHawkTile s c h).isSome) with
  | some c =>
    match nextHawkTile s c h with
    | some n => if hawkSourceReady s c n && hawkOpen s c h then some (c, n) else none
    | none => none
  | none => none

/-- The spans that hawk h reads from stack memory, where they have left it (R253). -/
def hawkVacated (s : State) (c : Cmd) : Option Nat :=
  ((mmSpans c.word c.desc).filter (fun p => p.stack)).findSome? (fun p => vacatedAt s p.addr (p.stop - p.addr))

def hawkTileWrite (s : State) (u q h : Nat) : State :=
  match hawkJob s u q h with
  | some (c, n) =>
    match hawkVacated s c with
    | some a => faultMat s c stFAULT 0x4001 (unitOf u) a none
    | none => hawkWrite (putHawk s { (getHawk s (u * 2 + h)) with owner := some (c.u, c.q, c.serial), tiles := ownTiles s c h }) c h n
  | none => s

/-- HAWK_TILE_WRITE (R135, R144). -/
def execHawkTileWrite (u q h : Nat) (s : State) : Host.Outcome State Fault Refusal :=
  .next (if h < 2 then hawkTileWrite s u q h else s)

/-! ### Weight tile load (R77, R79, R96, R145) -/

/-- The source of the next weight tile is there (R79, R242, rule 4): in the command's own hawk (R140), or landed. -/
def weightReady (s : State) (c : Cmd) : Bool :=
  let t := nextPass c
  if mmWSRC c.word then
    match claimedStream s c with
    | some x => c.run.claimAt + (t + 1) * screedPer c.word ≤ x.landed
    | none => false
  else
    match mmHwList c.word with
    | h :: _ => if mmHSRC c.word = 3 then t < (ownTiles s c h).length else ownTiles s c h != []
    | [] => true

/-- An earlier command of the queue is being run once more: no later one starts on its arrays (R127). A re-run that waits for a hawk
which it cannot claim yet holds nothing up: the later command may be the one that is to release it (DESIGN CHOICE, log 149). -/
def rerunAhead (s : State) (c : Cmd) : Bool :=
  s.cmds.any (fun e => behindRerun e c && (mmHaList e.word ++ mmHwList e.word).all (hawkOpen s e))

def loadable (s : State) (c : Cmd) : Bool :=
  nextPass c < mmPasses c.word && !hasShadow s c && weightReady s c && !rerunAhead s c

/-- Read and form the next weight tile, into the shadow registers. -/
def weightTileLoad (s : State) (c : Cmd) : State :=
  let w := c.word
  let t := nextPass c
  let k0 := t * mmSlice w
  let hawked := if weightToBF16 s w then 1 else mmWFMT w
  -- the tile, its format as it arrives, flags and changes of a held set's hawk, the state after reading
  let raw : RawTile × Nat × Flags × Nat × State := if mmWSRC w then
      (match claimedStream s c with
       | some x => (weightsFromScreed s c x t, mmWFMT w, 0, 0, s)
       | none => (⟨[], [], none⟩, mmWFMT w, 0, 0, s))
    else match mmHwList w with
      | h :: _ =>
        let k := getHawk s (c.u * 2 + h)
        if mmHSRC w = 3 then
          let b := hawkGive s w c.epoch true ((listGet ⟨mmWFMT w, 0, [], [], none⟩ k.tiles t).cutK w true t) (fun r _ => hawkLane c h true 0 r)
          (weightsFromHawk b.2 (mmNCOL w), hawked, b.1.fl, b.1.changed, b.1.st)
        else
          let x := listGet ⟨mmWFMT w, 0, [], [], none⟩ k.tiles 0
          (weightsFromHawk x (mmNCOL w), hawked, 0, 0, putHawk s { k with tiles := k.tiles.drop 1 })
      | [] => (weightsFromScratch s c k0 (min (mmSlice w) (mmKLEN w - k0)), mmWFMT w, 0, 0, s)
  let l := formTile raw.2.2.2.2 c t raw.2.1 raw.1
  let s1 := { l.st with wtiles := l.st.wtiles ++ [l.tile] }
  let ch := raw.2.2.2.1 + l.changed
  putCmd (if ch = 0 then s1 else odBump s1 (0x3200 + c.u) 0x0A ch) { c with flags := c.flags ||| raw.2.2.1 ||| l.fl }

/-- WEIGHT_TILE_LOAD (R77). -/
def execWeightTileLoad (u q : Nat) (s : State) : Host.Outcome State Fault Refusal :=
  .next (match matCmd s u q (loadable s) with
    | some c => weightTileLoad s c
    | none => s)

/-! ### Pass (R69, R75, R93) -/

def passReady (s : State) (c : Cmd) : Bool := inPasses c && !c.run.inPass && hasShadow s c && feedsReady s c && !rerunAhead s c

/-- Count a corrected accumulator word, which awaits its write-back (R99, 0x3300 + core id .08). -/
def noteCorrected (s : State) (c : Cmd) (e bank row col : Nat) : State :=
  odBump { s with accFix := insertNat s.accFix (accKey (mmArrayId c.u c.word e) bank row col) } (0x3300 + c.u) 0x08 1

/-- A step in which a word was corrected on its read notes it. -/
def noteEvent (s : State) (c : Cmd) (ev : MatEvent) : State :=
  match ev with
  | .corrected e bank row col => noteCorrected s c e bank row col
  | _ => s

/-- The working word of a row has an uncorrectable error (R99), until a write replaces it. -/
def markWorking (s : State) (c : Cmd) (e m col : Nat) : State := { s with accBad := insertNat s.accBad (workKey c e m col) }

/-- The command whose passes hold the other half of a split engine (R93). -/
def otherHalf (s : State) (c : Cmd) : Option Cmd :=
  s.cmds.find? (fun e => e.u == c.u && inPasses e && !sameCmd c e && mmEng e.word == mmEng c.word && mmHALF e.word != mmHALF c.word)

/-- The array position and row of a parity error that the step met on lane R, which only a split engine has (R92, R93): on an array that
the command or the other half's names. -/
def laneRError (s : State) (c : Cmd) (ev : MatEvent) : Option (Nat × Nat) :=
  match ev with
  | .parity e row =>
    if mmHALF c.word != 0 && (mmArrays c.word ++ (match otherHalf s c with | some o => mmArrays o.word | none => [])).contains e then some (e, row)
    else none
  | _ => none

/-- A parity error on lane R of array position e: both halves' commands are discarded and re-run, or completed at their second error
(R93), each captured where it works on the array (R440). The pass that it strikes consumes no stream draw and counts no gated slot: the spec is silent on what of that pass has run
(DESIGN CHOICE, log 130). -/
def parityError (s : State) (c : Cmd) (e row : Nat) : State :=
  let s0 := match otherHalf s c with
    | some o => captureMat (captureMat s c e) o e
    | none => captureMat s c e
  let s1 := odBump s0 (0x3200 + c.u) 0x07 1
  let one := fun (s : State) (x : Cmd) => faultOrRerun s x 0x1002 (arrayUnit (mmArrayId x.u x.word e)) row (keptOps x e)
  match otherHalf s1 c with
  | some o => one (one s1 c) o
  | none => one s1 c

/-- Swap the shadow tile in: the tile the pass applies. -/
def swapTiles (s : State) (c : Cmd) : State :=
  let mine : WTile → Bool := fun t => t.u == c.u && t.q == c.q && t.serial == c.serial
  { s with wtiles := (s.wtiles.filter (fun t => !(mine t && t.active))).map (fun t => if mine t then { t with active := true } else t) }

def activeTile (s : State) (c : Cmd) : Option WTile :=
  s.wtiles.find? (fun t => t.active && t.u == c.u && t.q == c.q && t.serial == c.serial)

/-- The numeric work of a pass over every array of the command. -/
def passWork (s : State) (c : Cmd) (t : WTile) (feeds : List (Nat × List Feed)) : State × Cmd :=
  let nf : Flags := if (List.range t.ncol).any (fun j => (tileColumn t (mmSlice c.word) j).any Val.nonFinite) then fNFIN else 0
  let r := feeds.foldl (fun (x : State × Cmd) f => passArray x.1 x.2 t f.1 f.2) (s, { c with flags := c.flags ||| nf })
  r

/-- Poison that a pass read: codes 0x3001 for the operands, 0x3002 for a hawk's source (R127, R143). -/
def passPoison (c : Cmd) (t : WTile) (feeds : List (Nat × List Feed)) : Option (Nat × Nat) :=
  let fp := minOpts ((feeds.flatMap (·.2)).map (·.poison))
  let wHawk := mmHwList c.word != []
  let plain := minOpt (if mmHA c.word = 0 then fp else none) (if wHawk then none else t.poison)
  let hawk := minOpt (if mmHA c.word = 0 then none else fp) (if wHawk then t.poison else none)
  match plain, hawk with
  | some a, _ => some (0x3001, a)
  | none, some a => some (0x3002, a)
  | none, none => none

/-- The producing command of a held set, completed since its commit, takes the error too (R143): its report is filed, and its record, if
it has not been written yet, shows FAULT with the code (DEDUCED, log 131). -/
def failProducer (s : State) (u q serial : Nat) (word : CmdWord) (code unit detail : Nat) : State :=
  let p := (findCmd s u q serial).getD { (Cmd.fresh u q serial word) with stage := .done }
  let s1 := match findCmd s u q serial with
    | some x =>
      let r := x.record - bits x.record 80 16 * 2 ^ 80 + code * 2 ^ 80 - recStatus x.record * 2 ^ 64 + stFAULT * 2 ^ 64
      if x.stage == .done then putCmd s { x with record := r } else s
    | none => s
  fileReport (odBump s1 (0x3300 + u) 0x06 1) (cmdReport s1 p code unit detail noPeer none)

/-- An uncorrectable hawk slot: a re-run, but for a held set, whose consumer and producer both complete with an error (R143). -/
def hawkSlotError (s : State) (c : Cmd) (h slot : Nat) : State :=
  match (getHawk s (c.u * 2 + h)).held with
  | some x =>
    faultMat (failProducer s c.u x.1 x.2 (getHawk s (c.u * 2 + h)).made 0x1011 (unitOf c.u) (pack3 h slot 0)) c stFAULT 0x1011 (unitOf c.u)
      (pack3 h slot 0) none
  | none => faultOrRerun s c 0x1010 (unitOf c.u) (pack3 h slot 0) none

/-- One pass and what was met in it. -/
def passStep (s : State) (c : Cmd) (ev : MatEvent) : State :=
  let s1 := swapTiles s c
  match activeTile s1 c with
  | none => s
  | some t =>
    let g := fedTiles s1 c
    let feeds := (mmArrays c.word).map (fun e => (e, (List.range (mmM c.word)).map (fun m => feedRow g.2 c g.1.tiles e m)))
    let c0 := if c.checked || mmHALF c.word != 0 then keepPass g.2 c t feeds else c
    match laneRError s c ev with
    | some x => parityError s1 c0 x.1 x.2
    | none =>
      let r := passWork g.2 { c0 with flags := c0.flags ||| g.1.fl } t feeds
      let c1 := { r.2 with run := { (r.2.run) with inPass := true } }
      let sf := consumeFeeds r.1 c
      let s2 := noteEvent (putCmd (if g.1.changed = 0 then sf else odBump sf (0x3200 + c.u) 0x0A g.1.changed) c1) c ev
      match passPoison c t feeds with
      | some p => faultMat s2 c1 stPOISON p.1 (unitOf c.u) p.2 none
      | none =>
        match ev with
        | .working e row col => faultOrRerun (markWorking s2 c e row col) c1 0x1003 (arrayUnit (mmArrayId c.u c.word e)) (pack3 (workBank c.word) (workRow c.word row) col) none
        | .hawkSlot h slot => if mmHawked c.word then hawkSlotError s2 c1 h slot else s2
        | .product e row col code => if e < 4 ∧ row < mmM c.word ∧ col < 128 then accPut s2 (workKey c e row col) code.toNat else s2
        | _ => s2

/-- PASS (R69). -/
def execPass (u q : Nat) (ev : MatEvent) (s : State) : Host.Outcome State Fault Refusal :=
  .next (match matCmd s u q (passReady s) with
    | some c => passStep s c ev
    | none => s)

/-! ### Pass end (R69, R123, R124, R140, R142) -/

/-- Hawks that feed the command are released when its last pass ends (R140, R142). -/
def releaseFeeds (s : State) (c : Cmd) : State :=
  let mine : Hawk → Bool := fun h =>
    h.owner == some (c.u, c.q, c.serial) && h.id / 2 == c.u && (mmHaList c.word ++ mmHwList c.word).contains (h.id % 2)
  { s with hawks := s.hawks.filter (fun h => !mine h) }

def passEnd (s : State) (c : Cmd) : State :=
  let c1 := { c with run := { (c.run) with passes := c.run.passes + 1, inPass := false } }
  let s1 := putCmd s c1
  if c1.run.passes = mmPasses c.word then releaseFeeds (putCmd s1 { c1 with preemptReq := false }) c1
  else if c.preemptReq then preempt s1 c1 else s1

/-! ### Row form (R104, R105, R109 to R118) -/

def formReady (s : State) (c : Cmd) : Bool := passesDone c && c.run.formed < mmRows c.word && !formHeld s c

/-- The first segment of the resident tile whose valid bit is clear, with its array position (R127). -/
def invalidSegment (s : State) (c : Cmd) : Option (Nat × Nat) :=
  (mmArrays c.word).findSome? (fun e =>
    ((List.range (mmRCNT c.word)).find? (fun i =>
      let m := tileMask (mmBANK c.word) (mmHALF c.word) (mmRBASE c.word + i) 1
      validGet s (mmArrayId c.u c.word e) &&& m != m)).map (fun i => (e, mmRBASE c.word + i)))

/-- v for every column of the row (R104): the working value, or its stochastic sum with the resident value under ACC = 1. -/
def formValues (s : State) (c : Cmd) (e m : Nat) : List Nat × Flags × State :=
  (List.range (mmWidth c.word)).foldl (fun (x : List Nat × Flags × State) j =>
    let col := mmCol0 c.word + j
    let wv := accGet s (workKey c e m col)
    if mmACC c.word then
      let d := draw x.2.2 c.epoch (addStream (mmArrayId c.u c.word e) col)
      let v := Val.add (v32 wv) (v32 (accGet s (resKey c e m col)))
      let r := fpStage fpFP32 (.stoch d.1) v.1
      (x.1 ++ [r.1], x.2.1 ||| matFlags (v.2 ||| r.2), d.2)
    else (x.1 ++ [wv], x.2.1, x.2.2)) ([], 0, s)

/-- A row into a hawk's tile of 128 rows (R141). -/
def rowIntoHawk (s : State) (c : Cmd) (m : Nat) (o : List Nat × List Nat × Flags) : State :=
  let k := getHawk s (c.u * 2 + mmOHAWK c.word)
  let t := m / 128
  let blank : HawkTile := ⟨mmOFMT c.word, 0, List.replicate 16384 0, if isMX (mmOFMT c.word) then List.replicate 512 127 else [], none⟩
  let tiles := if t < k.tiles.length then k.tiles else k.tiles ++ [blank]
  let old := listGet blank tiles t
  let r := m % 128
  let cs := old.codes.take (r * 128) ++ padTo 128 o.1 ++ old.codes.drop (r * 128 + 128)
  let sc := if isMX (mmOFMT c.word) then
      old.scales.take (r * 4) ++ (o.2.1 ++ List.replicate (4 - o.2.1.length) 127) ++ old.scales.drop (r * 4 + 4) else []
  putHawk s { k with tiles := listSet tiles t { old with codes := cs, scales := sc } }

/-- The drain recipe on the values of row m (R109): records, scalars, outputs. In a right half β_j too is taken from the half's first
column on, as the mask's j is (R110 does not say; DESIGN CHOICE, log 132). -/
def drainRow (s : State) (c : Cmd) (e ml m : Nat) (vs : List Nat) : State :=
  let w := c.word
  let d := c.desc
  let n := mmNCOL w
  let alpha := bits (qword d 0x80) 0 32
  let gamma := fp32At s (scr c.u (awAddr (qword d 0x58) + 4 * m))
  let dm := fp32At s (scr c.u (awAddr (qword d 0x60) + 4 * m))
  let beta := fun j => fp32At s (scr c.u (awAddr (qword d 0x50) + 4 * j))
  let us := streamedOf s c m
  let z := ((vs.take n).zipIdx).map (fun x =>
    let r := stepScale w alpha gamma (if mmBIAS w then beta x.2 else 0) x.1
    if mmMASK w && masked d m x.2 then (c32NInf, r.2) else r)
  let g := (z.zip us).map (fun x =>
    let a := actF (mmFN w) x.1.1
    let r := stepStream w a.1 x.2.1 dm
    (r.1, x.1.2 ||| a.2 ||| x.2.2 ||| r.2))
  let st := rowStats w (carryStart c m) (g.map (·.1))
  let q := if mmSSQ w then sumSquares st.2.1 else (0, 0)
  let ss0 := if ml = 0 then (if mmSSQC w then 0 else fp32At s (scr c.u (awAddr (qword d 0x70) + 4 * e)))
             else odLook c.run.ssq e |>.getD 0
  let ss := if mmSSQ w then add32 ss0 q.1 else (0, 0)
  let ids := (List.range n).map (fun j => drainStream (mmArrayId c.u w e) (mmCol0 w + j))
  let dr := if mmRM w then rowDraws c.epoch (mmZOUT w) (mmOUT w != 0) ids s else (([], []), s)
  let zo := if mmZOUT w then convertRow (mmZFMT w) (mmRM w) (mmSAT w) dr.1.1 (z.map (·.1)) else ([], [], 0)
  let oo := if mmOUT w ≠ 0 then convertRow (mmOFMT w) (mmRM w) (mmSAT w) dr.1.2 st.2.1 else ([], [], 0)
  let writes := (if mmZOUT w then rowWrites c 0x30 0x38 (mmZFMT w) m zo else [])
    ++ (if mmOUT w = 1 then rowWrites c 0x20 0x28 (mmOFMT w) m oo else [])
  let s1 := writes.foldl (fun s x => memWrite s x.1 x.2) dr.2
  let s2 := if mmOUT w = 2 then rowIntoHawk s1 c m oo else s1
  let fl := matFlags (orFlags (g.map (·.2)) ||| st.2.2 ||| q.2 ||| ss.2) ||| zo.2.2 ||| oo.2.2
  putCmd s2 { c with
    flags := c.flags ||| fl,
    run := { (c.run) with
      formed := m + 1,
      carry := if mmRST w ≠ 0 then odIns c.run.carry m (carryWord st.1) else c.run.carry,
      ssq := if mmSSQ w then odIns c.run.ssq e ss.1 else c.run.ssq } }

/-- Form row m: the read words, the row check, the sum with the resident row, the recipe. -/
def formRow (s : State) (c : Cmd) (e ml m : Nat) : State :=
  let v := formValues s c e ml
  let s1 := accPutAll v.2.2 (v.1.zipIdx.map (fun x => (workKey c e ml (mmCol0 c.word + x.2), x.1)))
  drainRow s1 { c with flags := c.flags ||| v.2.1 } e ml m v.1

/-- A word of the row that has an uncorrectable error. -/
def badWord (s : State) (c : Cmd) (key : Nat → Nat) : Option Nat :=
  if s.accBad = [] then none
  else ((List.range (mmWidth c.word)).map (fun j => mmCol0 c.word + j)).find? (fun col => s.accBad.contains (key col))

/-- One row of the form phase and what was met in it. Where row 0 reads poison and a resident segment's valid bit is clear as well, the
command ends POISON: the spec gives no order (DESIGN CHOICE, log 133). -/
def rowForm (s : State) (c : Cmd) (ev : MatEvent) : State :=
  let w := c.word
  let m := c.run.formed
  let e := listGet 0 (mmArrays w) (m / mmM w)
  let ml := m % mmM w
  let unit := arrayUnit (mmArrayId c.u w e)
  let s0 := noteEvent s c ev
  let c0 := readCarry s c
  match formPoison s c m with
  | some a => faultMat s c stPOISON 0x3001 (unitOf c.u) a none
  | none =>
    match (if mmACC w && m == 0 then invalidSegment s c else none) with
    | some x => faultMat s c stFAULT 0x1005 (arrayUnit (mmArrayId c.u w x.1)) (pack3 (mmBANK w) x.2 0) none
    | none =>
      let resBad := if mmACC w then
          (match ev with | .resident _ _ col => some col | _ => badWord s c (fun col => resKey c e ml col)) else none
      let workBad := match ev with | .working _ _ col => some col | _ => badWord s c (fun col => workKey c e ml col)
      match resBad, workBad with
      | some col, _ =>
        let s1 := { s0 with accBad := insertNat s0.accBad (resKey c e ml col) }
        faultMat (clearResident s1 c e) c stFAULT 0x1004 unit (pack3 (mmBANK w) (resRow w ml) col) none
      | none, some col => faultOrRerun (markWorking s0 c e ml col) c 0x1003 unit (pack3 (workBank w) (workRow w ml) col) none
      | none, none =>
        match (if c.checked then rowCheck s c e ml else 0) with
        | 1 =>
          let s1 := captureMat (snagSet (odBump s0 (0x3200 + c.u) 0x05 1) 129) c e
          faultOrRerun s1 c 0x1001 unit ml (keptOps c e)
        | 2 => formRow (odBump s0 (0x3200 + c.u) 0x06 1) c0 e ml m
        | _ => formRow s0 c0 e ml m

/-- ROW_FORM (R104). -/
def execRowForm (u q : Nat) (ev : MatEvent) (s : State) : Host.Outcome State Fault Refusal :=
  .next (match matCmd s u q (formReady s) with
    | some c => rowForm s c ev
    | none => s)

/-! ### Copy and commit (R106, R107) -/

def copyReady (c : Cmd) : Bool := formDone c && mmKEEP c.word && !c.run.copied

/-- Copy rows below `lim` of the working tile of every array into the resident tile. -/
def copyRows (s : State) (c : Cmd) (lim : Nat) : State :=
  (mmArrays c.word).foldl (fun s e => (List.range lim).foldl (fun s m =>
    accPutAll s ((List.range (mmWidth c.word)).map (fun j =>
      (resKey c e m (mmCol0 c.word + j), accGet s (workKey c e m (mmCol0 c.word + j)))))) s) s

/-- The first working word with an uncorrectable error: array position, row, column. -/
def copyBad (s : State) (c : Cmd) : Option (Nat × Nat × Nat) :=
  if s.accBad = [] then none
  else (mmArrays c.word).findSome? (fun e => (List.range (mmM c.word)).findSome? (fun m =>
    (badWord s c (fun col => workKey c e m col)).map (fun col => (e, m, col))))

def copyPhase (s : State) (c : Cmd) (ev : MatEvent) : State :=
  match (match ev with | .working e row col => some (e, row, col) | _ => copyBad s c) with
  | some x =>
    failMat (clearResidents (copyRows (markWorking s c x.1 x.2.1 x.2.2) c (min x.2.1 (mmM c.word))) c) c stFAULT 0x1006 (arrayUnit (mmArrayId c.u c.word x.1))
      (pack3 (workBank c.word) (workRow c.word x.2.1) x.2.2) none
  | none => putCmd (noteEvent (copyRows s c (mmM c.word)) c ev) { c with run := { (c.run) with copied := true } }

/-- COPY_PHASE (R106). -/
def execCopyPhase (u q : Nat) (ev : MatEvent) (s : State) : Host.Outcome State Fault Refusal :=
  .next (match matCmd s u q copyReady with
    | some c => copyPhase s c ev
    | none => s)

def commitReady (c : Cmd) : Bool := formDone c && (!mmKEEP c.word || c.run.copied)

/-- Set the valid bits of the resident tile (R102, R107). -/
def setValid (s : State) (c : Cmd) : State :=
  (mmArrays c.word).foldl (fun s e =>
    let a := mmArrayId c.u c.word e
    validPut s a (validGet s a ||| tileMask (mmBANK c.word) (mmHALF c.word) (mmRBASE c.word) (mmRCNT c.word))) s

/-- The commit point (R107, R118): valid bits, carry records, SSQ scalars, a held tile set, completion. -/
def commitStep (s : State) (c : Cmd) : State :=
  let w := c.word
  let s1 := if mmKEEP w then setValid s c else s
  let s2 := c.run.carry.foldl (fun s r => memPut s (scr c.u (awAddr (qword c.desc 0x68) + 16 * r.1)) 16 r.2) s1
  let s3 := c.run.ssq.foldl (fun s r => memPut s (scr c.u (awAddr (qword c.desc 0x70) + 4 * r.1)) 4 r.2) s2
  let s4 := if mmOUT w = 2 then
      putHawk s3 { (getHawk s3 (c.u * 2 + mmOHAWK w)) with owner := none, held := some (c.q, c.serial), made := w } else s3
  reportCured (finishCmd (odBump s4 (0x3300 + c.u) 0x02 1) c stOK) c

/-- COMMIT (R107). -/
def execCommit (u q : Nat) (s : State) : Host.Outcome State Fault Refusal :=
  .next (match matCmd s u q commitReady with
    | some c => commitStep s c
    | none => s)

/-- CORRECTED_WORD_WRITE_BACK (R99): the corrected word is written back; its value is what a read already gives. -/
def execCorrectedWordWriteBack (array bank row col : Nat) (s : State) : Host.Outcome State Fault Refusal :=
  .next { s with accFix := s.accFix.filter (· != accKey array bank row col) }

/-! ### MMUL (R233, R234) -/

/-- One step of a matrix command's own run with nothing met on the way, if one is enabled. -/
def mmulStep (s : State) (u q : Nat) : Option State :=
  match matCmd s u q (loadable s), matCmd s u q (passReady s), matCmd s u q (fun c => c.run.inPass),
        matCmd s u q (formReady s), matCmd s u q copyReady, matCmd s u q commitReady with
  | _, _, _, _, _, some c => some (commitStep s c)
  | _, _, _, _, some c, _ => some (copyPhase s c .clean)
  | _, _, _, some c, _, _ => some (rowForm s c .clean)
  | _, _, some c, _, _, _ => some (passEnd s c)
  | _, some c, _, _, _, _ => some (passStep s c .clean)
  | some c, _, _, _, _, _ => some (weightTileLoad s c)
  | _, _, _, _, _, _ =>
    if (hawkJob s u q 0).isSome then some (hawkTileWrite s u q 0)
    else if (hawkJob s u q 1).isSome then some (hawkTileWrite s u q 1) else none

/-- Steps until a command of the queue has completed or none is enabled. -/
def mmulRun : Nat → State → Nat → Nat → State
  | 0, s, _, _ => s
  | n + 1, s, u, q =>
    match mmulStep s u q with
    | some t => if (s.cmds.filter (fun c => c.op == 0x20 && c.stage == .admitted)).length ≤
        (t.cmds.filter (fun c => c.op == 0x20 && c.stage == .admitted)).length then mmulRun n t u q else t
    | none => s

/-- Steps that one command can take at most: loads, hawk tiles, passes with their ends, rows, copy and commit, twice. -/
def mmulFuel (c : Cmd) : Nat :=
  2 * (mmPasses c.word * (3 + mmTilesPerPass c.word 0 + mmTilesPerPass c.word 1) + mmRows c.word + 4)

/-- MMUL (R233): the admitted command's passes, form phase, copy phase and commit, as far as its sources allow. -/
def execMmul (u q : Nat) (s : State) : Host.Outcome State Fault Refusal :=
  .next (match matCmd s u q (fun _ => true) with
    | some c => mmulRun (mmulFuel c) s u q
    | none => s)

end Sys2Proof.Machine
end

