-- ==== Sys2Proof/Machine/Faults.lean ====
section
/-! DEFINITION. Making good (R433 to R436) and in-field testing (R437 to R443). Queues, scratch windows, accumulators and array names
follow the position (R197, R251): the state of a position is keyed by it, whichever core serves it. -/

namespace Sys2Proof.Machine

/-! ### Cores and positions -/

/-- The position a core serves, 0xFF for none (R37). -/
def corePos (s : State) (core : Nat) : Nat := odGet s (0x3000 + core) 0x02

/-- Change the state of a core: a KIND 3 record with the code and severity of the report whose event caused it, or 0 and 0 (R528). -/
def setCore (s : State) (core v code : Nat) : State :=
  stateChange s (unitOf core) (0x3000 + core) 0x01 v code (if code = 0 then 0 else severityOf code)

/-- Position `pos` is served by `core` from now on. -/
def serve (s : State) (pos core : Nat) : State := odSet (odSet s (0x3000 + pos) 0x03 core) (0x3000 + core) 0x02 pos

/-- The position record in flash: it changes only through making good (R435, R512). -/
def recordPos (s : State) (pos : Nat) : State := { s with flashPos := Store.put pos s.flashPos pos (servedBy s pos) }

/-- The core no longer serves a position. -/
def unserve (s : State) (core : Nat) : State := odSet s (0x3000 + core) 0x02 0xFF

/-- n and the spares left, of all cores (0x7200.0B, .0C). -/
def coresIn (s : State) (d st : Nat) : Nat := ((List.range 26).filter (fun c => coreState s (32 * d + c) == st)).length
def activeCount (s : State) : Nat := ((List.range 128).filter (fun p => isCore p && servedBy s p != 0xFF)).length
def countCores (s : State) : State :=
  odSet (odSet s 0x7200 0x0B (activeCount s)) 0x7200 0x0C
    (coresIn s 0 2 + coresIn s 1 2 * 2 ^ 8 + coresIn s 2 2 * 2 ^ 16 + coresIn s 3 2 * 2 ^ 24)

/-- The lowest-numbered SPARE core of a die that stands in for none (R433). -/
def freeSpareCore (s : State) (d : Nat) : Option Nat :=
  ((List.range 26).map (32 * d + ·)).find? (fun k => coreState s k == 2 && corePos s k == 0xFF)

/-- What a position holds starts cleared: scratch, accumulators, valid bits, weight registers, hawks, screed streams (R36, R102). -/
def clearPosition (s : State) (k : Nat) : State :=
  let word := fun (i : Nat) => k * 8 ≤ i / 262144 && i / 262144 < k * 8 + 8
  let s1 := clearScratch s k
  { s1 with acc := s1.acc.filter (fun p => !word p.1), accBad := s1.accBad.filter (fun i => !word i),
            accFix := s1.accFix.filter (fun i => !word i), valid := s1.valid.filter (fun p => p.1 < k * 8 || k * 8 + 8 ≤ p.1),
            wtiles := s1.wtiles.filter (fun w => w.core != k), hawks := s1.hawks.filter (fun h => h.id / 2 != k),
            screeds := s1.screeds.filter (fun x => x.core != k) }

/-- The enabled contexts that own a queue or region on a unit (R210). -/
def ctxsOn (s : State) (u : Nat) : List Nat :=
  (List.range 16).filter (fun c => ctxEnabled s c && (unitRecs s).any (fun r => urCtx r == c && urUnit r == u &&
    (urQmask r != 0 || (urHalf r 0 != 0 && urCnt r 0 != 0) || (urHalf r 1 != 0 && urCnt r 1 != 0))))

/-- Stop every context on a unit, and end whatever its commands left running there (R210, R435 step 2). -/
def stopUnit (s : State) (u code : Nat) : State :=
  let s1 := (ctxsOn s u).foldl (fun s c => stopContext s c code none) s
  (s1.cmds.filter (fun c => c.u == u && c.running)).foldl (fun s c => abortCmd s c 0x6002) s1

/-- The queues of a position that nothing serves become DISABLED (R435, step 4). -/
def disableQueues (s : State) (u : Nat) : State :=
  (List.range (queuesOf u)).foldl (fun s q => qSet (discardHeld s u q) u q 6 0) s

/-! ### The fence (R434, R435) -/

/-- Step 5, and the snags of a fence: bit 16 + d, and 20 + d when no spare was left (R432). The core's island stays on until its fault record
is complete (R36). -/
def fenceEnd (s : State) (core : Nat) (lost : Bool) : State :=
  let s1 := snagSet (countCores s) (16 + dieOf core)
  let s2 := if lost then snagSet s1 (20 + dieOf core) else s1
  msixAllContexts { s2 with flashFenced := insertNat s2.flashFenced core, fenceErrs := s2.fenceErrs.filter (fun e => e.1 != core),
                            unrecorded := insertNat s2.unrecorded core, fencesIn := core :: s2.fencesIn }

/-- A fence of a core that serves a position: its contexts stop; a spare takes the position, or nothing does (R435, steps 1 to 4). -/
def fenceServing (s : State) (core cause : Nat) (spare : Option Nat) : State :=
  let pos := corePos s core
  match spare with
  | some x =>
    let s1 := clearPosition (stopUnit (setCore s core 3 0x8001) pos 0x8001) pos
    let s2 := recordPos (setCore (serve (unserve s1 core) pos x) x 1 0x8001) pos
    fenceEnd (fileCode s2 0x8001 (unitOf core) (cause + x * 65536)) core false
  | none =>
    let s1 := clearPosition (stopUnit (setCore s core 3 0x8002) pos 0x8002) pos
    let s2 := unserve (odSet s1 (0x3000 + pos) 0x03 0xFF) core
    let s3 := countCores (disableQueues (recordPos s2 pos) pos)
    fenceEnd (fileCode s3 0x8002 (unitOf core) (cause + activeCount s3 * 65536)) core true

/-- The test ends: no unit is under test. -/
def endTest (s : State) : State := odSet { s with testing := none, scanned := false } 0x7200 0x02 0xFFFFFFFF

/-- The core under test takes its position back from the stand-in; nothing in the position's state changes (R439, R455). -/
def swapBack (s : State) (core standin : Nat) : State :=
  countCores (setCore (serve (unserve s standin) (corePos s standin) core) core 1 0)

/-- Fence a core (R435): in TESTING the stand-in keeps the position and becomes ACTIVE (R439); a stand-in that fails returns the
position to the core under test first (R455); a core that serves no position stops no context. -/
def fenceNow (s : State) (core cause : Nat) : State :=
  match s.testing with
  | some (t, some x) =>
    if core = t then
      let s1 := recordPos (setCore (setCore (endTest s) t 3 0x8001) x 1 0x8001) (corePos s x)
      fenceEnd (fileCode s1 0x8001 (unitOf t) (cause + x * 65536)) t false
    else if core = x then
      let pos := corePos s x
      let s1 := stopUnit (setCore (swapBack (endTest s) t x) x 3 0x8001) pos 0x8001
      fenceEnd (fileCode (clearPosition s1 pos) 0x8001 (unitOf x) (cause + t * 65536)) x false
    else if corePos s core = 0xFF then fenceEnd (setCore s core 3 0) core false
    else fenceServing s core cause (freeSpareCore s (dieOf core))
  | some (t, none) =>
    if core = t then fenceEnd (setCore (endTest s) t 3 0) t false
    else if corePos s core = 0xFF then fenceEnd (setCore s core 3 0) core false
    else fenceServing s core cause (freeSpareCore s (dieOf core))
  | none =>
    if corePos s core = 0xFF then fenceEnd (setCore s core 3 0) core false
    else fenceServing s core cause (freeSpareCore s (dieOf core))

/-- A core that can be fenced: one that names a core and is neither FENCED nor UNUSED (R455). -/
def fenceable (s : State) (core : Nat) : Bool := isCore core && core < 128 && coreState s core != 3 && coreState s core != 0

/-- 24 hours in AON ticks. -/
def day : Nat := 8640000000000

/-- Cause 3: as many errors as the fence threshold within 24 h (R434). -/
def thresholdMet (s : State) (core : Nat) : Bool :=
  odGet s 0x7200 0x0E ≤ (s.fenceErrs.filter (fun e => e.1 == core && s.uptime < e.2 + day)).length

/-- A core of the die with a greater id has been fenced in this policy period: fences of one die in one period are handled in ascending
core id, so this one waits for the next period (R455; DESIGN CHOICE, log 160). -/
def fenceWaits (s : State) (core : Nat) : Bool := s.fencesIn.any (fun k => dieOf k == dieOf core && core < k)

/-- FENCE (R434, R435). -/
def execFence (core cause : Nat) (s : State) : Host.Outcome State Fault Refusal :=
  .next (if fenceable s core && 1 ≤ cause && cause ≤ 5 && (cause != 3 || thresholdMet s core) && !fenceWaits s core then
      fenceNow s core cause
    else s)

/-! ### In-field testing (R437 to R442) -/

/-- The matrix commands of a position are pre-empted at their pass boundaries (R439, step 1). -/
def preemptAll (s : State) (pos : Nat) : State :=
  (s.cmds.filter (fun c => c.u == pos && inPasses c && !c.preemptReq)).foldl (fun s c =>
    if c.run.inPass then putCmd s { c with preemptReq := true } else preempt s c) s

/-- A core with a held capture is tested next (R437). -/
def hasCapture (s : State) (core : Nat) : Bool := s.captures.any (fun k => k.sweepUnit.isNone && k.core == core)

def testable (s : State) (core : Nat) : Bool := isCore core && core < 128 && (coreState s core == 1 || coreState s core == 2)

/-- The next core in turn. -/
def inTurn (s : State) : Option Nat := ((List.range 128).map (fun i => (s.testNext + i) % 128)).find? (testable s)

/-- The core can be tested now: a SPARE in place, an ACTIVE one where a spare of its die can stand in (R438). -/
def canTest (s : State) (core : Nat) : Bool :=
  testable s core && (coreState s core == 2 || (freeSpareCore s (dieOf core)).isSome)

/-- An hour in AON ticks, and the test interval (0x7200.01, R437). -/
def hour : Nat := 360000000000
def testInterval (s : State) : Nat := odGet s 0x7200 0x01 * hour

/-- Uptime at which a core or sweep unit (128 to 135) was last tested; 0 before its first test. -/
def testedLast (s : State) (u : Nat) : Nat := Store.get 0 s.tested u

/-- A test interval has passed since the unit was last tested, and since its test was last skipped; a unit neither tested nor skipped yet is
due at once (R437, R438, R443). -/
def testDue (s : State) (u : Nat) : Bool :=
  (testedLast s u == 0 || testedLast s u + testInterval s ≤ s.uptime) && (Store.get 0 s.skipped u == 0 || Store.get 0 s.skipped u + testInterval s ≤ s.uptime)

/-- The package starts one test every interval / (ACTIVE + SPARE cores), counted from its start (R437). -/
def cadenceOk (s : State) : Bool :=
  s.testAt + testInterval s / max 1 ((List.range 128).filter (testable s)).length ≤ s.uptime

/-- A core with a held capture comes next, before its turn; the capture advance time bounds from above when its row is sent. Any other core
comes in its turn, when a test is due, and only where no core with a capture can be tested (R437; DEDUCED, log 74). -/
def nextTest (s : State) (core : Nat) : Bool :=
  testable s core && ((hasCapture s core && canTest s core) ||
    (!(List.range 128).any (fun k => hasCapture s k && canTest s k) && inTurn s == some core && cadenceOk s && testDue s core))

/-- The turn has come to a core: the next turn is the following core's, unless it came before its turn for a capture. -/
def takeTurn (s : State) (core : Nat) : State :=
  if inTurn s = some core then { s with testNext := (core + 1) % 128, testAt := s.uptime } else s

/-- A test that is skipped because the unit has no stand-in: code 0x8004 with the hours it is overdue, those since an interval after the last
test (R438, R443; DEDUCED, log 75). -/
def overdue (s : State) (u : Nat) : State :=
  snagSet (fileCode { s with skipped := Store.put 0 s.skipped u s.uptime } 0x8004 (unitOf u) ((s.uptime - (testedLast s u + testInterval s)) / hour)) 137

/-- TEST_START (R437 to R439): a SPARE core is tested in place; an ACTIVE one is swapped with a spare of its die, or skipped. The CORE
islands run on VBULK (R35). -/
def execTestStart (core : Nat) (s : State) : Host.Outcome State Fault Refusal :=
  .next (if bulkOn s && s.testing.isNone && s.sweepTest.isNone && nextTest s core then
      let s0 := takeTurn s core
      let begin' : State → Option Nat → State := fun s x =>
        odSet (countCores (setCore { s with testing := some (core, x), scanned := false, tested := Store.put 0 s.tested core s.uptime } core 4 0))
          0x7200 0x02 (unitOf core)
      if coreState s core = 2 then begin' s0 none
      else
        match freeSpareCore s (dieOf core) with
        | none => overdue s0 core
        | some x =>
          let pos := corePos s core
          begin' (serve (unserve (preemptAll s0 pos) core) pos x) (some x)
    else s)

/-- A capture confirmed against a core or sweep unit joins the field patterns; in a full region it takes the place that the step
names (R441, R442). Code 0x8003 names its number. -/
def addPattern (s : State) (pattern : List Byte) (place unit : Nat) : State :=
  let n := if s.patterns.length < 128 then s.patterns.length else place % 128
  let s1 := { s with patterns := if s.patterns.length < 128 then s.patterns ++ [pattern] else listSet s.patterns n pattern }
  snagSet (fileCode (odSet s1 0x7200 0x0D s1.patterns.length) 0x8003 unit n) 132

/-- A capture that was not confirmed in this window; dropped and counted after three (R441). -/
def ageCapture (s : State) (k : Capture) : State :=
  let k' := { k with runs := k.runs + 17, windows := k.windows + 1 }
  if k'.windows = 3 then
    let s1 := { s with captures := s.captures.erase k }
    odBump (odSet s1 0x7200 0x06 s1.captures.length) 0x7200 0x08 1
  else { s with captures := mapFirst (· == k) (fun _ => k') s.captures }

/-- Remove a confirmed capture and count it. -/
def confirmCapture (s : State) (k : Capture) : State :=
  let s1 := { s with captures := s.captures.erase k }
  odBump (odSet s1 0x7200 0x06 s1.captures.length) 0x7200 0x07 1

/-- SCAN_TEST (R440, R441): the patterns, then each capture held against the core. -/
def execScanTest (r : ScanResult) (s : State) : Host.Outcome State Fault Refusal :=
  .next (match s.testing with
    | some (core, _) =>
      if s.scanned then s
      else
        let s1 := odBump s 0x7200 0x04 1
        if !r.patternsPass then fenceNow (snagSet (odBump s1 0x7200 0x05 1) 133) core 1
        else
          let mine := (s1.captures.filter (fun k => k.sweepUnit.isNone && k.core == core)).zip (r.captureDiffers ++ List.replicate 64 false)
          let s2 := (mine.filter (fun p => !p.2)).foldl (fun s p => ageCapture s p.1) s1
          let bad := mine.filter (·.2)
          if bad == [] then { s2 with scanned := true }
          else
            let s3 := fenceNow (odBump s2 0x7200 0x05 1) core 2
            bad.foldl (fun s p => addPattern (confirmCapture s p.1) p.1.bytes r.newPattern (unitId 2 (dieOf core) core (p.1.array % 8))) s3
    | none => s)

/-- TEST_RETURN (R439, step 4): the position carries on at the core; a SPARE core is SPARE again. -/
def execTestReturn (s : State) : Host.Outcome State Fault Refusal :=
  .next (match s.testing with
    | some (core, some x) =>
      if s.scanned then
        let pos := corePos s x
        swapBack (endTest (preemptAll s pos)) core x
      else s
    | some (core, none) => if s.scanned then countCores (setCore (endTest s) core 2 0) else s
    | none => s)

/-- SWEEP_UNIT_SCAN (R443): it starts where the other unit of the die is in service, and ends with its result. A unit whose scan fails
is taken out of service; a confirmed capture files code 0x2003 against it, with the element that differed (R430, R441). -/
def execSweepUnitScan (unit : Nat) (done : Bool) (r : ScanResult) (s : State) : Host.Outcome State Fault Refusal :=
  .next (if !isSweep unit || !bulkOn s then s
    else if !done then
      if s.testing.isNone && s.sweepTest.isNone && !s.sweepOut.contains unit && testDue s unit then
        if s.sweepOut.contains (sibling unit) then overdue s unit
        else odSet { s with sweepTest := some unit, tested := Store.put 0 s.tested unit s.uptime } 0x7200 0x02 (unitOf unit)
      else s
    else if s.sweepTest = some unit then
      let s1 := odBump (odSet { s with sweepTest := none } 0x7200 0x02 0xFFFFFFFF) 0x7200 0x04 1
      if !r.patternsPass then odBump { s1 with sweepOut := insertNat s1.sweepOut unit } 0x7200 0x05 1
      else
        let mine := (s1.captures.filter (fun k => k.sweepUnit == some unit)).zip (r.captureDiffers ++ List.replicate 64 false)
        let s2 := (mine.filter (fun p => !p.2)).foldl (fun s p => ageCapture s p.1) s1
        let bad := mine.filter (·.2)
        let s3 := if bad == [] then s2 else odBump s2 0x7200 0x05 1
        bad.foldl (fun s p =>
          addPattern (confirmCapture (fileCode s 0x2003 (unitOf unit) p.1.element) p.1) p.1.bytes r.newPattern (unitOf unit)) s3
    else s)

/-! ### The entries of R443 -/

/-- An unfence request: a FENCED core is scanned at the next start (R436). -/
def unfence (s : State) (core : Nat) : State := { s with rescan := insertNat s.rescan core }

/-- An installed field pattern (R442). -/
def installPattern (s : State) (pattern : List Byte) (sel : Nat) : State :=
  let s1 := { s with patterns := if s.patterns.length < 128 then s.patterns ++ [pattern] else listSet s.patterns (sel % 128) pattern }
  snagSet (odSet s1 0x7200 0x0D s1.patterns.length) 132

end Sys2Proof.Machine
end

