-- ==== Sys2Proof/Machine/DieLinks.lean ====
section
/-! DEFINITION. The die links (R273 to R285): flit errors and replay, lane repair, width degrade, modules and dies out of service, and
the assignment of roles at a start. -/

namespace Sys2Proof.Machine

/-! ### Modules -/

/-- Key of module m of die d. -/
def modKey (d m : Nat) : Nat := 64 * d + m

def modUnit (d m lane : Nat) : Nat := unitId 5 d m lane

/-- Role byte of a module: role in [7:6], width in [5:4] (0 full, 1 lower half, 2 upper half, 3 down), spares in [2:0] (R285). -/
def roleByte (s : State) (d m : Nat) : Nat := odGet s (0x3900 + modKey d m) 0x01
def rbRole (b : Nat) : Nat := bits b 6 2
def rbWidth (b : Nat) : Nat := bits b 4 2
def mkRole (role width spares : Nat) : Nat := role * 64 + width * 16 + spares

/-- Width in half-modules. -/
def halves (b : Nat) : Nat := if rbWidth b = 0 then 2 else if rbWidth b = 3 then 0 else 1

def modules : List Nat := List.range 64

/-- Half-modules of width in service with a role (0x3800 + d .03, .04). -/
def roleWidth (s : State) (d role : Nat) : Nat :=
  (modules.filter (fun m => rbRole (roleByte s d m) == role)).foldl (fun n m => n + halves (roleByte s d m)) 0

/-- Put a module's role byte into its entry and the role table, and count the widths; a change is a KIND 3 record (R528). -/
def setRole (s : State) (d m b code : Nat) : State :=
  let s1 := stateChange s (modUnit d m 0xFFF) (0x3900 + modKey d m) 0x01 b code (if code = 0 then 0 else severityOf code)
  let s2 := odSet s1 (0x3800 + d) 0x01 (withField (odGet s1 (0x3800 + d) 0x01) (8 * m) 8 b)
  odSet (odSet s2 (0x3800 + d) 0x03 (roleWidth s2 d 0)) (0x3800 + d) 0x04 (roleWidth s2 d 1)

/-! ### What the modules carry (R275, R278, R279, R283) -/

/-- The sub-channels of the PRIV role (R275). -/
inductive SubChannel where
  | mctl
  | coh
  | int
  | dbg
  deriving DecidableEq, Repr

/-- The role whose modules carry a hub traffic class of a die (R270, R275); classes 5 and 6 stay within the lath. -/
def classRole (cls : Nat) : Option Nat :=
  match cls with
  | 0 => some 2
  | 1 | 3 => some 1
  | 2 | 4 => some 0
  | _ => none

/-- The modules of a role that are in service, ascending. -/
def inService (s : State) (d role : Nat) : List Nat :=
  modules.filter (fun m => rbRole (roleByte s d m) == role && rbWidth (roleByte s d m) != 3)

/-- The lowest-numbered full-width MEM module (R279). -/
def fullMem (s : State) (d : Nat) : Option Nat := (inService s d 0).find? (fun m => rbWidth (roleByte s d m) == 0)

/-- Those of the modules that are not in retraining, for one that retrains carries no traffic (R280); all of them, whose traffic then waits, where
every one retrains. -/
def notRetraining (s : State) (d : Nat) (l : List Nat) : List Nat :=
  match l.filter (fun m => !s.retraining.contains (modKey d m)) with
  | [] => l
  | r => r

/-- The modules that carry a role's traffic: its own, or where none of them is in service those of another role (R279). The hub spreads around a
module that retrains, and a PRIV sub-channel leaves it meanwhile for the role's other module (R280; DESIGN CHOICE, log 146). -/
def carriers (s : State) (d role : Nat) : List Nat :=
  notRetraining s d (match inService s d role, role with
    | [], 0 => inService s d 1
    | [], 1 => inService s d 0
    | [], 2 => (fullMem s d).toList
    | l, _ => l)

/-- The module that a PRIV sub-channel of die d uses: INT and MCTL the lower-numbered carrier, COH and DBG the higher; one carrier takes all
four (R275, R279, R283). -/
def subModule (s : State) (d : Nat) (ch : SubChannel) : Option Nat :=
  match ch with
  | .int | .mctl => (carriers s d 2).head?
  | .coh | .dbg => (carriers s d 2).getLast?

/-- The flits that module m had in flight are replayed on module `on` (R274, R283). Each replay is counted with the module whose flits they
are and in its die. The flits themselves are not held: a transfer over a die link is whole within one step (log 146). -/
def replay (s : State) (d m on : Nat) : State :=
  emit (odBump (odBump s (0x3900 + modKey d m) 0x04 1) (0x3800 + d) 0x05 1) (.replay d on)

/-! ### Lane repair (R280) -/

/-- Spare lanes not yet used, data lanes served by a spare as (lane, spare), and failed data lanes without a spare. -/
structure Lanes where
  free : List Nat
  used : List (Nat × Nat)
  bad : List Nat

/-- One more failed lane: a data lane takes the next spare; a spare that fails gives its lane the next one. -/
def Lanes.fail (x : Lanes) (l : Nat) : Lanes :=
  if l < 64 then
    match x.free with
    | f :: r => { x with free := r, used := (l, f) :: x.used }
    | [] => { x with bad := l :: x.bad }
  else if x.free.contains l then { x with free := x.free.filter (· != l) }
  else
    match x.used.find? (fun p => p.2 == l) with
    | some p =>
      match x.free with
      | f :: r => { free := r, used := (p.1, f) :: x.used.erase p, bad := x.bad }
      | [] => { x with used := x.used.erase p, bad := p.1 :: x.bad }
    | none => x

/-- The lanes of a module after its recorded failures, in order (R282). -/
def lanesOf (s : State) (k : Nat) : Lanes :=
  (s.flashLanes.filter (fun f => f.1 == k)).foldl (fun x f => x.fail f.2) ⟨[64, 65, 66, 67], [], []⟩

/-- The width that the lanes allow: full, the half without a failed lane, or down. -/
def Lanes.width (x : Lanes) : Nat :=
  if x.bad == [] then 0 else if x.bad.all (32 ≤ ·) then 1 else if x.bad.all (· < 32) then 2 else 3

/-- Record failed lanes in flash and in the module entry. -/
def recordLane (s : State) (k l : Nat) : State :=
  odSet { s with flashLanes := s.flashLanes ++ [(k, l)] } (0x3900 + k) 0x02 (odGet s (0x3900 + k) 0x02 ||| 2 ^ l)

/-! ### A die out of service (R279) -/

/-- Some module of the die is full width. -/
def dieLinked (s : State) (d : Nat) : Bool :=
  modules.any (fun m => rbWidth (roleByte s d m) == 0 && rbRole (roleByte s d m) != 3)

/-- The unit of a report about a die as a whole. R22 gives such a report no unit of its own; code 0x8021 is filed against the module whose
loss ends the die's service, and a report about the whole die at a start (0x8021, 0x8022) against module 0 (DESIGN CHOICE, log 134). -/
def dieUnit (d m : Nat) : Nat := modUnit d m 0xFFF

/-- The die is taken out of service: its cores are fenced, its contexts stop, code 0x8021 against the module that went last. -/
def dieOut (s : State) (d m : Nat) : State :=
  let cores := (List.range 26).map (32 * d + ·)
  let s1 := { s with diesOut := insertNat s.diesOut d, flashFenced := cores.foldl insertNat s.flashFenced, sweepOut := insertNat (insertNat s.sweepOut (128 + 2 * d)) (129 + 2 * d) }
  let s2 := match s1.testing with
    | some (c, _) => if dieOf c = d then endTest s1 else s1
    | none => s1
  let s3 := (cores ++ [128 + 2 * d, 129 + 2 * d]).foldl (fun s u => stopUnit s u 0x8021) s2
  let s4 := cores.foldl (fun s k =>
    let s' := clearPosition (unserve (setCore s k 3 0x8021) k) k
    disableQueues (if servedBy s' k = 0xFF then s' else odSet s' (0x3000 + k) 0x03 0xFF) k) s3
  msixAllContexts (snagSet (snagSet (fileCode (countCores s4) 0x8021 (dieUnit d m) 0) (28 + d)) (16 + d))

/-! ### The commands -/

/-- A module that changes retrains, and carries no traffic meanwhile; one that falls to half width under die-link protocol version 2 keeps carrying
through the change, which is counted at once (R280). -/
def retrain (s : State) (d m : Nat) (fallback : Bool) : State :=
  if fallback && odGet s (0x3800 + d) 0x02 == 2 && !s.retraining.contains (modKey d m) then odBump s (0x3900 + modKey d m) 0x05 1
  else { s with retraining := insertNat s.retraining (modKey d m) }

/-- The snag, report and rebalance flag of a fallback or a module that goes down (R282). -/
def degraded (s : State) (d m lane b : Nat) : State :=
  odSet (fileCode (snagSet s (24 + d)) 0x8020 (modUnit d m lane) b) (0x3800 + d) 0x06 1

/-- Lanes of a module fail (R280, R283): the module retrains with spares, falls to half width, or goes down. What was on a module that
goes down is replayed on another module that carries its role; R283 names none, the lowest-numbered is taken (DESIGN CHOICE, log 146). -/
def failLanes (s : State) (d m : Nat) (lanes : List Nat) : State :=
  let k := modKey d m
  let new := lanes.filter (fun l => l < 68 && !bitOf (odGet s (0x3900 + k) 0x02) l)
  let old := roleByte s d m
  match new with
  | [] => s
  | l0 :: _ =>
    if rbWidth old = 3 then new.foldl (fun s l => recordLane s k l) s
    else
      let s1 := new.foldl (fun s l => recordLane s k l) s
      let x := lanesOf s1 k
      let w := x.width
      let b := mkRole (rbRole old) w x.used.length
      if w = 3 then
        let s2 := odBump { s1 with retraining := s1.retraining.filter (· != k) } (0x3900 + k) 0x05 1
        let s4 := setRole s2 d m b 0x8020
        let s3 := degraded (replay s4 d m ((carriers s4 d (rbRole old)).headD m)) d m l0 b
        if dieLinked s3 d || s3.diesOut.contains d then s3 else dieOut s3 d m
      else
        let s2 := setRole (retrain s1 d m (w != rbWidth old)) d m b (if w = rbWidth old then 0 else 0x8020)
        let s3 := replay s2 d m m
        if w = rbWidth old then s3
        else
          let s4 := degraded s3 d m l0 b
          if dieLinked s4 d || s4.diesOut.contains d then s4 else dieOut s4 d m

/-- LANE_FAILURE (R280): the DIE islands run on VBULK (R35). -/
def execLaneFailure (d m : Nat) (lanes : List Nat) (s : State) : Host.Outcome State Fault Refusal :=
  .next (if d < 4 && m < 64 && bulkOn s then failLanes s d m lanes else s)

/-- 1 ms in AON ticks. -/
def ms : Nat := 100000

/-- FLIT_CRC_ERROR (R274): counted, replayed in order; sixteen errors attributed to one lane within 1 ms fail it (R280). -/
def execFlitCrcError (d m : Nat) (lane : Option Nat) (s : State) : Host.Outcome State Fault Refusal :=
  .next (if d < 4 && m < 64 && bulkOn s then
      let i := 0x3900 + modKey d m
      let s1 := replay (odBump s i 0x03 1) d m m
      match lane with
      | some l =>
        let x := modKey d m * 68 + l
        let errs := s1.laneErrs.filter (fun e => s1.uptime < e.2 + ms)
        let s2 := { s1 with laneErrs := errs ++ [(x, s1.uptime)] }
        if l < 68 && 16 ≤ (s2.laneErrs.filter (fun e => e.1 == x)).length then
          failLanes { s2 with laneErrs := s2.laneErrs.filter (fun e => e.1 != x) } d m [l]
        else s2
      | none => s1
    else s)

/-- MODULE_RETRAIN_DONE (R280): the module carries traffic again at its new width. -/
def execModuleRetrainDone (d m : Nat) (s : State) : Host.Outcome State Fault Refusal :=
  .next (if s.retraining.contains (modKey d m) then
      odBump { s with retraining := s.retraining.filter (· != modKey d m) } (0x3900 + modKey d m) 0x05 1
    else s)

/-! ### Roles at a start (R277, R281) -/

/-- Roles by module, with the width each module trained at. -/
abbrev RoleMap := List (Nat × Nat)

def rmRole (t : RoleMap) (m : Nat) : Nat := (listGet (0, 0) t m).1
def rmWidth (t : RoleMap) (m : Nat) : Nat := (listGet (0, 0) t m).2
def rmHalves (t : RoleMap) (m : Nat) : Nat := halves (mkRole 0 (rmWidth t m) 0)
def rmSet (t : RoleMap) (m role : Nat) : RoleMap := listSet t m (role, rmWidth t m)
def rmSum (t : RoleMap) (role : Nat) : Nat :=
  (modules.filter (fun m => rmRole t m == role)).foldl (fun n m => n + rmHalves t m) 0

/-- The rule of R281 that a requested table breaks; 0 when it is valid. -/
def requestFault (v : Nat) (widths : List Nat) : Nat :=
  let t : RoleMap := modules.map (fun m => (rbRole (bits v (8 * m) 8), listGet 3 widths m))
  let priv := modules.filter (fun m => rmRole t m == 2)
  if priv.length = 0 || 2 < priv.length then 1
  else if priv.any (fun m => rmWidth t m == 3) then 2
  else if rmSum t 1 < 8 || rmSum t 0 < 48 then 3
  else 0

/-- Step 2: a PRIV position that is not full width gives its role to the lowest-numbered full-width module not yet given PRIV. -/
def privStep (t : RoleMap) (m : Nat) : RoleMap :=
  if rmRole t m = 2 && rmWidth t m ≠ 0 then
    match modules.find? (fun x => rmWidth t x == 0 && rmRole t x != 2) with
    | some x => rmSet (rmSet t m (rmRole t x)) x 2
    | none => t
  else t

/-- Step 3: a FABRIC position that is not full width is exchanged with the highest-numbered full-width MEM module. -/
def fabricStep (t : RoleMap) (m : Nat) : RoleMap :=
  if rmRole t m = 1 && rmWidth t m ≠ 0 then
    match modules.reverse.find? (fun x => rmWidth t x == 0 && rmRole t x == 0) with
    | some x => rmSet (rmSet t m 0) x 1
    | none => t
  else t

/-- Step 4: modules move from MEM to FABRIC, highest-numbered first, until 14 modules' width is met or MEM is left with 24. -/
def widenFabric : Nat → RoleMap → RoleMap
  | 0, t => t
  | n + 1, t =>
    if 28 ≤ rmSum t 1 then t
    else
      match modules.reverse.find? (fun m => rmRole t m == 0 && rmWidth t m != 3) with
      | some m => if 48 ≤ rmSum t 0 - rmHalves t m then widenFabric n (rmSet t m 1) else t
      | none => t

/-- The roles of a die after training (R277). `start` holds the roles of the table it starts from; a requested table keeps its own
half-width PRIV modules. -/
def assignRoles (requested : Bool) (start widths : List Nat) : RoleMap :=
  let t0 : RoleMap := modules.map (fun m => (listGet 0 start m, listGet 3 widths m))
  let t1 := if !requested then modules.foldl privStep t0
            else modules.foldl (fun t m => if rmWidth t m = 3 then privStep t m else t) t0
  let t2 := modules.foldl fabricStep t1
  widenFabric 64 (modules.foldl (fun t m => if rmWidth t m = 3 then rmSet t m 3 else t) t2)

end Sys2Proof.Machine
end

