-- ==== Sys2Proof/Machine/Stages.lean ====
section
/-! DEFINITION. The stages of the skim chain and the sweep units on one group of lanes (R163 to R180, R184): input streams, the stage
catalogue, and the stores of a group. -/

namespace Sys2Proof.Machine

/-- A running vector execution: state (streams, scatter writes and outputs written as they form), flags, bytes scattered, lowest poisoned
offset gathered, lowest offset reached outside the scratch of a served position (R251), and of a dual execution the states of its lanes'
streams at the start of each group (R440). -/
structure VRun where
  st : State
  fl : Flags
  scattered : List (Nat × Nat)
  poison : Option Nat
  beyond : Option Nat
  starts : List (Nat × BitVec 64)

/-- Lanes of an engine (R163). -/
def Cmd.lanes (c : Cmd) : Nat := if c.isSweepCmd then 512 else 256

/-- Stream of lane l (R56). -/
def Cmd.laneStream (c : Cmd) (l : Nat) : Nat := if c.isSweepCmd then sweepStream (c.u - 128) l else skimStream c.u l

/-! ### Input streams (R169, R184, R172) -/

/-- Widened element i of a stream at row r (R52): value and flags. -/
def streamElem (s : State) (c : Cmd) (w r i : Nat) : Elt :=
  let f := swFMT w
  let b := fmtBits f
  let idx := match swMODE w with
    | 1 => i
    | 2 => r
    | 3 => i
    | _ => 0
  let base := if swMODE w = 1 then swADDR w + r * (if swPITCH w = 0 then fmtBytes f c.len else swPITCH w * 32) else swADDR w
  let block := idx / 32
  let code := bits (memNat s (c.at (base + block * (4 * b))) (4 * b)) ((idx % 32) * b) b
  let sc := if isMX f then (memByte s (c.at (swSADDR w + (if swMODE w = 1 then r * (c.len / 32) else 0) + block))).toNat else 127
  let x := widen32 (elemValue f sc code)
  (x.1, operandNFIN f sc code ||| x.2)

/-- Input i of the chain at an element: I0 takes the clip scale (R172), a multiplication that raises its flags (R62; R184 does not name it:
DESIGN CHOICE, log 155). -/
def inputElem (s : State) (c : Cmd) (k r i : Nat) : Elt :=
  let w := chIn c.desc k
  if swMODE w = 0 then (0, 0)
  else
    let x := streamElem s c w r i
    if k = 0 && chCLIP c.desc then let y := mul32 x.1 (bits c.verdict 0 32); (y.1, x.2 ||| y.2) else x

/-! ### Arithmetic (R174), functions (R175), comparison (R176) -/

/-- Round a value to a stage format and widen it back. -/
def roundTo (f : Nat) (v : Val) : Elt :=
  let r := fpStage (fpOf f) .near v
  ((widen32 (decodeFmt f r.1)).1, r.2)

def vAbs (x : Nat) : Nat := x % 2 ^ 31

def stageArith (op f a b c d : Nat) : Elt :=
  let fin := fun (x : Val × Flags) => let r := roundTo f x.1; (r.1, x.2 ||| r.2)
  match op with
  | 0 => fin (Val.add (v32 a) (v32 b))
  | 1 => fin (Val.add (v32 a) (Val.neg (v32 b)))
  | 2 => fin (Val.mul (v32 a) (v32 b))
  | 3 => let p := Val.mul (v32 a) (v32 b); let t := Val.add p.1 (v32 c); fin (t.1, p.2 ||| t.2)
  | 4 => fin (v32 (min32 a b), 0)
  | 5 => fin (v32 (max32 a b), 0)
  | 6 =>
    let p := Val.mul (v32 a) (v32 b)
    let q := Val.mul (v32 c) (v32 d)
    let t := Val.add p.1 q.1
    fin (t.1, p.2 ||| q.2 ||| t.2)
  | _ => fin (Val.abs (v32 a), 0)

/-- The value is a power of two: its exponent. -/
def pow2Exp : Val → Option Int
  | .fin _ m e => if m ≠ 0 ∧ 2 ^ Nat.log2 m = m then some ((Nat.log2 m : Int) + e) else none
  | _ => none

/-- An integer as an exact value. -/
def intVal (k : Int) : Val := .fin (k < 0) k.natAbs 0

/-- Whether a finite value is an integer, and which (within ±4,096). -/
def asInt (m : Nat) (e : Int) (s : Bool) : Option Int :=
  if e ≥ 0 then (if e ≤ 12 ∧ m < 4096 then some (sigAt s m e 0) else none)
  else if e ≥ -200 ∧ m % 2 ^ (-e).toNat = 0 then some (if s then -((m >>> (-e).toNat : Nat) : Int) else (m >>> (-e).toNat : Nat)) else none

def exactElt (v : Val) : Elt := rn32 v

/-- Function `op` of x (R175, R59): exact where its value is, within its bound elsewhere. -/
def stageFunction (op x : Nat) : Elt :=
  let v := v32 x
  match v with
  | .nan => (c32NaN, 0)
  | .inf s =>
    match op with
    | 0 => (if s then 0 else c32PInf, 0)
    | 1 => if s then (c32NaN, fINV) else (c32PInf, 0)
    | 2 => (if s then 0x80000000 else 0, 0)
    | 3 => if s then (c32NaN, fINV) else (0, 0)
    | 4 => (if s then 0xBF800000 else c32One, 0)
    | _ => (if s then 0 else c32One, 0)
  | .fin s m e =>
    match op with
    | 0 =>
      match asInt m e s with
      | some k => exactElt (.fin false 1 k)
      | none => boundedResult 64 x 2 false (fxExp2 (max (-(4096 * 2 ^ 256)) (min (4096 * 2 ^ 256) (fxOf v))))
    | 1 =>
      if m = 0 then (c32NInf, fDZ)
      else if s then (c32NaN, fINV)
      else match pow2Exp v with
        | some k => exactElt (intVal k)
        | none => boundedResult 65 x 2 false (fxVal (fxLog2 m e))
    | 2 =>
      if m = 0 then (if s then c32NInf else c32PInf, fDZ)
      else match pow2Exp v with
        | some k => exactElt (.fin s 1 (-k))
        | none => boundedResult 66 x 2 false (.fin s (2 ^ 300 / m) (-300 - e))
    | 3 =>
      if m = 0 then (if s then c32NInf else c32PInf, fDZ)
      else if s then (c32NaN, fINV)
      else
        let e2 := if e % 2 = 0 then e else e - 1
        let m2 := if e % 2 = 0 then m else 2 * m
        match pow2Exp v with
        | some k => if k % 2 = 0 then exactElt (.fin false 1 (-(k / 2)))
            else boundedResult 67 x 2 false (.fin false (Nat.sqrt (2 ^ 600 / m2)) (-300 - e2 / 2))
        | none => boundedResult 67 x 2 false (.fin false (Nat.sqrt (2 ^ 600 / m2)) (-300 - e2 / 2))
    | 4 => if m = 0 then (x, 0) else boundedResult 68 x 4 true (fxVal (fxTanh (fxOf v)))
    | _ => if m = 0 then (0x3F000000, 0) else boundedResult 69 x 4 true (fxVal (fxSigmoid (fxOf v)))

/-- x = A × B + C rounded once; with B = +1.0 and C = +0 it is A, whose zero keeps its sign (R175). -/
def stageTrans (op a b c : Nat) : Elt :=
  let x := if b = c32One ∧ c = 0 then (a, 0) else fma32 a b c
  let y := stageFunction op x.1
  (y.1, x.2 ||| y.2)

def stageCompare (op a b c d : Nat) : Elt :=
  let x := v32 a
  let y := v32 b
  let un := x.isNaN || y.isNaN
  let o := Val.cmp x y
  let t := match op with
    | 0 => !un && decide (o < 0)
    | 1 => !un && decide (o ≤ 0)
    | 2 => !un && o == 0
    | 3 => un || o != 0
    | 4 => !un && decide (o ≥ 0)
    | 5 => !un && decide (o > 0)
    | _ => un
  (if t then c else d, if un && (op == 0 || op == 1 || op == 4 || op == 5) then fINV else 0)

/-! ### Stages on a group -/

/-- What one group is: row, first element, number of live lanes. -/
structure Grp where
  r : Nat
  e0 : Nat
  n : Nat
  deriving DecidableEq, Repr

/-- The value of a selector in lane i of a group, given the inputs and the results of the stages before. -/
def selValue (d : Nat) (g : Grp) (ins res : List (List Nat)) (x i : Nat) : Nat :=
  if x ≤ 3 then listGet 0 (listGet [] ins x) i
  else if 8 ≤ x ∧ x < 16 then listGet 0 (listGet [] res (x - 8)) i
  else if 0x10 ≤ x ∧ x < 0x20 then chConst d (x - 0x10)
  else match x with
    | 0x21 => c32One
    | 0x22 => (rn32 (intVal (g.e0 + i))).1
    | 0x23 => (rn32 (intVal g.r)).1
    | _ => 0

/-- Convert a list of lane values under RM and SAT, each with its lane's draw; MX blocks are 32 consecutive elements (R178, R170). The
codes, the scales, the flags. -/
def convertLanes (c : Cmd) (f : Nat) (rm sat : Bool) (lane0 : Nat) (xs : List Nat) (s : State) : (List Nat × List Nat × Flags) × State :=
  let d := if rm then drawList c.epoch ((List.range xs.length).map (fun i => c.laneStream ((lane0 + i) % c.lanes))) s else ([], s)
  (convertRow f rm sat d.1 xs, d.2)

/-- Widen converted lanes back (R178). -/
def widenLanes (f : Nat) (o : List Nat × List Nat × Flags) : List Nat :=
  o.1.zipIdx.map (fun x => (widen32 (elemValue f (listGet 127 o.2.1 (x.2 / 32)) x.1)).1)

/-- A permute within 256 consecutive positions (R179). -/
def permuteLanes (op imm : Nat) (table : List Byte) (xs : List Nat) : List Nat :=
  (List.range xs.length).map (fun i =>
    let p := i % 256
    let src := match op with
      | 0 => 255 - p
      | 1 => (p + imm) % 256
      | 2 => Nat.xor p imm
      | _ => (listGet 0#8 table p).toNat
    listGet 0 xs (i / 256 * 256 + src))

/-- trunc of an FP32 index, when it is finite and not below 0 (R180). -/
def truncIndex (a : Nat) : Option Nat :=
  match v32 a with
  | .fin s m e =>
    let t := if e ≥ 0 then m <<< e.toNat else if e ≥ -200 then m >>> (-e).toNat else 0
    if s && t != 0 then none else some t
  | _ => none

/-- A lane's scratch offset: none for an index out of the range [0, bound) (R180). -/
def lanePlace (w a bound : Nat) : Option Nat :=
  match truncIndex a with
  | some t => if (v32 bound).isNaN || !Val.lt (intVal t) (v32 bound) then none else some (sgADDR w + t * (fmtBits (sgFMT w) / 8))
  | none => none

/-- The element at a scratch offset lies in the scratch of a served position (R251). -/
def placeThere (s : State) (k w off : Nat) : Bool := positionServed s k && off + fmtBits (sgFMT w) / 8 ≤ scratchSize

/-- Gather one lane (R180). An index in range whose element lies outside the scratch of a served position is an access that has become
illegal after issue, and ends the command (R253; DEDUCED, log 108). -/
def gatherLane (k w a b : Nat) (x : List Nat × VRun) : List Nat × VRun :=
  match lanePlace w a b with
  | some off =>
    let n := fmtBits (sgFMT w) / 8
    let p := scr k off
    if !placeThere x.2.st k w off then (x.1 ++ [c32NaN], { x.2 with beyond := minOpt x.2.beyond (some p) })
    else (x.1 ++ [(widen32 (decodeFmt (sgFMT w) (memNat x.2.st p n))).1], { x.2 with poison := minOpt x.2.poison (lowestBad x.2.st p n) })
  | none => (x.1 ++ [c32NaN], { x.2 with fl := x.2.fl ||| fINV })

/-- Scatter one lane (R180): STORE converts under RM and SAT; ADD accumulates in FP32. -/
def scatterLane (c : Cmd) (k w lane a b bound : Nat) (x : VRun) : VRun :=
  match lanePlace w b bound with
  | some off =>
    let n := fmtBits (sgFMT w) / 8
    let p := scr k off
    if !placeThere x.st k w off then { x with beyond := minOpt x.beyond (some p) }
    else if sgOP w = 1 then
      let r := add32 (memNat x.st p 4) a
      { x with st := memPut x.st p 4 r.1, fl := x.fl ||| r.2, scattered := x.scattered ++ [(p, 4)],
               poison := minOpt x.poison (lowestBad x.st p 4) }
    else
      let r := convertLanes c (sgFMT w) (sgRM w) (sgSAT w) lane [a] x.st
      { x with st := memPut r.2 p n (listGet 0 r.1.1 0), fl := x.fl ||| r.1.2.2, scattered := x.scattered ++ [(p, n)] }
  | none => { x with fl := x.fl ||| fINV }

/-- One stage on a group: the results of its lanes. A REDUCE stage hands its operand on; the row's result is formed from it. -/
def runStage (c : Cmd) (k : Nat) (g : Grp) (ins res : List (List Nat)) (v : VRun) : List Nat × VRun :=
  let d := c.desc
  let w := chStage d k
  let is := List.range g.n
  let sel := fun x i => selValue d g ins res x i
  let lane0 := g.e0 % c.lanes
  let elts : List Elt → List Nat × VRun := fun l => (l.map (·.1), { v with fl := v.fl ||| orFlags (l.map (·.2)) })
  match sgKIND w with
  | 1 => elts (is.map (fun i => stageArith (sgOP w) (sgFMT w) (sel (sgA w) i) (sel (sgB w) i) (sel (sgC w) i) (sel (sgD w) i)))
  | 2 => elts (is.map (fun i => stageTrans (sgOP w) (sel (sgA w) i) (sel (sgB w) i) (sel (sgC w) i)))
  | 3 => elts (is.map (fun i => stageCompare (sgOP w) (sel (sgA w) i) (sel (sgB w) i) (sel (sgC w) i) (sel (sgD w) i)))
  | 5 =>
    let r := convertLanes c (sgFMT w) (sgRM w) (sgSAT w) lane0 (is.map (sel (sgA w))) v.st
    (widenLanes (sgFMT w) r.1, { v with st := r.2, fl := v.fl ||| r.1.2.2 })
  | 6 =>
    let t := ((c.tables.find? (fun t => t.1 == k)).elim [] (fun t => t.2))
    (permuteLanes (sgOP w) (sgIMM w) t (is.map (sel (sgA w))), v)
  | 7 => is.foldl (fun x i => gatherLane (c.stageCore w) w (sel (sgA w) i) (sel (sgB w) i) x) ([], v)
  | 8 =>
    (is.map (sel (sgA w)),
     is.foldl (fun x i => scatterLane c (c.stageCore w) w (lane0 + i) (sel (sgA w) i) (sel (sgB w) i) (sel (sgC w) i) x) v)
  | _ => (is.map (sel (sgA w)), v)

/-- Every stage on a group, one after the other on all its lanes: a gather stage that stands after a scatter stage sees that stage's writes of
its own group (R180 speaks of earlier and later groups alone; DESIGN CHOICE, log 156). -/
def runStages (c : Cmd) (g : Grp) (ins : List (List Nat)) (v : VRun) : List (List Nat) × VRun :=
  (List.range (chNSTG c.desc)).foldl (fun (x : List (List Nat) × VRun) k =>
    let r := runStage c k g ins x.1 x.2
    (x.1 ++ [r.1], r.2)) ([], v)

/-- The inputs of a group. -/
def groupInputs (c : Cmd) (g : Grp) (v : VRun) : List (List Nat) × VRun :=
  (List.range 4).foldl (fun (x : List (List Nat) × VRun) k =>
    let l := if swMODE (chIn c.desc k) = 0 then [] else (List.range g.n).map (fun i => inputElem x.2.st c k g.r (g.e0 + i))
    (x.1 ++ [l.map (·.1)], { x.2 with fl := x.2.fl ||| orFlags (l.map (·.2)) })) ([], v)

/-! ### Output streams (R170, R171) -/

/-- Outputs of a running command: whether they are held (R186, R187), held bytes in order, the vectors and words of accumulating outputs
(and the row values of an MX row store). -/
structure VOut where
  hold : Bool
  bytes : List (Nat × List Byte)
  vecs : List (List Nat)
  words : List Nat

/-- Output bytes: held in order for the output store, or written as they form (R186, R187). -/
def putOut (l : List (Nat × List Byte)) (x : VOut × VRun) : VOut × VRun :=
  if x.1.hold then ({ x.1 with bytes := x.1.bytes ++ l }, x.2)
  else (x.1, { x.2 with st := l.foldl (fun s w => memWrite s w.1 w.2) x.2.st })

/-- Whether lane i is written under a mask (R170): not where the mask is ±0. -/
def unmasked (d : Nat) (g : Grp) (ins res : List (List Nat)) (w i : Nat) : Bool :=
  swMSEL w == 0x3F || !(v32 (selValue d g ins res (swMSEL w) i)).isZero

/-- Cut lanes into blocks of 32 with their first index. -/
def blocksOf (n : Nat) : List (Nat × Nat) := (List.range (ceilDiv' n 32)).map (fun b => (b * 32, min 32 (n - b * 32)))

/-- An element store of a group: runs of written elements (single lanes; whole blocks for MX, R171). -/
def elementStore (c : Cmd) (g : Grp) (ins res : List (List Nat)) (w : Nat) (x : VOut × VRun) : VOut × VRun :=
  let d := c.desc
  let f := swFMT w
  let row := swADDR w + g.r * (if swPITCH w = 0 then fmtBytes f c.len else swPITCH w * 32)
  let sel := fun i => selValue d g ins res (swSEL w) i
  let units := if isMX f then blocksOf g.n else (List.range g.n).map (fun i => (i, 1))
  units.foldl (fun (x : VOut × VRun) u =>
    if !(List.range u.2).any (fun i => unmasked d g ins res w (u.1 + i)) then x
    else
      let r := convertLanes c f (swRM w) (swSAT w) (g.e0 % c.lanes + u.1) ((List.range u.2).map (fun i => sel (u.1 + i))) x.2.st
      let a := c.at (row + (g.e0 + u.1) * fmtBits f / 8)
      let sa := c.at (swSADDR w + g.r * (c.len / 32) + (g.e0 + u.1) / 32)
      putOut ((a, packCodes f r.1.1) :: (if isMX f then [(sa, r.1.2.1.map (BitVec.ofNat 8))] else []))
        (x.1, { x.2 with st := r.2, fl := x.2.fl ||| r.1.2.2 })) x

/-- A new value of part of an accumulating output: it stands in memory at once unless the outputs are held (R187). -/
def putSum (c : Cmd) (w at0 : Nat) (vs : List Nat) (x : VOut × VRun) : VOut × VRun :=
  if x.1.hold then x else putOut [(c.at (swADDR w + 4 * at0), vs.flatMap (leBytes 4))] x

/-- What a group adds to output j: element stores, column accumulation, and a constant's scalar accumulation. The adds raise their flags
(R62; R184 does not name them: DESIGN CHOICE, log 155). -/
def groupOutput (c : Cmd) (g : Grp) (ins res : List (List Nat)) (j : Nat) (x : VOut × VRun) : VOut × VRun :=
  let d := c.desc
  let w := chOut d j
  let sel := fun i => selValue d g ins res (swSEL w) i
  match swMODE w with
  | 1 => elementStore c g ins res w x
  | 3 =>
    let old := listGet [] x.1.vecs j
    let r := (List.range g.n).map (fun i => add32 (listGet 0 old (g.e0 + i)) (sel i))
    putSum c w g.e0 (r.map (·.1)) ({ x.1 with vecs := listSet x.1.vecs j (old.take g.e0 ++ r.map (·.1) ++ old.drop (g.e0 + g.n)) },
     { x.2 with fl := x.2.fl ||| orFlags (r.map (·.2)) })
  | 4 =>
    if selReduce d (swSEL w) then x
    else
      let r := (List.range g.n).foldl (fun (a : Elt) i => let t := add32 a.1 (sel i); (t.1, a.2 ||| t.2)) (listGet 0 x.1.words j, 0)
      putSum c w 0 [r.1] ({ x.1 with words := listSet x.1.words j r.1 }, { x.2 with fl := x.2.fl ||| r.2 })
  | _ => x

/-- A row reduction (R177): the A values in ascending element order. -/
def reduceRow (op : Nat) (l : List Nat) : Elt :=
  match l with
  | [] => (0, 0)
  | a :: r => if op = 1 then (r.foldl max32 a, 0) else r.foldl (fun (x : Elt) b => let t := add32 x.1 b; (t.1, x.2 ||| t.2)) (a, 0)

/-- The block of an MX row store that row r completes: 32 rows each, the last one shorter, as a row broadcast reads them; the value of the i-th
row of a block draws from lane i (the spec does not say how such a store blocks; DESIGN CHOICE, log 109). -/
def rowBlock (c : Cmd) (r j : Nat) (x : VOut × VRun) : VOut × VRun :=
  let w := chOut c.desc j
  let f := swFMT w
  if r % 32 = 31 ∨ r + 1 = c.rows then
    let o := convertLanes c f (swRM w) (swSAT w) 0 ((listGet [] x.1.vecs j).drop (r / 32 * 32)) x.2.st
    putOut [(c.at (swADDR w + r / 32 * 4 * fmtBits f), packCodes f o.1.1), (c.at (swSADDR w + r / 32), o.1.2.1.map (BitVec.ofNat 8))]
      (x.1, { x.2 with st := o.2, fl := x.2.fl ||| o.1.2.2 })
  else x

/-- What the end of a row adds to output j: row stores and scalar accumulation of a REDUCE result. R170 does not say at which lane a row's
one value stands: it draws from lane 0 (DESIGN CHOICE, log 109). -/
def rowOutput (c : Cmd) (r : Nat) (reds : List Nat) (j : Nat) (x : VOut × VRun) : VOut × VRun :=
  let d := c.desc
  let w := chOut d j
  let v := if selReduce d (swSEL w) then listGet 0 reds (swSEL w - 8) else selValue d ⟨r, 0, 0⟩ [] [] (swSEL w) 0
  match swMODE w with
  | 2 =>
    if isMX (swFMT w) then rowBlock c r j ({ x.1 with vecs := listSet x.1.vecs j (listGet [] x.1.vecs j ++ [v]) }, x.2)
    else
      let o := convertLanes c (swFMT w) (swRM w) (swSAT w) 0 [v] x.2.st
      putOut [(c.at (swADDR w + r * (fmtBits (swFMT w) / 8)), packCodes (swFMT w) o.1.1)] (x.1, { x.2 with st := o.2, fl := x.2.fl ||| o.1.2.2 })
  | 4 =>
    if selReduce d (swSEL w) then
      let t := add32 (listGet 0 x.1.words j) v
      putSum c w 0 [t.1] ({ x.1 with words := listSet x.1.words j t.1 }, { x.2 with fl := x.2.fl ||| t.2 })
    else x
  | _ => x

/-- The groups of a row. -/
def rowGroups (c : Cmd) (r : Nat) : List Grp :=
  (List.range (ceilDiv' c.len c.lanes)).map (fun g => ⟨r, g * c.lanes, min c.lanes (c.len - g * c.lanes)⟩)

/-- A group of a dual execution begins: the states of its lanes' streams (R440). -/
def markStart (c : Cmd) (v : VRun) : VRun :=
  if c.dual then { v with starts := v.starts ++ (List.range c.lanes).map (fun l => (c.laneStream l, streamGet v.st c.epoch (c.laneStream l))) }
  else v

/-- One row: its groups in order, then its reductions and row outputs. -/
def runRow (c : Cmd) (r : Nat) (x : VOut × VRun) : VOut × VRun :=
  let n := chNSTG c.desc
  let a := (rowGroups c r).foldl (fun (y : List (List Nat) × VOut × VRun) g =>
    let ins := groupInputs c g (markStart c y.2.2)
    let st := runStages c g ins.1 ins.2
    let o := (List.range 4).foldl (fun z j => groupOutput c g ins.1 st.1 j z) (y.2.1, st.2)
    ((List.range n).map (fun k => listGet [] y.1 k ++ (if sgKIND (chStage c.desc k) = 4 then listGet [] st.1 k else [])), o))
    (List.replicate n [], x)
  let reds := (List.range n).map (fun k =>
    if sgKIND (chStage c.desc k) = 4 then reduceRow (sgOP (chStage c.desc k)) (listGet [] a.1 k) else (0, 0))
  let b := (a.2.1, { a.2.2 with fl := a.2.2.fl ||| orFlags (reds.map (·.2)) })
  (List.range 4).foldl (fun z j => rowOutput c r (reds.map (·.1)) j z) b

/-- One execution of a vector command: the bytes of its held outputs, in order, and the run's end. -/
def runVector (s : State) (c : Cmd) : List (Nat × List Byte) × VRun :=
  let d := c.desc
  let vecs := (List.range 4).map (fun j => if swMODE (chOut d j) = 3 then readCodes s (c.at (swADDR (chOut d j))) 0 c.len else [])
  let words := (List.range 4).map (fun j => if swMODE (chOut d j) = 4 then memNat s (c.at (swADDR (chOut d j))) 4 else 0)
  let y := (List.range c.rows).foldl (fun y r => runRow c r y) ((⟨c.holds, [], vecs, words⟩ : VOut), (⟨s, 0, [], none, none, []⟩ : VRun))
  let sums := (List.range 4).flatMap (fun j =>
    match swMODE (chOut d j) with
    | 3 => [(c.at (swADDR (chOut d j)), packCodes 0 (listGet [] y.1.vecs j))]
    | 4 => [(c.at (swADDR (chOut d j)), leBytes 4 (listGet 0 y.1.words j))]
    | _ => [])
  (y.1.bytes ++ (if c.holds then sums else []), y.2)

end Sys2Proof.Machine
end

