-- ==== Sys2Proof/Machine/Vector.lean ====
section
/-! DEFINITION. The vector commands (R162 to R193): SKIM and SWEEP runs with their faults (R188), dual execution (R189), write-back
(R186, R187). -/

namespace Sys2Proof.Machine

/-- The running vector command of a queue. -/
def vecCmd (s : State) (u q : Nat) (st : Stage) (sweep : Bool) : Option Cmd :=
  (qCmds s u q).find? (fun c => c.group.vector && c.op != 0x40 && c.stage == st && c.isSweepCmd == sweep)

/-- The rows of the output regions, as local offsets and lengths. -/
def outRanges (c : Cmd) : List (Nat × Nat) :=
  (chainOuts c.desc c.rows c.len).flatMap (fun p => (List.range p.rows).map (fun r => (c.at (p.addr + r * p.stride), p.width)))

/-- The lowest poisoned offset among the input elements and the accumulating outputs' starts. -/
def vectorPoison (s : State) (c : Cmd) : Option Nat :=
  if allClean s then none
  else minOpts (((chainIns c.desc c.rows c.len).flatMap (fun p => (List.range p.rows).map (fun r =>
      lowestBad s (c.at (p.addr + r * p.stride)) p.width))) ++
    ((List.range 4).map (fun j =>
      let w := chOut c.desc j
      if swMODE w = 3 then lowestBad s (c.at (swADDR w)) (4 * c.len) else if swMODE w = 4 then lowestBad s (c.at (swADDR w)) 4 else none)))

/-- Error completion of a vector command (R188): counted, undefined memory made so, the report. It counts in the command faults and not in
the commands completed (R193 does not say whether an error completion counts there too; DESIGN CHOICE, log 158). -/
def faultVectorOps (s : State) (c : Cmd) (status code detail : Nat) (scattered : List (Nat × Nat)) (ops : Option (List Byte)) : State :=
  let s1 := undefine (undefine s (if c.holds then [] else outRanges c)) scattered
  failCmd (odBump s1 c.statIndex c.faultSub 1) { c with held := [] } status code (cmdReport s c code (unitOf c.u) detail noPeer ops)

/-- The same with nothing captured. -/
def faultVector (s : State) (c : Cmd) (status code detail : Nat) (scattered : List (Nat × Nat)) : State :=
  faultVectorOps s c status code detail scattered none

/-- Work counted for an execution (R193): groups on a skim chain, elements on a sweep unit. -/
def countWork (s : State) (c : Cmd) : State :=
  odBump s c.statIndex 0x02 (if c.isSweepCmd then c.len else c.rows * ceilDiv' c.len 256)

/-- Bytes of the outputs in the order written, one by one (R186). -/
def heldBytes (l : List (Nat × List Byte)) : List (Nat × Byte) :=
  l.flatMap (fun w => w.2.zipIdx.map (fun b => (w.1 + b.2, b.1)))

/-- Complete a vector command OK. -/
def finishVector (s : State) (c : Cmd) : State := reportCured (finishCmd (odBump s c.statIndex 0x01 1) c stOK) c

/-- A first fault of an execution: the command is run once more (R188, R64). -/
def rerunVector (s : State) (c : Cmd) (fl : Flags) (code detail : Nat) (ops : Option (List Byte)) : State × Cmd :=
  let r := curedReport s c code (unitOf c.u) detail ops
  let c1 := { c with rerun := true, firstFault := some r.1, oldFlags := c.oldFlags ||| fl, flags := 0 }
  (putCmd (odBump r.2 c.statIndex c.rerunSub 1) c1, c1)

/-- A write of a vector command that meets a sealed place ends it FAULT (R265); what it scattered is undefined (R188). -/
def vectorSealed (s : State) (c : Cmd) (a : Nat) : State :=
  failCmd (odBump (undefine s c.scattered) c.statIndex c.faultSub 1) { c with held := [] } stFAULT 0x4002
    (cmdReport s c 0x4002 (stackUnit (translate s a).stack (translate s a).channel) a noPeer none)

/-- The first of some writes that meets a sealed place. -/
def firstSealed (s : State) (ws : List (Nat × List Byte)) : Option Nat := (ws.find? (fun w => sealedRange s w.1 w.2.length)).map (·.1)

/-- The end of an execution without a fault: outputs held for write-back or comparison, or written as they formed (R186, R187, R189). -/
def vectorDone (c : Cmd) (r : List (Nat × List Byte) × VRun) : State :=
  let s1 := countWork r.2.st c
  let c1 := { c with flags := r.2.fl, scattered := r.2.scattered, run := { (c.run) with streams := r.2.starts } }
  if c.holds then putCmd s1 { c1 with held := heldBytes r.1, stage := if c.dual then .parked else .held }
  else finishVector s1 c1

/-- Run the command: at most two executions (R188). An execution that meets poison, or an address outside scratch, has run its groups: they are
counted, and its flags and draws stay (R64, R65, R193; log 27). A lane error in a command with a scatter stage is code 0x2002 and not re-run;
poison and an address keep their own codes there (log 42). -/
def executeVector (s : State) (c : Cmd) (ev : LaneEvent) : State :=
  let r := runVector s c
  let cf := { c with flags := r.2.fl }
  let detail := pack3 ev.stage ev.lane 0
  match minOpt (vectorPoison s c) r.2.poison, r.2.beyond with
  | some a, _ => faultVector (countWork r.2.st c) cf stPOISON 0x3003 a r.2.scattered
  | none, some a => faultVector (countWork r.2.st c) cf stFAULT 0x4001 a r.2.scattered
  | none, none =>
      if ev.times = 0 then vectorDone c r
      else if chainHas c.desc 8 then faultVector (countWork r.2.st c) cf stFAULT 0x2002 detail r.2.scattered
      else
        let a := countWork r.2.st c
        if ev.times = 1 && !c.rerun then
          let b := rerunVector a c r.2.fl 0x2001 detail none
          vectorDone b.2 (runVector b.1 b.2)
        else if c.rerun then faultVector a cf stFAULT 0x2001 detail []
        else
          let b := rerunVector a c r.2.fl 0x2001 detail none
          let t := runVector b.1 b.2
          faultVector (countWork t.2.st c) { b.2 with flags := t.2.fl } stFAULT 0x2001 detail []

/-- SKIM (R162, R231). -/
def execSkim (u q : Nat) (ev : LaneEvent) (s : State) : Host.Outcome State Fault Refusal :=
  .next (match vecCmd s u q .admitted false with
    | some c => executeVector s c ev
    | none => s)

/-- The streams of a sweep command lie in job stack memory still (R253). -/
def sweepVacated (s : State) (c : Cmd) : Option Nat :=
  (chainIns c.desc c.rows c.len ++ chainOuts c.desc c.rows c.len).findSome? (fun p => vacatedAt s p.addr (p.stop - p.addr))

/-- SWEEP (R162, R232); a dual execution is counted (R193). -/
def execSweep (u q : Nat) (ev : LaneEvent) (s : State) : Host.Outcome State Fault Refusal :=
  .next (match vecCmd s u q .admitted true with
    | some c =>
      match sweepVacated s c with
      | some a => faultVector s c stFAULT 0x4001 a []
      | none => executeVector (if c.dual then odBump s c.statIndex 0x04 1 else s) c ev
    | none => s)

/-- The input bytes of the group of an element, with their scales: the operands of the failing group (R440). -/
def groupBytes (s : State) (c : Cmd) (el : Nat) : List Byte :=
  let e0 := el / c.lanes * c.lanes
  (List.range 4).flatMap (fun k =>
    let w := chIn c.desc k
    let f := swFMT w
    let n := if swMODE w = 1 ∨ swMODE w = 3 then min c.lanes (c.len - e0) else 1
    let first := if swMODE w = 1 ∨ swMODE w = 3 then e0 else 0
    if swMODE w = 0 then []
    else memRead s (c.at (swADDR w + first * fmtBits f / 8)) (fmtBytes f n) ++
      (if isMX f then memRead s (c.at (swSADDR w + first / 32)) (ceilDiv' n 32) else []))

/-- The capture of a failed comparison: the operands of the group of the element that differs, and the states of its lanes' streams at the
start of that group (R440). -/
def captureDual (s : State) (c : Cmd) (el : Nat) : State :=
  addCapture s ⟨0xFF, 0, c.word, c.desc, groupBytes s c el, (c.run.streams.drop (el / c.lanes * c.lanes)).take c.lanes, 0, 0, some c.u, el⟩

/-- A comparison that failed (R189): captured; both units re-run the command once, and a second mismatch ends it with one report, whose UNIT
names the primary (R427; DESIGN CHOICE, log 110: the field has room for one unit). A command with a scatter stage is not re-run (R188): its
report names the lane, and a free stage, as a comparison of outputs shows none. -/
def dualMismatch (s : State) (c : Cmd) (el : Nat) : State :=
  let ops := groupBytes s c el
  let s1 := odBump (captureDual (snagSet s 128) c el) c.statIndex 0x05 1
  if chainHas c.desc 8 then
    let st := freshNat s1 5 3
    faultVectorOps st.2 c stFAULT 0x2002 (pack3 st.1 (el % c.lanes) 0) c.scattered (some ops)
  else if c.mismatched then faultVectorOps s1 c stFAULT 0x2003 el [] (some ops)
  else
    let b := rerunVector s1 { c with held := [], stage := .admitted, mismatched := true } c.flags 0x2003 el (some ops)
    executeVector b.1 b.2 ⟨0, 0, 0⟩

/-- DUAL_COMPARE (R189): every output of both executions has been compared; `mismatch` names the first element that differs. -/
def execDualCompare (u q : Nat) (mismatch : Option Nat) (s : State) : Host.Outcome State Fault Refusal :=
  .next (match vecCmd s u q .parked true with
    | some c =>
      match mismatch with
      | some e => dualMismatch s c e
      | none => putCmd s { c with stage := .held }
    | none => s)

/-- Ranges of held bytes, joined where they follow each other. -/
def joinBytes : List (Nat × Byte) → List (Nat × List Byte)
  | [] => []
  | (a, b) :: r =>
    match joinBytes r with
    | (x, l) :: t => if x = a + 1 then (a, b :: l) :: t else (a, [b]) :: (x, l) :: t
    | [] => [(a, [b])]

/-- Write the held outputs to memory and complete (R186, R187). A write that meets a sealed place ends the command FAULT (R265). -/
def writeBack (s : State) (c : Cmd) : State :=
  let ws := joinBytes c.held
  match firstSealed s ws, (if c.isSweepCmd then sweepVacated s c else none) with
  | _, some a => faultVector s c stFAULT 0x4001 a c.scattered
  | some a, none => vectorSealed s c a
  | none, none =>
    localWrite s (ws.map (fun w => (w.1, w.2.length))) (fun s =>
      finishVector (ws.foldl (fun s w => memWrite s w.1 w.2) s) { c with held := [] })

/-- WRITE_BACK (R186, R187). -/
def execWriteBack (u q : Nat) (s : State) : Host.Outcome State Fault Refusal :=
  .next (match (qCmds s u q).find? (fun c => c.group.vector && c.stage == .held) with
    | some c => writeBack s c
    | none => s)

end Sys2Proof.Machine
end

