-- ==== Sys2Proof/Machine/Fabric.lean ====
section
/-! DEFINITION. Messages of the Seresque fabric (R286 to R317): their packets, the route of a packet at a hop, ordered streams, what a
source keeps, and what a destination holds. -/

namespace Sys2Proof.Machine

/-! ### Numbers and ports -/

/-- The package number; 0xF_FFFF is none (R288). -/
def ownPkg (s : State) : Nat := odGet s 0x5000 0x01
def hasNumber (s : State) : Bool := ownPkg s != 0xFFFFF

/-- The hub serves and forwards: VBULK is good and the package has a number (R288, R317). -/
def serving (s : State) : Bool := bulkOn s && hasNumber s

/-- Package and offset of a Seresque address (R286). -/
def seresPkg (a : Nat) : Nat := bits a 44 20
def seresOff (a : Nat) : Nat := bits a 0 44
def seres (pkg off : Nat) : Nat := pkg * 2 ^ 44 + off

def getPort (s : State) (p : Nat) : Port := s.ports.getD p Port.reset
def putPort (s : State) (p : Nat) (v : Port) : State := { s with ports := s.ports.set p v }

def portState (s : State) (p : Nat) : Nat := odGet s (0x5200 + p) 0x01
def portUp (s : State) (p : Nat) : Bool := portState s p == 3

/-- The physical port of a logical port (R344). -/
def physPort (s : State) (l : Nat) : Nat := bits (odGet s 0x5310 0x02) (4 * l) 4

/-! ### Packets (R289 to R292) -/

def Packet.blank : Packet :=
  { daddr := 0, spkg := 0, msgid := 0, syncid := 0, oseq := 0, kind := 0, op := 0, pkt := 0, tflit := 0, len := 0, chan := 0, rtally := 0,
    rten := false, ord := false, tail := false, nfin := false, hops := 0, poison := 0, arg := 0, arg2 := 0, mcrc := 0, payload := [],
    vc := 0, inPort := 16 }

/-- The fields of a header flit (R291). -/
def decodeHeader (h : BitVec 512) : Packet :=
  let n := h.toNat
  { daddr := bits n 448 64, spkg := bits n 428 20, msgid := bits n 396 32, syncid := bits n 364 32, oseq := bits n 340 24,
    kind := bits n 336 4, op := bits n 328 8, pkt := bits n 320 8, tflit := bits n 305 15, len := bits n 284 21, chan := bits n 278 6,
    rtally := bits n 264 14, rten := bitOf n 263, ord := bitOf n 262, tail := bitOf n 261, nfin := bitOf n 260, hops := bits n 256 4,
    poison := bits n 192 64, arg := bits n 128 64, arg2 := bits n 64 64, mcrc := bits n 0 64, payload := [], vc := 0, inPort := 16 }

/-- The virtual channel of a request (R289). -/
def requestVc (kind op : Nat) (ord : Bool) : Nat :=
  match kind with
  | 0 => if ord then 0 else 4
  | 1 => 0
  | 2 => 0
  | 3 => 2
  | 4 => 3
  | 5 => 4
  | 6 => 4
  | 7 => if op = 0 then 5 else 6
  | _ => 1

/-- The message belongs to an ordered stream (R298). -/
def orderedVc (vc : Nat) (ord : Bool) : Bool := (vc == 0 && ord) || vc == 2 || vc == 3 || vc == 5 || vc == 6

/-- GET, ATOMIC and CONTROL requests carry no payload (R290). -/
def noPayload (kind : Nat) : Bool := kind == 1 || kind == 2 || kind == 7

def flitsOf (n : Nat) : Nat := ceilDiv' n 64

/-- Packets of a message whose payload has n bytes (R290). -/
def packetsOf (n : Nat) : Nat := max 1 (ceilDiv' n 4096)

/-- Payload bytes of packet k. -/
def packetBytes (n k : Nat) : Nat := min 4096 (n - k * 4096)

/-- Total flits of a message with n payload bytes. -/
def totalFlits (n : Nat) : Nat := packetsOf n + ((List.range (packetsOf n)).map (fun k => flitsOf (packetBytes n k))).foldl (· + ·) 0

/-- The POISON bits of a packet whose payload comes from [a, a + n): the flits that carry a poisoned sector (R291, R314). -/
def poisonBits (s : State) (a n : Nat) : Nat :=
  if allClean s then 0
  else ((List.range (flitsOf n)).filter (fun f => badSectors s (a + f * 64) (min 64 (n - f * 64)) != [])).foldl (fun m f => m ||| 2 ^ f) 0

/-- Packet k of a message: its slice of the payload, TAIL, TFLIT and MCRC on the last (R290, R306). A GATHER names its landing image in
every packet (R358). -/
def packetAt (head : Packet) (payload : List Byte) (poison k : Nat) : Packet :=
  let n := payload.length
  let last := k + 1 == packetsOf n
  { head with daddr := head.daddr + (if head.kind = 5 then 0 else k * 4096), pkt := k, payload := (payload.drop (k * 4096)).take 4096, poison := poison, tail := last,
              tflit := if last then totalFlits n else 0, mcrc := if last then crc64 payload else 0 }

/-! ### CRC-32C -/

/-- One step of the reflected CRC-32C (polynomial 0x1EDC6F41). -/
def crc32cBit (c : Nat) : Nat := if c % 2 = 1 then (c / 2) ^^^ 0x82F63B78 else c / 2
def crc32cByte (c : Nat) (b : Nat) : Nat :=
  crc32cBit (crc32cBit (crc32cBit (crc32cBit (crc32cBit (crc32cBit (crc32cBit (crc32cBit (c ^^^ b))))))))

/-- CRC-32C over the n low bytes of a value, lowest first, initial value and final XOR all ones (log 29). -/
def crc32cFrom : Nat → Nat → Nat → Nat
  | 0, _, c => c
  | n + 1, v, c => crc32cFrom n (v / 256) (crc32cByte c (v % 256))
def crc32c (n v : Nat) : Nat := crc32cFrom n v (2 ^ 32 - 1) ^^^ (2 ^ 32 - 1)

/-! ### Frames sent (R293) -/

/-- The header flit of a packet (R291). -/
def encodeHeader (p : Packet) : BitVec 512 :=
  BitVec.ofNat 512 (p.daddr * 2 ^ 448 + p.spkg * 2 ^ 428 + p.msgid * 2 ^ 396 + p.syncid * 2 ^ 364 + p.oseq * 2 ^ 340 + p.kind * 2 ^ 336
    + p.op * 2 ^ 328 + p.pkt * 2 ^ 320 + p.tflit * 2 ^ 305 + p.len * 2 ^ 284 + p.chan * 2 ^ 278 + p.rtally * 2 ^ 264 + p.rten.toNat * 2 ^ 263
    + p.ord.toNat * 2 ^ 262 + p.tail.toNat * 2 ^ 261 + p.nfin.toNat * 2 ^ 260 + p.hops * 2 ^ 256 + p.poison * 2 ^ 192 + p.arg * 2 ^ 128
    + p.arg2 * 2 ^ 64 + p.mcrc)

/-- A payload of `n` flits, the last one padded with zeros (R290). -/
def payloadFlits : Nat → List Byte → List (BitVec 512)
  | 0, _ => []
  | n + 1, l => BitVec.ofNat 512 (leNat (l.take 64)) :: payloadFlits n (l.drop 64)

/-- The flits of a packet, each with its tag: VALID, VC, HEAD and END (R293). -/
def taggedFlits (p : Packet) : List (Nat × BitVec 512) :=
  let n := flitsOf p.payload.length
  (encodeHeader p :: payloadFlits n p.payload).mapIdx (fun i f =>
    (2 ^ 7 + p.vc * 2 ^ 4 + (if i = 0 then 2 ^ 3 else 0) + (if i = n then 2 ^ 2 else 0), f))

/-- The frame of a sequence number that carries up to seven tagged flits, with its FCRCs and its LCRC (R293). -/
def frameOf (xoff fseq : Nat) (fl : List (Nat × BitVec 512)) : Frame :=
  let top := (List.range 7).foldl (fun n k => match fl[k]? with
    | some (tag, f) => n + tag * 2 ^ (440 + 8 * k) + crc32c 65 (f.toNat + tag * 2 ^ 512) * 2 ^ (216 + 32 * k)
    | none => n + crc32c 65 0 * 2 ^ (216 + 32 * k)) (xoff * 2 ^ 504 + fseq % 256 * 2 ^ 496)
  ⟨BitVec.ofNat 512 (top + crc32c 60 (top / 2 ^ 32)), (List.range 7).map (fun k => match fl[k]? with | some x => x.2 | none => 0), [], [], []⟩

/-- The frames of a sequence of flits, seven to a frame; the model sends the flits of one packet in consecutive slots (DESIGN CHOICE, log 140). -/
def framesOf (xoff : Nat) : Nat → Nat → List (Nat × BitVec 512) → List Frame
  | 0, _, _ => []
  | n + 1, fseq, fl => frameOf xoff fseq (fl.take 7) :: framesOf xoff n (fseq + 1) (fl.drop 7)

/-- Bytes of a packet on a link. -/
def packetSize (p : Packet) : Nat := 64 * (1 + flitsOf p.payload.length)

/-- The next frames of a port carry tagged flits; `o` says what they are. -/
def emitFlits (s : State) (port : Nat) (fl : List (Nat × BitVec 512)) (o : List Frame → Output) : State :=
  let v := getPort s port
  let n := ceilDiv' fl.length 7
  emit (putPort s port { v with fseq := (v.fseq + n) % 256 }) (o (framesOf v.xoffSent n v.fseq fl))

/-- The first k flits of a packet have gone on toward the next hop, and the next slot of its VC carries ABORT (R294, R301). -/
def sendAbort (s : State) (port : Nat) (p : Packet) (k : Nat) : State :=
  emitFlits s port (((taggedFlits p).take k).map (fun f => (f.1 - f.1 % 8 + f.1 % 4, f.2)) ++ [(2 ^ 7 + p.vc * 2 ^ 4 + 2, 0)])
    (fun fr => .aborted port p.vc p fr)

/-- Send a packet on a port, in the frames that follow (R293). -/
def emitPacket (s : State) (port : Nat) (p : Packet) : State :=
  emitFlits s port (taggedFlits p) (fun fr => .packet port p.vc p fr)

/-! ### Responses -/

/-- An ACK or NAK for the message of a packet (R291). -/
def response (s : State) (p : Packet) (kind op : Nat) : Packet :=
  { Packet.blank with daddr := seres p.spkg 0, spkg := ownPkg s, msgid := p.msgid, kind := kind, op := op, tail := true, tflit := 1,
                      mcrc := crc64 [], vc := 1 }

/-- NAK reasons (R312's table). -/
def nakBUSY : Nat := 0x01
def nakINCOMPLETE : Nat := 0x02
def nakCRC : Nat := 0x03
def nakNOROUTE : Nat := 0x04
def nakADDRESS : Nat := 0x08
def nakTALLY : Nat := 0x09
def nakPOISON : Nat := 0x0A

/-! ### Routing (R300, R301) -/

/-- The active routing entry toward a package; none when it is this one. -/
def routeEntry (s : State) (dest : Nat) : Option Nat :=
  let own := ownPkg s
  let e := fun i => bits (odGet s 0x5100 0x07) (32 * i) 32
  if dest / 2 ^ 18 ≠ own / 2 ^ 18 then some (e (dest / 2 ^ 18))
  else if bits dest 9 9 ≠ bits own 9 9 then some (e (4 + bits dest 9 9))
  else if bits dest 0 9 ≠ bits own 0 9 then some (e (516 + bits dest 0 9))
  else none

def reMode (e : Nat) : Nat := bits e 10 2

/-- Physical eligible ports that are UP, in ascending logical number. -/
def eligiblePorts (s : State) (e : Nat) : List Nat :=
  ((List.range 16).filter (fun l => bitOf e (16 + l) && portUp s (physPort s l))).map (physPort s)

def escPort (s : State) (e : Nat) : Nat := physPort s (bits e 12 4)

/-- The VC is stopped toward the far end of a port (R295). -/
def vcStopped (s : State) (p vc : Nat) : Bool := bitOf (getPort s p).xoffFar vc

/-- What a hop does with a packet: a port, a wait for one (adaptive), or no route. -/
inductive Choice where
  | port (p : Nat)
  | wait
  | none
  deriving DecidableEq, Repr

/-- The eligible running port whose transmit queue holds the fewest bytes; ties to the lower number (R301). -/
def leastLoaded (s : State) : List Nat → Option Nat
  | [] => none
  | p :: r =>
    match leastLoaded s r with
    | some q => if (getPort s q).txBytes < (getPort s p).txBytes then some q else some p
    | none => some p

/-- The choice of a port (R301). -/
def choosePort (s : State) (p : Packet) : Choice :=
  match routeEntry s (seresPkg p.daddr) with
  | none => .none
  | some e =>
    if reMode e = 0 then .none
    else if p.vc = 7 then (if portUp s (escPort s e) then .port (escPort s e) else .none)
    else
      match eligiblePorts s e with
      | [] => .none
      | q :: r =>
        if p.vc = 4 && reMode e = 2 then
          match leastLoaded s ((q :: r).filter (fun x => !vcStopped s x 4)) with
          | some x => .port x
          | none => .wait
        else .port q

/-- Count bytes in or out of a port's transmit queue. -/
def queueBytes (s : State) (port : Nat) (f : Nat → Nat) : State :=
  putPort s port { (getPort s port) with txBytes := f (getPort s port).txBytes }

/-- Put a packet that has been held here since an uptime on a port: sent, or queued while its VC is stopped. -/
def sendSince (s : State) (port : Nat) (p : Packet) (since : Nat) : State :=
  let p1 := { p with hops := p.hops + 1 }
  if vcStopped s port p.vc then
    let s1 := queueBytes s port (· + packetSize p)
    { s1 with transit := s1.transit ++ [⟨p1, some port, p.vc == 7, since, some s.uptime⟩] }
  else emitPacket s port p1

/-- Put a packet on a port. -/
def sendOn (s : State) (port : Nat) (p : Packet) : State := sendSince s port p s.uptime

/-- Take a held packet away. -/
def dropTransit (s : State) (t : Transit) : State :=
  let s1 := { s with transit := s.transit.erase t }
  match t.port with
  | some q => queueBytes s1 q (· - packetSize t.pkt)
  | none => s1

/-- A packet is the first of its queue: the packets that came in by its port on its VC leave in the order in which they arrived (R297). Packets of
this package itself form no such queue. -/
def isHead (s : State) (t : Transit) : Bool :=
  16 ≤ t.pkt.inPort || (s.transit.takeWhile (· != t)).all (fun x => !(x.pkt.inPort == t.pkt.inPort && x.pkt.vc == t.pkt.vc))

/-- Packets of the same port and VC wait before this one. -/
def behind (s : State) (p : Packet) : Bool :=
  p.inPort < 16 && s.transit.any (fun t => t.pkt.inPort == p.inPort && t.pkt.vc == p.vc)

/-- Hold a packet that has no port yet. -/
def holdPacket (s : State) (p : Packet) : State :=
  { s with transit := s.transit ++ [⟨p, none, false, s.uptime, if behind s p then none else some s.uptime⟩] }

/-! ### Arrival at this package -/

/-- A response for this package enters the inbox; GET-DATA lands in its GET's context (R292, R304). -/
def takeResponse (s : State) (p : Packet) : State :=
  if p.kind = 0xA then
    match s.sends.find? (fun m => m.msgid == p.msgid && m.head.kind == 1) with
    | some m =>
      if seresPkg p.daddr ≠ ownPkg s then s
      else if m.got.any (fun x => x.pkt == p.pkt) then odBump s 0x5000 0x14 1
      else { s with sends := mapFirst (fun x => x.msgid == p.msgid) (fun x => { x with got := x.got ++ [p], gotAt := s.uptime }) s.sends }
    | none => s
  else { s with inbox := s.inbox ++ [p] }

/-- A response without a route is only counted (R301): with the packets that the escape port of its route dropped where the package sends it
itself, as none has come in (DESIGN CHOICE, log 161). -/
def lostResponse (s : State) (p : Packet) : State :=
  match routeEntry s (seresPkg p.daddr) with
  | some e => odBump s (0x5200 + (if p.inPort < 16 then p.inPort else escPort s e)) 0x06 1
  | none => s

/-- Send a response, or take it at once when its receiver is this package. Responses make no further response (R301). -/
def sendResponse (s : State) (p : Packet) : State :=
  let s1 := if p.kind = 9 then odBump s 0x5000 0x13 1 else s
  if seresPkg p.daddr = ownPkg s then takeResponse s1 p
  else
    match choosePort s1 p with
    | .port q => sendOn s1 q p
    | .wait => holdPacket s1 p
    | .none => lostResponse s1 p

def findRecv (s : State) (spkg msgid : Nat) : Option RecvCtx := s.recvs.find? (fun r => r.spkg == spkg && r.msgid == msgid)
def dropRecv (s : State) (spkg msgid : Nat) : State :=
  { s with recvs := s.recvs.filter (fun r => !(r.spkg == spkg && r.msgid == msgid)) }
def findTomb (s : State) (spkg msgid : Nat) : Option Tomb := s.tombs.find? (fun r => r.spkg == spkg && r.msgid == msgid)

def findStream (s : State) (source : Bool) (peer vc : Nat) : Option StreamRec :=
  s.srecs.find? (fun r => r.source == source && r.peer == peer && r.vc == vc)
def putStream (s : State) (r : StreamRec) : State :=
  { s with srecs := s.srecs.filter (fun x => !(x.source == r.source && x.peer == r.peer && x.vc == r.vc)) ++ [r] }

/-- A message of a running stream that has completed before (R299, R310). -/
def alreadyDone (s : State) (p : Packet) : Bool :=
  orderedVc p.vc p.ord && (match findStream s false p.spkg p.vc with
    | some x => x.syncid == p.syncid && p.oseq != x.next && (x.next + 2 ^ 24 - p.oseq) % 2 ^ 24 < 2 ^ 23
    | none => false)

/-- A new stream begins: its first message replaces any record of another stream of the same source and VC (R299, log 27). -/
def beginsStream (s : State) (p : Packet) : Bool :=
  orderedVc p.vc p.ord && p.msgid == p.syncid && (match findStream s false p.spkg p.vc with
    | some x => x.syncid != p.syncid
    | none => true)

/-- The first packet of a message opens a receive context, with its stream record (R299, R304, R307, R310, R315). -/
def openRecv (s : State) (p : Packet) : State :=
  let ordered := orderedVc p.vc p.ord
  let have0 := (findStream s false p.spkg p.vc).isSome
  if p.kind != 1 && alreadyDone s p then odBump s 0x5000 0x14 1
  else if 32768 ≤ contextsInUse s || (p.kind != 1 && decide (1048576 ≤ s.tombs.length)) || (ordered && !have0 && 16384 ≤ s.srecs.length) then
    sendResponse s (response s p 9 nakBUSY)
  else
    let s1 := if beginsStream s p then putStream s ⟨false, p.spkg, p.vc, p.syncid, 0, s.uptime⟩ else s
    { s1 with recvs := s1.recvs ++ [⟨p.spkg, p.msgid, [p], s.uptime⟩] }

/-- An arrival on an ordered stream keeps its record in use (R299). -/
def useStream (s : State) (p : Packet) : State :=
  if orderedVc p.vc p.ord then
    { s with srecs := mapFirst (fun r => !r.source && r.peer == p.spkg && r.vc == p.vc) (fun r => { r with usedAt := s.uptime }) s.srecs }
  else s

/-- A request packet for this package (R307, R310). -/
def takeRequest (s0 : State) (p : Packet) : State :=
  let s := useStream s0 p
  match findTomb s p.spkg p.msgid with
  | some t => sendResponse (odBump s 0x5000 0x14 1) t.answer
  | none =>
    match findRecv s p.spkg p.msgid with
    | some r =>
      if r.pkts.any (fun x => x.pkt == p.pkt) then odBump s 0x5000 0x14 1
      else { s with recvs := mapFirst (fun x => x.spkg == p.spkg && x.msgid == p.msgid) (fun x => { x with pkts := x.pkts ++ [p], gainedAt := s.uptime }) s.recvs }
    | none => openRecv s p

def isResponse (kind : Nat) : Bool := 8 ≤ kind && kind ≤ 0xA

/-- A whole packet has arrived at its destination. -/
def arrive (s : State) (p : Packet) : State := if isResponse p.kind then takeResponse s p else takeRequest s p

/-- A packet dropped for want of a route: NAK NOROUTE to its sender when it is a header alone or begins a message; a response is only
counted (R301). -/
def noRoute (s : State) (p : Packet) : State :=
  if isResponse p.kind then lostResponse s p
  else if p.payload = [] ∨ p.pkt = 0 then sendResponse s (response s p 9 nakNOROUTE) else s

/-- Deliver, send on, hold or drop a packet (R297, R300, R301). -/
def routePacket (s : State) (p : Packet) : State :=
  if seresPkg p.daddr = ownPkg s then arrive s p
  else if p.inPort < 16 ∧ p.hops = 12 then odBump s (0x5200 + p.inPort) 0x08 1
  else if behind s p then holdPacket s p
  else
    match choosePort s p with
    | .port q => sendOn s q p
    | .wait => holdPacket s p
    | .none => noRoute s p

/-! ### The source (R299, R305, R311, R315) -/

/-- Where the payload of a kept message has left memory since (R253). -/
def sourceGone (s : State) (m : SendMsg) : Option Nat :=
  match m.src with
  | some a => vacatedAt s a m.head.len
  | none => none

/-- Payload of a kept message and the POISON bits of packet k. -/
def msgPayload (s : State) (m : SendMsg) : List Byte :=
  if noPayload m.head.kind then [] else match m.src with
  | some a => memRead s a m.head.len
  | none => m.stored

def msgPoison (s : State) (m : SendMsg) (k : Nat) : Nat :=
  if noPayload m.head.kind then 0 else match m.src with
  | some a => poisonBits s (a + k * 4096) (packetBytes m.head.len k)
  | none => listGet 0 m.storedPoison k

/-- The timer of a message starts, as it does with its tail and with every re-send (R311). -/
def startTimer (s : State) (msgid : Nat) : State :=
  { s with sends := mapFirst (fun x => x.msgid == msgid) (fun x => { x with sentAt := s.uptime }) s.sends }

/-- Send the packets of a message that `want` names. -/
def transmit (s : State) (m : SendMsg) (want : Nat → Bool) : State :=
  let pay := msgPayload s m
  ((List.range (packetsOf pay.length)).filter want).foldl (fun s k => routePacket s (packetAt m.head pay (msgPoison s m k) k))
    (startTimer s m.msgid)

/-- Bytes in the hub's retransmit store: the payloads of ATOMIC and CONTROL messages and of reduction chunks (R305). -/
def storeUsed (s : State) : Nat := ((s.sends.filter (fun m => !m.waiting)).map (fun m => m.stored.length)).foldl (· + ·) 0

/-- A message can go out: the package has a number, a context, room in the store, and a stream record where it is ordered. -/
def canSend (s : State) (m : SendMsg) : Bool :=
  serving s && (m.ctx || sendContextFree s) && storeUsed s + m.stored.length ≤ 16777216 &&
    (!orderedVc m.head.vc m.head.ord || (findStream s true (seresPkg m.head.daddr) m.head.vc).isSome || s.srecs.length < 16384)

/-- A formed message can take a context, or go out. -/
def canMove (s : State) (m : SendMsg) : Bool := m.waiting && (canSend s m || (!m.ctx && sendContextFree s))

/-- Place a message in its ordered stream (R299). -/
def joinStream (s : State) (h : Packet) : Packet × State :=
  if orderedVc h.vc h.ord then
    let peer := seresPkg h.daddr
    match findStream s true peer h.vc with
    | some r => ({ h with syncid := r.syncid, oseq := r.next }, putStream s { r with next := (r.next + 1) % 2 ^ 24, usedAt := s.uptime })
    | none => ({ h with syncid := h.msgid, oseq := 0 }, putStream s ⟨true, peer, h.vc, h.msgid, 1, s.uptime⟩)
  else (h, s)

/-- First transmission of a message (R305); a GET names its landing address in this package (R292). -/
def launch (s : State) (m : SendMsg) : State :=
  let arg := if m.head.kind = 1 then seres (ownPkg s) (seresOff m.head.arg) else m.head.arg
  let j := joinStream s { m.head with spkg := ownPkg s, arg := arg }
  let m1 := { m with head := j.1, ctx := true, waiting := false }
  transmit (odBump { j.2 with sends := mapFirst (fun x => x.msgid == m.msgid) (fun _ => m1) j.2.sends } 0x5000 0x10 1) m1 (fun _ => true)

/-- Messages that wait go out in order as contexts, store and records free up (R299, R305, R315); `n` at most. -/
def pumpSends : Nat → State → State
  | 0, s => s
  | n + 1, s =>
    match s.sends.find? (canMove s) with
    | some m =>
      pumpSends n (if canSend s m then launch s m
        else { s with sends := mapFirst (fun x => x.msgid == m.msgid) (fun x => { x with ctx := true }) s.sends })
    | none => s

/-- Originate a message: it takes the next MSGID (R292) and goes out, or waits. -/
def originate (s : State) (head : Packet) (src : Option Nat) (stored : List Byte) (storedPoison : List Nat)
    (owner : Option (Nat × Nat × Nat)) (coll : Option (Nat × Nat × Nat)) : State × Nat :=
  let id := s.msgidNext
  let m : SendMsg := ⟨id, { head with msgid := id, vc := requestVc head.kind head.op head.ord }, src, stored, storedPoison, owner, 0, 0, s.uptime, [], s.uptime,
    coll, sendContextFree s, true⟩
  let s1 := { s with msgidNext := wrap 32 (id + 1), sends := s.sends ++ [m] }
  (if canSend s1 m then launch s1 m else s1, id)

def findSend (s : State) (msgid : Nat) : Option SendMsg := s.sends.find? (fun m => m.msgid == msgid && !m.waiting)
def dropSend (s : State) (msgid : Nat) : State := pumpSends 64 { s with sends := s.sends.filter (fun m => m.msgid != msgid) }
def putSend (s : State) (m : SendMsg) : State := { s with sends := mapFirst (fun x => x.msgid == m.msgid) (fun _ => m) s.sends }

/-- Send packets of a message again: counted against the resend limit (R311). -/
def resend (s : State) (m : SendMsg) (want : Nat → Bool) : State :=
  transmit (odBump (putSend s { m with resends := m.resends + 1, got := if m.head.kind = 1 then [] else m.got }) 0x5000 0x11 1) m want

/-- Re-sends left (R311). -/
def mayResend (s : State) (m : SendMsg) : Bool := m.resends < odGet s 0x5000 0x05

/-! ### The destination (R307, R308) -/

/-- Payload of a receive context, packet by packet. -/
def recvPayload (r : RecvCtx) : List Byte :=
  (List.range r.pkts.length).flatMap (fun k => (r.pkts.find? (fun p => p.pkt == k)).elim [] (fun p => p.payload))

def recvTail (r : RecvCtx) : Option Packet := r.pkts.find? (fun p => p.tail)

/-- The first packet of a context: every field of the message but its tail's. -/
def recvHead (r : RecvCtx) : Packet := ((r.pkts.find? (fun p => p.pkt == 0)).orElse (fun _ => r.pkts.head?)).getD Packet.blank

/-- The flits of the whole packets add up to TFLIT (R307, condition 1). -/
def recvWhole (r : RecvCtx) : Bool :=
  match recvTail r with
  | some t => (r.pkts.map (fun p => 1 + flitsOf p.payload.length)).foldl (· + ·) 0 == t.tflit
  | none => false

/-- Every earlier message of the stream has completed (R307, condition 3). -/
def recvInTurn (s : State) (r : RecvCtx) : Bool :=
  let h := recvHead r
  !orderedVc h.vc h.ord ||
    (match findStream s false r.spkg h.vc with
     | some x => x.syncid == h.syncid && (h.oseq == x.next || (h.kind == 1 && alreadyDone s h))
     | none => false)

/-- The CRC-64 over the payload matches (R307, condition 2). -/
def recvCrcOk (r : RecvCtx) : Bool := match recvTail r with | some t => crc64 (recvPayload r) == t.mcrc | none => false

/-- Poisoned ranges of a landing at an offset: the flits whose POISON bit is set (R314). -/
def recvBad (r : RecvCtx) (at0 : Nat) : List (Nat × Nat) :=
  r.pkts.flatMap (fun p => ((List.range 64).filter (fun f => bitOf p.poison f)).map (fun f => (at0 + p.pkt * 4096 + f * 64, 64)))

/-- The message of a stream has ended here: the next one is expected (R299). -/
def advanceStream (s : State) (r : RecvCtx) : State :=
  let h := recvHead r
  if orderedVc h.vc h.ord then
    match findStream s false r.spkg h.vc with
    | some x => if h.oseq = x.next then putStream s { x with next := (x.next + 1) % 2 ^ 24 } else s
    | none => s
  else s

/-- End a message at its destination with an answer: tombstone, answer, context freed (R308, R310). -/
def answerMsg (s : State) (r : RecvCtx) (a : Packet) : State :=
  let s1 := advanceStream s r
  let s2 := { (dropRecv s1 r.spkg r.msgid) with tombs := s1.tombs ++ [⟨r.spkg, r.msgid, a, s.uptime⟩] }
  pumpSends 64 (sendResponse s2 a)

/-- No tombstone is free for a message that needs one (R304, R310). -/
def tombsFull (s : State) : Bool := 1048576 ≤ s.tombs.length

/-- Refuse for now: the context is freed and the answer is no final one (R304). -/
def busyMsg (s : State) (r : RecvCtx) : State :=
  pumpSends 64 (sendResponse (dropRecv s r.spkg r.msgid) (response s (recvHead r) 9 nakBUSY))

/-- A CRC mismatch discards every packet held (R308); the context is held until the message completes (R315). -/
def crcMsg (s : State) (r : RecvCtx) : State :=
  sendResponse { s with recvs := mapFirst (fun x => x.spkg == r.spkg && x.msgid == r.msgid) (fun x => { x with pkts := [] }) s.recvs }
    (response s (recvHead r) 9 nakCRC)

/-- A context whose message may complete: whole, of the right kind, in turn; served while the hub serves (R307, R317). -/
def readyRecv (s : State) (spkg msgid kind : Nat) : Option RecvCtx :=
  match findRecv s spkg msgid with
  | some r => if serving s && recvWhole r && (recvHead r).kind == kind && recvInTurn s r then some r else none
  | none => none

end Sys2Proof.Machine
end

