-- ==== Sys2Proof/Machine/Transfer.lean ====
section
/-! DEFINITION. The transfer commands (R239 to R242): COPY, XPOSE through a hawk, the screed streams and the landing of their tiles, and the
end of a pass, at which a screed slot is refilled. -/

namespace Sys2Proof.Machine

/-- The first admitted command of a queue with an opcode. -/
def runCmd (s : State) (u q op : Nat) : Option Cmd := (qCmds s u q).find? (fun c => c.op == op && c.stage == .admitted)

/-- End a command FAULT with a code of R430 against its core or sweep unit. -/
def faultCmd (s : State) (c : Cmd) (code unit detail : Nat) : State :=
  failCmd s c stFAULT code (cmdReport s c code unit detail noPeer none)

/-- The fault of a write that meets a sealed place (R265). -/
def sealedFault (s : State) (c : Cmd) (a : Nat) : State :=
  faultCmd s c 0x4002 (stackUnit (translate s a).stack (translate s a).channel) a

/-! ### COPY (R239) -/

/-- What a COPY reads: bytes, and whether a host read delivered them poisoned (R239, R486, R531). -/
def copySource (s : State) (w : CmdWord) (host : HostAns) : (List Byte × Bool) × State :=
  if cpSHOST w then
    if host.ok && hostOk s (cpSRC w) (cpLEN w) false && hostPath s && host.data.length == cpLEN w then ((host.data, host.poisoned), s)
    else
      let r := freeBytes s (cpLEN w)
      ((r.1, true), r.2)
  else ((memRead s (cpSRC w) (cpLEN w), false), s)

/-- Move the bytes; poisoned sources leave their destinations poisoned (R260). -/
def copyMove (s : State) (c : Cmd) (host : HostAns) : State :=
  let w := c.word
  let r := copySource s w host
  let d := r.1.1
  let bad := copyMarks s w (cpLEN w) r.1.2
  if cpDHOST w then finishCmd (hostWrite r.2 (cpDST w) d bad) c stOK
  else
    localWrite r.2 [(cpDST w, cpLEN w)] (fun t => finishCmd (memWriteBad t (cpDST w) d bad) c stOK)

/-- COPY: an address that became illegal after issue ends it FAULT (R253, R265). -/
def copyCmd (s : State) (c : Cmd) (host : HostAns) : State :=
  let w := c.word
  let src := if cpSHOST w || isTallyWord s (cpSRC w) (cpLEN w) then none else vacatedAt s (cpSRC w) (cpLEN w)
  let dst := if cpDHOST w then none else vacatedAt s (cpDST w) (cpLEN w)
  match minOpt src dst with
  | some a => faultCmd s c 0x4001 (unitOf c.u) a
  | none => if !cpDHOST w && sealedRange s (cpDST w) (cpLEN w) then sealedFault s c (cpDST w) else copyMove s c host

/-- COPY (R239). -/
def execCopy (u q : Nat) (host : HostAns) (s : State) : Host.Outcome State Fault Refusal :=
  .next (match runCmd s u q 0x80 with
    | some c => copyCmd s c host
    | none => s)

/-! ### XPOSE (R240) -/

def xpHAWK (w : CmdWord) : Nat := fld w 104 104
def xpSSP (w : CmdWord) : Bool := fld w 105 105 == 1
def xpREBLK (w : CmdWord) : Bool := fld w 106 106 == 1
def xpHRM (w : CmdWord) : Bool := fld w 107 107 == 1
def xpFMT (w : CmdWord) : Nat := fld w 111 108
def xpNT (w : CmdWord) : Nat := fld w 116 112
def xpSRC (w : CmdWord) : Nat := fld w 160 117
def xpSSCL (w : CmdWord) : Nat := fld w 204 161
def xpDST (w : CmdWord) : Nat := fld w 228 205
def xpDSCL (w : CmdWord) : Nat := fld w 252 229

/-- Stored size of a tile (R240). -/
def xpSize (w : CmdWord) : Nat := fmtBytes (xpFMT w) 16384

/-- Local offsets of source and destination tile t and of their scales. -/
def xpSrcAt (c : Cmd) (t : Nat) : Nat := (if xpSSP c.word then xpSRC c.word else scr c.u (xpSRC c.word)) + t * xpSize c.word
def xpSsclAt (c : Cmd) (t : Nat) : Nat := (if xpSSP c.word then xpSSCL c.word else scr c.u (xpSSCL c.word)) + t * 512
def xpDstAt (c : Cmd) (t : Nat) : Nat := scr c.u (xpDST c.word) + t * xpSize c.word
def xpDsclAt (c : Cmd) (t : Nat) : Nat := scr c.u (xpDSCL c.word) + t * 512

/-- Source tile t; the axis of its MX blocks is a free value (log 23). -/
def xpTile (s : State) (c : Cmd) (axis t : Nat) : HawkTile :=
  let f := xpFMT c.word
  ⟨f, axis, readCodes s (xpSrcAt c t) f 16384, if isMX f then (memRead s (xpSsclAt c t) 512).map BitVec.toNat else [],
   minOpt (lowestBad s (xpSrcAt c t) (xpSize c.word)) (if isMX f then lowestBad s (xpSsclAt c t) 512 else none)⟩

/-- The transposed tile: element (r, x) of the output is element (x, r) of the source, and every block keeps its elements (R240). -/
def transposeTile (t : HawkTile) : HawkTile :=
  ⟨t.fmt, 1 - t.axis, (List.range 128).flatMap (fun r => (List.range 128).map (fun x => listGet 0 t.codes (x * 128 + r))),
   if !isMX t.fmt then []
   else if t.axis = 0 then (List.range 4).flatMap (fun b => (List.range 128).map (fun x => listGet 127 t.scales (x * 4 + b)))
   else (List.range 128).flatMap (fun r => (List.range 4).map (fun b => listGet 127 t.scales (b * 128 + r))), t.poison⟩

/-- One tile of an XPOSE: transposed, and re-blocked along its new rows when REBLK selects it (R144, R146), each
element with the draws of its output lane, its position in the output row (R147). -/
def xposeTile (s : State) (c : Cmd) (axis t : Nat) : State × Flags :=
  let w := c.word
  let out := transposeTile (xpTile s c axis t)
  let b : Blocks × HawkTile := if xpREBLK w then blocksOnto s out 0 (xpHRM w) c.epoch (fun _ x => hawkStream c.u (xpHAWK w) x)
    else (⟨[], 0, 0, s⟩, out)
  let s1 := memWrite b.1.st (xpDstAt c t) (packCodes (xpFMT w) b.2.codes)
  let s2 := if isMX (xpFMT w) then memWrite s1 (xpDsclAt c t) (b.2.scales.map (BitVec.ofNat 8)) else s1
  (if b.1.changed = 0 then s2 else odBump s2 (0x3200 + c.u) 0x0A b.1.changed, b.1.fl)

/-- The lowest poisoned offset among an XPOSE's sources, and where they left memory (R143, R253). -/
def xposePoison (s : State) (c : Cmd) : Option Nat :=
  minOpts ((List.range (xpNT c.word)).map (fun t => (xpTile s c 0 t).poison))
def xposeVacated (s : State) (c : Cmd) : Option Nat :=
  if xpSSP c.word then
    minOpt (vacatedAt s (xpSrcAt c 0) (xpNT c.word * xpSize c.word))
      (if isMX (xpFMT c.word) then vacatedAt s (xpSsclAt c 0) (xpNT c.word * 512) else none)
  else none

/-- Every tile, in order. -/
def xposeRun (s : State) (c : Cmd) : State :=
  let ax := sourceAxis s
  let r := (List.range (xpNT c.word)).foldl (fun (x : State × Flags) t =>
    let o := xposeTile x.1 c ax.1 t
    (o.1, x.2 ||| o.2)) (ax.2, 0)
  reportCured (finishCmd r.1 { c with flags := c.flags ||| r.2 } stOK) c

/-- An uncorrectable hawk slot re-runs the command once (R143). -/
def xposeSlotError (s : State) (c : Cmd) (slot : Nat) : State :=
  let d := pack3 (xpHAWK c.word) slot 0
  if c.rerun then faultCmd s c 0x1010 (unitOf c.u) d
  else
    let r := curedReport s c 0x1010 (unitOf c.u) d none
    putCmd r.2 { c with rerun := true, firstFault := some r.1 }

def xposeCmd (s : State) (c : Cmd) (ev : MatEvent) : State :=
  match xposeVacated s c, xposePoison s c, ev with
  | some a, _, _ => faultCmd s c 0x4001 (unitOf c.u) a
  | none, some a, _ => failCmd s c stPOISON 0x3002 (cmdReport s c 0x3002 (unitOf c.u) a noPeer none)
  | none, none, .hawkSlot _ slot => xposeSlotError s c slot
  | none, none, _ => xposeRun s c

/-- XPOSE (R240). -/
def execXpose (u q : Nat) (ev : MatEvent) (s : State) : Host.Outcome State Fault Refusal :=
  .next (match runCmd s u q 0x81 with
    | some c => xposeCmd s c ev
    | none => s)

/-! ### Screed streams (R241, R242) -/

/-- Ask for one tile: a GET of its elements and, in the MX formats, one of its scales, landing in the tile's slot. -/
def askTile (s : State) (x : Screed) : State :=
  let t := x.asked
  let n := fmtBytes x.wfmt 16384
  let slot := scr x.core (screedSlot x t)
  let g1 := originate s { Packet.blank with daddr := x.src + t * n, kind := 1, len := n, tail := true, tflit := 1, arg := slot } none [] [] none none
  let g2 := if isMX x.wfmt then
      originate g1.1 { Packet.blank with daddr := seres (seresPkg x.src) (x.sscl + t * 512), kind := 1, len := 512, tail := true, tflit := 1, arg := slot }
        none [] [] none none
    else (g1.1, g1.2)
  putScreed g2.1 { x with asked := t + 1, flight := x.flight ++ [(t, g1.2, g2.2)] }

/-- Two slots of a core's scratch meet. -/
def slotsMeet (x : Screed) (t : Nat) (y : Screed) (k : Nat) : Bool :=
  screedSlot x t < screedSlot y k + slotSize y.cfmt && screedSlot y k < screedSlot x t + slotSize x.cfmt

/-- A command that holds tiles which it has claimed of a stream. -/
def holdsTiles (x : Screed) (c : Cmd) : Bool :=
  c.u == x.core && c.q == x.q && c.op == 0x20 && c.stage != .fetched && c.stage != .done && screedNeed c.word != 0 &&
    mmWSTRM c.word == x.strm && c.run.stream == x.serial

/-- The first claimed tile of a stream that some pass has yet to read to its end (R242, rule 4): the claimed ones before it are read. -/
def firstUnread (s : State) (x : Screed) : Nat :=
  ((s.cmds.filter (fun c => holdsTiles x c && c.run.passes < mmPasses c.word)).map
    (fun c => c.run.claimAt + c.run.passes * screedPer c.word)).foldl min x.claimed

/-- The slot of tile t is free: the pass that read it has ended (R242, rule 4), and so has that of every claimed tile of an earlier stream of the
screed that lies there (rule 1). -/
def slotFree (s : State) (x : Screed) (t : Nat) : Bool :=
  t < firstUnread s x + 2 ^ x.rs && (streamsOf s x.core x.strm).all (fun y => (y.q == x.q && y.serial == x.serial) ||
    (List.range (min (y.claimed - firstUnread s y) (2 ^ y.rs))).all (fun i => !slotsMeet x t y (firstUnread s y + i)))

/-- Ask for every tile of a stream whose slot is free, `n` at most. -/
def askTiles : Nat → State → Screed → State
  | 0, s, _ => s
  | n + 1, s, x =>
    match (streamsOf s x.core x.strm).find? (fun y => y.q == x.q && y.serial == x.serial) with
    | some y => if y.asked < y.nt && slotFree s y y.asked then askTiles n (askTile s y) y else s
    | none => s

/-- Ask for the tiles of every stream of a screed, the earlier ones first. -/
def askAll (s : State) (core strm : Nat) : State := (streamsOf s core strm).reverse.foldl (askTiles 16) s

/-- A command still holds tiles that it has claimed of a stream. -/
def tilesHeld (s : State) (x : Screed) : Bool := s.cmds.any (holdsTiles x)

/-- Begin a stream: of the stream before it, the tiles that no command has claimed are discarded (R242, rule 1). -/
def startScreed (s : State) (c : Cmd) : State :=
  let w := c.word
  let x : Screed := ⟨c.u, fld w 104 104, c.u, c.q, c.serial, fld w 205 142, fld w 249 206, fld w 141 130, fld w 129 116, fld w 115 112,
    fld w 111 108, fld w 107 105, 0, 0, 0, false, []⟩
  let before := (s.screeds.filter (fun y => !(y.core == c.u && y.strm == x.strm) || tilesHeld s y)).map (fun y =>
    if y.core == c.u && y.strm == x.strm then { y with nt := y.claimed } else y)
  askAll (putCmd { s with screeds := x :: before } { c with stage := .parked }) c.u x.strm

/-- SCREED (R241). -/
def execScreed (u q : Nat) (s : State) : Host.Outcome State Fault Refusal :=
  .next (match runCmd s u q 0x82 with
    | some c => startScreed s c
    | none => s)

/-- Every packet of a GET has landed and its CRC-64 matches (R308). -/
def getBytes (m : SendMsg) : List Byte :=
  (List.range m.got.length).flatMap (fun k => (m.got.find? (fun p => p.pkt == k)).elim [] (fun p => p.payload))
def getTail (m : SendMsg) : Option Packet := m.got.find? (fun p => p.tail)
def getAll (m : SendMsg) : Bool :=
  match getTail m with
  | some t => (m.got.map (fun p => 1 + flitsOf p.payload.length)).foldl (· + ·) 0 == t.tflit
  | none => false
def getCrcOk (m : SendMsg) : Bool := match getTail m with | some t => crc64 (getBytes m) == t.mcrc | none => false
def getReady (m : SendMsg) : Bool := m.head.kind == 1 && getAll m && getCrcOk m

/-- Poisoned ranges of GET-DATA that lands at an offset. -/
def getBad (m : SendMsg) (at0 : Nat) : List (Nat × Nat) :=
  m.got.flatMap (fun p => ((List.range 64).filter (fun f => bitOf p.poison f)).map (fun f => (at0 + p.pkt * 4096 + f * 64, 64)))

/-- Codes widened to a wider format, exactly (R52). -/
def widenCode (wf cf code : Nat) : Nat := if wf = cf then code else (convert cf .near false (decodeFmt wf code)).1
def widenBytes (wf cf n : Nat) (l : List Byte) : List Byte :=
  if wf = cf then l
  else
    let v := leNat l
    packCodes cf ((List.range n).map (fun i => widenCode wf cf (elemBits v (fmtBits wf) i)))

/-- A poisoned flit of elements poisons the sectors that its elements take after widening. -/
def widenBad (wf cf at0 : Nat) (m : SendMsg) : List (Nat × Nat) :=
  (getBad m 0).map (fun r =>
    let lo := r.1 * 8 / fmtBits wf * fmtBits cf / 8
    let hi := ceilDiv' (ceilDiv' ((r.1 + r.2) * 8) (fmtBits wf) * fmtBits cf) 8
    (at0 + lo, hi - lo))

/-- The next tile of a stream, when both its messages have landed. -/
def landedTile (s : State) (x : Screed) : Option (Nat × SendMsg × SendMsg) :=
  match x.flight.find? (fun f => f.1 == x.landed) with
  | some f =>
    match findSend s f.2.1, findSend s f.2.2 with
    | some a, some b => if getReady a && getReady b then some (f.1, a, b) else none
    | _, _ => none
  | none => none

/-- Complete the SCREED of a stream whose last tile has landed (R241). -/
def finishScreed (s : State) (x : Screed) : State :=
  if x.landed = x.nt && !x.completed then
    let s1 := putScreed s { x with completed := true }
    match findCmd s1 x.u x.q x.serial with
    | some c => if c.op = 0x82 && c.stage == .parked then finishCmd s1 c stOK else s1
    | none => s1
  else s

/-- Land a tile in its slot, widened, with its scales (R241). -/
def landTile (s : State) (x : Screed) (t : Nat) (a b : SendMsg) : State :=
  let at0 := scr x.core (screedSlot x t)
  let sclAt := at0 + fmtBytes x.cfmt 16384
  let s1 := memWriteBad s at0 (widenBytes x.wfmt x.cfmt 16384 (getBytes a)) (widenBad x.wfmt x.cfmt at0 a)
  let s2 := if isMX x.cfmt then memWriteBad s1 sclAt (getBytes b) (getBad b sclAt) else s1
  let x1 := { x with landed := t + 1, flight := x.flight.filter (fun f => f.1 != t) }
  finishScreed (dropSend (dropSend (putScreed s2 x1) a.msgid) b.msgid) x1

/-- The next tile to land on a screed, with its stream. -/
def tileToLand (s : State) (core strm : Nat) : Option (Screed × Nat × SendMsg × SendMsg) :=
  (streamsOf s core strm).findSome? (fun x => (landedTile s x).map (fun r => (x, r)))

/-- SCREED_TILE_LAND (R241, R242): the next tile lands, and the tiles whose slots are free are asked for. -/
def execScreedTileLand (core strm : Nat) (s : State) : Host.Outcome State Fault Refusal :=
  .next (match tileToLand s core strm with
    | some r => askAll (landTile s r.1 r.2.1 r.2.2.1 r.2.2.2) core strm
    | none => askAll s core strm)

/-- PASS_END (R69, R124): a screed slot that the pass read is refilled (R242, rule 4). -/
def execPassEnd (u q : Nat) (s : State) : Host.Outcome State Fault Refusal :=
  .next (match matCmd s u q (fun c => c.run.inPass) with
    | some c => if screedNeed c.word = 0 then passEnd s c else askAll (passEnd s c) c.u (mmWSTRM c.word)
    | none => s)

end Sys2Proof.Machine
end

