-- ==== Sys2Proof/Machine/Collective.lean ====
section
/-! DEFINITION. Collectives (R348 to R389): channels and their tree, the chunks of a reduction with their digests and second passes, the
side record, the verdict word, gathers and permutes. -/

namespace Sys2Proof.Machine

/-! ### Channels (R348 to R353) -/

def crRANK (r : Nat) : Nat := bits r 210 20
def crRTAB (r : Nat) : Nat := bits r 166 44
def crPERM (r : Nat) : Nat := bits r 122 44
def crSTG (r : Nat) : Nat := bits r 78 44
def crW (r : Nat) : Nat := bits r 74 4
def crDT (r : Nat) : Nat := bits r 62 12
def crSAMP (r : Nat) : Nat := bits r 57 5
def crLATE (r : Nat) : Nat := bits r 41 16
def crCLIM (r : Nat) : Nat := bits r 25 16

def getChan (s : State) (ch : Nat) : Option Chan := s.chans.find? (fun k => k.id == ch)
def putChan (s : State) (k : Chan) : State := { s with chans := mapFirst (fun x => x.id == k.id) (fun _ => k) s.chans }

/-- A channel's record; it is fixed while the channel is bound to it. -/
def Chan.crec (s : State) (k : Chan) : Nat := chanRecord s k.id
def Chan.backup (s : State) (k : Chan) : Bool := crROLE (k.crec s) == 2
def Chan.serial (s : State) (k : Chan) : Nat := odGet s (0x9100 + k.id) 0x05
def Chan.rank (s : State) (k : Chan) : Nat := crRANK (k.crec s)

/-- Rank at a tree position, and the position of a rank (R349, R354). -/
def Chan.rankAt (k : Chan) (t : Nat) : Nat := listGet 0 k.perm t
def Chan.posOf (k : Chan) (r : Nat) : Nat := k.perm.findIdx (· == r)
def Chan.pos (s : State) (k : Chan) : Nat := k.posOf (k.rank s)
def Chan.pkgOf (k : Chan) (r : Nat) : Nat := listGet 0xFFFFF k.ranks r
def Chan.backupOf (k : Chan) (r : Nat) : Option Nat := (k.backups.find? (fun b => b.1 == r)).map (·.2)

/-- Ranks of the neighbours in the tree (R354). -/
def Chan.parent (s : State) (k : Chan) : Option Nat := if k.pos s = 0 then none else some (k.rankAt ((k.pos s - 1) / 2))
def Chan.child (s : State) (k : Chan) (right : Bool) : Option Nat :=
  let t := 2 * k.pos s + (if right then 2 else 1)
  if t < k.ranks.length then some (k.rankAt t) else none
def Chan.root (s : State) (k : Chan) : Bool := k.pos s == 0 && !k.backup s

/-! ### REDUCE fields (R246) and chunks (R355) -/

def rdMODE (w : CmdWord) : Nat := fld w 111 110
def rdSFMT (w : CmdWord) : Nat := fld w 115 112
def rdVERD (w : CmdWord) : Bool := fld w 116 116 == 1
def rdCOUNT (w : CmdWord) : Nat := fld w 144 117
def rdSRC (w : CmdWord) : Nat := fld w 176 145 * 4096
def rdDST (w : CmdWord) : Nat := fld w 208 177 * 4096
def rdSIDE (w : CmdWord) : Nat := fld w 246 209 * 64

def chunkCount (w : CmdWord) : Nat := ceilDiv' (rdCOUNT w) 16384
def chunkLen (w : CmdWord) (c : Nat) : Nat := min 16384 (rdCOUNT w - c * 16384)

/-- Offset of an area of the slot of a chunk (R356). -/
def areaAt (r c area : Nat) : Nat := crSTG r + (c % crW r * 6 + area) * 65536

/-- Fields of a side record (R364). -/
def sdTAG (d : Nat) : Nat := bits d 480 32
def sdROW0 (d : Nat) : Nat := bits d 448 32
def sdCOL0 (d : Nat) : Nat := bits d 416 32
def sdSSQ (d : Nat) : Nat := bits d 384 32
def sdDIG (d : Nat) : Nat := bits d 340 44
def sdLNW (d : Nat) : Nat := bits d 336 4
def sdDMODE (d : Nat) : Bool := bitOf d 335
def sdRSQ (d : Nat) : Bool := bitOf d 334
def sdSNF (d : Nat) : Bool := bitOf d 333

/-- A side record that breaks R364, or that cannot be read. -/
def badSide (s : State) (w : CmdWord) : Bool :=
  let d := memNat s (rdSIDE w) 64
  !inJob s (rdSIDE w) 64 || (lowestBad s (rdSIDE w) 64).isSome || bits d 0 333 != 0 || 14 < sdLNW d || sdDIG d % 4 != 0
    || (sdDMODE d && !inJob s (sdDIG d) (4 * chunkCount w)) || rdCOUNT w % 2 ^ sdLNW d != 0

/-! ### Values -/

/-- The 64-bit word of R365 and R370. -/
def mix64 (x : Word64) : Word64 :=
  let y := (x ^^^ (x >>> 31)) * 0x94D049BB133111EB#64
  y ^^^ (y >>> 29)

/-- A digest sign is negative (R365). -/
def signNeg (seed tag axis i : Nat) : Bool :=
  ((mix64 (BitVec.ofNat 64 seed ^^^ (BitVec.ofNat 64 tag * 0x9E3779B97F4A7C15#64)
    ^^^ (BitVec.ofNat 64 (2 * i + axis) * 0xD1B54A32D192ED03#64))).toNat) % 2 == 1

/-- A chunk is sampled (R370). -/
def sampledChunk (seed chan serial c samp : Nat) : Bool :=
  samp != 31 && ((mix64 (BitVec.ofNat 64 seed ^^^ (BitVec.ofNat 64 chan * 0x9E3779B97F4A7C15#64)
    ^^^ (BitVec.ofNat 64 (serial * 65536 + c) * 0xD1B54A32D192ED03#64))).toNat) % 2 ^ samp == 0

/-- Little-endian FP32 values of a string of bytes. -/
def words32 : Nat → List Byte → List Nat
  | 0, _ => []
  | n + 1, l => leNat (l.take 4) :: words32 n (l.drop 4)
def bytes32 (l : List Nat) : List Byte := l.flatMap (leBytes 4)

def nonFinite32 (x : Nat) : Bool := (v32 x).nonFinite

/-- Canonical NaNs at the elements of poisoned sectors of 16 FP32 words (R377). -/
def poisonNaN (bad : Nat → Bool) (l : List Nat) : List Nat := l.mapIdx (fun i x => if bad (i / 16) then c32NaN else x)

/-- A value of the port adders with the flags raised so far (R62). -/
abbrev Sum := Nat × Flags

/-- The NFIN flag of operands read (R62). -/
def readFlags (l : List Nat) : Flags := if l.any nonFinite32 then fNFIN else 0

/-- One port addition, with its flags. -/
def addTo (a : Sum) (x : Nat) : Sum :=
  let t := add32 a.1 x
  (t.1, a.2 ||| t.2)

/-- Elements added in pairs by port adders (R360), and the flags of those lanes (R59, R62; DESIGN CHOICE, log 165). -/
def addAll (a b : List Nat) : List Nat × Flags :=
  let t := (a.zip b).map (fun p => add32 p.1 p.2)
  (t.map (·.1), readFlags a ||| readFlags b ||| orFlags (t.map (·.2)))

/-- Bytes of an element of SRC, and the offset of a chunk's first. -/
def srcSize (w : CmdWord) : Nat := if rdSFMT w = 0 then 4 else 2
def srcAt (w : CmdWord) (c : Nat) : Nat := rdSRC w + c * 16384 * srcSize w

/-- The elements of this position's own chunk, widened to FP32 (R360), each with whether its sector is poisoned. -/
def ownElements (s : State) (w : CmdWord) (c : Nat) : List (Nat × Bool) :=
  let bad := badSectors s (srcAt w c) (chunkLen w c * srcSize w)
  (readCodes s (srcAt w c) (rdSFMT w) (chunkLen w c)).mapIdx (fun i x =>
    (if rdSFMT w = 0 then x else (widen32 (decodeFmt 1 x)).1, bad.contains ((srcAt w c + i * srcSize w) / 64)))

/-- This position's own chunk, and whether a sector of it is poisoned: such elements enter as canonical NaNs (R377). -/
def ownChunk (s : State) (w : CmdWord) (c : Nat) : List Nat × Bool :=
  let l := ownElements s w c
  (l.map (fun p => if p.2 then c32NaN else p.1), l.any (·.2))

/-- SRC itself holds a non-finite element in the chunk (R376). -/
def ownNonFinite (s : State) (w : CmdWord) (c : Nat) : Bool := (ownElements s w c).any (fun p => !p.2 && nonFinite32 p.1)

/-- The positions of a port lane in a chunk of n elements. -/
def laneOf (n lane : Nat) : List Nat := ((List.range (ceilDiv' n 128)).map (fun j => j * 128 + lane)).filter (· < n)

/-- Lane accumulators, then their sum in ascending lane order (R367): `f` accumulates an element at its position. -/
def laneSums (f : Sum → Nat → Nat → Sum) (l : List Nat) : Sum :=
  (List.range 128).foldl (fun acc lane =>
    let d := (laneOf l.length lane).foldl (fun a p => f a p (listGet 0 l p)) (0, 0)
    let t := addTo acc d.1
    (t.1, t.2 ||| d.2)) (0, 0)

def negIf (b : Bool) (x : Nat) : Nat := if b then (x + 2 ^ 31) % 2 ^ 32 else x

/-- Digest d and magnitude A of a chunk, with the flags of the lanes (R366, R367). -/
def digest (seed side c : Nat) (l : List Nat) : (Nat × Nat) × Flags :=
  let nw := 2 ^ sdLNW side
  let d := laneSums (fun a p x => addTo a (negIf (signNeg seed (sdTAG side) 0 (sdROW0 side + (c * 16384 + p) / nw)
      != signNeg seed (sdTAG side) 1 (sdCOL0 side + (c * 16384 + p) % nw)) x)) l
  let m := laneSums (fun a _ x => addTo a (x % 2 ^ 31)) l
  ((d.1, m.1), d.2 ||| m.2)

/-- The sum of squares of a result chunk by the digest lanes (R379). -/
def laneSquares (l : List Nat) : Sum := laneSums (fun a _ x => let t := fma32 x x a.1; (t.1, a.2 ||| t.2)) l

/-- |d - claim| ≤ DT × 2^-20 × A + 2^-126 (R367), each operation in FP32 rounded to nearest (R58): DT × 2^-20 is exact, its product with A and
the sum are each rounded (DEDUCED, log 54). -/
def digestPasses (dt claim : Nat) (dA : Nat × Nat) : Bool :=
  let diff := (v32 (sub32 dA.1 claim).1).abs
  let tol := v32 (add32 (mul32 (rn32 (.fin false dt (-20))).1 dA.2).1 (rn32 (.fin false 1 (-126))).1).1
  !diff.isNaN && !tol.isNaN && !Val.lt tol diff

/-! ### Starting a collective (R353, R364) -/

/-- DETAIL of channel, serial and chunk (R430). -/
def chanDetail (ch serial c : Nat) : Nat := pack3 ch (serial % 65536) c

/-- The channel of a parked or admitted collective command. -/
def collChan (s : State) (c : Cmd) : Option Chan := getChan s (fld c.word 109 104)

/-- A channel becomes ACTIVE with a command's collective, on the seed and the step norm of its admission (R380, R388). -/
def startColl (s : State) (c : Cmd) (k : Chan) (kind side : Nat) : State :=
  let run : Coll := ⟨kind, c.u, c.q, c.serial, c.word, c.begun.seed, side, c.begun.norm, c.begun.flag, c.begun.admittedAt,
    [], 0, false, 0, false, false⟩
  putCmd (odSet (putChan s { k with run := some run, stopped := false }) (0x9100 + k.id) 0x01 2) { c with stage := .parked }

/-- The collective of a channel has completed (R363, R389). -/
def finishColl (s : State) (k : Chan) (r : Coll) : State :=
  let s1 := odBump (endColl s k false) (0x9100 + k.id) 0x0D 1
  match findCmd s1 r.u r.q r.serial with
  | some c => finishCmd s1 c stOK
  | none => s1

/-- The command of a collective takes the flags that its lanes raised (R62). -/
def flagColl (s : State) (r : Coll) (f : Flags) : State :=
  match findCmd s r.u r.q r.serial with
  | some c => putCmd s { c with flags := c.flags ||| f }
  | none => s

/-- A chunk held or formed with NFIN is counted (R389). -/
def countNonFinite (s : State) (ch : Nat) (nfin : Bool) : State := if nfin then odBump s (0x9100 + ch) 0x0C 1 else s

/-- Messages of a channel's collective that are not acknowledged. -/
def outstanding (s : State) (k : Chan) : List SendMsg :=
  s.sends.filter (fun m => match m.coll with | some x => x.1 == k.id && x.2.1 == k.serial s | none => false)

def chanOwner (r : Coll) : Option (Nat × Nat × Nat) := some (r.u, r.q, r.serial)

/-! ### Choosing copies (R367, R369, R374, R378) -/

def getChunk (k : Chan) (c : Nat) : Chunk := (k.chunks.find? (fun x => x.c == c)).getD ⟨c, [], none, none, false, false, 0, false, 0⟩
def putChunk (k : Chan) (x : Chunk) : Chan := { k with chunks := x :: k.chunks.filter (fun y => y.c != x.c) }

/-- Raw chunk in an area (R356). -/
def areaWords (s : State) (k : Chan) (w : CmdWord) (c area : Nat) : List Nat :=
  words32 (chunkLen w c) (memRead s (areaAt (k.crec s) c area) (4 * chunkLen w c))

/-- Whether a copy passes, NaN-as-fault first, then the digest where it applies (R367, R378), and the flags of its lanes. -/
def copyPasses (s : State) (k : Chan) (r : Coll) (c : Nat) (x : ChunkCopy) : Bool × Flags :=
  if x.nfin then (odGet s 0x9000 0x0E == 0, 0)
  else if !x.dge then (true, 0)
  else
    let d := digest r.seed r.side c (areaWords s k r.word c x.area)
    (digestPasses (crDT (k.crec s)) x.claim d.1, d.2)

/-- Compute the pass flags that are still open; a failing copy is counted and reported (R369). -/
def judgeCopies (s : State) (k : Chan) (r : Coll) (c : Nat) : State × Chunk :=
  (getChunk k c).copies.foldl (fun (a : State × Chunk) x =>
    match x.pass with
    | some _ => (a.1, { a.2 with copies := a.2.copies ++ [x] })
    | none =>
      let p := copyPasses s k r c x
      let s0 := flagColl a.1 r p.2
      let s1 := if p.1 then s0 else
        fileReport (snagSet (odBump s0 (0x9100 + k.id) 0x07 1) 130) (plainReport 0x8040 3 pkgUnit (chanDetail k.id (k.serial s) c) x.spkg)
      (s1, { a.2 with copies := a.2.copies ++ [{ x with pass := some p.1 }] }))
    (s, { (getChunk k c) with copies := [] })

/-- The copy of a child that is taken, if the choice can be made: an area, or 5 for a chunk of canonical NaNs (R369, R374, R378). -/
def chooseCopy (s : State) (x : Chunk) (right : Bool) (hasBackup : Bool) : Option Nat :=
  let find := fun (a : Nat) => x.copies.find? (fun y => y.area == a)
  let p := find (if right then 2 else 1)
  let b := if hasBackup then find (if right then 4 else 3) else none
  let good := fun (y : Option ChunkCopy) => match y with | some z => z.pass == some true | none => false
  let late := if right then x.lateR else x.lateL
  let pFailed := match p with | some z => z.pass == some false | none => false
  if good p then p.map (·.area)
  else if good b && (late || pFailed) then b.map (·.area)
  else if p.isSome && (b.isSome || !hasBackup) && !good b then
    -- every mapped copy has arrived and none passes
    if odGet s 0x9000 0x0E = 1 then
      (match ([p, b].filterMap id).find? (fun z => z.nfin) with | some z => some z.area | none => some 5)
    else some 5
  else none

/-- Make the choices of a chunk that can be made; a taken backup is counted (R375), and the left choice forms PARTIAL (R359). -/
def chooseSides (s : State) (k : Chan) (r : Coll) (c : Nat) : State × Chunk :=
  let j := judgeCopies s k r c
  let side := fun (a : State × Chunk) (right : Bool) =>
    match k.child s right with
    | none => a
    | some rank =>
      if (if right then a.2.right else a.2.left).isSome then a
      else
        match chooseCopy a.1 a.2 right (k.backupOf rank).isSome with
        | none => a
        | some area =>
          let s1 := if area = 3 ∨ area = 4 then odBump a.1 (0x9100 + k.id) 0x08 1 else a.1
          if right then (s1, { a.2 with right := some area })
          else
            let left := if area = 5 then List.replicate (chunkLen r.word c) c32NaN else areaWords s1 k r.word c area
            let sum := addAll (ownChunk s1 r.word c).1 left
            (memWrite (flagColl s1 r sum.2) (areaAt (k.crec s) c 0) (bytes32 sum.1), { a.2 with left := some area })
  side (side j false) true

/-! ### Forming a chunk (R354, R359 to R371) -/

/-- What a position has formed for a chunk. -/
structure Formed where
  words : List Nat
  claim : Nat
  dge : Bool
  nfin : Bool
  q : Nat
  snf : Bool
  flags : Flags

/-- This position's own claim and side values (R364, R368, R380). -/
def ownSide (s : State) (r : Coll) (c : Nat) : Formed :=
  let q := if c = 0 then (if rdVERD r.word then addTo (sdSSQ r.side, 0) r.norm else (sdSSQ r.side, 0)) else (0, 0)
  ⟨[], if sdDMODE r.side then memNat s (sdDIG r.side + 4 * c) 4 else 0, sdDMODE r.side, false, q.1,
   c == 0 && (sdSNF r.side || (rdVERD r.word && r.flag)), q.2⟩

/-- Add the side values of a copy taken; the claim of a chunk of canonical NaNs counts as 0 (R368, R369). -/
def addSide (first : Bool) (a : Formed) (y : Option ChunkCopy) : Formed :=
  let claim := addTo (a.claim, a.flags) (y.elim 0 (·.claim))
  match y with
  | none => { a with claim := claim.1, flags := claim.2 }
  | some z =>
    let q := if first then addTo (a.q, claim.2) z.q else (0, claim.2)
    { a with claim := claim.1, dge := a.dge && z.dge, q := q.1, snf := a.snf || (first && z.snf), flags := q.2 }

/-- The copies taken, left then right. -/
def takenCopies (x : Chunk) : List (Option ChunkCopy) :=
  ([x.left, x.right].filterMap id).map (fun a => x.copies.find? (fun y => y.area == a))

/-- Every child's copy of a chunk has been chosen. -/
def sidesReady (s : State) (k : Chan) (x : Chunk) : Bool :=
  ((k.child s false).isNone || x.left.isSome) && ((k.child s true).isNone || x.right.isSome)

/-- The sum of a chunk in the order of R354, with its claim, flags and side values (R368). -/
def formSum (s : State) (k : Chan) (r : Coll) (x : Chunk) : Formed :=
  let own := ownChunk s r.word x.c
  let base := if x.left.isSome then areaWords s k r.word x.c 0 else own.1
  let sum := match x.right with
    | some 5 => addAll base (List.replicate (chunkLen r.word x.c) c32NaN)
    | some a => addAll base (areaWords s k r.word x.c a)
    | none => (base, readFlags own.1)
  let sv := (takenCopies x).foldl (addSide (x.c == 0)) (ownSide s r x.c)
  let nfin := own.1.any nonFinite32 || sum.1.any nonFinite32 || (takenCopies x).any (fun y => y.elim true (·.nfin))
  { sv with words := sum.1, nfin := nfin, flags := sv.flags ||| sum.2 }

/-- Physical ports whose adders are in service, in ascending logical number (R371, R372). -/
def adderPorts (s : State) : List Nat :=
  ((List.range 16).map (physPort s)).filter (fun p => odGet s (0x5200 + p) 0x11 != 0)

/-- The port that adds a chunk arriving on `port` (R372). -/
def addingPort (s : State) (port : Nat) : Nat :=
  if odGet s (0x5200 + port) 0x11 != 0 && port < 16 then port else (adderPorts s).headD port

/-- Take the adders of a port out of service and report them (R371, steps 5 and 6). -/
def dropAdders (s : State) (detail : Nat) (p : Nat) : State :=
  fileCode (snagSet (odSet s (0x5200 + p) 0x11 0) (96 + p)) 0x8041 (portUnit p) detail

/-- A result becomes canonical NaNs with NFIN. -/
def Formed.nans (f : Formed) : Formed := { f with words := List.replicate f.words.length c32NaN, nfin := true }

/-- The port that adds a chunk: that of its last copy, where its adders are in service (R372). -/
def Chunk.adder (s : State) (x : Chunk) : Nat := addingPort s (x.copies.getLast?.elim 0 (·.port))

/-- A chunk is formed again (R371, steps 2 to 6): the check port's sum goes to CHECK. The chunk's `faults` say which of the adding, check and third
port add wrongly (bits 0, 1, 2): two right ports agree on the sum; otherwise all three differ and the chunk becomes canonical NaNs. -/
def recompute (s : State) (k : Chan) (x : Chunk) (f : Formed) : State × Formed :=
  let s1 := odBump (memWrite s (areaAt (k.crec s) x.c 5) (bytes32 f.words)) (0x9100 + k.id) 0x0A 1
  let a := x.adder s
  let others := (adderPorts s).filter (· != a)
  let detail := chanDetail k.id (k.serial s) x.c
  if x.faults % 4 = 0 then (s1, f)
  else
    let s2 := snagSet (odBump s1 (0x9100 + k.id) 0x0B 1) 131
    if x.faults % 8 = 1 then (dropAdders s2 detail a, f)
    else if x.faults % 8 = 2 then ((others.take 1).foldl (fun s p => dropAdders s detail p) s2, f)
    else (([a] ++ others.take 2).foldl (fun s p => dropAdders s detail p) s2, f.nans)

/-- The second pass of a sampled chunk, at every position that forms a sum (R370, R371): it meets the fault that the row which formed the chunk
first has named (DEDUCED, log 166). -/
def secondPass (s : State) (k : Chan) (r : Coll) (x : Chunk) (f : Formed) : State × Formed :=
  if !sampledChunk r.seed k.id (k.serial s) x.c (crSAMP (k.crec s)) || (k.child s false).isNone then (s, f) else recompute s k x f

/-- The root's check of a result against its outgoing claim passes, or does not apply (R367), and the flags of its lanes. -/
def resultPasses (s : State) (k : Chan) (r : Coll) (c : Nat) (f : Formed) : Bool × Flags :=
  if !f.dge || f.nfin then (true, 0)
  else
    let d := digest r.seed r.side c f.words
    (digestPasses (crDT (k.crec s)) f.claim d.1, d.2)

/-- The root checks its own result chunk (R367, R369): a failing result is computed again under R371; where that does not pass either, it becomes
canonical NaNs. -/
def rootCheck (s : State) (k : Chan) (r : Coll) (x : Chunk) (f : Formed) : State × Formed :=
  let p := resultPasses s k r x.c f
  let s0 := flagColl s r p.2
  if p.1 then (s0, f)
  else
    let g := recompute s0 k x f
    if !g.2.nfin && (resultPasses s k r x.c g.2).1 then g
    else (fileReport (snagSet g.1 130) (plainReport 0x8040 3 pkgUnit (chanDetail k.id (k.serial s) x.c) (ownPkg s)), f.nans)

/-- The report of a non-finite element in this package's own SRC: one for a reduction (R376). -/
def nonFiniteReport (s : State) (k : Chan) (r : Coll) (c : Nat) : State × Coll :=
  if ownNonFinite s r.word c && !r.reported then
    match findCmd s r.u r.q r.serial with
    | some cmd => (fileReport (snagSet s 134) (cmdReport s cmd 0x8042 pkgUnit (pack3 k.id (k.serial s % 65536) 0) noPeer none), { r with reported := true })
    | none => (s, r)
  else (s, r)

/-- Reports of this position's own contribution to a chunk (R376, R377). -/
def ownReports (s : State) (k : Chan) (r : Coll) (c : Nat) : State × Coll :=
  let detail := chanDetail k.id (k.serial s) c
  nonFiniteReport (if (ownChunk s r.word c).2 then fileReport s (plainReport 0x8043 3 pkgUnit detail (ownPkg s)) else s) k r c

/-! ### Sending chunks up and down (R356, R361, R362) -/

/-- Packages that a position sends its chunks to: its parent, and the parent's backup (R373). -/
def upTargets (s : State) (k : Chan) : List Nat :=
  match k.parent s with
  | some p => k.pkgOf p :: (match k.backupOf p with | some b => [b] | none => [])
  | none => []

/-- The area of the parent's slot that this sender fills (R356). -/
def upArea (s : State) (k : Chan) : Nat := (if k.pos s % 2 = 1 then 1 else 2) + (if k.backup s then 2 else 0)

def sendUp (s : State) (k : Chan) (r : Coll) (c : Nat) (f : Formed) : State :=
  let serial := k.serial s
  let head := fun (pkg : Nat) => { Packet.blank with
    daddr := seres pkg (areaAt (k.crec s) c (upArea s k)), kind := 3, len := 4 * f.words.length, chan := k.id, ord := true, nfin := f.nfin,
    arg := (if c = 0 then f.q * 2 ^ 32 else 0) + f.claim,
    arg2 := serial % 65536 + c * 2 ^ 16 + (k.backup s).toNat * 2 ^ 30 + f.dge.toNat * 2 ^ 31 + f.snf.toNat * 2 ^ 32 }
  (upTargets s k).foldl (fun s pkg => (originate s (head pkg) none (bytes32 f.words) [] (chanOwner r) (some (k.id, serial, c))).1) s

/-- POISON bits, packet by packet, of n bytes at an offset (R314). -/
def packetPoison (s : State) (a n : Nat) : List Nat :=
  (List.range (packetsOf n)).map (fun j => poisonBits s (a + j * 4096) (packetBytes n j))

/-- Packages of the children, which receive result chunks (R362). A backup receives nothing down. -/
def downTargets (s : State) (k : Chan) : List Nat :=
  ([k.child s false, k.child s true].filterMap id).map k.pkgOf

/-- Send the bytes that stand at an offset of DST down the tree as chunk c. -/
def sendDown (s : State) (k : Chan) (r : Coll) (c a n : Nat) (nfin : Bool) : State :=
  let serial := k.serial s
  let head := fun (pkg : Nat) => { Packet.blank with
    daddr := seres pkg a, kind := 4, len := n, chan := k.id, ord := true, nfin := nfin, arg2 := serial % 65536 + c * 2 ^ 16 }
  let bad := packetPoison s a n
  (downTargets s k).foldl (fun s pkg =>
    (originate s (head pkg) none (memRead s a n) bad (chanOwner r) (some (k.id, serial, 2 ^ 20 + c))).1) s

/-- The verdict word (R381). -/
def verdictWord (s : State) (serial : Nat) (f : Formed) : Nat :=
  let c := odGet s 0x9000 0x0F
  let skipN := odGet s 0x9000 0x10
  let finite := !(f.snf || f.nfin || f.words.any nonFinite32 || nonFinite32 f.q)
  let n := (sqrt32 f.q).1
  let gt0 := fun (x : Nat) => Val.lt Val.zero (v32 x)
  let skip := !finite || (gt0 skipN && Val.lt (v32 skipN) (v32 n))
  let clipped := finite && gt0 c && Val.lt (v32 c) (v32 n)
  let clip := if !finite then 0 else if clipped then (div32 c n).1 else c32One
  serial % 65536 * 2 ^ 112 + clipped.toNat * 2 ^ 98 + skip.toNat * 2 ^ 97 + finite.toNat * 2 ^ 96 + f.q * 2 ^ 64 + n * 2 ^ 32 + clip

end Sys2Proof.Machine
end

