-- ==== Sys2Proof/Machine/CollectiveRun.lean ====
section
/-! DEFINITION. Running collectives (R353 to R389): a chunk formed, sent and landed, the modes and their completion, gathers and permutes,
the collective messages at their destination, and the late and collective limits. -/

namespace Sys2Proof.Machine

/-! ### A reduction's chunks -/

/-- The ranges that forming a chunk writes: PARTIAL, CHECK, and at the root its result. -/
def formRanges (s : State) (k : Chan) (r : Coll) (c : Nat) : List (Nat × Nat) :=
  [(areaAt (k.crec s) c 0, 65536), (areaAt (k.crec s) c 5, 65536)] ++
    (if k.root s then [if rdVERD r.word then (rdDST r.word, 64) else (rdDST r.word + c * 65536, 4 * chunkLen r.word c)] else [])

/-- The ranges that forming a chunk reads: its part of SRC, its claim in the digest table, and the slot's areas where a child's copies lie. -/
def chunkReads (s : State) (k : Chan) (r : Coll) (c : Nat) : List (Nat × Nat) :=
  (srcAt r.word c, chunkLen r.word c * srcSize r.word) :: (if sdDMODE r.side then [(sdDIG r.side + 4 * c, 4)] else []) ++
    (getChunk k c).copies.map (fun x => (areaAt (k.crec s) c x.area, 4 * chunkLen r.word c))

/-- End the command of a collective (R253, R265). -/
def failColl (s : State) (r : Coll) (f : State → Cmd → State) : State :=
  match findCmd s r.u r.q r.serial with
  | some c => f s c
  | none => s

/-- A collective that reads or writes a range which has left memory, or writes a sealed place, ends FAULT; else it goes on (R253, R265). -/
def unlessBlocked (s : State) (r : Coll) (reads writes : List (Nat × Nat)) (go : State) : State :=
  match minOpts ((reads ++ writes).map (fun x => vacatedAt s x.1 x.2)), writes.find? (fun x => sealedRange s x.1 x.2) with
  | some a, _ => failColl s r (fun s c => faultCmd s c 0x4001 (unitOf c.u) a)
  | none, some x => failColl s r (fun s c => sealedFault s c x.1)
  | none, none => go

/-- Chunk c may be sent: chunk c - W has been acknowledged (R357). -/
def windowOpen (s : State) (k : Chan) (r : Coll) (c : Nat) : Bool :=
  let w := crW (k.crec s)
  c < w || (r.sent.contains (c - w) && !(outstanding s k).any (fun m => match m.coll with | some x => x.2.2 == c - w | none => false))

def markLanded (k : Chan) (c : Nat) : Chan := { k with landed := insertNat k.landed c }

/-- The root writes its result chunk to DST and sends it down (R361, R362, R380). -/
def landRoot (s : State) (k : Chan) (r : Coll) (c : Nat) (f : Formed) : State :=
  let w := r.word
  if rdVERD w then
    let block := leBytes 32 (verdictWord s (k.serial s) f) ++ bytes32 f.words
    let s1 := memWrite s (rdDST w) (block ++ List.replicate (64 - block.length) 0)
    sendDown (putChan s1 (markLanded k c)) k r c (rdDST w) 64 f.nfin
  else
    let a := rdDST w + c * 65536
    let s1 := putChan (memWrite s a (bytes32 f.words)) (markLanded k c)
    if rdMODE w = 1 then sendDown s1 k r c a (4 * f.words.length) f.nfin else s1

/-- Form chunk c where its copies are chosen and its sender's window is open, and send or land it. -/
def formChunk (s : State) (ch c : Nat) : State :=
  match getChan s ch with
  | none => s
  | some k =>
    match k.run with
    | none => s
    | some r =>
      if (getChunk k c).formed then s
      else unlessBlocked s r (chunkReads s k r c) (formRanges s k r c) <|
        if snooped s (formRanges s k r c) != [] then issueSnoops s (formRanges s k r c)
      else
        let j := chooseSides s k r c
        let k1 := putChunk k j.2
        let s1 := putChan j.1 k1
        if !sidesReady s1 k1 j.2 || (!k1.root s1 && !windowOpen s1 k1 r c) then s1
        else
          let rep := ownReports s1 k1 r c
          let p := secondPass rep.1 k1 r j.2 (formSum rep.1 k1 r j.2)
          let f := if k1.root s1 then rootCheck p.1 k1 r j.2 p.2 else p
          let sq := if k1.root s1 && sdRSQ r.side then laneSquares f.2.words else (0, 0)
          let s2 := countNonFinite (flagColl f.1 r (f.2.flags ||| sq.2)) ch f.2.nfin
          let r1 : Coll := { rep.2 with
            sent := insertNat r.sent c, nfinAcc := r.nfinAcc || f.2.nfin,
            qAcc := if c = 0 then f.2.q else r.qAcc, snfAcc := if c = 0 then f.2.snf else r.snfAcc }
          let k2 := { (putChunk k1 { j.2 with formed := true, sq := sq.1 }) with run := some r1 }
          let s3 := putChan s2 k2
          if k2.root s3 then landRoot s3 k2 r1 c f.2 else sendUp s3 k2 r1 c f.2

/-- Every outgoing chunk has been sent and acknowledged; every down chunk acknowledged; every result chunk landed (R363). -/
def upDone (s : State) (k : Chan) (r : Coll) : Bool :=
  r.sent.length == chunkCount r.word && !(outstanding s k).any (fun m => match m.coll with | some x => x.2.2 < 2 ^ 20 | none => false)
def downDone (s : State) (k : Chan) : Bool :=
  !(outstanding s k).any (fun m => match m.coll with | some x => 2 ^ 20 ≤ x.2.2 | none => false)
def allLanded (k : Chan) (r : Coll) : Bool := k.landed.length == chunkCount r.word

def reduceDone (s : State) (k : Chan) (r : Coll) : Bool :=
  if k.backup s then upDone s k r
  else
    match rdMODE r.word with
    | 0 => if k.root s then allLanded k r else upDone s k r
    | 1 => allLanded k r && downDone s k && (k.root s || upDone s k r)
    | _ => allLanded k r && downDone s k

/-- What the root adds to the step accumulator and step flag (R379). -/
def stepNorm (s : State) (k : Chan) (r : Coll) : State :=
  let a := addTo (odGet s 0x9000 0x0C, 0) r.qAcc
  let sq := (List.range (chunkCount r.word)).foldl (fun t c => addTo t (getChunk k c).sq) (0, 0)
  let t := if sdRSQ r.side then addTo (a.1, a.2 ||| sq.2) sq.1 else a
  let s1 := odSet (flagColl s r t.2) 0x9000 0x0C t.1
  if r.nfinAcc || r.snfAcc then odSet s1 0x9000 0x0D 1 else s1

/-- Complete a reduction whose conditions hold (R363, R379, R380). -/
def settleReduce (s : State) (k : Chan) (r : Coll) : State :=
  if reduceDone s k r then
    let s1 := if rdVERD r.word then odSet (odSet s 0x9000 0x0C 0) 0x9000 0x0D 0
      else if k.root s && rdMODE r.word ≤ 1 then stepNorm s k r else s
    finishColl s1 k r
  else s

/-- Drive a reduction as far as it goes: chunks in ascending order, then completion. -/
def pumpReduce (s : State) (ch : Nat) : State :=
  match getChan s ch with
  | some k =>
    match k.run with
    | some r =>
      let s1 := if rdMODE r.word = 2 then s else (List.range (chunkCount r.word)).foldl (fun s c => formChunk s ch c) s
      match getChan s1 ch with
      | some k1 => match k1.run with | some r1 => settleReduce s1 k1 r1 | none => s1
      | none => s1
    | none => s
  | none => s

/-- The ranges that a broadcast's root reads and writes. -/
def broadcastReads (w : CmdWord) : List (Nat × Nat) := [(rdSRC w, rdCOUNT w * srcSize w)]
def broadcastWrites (w : CmdWord) : List (Nat × Nat) := [(rdDST w, 4 * rdCOUNT w)]

/-- One chunk of MODE 2 at the root: SRC, widened, goes to DST and down the tree (R362), with its report and count where it holds a non-finite
element (R376, R389); poison stays with its data. -/
def broadcastChunk (ch : Nat) (s : State) (c : Nat) : State :=
  match getChan s ch with
  | none => s
  | some k =>
    match k.run with
    | none => s
    | some r =>
      let w := r.word
      let a := rdDST w + c * 65536
      let vs := (ownElements s w c).map (·.1)
      let bad := (badSectors s (srcAt w c) (chunkLen w c * srcSize w)).map (fun p => (a + (p * 64 - srcAt w c) * 4 / srcSize w, 256 / srcSize w))
      let nfin := vs.any nonFinite32
      let rep := nonFiniteReport s k r c
      let s1 := memWriteBad (countNonFinite (flagColl rep.1 r (readFlags vs)) ch nfin) a (bytes32 vs) bad
      sendDown (putChan s1 { (markLanded k c) with run := some rep.2 }) k rep.2 c a (4 * chunkLen w c) nfin

/-- MODE 2 at the root, chunk by chunk. -/
def broadcast (s : State) (ch : Nat) (r : Coll) : State := (List.range (chunkCount r.word)).foldl (broadcastChunk ch) s

/-- A REDUCE begins: its side record is read, but for MODE 2 (R364). -/
def startReduce (s : State) (c : Cmd) (k : Chan) : State :=
  let s1 := startColl s c k 0 (if rdMODE c.word = 2 then 0 else memNat s (rdSIDE c.word) 64)
  if rdMODE c.word ≠ 2 && badSide s c.word then
    failCmd s1 c stFAULT 0x5005 (cmdReport s c 0x5005 pkgUnit (pack3 k.id (k.serial s % 65536) 0) noPeer none)
  else if rdMODE c.word = 2 && k.root s then
    match getChan s1 k.id with
    | some k1 => match k1.run with
      | some r => unlessBlocked s1 r (broadcastReads c.word) (broadcastWrites c.word) (pumpReduce (broadcast s1 k.id r) k.id)
      | none => s1
    | none => s1
  else pumpReduce s1 k.id

/-- The admitted command of a queue with an opcode whose channel is free, or else the parked one: (command, channel, whether it begins). -/
def collJob (s : State) (u q op : Nat) : Option (Cmd × Chan × Bool) :=
  match runCmd s u q op with
  | some c => match collChan s c with | some k => if k.run.isNone then some (c, k, true) else none | none => none
  | none =>
    match (qCmds s u q).find? (fun c => c.op == op && c.stage == .parked) with
    | some c => match collChan s c with | some k => some (c, k, false) | none => none
    | none => none

/-- The ranges that a broadcast's root writes. -/
def beginRanges (s : State) (c : Cmd) (k : Chan) : List (Nat × Nat) :=
  if rdMODE c.word = 2 && k.root s then broadcastWrites c.word else []

/-- REDUCE (R246, R362). -/
def execReduce (u q : Nat) (s : State) : Host.Outcome State Fault Refusal :=
  .next (match collJob s u q 0xB0 with
    | some (c, k, true) => localWrite s (beginRanges s c k) (fun s => startReduce s c k)
    | some (_, k, false) => pumpReduce s k.id
    | none => s)

/-! ### GATHER (R247, R383 to R385) -/

def gaWFMT (w : CmdWord) : Nat := fld w 113 110
def gaCFMT (w : CmdWord) : Nat := fld w 117 114
def gaCOUNT (w : CmdWord) : Nat := fld w 145 118
def gaSRC (w : CmdWord) : Nat := fld w 177 146 * 4096
def gaDST (w : CmdWord) : Nat := fld w 209 178 * 4096

/-- Size of the wire image, its messages of up to 1 MiB, and the bytes of message m. -/
def gaWire (w : CmdWord) : Nat := imageSize (gaWFMT w) (gaCOUNT w)
def gaMsgs (w : CmdWord) : Nat := ceilDiv' (gaWire w) 1048576
def gaLen (w : CmdWord) (m : Nat) : Nat := min 1048576 (gaWire w - m * 1048576)

/-- Where rank r's image lands (R247). -/
def gaLand (w : CmdWord) (r : Nat) : Nat := gaDST w + r * imageSize (gaCFMT w) (gaCOUNT w)

/-- Element bytes of the wire image, and the offsets of its scales in wire and landed image. -/
def gaElems (w : CmdWord) : Nat := fmtBytes (gaWFMT w) (gaCOUNT w)
def gaScaleW (w : CmdWord) : Nat := roundUp (gaElems w) 4096
def gaScaleC (w : CmdWord) : Nat := roundUp (fmtBytes (gaCFMT w) (gaCOUNT w)) 4096

/-- Land bytes [off, off + |d|) of a wire image at `base`: whole codes widened, scales copied unchanged (R384). `bad`: poisoned ranges,
as offsets in the wire image. The padding of the image is left as it is (log 28). -/
def landImage (s : State) (w : CmdWord) (base off : Nat) (d : List Byte) (bad : List (Nat × Nat)) : State :=
  let wf := gaWFMT w
  let cf := gaCFMT w
  let b := fmtBits wf
  let hi := min (off + d.length) (gaElems w)
  let e0 := ceilDiv' (off * 8) b
  let e1 := if hi = gaElems w then gaCOUNT w else hi * 8 / b
  let v := leNat d
  let s1 := if hi ≤ off then s
    else if wf = cf then
      memWriteBad s (base + off) (d.take (hi - off)) ((bad.filter (fun p => p.1 < hi)).map (fun p => (base + p.1, min p.2 (hi - p.1))))
    else
      memWriteBad s (base + e0 * fmtBits cf / 8)
        (packCodes cf ((List.range (e1 - e0)).map (fun i => widenCode wf cf (bits v ((e0 + i) * b - off * 8) b))))
        ((bad.filter (fun p => p.1 < hi)).map (fun p => (base + p.1 * 8 / b * fmtBits cf / 8, ceilDiv' (p.2 * fmtBits cf) b + 1)))
  if !isMX wf then s1
  else
    let lo2 := max off (gaScaleW w)
    let hi2 := min (off + d.length) (gaScaleW w + gaCOUNT w / 32)
    if hi2 ≤ lo2 then s1
    else
      let at0 := base + gaScaleC w + (lo2 - gaScaleW w)
      memWriteBad s1 at0 ((d.drop (lo2 - off)).take (hi2 - lo2))
        ((bad.filter (fun p => gaScaleW w ≤ p.1)).map (fun p => (base + gaScaleC w + (p.1 - gaScaleW w), p.2)))

/-- Rank that image number i of a sender goes to: rank + 1, rank + 2, … modulo P (R383). -/
def gaTarget (s : State) (k : Chan) (i : Nat) : Nat := (k.rank s + 1 + i) % k.ranks.length

/-- Send the next messages of a gather: at most eight of the channel in flight (R383), `n` at most. -/
def pumpGather : Nat → State → Nat → State
  | 0, s, _ => s
  | n + 1, s, ch =>
    match getChan s ch with
    | none => s
    | some k =>
      match k.run with
      | none => s
      | some r =>
        let w := r.word
        let i := r.sent.length
        if i < (k.ranks.length - 1) * gaMsgs w && (outstanding s k).length < 8 then
          let m := i % gaMsgs w
          let me := k.rank s
          let h : Packet := { Packet.blank with
            daddr := seres (k.pkgOf (gaTarget s k (i / gaMsgs w))) (gaLand w me), kind := 5, len := gaLen w m, chan := ch,
            arg := m * 1048576, arg2 := k.serial s % 65536 + me * 2 ^ 16 }
          unlessBlocked s r [(gaSRC w + m * 1048576, gaLen w m)] []
            (pumpGather n (originate (putChan s { k with run := some { r with sent := r.sent ++ [i] } }) h (some (gaSRC w + m * 1048576)) [] []
              (chanOwner r) (some (ch, k.serial s, i))).1 ch)
        else if i = (k.ranks.length - 1) * gaMsgs w && outstanding s k == [] && k.landed.length == (k.ranks.length - 1) * gaMsgs w then
          finishColl s k r
        else s

/-- Widen this package's own image into its place (R383). -/
def ownImage (s : State) (w : CmdWord) (rank : Nat) : State :=
  landImage s w (gaLand w rank) 0 (memRead s (gaSRC w) (gaWire w))
    ((badSectors s (gaSRC w) (gaWire w)).map (fun p => (p * 64 - gaSRC w, 64)))

def startGather (s : State) (c : Cmd) (k : Chan) : State :=
  let s1 := startColl s c k 1 0
  match (getChan s1 k.id).bind (·.run) with
  | some r => unlessBlocked s1 r [(gaSRC c.word, gaWire c.word)] [(gaLand c.word (k.rank s), imageSize (gaCFMT c.word) (gaCOUNT c.word))]
      (pumpGather 16 (ownImage s1 c.word (k.rank s)) k.id)
  | none => s1

/-- GATHER (R247, R383). -/
def execGather (u q : Nat) (s : State) : Host.Outcome State Fault Refusal :=
  .next (match collJob s u q 0xB1 with
    | some (c, k, true) =>
      localWrite s [(gaLand c.word (k.rank s), imageSize (gaCFMT c.word) (gaCOUNT c.word))] (fun s => startGather s c k)
    | some (_, k, false) => pumpGather 16 s k.id
    | none => s)

/-! ### PERMUTE (R248, R386, R387) -/

def peCOUNT (w : CmdWord) : Nat := fld w 129 110 * 4096
def peBASE (w : CmdWord) : Nat := fld w 161 130 * 4096
def peSTAGE (w : CmdWord) : Nat := fld w 173 162 * 4096
/-- Piece size, pieces, and the bytes of piece k. -/
def pePiece (w : CmdWord) : Nat := fld w 185 174 / 2 * 4096
def pePieces (w : CmdWord) : Nat := ceilDiv' (peCOUNT w) (pePiece w)
def peLen (w : CmdWord) (k : Nat) : Nat := min (pePiece w) (peCOUNT w - k * pePiece w)

/-- The staging half of piece k in the scratch of the issuing core (R386). -/
def peHalf (r : Coll) (k : Nat) : Nat := scr r.u (peSTAGE r.word) + k % 2 * pePiece r.word

/-- The rank this package's region moves to, and the rank whose region it receives. -/
def peTo (s : State) (k : Chan) : Nat := k.rankAt (k.rank s)
def peFrom (s : State) (k : Chan) : Nat := k.posOf (k.rank s)

/-- The messages of a piece, 1 MiB each but the last (R290; DEDUCED, log 162), the bytes of message m, and those of all pieces. -/
def peMsgs (w : CmdWord) (k : Nat) : Nat := ceilDiv' (peLen w k) 1048576
def peMsgLen (w : CmdWord) (k m : Nat) : Nat := min 1048576 (peLen w k - m * 1048576)
def peAllMsgs (w : CmdWord) : Nat := (List.range (pePieces w)).foldl (fun n k => n + peMsgs w k) 0

/-- The tag of message m of piece k; those of READY marks lie above every one. -/
def peTag (k m : Nat) : Nat := k * 8 + m
def readyTag (k : Nat) : Nat := 2 ^ 24 + k

/-- A PERMUTE message: READY, or message m of a piece (R358). -/
def peHead (s : State) (k : Chan) (r : Coll) (rank piece m : Nat) (readyMark : Bool) : Packet :=
  { Packet.blank with
    daddr := seres (k.pkgOf rank) (peBASE r.word + piece * pePiece r.word + m * 1048576), kind := 6, len := if readyMark then 0 else peMsgLen r.word piece m,
    chan := k.id, arg2 := k.serial s % 65536 + piece * 2 ^ 16 + readyMark.toNat * 2 ^ 48 }

/-- A piece that was sent is still unacknowledged. -/
def pieceOut (s : State) (k : Chan) (piece : Nat) : Bool :=
  (outstanding s k).any (fun m => match m.coll with | some x => x.2.2 / 8 == piece && x.2.2 < 2 ^ 24 | none => false)

/-- Some piece that was sent is still unacknowledged; READY marks are not waited for (R387). -/
def piecesOut (s : State) (k : Chan) : Bool :=
  (outstanding s k).any (fun m => match m.coll with | some x => x.2.2 < 2 ^ 24 | none => false)

/-- Piece k moves to its staging half, and READY goes to the source rank (R386). -/
def stagePiece (s : State) (k : Chan) (r : Coll) : State :=
  let p := r.staged
  let src := peBASE r.word + p * pePiece r.word
  let s1 := memWriteBad s (peHalf r p) (memRead s src (peLen r.word p)) (moveBad s src (peHalf r p) (peLen r.word p))
  let s2 := putChan s1 { k with run := some { r with staged := p + 1 } }
  (originate s2 (peHead s k r (peFrom s k) p 0 true) none [] [] (chanOwner r) (some (k.id, k.serial s, readyTag p))).1

/-- Send piece p from its staging half. -/
def sendPiece (s : State) (k : Chan) (r : Coll) (p : Nat) : State :=
  (List.range (peMsgs r.word p)).foldl (fun t m =>
    (originate t (peHead s k r (peTo s k) p m false) (some (peHalf r p + m * 1048576)) [] [] (chanOwner r) (some (k.id, k.serial s, peTag p m))).1) s

/-- Drive a permute: stage, ready, wait, send, piece by piece (R386), `n` steps at most. -/
def pumpPermute : Nat → State → Nat → State
  | 0, s, _ => s
  | n + 1, s, ch =>
    match getChan s ch with
    | none => s
    | some k =>
      match k.run with
      | none => s
      | some r =>
        let p := r.sent.length
        if r.staged = p && p < pePieces r.word && (p < 2 || !pieceOut s k (p - 2)) then
          unlessBlocked s r [(peBASE r.word + p * pePiece r.word, peLen r.word p)] [(peHalf r p, peLen r.word p)] (pumpPermute n (stagePiece s k r) ch)
        else if r.staged = p + 1 && k.readyIn.contains p then
          let s1 := putChan s { k with run := some { r with sent := r.sent ++ [p] } }
          pumpPermute n (sendPiece s1 k r p) ch
        else if p = pePieces r.word && !piecesOut s k && k.landed.length == peAllMsgs r.word then finishColl s k r
        else s

/-- A staging area that a retirement has vacated fails the command; otherwise it starts. -/
def unlessVacated (v : Option Nat) (fail : Nat → State) (go : State) : State :=
  match v with
  | some a => fail a
  | none => go

/-- A staging area that left scratch since issue ends the command FAULT (R253). -/
def startPermute (s : State) (c : Cmd) (k : Chan) : State :=
  unlessVacated (vacatedAt s (scr c.u (peSTAGE c.word)) (2 * pePiece c.word)) (fun a => faultCmd s c 0x4001 (unitOf c.u) a)
    (let s1 := startColl s c k 2 0
     if peTo s k = k.rank s then
       match getChan s1 k.id with
       | some k1 => match k1.run with | some r => finishColl s1 k1 r | none => s1
       | none => s1
     else pumpPermute 8 s1 k.id)

/-- PERMUTE (R248, R386). -/
def execPermute (u q : Nat) (s : State) : Host.Outcome State Fault Refusal :=
  .next (match collJob s u q 0xB2 with
    | some (c, k, true) => startPermute s c k
    | some (_, k, false) => pumpPermute 8 s k.id
    | none => s)

/-- Drive whatever runs on a channel. -/
def pumpChan (s : State) (ch : Nat) : State :=
  match getChan s ch with
  | some k =>
    match k.run with
    | some r => if r.kind = 0 then pumpReduce s ch else if r.kind = 1 then pumpGather 16 s ch else pumpPermute 8 s ch
    | none => s
  | none => s

def pumpChans (s : State) : State := s.chans.foldl (fun s k => pumpChan s k.id) s

/-! ### Collective messages at their destination (R353, R357, R388) -/

inductive Accept where
  | run (r : Coll)
  | early
  | busy
  | address
  deriving DecidableEq, Repr

/-- Whether a channel accepts a collective message (R353, R388); an early one belongs to its next collective. -/
def acceptColl (s : State) (k : Chan) (h : Packet) (kind : Nat) : Accept :=
  let serial := h.arg2 % 65536
  let now := k.serial s % 65536
  match k.run with
  | some r => if serial = now ∧ r.kind = kind then .run r else if serial = (now + 1) % 65536 then .busy else .address
  | none => if k.stopped then .busy else if serial = now then .early else if serial = (now + 1) % 65536 then .busy else .address

/-- Final NAK and ACK of a receive context. -/
def nakMsg (s : State) (r : RecvCtx) (reason : Nat) : State := answerMsg s r (response s (recvHead r) 9 reason)
def ackMsg (s : State) (r : RecvCtx) : State := answerMsg s r (response s (recvHead r) 8 0)

/-- A range that peers may write: job stack memory, and no sealed place (R287, R265). -/
def peerWritable (s : State) (a n : Nat) : Bool := inJob s a n && !sealedRange s a n

/-- A collective message lands where it may; where its range has left memory or is sealed it is refused, and the collective that waits for it here
ends FAULT (R253, R265, R312). -/
def landOr (s : State) (m : RecvCtx) (acc : Accept) (a n : Nat) (go : State) : State :=
  if peerWritable s a n then go
  else
    let s1 := nakMsg s m nakADDRESS
    match acc with
    | .run r => unlessBlocked s1 r [] [(a, n)] s1
    | _ => s1

/-- The area that a sender's chunks belong in here: its place in the tree, and whether it backs that place (R356). -/
def senderArea (s : State) (k : Chan) (spkg : Nat) (bk : Bool) : Option Nat :=
  [false, true].findSome? (fun right =>
    match k.child s right with
    | none => none
    | some rank =>
      if bk then (if k.backupOf rank = some spkg then some (if right then 4 else 3) else none)
      else if k.pkgOf rank = spkg then some (if right then 2 else 1) else none)

/-- A chunk of this position still waits to be sent (R361). -/
def unsent (s : State) (k : Chan) (c : Nat) : Bool :=
  (outstanding s k).any (fun m => m.waiting && (match m.coll with | some x => x.2.2 == c | none => false))

/-- The slot of chunk c is in use for another chunk, until that one has been formed and sent (R357, R361). -/
def slotTaken (s : State) (k : Chan) (c : Nat) : Bool :=
  k.chunks.any (fun y => y.c != c && y.c % crW (k.crec s) == c % crW (k.crec s) && ((!y.formed && y.copies != []) || (y.formed && unsent s k y.c)))

/-- A message of a chunk holds NFIN: its own, or that of a poisoned flit (R377). -/
def holdsNfin (m : RecvCtx) : Bool := (recvHead m).nfin || m.pkts.any (fun p => p.poison != 0)

/-- Accept a copy of a chunk into its area: poisoned flits become canonical NaNs with NFIN, and are reported (R377). `faults`: which port adders
err where the chunk that it completes is formed again (R371). -/
def takeCopy (s : State) (k : Chan) (m : RecvCtx) (c area faults : Nat) : State :=
  let h := recvHead m
  let pay := recvPayload m
  let badFlit := fun (f : Nat) => (m.pkts.any (fun p => p.pkt == f / 64 && bitOf p.poison (f % 64)))
  let poisoned := m.pkts.any (fun p => p.poison != 0)
  let ws := words32 (pay.length / 4) pay
  let s1 := memWrite s (areaAt (k.crec s) c area) (bytes32 (if poisoned then poisonNaN badFlit ws else ws))
  let s2 := if poisoned then fileReport s1 (plainReport 0x8043 3 pkgUnit (chanDetail k.id (k.serial s) c) m.spkg) else s1
  let s3 := countNonFinite s2 k.id (holdsNfin m)
  let copy : ChunkCopy := ⟨area, m.spkg, bits h.arg 0 32, bitOf h.arg2 31, holdsNfin m, bits h.arg 32 32, bitOf h.arg2 32, h.inPort, s.uptime, none⟩
  let x := getChunk k c
  putChan s3 (putChunk k { x with copies := x.copies ++ [copy], faults := faults })

/-- A copy that comes after the choice for its chunk: discarded, and counted when it is a primary (R375) and when it holds NFIN (R389). -/
def lateCopy (s : State) (k : Chan) (m : RecvCtx) (area : Nat) : State :=
  ackMsg (countNonFinite (if area ≤ 2 then odBump s (0x9100 + k.id) 0x09 1 else s) k.id (holdsNfin m)) m

/-- The choice for the side of an area has been made, or a copy already stands there. -/
def chosenSide (x : Chunk) (area : Nat) : Bool :=
  x.formed || (if area % 2 = 1 then x.left else x.right).isSome

def reduceUpMsg (s : State) (k : Chan) (m : RecvCtx) (faults : Nat) : State :=
  let h := recvHead m
  let c := bits h.arg2 16 14
  match acceptColl s k h 0, senderArea s k m.spkg (bitOf h.arg2 30) with
  | .busy, _ => busyMsg s m
  | .address, _ => nakMsg s m nakADDRESS
  | _, none => nakMsg s m nakADDRESS
  | a, some area =>
    let x := getChunk k c
    let beyond := match a with | .run r => chunkCount r.word ≤ c || rdMODE r.word == 2 | _ => false
    if seresOff h.daddr ≠ areaAt (k.crec s) c area || beyond then nakMsg s m nakADDRESS
    else if chosenSide x area then lateCopy s k m area
    else if x.copies.any (fun y => y.area == area) then ackMsg s m
    else if slotTaken s k c then busyMsg s m
    else landOr s m a (areaAt (k.crec s) c area) h.len <| localWrite s [(areaAt (k.crec s) c area, h.len)] (fun s =>
      pumpReduce (ackMsg (takeCopy s k m c area faults) m) k.id)

/-- A whole collective message for a bound channel: CRC first (R308), then the channel (R353). -/
def collMessage (s : State) (spkg msgid kind : Nat) (f : State → Chan → RecvCtx → State) : State :=
  match readyRecv s spkg msgid kind with
  | none => s
  | some m =>
    if !recvCrcOk m then crcMsg s m
    else if tombsFull s then busyMsg s m
    else match getChan s (recvHead m).chan with
      | none => nakMsg s m nakADDRESS
      | some k => f s k m

/-- REDUCE_UP (R359, R361): `adderFault` says which port adders err in the second pass of the chunk it completes. -/
def execReduceUp (spkg msgid adderFault : Nat) (s : State) : Host.Outcome State Fault Refusal :=
  .next (collMessage s spkg msgid 3 (fun s k m => reduceUpMsg s k m adderFault))

/-- A result chunk: written to DST and forwarded (R362). -/
def reduceDownMsg (s : State) (k : Chan) (m : RecvCtx) : State :=
  let h := recvHead m
  let c := bits h.arg2 16 14
  match acceptColl s k h 0 with
  | .busy => busyMsg s m
  | .address => nakMsg s m nakADDRESS
  | .early => s
  | .run r =>
    let a := if rdVERD r.word then rdDST r.word else rdDST r.word + c * 65536
    if k.backup s || k.parent s ≠ some (k.ranks.findIdx (· == m.spkg)) || rdMODE r.word = 0 || chunkCount r.word ≤ c || seresOff h.daddr ≠ a then
      nakMsg s m nakADDRESS
    else if k.landed.contains c then ackMsg s m
    else landOr s m (.run r) a h.len <| localWrite s [(a, h.len)] (fun s =>
      let s1 := ackMsg (putChan (memWriteBad (countNonFinite s k.id h.nfin) a (recvPayload m) (recvBad m a)) (markLanded k c)) m
      pumpReduce (sendDown s1 k r c a h.len h.nfin) k.id)

/-- REDUCE_DOWN (R362). -/
def execReduceDown (spkg msgid : Nat) (s : State) : Host.Outcome State Fault Refusal :=
  .next (collMessage s spkg msgid 4 reduceDownMsg)

/-- Edge byte of a gathered message: its first (end 0) or last (end 1). -/
def edgeKey (rank m e : Nat) : Nat := (rank * 2 ^ 14 + m) * 2 + e
def edgeOf (k : Chan) (rank m e : Nat) : Option Byte := (k.edges.find? (fun x => x.1 == edgeKey rank m e)).map (·.2)

/-- Widen the code that straddles messages m and m + 1 of a rank's image, once both have arrived (R384). -/
def landStraddle (s : State) (k : Chan) (w : CmdWord) (rank m : Nat) : State :=
  let b := fmtBits (gaWFMT w)
  let cut := (m + 1) * 1048576
  match edgeOf k rank m 1, edgeOf k rank (m + 1) 0 with
  | some x, some y =>
    if gaWFMT w = gaCFMT w || cut * 8 % b = 0 || gaElems w ≤ cut then s
    else
      let e := cut * 8 / b
      let code := bits (x.toNat + 256 * y.toNat) (e * b - (cut - 1) * 8) b
      memWrite s (gaLand w rank + e * fmtBits (gaCFMT w) / 8) (packCodes (gaCFMT w) [widenCode (gaWFMT w) (gaCFMT w) code])
  | _, _ => s

def gatherMsg (s : State) (k : Chan) (m : RecvCtx) : State :=
  let h := recvHead m
  let rank := bits h.arg2 16 20
  match acceptColl s k h 1 with
  | .busy => busyMsg s m
  | .address => nakMsg s m nakADDRESS
  | .early => s
  | .run r =>
    let w := r.word
    let off := bits h.arg 0 32
    let n := off / 1048576
    let key := rank * 2 ^ 14 + n
    if k.pkgOf rank ≠ m.spkg || rank = k.rank s || off % 1048576 ≠ 0 || gaWire w < off + h.len || seresOff h.daddr ≠ gaLand w rank then
      nakMsg s m nakADDRESS
    else if k.landed.contains key then ackMsg s m
    else landOr s m (.run r) (gaLand w rank) (imageSize (gaCFMT w) (gaCOUNT w)) <| localWrite s [(gaLand w rank, imageSize (gaCFMT w) (gaCOUNT w))] (fun s =>
      let d := recvPayload m
      let k1 := { (markLanded k key) with edges := k.edges ++ [(edgeKey rank n 0, d.headD 0), (edgeKey rank n 1, d.getLastD 0)] }
      let s1 := landImage (putChan s k1) w (gaLand w rank) off d (recvBad m off)
      let s2 := landStraddle s1 k1 w rank n
      let s3 := if n = 0 then s2 else landStraddle s2 k1 w rank (n - 1)
      pumpGather 16 (ackMsg s3 m) k.id)

/-- GATHER_MESSAGE (R384). -/
def execGatherMessage (spkg msgid : Nat) (s : State) : Host.Outcome State Fault Refusal :=
  .next (collMessage s spkg msgid 5 gatherMsg)

def permuteMsg (s : State) (k : Chan) (m : RecvCtx) : State :=
  let h := recvHead m
  let p := bits h.arg2 16 32
  match acceptColl s k h 2 with
  | .busy => busyMsg s m
  | .address => nakMsg s m nakADDRESS
  | .early => s
  | .run r =>
    let base := peBASE r.word + p * pePiece r.word
    let a := seresOff h.daddr
    let part := (a - base) / 1048576
    if pePieces r.word ≤ p || a ≠ base + part * 1048576 || peMsgs r.word p ≤ part then nakMsg s m nakADDRESS
    else if bitOf h.arg2 48 then
      (if part = 0 then pumpPermute 8 (ackMsg (putChan s { k with readyIn := insertNat k.readyIn p }) m) k.id else nakMsg s m nakADDRESS)
    else if k.landed.contains (peTag p part) then ackMsg s m
    else landOr s m (.run r) a h.len <| localWrite s [(a, h.len)] (fun s =>
      pumpPermute 8 (ackMsg (putChan (memWriteBad s a (recvPayload m) (recvBad m a)) (markLanded k (peTag p part))) m) k.id)

/-- PERMUTE_MESSAGE (R386). -/
def execPermuteMessage (spkg msgid : Nat) (s : State) : Host.Outcome State Fault Refusal :=
  .next (collMessage s spkg msgid 6 permuteMsg)

/-! ### Limits (R363, R374) -/

/-- When the late clock of a child's chunk started: at the first copy of its sibling, or at the REDUCE's admission (R374). -/
def lateStart (s : State) (k : Chan) (r : Coll) (x : Chunk) (right : Bool) : Option Nat :=
  if (k.child s (!right)).isNone then some r.admittedAt
  else
    (x.copies.filter (fun y => (y.area % 2 == 1) == right)).foldl (fun t y => match t with
      | some a => some (min a y.acceptedAt)
      | none => some y.acceptedAt) none

/-- LATE_LIMIT (R374): from here on the first copy that passes is taken. -/
def execLateLimit (chan chunk : Nat) (right : Bool) (s : State) : Host.Outcome State Fault Refusal :=
  .next (match getChan s chan with
    | some k =>
      match k.run, k.child s right with
      | some r, some rank =>
        let x := getChunk k chunk
        let due := match lateStart s k r x right with
          | some t => t + crLATE (k.crec s) * 100 ≤ s.uptime
          | none => false
        if crLATE (k.crec s) ≠ 0 && (k.backupOf rank).isSome && due && !x.formed && chunk < chunkCount r.word && r.kind = 0 then
          let x1 := if right then { x with lateR := true } else { x with lateL := true }
          pumpReduce (putChan s (putChunk k x1)) chan
        else s
      | _, _ => s
    | none => s)

/-- COLLECTIVE_LIMIT (R363): a collective that has not completed within CLIM ends FABRIC. -/
def execCollectiveLimit (chan : Nat) (s : State) : Host.Outcome State Fault Refusal :=
  .next (match getChan s chan with
    | some k =>
      match k.run with
      | some r =>
        if crCLIM (k.crec s) ≠ 0 && r.admittedAt + crCLIM (k.crec s) * 100000 ≤ s.uptime then
          match findCmd s r.u r.q r.serial with
          | some c => failCmd s c stFABRIC 0x5004 (cmdReport s c 0x5004 pkgUnit (pack3 chan (k.serial s % 65536) 0) noPeer none)
          | none => s
        else s
      | none => s
    | none => s)

end Sys2Proof.Machine
end

