-- ==== Sys2Proof/Machine/JobEntries.lean ====
section
/-! DEFINITION. What the writes of the job's entries do: the partition table and the contexts (R211, R212), queue entries (R195,
R196), tallies (R205), the SR seed (R57), the collective channels (R348 to R353) and the backup map (R373). -/

namespace Sys2Proof.Machine

/-! ### The partition table (R212) -/

/-- Some queue holds a command that is fetched, issued, admitted or pre-empted. -/
def anyCommand (s : State) : Bool := s.cmds.any (fun c => c.stage != .done)

/-- Some queue of a context holds a command, one published and not yet fetched included (R152, R404). -/
def anyQueued (s : State) : Bool :=
  anyCommand s || (unitRecs s).any (fun r => (List.range (queuesOf (urUnit r))).any (fun q =>
    bitOf (urQmask r) q && qGet s (urUnit r) q 4 != qGet s (urUnit r) q 5))

/-- Context record and unit records of a table value of `len` bytes. -/
def tableCtx (v c : Nat) : Nat := bits v (128 * c) 128
def tableUnits (v len : Nat) : List Nat :=
  ((List.range ((len - 256) / 16)).map (fun i => bits v (2048 + 128 * i) 128)).filter (· ≠ 0)

/-- A context record in range: reserved bits 0, TBASE + TCNT ≤ 16,384. -/
def ctxRecOk (r : Nat) : Bool := bits r 0 82 == 0 && bits r 113 14 + bits r 98 15 ≤ 16384

/-- A unit record in range: reserved bits 0, a unit that exists, regions within the engine, none for a sweep unit. -/
def unitRecOk (r : Nat) : Bool :=
  bits r 0 41 == 0 && !bitOf r 123 &&
    (if bitOf r 115 then bits r 116 7 < 8 && urQmask r < 256 && bits r 73 26 == 0
     else isCore (bits r 116 7) && urBase r 0 + urCnt r 0 ≤ 32 && urBase r 1 + urCnt r 1 ≤ 32)

/-- Two ranges meet; an empty one meets none. -/
def rangesMeet (a n b m : Nat) : Bool := 0 < n && 0 < m && a < b + m && b < a + n

/-- Regions of two records meet on an engine: common column halves and rows (R103). -/
def regionsMeet (r1 r2 : Nat) : Bool :=
  urUnit r1 == urUnit r2 && [0, 1].any (fun e =>
    urHalf r1 e &&& urHalf r2 e != 0 && rangesMeet (urBase r1 e) (urCnt r1 e) (urBase r2 e) (urCnt r2 e))

def queuesMeet (r1 r2 : Nat) : Bool := urUnit r1 == urUnit r2 && urQmask r1 &&& urQmask r2 != 0

/-- Tally ranges of two enabled contexts meet. -/
def talliesMeet (c1 c2 : Nat) : Bool :=
  bitOf c1 127 && bitOf c2 127 && rangesMeet (bits c1 113 14) (bits c1 98 15) (bits c2 113 14) (bits c2 98 15)

/-- No two elements of a list are in the relation. -/
def nonePair (f : Nat → Nat → Bool) : List Nat → Bool
  | [] => true
  | a :: r => !r.any (f a) && nonePair f r

/-- A partition table that is not refused whole. -/
def tableOk (v len : Nat) : Bool :=
  256 ≤ len && len ≤ 2048 && len % 16 == 0 && (List.range 16).all (fun c => ctxRecOk (tableCtx v c))
    && (tableUnits v len).all unitRecOk && nonePair queuesMeet (tableUnits v len) && nonePair regionsMeet (tableUnits v len)
    && nonePair talliesMeet ((List.range 16).map (tableCtx v))

/-- The state of a context under a new table: OFF when not enabled; STOPPED or DRAINED stands; else RUNNING. -/
def settleCtxState (s : State) (c : Nat) : State :=
  stateChange s pkgUnit (0x9010 + c) 0x01
    (if !ctxEnabled s c then 0 else if ctxState s c = 2 || ctxState s c = 3 then ctxState s c else 1) 0 0

/-- The state of a queue under a new table: DISABLED without an enabled context, else as its context (R196). -/
def settleOwner (s : State) (p : Nat × Nat) : State :=
  match ctxOf s p.1 p.2 with
  | none => if qGet s p.1 p.2 6 = 0 then s else qSet (discardHeld s p.1 p.2) p.1 p.2 6 0
  | some c =>
    if ctxState s c = 2 then qSet s p.1 p.2 6 3
    else if ctxState s c = 3 then qSet s p.1 p.2 6 4
    else settleQueue (if qGet s p.1 p.2 6 = 1 || qGet s p.1 p.2 6 = 2 then s else qSet s p.1 p.2 6 1) p.1 p.2

/-- Put a partition table in force. -/
def putTable (s : State) (v : Nat) : State :=
  let s1 := (List.range 16).foldl settleCtxState (odSet s 0x9000 0x03 v)
  allQueues.foldl settleOwner s1

/-! ### Context restart (R211) -/

/-- Every core that a context's records name is served, so that the context may restart (R435, step 4). -/
def ctxServed (s : State) (c : Nat) : Bool :=
  (unitRecs s).all (fun r => urCtx r != c || bitOf r 115 || positionServed s (urUnit r))

def restartOk (s : State) (c : Nat) : Bool := ctxState s c == 2 && ctxServed s c && !orphaned s

/-- A STOPPED context resumes: its start record (R528), its queues IDLE or RUNNING. -/
def restartCtx (s : State) (c : Nat) : State :=
  let s1 := stateChange s pkgUnit (0x9010 + c) 0x01 1 0 0
  let s2 := addRecord s1 ⟨0, 4, pkgUnit, 0, 0, 2 + c * 65536, odGet s1 0x9000 0x04, none⟩
  (ctxQueues s2 c).foldl settleOwner s2

/-! ### Queue entries (R195, R196) -/

/-- An address of a ring: bit 63 and a 4 KiB aligned offset. -/
def ringAddrOk (v : Nat) : Bool := bits v 44 19 == 0 && v % 4096 == 0

/-- The ring base and size may be written while the queue is DISABLED or STOPPED. -/
def ringOpen (s : State) (u q : Nat) : Bool := qGet s u q 6 == 0 || qGet s u q 6 == 3

/-- A write of the ring base or size (R196). -/
def writeRing (s : State) (u q n v : Nat) : State :=
  qSet (qSet (qSet (qSet (qSet s u q n v) u q 4 0) u q 5 0) u q 8 256) u q 7 0

/-- A tail that the rule of R195 allows. -/
def tailOk (s : State) (u q v : Nat) : Bool := (v + 2 ^ 32 - qGet s u q 4) % 2 ^ 32 ≤ 2 ^ qGet s u q 2

/-- Publish a tail; one that breaks the rule is not taken and stops the queue's context with an ILLEGAL record; the head
stays where it was (R195, R430). -/
def publishTail (s : State) (u q v : Nat) : State :=
  if tailOk s u q v then settleQueue (qSet s u q 5 v) u q
  else
    match ctxOf s u q with
    | none => s
    | some ctx =>
      let c := Cmd.fresh u q (qGet s u q 4) 0
      let s1 := writeOrHold s (drainKey u q, c.serial, recordWord s c stILLEGAL 0x0015 0 0)
      fileReport (stopContext s1 ctx 0x0015 none) (cmdReport s c 0x0015 (unitOf u) 0 noPeer none)

/-- A head rewritten before a restart (R211); held sets go (R142). -/
def writeHead (s : State) (u q v : Nat) : State := discardHeld (qSet s u q 4 v) u q

/-! ### Collective channels (R348 to R353, R373) -/

/-- Backup map entries of a channel, as (rank, backup package). -/
def backupsOf (s : State) (ch : Nat) : List (Nat × Nat) :=
  let v := odGet s 0x9200 0x01
  (List.range 256).filterMap (fun i =>
    let e := bits v (64 * i) 64
    if bitOf e 0 && bits e 58 6 == ch then some (bits e 38 20, bits e 18 20) else none)

/-- Entries of a table of n words of 4 B. -/
def tableWords (s : State) (a n : Nat) : List Nat :=
  let v := memNat s a (4 * n)
  (List.range n).map (fun i => bits v (32 * i) 32)

/-- The channel's permutation: the identity when PERM is 0. -/
def permTable (s : State) (r : Nat) : List Nat := if crPERM r = 0 then List.range (crP r) else tableWords s (crPERM r) (crP r)

/-- Fields of a record outside their stated range, P and RANK included (R348). -/
def chanFieldsBad (r : Nat) : Bool :=
  crP r < 2 || crP r == 0xFFFFF + 1 || crP r ≤ crRANK r || crROLE r == 0 || crROLE r == 3 || crW r == 0 || crDT r == 0
    || (16 < crSAMP r && crSAMP r != 31) || bits r 0 25 != 0

/-- A table or the staging region outside job stack memory, or misaligned: six areas of 64 KiB for each slot (R350, R356). -/
def chanPlacesBad (s : State) (r : Nat) : Bool :=
  !inJob s (crRTAB r) (4 * crP r) || crRTAB r % 4096 != 0
    || (crPERM r != 0 && (!inJob s (crPERM r) (4 * crP r) || crPERM r % 4096 != 0))
    || !inJob s (crSTG r) (crW r * 6 * 65536) || crSTG r % 65536 != 0

/-- The condition of R350 that refuses a bind; 0 when none does. -/
def bindRefusal (s : State) (ch : Nat) : Nat :=
  let r := odGet s (0x9100 + ch) 0x02
  if odGet s (0x9100 + ch) 0x01 = 2 then 1
  else if chanFieldsBad r then 2
  else if chanPlacesBad s r then 3
  else
    let ranks := tableWords s (crRTAB r) (crP r)
    let perm := permTable s r
    if (listGet 0 ranks (crRANK r) == odGet s 0x5000 0x01) != (crROLE r == 1) then 4
    else if ranks.any (· == 0xFFFFF) || !perm.all (· < crP r) || !nonePair (· == ·) perm then 5
    else if (backupsOf s ch).any (fun b => b.1 == listGet 0 perm 0) then 6
    else if !ctxEnabled s (crCTX r) then 7
    else 0

/-- The neighbours of a bound channel: own position, parent, children, and their backups, as 32 bytes (0x9100 + chan .04). -/
def neighbours (s : State) (k : Chan) : Nat :=
  let pkg : Option Nat → Nat := fun r => match r with | some x => k.pkgOf x | none => noPeer
  let bak : Option Nat → Nat := fun r => match r with | some x => (k.backupOf x).getD noPeer | none => noPeer
  let l := [k.pos s, pkg (k.parent s), pkg (k.child s false), pkg (k.child s true), bak (k.parent s), bak (k.child s false),
            bak (k.child s true), noPeer]
  (List.range 8).foldl (fun v i => v + listGet 0 l i * 2 ^ (32 * i)) 0

/-- Bind a channel, or write the reason that refuses it (R350). -/
def bindChan (s : State) (ch : Nat) : State :=
  let i := 0x9100 + ch
  let why := bindRefusal s ch
  if why = 1 then odSet s i 0x06 1
  else if why ≠ 0 then odSet (odSet { s with chans := s.chans.filter (fun k => k.id != ch) } i 0x01 0) i 0x06 why
  else
    let r := odGet s i 0x02
    let k : Chan := { id := ch, crecord := r, ranks := tableWords s (crRTAB r) (crP r), perm := permTable s r,
                      backups := backupsOf s ch, chunks := [], landed := [], readyIn := [], edges := [], run := none, stopped := false }
    let s1 := { s with chans := s.chans.filter (fun x => x.id != ch) ++ [k] }
    odSet (odSet (odSet s1 i 0x04 (neighbours s1 k)) i 0x05 0) i 0x01 1

/-- Unbind a channel that is not ACTIVE (R350). -/
def unbindChan (s : State) (ch : Nat) : State :=
  odSet { s with chans := s.chans.filter (fun k => k.id != ch) } (0x9100 + ch) 0x01 0

/-- A VALID entry of a map names an ACTIVE channel. -/
def mapNames (s : State) (v : Nat) : Bool :=
  (List.range 256).any (fun i => bitOf (bits v (64 * i) 64) 0 && odGet s (0x9100 + bits v (64 * i + 58) 6) 0x01 == 2)

/-- A channel named by a VALID entry of the map in force, or of the one that is to replace it, is ACTIVE (R373). -/
def mapNamesActive (s : State) (v : Nat) : Bool := mapNames s (odGet s 0x9200 0x01) || mapNames s v

/-- Reserved bits of the map are 0. -/
def mapOk (v : Nat) : Bool := (List.range 256).all (fun i => bits v (64 * i + 1) 17 == 0)

def writeMap (s : State) (v : Nat) : State :=
  odSet (odSet s 0x9200 0x01 v) 0x9200 0x02 ((List.range 256).filter (fun i => bitOf v (64 * i))).length

end Sys2Proof.Machine
end

