-- ==== Sys2Proof/Machine/Starting.lean ====
section
/-! DEFINITION. The place of a start-up (R510 to R512, R527): the step in progress, its stop reason, the step durations, and the steps that
end by themselves once the ports, the package number and the route tables allow it. -/

namespace Sys2Proof.Machine

/-- The step in progress; 0 in the state of R38 (0x1100.01). -/
def startStep (s : State) : Nat := odGet s 0x1100 0x01

/-- The package has a number (R288). -/
def numbered (s : State) : Bool := odGet s 0x5000 0x01 != 0xFFFFF

/-- What a step waits for, as its stop reason (0x1100.02). -/
def stepReason (s : State) (k : Nat) : Nat :=
  if k = 3 && !s.vbulk then 6
  else if k = 4 && !s.fwRuns then 2
  else if k = 9 && !numbered s then 4
  else if k = 10 && odGet s 0x5000 0x02 != 2 then 5
  else 0

/-- Write the duration of a step in ms (0x1100.03). -/
def putDuration (s : State) (k ms : Nat) : State :=
  odSet s 0x1100 0x03 (withField (odGet s 0x1100 0x03) (32 * (k - 1)) 32 (min ms (2 ^ 32 - 1)))

/-- Leave the step in progress for step k; its duration is `ms` where the step's own row gives it, and the uptime since it began
otherwise. -/
def enterStep (s : State) (k : Nat) (ms : Option Nat) : State :=
  let old := startStep s
  let s1 := if 1 ≤ old && old ≤ 11 then putDuration s old (ms.getD ((s.uptime - s.stepAt) / 100000)) else s
  odSet (odSet { s1 with stepAt := s1.uptime } 0x1100 0x01 k) 0x1100 0x02 (stepReason s1 k)

/-- Stop the start-up for a reason: the state of R38. -/
def stopStart (s : State) (reason : Nat) : State :=
  odSet (odSet { s with stepAt := s.uptime } 0x1100 0x01 0) 0x1100 0x02 reason

/-- The fibre ports that are enabled (0x5200 + port .0C). -/
def enabledPorts (s : State) : List Nat := (List.range 16).filter (fun p => odGet s (0x5200 + p) 0x0C != 0)

/-- Step 8 ends: the ports that have left TRAINING are those that step 9 waits for (R511). -/
def endStep8 (s : State) : State :=
  enterStep { s with keyed := (List.range 16).filter (fun p => 2 ≤ odGet s (0x5200 + p) 0x01) } 9 none

/-- One step forward where the step in progress has nothing left to wait for (R510, R511). -/
def progressOnce (s : State) : State :=
  match startStep s with
  | 8 => if s.vhtr && (enabledPorts s).all (fun p => 2 ≤ odGet s (0x5200 + p) 0x01) then endStep8 s else s
  | 9 => if numbered s then
      (if s.keyed.all (fun p => odGet s (0x5200 + p) 0x01 != 2) then enterStep s 10 none else odSet s 0x1100 0x02 0)
    else s
  | 10 => if odGet s 0x5000 0x02 = 2 then enterStep s 11 none else s
  | _ => s

/-- Every step that ends at this event. -/
def progress (s : State) : State := progressOnce (progressOnce (progressOnce s))

/-- What the boundary-scan port reads: the IDCODE, and nothing of the state, for the port never reaches it (R518). No row of the table
drives the port. -/
def boundaryScan (_s : State) : BitVec 32 := Config.idcode

/-- The signals the package drives (R517): READY, ALERT_N and THERMTRIP_N as they stand, true for high. -/
def readyPin (s : State) : Bool := startStep s == 11 && s.vbulk
def alertPin (s : State) : Bool := odGet s 0x2100 0x05 == 0 && !bitOf (odGet s 0x7000 0x01) 0
def thermtripPin (s : State) : Bool := !bitOf (odGet s 0x2100 0x05) 1

end Sys2Proof.Machine
end

