-- ==== Sys2Proof/Machine/HostLink.lean ====
section
/-! DEFINITION. The host link (R483 to R493): link training and loss, the HDM window and its back-invalidate filter, accesses of host
memory that fail, doorbells; the heartbeat, and the drain of the Orphaned state (R219, R220, R499, R500). -/

namespace Sys2Proof.Machine

/-- A driver is attached (0x6100.02). -/
def attached (s : State) : Bool := odGet s 0x6100 0x02 == 1

/-- A feature is in force (R497). -/
def featureOn (s : State) (b : Nat) : Bool := bitOf s.features b

/-! ### The link (R483, R484, R517) -/

/-- A lane left out of the link: a report against that lane of unit class 0xA (R22); its code and severity are free values. -/
def laneReport (s : State) (lane : Nat) : State :=
  let c := freshNat s 5 16
  let v := freshNat c.2 6 3
  fileReport v.2 { (plainReport c.1 v.1 (unitId 0xA 0xF 0 lane) lane noPeer) with sev := v.1 }

/-- The modes of the table of R483 in its order: CXL 128, CXL 64, CXL 32, PCIe 6.0, PCIe 5.0. The first that the other end supports too. -/
def firstMode (modes : List Nat) : Option Nat := (List.range 5).find? (modes.contains ·)

/-- Transfer rate of a mode, in GT/s. -/
def modeRate (m : Nat) : Nat := listGet 0 [128, 64, 32, 64, 32] m

/-- A mode of CXL. -/
def modeCxl (m : Nat) : Bool := m ≤ 2

/-- A link of w lanes, counted from either end of the port, leaves out the lanes given (PRESUMED PCIe lane reversal, log 174). -/
def widthFree (lanes : List Nat) (w : Nat) : Bool := lanes.all (fun l => w ≤ l) || lanes.all (fun l => l < 16 - w)

/-- The widest width that both ends support and that the lanes left out allow (R483). -/
def widestWidth (widths lanes : List Nat) : Option Nat :=
  [16, 8, 4].find? (fun w => widths.contains w && widthFree (lanes.filter (· < 16)) w)

/-- Link state 0x6000.01 in L0: 2 CXL, 3 PCIe. -/
def linkState (m : Nat) : Nat := if modeCxl m then 2 else 3

/-- Protocols 0x6000.04: CXL.io or PCIe always; CXL.cache and CXL.mem in a mode of CXL, where the host has enabled them. -/
def linkProtocols (m : Nat) (cache memP : Bool) : Nat := 1 + 2 * (modeCxl m && cache).toNat + 4 * (modeCxl m && memP).toNat

/-- The link reaches L0 in a mode and at a width: state, rate, width, protocols, and what the host has configured; a retrain is counted and
raises vector 2. -/
def linkTrained (s : State) (m width : Nat) (cache : Bool) (k : HostConfig) (lanes : List Nat) : State :=
  let again := s.linkUp
  let s0 := sendPending { s with linkUp := true, perstLow := false, busMaster := k.busMaster, msixOn := k.msix, msixMasked := k.masked }
  let s1 := odSet (odSet s0 0x6000 0x01 (linkState m)) 0x6000 0x02 (modeRate m)
  let s2 := odSet (odSet s1 0x6000 0x03 width) 0x6000 0x04 (linkProtocols m cache k.mem)
  let s3 := if again then raiseVector (odBump s2 0x6000 0x05 1) 2 else s2
  let s4 := (lanes.filter (· < 16)).foldl laneReport s3
  if startStep s4 = 3 then enterStep s4 4 none else s4

/-- An erratum stopped the start (R285): the package stays in the state of R38, its link down. -/
def errataStop (s : State) : Bool := startStep s == 0 && odGet s 0x1100 0x02 == 3

/-- The link trains; with the running image intact, step 4 ends at once (R513). -/
def trainLink (s : State) (m width : Nat) (cache : Bool) (k : HostConfig) (lanes : List Nat) : State :=
  let s1 := linkTrained s m width cache k lanes
  if startStep s1 = 4 && s1.fwRuns then enterStep s1 5 none else s1

/-- LINK_TRAINING (R483, R510 step 3), with the modes and widths that the other end supports: once the ROM runs and VBULK is good, and no erratum
stopped the start. -/
def execLinkTraining (modes widths : List Nat) (cache : Bool) (config : HostConfig) (lanes : List Nat) (s : State) :
    Host.Outcome State Fault Refusal :=
  .next (if bulkOn s && s.romRuns && !errataStop s then
      match firstMode modes, widestWidth widths lanes with
      | some m, some w => trainLink s m w cache config lanes
      | _, _ => s
    else s)

/-- Records that a line awaited by the host held back: those of tails not taken, and those of completed commands. -/
def retryRecords (s : State) : State :=
  let s1 := s.heldRecords.foldl writeOrHold { s with heldRecords := [] }
  ((s1.cmds.filter (fun c => c.stage == .done)).map (fun c => (c.u, c.q))).foldl (fun s p => writeRecords s.cmds.length s p.1 p.2) s1

/-- The link leaves L0: the filter is cleared, and with it every wait for a response of the host; held mailbox requests are discarded
(R484, R504). -/
def linkDown (s : State) : State :=
  let s1 := { s with linkUp := false, biFilter := [], biHeld := [],
                     waitingReqs := s.waitingReqs.filter (fun r => match r.p with | .mailbox _ => false | _ => true) }
  pumpChans (retryRecords (odSet (odSet (odSet (odSet s1 0x6000 0x01 0) 0x6000 0x02 0) 0x6000 0x03 0) 0x6000 0x04 0))

/-- LINK_LOSS (R484). -/
def execLinkLoss (s : State) : Host.Outcome State Fault Refusal := .next (if s.linkUp then linkDown s else s)

/-- PERST_N low (R517): the HOST island is held in reset, which uncommits the decoder; what the host had configured in it is gone. -/
def execPerstN (s : State) : Host.Outcome State Fault Refusal :=
  .next (odSet (linkDown { s with perstLow := true, busMaster := false, component := [], msixOn := false, msixMasked := false, msixTable := [],
                                  msixPending := [] }) 0x6300 0x03 0)

/-! ### The HDM window (R488, R489) -/

def windowBase (s : State) : Nat := odGet s 0x6300 0x01
def windowSize (s : State) : Nat := odGet s 0x6300 0x02 * 2 ^ 28

/-- The access lies in the window: CXL.mem is enabled, and the decoder is committed. -/
def inWindow (s : State) (a n : Nat) : Bool :=
  s.linkUp && odGet s 0x6300 0x03 == 1 && bitOf (odGet s 0x6000 0x04) 2 && 0 < n && windowBase s ≤ a && a + n ≤ windowBase s + windowSize s

/-- Lines of a range. -/
def linesOf (a n : Nat) : List Nat := (List.range ((a + n - 1) / 64 - a / 64 + 1)).map (a / 64 + ·)

/-- Entries of the filter. -/
def filterSize : Nat := 1048576

/-- Enter the lines that a read delivers; when they do not fit, the oldest entries are invalidated first, and the read waits for the
host's responses: it is commanded again. -/
def filterRead (s : State) (lines : List Nat) (f : State → State) : State :=
  let new := lines.filter (fun l => !s.biFilter.contains l)
  let excess := s.biFilter.length + new.length - filterSize
  if excess = 0 then f { s with biFilter := s.biFilter ++ new }
  else
    let old := s.biFilter.take excess
    odBump (emitAll { s with biFilter := s.biFilter.drop excess, biHeld := s.biHeld ++ old } (old.map (fun l => Output.bisnpInv l)))
      0x6300 0x04 excess

/-- A host access through the window. -/
def hdmAccess (s : State) (write : Bool) (a n : Nat) (data : List Byte) : State :=
  if !inJob s a n then
    let s1 := odBump s 0x6300 0x05 1
    if write then s1 else emit s1 (.hdm true [])
  else if write then (if sealedRange s a n then s else memWrite s a (data.take n))
  else
    filterRead s (linesOf a n) (fun s =>
      if badSectors s a n == [] then emit s (.hdm false (memRead s a n)) else emit s (.hdm true []))

/-- HDM_ACCESS (R488, R489): `addr` is the local offset that the decoder maps the access to. -/
def execHdmAccess (write : Bool) (addr len : Nat) (data : List Byte) (s : State) : Host.Outcome State Fault Refusal :=
  .next (if inWindow s addr len && bulkOn s && (!write || data.length == len) then hdmAccess s write addr len data else s)

/-- BISNPINV_RESPONSE (R489): the held write becomes readable. -/
def execBisnpinvResponse (line : Nat) (s : State) : Host.Outcome State Fault Refusal :=
  .next (if s.biHeld.contains line then pumpChans (retryRecords { s with biHeld := s.biHeld.erase line }) else s)

/-! ### Host memory (R486) -/

/-- HOST_ACCESS_FAIL (R486): a write is discarded and counted, and its COPY goes on; a read delivers poison, and its COPY completes with
it; a ring fetch leaves the queue at its head. -/
def execHostAccessFail (write : Bool) (u q : Nat) (s : State) : Host.Outcome State Fault Refusal :=
  .next (match runCmd s u q 0x80 with
    | some c =>
      if write then
        let s1 := odBump s 0x6000 0x08 1
        if cpDHOST c.word then finishCmd (copySource s1 c.word ⟨false, true, []⟩).2 c stOK else s1
      else if cpSHOST c.word then copyCmd s c ⟨false, true, []⟩ else s
    | none => if write then odBump s 0x6000 0x08 1 else s)

/-! ### Doorbells (R491) -/

/-- The queue whose doorbell lies at an offset of BAR2. -/
def doorbellQueue (off : Nat) : Option (Nat × Nat) :=
  if 0x10000 ≤ off && off < 0x12000 then
    let k := (off - 0x10000) / 64
    let q := (off - 0x10000) % 64 / 4
    if isCore k then some (k, q) else none
  else if 0x12000 ≤ off && off < 0x12100 then some (128 + (off - 0x12000) / 32, (off - 0x12000) % 32 / 4)
  else none

/-- DOORBELL_WRITE (R491, R195). -/
def execDoorbellWrite (offset size value : Nat) (s : State) : Host.Outcome State Fault Refusal :=
  .next (if !s.linkUp then s
    else match doorbellQueue offset with
      | none => s
      | some p =>
        if size != 4 || offset % 4 != 0 || orphaned s || qGet s p.1 p.2 6 == 0 then odBump s 0x6000 0x09 1
        else publishTail s p.1 p.2 (wrap 32 value))

/-! ### The Orphaned state (R219, R220, R499, R500) -/

/-- The command in a slot of a ring in stack memory has SB = 1. -/
def slotBoundary (s : State) (u q i : Nat) : Bool :=
  let a := ringSlot s u q i
  inJob s a.2 32 && fld (BitVec.ofNat 256 (memNat s a.2 32)) 24 24 == 1

/-- Commands published and not yet fetched. -/
def unread (s : State) (u q : Nat) : Nat := (qGet s u q 5 + 2 ^ 32 - qGet s u q 4) % 2 ^ 32

/-- The serial of the first command with SB = 1 among those of a queue that have not completed, from the oldest up to the tail. Where the
words not yet fetched stand in host memory, the queue reads them on to find it: the tail of the lapse, beyond `noLimit`, marks the
search (DEDUCED, log 87). -/
def boundary (s : State) (u q : Nat) : Option Nat :=
  match (qCmds s u q).find? (fun c => c.stage != .done && c.sb) with
  | some c => some c.serial
  | none =>
    if unread s u q != 0 && (ringSlot s u q (qGet s u q 4)).1 then some (noLimit + 1 + qGet s u q 5)
    else ((List.range (unread s u q)).find? (fun n => slotBoundary s u q (wrap 32 (qGet s u q 4 + n)))).map
      (fun n => wrap 32 (qGet s u q 4 + n))

/-- A queue that is IDLE or RUNNING at the lapse begins to drain (R219). -/
def drainQueue (s : State) (u q : Nat) : State :=
  if !queueLive s u q then s
  else
    match boundary s u q with
    | some n => { s with draining := s.draining ++ [(drainKey u q, n)] }
    | none =>
      if (qCmds s u q).any (fun c => c.running || (c.preempted && c.stage != .done)) then
        { s with draining := s.draining ++ [(drainKey u q, noLimit)] }
      else becomeDrained s u q

/-- The snag, the record and vector 2 of an entry into Orphaned (R500). -/
def orphanEvents (s : State) : State :=
  raiseVector (snagSet (addRecord s ⟨0, 3, pkgUnit, 0, 0, 0x6100 * 65536 + 2, 0x102, none⟩) 10) 2

/-- The package becomes Orphaned; in a blackout the record, the snag and vector 2 follow it (R499, R500, R504). -/
def becomeOrphaned (s : State) : State :=
  let s1 := odSet { s with featuresBefore := s.features, drainAt := s.uptime } 0x6100 0x02 2
  let s2 := if inBlackout s then { s1 with lapsed := true } else orphanEvents s1
  let s3 := allQueues.foldl (fun s p => drainQueue s p.1 p.2) (odBump s2 0x6100 0x04 1)
  ((List.range 16).filter (ctxEnabled s3)).foldl settleContext s3

/-- 1 ms in AON ticks. -/
def msTicks : Nat := 100000

/-- HEARTBEAT (R499). -/
def execHeartbeat (size _value : Nat) (s : State) : Host.Outcome State Fault Refusal :=
  .next (if s.linkUp && size = 4 && attached s then { s with beatAt := s.uptime } else s)

/-- HEARTBEAT_LAPSE (R499). -/
def execHeartbeatLapse (s : State) : Host.Outcome State Fault Refusal :=
  .next (if attached s && s.beatAt + odGet s 0x6100 0x01 * msTicks ≤ s.uptime then becomeOrphaned s else s)

/-- A queue that the drain limit meets: its admitted matrix, transfer, fabric and collective commands end ABORTED (R220). -/
def forceDrain (s : State) (u q : Nat) : State :=
  if !queueLive s u q then s
  else
    let l := (qCmds s u q).filter (fun c => !c.group.vector && !c.group.atIssue &&
      (c.stage == .admitted || c.stage == .parked || (c.preempted && c.stage == .issued)))
    let s1 := { s with draining := s.draining.filter (fun p => p.1 != drainKey u q) }
    let s2 := endColls (l.foldl (fun s c => abortCmd s c 0x6003) s1) u q
    becomeDrained { s2 with screeds := s2.screeds.filter (fun x => !(x.u == u && x.q == q)) } u q

/-- ORPHAN_DRAIN_LIMIT (R220). -/
def execOrphanDrainLimit (s : State) : Host.Outcome State Fault Refusal :=
  .next (if orphaned s && s.drainAt + odGet s 0x9000 0x08 * msTicks ≤ s.uptime then
      allQueues.foldl (fun s p => forceDrain s p.1 p.2) s
    else s)

/-- The queues and contexts that a re-attachment returns (R220, R501). -/
def returnQueues (s : State) : State :=
  let s1 := (List.range 16).foldl (fun s c => if ctxState s c = 3 then stateChange s pkgUnit (0x9010 + c) 0x01 1 0 0 else s)
    { s with draining := [] }
  allQueues.foldl (fun s p => if qGet s p.1 p.2 6 = 4 then settleQueue (qSet s p.1 p.2 6 1) p.1 p.2 else s) s1

end Sys2Proof.Machine
end

