-- ==== Sys2Proof/Machine/Calibration.lean ====
section
/-! DEFINITION. Calibrations and their bands (R424): tags, guard bands and refreshes. -/

namespace Sys2Proof.Machine

/-- The indexes of the calibrations (R424). -/
def calIndexes : List Nat := [0xA001, 0xA002, 0xA003] ++ (List.range 16).map (0xA010 + ·) ++ (List.range 16).map (0xA020 + ·)

/-- Fields of a tag. -/
def tagBand (t : Nat) : Nat := bits t 29 3
def tagValid (t : Nat) : Bool := bitOf t 28
def tagGuard (t : Nat) : Bool := bitOf t 15
/-- The capture temperature, signed, in 1/16 °C. -/
def tagTemp (t : Nat) : Int := if bits t 16 12 < 2048 then bits t 16 12 else (bits t 16 12 : Int) - 4096

/-- The calibration's guard band is applied. -/
def guarded (s : State) (i : Nat) : Bool := tagGuard (odGet s i 0x01)

/-- A capture, or a refresh: the tag takes the present band and the temperature, and the guard band goes. -/
def tagCal (s : State) (i : Nat) (temp : Int) : State :=
  let t := odGet s 0x2100 0x0A * 2 ^ 29 + 2 ^ 28 + (temp % 4096).toNat * 2 ^ 16
  odSet (odSet (odSet s i 0x01 t) i 0x02 s.uptime) i 0x03 0

/-- Out of band: two bands or more than 15 °C away from the capture. -/
def outOfBand (s : State) (t : Nat) (temp : Int) : Bool :=
  let b := odGet s 0x2100 0x0A
  tagValid t && (tagBand t + 2 ≤ b || b + 2 ≤ tagBand t || 240 < temp - tagTemp t || 240 < tagTemp t - temp)

/-- Schedule a refresh under load; the entry keeps when it was asked for. -/
def scheduleRefresh (s : State) (i : Nat) : State :=
  if s.refreshes.any (fun r => r.1 == i) then s else { s with refreshes := s.refreshes ++ [(i, s.uptime)] }

/-- The policy loop's check of one calibration against its reference sensor (R419, R424). -/
def checkCal (s : State) (i : Nat) (temp : Int) : State :=
  let t := odGet s i 0x01
  if outOfBand s t temp then
    let s1 := odSet s i 0x01 (withBit t 15 true)
    scheduleRefresh (snagSet (if odGet s i 0x03 = 2 then s1 else odSet s1 i 0x03 1) 136) i
  else if tagGuard t then (if odGet s i 0x03 = 2 then odSet s i 0x01 (withBit t 15 false) else odSet (odSet s i 0x01 (withBit t 15 false)) i 0x03 0)
  else s

/-- The package is in an emergency (R421). -/
def emergency (s : State) : Bool := odGet s 0x2100 0x05 != 0

/-- A refresh of a port's stage references re-reads them: the latest readings become the references (R340). -/
def refreshRefs (s : State) (i : Nat) : State :=
  if 0xA010 ≤ i && i < 0xA020 then
    let v := s.ports.getD (i - 0xA010) Port.reset
    { s with ports := s.ports.set (i - 0xA010) { v with refs := v.last.orElse (fun _ => v.refs) } }
  else s

end Sys2Proof.Machine
end

