-- ==== Sys2Proof/Machine/Messages.lean ====
section
/-! DEFINITION. The fabric commands PUT, GET, ATOMIC and SIGNAL (R243 to R245), the messages of peers as this package serves them (R287,
R307, R308, R314, R316), the answers that come back (R308 to R313), and the timers of both ends (R299, R309 to R311). -/

namespace Sys2Proof.Machine

/-! ### Fabric commands (R243 to R245) -/

/-- Park a command on the message it has originated (R203). -/
def parkOn (s : State) (c : Cmd) (head : Packet) (src : Option Nat) (stored : List Byte) : State :=
  let r := originate (putCmd s { c with stage := .parked }) head src stored [] (some (c.u, c.q, c.serial)) none
  putCmd r.1 { c with stage := .parked, msgs := [r.2] }

def ptREMOTE (w : CmdWord) : Nat := fld w 248 185
def ptLOCAL (w : CmdWord) : Nat := fld w 184 141
def ptLEN (w : CmdWord) : Nat := fld w 140 120
def ptORD (w : CmdWord) : Bool := fld w 104 104 == 1

/-- PUT (R243). -/
def execPut (u q : Nat) (s : State) : Host.Outcome State Fault Refusal :=
  .next (match runCmd s u q 0xA0 with
    | some c =>
      let w := c.word
      match vacatedAt s (ptLOCAL w) (ptLEN w) with
      | some a => faultCmd s c 0x4001 (unitOf u) a
      | none => parkOn s c { Packet.blank with
          daddr := ptREMOTE w, kind := 0, len := ptLEN w, rtally := fld w 119 106, rten := fld w 105 105 == 1, ord := ptORD w } (some (ptLOCAL w)) []
    | none => s)

/-- GET (R243). -/
def execGet (u q : Nat) (s : State) : Host.Outcome State Fault Refusal :=
  .next (match runCmd s u q 0xA1 with
    | some c =>
      let w := c.word
      parkOn s c { Packet.blank with daddr := ptREMOTE w, kind := 1, len := ptLEN w, ord := ptORD w, arg := ptLOCAL w } none []
    | none => s)

def atREMOTE (w : CmdWord) : Nat := fld w 231 168
def atREC (w : CmdWord) : Nat := fld w 167 124

/-- ATOMIC (R244): operand and compare value come from its local record, and take 16 B of the retransmit store (R305; DEDUCED, log 141). -/
def execAtomic (u q : Nat) (s : State) : Host.Outcome State Fault Refusal :=
  .next (match runCmd s u q 0xA2 with
    | some c =>
      let w := c.word
      match vacatedAt s (atREC w) 32 with
      | some a => faultCmd s c 0x4001 (unitOf u) a
      | none => parkOn s c { Packet.blank with
          daddr := atREMOTE w, kind := 2, op := fld w 106 104 + fld w 108 108 * 8 + fld w 107 107 * 16, rtally := fld w 123 110,
          rten := fld w 109 109 == 1, ord := true, arg := memNat s (atREC w) 8, arg2 := memNat s (atREC w + 8) 8 } none
          (leBytes 8 (memNat s (atREC w) 8) ++ leBytes 8 (memNat s (atREC w + 8) 8))
    | none => s)

/-- SIGNAL (R245): its payload takes 8 B of the retransmit store (R305; DEDUCED, log 141). -/
def execSignal (u q : Nat) (s : State) : Host.Outcome State Fault Refusal :=
  .next (match runCmd s u q 0xA3 with
    | some c =>
      let w := c.word
      parkOn s c { Packet.blank with
        daddr := seres (fld w 123 104) 0, kind := 7, op := 0, rtally := fld w 218 205, rten := fld w 204 204 == 1, ord := true,
        arg := fld w 203 140, arg2 := fld w 139 124 } none (leBytes 8 (fld w 203 140))
    | none => s)

/-! ### Messages served here (R287, R308) -/

/-- A whole message of a kind, CRC first (R307, R308). -/
def serveMessage (s : State) (spkg msgid kind : Nat) (f : State → RecvCtx → State) : State :=
  match readyRecv s spkg msgid kind with
  | none => s
  | some m => if !recvCrcOk m then crcMsg s m else if kind != 1 && tombsFull s then busyMsg s m else f s m

/-- The RTEN add (R204, R308): refused when no enabled context owns the tally; writes already made stand. -/
def withTally (s : State) (m : RecvCtx) (answer : State → State) : State :=
  let h := recvHead m
  if !h.rten then answer s
  else if tallyOwned s h.rtally then answer (tallyAdd s h.rtally 1)
  else nakMsg s m nakTALLY

/-- PUT_MESSAGE (R287, R308). -/
def putMsg (s : State) (m : RecvCtx) : State :=
  let a := seresOff (recvHead m).daddr
  let d := recvPayload m
  if !peerWritable s a d.length then nakMsg s m nakADDRESS
  else localWrite s [(a, d.length)] (fun s => withTally (memWriteBad s a d (recvBad m a)) m (fun s => ackMsg s m))

def execPutMessage (spkg msgid : Nat) (s : State) : Host.Outcome State Fault Refusal :=
  .next (serveMessage s spkg msgid 0 putMsg)

/-- GET-DATA packets of a GET (R292, R308, R314). -/
def getDataOf (s : State) (m : RecvCtx) (a n : Nat) (d : List Byte) : List Packet :=
  let h := recvHead m
  let head := { Packet.blank with daddr := h.arg, spkg := ownPkg s, msgid := m.msgid, kind := 0xA, len := n, vc := if h.ord then 1 else 4 }
  let tally := isTallyWord s a n
  (List.range (packetsOf n)).map (fun k => packetAt head d (if tally then 0 else poisonBits s (a + k * 4096) (packetBytes n k)) k)

/-- GET_MESSAGE (R287, R308): memory is read, and GET-DATA goes to the requester; no tombstone (R310). -/
def getMsg (s : State) (m : RecvCtx) : State :=
  let h := recvHead m
  let a := seresOff h.daddr
  if !(inJob s a h.len || isTallyWord s a h.len) then sendResponse (dropRecv (advanceStream s m) m.spkg m.msgid) (response s h 9 nakADDRESS)
  else
    let s1 := dropRecv (advanceStream s m) m.spkg m.msgid
    pumpSends 64 ((getDataOf s m a h.len (memRead s a h.len)).foldl sendResponse s1)

def execGetMessage (spkg msgid : Nat) (s : State) : Host.Outcome State Fault Refusal :=
  .next (serveMessage s spkg msgid 1 getMsg)

/-- The new value of an ATOMIC (R244). -/
def atomicNew (aop width old operand compare : Nat) : Nat :=
  match aop with
  | 0 => (old + operand) % 2 ^ width
  | 1 => (add32 old (operand % 2 ^ 32)).1
  | 2 => operand % 2 ^ width
  | _ => if old = compare % 2 ^ width then operand % 2 ^ width else old

/-- ATOMIC_MESSAGE (R244, R252, R308, R314). -/
def atomicMsg (s : State) (m : RecvCtx) : State :=
  let h := recvHead m
  let a := seresOff h.daddr
  let aop := h.op % 8
  let ret := bitOf h.op 3
  let wid := bitOf h.op 4
  let n := if wid then 8 else 4
  let answer := fun (old : Nat) (s : State) => answerMsg s m { (response s h 8 0) with arg := if ret then old else 0 }
  if isTallyWord s a 4 then
    let t := (a - tallyWindow) / 4
    if aop ≠ 0 || wid then nakMsg s m nakADDRESS
    else if !tallyOwned s t then nakMsg s m nakTALLY
    else withTally (tallyAdd s t (h.arg % 2 ^ 32)) m (answer (tallyGet s t))
  else if !peerWritable s a n || a % n ≠ 0 || 4 ≤ aop || (aop = 1 && wid) then nakMsg s m nakADDRESS
  else if badSectors s a n != [] then nakMsg s m nakPOISON
  else localWrite s [(a, n)] (fun s =>
    let old := memNat s a n
    withTally (memPut s a n (atomicNew aop (8 * n) old h.arg h.arg2)) m (answer old))

def execAtomicMessage (spkg msgid : Nat) (s : State) : Host.Outcome State Fault Refusal :=
  .next (serveMessage s spkg msgid 2 atomicMsg)

/-- Signal ring (R316): base, slots as a power of two, head, tail. -/
def sigBase (s : State) : Nat := odGet s 0x5000 0x0C
def sigSize (s : State) : Nat := odGet s 0x5000 0x0D
def sigTail (s : State) : Nat := odGet s 0x5000 0x0F
def sigFull (s : State) : Bool := (sigTail s + 2 ^ 32 - odGet s 0x5000 0x0E) % 2 ^ 32 == 2 ^ sigSize s
def sigSlot (s : State) : Nat := sigBase s + 32 * (sigTail s % 2 ^ sigSize s)

/-- A signal record (R316). -/
def signalRecord (s : State) (m : RecvCtx) : Nat :=
  let h := recvHead m
  h.arg * 2 ^ 192 + s.uptime % 2 ^ 64 * 2 ^ 128 + m.msgid * 2 ^ 96 + m.spkg * 2 ^ 76 + h.arg2 % 65536 * 2 ^ 60
    + (1 - sigTail s / 2 ^ sigSize s % 2) * 2 ^ 59

/-- CONTROL_MESSAGE (R316, R317): a signal record, refused where its slot is sealed as any write of a peer is (R265 to R267, log 112), or the management complex, which takes it while it runs and no blackout holds. -/
def controlMsg (s : State) (m : RecvCtx) : State :=
  let h := recvHead m
  if h.op = 1 then (if s.fwRuns && !inBlackout s then withTally s m (fun s => ackMsg s m) else s)
  else if sigSize s = 0 || !inJob s (sigSlot s) 32 || sealedRange s (sigSlot s) 32 then nakMsg s m nakADDRESS
  else if sigFull s then busyMsg s m
  else localWrite s [(sigSlot s, 32)] (fun s =>
    let s1 := memPut s (sigSlot s) 32 (signalRecord s m)
    withTally (raiseVector (odSet s1 0x5000 0x0F (wrap 32 (sigTail s + 1))) 1) m (fun s => ackMsg s m))

def execControlMessage (spkg msgid : Nat) (s : State) : Host.Outcome State Fault Refusal :=
  .next (serveMessage s spkg msgid 7 controlMsg)

/-! ### Answers at the source (R308 to R313) -/

/-- The stream a GET fetches a tile for. -/
def screedOf (s : State) (m : SendMsg) : Option Screed :=
  s.screeds.find? (fun x => x.flight.any (fun f => f.2.1 == m.msgid || f.2.2 == m.msgid))

/-- The command that a message belongs to, while it is parked on it: one that lists the message, so that a command fetched again after a stop is
not taken for the one it has replaced (R203); a tile's is the SCREED of its stream. -/
def ownerCmd (s : State) (m : SendMsg) : Option Cmd :=
  match m.owner with
  | some o => (findCmd s o.1 o.2.1 o.2.2).filter (fun c => c.stage == .parked && c.msgs.contains m.msgid)
  | none =>
    match screedOf s m with
    | some x => (findCmd s x.u x.q x.serial).filter (fun c => c.stage == .parked)
    | none => none

/-- The command that waits for a tile of a stream: the one that has claimed it (R242, rule 6). -/
def tileWaiter (s : State) (x : Screed) (m : SendMsg) : Option Cmd :=
  match x.flight.find? (fun f => f.2.1 == m.msgid || f.2.2 == m.msgid) with
  | some f => s.cmds.find? (fun c => c.u == x.core && c.q == x.q && c.op == 0x20 && c.stage != .done && c.stage != .fetched &&
      screedNeed c.word != 0 && mmWSTRM c.word == x.strm && c.run.stream == x.serial && c.run.claimAt ≤ f.1 && f.1 < c.run.claimAt + screedNeed c.word)
  | none => none

/-- End the command of a failed message (R313, R430); a screed's source ends its SCREED and the command that waits for the tile (R242). -/
def failMsg (s : State) (m : SendMsg) (status code unitCore detail : Nat) : State :=
  let peer := seresPkg m.head.daddr
  let s1 := odBump (dropSend s m.msgid) 0x5000 0x12 1
  let rep := fun (c : Cmd) => cmdReport s1 c code (if unitCore = 1 then unitOf c.u else pkgUnit) detail peer none
  let waiter := match screedOf s m with | some x => tileWaiter s x m | none => none
  let s2 := match waiter with
    | some c => fileReport (completeCmd s1 c status code) (rep c)
    | none => s1
  match ownerCmd s m, waiter with
  | some c, _ => failCmd s2 c status code (rep c)
  | none, some c => match ctxOf s2 c.u c.q with | some ctx => stopContext s2 ctx code none | none => s2
  | none, none => s2

/-- Take the first answer of a kind and reason for a message out of the inbox. -/
def inboxFind (s : State) (msgid kind op : Nat) : Option Packet :=
  s.inbox.find? (fun p => p.msgid == msgid && p.kind == kind && (kind != 9 || p.op == op))
def inboxDrop (s : State) (p : Packet) : State := { s with inbox := s.inbox.erase p }

/-- What an answer does to the message it answers; answers to no message are dropped. -/
def onAnswer (s : State) (msgid kind op : Nat) (f : State → SendMsg → Packet → State) : State :=
  match inboxFind s msgid kind op with
  | none => s
  | some p => match findSend s msgid with | some m => f (inboxDrop s p) m p | none => inboxDrop s p

/-- The ranges an ACK writes: the old value of an ATOMIC with RET = 1 (R244). -/
def ackRanges (s : State) (m : SendMsg) : List (Nat × Nat) :=
  match ownerCmd s m with
  | some c => if c.op = 0xA2 && fld c.word 108 108 == 1 then [(atREC c.word + 16, 8)] else []
  | none => []

/-- A message has been acknowledged (R203, R308). -/
def ackDone (s : State) (m : SendMsg) (p : Packet) : State :=
  let s1 := dropSend s m.msgid
  match m.coll with
  | some x => pumpChan s1 x.1
  | none =>
    match ownerCmd s m with
    | none => s1
    | some c =>
      if c.op = 0xA2 && fld c.word 108 108 == 1 then
        (match vacatedAt s1 (atREC c.word + 16) 8 with
         | some a => faultCmd s1 c 0x4001 (unitOf c.u) a
         | none => if sealedRange s1 (atREC c.word + 16) 8 then sealedFault s1 c (atREC c.word + 16)
                   else finishCmd (memPut s1 (atREC c.word + 16) 8 p.arg) c stOK)
      else finishCmd s1 c stOK

/-- ACK (R308, R203). -/
def execAck (msgid : Nat) (s : State) : Host.Outcome State Fault Refusal :=
  .next (match findSend s msgid with
    | some m => localWrite s (if (inboxFind s msgid 8 0).isSome then ackRanges s m else []) (fun s => onAnswer s msgid 8 0 ackDone)
    | none => onAnswer s msgid 8 0 ackDone)

/-- NAK_NOROUTE (R301, R311): as NAK BUSY. -/
def execNakNoroute (msgid : Nat) (s : State) : Host.Outcome State Fault Refusal :=
  .next (onAnswer s msgid 9 nakNOROUTE (fun s _ _ => s))

/-- Packet k is marked held in the bitmap of a NAK INCOMPLETE (R291). -/
def bitmapHas (p : Packet) (k : Nat) : Bool :=
  if k < 64 then bitOf p.arg k else if k < 128 then bitOf p.arg2 (k - 64) else bitOf (leNat p.payload) (k - 128)

/-- Read the payload of a message once more, unless it has left memory: its command then ends FAULT (R253, R305). -/
def unlessGone (s : State) (m : SendMsg) (f : State → State) : State :=
  match sourceGone s m with
  | some a =>
    match ownerCmd s m with
    | some c => faultCmd (dropSend s m.msgid) c 0x4001 (unitOf c.u) a
    | none => dropSend s m.msgid
  | none => f s

/-- Send packets of a message again. -/
def resendOr (s : State) (m : SendMsg) (want : Nat → Bool) : State := unlessGone s m (fun s => resend s m want)

/-- NAK_BUSY (R304, R311): the message goes again when its interval ends. One to this package itself is never re-sent (R288): the hub, which still
holds it, presents it again at once (DEDUCED, log 142). -/
def execNakBusy (msgid : Nat) (s : State) : Host.Outcome State Fault Refusal :=
  .next (onAnswer s msgid 9 nakBUSY (fun s m _ =>
    if seresPkg m.head.daddr = ownPkg s then unlessGone s m (fun s => transmit s m (fun _ => true)) else s))

/-- NAK_INCOMPLETE (R309, R311): the missing packets go again at once. -/
def execNakIncomplete (msgid : Nat) (s : State) : Host.Outcome State Fault Refusal :=
  .next (onAnswer s msgid 9 nakINCOMPLETE (fun s m p => if mayResend s m then resendOr s m (fun k => !bitmapHas p k) else s))

/-- NAK_CRC (R308, R311): the whole message goes again at once. -/
def execNakCrc (msgid : Nat) (s : State) : Host.Outcome State Fault Refusal :=
  .next (onAnswer s msgid 9 nakCRC (fun s m _ => if mayResend s m then resendOr s m (fun _ => true) else s))

/-- NAK_ADDRESS (R287, R313). -/
def execNakAddress (msgid : Nat) (s : State) : Host.Outcome State Fault Refusal :=
  .next (onAnswer s msgid 9 nakADDRESS (fun s m _ => failMsg s m stFABRIC 0x5002 0 m.msgid))

/-- NAK_TALLY (R204, R313). -/
def execNakTally (msgid : Nat) (s : State) : Host.Outcome State Fault Refusal :=
  .next (onAnswer s msgid 9 nakTALLY (fun s m _ => failMsg s m stFABRIC 0x5003 0 m.msgid))

/-- NAK_POISON (R314, R313). -/
def execNakPoison (msgid : Nat) (s : State) : Host.Outcome State Fault Refusal :=
  .next (onAnswer s msgid 9 nakPOISON (fun s m _ => failMsg s m stPOISON 0x3004 1 (seresOff m.head.daddr)))

/-- Where a GET lands: its bytes and the fault that a place illegal since issue causes (R253, R265, R308). -/
def landGet (s : State) (m : SendMsg) : State :=
  let a := seresOff m.head.arg
  let d := getBytes m
  let s1 := dropSend s m.msgid
  match vacatedAt s a d.length, ownerCmd s m with
  | some x, some c => faultCmd s1 c 0x4001 (unitOf c.u) x
  | some _, none => s1
  | none, o =>
    if sealedRange s a d.length then (match o with | some c => sealedFault s1 c a | none => s1)
    else
      let s2 := memWriteBad s1 a d (getBad m a)
      match o with
      | some c => finishCmd s2 c stOK
      | none => s2

/-- The timer of a message expires (R311): it goes again whole, or fails once the resend limit is exhausted. -/
def timeoutMsg (s : State) (m : SendMsg) : State :=
  if mayResend s m then resendOr s { m with i := m.i + 1 } (fun _ => true) else failMsg s m stFABRIC 0x5001 0 m.msgid

/-- GET_DATA (R308): the whole answer of a GET has arrived. A CRC mismatch counts as a timeout: the packets are discarded. A screed's
tile lands by SCREED_TILE_LAND. -/
def getDataDone (s : State) (m : SendMsg) : State :=
  if m.head.kind != 1 || !getAll m then s
  else if !getCrcOk m then timeoutMsg (putSend s { m with got := [] }) { m with got := [] }
  else if (screedOf s m).isSome then s
  else
    match m.owner with
    | some _ => localWrite s [(seresOff m.head.arg, (getBytes m).length)] (fun s => landGet s m)
    | none => dropSend s m.msgid

/-- GET_DATA (R308). -/
def execGetData (msgid : Nat) (s : State) : Host.Outcome State Fault Refusal :=
  .next (match findSend s msgid with
    | some m => getDataDone s m
    | none => s)

/-! ### Timers -/

/-- The interval in force of a message, min(T × 2^i, cap), in AON ticks (R311). -/
def resendInterval (s : State) (m : SendMsg) : Nat := min (odGet s 0x5000 0x03 * 2 ^ m.i) (odGet s 0x5000 0x04) * 100

/-- The interval in force has passed since the timer last started; a message to this package itself cannot be lost, and has none (R288). -/
def timerDue (s : State) (m : SendMsg) : Bool := seresPkg m.head.daddr != ownPkg s && decide (m.sentAt + resendInterval s m ≤ s.uptime)

/-- RESEND_TIMER (R311): the whole message goes again, or fails once the resend limit is exhausted. -/
def execResendTimer (msgid : Nat) (s : State) : Host.Outcome State Fault Refusal :=
  .next (match findSend s msgid with
    | some m =>
      if timerDue s m then timeoutMsg s m else s
    | none => s)

/-- The bitmap of whole packets held. -/
def heldBitmap (r : RecvCtx) : Nat := r.pkts.foldl (fun b p => b ||| 2 ^ p.pkt) 0

/-- NAK INCOMPLETE for an open context (R291, R309). -/
def incomplete (s : State) (r : RecvCtx) : State :=
  let b := heldBitmap r
  let a := response s (recvHead r) 9 nakINCOMPLETE
  sendResponse s { a with arg := bits b 0 64, arg2 := bits b 64 64, payload := leBytes 64 (bits b 128 128), tflit := 2,
                          mcrc := crc64 (leBytes 64 (bits b 128 128)) }

/-- The gap time (0x5000.06) in AON ticks. -/
def gapTicks (s : State) : Nat := odGet s 0x5000 0x06 * 100

/-- GAP_TIME (R309): of a receive context whose tail has arrived, or of a GET here, which asks again at once. -/
def execGapTime (spkg msgid : Nat) (s : State) : Host.Outcome State Fault Refusal :=
  .next (match findRecv s spkg msgid with
    | some r => if serving s && (recvTail r).isSome && !recvWhole r && decide (r.gainedAt + gapTicks s ≤ s.uptime) then incomplete s r else s
    | none =>
      match findSend s msgid with
      | some m =>
        if m.head.kind = 1 && seresPkg m.head.daddr = spkg && (getTail m).isSome && !getAll m && decide (m.gotAt + gapTicks s ≤ s.uptime) && mayResend s m then
          resend s m (fun _ => true)
        else s
      | none => s)

/-- TOMBSTONE_EXPIRY (R310): the tombstone window (0x5000.08) has passed. -/
def execTombstoneExpiry (spkg msgid : Nat) (s : State) : Host.Outcome State Fault Refusal :=
  .next { s with tombs := s.tombs.filter (fun t =>
    !(t.spkg == spkg && t.msgid == msgid && decide (t.madeAt + odGet s 0x5000 0x08 * 100000 ≤ s.uptime))) }

/-- A stream record is idle: nothing unacknowledged at the source for 10 ms, nothing held and no arrival at the destination for 20 ms (R299). -/
def streamIdle (s : State) (r : StreamRec) : Bool :=
  decide (r.usedAt + (if r.source then 1000000 else 2000000) ≤ s.uptime) && if r.source then
    !s.sends.any (fun m => seresPkg m.head.daddr == r.peer && m.head.vc == r.vc && orderedVc m.head.vc m.head.ord)
  else !s.recvs.any (fun x => x.spkg == r.peer && (recvHead x).vc == r.vc && orderedVc (recvHead x).vc (recvHead x).ord)

/-- STREAM_RECORD_FREE (R299). -/
def execStreamRecordFree (source : Bool) (peer vc : Nat) (s : State) : Host.Outcome State Fault Refusal :=
  .next (match findStream s source peer vc with
    | some r => if streamIdle s r then pumpSends 64 { s with srecs := s.srecs.filter (fun x => x != r) } else s
    | none => s)

end Sys2Proof.Machine
end

