-- ==== Sys2Proof/Machine/Link.lean ====
section
/-! DEFINITION. The link of a fibre port (R293 to R295, R323): frames, their checks and flow control, packets as they are received whole, the
escape path and the hold limit of a hop (R301). -/

namespace Sys2Proof.Machine

/-! ### Frames (R293, R294, R323) -/

/-- LCRC matches, and the codewords of data lanes 0 and 1 decoded (R293, R323). -/
def ctlGood (f : Frame) : Bool :=
  !f.badLanes.contains 0 && !f.badLanes.contains 1 && crc32c 60 (f.ctl.toNat / 2 ^ 32) == bits f.ctl.toNat 0 32

/-- The tag of slot k, and whether the slot's FCRC matches (R293, R323). -/
def slotTag (f : Frame) (k : Nat) : Nat := bits f.ctl.toNat (440 + 8 * k) 8
def slotGood (f : Frame) (k : Nat) : Bool :=
  !f.badLanes.contains (2 * k + 2) && !f.badLanes.contains (2 * k + 3) &&
    crc32c 65 ((listGet 0 f.slots k).toNat + slotTag f k * 2 ^ 512) == bits f.ctl.toNat (216 + 32 * k) 32

/-- A whole packet from its flits: reserved kinds are dropped (R289); ABORT of an open context answers NAK INCOMPLETE. -/
def packetOf (flits : List (BitVec 512)) (vc port : Nat) : Packet :=
  match flits with
  | h :: r =>
    let p := decodeHeader h
    let pay := (r.map (fun f => leBytes 64 f.toNat)).flatten
    let n := if p.kind = 9 then pay.length else min pay.length (p.len - p.pkt * 4096)
    { p with payload := if noPayload p.kind then [] else pay.take n, vc := vc, inPort := port }
  | [] => Packet.blank

/-- A packet in reception that is dropped may have gone on in part: where a port carries it at this hop, whether its flits so far have been
forwarded is free, and ABORT follows those that have (R294; DESIGN CHOICE, log 140). -/
def abortPart (s : State) (port vc : Nat) : State :=
  match listGet [] (getPort s port).partialFlits vc with
  | [] => s
  | h :: r =>
    let p := packetOf (h :: r) vc port
    if !serving s || 0xB ≤ p.kind || seresPkg p.daddr = ownPkg s || p.hops = 12 || behind s p then s
    else
      match choosePort s p with
      | .port q =>
        let k := Config.freeNat 6 s.free % (r.length + 2)
        let s1 := { s with free := s.free + 1 }
        if vcStopped s q vc || k = 0 then s1 else sendAbort s1 q { p with hops := p.hops + 1 } k
      | _ => s

/-- Drop the packet that a VC is receiving and count it; `more`: later flits of it may follow, and go too, up to its END or the next HEAD (R294). -/
def dropPacket (s0 : State) (port vc : Nat) (more : Bool) : State :=
  let s := abortPart s0 port vc
  let v := getPort s port
  odBump (putPort s port { v with partialFlits := listSet v.partialFlits vc [], dropping := listSet v.dropping vc more }) (0x5200 + port) 0x06 1

/-- Drop the packet that a VC is receiving, unless it is being dropped already. -/
def dropPartial (s : State) (port vc : Nat) : State :=
  if listGet false (getPort s port).dropping vc then s else dropPacket s port vc true

/-- Whether the flits of a VC are being dropped. -/
def setDropping (s : State) (port vc : Nat) (on : Bool) : State :=
  let v := getPort s port
  putPort s port { v with dropping := listSet v.dropping vc on }

/-- The hub takes a packet that a port has received (R294, R300, R288). -/
def receivePacket (s : State) (p : Packet) : State :=
  if 0xB ≤ p.kind then odBump s (0x5200 + p.inPort) 0x06 1
  else if serving s then routePacket s p else s

/-- An ABORT: the partial packet is discarded; an open receive context answers NAK INCOMPLETE, and a GET asks again at once (R294, R309). -/
def abortPacket (s : State) (port vc : Nat) : State :=
  let s1 := setDropping (dropPartial s port vc) port vc false
  match listGet [] (getPort s port).partialFlits vc with
  | h :: _ =>
    let p := decodeHeader h
    if seresPkg p.daddr ≠ ownPkg s then s1
    else if p.kind = 0xA then
      match findSend s1 p.msgid with
      | some m => if m.head.kind = 1 && mayResend s1 m then resend s1 m (fun _ => true) else s1
      | none => s1
    else
      match findRecv s1 p.spkg p.msgid with
      | some r => incomplete s1 r
      | none => s1
  | [] => s1

/-- One data slot of a frame whose control flit is good. -/
def takeSlot (port : Nat) (f : Frame) (s : State) (k : Nat) : State :=
  let tag := slotTag f k
  let vc := bits tag 4 3
  if !bitOf tag 7 then s
  else if bitOf tag 1 then abortPacket s port vc
  else
    let v := getPort s port
    let head := bitOf tag 3
    let last := bitOf tag 2
    let dropped := listGet false v.dropping vc
    -- a flit that is dropped, or that follows one of its packet: the packet is counted once
    if !slotGood f k then (if dropped && !head then setDropping s port vc (!last) else dropPacket s port vc (!last))
    else if !head && dropped then setDropping s port vc (!last)
    else if !head && listGet [] v.partialFlits vc == [] then dropPacket s port vc (!last)
    else
      let fl := (if head then [] else listGet [] v.partialFlits vc) ++ [listGet 0 f.slots k]
      let v1 := { v with dropping := listSet v.dropping vc false, partialFlits := listSet v.partialFlits vc (if last then [] else fl) }
      let s1 := putPort s port v1
      if last then receivePacket s1 (packetOf fl vc port) else s1

/-- Packets that waited for a VC of a port go out once it runs again (R295). -/
def releaseTransit (s : State) (port : Nat) : State :=
  (s.transit.filter (fun t => t.port == some port && !vcStopped s port t.pkt.vc)).foldl (fun s t => emitPacket (dropTransit s t) port t.pkt) s

/-- A held packet takes a port: it goes out, or keeps its place in the queue while its VC is stopped. -/
def startOn (s : State) (t : Transit) (q : Nat) : State :=
  let p := { t.pkt with hops := t.pkt.hops + 1 }
  if vcStopped s q t.pkt.vc then
    queueBytes { s with transit := mapFirst (· == t) (fun x => { x with pkt := p, port := some q }) s.transit } q (· + packetSize p)
  else emitPacket { s with transit := s.transit.erase t } q p

/-- The heads of the queues that have waited since now. -/
def settleHeads (s : State) : State :=
  { s with transit := s.transit.map (fun t => if t.headAt.isNone && isHead s t then { t with headAt := some s.uptime } else t) }

/-- Packets that wait for a port take one now, in the order of their queues; one that no port can carry is dropped (R297, R301). -/
def retryWaiting (s : State) : State :=
  settleHeads ((s.transit.filter (fun t => t.port.isNone)).foldl (fun s t =>
    if !isHead s t then s
    else match choosePort s t.pkt with
      | .port q => startOn s t q
      | .wait => s
      | .none => noRoute (dropTransit s t) t.pkt) s)

/-- A frame whose control flit failed: every packet in reception that could have had a flit in it is dropped (R294). -/
def badFrame (s : State) (port : Nat) : State :=
  let v := getPort s port
  ((List.range 8).filter (fun vc => listGet [] v.partialFlits vc != [])).foldl (fun s vc => dropPartial s port vc) (odBump s (0x5200 + port) 0x05 1)

/-! ### Receive buffers and XOFF (R295, R296) -/

/-- Bytes of a VC that a port's receive buffer holds: the packet in reception, and packets that came in by it and wait here. -/
def bufferHeld (s : State) (port vc : Nat) : Nat :=
  ((s.transit.filter (fun t => t.pkt.inPort == port && t.pkt.vc == vc)).map (fun t => packetSize t.pkt)).foldl (· + ·) 0
    + 64 * (listGet [] (getPort s port).partialFlits vc).length

/-- Buffer B of a port: 1 MiB, and 32 MiB of headroom in the far class, by the class in force since the port was last keyed (R295, R296). -/
def bufferSize (s : State) (port : Nat) : Nat := if (getPort s port).cls = 1 then 34603008 else 1048576

/-- The VCs that the port stops: F < H and 256 B held; restarted at F ≥ H + 1 KiB, or below 256 B (R295). -/
def xoffMask (s : State) (port : Nat) : Nat :=
  let held := ((List.range 8).map (bufferHeld s port)).foldl (· + ·) 0
  let f := bufferSize s port - held
  let h := odGet s (0x5200 + port) 0x04
  (List.range 8).foldl (fun m vc =>
    let was := bitOf (getPort s port).xoffSent vc
    let on := if was then !(h + 1024 ≤ f || bufferHeld s port vc < 256) else f < h && 256 ≤ bufferHeld s port vc
    if on then m + 2 ^ vc else m) 0

/-- Send a changed XOFF state to the far end (R295). -/
def settleXoff (s : State) (port : Nat) : State :=
  if port < 16 ∧ xoffMask s port ≠ (getPort s port).xoffSent then
    let m := xoffMask s port
    let v := getPort s port
    let s1 := emit (putPort s port { v with xoffSent := m, fseq := (v.fseq + 1) % 256 }) (.xoff port m (frameOf m v.fseq []))
    if m = 0 then s1 else odBump s1 (0x5200 + port) 0x07 1
  else s

def settleXoffs (s : State) : State := (List.range 16).foldl settleXoff s

/-- The slots of a frame (R293 to R295). -/
def takeFrame (s : State) (port : Nat) (f : Frame) : State :=
  if !ctlGood f then badFrame s port
  else
    let s1 := putPort s port { (getPort s port) with xoffFar := bits f.ctl.toNat 504 8 }
    settleXoffs ((List.range 7).foldl (takeSlot port f) (retryWaiting (releaseTransit s1 port)))

/-! ### The escape path and the hold limit (R301) -/

/-- The packet has been held since `t0` for longer than `ns` nanoseconds. -/
def heldFor (s : State) (t0 ns : Nat) : Bool := t0 * 10 + ns ≤ s.uptime * 10

/-- The VC 4 packet at the head of its queue that has waited for the escape wait (0x5000.09) and whose escape port is the one named. -/
def escapee (s : State) (port : Nat) : Option Transit :=
  s.transit.find? (fun t => t.pkt.vc == 4 && !t.escaped && isHead s t && heldFor s (t.headAt.getD s.uptime) (odGet s 0x5000 0x09) && (match routeEntry s (seresPkg t.pkt.daddr) with
    | some e => escPort s e == port && portUp s port && reMode e != 0 && (reMode e == 1 || (eligiblePorts s e).all (fun p => vcStopped s p 4))
    | none => false))

/-- ESCAPE_MOVE (R301): the packet moves to VC 7 on port ESC. -/
def execEscapeMove (port : Nat) (s : State) : Host.Outcome State Fault Refusal :=
  .next (match escapee s port with
    | some t =>
      settleXoffs <| retryWaiting <| sendSince (odBump (dropTransit s t) (0x5200 + port) 0x09 1) port
        { t.pkt with vc := 7, hops := if t.port.isSome then t.pkt.hops - 1 else t.pkt.hops } t.since
    | none => s)

/-- A packet that counts against a port's hold limit: it is queued on the port, or waits for a port and came in by it or is the package's own. -/
def heldBy (port : Nat) (t : Transit) : Bool :=
  t.port == some port || (t.port.isNone && (t.pkt.inPort == port || 16 ≤ t.pkt.inPort))

/-- A packet queued on a port is dropped: how many of its flits had gone on before its VC stopped is free, and ABORT follows them (R301; DESIGN
CHOICE, log 140). -/
def abortQueued (s : State) (t : Transit) : State :=
  match t.port with
  | some q =>
    let k := Config.freeNat 6 s.free % (1 + flitsOf t.pkt.payload.length)
    let s1 := { s with free := s.free + 1 }
    if k = 0 then s1 else sendAbort s1 q t.pkt k
  | none => s

/-- HOP_HOLD_LIMIT (R301): the first packet held here for longer than the hop hold limit (0x5000.07) is dropped and counted as stale. -/
def execHopHoldLimit (port : Nat) (s : State) : Host.Outcome State Fault Refusal :=
  .next (match s.transit.find? (fun t => heldBy port t && heldFor s t.since (odGet s 0x5000 0x07 * 1000)) with
    | some t => settleXoffs (retryWaiting (odBump (dropTransit (abortQueued s t) t) (0x5200 + port) 0x08 1))
    | none => s)

end Sys2Proof.Machine
end

