-- ==== Sys2Proof/Machine/Optics.lean ====
section
/-! DEFINITION. The optics of a fibre port (R318 to R347): rings, lane maps and moves, control words, monitors, the mist coat, port states and
keying. Powers are in 0.01 dBm, heaters in µW, round trips in ps. -/

namespace Sys2Proof.Machine

/-! ### Rings and lane maps (R324, R331) -/

def getRing (s : State) (p : Nat) (tx : Bool) (slot : Nat) : Ring := listGet Ring.off (if tx then (getPort s p).tx else (getPort s p).rx) slot
def putRing (s : State) (p : Nat) (tx : Bool) (slot : Nat) (r : Ring) : State :=
  let v := getPort s p
  putPort s p (if tx then { v with tx := listSet v.tx slot r } else { v with rx := listSet v.rx slot r })

/-- A slot's byte in the lane map of a direction: role 0 DATA, 1 SPARE, 2 FAILED, 3 OFF, and data lane. -/
def mapSub (tx : Bool) : Nat := if tx then 0x0A else 0x0B
def mapByte (s : State) (p : Nat) (tx : Bool) (slot : Nat) : Nat := bits (odGet s (0x5200 + p) (mapSub tx)) (8 * slot) 8
def slotRole (s : State) (p : Nat) (tx : Bool) (slot : Nat) : Nat := bits (mapByte s p tx slot) 6 2
def slotLane (s : State) (p : Nat) (tx : Bool) (slot : Nat) : Nat := bits (mapByte s p tx slot) 0 4
def setMap (s : State) (p : Nat) (tx : Bool) (slot role lane : Nat) : State :=
  odSet s (0x5200 + p) (mapSub tx) (withField (odGet s (0x5200 + p) (mapSub tx)) (8 * slot) 8 (role * 64 + lane))

def slots18 : List Nat := List.range 18

/-- The slot that carries a data lane. -/
def laneSlot (s : State) (p : Nat) (tx : Bool) (lane : Nat) : Option Nat :=
  slots18.find? (fun x => slotRole s p tx x == 0 && slotLane s p tx x == lane)

/-- Status that the far receiver last reported for a transmit slot (R326). -/
def farStatus (s : State) (p slot : Nat) : Nat := bits (getPort s p).lastReport (34 - 2 * slot) 2

/-- A usable slot: DATA or SPARE, its rings LOCKED, its receiver aligned and its slot check clean (R324, R332). -/
def slotUsable (s : State) (p : Nat) (tx : Bool) (slot : Nat) : Bool :=
  slotRole s p tx slot ≤ 1 && (getRing s p tx slot).st == 2 &&
    (if tx then farStatus s p slot ≤ 1 else listGet false (getPort s p).aligned slot && !listGet false (getPort s p).slotBad slot)

def usableLanes (s : State) (p : Nat) (tx : Bool) : Nat := (slots18.filter (slotUsable s p tx)).length

/-! ### Control words (R325, R326) -/

def cwType (w : BitVec 160) : Nat := bits w.toNat 156 4
def cwGood (w : BitVec 160) : Bool := crc32c 16 (w.toNat / 2 ^ 32) == bits w.toNat 0 32

/-- A control word of a type with its body, CRC in place. -/
def controlWord (ty body : Nat) : Nat := (ty * 2 ^ 124 + body / 2 ^ 32) * 2 ^ 32 + crc32c 16 (ty * 2 ^ 124 + body / 2 ^ 32)

/-- A signed 32-bit entry. -/
def i32 (x : Int) : Nat := (x % 2 ^ 32).toNat

def ofI32 (n : Nat) : Int := if n % 2 ^ 32 < 2 ^ 31 then ((n % 2 ^ 32 : Nat) : Int) else ((n % 2 ^ 32 : Nat) : Int) - 2 ^ 32

/-- LPWR: the modulator-bank stage reading in 0.05 dB units, signed (R325). -/
def lpwrField (s : State) (p : Nat) : Nat := (ofI32 (odGet s (0x5400 + p) 0x03) / 5 % 4096).toNat

/-- The marker of a slot (R325). -/
def markerWord (s : State) (p slot : Nat) : Nat :=
  controlWord 1 (slot * 2 ^ 151 + (if slotRole s p true slot = 1 then 2 ^ 150 else slotLane s p true slot * 2 ^ 146) + p * 2 ^ 142
    + ownPkg s * 2 ^ 122 + lpwrField s p * 2 ^ 110)

/-- The words IDENT, ECHO request and MARGIN (R326). -/
def identWord (s : State) (p : Nat) : Nat :=
  controlWord 5 (ownPkg s * 2 ^ 136 + p * 2 ^ 132 + Config.serial % 2 ^ 64 * 2 ^ 68 + odGet s (0x5200 + p) 0x02 * 2 ^ 67)
def moveWord (m : Mv) : Nat :=
  controlWord 3 (m.lane * 2 ^ 152 + m.nslot * 2 ^ 147 + m.orole * 2 ^ 145 + m.cwidx * 2 ^ 113 + m.mseq * 2 ^ 105)
def echoRequest (tag stamp : Nat) : Nat := controlWord 4 (tag * 2 ^ 147 + stamp * 2 ^ 115)
def marginWord (step value verdict sseq : Nat) : Nat := controlWord 6 (step * 2 ^ 152 + value * 2 ^ 140 + verdict * 2 ^ 122 + sseq % 256 * 2 ^ 114)

/-- The slots of a direction that carry a stream of control words, DATA and SPARE, send a marker each. -/
def sendMarkers (s : State) (p : Nat) : State :=
  emitAll s ((slots18.filter (fun x => slotRole s p true x ≤ 1)).map (fun x => Output.control p x (markerWord s p x)))

/-! ### Port states (R341) -/

/-- Packets in reception are dropped when a port leaves UP (R294). -/
def dropFlight (s : State) (p : Nat) : State := (List.range 8).foldl (fun s vc =>
  if listGet [] (getPort s p).partialFlits vc == [] then s else dropPartial s p vc) s

/-- Enter a port state; leaving UP drops the packets in flight. -/
def setPortState (s : State) (p v code : Nat) : State :=
  if portState s p = v then s
  else progress (stateChange (if portState s p = 3 then dropFlight s p else s) (portUnit p) (0x5200 + p) 0x01 v code
    (if code = 0 then 0 else severityOf code))

/-- Result entry of a port (R344). -/
def keyEntry (s : State) (p : Nat) : Nat := bits (odGet s 0x5310 0x01) (64 * p) 64
def setKeyEntry (s : State) (p v : Nat) : State := odSet s 0x5310 0x01 (withField (odGet s 0x5310 0x01) (64 * p) 64 v)

/-- A port becomes DARK: every ring OFF (R331). -/
def goDark (s : State) (p : Nat) : State :=
  let s1 := setPortState s p 0 0
  let v := getPort s1 p
  putPort s1 p { v with tx := v.tx.map (fun _ => Ring.off), rx := v.rx.map (fun _ => Ring.off), mist := 0, txMove := [], rxMove := [], rekey := false,
                        far := none, echoes := [], claim := none, aligned := v.aligned.map (fun _ => false), slotBad := v.slotBad.map (fun _ => false) }

/-- OFF and FAILED rings start a sweep at a TRAINING entry; the others keep their state (R331). -/
def toSweep (r : Ring) : Ring := if r.st = 0 ∨ r.st = 4 then { r with st := 1, tries := 0 } else r

/-- Enter TRAINING (R331, R339): each direction counts its codewords from its first marker (R326). -/
def enterTraining (s : State) (p : Nat) : State :=
  let s1 := setPortState s p 1 0
  let v := getPort s1 p
  sendMarkers (putPort s1 p { v with
    tx := v.tx.map toSweep, rx := v.rx.map toSweep, mist := 1, aligned := v.aligned.map (fun _ => false), missed := v.missed.map (fun _ => 0),
    lastReport := Port.noneLocked, sentReport := Port.noneLocked, lastMseq := none, rekey := false, far := none, echoes := [], claim := none,
    phase := 0, badNow := [], rxCount := 0, txCount := 0 }) p

def portEnabled (s : State) (p : Nat) : Bool := odGet s (0x5200 + p) 0x0C != 0

/-- DARK to TRAINING: enabled, VHTR good, laser present, from start-up step 8 on (R510). -/
def wakePort (s : State) (p : Nat) : State :=
  if 8 ≤ startStep s && portState s p = 0 && portEnabled s p && s.vhtr && (getPort s p).laser then enterTraining s p else s

/-- A FAILED ring tries again. -/
def retryRing (r : Ring) : Ring := if r.st = 4 then { r with st := 1, tries := 0, recheck := true } else r

/-- A port becomes ISOLATED (R335, R341), with its snag and report; it keeps trying to acquire its FAILED rings. -/
def isolate (s : State) (p detail : Nat) : State :=
  let s1 := fileCode (snagSet (setPortState s p 4 0x8031) (112 + p)) 0x8031 (portUnit p) detail
  let v := getPort s1 p
  putPort s1 p { v with tx := v.tx.map retryRing, rx := v.rx.map retryRing }

/-- The 64 ECHO requests of a keying; the PORT cycle count that each is stamped with is a free value. -/
def sendEchoes (s : State) (p : Nat) : State :=
  (List.range 64).foldl (fun s tag =>
    let f := freshNat s 8 32
    emit f.2 (.control p 0 (echoRequest tag f.1))) s

/-- Enter KEYING: IDENT and the ECHO requests go out (R342). -/
def enterKeying (s : State) (p : Nat) : State :=
  let s1 := setPortState s p 2 0
  let s2 := putPort s1 p { (getPort s1 p) with far := none, echoes := [], rekey := false }
  sendEchoes (emit s2 (.control p 0 (identWord s2 p))) p

/-- 16 usable lanes in each direction. -/
def enoughLanes (s : State) (p : Nat) : Bool := 16 ≤ usableLanes s p true && 16 ≤ usableLanes s p false

/-! ### Reports and lane moves (R326, R334, R335) -/

/-- Status of each receive slot (R326): a slot whose receiver has no alignment, or whose ring has been re-acquired and awaits its margin check, stands
as not LOCKED (DEDUCED, log 144). `bad`: slots whose codewords were uncorrectable. -/
def slotStatus (s : State) (p : Nat) (bad : List Nat) : Nat :=
  slots18.foldl (fun m x =>
    m * 4 + (if (getRing s p false x).st ≠ 2 || (getRing s p false x).recheck then 2 else if listGet false (getPort s p).slotBad x then 3
      else if !listGet false (getPort s p).aligned x then 2 else if bad.contains x then 1 else 0)) 0

/-- Send a REPORT whose SLOTST differs from the one before (R326, R334). -/
def sendReport (s : State) (p : Nat) (bad : List Nat) : State :=
  let st := slotStatus s p bad
  let v := getPort s p
  if st = v.sentReport then s
  else
    let q := (v.rseq + 1) % 256
    emit (putPort s p { v with rseq := q, sentReport := st }) (.control p 0 (controlWord 2 (st * 2 ^ 120 + q * 2 ^ 112)))

/-- The lowest usable SPARE slot that no pending move has taken. -/
def freeSpare (s : State) (p : Nat) : Option Nat :=
  slots18.find? (fun x => slotRole s p true x == 1 && slotUsable s p true x && !(getPort s p).txMove.any (fun m => m.nslot == x))

/-- A spare is still to be acquired in a direction. -/
def spareComing (s : State) (p : Nat) (tx : Bool) : Bool :=
  slots18.any (fun x => (getRing s p tx x).st == 1 || (slotRole s p tx x == 1 && (getRing s p tx x).st != 4 && !slotUsable s p tx x))

/-- A lane must move and no SPARE is usable: a port that is UP trains while a spare is still to be acquired, and otherwise it and one that is KEYING
become ISOLATED (R335, R341, R346). -/
def noSpare (s : State) (p : Nat) : State :=
  if portState s p = 3 then (if spareComing s p true then enterTraining s p else isolate s p 0)
  else if portState s p = 2 && !spareComing s p true then isolate s p 0
  else s

/-- The codeword index of a MOVE sent now, free within 64 to 65,536 codewords after the codeword in which the word ends, which is at most 15 ahead
(R326, log 31). -/
def moveIndex (count free : Nat) : Nat := (count + 79 + free % 65458) % 2 ^ 32

/-- Move a lane to a SPARE; the slot it leaves becomes FAILED from the move onward (R334). -/
def placeLane (s : State) (p lane : Nat) : State :=
  if (getPort s p).txMove.any (fun m => m.lane == lane) then s
  else
    match freeSpare s p with
    | none => noSpare s p
    | some n =>
      let r := freshNat s 3 32
      let v := getPort r.2 p
      let f := (moveIndex v.txCount r.1, r.2)
      let q := (v.mseq + 1) % 256
      let m : Mv := ⟨lane, n, 2, f.1, q⟩
      emit (putPort f.2 p { v with txMove := v.txMove ++ [m], mseq := q }) (.control p 0 (moveWord m))

/-- Move the lane of a transmit slot. -/
def moveLane (s : State) (p slot : Nat) : State := if slotRole s p true slot ≠ 0 then s else placeLane s p (slotLane s p true slot)

/-- Lanes whose slot has FAILED for want of its line take a spare as soon as one is usable (R321, R334). -/
def placeLanes (s : State) (p : Nat) : State :=
  (List.range 16).foldl (fun s lane => if (laneSlot s p true lane).isNone && (freeSpare s p).isSome then placeLane s p lane else s) s

/-- A lane that was usable in `s0` has failed. -/
def lostLane (s0 s : State) (p : Nat) : Bool :=
  [true, false].any (fun tx => slots18.any (fun x => slotRole s0 p tx x == 0 && slotUsable s0 p tx x && !slotUsable s p tx x))

/-- A lane that fails while a port trains restarts its mist coat (R346). -/
def restartCoat (s0 s : State) (p : Nat) : State :=
  if portState s p = 1 && lostLane s0 s p then putPort s p { (getPort s p) with mist := 1 } else s

/-- After an event at a port, `s0` before it. TRAINING ends with 16 usable lanes in each direction and the mist coat done. An ISOLATED port that has
16 usable lanes in each direction again, as it had not before, returns to TRAINING. One that is UP with fewer trains while a spare is still to be
acquired, and else becomes ISOLATED, as one that is KEYING does (R335, R341). -/
def settlePort (s0 s : State) (p : Nat) : State :=
  let s := restartCoat s0 (if 1 ≤ portState s p && portState s p ≤ 3 then placeLanes s p else s) p
  let coming := spareComing s p true || spareComing s p false
  if portState s p = 1 && (getPort s p).mist = 2 && enoughLanes s p then enterKeying s p
  else if portState s p = 4 && !enoughLanes s0 p && enoughLanes s p then enterTraining s p
  else if portState s p = 3 && !enoughLanes s p then (if coming then enterTraining s p else isolate s p 0)
  else if portState s p = 2 && !enoughLanes s p && !coming then isolate s p 0
  else s

/-- Slots by the data lane they carry, lower lane first (R346). -/
def slotsByLane (s : State) (p : Nat) : List Nat := (List.range 16).filterMap (laneSlot s p true)

/-- A ring locked to the wrong line re-sweeps; a fault that its slot check has counted already is counted once (R333, R346). -/
def wrongLock (s : State) (p : Nat) (tx : Bool) (slot : Nat) (counted : Bool) : State :=
  let s1 := putRing s p tx slot { (getRing s p tx slot) with st := 1, tries := 0, wrong := true, recheck := true }
  if counted then s1 else odBump s1 (0x5200 + p) 0x0F 1

/-- A reported status makes a lane move: any but good once the port has trained; while it trains a margin or its codewords, and the failure of a
slot that stood as usable (R334, R339, R346). -/
def movesOn (state old status : Nat) : Bool :=
  if state = 1 then status == 1 || (old ≤ 1 && 2 ≤ status) else (state == 2 || state == 3) && status != 0

/-- A FAILED slot whose far ring stands good again, on a transmit ring that is LOCKED, is SPARE (R333). -/
def backInService (s : State) (p slot : Nat) : Bool :=
  slotRole s p true slot == 2 && (getRing s p true slot).st == 2 && !(getRing s p true slot).recheck && farStatus s p slot == 0

/-- REPORT from the far end (R326, R333, R334): lanes of slots reported bad move; a failed slot check makes our transmit ring re-sweep; a slot whose
far ring has been re-acquired and margin-checked becomes SPARE. -/
def takeReport (s : State) (p : Nat) (w : BitVec 160) : State :=
  let s1 := putPort s p { (getPort s p) with lastReport := bits w.toNat 120 36 }
  let s2 := (slots18.filter (backInService s1 p)).foldl (fun s x => setMap s p true x 1 0) s1
  let s3 := (slotsByLane s2 p).foldl (fun t x => if movesOn (portState t p) (farStatus s p x) (farStatus t p x) then moveLane t p x else t) s2
  let s4 := (slots18.filter (fun x => farStatus s1 p x = 3 && (getRing s1 p true x).st = 2)).foldl (fun s x => wrongLock s p true x false) s3
  settlePort s s4 p

def execReport (port : Nat) (word : BitVec 160) (s : State) : Host.Outcome State Fault Refusal :=
  .next (if port < 16 && portState s port ≠ 0 && cwGood word && cwType word == 2 then takeReport s port word else s)

/-- The index of a MOVE lies between 64 and 65,536 codewords ahead of the codeword in which its word ends (R326, log 31). -/
def indexOk (s : State) (p idx : Nat) : Bool :=
  (64 ≤ (idx + 2 ^ 32 - (getPort s p).rxCount) % 2 ^ 32 && (idx + 2 ^ 32 - (getPort s p).rxCount) % 2 ^ 32 ≤ 65551)

/-- MOVE from the far transmitter: the first copy counts (R326). -/
def execMove (port : Nat) (word : BitVec 160) (s : State) : Host.Outcome State Fault Refusal :=
  .next (let v := getPort s port
    let n := word.toNat
    let m : Mv := ⟨bits n 152 4, bits n 147 5, bits n 145 2, bits n 113 32, bits n 105 8⟩
    if port < 16 && portState s port ≠ 0 && cwGood word && cwType word == 3 && v.lastMseq != some m.mseq && m.orole ≠ 0 && m.nslot < 18 &&
        indexOk s port m.cwidx then
      putPort s port { v with rxMove := v.rxMove ++ [m], lastMseq := some m.mseq }
    else s)

/-- Apply a move to a direction's map (R334). -/
def applyMove (s : State) (p : Nat) (tx : Bool) (m : Mv) : State :=
  let s1 := match laneSlot s p tx m.lane with | some x => setMap s p tx x m.orole 0 | none => s
  odBump (setMap s1 p tx m.nslot 0 m.lane) (0x5200 + p) 0x0E 1

/-- Codewords from a count to an index. -/
def ahead (count idx : Nat) : Nat := (idx + 2 ^ 32 - count) % 2 ^ 32

/-- The pending move whose index comes first (R334). -/
def firstMove (count : Nat) : List Mv → Option Mv
  | [] => none
  | m :: r =>
    match firstMove count r with
    | some x => if ahead count x.cwidx < ahead count m.cwidx then some x else some m
    | none => some m

/-- The count of codewords has reached an index. -/
def reached (count idx : Nat) : Bool := (count + 2 ^ 32 - idx) % 2 ^ 32 < 2 ^ 31

/-- MOVE_TAKES_EFFECT (R334): of the pending moves whose index the count has reached, the earliest; a re-key request that waited starts keying
(R346). -/
def execMoveTakesEffect (port : Nat) (tx : Bool) (s : State) : Host.Outcome State Fault Refusal :=
  .next (if 16 ≤ port then s else
    let v := getPort s port
    let l := if tx then v.txMove else v.rxMove
    let count := if tx then v.txCount else v.rxCount
    match firstMove count (l.filter (fun m => reached count m.cwidx)) with
    | none => s
    | some m =>
      let r := l.erase m
      let s1 := applyMove (putPort s port (if tx then { v with txMove := r } else { v with rxMove := r })) port tx m
      let v1 := getPort s1 port
      if v1.rekey && v1.txMove == [] && v1.rxMove == [] && portState s1 port = 3 then enterKeying s1 port else settlePort s s1 port)

/-! ### Ring events (R330 to R333) -/

/-- Rings of a port sweep one at a time: transmit bus first, in bus order, and the receive bus once the receive input has held within 0.2 dB for 1 ms
(R330). -/
def sweepTurn (s : State) (p : Nat) (tx : Bool) (slot : Nat) (riSteady : Bool) : Bool :=
  let sweeping := fun (tx : Bool) (n : Nat) => (List.range n).any (fun x => (getRing s p tx x).st == 1)
  if tx then !sweeping true slot else !sweeping true 18 && !sweeping false slot && !(getPort s p).riLost && riSteady

/-- Slot spacings between two heater powers in µW, to the nearest: a spacing is 1.12 nm, and a milliwatt 0.70 nm (R319, R329). -/
def spacings (a b : Nat) : Nat := (b - a + 800) / 1600

/-- The peak that follows the first gap of three spacings among the peaks of a sweep: the line of slot 0 (R329, R330; log 145). -/
def afterGap : List Nat → Option Nat
  | a :: b :: r => if spacings a b = 3 then some b else afterGap (b :: r)
  | _ => none

/-- The number of a peak in order from the gap, modulo the 20 spacings of a free spectral range (R329, R330). -/
def lineOf (g h : Nat) : Nat := if g ≤ h then spacings g h % 20 else (20 - spacings h g % 20) % 20

/-- Heater power of a drive in µW, and the drive nearest below a power: 65,536 steps over 48 mW, 0.73 µW each (R329; log 62). -/
def heaterPower (drive : Nat) : Nat := drive * 48000 / 65536
def heaterDrive (uW : Nat) : Nat := min 65535 (uW * 65536 / 48000)

/-- Distance of a heater power from 24 mW. -/
def fromMiddle (uW : Nat) : Nat := if uW < 24000 then 24000 - uW else uW - 24000

/-- The position nearest 24 mW (R330, step 4). -/
def nearestMiddle : List Nat → Option Nat
  | [] => none
  | h :: r =>
    match nearestMiddle r with
    | some x => if fromMiddle x < fromMiddle h then some x else some h
    | none => some h

/-- The positions at which a sweep met the line of a slot, `g` being that of slot 0 after the gap (R330, step 3). -/
def targetsOf (slot g : Nat) (l : List Nat) : List Nat := l.filter (fun h => lineOf g h == slot && h ≤ 48000)

/-- A ring becomes FAILED; in an ISOLATED port, which keeps trying to acquire its FAILED rings, it sweeps again (R335). -/
def failRing (s : State) (p : Nat) (r : Ring) : Ring :=
  if portState s p = 4 then { r with st := 1, heater := 0, tries := 0, recheck := true } else { r with st := 4, heater := 0, tries := 0 }

/-- RING_SWEEP (R330): the target found, a line missing, or a sweep without a gap. -/
def ringSwept (s : State) (p : Nat) (tx : Bool) (slot : Nat) (o : SweepOutcome) : State :=
  let r := getRing s p tx slot
  match afterGap o.peaks with
  | some g =>
    match nearestMiddle (targetsOf slot g o.peaks) with
    | some h => putRing s p tx slot { r with st := 2, heater := heaterDrive h, tries := 0, wrong := false }
    | none =>
      let s1 := putRing s p tx slot (failRing s p r)
      if tx then setMap s1 p true slot 2 0 else s1
  | none => putRing s p tx slot (if 2 ≤ r.tries then failRing s p r else { r with tries := r.tries + 1 })

/-- After a ring event: the far end hears of a receive slot's new status, a bad transmit slot's lane moves, and training may end. -/
def afterRing (s0 s : State) (p : Nat) (tx : Bool) (slot : Nat) : State :=
  let moves := (getRing s p true slot).st != 2 && (portState s p == 3 || portState s p == 2 || (portState s p == 1 && slotUsable s0 p true slot))
  let s1 := if tx then (if moves then moveLane s p slot else s)
            else if portState s p = 0 then s else sendReport s p []
  settlePort s0 s1 p

def execRingSweep (port : Nat) (tx : Bool) (slot : Nat) (o : SweepOutcome) (s : State) : Host.Outcome State Fault Refusal :=
  .next (if port < 16 && slot < 18 && (getRing s port tx slot).st = 1 && sweepTurn s port tx slot o.riSteady then
      afterRing s (ringSwept s port tx slot o) port tx slot
    else s)

/-- The heater of a LOCKED or HOLD ring after a feedforward correction of -0.114 mW/°C (R331), in drive steps, within the drive. `dT32`: the change of
the two sensors together in 1/16 °C, twice that of their mean. -/
def feedRing (dT32 : Int) (r : Ring) : Ring :=
  if r.st = 2 ∨ r.st = 3 then { r with heater := (max 0 (min 65535 ((r.heater : Int) - 114 * 65536 * dT32 / (32 * 48000)))).toNat } else r

/-- FEEDFORWARD (R331): the changes of the two lath sensors at the port's ring banks, in 1/16 °C; every ring takes that of their mean. -/
def execFeedforward (port : Nat) (dT16tx dT16rx : Int) (s : State) : Host.Outcome State Fault Refusal :=
  .next (if port < 16 then
      let v := getPort s port
      putPort s port { v with tx := v.tx.map (feedRing (dT16tx + dT16rx)), rx := v.rx.map (feedRing (dT16tx + dT16rx)) }
    else s)

/-- LOCK_LOSS (R331): LOCKED to HOLD. -/
def execLockLoss (port : Nat) (tx : Bool) (slot : Nat) (s : State) : Host.Outcome State Fault Refusal :=
  .next (let r := getRing s port tx slot
    if port < 16 && slot < 18 && r.st = 2 then
      afterRing s (odBump (putRing s port tx slot { r with st := 3 }) (0x5200 + port) 0x10 1) port tx slot
    else s)

/-- RECAPTURE (R331): HOLD to LOCKED. -/
def execRecapture (port : Nat) (tx : Bool) (slot : Nat) (s : State) : Host.Outcome State Fault Refusal :=
  .next (let r := getRing s port tx slot
    if port < 16 && slot < 18 && r.st = 3 then afterRing s (putRing s port tx slot { r with st := 2 }) port tx slot else s)

/-- HOLD_EXPIRY (R331): HOLD to SWEEP. -/
def execHoldExpiry (port : Nat) (tx : Bool) (slot : Nat) (s : State) : Host.Outcome State Fault Refusal :=
  .next (let r := getRing s port tx slot
    if port < 16 && slot < 18 && r.st = 3 then
      afterRing s (putRing s port tx slot { r with st := 1, tries := 0, recheck := true }) port tx slot
    else s)

/-- HEATER_JUMP (R333): the ring is locked to the wrong line; where a slot check has told of it, it is handled once (R346). -/
def execHeaterJump (port : Nat) (tx : Bool) (slot : Nat) (s : State) : Host.Outcome State Fault Refusal :=
  .next (if port < 16 && slot < 18 && (getRing s port tx slot).st = 2 then
      afterRing s (wrongLock s port tx slot (!tx && listGet false (getPort s port).slotBad slot)) port tx slot
    else s)

/-! ### Markers (R325, R327, R332) -/

/-- Two missing or bad markers in a row: alignment is lost, and while the ring is LOCKED the slot check fails, the sign of a wrong lock (R327, R332,
R333). -/
def loseAlignment (s : State) (p slot : Nat) : State :=
  let v := getPort s p
  let locked := (getRing s p false slot).st == 2
  let s1 := putPort s p { v with aligned := listSet v.aligned slot false, missed := listSet v.missed slot 0,
                                 slotBad := listSet v.slotBad slot (locked || listGet false v.slotBad slot) }
  settlePort s (sendReport (if locked && !listGet false v.slotBad slot then odBump s1 (0x5200 + p) 0x0F 1 else s1) p []) p

/-- Signed 12-bit LPWR of 0.05 dB units, in 0.01 dBm. -/
def markerLpwr (n : Nat) : Int := (if bits n 110 12 < 2048 then (bits n 110 12 : Int) else (bits n 110 12 : Int) - 4096) * 5

/-- The slots that a failed slot check puts at fault: the receive ring's own where its heater jump fired, and else those of the far rings of the slot
and of the one that the marker named (R333). -/
def faultSlots (jumped : Bool) (l : List Bool) (slot named : Nat) : List Bool :=
  if jumped then listSet l slot true else listSet (listSet l slot true) named true

/-- The receive count after a marker: the first one since nothing was aligned starts it, at the nearest marker period, its word's eight codewords
being over (R325, R326). -/
def markerCount (v : Port) : Nat := if v.aligned.any id then v.rxCount else ((v.rxCount + 32768) / 65536 * 65536 + 8) % 2 ^ 32

/-- A marker with a good CRC: alignment, slot check, the far transmitter's map, its power reading. -/
def goodMarker (s : State) (p slot : Nat) (n : Nat) : State :=
  let v := getPort s p
  let right := bits n 151 5 == slot
  let jumped := (getRing s p false slot).wrong
  let s1 := putPort s p { v with aligned := listSet v.aligned slot true, missed := listSet v.missed slot 0,
                                 slotBad := if right then listSet v.slotBad slot false else faultSlots jumped v.slotBad slot (bits n 151 5),
                                 farLpwr := markerLpwr n, rxCount := markerCount v }
  let s2 := if right then (if bitOf n 150 then setMap s1 p false slot 1 0 else setMap s1 p false slot 0 (bits n 146 4)) else s1
  let s3 := if !right && !jumped && !listGet false v.slotBad slot then odBump s2 (0x5200 + p) 0x0F 1 else s2
  settlePort s (sendReport s3 p []) p

/-- MARKER (R325, R327, R332). -/
def execMarker (port slot : Nat) (word : BitVec 160) (s : State) : Host.Outcome State Fault Refusal :=
  .next (if 16 ≤ port || 18 ≤ slot || portState s port = 0 then s
    else if cwGood word && cwType word == 1 then goodMarker s port slot word.toNat
    else if cwGood word then s
    else
      let v := getPort s port
      if listGet 0 v.missed slot = 0 then putPort s port { v with missed := listSet v.missed slot 1 } else loseAlignment s port slot)

/-- ALIGNMENT_LOSS (R327): two consecutive markers missing. -/
def execAlignmentLoss (port slot : Nat) (s : State) : Host.Outcome State Fault Refusal :=
  .next (if port < 16 && slot < 18 && portState s port ≠ 0 then loseAlignment s port slot else s)

/-! ### ECHO, IDENT, MARGIN (R326, R342) -/

/-- ECHO (R342): a reply gives one round trip, in ps, less the far turnaround and the fixed latencies of both ends (`fixed`, ps); a
request is answered, its turnaround being `fixed` PORT cycles. -/
def execEcho (port : Nat) (word : BitVec 160) (portCycle fixed : Nat) (s : State) : Host.Outcome State Fault Refusal :=
  .next (if 16 ≤ port || portState s port = 0 || !cwGood word || cwType word ≠ 4 then s
    else
      let n := word.toNat
      let v := getPort s port
      if bitOf n 155 then
        if portState s port = 2 && bits n 147 8 < 64 && (odLook v.echoes (bits n 147 8)).isNone then
          putPort s port { v with echoes := v.echoes ++ [(bits n 147 8, ((portCycle + 2 ^ 32 - bits n 115 32) % 2 ^ 32 - bits n 99 16) * 640 - fixed)] }
        else s
      else emit s (.control port 0 (controlWord 4 (2 ^ 155 + bits n 147 8 * 2 ^ 147 + bits n 115 32 * 2 ^ 115 + fixed % 65536 * 2 ^ 99))))

/-- IDENT (R342): the far end's identity. -/
def execIdent (port : Nat) (word : BitVec 160) (s : State) : Host.Outcome State Fault Refusal :=
  .next (let n := word.toNat
    if port < 16 && portState s port ≠ 0 && cwGood word && cwType word == 5 then
      putPort s port { (getPort s port) with far := some (bits n 136 20, bits n 132 4, bits n 68 64, bits n 67 1) }
    else s)

/-- MARGIN (R326, R339): the far end's step, value and verdicts; each sequence number is taken once. -/
def execMargin (port : Nat) (word : BitVec 160) (s : State) : Host.Outcome State Fault Refusal :=
  .next (let n := word.toNat
    let v := getPort s port
    if port < 16 && portState s port ≠ 0 && cwGood word && cwType word == 6 && bits n 152 4 ≤ 4 && (v.mSeq ≠ bits n 114 8 || v.mStep = 0) then
      putPort s port { v with mStep := bits n 152 4, mValue := bits n 140 12, mVerdict := bits n 122 18, mSeq := bits n 114 8 }
    else s)

/-! ### Mist coat (R339, R340) -/

/-- A receive slot's margin is below what is required. -/
def lowSlot (s : State) (p slot : Nat) : Bool :=
  slotRole s p false slot == 0 &&
    (listGet 0 (getPort s p).power slot < odGet s (0x5400 + p) 0x09 || listGet 0 (getPort s p).tracking slot < odGet s (0x5400 + p) 0x0A)

/-- SPARE receive slots that are usable. -/
def goodSpares (s : State) (p : Nat) : Nat := (slots18.filter (fun x => slotRole s p false x == 1 && slotUsable s p false x)).length

/-- Re-acquired slots become SPARE once their margins are checked (R333). -/
def recheckSlots (s : State) (p : Nat) : State :=
  let s1 := slots18.foldl (fun s x =>
    let r := getRing s p true x
    if r.st = 2 ∧ (r.recheck ∨ slotRole s p true x = 2) then
      let t := putRing s p true x { r with recheck := false }
      if slotRole t p true x = 2 then setMap t p true x 1 0 else t
    else s) s
  let v := getPort s1 p
  putPort s1 p { v with rx := v.rx.map (fun r => if r.st = 2 then { r with recheck := false } else r) }

/-- A bit per slot that satisfies a condition. -/
def slotBits (f : Nat → Bool) : Nat := slots18.foldl (fun n x => if f x then n + 2 ^ x else n) 0

/-- The steps and values of a mist coat: the attenuator from 0 dB by 0.25 dB to 10 dB, receive and then transmit rings by 2 pm through 60 pm in each
sense, and the restore (R339). -/
def coatValues : List (Nat × Int) :=
  let pm : List Int := (List.range 61).map (fun i => (i : Int) * 2 - 60)
  (List.range 41).map (fun (i : Nat) => (1, (i : Int) * 25)) ++ pm.map (fun x => (2, x)) ++ pm.map (fun x => (3, x)) ++ [(4, 0)]

/-- The error criterion is met on a slot's lane at a value: 425 errors or more over 100 µs (R339). `rows`: the errors of each slot, value by value. -/
def criterion (rows : List (List Nat)) (i slot : Nat) : Bool := 425 ≤ listGet 0 (listGet [] rows i) slot

/-- The largest of n + 1 steps away from a start at which the criterion was not met. -/
def largestPassing (rows : List (List Nat)) (at' : Nat → Nat) (n slot : Nat) : Nat :=
  ((List.range (n + 1)).filter (fun k => !criterion rows (at' k) slot)).foldl max 0

/-- The power margin of a slot's lane in 0.01 dB: the largest attenuation at which the criterion was not met (R339). -/
def powerMargin (power : List (List Nat)) (slot : Nat) : Nat := largestPassing power id 40 slot * 25

/-- Its tracking margin in pm: the smallest, over the four directions of offset, of the largest passing offset (R339; DEDUCED, log 164). -/
def trackingMargin (tracking : List (List Nat)) (slot : Nat) : Nat :=
  2 * min (min (largestPassing tracking (30 - ·) 30 slot) (largestPassing tracking (30 + ·) 30 slot))
    (min (largestPassing tracking (91 - ·) 30 slot) (largestPassing tracking (91 + ·) 30 slot))

/-- The MARGIN words of this end, with the verdicts that its receiver came to: each names the criterion at the value before, and continues the
sequence (R326, R339). -/
def sendMargins (s : State) (p : Nat) (rows : List (List Nat)) : State :=
  let v := getPort s p
  emitAll (putPort s p { v with sseq := (v.sseq + coatValues.length) % 256 }) (coatValues.mapIdx (fun i x => Output.control p 0
    (marginWord x.1 (x.2 % 4096).toNat (if i = 0 then 0 else slotBits (criterion rows (i - 1))) (v.sseq + 1 + i))))

/-- A slot that has been re-acquired and awaits its margin check (R333, R339). -/
def reacquired (s : State) (p slot : Nat) : Bool :=
  ((getRing s p true slot).recheck && (getRing s p true slot).st == 2) || ((getRing s p false slot).recheck && (getRing s p false slot).st == 2)

/-- The margins that a coat records: of every slot where the port trains, and else of the re-acquired ones. -/
def coatMargins (s : State) (p : Nat) (old : List Nat) (new : Nat → Nat) : List Nat :=
  slots18.map (fun x => if portState s p = 1 || reacquired s p x then new x else listGet 0 old x)

/-- MIST_COAT: margins and stage references recorded, with the path loss (R338); as many of the lanes below their margin move as spares are usable,
and the others stay and are flagged. Both calibrations are tagged (R340). The attenuator is back at 0 dB at its end. -/
def mistCoat (s : State) (p : Nat) (power tracking : List (List Nat)) (refs0 : MonReadings) : State :=
  let v := getPort s p
  let refs := { refs0 with farLpwr := v.farLpwr }
  let s0 := odSet (sendMargins (putPort s p { v with
    power := coatMargins s p v.power (powerMargin power), tracking := coatMargins s p v.tracking (trackingMargin tracking),
    refs := some refs, pathLoss := v.farLpwr - refs.ri, mist := 2 }) p (power ++ tracking)) (0x5400 + p) 0x08 0
  let temp := Store.get 0 s0.sensors (0xF * 256 + 2 * p + 1)
  let s1 := tagCal (tagCal (recheckSlots s0 p) (0xA010 + p) temp) (0xA020 + p) temp
  let low := slots18.filter (lowSlot s1 p)
  let stay := low.drop (goodSpares s1 p)
  let moved := sendReport s1 p (low.take (goodSpares s1 p))
  let flagged := odSet (putPort moved p { (getPort moved p) with low := stay != [] }) (0x5200 + p) 0x0D (stay != []).toNat
  let s2 := match stay with
    | [] => flagged
    | x :: _ => fileCode (snagSet flagged (80 + p)) 0x8032 (portUnit p)
        (pack3 (listGet 0 (getPort s1 p).power x) (listGet 0 (getPort s1 p).tracking x) 0)
  settlePort s s2 p

/-- MIST_COAT (R339): in TRAINING, once the lanes have alignment; and for a single re-acquired slot in any other lit state. -/
def execMistCoat (port : Nat) (power tracking : List (List Nat)) (refs : MonReadings) (s : State) : Host.Outcome State Fault Refusal :=
  .next (let v := getPort s port
    if port < 16 && power.length = 41 && tracking.length = 122 &&
        ((portState s port = 1 && v.mist = 1 && 16 ≤ usableLanes s port false) || (2 ≤ portState s port && slots18.any (reacquired s port))) then
      mistCoat s port power tracking refs
    else s)

/-! ### Monitors (R336 to R338) -/

/-- Fall of a reading against its reference. -/
def fallOf (r x : Int) : Int := r - x

/-- Location of a loss: code, slot, fall (R338); `th` is the loss threshold. -/
def lossLocation (th : Int) (r x : MonReadings) : Option (Nat × Nat × Int) :=
  let li := fallOf r.li x.li
  let sp := fallOf r.sp x.sp
  let ri := fallOf r.ri x.ri
  let mb := (r.mbSlot.zip x.mbSlot).map (fun p => fallOf p.1 p.2)
  let df := (r.dfSlot.zip x.dfSlot).map (fun p => fallOf p.1 p.2)
  let far := fallOf r.farLpwr x.farLpwr
  if th < li then some (1, 0, li)
  else if th < sp then some (2, 0, sp)
  else
    match mb.findIdx? (fun f => th < f), df.findIdx? (fun f => th < f) with
    | some k, _ =>
      if mb.all (fun f => th < f) then some (3, 0, fallOf r.mb x.mb)
      else some (if 12 ≤ li then 5 else 4, k, listGet 0 mb k)
    | none, d =>
      if th < ri then (if th < far then none else some (6, 0, ri))
      else match d with
        | some k => if df.all (fun f => th < f) then some (7, 0, listGet 0 df 0) else some (8, k, listGet 0 df k)
        | none => none

/-- The loss threshold, 0.3 dB higher while the stage references are guarded (R424). -/
def lossThreshold (s : State) (p : Nat) : Int := (odGet s (0x5400 + p) 0x07 : Int) + (if guarded s (0xA010 + p) then 30 else 0)

/-- MONITOR_COMPARE (R336, R338): the readings of one integration time, and the far end's LPWR as its markers last gave it, against their references. -/
def monitorCompare (s : State) (p : Nat) (r0 : MonReadings) : State :=
  let r := { r0 with farLpwr := (getPort s p).farLpwr }
  let s1 := odSet (odSet (odSet (odSet s (0x5400 + p) 0x01 (i32 r.li)) (0x5400 + p) 0x02 (i32 r.sp)) (0x5400 + p) 0x03 (i32 r.mb))
    (0x5400 + p) 0x04 (i32 r.ri)
  let s2 := putPort s1 p { (getPort s1 p) with last := some r }
  match (getPort s p).refs with
  | none => s2
  | some ref =>
    match lossLocation (lossThreshold s p) ref r with
    | none => s2
    | some (code, slot, fall) =>
      let v := code * 2 ^ 24 + slot * 2 ^ 16 + (min 65535 fall.toNat)
      fileCode (snagSet (odSet s2 (0x5400 + p) 0x06 v) (80 + p)) 0x8030 (portUnit p) v

def execMonitorCompare (port : Nat) (r : MonReadings) (s : State) : Host.Outcome State Fault Refusal :=
  .next (if port < 16 && bulkOn s then monitorCompare s port r else s)

/-! ### Keying (R342 to R345) -/

/-- Fields of a plan entry. -/
def planEntry (s : State) (p : Nat) : Nat := bits (odGet s 0x5300 0x01) (32 * p) 32
def planMatches (s : State) (q : Nat) (far : Nat × Nat × Nat × Nat) : Bool :=
  bitOf (planEntry s q) 31 && bits (planEntry s q) 0 20 == far.1 && bits (planEntry s q) 20 4 == far.2.1

/-- Port q's own far end matches its own entry: under the plan while the port keys, and as it keyed last otherwise (R345). -/
def selfMatch (s : State) (q : Nat) : Bool :=
  if portState s q = 2 then (match (getPort s q).far with | some f => planMatches s q f | none => false) else (getPort s q).claim == some q

/-- The plan entry of another port that a far identity equals, that port not matching itself (R343). -/
def swappedTo (s : State) (p : Nat) (far : Nat × Nat × Nat × Nat) : Option Nat :=
  (List.range 16).find? (fun q => q != p && planMatches s q far && !selfMatch s q)

/-- The plan entry of another port that port p's far end claims (R343, R345). -/
def swapOf (s : State) (p : Nat) : Option Nat :=
  if portState s p = 2 then (match (getPort s p).far with
    | some f => if planMatches s p f then none else swappedTo s p f
    | none => none)
  else (getPort s p).claim.filter (· != p)

/-- The physical ports that are SWAPPED, with the entries they claim (R344). -/
def swappedPorts (s : State) : List (Nat × Nat) := (List.range 16).filterMap (fun p => (swapOf s p).map (fun q => (p, q)))

/-- Every claimed entry is claimed once and allows renumbering (R344); a port that is UP has been found to do so at its own keying (R345). -/
def renumberOk (s : State) : Bool :=
  (swappedPorts s).all (fun x => (portState s x.1 == 3 || bitOf (planEntry s x.2) 30) && ((swappedPorts s).filter (fun y => y.2 == x.2)).length == 1)

/-- The logical map of R344; logical ports that no far end claims take the unclaimed physical ports in ascending order (log 32). -/
def renumbered (s : State) : Nat :=
  let claims := (List.range 16).map (fun l => ((swappedPorts s).find? (fun x => x.2 == l)).elim (if selfMatch s l then some l else none) (fun x => some x.1))
  let free := (List.range 16).filter (fun p => !claims.contains (some p))
  let m := claims.foldl (fun (a : List Nat × List Nat) c => match c with
    | some p => (a.1 ++ [p], a.2)
    | none => (a.1 ++ [a.2.headD 0], a.2.drop 1)) ([], free)
  m.1.zipIdx.foldl (fun n x => n + x.1 * 16 ^ x.2) 0

/-- The median of 64 round trips (R342): the mean of the two middle ones, rounded down. -/
def insertSorted (x : Nat) : List Nat → List Nat
  | [] => [x]
  | y :: r => if x ≤ y then x :: y :: r else y :: insertSorted x r
def median64 (l : List Nat) : Nat :=
  let t := l.foldr insertSorted []
  (listGet 0 t 31 + listGet 0 t 32) / 2

/-- Headroom for a round trip in ps: 700 GB/s × (round trip + 24 ns), up to a multiple of 64 B (R296). -/
def headroom (rtt : Nat) : Nat := roundUp (ceilDiv' ((rtt + 24000) * 7) 10) 64

/-- Round-trip limit of a reach class in ps (R296). -/
def reachLimit (cls : Nat) : Nat := if cls = 1 then 29400000 else 1470000

/-- A result entry (R344). -/
def resultEntry (result lport : Nat) (ren reach : Bool) (fport fpkg : Nat) : Nat :=
  result * 2 ^ 60 + lport * 2 ^ 56 + ren.toNat * 2 ^ 55 + reach.toNat * 2 ^ 54 + fport * 2 ^ 50 + fpkg * 2 ^ 30

/-- Logical port of a physical port. -/
def logicalOf (s : State) (p : Nat) : Nat := ((List.range 16).find? (fun l => physPort s l == p)).getD p

/-- The plan entry that a port's far end equals at its keying. -/
def setClaim (s : State) (p : Nat) (q : Option Nat) : State := putPort s p { (getPort s p) with claim := q }

/-- Isolate every port that is SWAPPED in `s0` (R344). -/
def isolateSwapped (s0 s : State) : State :=
  (swappedPorts s0).foldl (fun s x => if portState s x.1 = 2 ∨ portState s x.1 = 3 then isolate s x.1 2 else s) s

/-- A port that has keyed is UP, as far as its lanes allow (R341). -/
def goUp (s : State) (p : Nat) : State := settlePort s (setPortState s p 3 0) p

/-- Complete the keying of a port whose far identity and 64 round trips are known (R296, R342 to R344). -/
def keyPort (s : State) (p : Nat) : State :=
  match (getPort s p).far with
  | none => s
  | some far =>
    if portState s p ≠ 2 || (getPort s p).echoes.length < 64 then s
    else
      let rtt := median64 ((getPort s p).echoes.map (·.2))
      let beyond := decide (reachLimit (odGet s (0x5200 + p) 0x02) < rtt)
      let s1 := odSet (putPort s p { (getPort s p) with cls := odGet s (0x5200 + p) 0x02 }) (0x5200 + p) 0x03 rtt
      if !hasNumber s then setKeyEntry s1 p (resultEntry 0 0 false beyond far.2.1 far.1)
      else
        let s2 := odBump (odSet s1 (0x5200 + p) 0x04 (headroom rtt)) 0x5310 0x03 1
        if planMatches s p far then
          let s3 := setKeyEntry (setClaim s2 p (some p)) p (resultEntry 1 (logicalOf s2 p) false beyond far.2.1 far.1)
          if beyond then isolate s3 p 1 else goUp s3 p
        else
          match swappedTo s p far with
          | some q =>
            if renumberOk s then
              let s3 := setKeyEntry (odSet (setClaim s2 p (some q)) 0x5310 0x02 (renumbered s)) p (resultEntry 2 q true beyond far.2.1 far.1)
              if beyond then isolate s3 p 2 else goUp s3 p
            else isolateSwapped s (setKeyEntry (setClaim s2 p (some q)) p (resultEntry 2 (logicalOf s2 p) false beyond far.2.1 far.1))
          | none => isolate (setKeyEntry (setClaim s2 p none) p (resultEntry 3 (logicalOf s2 p) false beyond far.2.1 far.1)) p 3

/-- KEYING (R342, R343). -/
def execKeying (port : Nat) (s : State) : Host.Outcome State Fault Refusal := .next (if port < 16 then keyPort s port else s)

/-- KEYING_TIME_EXPIRY (R342): no IDENT within the keying time. -/
def execKeyingTimeExpiry (port : Nat) (s : State) : Host.Outcome State Fault Refusal :=
  .next (if port < 16 && portState s port = 2 && (getPort s port).far.isNone then
      goDark (odBump (setKeyEntry s port (resultEntry 4 (logicalOf s port) false false 0 0)) 0x5310 0x03 1) port
    else s)

/-- KEYING_DARK_RETRY (R341): retried after 1 s. -/
def execKeyingDarkRetry (port : Nat) (s : State) : Host.Outcome State Fault Refusal :=
  .next (if port < 16 && portState s port = 0 && bits (keyEntry s port) 60 4 = 4 then wakePort s port else s)

/-- A re-key request for a port (R345, R346): FAILED rings sweep again; an ISOLATED port trains, and a port that is UP keys anew once no
move is pending. -/
def rekeyPort (s : State) (p : Nat) : State :=
  if portState s p = 4 then enterTraining s p
  else if portState s p = 1 then putPort s p { (getPort s p) with tx := (getPort s p).tx.map retryRing, rx := (getPort s p).rx.map retryRing }
  else if portState s p = 2 ∨ portState s p = 3 then
    let v := getPort s p
    let s1 := putPort s p { v with tx := v.tx.map retryRing, rx := v.rx.map retryRing, rekey := true }
    if v.txMove == [] && v.rxMove == [] then enterKeying s1 p else s1
  else s

/-! ### Frames (R293, R323) -/

/-- Count an uncorrectable codeword of a receive slot (R323, 0x5400 + port .16). -/
def countCodeword (p : Nat) (s : State) (slot : Nat) : State :=
  let n := Store.get 0 s.codewords (p * 18 + slot)
  let s1 := { s with codewords := Store.put 0 s.codewords (p * 18 + slot) (min cntMax (n + 1)) }
  if n + 1 = cntMax then saturationEvent s1 (0x5400 + p) 0x16 else s1

/-- Count the symbols that a codeword of a receive slot had corrected, 15 at most (R322, 0x5400 + port .15). -/
def countSymbols (p : Nat) (s : State) (x : Nat × Nat) : State :=
  if 18 ≤ x.1 then s
  else
    let n := min cntMax (Store.get 0 s.symbols (p * 18 + x.1) + min 15 x.2)
    let s1 := { s with symbols := Store.put 0 s.symbols (p * 18 + x.1) n }
    if n = cntMax ∧ Store.get 0 s.symbols (p * 18 + x.1) ≠ cntMax then saturationEvent s1 (0x5400 + p) 0x15 else s1

/-- Data lanes whose data counts as bad: the receive ring is not LOCKED, or the slot check has failed (R332). -/
def lanesDown (s : State) (p : Nat) : List Nat :=
  (List.range 16).filter (fun l => match laneSlot s p false l with
    | some x => (getRing s p false x).st != 2 || listGet false (getPort s p).slotBad x
    | none => true)

/-- One PORT cycle of a port: a codeword takes twenty (R322), both directions counting theirs alike, the receiver once it has alignment (R326). The
frame that begins a codeword says which slots' codewords the decoder could not correct, and that holds for its twenty frames (R323). -/
def framePhase (v : Port) (bad : List Nat) : Port :=
  let last := v.phase = 19
  { v with phase := if last then 0 else v.phase + 1, badNow := if v.phase = 0 then bad else v.badNow,
           rxCount := if last && v.aligned.any id then (v.rxCount + 1) % 2 ^ 32 else v.rxCount,
           txCount := if last then (v.txCount + 1) % 2 ^ 32 else v.txCount }

/-- The word that every lane of a direction sends next: a pending MOVE, in turn where there are several, or IDLE (R325, R326; log 143). -/
def streamWord (v : Port) : Nat :=
  match v.txMove with
  | [] => controlWord 0 0
  | m :: r => moveWord (listGet m (m :: r) (v.txCount / 8 % (r.length + 1)))

/-- The control stream of a transmit direction at its codeword count: a word each 8 codewords, and the markers each 65,536 (R325). -/
def controlStream (s : State) (p : Nat) : State :=
  let v := getPort s p
  if v.phase ≠ 0 || v.txCount % 8 ≠ 0 then s
  else if v.txCount % 65536 = 0 then sendMarkers s p
  else emit s (.control p 0 (streamWord v))

/-- The receive slots whose codewords a frame reports uncorrectable: those of data lanes, and SPARE ones (R323). -/
def badSlots (s : State) (p : Nat) (f : Frame) : List Nat :=
  f.badLanes.filterMap (laneSlot s p false) ++ f.badSpares.filter (fun x => x < 18 && slotRole s p false x == 1)

/-- FRAME_RECEIVE, one PORT cycle of a port that is not DARK: the codewords of its lanes, the control stream, on an UP port the slots of the frame,
and a REPORT of the slots whose codewords were uncorrectable (R322 to R326). -/
def execFrameReceive (port : Nat) (f : Frame) (s : State) : Host.Outcome State Fault Refusal :=
  .next (if port < 16 && portState s port != 0 then
      let bad := badSlots s port f
      let s1 := controlStream (putPort s port (framePhase (getPort s port) bad)) port
      let s2 := if (getPort s port).phase = 0 then f.corrected.foldl (countSymbols port) (bad.foldl (countCodeword port) s1) else s1
      let now := (getPort s2 port).badNow
      let lanes := (now.filter (fun x => slotRole s port false x == 0)).map (slotLane s port false)
      sendReport (if portUp s port then takeFrame s2 port { f with badLanes := lanes ++ lanesDown s port } else s2) port now
    else s)

/-! ### Light (R321, R341) -/

/-- LASER_LOST (R321): the laser-input reading stayed below +16.0 dBm for 10 µs. -/
def execLaserLost (port : Nat) (li : Int) (s : State) : Host.Outcome State Fault Refusal :=
  .next (if port < 16 && bulkOn s && li < 1600 && (getPort s port).laser then
      goDark (putPort s port { (getPort s port) with laser := false }) port
    else s)

/-- LASER_PRESENT (R321, R341). -/
def execLaserPresent (port : Nat) (li : Int) (s : State) : Host.Outcome State Fault Refusal :=
  .next (if port < 16 && bulkOn s && 1600 ≤ li then wakePort (putPort s port { (getPort s port) with laser := true }) port else s)

/-- RI_LOW (R341): the receive input below -5.0 dBm for 10 µs. -/
def execRiLow (port : Nat) (ri : Int) (s : State) : Host.Outcome State Fault Refusal :=
  .next (if port < 16 && bulkOn s && ri < -500 then
      let s1 := putPort s port { (getPort s port) with riLost := true }
      if portState s port = 3 then enterTraining s1 port else s1
    else s)

/-- RI_RESTORED (R341): an ISOLATED port whose light was lost and restored trains again. -/
def execRiRestored (port : Nat) (ri : Int) (s : State) : Host.Outcome State Fault Refusal :=
  .next (if port < 16 && bulkOn s && -500 ≤ ri then
      let lost := (getPort s port).riLost
      let s1 := putPort s port { (getPort s port) with riLost := false }
      if lost && portState s port = 4 then enterTraining s1 port else s1
    else s)

end Sys2Proof.Machine
end

