-- ==== Sys2Proof/Machine/Power.lean ====
section
/-! DEFINITION. Power, heat and the governor (R409 to R426): clock stretching, the governor and policy loops, emergencies, thermal
trips. -/

namespace Sys2Proof.Machine

/-! ### Frequencies (R416) -/

def arraySetPoint (s : State) (d : Nat) : Nat := listGet 1500 s.arraySet d
def coreSetPoint (s : State) (d : Nat) : Nat := listGet 1800 s.coreSet d

/-- Frequency in force of ARRAY.d, in 1/1,024 MHz: the lowest that a stretch allows, or the set point. -/
def arrayFreq (s : State) (d : Nat) : Nat :=
  (s.stretches.filter (fun x => x.d == d)).foldl (fun m x => min m x.f) (arraySetPoint s d * 1024)

/-- 1/16 of the set point, and the floor of every stretch, in 1/1,024 MHz. -/
def sixteenth (s : State) (d : Nat) : Nat := arraySetPoint s d * 64
def floorFreq : Nat := 400 * 1024

/-- Show the frequencies in force (0x2300 + d .0B), rounded to a whole MHz. -/
def showFreq (s : State) : State :=
  [0, 1, 2, 3].foldl (fun s d => odSet s (0x2300 + d) 0x0B ((arrayFreq s d + 512) / 1024)) s

/-- A stretch appears, or appears again, on a die: its frequency starts from the lower of what its row states and the one in force. -/
def addStretch (s : State) (d cause f : Nat) : State :=
  let f' := max floorFreq (min f (arrayFreq s d))
  { s with stretches := s.stretches.filter (fun x => !(x.d == d && x.cause == cause)) ++ [⟨d, cause, true, f'⟩] }

def hasStretch (s : State) (d cause : Nat) : Bool := s.stretches.any (fun x => x.d == d && x.cause == cause && x.active)

/-- Its cause has cleared: the release begins. -/
def releaseStretch (s : State) (d cause : Nat) : State :=
  { s with stretches := s.stretches.map (fun x => if x.d == d && x.cause == cause then { x with active := false } else x) }

def dies : List Nat := [0, 1, 2, 3]

/-- Set the frequency of CORE.d. -/
def setCoreFreq (s : State) (d f : Nat) : State := { s with coreMHz := listSet s.coreMHz d f }

/-- A stretch in force holds CORE.d at 1.0 GHz: an emergency's, until its release has ended, or a junction's (R416, R421, R422). -/
def holdsCore (d : Nat) (x : Stretch) : Bool := x.d == d && (x.cause == 5 || ((x.cause == 4 || x.cause == 6) && x.active))

/-- CORE.d returns to its set point unless an emergency or another junction cause holds it at 1.0 GHz. -/
def restoreCore (s : State) (d : Nat) : State :=
  if s.stretches.any (holdsCore d) || emergency s then s else setCoreFreq s d (coreSetPoint s d)

/-! ### Sensors and thresholds (R413, R416, R420) -/

def readSensor (s : State) (site n : Nat) : Int := Store.get 0 s.sensors (site * 256 + n)

/-- A sensor that R413 names. -/
def sensorExists (site n : Nat) : Bool := (site < 4 && n < 32) || (site == 15 && (n < 62 || (64 ≤ n && n < 88)))

def isStackSensor (site n : Nat) : Bool := site == 15 && 64 ≤ n

/-- The sensors of a site that have been read, with their readings. -/
def sensorsOf (s : State) (site lo hi : Nat) : List Int :=
  (s.sensors.filter (fun p => p.1 / 256 == site && lo ≤ p.1 % 256 && p.1 % 256 < hi)).map (·.2)

/-- The value of an I32 (R457). -/
def int32 (v : Nat) : Int := if v < 2 ^ 31 then v else (v : Int) - 2 ^ 32

/-- A threshold of 0x2400, 1 °C lower while the sensor offsets are guarded (R424). -/
def threshold (s : State) (sub : Nat) : Int := int32 (odGet s 0x2400 sub) - (if guarded s 0xA001 then 16 else 0)

/-- First sub-index of the thresholds of a sensor: soft, stretch, trip follow. -/
def thresholdSub (site n : Nat) : Nat := if site < 4 then 1 else if isStackSensor site n then 7 else 4

/-- The hottest reading of a list, with the key of its sensor. -/
def hottest (l : List (Nat × Int)) : Option (Nat × Int) :=
  l.foldl (fun m p => match m with | none => some p | some b => if b.2 < p.2 then some p else some b) none

/-- The summary of the sensors (0x2200.01 to .04). -/
def showSensors (s : State) : State :=
  let die := hottest (s.sensors.filter (fun p => p.1 / 256 < 4))
  let lath := hottest (s.sensors.filter (fun p => p.1 / 256 == 15 && p.1 % 256 < 62))
  let stack := hottest (s.sensors.filter (fun p => p.1 / 256 == 15 && 64 ≤ p.1 % 256))
  let val := fun (o : Option (Nat × Int)) => match o with | some p => i32 p.2 | none => 0
  let id := match die with | some p => unitId 12 (p.1 / 256) (p.1 % 256) 0xFFF | none => 0
  odSet (odSet (odSet (odSet s 0x2200 0x01 (val die)) 0x2200 0x02 id) 0x2200 0x03 (val lath)) 0x2200 0x04 (val stack)

/-- The sensors that a supply powers now: without VBULK only the management complex's own (R35, R413; DEDUCED, log 135). -/
def sensorPowered (s : State) (site n : Nat) : Bool := bulkOn s || (s.aonUp && site == 15 && n == 60)

/-- Take a reading. -/
def sense (s : State) (r : Reading) : State :=
  if sensorExists r.site r.sensor && sensorPowered s r.site r.sensor then showSensors { s with sensors := Store.put 0 s.sensors (r.site * 256 + r.sensor) r.t16 } else s

def senseAll (s : State) (rs : List Reading) : State := rs.foldl sense s

/-- Dies that a sensor's row of R416 acts on: its own, or all four for the lath and the stacks. -/
def diesOf (r : Reading) : List Nat := if r.site < 4 then [r.site] else dies
def thermalCause (r : Reading) : Nat := if r.site < 4 then 2 else 3

/-! ### The stretch commands -/

/-- The tag of a calibration as it was captured, without its guard bit. -/
def captureTag (s : State) (i : Nat) : Nat := withBit (odGet s i 0x01) 15 false

/-- The droop margin of a die in mV: that of calibration 0xA002, 10 mV less while it is guarded, which puts the threshold that much higher (R416,
R424). -/
def droopMargin (s : State) (d : Nat) : Nat := Config.droopMargin (captureTag s 0xA002) d - (if guarded s 0xA002 then 10 else 0)

/-- DROOP (R416): a sense point is further below the set-point voltage than the droop margin. -/
def execDroop (x : DroopSense) (s : State) : Host.Outcome State Fault Refusal :=
  .next (if x.die < 4 && bulkOn s && droopMargin s x.die < x.below then
      showFreq (odBump (addStretch s x.die 0 (arrayFreq s x.die / 2)) (0x2300 + x.die) 0x0E 1)
    else s)

/-- OVERCURRENT (R416). -/
def execOvercurrent (watts : Nat) (s : State) : Host.Outcome State Fault Refusal :=
  .next (if 6700 < watts && bulkOn s then
      showFreq (odBump (dies.foldl (fun s d => addStretch s d 1 (arrayFreq s d / 2)) s) 0x2100 0x0C 1)
    else s)

/-- THERMAL_STRETCH (R416): 3/4 of the set point at once; a cause that is in force already is stepped by STRETCH_STEP_DOWN. -/
def execThermalStretch (r : Reading) (s : State) : Host.Outcome State Fault Refusal :=
  .next (let s1 := sense s r
    if sensorExists r.site r.sensor && bulkOn s && threshold s1 (thresholdSub r.site r.sensor + 1) ≤ r.t16 then
      showFreq ((diesOf r).foldl (fun s d =>
        if hasStretch s d (thermalCause r) then s else addStretch s d (thermalCause r) (arraySetPoint s d * 768)) s1)
    else s1)

/-- JUNCTION_LIMIT (R416): a die sensor at 100 °C, for its die, or a lath sensor at 95 °C, for all four. -/
def execJunctionLimit (r : Reading) (s : State) : Host.Outcome State Fault Refusal :=
  .next (let s1 := sense s r
    if sensorExists r.site r.sensor && bulkOn s && !isStackSensor r.site r.sensor && (if r.site < 4 then 1600 else 1520) ≤ r.t16 then
      showFreq ((diesOf r).foldl (fun s d => setCoreFreq (addStretch s d (if r.site < 4 then 4 else 6) floorFreq) d 1000) s1)
    else s1)

/-- A thermal cause holds: a sensor of its row is at or above the stretch threshold. -/
def thermalHolds (s : State) (d cause : Nat) : Bool :=
  if cause = 2 then (sensorsOf s d 0 32).any (fun t => threshold s 2 ≤ t)
  else if cause = 3 then (sensorsOf s 15 0 62).any (fun t => threshold s 5 ≤ t) || (sensorsOf s 15 64 88).any (fun t => threshold s 8 ≤ t)
  else false

/-- STRETCH_STEP_DOWN (R416): each thermal stretch of the die whose cause holds goes down by 1/16 of the set point. -/
def execStretchStepDown (d : Nat) (s : State) : Host.Outcome State Fault Refusal :=
  .next (showFreq { s with stretches := s.stretches.map (fun x =>
    if x.d == d && x.active && thermalHolds s d x.cause then { x with f := max floorFreq (x.f - sixteenth s d) } else x) })

/-- The stretch of a die in release by its own row of R416. -/
def inRelease (s : State) (x : StretchStep) : Option Stretch :=
  s.stretches.find? (fun y => y.d == x.die && y.cause == x.cause && !y.active && y.cause != 5)

/-- Raise a stretch by 1/16 of the set point; it ends at the set point. -/
def raiseStretch (s : State) (x : Stretch) : State :=
  let f := x.f + sixteenth s x.d
  if arraySetPoint s x.d * 1024 ≤ f then { s with stretches := s.stretches.erase x }
  else { s with stretches := mapFirst (· == x) (fun y => { y with f := f }) s.stretches }

/-- STRETCH_RELEASE_STEP (R416): each stretch releases by its own row (R425). -/
def execStretchReleaseStep (x : StretchStep) (s : State) : Host.Outcome State Fault Refusal :=
  .next (match inRelease s x with
    | some x => showFreq (raiseStretch s x)
    | none => s)

/-! ### Emergencies (R421, R422) -/

/-- The allocations in W as four fields, each scaled to the emergency share, rounded down (R415, R421). -/
def emergencyShare (s : State) (v : Nat) : Nat :=
  dies.foldl (fun a d => a + bits v (16 * d) 16 * odGet s 0x2100 0x03 / odGet s 0x2100 0x01 * 2 ^ (16 * d)) 0

/-- Put allocations in force; while the emergency share is held, it is taken of them. -/
def putAllocations (s : State) (v : Nat) : State :=
  match s.allocHeld with
  | some _ => odSet { s with allocHeld := some v } 0x2100 0x02 (emergencyShare s v)
  | none => odSet s 0x2100 0x02 v

/-- The clocks and allocations of an emergency (R421). -/
def emergencyClocks (s : State) : State :=
  let s1 := dies.foldl (fun s d => setCoreFreq (addStretch s d 5 floorFreq) d 1000) s
  let v := s1.allocHeld.getD (odGet s1 0x2100 0x02)
  showFreq (odSet { s1 with allocHeld := some v } 0x2100 0x02 (emergencyShare s1 v))

/-- The snag of a cause bit: 2 EXT, 3 THERMAL, 4 LIMIT, 5 SUPPLY; REQUEST has none of its own (R432). -/
def causeSnag (s : State) (b : Nat) : State := if b < 4 then snagSet s (2 + b) else s

/-- A cause appears (R421): the record of the change, and at the entry into an emergency the clocks, allocations, report and vectors.
An activation that is QUIESCING returns to DEFERRED (R504). -/
def raiseCause (s : State) (b : Nat) : State :=
  let v := odGet s 0x2100 0x05
  if bitOf v b then s
  else
    let s1 := causeSnag (stateChange s pkgUnit 0x2100 0x05 (withBit v b true) 0x8050 6) b
    if v ≠ 0 then s1
    else
      let s2 := odBump (emergencyClocks { s1 with releasing := false }) 0x2100 0x0B 1
      let s3 := if odGet s2 0x8000 0x09 = 2 then odSet s2 0x8000 0x09 1 else s2
      msixAllContexts (snagSet (fileCode s3 0x8050 pkgUnit (withBit v b true)) 1)

/-- A cause clears; when none is left the emergency is clear and the release of R422 begins. -/
def clearCause (s : State) (b : Nat) : State :=
  let v := odGet s 0x2100 0x05
  if !bitOf v b then s
  else
    let s1 := stateChange s pkgUnit 0x2100 0x05 (withBit v b false) 0 0
    if withBit v b false ≠ 0 then s1
    else dies.foldl (fun s d => releaseStretch s d 5) { s1 with releasing := true, emergAt := s1.uptime }

/-- EMERG_N is low past its filter (R421). -/
def emergNFalls (s : State) : State :=
  let s1 := { s with emergNLow := true }
  if s.aonUp then raiseCause s1 0 else s1

/-- EMERG_N_RETURNS_HIGH (R421). -/
def execEmergNReturnsHigh (s : State) : Host.Outcome State Fault Refusal :=
  .next (clearCause { s with emergNLow := false } 0)

/-- EMERGENCY_RELEASE_STEP (R422): a rise while input has stayed at or below 90 % of the floor. -/
def execEmergencyReleaseStep (watts : Nat) (s : State) : Host.Outcome State Fault Refusal :=
  .next (if s.releasing && !emergency s && 10 * watts ≤ 9 * odGet s 0x2100 0x03 then
      showFreq ((s.stretches.filter (fun x => x.cause == 5)).foldl raiseStretch s)
    else s)

/-- A trip threshold is reached (R420): the sensor stays latched, and THERMAL with it. -/
def thermalTrip (r : Reading) (s : State) : State :=
  let s1 := sense s r
  if sensorExists r.site r.sensor && sensorPowered s r.site r.sensor && threshold s1 (thresholdSub r.site r.sensor + 2) ≤ r.t16 then
    raiseCause { s1 with trips := insertNat s1.trips (r.site * 256 + r.sensor) } 1
  else s1

/-- Every sensor of a thermal row is more than `k` (in 1/16 °C) below its stretch threshold, or at least that with `k` ≥ 1. -/
def coolDie (s : State) (d : Nat) (k : Int) : Bool := (sensorsOf s d 0 32).all (fun t => t + k ≤ threshold s 2)
def coolLath (s : State) (k : Int) : Bool := (sensorsOf s 15 0 62).all (fun t => t + k ≤ threshold s 5)
def coolStack (s : State) (k : Int) : Bool := (sensorsOf s 15 64 88).all (fun t => t + k ≤ threshold s 8)

/-- A latched sensor has fallen 5 °C below its stretch threshold (R420). -/
def tripCooled (s : State) (x : Nat) : Bool :=
  readSensor s (x / 256) (x % 256) + 80 ≤ threshold s (thresholdSub (x / 256) (x % 256) + 1)

/-- STRETCH_CAUSE_CLEARS (R416, R420): cause 0 droop, 1 overcurrent, 2 die, 3 lath or stack, 4 die junction, 5 the latched THERMAL cause, 6 lath
junction. -/
def execStretchCauseClears (cause d : Nat) (rs : List Reading) (s : State) : Host.Outcome State Fault Refusal :=
  .next (let s1 := senseAll s rs
    match cause with
    | 0 => releaseStretch s1 d 0
    | 1 => dies.foldl (fun s d => releaseStretch s d 1) s1
    | 2 => if coolDie s1 d 16 then releaseStretch s1 d 2 else s1
    | 3 => if coolLath s1 16 && coolStack s1 16 then dies.foldl (fun s d => releaseStretch s d 3) s1 else s1
    | 4 => if coolDie s1 d 1 then restoreCore (releaseStretch s1 d 4) d else s1
    | 6 => if coolLath s1 1 then dies.foldl (fun s d => restoreCore (releaseStretch s d 6) d) s1 else s1
    | _ =>
      let left := s1.trips.filter (fun x => !tripCooled s1 x)
      let s2 := { s1 with trips := left }
      if left == [] && s1.trips != [] then clearCause s2 1 else s2)

/-! ### The governor loop (R417, R418, R530) -/

/-- Nominal energy of a die over the last 100 windows. -/
def windowSum (s : State) (d : Nat) : Nat := ((listGet [] s.nominal d).take 100).foldl (· + ·) 0

/-- The measured ratio r in Q4.12, moved by at most 1/16 per window (R417). -/
def nextRatio (s : State) (d m : Nat) : Nat :=
  let r := odGet s (0x2300 + d) 0x0D
  let c := windowSum s d
  if c < allocation s d * 10000 || c = 0 then r
  else max (r - 256) (min (r + 256) (min 65535 (m * 4096 / c)))

/-- The limit factor λ in Q4.12. -/
def nextLambda (s : State) (watts : Nat) : Nat :=
  let l := odGet s 0x2100 0x09
  let limit := odGet s 0x2100 0x01
  if limit < watts then min 16384 (l * watts / limit) else max 4096 (l * 63 / 64)

/-- One sensor's thermal factor above 1, as a fraction clamped to 0..3: 3 × (t - soft) / (stretch - soft). -/
def thetaOf (s : State) (sub : Nat) (t : Int) : Nat × Nat :=
  let soft := threshold s sub
  let w := threshold s (sub + 1) - soft
  if t ≤ soft then (0, 1) else if soft + w ≤ t then (3, 1) else ((3 * (t - soft)).toNat, w.toNat)

/-- The larger of two fractions. -/
def maxFrac (a b : Nat × Nat) : Nat × Nat := if a.1 * b.2 < b.1 * a.2 then b else a

/-- θ - 1 of a die: the largest over its sensors, the lath's and the stacks'. -/
def theta (s : State) (d : Nat) : Nat × Nat :=
  let l := (sensorsOf s d 0 32).map (thetaOf s 1) ++ (sensorsOf s 15 0 62).map (thetaOf s 4) ++ (sensorsOf s 15 64 88).map (thetaOf s 7)
  l.foldl maxFrac (0, 1)

/-- n / m rounded to nearest, halves up. -/
def roundDiv (n m : Nat) : Nat := (2 * n + m) / (2 * m)

/-- The price of a die: clamp(round(4096 × r × θ × λ), 2048, 16384). -/
def nextPrice (r lambda : Nat) (th : Nat × Nat) : Nat :=
  max 2048 (min 16384 (roundDiv (r * lambda * (th.1 + th.2)) (4096 * th.2)))

/-- A new window begins: running commands count their next part, and the last 100 windows are kept (R530). -/
def newWindow (s : State) : State :=
  let s1 := { s with nominal := s.nominal.map (fun (l : List Nat) => 0 :: l.take 100) }
  let go : Cmd → Bool := fun c => c.running && c.winDone < c.winTotal
  let s2 := (s1.cmds.filter go).foldl (fun s c => addWindow s (dieOf c.u) (energyPart c.nominal c.winTotal c.winDone)) s1
  { s2 with cmds := s2.cmds.map (fun c => if go c then { c with winDone := c.winDone + 1 } else c) }

/-- Bands between a capture and the present. -/
def bandDistance (s : State) (t : Nat) : Nat := max (tagBand t) (odGet s 0x2100 0x0A) - min (tagBand t) (odGet s 0x2100 0x0A)

/-- The static estimate of a die over 1 ms, in nJ: the leakage model of calibration 0xA003 at present temperatures, the voltages being free, and
raised by a tenth for each band of distance while it is guarded (R417, R424). -/
def staticEstimate (s : State) (d : Nat) : Nat :=
  let e := Config.leakage (captureTag s 0xA003) d (sensorsOf s d 0 32) (s.free + d)
  if guarded s 0xA003 then e * (10 + bandDistance s (odGet s 0xA003 0x01)) / 10 else e

/-- M of each die: what was measured on its rails over the last 1 ms less the static estimate (R417). -/
def takeDynamic (s : State) (measured : List Nat) : State :=
  { s with dynamic := dies.map (fun d => listGet 0 measured d - staticEstimate s d), free := s.free + 4 }

/-- The quantities of one die. -/
def governDie (s : State) (d : Nat) : State :=
  let r := nextRatio s d (listGet 0 s.dynamic d)
  let th := theta s d
  odSet (odSet (odSet s (0x2300 + d) 0x0D r) (0x2300 + d) 0x0C (roundDiv (4096 * (th.1 + th.2)) th.2)) (0x2300 + d) 0x03
    (nextPrice r (odGet s 0x2100 0x09) th)

/-- One window of the governor (R417, R418): `measured` is the energy measured on each die's rails over the last 1 ms in nJ, `watts` the input
over the last 10 µs. -/
def governorLoop (measured : List Nat) (watts : Nat) (rs : List Reading) (s : State) : State :=
  if bulkOn s then
    let s1 := odSet (odSet (takeDynamic (senseAll s rs) measured) 0x2100 0x07 watts) 0x2100 0x09 (nextLambda s watts)
    let s2 := newWindow (dies.foldl governDie s1)
    if odGet s2 0x2100 0x01 < watts then
      let s3 := { s2 with overWindows := s2.overWindows + 1 }
      if s3.overWindows = 1000 then raiseCause s3 2 else s3
    else clearCause { s2 with overWindows := 0 } 2
  else senseAll s rs

/-! ### The policy loop (R415, R419, R424) -/

/-- ACTIVE cores of a die. -/
def activeOn (s : State) (d : Nat) : Nat := ((List.range 26).filter (fun c => coreState s (32 * d + c) == 1)).length

/-- The AUTO allocation of a die (R415). -/
def autoAlloc (s : State) (u d : Nat) : Nat :=
  let n := dies.foldl (fun a d => a + activeOn s d) 0
  if s.diesOut.contains d || activeOn s d = 0 then 0
  else max 50 (min 65535 ((odGet s 0x2100 0x01 - u) * activeOn s d / n))

def autoAllocs (s : State) (u : Nat) : Nat := dies.foldl (fun a d => a + autoAlloc s u d * 2 ^ (16 * d)) 0

/-- Set points take effect; CORE.d follows unless it is held at 1.0 GHz; a stretch stays below the new set point. -/
def applySetPoints (s : State) : State :=
  let s1 := { s with arraySet := dies.map (fun d => odGet s (0x2300 + d) 0x09), coreSet := dies.map (fun d => odGet s (0x2300 + d) 0x0A) }
  showFreq (dies.foldl (fun s d =>
    if s.stretches.any (holdsCore d) || s.allocHeld.isSome then s
    else setCoreFreq s d (coreSetPoint s d)) s1)

/-- The clocks have reached their set points after an emergency: allocations and CORE.d return (R422). -/
def endRelease (s : State) : State :=
  match s.allocHeld with
  | some v =>
    if emergency s || dies.any (fun d => arrayFreq s d != arraySetPoint s d * 1024) then s
    else
      let s1 := odSet { s with allocHeld := none, releasing := false } 0x2100 0x02 v
      dies.foldl restoreCore s1
  | none => s

/-- A lane's margin less 0.5 dB is below the required margin (R424). -/
def guardedLow (s : State) (p : Nat) : Bool :=
  slots18.any (fun x => slotRole s p false x == 0 && listGet 0 (getPort s p).power x < odGet s (0x5400 + p) 0x09 + 50)

/-- The low-margin flag: what the last mist coat found, and while its margins are guarded what the guard band finds (R339, R424). -/
def guardMargins (s : State) (p : Nat) : State :=
  odSet s (0x5200 + p) 0x0D ((getPort s p).low || (guarded s (0xA020 + p) && guardedLow s p)).toNat

/-- 10 s have passed since the last refresh of a calibration (R424). -/
def refreshDue (s : State) (i : Nat) : Bool :=
  match odLook s.refreshed i with
  | some t => t + 1000000000 ≤ s.uptime
  | none => true

/-- A refresh under load begins: at most once per 10 s for each calibration, and not during an emergency (R424, R425). -/
def beginRefresh (s : State) (i : Nat) : State :=
  if s.refreshes.any (fun r => r.1 == i) && !emergency s && refreshDue s i then odSet s i 0x03 2 else s

/-- It ends: the calibration is tagged anew, its guard band goes, and the margins of a mist coat stay (R340, R424). -/
def endRefresh (s : State) (i : Nat) (temp : Int) : State :=
  if odGet s i 0x03 = 2 && calIndexes.contains i then
    let s1 := { s with refreshes := s.refreshes.filter (fun r => r.1 != i), refreshed := odIns s.refreshed i s.uptime }
    let s2 := odBump (tagCal (refreshRefs s1 i) i temp) i 0x04 1
    if 0xA020 ≤ i then guardMargins s2 (i - 0xA020) else s2
  else s

/-- CALIBRATION_REFRESH (R424). -/
def execCalibrationRefresh (run : RefreshRun) (temp : Int) (s : State) : Host.Outcome State Fault Refusal :=
  .next (if run.done then endRefresh s run.index temp else beginRefresh s run.index)

/-- The calibrations against their reference sensors, in the order of `calIndexes`. -/
def checkCals (s : State) (refs : List Int) : State :=
  let s1 := ((calIndexes.zip refs).foldl (fun s p => checkCal s p.1 p.2) s)
  (List.range 16).foldl (fun s p => guardMargins s p) s1

/-- U in whole watts: the input over the last 1 ms less the dynamic energy of the four dies over it, rounded up (R415; DESIGN CHOICE, log 71). -/
def uncharged (s : State) (watts1ms : Nat) : Nat := watts1ms - s.dynamic.foldl (· + ·) 0 / 1000000

/-- POLICY_LOOP (R419): with firmware running, on the package input over the last 1 ms and 100 ms. Bands of queues are left as they are (step 3 is a
may). A new period of fences begins (R455). -/
def execPolicyLoop (watts1ms watts100ms : Nat) (refs : List Int) (s : State) : Host.Outcome State Fault Refusal :=
  .next (if bulkOn s && s.fwRuns && odGet s 0x8000 0x09 != 3 then
      let auto := odGet s 0x2100 0x04 == 0
      let s1 := odSet { s with fencesIn := [] } 0x2100 0x08 (uncharged s watts1ms)
      let s2 := if auto then putAllocations s1 (autoAllocs s1 (uncharged s watts1ms)) else s1
      let s3 := if auto then dies.foldl (fun s d => odSet (odSet s (0x2300 + d) 0x09 1500) (0x2300 + d) 0x0A 1800) s2 else s2
      let s4 := odSet (applySetPoints s3) 0x2100 0x0A (min 7 (watts100ms / 700))
      endRelease (checkCals s4 refs)
    else s)

/-! ### Writes of the power entries (R414, R420, R423) -/

/-- A limit or floor write during an emergency: the share uses the new values (R425). -/
def putLimit (s : State) (sub v : Nat) : State :=
  let s1 := odSet s 0x2100 sub v
  match s1.allocHeld with
  | some a => odSet s1 0x2100 0x02 (emergencyShare s1 a)
  | none => s1

/-- VBULK below its range (R409, R529): SUPPLY is raised when VBULK has stayed below 11.0 V for 10 µs, whether it still counts as good or has met its
power-fail. -/
def vbulkLow (mV : Nat) (s : State) : State :=
  if s.aonUp && mV < 11000 then raiseCause s 3 else s

end Sys2Proof.Machine
end

