-- ==== Sys2Proof/Machine/Records.lean ====
section
/-! DEFINITION. The event recorder's commands (R449 to R453): flush, dust sheet, reads by sequence number, and the clear; the snag clear
(R432), the counter reset (R446) and the heads of the error report queue (R431). -/

namespace Sys2Proof.Machine

/-! ### The flush (R449) -/

/-- Records not yet copied. -/
def uncopied (s : State) : List LogRec := s.ring.filter (fun r => s.copied ≤ r.seq)

/-- Copy them into the archive, a ring of 1,048,576 records. The fault records of fenced cores are complete with it, and their islands go
off (R36; DEDUCED, log 147). -/
def copyRecords (s : State) : State :=
  let a := s.archive ++ uncopied s
  { s with archive := a.drop (a.length - 1048576), copied := s.nextSeq, flushing := false, unrecorded := [] }

/-- FLUSH (R449): one that was demanded completes, or meets a flash error. -/
def execFlush (ok : Bool) (s : State) : Host.Outcome State Fault Refusal :=
  .next (if s.flushing && s.aonUp then (if ok then copyRecords s else snagSet { s with flushing := false } 7) else s)

/-! ### The dust sheet (R451) -/

/-- Lay it: the ring freezes, and the count of the freeze begins. -/
def layDust (s : State) : State :=
  if s.dust then s
  else { (odSet (odSet s 0x7A00 0x01 1) 0x7A00 0x04 0) with dust := true, dustAt := s.uptime, heldEvents := [], heldCount := 0 }

/-- The held events enter the ring in the order in which they occurred; a missed record follows when some were dropped. -/
def enterHeld (s : State) : State :=
  let missed := s.heldCount - s.heldEvents.length
  let held := s.heldEvents
  let s1 := held.foldl (fun s e => ringPush s e.body) { (odSet s 0x7A00 0x01 0) with dust := false, heldEvents := [], heldCount := 0 }
  if missed = 0 then s1 else snagSet (ringPush s1 ⟨0, 6, pkgUnit, 0, 0, 0, missed, none⟩) 7

/-- Lift it. -/
def liftDust (s : State) : State := if s.dust then enterHeld s else s

/-- DUST_SHEET_LIMIT (R451): the limit in 0x7A00.09, in seconds, has passed since the sheet was laid. -/
def execDustSheetLimit (s : State) : Host.Outcome State Fault Refusal :=
  .next (if s.dustAt + odGet s 0x7A00 0x09 * 100000000 ≤ s.uptime then liftDust s else s)

/-! ### Reads (R452) -/

/-- The record with the smallest SEQ at or above a pointer: 64 bytes and the new pointer; 64 zero bytes when none qualifies. -/
def readRecord (l : List LogRec) (ptr : Nat) : Nat × Nat :=
  match l.find? (fun r => ptr ≤ r.seq) with
  | some r => (r.encode, r.seq + 1)
  | none => (0, ptr)

/-- SEQ of the newest record. -/
def lastSeq (s : State) : Nat := s.nextSeq - 1

/-- SEQ of the oldest record of a list. -/
def oldestSeq (l : List LogRec) : Nat := match l with | r :: _ => r.seq | [] => 0

/-! ### The clear (R453) -/

/-- The ring and the archive are erased; the clear record takes S + 1, and the held events follow it. -/
def clearRecords (s : State) : State :=
  let seq := lastSeq s
  let s1 := ringPush { s with ring := [], archive := [] } ⟨0, 5, pkgUnit, 0, 0, 0, seq, none⟩
  if s.dust then enterHeld s1 else s1

/-! ### Snags and counters -/

/-- Clear snag bits: a KIND 2 record for each bit that changes (R432). -/
def clearSnags (s : State) (mask : Nat) : State :=
  let v := odGet s 0x7000 0x01
  ((List.range 256).filter (fun b => bitOf v b && bitOf mask b)).foldl (fun s b =>
    addRecord (odSet s 0x7000 0x01 (withBit (odGet s 0x7000 0x01) b false)) ⟨0, 2, pkgUnit, 0, 0, b, 0, none⟩) s

/-- The counter that a reset value names: a CNT-SAT counter present in the dictionary (R446). -/
def resetNames (v : Nat) : Bool :=
  bits v 8 8 == 0 && (match odRow (bits v 16 16) (bits v 0 8) with | some r => r.ty == 12 | none => false)

def resetCounter (s : State) (v : Nat) : State := odSet s (bits v 16 16) (bits v 0 8) 0

/-- A head may be written to a value between tail - 256 and tail (R431). -/
def headOk (s : State) (v : Nat) : Bool := (odGet s 0x7100 0x01 + 2 ^ 32 - v) % 2 ^ 32 ≤ 256

/-- The report at a head; all zero when head = tail (0x7100.03, .05). -/
def reportAt (s : State) (headSub : Nat) : Nat :=
  let behind := (odGet s 0x7100 0x01 + 2 ^ 32 - odGet s 0x7100 headSub) % 2 ^ 32
  if behind = 0 || s.reports.length < behind then 0
  else match s.reports[s.reports.length - behind]? with
    | some r => r.encode
    | none => 0

end Sys2Proof.Machine
end

