-- ==== Sys2Proof/Machine/StackMemory.lean ====
section
/-! DEFINITION. Stack memory in operation: sector reads and the patrol scrub (R258, R261), HBM4 retraining and repair (R262), and the
retirement of stacks (R263 to R267). -/

namespace Sys2Proof.Machine

/-- 24 h in AON ticks. -/
def dayTicks : Nat := 8640000000000

/-- Entries of the read log of one kind, stack and place within 24 h. -/
def recentReads (s : State) (kind stack : Nat) (place : Option Nat) : Nat :=
  (s.readCounts.filter (fun r => r.1.1 == kind && r.1.2.1 == stack && (place.isNone || place == some r.1.2.2) &&
    s.uptime < r.2 + dayTicks)).length

/-- The 8 B of side data that a sector of stack memory carries: the check symbols of its data, the poison mark (a byte of 1 where it is set), and
the reserved byte (R257; log 138). No command reads or writes it: reads of the controller have the outcomes of R258. -/
def sideData (s : State) (sec : Nat) : List Byte :=
  leBytes 6 (Config.sectorCheck (memRead s (sec * 64) 64)) ++ [if sectorMarked s sec then 1 else 0, 0]

/-! ### The system area (R250) -/

/-- The receive headroom of a far-class port, and the management data: (first offset, length). No command reaches either (R249). -/
def headroomRegion (p : Nat) : Nat × Nat := (p * 0x2000000, 0x2000000)
def managementRegion : Nat × Nat := (0x20000000, 0x20000000)

/-- Packets that a far-class port holds beyond its 1 MiB on the lath, which lie in its headroom. -/
def inHeadroom (s : State) (t : Transit) : Bool :=
  t.pkt.inPort < 16 && (getPort s t.pkt.inPort).cls == 1 &&
    decide (1048576 < ((List.range 8).map (bufferHeld s t.pkt.inPort)).foldl (· + ·) 0)

/-- A sealed retirement loses what the cells of the system area on its stack hold: which packets of the headroom lie there is a free value each, and
end-to-end re-sends cover them; the package rebuilds its management data, so nothing of it changes (R250, R268; log 139). -/
def loseHeadroom (s : State) : State :=
  (s.transit.filter (inHeadroom s)).foldl (fun s t =>
    let f := freshNat s 7 1
    if f.1 = 0 then f.2 else dropTransit f.2 t) s

/-! ### Retirement (R263 to R266) -/

/-- Slots with MST 0 (0x4000.04). -/
def settledCount (s : State) : Nat := 4096 - (s.slots.filter (fun p => bits p.2 8 2 != 0)).length

/-- Put an interleave entry. -/
def putSlot (s : State) (j v : Nat) : State := { s with slots := Store.put 0 s.slots j v }

/-- The cell of slot j whose current place lies on a stack (R264, step 3). -/
def cellOn (s : State) (j stack : Nat) : Nat := ((List.range 24).find? (fun e => (j + placeBoth (slotEntry s j) e) % 24 == stack)).getD 24

/-- Step 3 for one slot of retirement k: the override X → the place of V = 24 - k, and its MST. -/
def overrideSlot (stack k : Nat) (mst : Nat) (s : State) (j : Nat) : State :=
  let ent := slotEntry s j
  let v := 24 - k
  let x := cellOn s j stack
  if x = v || 24 ≤ x then s
  else
    let p := placeBoth ent v
    if bitOf ent 31 then putSlot s j (ent + 2 ^ 20 + x * 2 ^ 15 + p * 2 ^ 10 + mst * 2 ^ 8)
    else putSlot s j (ent + 2 ^ 31 + x * 2 ^ 26 + p * 2 ^ 21 + mst * 2 ^ 8)

/-- Steps 3 of a retirement (R264): the overrides of every slot. -/
def setOverrides (s : State) (r : Retire) : State :=
  let s1 := (List.range 4096).foldl (overrideSlot r.stack r.k (if r.sealedR then 3 else 1)) s
  let s2 := { s1 with retires := mapWhere (fun x => x.stack == r.stack) (fun x => { x with step3 := true }) s1.retires, rowPtr := 0 }
  odSet (odSet s2 0x4000 0x03 (if r.sealedR then 2 else 1)) 0x4000 0x04 (settledCount s2)

/-- The vacated top of job stack memory loses its contents: free bytes (R264, step 1). -/
def vacate (s : State) : State :=
  let c := capacity s
  let top := c - 0x1000000000
  let s1 := odSet s 0x4000 0x01 top
  { s1 with mem := Store.dropRange s1.mem top c, poison := s1.poison.filter (fun p => p * 64 < top || c ≤ p * 64) }

/-- A retirement is relocating. -/
def relocating (s : State) : Bool := s.retires.any (·.step3)

/-- A message that has not gone out yet and whose payload has left memory ends its command (R253). -/
def endWaiting (s : State) : State :=
  (s.sends.filter (·.waiting)).foldl (fun s m =>
    match sourceGone s m, ownerCmd s m with
    | some a, some c => faultCmd { s with sends := s.sends.filter (fun x => x.msgid != m.msgid) } c 0x4001 (unitOf c.u) a
    | _, _ => s) s

/-- Start retirement of a stack, live or sealed (R264, steps 1 to 3; R266): code 0x8011 of kind 1 or 2. -/
def startRetire (s : State) (stack : Nat) (sealedR : Bool) (channel : Nat) : State :=
  let k := s.retirements + 1
  let r : Retire := ⟨stack, k, sealedR, false⟩
  let s1 := vacate (stateChange s (stackUnit stack 0xFFF) (0x4100 + stack) 0x01 1 0x8011 5)
  let s2 := odSet { s1 with retirements := k, retires := s1.retires ++ [r] } 0x4000 0x02 k
  let s3 := snagSet (fileCode s2 0x8011 (stackUnit stack channel) ((if sealedR then 2 else 1) + k * 65536)) (56 + stack)
  let s4 := msixAllContexts s3
  let s5 := endWaiting (if sealedR then loseHeadroom s4 else s4)
  if relocating s5 then s5 else setOverrides s5 r

/-- A third stack is sealed for good, a package-loss fault (R267); what its cells of the system area held is lost too. -/
def sealThird (s : State) (stack channel : Nat) : State :=
  let s1 := stateChange (loseHeadroom s) (stackUnit stack 0xFFF) (0x4100 + stack) 0x01 3 0x8012 7
  snagSet (snagSet (fileCode s1 0x8012 (stackUnit stack channel) 0) (56 + stack)) 0

/-- A live retirement that becomes sealed: every slot not yet settled takes MST 3 (R265). -/
def sealRetire (s : State) (stack : Nat) : State :=
  let s1 := loseHeadroom { s with retires := mapWhere (fun r => r.stack == stack) (fun r => { r with sealedR := true }) s.retires }
  match s1.retires.find? (fun r => r.stack == stack) with
  | some r =>
    if r.step3 then
      odSet { s1 with slots := s1.slots.map (fun p => if bits p.2 8 2 = 0 then p else (p.1, withField p.2 8 2 3)) } 0x4000 0x03 2
    else s1
  | none => s1

/-- A condition of R263 met by a stack in service: a retirement, or the seal of a third stack. -/
def retireStack (s : State) (stack : Nat) (sealedR : Bool) (channel : Nat) : State :=
  if s.retirements < 2 then startRetire s stack sealedR channel else sealThird s stack channel

/-- A channel stops answering or fails retraining (R262, R263, R265). -/
def channelFails (s : State) (stack channel : Nat) : State :=
  let s1 := odSet s (0x4100 + stack) 0x04 (odGet s (0x4100 + stack) 0x04 ||| 2 ^ channel)
  match stackState s stack with
  | 0 => retireStack s1 stack true channel
  | 1 => if s.retires.any (fun r => r.stack == stack && !r.sealedR) then sealRetire s1 stack else s1
  | _ => s1

/-- SEALED_RETIREMENT (R263). -/
def execSealedRetirement (stack channel : Nat) (s : State) : Host.Outcome State Fault Refusal :=
  .next (if stack < 24 && channel < 32 && bulkOn s then channelFails s stack channel else s)

/-- PERIODIC_RETRAINING (R262). -/
def execPeriodicRetraining (stack : Nat) (failed : Option Nat) (s : State) : Host.Outcome State Fault Refusal :=
  .next (match failed with
    | some ch => if stack < 24 && ch < 32 && bulkOn s then channelFails s stack ch else s
    | none => s)

/-! ### Reads and the patrol scrub (R258, R261, R262) -/

/-- Place of a sector. -/
def sectorPlace (s : State) (sec : Nat) : Place := translate s (sec * 64)

/-- A corrected read: counted, its rewrite awaited; a snag after 1,024 in one channel within 24 h. -/
def correctedRead (s : State) (sec : Nat) : State :=
  let p := sectorPlace s sec
  let log := s.readCounts ++ [((1, p.stack, p.channel), s.uptime)]
  let s1 := odBump { s with corrected := insertNat s.corrected sec, readCounts := log } (0x4100 + p.stack) 0x02 1
  if 1024 ≤ recentReads s1 1 p.stack (some p.channel) then snagSet s1 (32 + p.stack) else s1

/-- Rows of a stack in the repair list (R262). -/
def repairs (s : State) (stack : Nat) : Nat := (s.flashRepairs.filter (fun r => r.1 == stack)).length

/-- An uncorrectable read: the mark, the count, the report, the soft repair of a row read so twice, which enters the repair list in flash and so
becomes permanent at the next start-up (R262), and the threshold of R263. -/
def uncorrectableRead (s : State) (sec row : Nat) : State :=
  let p := sectorPlace s sec
  let place := p.channel * 65536 + row
  let log := s.readCounts ++ [((0, p.stack, place), s.uptime)]
  let s1 := odBump { (setMark s sec true) with readCounts := log } (0x4100 + p.stack) 0x03 1
  let s2 := fileCode s1 0x8010 (stackUnit p.stack p.channel) (sec * 64)
  let n := (s2.readCounts.filter (fun r => r.1 == (0, p.stack, place))).length
  let s3 := if n = 2 then
      odSet { s2 with flashRepairs := s2.flashRepairs ++ [(p.stack, place)] } (0x4100 + p.stack) 0x06 (wrap 16 (repairs s2 p.stack + 1))
    else s2
  if stackState s3 p.stack = 0 && odGet s3 0x4000 0x0A ≤ recentReads s3 0 p.stack none then
    retireStack s3 p.stack false 0xFFF
  else s3

/-- n of the 35 symbols of the codeword came back wrong: the code corrects one and detects two (R257); of more the spec does not say what the
read finds, so that is free (log 138). -/
def symbolOutcome (s : State) (sec n row : Nat) : State :=
  match n with
  | 0 => s
  | 1 => correctedRead s sec
  | 2 => uncorrectableRead s sec row
  | _ =>
    let f := freshNat s 8 2
    if f.1 = 0 then f.2 else if f.1 = 1 then correctedRead f.2 sec else uncorrectableRead f.2 sec row

/-- The outcome of a controller read of a sector (R258). A sealed place is not read. -/
def readOutcome (s : State) (sec : Nat) (o : ReadOutcome) : State :=
  if sectorBad s sec then s
  else
    match o with
    | .clean => s
    | .corrected => correctedRead s sec
    | .uncorrectable row => uncorrectableRead s sec row
    | .symbols n row => symbolOutcome s sec n row
    | .onDieReport => odBump s (0x4100 + (sectorPlace s sec).stack) 0x05 1

/-- PATROL_SCRUB (R261): a sector of stack memory in service, whose slot is settled; the end of a pass is counted. -/
def execPatrolScrub (sector : Nat) (o : ReadOutcome) (passDone : Bool) (s : State) : Host.Outcome State Fault Refusal :=
  .next (if bulkOn s && sector * 64 < capacity s then
      let p := sectorPlace s sector
      let s1 := if slotMst s p.slot = 0 && stackState s p.stack != 3 then readOutcome s sector o else s
      if passDone then odBump s1 (0x4100 + p.stack) 0x07 1 else s1
    else s)

/-- CORRECTED_REWRITE (R258): the corrected data are written back; the controller's read has one of the outcomes of R258, and its write clears
nothing that the read has marked (R259). -/
def execCorrectedRewrite (r : SectorRead) (s : State) : Host.Outcome State Fault Refusal :=
  .next (if bulkOn s then
      let s1 := readOutcome s r.sector r.outcome
      { s1 with corrected := s1.corrected.filter (· != r.sector) }
    else s)

/-! ### Relocation (R264 to R266) -/

/-- Sectors of a cell of slot j, cell e: its marked ones. The granule of row w of a slot inverts the hash of R254. -/
def cellGranule (j e w : Nat) : Nat :=
  let r := e * 2 ^ 15 + w
  r * 4096 + ((j ^^^ r ^^^ (r / 2 ^ 12)) % 4096)

/-- An uncorrectable source row of a live relocation (R258, R265): its read is counted and reported, and the row is poisoned at the
target. Which row of the DRAM row w of the cell was is a free value. -/
def badRow (j x : Nat) (s : State) (w : Nat) : State :=
  let row := freshNat s 5 16
  let g := cellGranule j x w
  (List.range 8).foldl (fun s i => setMark s (g * 8 + i) true) (uncorrectableRead row.2 (g * 8) row.1)

/-- The rows of cell x of slot j from the pointer on are lost: the sealed rule writes their targets poisoned (R265). -/
def loseRows (s : State) (j x : Nat) : State :=
  let key := j * 24 + x
  let old := Store.get 0 s.lostCells key
  { s with lostCells := Store.put 0 s.lostCells key (if old = 0 then s.rowPtr + 1 else min old (s.rowPtr + 1)),
           cleaned := s.cleaned.filter (fun sec => !((sectorPlace s sec).slot == j && (sectorPlace s sec).cell == x && s.rowPtr ≤ (sectorPlace s sec).w)) }

/-- The row pointer of the slot in relocation moves on; past its last row the slot is settled (R265). -/
def movePtr (s : State) (j ent rows : Nat) : State :=
  let isSealed := bits ent 8 2 == 3
  let s1 := if s.rowPtr + rows < 2 ^ 15 then { (putSlot s j (if isSealed then ent else withField ent 8 2 2)) with rowPtr := s.rowPtr + rows }
    else { (putSlot s j (withField ent 8 2 0)) with rowPtr := 0 }
  odSet s1 0x4000 0x04 (settledCount s1)

/-- SLOT_RELOCATION (R265): the cell of the slot in relocation is copied on, `rows` rows from the row pointer in ascending w; under the sealed rule
the targets are written poisoned. A source row that proves uncorrectable, and the retirement that its count may start, act as it is copied. -/
def execSlotRelocation (r : RelocRun) (s : State) : Host.Outcome State Fault Refusal :=
  .next (if !bulkOn s then s else match pendingSlot s with
    | some (j, ent) =>
      let x := if bitOf ent 20 then bits ent 15 5 else bits ent 26 5
      let s0 := if bits ent 8 2 == 3 then loseRows s j x
        else (r.bad.filter (fun w => s.rowPtr ≤ w && w < s.rowPtr + r.rows)).foldl (badRow j x) s
      movePtr s0 j ent r.rows
    | none => s)

/-- RETIREMENT_COMPLETE (R264 step 5, R266): the stack is RETIRED, recorded in flash and powered off; one that waits then computes its
overrides. -/
def execRetirementComplete (s : State) : Host.Outcome State Fault Refusal :=
  .next (match s.retires.find? (·.step3) with
    | some r =>
      if (pendingSlot s).isNone then
        let s1 := stateChange s (stackUnit r.stack 0xFFF) (0x4100 + r.stack) 0x01 2 0 0
        let s2 := odSet { s1 with retires := s1.retires.filter (fun x => x.stack != r.stack),
                                  flashRetired := s1.flashRetired ++ [r.stack] } 0x4000 0x03 0
        match s2.retires.find? (fun x => !x.step3) with
        | some x => setOverrides s2 x
        | none => s2
      else s
    | none => s)

end Sys2Proof.Machine
end

