-- ==== Sys2Proof/Machine/OdValues.lean ====
section
/-! DEFINITION. What a sub-index reads as (R456 to R458, R469): the values that come from fuses, from a requester's own selects and pointers,
and from state other than the dictionary's own store; the hot window (R472, R473). -/

namespace Sys2Proof.Machine

/-! ### Requesters (R465, R469) -/

/-- A path without its DBG claim: the requester. -/
def requesterOf : Path → Path
  | .mailbox _ => .mailbox false
  | .job c _ => .job c false
  | .hasowa n _ => .hasowa n false

def Requester.fresh (p : Path) : Requester := ⟨p, none, none, 0, [], 0, []⟩

def getReq (s : State) (p : Path) : Requester := (s.requesters.find? (fun r => r.p == requesterOf p)).getD (Requester.fresh (requesterOf p))

def putReq (s : State) (r : Requester) : State := { s with requesters := r :: s.requesters.filter (fun x => x.p != r.p) }

/-- A requester's copies start anew (R469). -/
def dropReq (s : State) (p : Path) : State := { s with requesters := s.requesters.filter (fun x => x.p != requesterOf p) }

/-- The entries kept for every requester (R469, R452). -/
def isSelect (i sub : Nat) : Bool :=
  (i == 0x2200 && (sub == 0x05 || sub == 0x0B)) || (i == 0x4000 && sub == 0x07) || (0x5400 ≤ i && i < 0x5410 && sub == 0x0B)
    || (i == 0x7200 && sub == 0x10) || (i == 0x9300 && sub == 0x01) || (i == 0xF000 && 1 ≤ sub && sub ≤ 3)
    || (i == 0x7A00 && sub == 0x02) || (i == 0x7A10 && sub == 0x01)

def selectOf (r : Requester) (i sub : Nat) : Nat := (odLook r.selects (odKey i sub)).getD (odDefault i sub)

def setSelect (s : State) (p : Path) (i sub v : Nat) : State :=
  let r := getReq s p
  putReq s { r with selects := odIns r.selects (odKey i sub) v }

/-! ### Fuses (R284, R460, R505) -/

/-- The fuse view of a die: ISSUE 1 to 255, DLV 1 or 2, the reserved bits 0, and the two feature bits. -/
def dieFuses (d : Nat) : Nat :=
  (1 + bits (Config.dieFuse d) 8 8 % 255) * 256 + (1 + bits (Config.dieFuse d) 4 1) * 16 + bits (Config.dieFuse d) 0 2

/-- The highest die-link protocol version of a die (R284). -/
def dieVersion (d : Nat) : Nat := bits (dieFuses d) 4 4

/-- The four dies' fields of n bits, die 0 lowest. -/
def perDie (n : Nat) (f : Nat → Nat) : Nat := dies.foldl (fun v d => v + f d * 2 ^ (n * d)) 0

def policyBlob : Nat := (List.range 16).foldl (fun v n => v + Config.rightsPolicy n * 2 ^ (8 * n)) 0

/-- 16 B for each die: die serial, fuse view (0x8100.06). -/
def dieIdentities : Nat := perDie 128 (fun d => bits Config.dieIdentity (64 * d) 64 + dieFuses d * 2 ^ 64)

/-! ### The accumulator window (R131) -/

/-- An array id that names an array (R13). -/
def arrayExists (a : Nat) : Bool := a / 8 < 128 && isCore (a / 8) && a % 8 < 6

/-- A matrix command in flight works on an array: one that is issued and not yet complete, also before its admission, and also while it is
pre-empted, whatever its RES bit (R198; DESIGN CHOICE, log 154). -/
def arrayUsed (s : State) (a : Nat) : Bool :=
  s.cmds.any (fun c => c.u == a / 8 && c.op == 0x20 && c.stage != .fetched && c.stage != .done &&
    (mmArrays c.word).any (fun e => listGet 8 (engineArrays (mmEng c.word)) e == a % 8))

/-- Window state: READY, BUSY or no such array. -/
def windowState (s : State) (a : Nat) : Nat :=
  if !arrayExists a then 2
  else
    let k := a / 8
    let core := if servedBy s k = 0xFF then k else servedBy s k
    let st := coreState s core
    if ((st = 1 || st = 2) && !arrayUsed s a) || (st = 3 && s.unrecorded.contains core) then 0 else 1

def windowKey (r : Requester) (col : Nat) : Nat := accKey (selectOf r 0xF000 1) (selectOf r 0xF000 2) (selectOf r 0xF000 3) col

def windowReady (s : State) (r : Requester) : Bool := windowState s (selectOf r 0xF000 1) == 0

/-- The selected row: a word with an uncorrectable error reads as the canonical NaN. -/
def windowRow (s : State) (r : Requester) : Nat :=
  if !windowReady s r then 0
  else (List.range 128).foldl (fun v col =>
    v + (if s.accBad.contains (windowKey r col) then c32NaN else accGet s (windowKey r col)) * 2 ^ (32 * col)) 0

def windowError (s : State) (r : Requester) : Bool :=
  windowReady s r && (List.range 128).any (fun col => s.accBad.contains (windowKey r col))

/-! ### Values -/

/-- The ms left of the heartbeat timer (0x6100.03). -/
def heartbeatLeft (s : State) : Nat :=
  if attached s then (s.beatAt + odGet s 0x6100 0x01 * msTicks - s.uptime) / msTicks else 0

/-- The reading that a sensor select names (R413). -/
def selectedReading (s : State) (r : Requester) : Nat :=
  let u := selectOf r 0x2200 0x05
  i32 (readSensor s (bits u 24 4) (bits u 12 12))

/-- Readings of the supply and rail monitors, which no command gives: free values. -/
def freeReading (s : State) (sub : Nat) : Nat := Config.freeNat (16 + sub) s.free % 2 ^ 32

/-- The monitor entries of the selected slot of a port (R347). -/
def slotValue (s : State) (p slot sub : Nat) : Nat :=
  let v := getPort s p
  let last : List Int → Nat := fun l => i32 (listGet 0 l slot)
  match sub with
  | 0x0C => (listGet Ring.off v.tx slot).st
  | 0x0D => heaterPower (listGet Ring.off v.tx slot).heater
  | 0x0E => last (match v.last with | some m => m.mbSlot | none => [])
  | 0x0F => (listGet Ring.off v.rx slot).st
  | 0x10 => heaterPower (listGet Ring.off v.rx slot).heater
  | 0x11 => last (match v.last with | some m => m.dfSlot | none => [])
  | 0x12 => listGet 0 v.power slot
  | 0x13 => listGet 0 v.tracking slot
  | 0x14 => (match v.last with | some m => listGet 0 m.ber slot | none => 0)
  | 0x15 => Store.get 0 s.symbols (p * 18 + slot)
  | _ => Store.get 0 s.codewords (p * 18 + slot)

/-- A value that does not stand in the dictionary's own store. -/
def derived (s : State) (r : Requester) (i sub : Nat) : Option Nat :=
  if 0x5400 ≤ i && i < 0x5410 then (if 0x0C ≤ sub then some (slotValue s (i - 0x5400) (selectOf r i 0x0B) sub) else none)
  else match i, sub with
  | 0x1000, 0x02 => some (Config.serial % 2 ^ 64)
  | 0x1000, 0x03 => some (perDie 16 dieFuses)
  | 0x1000, 0x05 => some (Config.mac % 2 ^ 48)
  | 0x1000, 0x07 => some (s.uptime % 2 ^ 64)
  | 0x1100, 0x04 => some s.rposLatched
  | 0x2200, 0x06 => some (selectedReading s r)
  | 0x2200, 0x07 => some (freeReading s sub)
  | 0x2200, 0x08 => some (freeReading s sub)
  | 0x2200, 0x09 => some (freeReading s sub)
  | 0x2200, 0x0A => some (freeReading s sub)
  | 0x2200, 0x0C => some (freeReading s sub)
  | 0x2200, 0x0D => some (freeReading s sub)
  | 0x4000, 0x08 => some (slotEntry s (selectOf r 0x4000 0x07))
  | 0x5000, 0x0B => some (contextsInUse s)
  | 0x5000, 0x15 => some s.tombs.length
  | 0x5000, 0x16 => some s.srecs.length
  | 0x6100, 0x03 => some (heartbeatLeft s)
  | 0x6800, 0x02 => some (s.rposLatched + 1)
  | 0x6800, 0x07 => some s.sessions.length
  | 0x7000, 0x02 => some (odGet s 0x7000 0x01)
  | 0x7100, 0x03 => some (reportAt s 0x02)
  | 0x7100, 0x05 => some (reportAt s 0x04)
  | 0x7A00, 0x05 => some (lastSeq s)
  | 0x7A00, 0x06 => some (readRecord s.ring (selectOf r 0x7A00 0x02)).1
  | 0x7A00, 0x07 => some (oldestSeq s.ring)
  | 0x7A00, 0x08 => some s.heldEvents.length
  | 0x7A10, 0x02 => some (readRecord s.archive (selectOf r 0x7A10 0x01)).1
  | 0x7A10, 0x03 => some (oldestSeq s.archive)
  | 0x8000, 0x01 => some (Config.romVersion % 2 ^ 32)
  | 0x8000, 0x15 => some s.features
  | 0x8100, 0x01 => some (Config.signerHash % 2 ^ 256)
  | 0x8100, 0x03 => some policyBlob
  | 0x8100, 0x06 => some dieIdentities
  | 0x8100, 0x07 => some (Config.repairSummary % 2 ^ 512)
  | 0x8200, 0x01 => some Config.endorsement
  | 0x8200, 0x02 => some (Config.identityKey % 2 ^ 544)
  | 0x8200, 0x04 => some (leNat r.evidence)
  | 0x8200, 0x05 => some (2 ^ 40 - s.sigIndex)
  | 0x9300, 0x02 => some (tallyGet s (selectOf r 0x9300 0x01))
  | 0xF000, 0x04 => some (windowState s (selectOf r 0xF000 0x01))
  | 0xF000, 0x05 => some (windowRow s r)
  | 0xF000, 0x06 => some (if arrayExists (selectOf r 0xF000 0x01) then bits (validGet s (selectOf r 0xF000 0x01)) (64 * selectOf r 0xF000 0x02) 64 else 0)
  | 0xF000, 0x07 => some (windowError s r).toNat
  | _, _ => none

/-- What a sub-index reads as for a requester. -/
def odValue (s : State) (r : Requester) (i sub : Nat) : Nat :=
  if sub = 0 then odHighest i
  else if isSelect i sub then selectOf r i sub
  else (derived s r i sub).getD (odGet s i sub)

/-- The row of a sub-index; sub-index 0 is a U8, RO, of every entry (R456). -/
def rowOf (i sub : Nat) : Option OdRow :=
  if sub = 0 then (if odPresent i then some ⟨i, 1, false, 0, 0, 1, 0, 1, 15, 0, 255⟩ else none) else odRow i sub

/-- A BLOB, STR or BITS value, which is read and written in pieces (R465). -/
def OdRow.pieces (r : OdRow) : Bool := r.ty == 9 || r.ty == 10 || r.ty == 11

/-- The bytes of a value (R457): the selected field pattern and the endorsement have lengths of their own. -/
def odBytes (s : State) (r : Requester) (row : OdRow) (i sub : Nat) : List Byte :=
  if i = 0x7200 && sub = 0x0F then listGet [] s.patterns (selectOf r 0x7200 0x10)
  else leBytes (if i = 0x8200 && sub = 0x01 then Config.endorsementBytes else row.size) (odValue s r i sub)

/-! ### Job pages (R471, R492) -/

/-- The STATE of a job page (R492): 1 BUSY while its request waits, 2 DONE once a response stands in its payload, else 0 IDLE. -/
def pageState (s : State) (c : Nat) : Nat :=
  if s.waitingReqs.any (fun w => requesterOf w.p == .job c false) then 1
  else if s.jobPages.any (fun x => x.1 == c) then 2 else 0

/-- What stands in the payload of a job page after a response; zero before any. -/
def pagePayload (s : State) (c : Nat) : List Byte := ((s.jobPages.find? (fun x => x.1 == c)).map (fun x => x.2)).getD []

/-! ### The hot window (R472, R473) -/

/-- Bytes of n entries of one byte each, the value of sub-index `sub` of base + k for k in order. -/
def hotBytes (s : State) (base n sub : Nat) : List Byte := (List.range n).map (fun k => BitVec.ofNat 8 (odGet s (base + k) sub))

/-- The byte at an offset of the hot window; reserved offsets read as zero. -/
def hotByte (s : State) (off : Nat) : Byte :=
  let r := Requester.fresh (.mailbox false)
  let field : Nat → Nat → Nat → Byte := fun at0 i sub => BitVec.ofNat 8 (odValue s r i sub / 2 ^ (8 * (off - at0)))
  if off < 0x04 then field 0 0x1000 0x08
  else if off < 0x08 then field 0x04 0x8000 0x0A
  else if off < 0x10 then field 0x08 0x1000 0x07
  else if off < 0x14 then field 0x10 0x5000 0x01
  else if off < 0x15 then field 0x14 0x5000 0x02
  else if off < 0x16 then field 0x15 0x2100 0x05
  else if off < 0x17 then field 0x16 0x2100 0x0A
  else if off < 0x18 then field 0x17 0x7200 0x0B
  else if off < 0x20 then field 0x18 0x7A00 0x05
  else if off < 0x24 then field 0x20 0x7100 0x01
  else if off < 0x28 then field 0x24 0x2100 0x07
  else if off < 0x38 then field (0x28 + (off - 0x28) / 4 * 4) 0x2200 (1 + (off - 0x28) / 4)
  else if 0x40 ≤ off && off < 0x60 then field 0x40 0x7000 0x01
  else if 0x60 ≤ off && off < 0x70 then field off (0x9010 + (off - 0x60)) 0x01
  else if 0x70 ≤ off && off < 0x80 then field off (0x5200 + (off - 0x70)) 0x01
  else if 0x80 ≤ off && off < 0x98 then field off (0x4100 + (off - 0x80)) 0x01
  else if 0x100 ≤ off && off < 0x180 then (if isCore (off - 0x100) then field off (0x3000 + (off - 0x100)) 0x01 else 0)
  else if 0x180 ≤ off && off < 0x1C0 then field off (0x9100 + (off - 0x180)) 0x01
  else if 0x1000 ≤ off && off < 0x3000 then
    let k := (off - 0x1000) / 64
    if isCore k then field (off / 4 * 4) (0x3600 + k) ((off - 0x1000) % 64 / 4 * 16 + 4) else 0
  else if 0x3000 ≤ off && off < 0x3100 then field (off / 4 * 4) (0x3680 + (off - 0x3000) / 32) ((off - 0x3000) % 32 / 4 * 16 + 4)
  else if 0x3100 ≤ off && off < 0x3900 then
    let k := (off - 0x3100) / 16
    if isCore k then field off (0x3600 + k) ((off - 0x3100) % 16 * 16 + 6) else 0
  else if 0x3900 ≤ off && off < 0x3940 then field off (0x3680 + (off - 0x3900) / 8) ((off - 0x3900) % 8 * 16 + 6)
  else if 0x8000 ≤ off && off < 0xC000 then
    BitVec.ofNat 8 (tallyGet s (odGet s 0x6200 0x01 + (off - 0x8000) / 4) / 2 ^ (8 * (off % 4)))
  else 0

/-- A read of the hot window: served while the link is up (R472). -/
def hotRead (s : State) (off n : Nat) : Option (List Byte) :=
  if s.linkUp then some ((List.range n).map (fun k => hotByte s (off + k))) else none

/-! ### The BARs (R490 to R493, R499) -/

/-- The offset in BAR0 of the control register of the HDM decoder. -/
def hdmControlAt : Nat := 0x10000 + Config.hdmControl % 1024 * 4

/-- A write of a CXL component register. The control register of the decoder commits it by its Commit bit, bit 9 (R488; PRESUMED from the CXL
specification, log 175). -/
def writeComponent (s : State) (off v : Nat) : State :=
  let s1 := { s with component := odIns s.component off (wrap 32 v) }
  if off = hdmControlAt then odSet s1 0x6300 0x03 (if bitOf v 9 then 1 else 0) else s1

/-- A write of a word of the MSI-X table; pending vectors that it unmasks go out (R493). -/
def writeTable (s : State) (off v : Nat) : State :=
  sendPending { s with msixTable := odIns s.msixTable ((off - 0x20000) / 4) (wrap 32 v) }

/-- A write of BAR0: the hot window discards and counts it (R472); the CXL component registers and the MSI-X table take aligned words (R490,
R493); reserved offsets, the pending bits and the registers that have a command of their own discard it. -/
def barWrite0 (s : State) (off size v : Nat) : State :=
  if off < 0x10000 then odBump s 0x6200 0x02 1
  else if size ≠ 4 ∨ off % 4 ≠ 0 then s
  else if off < 0x11000 then writeComponent s off v
  else if 0x20000 ≤ off ∧ off < 0x20400 then writeTable s off v
  else s

/-- HOT_WINDOW_WRITE (R472, R490): a write of BAR0. -/
def execHotWindowWrite (offset size value : Nat) (s : State) : Host.Outcome State Fault Refusal :=
  .next (if s.linkUp then barWrite0 s offset size value else s)

/-- A word of the MSI-X table as it reads: its reset value is 1, masked, for a vector's control word (PRESUMED from PCIe, log 163). -/
def tableWord (s : State) (k : Nat) : Nat := (odLook s.msixTable k).getD (if k % 4 = 3 then 1 else 0)

/-- The word at an aligned offset of BAR0; reserved offsets read as zero (R490). -/
def barRead0 (s : State) (off : Nat) : Nat :=
  if off < 0x10000 then leNat ((List.range 4).map (fun k => hotByte s (off + k)))
  else if off < 0x11000 then (odLook s.component off).getD (Config.cxlRegister off % 2 ^ 32)
  else if off < 0x16020 then Config.cxlRegister off % 2 ^ 32
  else if 0x20000 ≤ off ∧ off < 0x20400 then tableWord s ((off - 0x20000) / 4)
  else if off = 0x21000 ∨ off = 0x21004 then
    leNat ((List.range 4).map (fun b => (List.range 8).foldl (fun v k => v + if s.msixPending.contains ((off - 0x21000) * 8 + 8 * b + k) then 2 ^ k else 0) (0 : Byte)))
  else 0

/-- The word at an aligned offset of BAR2: a job page's status word and payload, the published tail of a doorbell's queue, the milliseconds that
the heartbeat has left; reserved offsets read as zero (R490 to R492, R499). -/
def barRead2 (s : State) (off : Nat) : Nat :=
  if off < 0x10000 then
    if off % 4096 = 4 then pageState s (off / 4096)
    else if 0x800 ≤ off % 4096 then leNat (((pagePayload s (off / 4096)).drop (off % 4096 - 0x800)).take 4)
    else 0
  else if off = 0x13000 then heartbeatLeft s
  else match doorbellQueue off with
    | some p => qGet s p.1 p.2 5
    | none => 0

end Sys2Proof.Machine
end

