-- ==== Sys2Proof/Machine/Firmware.lean ====
section
/-! DEFINITION. Firmware images (R494, R495, R502), the attachment of a driver (R496 to R501), the request of an activation (R503), and
attestation (R508, R509). Activations end in Machine/Activation.lean. -/

namespace Sys2Proof.Machine

/-! ### Images (R494) -/

/-- n bytes of an image from an offset, and their value. -/
def imgBytes (img : List Byte) (a n : Nat) : List Byte := (img.drop a).take n
def imgNat (img : List Byte) (a n : Nat) : Nat := leNat (imgBytes img a n)

def imgBody (img : List Byte) : List Byte := img.drop 4096
def imgSvn (img : List Byte) : Nat := imgNat img 0x0D 1
def imgVersion (img : List Byte) : Nat := imgNat img 0x10 8

/-- FORMAT: magic, header version, lengths and reserved bytes. -/
def formatOk (img : List Byte) : Bool :=
  imgNat img 0 4 == 0x44564657 && imgNat img 4 2 == 1 && 1 ≤ imgNat img 0x18 4 && imgNat img 0x18 4 ≤ 1572864
    && img.length == 4096 + imgNat img 0x18 4 && imgNat img 0x0E 2 == 0 && imgNat img 0x1C 4 == 0 && imgNat img 0xBA8 1112 == 0

/-- KEY: the OID, and the signer hash of the fuses. -/
def keyOk (img : List Byte) : Bool :=
  imgNat img 0x60 4 == Config.xmssOid && Config.shake256 (imgBytes img 0x60 68) == Config.signerHash

def signatureOk (img : List Byte) : Bool := Config.xmssVerify (imgBytes img 0x60 68) (imgBytes img 0 0xA4) (imgBytes img 0xA4 2820)

def digestOk (img : List Byte) : Bool := Config.shake256 (imgBody img) == imgNat img 0x20 32

/-- HANDOVER: the version that the running firmware writes lies in the range that the new image accepts. -/
def handoverOk (s : State) (img : List Byte) : Bool :=
  imgNat img 0x0B 1 ≤ imgNat s.image 0x0A 1 && imgNat s.image 0x0A 1 ≤ imgNat img 0x0C 1

/-- The first check that fails, as 0x8000.08 names it; `good` when none does. -/
def imageResult (s : State) (img : Option (List Byte)) (staging : Bool) (good : Nat) : Nat :=
  match img with
  | none => 9
  | some x =>
    if x.length != odGet s 0x8000 0x06 || !s.linkUp then 9
    else if !formatOk x then 3
    else if !keyOk x then 4
    else if !signatureOk x then 5
    else if !digestOk x then 6
    else if imgSvn x < odGet s 0x8100 0x05 then 7
    else if staging && !handoverOk s x then 8
    else good

/-- The features that an image offers: assigned bits, and bits 0 and 1 only where every die has them (R285, R497). -/
def offered (img : List Byte) : Nat :=
  let f := imgNat img 0x40 32
  let has : Nat → Nat → Nat := fun b fuse => if bitOf f b && dies.all (fun d => bitOf (dieFuses d) fuse) then 2 ^ b else 0
  has 0 1 + has 1 0 + bits f 16 7 * 2 ^ 16

/-- The image runs: its versions, SVN and offer show in 0x8000. -/
def runImage (s : State) (img : List Byte) : State :=
  let s1 := { s with image := img.take 4096, imageDigest := imgNat img 0x20 32, fwRuns := true }
  let s2 := odSet (odSet s1 0x8000 0x02 (imgVersion img)) 0x8000 0x03 (imgNat img 6 2 * 65536 + imgNat img 8 2)
  odSet (odSet s2 0x8000 0x04 (imgSvn img)) 0x8000 0x16 (offered img)

/-- The ROM fetches, checks and starts an image (R495): step 4 ends. -/
def loadImage (s : State) (img : Option (List Byte)) : State :=
  let res := imageResult s img false 1
  let s1 := odSet s 0x8000 0x08 res
  match res, img with
  | 1, some x => enterStep (runImage s1 x) 5 none
  | _, _ => s1

/-- The firmware fetches and checks an image and holds it (R502). -/
def stageImage (s : State) (img : Option (List Byte)) : State :=
  let res := imageResult s img true 2
  let s1 := odSet s 0x8000 0x08 res
  match res, img with
  | 2, some x => odSet { s1 with staged := some x } 0x8000 0x0D (imgVersion x)
  | _, _ => s1

/-- LOAD is served by the ROM at step 4, STAGE by running firmware while no activation is under way. -/
def imageOpen (s : State) (v : Nat) : Bool :=
  if v = 1 then startStep s == 4 && s.romRuns && !s.fwRuns else s.fwRuns && odGet s 0x8000 0x09 == 0

/-! ### Attachment (R496 to R501) -/

def ifaceMajor (v : Nat) : Nat := bits v 16 16

/-- The intersection of the offers. -/
def commonFeatures (s : State) : Nat := odGet s 0x8000 0x11 &&& odGet s 0x8000 0x16

/-- The assigned bits of the feature bitmap: 0, 1 and 16 to 22; the others are ignored (R497). -/
def assignedFeatures : Nat := 0x7F0003

/-- The result of an ATTACH; CHANGED applies to a re-attachment only. -/
def attachResult (s : State) (again : Bool) : Nat :=
  let need := odGet s 0x8000 0x12
  if !s.fwRuns then 1
  else if attached s || inBlackout s then 2
  else if ifaceMajor (odGet s 0x8000 0x10) != ifaceMajor (odGet s 0x8000 0x03) then 3
  else if need &&& assignedFeatures &&& odGet s 0x8000 0x16 != need &&& assignedFeatures then 4
  else if again && s.featuresBefore &&& commonFeatures s != s.featuresBefore then 5
  else 0

/-- ATTACHED: the features in force, the heartbeat timer, and the driver's own selects anew (R469). -/
def attachDriver (s : State) : State :=
  let f := commonFeatures s
  let s1 := { (dropReq s (.mailbox false)) with features := f, beatAt := s.uptime }
  stateChange (odSet s1 0x8000 0x15 f) pkgUnit 0x6100 0x02 1 0 0

/-- Answer an ATTACH: the result and vector 2; a re-attachment returns the queues (R501). -/
def attach (s : State) (again : Bool) : State :=
  let res := attachResult s again
  let s1 := odSet s 0x8000 0x14 res
  let s2 := if res = 0 then (if again then returnQueues (attachDriver s1) else attachDriver s1) else s1
  raiseVector s2 2

/-- FRESH: every context is disabled, and the driver attaches without CHANGED (R501). -/
def freshAttach (s : State) : State := attach { (putTable s 0) with draining := [] } false

/-- Every enabled context is DRAINED or STOPPED. -/
def allDrained (s : State) : Bool := (List.range 16).all (fun c => !ctxEnabled s c || ctxState s c == 2 || ctxState s c == 3)

/-- Whether a value written to 0x8000.13 is refused by a state rule (R498, R501). -/
def attachOpen (s : State) (v : Nat) : Bool :=
  if v = 1 then !orphaned s || bitOf s.featuresBefore 21
  else if v = 2 then orphaned s && allDrained s
  else attached s

def attachRequest (s : State) (v : Nat) : State :=
  if v = 1 then attach s (orphaned s) else if v = 2 then freshAttach s else becomeOrphaned s

/-! ### The request of an activation (R503) -/

/-- An emergency is in force, or cleared less than 1 s ago. -/
def mustDefer (s : State) : Bool := emergency s || (s.emergAt != 0 && s.uptime < s.emergAt + 1000 * msTicks)

def activationOpen (s : State) (v : Nat) : Bool :=
  if v = 1 then s.fwRuns && s.staged.isSome && odGet s 0x8000 0x09 == 0 && (!attached s || featureOn s 16) else true

/-- A request, deferred or quiescing at once; or a cancel of a deferred one. -/
def activationRequest (s : State) (v : Nat) : State :=
  if v = 1 then odSet s 0x8000 0x09 (if mustDefer s then 1 else 2)
  else if odGet s 0x8000 0x09 = 1 then odSet (odSet s 0x8000 0x09 0) 0x8000 0x0B 3
  else s

/-! ### Attestation (R508, R509) -/

/-- A challenge is served with feature 19 in force, or while no driver is attached. -/
def challengeOpen (s : State) : Bool := featureOn s 19 || !attached s

/-- The evidence without its signature. -/
def evidenceBody (s : State) (challenge : Nat) : List Byte :=
  let fuses := leBytes 32 Config.signerHash ++ leBytes 32 (odGet s 0x8100 0x02) ++ leBytes 16 policyBlob ++ leBytes 64 dieIdentities
  leBytes 2 1 ++ leBytes 6 0 ++ leBytes 32 challenge ++ leBytes 8 Config.serial ++ leBytes 8 (odGet s 0x8000 0x02)
    ++ leBytes 32 s.imageDigest ++ leBytes 32 Config.romDigest ++ leBytes 1 (odGet s 0x8000 0x04) ++ leBytes 1 (odGet s 0x8100 0x05)
    ++ leBytes 1 (odGet s 0x8100 0x04) ++ leBytes 1 (odGet s 0x6100 0x02) ++ leBytes 4 (odGet s 0x8000 0x0A)
    ++ leBytes 32 (Config.shake256 fuses) ++ leBytes 32 s.features ++ leBytes 8 (perDie 16 dieFuses)
    ++ leBytes 8 (odGet s 0x5000 0x01) ++ leBytes 8 s.uptime

/-- Ticks from a challenge to its evidence: within 30 ms, which one the rule leaves open (R509; a free value, log 94). -/
def signTicks (s : State) : Nat := 1 + Config.freeNat 13 s.free % (30 * msTicks)

/-- Sign a challenge with the earlier index, once the next one stands in flash; a flash write that fails signs nothing. The evidence appears
when the signing ends. -/
def attest (s : State) (p : Path) (challenge : Nat) (flashOk : Bool) : Option State :=
  if !flashOk || 2 ^ 40 ≤ s.sigIndex then none
  else
    let body := evidenceBody s challenge
    let r := getReq s p
    let evidence := body ++ leBytes 5605 (Config.xmssMtSign s.sigIndex body)
    some (odBump (putReq { s with sigIndex := s.sigIndex + 1, signing := some (r.p, evidence, s.uptime + signTicks s), free := s.free + 1 }
      { r with challenge := challenge }) 0x8200 0x06 1)

end Sys2Proof.Machine
end

