-- ==== Sys2Proof/Machine/OdRules.lean ====
section
/-! DEFINITION. The rules of object dictionary requests: rights (R459 to R462), availability by state (R478), ranges (R457 and each entry's
table), state rules (R458 and the owning chapters), tokens (R467, R507). -/

namespace Sys2Proof.Machine

/-! ### Statuses (R464) -/

def odOK : Nat := 0x00
def odNOENTRY : Nat := 0x01
def odNOSUB : Nat := 0x02
def odRIGHTS : Nat := 0x03
def odACCESS : Nat := 0x04
def odLENGTH : Nat := 0x05
def odRANGE : Nat := 0x06
def odSTATE : Nat := 0x07
def odAUTH : Nat := 0x08
def odUNAVAILABLE : Nat := 0x09
def odBUSY : Nat := 0x0A
def odMALFORMED : Nat := 0x0B

/-! ### Rights -/

/-- The class bit of a path (R459): HOST 1, MGMT 2, JOB 4. -/
def classOf : Path → Nat
  | .mailbox _ => 1
  | .job _ _ => 4
  | .hasowa _ _ => 2

/-- DBG set in the path's bit or in the header. -/
def claimsDebug (p : Path) (r : OdReq) : Bool :=
  r.dbg || (match p with | .mailbox d => d | .job _ d => d | .hasowa _ d => d)

/-- The debug lock fuse reads unlocked (0x8100.04). -/
def unlocked (s : State) : Bool := odGet s 0x8100 0x04 == 1

/-- The classes that the policy table lets read or write an index (R460). -/
def policyClasses (i : Nat) (write : Bool) : Nat := bits (Config.rightsPolicy (i / 4096)) (if write then 0 else 4) 4

/-- The units that unit records of a context name (R212). -/
def ctxUnits (s : State) (c : Nat) : List Nat := ((unitRecs s).filter (fun r => urCtx r == c)).map urUnit

/-- The unit whose core or sweep entry an index is, for 0x3000 to 0x35FF. -/
def unitOfIndex (i : Nat) : Option Nat :=
  if 0x3000 ≤ i && i < 0x3080 then some (i - 0x3000)
  else if 0x3200 ≤ i && i < 0x3280 then some (i - 0x3200)
  else if 0x3300 ≤ i && i < 0x3380 then some (i - 0x3300)
  else if 0x3400 ≤ i && i < 0x3480 then some (i - 0x3400)
  else if 0x3480 ≤ i && i < 0x3488 then some (128 + (i - 0x3480))
  else none

/-- The die of a die-link entry, for 0x3700 to 0x3FFF. -/
def dieOfIndex (i : Nat) : Option Nat :=
  if 0x3800 ≤ i && i < 0x3804 then some (i - 0x3800)
  else if 0x3900 ≤ i && i < 0x3A00 then some ((i - 0x3900) / 64)
  else none

/-- A queue's sub-index, of a queue in a QMASK of the context (R462). -/
def ownsQueueSub (s : State) (c i sub : Nat) : Bool :=
  let u := if i < 0x3680 then i - 0x3600 else 128 + (i - 0x3680)
  sub != 0 && (unitRecs s).any (fun r => urCtx r == c && urUnit r == u && bitOf (urQmask r) (sub / 16))

/-- What a JOB request of context c reaches (R462); `t` is the tally that its select names. -/
def jobReach (s : State) (c t i sub : Nat) (write : Bool) : Bool :=
  let read := !write
  if (0x1000 ≤ i && i < 0x3000) || (0x4000 ≤ i && i < 0x6000) || i = 0x7000 || i = 0x7200 then read
  else if 0x3600 ≤ i && i < 0x3700 then ownsQueueSub s c i sub
  else if 0x3000 ≤ i && i < 0x3600 then
    read && (match unitOfIndex i with | some u => (ctxUnits s c).contains u | none => false)
  else if 0x3700 ≤ i && i < 0x4000 then
    read && (match dieOfIndex i with
      | some d => (ctxUnits s c).any (fun u => dieOf u == d)
      | none => !(ctxUnits s c).isEmpty)
  else if i = 0x9000 then
    read || (c == 0 && (sub == 1 || sub == 2 || sub == 4 || (0x07 ≤ sub && sub ≤ 0x10)))
  else if 0x9010 ≤ i && i < 0x9020 then i == 0x9010 + c && (read || sub == 2)
  else if (0x9100 ≤ i && i < 0x9140) || i = 0x9200 then read
  else if i = 0x9300 then sub != 2 || tallyIn s c t
  else false

/-- The classes that may read or write a sub-index by R460 and R461. -/
def classMask (row : OdRow) (i : Nat) (write : Bool) : Nat :=
  if write then policyClasses i true &&& row.cls else policyClasses i false

/-- A request's class may make the access (R459 to R462). -/
def rightsOk (s : State) (p : Path) (r : OdReq) (row : OdRow) (write : Bool) : Bool :=
  let i := r.index
  match p with
  | .job c _ => !claimsDebug p r && bitOf (classMask row i write) 2 && jobReach s c (selectOf (getReq s p) 0x9300 1) i r.sub write
  | _ =>
    if claimsDebug p r then unlocked s && bitOf (classMask row i write) 3
    else classMask row i write &&& classOf p != 0

/-! ### Access modes (R458) -/

/-- The AUTH entries whose Meaning gives a value to read. -/
def authReadable (i sub : Nat) : Bool := (i == 0x8100 && sub == 0x04) || (i == 0x7200 && sub == 0x0F)

def accessOk (row : OdRow) (r : OdReq) : Bool :=
  if r.op = 0 then row.acc == 0 || row.acc == 1 || row.acc == 3 || (row.acc == 4 && authReadable r.index r.sub)
  else if r.op = 1 then row.acc == 1 || row.acc == 2 || row.acc == 3
  else if r.op = 3 then row.acc == 4
  else true

/-! ### Availability (R38, R478) -/

/-- An entry that lies in the islands that run on VAUX. -/
def onVaux (i : Nat) : Bool :=
  (0x1000 ≤ i && i < 0x2000) || (0x2100 ≤ i && i < 0x2300) || i == 0x2400 || i == 0x6100 || i == 0x6800 || (0x7000 ≤ i && i < 0x8201)

/-- The entry is served in the present state. -/
def available (s : State) (i : Nat) : Bool :=
  if !s.vbulk then onVaux i
  else s.fwRuns || i == 0x1000 || i == 0x7000 || i == 0x7A00 || i == 0x8000

/-- Requests of a path reach the management complex: the ROM runs, and the mailbox and job pages have their link. -/
def reaches (s : State) (p : Path) : Bool :=
  s.romRuns && (match p with | .hasowa _ _ => true | _ => s.linkUp)

/-- An IPv6 address of the allow list: 16 bytes, most significant first. -/
def allowEntry (s : State) (k : Nat) : Nat :=
  ((leBytes 16 (bits (odGet s 0x6800 0x06) (128 * k) 128)).foldl (fun v b => v * 256 + b.toNat) 0)

/-- A source that the allow list permits; an all-zero list permits every link-local source (fe80::/10). -/
def permitted (s : State) (source : BitVec 128) : Bool :=
  if odGet s 0x6800 0x06 = 0 then source.toNat / 2 ^ 118 == 0x3FA
  else (List.range 4).any (fun k => allowEntry s k != 0 && allowEntry s k == source.toNat)

def findSession (s : State) (n : Nat) : Option Session := s.sessions.find? (fun x => x.id == n)

/-- A session is open, and the allow list permits its source (R475). -/
def sessionServed (s : State) (n : Nat) : Bool :=
  match findSession s n with | some x => permitted s x.source | none => false

/-- A request that arrives on a path gets an answer: the path reaches the complex, a job page is not BUSY (R471), and a Hasowa session is open
from a permitted source (R475). -/
def answered (s : State) (p : Path) : Bool :=
  reaches s p && (match p with | .mailbox _ => true | .job c _ => pageState s c != 1 | .hasowa n _ => sessionServed s n)

/-- A job page answers STATE (R471, R478). -/
def pageClosed (s : State) (p : Path) : Bool :=
  match p with
  | .job c _ => !s.fwRuns || !s.vbulk || orphaned s || !ctxEnabled s c
  | _ => false

/-- Requests wait: an activation quiesces or is in its blackout (R478, R503). -/
def holdsRequests (s : State) : Bool := odGet s 0x8000 0x09 == 2 || odGet s 0x8000 0x09 == 3

/-! ### Ranges -/

/-- A NaN of FP32 (R457). -/
def nan32 (v : Nat) : Bool := bits v 23 8 == 255 && bits v 0 23 != 0

/-- 12 hop hold limits, the re-send intervals and 1 ms lie within the tombstone window (R312): times in µs. -/
def resendSum (t cap n : Nat) : Nat := ((List.range n).map (fun i => min (t * 2 ^ i) cap)).foldl (· + ·) 0
def e2eOk (t cap n hold window : Nat) : Bool := resendSum t cap n + 12 * hold + 1000 ≤ window * 1000

/-- The bound with sub-index `sub` at `v`. -/
def e2eWith (s : State) (sub v : Nat) : Bool :=
  let g := fun k => if k = sub then v else odGet s 0x5000 k
  e2eOk (g 3) (g 4) (g 5) (g 7) (g 8)

/-- A rail that R412 names. -/
def railExists (site n : Nat) : Bool := (site < 4 && n < 3) || (site == 15 && n < 13) || (site == 14 && n < 3)

/-- A select of class `cls` that names a monitor; INDEX_B is 0xFFF, or 0 as in the default. -/
def selectNames (cls : Nat) (there : Nat → Nat → Bool) (v : Nat) : Bool :=
  bits v 28 4 == cls && there (bits v 24 4) (bits v 12 12) && (bits v 0 12 == 0xFFF || bits v 0 12 == 0)

/-- A host range record in range (R487). -/
def hostRangeOk (r : Nat) : Bool :=
  bits r 3 21 == 0 && bits r 116 12 == 0 && bits r 64 12 == 0 && (!bitOf r 0 || bits r 24 40 != 0)

/-- The window lies wholly in job stack memory (R488). -/
def windowOk (s : State) (base size : Nat) : Bool :=
  base % 2 ^ 28 == 0 && jobBase ≤ base && base + size * 2 ^ 28 ≤ capacity s

/-- Soft and stretch thresholds that R420 allows, in 1/16 °C. -/
def thresholdsOk (soft stretch cap : Int) : Bool := soft + 32 ≤ stretch && stretch ≤ cap

/-- The range of an entry beyond its table's bounds: v of `len` bytes. -/
def entryRange (s : State) (i sub v len : Nat) : Bool :=
  let th := fun (k : Nat) (w : Int) (j : Nat) => if j = k then w else int32 (odGet s 0x2400 j)
  if (0x3600 ≤ i && i < 0x3700) && (sub % 16 = 1 || sub % 16 = 3) then ringAddrOk v
  else match i, sub with
  | 0x2100, 0x01 => odGet s 0x2100 0x03 ≤ v
  | 0x2100, 0x03 => v ≤ odGet s 0x2100 0x01
  | 0x2200, 0x05 => selectNames 0xC sensorExists v
  | 0x2200, 0x0B => selectNames 0xB railExists v
  | 0x2400, 0x01 => thresholdsOk (int32 v) (th 1 (int32 v) 2) 1552
  | 0x2400, 0x02 => thresholdsOk (th 2 (int32 v) 1) (int32 v) 1552
  | 0x2400, 0x04 => thresholdsOk (int32 v) (th 4 (int32 v) 5) 1472
  | 0x2400, 0x05 => thresholdsOk (th 5 (int32 v) 4) (int32 v) 1472
  | 0x2400, 0x07 => thresholdsOk (int32 v) (th 7 (int32 v) 8) 1520
  | 0x2400, 0x08 => thresholdsOk (th 8 (int32 v) 7) (int32 v) 1520
  | 0x5000, 0x03 => e2eWith s 0x03 v
  | 0x5000, 0x04 => odGet s 0x5000 0x03 ≤ v && e2eWith s 0x04 v
  | 0x5000, 0x05 => e2eWith s 0x05 v
  | 0x5000, 0x07 => e2eWith s 0x07 v
  | 0x5000, 0x08 => e2eWith s 0x08 v
  | 0x5000, 0x0C => v % 4096 == 0 && jobBase ≤ v && v < capacity s
  | 0x5000, 0x0D => v == 0 || (8 ≤ v && inJob s (odGet s 0x5000 0x0C) (32 * 2 ^ v))
  | 0x6200, 0x01 => v % 4096 == 0
  | 0x6300, 0x01 => windowOk s v (odGet s 0x6300 0x02)
  | 0x6300, 0x02 => windowOk s (odGet s 0x6300 0x01) v
  | 0x6400, 0x01 => (List.range 16).all (fun k => hostRangeOk (bits v (128 * k) 128))
  | 0x7100, 0x02 => headOk s v
  | 0x7100, 0x04 => headOk s v
  | 0x7200, 0x09 => isCore v
  | 0x7200, 0x0A => isCore v
  | 0x7300, 0x01 => v == 0 || (List.range 9).any (fun k => v == 2 ^ k)
  | 0x7400, 0x01 => resetNames v
  | 0x8000, 0x0C => v == odGet s 0x8000 0x04
  | 0x8100, 0x02 => v != 0
  | 0x9000, 0x03 => tableOk v len
  | 0x9000, 0x09 => v % 128 == 0
  | 0x9000, 0x11 => v % 4 == 0
  | 0x9200, 0x01 => mapOk v
  | _, _ => true

/-- A complete value in the range of its type and entry (R457). -/
def rangeOk (s : State) (row : OdRow) (i sub v len : Nat) : Bool :=
  (if row.pieces then len == row.size || (i == 0x9000 && sub == 0x03) || (i == 0x7200 && sub == 0x0F)
   else row.lo ≤ v && v ≤ row.hi && !(row.ty == 6 && nan32 v)) && entryRange s i sub v len

/-! ### State rules -/

/-- The state rules of queue entries (R196). -/
def queueRule (s : State) (u q n : Nat) : Bool :=
  if n ≤ 3 then ringOpen s u q else if n = 4 then qGet s u q 6 == 3 else true

/-- The state rule of the owning chapter allows the write (R458). -/
def stateOk (s : State) (i sub v : Nat) : Bool :=
  if 0x3600 ≤ i && i < 0x3700 then queueRule s (if i < 0x3680 then i - 0x3600 else 128 + (i - 0x3680)) (sub / 16) (sub % 16)
  else if 0x9010 ≤ i && i < 0x9020 then v == 0 || restartOk s (i - 0x9010)
  else if 0x9100 ≤ i && i < 0x9140 then (sub == 3 && v == 1) || odGet s i 0x01 != 2
  else if 0x2300 ≤ i && i < 0x2304 then !(sub == 0x09 || sub == 0x0A) || odGet s 0x2100 0x04 != 0
  else match i, sub with
  | 0x2100, 0x02 => odGet s 0x2100 0x04 != 0
  | 0x4000, 0x09 => s.retirements < 2 && odGet s (0x4100 + v) 0x01 == 0
  | 0x5000, 0x01 => odGet s 0x5000 0x02 != 2
  | 0x5000, 0x0C => odGet s 0x5000 0x0D == 0
  | 0x6300, 0x01 => featureOn s 18 && odGet s 0x6300 0x03 == 0
  | 0x6300, 0x02 => featureOn s 18 && odGet s 0x6300 0x03 == 0
  | 0x7200, 0x09 => fenceable s v
  | 0x7200, 0x0A => coreState s v == 3
  | 0x8000, 0x07 => imageOpen s v
  | 0x8000, 0x09 => activationOpen s v
  | 0x8000, 0x13 => attachOpen s v
  | 0x8100, 0x02 => odGet s 0x8100 0x02 == 0
  | 0x8200, 0x03 => challengeOpen s
  | 0x9000, 0x03 => !orphaned s && !anyCommand s
  | 0x9000, 0x07 => !orphaned s && featureOn s 20 && !anyQueued s
  | 0x9000, 0x11 => !orphaned s && !anyQueued s
  | 0x9000, _ => !orphaned s
  | 0x9200, 0x01 => !mapNamesActive s v
  | _, _ => true

/-! ### Tokens (R507) -/

/-- Bytes of a token. -/
def tokenBytes : Nat := 2952

/-- The action code of an entry; 0 where the table names none. -/
def actionOf (i sub : Nat) : Nat :=
  if 0x3800 ≤ i && i < 0x3804 && sub = 0x08 then 3
  else match i, sub with
  | 0x7A00, 0x03 => 1
  | 0x4000, 0x09 => 2
  | 0x7200, 0x09 => 4
  | 0x7200, 0x0A => 5
  | 0x7200, 0x0F => 6
  | 0x8000, 0x0C => 7
  | 0x8100, 0x04 => 8
  | _, _ => 0

/-- The bound state of an action. -/
def boundState (s : State) (action : Nat) : Nat := if action = 1 then lastSeq s else odGet s 0x8100 0x09

/-- The token passes every check, the bound state included. -/
def tokenOk (s : State) (i sub : Nat) (value t : List Byte) : Bool :=
  let a := actionOf i sub
  let key := imgBytes t 0x40 68
  t.length == tokenBytes && imgNat t 0 2 == 1 && imgNat t 2 2 == a && a != 0 && imgNat t 4 2 == i && imgNat t 6 1 == sub
    && imgNat t 7 1 == 0 && imgNat t 8 8 == Config.serial % 2 ^ 64 && imgNat t 0x10 8 == boundState s a && imgNat t 0x18 8 == 0
    && imgNat t 0x20 32 == Config.shake256 value && odGet s 0x8100 0x02 != 0 && Config.shake256 key == odGet s 0x8100 0x02
    && Config.xmssVerify key (imgBytes t 0 0x84) (imgBytes t 0x84 2820)

/-- The record of an AUTH WRITE (KIND 8, R528): its token's action, and the status. -/
def authRecord (s : State) (r : OdReq) (status : Nat) : State :=
  let t := r.data.drop r.offset
  let a := if tokenBytes ≤ t.length then imgNat t 2 2 else 0
  addRecord s ⟨0, 8, pkgUnit, 0, 0, r.index * 65536 + r.sub + a * 2 ^ 32 + status * 2 ^ 48, odGet s 0x8100 0x09, none⟩

end Sys2Proof.Machine
end

