-- ==== Sys2Proof/Machine/OdAccess.lean ====
section
/-! DEFINITION. Object dictionary requests served (R463 to R471): reads from snapshots, writes in pieces, META, AUTH WRITE, and what each
write does. The order of the checks is that of R464. -/

namespace Sys2Proof.Machine

/-! ### What a write does -/

/-- What a request's row supplies beside the request: the image that a fetch meets, and whether a flash write succeeds. -/
structure Aux where
  image : Option (List Byte)
  flashOk : Bool

def Aux.none : Aux := ⟨Option.none, true⟩

/-- The ports that are KEYING send their identity. -/
def sendIdents (s : State) : State :=
  emitAll s (((List.range 16).filter (fun p => portState s p == 2)).map (fun p => Output.control p 0 (identWord s p)))

/-- A package number (R288), with which ports that wait for it send it and key at once (R342): NO ROUTES, or ROUTING where tables have been activated; 0xF_FFFF returns to UNASSIGNED. -/
def writeNumber (s : State) (v : Nat) : State :=
  let s1 := odSet s 0x5000 0x01 v
  let s2 := odSet s1 0x5000 0x02 (if v = 0xFFFFF then 0 else if odGet s 0x5100 0x05 = 0 then 1 else 2)
  progress ((List.range 16).foldl keyPort (sendIdents s2))

/-- Entry i of shadow table t (0 hall, 1 group, 2 member). -/
def shadowEntry (s : State) (t i : Nat) : Nat := bits (odGet s 0x5100 (t + 1)) (32 * i) 32

/-- Why an entry refuses the set: 1 reserved MODE, 2 reserved bits, 3 empty ELIG; 0 when it does not. -/
def entryRefusal (e : Nat) : Nat :=
  if reMode e = 3 then 1 else if bits e 0 10 ≠ 0 then 2 else if reMode e ≠ 0 && bits e 16 16 = 0 then 3 else 0

/-- The first refusal of the shadow set, as 0x5100.06 shows it. -/
def setRefusal (s : State) : Option Nat :=
  [(0, 4), (1, 512), (2, 512)].findSome? (fun t => (List.range t.2).findSome? (fun i =>
    let n := entryRefusal (shadowEntry s t.1 i)
    if n = 0 then none else some (t.1 * 2 ^ 30 + i * 2 ^ 20 + n)))

/-- Check the shadow tables and swap the two sets (R302); a set that fails is refused RANGE. -/
def activateRoutes (s : State) : Nat × State :=
  match setRefusal s with
  | some n => (odRANGE, odSet s 0x5100 0x06 n)
  | none =>
    let t := odGet s 0x5100 0x01 % 2 ^ 128 + odGet s 0x5100 0x02 % 2 ^ 16384 * 2 ^ 128 + odGet s 0x5100 0x03 % 2 ^ 16384 * 2 ^ 16512
    let old := odGet s 0x5100 0x07
    let s0 := odSet (odSet (odSet s 0x5100 0x01 (bits old 0 128)) 0x5100 0x02 (bits old 128 16384)) 0x5100 0x03 (bits old 16512 16384)
    let s1 := odSet (odSet s0 0x5100 0x07 t) 0x5100 0x05 (wrap 32 (odGet s 0x5100 0x05 + 1))
    (odOK, progress (retryWaiting (odSet s1 0x5000 0x02 2)))

/-- The port enable (R341). -/
def writeEnable (s : State) (p v : Nat) : State :=
  let s1 := odSet s (0x5200 + p) 0x0C v
  progress (if v = 0 then goDark s1 p else wakePort s1 p)

/-- A write of the restart entry (R211); 0 has no effect. -/
def writeRestart (s : State) (c v : Nat) : State := if v = 0 then s else restartCtx s c

/-- A write of the emergency request (R421). -/
def writeEmergency (s : State) (v : Nat) : State :=
  let s1 := odSet s 0x2100 0x06 v
  if v = 0 then clearCause s1 4 else raiseCause s1 4

/-- A write of a channel's bind entry (R350): a refused bind answers STATE. -/
def writeBind (s : State) (ch v : Nat) : Nat × State :=
  if v = 0 then (odOK, unbindChan s ch)
  else (if bindRefusal s ch = 0 then odOK else odSTATE, bindChan s ch)

/-- A queue entry's write (R195, R196, R211): a write of the ring base or ring size starts the ring anew, one of the completion base only
puts the value. -/
def writeQueue (s : State) (u q n v : Nat) : State :=
  if n ≤ 2 then writeRing s u q n v
  else if n = 3 then qSet s u q 3 v
  else if n = 4 then writeHead s u q v
  else if n = 5 then publishTail s u q v
  else qSet s u q 7 (clearMask (qGet s u q 7) v)

/-- A counter reset (R446); a per-slot counter is that of the requester's selected slot. -/
def writeReset (s : State) (p : Path) (v : Nat) : State :=
  let i := bits v 16 16
  let k := (i - 0x5400) * 18 + selectOf (getReq s p) i 0x0B
  let s1 := resetCounter s v
  if 0x5400 ≤ i && i < 0x5410 && bits v 0 8 = 0x15 then { s1 with symbols := Store.put 0 s1.symbols k 0 }
  else if 0x5400 ≤ i && i < 0x5410 && bits v 0 8 = 0x16 then { s1 with codewords := Store.put 0 s1.codewords k 0 }
  else s1

/-- Store a tally through 0x9300.02: it acts as TSET (R228). -/
def writeTally (s : State) (p : Path) (v : Nat) : State := tallySet s (selectOf (getReq s p) 0x9300 0x01) v

/-- Writes of the power settings (R426). -/
def applyPower (s : State) (sub v : Nat) : State :=
  match sub with
  | 0x01 => putLimit s 0x01 v
  | 0x02 => putAllocations s v
  | 0x03 => putLimit s 0x03 v
  | 0x06 => writeEmergency s v
  | _ => odSet s 0x2100 sub v

/-- Writes of the fault and test entries (R435, R442). -/
def applyTests (s : State) (p : Path) (sub v : Nat) (d : List Byte) : State :=
  match sub with
  | 0x09 => fenceNow s v 5
  | 0x0A => unfence s v
  | 0x0F => installPattern s d (selectOf (getReq s p) 0x7200 0x10)
  | _ => odSet s 0x7200 sub v

/-- Writes of the recorder's controls (R451, R452). -/
def applyRecorder (s : State) (sub v : Nat) : State :=
  match sub with
  | 0x01 => if v = 0 then liftDust s else layDust s
  | 0x03 => clearRecords s
  | _ => odSet s 0x7A00 sub v

/-- What an image fetch delivers: it needs a path to host memory (R486, R495). -/
def fetchedImage (s : State) (image : Option (List Byte)) : Option (List Byte) := if hostPath s then image else none

/-- Writes of the firmware controls (R494 to R509). -/
def applyFirmware (s : State) (sub v : Nat) (x : Aux) : State :=
  match sub with
  | 0x07 => if v = 1 then loadImage s (fetchedImage s x.image) else stageImage s (fetchedImage s x.image)
  | 0x09 => activationRequest s v
  | 0x0C => odSet s 0x8100 0x05 (max (odGet s 0x8100 0x05) v)
  | 0x13 => attachRequest s v
  | _ => odSet s 0x8000 sub v

/-- Writes of the job plane's package-wide entries (R57, R212, R364). -/
def applyJobs (s : State) (sub v : Nat) : State :=
  match sub with
  | 0x02 => { (odSet s 0x9000 0x02 v) with seedPending := true }
  | 0x03 => putTable s v
  | _ => odSet s 0x9000 sub v

/-- An attestation challenge: BUSY while another is being signed (R509), refused when its evidence cannot be made (R508). -/
def applyChallenge (s : State) (p : Path) (v : Nat) (flashOk : Bool) : Nat × State :=
  if s.signing.isSome then (odBUSY, s)
  else match attest s p v flashOk with
  | some t => (odOK, t)
  | none => (odUNAVAILABLE, s)

/-- Writes of a single sub-index of an index. -/
def applySingle (s : State) (p : Path) (i sub v : Nat) : State :=
  if i = 0x4000 ∧ sub = 0x09 then startRetire s v false 0xFFF
  else if i = 0x5000 ∧ sub = 0x01 then writeNumber s v
  else if i = 0x5300 ∧ sub = 0x03 then ((List.range 16).filter (bitOf v)).foldl rekeyPort s
  else if i = 0x7000 ∧ sub = 0x02 then clearSnags s v
  else if i = 0x7400 ∧ sub = 0x01 then writeReset s p v
  else if i = 0x9200 ∧ sub = 0x01 then writeMap s v
  else if i = 0x9300 ∧ sub = 0x02 then writeTally s p v
  else odSet s i sub v

/-- Activation of the routes (R302): a write of 0 does nothing. -/
def applyRoutes (s : State) (v : Nat) : Nat × State := if v = 0 then (odOK, s) else activateRoutes s

/-- A die's lane record is cleared: the module is tried again at the next start (R282). -/
def retryModule (s : State) (d v : Nat) : State := { s with retryLanes := insertNat s.retryLanes (modKey d v) }

/-- Writes of the package-wide entries by index. -/
def applyPlain (s : State) (p : Path) (i sub v : Nat) (d : List Byte) (x : Aux) : State :=
  if i = 0x2100 then applyPower s sub v
  else if i = 0x7200 then applyTests s p sub v d
  else if i = 0x7A00 then applyRecorder s sub v
  else if i = 0x8000 then applyFirmware s sub v x
  else if i = 0x9000 then applyJobs s sub v
  else if 0xA000 ≤ i ∧ i < 0xB000 then (if v = 0 then s else scheduleRefresh s i)
  else applySingle s p i sub v

/-- Writes of the entries that stand once for each core, die, port, context or queue. -/
def applyIndexed (s : State) (p : Path) (i sub v : Nat) (d : List Byte) (x : Aux) : State :=
  if isSelect i sub then setSelect s p i sub v
  else if 0x3600 ≤ i ∧ i < 0x3700 then
    writeQueue s (if i < 0x3680 then i - 0x3600 else 128 + (i - 0x3680)) (sub / 16) (sub % 16) v
  else if 0x5200 ≤ i ∧ i < 0x5210 ∧ sub = 0x0C then writeEnable s (i - 0x5200) v
  else if 0x9010 ≤ i ∧ i < 0x9020 then writeRestart s (i - 0x9010) v
  else if 0x3800 ≤ i ∧ i < 0x3804 ∧ sub = 0x08 then retryModule s (i - 0x3800) v
  else applyPlain s p i sub v d x

/-- The write of a value that passed every check: the status, and the state. A bind, the activation of routes and a challenge can be
refused still. -/
def odApply (s : State) (p : Path) (i sub v : Nat) (d : List Byte) (x : Aux) : Nat × State :=
  if 0x9100 ≤ i ∧ i < 0x9140 ∧ sub = 0x03 then writeBind s (i - 0x9100) v
  else if i = 0x8200 ∧ sub = 0x03 then applyChallenge s p v x.flashOk
  else if i = 0x5100 ∧ sub = 0x04 then applyRoutes s v
  else (odOK, applyIndexed s p i sub v d x)

/-! ### Responses -/

/-- The Hasowa header of a RESPONSE: VER 1, KIND 1, the session and the manager's SEQ (R474). -/
def responseHeader (session seq : Nat) : Nat := 2 ^ 88 + 2 ^ 80 + session % 2 ^ 16 * 2 ^ 64 + seq % 2 ^ 32 * 2 ^ 32

/-- A session's response to the REQUEST that it has held longest, and the session with that response stored (R475). -/
def sessionAnswer (x : Session) (o : Output) : Session :=
  let seq := x.asked.headD x.lastSeq
  { x with asked := x.asked.drop 1, served := seq, stored := [.datagram x.source (responseHeader x.id seq), o] }

/-- Answer a request: the mailbox's return code is Success (R470); a job page keeps the response in its payload (R492), a Hasowa session as
its stored response (R475), sent under its header. -/
def respond (s : State) (p : Path) (r : OdReq) (status off len : Nat) (data : List Byte) : State :=
  let o := Output.odResponse p r.index r.sub status off len r.tag data
  match p with
  | .mailbox _ => emit (emit s (.returnCode false)) o
  | .job c _ =>
    let head := leBytes 4 r.tag ++ leBytes 4 len ++ leBytes 4 off ++ leBytes 1 status ++ leBytes 1 r.sub ++ leBytes 2 r.index
    { (emit s o) with jobPages := (c, head ++ data) :: s.jobPages.filter (fun x => x.1 != c) }
  | .hasowa n _ =>
    match findSession s n with
    | some x => { (emitAll s (sessionAnswer x o).stored) with sessions := mapWhere (fun y => y.id == n) (fun y => sessionAnswer y o) s.sessions }
    | none => emit s o

/-- A refusal: the status, and nothing else but the record of a refused AUTH WRITE (R464, R467). -/
def refuse (s : State) (p : Path) (r : OdReq) (status len : Nat) : State :=
  respond (if r.op = 3 then authRecord s r status else s) p r status r.offset len []

/-! ### Reads (R465) -/

/-- The most data that a request or a response of a path carries (R470, R471, R474). -/
def pathMax : Path → Nat
  | .mailbox _ => 16368
  | .job _ _ => 2032
  | .hasowa _ _ => 1024

/-- A snapshot of the sub-index that the requester holds, for a READ at an OFFSET above 0. -/
def heldSnap (q : Requester) (r : OdReq) : Option (List Byte) :=
  match q.snap with
  | some x => if x.1 = odKey r.index r.sub && r.offset != 0 then some x.2 else none
  | none => none

/-- A snapshot of a record advances its read pointer (R452). -/
def advancePointer (s : State) (p : Path) (i sub : Nat) : State :=
  match i, sub with
  | 0x7A00, 0x06 => setSelect s p 0x7A00 0x02 (readRecord s.ring (selectOf (getReq s p) 0x7A00 0x02)).2
  | 0x7A10, 0x02 => setSelect s p 0x7A10 0x01 (readRecord s.archive (selectOf (getReq s p) 0x7A10 0x01)).2
  | _, _ => s

/-- A READ that rights and access allow. -/
def serveRead (s : State) (p : Path) (r : OdReq) (row : OdRow) : State :=
  let q := getReq s p
  if !row.pieces then
    if r.offset ≠ 0 || r.length ≠ row.size then refuse s p r odLENGTH row.size
    else if !available s r.index then refuse s p r odUNAVAILABLE 0
    else respond { s with free := s.free + 1 } p r odOK 0 row.size (leBytes row.size (odValue s q r.index r.sub))
  else
    let all := (heldSnap q r).getD (odBytes s q row r.index r.sub)
    if all.length < r.offset then refuse s p r odLENGTH all.length
    else if !available s r.index then refuse s p r odUNAVAILABLE 0
    else
      let data := (all.drop r.offset).take (min r.length (pathMax p))
      let s1 := if (heldSnap q r).isSome then s
        else advancePointer (putReq { s with free := s.free + 1 } { q with snap := some (odKey r.index r.sub, all) }) p r.index r.sub
      respond s1 p r odOK r.offset data.length data

/-! ### Writes (R465) -/

/-- Apply a complete value. -/
def writeValue (s : State) (p : Path) (r : OdReq) (row : OdRow) (d : List Byte) (x : Aux) : State :=
  let v := leNat d
  if !rangeOk s row r.index r.sub v d.length then refuse s p r odRANGE 0
  else if !stateOk s r.index r.sub v then refuse s p r odSTATE 0
  else
    let o := odApply s p r.index r.sub v d x
    respond o.2 p r o.1 r.offset 0 []

/-- The pieces staged for the sub-index. -/
def stagedPieces (q : Requester) (r : OdReq) : List Byte :=
  match q.staged with
  | some x => if x.1 = odKey r.index r.sub then x.2 else []
  | none => []

/-- A WRITE that rights and access allow. -/
def serveWrite (s : State) (p : Path) (r : OdReq) (row : OdRow) (x : Aux) : State :=
  if !row.pieces then
    if r.offset ≠ 0 || r.length ≠ row.size then refuse s p r odLENGTH 0
    else if !available s r.index then refuse s p r odUNAVAILABLE 0
    else writeValue s p r row r.data x
  else if min 1048576 row.size < r.offset + r.length then refuse s p r odLENGTH 0
  else if !available s r.index then refuse s p r odUNAVAILABLE 0
  else
    let q := getReq s p
    let prior := if r.offset = 0 then [] else stagedPieces q r
    let drop := putReq s { q with staged := none }
    if r.offset ≠ 0 && (q.staged.isNone || prior.length ≠ r.offset) then refuse drop p r odSTATE 0
    else if !r.last then
      respond (putReq s { q with staged := some (odKey r.index r.sub, prior ++ r.data), stagedAt := s.uptime }) p r odOK r.offset 0 []
    else writeValue drop p r row (prior ++ r.data) x

/-! ### META (R466) -/

/-- The JOB bit of a META: for the page's own context, or for some enabled context whose job page could make the access now. -/
def metaJob (s : State) (p : Path) (i sub : Nat) (write : Bool) : Bool :=
  match p with
  | .job c _ => jobReach s c (selectOf (getReq s p) 0x9300 1) i sub write
  | _ => (List.range 16).any (fun c => !pageClosed s (.job c false) && jobReach s c (selectOf (getReq s (.job c false)) 0x9300 1) i sub write)

def metaMask (s : State) (p : Path) (row : OdRow) (i sub : Nat) (write : Bool) : Nat :=
  let m := classMask row i write
  if bitOf m 2 && !metaJob s p i sub write then m - 4 else m

/-- The default that META answers, in 8 bytes: 0 where the table of the entry prints none (R466), as for the positions of R37; the first bytes
of the rights policy of R460 (log 33). -/
def metaDefault (i sub : Nat) : Nat :=
  if i = 0x8100 && sub = 3 then bits policyBlob 0 64 else
  if sub = 0 || (0x3000 ≤ i && i < 0x3080 && (sub == 2 || sub == 3)) then 0 else odDefault i sub

/-- Byte 2 holds the readers and byte 3 the writers, each in the bit order of R460 from bit 0 (DEDUCED, log 33). -/
def metaBytes (s : State) (p : Path) (row : OdRow) (i sub : Nat) : List Byte :=
  leBytes 1 row.ty ++ leBytes 1 row.acc ++ leBytes 1 (metaMask s p row i sub false) ++ leBytes 1 (metaMask s p row i sub true)
    ++ leBytes 4 row.size ++ leBytes 8 (metaDefault i sub) ++ leBytes 8 0

/-- A META request answers whoever may read or write the sub-index, where the state serves its entry (R464, R478). -/
def serveMeta (s : State) (p : Path) (r : OdReq) (row : OdRow) : State :=
  if !available s r.index then refuse s p r odUNAVAILABLE 0
  else respond s p r odOK r.offset 24 (metaBytes s p row r.index r.sub)

/-! ### AUTH WRITE (R467) -/

/-- An AUTH WRITE that rights and access allow: the value, and after it the token. -/
def serveAuth (s : State) (p : Path) (r : OdReq) (row : OdRow) (x : Aux) : State :=
  let value := r.data.take r.offset
  let v := leNat value
  if (if row.pieces then min 1048576 row.size < r.offset else r.offset ≠ row.size) then refuse s p r odLENGTH 0
  else if !available s r.index then refuse s p r odUNAVAILABLE 0
  else if !rangeOk s row r.index r.sub v value.length then refuse s p r odRANGE 0
  else if !tokenOk s r.index r.sub value (r.data.drop r.offset) then refuse s p r odAUTH 0
  else if !stateOk s r.index r.sub v then refuse s p r odSTATE 0
  else
    let o := odApply s p r.index r.sub v value x
    let s1 := odSet o.2 0x8100 0x09 (odGet s 0x8100 0x09 + 1)
    respond (authRecord s1 r odOK) p r odOK r.offset 0 []

/-! ### A request (R463, R464) -/

/-- A reserved OP or bit, or a LENGTH that disagrees with the data: a path carries no more than its payload (DEDUCED, log 170). -/
def malformed (p : Path) (r : OdReq) : Bool :=
  4 ≤ r.op || pathMax p < r.data.length || r.reserved != 0 || (if r.op = 1 || r.op = 3 then r.length != r.data.length else r.data != []) || (r.op == 2 && r.length != 0)

/-- A request for any other sub-index drops the requester's snapshot and staged pieces (R465). -/
def leaveOthers (s : State) (p : Path) (r : OdReq) : State :=
  let q := getReq s p
  let other := fun (k : Nat) => k != odKey r.index r.sub
  let snap := match q.snap with | some x => if other x.1 then none else some x | none => none
  let staged := match q.staged with | some x => if other x.1 then none else some x | none => none
  if snap == q.snap && staged == q.staged then s else putReq s { q with snap := snap, staged := staged }

/-- Serve one request whole. -/
def serveNow (s0 : State) (p : Path) (r : OdReq) (x : Aux) : State :=
  if pageClosed s0 p then refuse s0 p r odSTATE 0
  else if malformed p r then refuse s0 p r odMALFORMED 0
  else
    let s := leaveOthers s0 p r
    if !odPresent r.index then refuse s p r odNOENTRY 0
    else match rowOf r.index r.sub with
      | none => refuse s p r odNOSUB 0
      | some row =>
        if !(if r.op = 2 then rightsOk s p r row false || rightsOk s p r row true else rightsOk s p r row (r.op != 0)) then
          refuse s p r odRIGHTS 0
        else if !accessOk row r then refuse s p r odACCESS 0
        else if r.op = 0 then serveRead s p r row
        else if r.op = 1 then serveWrite s p r row x
        else if r.op = 2 then serveMeta s p r row
        else serveAuth s p r row x

/-- Take a request: served, or held while an activation quiesces or is in its blackout (R478). -/
def odTake (s : State) (p : Path) (r : OdReq) (x : Aux) : State :=
  if !reaches s p then s
  else if holdsRequests s && !pageClosed s p then { s with waitingReqs := s.waitingReqs ++ [⟨p, r, x.image, x.flashOk⟩] }
  else serveNow s p r x

/-- The paths in the order of the round robin: the mailbox, the job pages, the sessions (R468; the round begins at the mailbox, log 171). -/
def pathsInTurn (s : State) : List Path :=
  .mailbox false :: ((List.range 16).map (fun c => .job c false) ++ s.sessions.map (fun x => .hasowa x.id false))

/-- The k-th request that waits on a path. -/
def waitingOn (s : State) (p : Path) (k : Nat) : Option Waiting := (s.waitingReqs.filter (fun w => requesterOf w.p == p))[k]?

/-- The waiting requests in the order of service: in each round one request of each path, those of one path in the order they were sent. -/
def waitingInTurn (s : State) : List Waiting :=
  (List.range s.waitingReqs.length).flatMap (fun k => (pathsInTurn s).filterMap (fun p => waitingOn s p k))

/-- Serve the requests that were held. -/
def serveHeld (s : State) : State :=
  if holdsRequests s then s
  else (waitingInTurn s).foldl (fun s w => odTake s w.p w.r ⟨w.image, w.flashOk⟩) { s with waitingReqs := [] }

/-! ### Requests as they arrive -/

def putSession (s : State) (x : Session) : State := { s with sessions := mapWhere (fun y => y.id == x.id) (fun _ => x) s.sessions }

/-- Serve a REQUEST of a session on its path p, and count it in 0x6800.08 once it is taken. -/
def serveSession (s : State) (x : Session) (p : Path) (seq : Nat) (r : OdReq) (a : Aux) : State :=
  let s1 := putSession s { x with lastSeq := seq, seenAt := s.uptime, asked := x.asked ++ [seq] }
  odBump (odTake s1 p r a) 0x6800 0x08 1

/-- A request of a session whose source the allow list permits; another is discarded and counted (R475). -/
def fromPermitted (s : State) (source : BitVec 128) (serve : State) : State :=
  if permitted s source then serve else odBump s 0x6800 0x0A 1

/-- A request that arrives on a path. A BUSY job page discards it (R471). A row that names an OD request on a Hasowa path is the next REQUEST of
that open session (DESIGN CHOICE, log 172). -/
def odServe (s : State) (p : Path) (r : OdReq) (a : Aux) : State :=
  match p with
  | .mailbox _ => odTake s p r a
  | .job c _ => if pageState s c = 1 then s else odTake s p r a
  | .hasowa n _ =>
    if !s.romRuns then s
    else match findSession s n with
      | some x => fromPermitted s x.source (serveSession s x p (wrap 32 (x.lastSeq + 1)) r a)
      | none => s

/-! ### Requests that the rows name -/

/-- A WRITE of a value of n bytes. -/
def writeReq (i sub n v : Nat) : OdReq := ⟨i, sub, 1, false, true, 0, 0, n, 0, leBytes n v⟩

/-- An AUTH WRITE of a value with its token. -/
def authReq (i sub : Nat) (value token : List Byte) : OdReq :=
  ⟨i, sub, 3, false, true, 0, value.length, value.length + token.length, 0, value ++ token⟩

/-- A READ of n bytes from offset 0. -/
def readReq (i sub n : Nat) : OdReq := ⟨i, sub, 0, false, true, 0, 0, n, 0, []⟩

end Sys2Proof.Machine
end

