-- ==== Sys2Proof/Machine/Activation.lean ====
section
/-! DEFINITION. The course of a live activation (R503, R504), and the events that raise an emergency, which return an activation that is
quiescing to its deferral. -/

namespace Sys2Proof.Machine

/-- File the reports of events detected in the blackout, each with its own uptime (R504). -/
def fileDeferred (s : State) : State :=
  s.deferred.foldl (fun s r => saturationEvents 5 s (fileDetected s r)) { s with deferred := [] }

/-- The record, the snag and vector 2 of a lapse that fell in the blackout (R504). -/
def fileLapse (s : State) : State := if s.lapsed then orphanEvents { s with lapsed := false } else s

/-- The blackout ends after `us`: reports and a lapse are filed, the result is shown, vector 2 is raised, held requests are served. -/
def endBlackout (s : State) (result us : Nat) : State :=
  let s1 := odSet (odSet (odSet s 0x8000 0x09 0) 0x8000 0x0B result) 0x8000 0x17 us
  serveHeld (raiseVector (fileLapse (fileDeferred s1)) 2)

/-- The new image is alive: it runs, and the activation is counted. -/
def activateStaged (s : State) : State :=
  match s.staged with
  | some x => odSet (odSet (runImage { s with staged := none } x) 0x8000 0x0D 0) 0x8000 0x0A (odGet s 0x8000 0x0A + 1)
  | none => s

/-- QUIESCING (R503): the deferral ends. -/
def execQuiescing (s : State) : Host.Outcome State Fault Refusal :=
  .next (if odGet s 0x8000 0x09 = 1 && !mustDefer s then odSet s 0x8000 0x09 2 else s)

/-- BLACKOUT (R503): from QUIESCING it begins; commanded in the blackout it is its end, `us` after its beginning and at most 2 ms, with the
new image alive. -/
def execBlackout (us : Nat) (s : State) : Host.Outcome State Fault Refusal :=
  .next (if odGet s 0x8000 0x09 = 2 then odSet s 0x8000 0x09 3
    else if odGet s 0x8000 0x09 = 3 && us ≤ 2000 then endBlackout (activateStaged s) 1 us
    else s)

/-- NEW_IMAGE_START_TIMEOUT (R503): the previous image is restarted. -/
def execNewImageStartTimeout (us : Nat) (s : State) : Host.Outcome State Fault Refusal :=
  .next (if odGet s 0x8000 0x09 = 3 && us ≤ 2000 then endBlackout s 2 us else s)

/-! ### Events that raise an emergency (R421, R504) -/

/-- EMERG_N (R421). -/
def execEmergN (s : State) : Host.Outcome State Fault Refusal := .next (serveHeld (emergNFalls s))

/-- THERMAL_TRIP (R420). -/
def execThermalTrip (r : Reading) (s : State) : Host.Outcome State Fault Refusal := .next (serveHeld (thermalTrip r s))

/-- GOVERNOR_LOOP (R417, R418). -/
def execGovernorLoop (measured : List Nat) (watts : Nat) (rs : List Reading) (s : State) : Host.Outcome State Fault Refusal :=
  .next (serveHeld (governorLoop measured watts rs s))

/-- VBULK_UNDERVOLTAGE (R409, R529). -/
def execVbulkUndervoltage (mV : Nat) (s : State) : Host.Outcome State Fault Refusal := .next (serveHeld (vbulkLow mV s))

end Sys2Proof.Machine
end

