-- ==== Sys2Proof/Machine/OdRows.lean ====
section
/-! DEFINITION. The commands that are object dictionary requests: those of entries with a row of their own, each a request of its path with
the value the row names, and the plain READ, WRITE, META and AUTH WRITE. Rights, states and effects are those of Machine/OdRules.lean and
Machine/OdAccess.lean. -/

namespace Sys2Proof.Machine

/-- Piece k of a WRITE of n bytes in pieces of `m` (R465). -/
def writePiece (i sub n v m k : Nat) : OdReq :=
  let data := ((leBytes n v).drop (k * m)).take m
  { writeReq i sub n v with last := decide (n ≤ (k + 1) * m), offset := k * m, length := data.length, data := data }

/-- A WRITE of n bytes: one request, or as many pieces as the path's payload asks for (R465, R470, R471, R474). -/
def doWrite (s : State) (p : Path) (i sub n v : Nat) : State :=
  if n ≤ pathMax p then odServe s p (writeReq i sub n v) Aux.none
  else (List.range (ceilDiv' n (pathMax p))).foldl (fun s k => odServe s p (writePiece i sub n v (pathMax p) k) Aux.none) s

/-- An AUTH WRITE of a value of n bytes. -/
def doAuth (s : State) (p : Path) (i sub n v : Nat) (token : List Byte) : State :=
  odServe s p (authReq i sub (leBytes n v) token) Aux.none

/-! ### Job entries -/

/-- CONTEXT_RESTART (R211). -/
def execContextRestart (p : Path) (ctx value : Nat) (s : State) : Host.Outcome State Fault Refusal :=
  .next (doWrite s p (0x9010 + ctx) 0x02 1 value)

/-- PARTITION_TABLE_WRITE (R212). -/
def execPartitionTableWrite (p : Path) (len table : Nat) (s : State) : Host.Outcome State Fault Refusal :=
  .next (doWrite s p 0x9000 0x03 len table)

/-- RING_BASE_WRITE (R196): the ring base, or the ring size. -/
def execRingBaseWrite (p : Path) (u q : Nat) (size : Bool) (value : Nat) (s : State) : Host.Outcome State Fault Refusal :=
  .next (if queueExists u q then doWrite s p (queueIndex u) (q * 16 + (if size then 2 else 1)) (if size then 1 else 8) value else s)

/-- TAIL_WRITE (R195). -/
def execTailWrite (p : Path) (u q value : Nat) (s : State) : Host.Outcome State Fault Refusal :=
  .next (if queueExists u q then doWrite s p (queueIndex u) (q * 16 + 5) 4 value else s)

/-- TALLY_WRITE (R205). -/
def execTallyWrite (p : Path) (value : Nat) (s : State) : Host.Outcome State Fault Refusal := .next (doWrite s p 0x9300 0x02 4 value)

/-- SR_SEED_WRITE (R57). -/
def execSrSeedWrite (p : Path) (value : Nat) (s : State) : Host.Outcome State Fault Refusal := .next (doWrite s p 0x9000 0x02 8 value)

/-- CHANNEL_BIND (R350). -/
def execChannelBind (p : Path) (chan : Nat) (s : State) : Host.Outcome State Fault Refusal :=
  .next (if chan < 64 then doWrite s p (0x9100 + chan) 0x03 1 1 else s)

/-- CHANNEL_UNBIND (R350). -/
def execChannelUnbind (p : Path) (chan : Nat) (s : State) : Host.Outcome State Fault Refusal :=
  .next (if chan < 64 then doWrite s p (0x9100 + chan) 0x03 1 0 else s)

/-- BACKUP_MAP_WRITE (R373). -/
def execBackupMapWrite (p : Path) (value : Nat) (s : State) : Host.Outcome State Fault Refusal := .next (doWrite s p 0x9200 0x01 2048 value)

/-! ### Memory, fabric and ports -/

/-- RETIRE_STACK (R263). -/
def execRetireStack (p : Path) (value : Nat) (token : List Byte) (s : State) : Host.Outcome State Fault Refusal :=
  .next (doAuth s p 0x4000 0x09 1 value token)

/-- PACKAGE_NUMBER_WRITE (R288). -/
def execPackageNumberWrite (p : Path) (value : Nat) (s : State) : Host.Outcome State Fault Refusal := .next (doWrite s p 0x5000 0x01 4 value)

/-- ROUTE_ACTIVATE (R302). -/
def execRouteActivate (p : Path) (value : Nat) (s : State) : Host.Outcome State Fault Refusal := .next (doWrite s p 0x5100 0x04 1 value)

/-- RE_KEY_REQUEST (R345). -/
def execReKeyRequest (p : Path) (value : Nat) (s : State) : Host.Outcome State Fault Refusal := .next (doWrite s p 0x5300 0x03 2 value)

/-- PORT_ENABLE_WRITE (R341). -/
def execPortEnableWrite (p : Path) (port value : Nat) (s : State) : Host.Outcome State Fault Refusal :=
  .next (if port < 16 then doWrite s p (0x5200 + port) 0x0C 1 value else s)

/-- CLEAR_LANE_RECORD (R282). -/
def execClearLaneRecord (p : Path) (d value : Nat) (token : List Byte) (s : State) : Host.Outcome State Fault Refusal :=
  .next (if d < 4 then doAuth s p (0x3800 + d) 0x08 1 value token else s)

/-! ### Power and calibrations -/

/-- EMERGENCY_REQUEST (R421). -/
def execEmergencyRequest (p : Path) (value : Nat) (s : State) : Host.Outcome State Fault Refusal := .next (doWrite s p 0x2100 0x06 1 value)

/-- REFRESH_REQUEST (R424). -/
def execRefreshRequest (p : Path) (index : Nat) (value : Nat) (s : State) : Host.Outcome State Fault Refusal :=
  .next (if calIndexes.contains index then doWrite s p index 0x05 1 value else s)

/-! ### Faults, tests and the recorder -/

/-- SNAG_CLEAR (R432). -/
def execSnagClear (p : Path) (mask : Nat) (s : State) : Host.Outcome State Fault Refusal := .next (doWrite s p 0x7000 0x02 32 mask)

/-- FENCE_CORE (R434, cause 5). -/
def execFenceCore (p : Path) (value : Nat) (token : List Byte) (s : State) : Host.Outcome State Fault Refusal :=
  .next (doAuth s p 0x7200 0x09 1 value token)

/-- UNFENCE_CORE (R436). -/
def execUnfenceCore (p : Path) (value : Nat) (token : List Byte) (s : State) : Host.Outcome State Fault Refusal :=
  .next (doAuth s p 0x7200 0x0A 1 value token)

/-- INSTALL_FIELD_PATTERN (R442). -/
def execInstallFieldPattern (p : Path) (pattern : List Byte) (token : List Byte) (s : State) : Host.Outcome State Fault Refusal :=
  .next (odServe s p (authReq 0x7200 0x0F pattern token) Aux.none)

/-- COUNTER_RESET (R446). -/
def execCounterReset (p : Path) (value : Nat) (s : State) : Host.Outcome State Fault Refusal := .next (doWrite s p 0x7400 0x01 4 value)

/-- DUST_SHEET_LAY (R451). -/
def execDustSheetLay (p : Path) (s : State) : Host.Outcome State Fault Refusal := .next (doWrite s p 0x7A00 0x01 1 1)

/-- DUST_SHEET_LIFT (R451). -/
def execDustSheetLift (p : Path) (s : State) : Host.Outcome State Fault Refusal := .next (doWrite s p 0x7A00 0x01 1 0)

/-- RECORD_READ (R452). -/
def execRecordRead (p : Path) (s : State) : Host.Outcome State Fault Refusal := .next (odServe s p (readReq 0x7A00 0x06 64) Aux.none)

/-- ARCHIVE_READ (R452). -/
def execArchiveRead (p : Path) (s : State) : Host.Outcome State Fault Refusal := .next (odServe s p (readReq 0x7A10 0x02 64) Aux.none)

/-- CLEAR_RECORDER (R453). -/
def execClearRecorder (p : Path) (token : List Byte) (s : State) : Host.Outcome State Fault Refusal :=
  .next (odServe s p (authReq 0x7A00 0x03 [] token) Aux.none)

/-! ### Driver, images and security -/

/-- ATTACH (R496, R501). -/
def execAttach (p : Path) (s : State) : Host.Outcome State Fault Refusal := .next (doWrite s p 0x8000 0x13 1 1)

/-- FRESH (R501). -/
def execFresh (p : Path) (s : State) : Host.Outcome State Fault Refusal := .next (doWrite s p 0x8000 0x13 1 2)

/-- DETACH (R498). -/
def execDetach (p : Path) (s : State) : Host.Outcome State Fault Refusal := .next (doWrite s p 0x8000 0x13 1 3)

/-- LOAD (R495): `image` is what the fetch delivers, none where it fails. -/
def execLoad (p : Path) (image : Option (List Byte)) (s : State) : Host.Outcome State Fault Refusal :=
  .next (odServe s p (writeReq 0x8000 0x07 1 1) ⟨image, true⟩)

/-- STAGE (R502). -/
def execStage (p : Path) (image : Option (List Byte)) (s : State) : Host.Outcome State Fault Refusal :=
  .next (odServe s p (writeReq 0x8000 0x07 1 2) ⟨image, true⟩)

/-- ACTIVATION_REQUEST (R503). -/
def execActivationRequest (p : Path) (s : State) : Host.Outcome State Fault Refusal := .next (doWrite s p 0x8000 0x09 1 1)

/-- ACTIVATION_CANCEL (R503). -/
def execActivationCancel (p : Path) (s : State) : Host.Outcome State Fault Refusal := .next (doWrite s p 0x8000 0x09 1 0)

/-- COMMIT_SECURITY_VERSION (R506). -/
def execCommitSecurityVersion (p : Path) (value : Nat) (token : List Byte) (s : State) : Host.Outcome State Fault Refusal :=
  .next (doAuth s p 0x8000 0x0C 1 value token)

/-- LOCK_DEBUG (R505). -/
def execLockDebug (p : Path) (value : Nat) (token : List Byte) (s : State) : Host.Outcome State Fault Refusal :=
  .next (doAuth s p 0x8100 0x04 1 value token)

/-- OPERATOR_KEY_HASH_WRITE (R505). -/
def execOperatorKeyHashWrite (p : Path) (value : Nat) (s : State) : Host.Outcome State Fault Refusal := .next (doWrite s p 0x8100 0x02 32 value)

/-- ATTESTATION_CHALLENGE (R509). -/
def execAttestationChallenge (p : Path) (value : Nat) (flashOk : Bool) (s : State) : Host.Outcome State Fault Refusal :=
  .next (odServe s p (writeReq 0x8200 0x03 32 value) ⟨none, flashOk⟩)

/-! ### Requests as they arrive -/

/-- The operation of a row, unless the header names a reserved one. -/
def withOp (r : OdReq) (op : Nat) : OdReq := { r with op := if 4 ≤ r.op then r.op else op }

/-- OD_READ (R465). -/
def execOdRead (p : Path) (r : OdReq) (s : State) : Host.Outcome State Fault Refusal := .next (odServe s p (withOp r 0) Aux.none)

/-- OD_WRITE (R465). -/
def execOdWrite (p : Path) (r : OdReq) (s : State) : Host.Outcome State Fault Refusal := .next (odServe s p (withOp r 1) Aux.none)

/-- OD_META (R466). -/
def execOdMeta (p : Path) (r : OdReq) (s : State) : Host.Outcome State Fault Refusal := .next (odServe s p (withOp r 2) Aux.none)

/-- AUTH_WRITE (R467). -/
def execAuthWrite (p : Path) (r : OdReq) (s : State) : Host.Outcome State Fault Refusal := .next (odServe s p (withOp r 3) Aux.none)

/-- STAGING_TIMEOUT (R465): 10 s without a piece. -/
def execStagingTimeout (p : Path) (s : State) : Host.Outcome State Fault Refusal :=
  .next (let q := getReq s p
    if q.staged.isSome && q.stagedAt + 10000 * msTicks ≤ s.uptime then putReq s { q with staged := none } else s)

/-- UNSUPPORTED_MAILBOX_OPCODE (R470); the opcodes 0xC000 to 0xC003 are OD_READ, OD_WRITE, OD_META and AUTH_WRITE on the mailbox. -/
def execUnsupportedMailboxOpcode (opcode : Nat) (s : State) : Host.Outcome State Fault Refusal :=
  .next (if answered s (.mailbox false) && !(0xC000 ≤ opcode && opcode ≤ 0xC003) then emit s (.returnCode true) else s)

/-- JOB_PAGE_DOORBELL (R492): a write of 1 submits the request; other values, and a write while BUSY, are discarded. -/
def execJobPageDoorbell (ctx value : Nat) (r : OdReq) (s : State) : Host.Outcome State Fault Refusal :=
  .next (if ctx < 16 && value = 1 then odServe s (.job ctx false) r Aux.none else s)

/-! ### Hasowa (R474 to R477) -/

/-- The package's link-local address: fe80::/64 with the modified EUI-64 of the MAC address, its first octet at [47:40] (R474, log 173). -/
def linkLocal : BitVec 128 :=
  let mac := Config.mac % 2 ^ 48
  BitVec.ofNat 128 (0xFE80 * 2 ^ 112 + (bits mac 24 24 ^^^ 0x020000) * 2 ^ 40 + 0xFFFE * 2 ^ 24 + bits mac 0 24)

/-- A datagram for the package's Hasowa that is a REQUEST: its address and port, VER 1, KIND 0, a SESSION of 16 bits other than 0 (R474). -/
def isRequest (session : Nat) (h : HasowaHead) : Bool :=
  h.dest == linkLocal && h.port == 50311 && h.ver == 1 && h.kind == 0 && session != 0 && decide (session < 2 ^ 16)

/-- A is later than B in a 32-bit wrapping count (R447). -/
def later32 (a b : Nat) : Bool := a != b && (a + 2 ^ 32 - b) % 2 ^ 32 < 2 ^ 31

/-- A response of status OK. -/
def isOk (o : Output) : Bool := match o with | .odResponse _ _ _ status _ _ _ _ => status == odOK | _ => false

/-- A REQUEST that would open a ninth session: BUSY, the last status of R464, where every earlier check passes; otherwise the status that it
meets first. -/
def ninthSession (s : State) (n seq : Nat) (source : BitVec 128) (r : OdReq) : State :=
  let s1 := emit s (.datagram source (responseHeader n seq))
  let t := serveNow s1 (.hasowa n false) r Aux.none
  if (t.out.drop s1.out.length).any isOk then refuse s1 (.hasowa n false) r odBUSY 0 else t

/-- A REQUEST from a permitted source. One that repeats the SEQ last served gets its stored response; a repeat of one that is held, which has none
yet, is discarded, as any other is (R475; DEDUCED, log 169). -/
def takeHasowa (s : State) (n seq : Nat) (source : BitVec 128) (r : OdReq) : State :=
  match findSession s n with
  | some x =>
    let s1 := putSession s { x with seenAt := s.uptime }
    if seq = x.served && x.stored != [] then odBump (emitAll s1 x.stored) 0x6800 0x09 1
    else if later32 seq x.lastSeq then serveSession s x (.hasowa n false) seq r Aux.none
    else s1
  | none =>
    if 8 ≤ s.sessions.length then ninthSession s n seq source r
    else
      let x : Session := ⟨n, source, seq, s.uptime, [], seq, []⟩
      serveSession { (dropReq s (.hasowa n false)) with sessions := s.sessions ++ [x] } x (.hasowa n false) seq r Aux.none

/-- HASOWA_REQUEST (R474, R475). -/
def execHasowaRequest (session seq : Nat) (head : HasowaHead) (source : BitVec 128) (r : OdReq) (s : State) : Host.Outcome State Fault Refusal :=
  .next (if s.romRuns && isRequest session head then fromPermitted s source (takeHasowa s session (wrap 32 seq) source r) else s)

/-- SESSION_TIMEOUT (R475): 60 s without a REQUEST. -/
def execSessionTimeout (session : Nat) (s : State) : Host.Outcome State Fault Refusal :=
  .next (match findSession s session with
    | some x =>
      if x.seenAt + 60000 * msTicks ≤ s.uptime then
        dropReq { s with sessions := s.sessions.filter (fun y => y.id != session) } (.hasowa session false)
      else s
    | none => s)

/-- DISCOVER (R476): an ANNOUNCE is scheduled, whatever the allow list holds. -/
def execDiscover (s : State) : Host.Outcome State Fault Refusal := .next (if s.romRuns then { s with announces := s.announces + 1 } else s)

/-- ANNOUNCE (R476). -/
def execAnnounce (s : State) : Host.Outcome State Fault Refusal :=
  .next (if s.announces = 0 then s
    else emit { s with announces := s.announces - 1 } (.announce (odGet s 0x1000 0x01) (Config.serial % 2 ^ 64) (Config.mac % 2 ^ 48) (odGet s 0x5000 0x01)))

/-- BEACON_LOSS (R477). -/
def execBeaconLoss (s : State) : Host.Outcome State Fault Refusal :=
  .next (if odGet s 0x6800 0x01 = 1 then odBump (odSet s 0x6800 0x01 2) 0x6800 0x05 1 else s)

/-- BEACON_RETURN (R477). -/
def execBeaconReturn (s : State) : Host.Outcome State Fault Refusal :=
  .next (if odGet s 0x6800 0x01 = 2 then odSet s 0x6800 0x01 1 else s)

end Sys2Proof.Machine
end

