-- ==== Sys2Proof/Machine/StartUp.lean ====
section
/-! DEFINITION. The supplies (R409 to R411, R529), the start-up sequence (R510 to R513, R527) and what it finds at each step: the fuses
(R505), the stacks (R262, R263), the die links (R277 to R285) and the cores (R512). -/

namespace Sys2Proof.Machine

/-! ### Supplies that become good (R529) -/

/-- VBULK counts as good, after a sag or a power-fail: SUPPLY clears (R529), and a sequence that waits for it goes on to step 3. -/
def vbulkGood (s : State) : State :=
  let s1 := clearCause { s with vbulk := true } 3
  if startStep s1 = 0 && s1.romRuns && !s1.vbulkLost && odGet s1 0x1100 0x02 = 6 then enterStep s1 3 none else s1

/-- VHTR counts as good: a laser wait counts from here, and DARK ports may wake (R510). -/
def vhtrGood (s : State) : State :=
  let s1 := { s with vhtr := true, stepAt := if startStep s = 8 then s.uptime else s.stepAt }
  progress ((List.range 16).foldl wakePort s1)

/-- SUPPLY_GOOD (R529): 0 VBULK, 1 VAUX, 2 VHTR. -/
def execSupplyGood (supply : Nat) (s : State) : Host.Outcome State Fault Refusal :=
  .next (match supply with
    | 0 => if s.vbulk then clearCause s 3 else serveHeld (vbulkGood s)
    | 1 => if s.vaux then s else { s with vaux := true, uptime := 0, aonUp := s.clk25 }
    | 2 => if s.vhtr then s else vhtrGood s
    | _ => s)

/-! ### Power-fails (R411, R449, R513) -/

/-- The record of a power-fail (R528, KIND 7): it ends a freeze of the recorder (R451). -/
def powerRecord (s : State) (unit detail : Nat) : State := addRecord (liftDust s) ⟨0, 7, unit, 0, 0, detail, 0, none⟩

/-- The supply inputs (R22). -/
def vbulkUnit : Nat := 0xBE000FFF
def vauxUnit : Nat := 0xBE001FFF

/-- An enabled context loses what it ran on: it is STOPPED, its queues hold nothing. -/
def powerStop (s : State) (c : Nat) : State :=
  (ctxQueues s c).foldl (fun s p => qSet (unfetch s p.1 p.2) p.1 p.2 6 3) (stateChange s pkgUnit (0x9010 + c) 0x01 2 0 0)

/-- A channel, which lives in the hub, is UNBOUND again (R411). -/
def dropRun (s : State) (k : Chan) : State :=
  odSet (odSet { s with chans := s.chans.filter (fun x => x.id != k.id) } (0x9100 + k.id) 0x01 0) (0x9100 + k.id) 0x05 0

/-- The buckets and the governor, which live in the HUB island, are as at reset: levels, prices, θ, r and λ, and what they run on; so are the
tallies, the function's interrupt and bus state and the frequencies in force (R411; DESIGN CHOICE of the level, log 13). -/
def resetHub (s : State) : State :=
  let s1 := dies.foldl (fun s d => odSet (odSet (odSet (setLevel s d 0) (0x2300 + d) 0x03 4096) (0x2300 + d) 0x0C 4096) (0x2300 + d) 0x0D 4096) s
  showFreq { (odSet s1 0x2100 0x09 4096) with
    budgets := List.replicate 4 Budget.reset, overWindows := 0, dynamic := [0, 0, 0, 0], tallies := [], busMaster := false, component := [],
    msixOn := false, msixMasked := false, msixTable := [], msixPending := [] }

/-- The work under way in the cores, sweep units and the HUB island. -/
def dropWork (s : State) : State :=
  { s with cmds := [], acc := [], accBad := [], accFix := [], valid := [], wtiles := [], hawks := [], screeds := [], streams := [],
           reserves := [], reserveEnds := [], holds := [], draining := [], stretches := s.stretches.filter (fun x => x.cause == 5), nominal := [[], [], [], []],
           sends := [], recvs := [], tombs := [], srecs := [], inbox := [], transit := [], codewords := [], symbols := [],
           retraining := [], laneErrs := [], corrected := [], fenceErrs := s.fenceErrs }

/-- Stack memory and scratch lose their contents. -/
def dropMemory (s : State) : State := { s with mem := [], poison := [], lostCells := [], cleaned := [] }

/-- A retirement under way counts as done: its data are gone, and it stands (R513). -/
def settleRetires (s : State) : State :=
  { s with flashRetired := s.flashRetired ++ s.retires.map (·.stack), retires := [] }

/-- Every fibre port goes dark and forgets its receive side. -/
def darkPorts (s : State) : State :=
  { ((List.range 16).foldl goDark s) with ports := List.replicate 16 Port.reset }

/-- Tests and captures end with the units they run on (R437 to R441). -/
def dropTests (s : State) : State := odSet { (endTest s) with sweepTest := none, captures := [] } 0x7200 0x06 0

/-- Requesters lose their snapshot and staging buffers. -/
def dropBuffers (s : State) : State :=
  { s with requesters := s.requesters.map (fun r => { r with snap := none, staged := none }) }

/-- Every VBULK island is reset (R411); tables, the package number and the settings stay with the management complex, and firmware keeps running
(DEDUCED, log 104). -/
def resetBulk (s : State) : State :=
  let s1 := ((List.range 16).filter (ctxEnabled s)).foldl powerStop s
  let s2 := s1.chans.foldl dropRun s1
  let s3 := darkPorts (settleRetires (dropMemory (dropWork s2)))
  let s4 := dropBuffers (dropTests s3)
  resetHub (odSet (linkDown { s4 with draining := [], heldRecords := [] }) 0x6300 0x03 0)

/-- VBULK_POWER_FAIL (R409, R411, R449): undervoltage or overvoltage. The recorder is there to write in while VAUX is good (R35). -/
def execVbulkPowerFail (overvoltage : Bool) (s : State) : Host.Outcome State Fault Refusal :=
  .next (if s.vbulk then
      let lost := s.vbulkLost || 3 ≤ startStep s
      let s1 := if s.aonUp then powerRecord s vbulkUnit (1 + (if overvoltage then 2 else 1) * 256) else s
      let s2 := { (resetBulk s1) with vbulk := false, vbulkLost := lost, flushing := s.aonUp, flushRan := s.flushRan || s.aonUp }
      if s2.romRuns && odGet s2 0x1100 0x02 != 1 then stopStart s2 6 else s2
    else s)

/-- The flash, the fuses and what lies outside the package stand through a loss of VAUX; all else is as at reset (R513). -/
def coldReset (s : State) : State :=
  let keep : Nat × Nat → Bool := fun p =>
    let i := p.1 / 256
    let sub := p.1 % 256
    (i == 0x8100 && (sub == 2 || sub == 4 || sub == 5 || sub == 9)) || (i == 0x1100 && sub == 5) || (i == 0x7200 && sub == 0x0D) ||
      (0x3800 ≤ i && i < 0x3804 && (sub == 1 || sub == 7)) || (0x5200 ≤ i && i < 0x5210 && (sub == 0x0A || sub == 0x0B)) ||
      (0x4100 ≤ i && i < 0x4118 && sub == 1 && p.2 == 3)
  { State.reset with
    pending := s.pending, out := s.out, free := s.free, od := s.od.filter keep, archive := s.archive, nextSeq := s.nextSeq,
    copied := s.copied, flashMark := s.flashMark, flushFailed := s.flushFailed, flushRan := s.flushRan, flashLanes := s.flashLanes,
    retryLanes := s.retryLanes, flashFenced := s.flashFenced, flashPos := s.flashPos, rescan := s.rescan,
    flashRetired := s.flashRetired ++ s.retires.map (·.stack), flashRepairs := s.flashRepairs, patterns := s.patterns, sigIndex := s.sigIndex, vbulk := s.vbulk,
    vhtr := s.vhtr, vaux := s.vaux, clk25 := s.clk25, emergNLow := s.emergNLow, perstLow := s.perstLow }

/-- The flush of a package power-fail runs on the hold-up; whether it meets a flash error is free, and the next start tells of it (R432, R449; log 167). -/
def holdUpFlush (s : State) : State :=
  let r := freshNat s 11 1
  { (if r.1 = 0 then copyRecords r.2 else { r.2 with flushFailed := true }) with flushRan := true }

/-- The record of a package power-fail, and its flush. -/
def failRecorded (s : State) (unit cause : Nat) : State := holdUpFlush (powerRecord s unit (2 + cause * 256))

/-- A package power-fail: after its flush every island is reset (R411, R449, R515). -/
def packageFail (s : State) (unit cause : Nat) : State := coldReset (failRecorded s unit cause)

/-- PACKAGE_POWER_FAIL (R409, R411): VAUX, by undervoltage (1) or overvoltage (2). -/
def execPackagePowerFail (cause : Nat) (s : State) : Host.Outcome State Fault Refusal :=
  .next (if s.vaux && (cause = 1 || cause = 2) then { (packageFail s vauxUnit cause) with vaux := false } else s)

/-- A package power-fail while VAUX stays good: the snag list and the uptime stand (R432, R454). -/
def clockFail (s : State) : State :=
  let r := failRecorded s pkgUnit 3
  { (odSet (coldReset r) 0x7000 0x01 (odGet r 0x7000 0x01)) with uptime := r.uptime, clk25 := false }

/-- CLK25_LOSS (R517): for 10 µs; a package power-fail. -/
def execClk25Loss (s : State) : Host.Outcome State Fault Refusal := .next (if s.vaux && s.clk25 then clockFail s else s)

/-- HEATERS_OFF (R409): VHTR below 1.6 V or above 2.0 V. -/
def execHeatersOff (mV : Nat) (s : State) : Host.Outcome State Fault Refusal :=
  .next (if s.vhtr && (mV < 1600 || 2000 < mV) then (List.range 16).foldl goDark { s with vhtr := false } else s)

/-! ### Steps 1 and 2 (R505, R510) -/

/-- What the fuses hold as delivered; the AUTH writes of R505 change it afterwards. -/
def loadFuses (s : State) : State :=
  odSet (odSet (odSet s 0x8100 0x02 Config.operatorKeyHash) 0x8100 0x04 Config.debugUnlocked.toNat) 0x8100 0x05 Config.svnCount

/-- The next sequence number at a start (R450). -/
def startSeq (s : State) : Nat := max (s.archive.foldl (fun n r => max n (r.seq + 1)) 0) s.flashMark

/-- The fuse load has failed: the state of R38, in which the boot ROM answers Hasowa (R505, R510). -/
def fuseStop (s : State) : State := stopStart (odSet { s with romRuns := true } 0x6800 0x01 1) 1

/-- FUSE_LOAD (R505, R510): the AON island is up, RPOS is sampled, the start record is made (R450, R528). Snag 6 tells of a power-fail
flush, snag 7 of one that failed. -/
def execFuseLoad (result rpos : Nat) (s : State) : Host.Outcome State Fault Refusal :=
  .next (if s.vaux && startStep s = 0 && !s.romRuns && result < 3 && rpos < 16 then
      let s1 := if odGet s 0x1100 0x05 = 0 then loadFuses s else s
      let s2 := odBump { s1 with clk25 := true, aonUp := true, rposLatched := rpos, nextSeq := startSeq s1, stepAt := s1.uptime } 0x1100 0x05 1
      let s3 := addRecord s2 ⟨0, 4, pkgUnit, 0, 0, 0, s2.nextSeq, none⟩
      let s4 := if s.flushRan then snagSet s3 6 else s3
      let s5 := if s.flushFailed then snagSet s4 7 else s4
      let s6 := odSet { s5 with flushRan := false, flushFailed := false } 0x1100 0x03 0
      let s7 := odSet (if s.emergNLow then raiseCause s6 0 else s6) 0x8100 0x08 result
      if result = 2 then fuseStop s7 else enterStep (odSet s7 0x1100 0x01 1) 2 none
    else s)

/-- BOOT_ROM_START (R510): the management complex answers from here; step 3 waits for VBULK. -/
def execBootRomStart (s : State) : Host.Outcome State Fault Refusal :=
  .next (if startStep s = 2 then
      let s1 := odSet { s with romRuns := true } 0x6800 0x01 1
      if s1.vbulk then enterStep s1 3 none else stopStart s1 6
    else s)

/-- The adders of every port are in service again from a start on (R372). -/
def addersBack (s : State) : State := (List.range 16).foldl (fun s p => odSet s (0x5200 + p) 0x11 1) s

/-- VBULK_RESUME (R513): the sequence resumes at step 3; the resume record (R528). -/
def execVbulkResume (s : State) : Host.Outcome State Fault Refusal :=
  .next (if s.romRuns && s.vbulkLost && startStep s = 0 then
      let s1 := clearCause { s with vbulk := true, vbulkLost := false } 3
      let s2 := addRecord (odBump s1 0x1100 0x06 1) ⟨0, 4, pkgUnit, 0, 0, 1, s1.nextSeq, none⟩
      serveHeld (enterStep (addersBack s2) 3 none)
    else s)

/-! ### Step 5: the stacks (R262, R263, R267) -/

/-- Stack memory is written with zeros and fresh check symbols; slots lose their overrides. -/
def zeroStacks (s : State) : State :=
  let s1 := { s with mem := Store.dropRange s.mem 0 stackTop, poison := s.poison.filter (fun p => stackTop ≤ p * 64),
                     lostCells := [], cleaned := [], corrected := [], readCounts := [], slots := [], rowPtr := 0, retires := [], retirements := 0 }
  odSet (odSet (odSet (odSet s1 0x4000 0x01 (odDefault 0x4000 0x01)) 0x4000 0x02 0) 0x4000 0x03 0) 0x4000 0x04 4096

/-- A start-up retirement (R263): the overrides are set before any access, and nothing moves. `code` is that of its report, 0 without one. -/
def startRetirement (code : Nat) (s : State) (stack : Nat) : State :=
  let k := s.retirements + 1
  let s1 := (List.range 4096).foldl (overrideSlot stack k 0) { s with retirements := k }
  let s2 := stateChange s1 (stackUnit stack 0xFFF) (0x4100 + stack) 0x01 2 code (if code = 0 then 0 else severityOf code)
  odSet (odSet s2 0x4000 0x02 k) 0x4000 0x01 (capacity s1 - 0x1000000000)

/-- A stack that fails training: retired with code 0x8011 of kind 0 and recorded, or sealed as the third (R267). -/
def failTraining (s : State) (f : Nat × Nat) : State :=
  let i := 0x4100 + f.1
  let s0 := odSet s i 0x04 (odGet s i 0x04 ||| 2 ^ f.2)
  if s0.flashRetired.contains f.1 || stackState s0 f.1 = 3 then s0
  else if s0.retirements < 2 then
    let s1 := startRetirement 0x8011 { s0 with flashRetired := s0.flashRetired ++ [f.1] } f.1
    snagSet (fileCode s1 0x8011 (stackUnit f.1 f.2) (s1.retirements * 65536)) (56 + f.1)
  else sealThird s0 f.1 f.2

/-- HBM4_TRAINING (R510, step 5): the channels that failed, as (stack, channel), and the time it took. -/
def execHbm4Training (failed : List (Nat × Nat)) (ms : Nat) (s : State) : Host.Outcome State Fault Refusal :=
  .next (if startStep s = 5 then
      let s0 := (List.range 24).foldl (fun s st => odSet s (0x4100 + st) 0x06 (wrap 16 (repairs s st))) (zeroStacks s)
      let s1 := (s.flashRetired.take 2).foldl (startRetirement 0) s0
      enterStep ((failed.filter (fun f => f.1 < 24 && f.2 < 32)).foldl failTraining s1) 6 (some ms)
    else s)

/-! ### Step 6: the die links (R277 to R285) -/

/-- The lane records that the manager cleared are gone (R282), and each module shows the lanes recorded as failed. -/
def retryModules (s : State) : State :=
  let s1 := { s with flashLanes := s.flashLanes.filter (fun f => !s.retryLanes.contains f.1), retryLanes := [] }
  (List.range 256).foldl (fun s k =>
    odSet s (0x3900 + k) 0x02 ((s.flashLanes.filter (fun f => f.1 == k)).foldl (fun v f => v ||| 2 ^ f.2) 0)) s1

/-- A lane that fails training is recorded. -/
def trainLane (s : State) (f : Nat × Nat × Nat) : State :=
  let k := modKey f.1 f.2.1
  if f.1 < 4 && f.2.1 < 64 && f.2.2 < 68 && !bitOf (odGet s (0x3900 + k) 0x02) f.2.2 then recordLane s k f.2.2 else s

/-- A die that is out of service since start-up (R279, R512): its cores that are not FENCED are UNUSED, and its positions served by
none. -/
def outAtStart (s : State) (d : Nat) : State :=
  let s1 := if s.diesOut.contains d then s
    else msixAllContexts (snagSet (fileCode { s with diesOut := insertNat s.diesOut d } 0x8021 (dieUnit d 0) 0) (28 + d))
  let s2 := ((List.range 26).map (32 * d + ·)).foldl (fun s k =>
    odSet (odSet (setCore s k (if s.flashFenced.contains k then 3 else 0) 0x8021) (0x3000 + k) 0x02 0xFF) (0x3000 + k) 0x03 0xFF) s1
  { s2 with sweepOut := insertNat (insertNat s2.sweepOut (128 + 2 * d)) (129 + 2 * d) }

/-- The lane of a module that failed last: the report of a module that training left narrower names it (R282). -/
def lastLane (s : State) (k : Nat) : Nat :=
  match (s.flashLanes.filter (fun f => f.1 == k)).getLast? with
  | some f => f.2
  | none => 0xFFF

/-- The roles of a die at a start (R277), and the reports of what has got narrower than `before`. -/
def startRoles (before : List (List Nat)) (s : State) (d : Nat) : State :=
  let lanes := modules.map (fun m => lanesOf s (modKey d m))
  let widths := lanes.map Lanes.width
  let v := odGet s (0x3800 + d) 0x07
  let bad := if v = 0 then 0 else requestFault v widths
  let s1 := if v != 0 && bad != 0 then fileCode s 0x8022 (dieUnit d 0) bad else s
  let asked := v != 0 && bad == 0
  let table := if asked then v else odDefault 0x3800 0x01
  let roles := assignRoles asked (modules.map (fun m => rbRole (bits table (8 * m) 8))) widths
  let s2 := modules.foldl (fun s m =>
    let used := match lanes[m]? with | some x => x.used.length | none => 0
    let b := mkRole (rmRole roles m) (rmWidth roles m) used
    if rmWidth roles m = listGet 0 (listGet [] before d) m then setRole s d m b 0
    else degraded (setRole s d m b 0x8020) d m (lastLane s (modKey d m)) b) s1
  let s3 := odSet (odSet s2 (0x3800 + d) 0x06 0) (0x3800 + d) 0x02 (dies.foldl (fun n x => min n (dieVersion x)) 2)
  if dieLinked s3 d then s3 else outAtStart s3 d

/-- DIE_LINK_TRAINING (R510, step 6): the lanes that failed, as (die, module, lane), and whether firmware handles every erratum (R285). -/
def execDieLinkTraining (failed : List (Nat × Nat × Nat)) (errataOk : Bool) (ms : Nat) (s : State) : Host.Outcome State Fault Refusal :=
  .next (if startStep s = 6 then
      if !errataOk then stopStart (linkDown s) 3
      else
        let s1 := retryModules { s with diesOut := [], sweepOut := [], retraining := [] }
        let before := dies.map (fun d => modules.map (fun m => (lanesOf s1 (modKey d m)).width))
        enterStep (dies.foldl (startRoles before) (failed.foldl trainLane s1)) 7 (some ms)
    else s)

/-! ### Step 7: the cores (R512) -/

/-- The two spare core numbers of a die, from its repair fuses (R25). -/
def spareNumbers (d : Nat) : Nat × Nat :=
  let a := Config.spareFuse d 0 % 26
  (a, (a + 1 + Config.spareFuse d 1 % 25) % 26)

/-- The positions of a die, and all its cores, ascending. -/
def coresOf (d : Nat) : List Nat := (List.range 26).map (32 * d + ·)
def positionsOf (d : Nat) : List Nat := (coresOf d).filter (fun k => k % 32 != (spareNumbers d).1 && k % 32 != (spareNumbers d).2)

/-- The core that the position record names; at manufacture the position's own (R512, step 1). -/
def recordedCore (s : State) (pos : Nat) : Nat := Store.get pos s.flashPos pos

/-- A core recorded FENCED stays so, unless a rescan was asked for (R436). -/
def staysFenced (s : State) (k : Nat) : Bool := s.flashFenced.contains k && !s.rescan.contains k

/-- Step 4 for one position: it takes the lowest passing core that serves none. -/
def takeCore (pass : List Nat) (l : List (Nat × Nat)) (pos : Nat) : List (Nat × Nat) :=
  if l.any (fun p => p.1 == pos) then l
  else match pass.find? (fun k => !l.any (fun p => p.2 == k)) with
    | some k => l ++ [(pos, k)]
    | none => l

/-- Positions and the cores they get (R512, steps 3 and 4). -/
def assignCores (s : State) (d : Nat) (pass : List Nat) : List (Nat × Nat) :=
  let kept := (positionsOf d).filterMap (fun p => if pass.contains (recordedCore s p) then some (p, recordedCore s p) else none)
  (positionsOf d).foldl (takeCore pass) kept

/-- The code of the report of a core that fails its scan at the start: another core serves its position, or none does; 0 for one that served
none (R435, R512). -/
def scanCode (l served : List (Nat × Nat)) (k : Nat) : Nat :=
  match served.find? (fun p => p.2 == k) with
  | none => 0
  | some p => if l.any (fun q => q.1 == p.1) then 0x8001 else 0x8002

/-- The entry of one core (R37), its change recorded (R448); `new`: the cores that this start fences. -/
def startCore (pass new : List Nat) (l served : List (Nat × Nat)) (s : State) (k : Nat) : State :=
  let st := if !pass.contains k then 3 else if l.any (fun p => p.2 == k) then 1 else 2
  let serves := match l.find? (fun p => p.2 == k) with | some p => p.1 | none => 0xFF
  let server := match l.find? (fun p => p.1 == k) with | some p => p.2 | none => 0xFF
  odSet (odSet (setCore s k st (if new.contains k then scanCode l served k else 0)) (0x3000 + k) 0x02 serves) (0x3000 + k) 0x03 server

/-- A core that fails its scan at the start is fenced with cause 1 (R435, R512); one that served a position is reported. -/
def fenceAtStart (l served : List (Nat × Nat)) (s : State) (k : Nat) : State :=
  let s2 := snagSet { s with flashFenced := insertNat s.flashFenced k } (16 + dieOf k)
  match served.find? (fun p => p.2 == k) with
  | none => s2
  | some p =>
    match l.find? (fun q => q.1 == p.1) with
    | some q => fileCode s2 0x8001 (unitOf k) (1 + q.2 * 65536)
    | none => snagSet (fileCode s2 0x8002 (unitOf k) (1 + activeCount s2 * 65536)) (20 + dieOf k)

/-- Step 7 on one die. -/
def startCores (failed : List Nat) (s : State) (d : Nat) : State :=
  let pass := (coresOf d).filter (fun k => !staysFenced s k && !failed.contains k)
  if s.diesOut.contains d || pass == [] then outAtStart s d
  else
    let served := (positionsOf d).map (fun p => (p, recordedCore s p))
    let l := assignCores s d pass
    let new := (coresOf d).filter (fun k => failed.contains k && !staysFenced s k && !s.flashFenced.contains k)
    let s1 := (coresOf d).foldl (startCore pass new l served) s
    let s2 := { s1 with flashFenced := s1.flashFenced.filter (fun k => !pass.contains k),
                        flashPos := (positionsOf d).foldl (fun f p =>
                          Store.put p f p (match l.find? (fun q => q.1 == p) with | some q => q.2 | none => 0xFF)) s1.flashPos }
    let s3 := new.foldl (fenceAtStart l served) s2
    if new == [] then s3 else snagSet s3 133

/-- Scratch, accumulators and what the cores hold start cleared (R36, R102). -/
def clearCores (s : State) : State :=
  { s with mem := Store.dropRange s.mem scratchBase tallyWindow, poison := s.poison.filter (fun p => p * 64 < scratchBase || tallyWindow ≤ p * 64),
           acc := [], accBad := [], accFix := [], valid := [], wtiles := [], hawks := [], screeds := [] }

/-- QUICK_LOGIC_SELF_TEST (R510, step 7; R512): the cores and sweep units whose scan or memory test failed. -/
def execQuickLogicSelfTest (failed : List Nat) (ms : Nat) (s : State) : Host.Outcome State Fault Refusal :=
  .next (if startStep s = 7 then
      let s1 := { s with sweepOut := (failed.filter isSweep).foldl insertNat s.sweepOut }
      let s2 := countCores { (dies.foldl (startCores failed) (clearCores s1)) with rescan := [] }
      enterStep s2 8 (some ms)
    else s)

/-! ### Step 8 (R321, R511) -/

/-- OPTICAL_START (R510, step 8): the ports whose laser is present. -/
def execOpticalStart (laser : List Nat) (s : State) : Host.Outcome State Fault Refusal :=
  .next (if startStep s = 8 && s.vhtr then
      let s1 := (List.range 16).foldl (fun s p => putPort s p { (getPort s p) with laser := laser.contains p }) s
      progress ((List.range 16).foldl wakePort s1)
    else s)

/-- A port that trains with fewer than 16 usable lanes when the laser wait has passed is left ISOLATED (R510, step 8). -/
def leaveTraining (s : State) (p : Nat) : State := if portState s p = 1 && !enoughLanes s p then isolate s p 0 else s

/-- The laser wait is over: step 8 ends, unless it has ended with the last port that left TRAINING. -/
def laserWaitOver (s : State) : State :=
  let s1 := (List.range 16).foldl leaveTraining s
  if startStep s1 = 8 then progress (endStep8 s1) else s1

/-- LASER_WAIT_EXPIRY (R511): the laser wait (0x1100.07) has passed since the step began. -/
def execLaserWaitExpiry (s : State) : Host.Outcome State Fault Refusal :=
  .next (if startStep s = 8 && s.vhtr && s.stepAt + odGet s 0x1100 0x07 * 100000000 ≤ s.uptime then laserWaitOver s else s)

end Sys2Proof.Machine
end

