-- ==== Sys2Proof/Machine/Dispatch.lean ====
section
/-! DEFINITION. One arm per command: each calls its own meaning. -/

namespace Sys2Proof.Machine

def exec (i : Instr) (s : State) : Host.Outcome State Fault Refusal :=
  match i with
  | .nop u q => Sys2Proof.Machine.execNop u q s
  | .twait u q => Sys2Proof.Machine.execTwait u q s
  | .tset u q => Sys2Proof.Machine.execTset u q s
  | .qfence u q => Sys2Proof.Machine.execQfence u q s
  | .mmul u q => Sys2Proof.Machine.execMmul u q s
  | .setvl u q => Sys2Proof.Machine.execSetvl u q s
  | .skim u q ev => Sys2Proof.Machine.execSkim u q ev s
  | .sweep u q ev => Sys2Proof.Machine.execSweep u q ev s
  | .copy u q host => Sys2Proof.Machine.execCopy u q host s
  | .xpose u q ev => Sys2Proof.Machine.execXpose u q ev s
  | .screed u q => Sys2Proof.Machine.execScreed u q s
  | .put u q => Sys2Proof.Machine.execPut u q s
  | .get u q => Sys2Proof.Machine.execGet u q s
  | .atomic u q => Sys2Proof.Machine.execAtomic u q s
  | .signal u q => Sys2Proof.Machine.execSignal u q s
  | .reduce u q => Sys2Proof.Machine.execReduce u q s
  | .gather u q => Sys2Proof.Machine.execGather u q s
  | .permute u q => Sys2Proof.Machine.execPermute u q s
  | .breserve u q => Sys2Proof.Machine.execBreserve u q s
  | .brelease u q => Sys2Proof.Machine.execBrelease u q s
  | .commandFetch u q host => Sys2Proof.Machine.execCommandFetch u q host s
  | .commandIssue u q => Sys2Proof.Machine.execCommandIssue u q s
  | .admissionRead u q => Sys2Proof.Machine.execAdmissionRead u q s
  | .dispatch d => Sys2Proof.Machine.execAdmit d s
  | .holdLimitExpiry d => Sys2Proof.Machine.execHoldLimitExpiry d s
  | .bucketRefill d => Sys2Proof.Machine.execBucketRefill d s
  | .reserveExpiry u q => Sys2Proof.Machine.execReserveExpiry u q s
  | .preemptionRequest u q => Sys2Proof.Machine.execPreemptionRequest u q s
  | .waitTimeout u q => Sys2Proof.Machine.execWaitTimeout u q s
  | .contextRestart p ctx value => Sys2Proof.Machine.execContextRestart p ctx value s
  | .partitionTableWrite p len table => Sys2Proof.Machine.execPartitionTableWrite p len table s
  | .ringBaseWrite p u q size value => Sys2Proof.Machine.execRingBaseWrite p u q size value s
  | .tailWrite p u q value => Sys2Proof.Machine.execTailWrite p u q value s
  | .tallyWrite p value => Sys2Proof.Machine.execTallyWrite p value s
  | .srSeedWrite p value => Sys2Proof.Machine.execSrSeedWrite p value s
  | .weightTileLoad u q => Sys2Proof.Machine.execWeightTileLoad u q s
  | .pass u q ev => Sys2Proof.Machine.execPass u q ev s
  | .passEnd u q => Sys2Proof.Machine.execPassEnd u q s
  | .rowForm u q ev => Sys2Proof.Machine.execRowForm u q ev s
  | .copyPhase u q ev => Sys2Proof.Machine.execCopyPhase u q ev s
  | .commit u q => Sys2Proof.Machine.execCommit u q s
  | .correctedWordWriteBack array bank row col => Sys2Proof.Machine.execCorrectedWordWriteBack array bank row col s
  | .hawkTileWrite u q h => Sys2Proof.Machine.execHawkTileWrite u q h s
  | .dualCompare u q mismatch => Sys2Proof.Machine.execDualCompare u q mismatch s
  | .writeBack u q => Sys2Proof.Machine.execWriteBack u q s
  | .screedTileLand core strm => Sys2Proof.Machine.execScreedTileLand core strm s
  | .orphanDrainLimit => Sys2Proof.Machine.execOrphanDrainLimit s
  | .patrolScrub sector o passDone => Sys2Proof.Machine.execPatrolScrub sector o passDone s
  | .correctedRewrite r => Sys2Proof.Machine.execCorrectedRewrite r s
  | .periodicRetraining stack failed => Sys2Proof.Machine.execPeriodicRetraining stack failed s
  | .retireStack p value token => Sys2Proof.Machine.execRetireStack p value token s
  | .sealedRetirement stack channel => Sys2Proof.Machine.execSealedRetirement stack channel s
  | .slotRelocation r => Sys2Proof.Machine.execSlotRelocation r s
  | .retirementComplete => Sys2Proof.Machine.execRetirementComplete s
  | .flitCrcError d m lane => Sys2Proof.Machine.execFlitCrcError d m lane s
  | .laneFailure d m lanes => Sys2Proof.Machine.execLaneFailure d m lanes s
  | .moduleRetrainDone d m => Sys2Proof.Machine.execModuleRetrainDone d m s
  | .packageNumberWrite p value => Sys2Proof.Machine.execPackageNumberWrite p value s
  | .routeActivate p value => Sys2Proof.Machine.execRouteActivate p value s
  | .frameReceive port f => Sys2Proof.Machine.execFrameReceive port f s
  | .escapeMove port => Sys2Proof.Machine.execEscapeMove port s
  | .hopHoldLimit port => Sys2Proof.Machine.execHopHoldLimit port s
  | .putMessage spkg msgid => Sys2Proof.Machine.execPutMessage spkg msgid s
  | .getMessage spkg msgid => Sys2Proof.Machine.execGetMessage spkg msgid s
  | .atomicMessage spkg msgid => Sys2Proof.Machine.execAtomicMessage spkg msgid s
  | .controlMessage spkg msgid => Sys2Proof.Machine.execControlMessage spkg msgid s
  | .getData msgid => Sys2Proof.Machine.execGetData msgid s
  | .ack msgid => Sys2Proof.Machine.execAck msgid s
  | .nakBusy msgid => Sys2Proof.Machine.execNakBusy msgid s
  | .nakIncomplete msgid => Sys2Proof.Machine.execNakIncomplete msgid s
  | .nakCrc msgid => Sys2Proof.Machine.execNakCrc msgid s
  | .nakNoroute msgid => Sys2Proof.Machine.execNakNoroute msgid s
  | .nakAddress msgid => Sys2Proof.Machine.execNakAddress msgid s
  | .nakTally msgid => Sys2Proof.Machine.execNakTally msgid s
  | .nakPoison msgid => Sys2Proof.Machine.execNakPoison msgid s
  | .resendTimer msgid => Sys2Proof.Machine.execResendTimer msgid s
  | .gapTime spkg msgid => Sys2Proof.Machine.execGapTime spkg msgid s
  | .tombstoneExpiry spkg msgid => Sys2Proof.Machine.execTombstoneExpiry spkg msgid s
  | .streamRecordFree source peer vc => Sys2Proof.Machine.execStreamRecordFree source peer vc s
  | .laserLost port li => Sys2Proof.Machine.execLaserLost port li s
  | .ringSweep port tx slot o => Sys2Proof.Machine.execRingSweep port tx slot o s
  | .feedforward port dT16tx dT16rx => Sys2Proof.Machine.execFeedforward port dT16tx dT16rx s
  | .lockLoss port tx slot => Sys2Proof.Machine.execLockLoss port tx slot s
  | .recapture port tx slot => Sys2Proof.Machine.execRecapture port tx slot s
  | .holdExpiry port tx slot => Sys2Proof.Machine.execHoldExpiry port tx slot s
  | .heaterJump port tx slot => Sys2Proof.Machine.execHeaterJump port tx slot s
  | .marker port slot word => Sys2Proof.Machine.execMarker port slot word s
  | .alignmentLoss port slot => Sys2Proof.Machine.execAlignmentLoss port slot s
  | .report port word => Sys2Proof.Machine.execReport port word s
  | .move port word => Sys2Proof.Machine.execMove port word s
  | .moveTakesEffect port tx => Sys2Proof.Machine.execMoveTakesEffect port tx s
  | .echo port word portCycle fixed => Sys2Proof.Machine.execEcho port word portCycle fixed s
  | .ident port word => Sys2Proof.Machine.execIdent port word s
  | .margin port word => Sys2Proof.Machine.execMargin port word s
  | .mistCoat port power tracking refs => Sys2Proof.Machine.execMistCoat port power tracking refs s
  | .monitorCompare port r => Sys2Proof.Machine.execMonitorCompare port r s
  | .keying port => Sys2Proof.Machine.execKeying port s
  | .keyingTimeExpiry port => Sys2Proof.Machine.execKeyingTimeExpiry port s
  | .keyingDarkRetry port => Sys2Proof.Machine.execKeyingDarkRetry port s
  | .reKeyRequest p value => Sys2Proof.Machine.execReKeyRequest p value s
  | .portEnableWrite p port value => Sys2Proof.Machine.execPortEnableWrite p port value s
  | .riLow port ri => Sys2Proof.Machine.execRiLow port ri s
  | .channelBind p chan => Sys2Proof.Machine.execChannelBind p chan s
  | .channelUnbind p chan => Sys2Proof.Machine.execChannelUnbind p chan s
  | .backupMapWrite p value => Sys2Proof.Machine.execBackupMapWrite p value s
  | .reduceUp spkg msgid adderFault => Sys2Proof.Machine.execReduceUp spkg msgid adderFault s
  | .reduceDown spkg msgid => Sys2Proof.Machine.execReduceDown spkg msgid s
  | .gatherMessage spkg msgid => Sys2Proof.Machine.execGatherMessage spkg msgid s
  | .permuteMessage spkg msgid => Sys2Proof.Machine.execPermuteMessage spkg msgid s
  | .lateLimit chan chunk right => Sys2Proof.Machine.execLateLimit chan chunk right s
  | .collectiveLimit chan => Sys2Proof.Machine.execCollectiveLimit chan s
  | .supplyGood supply => Sys2Proof.Machine.execSupplyGood supply s
  | .vbulkUndervoltage mV => Sys2Proof.Machine.execVbulkUndervoltage mV s
  | .vbulkPowerFail overvoltage => Sys2Proof.Machine.execVbulkPowerFail overvoltage s
  | .packagePowerFail cause => Sys2Proof.Machine.execPackagePowerFail cause s
  | .heatersOff mV => Sys2Proof.Machine.execHeatersOff mV s
  | .droop d => Sys2Proof.Machine.execDroop d s
  | .overcurrent watts => Sys2Proof.Machine.execOvercurrent watts s
  | .thermalStretch r => Sys2Proof.Machine.execThermalStretch r s
  | .junctionLimit r => Sys2Proof.Machine.execJunctionLimit r s
  | .stretchStepDown d => Sys2Proof.Machine.execStretchStepDown d s
  | .stretchReleaseStep d => Sys2Proof.Machine.execStretchReleaseStep d s
  | .governorLoop measured watts rs => Sys2Proof.Machine.execGovernorLoop measured watts rs s
  | .policyLoop uncharged watts100ms refs => Sys2Proof.Machine.execPolicyLoop uncharged watts100ms refs s
  | .thermalTrip r => Sys2Proof.Machine.execThermalTrip r s
  | .emergN => Sys2Proof.Machine.execEmergN s
  | .emergencyRequest p value => Sys2Proof.Machine.execEmergencyRequest p value s
  | .emergencyReleaseStep watts => Sys2Proof.Machine.execEmergencyReleaseStep watts s
  | .calibrationRefresh index temp => Sys2Proof.Machine.execCalibrationRefresh index temp s
  | .refreshRequest p index value => Sys2Proof.Machine.execRefreshRequest p index value s
  | .snagClear p mask => Sys2Proof.Machine.execSnagClear p mask s
  | .fence core cause => Sys2Proof.Machine.execFence core cause s
  | .fenceCore p value token => Sys2Proof.Machine.execFenceCore p value token s
  | .unfenceCore p value token => Sys2Proof.Machine.execUnfenceCore p value token s
  | .testStart core => Sys2Proof.Machine.execTestStart core s
  | .scanTest r => Sys2Proof.Machine.execScanTest r s
  | .testReturn => Sys2Proof.Machine.execTestReturn s
  | .sweepUnitScan unit done r => Sys2Proof.Machine.execSweepUnitScan unit done r s
  | .installFieldPattern p pattern token => Sys2Proof.Machine.execInstallFieldPattern p pattern token s
  | .counterReset p value => Sys2Proof.Machine.execCounterReset p value s
  | .flush ok => Sys2Proof.Machine.execFlush ok s
  | .dustSheetLay p => Sys2Proof.Machine.execDustSheetLay p s
  | .dustSheetLift p => Sys2Proof.Machine.execDustSheetLift p s
  | .dustSheetLimit => Sys2Proof.Machine.execDustSheetLimit s
  | .recordRead p => Sys2Proof.Machine.execRecordRead p s
  | .archiveRead p => Sys2Proof.Machine.execArchiveRead p s
  | .clearRecorder p token => Sys2Proof.Machine.execClearRecorder p token s
  | .odRead p r => Sys2Proof.Machine.execOdRead p r s
  | .odWrite p r => Sys2Proof.Machine.execOdWrite p r s
  | .odMeta p r => Sys2Proof.Machine.execOdMeta p r s
  | .authWrite p r => Sys2Proof.Machine.execAuthWrite p r s
  | .stagingTimeout p => Sys2Proof.Machine.execStagingTimeout p s
  | .hotWindowWrite offset size value => Sys2Proof.Machine.execHotWindowWrite offset size value s
  | .unsupportedMailboxOpcode opcode => Sys2Proof.Machine.execUnsupportedMailboxOpcode opcode s
  | .jobPageDoorbell ctx value r => Sys2Proof.Machine.execJobPageDoorbell ctx value r s
  | .hasowaRequest session seq ver source r => Sys2Proof.Machine.execHasowaRequest session seq ver source r s
  | .sessionTimeout session => Sys2Proof.Machine.execSessionTimeout session s
  | .discover => Sys2Proof.Machine.execDiscover s
  | .announce => Sys2Proof.Machine.execAnnounce s
  | .beaconLoss => Sys2Proof.Machine.execBeaconLoss s
  | .beaconReturn => Sys2Proof.Machine.execBeaconReturn s
  | .linkTraining rate width cache memP lanes => Sys2Proof.Machine.execLinkTraining rate width cache memP lanes s
  | .linkLoss => Sys2Proof.Machine.execLinkLoss s
  | .perstN => Sys2Proof.Machine.execPerstN s
  | .hdmAccess write addr len data => Sys2Proof.Machine.execHdmAccess write addr len data s
  | .hostAccessFail write u q => Sys2Proof.Machine.execHostAccessFail write u q s
  | .ringFetchRetry u q host => Sys2Proof.Machine.execRingFetchRetry u q host s
  | .doorbellWrite offset size value => Sys2Proof.Machine.execDoorbellWrite offset size value s
  | .heartbeat size value => Sys2Proof.Machine.execHeartbeat size value s
  | .heartbeatLapse => Sys2Proof.Machine.execHeartbeatLapse s
  | .attach p => Sys2Proof.Machine.execAttach p s
  | .fresh p => Sys2Proof.Machine.execFresh p s
  | .detach p => Sys2Proof.Machine.execDetach p s
  | .load p image => Sys2Proof.Machine.execLoad p image s
  | .stage p image => Sys2Proof.Machine.execStage p image s
  | .activationRequest p => Sys2Proof.Machine.execActivationRequest p s
  | .activationCancel p => Sys2Proof.Machine.execActivationCancel p s
  | .quiescing => Sys2Proof.Machine.execQuiescing s
  | .blackout us => Sys2Proof.Machine.execBlackout us s
  | .newImageStartTimeout us => Sys2Proof.Machine.execNewImageStartTimeout us s
  | .commitSecurityVersion p value token => Sys2Proof.Machine.execCommitSecurityVersion p value token s
  | .lockDebug p value token => Sys2Proof.Machine.execLockDebug p value token s
  | .clearLaneRecord p d value token => Sys2Proof.Machine.execClearLaneRecord p d value token s
  | .operatorKeyHashWrite p value => Sys2Proof.Machine.execOperatorKeyHashWrite p value s
  | .attestationChallenge p value flashOk => Sys2Proof.Machine.execAttestationChallenge p value flashOk s
  | .fuseLoad result rpos => Sys2Proof.Machine.execFuseLoad result rpos s
  | .bootRomStart => Sys2Proof.Machine.execBootRomStart s
  | .hbm4Training failed ms => Sys2Proof.Machine.execHbm4Training failed ms s
  | .dieLinkTraining failed errataOk ms => Sys2Proof.Machine.execDieLinkTraining failed errataOk ms s
  | .quickLogicSelfTest failed ms => Sys2Proof.Machine.execQuickLogicSelfTest failed ms s
  | .opticalStart laser => Sys2Proof.Machine.execOpticalStart laser s
  | .laserWaitExpiry => Sys2Proof.Machine.execLaserWaitExpiry s
  | .vbulkResume => Sys2Proof.Machine.execVbulkResume s
  | .clk25Loss => Sys2Proof.Machine.execClk25Loss s
  | .laserPresent port li => Sys2Proof.Machine.execLaserPresent port li s
  | .emergNReturnsHigh => Sys2Proof.Machine.execEmergNReturnsHigh s
  | .stretchCauseClears cause d rs => Sys2Proof.Machine.execStretchCauseClears cause d rs s
  | .riRestored port ri => Sys2Proof.Machine.execRiRestored port ri s
  | .bisnpinvResponse line => Sys2Proof.Machine.execBisnpinvResponse line s

end Sys2Proof.Machine
end

