-- ==== Sys2Proof/Machine/Step.lean ====
section
/-! DEFINITION. A step of the block: the command at the front of the queue, or on an empty queue one tick of the AON count. -/

namespace Sys2Proof.Machine

/-- Take the command at the front and answer its outcome on the rest of the queue; an empty queue lets one AON tick pass: the
uptime count advances by one while the always-on domain runs (R19, R454; DESIGN CHOICE, log 2). -/
def step (s : State) : Host.Outcome State Fault Refusal :=
  match s.pending with
  | [] => .next (aonTick s)
  | c :: r => exec c { s with pending := r }

/-- The state with the command that a word spells at the front of the queue: unchanged, since no word spells one. -/
def State.withFetchWord (s : State) (nbits w : Nat) : State :=
  match decodeTableWord nbits w with
  | some c => { s with pending := c :: s.pending }
  | none => s

end Sys2Proof.Machine
end

