-- ==== Sys2Proof/Machine/Kinds.lean ====
section
/-! DEFINITION. The kinds of state that frames speak of, what it means that a kind stays as it was, and the soundness of a state:
its canonical forms and the bounds that the spec gives. -/

namespace Sys2Proof.Machine

/-- The kinds of state that a frame speaks of: every field of `State` but the waiting commands belongs to one. -/
inductive Kind where
  /-- the AON uptime count (R454) -/
  | clock
  /-- the model's own counter of free values -/
  | draws
  /-- values of the object dictionary (R456) -/
  | od
  /-- bytes of the local offset space (R249) -/
  | memory
  /-- poisoned sectors and the records of their reads (R257 to R263) -/
  | sectors
  /-- accumulator words, their error marks and the valid bits (R99, R102) -/
  | accumulators
  /-- commands in flight (R198) -/
  | commands
  /-- tallies (R201) -/
  | tallies
  /-- reserves and held candidates (R215, R217) -/
  | budget
  /-- stochastic rounding streams and seeds (R56, R57) -/
  | streams
  /-- weight tiles, hawks and screeds (R77, R133, R241) -/
  | engines
  /-- the interleave table and retirements (R256, R264) -/
  | stacks
  /-- modules and lanes of the die links, dies out of service (R276 to R284) -/
  | dieLinks
  /-- features in force (R497) -/
  | features
  /-- messages, receive contexts, tombstones, stream records and packets held (R290 to R316) -/
  | fabric
  /-- fibre ports (R318 to R346) -/
  | ports
  /-- collective channels (R348 to R388) -/
  | channels
  /-- supplies and clocks (R410, R529) -/
  | supplies
  /-- stretches, set points, allocations, sensors, trips and refreshes (R393 to R426) -/
  | power
  /-- reports, records and the dust sheet (R427 to R455) -/
  | recorder
  /-- captures, patterns, tests and fencing records (R433 to R445) -/
  | tests
  /-- requesters, sessions and held requests (R459 to R482, R492) -/
  | access
  /-- the host link and its back-invalidate filter (R483 to R489, R499) -/
  | link
  /-- draining queues (R219, R220) -/
  | drains
  /-- images, the start-up and the blackout (R494 to R513) -/
  | firmware
  /-- what the package has sent or raised -/
  | output
  deriving DecidableEq, Repr

/-- Every part of state of a kind is in `t` as it is in `s`. -/
def Kind.same : Kind → State → State → Prop
  | .clock, s, t => t.uptime = s.uptime
  | .draws, s, t => t.free = s.free
  | .od, s, t => t.od = s.od
  | .memory, s, t => t.mem = s.mem
  | .sectors, s, t => t.poison = s.poison ∧ t.lostCells = s.lostCells ∧ t.cleaned = s.cleaned ∧ t.corrected = s.corrected ∧ t.readCounts = s.readCounts
  | .accumulators, s, t => t.acc = s.acc ∧ t.accBad = s.accBad ∧ t.accFix = s.accFix ∧ t.valid = s.valid
  | .commands, s, t => t.cmds = s.cmds ∧ t.issues = s.issues
  | .tallies, s, t => t.tallies = s.tallies
  | .budget, s, t => t.reserves = s.reserves ∧ t.reserveEnds = s.reserveEnds ∧ t.budgets = s.budgets ∧ t.holds = s.holds
  | .streams, s, t => t.streams = s.streams ∧ t.seeds = s.seeds ∧ t.epoch = s.epoch ∧ t.seedPending = s.seedPending
  | .engines, s, t => t.wtiles = s.wtiles ∧ t.hawks = s.hawks ∧ t.screeds = s.screeds
  | .stacks, s, t => t.slots = s.slots ∧ t.rowPtr = s.rowPtr ∧ t.retires = s.retires ∧ t.retirements = s.retirements ∧ t.flashRetired = s.flashRetired ∧ t.flashRepairs = s.flashRepairs
  | .dieLinks, s, t => t.retraining = s.retraining ∧ t.laneErrs = s.laneErrs ∧ t.flashLanes = s.flashLanes ∧ t.retryLanes = s.retryLanes ∧ t.diesOut = s.diesOut
  | .features, s, t => t.features = s.features ∧ t.featuresBefore = s.featuresBefore
  | .fabric, s, t => t.msgidNext = s.msgidNext ∧ t.sends = s.sends ∧ t.recvs = s.recvs ∧ t.tombs = s.tombs ∧ t.srecs = s.srecs ∧ t.inbox = s.inbox ∧ t.transit = s.transit
  | .ports, s, t => t.ports = s.ports ∧ t.codewords = s.codewords ∧ t.symbols = s.symbols ∧ t.keyed = s.keyed
  | .channels, s, t => t.chans = s.chans
  | .supplies, s, t => t.vbulk = s.vbulk ∧ t.vaux = s.vaux ∧ t.vhtr = s.vhtr ∧ t.clk25 = s.clk25 ∧ t.aonUp = s.aonUp
  | .power, s, t => t.stretches = s.stretches ∧ t.arraySet = s.arraySet ∧ t.coreSet = s.coreSet ∧ t.coreMHz = s.coreMHz ∧ t.allocHeld = s.allocHeld ∧ t.overWindows = s.overWindows ∧ t.nominal = s.nominal ∧ t.dynamic = s.dynamic ∧ t.emergAt = s.emergAt ∧ t.releasing = s.releasing ∧ t.emergNLow = s.emergNLow ∧ t.sensors = s.sensors ∧ t.trips = s.trips ∧ t.refreshes = s.refreshes ∧ t.refreshed = s.refreshed
  | .recorder, s, t => t.reports = s.reports ∧ t.ring = s.ring ∧ t.archive = s.archive ∧ t.nextSeq = s.nextSeq ∧ t.flashMark = s.flashMark ∧ t.copied = s.copied ∧ t.flushing = s.flushing ∧ t.flushFailed = s.flushFailed ∧ t.flushRan = s.flushRan ∧ t.unrecorded = s.unrecorded ∧ t.dust = s.dust ∧ t.dustAt = s.dustAt ∧ t.heldEvents = s.heldEvents ∧ t.heldCount = s.heldCount ∧ t.deferred = s.deferred
  | .tests, s, t => t.captures = s.captures ∧ t.patterns = s.patterns ∧ t.testing = s.testing ∧ t.scanned = s.scanned ∧ t.sweepTest = s.sweepTest ∧ t.testNext = s.testNext ∧ t.testAt = s.testAt ∧ t.tested = s.tested ∧ t.skipped = s.skipped ∧ t.fenceErrs = s.fenceErrs ∧ t.fencesIn = s.fencesIn ∧ t.flashFenced = s.flashFenced ∧ t.flashPos = s.flashPos ∧ t.rescan = s.rescan ∧ t.sweepOut = s.sweepOut
  | .access, s, t => t.requesters = s.requesters ∧ t.sessions = s.sessions ∧ t.notifies = s.notifies ∧ t.announces = s.announces ∧ t.waitingReqs = s.waitingReqs ∧ t.jobPages = s.jobPages ∧ t.signing = s.signing
  | .link, s, t => t.linkUp = s.linkUp ∧ t.busMaster = s.busMaster ∧ t.component = s.component ∧ t.perstLow = s.perstLow ∧ t.biFilter = s.biFilter ∧ t.biHeld = s.biHeld ∧ t.heldRecords = s.heldRecords ∧ t.beatAt = s.beatAt
  | .drains, s, t => t.draining = s.draining ∧ t.drainAt = s.drainAt
  | .firmware, s, t => t.image = s.image ∧ t.imageDigest = s.imageDigest ∧ t.staged = s.staged ∧ t.romRuns = s.romRuns ∧ t.fwRuns = s.fwRuns ∧ t.lapsed = s.lapsed ∧ t.sigIndex = s.sigIndex ∧ t.rposLatched = s.rposLatched ∧ t.stepAt = s.stepAt ∧ t.vbulkLost = s.vbulkLost
  | .output, s, t => t.msixOn = s.msixOn ∧ t.msixMasked = s.msixMasked ∧ t.msixTable = s.msixTable ∧ t.msixPending = s.msixPending ∧ t.out = s.out

/-- A state in order: the byte memory, the accumulators, the tallies and the other sparse stores in their canonical form, poisoned sectors
and object dictionary values listed in rising order, every tally a 32-bit count (R201), at most 256 reports (R431) and 4,096 records kept
(R448), and the sixteen ports of the package (R318). -/
structure State.Sound (s : State) : Prop where
  memory : Store.wf 0 s.mem = true
  poison : s.poison.Pairwise (· < ·)
  acc : Store.wf 0 s.acc = true
  tallies : Store.wf 0 s.tallies = true
  tallyBound : ∀ p ∈ s.tallies, p.2 < 2 ^ 32
  od : s.od.Pairwise (fun a b => a.1 < b.1)
  reports : s.reports.length ≤ 256
  ring : s.ring.length ≤ 4096
  ports : s.ports.length = 16
  valid : Store.wf 0 s.valid = true
  reserves : Store.wf 0 s.reserves = true
  reserveEnds : Store.wf 0 s.reserveEnds = true
  seeds : Store.wf 0 s.seeds = true
  slots : Store.wf 0 s.slots = true
  codewords : Store.wf 0 s.codewords = true
  symbols : Store.wf 0 s.symbols = true
  sensors : Store.wf 0 s.sensors = true

end Sys2Proof.Machine
end

