-- ==== Sys2Proof/WellFormed.lean ====
section
/-! DEFINITION. Well-formed commands: every operand names something the spec gives the package (R10 to R18, R194, R212, R256, R276,
R290, R318, R348, R413, R463). A command that is not well-formed comes from nobody; the machine takes it and does nothing, or answers
the status of its rule. -/

namespace Sys2Proof

/-- A core id (R12): die × 32 + core, 26 cores on a die. -/
def okCore (k : Nat) : Bool := k < 128 && k % 32 < 26

/-- A unit and one of its queues (R12, R14, R194): a core has 16, a sweep unit eight. -/
def okQueue (u q : Nat) : Bool := (okCore u && q < 16) || (128 ≤ u && u < 136 && q < 8)

def okDie (d : Nat) : Bool := d < 4
def okStack (st : Nat) : Bool := st < 24
def okChannel (ch : Nat) : Bool := ch < 32
def okModule (m : Nat) : Bool := m < 64
def okPort (p : Nat) : Bool := p < 16
def okSlot (x : Nat) : Bool := x < 18
def okChan (c : Nat) : Bool := c < 64
def okCtx (c : Nat) : Bool := c < 16
def okPkg (p : Nat) : Bool := p < 2 ^ 20
def okMsgid (m : Nat) : Bool := m < 2 ^ 32
def okVc (v : Nat) : Bool := v < 8

/-- An array, bank, row and column of accumulators (R13, R99). -/
def okAcc (array bank row col : Nat) : Bool := okCore (array / 8) && array % 8 < 6 && bank < 2 && row < 1024 && col < 128

/-- A path of object dictionary requests: a job page is that of a context (R470), a session number is not 0 (R475). -/
def okPath : Path → Bool
  | .mailbox _ => true
  | .job c _ => c < 16
  | .hasowa n _ => 0 < n && n < 2 ^ 16

/-- The fields of a request header fit their widths (R463). -/
def okReq (r : OdReq) : Bool :=
  r.index < 2 ^ 16 && r.sub < 2 ^ 8 && r.op < 2 ^ 4 && r.offset < 2 ^ 32 && r.length < 2 ^ 32 && r.tag < 2 ^ 32

/-- A sensor of R413: die sensors on sites 0 to 3, the lath's and the stacks' on site 0xF. -/
def okReading (r : Reading) : Bool := (r.site < 4 && r.sensor < 32) || (r.site == 15 && (r.sensor < 62 || (64 ≤ r.sensor && r.sensor < 88)))

/-- An event of a matrix command names an array of its engine, a cell and a hawk slot (R93, R143). -/
def okMatEvent : MatEvent → Bool
  | .clean => true
  | .parity e row => e < 4 && row < 1024
  | .working e row col => e < 4 && row < 1024 && col < 128
  | .resident e row col => e < 4 && row < 1024 && col < 128
  | .corrected e bank row col => e < 4 && bank < 2 && row < 1024 && col < 128
  | .hawkSlot h _ => h < 2
  | .product e row col _ => e < 4 && row < 1024 && col < 128

/-- A write through the window brings as many bytes as it writes (R488). -/
def okHdm (write : Bool) (len : Nat) (data : List Byte) : Bool := 0 < len && (!write || data.length == len)

/-- The command is well-formed. -/
def Instr.wellFormed : Instr → Bool
  | .nop u q => okQueue u q
  | .twait u q => okQueue u q
  | .tset u q => okQueue u q
  | .qfence u q => okQueue u q
  | .mmul u q => okQueue u q && okCore u
  | .setvl u q => okQueue u q && okCore u
  | .skim u q _ => okQueue u q && okCore u
  | .sweep u q _ => okQueue u q && !okCore u
  | .copy u q _ => okQueue u q
  | .xpose u q ev => okQueue u q && okCore u && okMatEvent ev
  | .screed u q => okQueue u q && okCore u
  | .put u q => okQueue u q
  | .get u q => okQueue u q
  | .atomic u q => okQueue u q
  | .signal u q => okQueue u q
  | .reduce u q => okQueue u q
  | .gather u q => okQueue u q
  | .permute u q => okQueue u q
  | .breserve u q => okQueue u q
  | .brelease u q => okQueue u q
  | .commandFetch u q _ => okQueue u q
  | .commandIssue u q => okQueue u q
  | .admissionRead u q => okQueue u q
  | .dispatch d => okDie d
  | .holdLimitExpiry d => okDie d
  | .bucketRefill d => okDie d
  | .reserveExpiry u q => okQueue u q
  | .preemptionRequest u q => okQueue u q && okCore u
  | .waitTimeout u q => okQueue u q
  | .contextRestart p ctx _ => okPath p && okCtx ctx
  | .partitionTableWrite p _ _ => okPath p
  | .ringBaseWrite p u q _ _ => okPath p && okQueue u q
  | .tailWrite p u q _ => okPath p && okQueue u q
  | .tallyWrite p _ => okPath p
  | .srSeedWrite p _ => okPath p
  | .weightTileLoad u q => okQueue u q && okCore u
  | .pass u q ev => okQueue u q && okCore u && okMatEvent ev
  | .passEnd u q => okQueue u q && okCore u
  | .rowForm u q ev => okQueue u q && okCore u && okMatEvent ev
  | .copyPhase u q ev => okQueue u q && okCore u && okMatEvent ev
  | .commit u q => okQueue u q && okCore u
  | .correctedWordWriteBack array bank row col => okAcc array bank row col
  | .hawkTileWrite u q h => okQueue u q && okCore u && h < 2
  | .dualCompare u q _ => okQueue u q && !okCore u
  | .writeBack u q => okQueue u q
  | .screedTileLand core strm => okCore core && strm < 2
  | .orphanDrainLimit => true
  | .patrolScrub sector _ _ => sector * 64 < 0x18000000000
  | .correctedRewrite r => r.sector * 64 < 0x18000000000
  | .periodicRetraining st _ => okStack st
  | .retireStack p _ _ => okPath p
  | .sealedRetirement st ch => okStack st && okChannel ch
  | .slotRelocation r => r.rows ≤ 32768 && r.bad.all (· < 32768)
  | .retirementComplete => true
  | .flitCrcError d m _ => okDie d && okModule m
  | .laneFailure d m _ => okDie d && okModule m
  | .moduleRetrainDone d m => okDie d && okModule m
  | .packageNumberWrite p _ => okPath p
  | .routeActivate p _ => okPath p
  | .frameReceive port _ => okPort port
  | .escapeMove port => okPort port
  | .hopHoldLimit port => okPort port
  | .putMessage spkg msgid => okPkg spkg && okMsgid msgid
  | .getMessage spkg msgid => okPkg spkg && okMsgid msgid
  | .atomicMessage spkg msgid => okPkg spkg && okMsgid msgid
  | .controlMessage spkg msgid => okPkg spkg && okMsgid msgid
  | .getData msgid => okMsgid msgid
  | .ack msgid => okMsgid msgid
  | .nakBusy msgid => okMsgid msgid
  | .nakIncomplete msgid => okMsgid msgid
  | .nakCrc msgid => okMsgid msgid
  | .nakNoroute msgid => okMsgid msgid
  | .nakAddress msgid => okMsgid msgid
  | .nakTally msgid => okMsgid msgid
  | .nakPoison msgid => okMsgid msgid
  | .resendTimer msgid => okMsgid msgid
  | .gapTime spkg msgid => okPkg spkg && okMsgid msgid
  | .tombstoneExpiry spkg msgid => okPkg spkg && okMsgid msgid
  | .streamRecordFree _ peer vc => okPkg peer && okVc vc
  | .laserLost port _ => okPort port
  | .ringSweep port _ slot _ => okPort port && okSlot slot
  | .feedforward port _ _ => okPort port
  | .lockLoss port _ slot => okPort port && okSlot slot
  | .recapture port _ slot => okPort port && okSlot slot
  | .holdExpiry port _ slot => okPort port && okSlot slot
  | .heaterJump port _ slot => okPort port && okSlot slot
  | .marker port slot _ => okPort port && okSlot slot
  | .alignmentLoss port slot => okPort port && okSlot slot
  | .report port _ => okPort port
  | .move port _ => okPort port
  | .moveTakesEffect port _ => okPort port
  | .echo port _ _ _ => okPort port
  | .ident port _ => okPort port
  | .margin port _ => okPort port
  | .mistCoat port power tracking _ => okPort port && power.length == 41 && tracking.length == 122
  | .monitorCompare port _ => okPort port
  | .keying port => okPort port
  | .keyingTimeExpiry port => okPort port
  | .keyingDarkRetry port => okPort port
  | .reKeyRequest p _ => okPath p
  | .portEnableWrite p port _ => okPath p && okPort port
  | .riLow port _ => okPort port
  | .channelBind p chan => okPath p && okChan chan
  | .channelUnbind p chan => okPath p && okChan chan
  | .backupMapWrite p _ => okPath p
  | .reduceUp spkg msgid _ => okPkg spkg && okMsgid msgid
  | .reduceDown spkg msgid => okPkg spkg && okMsgid msgid
  | .gatherMessage spkg msgid => okPkg spkg && okMsgid msgid
  | .permuteMessage spkg msgid => okPkg spkg && okMsgid msgid
  | .lateLimit chan _ _ => okChan chan
  | .collectiveLimit chan => okChan chan
  | .supplyGood supply => supply < 3
  | .vbulkUndervoltage _ => true
  | .vbulkPowerFail _ => true
  | .packagePowerFail cause => 1 ≤ cause && cause ≤ 2
  | .heatersOff _ => true
  | .droop x => okDie x.die
  | .overcurrent _ => true
  | .thermalStretch r => okReading r
  | .junctionLimit r => okReading r
  | .stretchStepDown d => okDie d
  | .stretchReleaseStep x => okDie x.die && x.cause < 7 && x.cause != 5
  | .governorLoop measured _ rs => measured.length == 4 && rs.all okReading
  | .policyLoop _ _ _ => true
  | .thermalTrip r => okReading r
  | .emergN => true
  | .emergencyRequest p _ => okPath p
  | .emergencyReleaseStep _ => true
  | .calibrationRefresh run _ => run.index / 256 == 0xA0
  | .refreshRequest p index _ => okPath p && index / 256 == 0xA0
  | .snagClear p _ => okPath p
  | .fence core cause => okCore core && 1 ≤ cause && cause ≤ 5
  | .fenceCore p _ _ => okPath p
  | .unfenceCore p _ _ => okPath p
  | .testStart core => okCore core
  | .scanTest _ => true
  | .testReturn => true
  | .sweepUnitScan unit _ _ => 128 ≤ unit && unit < 136
  | .installFieldPattern p _ _ => okPath p
  | .counterReset p _ => okPath p
  | .flush _ => true
  | .dustSheetLay p => okPath p
  | .dustSheetLift p => okPath p
  | .dustSheetLimit => true
  | .recordRead p => okPath p
  | .archiveRead p => okPath p
  | .clearRecorder p _ => okPath p
  | .odRead p r => okPath p && okReq r
  | .odWrite p r => okPath p && okReq r
  | .odMeta p r => okPath p && okReq r
  | .authWrite p r => okPath p && okReq r
  | .stagingTimeout p => okPath p
  | .hotWindowWrite offset size _ => offset < 0x40000 && (size == 1 || size == 2 || size == 4 || size == 8)
  | .unsupportedMailboxOpcode opcode => opcode < 2 ^ 16
  | .jobPageDoorbell ctx _ r => okCtx ctx && okReq r
  | .hasowaRequest session seq head _ r => session < 2 ^ 16 && seq < 2 ^ 32 && head.ver < 2 ^ 8 && head.kind < 2 ^ 8 && okReq r
  | .sessionTimeout session => session < 2 ^ 16
  | .discover => true
  | .announce => true
  | .beaconLoss => true
  | .beaconReturn => true
  | .linkTraining modes widths _ _ lanes => modes.all (· < 5) && widths.all (fun w => w == 4 || w == 8 || w == 16) && lanes.all (· < 16)
  | .linkLoss => true
  | .perstN => true
  | .hdmAccess write _ len data => okHdm write len data
  | .hostAccessFail _ u q => okQueue u q
  | .ringFetchRetry u q _ => okQueue u q
  | .doorbellWrite _ size _ => size == 1 || size == 2 || size == 4 || size == 8
  | .heartbeat size _ => size == 1 || size == 2 || size == 4 || size == 8
  | .heartbeatLapse => true
  | .attach p => okPath p
  | .fresh p => okPath p
  | .detach p => okPath p
  | .load p _ => okPath p
  | .stage p _ => okPath p
  | .activationRequest p => okPath p
  | .activationCancel p => okPath p
  | .quiescing => true
  | .blackout _ => true
  | .newImageStartTimeout _ => true
  | .commitSecurityVersion p _ _ => okPath p
  | .lockDebug p _ _ => okPath p
  | .clearLaneRecord p d _ _ => okPath p && okDie d
  | .operatorKeyHashWrite p _ => okPath p
  | .attestationChallenge p _ _ => okPath p
  | .fuseLoad result rpos => result < 3 && rpos < 16
  | .bootRomStart => true
  | .hbm4Training failed _ => failed.all (fun f => okStack f.1 && okChannel f.2)
  | .dieLinkTraining failed _ _ => failed.all (fun f => okDie f.1 && okModule f.2.1 && f.2.2 < 68)
  | .quickLogicSelfTest failed _ => failed.all (fun u => okQueue u 0)
  | .opticalStart laser => laser.all okPort
  | .laserWaitExpiry => true
  | .vbulkResume => true
  | .clk25Loss => true
  | .laserPresent port _ => okPort port
  | .emergNReturnsHigh => true
  | .stretchCauseClears cause d rs => cause < 7 && okDie d && rs.all okReading
  | .riRestored port _ => okPort port
  | .bisnpinvResponse line => line * 64 < 0x18000000000

end Sys2Proof
end

