-- ==== Sys2Proof/Safety.lean ====
section
/-! DEFINITION. The terms of the statements: which kinds of state a row touches, when a command has ended, and what the statements
call the conditions and the effects of the rows. -/

namespace Sys2Proof.Machine

/-- Every kind of state but those listed. -/
def Kind.allBut (l : List Kind) : List Kind :=
  [.clock, .draws, .od, .memory, .sectors, .accumulators, .commands, .tallies, .budget, .streams, .engines, .stacks, .dieLinks, .features, .fabric, .ports, .channels, .supplies, .power, .recorder, .tests, .access, .link, .drains, .firmware, .output].filter (fun k => !l.contains k)

/-- The kinds of state that a command of each row can change; every other kind stays as it is. -/
def touches : Instr → List Kind
  | .nop .. | .twait .. | .tset .. | .qfence .. =>
    [.draws, .od, .memory, .sectors, .commands, .tallies, .engines, .power, .recorder, .access, .link, .drains, .output]
  | .mmul .. | .skim .. | .sweep .. | .xpose .. | .pass .. | .rowForm .. | .hawkTileWrite ..
  | .dualCompare .. =>
    Kind.allBut [.clock, .budget, .stacks, .dieLinks, .features, .fabric, .ports, .supplies, .firmware]
  | .setvl .. | .dispatch .. =>
    Kind.allBut [.clock, .accumulators, .stacks, .dieLinks, .features, .fabric, .ports, .supplies, .tests, .firmware]
  | .copy .. | .commandFetch .. | .commandIssue .. | .admissionRead .. | .waitTimeout .. | .copyPhase ..
  | .writeBack .. | .collectiveLimit .. | .fence .. | .scanTest .. | .hostAccessFail .. | .ringFetchRetry .. =>
    Kind.allBut [.clock, .budget, .streams, .stacks, .dieLinks, .features, .fabric, .ports, .supplies, .firmware]
  | .screed .. | .passEnd .. =>
    [.draws, .od, .commands, .engines, .fabric, .ports, .recorder, .access, .output]
  | .put .. | .atomic .. | .reduce .. | .gather .. | .permute .. | .getData .. | .ack .. | .nakIncomplete ..
  | .nakCrc .. | .nakAddress .. | .nakTally .. | .nakPoison .. | .resendTimer .. | .reduceUp ..
  | .reduceDown .. | .gatherMessage .. | .permuteMessage .. | .lateLimit .. | .linkLoss | .perstN
  | .bisnpinvResponse .. | .nakBusy .. =>
    Kind.allBut [.clock, .budget, .streams, .stacks, .dieLinks, .features, .supplies, .firmware]
  | .get .. | .signal .. => [.draws, .od, .commands, .fabric, .ports, .recorder, .access, .output]
  | .breserve .. | .brelease .. =>
    [.draws, .od, .memory, .sectors, .commands, .tallies, .budget, .engines, .power, .recorder, .access, .link, .drains, .output]
  | .holdLimitExpiry .. => [.draws, .od, .budget, .recorder, .access, .output]
  | .bucketRefill .. | .reserveExpiry .. => [.od, .budget]
  | .preemptionRequest .. => [.draws, .od, .commands, .engines, .recorder, .access, .output]
  | .contextRestart .. | .partitionTableWrite .. | .ringBaseWrite .. | .tailWrite .. | .tallyWrite ..
  | .srSeedWrite .. | .retireStack .. | .packageNumberWrite .. | .routeActivate .. | .reKeyRequest ..
  | .portEnableWrite .. | .channelBind .. | .channelUnbind .. | .backupMapWrite .. | .vbulkUndervoltage ..
  | .governorLoop .. | .thermalTrip .. | .emergN | .emergencyRequest .. | .refreshRequest .. | .snagClear ..
  | .fenceCore .. | .unfenceCore .. | .installFieldPattern .. | .counterReset .. | .dustSheetLay ..
  | .dustSheetLift .. | .recordRead .. | .archiveRead .. | .clearRecorder .. | .odRead .. | .odWrite ..
  | .odMeta .. | .authWrite .. | .jobPageDoorbell .. | .hasowaRequest .. | .attach .. | .fresh ..
  | .detach .. | .load .. | .stage .. | .activationRequest .. | .activationCancel .. | .blackout ..
  | .newImageStartTimeout .. | .commitSecurityVersion .. | .lockDebug .. | .clearLaneRecord ..
  | .operatorKeyHashWrite .. | .attestationChallenge .. =>
    Kind.allBut [.clock, .budget, .supplies]
  | .weightTileLoad .. => [.draws, .od, .commands, .streams, .engines, .recorder, .access, .output]
  | .commit .. =>
    Kind.allBut [.clock, .budget, .streams, .stacks, .dieLinks, .features, .fabric, .ports, .channels, .supplies, .tests, .firmware]
  | .correctedWordWriteBack .. => [.accumulators]
  | .screedTileLand .. =>
    Kind.allBut [.clock, .accumulators, .budget, .streams, .stacks, .dieLinks, .features, .channels, .supplies, .tests, .firmware]
  | .orphanDrainLimit =>
    [.draws, .od, .memory, .sectors, .commands, .tallies, .engines, .channels, .power, .recorder, .access, .link, .drains, .output]
  | .patrolScrub .. | .correctedRewrite .. | .periodicRetraining .. | .sealedRetirement ..
  | .slotRelocation .. =>
    Kind.allBut [.clock, .budget, .streams, .dieLinks, .features, .supplies, .firmware]
  | .retirementComplete => [.draws, .od, .stacks, .recorder, .access, .output]
  | .flitCrcError .. | .laneFailure .. =>
    Kind.allBut [.clock, .budget, .streams, .stacks, .features, .fabric, .ports, .supplies, .firmware]
  | .moduleRetrainDone .. => [.draws, .od, .dieLinks, .recorder, .access, .output]
  | .frameReceive .. | .escapeMove .. | .hopHoldLimit .. | .getMessage .. | .gapTime ..
  | .streamRecordFree .. =>
    [.draws, .od, .fabric, .ports, .recorder, .access, .output]
  | .putMessage .. | .atomicMessage .. | .controlMessage .. =>
    [.draws, .od, .memory, .sectors, .tallies, .fabric, .ports, .recorder, .access, .link, .output]
  | .nakNoroute .. | .tombstoneExpiry .. => [.fabric]
  | .laserLost .. | .ringSweep .. | .lockLoss .. | .recapture .. | .holdExpiry .. | .heaterJump ..
  | .marker .. | .alignmentLoss .. | .report .. | .moveTakesEffect .. | .mistCoat .. | .keying ..
  | .keyingTimeExpiry .. | .keyingDarkRetry .. | .riLow .. | .opticalStart .. | .laserPresent ..
  | .riRestored .. | .laserWaitExpiry =>
    [.draws, .od, .ports, .recorder, .access, .firmware, .output]
  | .feedforward .. | .move .. | .ident .. | .margin .. => [.ports]
  | .echo .. => [.ports, .output]
  | .monitorCompare .. => [.draws, .od, .ports, .recorder, .access, .output]
  | .supplyGood .. => Kind.allBut [.budget]
  | .vbulkPowerFail .. => Kind.allBut [.clock, .features]
  | .packagePowerFail .. | .clk25Loss => Kind.allBut []
  | .heatersOff .. => [.draws, .od, .ports, .supplies, .recorder, .access, .firmware, .output]
  | .droop .. | .overcurrent .. | .emergNReturnsHigh | .stretchCauseClears .. => [.draws, .od, .power, .recorder, .access, .output]
  | .policyLoop .. => [.draws, .od, .power, .recorder, .tests, .access, .output]
  | .thermalStretch .. | .junctionLimit .. | .stretchStepDown .. | .stretchReleaseStep ..
  | .emergencyReleaseStep .. =>
    [.od, .power]
  | .calibrationRefresh .. => [.draws, .od, .ports, .power, .recorder, .access, .output]
  | .testStart .. | .testReturn =>
    [.draws, .od, .commands, .engines, .recorder, .tests, .access, .output]
  | .sweepUnitScan .. => [.draws, .od, .recorder, .tests, .access, .output]
  | .flush .. | .dustSheetLimit | .beaconLoss =>
    [.draws, .od, .recorder, .access, .output]
  | .stagingTimeout .. | .sessionTimeout .. | .discover => [.access]
  | .unsupportedMailboxOpcode .. => [.output]
  | .announce => [.access, .output]
  | .beaconReturn | .quiescing => [.od]
  | .hotWindowWrite .. => [.draws, .od, .recorder, .access, .link, .output]
  | .linkTraining .. => [.draws, .od, .recorder, .access, .link, .firmware, .output]
  | .hdmAccess .. => [.draws, .od, .memory, .sectors, .recorder, .access, .link, .output]
  | .doorbellWrite .. =>
    Kind.allBut [.clock, .budget, .streams, .stacks, .dieLinks, .features, .fabric, .ports, .supplies, .tests, .firmware]
  | .heartbeat .. => [.link]
  | .heartbeatLapse =>
    [.draws, .od, .commands, .engines, .features, .recorder, .access, .drains, .firmware, .output]
  | .fuseLoad .. => [.draws, .od, .supplies, .power, .recorder, .access, .firmware, .output]
  | .bootRomStart => [.od, .firmware]
  | .hbm4Training .. =>
    [.draws, .od, .memory, .sectors, .stacks, .fabric, .ports, .recorder, .access, .firmware, .output]
  | .dieLinkTraining .. => Kind.allBut [.clock, .budget, .streams, .stacks, .features, .supplies]
  | .quickLogicSelfTest .. =>
    [.draws, .od, .memory, .sectors, .accumulators, .engines, .dieLinks, .recorder, .tests, .access, .firmware, .output]
  | .vbulkResume => Kind.allBut [.clock, .budget]

/-- The canonical form of the byte memory: offsets strictly rising, and no byte listed that reads as an unlisted one does. -/
def Memory.wf (m : List Host.Cell) : Bool := Store.wf 0 m

/-- A key of the pages that reports, snags and records count in. -/
def logKey (k : Nat) : Prop := k / 256 = 0x7000 ∨ k / 256 = 0x7100 ∨ k / 256 = 0x7A00

/-! ### Commands in flight -/

/-- The command of a serial has ended: it has completed and its record waits for earlier serials, or its record has left (R206). -/
def ended (s : State) (u q serial : Nat) : Prop := ∀ d, findCmd s u q serial = some d → d.stage = .done

/-- The bound of a gather or scatter stage (R180). -/
def stageBound (w : Nat) : Nat := if sgKIND w = 7 then sgB w else sgC w

/-- Every gather and scatter stage of a chain keeps to scratch that exists (R180, R251): its position is served, and its bound is a chain
constant below which every index has its element inside the scratch. -/
def placesThere (s : State) (c : Cmd) : Prop :=
  ∀ k < chNSTG c.desc, let w := chStage c.desc k
    sgKIND w = 7 ∨ sgKIND w = 8 → positionServed s (c.stageCore w) = true ∧ 0x10 ≤ stageBound w ∧ stageBound w < 0x20 ∧
      ∀ t : Nat, Val.lt (intVal t) (v32 (chConst c.desc (stageBound w - 0x10))) = true →
        sgADDR w + t * (fmtBits (sgFMT w) / 8) + fmtBits (sgFMT w) / 8 ≤ scratchSize

/-- What the tallies read after a command's add, applied because its status is OK or SKIPPED (R202); `old` is what they read before. -/
def addedTally (c : Cmd) (old : Nat → Nat) (k : Nat) : Nat :=
  if c.aen = true ∧ k = c.atally then (old k + c.aval) % 2 ^ 32 else old k

/-- The dictionary entries that a completion in queue q of unit u can change: the head, state and sticky flags of its queue (R196,
R208, R219), discarded held sets (R142), host writes not permitted (R487), back-invalidations (R489), the state of a context (R220), and
the pages of snags, reports and the recorder. -/
def completionKey (u q k : Nat) : Prop :=
  (∃ n, (n = 4 ∨ n = 6 ∨ n = 7) ∧ k = odKey (queueIndex u) (q * 16 + n)) ∨ k = odKey (0x3200 + u) 0x0B ∨ k = odKey 0x6000 0x08 ∨
    k = odKey 0x6300 0x04 ∨ (∃ c, c < 16 ∧ k = odKey (0x9010 + c) 0x01) ∨ logKey k

/-- A local offset of the completion ring of a queue, when it lies in stack memory (R194, R206). -/
def inRecords (s : State) (u q a : Nat) : Prop :=
  bitOf (qGet s u q 3) 63 = false ∧ bits (qGet s u q 3) 0 44 ≤ a ∧ a < bits (qGet s u q 3) 0 44 + 32 * 2 ^ qGet s u q 2

/-- Nothing but what a completion in a queue can change has changed: no byte outside its completion ring, no dictionary entry outside
`completionKey` but those with a key in `more`. -/
def onlyCompletion (s t : State) (u q : Nat) (more : Nat → Prop) : Prop :=
  (∀ a, ¬ inRecords s u q a → memByte t a = memByte s a) ∧
  (∀ i sub, ¬ completionKey u q (odKey i sub) → ¬ more (odKey i sub) → odGet t i sub = odGet s i sub)

/-- The next command of a queue may issue: it is the first fetched one, its word was not delivered poisoned, and the queue issues (R198). -/
def mayIssue (s : State) (u q : Nat) (c : Cmd) (ctx : Nat) : Prop :=
  firstIn s u q .fetched = some c ∧ ctxOf s u q = some ctx ∧ canIssue s u q = true ∧ drainAllows s u q c.serial = true ∧ c.bad = none

/-- The dispatcher of die d chooses c among its candidates (R215). -/
def picks (s : State) (d : Nat) (c : Cmd) : Prop := d < 4 ∧ chosen s d (candidates s d) = some c

/-- The verdict word read at admission skips the command (R172). -/
def skips (c : Cmd) : Bool := c.group.vector && chVCHK c.desc && bitOf c.verdict 97

/-! ### Stored bytes and matrix commands -/

/-- Two ranges of bytes have no byte in common. -/
def apart (a n b m : Nat) : Prop := a + n ≤ b ∨ b + m ≤ a

/-- The destinations of an XPOSE lie apart from its sources and from each other (R240). -/
def xposeApart (c : Cmd) : Prop :=
  apart (xpDstAt c 0) (xpNT c.word * xpSize c.word) (xpSrcAt c 0) (xpNT c.word * xpSize c.word) ∧
  (isMX (xpFMT c.word) = true →
    apart (xpDstAt c 0) (xpNT c.word * xpSize c.word) (xpSsclAt c 0) (xpNT c.word * 512) ∧
    apart (xpDstAt c 0) (xpNT c.word * xpSize c.word) (xpDsclAt c 0) (xpNT c.word * 512) ∧
    apart (xpDsclAt c 0) (xpNT c.word * 512) (xpSrcAt c 0) (xpNT c.word * xpSize c.word) ∧
    apart (xpDsclAt c 0) (xpNT c.word * 512) (xpSsclAt c 0) (xpNT c.word * 512))

/-- Source tile i of an XPOSE, transposed (R240); the axis of its blocks is a free value (log 23). -/
def xposeOut (s : State) (c : Cmd) (i : Nat) : HawkTile := transposeTile (xpTile s c (sourceAxis s).1 i)

/-- What a byte reads after held bytes have been written in their order; `b` is what it read before. -/
def lastByte (l : List (Nat × Byte)) (a : Nat) (b : Byte) : Byte := l.foldl (fun x p => if p.1 = a then p.2 else x) b

/-- What a pass feeds to the arrays of its command, once its weight tile is active: by array position, the rows (R69, R133). -/
def passFeeds (s : State) (c : Cmd) : List (Nat × List Feed) :=
  (mmArrays c.word).map (fun e => (e, (List.range (mmM c.word)).map (fun m =>
    feedRow (fedTiles (swapTiles s c) c).2 c (fedTiles (swapTiles s c) c).1.tiles e m)))

/-- A word of the working tile of a matrix command (R101). -/
def workingWord (c : Cmd) (k : Nat) : Prop := ∃ e m col, m < mmM c.word ∧ k = workKey c e m col

/-- The tiles of a command lie in the accumulator rows (R101, R234). -/
def tilesFit (c : Cmd) : Prop := mmRBASE c.word + mmRCNT c.word ≤ 32 ∧ mmWB c.word + mmRCNT c.word ≤ 32 ∧ mmBANK c.word < 2

/-- A command waits for the one message it has sent: the message takes the next number and carries the header h (R203, R292, R305). -/
def parkedOn (s t : State) (c : Cmd) (h : Packet) (src : Option Nat) : Prop :=
  ∃ d m, findCmd t c.u c.q c.serial = some d ∧ d.stage = .parked ∧ d.msgs = [s.msgidNext] ∧ t.msgidNext = wrap 32 (s.msgidNext + 1) ∧
    m ∈ t.sends ∧ m.msgid = s.msgidNext ∧ m.owner = some (c.u, c.q, c.serial) ∧ m.src = src ∧ m.head.kind = h.kind ∧ m.head.op = h.op ∧
    m.head.daddr = h.daddr ∧ m.head.len = h.len ∧ m.head.ord = h.ord ∧ m.head.rten = h.rten ∧ m.head.rtally = h.rtally ∧ t.mem = s.mem ∧ t.tallies = s.tallies

/-- The tallies after the RTEN add of a message at its destination (R204). -/
def rtenAdd (s : State) (r : RecvCtx) (k : Nat) : Nat :=
  if (recvHead r).rten = true ∧ tallyOwned s (recvHead r).rtally = true ∧ k = (recvHead r).rtally then (tallyGet s k + 1) % 2 ^ 32 else tallyGet s k

/-- A message has been sent again: it is kept under its number, with one more re-send and the interval index i (R311). -/
def sentAgain (t : State) (m : SendMsg) (i : Nat) : Prop :=
  ∃ x ∈ t.sends, x.msgid = m.msgid ∧ x.resends = m.resends + 1 ∧ x.i = i ∧ x.owner = m.owner ∧ x.head.daddr = m.head.daddr

/-- An answer of a kind and reason has come for a message that is kept (R304, R308). -/
def hasAnswer (s : State) (msgid kind op : Nat) (m : SendMsg) (p : Packet) : Prop :=
  findSend s msgid = some m ∧ inboxFind s msgid kind op = some p ∧ m.coll = none

/-! ### Power -/

/-- The emergency causes in force (0x2100.05). -/
def causes (s : State) : Nat := odGet s 0x2100 0x05

/-- Emergency cause b has appeared: its bit and its snag are set; and where no cause was in force before, the package has entered an
emergency: every ARRAY clock at the floor, every CORE clock at 1.0 GHz, the allocations held, the entry counted, snag 1 (R421). -/
def emergencyUp (s t : State) (b : Nat) : Prop :=
  bitOf (causes t) b = true ∧ (b < 4 → bitOf (odGet t 0x7000 0x01) (2 + b) = true) ∧
  (causes s = 0 → bitOf (odGet t 0x7000 0x01) 1 = true ∧ (∀ d, d < 4 → arrayFreq t d ≤ floorFreq) ∧
    (∀ d f, d < 4 → t.coreMHz[d]? = some f → f = 1000) ∧ t.allocHeld.isSome = true ∧ t.releasing = false ∧
    odGet t 0x2100 0x0B = min cntMax (odGet s 0x2100 0x0B + 1))

/-- A cause of clock stretching has cleared (R416): 4 is a die's junction, 6 a lath's. -/
def stretchCleared (s : State) (cause d : Nat) : Bool :=
  match cause with
  | 0 | 1 => true
  | 2 => coolDie s d 16
  | 3 => coolLath s 16 && coolStack s 16
  | 4 => coolDie s d 1
  | _ => coolLath s 1

/-! ### Object dictionary requests -/

/-- A request is served now: its path is answered, no activation holds it, and its job page is open (R464, R471, R478). -/
def servedNow (s : State) (p : Path) : Bool := answered s p && !holdsRequests s && !pageClosed s p

/-- A WRITE of n bytes in one piece, which the path's payload holds, passes every check of R464 but the one of rights. -/
def writable (s : State) (p : Path) (i sub n v : Nat) (row : OdRow) : Prop :=
  servedNow s p = true ∧ odPresent i = true ∧ rowOf i sub = some row ∧ accessOk row (writeReq i sub n v) = true ∧ n ≤ pathMax p ∧
    (if row.pieces then n ≤ min 1048576 row.size else n = row.size) ∧ available s i = true ∧ v < 2 ^ (8 * n) ∧
    rangeOk s row i sub v n = true ∧ stateOk s i sub v = true

/-- A WRITE of n bytes that the path's payload does not hold, and that two pieces do, passes every check of R464 but the one of rights. -/
def writableInPieces (s : State) (p : Path) (i sub n v : Nat) (row : OdRow) : Prop :=
  pathMax p < n ∧ n ≤ 2 * pathMax p ∧ servedNow s p = true ∧ odPresent i = true ∧ rowOf i sub = some row ∧ row.pieces = true ∧
    accessOk row (writeReq i sub n v) = true ∧ n ≤ min 1048576 row.size ∧ available s i = true ∧ v < 2 ^ (8 * n) ∧
    rangeOk s row i sub v n = true ∧ stateOk s i sub v = true

/-- The dictionary as it was: on a Hasowa path but for the count of its requests, and the pages that the count's saturation can change. -/
def odKept (s t : State) (p : Path) : Prop :=
  match p with
  | .hasowa _ _ => ∀ k, ¬ logKey k → k ≠ odKey 0x6800 0x08 → odGet t (k / 256) (k % 256) = odGet s (k / 256) (k % 256)
  | _ => t.od = s.od

/-- A request on a Hasowa path does not saturate the count of its requests (R446, R475). -/
def countsOn (s : State) (p : Path) : Prop :=
  match p with
  | .hasowa _ _ => odGet s 0x6800 0x08 + 1 < cntMax
  | _ => True

/-- What a reset counter reads after its reset: the count of Hasowa requests counts the request that resets it (R446, R475). -/
def afterReset (p : Path) (k : Nat) : Nat :=
  match p with
  | .hasowa _ _ => if k = odKey 0x6800 0x08 then 1 else 0
  | _ => 0

/-- What a WRITE comes to. Where the requester has the right, the value is applied, and the answer carries the status; where it has not, the
answer is RIGHTS and nothing is written (R459 to R464). -/
def writeOutcome (s t : State) (p : Path) (i sub n v : Nat) (row : OdRow) (status : Nat) (effect : Prop) : Prop :=
  (rightsOk s p (writeReq i sub n v) row true = true → .odResponse p i sub status 0 0 0 [] ∈ t.out ∧ effect) ∧
  (rightsOk s p (writeReq i sub n v) row true = false → .odResponse p i sub odRIGHTS 0 0 0 [] ∈ t.out ∧ odKept s t p ∧ t.mem = s.mem)

/-- The entry of the tally that a requester has selected (0x9300.01). -/
def selectedTally (s : State) (p : Path) : Nat := selectOf (getReq s p) 0x9300 0x01

/-- An AUTH WRITE, which the path's payload holds, passes every check of R464 and R467 but those of rights and of its token. -/
def authorizable (s : State) (p : Path) (i sub : Nat) (value token : List Byte) (row : OdRow) : Prop :=
  servedNow s p = true ∧ odPresent i = true ∧ rowOf i sub = some row ∧ accessOk row (authReq i sub value token) = true ∧
    value.length + token.length ≤ pathMax p ∧
    (if row.pieces then value.length ≤ min 1048576 row.size else value.length = row.size) ∧ available s i = true ∧
    rangeOk s row i sub (leNat value) value.length = true ∧ stateOk s i sub (leNat value) = true

/-- What an AUTH WRITE comes to. With the right and a token that passes, the value is applied, the answer is OK and the count of AUTH WRITEs
that the tokens are bound to moves on by one; without, the answer is AUTH or RIGHTS and the count stands (R464, R467, R507). -/
def authOutcome (s t : State) (p : Path) (i sub : Nat) (value token : List Byte) (row : OdRow) (effect : Prop) : Prop :=
  (rightsOk s p (authReq i sub value token) row true = true → tokenOk s i sub value token = true →
    .odResponse p i sub odOK value.length 0 0 [] ∈ t.out ∧ odGet t 0x8100 0x09 = odGet s 0x8100 0x09 + 1 ∧ effect) ∧
  (rightsOk s p (authReq i sub value token) row true = true → tokenOk s i sub value token = false →
    .odResponse p i sub odAUTH value.length 0 0 [] ∈ t.out ∧ odGet t 0x8100 0x09 = odGet s 0x8100 0x09 ∧ t.mem = s.mem) ∧
  (rightsOk s p (authReq i sub value token) row true = false →
    .odResponse p i sub odRIGHTS value.length 0 0 [] ∈ t.out ∧ odGet t 0x8100 0x09 = odGet s 0x8100 0x09 ∧ t.mem = s.mem)

/-- The package has answered a request. -/
def answeredTo (t : State) (p : Path) (r : OdReq) : Prop :=
  ∃ status off len data, .odResponse p r.index r.sub status off len r.tag data ∈ t.out

/-- A READ passes every check of R464 but the one of rights. -/
def readable (s : State) (p : Path) (r : OdReq) (row : OdRow) : Prop :=
  servedNow s p = true ∧ odPresent r.index = true ∧ rowOf r.index r.sub = some row ∧ accessOk row (withOp r 0) = true ∧
    malformed p (withOp r 0) = false ∧ available s r.index = true ∧ (row.pieces = false → r.offset = 0 ∧ r.length = row.size)

/-! ### Collectives -/

/-- A channel runs the collective of a command, which waits for it: the channel is ACTIVE, and its record names the command, with the seed and the
time of its admission (R353, R388). -/
def collStarted (t : State) (c : Cmd) (k : Chan) (kind : Nat) : Prop :=
  (∃ x r, getChan t k.id = some x ∧ x.run = some r ∧ r.kind = kind ∧ r.u = c.u ∧ r.q = c.q ∧ r.serial = c.serial ∧ r.word = c.word ∧
    r.seed = c.begun.seed ∧ r.admittedAt = c.begun.admittedAt) ∧
  odGet t (0x9100 + k.id) 0x01 = 2 ∧ findCmd t c.u c.q c.serial = some { c with stage := .parked }

/-- The collective of a command has completed: its command has ended with its add, and the channel is BOUND, with the next serial and one
more completion counted (R353, R363). -/
def collFinished (s t : State) (c : Cmd) (k : Chan) : Prop :=
  ended t c.u c.q c.serial ∧ (∀ n, tallyGet t n = addedTally c (tallyGet s) n) ∧
    (∃ x, getChan t k.id = some x ∧ x.run = none ∧ x.chunks = [] ∧ x.landed = []) ∧
    odGet t (0x9100 + k.id) 0x01 = 1 ∧ odGet t (0x9100 + k.id) 0x05 = wrap 32 (k.serial s + 1) ∧
    odGet t (0x9100 + k.id) 0x0D = min cntMax (odGet s (0x9100 + k.id) 0x0D + 1)

/-- The parked command of a queue drives the collective r of channel k. -/
def drives (s : State) (u q op : Nat) (c : Cmd) (k : Chan) (r : Coll) : Prop :=
  collJob s u q op = some (c, k, false) ∧ k.run = some r ∧ r.u = c.u ∧ r.q = c.q ∧ r.serial = c.serial ∧
    findCmd s c.u c.q c.serial = some c

/-- Every range that forming a chunk of the reduction reads or writes stands in memory, and none of them is sealed. -/
def collFits (s : State) (k : Chan) (r : Coll) : Prop :=
  ∀ c, c < chunkCount r.word → ∀ x ∈ chunkReads s k r c ++ formRanges s k r c, inMemory s x.1 x.2 = true ∧ sealedRange s x.1 x.2 = false

/-- A whole collective message, with a good CRC and no poison, has come for a bound channel; there is room for a tombstone, nothing waits to be
sent, and the host holds no line. -/
def collReady (s : State) (spkg msgid kind : Nat) (m : RecvCtx) (k : Chan) : Prop :=
  readyRecv s spkg msgid kind = some m ∧ recvCrcOk m = true ∧ getChan s (recvHead m).chan = some k ∧ (∀ p ∈ m.pkts, p.poison = 0) ∧
    tombsFull s = false ∧ (∀ x ∈ s.sends, x.waiting = false) ∧ s.biFilter = [] ∧ s.biHeld = []

/-- A CRC mismatch: the packets held are discarded, the context stays, and no byte or channel changes (R308, R315). -/
def crcDropped (s t : State) (m : RecvCtx) : Prop :=
  findRecv t m.spkg m.msgid = some { m with pkts := [] } ∧ t.mem = s.mem ∧ t.tallies = s.tallies ∧ t.chans = s.chans

/-- A message has been taken and answered, and its bytes stand at an offset. -/
def landedAt (s t : State) (m : RecvCtx) (a : Nat) : Prop :=
  findRecv t m.spkg m.msgid = none ∧ ∀ x, memByte t x = if a ≤ x ∧ x < a + (recvPayload m).length then listGet 0 (recvPayload m) (x - a) else memByte s x

/-! ### Rings -/

/-- The ring of a slot of port p is r. -/
def ringIs (s : State) (p : Nat) (tx : Bool) (slot : Nat) (r : Ring) : Prop :=
  p < s.ports.length ∧ (if tx then (getPort s p).tx else (getPort s p).rx)[slot]? = some r

/-- The data lanes of a frame that count as bad: those whose codeword could not be corrected, and those whose receive ring is not LOCKED or whose
slot check has failed (R323, R332). -/
def frameLanes (s : State) (port : Nat) (f : Frame) : List Nat :=
  ((framePhase (getPort s port) (badSlots s port f)).badNow.filter (fun x => slotRole s port false x == 0)).map (slotLane s port false) ++
    lanesDown s port

/-- A lit port takes a control word of a type: its CRC is good. -/
def takesWord (s : State) (p ty : Nat) (w : BitVec 160) : Prop :=
  p < 16 ∧ p < s.ports.length ∧ portState s p ≠ 0 ∧ cwGood w = true ∧ cwType w = ty

end Sys2Proof.Machine
end

