-- ==== Sys2Proof/Certificates/Slice0/Obligations.lean ====
section
/-! DEFINITION. The statements. A clause of the form `∃ t, exec c s = .next t ∧ …` says that the command completes and what the next
state holds. -/

open Sys2Proof Sys2Proof.Machine

/-! ### The machine: its step, its queue of commands, reset -/

/-- A step takes the command at the front of the queue and answers its outcome on the queue's rest. -/
def Obligations.StepRunsTheFrontCommand : Prop :=
  ∀ (c : Instr) (r : List Instr) (s : State), s.pending = c :: r → step s = exec c { s with pending := r }

/-- With no command waiting a step lets one AON tick pass: the uptime count alone advances, and only while the always-on domain runs; the
evidence of an attestation whose signing ends with the tick appears at its requester. The model's choice (log 2). -/
def Obligations.StepWithNothingWaiting : Prop :=
  ∀ s : State, s.pending = [] → ∃ t, step s = .next t ∧ t.uptime = (if s.aonUp then s.uptime + 1 else s.uptime) ∧
    t.pending = [] ∧ (∀ k : Kind, k ≠ .clock → (k = .access → ∀ x, s.signing = some x → s.uptime + 1 < x.2.2) → k.same s t) ∧
    (∀ p e due, s.aonUp = true → s.signing = some (p, e, due) → due ≤ s.uptime + 1 →
      t.signing = none ∧ ∀ r ∈ s.requesters, { r with evidence := if r.p = p then e else r.evidence } ∈ t.requesters)

/-- A step that goes on takes one command off the queue and leaves the rest as it was: no command adds to the queue. -/
def Obligations.StepTakesOneCommand : Prop :=
  ∀ (c : Instr) (r : List Instr) (s t : State), s.pending = c :: r → step s = .next t → t.pending = r

/-- The frame of every row: what is outside the kinds of state that the row touches is in the next state as it was. -/
def Obligations.RowsKeepOtherKinds : Prop :=
  ∀ (c : Instr) (s t : State), exec c s = .next t → ∀ k : Kind, (touches c).contains k = false → k.same s t

/-- Every step keeps a state in order: the canonical forms of memory, accumulators and tallies, the rising lists of poisoned sectors and
dictionary values, 32-bit tallies, at most 256 reports and 4,096 records, sixteen ports. -/
def Obligations.StepKeepsSound : Prop :=
  ∀ s t : State, s.Sound → step s = .next t → t.Sound

/-- The state after reset is in order. -/
def Obligations.ResetIsSound : Prop := State.reset.Sound

/-! ### Control and budget commands (R200 to R203, R214 to R217) -/

/-- NOP, TWAIT and TSET, issued and with their wait met, complete at once: the command has ended, and the tallies are as before but for
TSET's set, which applies first, and for the command's add. -/
def Obligations.ControlCommandsComplete : Prop :=
  (∀ (s : State) (u q : Nat) (c : Cmd), s.Sound → readyControl s u q 0x00 = some c →
    ∃ t, exec (.nop u q) s = .next t ∧ ended t u q c.serial ∧ ∀ k, tallyGet t k = addedTally c (tallyGet s) k) ∧
  (∀ (s : State) (u q : Nat) (c : Cmd), s.Sound → readyControl s u q 0x01 = some c →
    ∃ t, exec (.twait u q) s = .next t ∧ ended t u q c.serial ∧ ∀ k, tallyGet t k = addedTally c (tallyGet s) k) ∧
  (∀ (s : State) (u q : Nat) (c : Cmd), s.Sound → readyControl s u q 0x02 = some c →
    ∃ t, exec (.tset u q) s = .next t ∧ ended t u q c.serial ∧
      ∀ k, tallyGet t k = addedTally c (fun j => if j = fld c.word 117 104 then fld c.word 149 118 else tallyGet s j) k)

/-- The add of a command is applied once, when the command completes, and only with status OK or SKIPPED: a completion with any other
status, and the stop of a context that follows it, leave every tally as it was. TSET's set applies before the command's own add. -/
def Obligations.AddsOnlyOnSuccess : Prop :=
  (∀ (s : State) (c : Cmd) (st code k : Nat), s.Sound →
    tallyGet (completeCmd s c st code) k = if st = stOK ∨ st = stSKIPPED then addedTally c (tallyGet s) k else tallyGet s k) ∧
  (∀ (s : State) (c : Cmd) (st code : Nat) (r : Report) (k : Nat), st ≠ stOK → st ≠ stSKIPPED →
    tallyGet (failCmd s c st code r) k = tallyGet s k) ∧
  (∀ (s : State) (u q : Nat) (c : Cmd) (t : State), s.Sound → readyControl s u q 0x02 = some c → exec (.tset u q) s = .next t →
    ∀ k, tallyGet t k = addedTally c (fun j => if j = fld c.word 117 104 then fld c.word 149 118 else tallyGet s j) k) ∧
  (∀ (s : State) (c d : Cmd) (k : Nat), s.Sound → c.aen = true → d.aen = true → c.atally = k → d.atally = k →
    tallyGet (completeCmd (completeCmd s c stOK 0) d stOK 0) k = (tallyGet s k + c.aval + d.aval) % 2 ^ 32)

/-- QFENCE completes when every earlier command of its queue has completed; otherwise it runs without completing and touches no tally.
A QFENCE that runs completes at a later step by the same rule. -/
def Obligations.QfenceWaitsForEarlierCommands : Prop :=
  ∀ (s : State) (u q : Nat) (c : Cmd), s.Sound →
    (readyControl s u q 0x03 = some c →
      (fenceOpen s c = true → ∃ t, exec (.qfence u q) s = .next t ∧ ended t u q c.serial ∧
        ∀ k, tallyGet t k = addedTally c (tallyGet s) k) ∧
      (fenceOpen s c = false → ∃ t, exec (.qfence u q) s = .next t ∧
        findCmd t u q c.serial = some { c with stage := .parked } ∧ t.tallies = s.tallies)) ∧
    (readyControl s u q 0x03 = none → (qCmds s u q).find? (fun d => d.stage == .parked && d.op == 0x03) = some c → fenceOpen s c = true →
      ∃ t, exec (.qfence u q) s = .next t ∧ ended t u q c.serial ∧ ∀ k, tallyGet t k = addedTally c (tallyGet s) k)

/-- The frame of the control and budget commands: memory changes in the completion ring of the queue alone, and the dictionary in what a
completion counts and, for the budget commands, in the entry of the die's bucket. -/
def Obligations.ControlCommandsFrame : Prop :=
  ∀ (s t : State) (u q : Nat), s.Sound → queueExists u q = true →
    (exec (.nop u q) s = .next t → onlyCompletion s t u q (fun _ => False)) ∧
    (exec (.twait u q) s = .next t → onlyCompletion s t u q (fun _ => False)) ∧
    (exec (.tset u q) s = .next t → onlyCompletion s t u q (fun _ => False)) ∧
    (exec (.qfence u q) s = .next t → onlyCompletion s t u q (fun _ => False)) ∧
    (exec (.breserve u q) s = .next t → onlyCompletion s t u q (fun k => k = odKey (0x2300 + dieOf u) 0x01)) ∧
    (exec (.brelease u q) s = .next t → onlyCompletion s t u q (fun k => k = odKey (0x2300 + dieOf u) 0x01))

/-- The record of a command that is alone in its queue, whose completion ring lies in job stack memory, is written at slot serial mod 2ⁿ
as the command completes: here NOP, with STATUS 0 and CODE 0. -/
def Obligations.RecordGoesToItsSlot : Prop :=
  ∀ (s : State) (u q : Nat) (c : Cmd), s.Sound → queueExists u q = true → readyControl s u q 0x00 = some c → qCmds s u q = [c] →
    bitOf (qGet s u q 3) 63 = false → inJob s (recordSlot s u q c.serial).2 32 = true → s.biFilter = [] → s.biHeld = [] →
    ∃ t r, exec (.nop u q) s = .next t ∧ findCmd t u q c.serial = none ∧
      Store.getList 0 t.mem (bits (qGet s u q 3) 0 44 + 32 * (c.serial % 2 ^ qGet s u q 2)) 32 = leBytes 32 r ∧
      bits r 192 64 = s.uptime % 2 ^ 64 ∧ bits r 96 32 = c.serial % 2 ^ 32 ∧ bits r 80 16 = 0 ∧ bits r 64 8 = 0

/-- BRESERVE moves min(E, level) from the bucket into the queue's reserve for T µs, once the old reserve has gone back; BRELEASE gives
the reserve back. Both complete. -/
def Obligations.ReservesMove : Prop :=
  (∀ (s : State) (u q : Nat) (c : Cmd), s.Sound → queueExists u q = true → readyControl s u q 0xC0 = some c →
    ∃ t, exec (.breserve u q) s = .next t ∧ ended t u q c.serial ∧
      reserveOf t u q = min (fld c.word 135 104) (bucketLevel (returnReserve s u q) (dieOf u)) ∧
      bucketLevel t (dieOf u) = bucketLevel (returnReserve s u q) (dieOf u) - reserveOf t u q ∧
      Store.get 0 t.reserveEnds (drainKey u q) = s.uptime + 100 * fld c.word 145 136) ∧
  (∀ (s : State) (u q : Nat) (c : Cmd), s.Sound → queueExists u q = true → readyControl s u q 0xC1 = some c →
    ∃ t, exec (.brelease u q) s = .next t ∧ ended t u q c.serial ∧ reserveOf t u q = 0 ∧
      bucketLevel t (dieOf u) = bucketLevel (returnReserve s u q) (dieOf u))

/-! ### Queues: fetch, issue, the wait limit (R195 to R205, R531) -/

/-- A fetch takes the word at the head as a command of that serial and advances the head: from a ring in job stack memory with the word
it holds, and from a ring in host memory with the word the host returned. The queue then shows IDLE exactly when its head meets its tail.
A word that comes poisoned ends its command at once, which adds to no tally. A host read that fails leaves the state as it is.
RING_FETCH_RETRY does the same for a host ring. A draining queue that looks for its step boundary in host memory stops at the first word
with SB. -/
def Obligations.FetchTakesTheHeadWord : Prop :=
  ∀ (s : State) (u q : Nat) (h : HostAns), canFetch s u q = true →
    ((ringSlot s u q (qGet s u q 4)).1 = false → inJob s (ringSlot s u q (qGet s u q 4)).2 32 = true →
      badSectors s (ringSlot s u q (qGet s u q 4)).2 32 = [] → drainSearch s u q = false →
      ∃ t, exec (.commandFetch u q h) s = .next t ∧
        t.cmds = s.cmds ++ [Cmd.fresh u q (qGet s u q 4) (BitVec.ofNat 256 (memNat s (ringSlot s u q (qGet s u q 4)).2 32))] ∧
        qGet t u q 4 = wrap 32 (qGet s u q 4 + 1) ∧ qGet t u q 6 = (if qGet t u q 4 = qGet s u q 5 then 1 else 2)) ∧
    ((ringSlot s u q (qGet s u q 4)).1 = true → h.ok = true → h.poisoned = false → hostPath s = true →
      hostOk s (ringSlot s u q (qGet s u q 4)).2 32 false = true → drainSearch s u q = false →
      ∃ t, exec (.commandFetch u q h) s = .next t ∧ exec (.ringFetchRetry u q h) s = .next t ∧
        t.cmds = s.cmds ++ [Cmd.fresh u q (qGet s u q 4) (BitVec.ofNat 256 (leNat (h.data.take 32)))] ∧
        qGet t u q 4 = wrap 32 (qGet s u q 4 + 1) ∧ qGet t u q 6 = (if qGet t u q 4 = qGet s u q 5 then 1 else 2)) ∧
    ((ringSlot s u q (qGet s u q 4)).1 = true → h.ok = true → h.poisoned = false → hostPath s = true →
      hostOk s (ringSlot s u q (qGet s u q 4)).2 32 false = true → drainSearch s u q = true →
      fld (BitVec.ofNat 256 (leNat (h.data.take 32))) 24 24 = 1 →
      ∃ t, exec (.commandFetch u q h) s = .next t ∧ exec (.ringFetchRetry u q h) s = .next t ∧ (drainKey u q, qGet s u q 4) ∈ t.draining) ∧
    ((ringSlot s u q (qGet s u q 4)).1 = false → inJob s (ringSlot s u q (qGet s u q 4)).2 32 = true →
      badSectors s (ringSlot s u q (qGet s u q 4)).2 32 ≠ [] →
      ∃ t, exec (.commandFetch u q h) s = .next t ∧ ended t u q (qGet s u q 4) ∧ t.tallies = s.tallies) ∧
    ((ringSlot s u q (qGet s u q 4)).1 = true → h.ok = true → h.poisoned = true → hostPath s = true →
      hostOk s (ringSlot s u q (qGet s u q 4)).2 32 false = true →
      ∃ t, exec (.commandFetch u q h) s = .next t ∧ exec (.ringFetchRetry u q h) s = .next t ∧
        ended t u q (qGet s u q 4) ∧ t.tallies = s.tallies) ∧
    ((ringSlot s u q (qGet s u q 4)).1 = true → h.ok = false →
      exec (.commandFetch u q h) s = .next s ∧ exec (.ringFetchRetry u q h) s = .next s)

/-- A fetch of a word that is not poisoned leaves every dictionary entry but the head and state of its queue, and, where the queue drains and
looks for its step boundary, those that its end can change. -/
def Obligations.FetchFrame : Prop :=
  ∀ (s t : State) (u q i sub : Nat) (h : HostAns), exec (.commandFetch u q h) s = .next t ∨ exec (.ringFetchRetry u q h) s = .next t →
    h.poisoned = false → ((ringSlot s u q (qGet s u q 4)).1 = false → badSectors s (ringSlot s u q (qGet s u q 4)).2 32 = []) →
    (drainSearch s u q = true → ¬ completionKey u q (odKey i sub)) →
    odKey i sub ≠ odKey (queueIndex u) (q * 16 + 4) → odKey i sub ≠ odKey (queueIndex u) (q * 16 + 6) → odGet t i sub = odGet s i sub

/-- A fetched word that is legal, whose product descriptor is clean, and which no hawk or stream holds back, is issued: the command
stands issued with its time, its order and the VL of its queue. A word that is illegal on its face ends there and adds to no tally. -/
def Obligations.IssueEntersOrRejects : Prop :=
  ∀ (s : State) (u q : Nat) (c : Cmd) (ctx : Nat), mayIssue s u q c ctx →
    (illegalCode s u q ctx c.word none = none → descPoison s u c.word = none →
      illegalCode s u q ctx c.word (productDesc s u c.word) = none → hawkBusy s u q c.word = false → screedBusy s u c.word = false →
      ∃ t d, exec (.commandIssue u q) s = .next t ∧ findCmd t u q c.serial = some d ∧ d.stage = .issued ∧ d.word = c.word ∧
        d.issuedAt = s.uptime ∧ d.age = s.issues ∧ d.vl = qGet s u q 8 ∧ d.desc = (productDesc s u c.word).getD 0 ∧
        t.issues = s.issues + 1) ∧
    ((illegalCode s u q ctx c.word none).isSome → ∃ t, exec (.commandIssue u q) s = .next t ∧ ended t u q c.serial ∧ t.tallies = s.tallies)

/-- A command whose wait has stayed unmet for longer than its context's limit ends WAIT-TIMEOUT: its add is not applied. Up to the limit
the row changes nothing. -/
def Obligations.WaitTimeoutEndsTheCommand : Prop :=
  ∀ (s : State) (u q : Nat) (c : Cmd) (ctx : Nat), atAdmission s u q = some c → ctxOf s u q = some ctx → c.wen = true →
    waitMet s c = false →
    (waitLimit s ctx ≠ 0 → s.uptime - c.issuedAt > waitLimit s ctx →
      ∃ t, exec (.waitTimeout u q) s = .next t ∧ ended t u q c.serial ∧ t.tallies = s.tallies) ∧
    (s.uptime - c.issuedAt ≤ waitLimit s ctx → exec (.waitTimeout u q) s = .next s)

/-! ### Admission, the bucket and pre-emption (R199, R213 to R218) -/

/-- The admission read keeps what it read: the chain descriptor, the tables and the verdict word. Poison among them,
and a descriptor that has left memory, end the command and add to no tally. It leaves the level of every bucket and every reserve. -/
def Obligations.AdmissionReadKeepsWhatItRead : Prop :=
  ∀ (s : State) (u q : Nat) (c : Cmd), admissionPoint s u q = some c → c.group.vector = true → c.op ≠ 0x40 → c.adRead = false →
    ready s c = true →
    (inMemory s (c.at c.daddr) 336 = true → lowestBad s (c.at c.daddr) 336 = none →
      chainIllegal s c.isSweepCmd (memNat s (c.at c.daddr) 336) c.daddr c.rows c.len = false →
      tableStages c (memNat s (c.at c.daddr) 336) = [] → chVCHK (memNat s (c.at c.daddr) 336) = false →
      ∃ t d, exec (.admissionRead u q) s = .next t ∧ findCmd t u q c.serial = some d ∧ d.adRead = true ∧
        d.desc = memNat s (c.at c.daddr) 336 ∧ d.stage = .issued ∧ d.energy = c.energy) ∧
    (inMemory s (c.at c.daddr) 336 = false ∨ (lowestBad s (c.at c.daddr) 336).isSome → ∃ t, exec (.admissionRead u q) s = .next t ∧ ended t u q c.serial ∧ t.tallies = s.tallies)

/-- The command that the dispatcher picks is admitted and charged: the charge is at most its ceiling and is drawn from the queue's reserve
first and then from the bucket, which never falls below zero because the command fits. When it picks none, no level and no reserve moves. -/
def Obligations.AdmissionCharges : Prop :=
  (∀ (s : State) (d : Nat) (c : Cmd), s.Sound → queueExists c.u c.q = true → dieOf c.u = d → picks s d c → c ∈ s.cmds →
    c.op ≠ 0x40 → skips c = false →
    ∃ t e, exec (.dispatch d) s = .next t ∧ findCmd t c.u c.q c.serial = some e ∧ e.stage = .admitted ∧ e.energy = c.energy + charge s c ∧
      charge s c ≤ ceiling s c ∧ ceiling s c ≤ reserveOf s c.u c.q + bucketLevel s d ∧
      reserveOf t c.u c.q = reserveOf s c.u c.q - min (reserveOf s c.u c.q) (charge s c) ∧
      bucketLevel t d + (charge s c - min (reserveOf s c.u c.q) (charge s c)) = bucketLevel s d) ∧
  (∀ (s : State) (d : Nat), d < 4 → chosen s d (candidates s d) = none →
    ∃ t, exec (.dispatch d) s = .next t ∧ t.reserves = s.reserves ∧ bucketLevel t d = bucketLevel s d)

/-- Past the hold limit the dispatcher admits the first candidate or none; before it, the first in order that fits. -/
def Obligations.DispatcherOrder : Prop :=
  ∀ (s : State) (d : Nat) (c : Cmd) (r : List Cmd), candidates s d = c :: r →
    (holdPassed s d c = true → ∀ x, chosen s d (candidates s d) = some x → x = c) ∧
    (holdPassed s d c = false → ∀ x, chosen s d (candidates s d) = some x →
      fits s x = true ∧ ∃ a b, c :: r = a ++ x :: b ∧ ∀ y ∈ a, fits s y = false)

/-- SETVL completes at its admission, writing VL. -/
def Obligations.SetvlWritesVl : Prop :=
  ∀ (s : State) (u q : Nat) (c : Cmd), queueExists u q = true → admissionPoint s u q = some c → c.op = 0x40 → ready s c = true →
    fits s c = true → chosen s (dieOf u) (candidates s (dieOf u)) = some c →
    ∃ t, exec (.setvl u q) s = .next t ∧ ended t u q c.serial ∧ qGet t u q 8 = fld c.word 116 104

/-- While VBULK stands, the bucket refills by the allocation of its die × 10 nJ a tick, up to what the reserves leave of its capacity. The settings of its die
come into force with it (the model's choice, log 137), and level and reserves together never pass the capacity: reserves that fit stay.
A reserve whose time has run out goes back to the bucket under the same bound. -/
def Obligations.BucketRefillsAndReservesExpire : Prop :=
  (∀ (s : State) (d : Nat), bulkOn s = false → exec (.bucketRefill d) s = .next s) ∧
  (∀ (s : State) (d : Nat), s.Sound → d < 4 → bulkOn s = true → ∃ t, exec (.bucketRefill d) s = .next t ∧
    budgetOf t d = ⟨allocation s d, odGet s (0x2300 + d) 0x02, odGet s (0x2300 + d) 0x03⟩ ∧
    bucketLevel t d = min (bucketLevel s d + 10 * allocation s d) (bucketCapacity t d - dieReserves t d) ∧
    bucketLevel t d + dieReserves t d ≤ bucketCapacity t d ∧
    (dieReserves s d ≤ bucketCapacity t d → t.reserves = s.reserves) ∧
    ∀ i sub, odKey i sub ≠ odKey (0x2300 + d) 0x01 → odGet t i sub = odGet s i sub) ∧
  (∀ (s : State) (u q : Nat), s.Sound → reserveOf s u q ≠ 0 → Store.get 0 s.reserveEnds (drainKey u q) ≤ s.uptime →
    ∃ t, exec (.reserveExpiry u q) s = .next t ∧ reserveOf t u q = 0 ∧
      bucketLevel t (dieOf u) = min (bucketLevel s (dieOf u) + reserveOf s u q)
        (bucketCapacity s (dieOf u) - dieReserves (setReserve s u q 0) (dieOf u)) ∧
      ∀ i sub, odKey i sub ≠ odKey (0x2300 + dieOf u) 0x01 → odGet t i sub = odGet s i sub)

/-- The hold limit passes: the blocking candidate is noted, and counted once. -/
def Obligations.HoldLimitCountsOnce : Prop :=
  ∀ (s : State) (d : Nat) (c : Cmd) (r : List Cmd), d < 4 → candidates s d = c :: r → holdPassed s d c = true → fits s c = false →
    (s.holds.contains (d, c.age) = false →
      ∃ t, exec (.holdLimitExpiry d) s = .next t ∧ t.holds.contains (d, c.age) = true ∧
        odGet t (0x2300 + d) 0x07 = min cntMax (odGet s (0x2300 + d) 0x07 + 1)) ∧
    (s.holds.contains (d, c.age) = true → exec (.holdLimitExpiry d) s = .next s)

/-- A ready matrix command requests the pre-emption of the one command whose passes hold its engine, when R216 allows it: between passes
it leaves the engine at once and waits to be admitted again; in a pass it is marked, and leaves at the pass's end. -/
def Obligations.PreemptionRequestTakesTheEngine : Prop :=
  ∀ (s : State) (u q : Nat) (c e : Cmd), admissionPoint s u q = some c → c.op = 0x20 → almostReady s c = true → e ∈ s.cmds →
    (engineUsers s c).filter (fun e => !e.preemptReq && mayPreempt s c e) = [e] →
    ∃ t f, exec (.preemptionRequest u q) s = .next t ∧ findCmd t e.u e.q e.serial = some f ∧
      (e.run.inPass = true → f = { e with preemptReq := true }) ∧
      (e.run.inPass = false → f.stage = .issued ∧ f.preempted = true ∧ f.preemptReq = false ∧
        f.run.passes = (if mmRES e.word then e.run.passes else 0))

/-! ### Transfer and vector commands (R162, R186 to R189, R239, R240) -/

/-- COPY moves the bytes of its source, local or delivered by the host, to its local destination, and completes: every byte outside the
destination and the completion ring is as it was. A COPY to the host changes no local byte outside the ring. An address that has left
memory since the issue ends it, without its add. -/
def Obligations.CopyMovesBytes : Prop :=
  ∀ (s : State) (u q : Nat) (c : Cmd) (h : HostAns), s.Sound → queueExists u q = true → runCmd s u q 0x80 = some c →
    (∀ d : List Byte, (if cpSHOST c.word then h.ok = true ∧ hostOk s (cpSRC c.word) (cpLEN c.word) false = true ∧ hostPath s = true ∧
            h.data.length = cpLEN c.word ∧ d = h.data
          else (inMemory s (cpSRC c.word) (cpLEN c.word) = true ∨ isTallyWord s (cpSRC c.word) (cpLEN c.word) = true) ∧
            d = memRead s (cpSRC c.word) (cpLEN c.word)) →
      (cpDHOST c.word = false → inMemory s (cpDST c.word) (cpLEN c.word) = true → sealedRange s (cpDST c.word) (cpLEN c.word) = false →
        s.biFilter = [] → s.biHeld = [] →
        ∃ t, exec (.copy u q h) s = .next t ∧ ended t u q c.serial ∧ (∀ k, tallyGet t k = addedTally c (tallyGet s) k) ∧
          ∀ a, ¬ inRecords s u q a → memByte t a =
            if cpDST c.word ≤ a ∧ a < cpDST c.word + cpLEN c.word then listGet 0 d (a - cpDST c.word) else memByte s a) ∧
      (cpDHOST c.word = true →
        ∃ t, exec (.copy u q h) s = .next t ∧ ended t u q c.serial ∧ (∀ k, tallyGet t k = addedTally c (tallyGet s) k) ∧
          ∀ a, ¬ inRecords s u q a → memByte t a = memByte s a)) ∧
    (cpSHOST c.word = false → isTallyWord s (cpSRC c.word) (cpLEN c.word) = false → inMemory s (cpSRC c.word) (cpLEN c.word) = false →
      ∃ t, exec (.copy u q h) s = .next t ∧ ended t u q c.serial ∧ t.tallies = s.tallies)

/-- XPOSE: element (r, x) of a transposed tile is element (x, r) of its source. With its sources in memory and clean it completes, storing
to its destination tiles and their scales alone; without REBLK they hold the transposed elements, packed, and the scales of their blocks.
The first uncorrectable hawk slot sends it to its re-run with nothing written. A second one, a source that has left memory and a poisoned
source end it without its add. -/
def Obligations.XposeTransposes : Prop :=
  (∀ (t : HawkTile) (r x : Nat), r < 128 → x < 128 →
    listGet 0 (transposeTile t).codes (r * 128 + x) = listGet 0 t.codes (x * 128 + r)) ∧
  (∀ (s : State) (u q : Nat) (c : Cmd) (ev : MatEvent), s.Sound → queueExists u q = true → runCmd s u q 0x81 = some c →
    xposeVacated s c = none → xposePoison s c = none →
    ((∀ h slot, ev ≠ .hawkSlot h slot) →
      ∃ t, exec (.xpose u q ev) s = .next t ∧ ended t u q c.serial ∧ (∀ k, tallyGet t k = addedTally c (tallyGet s) k) ∧
        ∀ a, ¬ inRecords s u q a → (a < xpDstAt c 0 ∨ xpDstAt c (xpNT c.word) ≤ a) →
          (isMX (xpFMT c.word) = false ∨ a < xpDsclAt c 0 ∨ xpDsclAt c (xpNT c.word) ≤ a) → memByte t a = memByte s a) ∧
    ((∀ h slot, ev ≠ .hawkSlot h slot) → xpREBLK c.word = false → xposeApart c →
      ∃ t, exec (.xpose u q ev) s = .next t ∧ ∀ i, i < xpNT c.word →
        (∀ k, k < xpSize c.word → ¬ inRecords s u q (xpDstAt c i + k) →
          memByte t (xpDstAt c i + k) = listGet 0 (packCodes (xpFMT c.word) (xposeOut s c i).codes) k) ∧
        (isMX (xpFMT c.word) = true → ∀ k, k < 512 → ¬ inRecords s u q (xpDsclAt c i + k) →
          memByte t (xpDsclAt c i + k) = BitVec.ofNat 8 (listGet 0 (xposeOut s c i).scales k))) ∧
    (∀ h slot, ev = .hawkSlot h slot → c.rerun = false →
      ∃ t d, exec (.xpose u q ev) s = .next t ∧ findCmd t u q c.serial = some d ∧ d.rerun = true ∧ d.word = c.word ∧ t.mem = s.mem) ∧
    (∀ h slot, ev = .hawkSlot h slot → c.rerun = true → ∃ t, exec (.xpose u q ev) s = .next t ∧ ended t u q c.serial ∧ t.tallies = s.tallies)) ∧
  (∀ (s : State) (u q : Nat) (c : Cmd) (ev : MatEvent), runCmd s u q 0x81 = some c → (xposeVacated s c).isSome ∨ (xposePoison s c).isSome →
    ∃ t, exec (.xpose u q ev) s = .next t ∧ ended t u q c.serial ∧ t.tallies = s.tallies)

/-- SKIM and SWEEP complete an execution wherever no poison stands in their way and every gather and scatter stage keeps to the scratch of a
served position, whatever the data: a skim whose outputs need no output store has ended and made its add; a skim that works in place, and
every sweep, holds its outputs, formed in that execution, for its write-back, or for its comparison under dual execution, which counts. So
does any execution that meets neither poison nor an address outside the scratch, and its flags stay with the command. Poison among the inputs,
or met by a gather, ends it, and so does an index whose address lies outside the scratch, without its add. -/
def Obligations.VectorExecutions : Prop :=
  (∀ (s : State) (u q : Nat) (c : Cmd) (ev : LaneEvent), s.Sound → queueExists u q = true → ev.times = 0 →
    vectorPoison s c = none → (chainHas c.desc 7 = true ∨ chainHas c.desc 8 = true → allClean s = true) → placesThere s c →
    (vecCmd s u q .admitted false = some c →
      (c.holds = false → ∃ t, exec (.skim u q ev) s = .next t ∧ ended t u q c.serial ∧ ∀ k, tallyGet t k = addedTally c (tallyGet s) k) ∧
      (c.holds = true → ∃ t d, exec (.skim u q ev) s = .next t ∧ findCmd t u q c.serial = some d ∧
        d.stage = (if c.dual then .parked else .held) ∧ d.held = heldBytes (runVector s c).1)) ∧
    (vecCmd s u q .admitted true = some c → sweepVacated s c = none →
      ∃ t d r, exec (.sweep u q ev) s = .next t ∧ r = (if c.dual then odBump s c.statIndex 0x04 1 else s) ∧
        findCmd t u q c.serial = some d ∧ d.stage = (if c.dual then .parked else .held) ∧ d.held = heldBytes (runVector r c).1)) ∧
  (∀ (s : State) (u q : Nat) (c : Cmd) (ev : LaneEvent), s.Sound → queueExists u q = true →
    (vecCmd s u q .admitted false = some c →
      (vectorPoison s c = none → (runVector s c).2.poison = none → (runVector s c).2.beyond = none → ev.times = 0 →
        (c.holds = true → ∃ t d, exec (.skim u q ev) s = .next t ∧ findCmd t u q c.serial = some d ∧
          d.stage = (if c.dual then .parked else .held) ∧ d.held = heldBytes (runVector s c).1 ∧ d.flags = (runVector s c).2.fl) ∧
        (c.holds = false →
          ∃ t, exec (.skim u q ev) s = .next t ∧ ended t u q c.serial ∧ ∀ k, tallyGet t k = addedTally c (tallyGet s) k)) ∧
      ((vectorPoison s c).isSome ∨ (runVector s c).2.poison.isSome ∨ (runVector s c).2.beyond.isSome →
        ∃ t, exec (.skim u q ev) s = .next t ∧ ended t u q c.serial ∧ t.tallies = s.tallies)) ∧
    (vecCmd s u q .admitted true = some c → sweepVacated s c = none → c.dual = false →
      (vectorPoison s c = none → (runVector s c).2.poison = none → (runVector s c).2.beyond = none → ev.times = 0 →
        ∃ t d, exec (.sweep u q ev) s = .next t ∧ findCmd t u q c.serial = some d ∧ d.stage = .held ∧
          d.held = heldBytes (runVector s c).1 ∧ d.flags = (runVector s c).2.fl) ∧
      ((vectorPoison s c).isSome ∨ (runVector s c).2.poison.isSome ∨ (runVector s c).2.beyond.isSome →
        ∃ t, exec (.sweep u q ev) s = .next t ∧ ended t u q c.serial ∧ t.tallies = s.tallies)))

/-- WRITE_BACK stores the held bytes in the order in which they formed, and nothing else outside the completion ring, and completes. A
comparison in which both executions agree leaves the command held for its write-back; a second mismatch, and the first of a command with a
scatter stage, ends it without its add. -/
def Obligations.HeldOutputsAreWritten : Prop :=
  (∀ (s : State) (u q : Nat) (c : Cmd), s.Sound → queueExists u q = true →
    (qCmds s u q).find? (fun c => c.group.vector && c.stage == .held) = some c →
    (joinBytes c.held).find? (fun w => sealedRange s w.1 w.2.length) = none → (c.isSweepCmd = true → sweepVacated s c = none) →
    s.biFilter = [] → s.biHeld = [] →
    ∃ t, exec (.writeBack u q) s = .next t ∧ ended t u q c.serial ∧ (∀ k, tallyGet t k = addedTally c (tallyGet s) k) ∧
      ∀ a, ¬ inRecords s u q a → memByte t a = lastByte c.held a (memByte s a)) ∧
  (∀ (s : State) (u q : Nat) (c : Cmd), vecCmd s u q .parked true = some c →
    (∃ t, exec (.dualCompare u q none) s = .next t ∧ findCmd t u q c.serial = some { c with stage := .held } ∧ t.mem = s.mem) ∧
    (∀ e, c.mismatched = true ∨ chainHas c.desc 8 = true → ∃ t, exec (.dualCompare u q (some e)) s = .next t ∧ ended t u q c.serial ∧ t.tallies = s.tallies))

/-! ### The matrix command (R69, R77, R104 to R107, R124, R135) -/

/-- WEIGHT_TILE_LOAD brings the next weight tile into the shadow registers, behind the tiles that stand there, and touches neither
accumulators nor memory. HAWK_TILE_WRITE appends one tile, of the format of the operand it feeds, to those that stand for the command in its
hawk, which the command then owns. -/
def Obligations.TilesAreLoaded : Prop :=
  (∀ (s : State) (u q : Nat) (c : Cmd), matCmd s u q (loadable s) = some c →
    ∃ t w, exec (.weightTileLoad u q) s = .next t ∧ t.wtiles = s.wtiles ++ [w] ∧ w.active = false ∧ w.tile = nextPass c ∧
      w.fmt = (if weightToBF16 s c.word then 1 else mmWFMT c.word) ∧ w.ncol = mmNCOL c.word ∧ hasShadow t c = true ∧ t.acc = s.acc ∧ t.mem = s.mem) ∧
  (∀ (s : State) (u q h n : Nat) (c : Cmd), h < 2 → hawkJob s u q h = some (c, n) → hawkVacated s c = none →
    ∃ t x, exec (.hawkTileWrite u q h) s = .next t ∧ (getHawk t (u * 2 + h)).tiles = ownTiles s c h ++ [x] ∧
      x.fmt = (if (if mmHwList c.word = [h] then weightToBF16 s c.word else feedToBF16 s c.word) then 1
        else if mmHwList c.word = [h] then mmWFMT c.word else mmAFMT c.word) ∧
      (getHawk t (u * 2 + h)).owner = some (c.u, c.q, c.serial) ∧ t.acc = s.acc ∧ t.mem = s.mem)

/-- PASS: whatever is met in it, it changes accumulator words of the command's working tile alone. A clean pass leaves the command in the
pass; PASS_END then counts it, or, where the command is to be pre-empted before its last pass, sends it back to its admission with its
passes kept only under RES = 1. PASS_END touches no accumulator word. -/
def Obligations.PassesWorkOnTheWorkingTile : Prop :=
  (∀ (s : State) (u q : Nat) (c : Cmd) (ev : MatEvent), s.Sound → matCmd s u q (passReady s) = some c →
    ∃ t, exec (.pass u q ev) s = .next t ∧ (∀ k, ¬ workingWord c k → accGet t k = accGet s k) ∧
      (ev = .clean → (∀ w, activeTile (swapTiles s c) c = some w → passPoison c w (passFeeds s c) = none) →
        ∃ d, findCmd t u q c.serial = some d ∧ d.run.inPass = true ∧ d.run.passes = c.run.passes ∧ d.stage = .admitted)) ∧
  (∀ (s : State) (u q : Nat) (c : Cmd), matCmd s u q (fun c => c.run.inPass) = some c →
    ∃ t d, exec (.passEnd u q) s = .next t ∧ t.acc = s.acc ∧ findCmd t u q c.serial = some d ∧ d.run.inPass = false ∧
      (if c.preemptReq ∧ c.run.passes + 1 ≠ mmPasses c.word
       then d.stage = .issued ∧ d.preempted = true ∧ d.run.passes = (if mmRES c.word then c.run.passes + 1 else 0)
       else d.stage = .admitted ∧ d.run.passes = c.run.passes + 1))

/-- ROW_FORM: whatever is met in it, it changes accumulator words of the working tile alone. A clean row without poison, invalid segment,
uncorrectable word or row check is formed, once, and without ACC its words stay as they are. -/
def Obligations.RowsAreFormed : Prop :=
  ∀ (s : State) (u q : Nat) (c : Cmd) (ev : MatEvent), s.Sound → matCmd s u q (formReady s) = some c →
    ∃ t, exec (.rowForm u q ev) s = .next t ∧ (∀ k, ¬ workingWord c k → accGet t k = accGet s k) ∧
      (ev = .clean → formPoison s c c.run.formed = none → (mmACC c.word = true → c.run.formed = 0 → invalidSegment s c = none) →
        s.accBad = [] → c.checked = false →
        ∃ d, findCmd t u q c.serial = some d ∧ d.run.formed = c.run.formed + 1 ∧ d.run.passes = c.run.passes ∧
          (mmACC c.word = false → ∀ k, accGet t k = accGet s k))

/-- COPY_PHASE gives every word of the resident tile the value of the same word of the working tile, and changes no other word. COMMIT
completes the command, sets the valid bits of a kept tile, and changes no word. A corrected word that is written back awaits it no more and
keeps its value. -/
def Obligations.CopyAndCommit : Prop :=
  (∀ (s : State) (u q : Nat) (c : Cmd), s.Sound → matCmd s u q copyReady = some c → s.accBad = [] → tilesFit c →
    ∃ t d, exec (.copyPhase u q .clean) s = .next t ∧ findCmd t u q c.serial = some d ∧ d.run.copied = true ∧
      (∀ e ∈ mmArrays c.word, ∀ m < mmM c.word, ∀ j < mmWidth c.word,
        accGet t (resKey c e m (mmCol0 c.word + j)) = accGet s (workKey c e m (mmCol0 c.word + j))) ∧
      ∀ k, (∀ e ∈ mmArrays c.word, ∀ m < mmM c.word, ∀ j < mmWidth c.word, k ≠ resKey c e m (mmCol0 c.word + j)) → accGet t k = accGet s k) ∧
  (∀ (s : State) (u q : Nat) (c : Cmd), s.Sound → matCmd s u q commitReady = some c →
    ∃ t, exec (.commit u q) s = .next t ∧ ended t u q c.serial ∧ (∀ k, tallyGet t k = addedTally c (tallyGet s) k) ∧ t.acc = s.acc ∧
      (mmKEEP c.word = true → ∀ e ∈ mmArrays c.word,
        let m := tileMask (mmBANK c.word) (mmHALF c.word) (mmRBASE c.word) (mmRCNT c.word)
        validGet t (mmArrayId c.u c.word e) &&& m = m)) ∧
  (∀ (s : State) (a b r k : Nat), ∃ t, exec (.correctedWordWriteBack a b r k) s = .next t ∧ accKey a b r k ∉ t.accFix ∧
    (∀ x, x ≠ accKey a b r k → (x ∈ t.accFix ↔ x ∈ s.accFix)) ∧ t.acc = s.acc)

/-- MMUL takes the steps of an admitted matrix command that are enabled: where its commit is, it commits. SCREED parks and, where no stream
runs before it, asks for as many tiles as its ring has slots. SCREED_TILE_LAND lands the next tile, widened, in its slot with its scales,
and no other byte; the last tile completes the SCREED. -/
def Obligations.MatrixCommandAndScreed : Prop :=
  (∀ (s : State) (u q : Nat) (c : Cmd), s.Sound → matCmd s u q commitReady = some c → findCmd s u q c.serial = some c →
    ∃ t, exec (.mmul u q) s = .next t ∧ ended t u q c.serial ∧ (∀ k, tallyGet t k = addedTally c (tallyGet s) k) ∧ t.acc = s.acc) ∧
  (∀ (s : State) (u q : Nat) (c : Cmd), runCmd s u q 0x82 = some c → fld c.word 107 105 ≤ 4 →
    ∃ t d x, exec (.screed u q) s = .next t ∧ findCmd t u q c.serial = some d ∧ d.stage = .parked ∧
      getScreed t u (fld c.word 104 104) = some x ∧ x.serial = c.serial ∧ x.src = fld c.word 205 142 ∧ x.nt = fld c.word 129 116 ∧
      x.landed = 0 ∧ x.claimed = 0 ∧ t.mem = s.mem ∧
      (streamsOf s u (fld c.word 104 104) = [] → x.asked = min (fld c.word 129 116) (2 ^ fld c.word 107 105))) ∧
  (∀ (s : State) (core strm n : Nat) (x : Screed) (a b : SendMsg), s.Sound → getScreed s core strm = some x → landedTile s x = some (n, a, b) →
    (widenBytes x.wfmt x.cfmt 16384 (getBytes a)).length = fmtBytes x.cfmt 16384 → (isMX x.cfmt = true → (getBytes b).length = 512) →
    (n + 1 ≠ x.nt →
      ∃ t y, exec (.screedTileLand core strm) s = .next t ∧ getScreed t core strm = some y ∧ y.landed = n + 1 ∧ ∀ k, memByte t k =
        (if isMX x.cfmt = true ∧ scr x.core (screedSlot x n) + fmtBytes x.cfmt 16384 ≤ k ∧ k < scr x.core (screedSlot x n) + fmtBytes x.cfmt 16384 + 512
         then listGet 0 (getBytes b) (k - (scr x.core (screedSlot x n) + fmtBytes x.cfmt 16384))
         else if scr x.core (screedSlot x n) ≤ k ∧ k < scr x.core (screedSlot x n) + fmtBytes x.cfmt 16384
         then listGet 0 (widenBytes x.wfmt x.cfmt 16384 (getBytes a)) (k - scr x.core (screedSlot x n)) else memByte s k)) ∧
    (n + 1 = x.nt → x.completed = false → ∀ c, findCmd s x.u x.q x.serial = some c → c.op = 0x82 → c.stage = .parked →
      ∃ t, exec (.screedTileLand core strm) s = .next t ∧ ended t x.u x.q x.serial ∧ ∀ k, tallyGet t k = addedTally c (tallyGet s) k))

/-! ### Messages of the fabric (R203, R204, R243 to R245, R287, R304 to R317) -/

/-- PUT, GET, ATOMIC and SIGNAL, admitted, send one message and wait for its answer. A PUT or an ATOMIC whose local range has left memory
since its issue ends without its add. -/
def Obligations.FabricCommandsSendOneMessage : Prop :=
  ∀ (s : State) (u q : Nat) (c : Cmd),
    (runCmd s u q 0xA0 = some c →
      (inMemory s (ptLOCAL c.word) (ptLEN c.word) = true → ∃ t, exec (.put u q) s = .next t ∧
        parkedOn s t c { Packet.blank with
          daddr := ptREMOTE c.word, kind := 0, len := ptLEN c.word, rtally := fld c.word 119 106, rten := fld c.word 105 105 == 1, ord := ptORD c.word } (some (ptLOCAL c.word))) ∧
      (inMemory s (ptLOCAL c.word) (ptLEN c.word) = false → ∃ t, exec (.put u q) s = .next t ∧ ended t u q c.serial ∧ t.tallies = s.tallies)) ∧
    (runCmd s u q 0xA1 = some c → ∃ t, exec (.get u q) s = .next t ∧
      parkedOn s t c { Packet.blank with daddr := ptREMOTE c.word, kind := 1, len := ptLEN c.word, ord := ptORD c.word } none) ∧
    (runCmd s u q 0xA2 = some c →
      (inMemory s (atREC c.word) 32 = true → ∃ t, exec (.atomic u q) s = .next t ∧
        parkedOn s t c { Packet.blank with
          daddr := atREMOTE c.word, kind := 2, op := fld c.word 106 104 + fld c.word 108 108 * 8 + fld c.word 107 107 * 16,
          rtally := fld c.word 123 110, rten := fld c.word 109 109 == 1, ord := true } none) ∧
      (inMemory s (atREC c.word) 32 = false → ∃ t, exec (.atomic u q) s = .next t ∧ ended t u q c.serial ∧ t.tallies = s.tallies)) ∧
    (runCmd s u q 0xA3 = some c → ∃ t, exec (.signal u q) s = .next t ∧
      parkedOn s t c { Packet.blank with
        daddr := seres (fld c.word 123 104) 0, kind := 7, rtally := fld c.word 218 205, rten := fld c.word 204 204 == 1,
        ord := true } none)

/-- A whole message with a good CRC, with no message waiting to be sent, no line of its place filtered and its tally free of refusal: a PUT
lands its payload, a GET changes nothing, an ATOMIC replaces its word or adds to a tally, a SIGNAL writes the next slot of the signal ring
and advances its tail; the RTEN add follows, and the receive context is gone. A CRC mismatch, a PUT outside what peers may write, a signal
ring that is full or whose slot is sealed, or a message that finds the tombstone table full, leaves every byte and tally; after a CRC mismatch the context stays, empty. -/
def Obligations.MessagesAreServed : Prop :=
  ∀ (s : State) (spkg msgid : Nat) (r : RecvCtx), s.Sound → (∀ m ∈ s.sends, m.waiting = false) → s.biFilter = [] → s.biHeld = [] →
    (readyRecv s spkg msgid 0 = some r → recvCrcOk r = true → tombsFull s = false →
      (peerWritable s (seresOff (recvHead r).daddr) (recvPayload r).length = true →
        ∃ t, exec (.putMessage spkg msgid) s = .next t ∧ findRecv t spkg msgid = none ∧ (∀ k, tallyGet t k = rtenAdd s r k) ∧
          ∀ a, memByte t a = if seresOff (recvHead r).daddr ≤ a ∧ a < seresOff (recvHead r).daddr + (recvPayload r).length
            then listGet 0 (recvPayload r) (a - seresOff (recvHead r).daddr) else memByte s a) ∧
      (peerWritable s (seresOff (recvHead r).daddr) (recvPayload r).length = false →
        ∃ t, exec (.putMessage spkg msgid) s = .next t ∧ findRecv t spkg msgid = none ∧ t.tallies = s.tallies ∧ t.mem = s.mem)) ∧
    (readyRecv s spkg msgid 0 = some r → recvCrcOk r = false → ∃ t, exec (.putMessage spkg msgid) s = .next t ∧ crcDropped s t r) ∧
    (readyRecv s spkg msgid 1 = some r → recvCrcOk r = false → ∃ t, exec (.getMessage spkg msgid) s = .next t ∧ crcDropped s t r) ∧
    (readyRecv s spkg msgid 2 = some r → recvCrcOk r = false → ∃ t, exec (.atomicMessage spkg msgid) s = .next t ∧ crcDropped s t r) ∧
    (readyRecv s spkg msgid 7 = some r → recvCrcOk r = false → ∃ t, exec (.controlMessage spkg msgid) s = .next t ∧ crcDropped s t r) ∧
    (readyRecv s spkg msgid 1 = some r → recvCrcOk r = true →
      ∃ t, exec (.getMessage spkg msgid) s = .next t ∧ findRecv t spkg msgid = none ∧ t.tallies = s.tallies ∧ t.mem = s.mem ∧ t.tombs = s.tombs) ∧
    (readyRecv s spkg msgid 2 = some r → recvCrcOk r = true → tombsFull s = false →
      (∀ n, n = (if bitOf (recvHead r).op 4 then 8 else 4) → isTallyWord s (seresOff (recvHead r).daddr) 4 = false →
        peerWritable s (seresOff (recvHead r).daddr) n = true → seresOff (recvHead r).daddr % n = 0 → (recvHead r).op % 8 < 4 →
        ¬ ((recvHead r).op % 8 = 1 ∧ n = 8) → badSectors s (seresOff (recvHead r).daddr) n = [] →
        ∃ t, exec (.atomicMessage spkg msgid) s = .next t ∧ findRecv t spkg msgid = none ∧ (∀ k, tallyGet t k = rtenAdd s r k) ∧
          ∀ a, memByte t a = if seresOff (recvHead r).daddr ≤ a ∧ a < seresOff (recvHead r).daddr + n
            then listGet 0 (leBytes n (atomicNew ((recvHead r).op % 8) (8 * n) (memNat s (seresOff (recvHead r).daddr) n) (recvHead r).arg (recvHead r).arg2))
              (a - seresOff (recvHead r).daddr) else memByte s a) ∧
      (∀ n, isTallyWord s (seresOff (recvHead r).daddr) 4 = true → n = (seresOff (recvHead r).daddr - tallyWindow) / 4 → (recvHead r).op % 8 = 0 →
        bitOf (recvHead r).op 4 = false → tallyOwned s n = true → (recvHead r).rten = false →
        ∃ t, exec (.atomicMessage spkg msgid) s = .next t ∧ findRecv t spkg msgid = none ∧ t.mem = s.mem ∧
          ∀ k, tallyGet t k = if k = n then (tallyGet s n + (recvHead r).arg % 2 ^ 32) % 2 ^ 32 else tallyGet s k)) ∧
    (readyRecv s spkg msgid 7 = some r → recvCrcOk r = true → tombsFull s = false → (recvHead r).op = 0 → sigSize s ≠ 0 → inJob s (sigSlot s) 32 = true →
      (sealedRange s (sigSlot s) 32 = true →
        ∃ t, exec (.controlMessage spkg msgid) s = .next t ∧ findRecv t spkg msgid = none ∧ t.tallies = s.tallies ∧ t.mem = s.mem ∧ sigTail t = sigTail s) ∧
      (sealedRange s (sigSlot s) 32 = false → sigFull s = false →
        ∃ t, exec (.controlMessage spkg msgid) s = .next t ∧ findRecv t spkg msgid = none ∧ (∀ k, tallyGet t k = rtenAdd s r k) ∧
          sigTail t = wrap 32 (sigTail s + 1) ∧
          (((recvHead r).rten = true → tallyOwned s (recvHead r).rtally = true) → .msix 1 ∈ t.out) ∧
          ∀ a, memByte t a = if sigSlot s ≤ a ∧ a < sigSlot s + 32 then listGet 0 (leBytes 32 (signalRecord s r)) (a - sigSlot s) else memByte s a) ∧
      (sealedRange s (sigSlot s) 32 = false → sigFull s = true →
        ∃ t, exec (.controlMessage spkg msgid) s = .next t ∧ findRecv t spkg msgid = none ∧ t.tallies = s.tallies ∧ t.mem = s.mem ∧ sigTail t = sigTail s)) ∧
    (∀ i, recvCrcOk r = true → tombsFull s = true →
      (readyRecv s spkg msgid 0 = some r ∧ i = .putMessage spkg msgid ∨ readyRecv s spkg msgid 2 = some r ∧ i = .atomicMessage spkg msgid ∨
        readyRecv s spkg msgid 7 = some r ∧ i = .controlMessage spkg msgid) →
      ∃ t, exec i s = .next t ∧ findRecv t spkg msgid = none ∧ t.tallies = s.tallies ∧ t.mem = s.mem ∧ t.tombs = s.tombs)

/-- ACK completes the command of its message; the old value of an ATOMIC that asked for it is written first. NAK BUSY and NAK NOROUTE leave the
message to its timer; one to this package itself is presented again at once, with no re-send counted (DEDUCED, log 142). NAK INCOMPLETE and
NAK CRC send it again at once while re-sends are left. A message whose payload has left memory is not sent again: its command ends. NAK ADDRESS, NAK TALLY and NAK
POISON end the command without its add. -/
def Obligations.AnswersEndOrRepeat : Prop :=
  (∀ (s : State) (msgid : Nat) (m : SendMsg) (p : Packet) (c : Cmd), s.Sound → hasAnswer s msgid 8 0 m p → ownerCmd s m = some c →
    s.biFilter = [] → s.biHeld = [] → queueExists c.u c.q = true →
    ((c.op ≠ 0xA2 ∨ fld c.word 108 108 = 0) →
      ∃ t, exec (.ack msgid) s = .next t ∧ ended t c.u c.q c.serial ∧ (∀ k, tallyGet t k = addedTally c (tallyGet s) k) ∧
        ((∀ m ∈ s.sends, m.waiting = false) → ∀ a, ¬ inRecords s c.u c.q a → memByte t a = memByte s a)) ∧
    (c.op = 0xA2 → fld c.word 108 108 = 1 → (∀ m ∈ s.sends, m.waiting = false) → inMemory s (atREC c.word + 16) 8 = true → sealedRange s (atREC c.word + 16) 8 = false →
      ∃ t, exec (.ack msgid) s = .next t ∧ ended t c.u c.q c.serial ∧ (∀ k, tallyGet t k = addedTally c (tallyGet s) k) ∧
        ∀ a, ¬ inRecords s c.u c.q a → memByte t a = if atREC c.word + 16 ≤ a ∧ a < atREC c.word + 24
          then listGet 0 (leBytes 8 p.arg) (a - (atREC c.word + 16)) else memByte s a)) ∧
  (∀ (s : State) (msgid : Nat) (m : SendMsg) (p : Packet),
    (hasAnswer s msgid 9 nakBUSY m p →
      (seresPkg m.head.daddr ≠ ownPkg s → ∃ t, exec (.nakBusy msgid) s = .next t ∧ t.sends = s.sends ∧ t.inbox = s.inbox.erase p ∧ t.cmds = s.cmds) ∧
      (seresPkg m.head.daddr = ownPkg s → sourceGone s m = none → ∃ t x, exec (.nakBusy msgid) s = .next t ∧ t.cmds = s.cmds ∧ x ∈ t.sends ∧
        x.msgid = m.msgid ∧ x.resends = m.resends ∧ x.i = m.i) ∧
      (∀ c, seresPkg m.head.daddr = ownPkg s → (sourceGone s m).isSome = true → ownerCmd s m = some c →
        ∃ t, exec (.nakBusy msgid) s = .next t ∧ ended t c.u c.q c.serial ∧ t.tallies = s.tallies)) ∧
    (hasAnswer s msgid 9 nakNOROUTE m p → ∃ t, exec (.nakNoroute msgid) s = .next t ∧ t.sends = s.sends ∧ t.inbox = s.inbox.erase p ∧ t.cmds = s.cmds) ∧
    (hasAnswer s msgid 9 nakINCOMPLETE m p →
      (mayResend s m = true → sourceGone s m = none → ∃ t, exec (.nakIncomplete msgid) s = .next t ∧ sentAgain t m m.i ∧ t.cmds = s.cmds) ∧
      (∀ c, mayResend s m = true → (sourceGone s m).isSome = true → ownerCmd s m = some c →
        ∃ t, exec (.nakIncomplete msgid) s = .next t ∧ ended t c.u c.q c.serial ∧ t.tallies = s.tallies) ∧
      (mayResend s m = false → ∃ t, exec (.nakIncomplete msgid) s = .next t ∧ t.sends = s.sends ∧ t.inbox = s.inbox.erase p ∧ t.cmds = s.cmds)) ∧
    (hasAnswer s msgid 9 nakCRC m p →
      (mayResend s m = true → sourceGone s m = none → ∃ t, exec (.nakCrc msgid) s = .next t ∧ sentAgain t m m.i ∧ t.cmds = s.cmds) ∧
      (∀ c, mayResend s m = true → (sourceGone s m).isSome = true → ownerCmd s m = some c →
        ∃ t, exec (.nakCrc msgid) s = .next t ∧ ended t c.u c.q c.serial ∧ t.tallies = s.tallies) ∧
      (mayResend s m = false → ∃ t, exec (.nakCrc msgid) s = .next t ∧ t.sends = s.sends ∧ t.inbox = s.inbox.erase p ∧ t.cmds = s.cmds))) ∧
  (∀ (s : State) (msgid : Nat) (m : SendMsg) (p : Packet) (c : Cmd), ownerCmd s m = some c → screedOf s m = none →
    (hasAnswer s msgid 9 nakADDRESS m p → ∃ t, exec (.nakAddress msgid) s = .next t ∧ ended t c.u c.q c.serial ∧ t.tallies = s.tallies) ∧
    (hasAnswer s msgid 9 nakTALLY m p → ∃ t, exec (.nakTally msgid) s = .next t ∧ ended t c.u c.q c.serial ∧ t.tallies = s.tallies) ∧
    (hasAnswer s msgid 9 nakPOISON m p → ∃ t, exec (.nakPoison msgid) s = .next t ∧ ended t c.u c.q c.serial ∧ t.tallies = s.tallies))

/-- GET_DATA, when the whole answer of a GET has come with a good CRC, lands its bytes and completes the GET; a bad CRC counts as a timeout: the
packets are discarded, and the GET goes again with the next interval, or ends its command without its add once no re-sends are left. While
packets are missing nothing happens. RESEND_TIMER does the same for any message once its interval has passed, and ends the command of one
whose payload has left memory; before that it changes nothing. -/
def Obligations.GetDataAndTimer : Prop :=
  (∀ (s : State) (msgid : Nat) (m : SendMsg), s.Sound → findSend s msgid = some m → m.head.kind = 1 → getAll m = true → screedOf s m = none →
    (∀ c : Cmd, ownerCmd s m = some c → c.op = 0xA1 → getCrcOk m = true → queueExists c.u c.q = true → s.biFilter = [] → s.biHeld = [] →
      inMemory s (seresOff m.head.arg) (getBytes m).length = true → sealedRange s (seresOff m.head.arg) (getBytes m).length = false →
      ∃ t, exec (.getData msgid) s = .next t ∧ ended t c.u c.q c.serial ∧ (∀ k, tallyGet t k = addedTally c (tallyGet s) k) ∧
        ((∀ m ∈ s.sends, m.waiting = false) → ∀ a, ¬ inRecords s c.u c.q a → memByte t a =
          if seresOff m.head.arg ≤ a ∧ a < seresOff m.head.arg + (getBytes m).length then listGet 0 (getBytes m) (a - seresOff m.head.arg) else memByte s a)) ∧
    (getCrcOk m = false → mayResend s m = true → sourceGone s m = none → seresPkg m.head.daddr ≠ ownPkg s →
      ∃ t x, exec (.getData msgid) s = .next t ∧ x ∈ t.sends ∧ x.msgid = m.msgid ∧ x.got = [] ∧ x.resends = m.resends + 1 ∧ x.i = m.i + 1 ∧
        x.sentAt = s.uptime ∧ t.mem = s.mem ∧ t.cmds = s.cmds) ∧
    (∀ c : Cmd, getCrcOk m = false → mayResend s m = false → ownerCmd s m = some c →
      ∃ t, exec (.getData msgid) s = .next t ∧ ended t c.u c.q c.serial ∧ t.tallies = s.tallies)) ∧
  (∀ (s : State) (msgid : Nat) (m : SendMsg), findSend s msgid = some m → getAll m = false → exec (.getData msgid) s = .next s) ∧
  (∀ (s : State) (msgid : Nat) (m : SendMsg), findSend s msgid = some m →
    (timerDue s m = false → exec (.resendTimer msgid) s = .next s) ∧
    (timerDue s m = true → mayResend s m = true → sourceGone s m = none →
      ∃ t, exec (.resendTimer msgid) s = .next t ∧ sentAgain t m (m.i + 1) ∧ t.cmds = s.cmds) ∧
    (∀ c : Cmd, timerDue s m = true → mayResend s m = true → (sourceGone s m).isSome = true → ownerCmd s m = some c →
      ∃ t, exec (.resendTimer msgid) s = .next t ∧ ended t c.u c.q c.serial ∧ t.tallies = s.tallies) ∧
    (∀ c : Cmd, timerDue s m = true → mayResend s m = false → ownerCmd s m = some c → screedOf s m = none →
      ∃ t, exec (.resendTimer msgid) s = .next t ∧ ended t c.u c.q c.serial ∧ t.tallies = s.tallies))

/-- The timers of a destination: once the gap time has passed a context whose tail has come is answered NAK INCOMPLETE and stays open, and
before it nothing happens; a tombstone ends once its window has passed, and not before; an idle stream record is freed, a busy one is not. -/
def Obligations.DestinationTimers : Prop :=
  (∀ (s : State) (spkg msgid : Nat) (r : RecvCtx), findRecv s spkg msgid = some r → serving s = true → (recvTail r).isSome → recvWhole r = false →
    (r.gainedAt + gapTicks s ≤ s.uptime → ∃ t, exec (.gapTime spkg msgid) s = .next t ∧ t.recvs = s.recvs ∧ t.tombs = s.tombs ∧ t.mem = s.mem ∧
      odGet t 0x5000 0x13 = min cntMax (odGet s 0x5000 0x13 + 1)) ∧
    (s.uptime < r.gainedAt + gapTicks s → exec (.gapTime spkg msgid) s = .next s)) ∧
  (∀ (s : State) (spkg msgid : Nat), ∃ t, exec (.tombstoneExpiry spkg msgid) s = .next t ∧ t.recvs = s.recvs ∧ t.tombs.Sublist s.tombs ∧
    ((∀ x ∈ s.tombs, x.spkg = spkg → x.msgid = msgid → x.madeAt + odGet s 0x5000 0x08 * 100000 ≤ s.uptime) → findTomb t spkg msgid = none) ∧
    ((∀ x ∈ s.tombs, x.spkg = spkg → x.msgid = msgid → s.uptime < x.madeAt + odGet s 0x5000 0x08 * 100000) → t = s) ∧
    ∀ p i, (p ≠ spkg ∨ i ≠ msgid) → findTomb t p i = findTomb s p i) ∧
  (∀ (s : State) (source : Bool) (peer vc : Nat) (r : StreamRec), findStream s source peer vc = some r →
    (streamIdle s r = true → (∀ m ∈ s.sends, m.waiting = false) →
      ∃ t, exec (.streamRecordFree source peer vc) s = .next t ∧ r ∉ t.srecs ∧ ∀ x ∈ s.srecs, x ≠ r → x ∈ t.srecs) ∧
    (streamIdle s r = false → exec (.streamRecordFree source peer vc) s = .next s))

/-- A frame on a port that is UP, whose lanes are bad where their codeword could not be corrected, their receive ring is not LOCKED or their slot
check has failed: one whose control flit fails its check is counted and delivers nothing; one that brings a whole one-flit answer for this
package in slot 0 alone delivers it, and where no packet waits for a port nothing else arrives. -/
def Obligations.FramesDeliver : Prop :=
  ∀ (s : State) (port : Nat) (f0 f : Frame), port < 16 → port < s.ports.length → portUp s port = true →
    f = { f0 with badLanes := frameLanes s port f0 } →
    (ctlGood f = false →
      ∃ t, exec (.frameReceive port f0) s = .next t ∧ t.inbox = s.inbox ∧ t.recvs = s.recvs ∧ t.sends = s.sends ∧
        odGet t (0x5200 + port) 0x05 = min cntMax (odGet s (0x5200 + port) 0x05 + 1)) ∧
    (∀ p : Packet, ctlGood f = true → slotGood f 0 = true → bitOf (slotTag f 0) 7 = true → bitOf (slotTag f 0) 3 = true →
      bitOf (slotTag f 0) 2 = true → bitOf (slotTag f 0) 1 = false → (∀ k, 1 ≤ k → k < 7 → bitOf (slotTag f k) 7 = false) → serving s = true →
      p = packetOf [listGet 0 f.slots 0] (bits (slotTag f 0) 4 3) port → (p.kind = 8 ∨ p.kind = 9) → seresPkg p.daddr = ownPkg s →
      ∃ t, exec (.frameReceive port f0) s = .next t ∧ p ∈ t.inbox ∧ ((∀ x ∈ s.transit, x.port.isSome = true) → t.inbox = s.inbox ++ [p]))

/-- ESCAPE_MOVE sends a packet that has waited for an adaptive port longer than the escape wait by VC 7 of its escape port, and counts it there.
HOP_HOLD_LIMIT drops the first packet that a port has held longer than the hop hold limit, and counts it as stale; with none held that long
nothing happens. Where every packet left has its port and its place, the others stay as they are. -/
def Obligations.HeldPacketsMoveOrDrop : Prop :=
  (∀ (s : State) (port : Nat) (x : Transit), port < 16 → escapee s port = some x → x.port = none → vcStopped s port 7 = false →
    ∃ t, exec (.escapeMove port) s = .next t ∧ ((∀ y ∈ s.transit.erase x, y.port.isSome ∧ y.headAt.isSome) → t.transit = s.transit.erase x) ∧
      (∃ fr, .packet port 7 { x.pkt with vc := 7, hops := x.pkt.hops + 1 } fr ∈ t.out) ∧
      odGet t (0x5200 + port) 0x09 = min cntMax (odGet s (0x5200 + port) 0x09 + 1)) ∧
  (∀ (s : State) (port : Nat) (x : Transit), port < 16 →
    s.transit.find? (fun t => heldBy port t && heldFor s t.since (odGet s 0x5000 0x07 * 1000)) = some x →
    ∃ t, exec (.hopHoldLimit port) s = .next t ∧ ((∀ y ∈ s.transit.erase x, y.port.isSome ∧ y.headAt.isSome) → t.transit = s.transit.erase x) ∧
      odGet t (0x5200 + port) 0x08 = min cntMax (odGet s (0x5200 + port) 0x08 + 1)) ∧
  (∀ (s : State) (port : Nat), (∀ x ∈ s.transit, heldBy port x = true → heldFor s x.since (odGet s 0x5000 0x07 * 1000) = false) →
    exec (.hopHoldLimit port) s = .next s)

/-! ### Power and heat (R409 to R426) -/

/-- What stretches the ARRAY clocks. DROOP, past the die's droop margin, halves the frequency in force on its die, OVERCURRENT on every die;
THERMAL_STRETCH starts from the lower of 3/4 of the set point and the frequency in force, on the dies that its sensor acts on and where its cause is not in force already;
JUNCTION_LIMIT goes to the floor, with CORE at 1.0 GHz; the readings are kept, and one below its threshold stretches nothing. Of a clock at
400 MHz or more a stretch makes none below 400 MHz. A droop within the margin stretches nothing. Without VBULK there is no clock, and nothing
happens. -/
def Obligations.ClocksStretch : Prop :=
  (∀ (s : State) (d below : Nat), d < 4 → bulkOn s = true → droopMargin s d < below →
    ∃ t, exec (.droop ⟨d, below⟩) s = .next t ∧ hasStretch t d 0 = true ∧ arrayFreq t d ≤ max floorFreq (arrayFreq s d / 2) ∧
      (floorFreq ≤ arrayFreq s d → arrayFreq t d = max floorFreq (arrayFreq s d / 2)) ∧
      odGet t (0x2300 + d) 0x0B = (arrayFreq t d + 512) / 1024 ∧ odGet t (0x2300 + d) 0x0E = min cntMax (odGet s (0x2300 + d) 0x0E + 1) ∧
      ∀ e, e ≠ d → arrayFreq t e = arrayFreq s e) ∧
  (∀ (s : State) (x : DroopSense), x.below ≤ droopMargin s x.die → exec (.droop x) s = .next s) ∧
  (∀ (s : State) (watts : Nat), 6700 < watts → bulkOn s = true →
    ∃ t, exec (.overcurrent watts) s = .next t ∧ odGet t 0x2100 0x0C = min cntMax (odGet s 0x2100 0x0C + 1) ∧
      ∀ d, d < 4 → hasStretch t d 1 = true ∧ arrayFreq t d ≤ max floorFreq (arrayFreq s d / 2) ∧
        (floorFreq ≤ arrayFreq s d → arrayFreq t d = max floorFreq (arrayFreq s d / 2))) ∧
  (∀ (s : State) (r : Reading), s.Sound → sensorExists r.site r.sensor = true → bulkOn s = true →
    threshold s (thresholdSub r.site r.sensor + 1) ≤ r.t16 →
    ∃ t, exec (.thermalStretch r) s = .next t ∧ readSensor t r.site r.sensor = r.t16 ∧
      ∀ d, d < 4 → (d ∈ diesOf r → hasStretch t d (thermalCause r) = true ∧
        (hasStretch s d (thermalCause r) = true → arrayFreq t d = arrayFreq s d) ∧
        (hasStretch s d (thermalCause r) = false → arrayFreq t d ≤ max floorFreq (arraySetPoint s d * 768) ∧
          (floorFreq ≤ arrayFreq s d → arrayFreq t d = max floorFreq (min (arraySetPoint s d * 768) (arrayFreq s d))))) ∧
        (d ∉ diesOf r → arrayFreq t d = arrayFreq s d)) ∧
  (∀ (s : State) (r : Reading), r.t16 < threshold s (thresholdSub r.site r.sensor + 1) → exec (.thermalStretch r) s = .next (sense s r)) ∧
  (∀ (s : State) (r : Reading), s.Sound → sensorExists r.site r.sensor = true → bulkOn s = true → isStackSensor r.site r.sensor = false →
    (if r.site < 4 then 1600 else 1520) ≤ r.t16 →
    ∃ t, exec (.junctionLimit r) s = .next t ∧ readSensor t r.site r.sensor = r.t16 ∧
      ∀ d, d ∈ diesOf r → hasStretch t d (if r.site < 4 then 4 else 6) = true ∧ arrayFreq t d ≤ floorFreq ∧ (floorFreq ≤ arrayFreq s d → arrayFreq t d = floorFreq) ∧
        ∀ f, t.coreMHz[d]? = some f → f = 1000) ∧
  (∀ (s : State) (r : Reading), r.t16 < (if r.site < 4 then 1600 else 1520) → exec (.junctionLimit r) s = .next (sense s r)) ∧
  (∀ (s : State) (x : DroopSense) (watts : Nat) (r : Reading), bulkOn s = false → exec (.droop x) s = .next s ∧ exec (.overcurrent watts) s = .next s ∧
    exec (.thermalStretch r) s = .next (sense s r) ∧ exec (.junctionLimit r) s = .next (sense s r))

/-- What releases a stretch. A thermal stretch in force, while a sensor of its row stands at its threshold, goes down by 1/16 of the set point a
step; the release of one whose cause has cleared goes up by as much, each row by itself, and ends at the set point; a cause that clears leaves
no stretch in force. -/
def Obligations.StretchesStepAndRelease : Prop :=
  (∀ (s : State) (d : Nat), ∃ t, exec (.stretchStepDown d) s = .next t ∧ ∀ x ∈ s.stretches,
    (if x.d = d ∧ x.active = true ∧ thermalHolds s d x.cause = true then { x with f := max floorFreq (x.f - sixteenth s d) } else x) ∈ t.stretches) ∧
  (∀ (s : State) (d cause : Nat) (x : Stretch), inRelease s ⟨d, cause⟩ = some x →
    x ∈ s.stretches ∧ x.d = d ∧ x.cause = cause ∧ x.active = false ∧ ∃ t, exec (.stretchReleaseStep ⟨d, cause⟩) s = .next t ∧
      (arraySetPoint s d * 1024 ≤ x.f + sixteenth s d → t.stretches = s.stretches.erase x) ∧
      (x.f + sixteenth s d < arraySetPoint s d * 1024 → { x with f := x.f + sixteenth s d } ∈ t.stretches)) ∧
  (∀ (s : State) (cause d : Nat) (rs : List Reading), cause ≤ 6 → cause ≠ 5 → d < 4 → stretchCleared (senseAll s rs) cause d = true →
    ∃ t, exec (.stretchCauseClears cause d rs) s = .next t ∧ hasStretch t d cause = false) ∧
  (∀ (s : State) (d : Nat) (rs : List Reading), s.trips ≠ [] → (∀ x ∈ s.trips, tripCooled (senseAll s rs) x = true) →
    ∃ t, exec (.stretchCauseClears 5 d rs) s = .next t ∧ t.trips = [] ∧ bitOf (causes t) 1 = false)

/-- Each cause of an emergency appears by its row: EMERG_N (EXT), a trip threshold (THERMAL), 1,000 windows over the limit (LIMIT), VBULK
low (SUPPLY), while no request waits. EMERG_N high again clears EXT, and when it was the last cause the release begins; a release step never
lowers a clock, and ends a stretch at its set point. -/
def Obligations.EmergenciesComeAndGo : Prop :=
  (∀ s : State, s.waitingReqs = [] → s.aonUp = true → bitOf (causes s) 0 = false → ∃ t, exec .emergN s = .next t ∧ emergencyUp s t 0 ∧ t.emergNLow = true) ∧
  (∀ (s : State) (r : Reading), s.waitingReqs = [] → sensorExists r.site r.sensor = true → sensorPowered s r.site r.sensor = true →
    threshold s (thresholdSub r.site r.sensor + 2) ≤ r.t16 → bitOf (causes s) 1 = false →
    ∃ t, exec (.thermalTrip r) s = .next t ∧ emergencyUp s t 1 ∧ (r.site * 256 + r.sensor) ∈ t.trips) ∧
  (∀ (s : State) (m : List Nat) (watts : Nat) (rs : List Reading), s.waitingReqs = [] → bulkOn s = true → s.overWindows = 999 → odGet s 0x2100 0x01 < watts →
    bitOf (causes s) 2 = false → ∃ t, exec (.governorLoop m watts rs) s = .next t ∧ emergencyUp s t 2) ∧
  (∀ (s : State) (mV : Nat), s.waitingReqs = [] → s.aonUp = true → mV < 11000 → bitOf (causes s) 3 = false →
    ∃ t, exec (.vbulkUndervoltage mV) s = .next t ∧ emergencyUp s t 3) ∧
  (∀ s : State, bitOf (causes s) 0 = true → ∃ t, exec .emergNReturnsHigh s = .next t ∧ bitOf (causes t) 0 = false ∧ t.emergNLow = false ∧
    (causes s = 1 → causes t = 0 ∧ t.releasing = true ∧ t.emergAt = s.uptime ∧ ∀ d, d < 4 → hasStretch t d 5 = false)) ∧
  (∀ (s : State) (watts : Nat), s.releasing = true → causes s = 0 → 10 * watts ≤ 9 * odGet s 0x2100 0x03 →
    ∃ t, exec (.emergencyReleaseStep watts) s = .next t ∧ (∀ d, d < 4 → arrayFreq s d ≤ arrayFreq t d) ∧
      ((∀ x ∈ s.stretches, x.cause = 5 → arraySetPoint s x.d * 1024 ≤ x.f + sixteenth s x.d) → ∀ x ∈ t.stretches, x.cause ≠ 5))

/-- The control loops. A governor window shows the watts and the limit factor, and prices each die by its ratio, its thermal factor and
the limit factor. The policy loop shows the uncharged power, its input less the dynamic energy of the dies, and the load band, and under AUTO gives each die its share and the set points.
A calibration refresh that is due begins, REFRESHING, and when it is done tags the calibration anew and counts it; that of a fibre port's power
path takes the last stage readings as its references. -/
def Obligations.ControlLoopsRun : Prop :=
  (∀ (s : State) (m : List Nat) (watts : Nat) (rs : List Reading), s.waitingReqs = [] → bulkOn s = true →
    ∃ t, exec (.governorLoop m watts rs) s = .next t ∧ odGet t 0x2100 0x07 = watts ∧ odGet t 0x2100 0x09 = nextLambda s watts ∧
      ∀ d, d < 4 → odGet t (0x2300 + d) 0x03 = nextPrice (odGet t (0x2300 + d) 0x0D) (odGet t 0x2100 0x09) (theta t d)) ∧
  (∀ (s : State) (v u w : Nat) (refs : List Int), u = uncharged s v → bulkOn s = true → s.fwRuns = true → odGet s 0x8000 0x09 ≠ 3 →
    ∃ t, exec (.policyLoop v w refs) s = .next t ∧ odGet t 0x2100 0x08 = u ∧ odGet t 0x2100 0x0A = min 7 (w / 700) ∧
      (odGet s 0x2100 0x04 = 0 → t.arraySet = [1500, 1500, 1500, 1500] ∧ t.coreSet = [1800, 1800, 1800, 1800] ∧
        (s.allocHeld = none → odGet t 0x2100 0x02 = autoAllocs s u))) ∧
  (∀ (s : State) (i : Nat) (temp : Int), s.refreshes.any (fun r => r.1 == i) = true → causes s = 0 → refreshDue s i = true →
    ∃ t, exec (.calibrationRefresh ⟨i, false⟩ temp) s = .next t ∧ odGet t i 0x03 = 2 ∧ t.refreshes = s.refreshes) ∧
  (∀ (s : State) (i : Nat) (temp : Int), calIndexes.contains i = true → odGet s i 0x03 = 2 →
    ∃ t, exec (.calibrationRefresh ⟨i, true⟩ temp) s = .next t ∧ odGet t i 0x02 = s.uptime ∧ tagValid (odGet t i 0x01) = true ∧
      guarded t i = false ∧ odGet t i 0x04 = min cntMax (odGet s i 0x04 + 1) ∧ t.refreshes.any (fun r => r.1 == i) = false ∧
      ∀ p, p < 16 → p < s.ports.length → i = 0xA010 + p → (getPort t p).refs = (getPort s p).last.orElse (fun _ => (getPort s p).refs))

/-! ### Object dictionary: the job's entries (R57, R195, R196, R205, R211, R212, R350, R373) -/

/-- The writes of the job's entries, once every check but that of rights has passed. A context restarts; the partition table, a ring's base or
size, a tail, a tally, the SR seed and the backup map take the value. The table and the map are the host's: where a path of another class carries
them in two pieces, the answer is RIGHTS and they stand. -/
def Obligations.JobEntriesAreWritten : Prop :=
  (∀ (s : State) (p : Path) (row : OdRow) (ctx v : Nat), ctx < 16 → v ≠ 0 → writable s p (0x9010 + ctx) 0x02 1 v row →
    ∃ t, exec (.contextRestart p ctx v) s = .next t ∧ writeOutcome s t p (0x9010 + ctx) 0x02 1 v row odOK (ctxState t ctx = 1)) ∧
  (∀ (s : State) (p : Path) (row : OdRow) (len v : Nat), writable s p 0x9000 0x03 len v row →
    ∃ t, exec (.partitionTableWrite p len v) s = .next t ∧ writeOutcome s t p 0x9000 0x03 len v row odOK (odGet t 0x9000 0x03 = v)) ∧
  (∀ (s : State) (p : Path) (row : OdRow) (u q v : Nat), queueExists u q = true → writable s p (queueIndex u) (q * 16 + 1) 8 v row →
    ∃ t, exec (.ringBaseWrite p u q false v) s = .next t ∧
      writeOutcome s t p (queueIndex u) (q * 16 + 1) 8 v row odOK (qGet t u q 1 = v ∧ qGet t u q 4 = 0 ∧ qGet t u q 5 = 0)) ∧
  (∀ (s : State) (p : Path) (row : OdRow) (u q v : Nat), queueExists u q = true → writable s p (queueIndex u) (q * 16 + 2) 1 v row →
    ∃ t, exec (.ringBaseWrite p u q true v) s = .next t ∧
      writeOutcome s t p (queueIndex u) (q * 16 + 2) 1 v row odOK (qGet t u q 2 = v ∧ qGet t u q 4 = 0 ∧ qGet t u q 5 = 0)) ∧
  (∀ (s : State) (p : Path) (row : OdRow) (u q v : Nat), queueExists u q = true → writable s p (queueIndex u) (q * 16 + 5) 4 v row →
    tailOk s u q v = true →
    ∃ t, exec (.tailWrite p u q v) s = .next t ∧ writeOutcome s t p (queueIndex u) (q * 16 + 5) 4 v row odOK
      (qGet t u q 5 = v ∧ (queueLive s u q = true → qGet t u q 6 = if qGet s u q 4 = v then 1 else 2))) ∧
  (∀ (s : State) (p : Path) (row : OdRow) (v : Nat), s.Sound → writable s p 0x9300 0x02 4 v row →
    ∃ t, exec (.tallyWrite p v) s = .next t ∧ writeOutcome s t p 0x9300 0x02 4 v row odOK
      (∀ k, tallyGet t k = if k = selectedTally s p then v else tallyGet s k)) ∧
  (∀ (s : State) (p : Path) (row : OdRow) (v : Nat), writable s p 0x9000 0x02 8 v row →
    ∃ t, exec (.srSeedWrite p v) s = .next t ∧ writeOutcome s t p 0x9000 0x02 8 v row odOK (odGet t 0x9000 0x02 = v ∧ t.seedPending = true)) ∧
  (∀ (s : State) (p : Path) (row : OdRow) (v : Nat), writable s p 0x9200 0x01 2048 v row →
    ∃ t, exec (.backupMapWrite p v) s = .next t ∧ writeOutcome s t p 0x9200 0x01 2048 v row odOK (odGet t 0x9200 0x01 = v)) ∧
  (∀ (s : State) (p : Path) (row : OdRow) (len v : Nat), writableInPieces s p 0x9000 0x03 len v row →
    ∃ t, exec (.partitionTableWrite p len v) s = .next t ∧ .odResponse p 0x9000 0x03 odRIGHTS 0 0 0 [] ∈ t.out ∧
      odGet t 0x9000 0x03 = odGet s 0x9000 0x03 ∧ t.mem = s.mem) ∧
  (∀ (s : State) (p : Path) (row : OdRow) (v : Nat), writableInPieces s p 0x9200 0x01 2048 v row →
    ∃ t, exec (.backupMapWrite p v) s = .next t ∧ .odResponse p 0x9200 0x01 odRIGHTS 0 0 0 [] ∈ t.out ∧
      odGet t 0x9200 0x01 = odGet s 0x9200 0x01 ∧ t.mem = s.mem)

/-- The binding of channels. A bind that meets no refusal makes the channel BOUND; one that does is answered STATE and shows its reason. An
unbind leaves no channel of that number. -/
def Obligations.ChannelsAreBound : Prop :=
  (∀ (s : State) (p : Path) (row : OdRow) (ch : Nat), ch < 64 → writable s p (0x9100 + ch) 0x03 1 1 row →
    (bindRefusal s ch = 0 → ∃ t, exec (.channelBind p ch) s = .next t ∧ writeOutcome s t p (0x9100 + ch) 0x03 1 1 row odOK
      (odGet t (0x9100 + ch) 0x01 = 1 ∧ ∃ k ∈ t.chans, k.id = ch ∧ k.crecord = odGet s (0x9100 + ch) 0x02 ∧ k.run = none)) ∧
    (bindRefusal s ch ≠ 0 → ∃ t, exec (.channelBind p ch) s = .next t ∧ writeOutcome s t p (0x9100 + ch) 0x03 1 1 row odSTATE
      (odGet t (0x9100 + ch) 0x06 = bindRefusal s ch))) ∧
  (∀ (s : State) (p : Path) (row : OdRow) (ch : Nat), ch < 64 → writable s p (0x9100 + ch) 0x03 1 0 row →
    ∃ t, exec (.channelUnbind p ch) s = .next t ∧ writeOutcome s t p (0x9100 + ch) 0x03 1 0 row odOK
      (odGet t (0x9100 + ch) 0x01 = 0 ∧ (∀ k ∈ t.chans, k.id ≠ ch) ∧ ∀ k ∈ s.chans, k.id ≠ ch → k ∈ t.chans))

/-! ### Object dictionary: settings of the package (R288, R302, R341, R345, R421, R424, R432, R446, R451) -/

/-- The writes of the package's settings, once every check but that of rights has passed. The package number and a port's enable take the
value; routes that have no fault are swapped with those in force, and a faulty set is answered RANGE and shown; a re-key request makes
ISOLATED ports train; the emergency request raises or clears REQUEST; a refresh is scheduled; named snags clear and the others stay; a named
counter is 0, or 1 where it counts the very request that resets it; the recorder's ring freezes and runs again. -/
def Obligations.SettingsAreWritten : Prop :=
  (∀ (s : State) (p : Path) (row : OdRow) (v : Nat), writable s p 0x5000 0x01 4 v row →
    ∃ t, exec (.packageNumberWrite p v) s = .next t ∧ writeOutcome s t p 0x5000 0x01 4 v row odOK
      (odGet t 0x5000 0x01 = v ∧ (v = 0xFFFFF → odGet t 0x5000 0x02 = 0))) ∧
  (∀ (s : State) (p : Path) (row : OdRow) (v : Nat), v ≠ 0 → writable s p 0x5100 0x04 1 v row →
    (setRefusal s = none → ∃ t, exec (.routeActivate p v) s = .next t ∧ writeOutcome s t p 0x5100 0x04 1 v row odOK
      (odGet t 0x5100 0x05 = (odGet s 0x5100 0x05 + 1) % 2 ^ 32 ∧ odGet t 0x5000 0x02 = 2 ∧
        odGet t 0x5100 0x07 = odGet s 0x5100 0x01 % 2 ^ 128 + odGet s 0x5100 0x02 % 2 ^ 16384 * 2 ^ 128 + odGet s 0x5100 0x03 % 2 ^ 16384 * 2 ^ 16512 ∧
        odGet t 0x5100 0x01 = bits (odGet s 0x5100 0x07) 0 128)) ∧
    (∀ n, setRefusal s = some n → ∃ t, exec (.routeActivate p v) s = .next t ∧ writeOutcome s t p 0x5100 0x04 1 v row odRANGE
      (odGet t 0x5100 0x06 = n ∧ odGet t 0x5100 0x05 = odGet s 0x5100 0x05 ∧ odGet t 0x5100 0x07 = odGet s 0x5100 0x07))) ∧
  (∀ (s : State) (p : Path) (row : OdRow) (v : Nat), writable s p 0x5300 0x03 2 v row →
    ∃ t, exec (.reKeyRequest p v) s = .next t ∧ writeOutcome s t p 0x5300 0x03 2 v row odOK
      (∀ port, port < 16 → portState s port = 4 → portState t port = if bitOf v port then 1 else 4)) ∧
  (∀ (s : State) (p : Path) (row : OdRow) (port v : Nat), port < 16 → writable s p (0x5200 + port) 0x0C 1 v row →
    ∃ t, exec (.portEnableWrite p port v) s = .next t ∧ writeOutcome s t p (0x5200 + port) 0x0C 1 v row odOK
      (odGet t (0x5200 + port) 0x0C = v ∧ (v = 0 → portState t port = 0))) ∧
  (∀ (s : State) (p : Path) (row : OdRow) (v : Nat), writable s p 0x2100 0x06 1 v row →
    ∃ t, exec (.emergencyRequest p v) s = .next t ∧ writeOutcome s t p 0x2100 0x06 1 v row odOK (bitOf (causes t) 4 = (v != 0))) ∧
  (∀ (s : State) (p : Path) (row : OdRow) (i v : Nat), calIndexes.contains i = true → v ≠ 0 → writable s p i 0x05 1 v row →
    ∃ t, exec (.refreshRequest p i v) s = .next t ∧ writeOutcome s t p i 0x05 1 v row odOK (t.refreshes.any (fun r => r.1 == i) = true)) ∧
  (∀ (s : State) (p : Path) (row : OdRow) (v : Nat), countsOn s p → writable s p 0x7000 0x02 32 v row →
    ∃ t, exec (.snagClear p v) s = .next t ∧ writeOutcome s t p 0x7000 0x02 32 v row odOK
      ((s.dust = true → odGet s 0x7A00 0x04 + 256 < cntMax) → ∀ b, b < 256 → bitOf (odGet t 0x7000 0x01) b = (bitOf (odGet s 0x7000 0x01) b && !bitOf v b))) ∧
  (∀ (s : State) (p : Path) (row : OdRow) (v : Nat), countsOn s p → writable s p 0x7400 0x01 4 v row →
    ∃ t, exec (.counterReset p v) s = .next t ∧ writeOutcome s t p 0x7400 0x01 4 v row odOK
      (odGet t (bits v 16 16) (bits v 0 8) = afterReset p (odKey (bits v 16 16) (bits v 0 8)))) ∧
  (∀ (s : State) (p : Path) (row : OdRow), countsOn s p → writable s p 0x7A00 0x01 1 1 row →
    ∃ t, exec (.dustSheetLay p) s = .next t ∧ writeOutcome s t p 0x7A00 0x01 1 1 row odOK (t.dust = true ∧ t.ring = s.ring)) ∧
  (∀ (s : State) (p : Path) (row : OdRow), writable s p 0x7A00 0x01 1 0 row →
    ∃ t, exec (.dustSheetLift p) s = .next t ∧ writeOutcome s t p 0x7A00 0x01 1 0 row odOK (t.dust = false ∧ (s.dust = true → t.heldEvents = [])))

/-! ### Images, attachment, activation and security (R494 to R509) -/

/-- The writes of the firmware controls, once every check but that of rights has passed. An attach and a FRESH show their result and raise
vector 2; a detach leaves the package Orphaned; a load that meets no fault runs the image that the host delivered and ends start-up step 4, a
stage holds it; an activation is deferred or quiesces at once, and a cancel ends one that is deferred; the key hash takes the value; a challenge
uses one signature index and is being signed, or is answered UNAVAILABLE, or BUSY while another is being signed. -/
def Obligations.FirmwareRequestsAct : Prop :=
  (∀ (s : State) (p : Path) (row : OdRow), writable s p 0x8000 0x13 1 1 row →
    ∃ t, exec (.attach p) s = .next t ∧ writeOutcome s t p 0x8000 0x13 1 1 row odOK
      (odGet t 0x8000 0x14 = attachResult s (orphaned s) ∧ .msix 2 ∈ t.out ∧
        (attachResult s (orphaned s) = 0 → attached t = true ∧ t.features = commonFeatures s))) ∧
  (∀ (s : State) (p : Path) (row : OdRow), writable s p 0x8000 0x13 1 2 row →
    ∃ t, exec (.fresh p) s = .next t ∧ writeOutcome s t p 0x8000 0x13 1 2 row odOK
      (odGet t 0x9000 0x03 = 0 ∧ odGet t 0x8000 0x14 = attachResult s false ∧ .msix 2 ∈ t.out ∧ t.draining = [])) ∧
  (∀ (s : State) (p : Path) (row : OdRow), writable s p 0x8000 0x13 1 3 row →
    ∃ t, exec (.detach p) s = .next t ∧ writeOutcome s t p 0x8000 0x13 1 3 row odOK (orphaned t = true)) ∧
  (∀ (s : State) (p : Path) (row : OdRow) (image : Option (List Byte)), writable s p 0x8000 0x07 1 1 row →
    ∃ t, exec (.load p image) s = .next t ∧ writeOutcome s t p 0x8000 0x07 1 1 row odOK
      (odGet t 0x8000 0x08 = imageResult s (fetchedImage s image) false 1 ∧
        ∀ x, fetchedImage s image = some x → imageResult s (some x) false 1 = 1 → t.fwRuns = true ∧ startStep t = 5 ∧ t.image = x.take 4096)) ∧
  (∀ (s : State) (p : Path) (row : OdRow) (image : Option (List Byte)), writable s p 0x8000 0x07 1 2 row →
    ∃ t, exec (.stage p image) s = .next t ∧ writeOutcome s t p 0x8000 0x07 1 2 row odOK
      (odGet t 0x8000 0x08 = imageResult s (fetchedImage s image) true 2 ∧
        t.staged = if imageResult s (fetchedImage s image) true 2 = 2 ∧ (fetchedImage s image).isSome then fetchedImage s image else s.staged)) ∧
  (∀ (s : State) (p : Path) (row : OdRow), writable s p 0x8000 0x09 1 1 row →
    ∃ t, exec (.activationRequest p) s = .next t ∧ writeOutcome s t p 0x8000 0x09 1 1 row odOK
      (odGet t 0x8000 0x09 = if mustDefer s then 1 else 2)) ∧
  (∀ (s : State) (p : Path) (row : OdRow), writable s p 0x8000 0x09 1 0 row → odGet s 0x8000 0x09 = 1 →
    ∃ t, exec (.activationCancel p) s = .next t ∧ writeOutcome s t p 0x8000 0x09 1 0 row odOK
      (odGet t 0x8000 0x09 = 0 ∧ odGet t 0x8000 0x0B = 3 ∧ t.staged = s.staged)) ∧
  (∀ (s : State) (p : Path) (row : OdRow) (v : Nat), writable s p 0x8100 0x02 32 v row →
    ∃ t, exec (.operatorKeyHashWrite p v) s = .next t ∧ writeOutcome s t p 0x8100 0x02 32 v row odOK (odGet t 0x8100 0x02 = v)) ∧
  (∀ (s : State) (p : Path) (row : OdRow) (v : Nat) (ok : Bool), writable s p 0x8200 0x03 32 v row →
    ∃ t, exec (.attestationChallenge p v ok) s = .next t ∧
      (ok = true → s.sigIndex < 2 ^ 40 → s.signing = none →
        writeOutcome s t p 0x8200 0x03 32 v row odOK (t.sigIndex = s.sigIndex + 1 ∧ (getReq t p).challenge = v ∧
          ∃ e due, t.signing = some (requesterOf p, e, due) ∧ s.uptime < due ∧ due ≤ s.uptime + 30 * msTicks)) ∧
      (s.signing.isSome → writeOutcome s t p 0x8200 0x03 32 v row odBUSY (t.sigIndex = s.sigIndex ∧ t.signing = s.signing ∧ odKept s t p)) ∧
      (ok = false ∨ 2 ^ 40 ≤ s.sigIndex → s.signing = none →
        writeOutcome s t p 0x8200 0x03 32 v row odUNAVAILABLE (t.sigIndex = s.sigIndex ∧ odKept s t p)))

/-- The course of an activation (R503). A deferral ends once nothing defers it; the blackout begins; at its end, no request waiting, the
activation is over with its result and its length shown, and vector 2 is raised: with result 1 the staged image runs, with result 2 the
image from before. -/
def Obligations.ActivationsRun : Prop :=
  (∀ s : State, odGet s 0x8000 0x09 = 1 → mustDefer s = false → ∃ t, exec .quiescing s = .next t ∧ odGet t 0x8000 0x09 = 2) ∧
  (∀ (s : State) (us : Nat), odGet s 0x8000 0x09 = 2 → ∃ t, exec (.blackout us) s = .next t ∧ odGet t 0x8000 0x09 = 3 ∧ t.staged = s.staged) ∧
  (∀ (s : State) (us : Nat) (x : List Byte), odGet s 0x8000 0x09 = 3 → us ≤ 2000 → s.waitingReqs = [] → s.staged = some x →
    ∃ t, exec (.blackout us) s = .next t ∧ odGet t 0x8000 0x09 = 0 ∧ odGet t 0x8000 0x0B = 1 ∧ odGet t 0x8000 0x17 = us ∧
      odGet t 0x8000 0x0A = odGet s 0x8000 0x0A + 1 ∧ t.image = x.take 4096 ∧ t.staged = none ∧ .msix 2 ∈ t.out) ∧
  (∀ (s : State) (us : Nat), odGet s 0x8000 0x09 = 3 → us ≤ 2000 → s.waitingReqs = [] →
    ∃ t, exec (.newImageStartTimeout us) s = .next t ∧ odGet t 0x8000 0x09 = 0 ∧ odGet t 0x8000 0x0B = 2 ∧ odGet t 0x8000 0x17 = us ∧
      t.image = s.image ∧ t.staged = s.staged ∧ .msix 2 ∈ t.out)

/-! ### Authorized writes (R263, R282, R435, R436, R442, R453, R467, R505 to R507) -/

/-- The AUTH WRITEs, once every check but those of rights and token has passed. While no message waits to go out, a stack in service starts
its retirement; a core is FENCED, or is to be scanned at the next start; a field pattern is kept; the archive and the ring are erased and a
freeze ends, and where none held the ring then holds the clear record, whose number goes on from the last and which names it, and the record
of the write alone; the security version count becomes the running image's or stays where it is already at least that; the debug lock takes
the value; a module is tried again at the next start. -/
def Obligations.AuthorizedWritesAct : Prop :=
  (∀ (s : State) (p : Path) (row : OdRow) (v : Nat) (token : List Byte), v < 24 → (∀ m ∈ s.sends, m.waiting = false) →
    authorizable s p 0x4000 0x09 (leBytes 1 v) token row → ∃ t, exec (.retireStack p v token) s = .next t ∧
      authOutcome s t p 0x4000 0x09 (leBytes 1 v) token row (stackState t v = 1 ∧ t.retirements = s.retirements + 1)) ∧
  (∀ (s : State) (p : Path) (row : OdRow) (v : Nat) (token : List Byte), v < 128 → (∀ x, s.testing = some (v, some x) → x ≠ v) →
    authorizable s p 0x7200 0x09 (leBytes 1 v) token row → ∃ t, exec (.fenceCore p v token) s = .next t ∧
      authOutcome s t p 0x7200 0x09 (leBytes 1 v) token row (coreState t v = 3 ∧ v ∈ t.flashFenced)) ∧
  (∀ (s : State) (p : Path) (row : OdRow) (v : Nat) (token : List Byte), v < 128 →
    authorizable s p 0x7200 0x0A (leBytes 1 v) token row → ∃ t, exec (.unfenceCore p v token) s = .next t ∧
      authOutcome s t p 0x7200 0x0A (leBytes 1 v) token row (v ∈ t.rescan ∧ coreState t v = coreState s v)) ∧
  (∀ (s : State) (p : Path) (row : OdRow) (pattern token : List Byte),
    authorizable s p 0x7200 0x0F pattern token row → ∃ t, exec (.installFieldPattern p pattern token) s = .next t ∧
      authOutcome s t p 0x7200 0x0F pattern token row (pattern ∈ t.patterns ∧ odGet t 0x7200 0x0D = t.patterns.length)) ∧
  (∀ (s : State) (p : Path) (row : OdRow) (token : List Byte), countsOn s p →
    authorizable s p 0x7A00 0x03 [] token row → ∃ t, exec (.clearRecorder p token) s = .next t ∧
      authOutcome s t p 0x7A00 0x03 [] token row (t.archive = [] ∧ t.dust = false ∧ (∀ r ∈ t.ring, s.nextSeq ≤ r.seq) ∧
        (s.dust = false → ∃ r a, t.ring = [r, a] ∧ r.kind = 5 ∧ r.seq = s.nextSeq ∧ r.extra = lastSeq s ∧ a.kind = 8 ∧ a.seq = s.nextSeq + 1))) ∧
  (∀ (s : State) (p : Path) (row : OdRow) (v : Nat) (token : List Byte), v < 256 →
    authorizable s p 0x8000 0x0C (leBytes 1 v) token row → ∃ t, exec (.commitSecurityVersion p v token) s = .next t ∧
      authOutcome s t p 0x8000 0x0C (leBytes 1 v) token row (odGet t 0x8100 0x05 = max (odGet s 0x8100 0x05) (odGet s 0x8000 0x04))) ∧
  (∀ (s : State) (p : Path) (row : OdRow) (v : Nat) (token : List Byte), v < 256 →
    authorizable s p 0x8100 0x04 (leBytes 1 v) token row → ∃ t, exec (.lockDebug p v token) s = .next t ∧
      authOutcome s t p 0x8100 0x04 (leBytes 1 v) token row (odGet t 0x8100 0x04 = v)) ∧
  (∀ (s : State) (p : Path) (row : OdRow) (d v : Nat) (token : List Byte), d < 4 → v < 256 →
    authorizable s p (0x3800 + d) 0x08 (leBytes 1 v) token row → ∃ t, exec (.clearLaneRecord p d v token) s = .next t ∧
      authOutcome s t p (0x3800 + d) 0x08 (leBytes 1 v) token row (modKey d v ∈ t.retryLanes))

/-! ### Object dictionary requests as they arrive (R452, R463 to R478, R492) -/

/-- Every request that is served is answered. A READ that has the right delivers the value and writes nothing; a record read delivers the
record at the requester's pointer and moves the pointer on; a META delivers 24 bytes; a WRITE and an AUTH WRITE of an entry without a row of
its own write it. A request from a job page leaves its answer in the page. A REQUEST datagram of an open Hasowa session is answered when its
sequence number is later than the last; one that repeats the last, where none waits, gets the stored response. -/
def Obligations.RequestsAreAnswered : Prop :=
  (∀ (s : State) (p : Path) (r : OdReq), servedNow s p = true →
    (∃ t, exec (.odRead p r) s = .next t ∧ answeredTo t p r) ∧ (∃ t, exec (.odWrite p r) s = .next t ∧ answeredTo t p r) ∧
    (∃ t, exec (.odMeta p r) s = .next t ∧ answeredTo t p r) ∧ (∃ t, exec (.authWrite p r) s = .next t ∧ answeredTo t p r)) ∧
  (∀ (s : State) (p : Path) (r : OdReq) (row : OdRow), readable s p r row → row.pieces = false → ∃ t, exec (.odRead p r) s = .next t ∧
    odKept s t p ∧ t.mem = s.mem ∧
    if rightsOk s p r row false = true then
      .odResponse p r.index r.sub odOK 0 row.size r.tag (leBytes row.size (odValue s (getReq s p) r.index r.sub)) ∈ t.out
    else .odResponse p r.index r.sub odRIGHTS r.offset 0 r.tag [] ∈ t.out) ∧
  (∀ (s : State) (p : Path) (row : OdRow), readable s p (readReq 0x7A00 0x06 64) row → row.pieces = true →
    ∃ t, exec (.recordRead p) s = .next t ∧ (rightsOk s p (readReq 0x7A00 0x06 64) row false = true →
      (∃ n, .odResponse p 0x7A00 0x06 odOK 0 n 0
        ((leBytes row.size (readRecord s.ring (selectOf (getReq s p) 0x7A00 0x02)).1).take 64) ∈ t.out) ∧
      selectOf (getReq t p) 0x7A00 0x02 = (readRecord s.ring (selectOf (getReq s p) 0x7A00 0x02)).2)) ∧
  (∀ (s : State) (p : Path) (row : OdRow), readable s p (readReq 0x7A10 0x02 64) row → row.pieces = true →
    ∃ t, exec (.archiveRead p) s = .next t ∧ (rightsOk s p (readReq 0x7A10 0x02 64) row false = true →
      (∃ n, .odResponse p 0x7A10 0x02 odOK 0 n 0
        ((leBytes row.size (readRecord s.archive (selectOf (getReq s p) 0x7A10 0x01)).1).take 64) ∈ t.out) ∧
      selectOf (getReq t p) 0x7A10 0x01 = (readRecord s.archive (selectOf (getReq s p) 0x7A10 0x01)).2)) ∧
  (∀ (s : State) (p : Path) (r : OdReq) (row : OdRow), servedNow s p = true → odPresent r.index = true → rowOf r.index r.sub = some row →
    malformed p (withOp r 2) = false → available s r.index = true → ∃ t, exec (.odMeta p r) s = .next t ∧ odKept s t p ∧ t.mem = s.mem ∧
      ((rightsOk s p r row false || rightsOk s p r row true) = true →
        ∃ data, data.length = 24 ∧ .odResponse p r.index r.sub odOK r.offset 24 r.tag data ∈ t.out)) ∧
  (∀ (s : State) (p : Path) (row : OdRow) (v : Nat), writable s p 0x6100 0x01 4 v row →
    ∃ t, exec (.odWrite p (writeReq 0x6100 0x01 4 v)) s = .next t ∧ writeOutcome s t p 0x6100 0x01 4 v row odOK (odGet t 0x6100 0x01 = v)) ∧
  (∀ (s : State) (p : Path) (row : OdRow) (v : Nat) (token : List Byte), v < 256 → authorizable s p 0x8100 0x04 (leBytes 1 v) token row →
    ∃ t, exec (.authWrite p (authReq 0x8100 0x04 (leBytes 1 v) token)) s = .next t ∧
      authOutcome s t p 0x8100 0x04 (leBytes 1 v) token row (odGet t 0x8100 0x04 = v)) ∧
  (∀ (s : State) (ctx : Nat) (r : OdReq), ctx < 16 → pageState s ctx ≠ 1 → servedNow s (.job ctx false) = true →
    ∃ t, exec (.jobPageDoorbell ctx 1 r) s = .next t ∧ answeredTo t (.job ctx false) r ∧ t.jobPages.any (fun x => x.1 == ctx) = true) ∧
  (∀ (s : State) (n seq : Nat) (head : HasowaHead) (source : BitVec 128) (r : OdReq) (x : Session), s.romRuns = true →
    holdsRequests s = false → isRequest n head = true → permitted s source = true → findSession s n = some x →
    (later32 (seq % 2 ^ 32) x.lastSeq = true → x.stored = [] ∨ seq % 2 ^ 32 ≠ x.served →
      ∃ t, exec (.hasowaRequest n seq head source r) s = .next t ∧ answeredTo t (.hasowa n false) r) ∧
    (seq % 2 ^ 32 = x.served → x.stored ≠ [] → ∃ t, exec (.hasowaRequest n seq head source r) s = .next t ∧ (∀ o ∈ x.stored, o ∈ t.out) ∧
      odGet t 0x6800 0x09 = min cntMax (odGet s 0x6800 0x09 + 1)))

/-- The rest of the management rows. An unsupported mailbox opcode is answered so, and changes nothing; pieces staged without LAST are dropped
after 10 s and not before; a session without a request for 60 s closes, and not before; a DISCOVER is answered by one ANNOUNCE; a beacon lost
and returned shows in the state of the management port, and its loss is counted; a write to the hot window, whatever its place, size and value,
is discarded and counted. Every other entry outside the recorder, all memory and every tally stay. An aligned word written to a CXL component
register or to the MSI-X table reads back, and the decoder's control register commits the window by its bit 9 (PRESUMED, log 175). -/
def Obligations.ManagementPathsRun : Prop :=
  (∀ (s : State) (op : Nat), answered s (.mailbox false) = true → ¬ (0xC000 ≤ op ∧ op ≤ 0xC003) →
    ∃ t, exec (.unsupportedMailboxOpcode op) s = .next t ∧ t.out = s.out ++ [.returnCode true] ∧ ∀ k : Kind, k ≠ .output → k.same s t) ∧
  (∀ (s : State) (p : Path), (getReq s p).staged.isSome = true → (getReq s p).stagedAt + 10000 * msTicks ≤ s.uptime →
    ∃ t, exec (.stagingTimeout p) s = .next t ∧ (getReq t p).staged = none ∧ (getReq t p).selects = (getReq s p).selects ∧
      (getReq t p).snap = (getReq s p).snap ∧ t.od = s.od ∧ t.mem = s.mem) ∧
  (∀ (s : State) (p : Path), s.uptime < (getReq s p).stagedAt + 10000 * msTicks → exec (.stagingTimeout p) s = .next s) ∧
  (∀ (s : State) (n : Nat) (x : Session), findSession s n = some x → x.seenAt + 60000 * msTicks ≤ s.uptime →
    ∃ t, exec (.sessionTimeout n) s = .next t ∧ findSession t n = none ∧ t.od = s.od ∧ t.mem = s.mem ∧
      ∀ y ∈ s.sessions, y.id ≠ n → y ∈ t.sessions) ∧
  (∀ (s : State) (n : Nat), (∀ x, findSession s n = some x → s.uptime < x.seenAt + 60000 * msTicks) → exec (.sessionTimeout n) s = .next s) ∧
  (∀ s : State, s.romRuns = true → ∃ t, exec .discover s = .next t ∧ t.announces = s.announces + 1 ∧ t.od = s.od ∧
    ∃ v, exec .announce t = .next v ∧ v.announces = s.announces ∧
      v.od = s.od ∧ v.mem = s.mem ∧ v.out = t.out ++ [.announce (odGet s 0x1000 0x01) (Config.serial % 2 ^ 64) (Config.mac % 2 ^ 48) (odGet s 0x5000 0x01)]) ∧
  (∀ s : State, odGet s 0x6800 0x01 = 1 → ∃ t, exec .beaconLoss s = .next t ∧ odGet t 0x6800 0x01 = 2 ∧
    odGet t 0x6800 0x05 = min cntMax (odGet s 0x6800 0x05 + 1) ∧ t.mem = s.mem ∧ t.tallies = s.tallies ∧
    ∀ k, ¬ logKey k → k ≠ odKey 0x6800 0x01 → k ≠ odKey 0x6800 0x05 → odGet t (k / 256) (k % 256) = odGet s (k / 256) (k % 256)) ∧
  (∀ s : State, odGet s 0x6800 0x01 = 2 → ∃ t, exec .beaconReturn s = .next t ∧ odGet t 0x6800 0x01 = 1 ∧ t.mem = s.mem ∧ t.tallies = s.tallies ∧
    ∀ k, k ≠ odKey 0x6800 0x01 → odGet t (k / 256) (k % 256) = odGet s (k / 256) (k % 256)) ∧
  (∀ s : State, (odGet s 0x6800 0x01 ≠ 1 → exec .beaconLoss s = .next s) ∧ (odGet s 0x6800 0x01 ≠ 2 → exec .beaconReturn s = .next s)) ∧
  (∀ (s : State) (off size v : Nat), s.linkUp = true → off < 0x10000 → ∃ t, exec (.hotWindowWrite off size v) s = .next t ∧
    odGet t 0x6200 0x02 = min cntMax (odGet s 0x6200 0x02 + 1) ∧ t.mem = s.mem ∧ t.tallies = s.tallies ∧
    ∀ k, ¬ logKey k → k ≠ odKey 0x6200 0x02 → odGet t (k / 256) (k % 256) = odGet s (k / 256) (k % 256)) ∧
  (∀ (s : State) (off v : Nat), s.linkUp = true → off % 4 = 0 → v < 2 ^ 32 → (0x10000 ≤ off ∧ off < 0x11000) ∨ (0x20000 ≤ off ∧ off < 0x20400) →
    ∃ t, exec (.hotWindowWrite off 4 v) s = .next t ∧ barRead0 t off = v ∧ t.mem = s.mem ∧
      odGet t 0x6300 0x03 = if off = hdmControlAt then (bitOf v 9).toNat else odGet s 0x6300 0x03)

/-! ### The security version (R506) -/

/-- R506. COMMIT SECURITY VERSION raises the security version count to the running image's SVN, or leaves it where it is already at least that;
an image with a lower SVN than the count is refused, at load and at staging alike. -/
def Obligations.CommitRaisesTheSecurityVersion : Prop :=
  (∀ (s : State) (p : Path) (row : OdRow) (v : Nat) (token : List Byte), v < 256 →
    authorizable s p 0x8000 0x0C (leBytes 1 v) token row →
    rightsOk s p (authReq 0x8000 0x0C (leBytes 1 v) token) row true = true → tokenOk s 0x8000 0x0C (leBytes 1 v) token = true →
    ∃ t, exec (.commitSecurityVersion p v token) s = .next t ∧
      odGet t 0x8100 0x05 = max (odGet s 0x8100 0x05) (odGet s 0x8000 0x04)) ∧
  (∀ (s : State) (x : List Byte), imgSvn x < odGet s 0x8100 0x05 →
    imageResult s (some x) false 1 ≠ 1 ∧ imageResult s (some x) true 2 ≠ 2 ∧
    (loadImage s (some x)).image = s.image ∧ (loadImage s (some x)).fwRuns = s.fwRuns ∧ (stageImage s (some x)).staged = s.staged)

/-! ### Collectives (R246 to R248, R353 to R388) -/

/-- A REDUCE of MODE 2 away from the root starts and waits for its result chunks; one whose side record breaks R364 ends without its add. A
parked REDUCE of MODE 2 with every chunk landed, a parked GATHER and a parked PERMUTE with everything sent and landed, and a PERMUTE
whose rank moves to itself, complete. Past the late limit of a child's chunk, here an only child's, the chunk carries the mark that lets its
backup be taken; past the collective limit the command ends FABRIC, without its add. -/
def Obligations.CollectivesRun : Prop :=
  (∀ (s : State) (u q : Nat) (c : Cmd) (k : Chan), collJob s u q 0xB0 = some (c, k, true) →
    (rdMODE c.word = 2 → k.root s = false → k.landed = [] → 0 < chunkCount c.word →
      ∃ t, exec (.reduce u q) s = .next t ∧ collStarted t c k 0 ∧ t.mem = s.mem) ∧
    (rdMODE c.word ≠ 2 → badSide s c.word = true → ∃ t, exec (.reduce u q) s = .next t ∧ ended t c.u c.q c.serial ∧ t.tallies = s.tallies)) ∧
  (∀ (s : State) (u q : Nat) (c : Cmd) (k : Chan) (r : Coll), s.Sound → k.id < 64 → queueExists c.u c.q = true →
    (drives s u q 0xB0 c k r → outstanding s k = [] → rdMODE r.word = 2 → k.root s = false → k.backup s = false → k.landed.length = chunkCount r.word →
      ∃ t, exec (.reduce u q) s = .next t ∧ collFinished s t c k) ∧
    (drives s u q 0xB1 c k r → outstanding s k = [] → r.sent.length = (k.ranks.length - 1) * gaMsgs r.word → k.landed.length = (k.ranks.length - 1) * gaMsgs r.word →
      ∃ t, exec (.gather u q) s = .next t ∧ collFinished s t c k) ∧
    (drives s u q 0xB2 c k r → piecesOut s k = false → r.sent.length = pePieces r.word → r.staged = pePieces r.word →
      k.landed.length = peAllMsgs r.word →
      ∃ t, exec (.permute u q) s = .next t ∧ collFinished s t c k)) ∧
  (∀ (s : State) (u q : Nat) (c : Cmd) (k : Chan), collJob s u q 0xB2 = some (c, k, true) → s.Sound → k.id < 64 → queueExists c.u c.q = true →
    (inMemory s (scr c.u (peSTAGE c.word)) (2 * pePiece c.word) = true → peTo s k = k.rank s →
      ∃ t, exec (.permute u q) s = .next t ∧ collFinished s t c k) ∧
    (inMemory s (scr c.u (peSTAGE c.word)) (2 * pePiece c.word) = false → ∃ t, exec (.permute u q) s = .next t ∧ ended t c.u c.q c.serial ∧ t.tallies = s.tallies)) ∧
  (∀ (s : State) (ch chunk : Nat) (k : Chan) (r : Coll) (rank : Nat), getChan s ch = some k → k.run = some r → r.kind = 0 → k.child s false = some rank →
    k.child s true = none → (k.backupOf rank).isSome = true → crLATE (k.crec s) ≠ 0 → k.chunks = [] → k.landed = [] → r.sent = [] →
    chunk < chunkCount r.word → s.biFilter = [] → s.biHeld = [] → r.admittedAt + crLATE (k.crec s) * 100 ≤ s.uptime → collFits s k r →
    ∃ t, exec (.lateLimit ch chunk false) s = .next t ∧ ∃ x, getChan t ch = some x ∧ x.run = some r ∧ (getChunk x chunk).lateL = true) ∧
  (∀ (s : State) (ch : Nat) (k : Chan) (r : Coll) (c : Cmd), getChan s ch = some k → k.run = some r → crCLIM (k.crec s) ≠ 0 →
    r.admittedAt + crCLIM (k.crec s) * 100000 ≤ s.uptime → findCmd s r.u r.q r.serial = some c →
    ∃ t, exec (.collectiveLimit ch) s = .next t ∧ ended t c.u c.q c.serial ∧ t.tallies = s.tallies)

/-- Collective messages at their destination, whose place is in memory and not sealed. A mismatched CRC leaves every byte, and the context empty. A chunk that
comes before its collective stands in its area; a result chunk, a gathered message whose two formats are one, and a piece of a permute land
at their places while others are still to come. -/
def Obligations.CollectiveMessagesLand : Prop :=
  (∀ (s : State) (spkg msgid f : Nat) (m : RecvCtx), recvCrcOk m = false →
    (readyRecv s spkg msgid 3 = some m → ∃ t, exec (.reduceUp spkg msgid f) s = .next t ∧ crcDropped s t m) ∧
    (readyRecv s spkg msgid 4 = some m → ∃ t, exec (.reduceDown spkg msgid) s = .next t ∧ crcDropped s t m) ∧
    (readyRecv s spkg msgid 5 = some m → ∃ t, exec (.gatherMessage spkg msgid) s = .next t ∧ crcDropped s t m) ∧
    (readyRecv s spkg msgid 6 = some m → ∃ t, exec (.permuteMessage spkg msgid) s = .next t ∧ crcDropped s t m)) ∧
  (∀ (s : State) (spkg msgid f : Nat) (m : RecvCtx) (k : Chan) (area : Nat), s.Sound → collReady s spkg msgid 3 m k →
    acceptColl s k (recvHead m) 0 = .early → senderArea s k m.spkg (bitOf (recvHead m).arg2 30) = some area →
    seresOff (recvHead m).daddr = areaAt (k.crec s) (bits (recvHead m).arg2 16 14) area → getChunk k (bits (recvHead m).arg2 16 14) = ⟨bits (recvHead m).arg2 16 14, [], none, none, false, false, 0, false, 0⟩ →
    slotTaken s k (bits (recvHead m).arg2 16 14) = false → (recvPayload m).length % 4 = 0 →
    peerWritable s (seresOff (recvHead m).daddr) (recvHead m).len = true →
    ∃ t, exec (.reduceUp spkg msgid f) s = .next t ∧ landedAt s t m (seresOff (recvHead m).daddr) ∧
      ∃ x y, getChan t k.id = some x ∧ (getChunk x (bits (recvHead m).arg2 16 14)).copies = [y] ∧ y.area = area ∧ y.spkg = m.spkg ∧ y.nfin = (recvHead m).nfin) ∧
  (∀ (s : State) (spkg msgid : Nat) (m : RecvCtx) (k : Chan) (r : Coll), s.Sound → k.run = some r → k.landed = [] → r.sent = [] →
    (collReady s spkg msgid 4 m k → acceptColl s k (recvHead m) 0 = .run r → rdMODE r.word = 2 → k.backup s = false →
      k.parent s = some (k.ranks.findIdx (· == m.spkg)) → k.child s false = none → k.child s true = none → rdVERD r.word = false →
      1 < chunkCount r.word → bits (recvHead m).arg2 16 14 < chunkCount r.word →
      seresOff (recvHead m).daddr = rdDST r.word + bits (recvHead m).arg2 16 14 * 65536 → peerWritable s (seresOff (recvHead m).daddr) (recvHead m).len = true →
      ∃ t, exec (.reduceDown spkg msgid) s = .next t ∧ landedAt s t m (seresOff (recvHead m).daddr) ∧
        ∃ x, getChan t k.id = some x ∧ x.landed = [bits (recvHead m).arg2 16 14])) ∧
  (∀ (s : State) (spkg msgid : Nat) (m : RecvCtx) (k : Chan) (r : Coll), s.Sound → k.run = some r → k.landed = [] →
    (collReady s spkg msgid 5 m k → acceptColl s k (recvHead m) 1 = .run r →
      ∀ rank off, rank = bits (recvHead m).arg2 16 20 → off = bits (recvHead m).arg 0 32 → k.pkgOf rank = m.spkg → rank ≠ k.rank s →
      off % 1048576 = 0 → off + (recvPayload m).length ≤ gaElems r.word → (recvHead m).len = (recvPayload m).length → 0 < (recvPayload m).length →
      off + (recvPayload m).length ≤ gaWire r.word → seresOff (recvHead m).daddr = gaLand r.word rank → gaWFMT r.word = gaCFMT r.word → isMX (gaWFMT r.word) = false →
      r.sent.length = (k.ranks.length - 1) * gaMsgs r.word → 1 < (k.ranks.length - 1) * gaMsgs r.word →
      peerWritable s (gaLand r.word rank) (imageSize (gaCFMT r.word) (gaCOUNT r.word)) = true →
      ∃ t, exec (.gatherMessage spkg msgid) s = .next t ∧ landedAt s t m (gaLand r.word rank + off) ∧
        ∃ x, getChan t k.id = some x ∧ x.landed = [rank * 2 ^ 14 + off / 1048576]) ∧
    (collReady s spkg msgid 6 m k → acceptColl s k (recvHead m) 2 = .run r → bitOf (recvHead m).arg2 48 = false →
      ∀ part, bits (recvHead m).arg2 16 32 < pePieces r.word → part < peMsgs r.word (bits (recvHead m).arg2 16 32) →
      seresOff (recvHead m).daddr = peBASE r.word + bits (recvHead m).arg2 16 32 * pePiece r.word + part * 1048576 →
      r.sent.length = pePieces r.word → r.staged = pePieces r.word → 1 < peAllMsgs r.word → peerWritable s (seresOff (recvHead m).daddr) (recvHead m).len = true →
      ∃ t, exec (.permuteMessage spkg msgid) s = .next t ∧ landedAt s t m (seresOff (recvHead m).daddr) ∧
        ∃ x, getChan t k.id = some x ∧ x.landed = [peTag (bits (recvHead m).arg2 16 32) part]))

/-! ### Stack memory and the die links (R258 to R267, R274 to R283) -/

/-- While VBULK stands. The patrol scrub reads a sector that is in service: a clean read changes nothing, a corrected one is counted and awaits
its rewrite, an uncorrectable one below the retirement threshold marks its sector, and an on-die report is counted. The rewrite of a corrected
sector reads it again: it is done with, and below the threshold an uncorrectable read marks the sector. A channel that stops answering, or fails
its periodic retraining, starts a sealed retirement of its stack (here while no message waits to go out), and from the third stack on seals it
for good. A relocation moves the row pointer of the pending slot on, and settles the slot past its last row; a source row that proves uncorrectable
is poisoned at its target, and under the sealed rule the rows from the pointer on are lost; with none pending the retirement is complete.
Flit errors, lane failures and retraining of a die-link module. An error is counted in the module, the flits are replayed, and the replay is
counted in the module and the die. The first failed data lane of a full-width module is recorded and served by the first spare; the module keeps
its width, its flits are replayed and it retrains, and carries traffic again when that is done. -/
def Obligations.StacksAndModulesRecover : Prop :=
  (∀ (s : State) (sector row : Nat) (done : Bool) (st : Nat), bulkOn s = true → sector * 64 < capacity s → st = (sectorPlace s sector).stack →
    slotMst s (sectorPlace s sector).slot = 0 → stackState s st ≠ 3 → sectorBad s sector = false →
    (∃ t, exec (.patrolScrub sector .clean done) s = .next t ∧ t.poison = s.poison ∧
      odGet t (0x4100 + st) 0x07 = (if done then min cntMax (odGet s (0x4100 + st) 0x07 + 1) else odGet s (0x4100 + st) 0x07)) ∧
    (∃ t, exec (.patrolScrub sector .corrected done) s = .next t ∧ sector ∈ t.corrected ∧ t.poison = s.poison ∧
      odGet t (0x4100 + st) 0x02 = min cntMax (odGet s (0x4100 + st) 0x02 + 1)) ∧
    (∃ t, exec (.patrolScrub sector .onDieReport done) s = .next t ∧ t.poison = s.poison ∧
      odGet t (0x4100 + st) 0x05 = min cntMax (odGet s (0x4100 + st) 0x05 + 1)) ∧
    (recentReads s 0 st none + 1 < odGet s 0x4000 0x0A →
      ∃ t, exec (.patrolScrub sector (.uncorrectable row) done) s = .next t ∧ sector ∈ t.poison ∧ stackState t st = stackState s st ∧
        odGet t (0x4100 + st) 0x03 = min cntMax (odGet s (0x4100 + st) 0x03 + 1))) ∧
  (∀ (s : State) (sector : Nat), bulkOn s = true →
    (∃ t, exec (.correctedRewrite ⟨sector, .clean⟩) s = .next t ∧ t.mem = s.mem ∧ ∀ x, x ∈ t.corrected ↔ (x ∈ s.corrected ∧ x ≠ sector)) ∧
    (∀ row st, st = (sectorPlace s sector).stack → sectorBad s sector = false → recentReads s 0 st none + 1 < odGet s 0x4000 0x0A →
      ∃ t, exec (.correctedRewrite ⟨sector, .uncorrectable row⟩) s = .next t ∧ sector ∈ t.poison ∧ sector ∉ t.corrected ∧
        odGet t (0x4100 + st) 0x03 = min cntMax (odGet s (0x4100 + st) 0x03 + 1))) ∧
  (∀ (s : State) (stack : Nat), exec (.periodicRetraining stack none) s = .next s) ∧
  (∀ (s : State) (stack channel : Nat) (i : Instr), i = .sealedRetirement stack channel ∨ i = .periodicRetraining stack (some channel) →
    stack < 24 → channel < 32 → bulkOn s = true → stackState s stack = 0 →
    (s.retirements < 2 → (∀ m ∈ s.sends, m.waiting = false) → ∃ t, exec i s = .next t ∧ stackState t stack = 1 ∧ t.retirements = s.retirements + 1) ∧
    (2 ≤ s.retirements → ∃ t, exec i s = .next t ∧ stackState t stack = 3 ∧ bitOf (odGet t 0x7000 0x01) (56 + stack) = true ∧
      bitOf (odGet t 0x7000 0x01) 0 = true)) ∧
  (∀ (s : State) (j ent x : Nat) (r : RelocRun), s.Sound → bulkOn s = true → pendingSlot s = some (j, ent) →
    x = (if bitOf ent 20 then bits ent 15 5 else bits ent 26 5) →
    (r.bad = [] ∨ bits ent 8 2 = 3 → ∃ t, exec (.slotRelocation r) s = .next t ∧ (∀ k, k ≠ j → slotEntry t k = slotEntry s k) ∧
      (2 ^ 15 ≤ s.rowPtr + r.rows → slotEntry t j = withField ent 8 2 0 ∧ t.rowPtr = 0) ∧
      (s.rowPtr + r.rows < 2 ^ 15 → slotEntry t j = (if bits ent 8 2 = 3 then ent else withField ent 8 2 2) ∧ t.rowPtr = s.rowPtr + r.rows) ∧
      (bits ent 8 2 = 3 → Store.get 0 t.lostCells (j * 24 + x) ≠ 0 ∧ Store.get 0 t.lostCells (j * 24 + x) ≤ s.rowPtr + 1)) ∧
    (∀ w sec, r.bad = [w] → bits ent 8 2 ≠ 3 → s.rowPtr ≤ w → w < s.rowPtr + r.rows →
      recentReads s 0 (sectorPlace s (cellGranule j x w * 8)).stack none + 1 < odGet s 0x4000 0x0A →
      sec / 8 = cellGranule j x w → ∃ t, exec (.slotRelocation r) s = .next t ∧ sec ∈ t.poison)) ∧
  (∀ (s : State) (r : Retire), s.retires.find? (·.step3) = some r → pendingSlot s = none → (∀ x ∈ s.retires, x.step3 = true) → r.stack < 24 →
    ∃ t, exec .retirementComplete s = .next t ∧ stackState t r.stack = 2 ∧ r.stack ∈ t.flashRetired ∧ odGet t 0x4000 0x03 = 0 ∧
      ∀ x ∈ t.retires, x.stack ≠ r.stack) ∧
  (∀ (s : State) (d m : Nat), d < 4 → m < 64 → bulkOn s = true → ∃ t, exec (.flitCrcError d m none) s = .next t ∧ .replay d m ∈ t.out ∧
    odGet t (0x3900 + modKey d m) 0x03 = min cntMax (odGet s (0x3900 + modKey d m) 0x03 + 1) ∧
    odGet t (0x3900 + modKey d m) 0x04 = min cntMax (odGet s (0x3900 + modKey d m) 0x04 + 1) ∧
    odGet t (0x3800 + d) 0x05 = min cntMax (odGet s (0x3800 + d) 0x05 + 1) ∧ t.laneErrs = s.laneErrs) ∧
  (∀ (s : State) (d m l : Nat), d < 4 → m < 64 → l < 64 → bulkOn s = true → rbWidth (roleByte s d m) = 0 → bitOf (odGet s (0x3900 + modKey d m) 0x02) l = false →
    (∀ f ∈ s.flashLanes, f.1 ≠ modKey d m) →
    ∃ t, exec (.laneFailure d m [l]) s = .next t ∧ (modKey d m, l) ∈ t.flashLanes ∧ bitOf (odGet t (0x3900 + modKey d m) 0x02) l = true ∧
      roleByte t d m = mkRole (rbRole (roleByte s d m)) 0 1 ∧ modKey d m ∈ t.retraining ∧ .replay d m ∈ t.out ∧
      odGet t (0x3900 + modKey d m) 0x04 = min cntMax (odGet s (0x3900 + modKey d m) 0x04 + 1) ∧
      odGet t (0x3800 + d) 0x05 = min cntMax (odGet s (0x3800 + d) 0x05 + 1)) ∧
  (∀ (s : State) (d m : Nat), d < 4 → m < 64 → s.retraining.contains (modKey d m) = true →
    ∃ t, exec (.moduleRetrainDone d m) s = .next t ∧ modKey d m ∉ t.retraining ∧
      odGet t (0x3900 + modKey d m) 0x05 = min cntMax (odGet s (0x3900 + modKey d m) 0x05 + 1))

/-! ### Fibre ports and their rings (R321, R330 to R333, R341 to R344) -/

/-- The light of a port, and its keying. A lost laser darkens the port; a laser that returns wakes a port that may train. Low receive light
takes a port out of UP, and light that returns takes it out of ISOLATED. With a far end that matches the plan, keying stores the round trip
and the headroom and the port is UP; a far end that nothing in the plan names isolates it; with no identity in the keying time it goes DARK,
and tries again. A port that keyed with too few usable lanes trains while a spare is still to come, and is isolated else. Without VBULK no light is
read. -/
def Obligations.PortsFollowTheirLight : Prop :=
  (∀ (s : State) (p : Nat) (x : Int), bulkOn s = false → exec (.laserLost p x) s = .next s ∧ exec (.laserPresent p x) s = .next s ∧
    exec (.riLow p x) s = .next s ∧ exec (.riRestored p x) s = .next s) ∧
  (∀ (s : State) (p : Nat) (li : Int), s.Sound → bulkOn s = true → p < 16 →
    (li < 1600 → (getPort s p).laser = true → ∃ t, exec (.laserLost p li) s = .next t ∧ portState t p = 0 ∧ (getPort t p).laser = false ∧
      (∀ r ∈ (getPort t p).tx, r = Ring.off) ∧ ∀ r ∈ (getPort t p).rx, r = Ring.off) ∧
    (1600 ≤ li → ∃ t, exec (.laserPresent p li) s = .next t ∧ (getPort t p).laser = true ∧
      (8 ≤ startStep s → portState s p = 0 → portEnabled s p = true → s.vhtr = true → portState t p = 1) ∧
      (portState s p ≠ 0 → portState t p = portState s p))) ∧
  (∀ (s : State) (p : Nat) (ri : Int), s.Sound → bulkOn s = true → p < 16 →
    (ri < -500 → ∃ t, exec (.riLow p ri) s = .next t ∧ (getPort t p).riLost = true ∧ portState t p = if portState s p = 3 then 1 else portState s p) ∧
    (-500 ≤ ri → ∃ t, exec (.riRestored p ri) s = .next t ∧ (getPort t p).riLost = false ∧
      portState t p = if (getPort s p).riLost = true ∧ portState s p = 4 then 1 else portState s p)) ∧
  (∀ (s : State) (p rtt : Nat) (far : Nat × Nat × Nat × Nat), p < 16 → p < s.ports.length → portState s p = 2 → (getPort s p).far = some far →
    64 ≤ (getPort s p).echoes.length → hasNumber s = true → rtt = median64 ((getPort s p).echoes.map (·.2)) →
    (planMatches s p far = true → ∃ t, exec (.keying p) s = .next t ∧ odGet t (0x5200 + p) 0x03 = rtt ∧ odGet t (0x5200 + p) 0x04 = headroom rtt ∧
      portState t p = if reachLimit (odGet s (0x5200 + p) 0x02) < rtt then 4 else if enoughLanes s p then 3
        else if spareComing s p true || spareComing s p false then 1 else 4) ∧
    (planMatches s p far = false → swappedTo s p far = none → ∃ t, exec (.keying p) s = .next t ∧ portState t p = 4 ∧
      bitOf (odGet t 0x7000 0x01) (112 + p) = true)) ∧
  (∀ (s : State) (p : Nat), p < 16 →
    (portState s p = 2 → (getPort s p).far = none → ∃ t, exec (.keyingTimeExpiry p) s = .next t ∧ portState t p = 0 ∧
      odGet t 0x5310 0x03 = min cntMax (odGet s 0x5310 0x03 + 1)) ∧
    (portState s p = 0 → bits (keyEntry s p) 60 4 = 4 → 8 ≤ startStep s → portEnabled s p = true → s.vhtr = true → (getPort s p).laser = true →
      ∃ t, exec (.keyingDarkRetry p) s = .next t ∧ portState t p = 1))

/-! ### Rings, control words and monitors of a fibre port (R324 to R340, R342) -/

/-- The rings of a port. A sweep whose peaks, numbered from the gap, hold its line locks the ring at the position nearest the middle, and one that
finds no gap is tried again; the receive bus sweeps only while its input is steady;
feedforward moves the heaters of the rings of both buses that hold a line; a lost lock is counted and held, and the ring is then recaptured or
sweeps again; a heater jump is a lock to the wrong line, counted unless its slot check has counted it, and the ring sweeps again.
Control words. A marker with the right slot aligns it, unless its map takes an UP port below 16 lanes and it trains anew; one bad marker is borne,
and after two alignment is lost; a report of the far end is kept, unless the port, not training before, trains anew upon it; a move whose index is
in range waits for its codeword, and of those whose index the count has reached the earliest takes effect first; an echo request is answered, and
the first echo reply of a tag kept; the far identity and the margin step are kept. The mist coat of a training port records the margins, the references and the path loss, and the monitors,
with the far power that markers gave, are compared with the references. -/
def Obligations.RingsAndControlWords : Prop :=
  (∀ (s : State) (p slot : Nat) (tx : Bool) (r : Ring), p < 16 → slot < 18 → ringIs s p tx slot r →
    (∀ o : SweepOutcome, r.st = 1 →
      (sweepTurn s p tx slot o.riSteady = false → exec (.ringSweep p tx slot o) s = .next s) ∧
      (∀ g h, sweepTurn s p tx slot o.riSteady = true → afterGap o.peaks = some g → nearestMiddle (targetsOf slot g o.peaks) = some h →
        ∃ t, exec (.ringSweep p tx slot o) s = .next t ∧ getRing t p tx slot = ⟨2, heaterDrive h, 0, false, r.recheck⟩) ∧
      (sweepTurn s p tx slot o.riSteady = true → afterGap o.peaks = none → r.tries < 2 →
        ∃ t, exec (.ringSweep p tx slot o) s = .next t ∧ getRing t p tx slot = { r with tries := r.tries + 1 })) ∧
    (∀ a b : Int, ∃ t, exec (.feedforward p a b) s = .next t ∧ getRing t p tx slot = feedRing (a + b) r ∧ t.od = s.od) ∧
    (r.st = 2 → (∃ t, exec (.lockLoss p tx slot) s = .next t ∧ getRing t p tx slot = { r with st := 3 } ∧
        odGet t (0x5200 + p) 0x10 = min cntMax (odGet s (0x5200 + p) 0x10 + 1)) ∧
      ∃ t, exec (.heaterJump p tx slot) s = .next t ∧ getRing t p tx slot = { r with st := 1, tries := 0, wrong := true, recheck := true } ∧
        odGet t (0x5200 + p) 0x0F = (if tx = false ∧ listGet false (getPort s p).slotBad slot = true then odGet s (0x5200 + p) 0x0F
          else min cntMax (odGet s (0x5200 + p) 0x0F + 1))) ∧
    (r.st = 3 → (∃ t, exec (.recapture p tx slot) s = .next t ∧ getRing t p tx slot = { r with st := 2 }) ∧
      ∃ t, exec (.holdExpiry p tx slot) s = .next t ∧ getRing t p tx slot = { r with st := 1, tries := 0, recheck := true })) ∧
  (∀ (s : State) (p slot : Nat) (w : BitVec 160), p < 16 → slot < 18 → p < s.ports.length → slot < (getPort s p).aligned.length →
    slot < (getPort s p).missed.length → slot < (getPort s p).slotBad.length → portState s p ≠ 0 → portState s p ≠ 4 →
    (cwGood w = true → cwType w = 1 → bits w.toNat 151 5 = slot → ∃ t, exec (.marker p slot w) s = .next t ∧
      listGet false (getPort t p).slotBad slot = false ∧ (getPort t p).farLpwr = markerLpwr w.toNat ∧
      (listGet false (getPort t p).aligned slot = true ∨ (portState s p = 3 ∧ portState t p = 1))) ∧
    (cwGood w = false → listGet 0 (getPort s p).missed slot = 0 → ∃ t, exec (.marker p slot w) s = .next t ∧
      listGet 0 (getPort t p).missed slot = 1 ∧ (getPort t p).aligned = (getPort s p).aligned) ∧
    (cwGood w = false → listGet 0 (getPort s p).missed slot ≠ 0 → exec (.marker p slot w) s = exec (.alignmentLoss p slot) s) ∧
    ∃ t, exec (.alignmentLoss p slot) s = .next t ∧ listGet false (getPort t p).aligned slot = false ∧
      ((getRing s p false slot).st = 2 → listGet false (getPort t p).slotBad slot = true)) ∧
  (∀ (s : State) (p : Nat) (w : BitVec 160), takesWord s p 2 w →
    ∃ t, exec (.report p w) s = .next t ∧ ((getPort t p).lastReport = bits w.toNat 120 36 ∨ (portState s p ≠ 1 ∧ portState t p = 1))) ∧
  (∀ (s : State) (p : Nat) (w : BitVec 160), takesWord s p 3 w → (getPort s p).lastMseq ≠ some (bits w.toNat 105 8) → bits w.toNat 145 2 ≠ 0 →
    bits w.toNat 147 5 < 18 → indexOk s p (bits w.toNat 113 32) = true → ∃ t, exec (.move p w) s = .next t ∧ (getPort t p).lastMseq = some (bits w.toNat 105 8) ∧
      (getPort t p).rxMove = (getPort s p).rxMove ++
        [⟨bits w.toNat 152 4, bits w.toNat 147 5, bits w.toNat 145 2, bits w.toNat 113 32, bits w.toNat 105 8⟩]) ∧
  (∀ (s : State) (p : Nat) (tx : Bool) (m : Mv) (l : List Mv), p < 16 → p < s.ports.length → m.lane < 64 →
    (if tx then (getPort s p).txMove else (getPort s p).rxMove) = l →
    (∀ count, count = (if tx then (getPort s p).txCount else (getPort s p).rxCount) →
      firstMove count (l.filter (fun m => reached count m.cwidx)) = some m) →
    ∃ t, exec (.moveTakesEffect p tx) s = .next t ∧
      (∃ e, (if tx then (getPort t p).txMove else (getPort t p).rxMove) = l.erase m ++ e ∧ (tx = false → e = [])) ∧
      mapByte t p tx m.nslot = m.lane ∧ odGet t (0x5200 + p) 0x0E = min cntMax (odGet s (0x5200 + p) 0x0E + 1)) ∧
  (∀ (s : State) (p cycle fixed : Nat) (w : BitVec 160), takesWord s p 4 w →
    (bitOf w.toNat 155 = false → exec (.echo p w cycle fixed) s = .next (emit s (.control p 0
      (controlWord 4 (2 ^ 155 + bits w.toNat 147 8 * 2 ^ 147 + bits w.toNat 115 32 * 2 ^ 115 + fixed % 65536 * 2 ^ 99))))) ∧
    (bitOf w.toNat 155 = true → portState s p = 2 → bits w.toNat 147 8 < 64 → odLook (getPort s p).echoes (bits w.toNat 147 8) = none →
      ∃ t, exec (.echo p w cycle fixed) s = .next t ∧ (getPort t p).echoes = (getPort s p).echoes ++
        [(bits w.toNat 147 8, ((cycle + 2 ^ 32 - bits w.toNat 115 32) % 2 ^ 32 - bits w.toNat 99 16) * 640 - fixed)]) ∧
    (bitOf w.toNat 155 = true → (odLook (getPort s p).echoes (bits w.toNat 147 8)).isSome → exec (.echo p w cycle fixed) s = .next s)) ∧
  (∀ (s : State) (p : Nat) (w : BitVec 160), takesWord s p 5 w → ∃ t, exec (.ident p w) s = .next t ∧ t.od = s.od ∧
    (getPort t p).far = some (bits w.toNat 136 20, bits w.toNat 132 4, bits w.toNat 68 64, bits w.toNat 67 1)) ∧
  (∀ (s : State) (p : Nat) (w : BitVec 160), takesWord s p 6 w → bits w.toNat 152 4 ≤ 4 →
    (getPort s p).mSeq ≠ bits w.toNat 114 8 ∨ (getPort s p).mStep = 0 →
    ∃ t, exec (.margin p w) s = .next t ∧ (getPort t p).mStep = bits w.toNat 152 4 ∧ (getPort t p).mValue = bits w.toNat 140 12 ∧
      (getPort t p).mVerdict = bits w.toNat 122 18 ∧ (getPort t p).mSeq = bits w.toNat 114 8) ∧
  (∀ (s : State) (p : Nat) (power tracking : List (List Nat)) (refs : MonReadings), p < 16 → p < s.ports.length → power.length = 41 →
    tracking.length = 122 → portState s p = 1 → (getPort s p).mist = 1 → 16 ≤ usableLanes s p false →
    ∃ t, exec (.mistCoat p power tracking refs) s = .next t ∧ (getPort t p).mist = 2 ∧
      (getPort t p).refs = some { refs with farLpwr := (getPort s p).farLpwr } ∧ (getPort t p).pathLoss = (getPort s p).farLpwr - refs.ri ∧
      (getPort t p).power = slots18.map (powerMargin power) ∧ (getPort t p).tracking = slots18.map (trackingMargin tracking) ∧
      odGet t (0x5400 + p) 0x08 = 0) ∧
  (∀ (s : State) (p : Nat) (x : MonReadings), bulkOn s = true → p < 16 → p < s.ports.length → ∃ t, exec (.monitorCompare p x) s = .next t ∧
    (getPort t p).last = some { x with farLpwr := (getPort s p).farLpwr } ∧ odGet t (0x5400 + p) 0x01 = i32 x.li ∧ odGet t (0x5400 + p) 0x02 = i32 x.sp ∧
    odGet t (0x5400 + p) 0x03 = i32 x.mb ∧ odGet t (0x5400 + p) 0x04 = i32 x.ri ∧
    ∀ ref code loc fall, (getPort s p).refs = some ref → lossLocation (lossThreshold s p) ref { x with farLpwr := (getPort s p).farLpwr } = some (code, loc, fall) →
      odGet t (0x5400 + p) 0x06 = code * 2 ^ 24 + loc * 2 ^ 16 + min 65535 fall.toNat ∧ bitOf (odGet t 0x7000 0x01) (80 + p) = true)

/-! ### Making good, in-field tests and the recorder (R434 to R443, R449, R451) -/

/-- A fence leaves its core FENCED and recorded, unless a core of its die with a greater id has been fenced in this policy period (the model's
choice, log 160). With VBULK up, a test that is due starts on the next core: a SPARE one in place, an ACTIVE one once a
spare of its die serves its position, and without such a spare the test is overdue. A scan that passes is kept for the return, one that
fails fences the core; the return gives the core its position back. A sweep unit is scanned while its sibling is in service, and leaves
service when its scan fails. A flush copies the records and ends; the dust sheet ends at its limit. -/
def Obligations.TestsAndRecordsRun : Prop :=
  (∀ (s : State) (core cause : Nat), fenceable s core = true → (∀ x, s.testing = some (core, some x) → x ≠ core) →
    1 ≤ cause → cause ≤ 5 → (cause = 3 → thresholdMet s core = true) →
    (fenceWaits s core = false → ∃ t, exec (.fence core cause) s = .next t ∧ coreState t core = 3 ∧ core ∈ t.flashFenced) ∧
    (fenceWaits s core = true → exec (.fence core cause) s = .next s)) ∧
  (∀ (s : State) (core : Nat), nextTest s core = false → exec (.testStart core) s = .next s) ∧
  (∀ (s : State) (core : Nat), bulkOn s = true → s.testing = none → s.sweepTest = none → nextTest s core = true →
    (coreState s core = 2 → ∃ t, exec (.testStart core) s = .next t ∧ t.testing = some (core, none) ∧ t.scanned = false ∧
      coreState t core = 4 ∧ odGet t 0x7200 0x02 = unitOf core) ∧
    (∀ x, coreState s core = 1 → corePos s core < 128 → freeSpareCore s (dieOf core) = some x → ∃ t, exec (.testStart core) s = .next t ∧
      t.testing = some (core, some x) ∧ t.scanned = false ∧ coreState t core = 4 ∧ servedBy t (corePos s core) = x ∧
      odGet t 0x7200 0x02 = unitOf core) ∧
    (coreState s core = 1 → freeSpareCore s (dieOf core) = none → ∃ t, exec (.testStart core) s = .next t ∧ t.testing = none ∧
      bitOf (odGet t 0x7000 0x01) 137 = true)) ∧
  (∀ (s : State) (core : Nat) (x : Option Nat) (r : ScanResult), s.testing = some (core, x) → s.scanned = false → core < 128 → x ≠ some core →
    (r.patternsPass = true → s.captures.filter (fun k => k.sweepUnit.isNone && k.core == core) = [] → ∃ t, exec (.scanTest r) s = .next t ∧
      t.scanned = true ∧ t.testing = s.testing ∧ odGet t 0x7200 0x04 = min cntMax (odGet s 0x7200 0x04 + 1)) ∧
    (r.patternsPass = false → ∃ t, exec (.scanTest r) s = .next t ∧ coreState t core = 3 ∧ core ∈ t.flashFenced)) ∧
  (∀ (s : State) (core : Nat), core < 128 → s.scanned = true →
    (s.testing = some (core, none) → ∃ t, exec .testReturn s = .next t ∧ t.testing = none ∧ coreState t core = 2) ∧
    (∀ x, s.testing = some (core, some x) → x < 128 → corePos s x < 128 → ∃ t, exec .testReturn s = .next t ∧ t.testing = none ∧
      coreState t core = 1 ∧ servedBy t (corePos s x) = core)) ∧
  (∀ (s : State) (unit : Nat) (r : ScanResult), isSweep unit = true → bulkOn s = true →
    (testDue s unit = false → exec (.sweepUnitScan unit false r) s = .next s) ∧
    (s.testing = none → s.sweepTest = none → unit ∉ s.sweepOut → testDue s unit = true →
      (sibling unit ∉ s.sweepOut → ∃ t, exec (.sweepUnitScan unit false r) s = .next t ∧ t.sweepTest = some unit ∧ odGet t 0x7200 0x02 = unitOf unit) ∧
      (sibling unit ∈ s.sweepOut → ∃ t, exec (.sweepUnitScan unit false r) s = .next t ∧ t.sweepTest = none ∧ bitOf (odGet t 0x7000 0x01) 137 = true)) ∧
    (s.sweepTest = some unit →
      (r.patternsPass = false → ∃ t, exec (.sweepUnitScan unit true r) s = .next t ∧ t.sweepTest = none ∧ unit ∈ t.sweepOut) ∧
      (r.patternsPass = true → s.captures.filter (fun k => k.sweepUnit == some unit) = [] → ∃ t, exec (.sweepUnitScan unit true r) s = .next t ∧
        t.sweepTest = none ∧ t.sweepOut = s.sweepOut ∧ odGet t 0x7200 0x04 = min cntMax (odGet s 0x7200 0x04 + 1)))) ∧
  (∀ (s : State), s.flushing = true → s.aonUp = true →
    (∃ t, exec (.flush true) s = .next t ∧ t.flushing = false ∧ t.copied = s.nextSeq ∧ t.ring = s.ring ∧
      t.archive = (s.archive ++ s.ring.filter (fun r => s.copied ≤ r.seq)).drop (s.archive.length + (s.ring.filter (fun r => s.copied ≤ r.seq)).length - 1048576)) ∧
    ∃ t, exec (.flush false) s = .next t ∧ t.archive = s.archive ∧ t.copied = s.copied ∧ bitOf (odGet t 0x7000 0x01) 7 = true) ∧
  (∀ (s : State), (s.dust = false ∨ s.uptime < s.dustAt + odGet s 0x7A00 0x09 * 100000000 → exec .dustSheetLimit s = .next s) ∧
    (s.dust = true → s.dustAt + odGet s 0x7A00 0x09 * 100000000 ≤ s.uptime → ∃ t, exec .dustSheetLimit s = .next t ∧ t.dust = false ∧ t.heldEvents = []))

/-! ### The host link (R219, R220, R483 to R491, R499, R517) -/

/-- The link trains in the first mode of the table that both ends support and the widest width that the lanes left out allow, shows its rate,
width and protocols, and step 3 of a start ends with it; with no mode or width in common it does not train; a retrain is counted and raises vector 2; a
start that an erratum stopped trains no link. A link that is lost, or held in reset, shows nothing and holds no line; what waited for the host
then goes on from there (`pumpChans`, `retryRecords`). A doorbell moves the tail of its queue; one that the tail rule refuses leaves the tail,
and one that is rejected is counted. While the package is attached a heartbeat restarts the count whose lapse makes it Orphaned; once it has
been Orphaned for the drain limit, every queue that is still live is drained. An access through the window reaches job memory and nothing
else, and a read that finds the filter full displaces the oldest entries. A host write that fails is counted, and its COPY ends; a host read
that fails is a COPY whose source is poisoned; an answered line is released. -/
def Obligations.HostLinkRuns : Prop :=
  (∀ (s : State) (modes widths : List Nat) (cache : Bool) (k : HostConfig) (lanes : List Nat), bulkOn s = true → s.romRuns = true →
    (errataStop s = true ∨ firstMode modes = none ∨ widestWidth widths lanes = none → exec (.linkTraining modes widths cache k lanes) s = .next s) ∧
    (∀ m width, errataStop s = false → firstMode modes = some m → widestWidth widths lanes = some width →
      ∃ t, exec (.linkTraining modes widths cache k lanes) s = .next t ∧ t.linkUp = true ∧ t.perstLow = false ∧ t.busMaster = k.busMaster ∧
      odGet t 0x6000 0x01 = linkState m ∧ odGet t 0x6000 0x02 = modeRate m ∧ odGet t 0x6000 0x03 = width ∧
      odGet t 0x6000 0x04 = 1 + 2 * (decide (m ≤ 2) && cache).toNat + 4 * (decide (m ≤ 2) && k.mem).toNat ∧
      odGet t 0x6000 0x05 = (if s.linkUp then min cntMax (odGet s 0x6000 0x05 + 1) else odGet s 0x6000 0x05) ∧
      (s.linkUp = true → .msix 2 ∈ t.out) ∧ (startStep s = 3 → startStep t = if s.fwRuns then 5 else 4))) ∧
  (∀ s : State,
    (s.linkUp = true → ∃ x, exec .linkLoss s = .next (pumpChans (retryRecords x)) ∧ x.linkUp = false ∧ x.biFilter = [] ∧ x.biHeld = [] ∧
      x.mem = s.mem ∧ x.cmds = s.cmds ∧ x.chans = s.chans ∧ x.heldRecords = s.heldRecords) ∧
    (∃ x, exec .perstN s = .next (odSet (pumpChans (retryRecords x)) 0x6300 0x03 0) ∧ x.perstLow = true ∧ x.linkUp = false ∧ x.biFilter = [] ∧
      x.biHeld = [] ∧ x.busMaster = false ∧ x.msixOn = false ∧ x.msixTable = [] ∧ x.component = [] ∧
      x.mem = s.mem ∧ x.cmds = s.cmds ∧ x.chans = s.chans ∧ x.heldRecords = s.heldRecords) ∧
    (∀ line, line ∈ s.biHeld → exec (.bisnpinvResponse line) s = .next (pumpChans (retryRecords { s with biHeld := s.biHeld.erase line })))) ∧
  (∀ (s : State), s.chans = [] → s.heldRecords = [] → (∀ c ∈ s.cmds, c.stage ≠ .done) →
    (s.linkUp = true → ∃ t, exec .linkLoss s = .next t ∧ t.linkUp = false ∧ t.biFilter = [] ∧ t.biHeld = [] ∧ odGet t 0x6000 0x01 = 0 ∧
      odGet t 0x6000 0x02 = 0 ∧ odGet t 0x6000 0x03 = 0 ∧ odGet t 0x6000 0x04 = 0 ∧ t.mem = s.mem) ∧
    (∃ t, exec .perstN s = .next t ∧ t.perstLow = true ∧ t.linkUp = false ∧ odGet t 0x6300 0x03 = 0 ∧ t.mem = s.mem) ∧
    (∀ line, line ∈ s.biHeld → ∃ t, exec (.bisnpinvResponse line) s = .next t ∧ t.biHeld = s.biHeld.erase line ∧ t.mem = s.mem)) ∧
  (∀ (s : State) (a n : Nat) (data : List Byte), s.Sound → inWindow s a n = true → bulkOn s = true → data.length = n →
    (inJob s a n = true → sealedRange s a n = false → ∃ t, exec (.hdmAccess true a n data) s = .next t ∧
      ∀ x, memByte t x = if a ≤ x ∧ x < a + n then listGet 0 data (x - a) else memByte s x) ∧
    (inJob s a n = true → sealedRange s a n = true → ∃ t, exec (.hdmAccess true a n data) s = .next t ∧ t.mem = s.mem) ∧
    (inJob s a n = false → ∃ t, exec (.hdmAccess true a n data) s = .next t ∧ t.mem = s.mem ∧
      odGet t 0x6300 0x05 = min cntMax (odGet s 0x6300 0x05 + 1)) ∧
    (inJob s a n = true → filterSize < s.biFilter.length + ((linesOf a n).filter (fun l => !s.biFilter.contains l)).length →
      ∃ t, exec (.hdmAccess false a n []) s = .next t ∧ t.mem = s.mem ∧
        ∀ l ∈ s.biFilter.take (s.biFilter.length + ((linesOf a n).filter (fun l => !s.biFilter.contains l)).length - filterSize),
          .bisnpInv l ∈ t.out ∧ l ∈ t.biHeld) ∧
    (inJob s a n = true → badSectors s a n ≠ [] → s.biFilter.length + (linesOf a n).length ≤ filterSize →
      ∃ t, exec (.hdmAccess false a n []) s = .next t ∧ t.mem = s.mem ∧ .hdm true [] ∈ t.out) ∧
    (inJob s a n = true → badSectors s a n = [] → s.biFilter.length + (linesOf a n).length ≤ filterSize →
      ∃ t, exec (.hdmAccess false a n []) s = .next t ∧ t.mem = s.mem ∧ .hdm false (memRead s a n) ∈ t.out) ∧
    (inJob s a n = false → ∃ t, exec (.hdmAccess false a n []) s = .next t ∧ t.mem = s.mem ∧ .hdm true [] ∈ t.out ∧
      odGet t 0x6300 0x05 = min cntMax (odGet s 0x6300 0x05 + 1))) ∧
  (∀ (s : State) (u q : Nat), (runCmd s u q 0x80 = none → ∃ t, exec (.hostAccessFail true u q) s = .next t ∧
      odGet t 0x6000 0x08 = min cntMax (odGet s 0x6000 0x08 + 1) ∧ t.mem = s.mem) ∧
    (∀ c, runCmd s u q 0x80 = some c → cpDHOST c.word = true → ∃ t, exec (.hostAccessFail true u q) s = .next t ∧ ended t u q c.serial) ∧
    (runCmd s u q 0x80 = none → exec (.hostAccessFail false u q) s = .next s) ∧
    (∀ c, runCmd s u q 0x80 = some c → cpSHOST c.word = true → ∃ t, exec (.hostAccessFail false u q) s = .next t ∧
      exec (.copy u q ⟨false, true, []⟩) s = .next t)) ∧
  (∀ (s : State) (off size v u q : Nat), s.linkUp = true → doorbellQueue off = some (u, q) →
    (size = 4 → off % 4 = 0 → orphaned s = false → qGet s u q 6 ≠ 0 → tailOk s u q (v % 2 ^ 32) = true →
      ∃ t, exec (.doorbellWrite off size v) s = .next t ∧ qGet t u q 5 = v % 2 ^ 32 ∧
        (qGet s u q 6 = 1 ∨ qGet s u q 6 = 2 → qGet t u q 6 = if qGet s u q 4 = v % 2 ^ 32 then 1 else 2)) ∧
    (size = 4 → off % 4 = 0 → orphaned s = false → qGet s u q 6 ≠ 0 → tailOk s u q (v % 2 ^ 32) = false →
      ∃ t, exec (.doorbellWrite off size v) s = .next t ∧ qGet t u q 5 = qGet s u q 5) ∧
    (size ≠ 4 ∨ off % 4 ≠ 0 ∨ orphaned s = true ∨ qGet s u q 6 = 0 → ∃ t, exec (.doorbellWrite off size v) s = .next t ∧
      odGet t 0x6000 0x09 = min cntMax (odGet s 0x6000 0x09 + 1) ∧ qGet t u q 5 = qGet s u q 5)) ∧
  (∀ (s : State) (v : Nat), s.linkUp = true → attached s = true → ∃ t, exec (.heartbeat 4 v) s = .next t ∧ t.beatAt = s.uptime ∧ t.od = s.od) ∧
  (∀ (s : State), attached s = true → (s.uptime < s.beatAt + odGet s 0x6100 0x01 * msTicks → exec .heartbeatLapse s = .next s) ∧
    (s.beatAt + odGet s 0x6100 0x01 * msTicks ≤ s.uptime → ∃ t, exec .heartbeatLapse s = .next t ∧ orphaned t = true)) ∧
  (∀ (s : State), orphaned s = true → s.drainAt + odGet s 0x9000 0x08 * msTicks ≤ s.uptime → ∃ t, exec .orphanDrainLimit s = .next t ∧
    ∀ p ∈ allQueues, qGet t p.1 p.2 6 = if queueLive s p.1 p.2 then 4 else qGet s p.1 p.2 6)

/-! ### The supplies and the start-up (R409 to R411, R449, R505, R510 to R513, R517, R527, R529) -/

/-- A supply that becomes good counts as such. The start runs through its steps: the fuses are read in step 1, the ROM runs from step 2, the
stacks of step 5 start with zeros, a stack that fails its training being retired; the die links train in step 6, the cores are tested in
step 7, and step 8 wakes the ports that have light, and ends at the laser wait at the latest, a port that trains with too few lanes then being
isolated. Fuses that cannot be read stop the start, with the ROM left to answer. A bad erratum in step 6 ends the start with
the link down. A VBULK power-fail stops the work, demands a flush while VAUX is there to hold the recorder, and resumes at step 3; a package
power-fail leaves the package cold, and heaters that lose their supply leave every port DARK. -/
def Obligations.StartUpAndSuppliesRun : Prop :=
  (∀ s : State, (s.vaux = false → ∃ t, exec (.supplyGood 1) s = .next t ∧ t.vaux = true ∧ t.uptime = 0) ∧
    (s.vhtr = false → ∃ t, exec (.supplyGood 2) s = .next t ∧ t.vhtr = true) ∧
    (s.waitingReqs = [] → s.vbulk = false → ∃ t, exec (.supplyGood 0) s = .next t ∧ t.vbulk = true ∧ bitOf (odGet t 0x2100 0x05) 3 = false ∧
      (startStep s = 0 → s.romRuns = true → s.vbulkLost = false → odGet s 0x1100 0x02 = 6 → startStep t = 3)) ∧
    (s.vbulk = true → ∃ t, exec (.supplyGood 0) s = .next t ∧ t.vbulk = true ∧ bitOf (odGet t 0x2100 0x05) 3 = false) ∧
    (s.waitingReqs = [] → s.romRuns = true → s.vbulkLost = true → startStep s = 0 → ∃ t, exec .vbulkResume s = .next t ∧ t.vbulk = true ∧
      t.vbulkLost = false ∧ startStep t = 3 ∧ bitOf (odGet t 0x2100 0x05) 3 = false)) ∧
  (∀ (s : State) (result rpos : Nat), s.vaux = true → startStep s = 0 → s.romRuns = false → result < 3 → rpos < 16 →
    ∃ t, exec (.fuseLoad result rpos) s = .next t ∧ t.clk25 = true ∧ t.aonUp = true ∧ t.rposLatched = rpos ∧ odGet t 0x8100 0x08 = result ∧
      startStep t = (if result = 2 then 0 else 2) ∧ (result = 2 → t.romRuns = true ∧ odGet t 0x1100 0x02 = 1)) ∧
  (∀ s : State, startStep s = 2 → ∃ t, exec .bootRomStart s = .next t ∧ t.romRuns = true ∧ odGet t 0x6800 0x01 = 1 ∧
    startStep t = (if s.vbulk then 3 else 0) ∧ (s.vbulk = false → odGet t 0x1100 0x02 = 6)) ∧
  (∀ (s : State) (failed : List (Nat × Nat)) (ms : Nat), startStep s = 5 → ∃ t, exec (.hbm4Training failed ms) s = .next t ∧ startStep t = 6 ∧
    (∀ a, a < stackTop → memByte t a = 0) ∧
    ∀ st ch, failed = [(st, ch)] → s.flashRetired = [] → st < 24 → ch < 32 → stackState s st ≠ 3 → stackState t st = 2 ∧ st ∈ t.flashRetired) ∧
  (∀ (s : State) (failed : List (Nat × Nat × Nat)) (ms : Nat), startStep s = 6 →
    (∃ t, exec (.dieLinkTraining failed true ms) s = .next t ∧ startStep t = 7 ∧ t.mem = s.mem) ∧
    ∃ t, exec (.dieLinkTraining failed false ms) s = .next t ∧ startStep t = 0 ∧ odGet t 0x1100 0x02 = 3 ∧
      (s.chans = [] → (∀ c ∈ s.cmds, c.stage ≠ .done) → t.linkUp = false)) ∧
  (∀ (s : State) (failed : List Nat) (ms : Nat), startStep s = 7 → ∃ t, exec (.quickLogicSelfTest failed ms) s = .next t ∧ startStep t = 8 ∧
    t.acc = [] ∧ ∀ a, scratchBase ≤ a → a < tallyWindow → memByte t a = 0) ∧
  (∀ (s : State) (laser : List Nat), s.Sound → startStep s = 8 → s.vhtr = true → ∃ t, exec (.opticalStart laser) s = .next t ∧ 8 ≤ startStep t ∧
    ∀ p, p < 16 → (getPort t p).laser = laser.contains p ∧
      (p ∈ laser → portState s p = 0 → portEnabled s p = true → portState t p = 1)) ∧
  (∀ s : State, startStep s = 8 → s.vhtr = true → s.stepAt + odGet s 0x1100 0x07 * 100000000 ≤ s.uptime →
    ∃ t, exec .laserWaitExpiry s = .next t ∧ 9 ≤ startStep t ∧
      ∀ p, p < 16 → portState s p = 1 → enoughLanes s p = false → portState t p = 4) ∧
  (∀ (s : State) (high : Bool), s.vbulk = true → ∃ t, exec (.vbulkPowerFail high) s = .next t ∧ t.vbulk = false ∧ t.flushing = s.aonUp ∧
    t.vbulkLost = (s.vbulkLost || 3 ≤ startStep s) ∧ (s.romRuns = true → odGet s 0x1100 0x02 ≠ 1 → startStep t = 0) ∧
    (s.chans = [] → t.cmds = [] ∧ t.mem = [] ∧ t.acc = [] ∧ t.linkUp = false)) ∧
  (∀ (s : State) (cause : Nat), s.vaux = true →
    (cause = 1 ∨ cause = 2 → ∃ t, exec (.packagePowerFail cause) s = .next t ∧ t.vaux = false ∧ t.cmds = [] ∧ t.mem = [] ∧ t.aonUp = false ∧
      t.flushRan = true ∧ startStep t = 0) ∧
    (s.clk25 = true → ∃ t, exec .clk25Loss s = .next t ∧ t.clk25 = false ∧ t.uptime = s.uptime ∧ t.cmds = [] ∧ t.mem = [] ∧ t.aonUp = false ∧
      t.flushRan = true ∧ startStep t = 0)) ∧
  (∀ (s : State) (mV : Nat), s.vhtr = true → mV < 1600 ∨ 2000 < mV → ∃ t, exec (.heatersOff mV) s = .next t ∧ t.vhtr = false ∧
    ∀ p, p < 16 → portState t p = 0)
end

