-- ==== Sys2Proof/Laws/Store.lean ====
section
/-! SUPPORT. Laws of the sparse stores: a read after a write, and the canonical form kept by every operation. -/

set_option Elab.async false

namespace Sys2Proof.Machine

theorem Store.okFrom_lower {α : Type} [DecidableEq α] {d : α} {lo : Option Nat} {m : Store α} (h : Store.okFrom d lo m = true) :
    Store.okFrom d none m = true := by
  cases m with
  | nil => rfl
  | cons p r =>
    simp only [Store.okFrom, Bool.and_eq_true] at h ⊢
    exact ⟨⟨trivial, h.1.2⟩, h.2⟩

theorem Store.okFrom_mono {α : Type} [DecidableEq α] {d : α} {j k : Nat} {m : Store α} (hjk : j ≤ k)
    (h : Store.okFrom d (some k) m = true) : Store.okFrom d (some j) m = true := by
  cases m with
  | nil => rfl
  | cons p r =>
    simp only [Store.okFrom, Bool.and_eq_true, decide_eq_true_eq] at h ⊢
    exact ⟨⟨by omega, h.1.2⟩, h.2⟩

theorem Store.put_okFrom {α : Type} [DecidableEq α] {d : α} : ∀ {m : Store α} {lo : Option Nat} {k : Nat} {v : α},
    Store.okFrom d lo m = true → (∀ l, lo = some l → l < k) → Store.okFrom d lo (Store.put d m k v) = true
  | [], lo, k, v, _, hk => by
    unfold Store.put
    split
    · rfl
    · cases lo <;> simp_all [Store.okFrom]
  | (j, w) :: r, lo, k, v, h, hk => by
    have h' := h
    simp only [Store.okFrom, Bool.and_eq_true, decide_eq_true_eq] at h
    unfold Store.put
    split
    · split
      · exact h'
      · refine by
          simp only [Store.okFrom, Bool.and_eq_true, decide_eq_true_eq]
          refine ⟨⟨?_, by assumption⟩, ⟨by assumption, h.1.2⟩, h.2⟩
          cases lo <;> simp_all
    · split
      · subst_vars
        split
        · cases lo with
          | none => exact Store.okFrom_lower h.2
          | some l => exact Store.okFrom_mono (Nat.le_of_lt (hk l rfl)) h.2
        · simp only [Store.okFrom, Bool.and_eq_true, decide_eq_true_eq]
          exact ⟨⟨h.1.1, by assumption⟩, h.2⟩
      · simp only [Store.okFrom, Bool.and_eq_true, decide_eq_true_eq]
        exact ⟨h.1, Store.put_okFrom h.2 (by intro l hl; cases hl; omega)⟩

/-- A write keeps the canonical form. -/
theorem Store.put_wf {α : Type} [DecidableEq α] {d : α} {m : Store α} {k : Nat} {v : α} (h : Store.wf d m = true) :
    Store.wf d (Store.put d m k v) = true :=
  Store.put_okFrom h (by intro l hl; cases hl)

theorem Store.putList_wf {α : Type} [DecidableEq α] {d : α} (l : List α) {m : Store α} {k : Nat} (h : Store.wf d m = true) :
    Store.wf d (Store.putList d m k l) = true := by
  induction l generalizing m k with
  | nil => exact h
  | cons v r ih => exact ih (Store.put_wf h)

theorem Store.filter_okFrom {α : Type} [DecidableEq α] {d : α} (p : Nat × α → Bool) : ∀ {m : Store α} {lo : Option Nat},
    Store.okFrom d lo m = true → Store.okFrom d lo (m.filter p) = true
  | [], _, _ => rfl
  | (j, w) :: r, lo, h => by
    simp only [Store.okFrom, Bool.and_eq_true, decide_eq_true_eq] at h
    have ih := Store.filter_okFrom p h.2
    simp only [List.filter_cons]
    split
    · simp only [Store.okFrom, Bool.and_eq_true, decide_eq_true_eq]
      exact ⟨h.1, ih⟩
    · cases lo with
      | none => exact Store.okFrom_lower ih
      | some l => exact Store.okFrom_mono (by have := h.1.1; simp at this; omega) ih

theorem Store.filter_wf {α : Type} [DecidableEq α] {d : α} (p : Nat × α → Bool) {m : Store α} (h : Store.wf d m = true) :
    Store.wf d (m.filter p) = true := Store.filter_okFrom p h

theorem Store.dropRange_wf {α : Type} [DecidableEq α] {d : α} {m : Store α} {lo hi : Nat} (h : Store.wf d m = true) :
    Store.wf d (Store.dropRange m lo hi) = true := Store.filter_wf _ h

/-- What a store lists after a write was listed before, or is the pair written. -/
theorem Store.mem_put {α : Type} [DecidableEq α] {d : α} : ∀ {m : Store α} {k : Nat} {v : α} {p : Nat × α},
    p ∈ Store.put d m k v → p ∈ m ∨ p = (k, v)
  | [], k, v, p, h => by
    unfold Store.put at h
    split at h <;> simp_all
  | (j, w) :: r, k, v, p, h => by
    unfold Store.put at h
    split at h
    · split at h
      · exact .inl h
      · cases h with
        | head => exact .inr rfl
        | tail _ h => exact .inl h
    · split at h
      · split at h
        · exact .inl (.tail _ h)
        · cases h with
          | head => exact .inr rfl
          | tail _ h => exact .inl (.tail _ h)
      · cases h with
        | head => exact .inl (.head _)
        | tail _ h =>
          cases Store.mem_put h with
          | inl h => exact .inl (.tail _ h)
          | inr h => exact .inr h

theorem Store.get_eq_of_le {α : Type} [DecidableEq α] {d : α} {m : Store α} {lo k : Nat} (h : Store.okFrom d (some lo) m = true)
    (hk : k ≤ lo) : Store.get d m k = d := by
  cases m with
  | nil => rfl
  | cons p r =>
    obtain ⟨j, w⟩ := p
    simp only [Store.okFrom, Bool.and_eq_true, decide_eq_true_eq] at h
    have : k < j := by omega
    simp [Store.get, this]

theorem Store.get_put_from {α : Type} [DecidableEq α] {d : α} : ∀ {m : Store α} {lo : Option Nat} {k : Nat} {v : α},
    Store.okFrom d lo m = true → Store.get d (Store.put d m k v) k = v
  | [], _, k, v, _ => by
    unfold Store.put
    split <;> simp_all [Store.get]
  | (j, w) :: r, lo, k, v, h => by
    simp only [Store.okFrom, Bool.and_eq_true, decide_eq_true_eq] at h
    unfold Store.put
    split
    · split
      · simp_all [Store.get]
      · simp [Store.get]
    · split
      · subst_vars
        split
        · subst_vars; exact Store.get_eq_of_le h.2 (Nat.le_refl _)
        · simp [Store.get]
      · simp_all [Store.get, Store.get_put_from h.2]

/-- A read after a write to the same key gives the value written. -/
theorem Store.get_put {α : Type} [DecidableEq α] {d : α} {m : Store α} {k : Nat} {v : α} (h : Store.wf d m = true) :
    Store.get d (Store.put d m k v) k = v := Store.get_put_from h

/-- A write leaves every other key alone. -/
theorem Store.get_put_of_ne {α : Type} [DecidableEq α] {d : α} : ∀ {m : Store α} {lo : Option Nat} {k x : Nat} {v : α},
    Store.okFrom d lo m = true → x ≠ k → Store.get d (Store.put d m k v) x = Store.get d m x
  | [], _, k, x, v, _, hx => by
    unfold Store.put
    split
    · rfl
    · simp only [Store.get]; split <;> simp_all
  | (j, w) :: r, lo, k, x, v, h, hx => by
    simp only [Store.okFrom, Bool.and_eq_true, decide_eq_true_eq] at h
    unfold Store.put
    split
    · split
      · rfl
      · simp only [Store.get]
        repeat' split
        all_goals first | rfl | omega
    · split
      · subst_vars
        split
        · simp only [Store.get]
          repeat' split
          all_goals first | rfl | omega | exact Store.get_eq_of_le h.2 (by omega)
        · simp [Store.get, hx]
      · simp only [Store.get, Store.get_put_of_ne h.2 hx]

/-! ### Lists of rising numbers -/

theorem Store.map_okFrom {α : Type} [DecidableEq α] {d : α} {f : Nat × α → Nat × α} (hk : ∀ p, (f p).1 = p.1)
    (hd : ∀ p, p.2 ≠ d → (f p).2 ≠ d) : ∀ {m : Store α} {lo : Option Nat},
    Store.okFrom d lo m = true → Store.okFrom d lo (m.map f) = true
  | [], _, _ => rfl
  | (j, w) :: r, lo, h => by
    simp only [Store.okFrom, Bool.and_eq_true, decide_eq_true_eq] at h
    have e : f (j, w) = (j, (f (j, w)).2) := Prod.ext (hk _) rfl
    rw [List.map_cons, e]
    simp only [Store.okFrom, Bool.and_eq_true, decide_eq_true_eq]
    exact ⟨⟨h.1.1, hd _ h.1.2⟩, Store.map_okFrom hk hd h.2⟩

/-- Changing values to others that are no default keeps the canonical form. -/
theorem Store.map_wf {α : Type} [DecidableEq α] {d : α} {f : Nat × α → Nat × α} {m : Store α} (hk : ∀ p, (f p).1 = p.1)
    (hd : ∀ p, p.2 ≠ d → (f p).2 ≠ d) (h : Store.wf d m = true) : Store.wf d (m.map f) = true := Store.map_okFrom hk hd h

theorem insertNat_mem {l : List Nat} {k x : Nat} (h : x ∈ insertNat l k) : x ∈ l ∨ x = k := by
  induction l with
  | nil => simpa [insertNat] using h
  | cons j r ih =>
    unfold insertNat at h
    split at h
    · simp at h; simp; tauto
    · split at h
      · exact .inl h
      · simp only [List.mem_cons] at h ⊢
        rcases h with h | h
        · exact .inl (.inl h)
        · rcases ih h with h | h
          · exact .inl (.inr h)
          · exact .inr h

theorem insertNat_rising {l : List Nat} {k : Nat} (h : l.Pairwise (· < ·)) : (insertNat l k).Pairwise (· < ·) := by
  induction l with
  | nil => simp [insertNat]
  | cons j r ih =>
    have h' := h
    simp only [List.pairwise_cons] at h
    unfold insertNat
    split
    · refine List.pairwise_cons.mpr ⟨fun x hx => ?_, h'⟩
      cases hx with
      | head => assumption
      | tail _ hx => have := h.1 x hx; omega
    · split
      · exact h'
      · refine List.pairwise_cons.mpr ⟨fun x hx => ?_, ih h.2⟩
        rcases insertNat_mem hx with hx | hx
        · exact h.1 x hx
        · omega

theorem eraseNat_rising {l : List Nat} {k : Nat} (h : l.Pairwise (· < ·)) : (eraseNat l k).Pairwise (· < ·) := by
  unfold eraseNat
  exact h.filter _

end Sys2Proof.Machine
end

