-- ==== Sys2Proof/Laws/Changes.lean ====
section
/-! SUPPORT. What a function of the machine can change: `Changes K s t` says that `t` comes from `s` with only the kinds of state in `K`
touched, with the queue of waiting commands as it was, and with soundness kept. One lemma for each function of the machine
(Laws/Footprint*.lean) says this of it; frames and facts about every step follow. -/

set_option Elab.async false

namespace Sys2Proof.Machine

theorem Kind.same_refl (k : Kind) (s : State) : k.same s s := by
  cases k <;> simp [Kind.same]

theorem Kind.same_trans (k : Kind) {s t u : State} (h : k.same s t) (g : k.same t u) : k.same s u := by
  cases k <;> simp only [Kind.same] at h g ⊢ <;> simp [g, h]

/-- Only kinds in `K` change, the waiting commands stay, and soundness is kept. -/
structure Changes (K : List Kind) (s t : State) : Prop where
  pending : t.pending = s.pending
  sound : s.Sound → t.Sound
  same : ∀ k, K.contains k = false → k.same s t

theorem Changes.refl {K : List Kind} {s : State} : Changes K s s := ⟨rfl, id, fun k _ => k.same_refl s⟩

theorem Changes.trans {K : List Kind} {s t u : State} (h : Changes K s t) (g : Changes K t u) : Changes K s u :=
  ⟨g.pending.trans h.pending, g.sound ∘ h.sound, fun k hk => k.same_trans (h.same k hk) (g.same k hk)⟩

/-- The kinds of one list all stand in another. -/
def kindsIn (J K : List Kind) : Bool := J.all (fun k => K.contains k)

theorem Changes.mono {J K : List Kind} {s t : State} (h : Changes J s t) (hJ : kindsIn J K = true) : Changes K s t := by
  refine ⟨h.pending, h.sound, fun k hk => h.same k ?_⟩
  cases hc : J.contains k with
  | false => rfl
  | true =>
    have := List.all_eq_true.mp hJ k (by simpa using hc)
    simp_all

theorem kindsIn_trans {I J K : List Kind} (h : kindsIn I J = true) (g : kindsIn J K = true) : kindsIn I K = true := by
  refine List.all_eq_true.mpr fun k hk => ?_
  have hj := List.all_eq_true.mp h k hk
  exact List.all_eq_true.mp g k (by simpa using hj)

/-- A further step after a state already reached. -/
theorem Changes.step {J K : List Kind} {s e t : State} (g : Changes J e t) (hJ : kindsIn J K = true) (h : Changes K s e) :
    Changes K s t := h.trans (g.mono hJ)

theorem Changes.ite_snd {α : Type} {K : List Kind} {s : State} {c : Prop} [Decidable c] {x y : α × State}
    (h : Changes K s x.2) (g : Changes K s y.2) : Changes K s (if c then x else y).2 := by
  by_cases hc : c
  · rw [if_pos hc]; exact h
  · rw [if_neg hc]; exact g

theorem Changes.foldl {α : Type} {K : List Kind} {s0 s : State} {f : State → α → State} (l : List α) (h : Changes K s0 s)
    (hf : ∀ s a, Changes K s (f s a)) : Changes K s0 (l.foldl f s) := by
  induction l generalizing s with
  | nil => exact h
  | cons a r ih => exact ih (h.trans (hf s a))

theorem Changes.foldl_fst {α β : Type} {K : List Kind} {s0 : State} {f : State × β → α → State × β} {b : State × β} (l : List α)
    (h : Changes K s0 b.1) (hf : ∀ b a, Changes K b.1 (f b a).1) : Changes K s0 (l.foldl f b).1 := by
  induction l generalizing b with
  | nil => exact h
  | cons a r ih => exact ih (h.trans (hf b a))

theorem Changes.foldl_snd {α β : Type} {K : List Kind} {s0 : State} {f : β × State → α → β × State} {b : β × State} (l : List α)
    (h : Changes K s0 b.2) (hf : ∀ b a, Changes K b.2 (f b a).2) : Changes K s0 (l.foldl f b).2 := by
  induction l generalizing b with
  | nil => exact h
  | cons a r ih => exact ih (h.trans (hf b a))

theorem Changes.foldl_run {α β : Type} {K : List Kind} {s0 : State} {f : β × VRun → α → β × VRun} {b : β × VRun} (l : List α)
    (h : Changes K s0 b.2.st) (hf : ∀ b a, Changes K b.2.st (f b a).2.st) : Changes K s0 (l.foldl f b).2.st := by
  induction l generalizing b with
  | nil => exact h
  | cons a r ih => exact ih (h.trans (hf b a))

theorem Changes.foldl_blocks {α : Type} {K : List Kind} {s0 : State} {f : Blocks → α → Blocks} {b : Blocks} (l : List α)
    (h : Changes K s0 b.st) (hf : ∀ b a, Changes K b.st (f b a).st) : Changes K s0 (l.foldl f b).st := by
  induction l generalizing b with
  | nil => exact h
  | cons a r ih => exact ih (h.trans (hf b a))

theorem Changes.foldl_trd {α β γ : Type} {K : List Kind} {s0 : State} {f : β × γ × State → α → β × γ × State} {b : β × γ × State}
    (l : List α) (h : Changes K s0 b.2.2) (hf : ∀ b a, Changes K b.2.2 (f b a).2.2) : Changes K s0 (l.foldl f b).2.2 := by
  induction l generalizing b with
  | nil => exact h
  | cons a r ih => exact ih (h.trans (hf b a))

theorem Changes.foldl_deep {α β γ : Type} {K : List Kind} {s0 : State} {f : β × γ × VRun → α → β × γ × VRun} {b : β × γ × VRun}
    (l : List α) (h : Changes K s0 b.2.2.st) (hf : ∀ b a, Changes K b.2.2.st (f b a).2.2.st) :
    Changes K s0 (l.foldl f b).2.2.st := by
  induction l generalizing b with
  | nil => exact h
  | cons a r ih => exact ih (h.trans (hf b a))

theorem Changes.foldl_lane {α : Type} {K : List Kind} {s0 : State} {f : VRun → α → VRun} {b : VRun} (l : List α)
    (h : Changes K s0 b.st) (hf : ∀ b a, Changes K b.st (f b a).st) : Changes K s0 (l.foldl f b).st := by
  induction l generalizing b with
  | nil => exact h
  | cons a r ih => exact ih (h.trans (hf b a))

/-- A record update: each kind is allowed or keeps its fields, and each part of soundness is kept. -/
theorem Changes.update {K : List Kind} {s0 e : State}
    {x_uptime : Nat} {x_free : Nat} {x_od : List (Nat × Nat)} {x_mem : List Host.Cell} {x_poison : List Nat} {x_lostCells : List (Nat × Nat)} {x_cleaned : List Nat} {x_corrected : List Nat} {x_readCounts : List ((Nat × Nat × Nat) × Nat)} {x_acc : List (Nat × BitVec 32)} {x_accBad : List Nat} {x_accFix : List Nat} {x_valid : List (Nat × Nat)} {x_cmds : List Cmd} {x_issues : Nat} {x_tallies : List (Nat × Nat)} {x_reserves : List (Nat × Nat)} {x_reserveEnds : List (Nat × Nat)} {x_budgets : List Budget} {x_holds : List (Nat × Nat)} {x_streams : List (Nat × BitVec 64)} {x_seeds : List (Nat × Nat)} {x_epoch : Nat} {x_seedPending : Bool} {x_wtiles : List WTile} {x_hawks : List Hawk} {x_screeds : List Screed} {x_slots : List (Nat × Nat)} {x_rowPtr : Nat} {x_retires : List Retire} {x_retirements : Nat} {x_retraining : List Nat} {x_laneErrs : List (Nat × Nat)} {x_flashLanes : List (Nat × Nat)} {x_retryLanes : List Nat} {x_diesOut : List Nat} {x_features : Nat} {x_msgidNext : Nat} {x_sends : List SendMsg} {x_recvs : List RecvCtx} {x_tombs : List Tomb} {x_srecs : List StreamRec} {x_inbox : List Packet} {x_transit : List Transit} {x_ports : List Port} {x_codewords : List (Nat × Nat)} {x_symbols : List (Nat × Nat)} {x_chans : List Chan} {x_vbulk : Bool} {x_vaux : Bool} {x_vhtr : Bool} {x_clk25 : Bool} {x_aonUp : Bool} {x_stretches : List Stretch} {x_arraySet : List Nat} {x_coreSet : List Nat} {x_coreMHz : List Nat} {x_allocHeld : Option Nat} {x_overWindows : Nat} {x_nominal : List (List Nat)} {x_dynamic : List Nat} {x_emergAt : Nat} {x_releasing : Bool} {x_emergNLow : Bool} {x_sensors : List (Nat × Int)} {x_trips : List Nat} {x_refreshes : List (Nat × Nat)} {x_refreshed : List (Nat × Nat)} {x_reports : List Report} {x_ring : List LogRec} {x_archive : List LogRec} {x_nextSeq : Nat} {x_flashMark : Nat} {x_copied : Nat} {x_flushing : Bool} {x_flushFailed : Bool} {x_flushRan : Bool} {x_unrecorded : List Nat} {x_dust : Bool} {x_dustAt : Nat} {x_heldEvents : List HeldEvent} {x_heldCount : Nat} {x_captures : List Capture} {x_patterns : List (List Byte)} {x_testing : Option (Nat × Option Nat)} {x_scanned : Bool} {x_sweepTest : Option Nat} {x_testNext : Nat} {x_testAt : Nat} {x_tested : List (Nat × Nat)} {x_skipped : List (Nat × Nat)} {x_fenceErrs : List (Nat × Nat)} {x_fencesIn : List Nat} {x_flashFenced : List Nat} {x_flashPos : List (Nat × Nat)} {x_rescan : List Nat} {x_flashRetired : List Nat} {x_flashRepairs : List (Nat × Nat)} {x_sweepOut : List Nat} {x_requesters : List Requester} {x_sessions : List Session} {x_notifies : Nat} {x_announces : Nat} {x_waitingReqs : List Waiting} {x_jobPages : List (Nat × List Byte)} {x_signing : Option (Path × List Byte × Nat)} {x_linkUp : Bool} {x_busMaster : Bool} {x_component : List (Nat × Nat)} {x_perstLow : Bool} {x_biFilter : List Nat} {x_biHeld : List Nat} {x_heldRecords : List (Nat × Nat × Nat)} {x_beatAt : Nat} {x_featuresBefore : Nat} {x_draining : List (Nat × Nat)} {x_drainAt : Nat} {x_image : List Byte} {x_imageDigest : Nat} {x_staged : Option (List Byte)} {x_romRuns : Bool} {x_fwRuns : Bool} {x_lapsed : Bool} {x_deferred : List Report} {x_sigIndex : Nat} {x_rposLatched : Nat} {x_stepAt : Nat} {x_vbulkLost : Bool} {x_keyed : List Nat} {x_msixOn : Bool} {x_msixMasked : Bool} {x_msixTable : List (Nat × Nat)} {x_msixPending : List Nat} {x_out : List Output}
    (h : Changes K s0 e)
    (h_clock : K.contains .clock = true ∨ (x_uptime = e.uptime) := by first | exact Or.inl rfl | with_reducible exact Or.inr rfl)
    (h_draws : K.contains .draws = true ∨ (x_free = e.free) := by first | exact Or.inl rfl | with_reducible exact Or.inr rfl)
    (h_od : K.contains .od = true ∨ (x_od = e.od) := by first | exact Or.inl rfl | with_reducible exact Or.inr rfl)
    (h_memory : K.contains .memory = true ∨ (x_mem = e.mem) := by first | exact Or.inl rfl | with_reducible exact Or.inr rfl)
    (h_sectors : K.contains .sectors = true ∨ (x_poison = e.poison ∧ x_lostCells = e.lostCells ∧ x_cleaned = e.cleaned ∧ x_corrected = e.corrected ∧ x_readCounts = e.readCounts) := by first | exact Or.inl rfl | with_reducible exact Or.inr ⟨rfl, rfl, rfl, rfl, rfl⟩)
    (h_accumulators : K.contains .accumulators = true ∨ (x_acc = e.acc ∧ x_accBad = e.accBad ∧ x_accFix = e.accFix ∧ x_valid = e.valid) := by first | exact Or.inl rfl | with_reducible exact Or.inr ⟨rfl, rfl, rfl, rfl⟩)
    (h_commands : K.contains .commands = true ∨ (x_cmds = e.cmds ∧ x_issues = e.issues) := by first | exact Or.inl rfl | with_reducible exact Or.inr ⟨rfl, rfl⟩)
    (h_tallies : K.contains .tallies = true ∨ (x_tallies = e.tallies) := by first | exact Or.inl rfl | with_reducible exact Or.inr rfl)
    (h_budget : K.contains .budget = true ∨ (x_reserves = e.reserves ∧ x_reserveEnds = e.reserveEnds ∧ x_budgets = e.budgets ∧ x_holds = e.holds) := by first | exact Or.inl rfl | with_reducible exact Or.inr ⟨rfl, rfl, rfl, rfl⟩)
    (h_streams : K.contains .streams = true ∨ (x_streams = e.streams ∧ x_seeds = e.seeds ∧ x_epoch = e.epoch ∧ x_seedPending = e.seedPending) := by first | exact Or.inl rfl | with_reducible exact Or.inr ⟨rfl, rfl, rfl, rfl⟩)
    (h_engines : K.contains .engines = true ∨ (x_wtiles = e.wtiles ∧ x_hawks = e.hawks ∧ x_screeds = e.screeds) := by first | exact Or.inl rfl | with_reducible exact Or.inr ⟨rfl, rfl, rfl⟩)
    (h_stacks : K.contains .stacks = true ∨ (x_slots = e.slots ∧ x_rowPtr = e.rowPtr ∧ x_retires = e.retires ∧ x_retirements = e.retirements ∧ x_flashRetired = e.flashRetired ∧ x_flashRepairs = e.flashRepairs) := by first | exact Or.inl rfl | with_reducible exact Or.inr ⟨rfl, rfl, rfl, rfl, rfl, rfl⟩)
    (h_dieLinks : K.contains .dieLinks = true ∨ (x_retraining = e.retraining ∧ x_laneErrs = e.laneErrs ∧ x_flashLanes = e.flashLanes ∧ x_retryLanes = e.retryLanes ∧ x_diesOut = e.diesOut) := by first | exact Or.inl rfl | with_reducible exact Or.inr ⟨rfl, rfl, rfl, rfl, rfl⟩)
    (h_features : K.contains .features = true ∨ (x_features = e.features ∧ x_featuresBefore = e.featuresBefore) := by first | exact Or.inl rfl | with_reducible exact Or.inr ⟨rfl, rfl⟩)
    (h_fabric : K.contains .fabric = true ∨ (x_msgidNext = e.msgidNext ∧ x_sends = e.sends ∧ x_recvs = e.recvs ∧ x_tombs = e.tombs ∧ x_srecs = e.srecs ∧ x_inbox = e.inbox ∧ x_transit = e.transit) := by first | exact Or.inl rfl | with_reducible exact Or.inr ⟨rfl, rfl, rfl, rfl, rfl, rfl, rfl⟩)
    (h_ports : K.contains .ports = true ∨ (x_ports = e.ports ∧ x_codewords = e.codewords ∧ x_symbols = e.symbols ∧ x_keyed = e.keyed) := by first | exact Or.inl rfl | with_reducible exact Or.inr ⟨rfl, rfl, rfl, rfl⟩)
    (h_channels : K.contains .channels = true ∨ (x_chans = e.chans) := by first | exact Or.inl rfl | with_reducible exact Or.inr rfl)
    (h_supplies : K.contains .supplies = true ∨ (x_vbulk = e.vbulk ∧ x_vaux = e.vaux ∧ x_vhtr = e.vhtr ∧ x_clk25 = e.clk25 ∧ x_aonUp = e.aonUp) := by first | exact Or.inl rfl | with_reducible exact Or.inr ⟨rfl, rfl, rfl, rfl, rfl⟩)
    (h_power : K.contains .power = true ∨ (x_stretches = e.stretches ∧ x_arraySet = e.arraySet ∧ x_coreSet = e.coreSet ∧ x_coreMHz = e.coreMHz ∧ x_allocHeld = e.allocHeld ∧ x_overWindows = e.overWindows ∧ x_nominal = e.nominal ∧ x_dynamic = e.dynamic ∧ x_emergAt = e.emergAt ∧ x_releasing = e.releasing ∧ x_emergNLow = e.emergNLow ∧ x_sensors = e.sensors ∧ x_trips = e.trips ∧ x_refreshes = e.refreshes ∧ x_refreshed = e.refreshed) := by first | exact Or.inl rfl | with_reducible exact Or.inr ⟨rfl, rfl, rfl, rfl, rfl, rfl, rfl, rfl, rfl, rfl, rfl, rfl, rfl, rfl, rfl⟩)
    (h_recorder : K.contains .recorder = true ∨ (x_reports = e.reports ∧ x_ring = e.ring ∧ x_archive = e.archive ∧ x_nextSeq = e.nextSeq ∧ x_flashMark = e.flashMark ∧ x_copied = e.copied ∧ x_flushing = e.flushing ∧ x_flushFailed = e.flushFailed ∧ x_flushRan = e.flushRan ∧ x_unrecorded = e.unrecorded ∧ x_dust = e.dust ∧ x_dustAt = e.dustAt ∧ x_heldEvents = e.heldEvents ∧ x_heldCount = e.heldCount ∧ x_deferred = e.deferred) := by first | exact Or.inl rfl | with_reducible exact Or.inr ⟨rfl, rfl, rfl, rfl, rfl, rfl, rfl, rfl, rfl, rfl, rfl, rfl, rfl, rfl, rfl⟩)
    (h_tests : K.contains .tests = true ∨ (x_captures = e.captures ∧ x_patterns = e.patterns ∧ x_testing = e.testing ∧ x_scanned = e.scanned ∧ x_sweepTest = e.sweepTest ∧ x_testNext = e.testNext ∧ x_testAt = e.testAt ∧ x_tested = e.tested ∧ x_skipped = e.skipped ∧ x_fenceErrs = e.fenceErrs ∧ x_fencesIn = e.fencesIn ∧ x_flashFenced = e.flashFenced ∧ x_flashPos = e.flashPos ∧ x_rescan = e.rescan ∧ x_sweepOut = e.sweepOut) := by first | exact Or.inl rfl | with_reducible exact Or.inr ⟨rfl, rfl, rfl, rfl, rfl, rfl, rfl, rfl, rfl, rfl, rfl, rfl, rfl, rfl, rfl⟩)
    (h_access : K.contains .access = true ∨ (x_requesters = e.requesters ∧ x_sessions = e.sessions ∧ x_notifies = e.notifies ∧ x_announces = e.announces ∧ x_waitingReqs = e.waitingReqs ∧ x_jobPages = e.jobPages ∧ x_signing = e.signing) := by first | exact Or.inl rfl | with_reducible exact Or.inr ⟨rfl, rfl, rfl, rfl, rfl, rfl, rfl⟩)
    (h_link : K.contains .link = true ∨ (x_linkUp = e.linkUp ∧ x_busMaster = e.busMaster ∧ x_component = e.component ∧ x_perstLow = e.perstLow ∧ x_biFilter = e.biFilter ∧ x_biHeld = e.biHeld ∧ x_heldRecords = e.heldRecords ∧ x_beatAt = e.beatAt) := by first | exact Or.inl rfl | with_reducible exact Or.inr ⟨rfl, rfl, rfl, rfl, rfl, rfl, rfl, rfl⟩)
    (h_drains : K.contains .drains = true ∨ (x_draining = e.draining ∧ x_drainAt = e.drainAt) := by first | exact Or.inl rfl | with_reducible exact Or.inr ⟨rfl, rfl⟩)
    (h_firmware : K.contains .firmware = true ∨ (x_image = e.image ∧ x_imageDigest = e.imageDigest ∧ x_staged = e.staged ∧ x_romRuns = e.romRuns ∧ x_fwRuns = e.fwRuns ∧ x_lapsed = e.lapsed ∧ x_sigIndex = e.sigIndex ∧ x_rposLatched = e.rposLatched ∧ x_stepAt = e.stepAt ∧ x_vbulkLost = e.vbulkLost) := by first | exact Or.inl rfl | with_reducible exact Or.inr ⟨rfl, rfl, rfl, rfl, rfl, rfl, rfl, rfl, rfl, rfl⟩)
    (h_output : K.contains .output = true ∨ (x_msixOn = e.msixOn ∧ x_msixMasked = e.msixMasked ∧ x_msixTable = e.msixTable ∧ x_msixPending = e.msixPending ∧ x_out = e.out) := by first | exact Or.inl rfl | with_reducible exact Or.inr ⟨rfl, rfl, rfl, rfl, rfl⟩)
    (w_memory : (Store.wf 0 e.mem = true) → (Store.wf 0 x_mem = true) := by first | with_reducible exact fun h => h | exact fun _ => by decide | exact fun h => Store.put_wf h | exact fun h => Store.putList_wf _ h | exact fun h => Store.dropRange_wf h | exact fun h => Store.filter_wf _ h)
    (w_poison : (List.Pairwise (· < ·) e.poison) → (List.Pairwise (· < ·) x_poison) := by first | with_reducible exact fun h => h | exact fun _ => by decide | exact fun h => insertNat_rising h | exact fun h => eraseNat_rising h | exact fun h => List.Pairwise.filter _ h)
    (w_acc : (Store.wf 0 e.acc = true) → (Store.wf 0 x_acc = true) := by first | with_reducible exact fun h => h | exact fun _ => by decide | exact fun h => Store.put_wf h | exact fun h => Store.putList_wf _ h | exact fun h => Store.dropRange_wf h | exact fun h => Store.filter_wf _ h)
    (w_tallies : (Store.wf 0 e.tallies = true) → (Store.wf 0 x_tallies = true) := by first | with_reducible exact fun h => h | exact fun _ => by decide | exact fun h => Store.put_wf h | exact fun h => Store.putList_wf _ h | exact fun h => Store.dropRange_wf h | exact fun h => Store.filter_wf _ h)
    (w_tallyBound : (∀ p ∈ e.tallies, p.2 < 2 ^ 32) → (∀ p ∈ x_tallies, p.2 < 2 ^ 32) := by first | with_reducible exact fun h => h | exact fun _ => by decide | exact fun h p hp => h p (List.mem_of_mem_filter hp))
    (w_od : (List.Pairwise (fun a b => a.1 < b.1) e.od) → (List.Pairwise (fun a b => a.1 < b.1) x_od) := by first | with_reducible exact fun h => h | exact fun _ => by decide | exact fun h => List.Pairwise.filter _ h)
    (w_reports : (List.length e.reports ≤ 256) → (List.length x_reports ≤ 256) := by first | with_reducible exact fun h => h | exact fun _ => by decide | (intro h; simp only [List.length_drop, List.length_append, List.length_cons, List.length_nil]; omega))
    (w_ring : (List.length e.ring ≤ 4096) → (List.length x_ring ≤ 4096) := by first | with_reducible exact fun h => h | exact fun _ => by decide | (intro h; simp only [List.length_drop, List.length_append, List.length_cons, List.length_nil]; omega))
    (w_ports : (List.length e.ports = 16) → (List.length x_ports = 16) := by first | with_reducible exact fun h => h | exact fun _ => by decide | exact fun h => by simpa using h)
    (w_valid : (Store.wf 0 e.valid = true) → (Store.wf 0 x_valid = true) := by first | with_reducible exact fun h => h | exact fun _ => by decide | exact fun h => Store.put_wf h | exact fun h => Store.putList_wf _ h | exact fun h => Store.dropRange_wf h | exact fun h => Store.filter_wf _ h)
    (w_reserves : (Store.wf 0 e.reserves = true) → (Store.wf 0 x_reserves = true) := by first | with_reducible exact fun h => h | exact fun _ => by decide | exact fun h => Store.put_wf h | exact fun h => Store.putList_wf _ h | exact fun h => Store.dropRange_wf h | exact fun h => Store.filter_wf _ h)
    (w_reserveEnds : (Store.wf 0 e.reserveEnds = true) → (Store.wf 0 x_reserveEnds = true) := by first | with_reducible exact fun h => h | exact fun _ => by decide | exact fun h => Store.put_wf h | exact fun h => Store.putList_wf _ h | exact fun h => Store.dropRange_wf h | exact fun h => Store.filter_wf _ h)
    (w_seeds : (Store.wf 0 e.seeds = true) → (Store.wf 0 x_seeds = true) := by first | with_reducible exact fun h => h | exact fun _ => by decide | exact fun h => Store.put_wf h | exact fun h => Store.putList_wf _ h | exact fun h => Store.dropRange_wf h | exact fun h => Store.filter_wf _ h)
    (w_slots : (Store.wf 0 e.slots = true) → (Store.wf 0 x_slots = true) := by first | with_reducible exact fun h => h | exact fun _ => by decide | exact fun h => Store.put_wf h | exact fun h => Store.putList_wf _ h | exact fun h => Store.dropRange_wf h | exact fun h => Store.filter_wf _ h)
    (w_codewords : (Store.wf 0 e.codewords = true) → (Store.wf 0 x_codewords = true) := by first | with_reducible exact fun h => h | exact fun _ => by decide | exact fun h => Store.put_wf h | exact fun h => Store.putList_wf _ h | exact fun h => Store.dropRange_wf h | exact fun h => Store.filter_wf _ h)
    (w_symbols : (Store.wf 0 e.symbols = true) → (Store.wf 0 x_symbols = true) := by first | with_reducible exact fun h => h | exact fun _ => by decide | exact fun h => Store.put_wf h | exact fun h => Store.putList_wf _ h | exact fun h => Store.dropRange_wf h | exact fun h => Store.filter_wf _ h)
    (w_sensors : (Store.wf 0 e.sensors = true) → (Store.wf 0 x_sensors = true) := by first | with_reducible exact fun h => h | exact fun _ => by decide | exact fun h => Store.put_wf h | exact fun h => Store.putList_wf _ h | exact fun h => Store.dropRange_wf h | exact fun h => Store.filter_wf _ h)
    : Changes K s0 (State.mk e.pending x_uptime x_free x_od x_mem x_poison x_lostCells x_cleaned x_corrected x_readCounts x_acc x_accBad x_accFix x_valid x_cmds x_issues x_tallies x_reserves x_reserveEnds x_budgets x_holds x_streams x_seeds x_epoch x_seedPending x_wtiles x_hawks x_screeds x_slots x_rowPtr x_retires x_retirements x_retraining x_laneErrs x_flashLanes x_retryLanes x_diesOut x_features x_msgidNext x_sends x_recvs x_tombs x_srecs x_inbox x_transit x_ports x_codewords x_symbols x_chans x_vbulk x_vaux x_vhtr x_clk25 x_aonUp x_stretches x_arraySet x_coreSet x_coreMHz x_allocHeld x_overWindows x_nominal x_dynamic x_emergAt x_releasing x_emergNLow x_sensors x_trips x_refreshes x_refreshed x_reports x_ring x_archive x_nextSeq x_flashMark x_copied x_flushing x_flushFailed x_flushRan x_unrecorded x_dust x_dustAt x_heldEvents x_heldCount x_captures x_patterns x_testing x_scanned x_sweepTest x_testNext x_testAt x_tested x_skipped x_fenceErrs x_fencesIn x_flashFenced x_flashPos x_rescan x_flashRetired x_flashRepairs x_sweepOut x_requesters x_sessions x_notifies x_announces x_waitingReqs x_jobPages x_signing x_linkUp x_busMaster x_component x_perstLow x_biFilter x_biHeld x_heldRecords x_beatAt x_featuresBefore x_draining x_drainAt x_image x_imageDigest x_staged x_romRuns x_fwRuns x_lapsed x_deferred x_sigIndex x_rposLatched x_stepAt x_vbulkLost x_keyed x_msixOn x_msixMasked x_msixTable x_msixPending x_out) := by
  refine h.trans ⟨rfl, ?_, ?_⟩
  · intro hs
    exact ⟨w_memory hs.memory, w_poison hs.poison, w_acc hs.acc, w_tallies hs.tallies, w_tallyBound hs.tallyBound, w_od hs.od, w_reports hs.reports, w_ring hs.ring, w_ports hs.ports, w_valid hs.valid, w_reserves hs.reserves, w_reserveEnds hs.reserveEnds, w_seeds hs.seeds, w_slots hs.slots, w_codewords hs.codewords, w_symbols hs.symbols, w_sensors hs.sensors⟩
  · intro k hk
    cases k
    · exact h_clock.resolve_left (by rw [hk]; decide)
    · exact h_draws.resolve_left (by rw [hk]; decide)
    · exact h_od.resolve_left (by rw [hk]; decide)
    · exact h_memory.resolve_left (by rw [hk]; decide)
    · exact h_sectors.resolve_left (by rw [hk]; decide)
    · exact h_accumulators.resolve_left (by rw [hk]; decide)
    · exact h_commands.resolve_left (by rw [hk]; decide)
    · exact h_tallies.resolve_left (by rw [hk]; decide)
    · exact h_budget.resolve_left (by rw [hk]; decide)
    · exact h_streams.resolve_left (by rw [hk]; decide)
    · exact h_engines.resolve_left (by rw [hk]; decide)
    · exact h_stacks.resolve_left (by rw [hk]; decide)
    · exact h_dieLinks.resolve_left (by rw [hk]; decide)
    · exact h_features.resolve_left (by rw [hk]; decide)
    · exact h_fabric.resolve_left (by rw [hk]; decide)
    · exact h_ports.resolve_left (by rw [hk]; decide)
    · exact h_channels.resolve_left (by rw [hk]; decide)
    · exact h_supplies.resolve_left (by rw [hk]; decide)
    · exact h_power.resolve_left (by rw [hk]; decide)
    · exact h_recorder.resolve_left (by rw [hk]; decide)
    · exact h_tests.resolve_left (by rw [hk]; decide)
    · exact h_access.resolve_left (by rw [hk]; decide)
    · exact h_link.resolve_left (by rw [hk]; decide)
    · exact h_drains.resolve_left (by rw [hk]; decide)
    · exact h_firmware.resolve_left (by rw [hk]; decide)
    · exact h_output.resolve_left (by rw [hk]; decide)

end Sys2Proof.Machine
end

