-- ==== Sys2Proof/Laws/FootprintOps.lean ====
section
/-! SUPPORT. What each function of Machine/Ops.lean can change. -/

set_option Elab.async false

set_option linter.unreachableTactic false
set_option linter.unusedTactic false
set_option linter.unnecessarySeqFocus false

namespace Sys2Proof.Machine

theorem odIns_mem {l : List (Nat × Nat)} {k v : Nat} {p : Nat × Nat} (h : p ∈ odIns l k v) : p ∈ l ∨ p = (k, v) := by
  induction l with
  | nil => simpa [odIns] using h
  | cons a r ih =>
    unfold odIns at h
    split at h
    · simp only [List.mem_cons] at h ⊢; tauto
    · split at h
      · simp only [List.mem_cons] at h ⊢; tauto
      · simp only [List.mem_cons] at h ⊢
        rcases h with h | h
        · exact .inl (.inl h)
        · rcases ih h with h | h
          · exact .inl (.inr h)
          · exact .inr h

theorem odIns_rising {l : List (Nat × Nat)} {k v : Nat} (h : l.Pairwise (fun a b => a.1 < b.1)) :
    (odIns l k v).Pairwise (fun a b => a.1 < b.1) := by
  induction l with
  | nil => simp [odIns]
  | cons a r ih =>
    have h' := h
    simp only [List.pairwise_cons] at h
    unfold odIns
    split
    · refine List.pairwise_cons.mpr ⟨fun x hx => ?_, h'⟩
      cases hx with
      | head => assumption
      | tail _ hx => exact Nat.lt_trans (by assumption) (h.1 x hx)
    · split
      · refine List.pairwise_cons.mpr ⟨fun x hx => ?_, h.2⟩
        have := h.1 x hx
        simp_all
      · refine List.pairwise_cons.mpr ⟨fun x hx => ?_, ih h.2⟩
        rcases odIns_mem hx with hx | hx
        · exact h.1 x hx
        · subst hx; simp only; omega

theorem odSet_changes (s : State) (i sub v : Nat) : Changes [.od] s (odSet s i sub v) := by
  unfold odSet
  exact Changes.update Changes.refl (w_od := odIns_rising)

theorem odCount_changes (s : State) (i sub n : Nat) :
    Changes [.od] s (odCount s i sub n) := by
  unfold odCount
  repeat' (first
    | with_reducible exact Changes.refl
    | with_reducible assumption
    | ((with_reducible apply Changes.step (odSet_changes _ _ _ _)); rfl)
    | split
    | dsimp only
    | intro _ _)

theorem emit_changes (s : State) (o : Output) :
    Changes [.output] s (emit s o) := by
  unfold emit
  repeat' (first
    | with_reducible exact Changes.refl
    | with_reducible assumption
    | split
    | dsimp only
    | intro _ _
    | with_reducible refine Changes.update ?_)

theorem emitAll_changes (s : State) (os : List Output) :
    Changes [.output] s (emitAll s os) := by
  unfold emitAll
  repeat' (first
    | with_reducible exact Changes.refl
    | with_reducible assumption
    | split
    | dsimp only
    | intro _ _
    | with_reducible refine Changes.update ?_)

theorem raiseVector_changes (s : State) (v : Nat) :
    Changes [.output] s (raiseVector s v) := by
  unfold raiseVector
  repeat' (first
    | with_reducible exact Changes.refl
    | with_reducible assumption
    | ((with_reducible apply Changes.step (emit_changes _ _)); rfl)
    | (show kindsIn _ _ = true; rfl)
    | split
    | dsimp only
    | intro _
    | with_reducible refine Changes.update ?_)

theorem sendPending_changes (s : State) :
    Changes [.output] s (sendPending s) := by
  unfold sendPending
  repeat' (first
    | with_reducible exact Changes.refl
    | with_reducible assumption
    | ((with_reducible apply Changes.step (emitAll_changes _ _)); rfl)
    | (show kindsIn _ _ = true; rfl)
    | split
    | dsimp only
    | intro _
    | with_reducible refine Changes.update ?_)

theorem freshNat_changes (s : State) (what w : Nat) :
    Changes [.draws] s (freshNat s what w).2 := by
  unfold freshNat
  repeat' (first
    | with_reducible exact Changes.refl
    | with_reducible assumption
    | split
    | dsimp only
    | intro _ _
    | with_reducible refine Changes.update ?_)

theorem ringPush_changes (s : State) (r : LogRec) :
    Changes [.recorder] s (ringPush s r) := by
  unfold ringPush
  repeat' (first
    | with_reducible exact Changes.refl
    | with_reducible assumption
    | split
    | dsimp only
    | intro _ _
    | with_reducible refine Changes.update ?_)

theorem addRecordRaw_changes (s : State) (r : LogRec) :
    Changes [.od, .recorder] s (addRecordRaw s r) := by
  unfold addRecordRaw
  repeat' (first
    | with_reducible exact Changes.refl
    | with_reducible assumption
    | ((with_reducible apply Changes.step (odCount_changes _ _ _ _)); rfl)
    | ((with_reducible apply Changes.step (ringPush_changes _ _)); rfl)
    | (show kindsIn _ _ = true; rfl)
    | split
    | dsimp only
    | intro _
    | with_reducible refine Changes.update ?_)

theorem notifyAll_changes (s : State) (payload : Nat) :
    Changes [.access, .output] s (notifyAll s payload) := by
  unfold notifyAll
  repeat' (first
    | with_reducible exact Changes.refl
    | with_reducible assumption
    | with_reducible apply Changes.foldl
    | split
    | dsimp only
    | intro _ _
    | with_reducible refine Changes.update ?_)

theorem snagSetRaw_changes (s : State) (b : Nat) :
    Changes [.od, .recorder, .access, .output] s (snagSetRaw s b) := by
  unfold snagSetRaw
  repeat' (first
    | with_reducible exact Changes.refl
    | with_reducible assumption
    | ((with_reducible apply Changes.step (addRecordRaw_changes _ _)); rfl)
    | ((with_reducible apply Changes.step (notifyAll_changes _ _)); rfl)
    | ((with_reducible apply Changes.step (odCount_changes _ _ _ _)); rfl)
    | ((with_reducible apply Changes.step (odSet_changes _ _ _ _)); rfl)
    | (show kindsIn _ _ = true; rfl)
    | split
    | dsimp only
    | intro _)

theorem detectReport_changes (s : State) (r : Report) :
    Changes [.draws] s (detectReport s r).2 := by
  unfold detectReport
  repeat' (first
    | with_reducible exact Changes.refl
    | with_reducible assumption
    | ((with_reducible apply Changes.step (freshNat_changes _ _ _)); rfl)
    | split
    | dsimp only
    | intro _ _
    | with_reducible refine Changes.update ?_)

theorem moveHead_changes (s : State) (tail headSub lostSub : Nat) :
    Changes [.od, .recorder, .access, .output] s (moveHead s tail headSub lostSub) := by
  unfold moveHead
  repeat' (first
    | with_reducible exact Changes.refl
    | with_reducible assumption
    | ((with_reducible apply Changes.step (odCount_changes _ _ _ _)); rfl)
    | ((with_reducible apply Changes.step (odSet_changes _ _ _ _)); rfl)
    | ((with_reducible apply Changes.step (snagSetRaw_changes _ _)); rfl)
    | split
    | dsimp only
    | intro _ _)

theorem fileDetected_changes (s : State) (r : Report) :
    Changes [.od, .recorder, .access, .output] s (fileDetected s r) := by
  unfold fileDetected
  repeat' (first
    | with_reducible exact Changes.refl
    | with_reducible assumption
    | ((with_reducible apply Changes.step (addRecordRaw_changes _ _)); rfl)
    | ((with_reducible apply Changes.step (moveHead_changes _ _ _ _)); rfl)
    | ((with_reducible apply Changes.step (notifyAll_changes _ _)); rfl)
    | ((with_reducible apply Changes.step (odCount_changes _ _ _ _)); rfl)
    | ((with_reducible apply Changes.step (odSet_changes _ _ _ _)); rfl)
    | ((with_reducible apply Changes.step (raiseVector_changes _ _)); rfl)
    | (show kindsIn _ _ = true; rfl)
    | split
    | dsimp only
    | intro _
    | with_reducible refine Changes.update ?_)

theorem fileReportRaw_changes (s : State) (r : Report) :
    Changes [.draws, .od, .recorder, .access, .output] s (fileReportRaw s r) := by
  unfold fileReportRaw
  repeat' (first
    | with_reducible exact Changes.refl
    | with_reducible assumption
    | ((with_reducible apply Changes.step (detectReport_changes _ _)); rfl)
    | ((with_reducible apply Changes.step (fileDetected_changes _ _)); rfl)
    | split
    | dsimp only
    | intro _ _
    | with_reducible refine Changes.update ?_)

theorem saturationEvent_changes (s : State) (i sub : Nat) :
    Changes [.draws, .od, .recorder, .access, .output] s (saturationEvent s i sub) := by
  unfold saturationEvent
  repeat' (first
    | with_reducible exact Changes.refl
    | with_reducible assumption
    | ((with_reducible apply Changes.step (fileReportRaw_changes _ _)); rfl)
    | ((with_reducible apply Changes.step (snagSetRaw_changes _ _)); rfl)
    | split
    | dsimp only
    | intro _ _)

theorem saturationEvents_changes (n : Nat) (s0 s : State) :
    Changes [.draws, .od, .recorder, .access, .output] s (saturationEvents n s0 s) := by
  induction n generalizing s0 s with
  | zero => exact Changes.refl
  | succ n ih =>
    unfold saturationEvents
    split
    · exact Changes.refl
    · exact (Changes.foldl _ Changes.refl (fun s k => saturationEvent_changes s _ _)).trans (ih _ _)

theorem addRecord_changes (s : State) (r : LogRec) :
    Changes [.draws, .od, .recorder, .access, .output] s (addRecord s r) := by
  unfold addRecord
  repeat' (first
    | with_reducible exact Changes.refl
    | with_reducible assumption
    | ((with_reducible apply Changes.step (addRecordRaw_changes _ _)); rfl)
    | ((with_reducible apply Changes.step (saturationEvents_changes _ _ _)); rfl)
    | (show kindsIn _ _ = true; rfl)
    | split
    | dsimp only
    | intro _)

theorem snagSet_changes (s : State) (b : Nat) :
    Changes [.draws, .od, .recorder, .access, .output] s (snagSet s b) := by
  unfold snagSet
  repeat' (first
    | with_reducible exact Changes.refl
    | with_reducible assumption
    | ((with_reducible apply Changes.step (saturationEvents_changes _ _ _)); rfl)
    | ((with_reducible apply Changes.step (snagSetRaw_changes _ _)); rfl)
    | split
    | dsimp only
    | intro _ _)

theorem fileReport_changes (s : State) (r : Report) :
    Changes [.draws, .od, .recorder, .access, .output] s (fileReport s r) := by
  unfold fileReport
  repeat' (first
    | with_reducible exact Changes.refl
    | with_reducible assumption
    | ((with_reducible apply Changes.step (fileReportRaw_changes _ _)); rfl)
    | ((with_reducible apply Changes.step (saturationEvents_changes _ _ _)); rfl)
    | split
    | dsimp only
    | intro _ _)

theorem fileKept_changes (s : State) (r : Report) :
    Changes [.draws, .od, .recorder, .access, .output] s (fileKept s r) := by
  unfold fileKept
  repeat' (first
    | with_reducible exact Changes.refl
    | with_reducible assumption
    | ((with_reducible apply Changes.step (fileDetected_changes _ _)); rfl)
    | ((with_reducible apply Changes.step (saturationEvents_changes _ _ _)); rfl)
    | (show kindsIn _ _ = true; rfl)
    | split
    | dsimp only
    | intro _
    | with_reducible refine Changes.update ?_)

theorem fileCode_changes (s : State) (code unit detail : Nat) :
    Changes [.draws, .od, .recorder, .access, .output] s (fileCode s code unit detail) := by
  unfold fileCode
  repeat' (first
    | with_reducible exact Changes.refl
    | with_reducible assumption
    | ((with_reducible apply Changes.step (fileReport_changes _ _)); rfl)
    | split
    | dsimp only
    | intro _ _)

theorem odBump_changes (s : State) (i sub n : Nat) :
    Changes [.draws, .od, .recorder, .access, .output] s (odBump s i sub n) := by
  unfold odBump
  repeat' (first
    | with_reducible exact Changes.refl
    | with_reducible assumption
    | ((with_reducible apply Changes.step (odCount_changes _ _ _ _)); rfl)
    | ((with_reducible apply Changes.step (saturationEvent_changes _ _ _)); rfl)
    | ((with_reducible apply Changes.step (saturationEvents_changes _ _ _)); rfl)
    | split
    | dsimp only
    | intro _ _)

theorem stateChange_changes (s : State) (unit i sub v code sev : Nat) :
    Changes [.draws, .od, .recorder, .access, .output] s (stateChange s unit i sub v code sev) := by
  unfold stateChange
  repeat' (first
    | with_reducible exact Changes.refl
    | with_reducible assumption
    | ((with_reducible apply Changes.step (addRecord_changes _ _)); rfl)
    | ((with_reducible apply Changes.step (odSet_changes _ _ _ _)); rfl)
    | (show kindsIn _ _ = true; rfl)
    | split
    | dsimp only
    | intro _)

theorem msixAllContexts_changes (s : State) :
    Changes [.output] s (msixAllContexts s) := by
  unfold msixAllContexts
  repeat' (first
    | with_reducible exact Changes.refl
    | with_reducible assumption
    | ((with_reducible apply Changes.step (raiseVector_changes _ _)); rfl)
    | with_reducible apply Changes.foldl
    | with_reducible apply Changes.foldl_fst
    | with_reducible apply Changes.foldl_snd
    | with_reducible apply Changes.foldl_trd
    | with_reducible apply Changes.foldl_run
    | with_reducible apply Changes.foldl_deep
    | with_reducible apply Changes.foldl_lane
    | with_reducible apply Changes.foldl_blocks
    | (show kindsIn _ _ = true; rfl)
    | split
    | dsimp only
    | intro _)

theorem qSet_changes (s : State) (u q n v : Nat) :
    Changes [.od] s (qSet s u q n v) := by
  unfold qSet
  repeat' (first
    | with_reducible exact Changes.refl
    | with_reducible assumption
    | ((with_reducible apply Changes.step (odSet_changes _ _ _ _)); rfl)
    | split
    | dsimp only
    | intro _ _)

theorem settleQueue_changes (s : State) (u q : Nat) :
    Changes [.od] s (settleQueue s u q) := by
  unfold settleQueue
  repeat' (first
    | with_reducible exact Changes.refl
    | with_reducible assumption
    | ((with_reducible apply Changes.step (qSet_changes _ _ _ _ _)); rfl)
    | split
    | dsimp only
    | intro _ _)

theorem tallySet_changes (s : State) (t v : Nat) : Changes [.tallies] s (tallySet s t v) := by
  unfold tallySet
  refine Changes.update Changes.refl (w_tallies := fun h => Store.put_wf h) (w_tallyBound := fun h p hp => ?_)
  cases Store.mem_put hp with
  | inl h1 => exact h p h1
  | inr h1 => subst h1; exact Nat.mod_lt _ (by decide)

theorem tallyAdd_changes (s : State) (t a : Nat) :
    Changes [.tallies] s (tallyAdd s t a) := by
  unfold tallyAdd
  repeat' (first
    | with_reducible exact Changes.refl
    | with_reducible assumption
    | ((with_reducible apply Changes.step (tallySet_changes _ _ _)); rfl)
    | split
    | dsimp only
    | intro _ _)

theorem showEvidence_changes (s : State) :
    Changes [.access] s (showEvidence s) := by
  unfold showEvidence
  repeat' (first
    | with_reducible exact Changes.refl
    | with_reducible assumption
    | (show kindsIn _ _ = true; rfl)
    | split
    | dsimp only
    | intro _
    | with_reducible refine Changes.update ?_)

theorem aonTick_changes (s : State) :
    Changes [.clock, .access] s (aonTick s) := by
  unfold aonTick
  repeat' (first
    | with_reducible exact Changes.refl
    | with_reducible assumption
    | ((with_reducible apply Changes.step (showEvidence_changes _)); rfl)
    | (show kindsIn _ _ = true; rfl)
    | split
    | dsimp only
    | intro _
    | with_reducible refine Changes.update ?_)

end Sys2Proof.Machine
end

