-- ==== Sys2Proof/Laws/FootprintOperands.lean ====
section
/-! SUPPORT. What each function of Machine/Operands.lean can change. -/

set_option Elab.async false

set_option linter.unreachableTactic false
set_option linter.unusedTactic false
set_option linter.unnecessarySeqFocus false

namespace Sys2Proof.Machine

theorem setMark_changes (s : State) (sec : Nat) (on : Bool) :
    Changes [.sectors] s (setMark s sec on) := by
  unfold setMark
  repeat' (first
    | with_reducible exact Changes.refl
    | with_reducible assumption
    | split
    | dsimp only
    | intro _ _
    | with_reducible refine Changes.update ?_)

theorem markSector_changes (a n : Nat) (bad : List (Nat × Nat)) (s : State) (sec : Nat) :
    Changes [.sectors] s (markSector a n bad s sec) := by
  unfold markSector
  repeat' (first
    | with_reducible exact Changes.refl
    | with_reducible assumption
    | ((with_reducible apply Changes.step (setMark_changes _ _ _)); rfl)
    | split
    | dsimp only
    | intro _ _)

theorem markWrite_changes (s : State) (a n : Nat) (bad : List (Nat × Nat)) :
    Changes [.sectors] s (markWrite s a n bad) := by
  unfold markWrite
  repeat' (first
    | with_reducible exact Changes.refl
    | with_reducible assumption
    | ((with_reducible apply Changes.step (markSector_changes _ _ _ _ _)); rfl)
    | with_reducible apply Changes.foldl
    | split
    | dsimp only
    | intro _ _)

theorem memWriteBad_changes (s : State) (a : Nat) (d : List Byte) (bad : List (Nat × Nat)) :
    Changes [.memory, .sectors] s (memWriteBad s a d bad) := by
  unfold memWriteBad
  repeat' (first
    | with_reducible exact Changes.refl
    | with_reducible assumption
    | ((with_reducible apply Changes.step (markWrite_changes _ _ _ _)); rfl)
    | split
    | dsimp only
    | intro _ _
    | with_reducible refine Changes.update ?_)

theorem memWrite_changes (s : State) (a : Nat) (d : List Byte) :
    Changes [.memory, .sectors] s (memWrite s a d) := by
  unfold memWrite
  repeat' (first
    | with_reducible exact Changes.refl
    | with_reducible assumption
    | ((with_reducible apply Changes.step (memWriteBad_changes _ _ _ _)); rfl)
    | split
    | dsimp only
    | intro _ _)

theorem memPut_changes (s : State) (a n v : Nat) :
    Changes [.memory, .sectors] s (memPut s a n v) := by
  unfold memPut
  repeat' (first
    | with_reducible exact Changes.refl
    | with_reducible assumption
    | ((with_reducible apply Changes.step (memWrite_changes _ _ _)); rfl)
    | split
    | dsimp only
    | intro _ _)

theorem clearScratch_changes (s : State) (k : Nat) :
    Changes [.memory, .sectors] s (clearScratch s k) := by
  unfold clearScratch
  repeat' (first
    | with_reducible exact Changes.refl
    | with_reducible assumption
    | split
    | dsimp only
    | intro _ _
    | with_reducible refine Changes.update ?_)

end Sys2Proof.Machine
end

