-- ==== Sys2Proof/Laws/FootprintFlags.lean ====
section
/-! SUPPORT. What each function of Machine/Flags.lean can change. -/

set_option Elab.async false

set_option linter.unreachableTactic false
set_option linter.unusedTactic false
set_option linter.unnecessarySeqFocus false

namespace Sys2Proof.Machine

theorem stickyOr_changes (s : State) (u q : Nat) (f : Flags) :
    Changes [.od] s (stickyOr s u q f) := by
  unfold stickyOr
  repeat' (first
    | with_reducible exact Changes.refl
    | with_reducible assumption
    | ((with_reducible apply Changes.step (qSet_changes _ _ _ _ _)); rfl)
    | (show kindsIn _ _ = true; rfl)
    | split
    | dsimp only
    | intro _)

theorem streamPut_changes (s : State) (epoch id : Nat) (w : Word64) :
    Changes [.streams] s (streamPut s epoch id w) := by
  unfold streamPut
  repeat' (first
    | with_reducible exact Changes.refl
    | with_reducible assumption
    | (show kindsIn _ _ = true; rfl)
    | split
    | dsimp only
    | intro _
    | with_reducible refine Changes.update ?_)

theorem draw_changes (s : State) (epoch id : Nat) :
    Changes [.streams] s (draw s epoch id).2 := by
  unfold draw
  repeat' (first
    | with_reducible exact Changes.refl
    | with_reducible assumption
    | ((with_reducible apply Changes.step (streamPut_changes _ _ _ _)); rfl)
    | (show kindsIn _ _ = true; rfl)
    | split
    | dsimp only
    | intro _)

theorem drawList_changes (epoch : Nat) (x0 : List Nat) (s : State) :
    Changes [.streams] s (drawList epoch x0 s).2 := by
  induction x0 generalizing s with
  | nil => exact Changes.refl
  | cons a r ih =>
    unfold drawList
    repeat' (first
      | with_reducible exact Changes.refl
      | with_reducible assumption
      | ((with_reducible apply Changes.step (ih _)); rfl)
      | ((with_reducible apply Changes.step (draw_changes _ _ _)); rfl)
      | (show kindsIn _ _ = true; rfl)
      | split
      | dsimp only
      | intro _)

end Sys2Proof.Machine
end

