-- ==== Sys2Proof/Laws/FootprintCommands.lean ====
section
/-! SUPPORT. What each function of Machine/Commands.lean can change. -/

set_option Elab.async false

set_option linter.unreachableTactic false
set_option linter.unusedTactic false
set_option linter.unnecessarySeqFocus false

namespace Sys2Proof.Machine

theorem putCmd_changes (s : State) (c : Cmd) :
    Changes [.commands] s (putCmd s c) := by
  unfold putCmd
  repeat' (first
    | with_reducible exact Changes.refl
    | with_reducible assumption
    | (show kindsIn _ _ = true; rfl)
    | split
    | dsimp only
    | intro _
    | with_reducible refine Changes.update ?_)

theorem dropCmd_changes (s : State) (c : Cmd) :
    Changes [.commands] s (dropCmd s c) := by
  unfold dropCmd
  repeat' (first
    | with_reducible exact Changes.refl
    | with_reducible assumption
    | (show kindsIn _ _ = true; rfl)
    | split
    | dsimp only
    | intro _
    | with_reducible refine Changes.update ?_)

theorem issueSnoops_changes (s : State) (ranges : List (Nat × Nat)) :
    Changes [.draws, .od, .recorder, .access, .link, .output] s (issueSnoops s ranges) := by
  unfold issueSnoops
  repeat' (first
    | with_reducible exact Changes.refl
    | with_reducible assumption
    | ((with_reducible apply Changes.step (emitAll_changes _ _)); rfl)
    | ((with_reducible apply Changes.step (odBump_changes _ _ _ _)); rfl)
    | (show kindsIn _ _ = true; rfl)
    | split
    | dsimp only
    | intro _
    | with_reducible refine Changes.update ?_)

/-- A local write changes what its action changes, and what issuing invalidations changes. -/
theorem localWrite_changes {K : List Kind} {s0 s : State} {ranges : List (Nat × Nat)} {f : State → State}
    (hK : kindsIn [.draws, .od, .recorder, .access, .link, .output] K = true) (h : Changes K s0 s) (hf : ∀ e, Changes K e (f e)) :
    Changes K s0 (localWrite s ranges f) := by
  unfold localWrite
  split
  · exact h.trans (hf s)
  · split
    · exact Changes.step (issueSnoops_changes _ _) hK h
    · exact h

theorem hostWrite_changes (s : State) (a : Nat) (d : List Byte) (bad : List (Nat × Nat)) :
    Changes [.draws, .od, .recorder, .access, .output] s (hostWrite s a d bad) := by
  unfold hostWrite
  repeat' (first
    | with_reducible exact Changes.refl
    | with_reducible assumption
    | ((with_reducible apply Changes.step (emit_changes _ _)); rfl)
    | ((with_reducible apply Changes.step (odBump_changes _ _ _ _)); rfl)
    | (show kindsIn _ _ = true; rfl)
    | split
    | dsimp only
    | intro _)

theorem writeRecord_changes (s : State) (u q serial r : Nat) (irq : Bool) :
    Changes [.draws, .od, .memory, .sectors, .recorder, .access, .output] s (writeRecord s u q serial r irq) := by
  unfold writeRecord
  repeat' (first
    | with_reducible exact Changes.refl
    | with_reducible assumption
    | ((with_reducible apply Changes.step (hostWrite_changes _ _ _ _)); rfl)
    | ((with_reducible apply Changes.step (memPut_changes _ _ _ _)); rfl)
    | ((with_reducible apply Changes.step (raiseVector_changes _ _)); rfl)
    | (show kindsIn _ _ = true; rfl)
    | split
    | dsimp only
    | intro _
    | with_reducible refine Changes.update ?_)

theorem writeOrHold_changes (s : State) (x : Nat × Nat × Nat) :
    Changes [.draws, .od, .memory, .sectors, .recorder, .access, .link, .output] s (writeOrHold s x) := by
  unfold writeOrHold
  repeat' (first
    | with_reducible exact Changes.refl
    | with_reducible assumption
    | ((with_reducible apply Changes.step (issueSnoops_changes _ _)); rfl)
    | ((with_reducible apply Changes.step (writeRecord_changes _ _ _ _ _ _)); rfl)
    | (show kindsIn _ _ = true; rfl)
    | split
    | dsimp only
    | intro _
    | with_reducible refine Changes.update ?_)

theorem writeRecords_changes (x0 : Nat) (s : State) (x2 : Nat) (x3 : Nat) :
    Changes [.draws, .od, .memory, .sectors, .commands, .recorder, .access, .link, .output] s (writeRecords x0 s x2 x3) := by
  induction x0 generalizing s x2 x3 with
  | zero => exact Changes.refl
  | succ n ih =>
    unfold writeRecords
    repeat' (first
      | with_reducible exact Changes.refl
      | with_reducible assumption
      | ((with_reducible apply Changes.step (ih _ _ _)); rfl)
      | ((with_reducible apply Changes.step (dropCmd_changes _ _)); rfl)
      | ((with_reducible apply Changes.step (issueSnoops_changes _ _)); rfl)
      | ((with_reducible apply Changes.step (writeRecord_changes _ _ _ _ _ _)); rfl)
      | (show kindsIn _ _ = true; rfl)
      | split
      | dsimp only
      | intro _)

theorem putHawk_changes (s : State) (h : Hawk) :
    Changes [.engines] s (putHawk s h) := by
  unfold putHawk
  repeat' (first
    | with_reducible exact Changes.refl
    | with_reducible assumption
    | (show kindsIn _ _ = true; rfl)
    | split
    | dsimp only
    | intro _
    | with_reducible refine Changes.update ?_)

theorem releaseHawks_changes (s : State) (c : Cmd) (keep : Bool) :
    Changes [.engines] s (releaseHawks s c keep) := by
  unfold releaseHawks
  repeat' (first
    | with_reducible exact Changes.refl
    | with_reducible assumption
    | (show kindsIn _ _ = true; rfl)
    | split
    | dsimp only
    | intro _
    | with_reducible refine Changes.update ?_)

theorem discardHeld_changes (s : State) (u q : Nat) :
    Changes [.draws, .od, .engines, .recorder, .access, .output] s (discardHeld s u q) := by
  unfold discardHeld
  repeat' (first
    | with_reducible exact Changes.refl
    | with_reducible assumption
    | ((with_reducible apply Changes.step (odBump_changes _ _ _ _)); rfl)
    | (show kindsIn _ _ = true; rfl)
    | split
    | dsimp only
    | intro _
    | with_reducible refine Changes.update ?_)

theorem dropTiles_changes (s : State) (c : Cmd) :
    Changes [.engines] s (dropTiles s c) := by
  unfold dropTiles
  repeat' (first
    | with_reducible exact Changes.refl
    | with_reducible assumption
    | (show kindsIn _ _ = true; rfl)
    | split
    | dsimp only
    | intro _
    | with_reducible refine Changes.update ?_)

theorem addWindow_changes (s : State) (d e : Nat) :
    Changes [.power] s (addWindow s d e) := by
  unfold addWindow
  repeat' (first
    | with_reducible exact Changes.refl
    | with_reducible assumption
    | (show kindsIn _ _ = true; rfl)
    | split
    | dsimp only
    | intro _
    | with_reducible refine Changes.update ?_)

theorem settleEnergy_changes (s : State) (c : Cmd) :
    Changes [.power] s (settleEnergy s c) := by
  unfold settleEnergy
  repeat' (first
    | with_reducible exact Changes.refl
    | with_reducible assumption
    | ((with_reducible apply Changes.step (addWindow_changes _ _ _)); rfl)
    | (show kindsIn _ _ = true; rfl)
    | split
    | dsimp only
    | intro _)

theorem setAside_changes (s : State) (u q : Nat) :
    Changes [.od, .commands, .engines] s (setAside s u q) := by
  unfold setAside
  repeat' (first
    | with_reducible exact Changes.refl
    | with_reducible assumption
    | ((with_reducible apply Changes.step (dropCmd_changes _ _)); rfl)
    | ((with_reducible apply Changes.step (dropTiles_changes _ _)); rfl)
    | ((with_reducible apply Changes.step (qSet_changes _ _ _ _ _)); rfl)
    | ((with_reducible apply Changes.step (releaseHawks_changes _ _ _)); rfl)
    | with_reducible apply Changes.foldl
    | (show kindsIn _ _ = true; rfl)
    | split
    | dsimp only
    | intro _
    | with_reducible refine Changes.update ?_)

theorem settleContext_changes (s : State) (c : Nat) :
    Changes [.draws, .od, .recorder, .access, .output] s (settleContext s c) := by
  unfold settleContext
  repeat' (first
    | with_reducible exact Changes.refl
    | with_reducible assumption
    | ((with_reducible apply Changes.step (stateChange_changes _ _ _ _ _ _ _)); rfl)
    | (show kindsIn _ _ = true; rfl)
    | split
    | dsimp only
    | intro _)

theorem becomeDrained_changes (s : State) (u q : Nat) :
    Changes [.draws, .od, .commands, .engines, .recorder, .access, .drains, .output] s (becomeDrained s u q) := by
  unfold becomeDrained
  repeat' (first
    | with_reducible exact Changes.refl
    | with_reducible assumption
    | ((with_reducible apply Changes.step (discardHeld_changes _ _ _)); rfl)
    | ((with_reducible apply Changes.step (qSet_changes _ _ _ _ _)); rfl)
    | ((with_reducible apply Changes.step (setAside_changes _ _ _)); rfl)
    | ((with_reducible apply Changes.step (settleContext_changes _ _)); rfl)
    | (show kindsIn _ _ = true; rfl)
    | split
    | dsimp only
    | intro _
    | with_reducible refine Changes.update ?_)

theorem drainCheck_changes (s : State) (u q : Nat) (done : Option Nat) :
    Changes [.draws, .od, .commands, .engines, .recorder, .access, .drains, .output] s (drainCheck s u q done) := by
  unfold drainCheck
  repeat' (first
    | with_reducible exact Changes.refl
    | with_reducible assumption
    | ((with_reducible apply Changes.step (becomeDrained_changes _ _ _)); rfl)
    | (show kindsIn _ _ = true; rfl)
    | split
    | dsimp only
    | intro _)

theorem applyAdd_changes (s : State) (c : Cmd) (status : Nat) :
    Changes [.tallies] s (applyAdd s c status) := by
  unfold applyAdd
  repeat' (first
    | with_reducible exact Changes.refl
    | with_reducible assumption
    | ((with_reducible apply Changes.step (tallyAdd_changes _ _ _)); rfl)
    | (show kindsIn _ _ = true; rfl)
    | split
    | dsimp only
    | intro _)

theorem afterCompletion_changes (s : State) (c : Cmd) (status : Nat) :
    Changes [.draws, .od, .memory, .sectors, .commands, .engines, .recorder, .access, .link, .drains, .output] s (afterCompletion s c status) := by
  unfold afterCompletion
  repeat' (first
    | with_reducible exact Changes.refl
    | with_reducible assumption
    | ((with_reducible apply Changes.step (discardHeld_changes _ _ _)); rfl)
    | ((with_reducible apply Changes.step (drainCheck_changes _ _ _ _)); rfl)
    | ((with_reducible apply Changes.step (dropTiles_changes _ _)); rfl)
    | ((with_reducible apply Changes.step (releaseHawks_changes _ _ _)); rfl)
    | ((with_reducible apply Changes.step (snagSet_changes _ _)); rfl)
    | ((with_reducible apply Changes.step (writeRecords_changes _ _ _ _)); rfl)
    | (show kindsIn _ _ = true; rfl)
    | split
    | dsimp only
    | intro _)

theorem completeCmd_changes (s : State) (c : Cmd) (status code : Nat) :
    Changes [.draws, .od, .memory, .sectors, .commands, .tallies, .engines, .power, .recorder, .access, .link, .drains, .output] s (completeCmd s c status code) := by
  unfold completeCmd
  repeat' (first
    | with_reducible exact Changes.refl
    | with_reducible assumption
    | ((with_reducible apply Changes.step (afterCompletion_changes _ _ _)); rfl)
    | ((with_reducible apply Changes.step (applyAdd_changes _ _ _)); rfl)
    | ((with_reducible apply Changes.step (putCmd_changes _ _)); rfl)
    | ((with_reducible apply Changes.step (settleEnergy_changes _ _)); rfl)
    | ((with_reducible apply Changes.step (stickyOr_changes _ _ _ _)); rfl)
    | (show kindsIn _ _ = true; rfl)
    | split
    | dsimp only
    | intro _)

theorem validPut_changes (s : State) (array v : Nat) :
    Changes [.accumulators] s (validPut s array v) := by
  unfold validPut
  repeat' (first
    | with_reducible exact Changes.refl
    | with_reducible assumption
    | (show kindsIn _ _ = true; rfl)
    | split
    | dsimp only
    | intro _
    | with_reducible refine Changes.update ?_)

theorem invalidateTile_changes (s : State) (array bank half base cnt : Nat) :
    Changes [.draws, .od, .accumulators, .recorder, .access, .output] s (invalidateTile s array bank half base cnt) := by
  unfold invalidateTile
  repeat' (first
    | with_reducible exact Changes.refl
    | with_reducible assumption
    | ((with_reducible apply Changes.step (odBump_changes _ _ _ _)); rfl)
    | ((with_reducible apply Changes.step (validPut_changes _ _ _)); rfl)
    | (show kindsIn _ _ = true; rfl)
    | split
    | dsimp only
    | intro _)

theorem invalidateContext_changes (s : State) (ctx : Nat) :
    Changes [.draws, .od, .accumulators, .recorder, .access, .output] s (invalidateContext s ctx) := by
  unfold invalidateContext
  repeat' (first
    | with_reducible exact Changes.refl
    | with_reducible assumption
    | ((with_reducible apply Changes.step (invalidateTile_changes _ _ _ _ _ _)); rfl)
    | with_reducible apply Changes.foldl
    | (show kindsIn _ _ = true; rfl)
    | split
    | dsimp only
    | intro _)

theorem freeBytes_changes (s : State) (n : Nat) :
    Changes [.draws] s (freeBytes s n).2 := by
  unfold freeBytes
  repeat' (first
    | with_reducible exact Changes.refl
    | with_reducible assumption
    | (show kindsIn _ _ = true; rfl)
    | split
    | dsimp only
    | intro _
    | with_reducible refine Changes.update ?_)

theorem copyPart_changes (s : State) (w : CmdWord) (n : Nat) :
    Changes [.draws, .od, .memory, .sectors, .recorder, .access, .link, .output] s (copyPart s w n) := by
  unfold copyPart
  repeat' (first
    | with_reducible exact Changes.refl
    | with_reducible assumption
    | ((with_reducible apply Changes.step (freeBytes_changes _ _)); rfl)
    | ((with_reducible apply Changes.step (hostWrite_changes _ _ _ _)); rfl)
    | (with_reducible apply localWrite_changes)
    | ((with_reducible apply Changes.step (memWriteBad_changes _ _ _ _)); rfl)
    | (show kindsIn _ _ = true; rfl)
    | split
    | dsimp only
    | intro _)

theorem copyStopped_changes (s : State) (c : Cmd) :
    Changes [.draws, .od, .memory, .sectors, .recorder, .access, .link, .output] s (copyStopped s c) := by
  unfold copyStopped
  repeat' (first
    | with_reducible exact Changes.refl
    | with_reducible assumption
    | ((with_reducible apply Changes.step (copyPart_changes _ _ _)); rfl)
    | (show kindsIn _ _ = true; rfl)
    | split
    | dsimp only
    | intro _
    | with_reducible refine Changes.update ?_)

theorem abortCmd_changes (s : State) (c : Cmd) (code : Nat) :
    Changes [.draws, .od, .memory, .sectors, .commands, .tallies, .engines, .power, .recorder, .access, .link, .drains, .output] s (abortCmd s c code) := by
  unfold abortCmd
  repeat' (first
    | with_reducible exact Changes.refl
    | with_reducible assumption
    | ((with_reducible apply Changes.step (completeCmd_changes _ _ _ _)); rfl)
    | ((with_reducible apply Changes.step (copyStopped_changes _ _)); rfl)
    | ((with_reducible apply Changes.step (fileReport_changes _ _)); rfl)
    | (show kindsIn _ _ = true; rfl)
    | split
    | dsimp only
    | intro _)

theorem unfetch_changes (s : State) (u q : Nat) :
    Changes [.od, .commands] s (unfetch s u q) := by
  unfold unfetch
  repeat' (first
    | with_reducible exact Changes.refl
    | with_reducible assumption
    | ((with_reducible apply Changes.step (qSet_changes _ _ _ _ _)); rfl)
    | (show kindsIn _ _ = true; rfl)
    | split
    | dsimp only
    | intro _
    | with_reducible refine Changes.update ?_)

theorem endColl_changes (s : State) (k : Chan) (stopped : Bool) :
    Changes [.od, .channels] s (endColl s k stopped) := by
  unfold endColl
  repeat' (first
    | with_reducible exact Changes.refl
    | with_reducible assumption
    | ((with_reducible apply Changes.step (odSet_changes _ _ _ _)); rfl)
    | (show kindsIn _ _ = true; rfl)
    | split
    | dsimp only
    | intro _
    | with_reducible refine Changes.update ?_)

theorem stopChans_changes (s : State) (ctx : Nat) :
    Changes [.channels] s (stopChans s ctx) := by
  unfold stopChans
  repeat' (first
    | with_reducible exact Changes.refl
    | with_reducible assumption
    | (show kindsIn _ _ = true; rfl)
    | split
    | dsimp only
    | intro _
    | with_reducible refine Changes.update ?_)

theorem endColls_changes (s : State) (u q : Nat) :
    Changes [.od, .channels] s (endColls s u q) := by
  unfold endColls
  repeat' (first
    | with_reducible exact Changes.refl
    | with_reducible assumption
    | ((with_reducible apply Changes.step (endColl_changes _ _ _)); rfl)
    | with_reducible apply Changes.foldl
    | (show kindsIn _ _ = true; rfl)
    | split
    | dsimp only
    | intro _)

theorem stopQueue_changes (s : State) (u q : Nat) :
    Changes [.draws, .od, .memory, .sectors, .commands, .tallies, .engines, .channels, .power, .recorder, .access, .link, .drains, .output] s (stopQueue s u q) := by
  unfold stopQueue
  repeat' (first
    | with_reducible exact Changes.refl
    | with_reducible assumption
    | ((with_reducible apply Changes.step (abortCmd_changes _ _ _)); rfl)
    | ((with_reducible apply Changes.step (discardHeld_changes _ _ _)); rfl)
    | ((with_reducible apply Changes.step (endColls_changes _ _ _)); rfl)
    | ((with_reducible apply Changes.step (qSet_changes _ _ _ _ _)); rfl)
    | with_reducible apply Changes.foldl
    | with_reducible apply Changes.foldl_fst
    | with_reducible apply Changes.foldl_snd
    | with_reducible apply Changes.foldl_trd
    | with_reducible apply Changes.foldl_run
    | with_reducible apply Changes.foldl_deep
    | with_reducible apply Changes.foldl_lane
    | with_reducible apply Changes.foldl_blocks
    | (show kindsIn _ _ = true; rfl)
    | split
    | dsimp only
    | intro _
    | with_reducible refine Changes.update ?_)

theorem stopQueues_changes (s : State) (ctx : Nat) :
    Changes [.draws, .od, .memory, .sectors, .commands, .tallies, .engines, .channels, .power, .recorder, .access, .link, .drains, .output] s (stopQueues s ctx) := by
  unfold stopQueues
  repeat' (first
    | with_reducible exact Changes.refl
    | with_reducible assumption
    | ((with_reducible apply Changes.step (stopQueue_changes _ _ _)); rfl)
    | with_reducible apply Changes.foldl
    | (show kindsIn _ _ = true; rfl)
    | split
    | dsimp only
    | intro _)

theorem headPast_changes (s : State) (head : Option (Nat × Nat × Nat)) :
    Changes [.od] s (headPast s head) := by
  unfold headPast
  repeat' (first
    | with_reducible exact Changes.refl
    | with_reducible assumption
    | ((with_reducible apply Changes.step (qSet_changes _ _ _ _ _)); rfl)
    | (show kindsIn _ _ = true; rfl)
    | split
    | dsimp only
    | intro _)

theorem stopContext_changes (s : State) (ctx code : Nat) (head : Option (Nat × Nat × Nat)) :
    Changes [.draws, .od, .memory, .sectors, .accumulators, .commands, .tallies, .engines, .channels, .power, .recorder, .access, .link, .drains, .output] s (stopContext s ctx code head) := by
  unfold stopContext
  repeat' (first
    | with_reducible exact Changes.refl
    | with_reducible assumption
    | ((with_reducible apply Changes.step (headPast_changes _ _)); rfl)
    | ((with_reducible apply Changes.step (invalidateContext_changes _ _)); rfl)
    | ((with_reducible apply Changes.step (stateChange_changes _ _ _ _ _ _ _)); rfl)
    | ((with_reducible apply Changes.step (stopChans_changes _ _)); rfl)
    | ((with_reducible apply Changes.step (stopQueues_changes _ _)); rfl)
    | (show kindsIn _ _ = true; rfl)
    | split
    | dsimp only
    | intro _)

theorem stopOwner_changes (s : State) (owner : Option Nat) (code : Nat) (c : Cmd) :
    Changes [.draws, .od, .memory, .sectors, .accumulators, .commands, .tallies, .engines, .channels, .power, .recorder, .access, .link, .drains, .output] s (stopOwner s owner code c) := by
  unfold stopOwner
  repeat' (first
    | with_reducible exact Changes.refl
    | with_reducible assumption
    | ((with_reducible apply Changes.step (stopContext_changes _ _ _ _)); rfl)
    | (show kindsIn _ _ = true; rfl)
    | split
    | dsimp only
    | intro _)

theorem noteFault_changes (s : State) (status code unit core : Nat) :
    Changes [.tests] s (noteFault s status code unit core) := by
  unfold noteFault
  repeat' (first
    | with_reducible exact Changes.refl
    | with_reducible assumption
    | (show kindsIn _ _ = true; rfl)
    | split
    | dsimp only
    | intro _
    | with_reducible refine Changes.update ?_)

theorem failCmd_changes (s : State) (c : Cmd) (status code : Nat) (r : Report) :
    Changes [.draws, .od, .memory, .sectors, .accumulators, .commands, .tallies, .engines, .channels, .power, .recorder, .tests, .access, .link, .drains, .output] s (failCmd s c status code r) := by
  unfold failCmd
  repeat' (first
    | with_reducible exact Changes.refl
    | with_reducible assumption
    | ((with_reducible apply Changes.step (completeCmd_changes _ _ _ _)); rfl)
    | ((with_reducible apply Changes.step (fileReport_changes _ _)); rfl)
    | ((with_reducible apply Changes.step (noteFault_changes _ _ _ _ _)); rfl)
    | ((with_reducible apply Changes.step (stopOwner_changes _ _ _ _)); rfl)
    | (show kindsIn _ _ = true; rfl)
    | split
    | dsimp only
    | intro _)

theorem finishCmd_changes (s : State) (c : Cmd) (status : Nat) :
    Changes [.draws, .od, .memory, .sectors, .commands, .tallies, .engines, .power, .recorder, .access, .link, .drains, .output] s (finishCmd s c status) := by
  unfold finishCmd
  repeat' (first
    | with_reducible exact Changes.refl
    | with_reducible assumption
    | ((with_reducible apply Changes.step (completeCmd_changes _ _ _ _)); rfl)
    | (show kindsIn _ _ = true; rfl)
    | split
    | dsimp only
    | intro _)

theorem rejectCmd_changes (s : State) (c : Cmd) (code : Nat) :
    Changes [.draws, .od, .memory, .sectors, .accumulators, .commands, .tallies, .engines, .channels, .power, .recorder, .tests, .access, .link, .drains, .output] s (rejectCmd s c code) := by
  unfold rejectCmd
  repeat' (first
    | with_reducible exact Changes.refl
    | with_reducible assumption
    | ((with_reducible apply Changes.step (failCmd_changes _ _ _ _ _)); rfl)
    | (show kindsIn _ _ = true; rfl)
    | split
    | dsimp only
    | intro _)

end Sys2Proof.Machine
end

