-- ==== Sys2Proof/Laws/FootprintQueues.lean ====
section
/-! SUPPORT. What each function of Machine/Queues.lean can change. -/

set_option Elab.async false

set_option linter.unreachableTactic false
set_option linter.unusedTactic false
set_option linter.unnecessarySeqFocus false

namespace Sys2Proof.Machine

theorem enterFetched_changes (s : State) (c : Cmd) :
    Changes [.od, .commands] s (enterFetched s c) := by
  unfold enterFetched
  repeat' (first
    | with_reducible exact Changes.refl
    | with_reducible assumption
    | ((with_reducible apply Changes.step (qSet_changes _ _ _ _ _)); rfl)
    | ((with_reducible apply Changes.step (settleQueue_changes _ _ _)); rfl)
    | (show kindsIn _ _ = true; rfl)
    | split
    | dsimp only
    | intro _
    | with_reducible refine Changes.update ?_)

theorem searchStep_changes (s : State) (c : Cmd) :
    Changes [.draws, .od, .commands, .engines, .recorder, .access, .drains, .output] s (searchStep s c) := by
  unfold searchStep
  repeat' (first
    | with_reducible exact Changes.refl
    | with_reducible assumption
    | ((with_reducible apply Changes.step (drainCheck_changes _ _ _ _)); rfl)
    | (show kindsIn _ _ = true; rfl)
    | split
    | dsimp only
    | intro _
    | with_reducible refine Changes.update ?_)

theorem takeWord_changes (s : State) (u q : Nat) (word : CmdWord) :
    Changes [.draws, .od, .commands, .engines, .recorder, .access, .drains, .output] s (takeWord s u q word) := by
  unfold takeWord
  repeat' (first
    | with_reducible exact Changes.refl
    | with_reducible assumption
    | ((with_reducible apply Changes.step (enterFetched_changes _ _)); rfl)
    | ((with_reducible apply Changes.step (searchStep_changes _ _)); rfl)
    | (show kindsIn _ _ = true; rfl)
    | split
    | dsimp only
    | intro _)

theorem failPoisoned_changes (s : State) (c : Cmd) (addr : Nat) :
    Changes [.draws, .od, .memory, .sectors, .accumulators, .commands, .tallies, .engines, .channels, .power, .recorder, .tests, .access, .link, .drains, .output] s (failPoisoned s c addr) := by
  unfold failPoisoned
  repeat' (first
    | with_reducible exact Changes.refl
    | with_reducible assumption
    | ((with_reducible apply Changes.step (failCmd_changes _ _ _ _ _)); rfl)
    | (show kindsIn _ _ = true; rfl)
    | split
    | dsimp only
    | intro _)

theorem takePoisoned_changes (s : State) (u q addr : Nat) :
    Changes [.draws, .od, .memory, .sectors, .accumulators, .commands, .tallies, .engines, .channels, .power, .recorder, .tests, .access, .link, .drains, .output] s (takePoisoned s u q addr) := by
  unfold takePoisoned
  repeat' (first
    | with_reducible exact Changes.refl
    | with_reducible assumption
    | ((with_reducible apply Changes.step (enterFetched_changes _ _)); rfl)
    | ((with_reducible apply Changes.step (failPoisoned_changes _ _ _)); rfl)
    | (show kindsIn _ _ = true; rfl)
    | split
    | dsimp only
    | intro _
    | with_reducible refine Changes.update ?_)

theorem fetchWord_changes (s : State) (u q : Nat) (host : HostAns) :
    Changes [.draws, .od, .memory, .sectors, .accumulators, .commands, .tallies, .engines, .channels, .power, .recorder, .tests, .access, .link, .drains, .output] s (fetchWord s u q host) := by
  unfold fetchWord
  repeat' (first
    | with_reducible exact Changes.refl
    | with_reducible assumption
    | ((with_reducible apply Changes.step (takePoisoned_changes _ _ _ _)); rfl)
    | ((with_reducible apply Changes.step (takeWord_changes _ _ _ _)); rfl)
    | (show kindsIn _ _ = true; rfl)
    | split
    | dsimp only
    | intro _)

theorem execCommandFetch_changes (u q : Nat) (host : HostAns) (s : State) {t : State} (h : execCommandFetch u q host s = .next t) :
    Changes [.draws, .od, .memory, .sectors, .accumulators, .commands, .tallies, .engines, .channels, .power, .recorder, .tests, .access, .link, .drains, .output] s t := by
  unfold execCommandFetch at h
  injection h with h
  subst h
  repeat' (first
    | with_reducible exact Changes.refl
    | with_reducible assumption
    | ((with_reducible apply Changes.step (fetchWord_changes _ _ _ _)); rfl)
    | (show kindsIn _ _ = true; rfl)
    | split
    | dsimp only
    | intro _)

theorem execRingFetchRetry_changes (u q : Nat) (host : HostAns) (s : State) {t : State} (h : execRingFetchRetry u q host s = .next t) :
    Changes [.draws, .od, .memory, .sectors, .accumulators, .commands, .tallies, .engines, .channels, .power, .recorder, .tests, .access, .link, .drains, .output] s t := by
  unfold execRingFetchRetry at h
  injection h with h
  subst h
  repeat' (first
    | with_reducible exact Changes.refl
    | with_reducible assumption
    | ((with_reducible apply Changes.step (fetchWord_changes _ _ _ _)); rfl)
    | (show kindsIn _ _ = true; rfl)
    | split
    | dsimp only
    | intro _)

theorem claimHawks_changes (s : State) (c : Cmd) :
    Changes [.engines] s (claimHawks s c) := by
  unfold claimHawks
  repeat' (first
    | with_reducible exact Changes.refl
    | with_reducible assumption
    | ((with_reducible apply Changes.step (putHawk_changes _ _)); rfl)
    | with_reducible apply Changes.foldl
    | (show kindsIn _ _ = true; rfl)
    | split
    | dsimp only
    | intro _
    | with_reducible refine Changes.update ?_)

theorem putScreed_changes (s : State) (x : Screed) :
    Changes [.engines] s (putScreed s x) := by
  unfold putScreed
  repeat' (first
    | with_reducible exact Changes.refl
    | with_reducible assumption
    | (show kindsIn _ _ = true; rfl)
    | split
    | dsimp only
    | intro _
    | with_reducible refine Changes.update ?_)

theorem claimTiles_changes (s : State) (c : Cmd) :
    Changes [.engines] s (claimTiles s c).1 := by
  unfold claimTiles
  repeat' (first
    | with_reducible exact Changes.refl
    | with_reducible assumption
    | ((with_reducible apply Changes.step (putScreed_changes _ _)); rfl)
    | (show kindsIn _ _ = true; rfl)
    | split
    | dsimp only
    | intro _
    | with_reducible refine Changes.update ?_)

theorem enterIssued_changes (s : State) (c : Cmd) (d : Option Nat) :
    Changes [.commands, .engines] s (enterIssued s c d) := by
  unfold enterIssued
  repeat' (first
    | with_reducible exact Changes.refl
    | with_reducible assumption
    | ((with_reducible apply Changes.step (claimHawks_changes _ _)); rfl)
    | ((with_reducible apply Changes.step (claimTiles_changes _ _)); rfl)
    | ((with_reducible apply Changes.step (putCmd_changes _ _)); rfl)
    | (show kindsIn _ _ = true; rfl)
    | split
    | dsimp only
    | intro _
    | with_reducible refine Changes.update ?_)

theorem issueCmd_changes (s : State) (c : Cmd) (ctx : Nat) :
    Changes [.draws, .od, .memory, .sectors, .accumulators, .commands, .tallies, .engines, .channels, .power, .recorder, .tests, .access, .link, .drains, .output] s (issueCmd s c ctx) := by
  unfold issueCmd
  repeat' (first
    | with_reducible exact Changes.refl
    | with_reducible assumption
    | ((with_reducible apply Changes.step (enterIssued_changes _ _ _)); rfl)
    | ((with_reducible apply Changes.step (failCmd_changes _ _ _ _ _)); rfl)
    | ((with_reducible apply Changes.step (odBump_changes _ _ _ _)); rfl)
    | ((with_reducible apply Changes.step (rejectCmd_changes _ _ _)); rfl)
    | (show kindsIn _ _ = true; rfl)
    | split
    | dsimp only
    | intro _
    | with_reducible refine Changes.update ?_)

theorem execCommandIssue_changes (u q : Nat) (s : State) {t : State} (h : execCommandIssue u q s = .next t) :
    Changes [.draws, .od, .memory, .sectors, .accumulators, .commands, .tallies, .engines, .channels, .power, .recorder, .tests, .access, .link, .drains, .output] s t := by
  unfold execCommandIssue at h
  injection h with h
  subst h
  repeat' (first
    | with_reducible exact Changes.refl
    | with_reducible assumption
    | ((with_reducible apply Changes.step (failPoisoned_changes _ _ _)); rfl)
    | ((with_reducible apply Changes.step (issueCmd_changes _ _ _)); rfl)
    | (show kindsIn _ _ = true; rfl)
    | split
    | dsimp only
    | intro _)

theorem execNop_changes (u q : Nat) (s : State) {t : State} (h : execNop u q s = .next t) :
    Changes [.draws, .od, .memory, .sectors, .commands, .tallies, .engines, .power, .recorder, .access, .link, .drains, .output] s t := by
  unfold execNop at h
  injection h with h
  subst h
  repeat' (first
    | with_reducible exact Changes.refl
    | with_reducible assumption
    | ((with_reducible apply Changes.step (finishCmd_changes _ _ _)); rfl)
    | (show kindsIn _ _ = true; rfl)
    | split
    | dsimp only
    | intro _)

theorem execTwait_changes (u q : Nat) (s : State) {t : State} (h : execTwait u q s = .next t) :
    Changes [.draws, .od, .memory, .sectors, .commands, .tallies, .engines, .power, .recorder, .access, .link, .drains, .output] s t := by
  unfold execTwait at h
  injection h with h
  subst h
  repeat' (first
    | with_reducible exact Changes.refl
    | with_reducible assumption
    | ((with_reducible apply Changes.step (finishCmd_changes _ _ _)); rfl)
    | (show kindsIn _ _ = true; rfl)
    | split
    | dsimp only
    | intro _)

theorem execTset_changes (u q : Nat) (s : State) {t : State} (h : execTset u q s = .next t) :
    Changes [.draws, .od, .memory, .sectors, .commands, .tallies, .engines, .power, .recorder, .access, .link, .drains, .output] s t := by
  unfold execTset at h
  injection h with h
  subst h
  repeat' (first
    | with_reducible exact Changes.refl
    | with_reducible assumption
    | ((with_reducible apply Changes.step (finishCmd_changes _ _ _)); rfl)
    | ((with_reducible apply Changes.step (tallySet_changes _ _ _)); rfl)
    | (show kindsIn _ _ = true; rfl)
    | split
    | dsimp only
    | intro _)

theorem execQfence_changes (u q : Nat) (s : State) {t : State} (h : execQfence u q s = .next t) :
    Changes [.draws, .od, .memory, .sectors, .commands, .tallies, .engines, .power, .recorder, .access, .link, .drains, .output] s t := by
  unfold execQfence at h
  injection h with h
  subst h
  repeat' (first
    | with_reducible exact Changes.refl
    | with_reducible assumption
    | ((with_reducible apply Changes.step (finishCmd_changes _ _ _)); rfl)
    | ((with_reducible apply Changes.step (putCmd_changes _ _)); rfl)
    | (show kindsIn _ _ = true; rfl)
    | split
    | dsimp only
    | intro _
    | with_reducible refine Changes.update ?_)

theorem execWaitTimeout_changes (u q : Nat) (s : State) {t : State} (h : execWaitTimeout u q s = .next t) :
    Changes [.draws, .od, .memory, .sectors, .accumulators, .commands, .tallies, .engines, .channels, .power, .recorder, .tests, .access, .link, .drains, .output] s t := by
  unfold execWaitTimeout at h
  injection h with h
  subst h
  repeat' (first
    | with_reducible exact Changes.refl
    | with_reducible assumption
    | ((with_reducible apply Changes.step (failCmd_changes _ _ _ _ _)); rfl)
    | (show kindsIn _ _ = true; rfl)
    | split
    | dsimp only
    | intro _)

end Sys2Proof.Machine
end

