-- ==== Sys2Proof/Laws/Od.lean ====
section
/-! SUPPORT. Values of the object dictionary: what a set leaves in every entry, and that reports, snags and records touch only the
pages they count in (0x7000, 0x7100, 0x7A00). -/

set_option Elab.async false

namespace Sys2Proof.Machine

theorem odLook_odIns (l : List (Nat × Nat)) (k v j : Nat) :
    odLook (odIns l k v) j = if j = k then some v else odLook l j := by
  induction l with
  | nil => simp only [odIns, odLook]
  | cons a r ih =>
    obtain ⟨x, w⟩ := a
    unfold odIns
    split
    · simp only [odLook]
    · split
      · subst_vars; simp only [odLook]; split <;> simp_all
      · simp only [odLook, ih]
        by_cases hj : j = x
        · subst hj; rw [if_pos rfl, if_pos rfl, if_neg (fun e => by simp_all)]
        · rw [if_neg hj, if_neg hj]

/-- What a set leaves: the new value in its entry. -/
theorem odGet_odSet (s : State) (i sub v : Nat) : odGet (odSet s i sub v) i sub = v := by
  simp [odGet, odSet, odLook_odIns]

/-- What a set leaves in every other entry. -/
theorem odGet_odSet_ne (s : State) {i sub j n : Nat} (v : Nat) (h : odKey j n ≠ odKey i sub) :
    odGet (odSet s i sub v) j n = odGet s j n := by
  simp [odGet, odSet, odLook_odIns, h]

/-- The entries whose keys satisfy `P` are in `t` as they are in `s`. -/
structure OdKeeps (P : Nat → Prop) (s t : State) : Prop where
  get : ∀ i sub, P (odKey i sub) → odGet t i sub = odGet s i sub

theorem logKey_of {i n : Nat} (h : i = 0x7000 ∨ i = 0x7100 ∨ i = 0x7A00) (hn : n < 256) : logKey (odKey i n) := by
  unfold logKey odKey; omega

theorem not_logKey {i n : Nat} (h : i ≠ 0x7000 ∧ i ≠ 0x7100 ∧ i ≠ 0x7A00) (hn : n < 256) : ¬ logKey (odKey i n) := by
  unfold logKey odKey; omega

/-- Only those pages may differ. -/
abbrev OffLog (s t : State) : Prop := OdKeeps (fun k => ¬ logKey k) s t

theorem OdKeeps.refl {P : Nat → Prop} (s : State) : OdKeeps P s s := ⟨fun _ _ _ => rfl⟩

theorem OdKeeps.trans {P : Nat → Prop} {s t u : State} (h : OdKeeps P s t) (g : OdKeeps P t u) : OdKeeps P s u :=
  ⟨fun i n hp => (g.get i n hp).trans (h.get i n hp)⟩

theorem OdKeeps.mono {P Q : Nat → Prop} {s t : State} (h : OdKeeps P s t) (hq : ∀ k, Q k → P k) : OdKeeps Q s t :=
  ⟨fun i n hp => h.get i n (hq _ hp)⟩

theorem OdKeeps.of_od {P : Nat → Prop} {s t : State} (h : t.od = s.od := by with_reducible rfl) : OdKeeps P s t :=
  ⟨fun i n _ => by simp only [odGet, h]⟩

/-- A footprint without the object dictionary keeps every entry. -/
theorem OdKeeps.of_changes {P : Nat → Prop} {K : List Kind} {s t : State} (h : Changes K s t) (hk : K.contains .od = false := by rfl) :
    OdKeeps P s t := OdKeeps.of_od (h.same .od hk)

theorem OdKeeps.set {P : Nat → Prop} (s : State) {i sub : Nat} (v : Nat) (h : ¬ P (odKey i sub)) : OdKeeps P s (odSet s i sub v) :=
  ⟨fun _ _ hp => odGet_odSet_ne s v (fun e => h (e ▸ hp))⟩

theorem OdKeeps.count {P : Nat → Prop} (s : State) {i sub : Nat} (n : Nat) (h : ¬ P (odKey i sub)) : OdKeeps P s (odCount s i sub n) :=
  OdKeeps.set s _ h

theorem OdKeeps.foldl {α : Type} {P : Nat → Prop} {f : State → α → State} (hf : ∀ s a, OdKeeps P s (f s a)) (l : List α) (s : State) :
    OdKeeps P s (l.foldl f s) := by
  induction l generalizing s with
  | nil => exact .refl s
  | cons a r ih => exact (hf s a).trans (ih _)

theorem offLog_set (s : State) {i n : Nat} (v : Nat) (h : i = 0x7000 ∨ i = 0x7100 ∨ i = 0x7A00) (hn : n < 256) :
    OffLog s (odSet s i n v) := .set s v (fun hk => hk (logKey_of h hn))

theorem offLog_count (s : State) {i n : Nat} (v : Nat) (h : i = 0x7000 ∨ i = 0x7100 ∨ i = 0x7A00) (hn : n < 256) :
    OffLog s (odCount s i n v) := .count s v (fun hk => hk (logKey_of h hn))

theorem addRecordRaw_offLog (s : State) (r : LogRec) : OffLog s (addRecordRaw s r) := by
  unfold addRecordRaw
  split
  · exact (offLog_count s (i := 0x7A00) (n := 0x04) 1 (by decide) (by decide)).trans .of_od
  · exact .of_changes (ringPush_changes s r)

theorem snagSetRaw_offLog (s : State) (b : Nat) : OffLog s (snagSetRaw s b) := by
  unfold snagSetRaw
  dsimp only
  split
  · exact .refl s
  · refine OdKeeps.trans ?_ (.of_changes (notifyAll_changes _ _))
    refine OdKeeps.trans ?_ (addRecordRaw_offLog _ _)
    exact (offLog_set s _ (by decide) (by decide)).trans (offLog_count _ _ (by decide) (by decide))

theorem moveHead_offLog (s : State) (t a b : Nat) (ha : a < 256) (hb : b < 256) : OffLog s (moveHead s t a b) := by
  unfold moveHead
  dsimp only
  split
  · exact .refl s
  · refine OdKeeps.trans ?_ (snagSetRaw_offLog _ _)
    exact (offLog_set s _ (by decide) ha).trans (offLog_count _ _ (by decide) hb)

theorem fileDetected_offLog (s : State) (r : Report) : OffLog s (fileDetected s r) := by
  have h : ∀ (x : State) (t : Nat) (l : List Report), OffLog x (moveHead (moveHead (odCount (odSet { x with reports := l } 0x7100 0x01 t)
      0x7100 0x08 1) t 0x02 0x06) t 0x04 0x07) := fun x t l =>
    (((OdKeeps.of_od (s := x) (t := { x with reports := l })).trans (offLog_set _ _ (by decide) (by decide))).trans
      (offLog_count _ _ (by decide) (by decide))).trans
      ((moveHead_offLog _ _ 2 6 (by decide) (by decide)).trans (moveHead_offLog _ _ 4 7 (by decide) (by decide)))
  unfold fileDetected
  dsimp only
  split
  · refine OdKeeps.trans ?_ (.of_changes (notifyAll_changes _ _))
    refine OdKeeps.trans ?_ (.of_changes (raiseVector_changes _ _))
    exact (addRecordRaw_offLog _ _).trans (h _ _ _)
  · exact (addRecordRaw_offLog _ _).trans (h _ _ _)

theorem fileReportRaw_offLog (s : State) (r : Report) : OffLog s (fileReportRaw s r) := by
  have hd : OffLog s (detectReport s r).2 := .of_changes (detectReport_changes s r)
  unfold fileReportRaw
  dsimp only
  split
  · exact hd.trans .of_od
  · exact hd.trans (fileDetected_offLog _ _)

theorem saturationEvent_offLog (s : State) (i n : Nat) : OffLog s (saturationEvent s i n) := by
  have h := (snagSetRaw_offLog s 8).trans (fileReportRaw_offLog _ (plainReport 0x8060 0 (counterUnit i) (i * 65536 + n) noPeer))
  unfold saturationEvent
  with_reducible exact h

theorem saturationEvents_offLog (n : Nat) (s0 s : State) : OffLog s (saturationEvents n s0 s) := by
  induction n generalizing s0 s with
  | zero => exact .refl s
  | succ n ih =>
    unfold saturationEvents
    split
    · exact .refl s
    · refine OdKeeps.trans (OdKeeps.foldl ?_ _ s) (ih _ _)
      intro s k
      exact saturationEvent_offLog s k.1 k.2

theorem addRecord_offLog (s : State) (r : LogRec) : OffLog s (addRecord s r) := by
  unfold addRecord
  exact (addRecordRaw_offLog s r).trans (saturationEvents_offLog 5 s _)

theorem fileKept_offLog (s : State) (r : Report) : OffLog s (fileKept s r) := by
  unfold fileKept
  refine OdKeeps.trans ?_ (saturationEvents_offLog 5 s _)
  split
  · exact .of_od
  · exact fileDetected_offLog s r

theorem snagSet_offLog (s : State) (b : Nat) : OffLog s (snagSet s b) := by
  unfold snagSet
  exact (snagSetRaw_offLog s b).trans (saturationEvents_offLog 5 s _)

theorem fileReport_offLog (s : State) (r : Report) : OffLog s (fileReport s r) := by
  unfold fileReport
  exact (fileReportRaw_offLog s r).trans (saturationEvents_offLog 5 s _)

theorem fileCode_offLog (s : State) (code unit detail : Nat) : OffLog s (fileCode s code unit detail) := by
  unfold fileCode
  exact fileReport_offLog s _

/-- What counting changes of the dictionary: its own counter and the log pages. -/
theorem odBump_keeps (s : State) (i sub n : Nat) : OdKeeps (fun k => k ≠ odKey i sub ∧ ¬ logKey k) s (odBump s i sub n) := by
  have h := OdKeeps.count (P := fun k => k ≠ odKey i sub ∧ ¬ logKey k) s (i := i) (sub := sub) n (fun hk => hk.1 rfl)
  unfold odBump
  dsimp only
  split
  · refine h.trans (OdKeeps.mono ((saturationEvent_offLog _ i sub).trans (saturationEvents_offLog 5 _ _)) (fun _ hk => hk.2))
  · exact h

/-- What counting leaves in its counter (R446). -/
theorem odGet_odBump (s : State) (i sub n : Nat) (h : ¬ logKey (odKey i sub)) :
    odGet (odBump s i sub n) i sub = min cntMax (odGet s i sub + n) := by
  have hc : odGet (odCount s i sub n) i sub = min cntMax (odGet s i sub + n) := odGet_odSet _ _ _ _
  unfold odBump
  dsimp only
  split
  · exact (((saturationEvent_offLog _ i sub).trans (saturationEvents_offLog 5 _ _)).get i sub h).trans hc
  · exact hc

theorem stateChange_keeps (s : State) (unit i sub v code sev : Nat) :
    OdKeeps (fun k => k ≠ odKey i sub ∧ ¬ logKey k) s (stateChange s unit i sub v code sev) := by
  unfold stateChange
  dsimp only
  split
  · exact .refl s
  · exact (OdKeeps.set s v (fun hk => hk.1 rfl)).trans ((addRecord_offLog _ _).mono (fun _ h => h.2))

theorem odGet_stateChange (s : State) (unit i sub v code sev : Nat) (h : ¬ logKey (odKey i sub)) :
    odGet (stateChange s unit i sub v code sev) i sub = v := by
  unfold stateChange
  dsimp only
  split
  · assumption
  · exact ((addRecord_offLog _ _).get i sub h).trans (odGet_odSet _ _ _ _)

end Sys2Proof.Machine
end

