-- ==== Sys2Proof/Laws/Commands.lean ====
section
/-! SUPPORT. Commands in flight: what replacing or dropping one does to the others, and what completion and the stop of a context do to
the command that completes (R202, R206, R209). -/

set_option Elab.async false

namespace Sys2Proof.Machine

/-! ### Commands by their queue and serial -/

theorem sameCmd_iff (c d : Cmd) : sameCmd c d = true ↔ d.u = c.u ∧ d.q = c.q ∧ d.serial = c.serial := by
  simp only [sameCmd, Bool.and_eq_true, beq_iff_eq]; omega

theorem sameCmd_refl (c : Cmd) : sameCmd c c = true := by simp [sameCmd]

theorem find_mapFirst_self {α : Type} {p : α → Bool} {a : α} (l : List α) (ha : p a = true) :
    (mapFirst p (fun _ => a) l).find? p = if l.any p = true then some a else none := by
  induction l with
  | nil => simp [mapFirst]
  | cons b r ih =>
    unfold mapFirst
    by_cases hp : p b = true
    · simp [hp, ha]
    · simp [hp, ih]

theorem find_mapFirst_apart {α : Type} {p q : α → Bool} {a : α} (l : List α) (ha : q a = false) (hq : ∀ b, p b = true → q b = false) :
    (mapFirst p (fun _ => a) l).find? q = l.find? q := by
  induction l with
  | nil => simp [mapFirst]
  | cons b r ih =>
    unfold mapFirst
    by_cases hp : p b = true
    · simp [hp, ha, hq b hp]
    · simp only [hp, Bool.false_eq_true, if_false, List.find?_cons, ih]

theorem findCmd_eq (s : State) (c : Cmd) : findCmd s c.u c.q c.serial = s.cmds.find? (sameCmd c) := by
  unfold findCmd
  congr 1
  funext d
  simp only [sameCmd, BEq.comm]

/-- A command in flight that is replaced is found in its new form. -/
theorem findCmd_putCmd {s : State} {c d : Cmd} (h : c ∈ s.cmds) (hu : d.u = c.u) (hq : d.q = c.q) (hn : d.serial = c.serial) :
    findCmd (putCmd s d) c.u c.q c.serial = some d := by
  rw [← hu, ← hq, ← hn, findCmd_eq]
  simp only [putCmd]
  rw [find_mapFirst_self _ (sameCmd_refl d), if_pos (List.any_eq_true.mpr ⟨c, h, by simp [sameCmd, hu, hq, hn]⟩)]

theorem findCmd_congr {s t : State} (h : t.cmds = s.cmds) (u q n : Nat) : findCmd t u q n = findCmd s u q n := by
  simp only [findCmd, h]

theorem findCmd_of_changes {K : List Kind} {s t : State} (h : Changes K s t) (hk : K.contains .commands = false) (u q n : Nat) :
    findCmd t u q n = findCmd s u q n := findCmd_congr (h.same .commands hk).1 u q n

/-! ### Commands that have ended -/

/-- What one state holds as ended, the other does too. -/
structure Settles (s t : State) : Prop where
  keep : ∀ u q n, ended s u q n → ended t u q n

theorem Settles.refl (s : State) : Settles s s := ⟨fun _ _ _ h => h⟩
theorem Settles.trans {s t v : State} (h : Settles s t) (g : Settles t v) : Settles s v := ⟨fun u q n e => g.keep u q n (h.keep u q n e)⟩

theorem Settles.of_cmds {s t : State} (h : t.cmds = s.cmds) : Settles s t :=
  ⟨fun u q n e d hd => e d (by rw [← findCmd_congr h]; exact hd)⟩

/-- A further update that leaves the commands. -/
theorem Settles.then {s x t : State} (h : Settles s x) (e : t.cmds = x.cmds := by with_reducible rfl) : Settles s t := h.trans (.of_cmds e)

theorem Settles.of_changes {K : List Kind} {s t : State} (h : Changes K s t) (hk : K.contains .commands = false := by rfl) : Settles s t :=
  .of_cmds (h.same .commands hk).1

theorem Settles.foldl {α : Type} {f : State → α → State} (hf : ∀ s a, Settles s (f s a)) (l : List α) (s : State) :
    Settles s (l.foldl f s) := by
  induction l generalizing s with
  | nil => exact .refl s
  | cons a r ih => exact (hf s a).trans (ih _)

/-- Keeping the commands that satisfy a condition which every ended command satisfies. -/
theorem Settles.filter {s t : State} {p : Cmd → Bool} (h : t.cmds = s.cmds.filter p)
    (hp : ∀ c d, p c = false → p d = true → d.u = c.u → d.q = c.q → d.serial = c.serial → c.stage ≠ .done) : Settles s t := by
  refine ⟨fun u q n e d hd => ?_⟩
  unfold findCmd at hd
  unfold ended findCmd at e
  rw [h] at hd
  generalize s.cmds = l at hd e
  induction l with
  | nil => simp at hd
  | cons b r ih =>
    have hmem : d ∈ (b :: r).filter p := List.mem_of_find?_eq_some hd
    have hpd : p d = true := (List.mem_filter.mp hmem).2
    have hdk : (d.u == u && d.q == q && d.serial == n) = true := List.find?_some (p := fun c : Cmd => c.u == u && c.q == q && c.serial == n) hd
    by_cases hb : (b.u == u && b.q == q && b.serial == n) = true
    · have hbe := e b (by simp only [List.find?_cons, hb])
      by_cases hpb : p b = true
      · simp only [List.filter_cons, hpb, if_true, List.find?_cons, hb, Option.some.injEq] at hd
        subst hd; exact hbe
      · simp only [Bool.and_eq_true, beq_iff_eq] at hb hdk
        exact absurd hbe (hp b d (by simpa using hpb) hpd (by omega) (by omega) (by omega))
    · have hb' : (b.u == u && b.q == q && b.serial == n) = false := by simpa using hb
      refine ih ?_ (fun d hd => e d (by simp only [List.find?_cons, hb', hd])) 
      by_cases hpb : p b = true
      · simpa only [List.filter_cons, hpb, if_true, List.find?_cons, hb'] using hd
      · simpa [List.filter_cons, hpb] using hd

theorem dropCmd_settles (s : State) (c : Cmd) : Settles s (dropCmd s c) := by
  refine Settles.filter (p := fun d => !sameCmd c d) rfl ?_
  intro a b ha hb hu hq hn
  simp only [Bool.not_eq_false', sameCmd_iff] at ha
  simp only [Bool.not_eq_true', Bool.eq_false_iff, ne_eq, sameCmd_iff] at hb
  exact absurd ⟨hu.trans ha.1, hq.trans ha.2.1, hn.trans ha.2.2⟩ hb

theorem putCmd_settles (s : State) (c : Cmd) (h : c.stage = .done) : Settles s (putCmd s c) := by
  refine ⟨fun u q n e d hd => ?_⟩
  by_cases hk : c.u = u ∧ c.q = q ∧ c.serial = n
  · obtain ⟨rfl, rfl, rfl⟩ := hk
    rw [findCmd_eq] at hd
    simp only [putCmd] at hd
    rw [find_mapFirst_self _ (sameCmd_refl c)] at hd
    split at hd
    · cases hd; exact h
    · cases hd
  · refine e d ?_
    rw [← hd]
    unfold findCmd putCmd
    refine (find_mapFirst_apart _ ?_ ?_).symm
    · simp only [Bool.and_eq_false_iff, beq_eq_false_iff_ne]; tauto
    · intro b hb
      rw [sameCmd_iff] at hb
      simp only [Bool.and_eq_false_iff, beq_eq_false_iff_ne]
      rw [hb.1, hb.2.1, hb.2.2]; tauto

theorem writeRecord_settles (s : State) (u q n r : Nat) (i : Bool) : Settles s (writeRecord s u q n r i) :=
  .of_changes (writeRecord_changes s u q n r i)

theorem writeRecords_settles (k : Nat) (s : State) (u q : Nat) : Settles s (writeRecords k s u q) := by
  induction k generalizing s with
  | zero => exact .refl s
  | succ k ih =>
    unfold writeRecords
    dsimp only
    split
    · split
      · split
        · exact .of_changes (issueSnoops_changes _ _)
        · exact ((dropCmd_settles _ _).trans (writeRecord_settles _ _ _ _ _ _)).trans (ih _)
      · exact .refl s
    · exact .refl s

theorem setAside_settles (s : State) (u q : Nat) : Settles s (setAside s u q) := by
  unfold setAside
  split
  · exact .refl s
  · dsimp only
    refine Settles.trans ?_ (.of_changes (qSet_changes _ _ _ _ _))
    refine Settles.then (Settles.foldl (fun s x => ?_) _ s)
    exact ((Settles.of_changes (releaseHawks_changes s x true)).trans (dropCmd_settles _ x)).trans (.of_changes (dropTiles_changes _ x))

theorem settleContext_settles (s : State) (c : Nat) : Settles s (settleContext s c) := .of_changes (settleContext_changes s c)

theorem becomeDrained_settles (s : State) (u q : Nat) : Settles s (becomeDrained s u q) := by
  have h : Settles s (qSet { (discardHeld (setAside s u q) u q) with
      draining := (discardHeld (setAside s u q) u q).draining.filter (fun p => p.1 != drainKey u q) } u q 6 4) :=
    (((setAside_settles s u q).trans (.of_changes (discardHeld_changes _ u q))).then).trans (.of_changes (qSet_changes _ _ _ _ _))
  unfold becomeDrained
  dsimp only
  split
  · exact h.trans (settleContext_settles _ _)
  · exact h

theorem drainCheck_settles (s : State) (u q : Nat) (d : Option Nat) : Settles s (drainCheck s u q d) := by
  unfold drainCheck
  split
  · exact .refl s
  · split
    · split
      · exact .refl s
      · exact becomeDrained_settles _ _ _
    · split
      · exact becomeDrained_settles _ _ _
      · exact .refl s

theorem applyAdd_settles (s : State) (c : Cmd) (st : Nat) : Settles s (applyAdd s c st) := .of_changes (applyAdd_changes s c st)

theorem afterCompletion_settles (s : State) (c : Cmd) (st : Nat) : Settles s (afterCompletion s c st) := by
  unfold afterCompletion
  dsimp only
  refine Settles.trans ?_ (drainCheck_settles _ _ _ _)
  refine Settles.trans ?_ (writeRecords_settles _ _ _ _)
  have h : Settles s (if st = stPOISON then snagSet (dropTiles (releaseHawks s c false) c) 135 else dropTiles (releaseHawks s c false) c) := by
    refine Settles.trans ((Settles.of_changes (releaseHawks_changes s c false)).trans (.of_changes (dropTiles_changes _ c))) ?_
    split
    · exact .of_changes (snagSet_changes _ _)
    · exact .refl _
  split
  · exact h.trans (.of_changes (discardHeld_changes _ _ _))
  · exact h

theorem ended_settleEnergy_putCmd (s : State) (c d : Cmd) (hs : d.stage = .done) (hu : d.u = c.u) (hq : d.q = c.q)
    (hn : d.serial = c.serial) : ended (settleEnergy (putCmd s d) c) c.u c.q c.serial := by
  intro e he
  rw [findCmd_of_changes (settleEnergy_changes _ c) rfl, ← hu, ← hq, ← hn, findCmd_eq] at he
  simp only [putCmd] at he
  rw [find_mapFirst_self _ (sameCmd_refl d)] at he
  split at he
  · cases he; exact hs
  · cases he

/-- Whatever had ended has ended still after a completion. -/
theorem completeCmd_settles (s : State) (c : Cmd) (st code : Nat) : Settles s (completeCmd s c st code) := by
  unfold completeCmd
  refine Settles.trans ?_ (afterCompletion_settles _ _ _)
  refine Settles.trans ?_ (.of_changes (settleEnergy_changes _ _))
  refine Settles.trans ?_ (putCmd_settles _ _ rfl)
  exact (applyAdd_settles s c st).trans (.of_changes (stickyOr_changes _ _ _ _))

/-- Completion ends the command (R206). -/
theorem completeCmd_ends (s : State) (c : Cmd) (st code : Nat) : ended (completeCmd s c st code) c.u c.q c.serial := by
  unfold completeCmd
  exact (afterCompletion_settles _ _ _).keep _ _ _ (ended_settleEnergy_putCmd _ c _ rfl rfl rfl rfl)

/-- The tallies after a completion: those after its add (R202). -/
theorem completeCmd_tallies (s : State) (c : Cmd) (st code : Nat) : (completeCmd s c st code).tallies = (applyAdd s c st).tallies := by
  unfold completeCmd
  refine ((afterCompletion_changes _ _ _).same .tallies rfl).trans ?_
  refine ((settleEnergy_changes _ _).same .tallies rfl).trans ?_
  refine ((putCmd_changes _ _).same .tallies rfl).trans ?_
  exact (stickyOr_changes _ _ _ _).same .tallies rfl

/-! ### The stop of a context (R209) -/

theorem unfetch_settles (s : State) (u q : Nat) : Settles s (unfetch s u q) := by
  unfold unfetch
  split
  · refine Settles.trans (Settles.filter (p := fun d => !(d.u == u && d.q == q && d.stage == .fetched)) rfl ?_) (.of_changes (qSet_changes _ _ _ _ _))
    intro a b ha hb hu hq hn
    simp only [Bool.not_eq_false', Bool.and_eq_true, beq_iff_eq] at ha
    simp [ha.2]
  · exact .refl s

theorem abortCmd_settles (s : State) (c : Cmd) (code : Nat) : Settles s (abortCmd s c code) := by
  have h := (Settles.of_changes (copyStopped_changes s c)).trans (completeCmd_settles (copyStopped s c) c stABORTED code)
  unfold abortCmd
  dsimp only
  split
  · exact h.trans (.of_changes (fileReport_changes _ _))
  · exact h

theorem stopQueue_settles (s : State) (u q : Nat) : Settles s (stopQueue s u q) := by
  unfold stopQueue
  dsimp only
  refine Settles.trans ?_ (.of_changes (discardHeld_changes _ _ _))
  refine Settles.then (Settles.trans ?_ (.of_changes (endColls_changes _ _ _)))
  exact (Settles.of_changes (qSet_changes s u q 6 3)).then.trans (Settles.foldl (fun s c => abortCmd_settles s c _) _ _)

theorem stopContext_settles (s : State) (ctx code : Nat) (h : Option (Nat × Nat × Nat)) : Settles s (stopContext s ctx code h) := by
  unfold stopContext
  split
  · exact .refl s
  · refine Settles.trans ?_ (.of_changes (invalidateContext_changes _ _))
    refine Settles.trans ?_ (.of_changes (stopChans_changes _ _))
    refine Settles.trans ?_ (.of_changes (headPast_changes _ _))
    refine Settles.trans (.of_changes (stateChange_changes s pkgUnit (0x9010 + ctx) 0x01 2 code (severityOf code))) ?_
    unfold stopQueues
    refine Settles.foldl ?_ _ _
    intro s p
    exact stopQueue_settles s p.1 p.2

theorem failCmd_settles (s : State) (c : Cmd) (st code : Nat) (r : Report) : Settles (completeCmd s c st code) (failCmd s c st code r) := by
  unfold failCmd
  refine Settles.trans ?_ (.of_changes (fileReport_changes _ _))
  refine Settles.trans ?_ (.of_changes (noteFault_changes _ _ _ _ _))
  unfold stopOwner
  split
  · exact stopContext_settles _ _ _ _
  · exact .refl _

/-- A failing completion ends the command (R207, R209). -/
theorem failCmd_ends (s : State) (c : Cmd) (st code : Nat) (r : Report) : ended (failCmd s c st code r) c.u c.q c.serial :=
  (failCmd_settles s c st code r).keep _ _ _ (completeCmd_ends s c st code)

end Sys2Proof.Machine
end

