-- ==== Sys2Proof/Laws/FootprintAdmission.lean ====
section
/-! SUPPORT. What each function of Machine/Admission.lean can change. -/

set_option Elab.async false

set_option linter.unreachableTactic false
set_option linter.unusedTactic false
set_option linter.unnecessarySeqFocus false

namespace Sys2Proof.Machine

theorem admissionRead_changes (s : State) (c : Cmd) :
    Changes [.draws, .od, .memory, .sectors, .accumulators, .commands, .tallies, .engines, .channels, .power, .recorder, .tests, .access, .link, .drains, .output] s (admissionRead s c) := by
  unfold admissionRead
  repeat' (first
    | with_reducible exact Changes.refl
    | with_reducible assumption
    | ((with_reducible apply Changes.step (failCmd_changes _ _ _ _ _)); rfl)
    | ((with_reducible apply Changes.step (odBump_changes _ _ _ _)); rfl)
    | ((with_reducible apply Changes.step (putCmd_changes _ _)); rfl)
    | ((with_reducible apply Changes.step (rejectCmd_changes _ _ _)); rfl)
    | (show kindsIn _ _ = true; rfl)
    | split
    | dsimp only
    | intro _
    | with_reducible refine Changes.update ?_)

theorem execAdmissionRead_changes (u q : Nat) (s : State) {t : State} (h : execAdmissionRead u q s = .next t) :
    Changes [.draws, .od, .memory, .sectors, .accumulators, .commands, .tallies, .engines, .channels, .power, .recorder, .tests, .access, .link, .drains, .output] s t := by
  unfold execAdmissionRead at h
  injection h with h
  subst h
  repeat' (first
    | with_reducible exact Changes.refl
    | with_reducible assumption
    | ((with_reducible apply Changes.step (admissionRead_changes _ _)); rfl)
    | (show kindsIn _ _ = true; rfl)
    | split
    | dsimp only
    | intro _)

theorem setLevel_changes (s : State) (d v : Nat) :
    Changes [.od] s (setLevel s d v) := by
  unfold setLevel
  repeat' (first
    | with_reducible exact Changes.refl
    | with_reducible assumption
    | ((with_reducible apply Changes.step (odSet_changes _ _ _ _)); rfl)
    | (show kindsIn _ _ = true; rfl)
    | split
    | dsimp only
    | intro _)

theorem setReserve_changes (s : State) (u q v : Nat) :
    Changes [.budget] s (setReserve s u q v) := by
  unfold setReserve
  repeat' (first
    | with_reducible exact Changes.refl
    | with_reducible assumption
    | (show kindsIn _ _ = true; rfl)
    | split
    | dsimp only
    | intro _
    | with_reducible refine Changes.update ?_)

theorem setReserveEnd_changes (s : State) (u q v : Nat) :
    Changes [.budget] s (setReserveEnd s u q v) := by
  unfold setReserveEnd
  repeat' (first
    | with_reducible exact Changes.refl
    | with_reducible assumption
    | (show kindsIn _ _ = true; rfl)
    | split
    | dsimp only
    | intro _
    | with_reducible refine Changes.update ?_)

theorem drawCharge_changes (s : State) (c : Cmd) :
    Changes [.od, .budget] s (drawCharge s c) := by
  unfold drawCharge
  repeat' (first
    | with_reducible exact Changes.refl
    | with_reducible assumption
    | ((with_reducible apply Changes.step (setLevel_changes _ _ _)); rfl)
    | ((with_reducible apply Changes.step (setReserve_changes _ _ _ _)); rfl)
    | (show kindsIn _ _ = true; rfl)
    | split
    | dsimp only
    | intro _)

theorem applySeed_changes (s : State) :
    Changes [.streams] s (applySeed s) := by
  unfold applySeed
  repeat' (first
    | with_reducible exact Changes.refl
    | with_reducible assumption
    | (show kindsIn _ _ = true; rfl)
    | split
    | dsimp only
    | intro _
    | with_reducible refine Changes.update ?_)

theorem skipCmd_changes (s : State) (c : Cmd) :
    Changes [.draws, .od, .memory, .sectors, .commands, .tallies, .engines, .power, .recorder, .access, .link, .drains, .output] s (skipCmd s c) := by
  unfold skipCmd
  repeat' (first
    | with_reducible exact Changes.refl
    | with_reducible assumption
    | ((with_reducible apply Changes.step (finishCmd_changes _ _ _)); rfl)
    | ((with_reducible apply Changes.step (odBump_changes _ _ _ _)); rfl)
    | (show kindsIn _ _ = true; rfl)
    | split
    | dsimp only
    | intro _
    | with_reducible refine Changes.update ?_)

theorem openChan_changes (s : State) (c : Cmd) :
    Changes [.channels] s (openChan s c) := by
  unfold openChan
  repeat' (first
    | with_reducible exact Changes.refl
    | with_reducible assumption
    | (show kindsIn _ _ = true; rfl)
    | split
    | dsimp only
    | intro _
    | with_reducible refine Changes.update ?_)

theorem admitCmd_changes (s : State) (c : Cmd) :
    Changes [.draws, .od, .memory, .sectors, .commands, .tallies, .budget, .streams, .engines, .channels, .power, .recorder, .access, .link, .drains, .output] s (admitCmd s c) := by
  unfold admitCmd
  repeat' (first
    | with_reducible exact Changes.refl
    | with_reducible assumption
    | ((with_reducible apply Changes.step (addWindow_changes _ _ _)); rfl)
    | ((with_reducible apply Changes.step (applySeed_changes _)); rfl)
    | ((with_reducible apply Changes.step (claimHawks_changes _ _)); rfl)
    | ((with_reducible apply Changes.step (drawCharge_changes _ _)); rfl)
    | ((with_reducible apply Changes.step (finishCmd_changes _ _ _)); rfl)
    | ((with_reducible apply Changes.step (odBump_changes _ _ _ _)); rfl)
    | ((with_reducible apply Changes.step (openChan_changes _ _)); rfl)
    | ((with_reducible apply Changes.step (putCmd_changes _ _)); rfl)
    | ((with_reducible apply Changes.step (qSet_changes _ _ _ _ _)); rfl)
    | ((with_reducible apply Changes.step (skipCmd_changes _ _)); rfl)
    | (show kindsIn _ _ = true; rfl)
    | split
    | dsimp only
    | intro _
    | with_reducible refine Changes.update ?_)

theorem markWaits_changes (s : State) (d : Nat) (l : List Cmd) :
    Changes [.draws, .od, .commands, .recorder, .access, .output] s (markWaits s d l) := by
  unfold markWaits
  repeat' (first
    | with_reducible exact Changes.refl
    | with_reducible assumption
    | ((with_reducible apply Changes.step (odBump_changes _ _ _ _)); rfl)
    | ((with_reducible apply Changes.step (putCmd_changes _ _)); rfl)
    | with_reducible apply Changes.foldl
    | (show kindsIn _ _ = true; rfl)
    | split
    | dsimp only
    | intro _
    | with_reducible refine Changes.update ?_)

theorem dispatchDie_changes (s : State) (d : Nat) :
    Changes [.draws, .od, .memory, .sectors, .commands, .tallies, .budget, .streams, .engines, .channels, .power, .recorder, .access, .link, .drains, .output] s (dispatchDie s d) := by
  unfold dispatchDie
  repeat' (first
    | with_reducible exact Changes.refl
    | with_reducible assumption
    | ((with_reducible apply Changes.step (admitCmd_changes _ _)); rfl)
    | ((with_reducible apply Changes.step (markWaits_changes _ _ _)); rfl)
    | (show kindsIn _ _ = true; rfl)
    | split
    | dsimp only
    | intro _
    | with_reducible refine Changes.update ?_)

theorem execAdmit_changes (d : Nat) (s : State) {t : State} (h : execAdmit d s = .next t) :
    Changes [.draws, .od, .memory, .sectors, .commands, .tallies, .budget, .streams, .engines, .channels, .power, .recorder, .access, .link, .drains, .output] s t := by
  unfold execAdmit at h
  injection h with h
  subst h
  repeat' (first
    | with_reducible exact Changes.refl
    | with_reducible assumption
    | ((with_reducible apply Changes.step (dispatchDie_changes _ _)); rfl)
    | (show kindsIn _ _ = true; rfl)
    | split
    | dsimp only
    | intro _)

theorem execHoldLimitExpiry_changes (d : Nat) (s : State) {t : State} (h : execHoldLimitExpiry d s = .next t) :
    Changes [.draws, .od, .budget, .recorder, .access, .output] s t := by
  unfold execHoldLimitExpiry at h
  injection h with h
  subst h
  repeat' (first
    | with_reducible exact Changes.refl
    | with_reducible assumption
    | ((with_reducible apply Changes.step (odBump_changes _ _ _ _)); rfl)
    | (show kindsIn _ _ = true; rfl)
    | split
    | dsimp only
    | intro _
    | with_reducible refine Changes.update ?_)

theorem takeBudget_changes (s : State) (d : Nat) :
    Changes [.budget] s (takeBudget s d) := by
  unfold takeBudget
  repeat' (first
    | with_reducible exact Changes.refl
    | with_reducible assumption
    | (show kindsIn _ _ = true; rfl)
    | split
    | dsimp only
    | intro _
    | with_reducible refine Changes.update ?_)

theorem cutReserves_changes (s : State) (d : Nat) :
    Changes [.budget] s (cutReserves s d) := by
  unfold cutReserves
  repeat' (first
    | with_reducible exact Changes.refl
    | with_reducible assumption
    | with_reducible apply Changes.foldl
    | with_reducible apply Changes.foldl_fst
    | with_reducible apply Changes.foldl_snd
    | with_reducible apply Changes.foldl_trd
    | with_reducible apply Changes.foldl_run
    | with_reducible apply Changes.foldl_deep
    | with_reducible apply Changes.foldl_lane
    | with_reducible apply Changes.foldl_blocks
    | (show kindsIn _ _ = true; rfl)
    | split
    | dsimp only
    | intro _
    | with_reducible refine Changes.update ?_)

theorem execBucketRefill_changes (d : Nat) (s : State) {t : State} (h : execBucketRefill d s = .next t) :
    Changes [.od, .budget] s t := by
  unfold execBucketRefill at h
  injection h with h
  subst h
  repeat' (first
    | with_reducible exact Changes.refl
    | with_reducible assumption
    | ((with_reducible apply Changes.step (cutReserves_changes _ _)); rfl)
    | ((with_reducible apply Changes.step (setLevel_changes _ _ _)); rfl)
    | ((with_reducible apply Changes.step (takeBudget_changes _ _)); rfl)
    | (show kindsIn _ _ = true; rfl)
    | split
    | dsimp only
    | intro _)

theorem returnReserve_changes (s : State) (u q : Nat) :
    Changes [.od, .budget] s (returnReserve s u q) := by
  unfold returnReserve
  repeat' (first
    | with_reducible exact Changes.refl
    | with_reducible assumption
    | ((with_reducible apply Changes.step (setLevel_changes _ _ _)); rfl)
    | ((with_reducible apply Changes.step (setReserve_changes _ _ _ _)); rfl)
    | ((with_reducible apply Changes.step (setReserveEnd_changes _ _ _ _)); rfl)
    | (show kindsIn _ _ = true; rfl)
    | split
    | dsimp only
    | intro _)

theorem execReserveExpiry_changes (u q : Nat) (s : State) {t : State} (h : execReserveExpiry u q s = .next t) :
    Changes [.od, .budget] s t := by
  unfold execReserveExpiry at h
  injection h with h
  subst h
  repeat' (first
    | with_reducible exact Changes.refl
    | with_reducible assumption
    | ((with_reducible apply Changes.step (returnReserve_changes _ _ _)); rfl)
    | (show kindsIn _ _ = true; rfl)
    | split
    | dsimp only
    | intro _)

theorem execBreserve_changes (u q : Nat) (s : State) {t : State} (h : execBreserve u q s = .next t) :
    Changes [.draws, .od, .memory, .sectors, .commands, .tallies, .budget, .engines, .power, .recorder, .access, .link, .drains, .output] s t := by
  unfold execBreserve at h
  injection h with h
  subst h
  repeat' (first
    | with_reducible exact Changes.refl
    | with_reducible assumption
    | ((with_reducible apply Changes.step (finishCmd_changes _ _ _)); rfl)
    | ((with_reducible apply Changes.step (returnReserve_changes _ _ _)); rfl)
    | ((with_reducible apply Changes.step (setLevel_changes _ _ _)); rfl)
    | ((with_reducible apply Changes.step (setReserve_changes _ _ _ _)); rfl)
    | ((with_reducible apply Changes.step (setReserveEnd_changes _ _ _ _)); rfl)
    | (show kindsIn _ _ = true; rfl)
    | split
    | dsimp only
    | intro _)

theorem execBrelease_changes (u q : Nat) (s : State) {t : State} (h : execBrelease u q s = .next t) :
    Changes [.draws, .od, .memory, .sectors, .commands, .tallies, .budget, .engines, .power, .recorder, .access, .link, .drains, .output] s t := by
  unfold execBrelease at h
  injection h with h
  subst h
  repeat' (first
    | with_reducible exact Changes.refl
    | with_reducible assumption
    | ((with_reducible apply Changes.step (finishCmd_changes _ _ _)); rfl)
    | ((with_reducible apply Changes.step (returnReserve_changes _ _ _)); rfl)
    | (show kindsIn _ _ = true; rfl)
    | split
    | dsimp only
    | intro _)

theorem execSetvl_changes (u q : Nat) (s : State) {t : State} (h : execSetvl u q s = .next t) :
    Changes [.draws, .od, .memory, .sectors, .commands, .tallies, .budget, .streams, .engines, .channels, .power, .recorder, .access, .link, .drains, .output] s t := by
  unfold execSetvl at h
  injection h with h
  subst h
  repeat' (first
    | with_reducible exact Changes.refl
    | with_reducible assumption
    | ((with_reducible apply Changes.step (dispatchDie_changes _ _)); rfl)
    | (show kindsIn _ _ = true; rfl)
    | split
    | dsimp only
    | intro _
    | with_reducible refine Changes.update ?_)

theorem screedRewind_changes (s : State) (c : Cmd) :
    Changes [.engines] s (screedRewind s c) := by
  unfold screedRewind
  repeat' (first
    | with_reducible exact Changes.refl
    | with_reducible assumption
    | ((with_reducible apply Changes.step (putScreed_changes _ _)); rfl)
    | (show kindsIn _ _ = true; rfl)
    | split
    | dsimp only
    | intro _
    | with_reducible refine Changes.update ?_)

theorem preempt_changes (s : State) (c : Cmd) :
    Changes [.draws, .od, .commands, .engines, .recorder, .access, .output] s (preempt s c) := by
  unfold preempt
  repeat' (first
    | with_reducible exact Changes.refl
    | with_reducible assumption
    | ((with_reducible apply Changes.step (dropTiles_changes _ _)); rfl)
    | ((with_reducible apply Changes.step (odBump_changes _ _ _ _)); rfl)
    | ((with_reducible apply Changes.step (putCmd_changes _ _)); rfl)
    | ((with_reducible apply Changes.step (releaseHawks_changes _ _ _)); rfl)
    | ((with_reducible apply Changes.step (screedRewind_changes _ _)); rfl)
    | (show kindsIn _ _ = true; rfl)
    | split
    | dsimp only
    | intro _
    | with_reducible refine Changes.update ?_)

theorem execPreemptionRequest_changes (u q : Nat) (s : State) {t : State} (h : execPreemptionRequest u q s = .next t) :
    Changes [.draws, .od, .commands, .engines, .recorder, .access, .output] s t := by
  unfold execPreemptionRequest at h
  injection h with h
  subst h
  repeat' (first
    | with_reducible exact Changes.refl
    | with_reducible assumption
    | ((with_reducible apply Changes.step (odBump_changes _ _ _ _)); rfl)
    | ((with_reducible apply Changes.step (preempt_changes _ _)); rfl)
    | ((with_reducible apply Changes.step (putCmd_changes _ _)); rfl)
    | with_reducible apply Changes.foldl
    | (show kindsIn _ _ = true; rfl)
    | split
    | dsimp only
    | intro _
    | with_reducible refine Changes.update ?_)

end Sys2Proof.Machine
end

