-- ==== Sys2Proof/Laws/Memory.lean ====
section
/-! SUPPORT. The byte memory: what a write leaves at each offset, and its canonical form (R249, R257). -/

set_option Elab.async false

namespace Sys2Proof.Machine

/-- What a write of consecutive values leaves outside them. -/
theorem Store.get_putList_out {α : Type} [DecidableEq α] {d : α} (l : List α) {m : Store α} {k x : Nat} (h : Store.wf d m = true)
    (hx : x < k ∨ k + l.length ≤ x) : Store.get d (Store.putList d m k l) x = Store.get d m x := by
  induction l generalizing m k with
  | nil => rfl
  | cons v r ih =>
    simp only [List.length_cons] at hx
    simp only [Store.putList]
    rw [ih (Store.put_wf h) (by omega), Store.get_put_of_ne h (by omega)]

/-- What a write of consecutive values leaves among them. -/
theorem Store.get_putList_in {α : Type} [DecidableEq α] {d : α} (l : List α) {m : Store α} {k i : Nat} (h : Store.wf d m = true)
    (hi : i < l.length) : Store.get d (Store.putList d m k l) (k + i) = l[i] := by
  induction l generalizing m k i with
  | nil => simp at hi
  | cons v r ih =>
    simp only [Store.putList]
    cases i with
    | zero =>
      rw [Store.get_putList_out r (Store.put_wf h) (by omega)]
      simpa using Store.get_put (k := k) (v := v) h
    | succ i =>
      have := ih (m := Store.put d m k v) (k := k + 1) (i := i) (Store.put_wf h) (by simpa using hi)
      rw [show k + (i + 1) = k + 1 + i by omega, this]
      simp

/-- What a write leaves can be read back. -/
theorem Store.getList_putList {α : Type} [DecidableEq α] {d : α} (l : List α) {m : Store α} {k : Nat} (h : Store.wf d m = true) :
    Store.getList d (Store.putList d m k l) k l.length = l := by
  unfold Store.getList
  apply List.ext_getElem
  · simp
  · intro i h1 h2
    simp only [List.getElem_map, List.getElem_range]
    exact Store.get_putList_in l h h2

theorem markWrite_mem (s : State) (a n : Nat) (bad : List (Nat × Nat)) : (markWrite s a n bad).mem = s.mem :=
  (markWrite_changes s a n bad).same .memory rfl

theorem memWriteBad_mem (s : State) (a : Nat) (d : List Byte) (bad : List (Nat × Nat)) :
    (memWriteBad s a d bad).mem = Store.putList 0 s.mem a d := by
  unfold memWriteBad; exact markWrite_mem _ _ _ _

theorem memWrite_mem (s : State) (a : Nat) (d : List Byte) : (memWrite s a d).mem = Store.putList 0 s.mem a d := memWriteBad_mem _ _ _ _

theorem leBytes_length (n v : Nat) : (leBytes n v).length = n := by
  induction n generalizing v with
  | zero => rfl
  | succ n ih => simp [leBytes, ih]

/-- A write leaves every byte outside it. -/
theorem memByte_memWriteBad (s : State) {a x : Nat} {d : List Byte} {bad : List (Nat × Nat)} (h : Store.wf 0 s.mem = true)
    (hx : x < a ∨ a + d.length ≤ x) : memByte (memWriteBad s a d bad) x = memByte s x := by
  unfold memByte; rw [memWriteBad_mem]; exact Store.get_putList_out d h hx

theorem memByte_memWrite (s : State) {a x : Nat} {d : List Byte} (h : Store.wf 0 s.mem = true)
    (hx : x < a ∨ a + d.length ≤ x) : memByte (memWrite s a d) x = memByte s x := memByte_memWriteBad s h hx

theorem memByte_memPut (s : State) {a x n v : Nat} (h : Store.wf 0 s.mem = true)
    (hx : x < a ∨ a + n ≤ x) : memByte (memPut s a n v) x = memByte s x := by
  unfold memPut; exact memByte_memWrite s h (by rw [leBytes_length]; exact hx)

/-- What a write stores can be read back. -/
theorem getList_memWriteBad (s : State) (a : Nat) (d : List Byte) (bad : List (Nat × Nat)) (h : Store.wf 0 s.mem = true) :
    Store.getList 0 (memWriteBad s a d bad).mem a d.length = d := by
  rw [memWriteBad_mem]; exact Store.getList_putList d h

theorem getList_memPut (s : State) (a n v : Nat) (h : Store.wf 0 s.mem = true) :
    Store.getList 0 (memPut s a n v).mem a n = leBytes n v := by
  have := getList_memWriteBad s a (leBytes n v) [] h
  rwa [leBytes_length] at this

/-! ### The canonical form of memory -/

theorem memWriteBad_wf (s : State) (a : Nat) (d : List Byte) (bad : List (Nat × Nat)) (h : Memory.wf s.mem = true) :
    Memory.wf (memWriteBad s a d bad).mem = true := by
  unfold Memory.wf at *; rw [memWriteBad_mem]; exact Store.putList_wf d h

theorem memWrite_wf (s : State) (a : Nat) (d : List Byte) (h : Memory.wf s.mem = true) : Memory.wf (memWrite s a d).mem = true :=
  memWriteBad_wf s a d [] h

theorem memPut_wf (s : State) (a n v : Nat) (h : Memory.wf s.mem = true) : Memory.wf (memPut s a n v).mem = true :=
  memWriteBad_wf s a _ [] h

theorem clearScratch_wf (s : State) (k : Nat) (h : Memory.wf s.mem = true) : Memory.wf (clearScratch s k).mem = true := by
  unfold Memory.wf at *; exact Store.dropRange_wf h

theorem reset_memory_wf : Memory.wf State.reset.mem = true := by decide

end Sys2Proof.Machine
end

