-- ==== Sys2Proof/Laws/Completion.lean ====
section
/-! SUPPORT. Completion of a command (R202, R206): where the command that a row picks stands, which entries of the object dictionary and
which bytes of memory a completion can change, and what it does to the tallies. -/

set_option Elab.async false

namespace Sys2Proof.Machine

/-! ### The command that a row picks -/

theorem find_qCmds {s : State} {u q : Nat} {p : Cmd → Bool} {c : Cmd} (h : (qCmds s u q).find? p = some c) :
    c ∈ s.cmds ∧ c.u = u ∧ c.q = q ∧ p c = true := by
  have hm := List.mem_of_find?_eq_some h
  have hp := List.find?_some h
  simp only [qCmds, List.mem_filter, Bool.and_eq_true, beq_iff_eq] at hm
  exact ⟨hm.1, hm.2.1, hm.2.2, hp⟩

theorem atAdmission_spec {s : State} {u q : Nat} {c : Cmd} (h : atAdmission s u q = some c) :
    c ∈ s.cmds ∧ c.u = u ∧ c.q = q ∧ c.stage = .issued ∧ c.preempted = false := by
  have := find_qCmds h
  simp only [Bool.and_eq_true, beq_iff_eq, Bool.not_eq_true'] at this
  exact ⟨this.1, this.2.1, this.2.2.1, this.2.2.2.1, this.2.2.2.2⟩

theorem admissionPoint_spec {s : State} {u q : Nat} {c : Cmd} (h : admissionPoint s u q = some c) :
    c ∈ s.cmds ∧ c.u = u ∧ c.q = q ∧ c.stage = .issued := by
  have := find_qCmds h
  simpa only [beq_iff_eq] using this

theorem firstIn_spec {s : State} {u q : Nat} {st : Stage} {c : Cmd} (h : firstIn s u q st = some c) :
    c ∈ s.cmds ∧ c.u = u ∧ c.q = q ∧ c.stage = st := by
  have := find_qCmds h
  simpa only [beq_iff_eq] using this

theorem readyControl_spec {s : State} {u q op : Nat} {c : Cmd} (h : readyControl s u q op = some c) :
    c ∈ s.cmds ∧ c.u = u ∧ c.q = q ∧ c.stage = .issued ∧ c.op = op := by
  unfold readyControl at h
  split at h
  · rename_i d hd
    split at h
    · rename_i hc
      cases h
      have := atAdmission_spec hd
      exact ⟨this.1, this.2.1, this.2.2.1, this.2.2.2.1, hc.1⟩
    · cases h
  · cases h

/-! ### Tallies -/

theorem tallyGet_tallySet (s : State) (h : s.Sound) (a v k : Nat) :
    tallyGet (tallySet s a v) k = if k = a then v % 2 ^ 32 else tallyGet s k := by
  unfold tallyGet tallySet
  split
  · subst_vars; exact Store.get_put h.tallies
  · exact Store.get_put_of_ne h.tallies (by assumption)

theorem tallyGet_congr {s t : State} (h : t.tallies = s.tallies) (k : Nat) : tallyGet t k = tallyGet s k := by
  unfold tallyGet; rw [h]

/-- The tallies after a completion with status OK or SKIPPED (R202). -/
theorem completeCmd_adds (s : State) (c : Cmd) (st code k : Nat) (hs : s.Sound) (hst : st ≤ 1) :
    tallyGet (completeCmd s c st code) k = addedTally c (tallyGet s) k := by
  rw [tallyGet_congr (completeCmd_tallies s c st code)]
  unfold applyAdd addedTally
  cases ha : c.aen
  · simp
  · simp only [Bool.true_and, decide_eq_true hst, if_true, true_and]
    unfold tallyAdd
    rw [tallyGet_tallySet s hs]
    split
    · subst_vars; rfl
    · rfl

/-- A completion with another status adds nothing (R202). -/
theorem completeCmd_addsNothing (s : State) (c : Cmd) (st code : Nat) (hst : 1 < st) :
    (completeCmd s c st code).tallies = s.tallies := by
  rw [completeCmd_tallies]
  unfold applyAdd
  rw [if_neg]
  simp only [Bool.and_eq_true, decide_eq_true_eq, not_and]
  omega

theorem foldl_keeps {α β : Type} {f : State → α → State} {g : State → β} (hf : ∀ s a, g (f s a) = g s) (l : List α) (s : State) :
    g (l.foldl f s) = g s := by
  induction l generalizing s with
  | nil => rfl
  | cons a r ih => exact (ih _).trans (hf s a)

theorem abortCmd_tallies (s : State) (c : Cmd) (code : Nat) : (abortCmd s c code).tallies = s.tallies := by
  have h : (completeCmd (copyStopped s c) c stABORTED code).tallies = s.tallies :=
    (completeCmd_addsNothing _ _ _ _ (by decide)).trans ((copyStopped_changes s c).same .tallies rfl)
  unfold abortCmd
  dsimp only
  split
  · exact ((fileReport_changes _ _).same .tallies rfl).trans h
  · exact h

theorem stopQueue_tallies (s : State) (u q : Nat) : (stopQueue s u q).tallies = s.tallies := by
  unfold stopQueue
  dsimp only
  refine ((discardHeld_changes _ _ _).same .tallies rfl).trans ?_
  refine ((endColls_changes _ _ _).same .tallies rfl).trans ?_
  refine (foldl_keeps (g := State.tallies) (fun s c => abortCmd_tallies s c _) _ _).trans ?_
  exact (qSet_changes s u q 6 3).same .tallies rfl

theorem stopContext_tallies (s : State) (ctx code : Nat) (h : Option (Nat × Nat × Nat)) : (stopContext s ctx code h).tallies = s.tallies := by
  unfold stopContext
  split
  · rfl
  · refine ((invalidateContext_changes _ _).same .tallies rfl).trans ?_
    refine ((stopChans_changes _ _).same .tallies rfl).trans ?_
    refine ((headPast_changes _ _).same .tallies rfl).trans ?_
    unfold stopQueues
    refine (foldl_keeps (g := State.tallies) ?_ _ _).trans ?_
    · intro s p; exact stopQueue_tallies s p.1 p.2
    exact (stateChange_changes _ _ _ _ _ _ _).same .tallies rfl

/-- A failing completion adds to no tally (R202). -/
theorem failCmd_tallies (s : State) (c : Cmd) (st code : Nat) (r : Report) (hst : 1 < st) : (failCmd s c st code r).tallies = s.tallies := by
  unfold failCmd
  refine ((fileReport_changes _ _).same .tallies rfl).trans ?_
  refine ((noteFault_changes _ _ _ _ _).same .tallies rfl).trans ?_
  unfold stopOwner
  split
  · exact (stopContext_tallies _ _ _ _).trans (completeCmd_addsNothing _ _ _ _ hst)
  · exact completeCmd_addsNothing _ _ _ _ hst

/-! ### Entries of the object dictionary that a completion can change -/

/-- Every entry that a completion in a queue cannot change is as it was. -/
abbrev OffCompletion (u q : Nat) (s t : State) : Prop := OdKeeps (fun k => ¬ completionKey u q k) s t

theorem OffLog.offCompletion {u q : Nat} {s t : State} (h : OffLog s t) : OffCompletion u q s t :=
  h.mono (fun _ hk hl => hk (.inr (.inr (.inr (.inr (.inr hl))))))

theorem OdKeeps.qSet' {P : Nat → Prop} (s : State) {u q n : Nat} (v : Nat) (h : ¬ P (odKey (queueIndex u) (q * 16 + n))) :
    OdKeeps P s (qSet s u q n v) := by
  unfold qSet; exact .set s v h

theorem odBump_offCompletion {u q : Nat} (s : State) (i sub n : Nat) (h : completionKey u q (odKey i sub)) :
    OffCompletion u q s (odBump s i sub n) :=
  (odBump_keeps s i sub n).mono (fun _ hk => ⟨fun e => hk (e ▸ h), fun hl => hk (.inr (.inr (.inr (.inr (.inr hl)))))⟩)

theorem qSet_offCompletion {u q : Nat} (s : State) (n v : Nat) (h : n = 4 ∨ n = 6 ∨ n = 7) : OffCompletion u q s (qSet s u q n v) :=
  .qSet' s v (fun hk => hk (.inl ⟨n, h, rfl⟩))

theorem stickyOr_offCompletion (s : State) (u q : Nat) (f : Flags) : OffCompletion u q s (stickyOr s u q f) := by
  unfold stickyOr; exact qSet_offCompletion s 7 _ (by decide)

theorem discardHeld_offCompletion (s : State) (u q : Nat) : OffCompletion u q s (discardHeld s u q) := by
  unfold discardHeld
  dsimp only
  split
  · exact .refl s
  · refine OdKeeps.trans ?_ (odBump_offCompletion _ _ _ _ (.inr (.inl rfl)))
    exact .of_od

theorem hostWrite_offCompletion {u q : Nat} (s : State) (a : Nat) (d : List Byte) (bad : List (Nat × Nat)) :
    OffCompletion u q s (hostWrite s a d bad) := by
  unfold hostWrite
  split
  · exact .of_changes (emit_changes _ _)
  · exact odBump_offCompletion _ _ _ _ (.inr (.inr (.inl rfl)))

theorem issueSnoops_offCompletion {u q : Nat} (s : State) (r : List (Nat × Nat)) : OffCompletion u q s (issueSnoops s r) := by
  unfold issueSnoops
  dsimp only
  refine OdKeeps.trans ?_ (odBump_offCompletion _ _ _ _ (.inr (.inr (.inr (.inl rfl)))))
  refine OdKeeps.trans ?_ (.of_changes (emitAll_changes _ _))
  exact .of_od

theorem writeRecord_offCompletion (s : State) (u q n r : Nat) (i : Bool) : OffCompletion u q s (writeRecord s u q n r i) := by
  have h : OffCompletion u q s (if (recordSlot s u q n).1 then hostWrite s (recordSlot s u q n).2 (leBytes 32 r) []
      else if inJob s (recordSlot s u q n).2 32 then memPut s (recordSlot s u q n).2 32 r else s) := by
    split
    · exact hostWrite_offCompletion _ _ _ _
    · split
      · exact .of_changes (memPut_changes _ _ _ _)
      · exact .refl _
  unfold writeRecord
  dsimp only
  split
  · split
    · exact h.trans (.of_changes (raiseVector_changes _ _))
    · exact h
  · exact h

theorem writeRecords_offCompletion (k : Nat) (s : State) (u q : Nat) : OffCompletion u q s (writeRecords k s u q) := by
  induction k generalizing s with
  | zero => exact .refl s
  | succ k ih =>
    unfold writeRecords
    dsimp only
    split
    · split
      · split
        · exact issueSnoops_offCompletion _ _
        · exact (OdKeeps.trans (.of_changes (dropCmd_changes _ _)) (writeRecord_offCompletion _ _ _ _ _ _)).trans (ih _)
      · exact .refl s
    · exact .refl s

theorem setAside_offCompletion (s : State) (u q : Nat) : OffCompletion u q s (setAside s u q) := by
  unfold setAside
  split
  · exact .refl s
  · dsimp only
    refine OdKeeps.trans ?_ (qSet_offCompletion _ 4 _ (by decide))
    refine OdKeeps.trans (OdKeeps.foldl (fun s x => ?_) _ s) .of_od
    exact ((OdKeeps.of_changes (releaseHawks_changes s x true)).trans (.of_changes (dropCmd_changes _ x))).trans (.of_changes (dropTiles_changes _ x))

theorem settleContext_offCompletion (s : State) (u q c : Nat) (hc : c < 16) : OffCompletion u q s (settleContext s c) := by
  unfold settleContext
  split
  · refine (stateChange_keeps _ _ _ _ _ _ _).mono (fun k hk => ⟨fun e => hk ?_, fun hl => hk (.inr (.inr (.inr (.inr (.inr hl)))))⟩)
    exact .inr (.inr (.inr (.inr (.inl ⟨c, hc, e⟩))))
  · exact .refl s

theorem ctxOf_lt {s : State} {u q c : Nat} (h : ctxOf s u q = some c) : c < 16 := by
  unfold ctxOf at h
  split at h
  · split at h
    · rename_i hc
      cases h
      simp only [ctxEnabled, Bool.and_eq_true, decide_eq_true_eq] at hc
      exact hc.1
    · cases h
  · cases h

theorem becomeDrained_offCompletion (s : State) (u q : Nat) : OffCompletion u q s (becomeDrained s u q) := by
  unfold becomeDrained
  dsimp only
  have h : ∀ (x : State) (l : List (Nat × Nat)), OffCompletion u q x (qSet { x with draining := l } u q 6 4) := fun x l =>
    (OdKeeps.of_od (s := x) (t := { x with draining := l })).trans (qSet_offCompletion _ 6 _ (by decide))
  have g := ((setAside_offCompletion s u q).trans (discardHeld_offCompletion _ u q)).trans (h (discardHeld (setAside s u q) u q)
    ((discardHeld (setAside s u q) u q).draining.filter (fun p => p.1 != drainKey u q)))
  split
  · exact g.trans (settleContext_offCompletion _ _ _ _ (ctxOf_lt (by assumption)))
  · exact g

theorem drainCheck_offCompletion (s : State) (u q : Nat) (d : Option Nat) : OffCompletion u q s (drainCheck s u q d) := by
  unfold drainCheck
  split
  · exact .refl s
  · split
    · split
      · exact .refl s
      · exact becomeDrained_offCompletion _ _ _
    · split
      · exact becomeDrained_offCompletion _ _ _
      · exact .refl s

theorem afterCompletion_offCompletion (s : State) (c : Cmd) (st : Nat) : OffCompletion c.u c.q s (afterCompletion s c st) := by
  unfold afterCompletion
  dsimp only
  refine OdKeeps.trans ?_ (drainCheck_offCompletion _ _ _ _)
  refine OdKeeps.trans ?_ (writeRecords_offCompletion _ _ _ _)
  have h : OffCompletion c.u c.q s (if st = stPOISON then snagSet (dropTiles (releaseHawks s c false) c) 135 else dropTiles (releaseHawks s c false) c) := by
    refine OdKeeps.trans ((OdKeeps.of_changes (releaseHawks_changes s c false)).trans (.of_changes (dropTiles_changes _ c))) ?_
    split
    · exact (snagSet_offLog _ _).offCompletion
    · exact .refl _
  split
  · exact h.trans (discardHeld_offCompletion _ _ _)
  · exact h

/-- What a completion leaves of the object dictionary. -/
theorem completeCmd_offCompletion (s : State) (c : Cmd) (st code : Nat) : OffCompletion c.u c.q s (completeCmd s c st code) := by
  unfold completeCmd
  refine OdKeeps.trans ?_ (afterCompletion_offCompletion _ c _)
  refine OdKeeps.trans ?_ (.of_changes (settleEnergy_changes _ _))
  refine OdKeeps.trans ?_ (.of_changes (putCmd_changes _ _))
  exact (OdKeeps.of_changes (applyAdd_changes s c st)).trans (stickyOr_offCompletion _ _ _ _)

/-! ### Bytes that a completion can change -/

theorem queueExists_bounds {u q : Nat} (h : queueExists u q = true) : u < 136 ∧ q < 16 := by
  unfold queueExists isCore isSweep queuesOf isSweep at h
  simp only [Bool.and_eq_true, Bool.or_eq_true, decide_eq_true_eq] at h
  split at h <;> omega

/-- Entries of a queue other than its head, state and sticky flags stay. -/
theorem queueKey_stays {u q n : Nat} (h : queueExists u q = true) (hn : n < 16) (h4 : n ≠ 4) (h6 : n ≠ 6) (h7 : n ≠ 7) :
    ¬ completionKey u q (odKey (queueIndex u) (q * 16 + n)) := by
  have hb := queueExists_bounds h
  unfold completionKey odKey queueIndex logKey
  rintro (⟨m, hm, e⟩ | e | e | e | ⟨c, hc, e⟩ | e)
  · omega
  all_goals split at e <;> omega

theorem OffCompletion.qGet {u q n : Nat} {s t : State} (g : OffCompletion u q s t) (h : queueExists u q = true) (hn : n < 16)
    (h4 : n ≠ 4) (h6 : n ≠ 6) (h7 : n ≠ 7) : qGet t u q n = qGet s u q n := by
  unfold Machine.qGet; exact g.get _ _ (queueKey_stays h hn h4 h6 h7)

theorem inRecords_congr {u q : Nat} {s t : State} (g : OffCompletion u q s t) (h : queueExists u q = true) (a : Nat) :
    inRecords t u q a ↔ inRecords s u q a := by
  unfold inRecords
  rw [g.qGet h (by decide) (by decide) (by decide) (by decide), g.qGet h (by decide) (by decide) (by decide) (by decide)]

/-- Bytes outside the completion ring of a queue are as they were, and memory keeps its form. -/
structure RecordsOnly (u q : Nat) (s t : State) : Prop where
  wf : Memory.wf s.mem = true → Memory.wf t.mem = true
  same : Memory.wf s.mem = true → ∀ a, ¬ inRecords s u q a → memByte t a = memByte s a

theorem RecordsOnly.of_mem {u q : Nat} {s t : State} (h : t.mem = s.mem) : RecordsOnly u q s t :=
  ⟨fun w => h ▸ w, fun _ a _ => by simp only [memByte, h]⟩

theorem RecordsOnly.of_changes {u q : Nat} {K : List Kind} {s t : State} (h : Changes K s t) (hk : K.contains .memory = false := by rfl) :
    RecordsOnly u q s t := .of_mem (h.same .memory hk)

theorem RecordsOnly.trans {u q : Nat} {s t v : State} (h : RecordsOnly u q s t) (g : RecordsOnly u q t v)
    (o : OffCompletion u q s t) (hq : queueExists u q = true) : RecordsOnly u q s v :=
  ⟨fun w => g.wf (h.wf w), fun w a ha =>
    (g.same (h.wf w) a (fun hr => ha ((inRecords_congr o hq a).mp hr))).trans (h.same w a ha)⟩

theorem writeRecord_records (s : State) (u q n r : Nat) (i : Bool) : RecordsOnly u q s (writeRecord s u q n r i) := by
  have h : RecordsOnly u q s (if (recordSlot s u q n).1 then hostWrite s (recordSlot s u q n).2 (leBytes 32 r) []
      else if inJob s (recordSlot s u q n).2 32 then memPut s (recordSlot s u q n).2 32 r else s) := by
    split
    · exact .of_changes (hostWrite_changes _ _ _ _)
    · split
      · rename_i hb _
        refine ⟨memPut_wf s _ _ _, fun w a ha => memByte_memPut s w ?_⟩
        have hm : n % 2 ^ qGet s u q 2 < 2 ^ qGet s u q 2 := Nat.mod_lt _ (Nat.two_pow_pos _)
        simp only [recordSlot] at hb ⊢
        have hb' : bitOf (qGet s u q 3) 63 = false := by simpa using hb
        unfold inRecords at ha
        rw [not_and, not_and] at ha
        have := ha hb'
        omega
      · exact .of_mem rfl
  unfold writeRecord
  dsimp only
  split
  · split
    · exact ⟨fun w => (RecordsOnly.of_changes (u := u) (q := q) (raiseVector_changes _ _)).wf (h.wf w), fun w a ha => by
        rw [← h.same w a ha]; unfold memByte; rw [(raiseVector_changes _ _).same .memory rfl]⟩
    · exact h
  · exact h

theorem writeRecords_records (k : Nat) (s : State) (u q : Nat) (hq : queueExists u q = true) : RecordsOnly u q s (writeRecords k s u q) := by
  induction k generalizing s with
  | zero => exact .of_mem rfl
  | succ k ih =>
    unfold writeRecords
    dsimp only
    split
    · rename_i c _ _
      split
      · split
        · exact .of_changes (issueSnoops_changes _ _)
        · have o : OffCompletion u q s (writeRecord (dropCmd s c) u q c.serial c.record c.irq) :=
            OdKeeps.trans (.of_changes (dropCmd_changes s c)) (writeRecord_offCompletion _ _ _ _ _ _)
          refine RecordsOnly.trans (RecordsOnly.trans (.of_changes (dropCmd_changes s c)) (writeRecord_records _ _ _ _ _ _)
            (.of_changes (dropCmd_changes s c)) hq) (ih _) o hq
      · exact .of_mem rfl
    · exact .of_mem rfl

/-- A completion stores to the completion ring of its queue and nowhere else (R206). -/
theorem completeCmd_records (s : State) (c : Cmd) (st code : Nat) (hq : queueExists c.u c.q = true) :
    RecordsOnly c.u c.q s (completeCmd s c st code) := by
  have h : ∀ x : State, RecordsOnly c.u c.q x (afterCompletion x c st) := by
    intro x
    have o : OffCompletion c.u c.q x (if st = stPOISON then snagSet (dropTiles (releaseHawks x c false) c) 135 else dropTiles (releaseHawks x c false) c) := by
      refine OdKeeps.trans ((OdKeeps.of_changes (releaseHawks_changes x c false)).trans (.of_changes (dropTiles_changes _ c))) ?_
      split
      · exact (snagSet_offLog _ _).offCompletion
      · exact .refl _
    have m : (if st = stPOISON then snagSet (dropTiles (releaseHawks x c false) c) 135 else dropTiles (releaseHawks x c false) c).mem = x.mem := by
      split
      · exact ((snagSet_changes _ _).same .memory rfl).trans (((dropTiles_changes _ _).same .memory rfl).trans ((releaseHawks_changes _ _ _).same .memory rfl))
      · exact ((dropTiles_changes _ _).same .memory rfl).trans ((releaseHawks_changes _ _ _).same .memory rfl)
    unfold afterCompletion
    dsimp only
    generalize (if st = stPOISON then snagSet (dropTiles (releaseHawks x c false) c) 135 else dropTiles (releaseHawks x c false) c) = y at o m ⊢
    have o2 : OffCompletion c.u c.q x (if c.sb = true then discardHeld y c.u c.q else y) := by
      split
      · exact o.trans (discardHeld_offCompletion _ _ _)
      · exact o
    have m2 : (if c.sb = true then discardHeld y c.u c.q else y).mem = x.mem := by
      split
      · exact ((discardHeld_changes _ _ _).same .memory rfl).trans m
      · exact m
    generalize (if c.sb = true then discardHeld y c.u c.q else y) = z at o2 m2 ⊢
    have o3 := writeRecords_offCompletion z.cmds.length z c.u c.q
    refine RecordsOnly.trans (RecordsOnly.trans (.of_mem m2) (writeRecords_records _ _ _ _ hq) o2 hq) (.of_changes (drainCheck_changes _ _ _ _)) (o2.trans o3) hq
  unfold completeCmd
  dsimp only
  have o : ∀ d : Cmd, OffCompletion c.u c.q s (settleEnergy (putCmd (stickyOr (applyAdd s c st) c.u c.q (c.flags ||| c.oldFlags)) d) c) := fun d =>
    (((OdKeeps.of_changes (applyAdd_changes s c st)).trans (stickyOr_offCompletion _ _ _ _)).trans (.of_changes (putCmd_changes _ _))).trans
      (.of_changes (settleEnergy_changes _ _))
  refine RecordsOnly.trans (.of_mem ?_) (h _) (o _) hq
  refine ((settleEnergy_changes _ _).same .memory rfl).trans ?_
  refine ((putCmd_changes _ _).same .memory rfl).trans ?_
  exact ((stickyOr_changes _ _ _ _).same .memory rfl).trans ((applyAdd_changes s c st).same .memory rfl)

end Sys2Proof.Machine
end

