-- ==== Sys2Proof/Laws/FootprintArray.lean ====
section
/-! SUPPORT. What each function of Machine/Array.lean can change. -/

set_option Elab.async false

set_option linter.unreachableTactic false
set_option linter.unusedTactic false
set_option linter.unnecessarySeqFocus false

namespace Sys2Proof.Machine

theorem accPut_changes (s : State) (k v : Nat) :
    Changes [.accumulators] s (accPut s k v) := by
  unfold accPut
  repeat' (first
    | with_reducible exact Changes.refl
    | with_reducible assumption
    | (show kindsIn _ _ = true; rfl)
    | split
    | dsimp only
    | intro _
    | with_reducible refine Changes.update ?_)

theorem accPutAll_changes (s : State) (l : List (Nat × Nat)) :
    Changes [.accumulators] s (accPutAll s l) := by
  unfold accPutAll
  repeat' (first
    | with_reducible exact Changes.refl
    | with_reducible assumption
    | ((with_reducible apply Changes.step (accPut_changes _ _ _)); rfl)
    | with_reducible apply Changes.foldl
    | with_reducible apply Changes.foldl_fst
    | with_reducible apply Changes.foldl_snd
    | with_reducible apply Changes.foldl_run
    | with_reducible apply Changes.foldl_blocks
    | (show kindsIn _ _ = true; rfl)
    | split
    | dsimp only
    | intro _)

theorem drawsFor_changes (s : State) (hrm : Bool) (epoch : Nat) (ids : List Nat) :
    Changes [.streams] s (drawsFor s hrm epoch ids).2 := by
  unfold drawsFor
  repeat' (first
    | with_reducible exact Changes.refl
    | with_reducible assumption
    | ((with_reducible apply Changes.step (drawList_changes _ _ _)); rfl)
    | (show kindsIn _ _ = true; rfl)
    | split
    | dsimp only
    | intro _)

theorem reblockAll_changes (fmt : Nat) (hrm : Bool) (epoch : Nat) (gs : List (List Nat × List Val)) (s : State) :
    Changes [.streams] s (reblockAll fmt hrm epoch gs s).st := by
  unfold reblockAll
  repeat' (first
    | with_reducible exact Changes.refl
    | with_reducible assumption
    | ((with_reducible apply Changes.step (drawsFor_changes _ _ _ _)); rfl)
    | with_reducible apply Changes.foldl
    | with_reducible apply Changes.foldl_fst
    | with_reducible apply Changes.foldl_snd
    | with_reducible apply Changes.foldl_run
    | with_reducible apply Changes.foldl_blocks
    | (show kindsIn _ _ = true; rfl)
    | split
    | dsimp only
    | intro _)

theorem formTile_changes (s : State) (c : Cmd) (t f : Nat) (raw : RawTile) :
    Changes [.streams] s (formTile s c t f raw).st := by
  unfold formTile
  repeat' (first
    | with_reducible exact Changes.refl
    | with_reducible assumption
    | ((with_reducible apply Changes.step (reblockAll_changes _ _ _ _ _)); rfl)
    | with_reducible apply Changes.foldl
    | with_reducible apply Changes.foldl_fst
    | with_reducible apply Changes.foldl_snd
    | with_reducible apply Changes.foldl_trd
    | with_reducible apply Changes.foldl_run
    | with_reducible apply Changes.foldl_deep
    | with_reducible apply Changes.foldl_lane
    | with_reducible apply Changes.foldl_blocks
    | (show kindsIn _ _ = true; rfl)
    | split
    | dsimp only
    | intro _)

theorem sourceAxis_changes (s : State) :
    Changes [.draws] s (sourceAxis s).2 := by
  unfold sourceAxis
  repeat' (first
    | with_reducible exact Changes.refl
    | with_reducible assumption
    | ((with_reducible apply Changes.step (freshNat_changes _ _ _)); rfl)
    | (show kindsIn _ _ = true; rfl)
    | split
    | dsimp only
    | intro _)

theorem reblockTile_changes (s : State) (t : HawkTile) (want : Nat) (hrm : Bool) (epoch : Nat) (lane : Nat → Nat → Nat) :
    Changes [.streams] s (reblockTile s t want hrm epoch lane).1.st := by
  unfold reblockTile
  repeat' (first
    | with_reducible exact Changes.refl
    | with_reducible assumption
    | ((with_reducible apply Changes.step (reblockAll_changes _ _ _ _ _)); rfl)
    | (show kindsIn _ _ = true; rfl)
    | split
    | dsimp only
    | intro _)

theorem blocksOnto_changes (s : State) (t : HawkTile) (want : Nat) (hrm : Bool) (epoch : Nat) (lane : Nat → Nat → Nat) :
    Changes [.streams] s (blocksOnto s t want hrm epoch lane).1.st := by
  unfold blocksOnto
  repeat' (first
    | with_reducible exact Changes.refl
    | with_reducible assumption
    | ((with_reducible apply Changes.step (reblockTile_changes _ _ _ _ _ _)); rfl)
    | (show kindsIn _ _ = true; rfl)
    | split
    | dsimp only
    | intro _)

theorem sourceTile_changes (s : State) (c : Cmd) (h n : Nat) :
    Changes [.draws] s (sourceTile s c h n).2 := by
  unfold sourceTile
  repeat' (first
    | with_reducible exact Changes.refl
    | with_reducible assumption
    | ((with_reducible apply Changes.step (sourceAxis_changes _)); rfl)
    | (show kindsIn _ _ = true; rfl)
    | split
    | dsimp only
    | intro _
    | with_reducible refine Changes.update ?_)

theorem hawkGive_changes (s : State) (w : CmdWord) (epoch : Nat) (loader : Bool) (t : HawkTile) (lane : Nat → Nat → Nat) :
    Changes [.streams] s (hawkGive s w epoch loader t lane).1.st := by
  unfold hawkGive
  repeat' (first
    | with_reducible exact Changes.refl
    | with_reducible assumption
    | ((with_reducible apply Changes.step (blocksOnto_changes _ _ _ _ _ _)); rfl)
    | (show kindsIn _ _ = true; rfl)
    | split
    | dsimp only
    | intro _)

theorem hawkWrite_changes (s : State) (c : Cmd) (h n : Nat) :
    Changes [.draws, .od, .commands, .streams, .engines, .recorder, .access, .output] s (hawkWrite s c h n) := by
  unfold hawkWrite
  repeat' (first
    | with_reducible exact Changes.refl
    | with_reducible assumption
    | ((with_reducible apply Changes.step (hawkGive_changes _ _ _ _ _ _)); rfl)
    | ((with_reducible apply Changes.step (odBump_changes _ _ _ _)); rfl)
    | ((with_reducible apply Changes.step (putCmd_changes _ _)); rfl)
    | ((with_reducible apply Changes.step (putHawk_changes _ _)); rfl)
    | ((with_reducible apply Changes.step (sourceTile_changes _ _ _ _)); rfl)
    | (show kindsIn _ _ = true; rfl)
    | split
    | dsimp only
    | intro _
    | with_reducible refine Changes.update ?_)

theorem fedTiles_changes (s : State) (c : Cmd) :
    Changes [.streams] s (fedTiles s c).2 := by
  unfold fedTiles
  repeat' (first
    | with_reducible exact Changes.refl
    | with_reducible assumption
    | ((with_reducible apply Changes.step (hawkGive_changes _ _ _ _ _ _)); rfl)
    | with_reducible apply Changes.foldl
    | with_reducible apply Changes.foldl_fst
    | with_reducible apply Changes.foldl_snd
    | with_reducible apply Changes.foldl_trd
    | with_reducible apply Changes.foldl_run
    | with_reducible apply Changes.foldl_deep
    | with_reducible apply Changes.foldl_lane
    | with_reducible apply Changes.foldl_blocks
    | (show kindsIn _ _ = true; rfl)
    | split
    | dsimp only
    | intro _)

theorem consumeFeeds_changes (s : State) (c : Cmd) :
    Changes [.engines] s (consumeFeeds s c) := by
  unfold consumeFeeds
  repeat' (first
    | with_reducible exact Changes.refl
    | with_reducible assumption
    | ((with_reducible apply Changes.step (putHawk_changes _ _)); rfl)
    | with_reducible apply Changes.foldl
    | (show kindsIn _ _ = true; rfl)
    | split
    | dsimp only
    | intro _
    | with_reducible refine Changes.update ?_)

theorem passArray_changes (s : State) (c : Cmd) (t : WTile) (e : Nat) (feeds : List Feed) :
    Changes [.draws, .od, .accumulators, .streams, .recorder, .access, .output] s (passArray s c t e feeds).1 := by
  unfold passArray
  repeat' (first
    | with_reducible exact Changes.refl
    | with_reducible assumption
    | ((with_reducible apply Changes.step (accPutAll_changes _ _)); rfl)
    | ((with_reducible apply Changes.step (odBump_changes _ _ _ _)); rfl)
    | ((with_reducible apply Changes.step (streamPut_changes _ _ _ _)); rfl)
    | with_reducible apply Changes.foldl
    | with_reducible apply Changes.foldl_fst
    | with_reducible apply Changes.foldl_snd
    | with_reducible apply Changes.foldl_trd
    | with_reducible apply Changes.foldl_run
    | with_reducible apply Changes.foldl_deep
    | with_reducible apply Changes.foldl_lane
    | with_reducible apply Changes.foldl_blocks
    | (show kindsIn _ _ = true; rfl)
    | split
    | dsimp only
    | intro _
    | with_reducible refine Changes.update ?_)

end Sys2Proof.Machine
end

