-- ==== Sys2Proof/Laws/FootprintDrain.lean ====
section
/-! SUPPORT. What each function of Machine/Drain.lean can change. -/

set_option Elab.async false

set_option linter.unreachableTactic false
set_option linter.unusedTactic false
set_option linter.unnecessarySeqFocus false

namespace Sys2Proof.Machine

theorem rowDraws_changes (epoch : Nat) (z o : Bool) (ids : List Nat) (s : State) :
    Changes [.streams] s (rowDraws epoch z o ids s).2 := by
  unfold rowDraws
  repeat' (first
    | with_reducible exact Changes.refl
    | with_reducible assumption
    | ((with_reducible apply Changes.step (draw_changes _ _ _)); rfl)
    | with_reducible apply Changes.foldl
    | with_reducible apply Changes.foldl_fst
    | with_reducible apply Changes.foldl_snd
    | with_reducible apply Changes.foldl_run
    | with_reducible apply Changes.foldl_blocks
    | (show kindsIn _ _ = true; rfl)
    | split
    | dsimp only
    | intro _)

end Sys2Proof.Machine
end

