-- ==== Sys2Proof/Laws/FootprintMatrix.lean ====
section
/-! SUPPORT. What each function of Machine/Matrix.lean can change. -/

set_option Elab.async false

set_option linter.unreachableTactic false
set_option linter.unusedTactic false
set_option linter.unnecessarySeqFocus false

namespace Sys2Proof.Machine

theorem addCapture_changes (s : State) (k : Capture) :
    Changes [.od, .tests] s (addCapture s k) := by
  unfold addCapture
  repeat' (first
    | with_reducible exact Changes.refl
    | with_reducible assumption
    | ((with_reducible apply Changes.step (odSet_changes _ _ _ _)); rfl)
    | (show kindsIn _ _ = true; rfl)
    | split
    | dsimp only
    | intro _
    | with_reducible refine Changes.update ?_)

theorem captureMat_changes (s : State) (c : Cmd) (e : Nat) :
    Changes [.od, .tests] s (captureMat s c e) := by
  unfold captureMat
  repeat' (first
    | with_reducible exact Changes.refl
    | with_reducible assumption
    | ((with_reducible apply Changes.step (addCapture_changes _ _)); rfl)
    | (show kindsIn _ _ = true; rfl)
    | split
    | dsimp only
    | intro _
    | with_reducible refine Changes.update ?_)

theorem undefine_changes (s : State) (l : List (Nat × Nat)) :
    Changes [.draws, .memory, .sectors] s (undefine s l) := by
  unfold undefine
  repeat' (first
    | with_reducible exact Changes.refl
    | with_reducible assumption
    | ((with_reducible apply Changes.step (memWrite_changes _ _ _)); rfl)
    | with_reducible apply Changes.foldl
    | with_reducible apply Changes.foldl_fst
    | with_reducible apply Changes.foldl_snd
    | with_reducible apply Changes.foldl_trd
    | with_reducible apply Changes.foldl_run
    | with_reducible apply Changes.foldl_deep
    | with_reducible apply Changes.foldl_lane
    | with_reducible apply Changes.foldl_blocks
    | (show kindsIn _ _ = true; rfl)
    | split
    | dsimp only
    | intro _
    | with_reducible refine Changes.update ?_)

theorem undefineDrain_changes (s : State) (c : Cmd) :
    Changes [.draws, .memory, .sectors] s (undefineDrain s c) := by
  unfold undefineDrain
  repeat' (first
    | with_reducible exact Changes.refl
    | with_reducible assumption
    | ((with_reducible apply Changes.step (undefine_changes _ _)); rfl)
    | (show kindsIn _ _ = true; rfl)
    | split
    | dsimp only
    | intro _)

theorem curedReport_changes (s : State) (c : Cmd) (code unit detail : Nat) (ops : Option (List Byte)) :
    Changes [.draws] s (curedReport s c code unit detail ops).2 := by
  unfold curedReport
  repeat' (first
    | with_reducible exact Changes.refl
    | with_reducible assumption
    | ((with_reducible apply Changes.step (detectReport_changes _ _)); rfl)
    | (show kindsIn _ _ = true; rfl)
    | split
    | dsimp only
    | intro _
    | with_reducible refine Changes.update ?_)

theorem rerunMat_changes (s : State) (c : Cmd) (code unit detail : Nat) (ops : Option (List Byte)) :
    Changes [.draws, .od, .memory, .sectors, .commands, .engines, .recorder, .access, .output] s (rerunMat s c code unit detail ops) := by
  unfold rerunMat
  repeat' (first
    | with_reducible exact Changes.refl
    | with_reducible assumption
    | ((with_reducible apply Changes.step (curedReport_changes _ _ _ _ _ _)); rfl)
    | ((with_reducible apply Changes.step (dropTiles_changes _ _)); rfl)
    | ((with_reducible apply Changes.step (odBump_changes _ _ _ _)); rfl)
    | ((with_reducible apply Changes.step (putCmd_changes _ _)); rfl)
    | ((with_reducible apply Changes.step (screedRewind_changes _ _)); rfl)
    | ((with_reducible apply Changes.step (undefineDrain_changes _ _)); rfl)
    | (show kindsIn _ _ = true; rfl)
    | split
    | dsimp only
    | intro _
    | with_reducible refine Changes.update ?_)

theorem failMat_changes (s : State) (c : Cmd) (status code unit detail : Nat) (ops : Option (List Byte)) :
    Changes [.draws, .od, .memory, .sectors, .accumulators, .commands, .tallies, .engines, .channels, .power, .recorder, .tests, .access, .link, .drains, .output] s (failMat s c status code unit detail ops) := by
  unfold failMat
  repeat' (first
    | with_reducible exact Changes.refl
    | with_reducible assumption
    | ((with_reducible apply Changes.step (failCmd_changes _ _ _ _ _)); rfl)
    | ((with_reducible apply Changes.step (odBump_changes _ _ _ _)); rfl)
    | (show kindsIn _ _ = true; rfl)
    | split
    | dsimp only
    | intro _)

theorem faultMat_changes (s : State) (c : Cmd) (status code unit detail : Nat) (ops : Option (List Byte)) :
    Changes [.draws, .od, .memory, .sectors, .accumulators, .commands, .tallies, .engines, .channels, .power, .recorder, .tests, .access, .link, .drains, .output] s (faultMat s c status code unit detail ops) := by
  unfold faultMat
  repeat' (first
    | with_reducible exact Changes.refl
    | with_reducible assumption
    | ((with_reducible apply Changes.step (failMat_changes _ _ _ _ _ _ _)); rfl)
    | ((with_reducible apply Changes.step (undefineDrain_changes _ _)); rfl)
    | (show kindsIn _ _ = true; rfl)
    | split
    | dsimp only
    | intro _)

theorem faultOrRerun_changes (s : State) (c : Cmd) (code unit detail : Nat) (ops : Option (List Byte)) :
    Changes [.draws, .od, .memory, .sectors, .accumulators, .commands, .tallies, .engines, .channels, .power, .recorder, .tests, .access, .link, .drains, .output] s (faultOrRerun s c code unit detail ops) := by
  unfold faultOrRerun
  repeat' (first
    | with_reducible exact Changes.refl
    | with_reducible assumption
    | ((with_reducible apply Changes.step (faultMat_changes _ _ _ _ _ _ _)); rfl)
    | ((with_reducible apply Changes.step (rerunMat_changes _ _ _ _ _ _)); rfl)
    | (show kindsIn _ _ = true; rfl)
    | split
    | dsimp only
    | intro _)

theorem clearResident_changes (s : State) (c : Cmd) (e : Nat) :
    Changes [.draws, .od, .accumulators, .recorder, .access, .output] s (clearResident s c e) := by
  unfold clearResident
  repeat' (first
    | with_reducible exact Changes.refl
    | with_reducible assumption
    | ((with_reducible apply Changes.step (invalidateTile_changes _ _ _ _ _ _)); rfl)
    | (show kindsIn _ _ = true; rfl)
    | split
    | dsimp only
    | intro _)

theorem clearResidents_changes (s : State) (c : Cmd) :
    Changes [.draws, .od, .accumulators, .recorder, .access, .output] s (clearResidents s c) := by
  unfold clearResidents
  repeat' (first
    | with_reducible exact Changes.refl
    | with_reducible assumption
    | ((with_reducible apply Changes.step (clearResident_changes _ _ _)); rfl)
    | with_reducible apply Changes.foldl
    | (show kindsIn _ _ = true; rfl)
    | split
    | dsimp only
    | intro _)

theorem reportCured_changes (s : State) (c : Cmd) :
    Changes [.draws, .od, .recorder, .access, .output] s (reportCured s c) := by
  unfold reportCured
  repeat' (first
    | with_reducible exact Changes.refl
    | with_reducible assumption
    | ((with_reducible apply Changes.step (fileKept_changes _ _)); rfl)
    | (show kindsIn _ _ = true; rfl)
    | split
    | dsimp only
    | intro _
    | with_reducible refine Changes.update ?_)

theorem hawkTileWrite_changes (s : State) (u q h : Nat) :
    Changes [.draws, .od, .memory, .sectors, .accumulators, .commands, .tallies, .streams, .engines, .channels, .power, .recorder, .tests, .access, .link, .drains, .output] s (hawkTileWrite s u q h) := by
  unfold hawkTileWrite
  repeat' (first
    | with_reducible exact Changes.refl
    | with_reducible assumption
    | ((with_reducible apply Changes.step (faultMat_changes _ _ _ _ _ _ _)); rfl)
    | ((with_reducible apply Changes.step (hawkWrite_changes _ _ _ _)); rfl)
    | ((with_reducible apply Changes.step (putHawk_changes _ _)); rfl)
    | (show kindsIn _ _ = true; rfl)
    | split
    | dsimp only
    | intro _
    | with_reducible refine Changes.update ?_)

theorem execHawkTileWrite_changes (u q h : Nat) (s : State) {t : State} (h : execHawkTileWrite u q h s = .next t) :
    Changes [.draws, .od, .memory, .sectors, .accumulators, .commands, .tallies, .streams, .engines, .channels, .power, .recorder, .tests, .access, .link, .drains, .output] s t := by
  unfold execHawkTileWrite at h
  injection h with h
  subst h
  repeat' (first
    | with_reducible exact Changes.refl
    | with_reducible assumption
    | ((with_reducible apply Changes.step (hawkTileWrite_changes _ _ _ _)); rfl)
    | (show kindsIn _ _ = true; rfl)
    | split
    | dsimp only
    | intro _)

theorem weightTileLoad_changes (s : State) (c : Cmd) :
    Changes [.draws, .od, .commands, .streams, .engines, .recorder, .access, .output] s (weightTileLoad s c) := by
  unfold weightTileLoad
  repeat' (first
    | with_reducible exact Changes.refl
    | with_reducible assumption
    | ((with_reducible apply Changes.step (formTile_changes _ _ _ _ _)); rfl)
    | ((with_reducible apply Changes.step (hawkGive_changes _ _ _ _ _ _)); rfl)
    | ((with_reducible apply Changes.step (odBump_changes _ _ _ _)); rfl)
    | ((with_reducible apply Changes.step (putCmd_changes _ _)); rfl)
    | ((with_reducible apply Changes.step (putHawk_changes _ _)); rfl)
    | (show kindsIn _ _ = true; rfl)
    | split
    | dsimp only
    | intro _
    | with_reducible refine Changes.update ?_)

theorem execWeightTileLoad_changes (u q : Nat) (s : State) {t : State} (h : execWeightTileLoad u q s = .next t) :
    Changes [.draws, .od, .commands, .streams, .engines, .recorder, .access, .output] s t := by
  unfold execWeightTileLoad at h
  injection h with h
  subst h
  repeat' (first
    | with_reducible exact Changes.refl
    | with_reducible assumption
    | ((with_reducible apply Changes.step (weightTileLoad_changes _ _)); rfl)
    | (show kindsIn _ _ = true; rfl)
    | split
    | dsimp only
    | intro _)

theorem noteCorrected_changes (s : State) (c : Cmd) (e bank row col : Nat) :
    Changes [.draws, .od, .accumulators, .recorder, .access, .output] s (noteCorrected s c e bank row col) := by
  unfold noteCorrected
  repeat' (first
    | with_reducible exact Changes.refl
    | with_reducible assumption
    | ((with_reducible apply Changes.step (odBump_changes _ _ _ _)); rfl)
    | (show kindsIn _ _ = true; rfl)
    | split
    | dsimp only
    | intro _
    | with_reducible refine Changes.update ?_)

theorem noteEvent_changes (s : State) (c : Cmd) (ev : MatEvent) :
    Changes [.draws, .od, .accumulators, .recorder, .access, .output] s (noteEvent s c ev) := by
  unfold noteEvent
  repeat' (first
    | with_reducible exact Changes.refl
    | with_reducible assumption
    | ((with_reducible apply Changes.step (noteCorrected_changes _ _ _ _ _ _)); rfl)
    | (show kindsIn _ _ = true; rfl)
    | split
    | dsimp only
    | intro _
    | with_reducible refine Changes.update ?_)

theorem markWorking_changes (s : State) (c : Cmd) (e m col : Nat) :
    Changes [.accumulators] s (markWorking s c e m col) := by
  unfold markWorking
  repeat' (first
    | with_reducible exact Changes.refl
    | with_reducible assumption
    | (show kindsIn _ _ = true; rfl)
    | split
    | dsimp only
    | intro _
    | with_reducible refine Changes.update ?_)

theorem parityError_changes (s : State) (c : Cmd) (e row : Nat) :
    Changes [.draws, .od, .memory, .sectors, .accumulators, .commands, .tallies, .engines, .channels, .power, .recorder, .tests, .access, .link, .drains, .output] s (parityError s c e row) := by
  unfold parityError
  repeat' (first
    | with_reducible exact Changes.refl
    | with_reducible assumption
    | ((with_reducible apply Changes.step (captureMat_changes _ _ _)); rfl)
    | ((with_reducible apply Changes.step (faultOrRerun_changes _ _ _ _ _ _)); rfl)
    | ((with_reducible apply Changes.step (odBump_changes _ _ _ _)); rfl)
    | (show kindsIn _ _ = true; rfl)
    | split
    | dsimp only
    | intro _
    | with_reducible refine Changes.update ?_)

theorem swapTiles_changes (s : State) (c : Cmd) :
    Changes [.engines] s (swapTiles s c) := by
  unfold swapTiles
  repeat' (first
    | with_reducible exact Changes.refl
    | with_reducible assumption
    | (show kindsIn _ _ = true; rfl)
    | split
    | dsimp only
    | intro _
    | with_reducible refine Changes.update ?_)

theorem passWork_changes (s : State) (c : Cmd) (t : WTile) (feeds : List (Nat × List Feed)) :
    Changes [.draws, .od, .accumulators, .streams, .recorder, .access, .output] s (passWork s c t feeds).1 := by
  unfold passWork
  repeat' (first
    | with_reducible exact Changes.refl
    | with_reducible assumption
    | ((with_reducible apply Changes.step (passArray_changes _ _ _ _ _)); rfl)
    | with_reducible apply Changes.foldl
    | with_reducible apply Changes.foldl_fst
    | with_reducible apply Changes.foldl_snd
    | with_reducible apply Changes.foldl_trd
    | with_reducible apply Changes.foldl_run
    | with_reducible apply Changes.foldl_deep
    | with_reducible apply Changes.foldl_lane
    | with_reducible apply Changes.foldl_blocks
    | (show kindsIn _ _ = true; rfl)
    | split
    | dsimp only
    | intro _
    | with_reducible refine Changes.update ?_)

theorem failProducer_changes (s : State) (u q serial : Nat) (word : CmdWord) (code unit detail : Nat) :
    Changes [.draws, .od, .commands, .recorder, .access, .output] s (failProducer s u q serial word code unit detail) := by
  unfold failProducer
  repeat' (first
    | with_reducible exact Changes.refl
    | with_reducible assumption
    | ((with_reducible apply Changes.step (fileReport_changes _ _)); rfl)
    | ((with_reducible apply Changes.step (odBump_changes _ _ _ _)); rfl)
    | ((with_reducible apply Changes.step (putCmd_changes _ _)); rfl)
    | (show kindsIn _ _ = true; rfl)
    | split
    | dsimp only
    | intro _
    | with_reducible refine Changes.update ?_)

theorem hawkSlotError_changes (s : State) (c : Cmd) (h slot : Nat) :
    Changes [.draws, .od, .memory, .sectors, .accumulators, .commands, .tallies, .engines, .channels, .power, .recorder, .tests, .access, .link, .drains, .output] s (hawkSlotError s c h slot) := by
  unfold hawkSlotError
  repeat' (first
    | with_reducible exact Changes.refl
    | with_reducible assumption
    | ((with_reducible apply Changes.step (failProducer_changes _ _ _ _ _ _ _ _)); rfl)
    | ((with_reducible apply Changes.step (faultMat_changes _ _ _ _ _ _ _)); rfl)
    | ((with_reducible apply Changes.step (faultOrRerun_changes _ _ _ _ _ _)); rfl)
    | (show kindsIn _ _ = true; rfl)
    | split
    | dsimp only
    | intro _
    | with_reducible refine Changes.update ?_)

theorem passStep_changes (s : State) (c : Cmd) (ev : MatEvent) :
    Changes [.draws, .od, .memory, .sectors, .accumulators, .commands, .tallies, .streams, .engines, .channels, .power, .recorder, .tests, .access, .link, .drains, .output] s (passStep s c ev) := by
  unfold passStep
  repeat' (first
    | with_reducible exact Changes.refl
    | with_reducible assumption
    | ((with_reducible apply Changes.step (accPut_changes _ _ _)); rfl)
    | ((with_reducible apply Changes.step (consumeFeeds_changes _ _)); rfl)
    | ((with_reducible apply Changes.step (faultMat_changes _ _ _ _ _ _ _)); rfl)
    | ((with_reducible apply Changes.step (faultOrRerun_changes _ _ _ _ _ _)); rfl)
    | ((with_reducible apply Changes.step (fedTiles_changes _ _)); rfl)
    | ((with_reducible apply Changes.step (hawkSlotError_changes _ _ _ _)); rfl)
    | ((with_reducible apply Changes.step (markWorking_changes _ _ _ _ _)); rfl)
    | ((with_reducible apply Changes.step (noteEvent_changes _ _ _)); rfl)
    | ((with_reducible apply Changes.step (odBump_changes _ _ _ _)); rfl)
    | ((with_reducible apply Changes.step (parityError_changes _ _ _ _)); rfl)
    | ((with_reducible apply Changes.step (passWork_changes _ _ _ _)); rfl)
    | ((with_reducible apply Changes.step (putCmd_changes _ _)); rfl)
    | ((with_reducible apply Changes.step (swapTiles_changes _ _)); rfl)
    | (show kindsIn _ _ = true; rfl)
    | split
    | dsimp only
    | intro _
    | with_reducible refine Changes.update ?_)

theorem execPass_changes (u q : Nat) (ev : MatEvent) (s : State) {t : State} (h : execPass u q ev s = .next t) :
    Changes [.draws, .od, .memory, .sectors, .accumulators, .commands, .tallies, .streams, .engines, .channels, .power, .recorder, .tests, .access, .link, .drains, .output] s t := by
  unfold execPass at h
  injection h with h
  subst h
  repeat' (first
    | with_reducible exact Changes.refl
    | with_reducible assumption
    | ((with_reducible apply Changes.step (passStep_changes _ _ _)); rfl)
    | (show kindsIn _ _ = true; rfl)
    | split
    | dsimp only
    | intro _)

theorem releaseFeeds_changes (s : State) (c : Cmd) :
    Changes [.engines] s (releaseFeeds s c) := by
  unfold releaseFeeds
  repeat' (first
    | with_reducible exact Changes.refl
    | with_reducible assumption
    | (show kindsIn _ _ = true; rfl)
    | split
    | dsimp only
    | intro _
    | with_reducible refine Changes.update ?_)

theorem passEnd_changes (s : State) (c : Cmd) :
    Changes [.draws, .od, .commands, .engines, .recorder, .access, .output] s (passEnd s c) := by
  unfold passEnd
  repeat' (first
    | with_reducible exact Changes.refl
    | with_reducible assumption
    | ((with_reducible apply Changes.step (preempt_changes _ _)); rfl)
    | ((with_reducible apply Changes.step (putCmd_changes _ _)); rfl)
    | ((with_reducible apply Changes.step (releaseFeeds_changes _ _)); rfl)
    | (show kindsIn _ _ = true; rfl)
    | split
    | dsimp only
    | intro _
    | with_reducible refine Changes.update ?_)

theorem formValues_changes (s : State) (c : Cmd) (e m : Nat) :
    Changes [.streams] s (formValues s c e m).2.2 := by
  unfold formValues
  repeat' (first
    | with_reducible exact Changes.refl
    | with_reducible assumption
    | ((with_reducible apply Changes.step (draw_changes _ _ _)); rfl)
    | with_reducible apply Changes.foldl
    | with_reducible apply Changes.foldl_fst
    | with_reducible apply Changes.foldl_snd
    | with_reducible apply Changes.foldl_trd
    | with_reducible apply Changes.foldl_run
    | with_reducible apply Changes.foldl_deep
    | with_reducible apply Changes.foldl_lane
    | with_reducible apply Changes.foldl_blocks
    | (show kindsIn _ _ = true; rfl)
    | split
    | dsimp only
    | intro _)

theorem rowIntoHawk_changes (s : State) (c : Cmd) (m : Nat) (o : List Nat × List Nat × Flags) :
    Changes [.engines] s (rowIntoHawk s c m o) := by
  unfold rowIntoHawk
  repeat' (first
    | with_reducible exact Changes.refl
    | with_reducible assumption
    | ((with_reducible apply Changes.step (putHawk_changes _ _)); rfl)
    | (show kindsIn _ _ = true; rfl)
    | split
    | dsimp only
    | intro _
    | with_reducible refine Changes.update ?_)

theorem drainRow_changes (s : State) (c : Cmd) (e ml m : Nat) (vs : List Nat) :
    Changes [.memory, .sectors, .commands, .streams, .engines] s (drainRow s c e ml m vs) := by
  unfold drainRow
  repeat' (first
    | with_reducible exact Changes.refl
    | with_reducible assumption
    | ((with_reducible apply Changes.step (memWrite_changes _ _ _)); rfl)
    | ((with_reducible apply Changes.step (putCmd_changes _ _)); rfl)
    | ((with_reducible apply Changes.step (rowDraws_changes _ _ _ _ _)); rfl)
    | ((with_reducible apply Changes.step (rowIntoHawk_changes _ _ _ _)); rfl)
    | with_reducible apply Changes.foldl
    | with_reducible apply Changes.foldl_fst
    | with_reducible apply Changes.foldl_snd
    | with_reducible apply Changes.foldl_trd
    | with_reducible apply Changes.foldl_run
    | with_reducible apply Changes.foldl_deep
    | with_reducible apply Changes.foldl_lane
    | with_reducible apply Changes.foldl_blocks
    | (show kindsIn _ _ = true; rfl)
    | split
    | dsimp only
    | intro _
    | with_reducible refine Changes.update ?_)

theorem formRow_changes (s : State) (c : Cmd) (e ml m : Nat) :
    Changes [.memory, .sectors, .accumulators, .commands, .streams, .engines] s (formRow s c e ml m) := by
  unfold formRow
  repeat' (first
    | with_reducible exact Changes.refl
    | with_reducible assumption
    | ((with_reducible apply Changes.step (accPutAll_changes _ _)); rfl)
    | ((with_reducible apply Changes.step (drainRow_changes _ _ _ _ _ _)); rfl)
    | ((with_reducible apply Changes.step (formValues_changes _ _ _ _)); rfl)
    | (show kindsIn _ _ = true; rfl)
    | split
    | dsimp only
    | intro _
    | with_reducible refine Changes.update ?_)

theorem rowForm_changes (s : State) (c : Cmd) (ev : MatEvent) :
    Changes [.draws, .od, .memory, .sectors, .accumulators, .commands, .tallies, .streams, .engines, .channels, .power, .recorder, .tests, .access, .link, .drains, .output] s (rowForm s c ev) := by
  unfold rowForm
  repeat' (first
    | with_reducible exact Changes.refl
    | with_reducible assumption
    | ((with_reducible apply Changes.step (captureMat_changes _ _ _)); rfl)
    | ((with_reducible apply Changes.step (clearResident_changes _ _ _)); rfl)
    | ((with_reducible apply Changes.step (faultMat_changes _ _ _ _ _ _ _)); rfl)
    | ((with_reducible apply Changes.step (faultOrRerun_changes _ _ _ _ _ _)); rfl)
    | ((with_reducible apply Changes.step (formRow_changes _ _ _ _ _)); rfl)
    | ((with_reducible apply Changes.step (markWorking_changes _ _ _ _ _)); rfl)
    | ((with_reducible apply Changes.step (noteEvent_changes _ _ _)); rfl)
    | ((with_reducible apply Changes.step (odBump_changes _ _ _ _)); rfl)
    | ((with_reducible apply Changes.step (snagSet_changes _ _)); rfl)
    | (show kindsIn _ _ = true; rfl)
    | split
    | dsimp only
    | intro _
    | with_reducible refine Changes.update ?_)

theorem execRowForm_changes (u q : Nat) (ev : MatEvent) (s : State) {t : State} (h : execRowForm u q ev s = .next t) :
    Changes [.draws, .od, .memory, .sectors, .accumulators, .commands, .tallies, .streams, .engines, .channels, .power, .recorder, .tests, .access, .link, .drains, .output] s t := by
  unfold execRowForm at h
  injection h with h
  subst h
  repeat' (first
    | with_reducible exact Changes.refl
    | with_reducible assumption
    | ((with_reducible apply Changes.step (rowForm_changes _ _ _)); rfl)
    | (show kindsIn _ _ = true; rfl)
    | split
    | dsimp only
    | intro _)

theorem copyRows_changes (s : State) (c : Cmd) (lim : Nat) :
    Changes [.accumulators] s (copyRows s c lim) := by
  unfold copyRows
  repeat' (first
    | with_reducible exact Changes.refl
    | with_reducible assumption
    | ((with_reducible apply Changes.step (accPutAll_changes _ _)); rfl)
    | with_reducible apply Changes.foldl
    | (show kindsIn _ _ = true; rfl)
    | split
    | dsimp only
    | intro _)

theorem copyPhase_changes (s : State) (c : Cmd) (ev : MatEvent) :
    Changes [.draws, .od, .memory, .sectors, .accumulators, .commands, .tallies, .engines, .channels, .power, .recorder, .tests, .access, .link, .drains, .output] s (copyPhase s c ev) := by
  unfold copyPhase
  repeat' (first
    | with_reducible exact Changes.refl
    | with_reducible assumption
    | ((with_reducible apply Changes.step (clearResidents_changes _ _)); rfl)
    | ((with_reducible apply Changes.step (copyRows_changes _ _ _)); rfl)
    | ((with_reducible apply Changes.step (failMat_changes _ _ _ _ _ _ _)); rfl)
    | ((with_reducible apply Changes.step (markWorking_changes _ _ _ _ _)); rfl)
    | ((with_reducible apply Changes.step (noteEvent_changes _ _ _)); rfl)
    | ((with_reducible apply Changes.step (putCmd_changes _ _)); rfl)
    | (show kindsIn _ _ = true; rfl)
    | split
    | dsimp only
    | intro _
    | with_reducible refine Changes.update ?_)

theorem execCopyPhase_changes (u q : Nat) (ev : MatEvent) (s : State) {t : State} (h : execCopyPhase u q ev s = .next t) :
    Changes [.draws, .od, .memory, .sectors, .accumulators, .commands, .tallies, .engines, .channels, .power, .recorder, .tests, .access, .link, .drains, .output] s t := by
  unfold execCopyPhase at h
  injection h with h
  subst h
  repeat' (first
    | with_reducible exact Changes.refl
    | with_reducible assumption
    | ((with_reducible apply Changes.step (copyPhase_changes _ _ _)); rfl)
    | (show kindsIn _ _ = true; rfl)
    | split
    | dsimp only
    | intro _)

theorem setValid_changes (s : State) (c : Cmd) :
    Changes [.accumulators] s (setValid s c) := by
  unfold setValid
  repeat' (first
    | with_reducible exact Changes.refl
    | with_reducible assumption
    | ((with_reducible apply Changes.step (validPut_changes _ _ _)); rfl)
    | with_reducible apply Changes.foldl
    | (show kindsIn _ _ = true; rfl)
    | split
    | dsimp only
    | intro _)

theorem commitStep_changes (s : State) (c : Cmd) :
    Changes [.draws, .od, .memory, .sectors, .accumulators, .commands, .tallies, .engines, .power, .recorder, .access, .link, .drains, .output] s (commitStep s c) := by
  unfold commitStep
  repeat' (first
    | with_reducible exact Changes.refl
    | with_reducible assumption
    | ((with_reducible apply Changes.step (finishCmd_changes _ _ _)); rfl)
    | ((with_reducible apply Changes.step (memPut_changes _ _ _ _)); rfl)
    | ((with_reducible apply Changes.step (odBump_changes _ _ _ _)); rfl)
    | ((with_reducible apply Changes.step (putHawk_changes _ _)); rfl)
    | ((with_reducible apply Changes.step (reportCured_changes _ _)); rfl)
    | ((with_reducible apply Changes.step (setValid_changes _ _)); rfl)
    | with_reducible apply Changes.foldl
    | with_reducible apply Changes.foldl_fst
    | with_reducible apply Changes.foldl_snd
    | with_reducible apply Changes.foldl_trd
    | with_reducible apply Changes.foldl_run
    | with_reducible apply Changes.foldl_deep
    | with_reducible apply Changes.foldl_lane
    | with_reducible apply Changes.foldl_blocks
    | (show kindsIn _ _ = true; rfl)
    | split
    | dsimp only
    | intro _
    | with_reducible refine Changes.update ?_)

theorem execCommit_changes (u q : Nat) (s : State) {t : State} (h : execCommit u q s = .next t) :
    Changes [.draws, .od, .memory, .sectors, .accumulators, .commands, .tallies, .engines, .power, .recorder, .access, .link, .drains, .output] s t := by
  unfold execCommit at h
  injection h with h
  subst h
  repeat' (first
    | with_reducible exact Changes.refl
    | with_reducible assumption
    | ((with_reducible apply Changes.step (commitStep_changes _ _)); rfl)
    | (show kindsIn _ _ = true; rfl)
    | split
    | dsimp only
    | intro _)

theorem execCorrectedWordWriteBack_changes (array bank row col : Nat) (s : State) {t : State} (h : execCorrectedWordWriteBack array bank row col s = .next t) :
    Changes [.accumulators] s t := by
  unfold execCorrectedWordWriteBack at h
  injection h with h
  subst h
  repeat' (first
    | with_reducible exact Changes.refl
    | with_reducible assumption
    | (show kindsIn _ _ = true; rfl)
    | split
    | dsimp only
    | intro _
    | with_reducible refine Changes.update ?_)

theorem mmulStep_changes (s : State) (u q : Nat) {t : State} (h : mmulStep s u q = some t) :
    Changes [.draws, .od, .memory, .sectors, .accumulators, .commands, .tallies, .streams, .engines, .channels, .power, .recorder, .tests, .access, .link, .drains, .output] s t := by
  unfold mmulStep at h
  revert h
  repeat' split
  all_goals intro h
  all_goals first | cases h | injection h with h; subst h
  all_goals repeat' (first
    | with_reducible exact Changes.refl
    | with_reducible assumption
    | ((with_reducible apply Changes.step (commitStep_changes _ _)); rfl)
    | ((with_reducible apply Changes.step (copyPhase_changes _ _ _)); rfl)
    | ((with_reducible apply Changes.step (hawkTileWrite_changes _ _ _ _)); rfl)
    | ((with_reducible apply Changes.step (passEnd_changes _ _)); rfl)
    | ((with_reducible apply Changes.step (passStep_changes _ _ _)); rfl)
    | ((with_reducible apply Changes.step (rowForm_changes _ _ _)); rfl)
    | ((with_reducible apply Changes.step (weightTileLoad_changes _ _)); rfl)
    | (show kindsIn _ _ = true; rfl)
    | split
    | dsimp only
    | intro _)

theorem mmulRun_changes (x0 : Nat) (s : State) (x2 : Nat) (x3 : Nat) :
    Changes [.draws, .od, .memory, .sectors, .accumulators, .commands, .tallies, .streams, .engines, .channels, .power, .recorder, .tests, .access, .link, .drains, .output] s (mmulRun x0 s x2 x3) := by
  induction x0 generalizing s x2 x3 with
  | zero => exact Changes.refl
  | succ n ih =>
    unfold mmulRun
    repeat' (first
      | with_reducible exact Changes.refl
      | with_reducible assumption
      | ((with_reducible apply Changes.step (ih _ _ _)); rfl)
      | exact Changes.step (mmulStep_changes _ _ _ (by assumption)) rfl Changes.refl
      | (show kindsIn _ _ = true; rfl)
      | split
      | dsimp only
      | intro _)

theorem execMmul_changes (u q : Nat) (s : State) {t : State} (h : execMmul u q s = .next t) :
    Changes [.draws, .od, .memory, .sectors, .accumulators, .commands, .tallies, .streams, .engines, .channels, .power, .recorder, .tests, .access, .link, .drains, .output] s t := by
  unfold execMmul at h
  injection h with h
  subst h
  repeat' (first
    | with_reducible exact Changes.refl
    | with_reducible assumption
    | ((with_reducible apply Changes.step (mmulRun_changes _ _ _ _)); rfl)
    | (show kindsIn _ _ = true; rfl)
    | split
    | dsimp only
    | intro _)

end Sys2Proof.Machine
end

