-- ==== Sys2Proof/Laws/Accumulators.lean ====
section
/-! SUPPORT. What the steps of a matrix command do to accumulator words: which words each can change, and that completions, faults
and stops change none. -/

set_option Elab.async false

namespace Sys2Proof.Machine

theorem accKey_inj {a b r c a' b' r' c' : Nat} (hb : b < 2) (hr : r < 1024) (hc : c < 128) (hb' : b' < 2) (hr' : r' < 1024) (hc' : c' < 128)
    (h : accKey a b r c = accKey a' b' r' c') : a = a' ∧ b = b' ∧ r = r' ∧ c = c' := by
  unfold accKey at h; omega

/-- The accumulator words whose keys satisfy `P` are in `t` as they are in `s`, and the store keeps its form. -/
structure AccKeeps (P : Nat → Prop) (s t : State) : Prop where
  wf : Store.wf 0 s.acc = true → Store.wf 0 t.acc = true
  get : Store.wf 0 s.acc = true → ∀ k, P k → accGet t k = accGet s k

theorem AccKeeps.of_acc {P : Nat → Prop} {s t : State} (h : t.acc = s.acc) : AccKeeps P s t :=
  ⟨fun w => h ▸ w, fun _ k _ => by simp only [accGet, h]⟩

theorem AccKeeps.refl {P : Nat → Prop} (s : State) : AccKeeps P s s := .of_acc rfl

theorem AccKeeps.trans {P : Nat → Prop} {s t u : State} (h : AccKeeps P s t) (g : AccKeeps P t u) : AccKeeps P s u :=
  ⟨fun w => g.wf (h.wf w), fun w k p => (g.get (h.wf w) k p).trans (h.get w k p)⟩

theorem AccKeeps.of_changes {P : Nat → Prop} {K : List Kind} {s t : State} (h : Changes K s t) (hk : K.contains .accumulators = false := by rfl) :
    AccKeeps P s t := .of_acc (h.same .accumulators hk).1

theorem accPut_keeps {P : Nat → Prop} (s : State) (k v : Nat) (h : ¬ P k) : AccKeeps P s (accPut s k v) :=
  ⟨fun w => Store.put_wf w, fun w j hj => by
    have hne : j ≠ k := by
      rintro rfl
      exact h hj
    unfold accGet accPut
    dsimp only
    rw [Store.get_put_of_ne w hne]⟩

theorem accPutAll_keeps {P : Nat → Prop} (s : State) (l : List (Nat × Nat)) (h : ∀ p ∈ l, ¬ P p.1) : AccKeeps P s (accPutAll s l) := by
  unfold accPutAll
  induction l generalizing s with
  | nil => exact .refl s
  | cons a r ih =>
    exact (accPut_keeps s _ _ (h a (by simp))).trans (ih _ (fun p hp => h p (by simp [hp])))

/-- What a word that is written reads. -/
theorem accGet_accPut {s : State} (h : Store.wf 0 s.acc = true) (k v : Nat) : accGet (accPut s k v) k = v % 2 ^ 32 := by
  unfold accGet accPut
  rw [Store.get_put h]
  simp

/-! ### Completions, faults and stops change no word -/

theorem foldl_acc {α : Type} {f : State → α → State} (hf : ∀ s a, (f s a).acc = s.acc) (l : List α) (s : State) : (l.foldl f s).acc = s.acc :=
  foldl_keeps (g := fun s => s.acc) hf l s

theorem invalidateTile_acc (s : State) (a b h x n : Nat) : (invalidateTile s a b h x n).acc = s.acc := by
  unfold invalidateTile
  dsimp only
  split
  · rfl
  · exact ((odBump_changes _ _ _ _).same .accumulators rfl).1

theorem invalidateContext_acc (s : State) (ctx : Nat) : (invalidateContext s ctx).acc = s.acc := by
  unfold invalidateContext
  refine foldl_acc (fun s r => ?_) _ s
  refine foldl_acc (fun s e => ?_) _ s
  split
  · rfl
  · refine foldl_acc (fun s a => ?_) _ s
    exact foldl_acc (fun s b => invalidateTile_acc _ _ _ _ _ _) _ s

theorem stopContext_acc (s : State) (ctx code : Nat) (h : Option (Nat × Nat × Nat)) : (stopContext s ctx code h).acc = s.acc := by
  unfold stopContext
  split
  · rfl
  · rw [invalidateContext_acc, ((stopChans_changes _ _).same .accumulators rfl).1, ((headPast_changes _ _).same .accumulators rfl).1, ((stopQueues_changes _ _).same .accumulators rfl).1]
    exact ((stateChange_changes _ _ _ _ _ _ _).same .accumulators rfl).1

theorem failCmd_acc (s : State) (c : Cmd) (st code : Nat) (r : Report) : (failCmd s c st code r).acc = s.acc := by
  unfold failCmd
  rw [((fileReport_changes _ _).same .accumulators rfl).1, ((noteFault_changes _ _ _ _ _).same .accumulators rfl).1]
  refine Eq.trans ?_ ((completeCmd_changes s c st code).same .accumulators rfl).1
  unfold stopOwner
  split
  · exact stopContext_acc _ _ _ _
  · rfl

theorem failMat_acc (s : State) (c : Cmd) (st code unit detail : Nat) (o : Option (List Byte)) : (failMat s c st code unit detail o).acc = s.acc := by
  unfold failMat
  rw [failCmd_acc]
  exact ((odBump_changes _ _ _ _).same .accumulators rfl).1

theorem faultMat_acc (s : State) (c : Cmd) (st code unit detail : Nat) (o : Option (List Byte)) : (faultMat s c st code unit detail o).acc = s.acc := by
  unfold faultMat
  rw [failMat_acc]
  exact ((undefineDrain_changes _ _).same .accumulators rfl).1

theorem faultOrRerun_acc (s : State) (c : Cmd) (code unit detail : Nat) (o : Option (List Byte)) : (faultOrRerun s c code unit detail o).acc = s.acc := by
  unfold faultOrRerun
  split
  · exact faultMat_acc _ _ _ _ _ _ _
  · exact ((rerunMat_changes _ _ _ _ _ _).same .accumulators rfl).1

theorem clearResident_acc (s : State) (c : Cmd) (e : Nat) : (clearResident s c e).acc = s.acc := by
  unfold clearResident; exact invalidateTile_acc _ _ _ _ _ _

theorem noteCorrected_acc (s : State) (c : Cmd) (e b r k : Nat) : (noteCorrected s c e b r k).acc = s.acc := by
  unfold noteCorrected; exact ((odBump_changes _ _ _ _).same .accumulators rfl).1

theorem failProducer_acc (s : State) (u q serial : Nat) (word : CmdWord) (code unit detail : Nat) :
    (failProducer s u q serial word code unit detail).acc = s.acc :=
  ((failProducer_changes s u q serial word code unit detail).same .accumulators rfl).1

theorem hawkSlotError_acc (s : State) (c : Cmd) (h slot : Nat) : (hawkSlotError s c h slot).acc = s.acc := by
  unfold hawkSlotError
  split
  · rw [faultMat_acc]; exact failProducer_acc _ _ _ _ _ _ _ _
  · exact faultOrRerun_acc _ _ _ _ _ _

theorem parityError_acc (s : State) (c : Cmd) (e row : Nat) : (parityError s c e row).acc = s.acc := by
  have hc : ∀ (x : State) (o : Cmd), (captureMat x o e).acc = x.acc := fun x o => ((captureMat_changes x o e).same .accumulators rfl).1
  have h : ∀ o : Option Cmd, (match o with | some o => captureMat (captureMat s c e) o e | none => captureMat s c e).acc = s.acc := by
    intro o
    cases o with
    | none => exact hc s c
    | some o => exact (hc _ o).trans (hc s c)
  unfold parityError
  dsimp only
  split
  · rw [faultOrRerun_acc, faultOrRerun_acc, ((odBump_changes _ _ _ _).same .accumulators rfl).1]; exact h _
  · rw [faultOrRerun_acc, ((odBump_changes _ _ _ _).same .accumulators rfl).1]; exact h _

theorem noteEvent_acc (s : State) (c : Cmd) (ev : MatEvent) : (noteEvent s c ev).acc = s.acc := by
  unfold noteEvent
  split
  · exact noteCorrected_acc _ _ _ _ _ _
  · rfl

theorem markWorking_acc (s : State) (c : Cmd) (e m col : Nat) : (markWorking s c e m col).acc = s.acc := rfl

/-! ### A pass -/

/-- A word of the working tile of a command. -/
def inWorking (c : Cmd) (k : Nat) : Prop := ∃ e m col, m < mmM c.word ∧ k = workKey c e m col

theorem passColumn_words (s : State) (c : Cmd) (e col : Nat) (win : Option Nat) (ws : Option (List (List Val))) (rows : List (List (List Val)))
    (hr : rows.length ≤ mmM c.word) : ∀ p ∈ (passColumn s c e col win ws rows).words, inWorking c p.1 := by
  unfold passColumn
  dsimp only
  have hz : ∀ r ∈ rows.zipIdx, r.2 < mmM c.word := fun r h => Nat.lt_of_lt_of_le (List.snd_lt_of_mem_zipIdx h) (by omega)
  generalize rows.zipIdx = l at hz
  suffices h : ∀ o : ColOut, (∀ p ∈ o.words, inWorking c p.1) → ∀ p ∈ (l.foldl _ o).words, inWorking c p.1 from h _ (by simp)
  induction l with
  | nil => exact fun o h => h
  | cons r t ih =>
    intro o ho
    refine ih (fun r h => hz r (by simp [h])) _ ?_
    have hin : inWorking c (workKey c e r.2 col) := ⟨e, r.2, col, hz r (by simp), rfl⟩
    intro p hp
    rw [apply_ite ColOut.words] at hp
    split at hp
    all_goals
      simp only [List.mem_append, List.mem_singleton] at hp
      rcases hp with hp | hp
      · exact ho p hp
      · rw [hp]; exact hin

/-- What a matrix command keeps through a pass: its name, its word and its progress. -/
structure SameRun (c d : Cmd) : Prop where
  u : d.u = c.u
  q : d.q = c.q
  serial : d.serial = c.serial
  word : d.word = c.word
  stage : d.stage = c.stage
  passes : d.run.passes = c.run.passes
  formed : d.run.formed = c.run.formed

theorem SameRun.refl (c : Cmd) : SameRun c c := ⟨rfl, rfl, rfl, rfl, rfl, rfl, rfl⟩
theorem SameRun.trans {c d e : Cmd} (h : SameRun c d) (g : SameRun d e) : SameRun c e :=
  ⟨g.u.trans h.u, g.q.trans h.q, g.serial.trans h.serial, g.word.trans h.word, g.stage.trans h.stage, g.passes.trans h.passes,
   g.formed.trans h.formed⟩

theorem inWorking_congr {c d : Cmd} (h : SameRun c d) (k : Nat) : inWorking d k ↔ inWorking c k := by
  unfold inWorking workKey; rw [h.word, h.u]

/-- A fold over a state and a command whose every step keeps words and the run. -/
theorem foldl_run_keeps {α : Type} {P : Nat → Prop} {s : State} {c : Cmd} {f : State × Cmd → α → State × Cmd} {x : State × Cmd} (l : List α)
    (h : AccKeeps P s x.1) (g : SameRun c x.2)
    (hf : ∀ x, SameRun c x.2 → ∀ a ∈ l, AccKeeps P x.1 (f x a).1 ∧ SameRun x.2 (f x a).2) :
    AccKeeps P s (l.foldl f x).1 ∧ SameRun c (l.foldl f x).2 := by
  induction l generalizing x with
  | nil => exact ⟨h, g⟩
  | cons a r ih =>
    have i := hf x g a (by simp)
    exact ih (h.trans i.1) (g.trans i.2) (fun x hx b hb => hf x hx b (by simp [hb]))

theorem odBumpIf_keeps {P : Nat → Prop} {s t : State} (h : AccKeeps P s t) (i sub n : Nat) :
    AccKeeps P s (if n = 0 then t else odBump t i sub n) := by
  split
  · exact h
  · exact h.trans (.of_changes (odBump_changes t i sub n))

theorem passArray_keeps (s : State) (c : Cmd) (t : WTile) (e : Nat) (feeds : List Feed) (hf : feeds.length ≤ mmM c.word) :
    AccKeeps (fun k => ¬ inWorking c k) s (passArray s c t e feeds).1 ∧ SameRun c (passArray s c t e feeds).2 := by
  unfold passArray
  dsimp only
  generalize hr : List.foldl (β := Nat) (α := State × Cmd) _ _ _ = r
  have g : AccKeeps (fun k => ¬ inWorking c k) s r.1 ∧ SameRun c r.2 := by
    rw [← hr]
    refine foldl_run_keeps _ (.refl s) ⟨rfl, rfl, rfl, rfl, rfl, rfl, rfl⟩ (fun x _ j _ => ⟨?_, ⟨rfl, rfl, rfl, rfl, rfl, rfl, rfl⟩⟩)
    refine AccKeeps.trans (accPutAll_keeps x.1 _ ?_) (.of_changes (streamPut_changes _ _ _ _))
    exact fun p hp hn => hn (passColumn_words s c e _ _ _ _ (by simpa using hf) p hp)
  exact ⟨odBumpIf_keeps g.1 _ _ _, g.2⟩

theorem passWork_keeps (s : State) (c : Cmd) (t : WTile) (feeds : List (Nat × List Feed)) (hf : ∀ f ∈ feeds, f.2.length ≤ mmM c.word) :
    AccKeeps (fun k => ¬ inWorking c k) s (passWork s c t feeds).1 ∧ SameRun c (passWork s c t feeds).2 := by
  unfold passWork
  dsimp only
  generalize hr : List.foldl (β := Nat × List Feed) (α := State × Cmd) _ _ _ = r
  have g : AccKeeps (fun k => ¬ inWorking c k) s r.1 ∧ SameRun c r.2 := by
    rw [← hr]
    refine foldl_run_keeps _ (.refl s) ⟨rfl, rfl, rfl, rfl, rfl, rfl, rfl⟩ (fun x hx f hm => ?_)
    have i := passArray_keeps x.1 x.2 t f.1 f.2 (by rw [hx.word]; exact hf f hm)
    exact ⟨⟨i.1.wf, fun w k hk => i.1.get w k (fun hn => hk ((inWorking_congr hx k).mp hn))⟩, i.2⟩
  exact g

theorem keepPass_same (s : State) (c : Cmd) (t : WTile) (feeds : List (Nat × List Feed)) : SameRun c (keepPass s c t feeds) :=
  ⟨rfl, rfl, rfl, rfl, rfl, rfl, rfl⟩

theorem readCarry_same (s : State) (c : Cmd) : SameRun c (readCarry s c) := by
  unfold readCarry
  split
  · exact .refl c
  · exact ⟨rfl, rfl, rfl, rfl, rfl, rfl, rfl⟩

/-- A pass, whatever is met in it, changes words of the command's working tile alone. -/
theorem passStep_keeps (s : State) (c : Cmd) (ev : MatEvent) : AccKeeps (fun k => ¬ inWorking c k) s (passStep s c ev) := by
  have hs : AccKeeps (fun k => ¬ inWorking c k) s (swapTiles s c) := .of_changes (swapTiles_changes s c)
  unfold passStep
  dsimp only
  split
  · exact .refl s
  · rename_i t ht
    generalize hf : (mmArrays c.word).map (fun e => (e, (List.range (mmM c.word)).map (fun m =>
      feedRow (fedTiles (swapTiles s c) c).2 c (fedTiles (swapTiles s c) c).1.tiles e m))) = feeds
    have hl : ∀ f ∈ feeds, f.2.length ≤ mmM c.word := by
      intro f h
      rw [← hf] at h
      obtain ⟨e, _, rfl⟩ := List.mem_map.mp h
      simp
    generalize hc : (if c.checked || mmHALF c.word != 0 then keepPass (fedTiles (swapTiles s c) c).2 c t feeds else c) = c0
    have h0 : SameRun c c0 := by
      rw [← hc]; split
      · exact keepPass_same _ _ _ _
      · exact .refl c
    split
    · exact hs.trans (.of_acc (parityError_acc _ _ _ _))
    · generalize hd : ({ c0 with flags := c0.flags ||| (fedTiles (swapTiles s c) c).1.fl } : Cmd) = d
      have hcd : SameRun c d := h0.trans (by rw [← hd]; exact ⟨rfl, rfl, rfl, rfl, rfl, rfl, rfl⟩)
      have g := (passWork_keeps (fedTiles (swapTiles s c) c).2 d t feeds (by rw [hcd.word]; exact hl)).1
      have g' : AccKeeps (fun k => ¬ inWorking c k) (fedTiles (swapTiles s c) c).2 (passWork (fedTiles (swapTiles s c) c).2 d t feeds).1 :=
        ⟨g.wf, fun w k hk => g.get w k (fun hn => hk ((inWorking_congr hcd k).mp hn))⟩
      have h1 := (hs.trans (.of_changes (fedTiles_changes (swapTiles s c) c))).trans g'
      generalize passWork (fedTiles (swapTiles s c) c).2 d t feeds = r at h1
      have h2 : ∀ (n : Nat) (x : Cmd), AccKeeps (fun k => ¬ inWorking c k) s
          (noteEvent (putCmd (if n = 0 then consumeFeeds r.1 c else odBump (consumeFeeds r.1 c) (0x3200 + c.u) 0x0A n) x) c ev) := fun n x =>
        ((odBumpIf_keeps (h1.trans (.of_changes (consumeFeeds_changes _ _))) _ _ _).trans (.of_changes (putCmd_changes _ _))).trans
          (.of_acc (noteEvent_acc _ _ _))
      split
      · exact (h2 _ _).trans (.of_acc (faultMat_acc _ _ _ _ _ _ _))
      · split
        · exact (h2 _ _).trans (.of_acc (by rw [faultOrRerun_acc, markWorking_acc]))
        · split
          · exact (h2 _ _).trans (.of_acc (hawkSlotError_acc _ _ _ _))
          · exact h2 _ _
        · split
          · rename_i hb
            exact (h2 _ _).trans (accPut_keeps _ _ _ (fun hn => hn ⟨_, _, _, hb.2.1, rfl⟩))
          · exact h2 _ _
        · exact h2 _ _

/-! ### Row form -/

theorem formRow_keeps (s : State) (c : Cmd) (e ml m : Nat) (h : ml < mmM c.word) : AccKeeps (fun k => ¬ inWorking c k) s (formRow s c e ml m) := by
  unfold formRow
  dsimp only
  refine AccKeeps.trans (AccKeeps.trans (.of_changes (formValues_changes s c e ml)) (accPutAll_keeps _ _ ?_)) (.of_changes (drainRow_changes _ _ _ _ _ _))
  intro p hp hn
  obtain ⟨x, _, rfl⟩ := List.mem_map.mp hp
  exact hn ⟨_, _, _, h, rfl⟩

/-- Forming a row, whatever is met in it, changes words of the command's working tile alone. -/
theorem rowForm_keeps (s : State) (c : Cmd) (ev : MatEvent) (h : 0 < mmM c.word) : AccKeeps (fun k => ¬ inWorking c k) s (rowForm s c ev) := by
  have hs0 : AccKeeps (fun k => ¬ inWorking c k) s (noteEvent s c ev) := .of_acc (noteEvent_acc _ _ _)
  have hm := Nat.mod_lt c.run.formed h
  have hr := readCarry_same s c
  have hf : ∀ x e m, AccKeeps (fun k => ¬ inWorking c k) x (formRow x (readCarry s c) e (c.run.formed % mmM c.word) m) := fun x e m => by
    have g := formRow_keeps x (readCarry s c) e (c.run.formed % mmM c.word) m (by rw [hr.word]; exact hm)
    exact ⟨g.wf, fun w k hk => g.get w k (fun hn => hk ((inWorking_congr hr k).mp hn))⟩
  unfold rowForm
  dsimp only
  split
  · exact .of_acc (faultMat_acc _ _ _ _ _ _ _)
  · split
    · exact .of_acc (faultMat_acc _ _ _ _ _ _ _)
    · split
      · exact hs0.trans (.of_acc (by rw [faultMat_acc, clearResident_acc]))
      · exact hs0.trans (.of_acc (by rw [faultOrRerun_acc, markWorking_acc]))
      · split
        · refine hs0.trans (.of_acc ?_)
          rw [faultOrRerun_acc, ((captureMat_changes _ _ _).same .accumulators rfl).1, ((snagSet_changes _ _).same .accumulators rfl).1]
          exact ((odBump_changes _ _ _ _).same .accumulators rfl).1
        · exact (hs0.trans (.of_changes (odBump_changes _ _ _ _))).trans (hf _ _ _)
        · exact hs0.trans (hf _ _ _)

end Sys2Proof.Machine
end

