-- ==== Sys2Proof/Laws/FootprintStages.lean ====
section
/-! SUPPORT. What each function of Machine/Stages.lean can change. -/

set_option Elab.async false

set_option linter.unreachableTactic false
set_option linter.unusedTactic false
set_option linter.unnecessarySeqFocus false

namespace Sys2Proof.Machine

theorem convertLanes_changes (c : Cmd) (f : Nat) (rm sat : Bool) (lane0 : Nat) (xs : List Nat) (s : State) :
    Changes [.streams] s (convertLanes c f rm sat lane0 xs s).2 := by
  unfold convertLanes
  repeat' (first
    | with_reducible exact Changes.refl
    | with_reducible assumption
    | ((with_reducible apply Changes.step (drawList_changes _ _ _)); rfl)
    | (show kindsIn _ _ = true; rfl)
    | split
    | dsimp only
    | intro _)

theorem gatherLane_changes (k w a b : Nat) (x : List Nat × VRun) :
    Changes [] x.2.st (gatherLane k w a b x).2.st := by
  unfold gatherLane
  repeat' (first
    | with_reducible exact Changes.refl
    | with_reducible assumption
    | (show kindsIn _ _ = true; rfl)
    | split
    | dsimp only
    | intro _
    | with_reducible refine Changes.update ?_)

theorem scatterLane_changes (c : Cmd) (k w lane a b bound : Nat) (x : VRun) :
    Changes [.memory, .sectors, .streams] x.st (scatterLane c k w lane a b bound x).st := by
  unfold scatterLane
  repeat' (first
    | with_reducible exact Changes.refl
    | with_reducible assumption
    | ((with_reducible apply Changes.step (convertLanes_changes _ _ _ _ _ _ _)); rfl)
    | ((with_reducible apply Changes.step (memPut_changes _ _ _ _)); rfl)
    | (show kindsIn _ _ = true; rfl)
    | split
    | dsimp only
    | intro _
    | with_reducible refine Changes.update ?_)

theorem runStage_changes (c : Cmd) (k : Nat) (g : Grp) (ins res : List (List Nat)) (v : VRun) :
    Changes [.memory, .sectors, .streams] v.st (runStage c k g ins res v).2.st := by
  unfold runStage
  repeat' (first
    | with_reducible exact Changes.refl
    | with_reducible assumption
    | ((with_reducible apply Changes.step (convertLanes_changes _ _ _ _ _ _ _)); rfl)
    | ((with_reducible apply Changes.step (gatherLane_changes _ _ _ _ _)); rfl)
    | ((with_reducible apply Changes.step (scatterLane_changes _ _ _ _ _ _ _ _)); rfl)
    | with_reducible apply Changes.foldl
    | with_reducible apply Changes.foldl_fst
    | with_reducible apply Changes.foldl_snd
    | with_reducible apply Changes.foldl_trd
    | with_reducible apply Changes.foldl_run
    | with_reducible apply Changes.foldl_deep
    | with_reducible apply Changes.foldl_lane
    | with_reducible apply Changes.foldl_blocks
    | (show kindsIn _ _ = true; rfl)
    | split
    | dsimp only
    | intro _
    | with_reducible refine Changes.update ?_)

theorem runStages_changes (c : Cmd) (g : Grp) (ins : List (List Nat)) (v : VRun) :
    Changes [.memory, .sectors, .streams] v.st (runStages c g ins v).2.st := by
  unfold runStages
  repeat' (first
    | with_reducible exact Changes.refl
    | with_reducible assumption
    | ((with_reducible apply Changes.step (runStage_changes _ _ _ _ _ _)); rfl)
    | with_reducible apply Changes.foldl
    | with_reducible apply Changes.foldl_fst
    | with_reducible apply Changes.foldl_snd
    | with_reducible apply Changes.foldl_trd
    | with_reducible apply Changes.foldl_run
    | with_reducible apply Changes.foldl_deep
    | with_reducible apply Changes.foldl_lane
    | with_reducible apply Changes.foldl_blocks
    | (show kindsIn _ _ = true; rfl)
    | split
    | dsimp only
    | intro _)

theorem groupInputs_changes (c : Cmd) (g : Grp) (v : VRun) :
    Changes [] v.st (groupInputs c g v).2.st := by
  unfold groupInputs
  repeat' (first
    | with_reducible exact Changes.refl
    | with_reducible assumption
    | with_reducible apply Changes.foldl
    | with_reducible apply Changes.foldl_fst
    | with_reducible apply Changes.foldl_snd
    | with_reducible apply Changes.foldl_trd
    | with_reducible apply Changes.foldl_run
    | with_reducible apply Changes.foldl_deep
    | with_reducible apply Changes.foldl_lane
    | with_reducible apply Changes.foldl_blocks
    | (show kindsIn _ _ = true; rfl)
    | split
    | dsimp only
    | intro _
    | with_reducible refine Changes.update ?_)

theorem putOut_changes (l : List (Nat × List Byte)) (x : VOut × VRun) :
    Changes [.memory, .sectors] x.2.st (putOut l x).2.st := by
  unfold putOut
  repeat' (first
    | with_reducible exact Changes.refl
    | with_reducible assumption
    | ((with_reducible apply Changes.step (memWrite_changes _ _ _)); rfl)
    | with_reducible apply Changes.foldl
    | with_reducible apply Changes.foldl_fst
    | with_reducible apply Changes.foldl_snd
    | with_reducible apply Changes.foldl_trd
    | with_reducible apply Changes.foldl_run
    | with_reducible apply Changes.foldl_deep
    | with_reducible apply Changes.foldl_lane
    | with_reducible apply Changes.foldl_blocks
    | (show kindsIn _ _ = true; rfl)
    | split
    | dsimp only
    | intro _
    | with_reducible refine Changes.update ?_)

theorem elementStore_changes (c : Cmd) (g : Grp) (ins res : List (List Nat)) (w : Nat) (x : VOut × VRun) :
    Changes [.memory, .sectors, .streams] x.2.st (elementStore c g ins res w x).2.st := by
  unfold elementStore
  repeat' (first
    | with_reducible exact Changes.refl
    | with_reducible assumption
    | ((with_reducible apply Changes.step (convertLanes_changes _ _ _ _ _ _ _)); rfl)
    | ((with_reducible apply Changes.step (putOut_changes _ _)); rfl)
    | with_reducible apply Changes.foldl
    | with_reducible apply Changes.foldl_fst
    | with_reducible apply Changes.foldl_snd
    | with_reducible apply Changes.foldl_trd
    | with_reducible apply Changes.foldl_run
    | with_reducible apply Changes.foldl_deep
    | with_reducible apply Changes.foldl_lane
    | with_reducible apply Changes.foldl_blocks
    | (show kindsIn _ _ = true; rfl)
    | split
    | dsimp only
    | intro _
    | with_reducible refine Changes.update ?_)

theorem putSum_changes (c : Cmd) (w at0 : Nat) (vs : List Nat) (x : VOut × VRun) :
    Changes [.memory, .sectors] x.2.st (putSum c w at0 vs x).2.st := by
  unfold putSum
  repeat' (first
    | with_reducible exact Changes.refl
    | with_reducible assumption
    | ((with_reducible apply Changes.step (putOut_changes _ _)); rfl)
    | (show kindsIn _ _ = true; rfl)
    | split
    | dsimp only
    | intro _)

theorem groupOutput_changes (c : Cmd) (g : Grp) (ins res : List (List Nat)) (j : Nat) (x : VOut × VRun) :
    Changes [.memory, .sectors, .streams] x.2.st (groupOutput c g ins res j x).2.st := by
  unfold groupOutput
  repeat' (first
    | with_reducible exact Changes.refl
    | with_reducible assumption
    | ((with_reducible apply Changes.step (elementStore_changes _ _ _ _ _ _)); rfl)
    | ((with_reducible apply Changes.step (putSum_changes _ _ _ _ _)); rfl)
    | with_reducible apply Changes.foldl
    | with_reducible apply Changes.foldl_fst
    | with_reducible apply Changes.foldl_snd
    | with_reducible apply Changes.foldl_trd
    | with_reducible apply Changes.foldl_run
    | with_reducible apply Changes.foldl_deep
    | with_reducible apply Changes.foldl_lane
    | with_reducible apply Changes.foldl_blocks
    | (show kindsIn _ _ = true; rfl)
    | split
    | dsimp only
    | intro _
    | with_reducible refine Changes.update ?_)

theorem rowBlock_changes (c : Cmd) (r j : Nat) (x : VOut × VRun) :
    Changes [.memory, .sectors, .streams] x.2.st (rowBlock c r j x).2.st := by
  unfold rowBlock
  repeat' (first
    | with_reducible exact Changes.refl
    | with_reducible assumption
    | ((with_reducible apply Changes.step (convertLanes_changes _ _ _ _ _ _ _)); rfl)
    | ((with_reducible apply Changes.step (putOut_changes _ _)); rfl)
    | (show kindsIn _ _ = true; rfl)
    | split
    | dsimp only
    | intro _
    | with_reducible refine Changes.update ?_)

theorem rowOutput_changes (c : Cmd) (r : Nat) (reds : List Nat) (j : Nat) (x : VOut × VRun) :
    Changes [.memory, .sectors, .streams] x.2.st (rowOutput c r reds j x).2.st := by
  unfold rowOutput
  repeat' (first
    | with_reducible exact Changes.refl
    | with_reducible assumption
    | ((with_reducible apply Changes.step (convertLanes_changes _ _ _ _ _ _ _)); rfl)
    | ((with_reducible apply Changes.step (putOut_changes _ _)); rfl)
    | ((with_reducible apply Changes.step (putSum_changes _ _ _ _ _)); rfl)
    | ((with_reducible apply Changes.step (rowBlock_changes _ _ _ _)); rfl)
    | (show kindsIn _ _ = true; rfl)
    | split
    | dsimp only
    | intro _
    | with_reducible refine Changes.update ?_)

theorem markStart_changes (c : Cmd) (v : VRun) :
    Changes [] v.st (markStart c v).st := by
  unfold markStart
  repeat' (first
    | with_reducible exact Changes.refl
    | with_reducible assumption
    | (show kindsIn _ _ = true; rfl)
    | split
    | dsimp only
    | intro _
    | with_reducible refine Changes.update ?_)

theorem runRow_changes (c : Cmd) (r : Nat) (x : VOut × VRun) :
    Changes [.memory, .sectors, .streams] x.2.st (runRow c r x).2.st := by
  unfold runRow
  repeat' (first
    | with_reducible exact Changes.refl
    | with_reducible assumption
    | ((with_reducible apply Changes.step (groupInputs_changes _ _ _)); rfl)
    | ((with_reducible apply Changes.step (groupOutput_changes _ _ _ _ _ _)); rfl)
    | ((with_reducible apply Changes.step (markStart_changes _ _)); rfl)
    | ((with_reducible apply Changes.step (rowOutput_changes _ _ _ _ _)); rfl)
    | ((with_reducible apply Changes.step (runStages_changes _ _ _ _)); rfl)
    | with_reducible apply Changes.foldl
    | with_reducible apply Changes.foldl_fst
    | with_reducible apply Changes.foldl_snd
    | with_reducible apply Changes.foldl_trd
    | with_reducible apply Changes.foldl_run
    | with_reducible apply Changes.foldl_deep
    | with_reducible apply Changes.foldl_lane
    | with_reducible apply Changes.foldl_blocks
    | (show kindsIn _ _ = true; rfl)
    | split
    | dsimp only
    | intro _
    | with_reducible refine Changes.update ?_)

theorem runVector_changes (s : State) (c : Cmd) :
    Changes [.memory, .sectors, .streams] s (runVector s c).2.st := by
  unfold runVector
  repeat' (first
    | with_reducible exact Changes.refl
    | with_reducible assumption
    | ((with_reducible apply Changes.step (runRow_changes _ _ _)); rfl)
    | with_reducible apply Changes.foldl
    | with_reducible apply Changes.foldl_fst
    | with_reducible apply Changes.foldl_snd
    | with_reducible apply Changes.foldl_trd
    | with_reducible apply Changes.foldl_run
    | with_reducible apply Changes.foldl_deep
    | with_reducible apply Changes.foldl_lane
    | with_reducible apply Changes.foldl_blocks
    | (show kindsIn _ _ = true; rfl)
    | split
    | dsimp only
    | intro _
    | with_reducible refine Changes.update ?_)

end Sys2Proof.Machine
end

