-- ==== Sys2Proof/Laws/FootprintVector.lean ====
section
/-! SUPPORT. What each function of Machine/Vector.lean can change. -/

set_option Elab.async false

set_option linter.unreachableTactic false
set_option linter.unusedTactic false
set_option linter.unnecessarySeqFocus false

namespace Sys2Proof.Machine

theorem faultVectorOps_changes (s : State) (c : Cmd) (status code detail : Nat) (scattered : List (Nat × Nat)) (ops : Option (List Byte)) :
    Changes [.draws, .od, .memory, .sectors, .accumulators, .commands, .tallies, .engines, .channels, .power, .recorder, .tests, .access, .link, .drains, .output] s (faultVectorOps s c status code detail scattered ops) := by
  unfold faultVectorOps
  repeat' (first
    | with_reducible exact Changes.refl
    | with_reducible assumption
    | ((with_reducible apply Changes.step (failCmd_changes _ _ _ _ _)); rfl)
    | ((with_reducible apply Changes.step (odBump_changes _ _ _ _)); rfl)
    | ((with_reducible apply Changes.step (undefine_changes _ _)); rfl)
    | (show kindsIn _ _ = true; rfl)
    | split
    | dsimp only
    | intro _
    | with_reducible refine Changes.update ?_)

theorem faultVector_changes (s : State) (c : Cmd) (status code detail : Nat) (scattered : List (Nat × Nat)) :
    Changes [.draws, .od, .memory, .sectors, .accumulators, .commands, .tallies, .engines, .channels, .power, .recorder, .tests, .access, .link, .drains, .output] s (faultVector s c status code detail scattered) := by
  unfold faultVector
  repeat' (first
    | with_reducible exact Changes.refl
    | with_reducible assumption
    | ((with_reducible apply Changes.step (faultVectorOps_changes _ _ _ _ _ _ _)); rfl)
    | (show kindsIn _ _ = true; rfl)
    | split
    | dsimp only
    | intro _)

theorem countWork_changes (s : State) (c : Cmd) :
    Changes [.draws, .od, .recorder, .access, .output] s (countWork s c) := by
  unfold countWork
  repeat' (first
    | with_reducible exact Changes.refl
    | with_reducible assumption
    | ((with_reducible apply Changes.step (odBump_changes _ _ _ _)); rfl)
    | (show kindsIn _ _ = true; rfl)
    | split
    | dsimp only
    | intro _)

theorem finishVector_changes (s : State) (c : Cmd) :
    Changes [.draws, .od, .memory, .sectors, .commands, .tallies, .engines, .power, .recorder, .access, .link, .drains, .output] s (finishVector s c) := by
  unfold finishVector
  repeat' (first
    | with_reducible exact Changes.refl
    | with_reducible assumption
    | ((with_reducible apply Changes.step (finishCmd_changes _ _ _)); rfl)
    | ((with_reducible apply Changes.step (odBump_changes _ _ _ _)); rfl)
    | ((with_reducible apply Changes.step (reportCured_changes _ _)); rfl)
    | (show kindsIn _ _ = true; rfl)
    | split
    | dsimp only
    | intro _)

theorem rerunVector_changes (s : State) (c : Cmd) (fl : Flags) (code detail : Nat) (ops : Option (List Byte)) :
    Changes [.draws, .od, .commands, .recorder, .access, .output] s (rerunVector s c fl code detail ops).1 := by
  unfold rerunVector
  repeat' (first
    | with_reducible exact Changes.refl
    | with_reducible assumption
    | ((with_reducible apply Changes.step (curedReport_changes _ _ _ _ _ _)); rfl)
    | ((with_reducible apply Changes.step (odBump_changes _ _ _ _)); rfl)
    | ((with_reducible apply Changes.step (putCmd_changes _ _)); rfl)
    | (show kindsIn _ _ = true; rfl)
    | split
    | dsimp only
    | intro _
    | with_reducible refine Changes.update ?_)

theorem vectorSealed_changes (s : State) (c : Cmd) (a : Nat) :
    Changes [.draws, .od, .memory, .sectors, .accumulators, .commands, .tallies, .engines, .channels, .power, .recorder, .tests, .access, .link, .drains, .output] s (vectorSealed s c a) := by
  unfold vectorSealed
  repeat' (first
    | with_reducible exact Changes.refl
    | with_reducible assumption
    | ((with_reducible apply Changes.step (failCmd_changes _ _ _ _ _)); rfl)
    | ((with_reducible apply Changes.step (odBump_changes _ _ _ _)); rfl)
    | ((with_reducible apply Changes.step (undefine_changes _ _)); rfl)
    | (show kindsIn _ _ = true; rfl)
    | split
    | dsimp only
    | intro _
    | with_reducible refine Changes.update ?_)

theorem vectorDone_changes (c : Cmd) (r : List (Nat × List Byte) × VRun) :
    Changes [.draws, .od, .memory, .sectors, .commands, .tallies, .streams, .engines, .power, .recorder, .access, .link, .drains, .output] r.2.st (vectorDone c r) := by
  unfold vectorDone
  repeat' (first
    | with_reducible exact Changes.refl
    | with_reducible assumption
    | ((with_reducible apply Changes.step (countWork_changes _ _)); rfl)
    | ((with_reducible apply Changes.step (finishVector_changes _ _)); rfl)
    | ((with_reducible apply Changes.step (putCmd_changes _ _)); rfl)
    | (show kindsIn _ _ = true; rfl)
    | split
    | dsimp only
    | intro _
    | with_reducible refine Changes.update ?_)

theorem executeVector_changes (s : State) (c : Cmd) (ev : LaneEvent) :
    Changes [.draws, .od, .memory, .sectors, .accumulators, .commands, .tallies, .streams, .engines, .channels, .power, .recorder, .tests, .access, .link, .drains, .output] s (executeVector s c ev) := by
  unfold executeVector
  repeat' (first
    | with_reducible exact Changes.refl
    | with_reducible assumption
    | ((with_reducible apply Changes.step (countWork_changes _ _)); rfl)
    | ((with_reducible apply Changes.step (faultVector_changes _ _ _ _ _ _)); rfl)
    | ((with_reducible apply Changes.step (rerunVector_changes _ _ _ _ _ _)); rfl)
    | ((with_reducible apply Changes.step (runVector_changes _ _)); rfl)
    | ((with_reducible apply Changes.step (vectorDone_changes _ _)); rfl)
    | (show kindsIn _ _ = true; rfl)
    | split
    | dsimp only
    | intro _
    | with_reducible refine Changes.update ?_)

theorem execSkim_changes (u q : Nat) (ev : LaneEvent) (s : State) {t : State} (h : execSkim u q ev s = .next t) :
    Changes [.draws, .od, .memory, .sectors, .accumulators, .commands, .tallies, .streams, .engines, .channels, .power, .recorder, .tests, .access, .link, .drains, .output] s t := by
  unfold execSkim at h
  injection h with h
  subst h
  repeat' (first
    | with_reducible exact Changes.refl
    | with_reducible assumption
    | ((with_reducible apply Changes.step (executeVector_changes _ _ _)); rfl)
    | (show kindsIn _ _ = true; rfl)
    | split
    | dsimp only
    | intro _)

theorem execSweep_changes (u q : Nat) (ev : LaneEvent) (s : State) {t : State} (h : execSweep u q ev s = .next t) :
    Changes [.draws, .od, .memory, .sectors, .accumulators, .commands, .tallies, .streams, .engines, .channels, .power, .recorder, .tests, .access, .link, .drains, .output] s t := by
  unfold execSweep at h
  injection h with h
  subst h
  repeat' (first
    | with_reducible exact Changes.refl
    | with_reducible assumption
    | ((with_reducible apply Changes.step (executeVector_changes _ _ _)); rfl)
    | ((with_reducible apply Changes.step (faultVector_changes _ _ _ _ _ _)); rfl)
    | ((with_reducible apply Changes.step (odBump_changes _ _ _ _)); rfl)
    | (show kindsIn _ _ = true; rfl)
    | split
    | dsimp only
    | intro _)

theorem captureDual_changes (s : State) (c : Cmd) (el : Nat) :
    Changes [.od, .tests] s (captureDual s c el) := by
  unfold captureDual
  repeat' (first
    | with_reducible exact Changes.refl
    | with_reducible assumption
    | ((with_reducible apply Changes.step (addCapture_changes _ _)); rfl)
    | (show kindsIn _ _ = true; rfl)
    | split
    | dsimp only
    | intro _)

theorem dualMismatch_changes (s : State) (c : Cmd) (el : Nat) :
    Changes [.draws, .od, .memory, .sectors, .accumulators, .commands, .tallies, .streams, .engines, .channels, .power, .recorder, .tests, .access, .link, .drains, .output] s (dualMismatch s c el) := by
  unfold dualMismatch
  repeat' (first
    | with_reducible exact Changes.refl
    | with_reducible assumption
    | ((with_reducible apply Changes.step (captureDual_changes _ _ _)); rfl)
    | ((with_reducible apply Changes.step (executeVector_changes _ _ _)); rfl)
    | ((with_reducible apply Changes.step (faultVectorOps_changes _ _ _ _ _ _ _)); rfl)
    | ((with_reducible apply Changes.step (freshNat_changes _ _ _)); rfl)
    | ((with_reducible apply Changes.step (odBump_changes _ _ _ _)); rfl)
    | ((with_reducible apply Changes.step (rerunVector_changes _ _ _ _ _ _)); rfl)
    | ((with_reducible apply Changes.step (snagSet_changes _ _)); rfl)
    | (show kindsIn _ _ = true; rfl)
    | split
    | dsimp only
    | intro _
    | with_reducible refine Changes.update ?_)

theorem execDualCompare_changes (u q : Nat) (mismatch : Option Nat) (s : State) {t : State} (h : execDualCompare u q mismatch s = .next t) :
    Changes [.draws, .od, .memory, .sectors, .accumulators, .commands, .tallies, .streams, .engines, .channels, .power, .recorder, .tests, .access, .link, .drains, .output] s t := by
  unfold execDualCompare at h
  injection h with h
  subst h
  repeat' (first
    | with_reducible exact Changes.refl
    | with_reducible assumption
    | ((with_reducible apply Changes.step (dualMismatch_changes _ _ _)); rfl)
    | ((with_reducible apply Changes.step (putCmd_changes _ _)); rfl)
    | (show kindsIn _ _ = true; rfl)
    | split
    | dsimp only
    | intro _
    | with_reducible refine Changes.update ?_)

theorem writeBack_changes (s : State) (c : Cmd) :
    Changes [.draws, .od, .memory, .sectors, .accumulators, .commands, .tallies, .engines, .channels, .power, .recorder, .tests, .access, .link, .drains, .output] s (writeBack s c) := by
  unfold writeBack
  repeat' (first
    | with_reducible exact Changes.refl
    | with_reducible assumption
    | ((with_reducible apply Changes.step (faultVector_changes _ _ _ _ _ _)); rfl)
    | ((with_reducible apply Changes.step (finishVector_changes _ _)); rfl)
    | (with_reducible apply localWrite_changes)
    | ((with_reducible apply Changes.step (memWrite_changes _ _ _)); rfl)
    | ((with_reducible apply Changes.step (vectorSealed_changes _ _ _)); rfl)
    | with_reducible apply Changes.foldl
    | with_reducible apply Changes.foldl_fst
    | with_reducible apply Changes.foldl_snd
    | with_reducible apply Changes.foldl_trd
    | with_reducible apply Changes.foldl_run
    | with_reducible apply Changes.foldl_deep
    | with_reducible apply Changes.foldl_lane
    | with_reducible apply Changes.foldl_blocks
    | (show kindsIn _ _ = true; rfl)
    | split
    | dsimp only
    | intro _
    | with_reducible refine Changes.update ?_)

theorem execWriteBack_changes (u q : Nat) (s : State) {t : State} (h : execWriteBack u q s = .next t) :
    Changes [.draws, .od, .memory, .sectors, .accumulators, .commands, .tallies, .engines, .channels, .power, .recorder, .tests, .access, .link, .drains, .output] s t := by
  unfold execWriteBack at h
  injection h with h
  subst h
  repeat' (first
    | with_reducible exact Changes.refl
    | with_reducible assumption
    | ((with_reducible apply Changes.step (writeBack_changes _ _)); rfl)
    | (show kindsIn _ _ = true; rfl)
    | split
    | dsimp only
    | intro _)

end Sys2Proof.Machine
end

