-- ==== Sys2Proof/Laws/FootprintFabric.lean ====
section
/-! SUPPORT. What each function of Machine/Fabric.lean can change. -/

set_option Elab.async false

set_option linter.unreachableTactic false
set_option linter.unusedTactic false
set_option linter.unnecessarySeqFocus false

namespace Sys2Proof.Machine

theorem putPort_changes (s : State) (p : Nat) (v : Port) :
    Changes [.ports] s (putPort s p v) := by
  unfold putPort
  repeat' (first
    | with_reducible exact Changes.refl
    | with_reducible assumption
    | (show kindsIn _ _ = true; rfl)
    | split
    | dsimp only
    | intro _
    | with_reducible refine Changes.update ?_)

theorem emitFlits_changes (s : State) (port : Nat) (fl : List (Nat × BitVec 512)) (o : List Frame → Output) :
    Changes [.ports, .output] s (emitFlits s port fl o) := by
  unfold emitFlits
  repeat' (first
    | with_reducible exact Changes.refl
    | with_reducible assumption
    | ((with_reducible apply Changes.step (emit_changes _ _)); rfl)
    | ((with_reducible apply Changes.step (putPort_changes _ _ _)); rfl)
    | (show kindsIn _ _ = true; rfl)
    | split
    | dsimp only
    | intro _
    | with_reducible refine Changes.update ?_)

theorem sendAbort_changes (s : State) (port : Nat) (p : Packet) (k : Nat) :
    Changes [.ports, .output] s (sendAbort s port p k) := by
  unfold sendAbort
  repeat' (first
    | with_reducible exact Changes.refl
    | with_reducible assumption
    | ((with_reducible apply Changes.step (emitFlits_changes _ _ _ _)); rfl)
    | (show kindsIn _ _ = true; rfl)
    | split
    | dsimp only
    | intro _)

theorem emitPacket_changes (s : State) (port : Nat) (p : Packet) :
    Changes [.ports, .output] s (emitPacket s port p) := by
  unfold emitPacket
  repeat' (first
    | with_reducible exact Changes.refl
    | with_reducible assumption
    | ((with_reducible apply Changes.step (emitFlits_changes _ _ _ _)); rfl)
    | (show kindsIn _ _ = true; rfl)
    | split
    | dsimp only
    | intro _)

theorem queueBytes_changes (s : State) (port : Nat) (f : Nat → Nat) :
    Changes [.ports] s (queueBytes s port f) := by
  unfold queueBytes
  repeat' (first
    | with_reducible exact Changes.refl
    | with_reducible assumption
    | ((with_reducible apply Changes.step (putPort_changes _ _ _)); rfl)
    | (show kindsIn _ _ = true; rfl)
    | split
    | dsimp only
    | intro _
    | with_reducible refine Changes.update ?_)

theorem sendSince_changes (s : State) (port : Nat) (p : Packet) (since : Nat) :
    Changes [.fabric, .ports, .output] s (sendSince s port p since) := by
  unfold sendSince
  repeat' (first
    | with_reducible exact Changes.refl
    | with_reducible assumption
    | ((with_reducible apply Changes.step (emitPacket_changes _ _ _)); rfl)
    | ((with_reducible apply Changes.step (queueBytes_changes _ _ _)); rfl)
    | (show kindsIn _ _ = true; rfl)
    | split
    | dsimp only
    | intro _
    | with_reducible refine Changes.update ?_)

theorem sendOn_changes (s : State) (port : Nat) (p : Packet) :
    Changes [.fabric, .ports, .output] s (sendOn s port p) := by
  unfold sendOn
  repeat' (first
    | with_reducible exact Changes.refl
    | with_reducible assumption
    | ((with_reducible apply Changes.step (sendSince_changes _ _ _ _)); rfl)
    | (show kindsIn _ _ = true; rfl)
    | split
    | dsimp only
    | intro _)

theorem dropTransit_changes (s : State) (t : Transit) :
    Changes [.fabric, .ports] s (dropTransit s t) := by
  unfold dropTransit
  repeat' (first
    | with_reducible exact Changes.refl
    | with_reducible assumption
    | ((with_reducible apply Changes.step (queueBytes_changes _ _ _)); rfl)
    | (show kindsIn _ _ = true; rfl)
    | split
    | dsimp only
    | intro _
    | with_reducible refine Changes.update ?_)

theorem holdPacket_changes (s : State) (p : Packet) :
    Changes [.fabric] s (holdPacket s p) := by
  unfold holdPacket
  repeat' (first
    | with_reducible exact Changes.refl
    | with_reducible assumption
    | (show kindsIn _ _ = true; rfl)
    | split
    | dsimp only
    | intro _
    | with_reducible refine Changes.update ?_)

theorem takeResponse_changes (s : State) (p : Packet) :
    Changes [.draws, .od, .fabric, .recorder, .access, .output] s (takeResponse s p) := by
  unfold takeResponse
  repeat' (first
    | with_reducible exact Changes.refl
    | with_reducible assumption
    | ((with_reducible apply Changes.step (odBump_changes _ _ _ _)); rfl)
    | (show kindsIn _ _ = true; rfl)
    | split
    | dsimp only
    | intro _
    | with_reducible refine Changes.update ?_)

theorem lostResponse_changes (s : State) (p : Packet) :
    Changes [.draws, .od, .recorder, .access, .output] s (lostResponse s p) := by
  unfold lostResponse
  repeat' (first
    | with_reducible exact Changes.refl
    | with_reducible assumption
    | ((with_reducible apply Changes.step (odBump_changes _ _ _ _)); rfl)
    | (show kindsIn _ _ = true; rfl)
    | split
    | dsimp only
    | intro _
    | with_reducible refine Changes.update ?_)

theorem sendResponse_changes (s : State) (p : Packet) :
    Changes [.draws, .od, .fabric, .ports, .recorder, .access, .output] s (sendResponse s p) := by
  unfold sendResponse
  repeat' (first
    | with_reducible exact Changes.refl
    | with_reducible assumption
    | ((with_reducible apply Changes.step (holdPacket_changes _ _)); rfl)
    | ((with_reducible apply Changes.step (lostResponse_changes _ _)); rfl)
    | ((with_reducible apply Changes.step (odBump_changes _ _ _ _)); rfl)
    | ((with_reducible apply Changes.step (sendOn_changes _ _ _)); rfl)
    | ((with_reducible apply Changes.step (takeResponse_changes _ _)); rfl)
    | (show kindsIn _ _ = true; rfl)
    | split
    | dsimp only
    | intro _
    | with_reducible refine Changes.update ?_)

theorem dropRecv_changes (s : State) (spkg msgid : Nat) :
    Changes [.fabric] s (dropRecv s spkg msgid) := by
  unfold dropRecv
  repeat' (first
    | with_reducible exact Changes.refl
    | with_reducible assumption
    | (show kindsIn _ _ = true; rfl)
    | split
    | dsimp only
    | intro _
    | with_reducible refine Changes.update ?_)

theorem putStream_changes (s : State) (r : StreamRec) :
    Changes [.fabric] s (putStream s r) := by
  unfold putStream
  repeat' (first
    | with_reducible exact Changes.refl
    | with_reducible assumption
    | (show kindsIn _ _ = true; rfl)
    | split
    | dsimp only
    | intro _
    | with_reducible refine Changes.update ?_)

theorem openRecv_changes (s : State) (p : Packet) :
    Changes [.draws, .od, .fabric, .ports, .recorder, .access, .output] s (openRecv s p) := by
  unfold openRecv
  repeat' (first
    | with_reducible exact Changes.refl
    | with_reducible assumption
    | ((with_reducible apply Changes.step (odBump_changes _ _ _ _)); rfl)
    | ((with_reducible apply Changes.step (putStream_changes _ _)); rfl)
    | ((with_reducible apply Changes.step (sendResponse_changes _ _)); rfl)
    | (show kindsIn _ _ = true; rfl)
    | split
    | dsimp only
    | intro _
    | with_reducible refine Changes.update ?_)

theorem useStream_changes (s : State) (p : Packet) :
    Changes [.fabric] s (useStream s p) := by
  unfold useStream
  repeat' (first
    | with_reducible exact Changes.refl
    | with_reducible assumption
    | (show kindsIn _ _ = true; rfl)
    | split
    | dsimp only
    | intro _
    | with_reducible refine Changes.update ?_)

theorem takeRequest_changes (s0 : State) (p : Packet) :
    Changes [.draws, .od, .fabric, .ports, .recorder, .access, .output] s0 (takeRequest s0 p) := by
  unfold takeRequest
  repeat' (first
    | with_reducible exact Changes.refl
    | with_reducible assumption
    | ((with_reducible apply Changes.step (odBump_changes _ _ _ _)); rfl)
    | ((with_reducible apply Changes.step (openRecv_changes _ _)); rfl)
    | ((with_reducible apply Changes.step (sendResponse_changes _ _)); rfl)
    | ((with_reducible apply Changes.step (useStream_changes _ _)); rfl)
    | (show kindsIn _ _ = true; rfl)
    | split
    | dsimp only
    | intro _
    | with_reducible refine Changes.update ?_)

theorem arrive_changes (s : State) (p : Packet) :
    Changes [.draws, .od, .fabric, .ports, .recorder, .access, .output] s (arrive s p) := by
  unfold arrive
  repeat' (first
    | with_reducible exact Changes.refl
    | with_reducible assumption
    | ((with_reducible apply Changes.step (takeRequest_changes _ _)); rfl)
    | ((with_reducible apply Changes.step (takeResponse_changes _ _)); rfl)
    | (show kindsIn _ _ = true; rfl)
    | split
    | dsimp only
    | intro _)

theorem noRoute_changes (s : State) (p : Packet) :
    Changes [.draws, .od, .fabric, .ports, .recorder, .access, .output] s (noRoute s p) := by
  unfold noRoute
  repeat' (first
    | with_reducible exact Changes.refl
    | with_reducible assumption
    | ((with_reducible apply Changes.step (lostResponse_changes _ _)); rfl)
    | ((with_reducible apply Changes.step (sendResponse_changes _ _)); rfl)
    | (show kindsIn _ _ = true; rfl)
    | split
    | dsimp only
    | intro _)

theorem routePacket_changes (s : State) (p : Packet) :
    Changes [.draws, .od, .fabric, .ports, .recorder, .access, .output] s (routePacket s p) := by
  unfold routePacket
  repeat' (first
    | with_reducible exact Changes.refl
    | with_reducible assumption
    | ((with_reducible apply Changes.step (arrive_changes _ _)); rfl)
    | ((with_reducible apply Changes.step (holdPacket_changes _ _)); rfl)
    | ((with_reducible apply Changes.step (noRoute_changes _ _)); rfl)
    | ((with_reducible apply Changes.step (odBump_changes _ _ _ _)); rfl)
    | ((with_reducible apply Changes.step (sendOn_changes _ _ _)); rfl)
    | (show kindsIn _ _ = true; rfl)
    | split
    | dsimp only
    | intro _
    | with_reducible refine Changes.update ?_)

theorem startTimer_changes (s : State) (msgid : Nat) :
    Changes [.fabric] s (startTimer s msgid) := by
  unfold startTimer
  repeat' (first
    | with_reducible exact Changes.refl
    | with_reducible assumption
    | (show kindsIn _ _ = true; rfl)
    | split
    | dsimp only
    | intro _
    | with_reducible refine Changes.update ?_)

theorem transmit_changes (s : State) (m : SendMsg) (want : Nat → Bool) :
    Changes [.draws, .od, .fabric, .ports, .recorder, .access, .output] s (transmit s m want) := by
  unfold transmit
  repeat' (first
    | with_reducible exact Changes.refl
    | with_reducible assumption
    | ((with_reducible apply Changes.step (routePacket_changes _ _)); rfl)
    | ((with_reducible apply Changes.step (startTimer_changes _ _)); rfl)
    | with_reducible apply Changes.foldl
    | with_reducible apply Changes.foldl_fst
    | with_reducible apply Changes.foldl_snd
    | with_reducible apply Changes.foldl_trd
    | with_reducible apply Changes.foldl_run
    | with_reducible apply Changes.foldl_deep
    | with_reducible apply Changes.foldl_lane
    | with_reducible apply Changes.foldl_blocks
    | (show kindsIn _ _ = true; rfl)
    | split
    | dsimp only
    | intro _)

theorem joinStream_changes (s : State) (h : Packet) :
    Changes [.fabric] s (joinStream s h).2 := by
  unfold joinStream
  repeat' (first
    | with_reducible exact Changes.refl
    | with_reducible assumption
    | ((with_reducible apply Changes.step (putStream_changes _ _)); rfl)
    | (show kindsIn _ _ = true; rfl)
    | split
    | dsimp only
    | intro _
    | with_reducible refine Changes.update ?_)

theorem launch_changes (s : State) (m : SendMsg) :
    Changes [.draws, .od, .fabric, .ports, .recorder, .access, .output] s (launch s m) := by
  unfold launch
  repeat' (first
    | with_reducible exact Changes.refl
    | with_reducible assumption
    | ((with_reducible apply Changes.step (joinStream_changes _ _)); rfl)
    | ((with_reducible apply Changes.step (odBump_changes _ _ _ _)); rfl)
    | ((with_reducible apply Changes.step (transmit_changes _ _ _)); rfl)
    | (show kindsIn _ _ = true; rfl)
    | split
    | dsimp only
    | intro _
    | with_reducible refine Changes.update ?_)

theorem pumpSends_changes (n : Nat) (s : State) :
    Changes [.draws, .od, .fabric, .ports, .recorder, .access, .output] s (pumpSends n s) := by
  induction n generalizing s with
  | zero => exact Changes.refl
  | succ n ih =>
    unfold pumpSends
    split
    · refine Changes.trans ?_ (ih _)
      split
      · exact launch_changes _ _
      · with_reducible refine Changes.update ?_
        exact Changes.refl
    · exact Changes.refl

theorem originate_changes (s : State) (head : Packet) (src : Option Nat) (stored : List Byte) (storedPoison : List Nat) (owner : Option (Nat × Nat × Nat)) (coll : Option (Nat × Nat × Nat)) :
    Changes [.draws, .od, .fabric, .ports, .recorder, .access, .output] s (originate s head src stored storedPoison owner coll).1 := by
  unfold originate
  repeat' (first
    | with_reducible exact Changes.refl
    | with_reducible assumption
    | ((with_reducible apply Changes.step (launch_changes _ _)); rfl)
    | (show kindsIn _ _ = true; rfl)
    | split
    | dsimp only
    | intro _
    | with_reducible refine Changes.update ?_)

theorem dropSend_changes (s : State) (msgid : Nat) :
    Changes [.draws, .od, .fabric, .ports, .recorder, .access, .output] s (dropSend s msgid) := by
  unfold dropSend
  repeat' (first
    | with_reducible exact Changes.refl
    | with_reducible assumption
    | ((with_reducible apply Changes.step (pumpSends_changes _ _)); rfl)
    | (show kindsIn _ _ = true; rfl)
    | split
    | dsimp only
    | intro _
    | with_reducible refine Changes.update ?_)

theorem putSend_changes (s : State) (m : SendMsg) :
    Changes [.fabric] s (putSend s m) := by
  unfold putSend
  repeat' (first
    | with_reducible exact Changes.refl
    | with_reducible assumption
    | (show kindsIn _ _ = true; rfl)
    | split
    | dsimp only
    | intro _
    | with_reducible refine Changes.update ?_)

theorem resend_changes (s : State) (m : SendMsg) (want : Nat → Bool) :
    Changes [.draws, .od, .fabric, .ports, .recorder, .access, .output] s (resend s m want) := by
  unfold resend
  repeat' (first
    | with_reducible exact Changes.refl
    | with_reducible assumption
    | ((with_reducible apply Changes.step (odBump_changes _ _ _ _)); rfl)
    | ((with_reducible apply Changes.step (putSend_changes _ _)); rfl)
    | ((with_reducible apply Changes.step (transmit_changes _ _ _)); rfl)
    | (show kindsIn _ _ = true; rfl)
    | split
    | dsimp only
    | intro _
    | with_reducible refine Changes.update ?_)

theorem advanceStream_changes (s : State) (r : RecvCtx) :
    Changes [.fabric] s (advanceStream s r) := by
  unfold advanceStream
  repeat' (first
    | with_reducible exact Changes.refl
    | with_reducible assumption
    | ((with_reducible apply Changes.step (putStream_changes _ _)); rfl)
    | (show kindsIn _ _ = true; rfl)
    | split
    | dsimp only
    | intro _
    | with_reducible refine Changes.update ?_)

theorem answerMsg_changes (s : State) (r : RecvCtx) (a : Packet) :
    Changes [.draws, .od, .fabric, .ports, .recorder, .access, .output] s (answerMsg s r a) := by
  unfold answerMsg
  repeat' (first
    | with_reducible exact Changes.refl
    | with_reducible assumption
    | ((with_reducible apply Changes.step (advanceStream_changes _ _)); rfl)
    | ((with_reducible apply Changes.step (dropRecv_changes _ _ _)); rfl)
    | ((with_reducible apply Changes.step (pumpSends_changes _ _)); rfl)
    | ((with_reducible apply Changes.step (sendResponse_changes _ _)); rfl)
    | (show kindsIn _ _ = true; rfl)
    | split
    | dsimp only
    | intro _
    | with_reducible refine Changes.update ?_)

theorem busyMsg_changes (s : State) (r : RecvCtx) :
    Changes [.draws, .od, .fabric, .ports, .recorder, .access, .output] s (busyMsg s r) := by
  unfold busyMsg
  repeat' (first
    | with_reducible exact Changes.refl
    | with_reducible assumption
    | ((with_reducible apply Changes.step (dropRecv_changes _ _ _)); rfl)
    | ((with_reducible apply Changes.step (pumpSends_changes _ _)); rfl)
    | ((with_reducible apply Changes.step (sendResponse_changes _ _)); rfl)
    | (show kindsIn _ _ = true; rfl)
    | split
    | dsimp only
    | intro _)

theorem crcMsg_changes (s : State) (r : RecvCtx) :
    Changes [.draws, .od, .fabric, .ports, .recorder, .access, .output] s (crcMsg s r) := by
  unfold crcMsg
  repeat' (first
    | with_reducible exact Changes.refl
    | with_reducible assumption
    | ((with_reducible apply Changes.step (sendResponse_changes _ _)); rfl)
    | (show kindsIn _ _ = true; rfl)
    | split
    | dsimp only
    | intro _
    | with_reducible refine Changes.update ?_)

end Sys2Proof.Machine
end

