-- ==== Sys2Proof/Laws/FootprintTransfer.lean ====
section
/-! SUPPORT. What each function of Machine/Transfer.lean can change. -/

set_option Elab.async false

set_option linter.unreachableTactic false
set_option linter.unusedTactic false
set_option linter.unnecessarySeqFocus false

namespace Sys2Proof.Machine

theorem faultCmd_changes (s : State) (c : Cmd) (code unit detail : Nat) :
    Changes [.draws, .od, .memory, .sectors, .accumulators, .commands, .tallies, .engines, .channels, .power, .recorder, .tests, .access, .link, .drains, .output] s (faultCmd s c code unit detail) := by
  unfold faultCmd
  repeat' (first
    | with_reducible exact Changes.refl
    | with_reducible assumption
    | ((with_reducible apply Changes.step (failCmd_changes _ _ _ _ _)); rfl)
    | (show kindsIn _ _ = true; rfl)
    | split
    | dsimp only
    | intro _)

theorem sealedFault_changes (s : State) (c : Cmd) (a : Nat) :
    Changes [.draws, .od, .memory, .sectors, .accumulators, .commands, .tallies, .engines, .channels, .power, .recorder, .tests, .access, .link, .drains, .output] s (sealedFault s c a) := by
  unfold sealedFault
  repeat' (first
    | with_reducible exact Changes.refl
    | with_reducible assumption
    | ((with_reducible apply Changes.step (faultCmd_changes _ _ _ _ _)); rfl)
    | (show kindsIn _ _ = true; rfl)
    | split
    | dsimp only
    | intro _)

theorem copySource_changes (s : State) (w : CmdWord) (host : HostAns) :
    Changes [.draws] s (copySource s w host).2 := by
  unfold copySource
  repeat' (first
    | with_reducible exact Changes.refl
    | with_reducible assumption
    | ((with_reducible apply Changes.step (freeBytes_changes _ _)); rfl)
    | (show kindsIn _ _ = true; rfl)
    | split
    | dsimp only
    | intro _)

theorem copyMove_changes (s : State) (c : Cmd) (host : HostAns) :
    Changes [.draws, .od, .memory, .sectors, .commands, .tallies, .engines, .power, .recorder, .access, .link, .drains, .output] s (copyMove s c host) := by
  unfold copyMove
  repeat' (first
    | with_reducible exact Changes.refl
    | with_reducible assumption
    | ((with_reducible apply Changes.step (copySource_changes _ _ _)); rfl)
    | ((with_reducible apply Changes.step (finishCmd_changes _ _ _)); rfl)
    | ((with_reducible apply Changes.step (hostWrite_changes _ _ _ _)); rfl)
    | (with_reducible apply localWrite_changes)
    | ((with_reducible apply Changes.step (memWriteBad_changes _ _ _ _)); rfl)
    | (show kindsIn _ _ = true; rfl)
    | split
    | dsimp only
    | intro _)

theorem copyCmd_changes (s : State) (c : Cmd) (host : HostAns) :
    Changes [.draws, .od, .memory, .sectors, .accumulators, .commands, .tallies, .engines, .channels, .power, .recorder, .tests, .access, .link, .drains, .output] s (copyCmd s c host) := by
  unfold copyCmd
  repeat' (first
    | with_reducible exact Changes.refl
    | with_reducible assumption
    | ((with_reducible apply Changes.step (copyMove_changes _ _ _)); rfl)
    | ((with_reducible apply Changes.step (faultCmd_changes _ _ _ _ _)); rfl)
    | ((with_reducible apply Changes.step (sealedFault_changes _ _ _)); rfl)
    | (show kindsIn _ _ = true; rfl)
    | split
    | dsimp only
    | intro _)

theorem execCopy_changes (u q : Nat) (host : HostAns) (s : State) {t : State} (h : execCopy u q host s = .next t) :
    Changes [.draws, .od, .memory, .sectors, .accumulators, .commands, .tallies, .engines, .channels, .power, .recorder, .tests, .access, .link, .drains, .output] s t := by
  unfold execCopy at h
  injection h with h
  subst h
  repeat' (first
    | with_reducible exact Changes.refl
    | with_reducible assumption
    | ((with_reducible apply Changes.step (copyCmd_changes _ _ _)); rfl)
    | (show kindsIn _ _ = true; rfl)
    | split
    | dsimp only
    | intro _)

theorem xposeTile_changes (s : State) (c : Cmd) (axis t : Nat) :
    Changes [.draws, .od, .memory, .sectors, .streams, .recorder, .access, .output] s (xposeTile s c axis t).1 := by
  unfold xposeTile
  repeat' (first
    | with_reducible exact Changes.refl
    | with_reducible assumption
    | ((with_reducible apply Changes.step (blocksOnto_changes _ _ _ _ _ _)); rfl)
    | ((with_reducible apply Changes.step (memWrite_changes _ _ _)); rfl)
    | ((with_reducible apply Changes.step (odBump_changes _ _ _ _)); rfl)
    | (show kindsIn _ _ = true; rfl)
    | split
    | dsimp only
    | intro _)

theorem xposeRun_changes (s : State) (c : Cmd) :
    Changes [.draws, .od, .memory, .sectors, .commands, .tallies, .streams, .engines, .power, .recorder, .access, .link, .drains, .output] s (xposeRun s c) := by
  unfold xposeRun
  repeat' (first
    | with_reducible exact Changes.refl
    | with_reducible assumption
    | ((with_reducible apply Changes.step (finishCmd_changes _ _ _)); rfl)
    | ((with_reducible apply Changes.step (reportCured_changes _ _)); rfl)
    | ((with_reducible apply Changes.step (sourceAxis_changes _)); rfl)
    | ((with_reducible apply Changes.step (xposeTile_changes _ _ _ _)); rfl)
    | with_reducible apply Changes.foldl
    | with_reducible apply Changes.foldl_fst
    | with_reducible apply Changes.foldl_snd
    | with_reducible apply Changes.foldl_trd
    | with_reducible apply Changes.foldl_run
    | with_reducible apply Changes.foldl_deep
    | with_reducible apply Changes.foldl_lane
    | with_reducible apply Changes.foldl_blocks
    | (show kindsIn _ _ = true; rfl)
    | split
    | dsimp only
    | intro _
    | with_reducible refine Changes.update ?_)

theorem xposeSlotError_changes (s : State) (c : Cmd) (slot : Nat) :
    Changes [.draws, .od, .memory, .sectors, .accumulators, .commands, .tallies, .engines, .channels, .power, .recorder, .tests, .access, .link, .drains, .output] s (xposeSlotError s c slot) := by
  unfold xposeSlotError
  repeat' (first
    | with_reducible exact Changes.refl
    | with_reducible assumption
    | ((with_reducible apply Changes.step (curedReport_changes _ _ _ _ _ _)); rfl)
    | ((with_reducible apply Changes.step (faultCmd_changes _ _ _ _ _)); rfl)
    | ((with_reducible apply Changes.step (putCmd_changes _ _)); rfl)
    | (show kindsIn _ _ = true; rfl)
    | split
    | dsimp only
    | intro _
    | with_reducible refine Changes.update ?_)

theorem xposeCmd_changes (s : State) (c : Cmd) (ev : MatEvent) :
    Changes [.draws, .od, .memory, .sectors, .accumulators, .commands, .tallies, .streams, .engines, .channels, .power, .recorder, .tests, .access, .link, .drains, .output] s (xposeCmd s c ev) := by
  unfold xposeCmd
  repeat' (first
    | with_reducible exact Changes.refl
    | with_reducible assumption
    | ((with_reducible apply Changes.step (failCmd_changes _ _ _ _ _)); rfl)
    | ((with_reducible apply Changes.step (faultCmd_changes _ _ _ _ _)); rfl)
    | ((with_reducible apply Changes.step (xposeRun_changes _ _)); rfl)
    | ((with_reducible apply Changes.step (xposeSlotError_changes _ _ _)); rfl)
    | (show kindsIn _ _ = true; rfl)
    | split
    | dsimp only
    | intro _)

theorem execXpose_changes (u q : Nat) (ev : MatEvent) (s : State) {t : State} (h : execXpose u q ev s = .next t) :
    Changes [.draws, .od, .memory, .sectors, .accumulators, .commands, .tallies, .streams, .engines, .channels, .power, .recorder, .tests, .access, .link, .drains, .output] s t := by
  unfold execXpose at h
  injection h with h
  subst h
  repeat' (first
    | with_reducible exact Changes.refl
    | with_reducible assumption
    | ((with_reducible apply Changes.step (xposeCmd_changes _ _ _)); rfl)
    | (show kindsIn _ _ = true; rfl)
    | split
    | dsimp only
    | intro _)

theorem askTile_changes (s : State) (x : Screed) :
    Changes [.draws, .od, .engines, .fabric, .ports, .recorder, .access, .output] s (askTile s x) := by
  unfold askTile
  repeat' (first
    | with_reducible exact Changes.refl
    | with_reducible assumption
    | ((with_reducible apply Changes.step (originate_changes _ _ _ _ _ _ _)); rfl)
    | ((with_reducible apply Changes.step (putScreed_changes _ _)); rfl)
    | (show kindsIn _ _ = true; rfl)
    | split
    | dsimp only
    | intro _
    | with_reducible refine Changes.update ?_)

theorem askTiles_changes (n : Nat) (s : State) (x : Screed) :
    Changes [.draws, .od, .engines, .fabric, .ports, .recorder, .access, .output] s (askTiles n s x) := by
  induction n generalizing s x with
  | zero => exact Changes.refl
  | succ n ih =>
    unfold askTiles
    repeat' (first
      | with_reducible exact Changes.refl
      | with_reducible assumption
      | ((with_reducible apply Changes.step (ih _ _)); rfl)
      | ((with_reducible apply Changes.step (askTile_changes _ _)); rfl)
      | (show kindsIn _ _ = true; rfl)
      | split
      | dsimp only
      | intro _)

theorem askAll_changes (s : State) (core strm : Nat) :
    Changes [.draws, .od, .engines, .fabric, .ports, .recorder, .access, .output] s (askAll s core strm) := by
  unfold askAll
  repeat' (first
    | with_reducible exact Changes.refl
    | with_reducible assumption
    | ((with_reducible apply Changes.step (askTiles_changes _ _ _)); rfl)
    | with_reducible apply Changes.foldl
    | with_reducible apply Changes.foldl_fst
    | with_reducible apply Changes.foldl_snd
    | with_reducible apply Changes.foldl_trd
    | with_reducible apply Changes.foldl_run
    | with_reducible apply Changes.foldl_deep
    | with_reducible apply Changes.foldl_lane
    | with_reducible apply Changes.foldl_blocks
    | (show kindsIn _ _ = true; rfl)
    | split
    | dsimp only
    | intro _)

theorem startScreed_changes (s : State) (c : Cmd) :
    Changes [.draws, .od, .commands, .engines, .fabric, .ports, .recorder, .access, .output] s (startScreed s c) := by
  unfold startScreed
  repeat' (first
    | with_reducible exact Changes.refl
    | with_reducible assumption
    | ((with_reducible apply Changes.step (askAll_changes _ _ _)); rfl)
    | ((with_reducible apply Changes.step (putCmd_changes _ _)); rfl)
    | (show kindsIn _ _ = true; rfl)
    | split
    | dsimp only
    | intro _
    | with_reducible refine Changes.update ?_)

theorem execScreed_changes (u q : Nat) (s : State) {t : State} (h : execScreed u q s = .next t) :
    Changes [.draws, .od, .commands, .engines, .fabric, .ports, .recorder, .access, .output] s t := by
  unfold execScreed at h
  injection h with h
  subst h
  repeat' (first
    | with_reducible exact Changes.refl
    | with_reducible assumption
    | ((with_reducible apply Changes.step (startScreed_changes _ _)); rfl)
    | (show kindsIn _ _ = true; rfl)
    | split
    | dsimp only
    | intro _)

theorem finishScreed_changes (s : State) (x : Screed) :
    Changes [.draws, .od, .memory, .sectors, .commands, .tallies, .engines, .power, .recorder, .access, .link, .drains, .output] s (finishScreed s x) := by
  unfold finishScreed
  repeat' (first
    | with_reducible exact Changes.refl
    | with_reducible assumption
    | ((with_reducible apply Changes.step (finishCmd_changes _ _ _)); rfl)
    | ((with_reducible apply Changes.step (putScreed_changes _ _)); rfl)
    | (show kindsIn _ _ = true; rfl)
    | split
    | dsimp only
    | intro _
    | with_reducible refine Changes.update ?_)

theorem landTile_changes (s : State) (x : Screed) (t : Nat) (a b : SendMsg) :
    Changes [.draws, .od, .memory, .sectors, .commands, .tallies, .engines, .fabric, .ports, .power, .recorder, .access, .link, .drains, .output] s (landTile s x t a b) := by
  unfold landTile
  repeat' (first
    | with_reducible exact Changes.refl
    | with_reducible assumption
    | ((with_reducible apply Changes.step (dropSend_changes _ _)); rfl)
    | ((with_reducible apply Changes.step (finishScreed_changes _ _)); rfl)
    | ((with_reducible apply Changes.step (memWriteBad_changes _ _ _ _)); rfl)
    | ((with_reducible apply Changes.step (putScreed_changes _ _)); rfl)
    | (show kindsIn _ _ = true; rfl)
    | split
    | dsimp only
    | intro _
    | with_reducible refine Changes.update ?_)

theorem execScreedTileLand_changes (core strm : Nat) (s : State) {t : State} (h : execScreedTileLand core strm s = .next t) :
    Changes [.draws, .od, .memory, .sectors, .commands, .tallies, .engines, .fabric, .ports, .power, .recorder, .access, .link, .drains, .output] s t := by
  unfold execScreedTileLand at h
  injection h with h
  subst h
  repeat' (first
    | with_reducible exact Changes.refl
    | with_reducible assumption
    | ((with_reducible apply Changes.step (askAll_changes _ _ _)); rfl)
    | ((with_reducible apply Changes.step (landTile_changes _ _ _ _ _)); rfl)
    | (show kindsIn _ _ = true; rfl)
    | split
    | dsimp only
    | intro _
    | with_reducible refine Changes.update ?_)

theorem execPassEnd_changes (u q : Nat) (s : State) {t : State} (h : execPassEnd u q s = .next t) :
    Changes [.draws, .od, .commands, .engines, .fabric, .ports, .recorder, .access, .output] s t := by
  unfold execPassEnd at h
  injection h with h
  subst h
  repeat' (first
    | with_reducible exact Changes.refl
    | with_reducible assumption
    | ((with_reducible apply Changes.step (askAll_changes _ _ _)); rfl)
    | ((with_reducible apply Changes.step (passEnd_changes _ _)); rfl)
    | (show kindsIn _ _ = true; rfl)
    | split
    | dsimp only
    | intro _
    | with_reducible refine Changes.update ?_)

end Sys2Proof.Machine
end

