-- ==== Sys2Proof/Laws/Effects.lean ====
section
/-! SUPPORT. What a row's own effect leaves after the command's completion: bytes written before it, tallies, and the entries that
place the record. -/

set_option Elab.async false

namespace Sys2Proof.Machine

theorem runCmd_spec {s : State} {u q op : Nat} {c : Cmd} (h : runCmd s u q op = some c) :
    c ∈ s.cmds ∧ c.u = u ∧ c.q = q ∧ c.op = op ∧ c.stage = .admitted := by
  have := find_qCmds h
  simpa only [Bool.and_eq_true, beq_iff_eq] using this

theorem matCmd_spec {s : State} {u q : Nat} {p : Cmd → Bool} {c : Cmd} (h : matCmd s u q p = some c) :
    c ∈ s.cmds ∧ c.u = u ∧ c.q = q ∧ c.op = 0x20 ∧ c.stage = .admitted ∧ p c = true := by
  have := find_qCmds h
  simp only [Bool.and_eq_true, beq_iff_eq] at this
  exact ⟨this.1, this.2.1, this.2.2.1, this.2.2.2.1.1, this.2.2.2.1.2, this.2.2.2.2⟩

theorem vecCmd_spec {s : State} {u q : Nat} {st : Stage} {w : Bool} {c : Cmd} (h : vecCmd s u q st w = some c) :
    c ∈ s.cmds ∧ c.u = u ∧ c.q = q ∧ c.stage = st ∧ c.isSweepCmd = w := by
  have := find_qCmds h
  simp only [Bool.and_eq_true, beq_iff_eq] at this
  exact ⟨this.1, this.2.1, this.2.2.1, this.2.2.2.1.2, this.2.2.2.2⟩

theorem vacatedAt_none {s : State} {a n : Nat} (h : inMemory s a n = true) : vacatedAt s a n = none := by
  unfold vacatedAt; rw [if_pos h]

/-- A byte inside a write reads as the byte written. -/
theorem memByte_memWriteBad_in (s : State) {a x : Nat} {d : List Byte} {bad : List (Nat × Nat)} (h : Store.wf 0 s.mem = true)
    (hx : a ≤ x) (hl : x < a + d.length) : memByte (memWriteBad s a d bad) x = listGet 0 d (x - a) := by
  have g := getList_memWriteBad s a d bad h
  have hi : x - a < d.length := by omega
  have e : (Store.getList 0 (memWriteBad s a d bad).mem a d.length)[x - a]? = some (Store.get 0 (memWriteBad s a d bad).mem x) := by
    unfold Store.getList
    rw [List.getElem?_map, List.getElem?_range hi]
    simp only [Option.map_some]
    congr 2; omega
  rw [g] at e
  unfold memByte listGet
  rw [List.getD_eq_getElem?_getD, e]; rfl

theorem memByte_memWriteBad_ite (s : State) (a x n : Nat) (d : List Byte) (bad : List (Nat × Nat)) (h : Store.wf 0 s.mem = true)
    (hn : d.length = n) : memByte (memWriteBad s a d bad) x = if a ≤ x ∧ x < a + n then listGet 0 d (x - a) else memByte s x := by
  split
  · rename_i hx; exact memByte_memWriteBad_in s h hx.1 (by omega)
  · rename_i hx; exact memByte_memWriteBad s h (by omega)

theorem memByte_of_changes {K : List Kind} {s t : State} (h : Changes K s t) (a : Nat) (hk : K.contains .memory = false := by rfl) :
    memByte t a = memByte s a := by
  unfold memByte; rw [show t.mem = s.mem from h.same .memory hk]

/-- The place of a queue's records is the same in both states. -/
structure SameRing (u q : Nat) (s t : State) : Prop where
  size : qGet t u q 2 = qGet s u q 2
  base : qGet t u q 3 = qGet s u q 3

theorem SameRing.of_od {u q : Nat} {s t : State} (h : t.od = s.od) : SameRing u q s t :=
  ⟨by simp only [qGet, odGet, h], by simp only [qGet, odGet, h]⟩

theorem SameRing.of_changes {u q : Nat} {K : List Kind} {s t : State} (h : Changes K s t) (hk : K.contains .od = false := by rfl) :
    SameRing u q s t := .of_od (h.same .od hk)

theorem SameRing.trans {u q : Nat} {s t v : State} (h : SameRing u q s t) (g : SameRing u q t v) : SameRing u q s v :=
  ⟨g.size.trans h.size, g.base.trans h.base⟩

theorem SameRing.inRecords {u q : Nat} {s t : State} (h : SameRing u q s t) (a : Nat) : inRecords t u q a ↔ inRecords s u q a := by
  unfold Machine.inRecords; rw [h.size, h.base]

/-- A counter outside the queue entries leaves the place of the records. -/
theorem SameRing.bump {u q : Nat} (s : State) (i sub n : Nat) (hq : queueExists u q = true) (hi : i < 0x3600 ∨ 0x3688 ≤ i) (hs : sub < 256) :
    SameRing u q s (odBump s i sub n) := by
  have hb := queueExists_bounds hq
  have key : ∀ m, m < 16 → qGet (odBump s i sub n) u q m = qGet s u q m := fun m hm => by
    unfold qGet
    refine (odBump_keeps s i sub n).get _ _ ⟨?_, ?_⟩
    · unfold odKey queueIndex; split <;> omega
    · unfold logKey odKey queueIndex; split <;> omega
  exact ⟨key 2 (by decide), key 3 (by decide)⟩

/-- What stands after a completion with status OK of a command whose effect led from s to x: the command has ended, its add is applied to
the tallies of s, and bytes outside its completion ring are those of x. -/
theorem finish_after {s x : State} {c : Cmd} (hq : queueExists c.u c.q = true) (hx : x.Sound) (ht : x.tallies = s.tallies)
    (hr : SameRing c.u c.q s x) :
    ended (finishCmd x c stOK) c.u c.q c.serial ∧ (∀ k, tallyGet (finishCmd x c stOK) k = addedTally c (tallyGet s) k) ∧
    ∀ a, ¬ inRecords s c.u c.q a → memByte (finishCmd x c stOK) a = memByte x a := by
  refine ⟨completeCmd_ends _ _ _ _, fun k => ?_, fun a ha => ?_⟩
  · refine (completeCmd_adds x c stOK 0 k hx (by decide)).trans ?_
    unfold addedTally
    rw [tallyGet_congr ht k]
  · exact (completeCmd_records x c stOK 0 hq).same hx.memory a (fun h => ha ((hr.inRecords a).mp h))

theorem reportCured_keeps (s : State) (c : Cmd) : (reportCured s c).cmds = s.cmds ∧ (reportCured s c).tallies = s.tallies ∧
    (reportCured s c).mem = s.mem :=
  ⟨((reportCured_changes s c).same .commands rfl).1, (reportCured_changes s c).same .tallies rfl, (reportCured_changes s c).same .memory rfl⟩

end Sys2Proof.Machine
end

