-- ==== Sys2Proof/Laws/FootprintCollective.lean ====
section
/-! SUPPORT. What each function of Machine/Collective.lean can change. -/

set_option Elab.async false

set_option linter.unreachableTactic false
set_option linter.unusedTactic false
set_option linter.unnecessarySeqFocus false

namespace Sys2Proof.Machine

theorem putChan_changes (s : State) (k : Chan) :
    Changes [.channels] s (putChan s k) := by
  unfold putChan
  repeat' (first
    | with_reducible exact Changes.refl
    | with_reducible assumption
    | (show kindsIn _ _ = true; rfl)
    | split
    | dsimp only
    | intro _
    | with_reducible refine Changes.update ?_)

theorem startColl_changes (s : State) (c : Cmd) (k : Chan) (kind side : Nat) :
    Changes [.od, .commands, .channels] s (startColl s c k kind side) := by
  unfold startColl
  repeat' (first
    | with_reducible exact Changes.refl
    | with_reducible assumption
    | ((with_reducible apply Changes.step (odSet_changes _ _ _ _)); rfl)
    | ((with_reducible apply Changes.step (putChan_changes _ _)); rfl)
    | ((with_reducible apply Changes.step (putCmd_changes _ _)); rfl)
    | (show kindsIn _ _ = true; rfl)
    | split
    | dsimp only
    | intro _
    | with_reducible refine Changes.update ?_)

theorem finishColl_changes (s : State) (k : Chan) (r : Coll) :
    Changes [.draws, .od, .memory, .sectors, .commands, .tallies, .engines, .channels, .power, .recorder, .access, .link, .drains, .output] s (finishColl s k r) := by
  unfold finishColl
  repeat' (first
    | with_reducible exact Changes.refl
    | with_reducible assumption
    | ((with_reducible apply Changes.step (endColl_changes _ _ _)); rfl)
    | ((with_reducible apply Changes.step (finishCmd_changes _ _ _)); rfl)
    | ((with_reducible apply Changes.step (odBump_changes _ _ _ _)); rfl)
    | (show kindsIn _ _ = true; rfl)
    | split
    | dsimp only
    | intro _)

theorem flagColl_changes (s : State) (r : Coll) (f : Flags) :
    Changes [.commands] s (flagColl s r f) := by
  unfold flagColl
  repeat' (first
    | with_reducible exact Changes.refl
    | with_reducible assumption
    | ((with_reducible apply Changes.step (putCmd_changes _ _)); rfl)
    | (show kindsIn _ _ = true; rfl)
    | split
    | dsimp only
    | intro _
    | with_reducible refine Changes.update ?_)

theorem countNonFinite_changes (s : State) (ch : Nat) (nfin : Bool) :
    Changes [.draws, .od, .recorder, .access, .output] s (countNonFinite s ch nfin) := by
  unfold countNonFinite
  repeat' (first
    | with_reducible exact Changes.refl
    | with_reducible assumption
    | ((with_reducible apply Changes.step (odBump_changes _ _ _ _)); rfl)
    | (show kindsIn _ _ = true; rfl)
    | split
    | dsimp only
    | intro _)

theorem judgeCopies_changes (s : State) (k : Chan) (r : Coll) (c : Nat) :
    Changes [.draws, .od, .commands, .recorder, .access, .output] s (judgeCopies s k r c).1 := by
  unfold judgeCopies
  repeat' (first
    | with_reducible exact Changes.refl
    | with_reducible assumption
    | ((with_reducible apply Changes.step (fileReport_changes _ _)); rfl)
    | ((with_reducible apply Changes.step (flagColl_changes _ _ _)); rfl)
    | ((with_reducible apply Changes.step (odBump_changes _ _ _ _)); rfl)
    | ((with_reducible apply Changes.step (snagSet_changes _ _)); rfl)
    | with_reducible apply Changes.foldl
    | with_reducible apply Changes.foldl_fst
    | with_reducible apply Changes.foldl_snd
    | with_reducible apply Changes.foldl_trd
    | with_reducible apply Changes.foldl_run
    | with_reducible apply Changes.foldl_deep
    | with_reducible apply Changes.foldl_lane
    | with_reducible apply Changes.foldl_blocks
    | (show kindsIn _ _ = true; rfl)
    | split
    | dsimp only
    | intro _
    | with_reducible refine Changes.update ?_)

theorem chooseSides_changes (s : State) (k : Chan) (r : Coll) (c : Nat) :
    Changes [.draws, .od, .memory, .sectors, .commands, .recorder, .access, .output] s (chooseSides s k r c).1 := by
  unfold chooseSides
  repeat' (first
    | with_reducible exact Changes.refl
    | with_reducible assumption
    | ((with_reducible apply Changes.step (flagColl_changes _ _ _)); rfl)
    | ((with_reducible apply Changes.step (judgeCopies_changes _ _ _ _)); rfl)
    | ((with_reducible apply Changes.step (memWrite_changes _ _ _)); rfl)
    | ((with_reducible apply Changes.step (odBump_changes _ _ _ _)); rfl)
    | (show kindsIn _ _ = true; rfl)
    | split
    | dsimp only
    | intro _
    | with_reducible refine Changes.update ?_)

theorem dropAdders_changes (s : State) (detail : Nat) (p : Nat) :
    Changes [.draws, .od, .recorder, .access, .output] s (dropAdders s detail p) := by
  unfold dropAdders
  repeat' (first
    | with_reducible exact Changes.refl
    | with_reducible assumption
    | ((with_reducible apply Changes.step (fileCode_changes _ _ _ _)); rfl)
    | ((with_reducible apply Changes.step (odSet_changes _ _ _ _)); rfl)
    | ((with_reducible apply Changes.step (snagSet_changes _ _)); rfl)
    | (show kindsIn _ _ = true; rfl)
    | split
    | dsimp only
    | intro _)

theorem recompute_changes (s : State) (k : Chan) (x : Chunk) (f : Formed) :
    Changes [.draws, .od, .memory, .sectors, .recorder, .access, .output] s (recompute s k x f).1 := by
  unfold recompute
  repeat' (first
    | with_reducible exact Changes.refl
    | with_reducible assumption
    | ((with_reducible apply Changes.step (dropAdders_changes _ _ _)); rfl)
    | ((with_reducible apply Changes.step (memWrite_changes _ _ _)); rfl)
    | ((with_reducible apply Changes.step (odBump_changes _ _ _ _)); rfl)
    | ((with_reducible apply Changes.step (snagSet_changes _ _)); rfl)
    | with_reducible apply Changes.foldl
    | with_reducible apply Changes.foldl_fst
    | with_reducible apply Changes.foldl_snd
    | with_reducible apply Changes.foldl_trd
    | with_reducible apply Changes.foldl_run
    | with_reducible apply Changes.foldl_deep
    | with_reducible apply Changes.foldl_lane
    | with_reducible apply Changes.foldl_blocks
    | (show kindsIn _ _ = true; rfl)
    | split
    | dsimp only
    | intro _)

theorem secondPass_changes (s : State) (k : Chan) (r : Coll) (x : Chunk) (f : Formed) :
    Changes [.draws, .od, .memory, .sectors, .recorder, .access, .output] s (secondPass s k r x f).1 := by
  unfold secondPass
  repeat' (first
    | with_reducible exact Changes.refl
    | with_reducible assumption
    | ((with_reducible apply Changes.step (recompute_changes _ _ _ _)); rfl)
    | (show kindsIn _ _ = true; rfl)
    | split
    | dsimp only
    | intro _)

theorem rootCheck_changes (s : State) (k : Chan) (r : Coll) (x : Chunk) (f : Formed) :
    Changes [.draws, .od, .memory, .sectors, .commands, .recorder, .access, .output] s (rootCheck s k r x f).1 := by
  unfold rootCheck
  repeat' (first
    | with_reducible exact Changes.refl
    | with_reducible assumption
    | ((with_reducible apply Changes.step (fileReport_changes _ _)); rfl)
    | ((with_reducible apply Changes.step (flagColl_changes _ _ _)); rfl)
    | ((with_reducible apply Changes.step (recompute_changes _ _ _ _)); rfl)
    | ((with_reducible apply Changes.step (snagSet_changes _ _)); rfl)
    | (show kindsIn _ _ = true; rfl)
    | split
    | dsimp only
    | intro _)

theorem nonFiniteReport_changes (s : State) (k : Chan) (r : Coll) (c : Nat) :
    Changes [.draws, .od, .recorder, .access, .output] s (nonFiniteReport s k r c).1 := by
  unfold nonFiniteReport
  repeat' (first
    | with_reducible exact Changes.refl
    | with_reducible assumption
    | ((with_reducible apply Changes.step (fileReport_changes _ _)); rfl)
    | ((with_reducible apply Changes.step (snagSet_changes _ _)); rfl)
    | (show kindsIn _ _ = true; rfl)
    | split
    | dsimp only
    | intro _
    | with_reducible refine Changes.update ?_)

theorem ownReports_changes (s : State) (k : Chan) (r : Coll) (c : Nat) :
    Changes [.draws, .od, .recorder, .access, .output] s (ownReports s k r c).1 := by
  unfold ownReports
  repeat' (first
    | with_reducible exact Changes.refl
    | with_reducible assumption
    | ((with_reducible apply Changes.step (fileReport_changes _ _)); rfl)
    | ((with_reducible apply Changes.step (nonFiniteReport_changes _ _ _ _)); rfl)
    | (show kindsIn _ _ = true; rfl)
    | split
    | dsimp only
    | intro _)

theorem sendUp_changes (s : State) (k : Chan) (r : Coll) (c : Nat) (f : Formed) :
    Changes [.draws, .od, .fabric, .ports, .recorder, .access, .output] s (sendUp s k r c f) := by
  unfold sendUp
  repeat' (first
    | with_reducible exact Changes.refl
    | with_reducible assumption
    | ((with_reducible apply Changes.step (originate_changes _ _ _ _ _ _ _)); rfl)
    | with_reducible apply Changes.foldl
    | (show kindsIn _ _ = true; rfl)
    | split
    | dsimp only
    | intro _
    | with_reducible refine Changes.update ?_)

theorem sendDown_changes (s : State) (k : Chan) (r : Coll) (c a n : Nat) (nfin : Bool) :
    Changes [.draws, .od, .fabric, .ports, .recorder, .access, .output] s (sendDown s k r c a n nfin) := by
  unfold sendDown
  repeat' (first
    | with_reducible exact Changes.refl
    | with_reducible assumption
    | ((with_reducible apply Changes.step (originate_changes _ _ _ _ _ _ _)); rfl)
    | with_reducible apply Changes.foldl
    | (show kindsIn _ _ = true; rfl)
    | split
    | dsimp only
    | intro _
    | with_reducible refine Changes.update ?_)

end Sys2Proof.Machine
end

