-- ==== Sys2Proof/Laws/FootprintCollectiveRun.lean ====
section
/-! SUPPORT. What each function of Machine/CollectiveRun.lean can change. -/

set_option Elab.async false

set_option linter.unreachableTactic false
set_option linter.unusedTactic false
set_option linter.unnecessarySeqFocus false

namespace Sys2Proof.Machine

theorem failColl_changes {K : List Kind} {e : State} (s : State) (r : Coll) (f : State → Cmd → State) (h : Changes K e s)
    (hf : ∀ c, Changes K s (f s c)) : Changes K e (failColl s r f) := by
  unfold failColl
  split
  · exact h.trans (hf _)
  · exact h

theorem unlessBlocked_changes {K : List Kind} {e s : State} {r : Coll} {reads writes : List (Nat × Nat)} {go : State} (h : Changes K e s)
    (hg : Changes K e go) (hk : kindsIn [.draws, .od, .memory, .sectors, .accumulators, .commands, .tallies, .engines, .channels, .power, .recorder, .tests, .access, .link, .drains, .output] K = true) : Changes K e (unlessBlocked s r reads writes go) := by
  unfold unlessBlocked
  split
  · exact failColl_changes _ _ _ h fun c => (faultCmd_changes _ _ _ _ _).mono hk
  · exact failColl_changes _ _ _ h fun c => (sealedFault_changes _ _ _).mono hk
  · exact hg

theorem landRoot_changes (s : State) (k : Chan) (r : Coll) (c : Nat) (f : Formed) :
    Changes [.draws, .od, .memory, .sectors, .fabric, .ports, .channels, .recorder, .access, .output] s (landRoot s k r c f) := by
  unfold landRoot
  repeat' (first
    | with_reducible exact Changes.refl
    | with_reducible assumption
    | ((with_reducible apply Changes.step (memWrite_changes _ _ _)); rfl)
    | ((with_reducible apply Changes.step (putChan_changes _ _)); rfl)
    | ((with_reducible apply Changes.step (sendDown_changes _ _ _ _ _ _ _)); rfl)
    | (show kindsIn _ _ = true; rfl)
    | split
    | dsimp only
    | intro _)

theorem formChunk_changes (s : State) (ch c : Nat) :
    Changes [.draws, .od, .memory, .sectors, .accumulators, .commands, .tallies, .engines, .fabric, .ports, .channels, .power, .recorder, .tests, .access, .link, .drains, .output] s (formChunk s ch c) := by
  unfold formChunk
  repeat' (first
    | with_reducible exact Changes.refl
    | with_reducible assumption
    | ((with_reducible apply Changes.step (chooseSides_changes _ _ _ _)); rfl)
    | ((with_reducible apply Changes.step (countNonFinite_changes _ _ _)); rfl)
    | ((with_reducible apply Changes.step (flagColl_changes _ _ _)); rfl)
    | ((with_reducible apply Changes.step (issueSnoops_changes _ _)); rfl)
    | ((with_reducible apply Changes.step (landRoot_changes _ _ _ _ _)); rfl)
    | ((with_reducible apply Changes.step (ownReports_changes _ _ _ _)); rfl)
    | ((with_reducible apply Changes.step (putChan_changes _ _)); rfl)
    | ((with_reducible apply Changes.step (rootCheck_changes _ _ _ _ _)); rfl)
    | ((with_reducible apply Changes.step (secondPass_changes _ _ _ _ _)); rfl)
    | ((with_reducible apply Changes.step (sendUp_changes _ _ _ _ _)); rfl)
    | with_reducible apply unlessBlocked_changes
    | (show kindsIn _ _ = true; rfl)
    | split
    | dsimp only
    | intro _
    | with_reducible refine Changes.update ?_)

theorem stepNorm_changes (s : State) (k : Chan) (r : Coll) :
    Changes [.od, .commands] s (stepNorm s k r) := by
  unfold stepNorm
  repeat' (first
    | with_reducible exact Changes.refl
    | with_reducible assumption
    | ((with_reducible apply Changes.step (flagColl_changes _ _ _)); rfl)
    | ((with_reducible apply Changes.step (odSet_changes _ _ _ _)); rfl)
    | with_reducible apply Changes.foldl
    | with_reducible apply Changes.foldl_fst
    | with_reducible apply Changes.foldl_snd
    | with_reducible apply Changes.foldl_trd
    | with_reducible apply Changes.foldl_run
    | with_reducible apply Changes.foldl_deep
    | with_reducible apply Changes.foldl_lane
    | with_reducible apply Changes.foldl_blocks
    | (show kindsIn _ _ = true; rfl)
    | split
    | dsimp only
    | intro _)

theorem settleReduce_changes (s : State) (k : Chan) (r : Coll) :
    Changes [.draws, .od, .memory, .sectors, .commands, .tallies, .engines, .channels, .power, .recorder, .access, .link, .drains, .output] s (settleReduce s k r) := by
  unfold settleReduce
  repeat' (first
    | with_reducible exact Changes.refl
    | with_reducible assumption
    | ((with_reducible apply Changes.step (finishColl_changes _ _ _)); rfl)
    | ((with_reducible apply Changes.step (odSet_changes _ _ _ _)); rfl)
    | ((with_reducible apply Changes.step (stepNorm_changes _ _ _)); rfl)
    | (show kindsIn _ _ = true; rfl)
    | split
    | dsimp only
    | intro _)

theorem pumpReduce_changes (s : State) (ch : Nat) :
    Changes [.draws, .od, .memory, .sectors, .accumulators, .commands, .tallies, .engines, .fabric, .ports, .channels, .power, .recorder, .tests, .access, .link, .drains, .output] s (pumpReduce s ch) := by
  unfold pumpReduce
  repeat' (first
    | with_reducible exact Changes.refl
    | with_reducible assumption
    | ((with_reducible apply Changes.step (formChunk_changes _ _ _)); rfl)
    | ((with_reducible apply Changes.step (settleReduce_changes _ _ _)); rfl)
    | with_reducible apply Changes.foldl
    | with_reducible apply Changes.foldl_fst
    | with_reducible apply Changes.foldl_snd
    | with_reducible apply Changes.foldl_trd
    | with_reducible apply Changes.foldl_run
    | with_reducible apply Changes.foldl_deep
    | with_reducible apply Changes.foldl_lane
    | with_reducible apply Changes.foldl_blocks
    | (show kindsIn _ _ = true; rfl)
    | split
    | dsimp only
    | intro _
    | with_reducible refine Changes.update ?_)

theorem broadcastChunk_changes (ch : Nat) (s : State) (c : Nat) :
    Changes [.draws, .od, .memory, .sectors, .commands, .fabric, .ports, .channels, .recorder, .access, .output] s (broadcastChunk ch s c) := by
  unfold broadcastChunk
  repeat' (first
    | with_reducible exact Changes.refl
    | with_reducible assumption
    | ((with_reducible apply Changes.step (countNonFinite_changes _ _ _)); rfl)
    | ((with_reducible apply Changes.step (flagColl_changes _ _ _)); rfl)
    | ((with_reducible apply Changes.step (memWriteBad_changes _ _ _ _)); rfl)
    | ((with_reducible apply Changes.step (nonFiniteReport_changes _ _ _ _)); rfl)
    | ((with_reducible apply Changes.step (putChan_changes _ _)); rfl)
    | ((with_reducible apply Changes.step (sendDown_changes _ _ _ _ _ _ _)); rfl)
    | (show kindsIn _ _ = true; rfl)
    | split
    | dsimp only
    | intro _
    | with_reducible refine Changes.update ?_)

theorem broadcast_changes (s : State) (ch : Nat) (r : Coll) :
    Changes [.draws, .od, .memory, .sectors, .commands, .fabric, .ports, .channels, .recorder, .access, .output] s (broadcast s ch r) := by
  unfold broadcast
  repeat' (first
    | with_reducible exact Changes.refl
    | with_reducible assumption
    | ((with_reducible apply Changes.step (broadcastChunk_changes _ _ _)); rfl)
    | with_reducible apply Changes.foldl
    | with_reducible apply Changes.foldl_fst
    | with_reducible apply Changes.foldl_snd
    | with_reducible apply Changes.foldl_trd
    | with_reducible apply Changes.foldl_run
    | with_reducible apply Changes.foldl_deep
    | with_reducible apply Changes.foldl_lane
    | with_reducible apply Changes.foldl_blocks
    | (show kindsIn _ _ = true; rfl)
    | split
    | dsimp only
    | intro _)

theorem startReduce_changes (s : State) (c : Cmd) (k : Chan) :
    Changes [.draws, .od, .memory, .sectors, .accumulators, .commands, .tallies, .engines, .fabric, .ports, .channels, .power, .recorder, .tests, .access, .link, .drains, .output] s (startReduce s c k) := by
  unfold startReduce
  repeat' (first
    | with_reducible exact Changes.refl
    | with_reducible assumption
    | ((with_reducible apply Changes.step (broadcast_changes _ _ _)); rfl)
    | ((with_reducible apply Changes.step (failCmd_changes _ _ _ _ _)); rfl)
    | ((with_reducible apply Changes.step (pumpReduce_changes _ _)); rfl)
    | ((with_reducible apply Changes.step (startColl_changes _ _ _ _ _)); rfl)
    | with_reducible apply unlessBlocked_changes
    | (show kindsIn _ _ = true; rfl)
    | split
    | dsimp only
    | intro _
    | with_reducible refine Changes.update ?_)

theorem execReduce_changes (u q : Nat) (s : State) {t : State} (h : execReduce u q s = .next t) :
    Changes [.draws, .od, .memory, .sectors, .accumulators, .commands, .tallies, .engines, .fabric, .ports, .channels, .power, .recorder, .tests, .access, .link, .drains, .output] s t := by
  unfold execReduce at h
  injection h with h
  subst h
  repeat' (first
    | with_reducible exact Changes.refl
    | with_reducible assumption
    | (with_reducible apply localWrite_changes)
    | ((with_reducible apply Changes.step (pumpReduce_changes _ _)); rfl)
    | ((with_reducible apply Changes.step (startReduce_changes _ _ _)); rfl)
    | (show kindsIn _ _ = true; rfl)
    | split
    | dsimp only
    | intro _
    | with_reducible refine Changes.update ?_)

theorem landImage_changes (s : State) (w : CmdWord) (base off : Nat) (d : List Byte) (bad : List (Nat × Nat)) :
    Changes [.memory, .sectors] s (landImage s w base off d bad) := by
  unfold landImage
  repeat' (first
    | with_reducible exact Changes.refl
    | with_reducible assumption
    | ((with_reducible apply Changes.step (memWriteBad_changes _ _ _ _)); rfl)
    | (show kindsIn _ _ = true; rfl)
    | split
    | dsimp only
    | intro _)

theorem pumpGather_changes (x0 : Nat) (s : State) (x2 : Nat) :
    Changes [.draws, .od, .memory, .sectors, .accumulators, .commands, .tallies, .engines, .fabric, .ports, .channels, .power, .recorder, .tests, .access, .link, .drains, .output] s (pumpGather x0 s x2) := by
  induction x0 generalizing s x2 with
  | zero => exact Changes.refl
  | succ n ih =>
    unfold pumpGather
    repeat' (first
      | with_reducible exact Changes.refl
      | with_reducible assumption
      | ((with_reducible apply Changes.step (ih _ _)); rfl)
      | ((with_reducible apply Changes.step (finishColl_changes _ _ _)); rfl)
      | ((with_reducible apply Changes.step (originate_changes _ _ _ _ _ _ _)); rfl)
      | ((with_reducible apply Changes.step (putChan_changes _ _)); rfl)
      | with_reducible apply unlessBlocked_changes
      | (show kindsIn _ _ = true; rfl)
      | split
      | dsimp only
      | intro _
      | with_reducible refine Changes.update ?_)

theorem ownImage_changes (s : State) (w : CmdWord) (rank : Nat) :
    Changes [.memory, .sectors] s (ownImage s w rank) := by
  unfold ownImage
  repeat' (first
    | with_reducible exact Changes.refl
    | with_reducible assumption
    | ((with_reducible apply Changes.step (landImage_changes _ _ _ _ _ _)); rfl)
    | (show kindsIn _ _ = true; rfl)
    | split
    | dsimp only
    | intro _)

theorem startGather_changes (s : State) (c : Cmd) (k : Chan) :
    Changes [.draws, .od, .memory, .sectors, .accumulators, .commands, .tallies, .engines, .fabric, .ports, .channels, .power, .recorder, .tests, .access, .link, .drains, .output] s (startGather s c k) := by
  unfold startGather
  repeat' (first
    | with_reducible exact Changes.refl
    | with_reducible assumption
    | ((with_reducible apply Changes.step (ownImage_changes _ _ _)); rfl)
    | ((with_reducible apply Changes.step (pumpGather_changes _ _ _)); rfl)
    | ((with_reducible apply Changes.step (startColl_changes _ _ _ _ _)); rfl)
    | with_reducible apply unlessBlocked_changes
    | (show kindsIn _ _ = true; rfl)
    | split
    | dsimp only
    | intro _
    | with_reducible refine Changes.update ?_)

theorem execGather_changes (u q : Nat) (s : State) {t : State} (h : execGather u q s = .next t) :
    Changes [.draws, .od, .memory, .sectors, .accumulators, .commands, .tallies, .engines, .fabric, .ports, .channels, .power, .recorder, .tests, .access, .link, .drains, .output] s t := by
  unfold execGather at h
  injection h with h
  subst h
  repeat' (first
    | with_reducible exact Changes.refl
    | with_reducible assumption
    | (with_reducible apply localWrite_changes)
    | ((with_reducible apply Changes.step (pumpGather_changes _ _ _)); rfl)
    | ((with_reducible apply Changes.step (startGather_changes _ _ _)); rfl)
    | (show kindsIn _ _ = true; rfl)
    | split
    | dsimp only
    | intro _
    | with_reducible refine Changes.update ?_)

theorem stagePiece_changes (s : State) (k : Chan) (r : Coll) :
    Changes [.draws, .od, .memory, .sectors, .fabric, .ports, .channels, .recorder, .access, .output] s (stagePiece s k r) := by
  unfold stagePiece
  repeat' (first
    | with_reducible exact Changes.refl
    | with_reducible assumption
    | ((with_reducible apply Changes.step (memWriteBad_changes _ _ _ _)); rfl)
    | ((with_reducible apply Changes.step (originate_changes _ _ _ _ _ _ _)); rfl)
    | ((with_reducible apply Changes.step (putChan_changes _ _)); rfl)
    | (show kindsIn _ _ = true; rfl)
    | split
    | dsimp only
    | intro _
    | with_reducible refine Changes.update ?_)

theorem sendPiece_changes (s : State) (k : Chan) (r : Coll) (p : Nat) :
    Changes [.draws, .od, .fabric, .ports, .recorder, .access, .output] s (sendPiece s k r p) := by
  unfold sendPiece
  repeat' (first
    | with_reducible exact Changes.refl
    | with_reducible assumption
    | ((with_reducible apply Changes.step (originate_changes _ _ _ _ _ _ _)); rfl)
    | with_reducible apply Changes.foldl
    | with_reducible apply Changes.foldl_fst
    | with_reducible apply Changes.foldl_snd
    | with_reducible apply Changes.foldl_trd
    | with_reducible apply Changes.foldl_run
    | with_reducible apply Changes.foldl_deep
    | with_reducible apply Changes.foldl_lane
    | with_reducible apply Changes.foldl_blocks
    | (show kindsIn _ _ = true; rfl)
    | split
    | dsimp only
    | intro _)

theorem pumpPermute_changes (x0 : Nat) (s : State) (x2 : Nat) :
    Changes [.draws, .od, .memory, .sectors, .accumulators, .commands, .tallies, .engines, .fabric, .ports, .channels, .power, .recorder, .tests, .access, .link, .drains, .output] s (pumpPermute x0 s x2) := by
  induction x0 generalizing s x2 with
  | zero => exact Changes.refl
  | succ n ih =>
    unfold pumpPermute
    repeat' (first
      | with_reducible exact Changes.refl
      | with_reducible assumption
      | ((with_reducible apply Changes.step (ih _ _)); rfl)
      | ((with_reducible apply Changes.step (finishColl_changes _ _ _)); rfl)
      | ((with_reducible apply Changes.step (putChan_changes _ _)); rfl)
      | ((with_reducible apply Changes.step (sendPiece_changes _ _ _ _)); rfl)
      | ((with_reducible apply Changes.step (stagePiece_changes _ _ _)); rfl)
      | with_reducible apply unlessBlocked_changes
      | (show kindsIn _ _ = true; rfl)
      | split
      | dsimp only
      | intro _)

theorem unlessVacated_changes {K : List Kind} {s0 go : State} {v : Option Nat} {fail : Nat → State} (h : Changes K s0 go)
    (hf : ∀ a, Changes K s0 (fail a)) : Changes K s0 (unlessVacated v fail go) := by
  unfold unlessVacated
  split
  · exact hf _
  · exact h

theorem startPermute_changes (s : State) (c : Cmd) (k : Chan) :
    Changes [.draws, .od, .memory, .sectors, .accumulators, .commands, .tallies, .engines, .fabric, .ports, .channels, .power, .recorder, .tests, .access, .link, .drains, .output] s (startPermute s c k) := by
  unfold startPermute
  repeat' (first
    | with_reducible exact Changes.refl
    | with_reducible assumption
    | ((with_reducible apply Changes.step (faultCmd_changes _ _ _ _ _)); rfl)
    | ((with_reducible apply Changes.step (finishColl_changes _ _ _)); rfl)
    | ((with_reducible apply Changes.step (pumpPermute_changes _ _ _)); rfl)
    | ((with_reducible apply Changes.step (startColl_changes _ _ _ _ _)); rfl)
    | (with_reducible apply unlessVacated_changes)
    | (show kindsIn _ _ = true; rfl)
    | split
    | dsimp only
    | intro _)

theorem execPermute_changes (u q : Nat) (s : State) {t : State} (h : execPermute u q s = .next t) :
    Changes [.draws, .od, .memory, .sectors, .accumulators, .commands, .tallies, .engines, .fabric, .ports, .channels, .power, .recorder, .tests, .access, .link, .drains, .output] s t := by
  unfold execPermute at h
  injection h with h
  subst h
  repeat' (first
    | with_reducible exact Changes.refl
    | with_reducible assumption
    | ((with_reducible apply Changes.step (pumpPermute_changes _ _ _)); rfl)
    | ((with_reducible apply Changes.step (startPermute_changes _ _ _)); rfl)
    | (show kindsIn _ _ = true; rfl)
    | split
    | dsimp only
    | intro _)

theorem pumpChan_changes (s : State) (ch : Nat) :
    Changes [.draws, .od, .memory, .sectors, .accumulators, .commands, .tallies, .engines, .fabric, .ports, .channels, .power, .recorder, .tests, .access, .link, .drains, .output] s (pumpChan s ch) := by
  unfold pumpChan
  repeat' (first
    | with_reducible exact Changes.refl
    | with_reducible assumption
    | ((with_reducible apply Changes.step (pumpGather_changes _ _ _)); rfl)
    | ((with_reducible apply Changes.step (pumpPermute_changes _ _ _)); rfl)
    | ((with_reducible apply Changes.step (pumpReduce_changes _ _)); rfl)
    | (show kindsIn _ _ = true; rfl)
    | split
    | dsimp only
    | intro _
    | with_reducible refine Changes.update ?_)

theorem pumpChans_changes (s : State) :
    Changes [.draws, .od, .memory, .sectors, .accumulators, .commands, .tallies, .engines, .fabric, .ports, .channels, .power, .recorder, .tests, .access, .link, .drains, .output] s (pumpChans s) := by
  unfold pumpChans
  repeat' (first
    | with_reducible exact Changes.refl
    | with_reducible assumption
    | ((with_reducible apply Changes.step (pumpChan_changes _ _)); rfl)
    | with_reducible apply Changes.foldl
    | with_reducible apply Changes.foldl_fst
    | with_reducible apply Changes.foldl_snd
    | with_reducible apply Changes.foldl_trd
    | with_reducible apply Changes.foldl_run
    | with_reducible apply Changes.foldl_deep
    | with_reducible apply Changes.foldl_lane
    | with_reducible apply Changes.foldl_blocks
    | (show kindsIn _ _ = true; rfl)
    | split
    | dsimp only
    | intro _)

theorem nakMsg_changes (s : State) (r : RecvCtx) (reason : Nat) :
    Changes [.draws, .od, .fabric, .ports, .recorder, .access, .output] s (nakMsg s r reason) := by
  unfold nakMsg
  repeat' (first
    | with_reducible exact Changes.refl
    | with_reducible assumption
    | ((with_reducible apply Changes.step (answerMsg_changes _ _ _)); rfl)
    | (show kindsIn _ _ = true; rfl)
    | split
    | dsimp only
    | intro _)

theorem ackMsg_changes (s : State) (r : RecvCtx) :
    Changes [.draws, .od, .fabric, .ports, .recorder, .access, .output] s (ackMsg s r) := by
  unfold ackMsg
  repeat' (first
    | with_reducible exact Changes.refl
    | with_reducible assumption
    | ((with_reducible apply Changes.step (answerMsg_changes _ _ _)); rfl)
    | (show kindsIn _ _ = true; rfl)
    | split
    | dsimp only
    | intro _)

theorem landOr_changes {K : List Kind} {e s : State} {m : RecvCtx} {acc : Accept} {a n : Nat} {go : State} (h : Changes K e s)
    (hg : Changes K e go) (hk : kindsIn [.draws, .od, .memory, .sectors, .accumulators, .commands, .tallies, .engines, .fabric, .ports, .channels, .power, .recorder, .tests, .access, .link, .drains, .output] K = true) :
    Changes K e (landOr s m acc a n go) := by
  have hn := (nakMsg_changes s m nakADDRESS).mono (kindsIn_trans (by rfl : kindsIn _ [.draws, .od, .memory, .sectors, .accumulators, .commands, .tallies, .engines, .fabric, .ports, .channels, .power, .recorder, .tests, .access, .link, .drains, .output] = true) hk)
  unfold landOr
  split
  · exact hg
  · dsimp only
    split
    · exact unlessBlocked_changes (h.trans hn) (h.trans hn) (kindsIn_trans (by rfl : kindsIn _ [.draws, .od, .memory, .sectors, .accumulators, .commands, .tallies, .engines, .fabric, .ports, .channels, .power, .recorder, .tests, .access, .link, .drains, .output] = true) hk)
    · exact h.trans hn

theorem takeCopy_changes (s : State) (k : Chan) (m : RecvCtx) (c area faults : Nat) :
    Changes [.draws, .od, .memory, .sectors, .channels, .recorder, .access, .output] s (takeCopy s k m c area faults) := by
  unfold takeCopy
  repeat' (first
    | with_reducible exact Changes.refl
    | with_reducible assumption
    | ((with_reducible apply Changes.step (countNonFinite_changes _ _ _)); rfl)
    | ((with_reducible apply Changes.step (fileReport_changes _ _)); rfl)
    | ((with_reducible apply Changes.step (memWrite_changes _ _ _)); rfl)
    | ((with_reducible apply Changes.step (putChan_changes _ _)); rfl)
    | (show kindsIn _ _ = true; rfl)
    | split
    | dsimp only
    | intro _
    | with_reducible refine Changes.update ?_)

theorem lateCopy_changes (s : State) (k : Chan) (m : RecvCtx) (area : Nat) :
    Changes [.draws, .od, .fabric, .ports, .recorder, .access, .output] s (lateCopy s k m area) := by
  unfold lateCopy
  repeat' (first
    | with_reducible exact Changes.refl
    | with_reducible assumption
    | ((with_reducible apply Changes.step (ackMsg_changes _ _)); rfl)
    | ((with_reducible apply Changes.step (countNonFinite_changes _ _ _)); rfl)
    | ((with_reducible apply Changes.step (odBump_changes _ _ _ _)); rfl)
    | (show kindsIn _ _ = true; rfl)
    | split
    | dsimp only
    | intro _)

theorem reduceUpMsg_changes (s : State) (k : Chan) (m : RecvCtx) (faults : Nat) :
    Changes [.draws, .od, .memory, .sectors, .accumulators, .commands, .tallies, .engines, .fabric, .ports, .channels, .power, .recorder, .tests, .access, .link, .drains, .output] s (reduceUpMsg s k m faults) := by
  unfold reduceUpMsg
  repeat' (first
    | with_reducible exact Changes.refl
    | with_reducible assumption
    | ((with_reducible apply Changes.step (ackMsg_changes _ _)); rfl)
    | ((with_reducible apply Changes.step (busyMsg_changes _ _)); rfl)
    | with_reducible apply landOr_changes
    | ((with_reducible apply Changes.step (lateCopy_changes _ _ _ _)); rfl)
    | (with_reducible apply localWrite_changes)
    | ((with_reducible apply Changes.step (nakMsg_changes _ _ _)); rfl)
    | ((with_reducible apply Changes.step (pumpReduce_changes _ _)); rfl)
    | ((with_reducible apply Changes.step (takeCopy_changes _ _ _ _ _ _)); rfl)
    | (show kindsIn _ _ = true; rfl)
    | split
    | dsimp only
    | intro _
    | with_reducible refine Changes.update ?_)

theorem collMessage_changes {K : List Kind} {s0 : State} {s : State} (spkg msgid kind : Nat) (f : State → Chan → RecvCtx → State) (hK : kindsIn [.draws, .od, .fabric, .ports, .recorder, .access, .output] K = true) (h : Changes K s0 s)
    (hf : ∀ e x0 x1, Changes K e (f e x0 x1)) : Changes K s0 (collMessage s spkg msgid kind f) := by
  unfold collMessage
  repeat' (first
    | exact h
    | with_reducible assumption
    | ((with_reducible apply Changes.step (busyMsg_changes _ _)); exact kindsIn_trans rfl hK)
    | ((with_reducible apply Changes.step (crcMsg_changes _ _)); exact kindsIn_trans rfl hK)
    | ((with_reducible apply Changes.step (nakMsg_changes _ _ _)); exact kindsIn_trans rfl hK)
    | with_reducible refine Changes.trans ?_ (hf _ _ _)
    | split
    | dsimp only
    | intro _)

theorem execReduceUp_changes (spkg msgid adderFault : Nat) (s : State) {t : State} (h : execReduceUp spkg msgid adderFault s = .next t) :
    Changes [.draws, .od, .memory, .sectors, .accumulators, .commands, .tallies, .engines, .fabric, .ports, .channels, .power, .recorder, .tests, .access, .link, .drains, .output] s t := by
  unfold execReduceUp at h
  injection h with h
  subst h
  repeat' (first
    | with_reducible exact Changes.refl
    | with_reducible assumption
    | (with_reducible apply collMessage_changes)
    | ((with_reducible apply Changes.step (reduceUpMsg_changes _ _ _ _)); rfl)
    | (show kindsIn _ _ = true; rfl)
    | split
    | dsimp only
    | intro _)

theorem reduceDownMsg_changes (s : State) (k : Chan) (m : RecvCtx) :
    Changes [.draws, .od, .memory, .sectors, .accumulators, .commands, .tallies, .engines, .fabric, .ports, .channels, .power, .recorder, .tests, .access, .link, .drains, .output] s (reduceDownMsg s k m) := by
  unfold reduceDownMsg
  repeat' (first
    | with_reducible exact Changes.refl
    | with_reducible assumption
    | ((with_reducible apply Changes.step (ackMsg_changes _ _)); rfl)
    | ((with_reducible apply Changes.step (busyMsg_changes _ _)); rfl)
    | ((with_reducible apply Changes.step (countNonFinite_changes _ _ _)); rfl)
    | with_reducible apply landOr_changes
    | (with_reducible apply localWrite_changes)
    | ((with_reducible apply Changes.step (memWriteBad_changes _ _ _ _)); rfl)
    | ((with_reducible apply Changes.step (nakMsg_changes _ _ _)); rfl)
    | ((with_reducible apply Changes.step (pumpReduce_changes _ _)); rfl)
    | ((with_reducible apply Changes.step (putChan_changes _ _)); rfl)
    | ((with_reducible apply Changes.step (sendDown_changes _ _ _ _ _ _ _)); rfl)
    | (show kindsIn _ _ = true; rfl)
    | split
    | dsimp only
    | intro _
    | with_reducible refine Changes.update ?_)

theorem execReduceDown_changes (spkg msgid : Nat) (s : State) {t : State} (h : execReduceDown spkg msgid s = .next t) :
    Changes [.draws, .od, .memory, .sectors, .accumulators, .commands, .tallies, .engines, .fabric, .ports, .channels, .power, .recorder, .tests, .access, .link, .drains, .output] s t := by
  unfold execReduceDown at h
  injection h with h
  subst h
  repeat' (first
    | with_reducible exact Changes.refl
    | with_reducible assumption
    | (with_reducible apply collMessage_changes)
    | ((with_reducible apply Changes.step (reduceDownMsg_changes _ _ _)); rfl)
    | (show kindsIn _ _ = true; rfl)
    | split
    | dsimp only
    | intro _)

theorem landStraddle_changes (s : State) (k : Chan) (w : CmdWord) (rank m : Nat) :
    Changes [.memory, .sectors] s (landStraddle s k w rank m) := by
  unfold landStraddle
  repeat' (first
    | with_reducible exact Changes.refl
    | with_reducible assumption
    | ((with_reducible apply Changes.step (memWrite_changes _ _ _)); rfl)
    | (show kindsIn _ _ = true; rfl)
    | split
    | dsimp only
    | intro _)

theorem gatherMsg_changes (s : State) (k : Chan) (m : RecvCtx) :
    Changes [.draws, .od, .memory, .sectors, .accumulators, .commands, .tallies, .engines, .fabric, .ports, .channels, .power, .recorder, .tests, .access, .link, .drains, .output] s (gatherMsg s k m) := by
  unfold gatherMsg
  repeat' (first
    | with_reducible exact Changes.refl
    | with_reducible assumption
    | ((with_reducible apply Changes.step (ackMsg_changes _ _)); rfl)
    | ((with_reducible apply Changes.step (busyMsg_changes _ _)); rfl)
    | ((with_reducible apply Changes.step (landImage_changes _ _ _ _ _ _)); rfl)
    | with_reducible apply landOr_changes
    | ((with_reducible apply Changes.step (landStraddle_changes _ _ _ _ _)); rfl)
    | (with_reducible apply localWrite_changes)
    | ((with_reducible apply Changes.step (nakMsg_changes _ _ _)); rfl)
    | ((with_reducible apply Changes.step (pumpGather_changes _ _ _)); rfl)
    | ((with_reducible apply Changes.step (putChan_changes _ _)); rfl)
    | (show kindsIn _ _ = true; rfl)
    | split
    | dsimp only
    | intro _
    | with_reducible refine Changes.update ?_)

theorem execGatherMessage_changes (spkg msgid : Nat) (s : State) {t : State} (h : execGatherMessage spkg msgid s = .next t) :
    Changes [.draws, .od, .memory, .sectors, .accumulators, .commands, .tallies, .engines, .fabric, .ports, .channels, .power, .recorder, .tests, .access, .link, .drains, .output] s t := by
  unfold execGatherMessage at h
  injection h with h
  subst h
  repeat' (first
    | with_reducible exact Changes.refl
    | with_reducible assumption
    | (with_reducible apply collMessage_changes)
    | ((with_reducible apply Changes.step (gatherMsg_changes _ _ _)); rfl)
    | (show kindsIn _ _ = true; rfl)
    | split
    | dsimp only
    | intro _)

theorem permuteMsg_changes (s : State) (k : Chan) (m : RecvCtx) :
    Changes [.draws, .od, .memory, .sectors, .accumulators, .commands, .tallies, .engines, .fabric, .ports, .channels, .power, .recorder, .tests, .access, .link, .drains, .output] s (permuteMsg s k m) := by
  unfold permuteMsg
  repeat' (first
    | with_reducible exact Changes.refl
    | with_reducible assumption
    | ((with_reducible apply Changes.step (ackMsg_changes _ _)); rfl)
    | ((with_reducible apply Changes.step (busyMsg_changes _ _)); rfl)
    | with_reducible apply landOr_changes
    | (with_reducible apply localWrite_changes)
    | ((with_reducible apply Changes.step (memWriteBad_changes _ _ _ _)); rfl)
    | ((with_reducible apply Changes.step (nakMsg_changes _ _ _)); rfl)
    | ((with_reducible apply Changes.step (pumpPermute_changes _ _ _)); rfl)
    | ((with_reducible apply Changes.step (putChan_changes _ _)); rfl)
    | (show kindsIn _ _ = true; rfl)
    | split
    | dsimp only
    | intro _
    | with_reducible refine Changes.update ?_)

theorem execPermuteMessage_changes (spkg msgid : Nat) (s : State) {t : State} (h : execPermuteMessage spkg msgid s = .next t) :
    Changes [.draws, .od, .memory, .sectors, .accumulators, .commands, .tallies, .engines, .fabric, .ports, .channels, .power, .recorder, .tests, .access, .link, .drains, .output] s t := by
  unfold execPermuteMessage at h
  injection h with h
  subst h
  repeat' (first
    | with_reducible exact Changes.refl
    | with_reducible assumption
    | (with_reducible apply collMessage_changes)
    | ((with_reducible apply Changes.step (permuteMsg_changes _ _ _)); rfl)
    | (show kindsIn _ _ = true; rfl)
    | split
    | dsimp only
    | intro _)

theorem execLateLimit_changes (chan chunk : Nat) (right : Bool) (s : State) {t : State} (h : execLateLimit chan chunk right s = .next t) :
    Changes [.draws, .od, .memory, .sectors, .accumulators, .commands, .tallies, .engines, .fabric, .ports, .channels, .power, .recorder, .tests, .access, .link, .drains, .output] s t := by
  unfold execLateLimit at h
  injection h with h
  subst h
  repeat' (first
    | with_reducible exact Changes.refl
    | with_reducible assumption
    | ((with_reducible apply Changes.step (pumpReduce_changes _ _)); rfl)
    | ((with_reducible apply Changes.step (putChan_changes _ _)); rfl)
    | (show kindsIn _ _ = true; rfl)
    | split
    | dsimp only
    | intro _
    | with_reducible refine Changes.update ?_)

theorem execCollectiveLimit_changes (chan : Nat) (s : State) {t : State} (h : execCollectiveLimit chan s = .next t) :
    Changes [.draws, .od, .memory, .sectors, .accumulators, .commands, .tallies, .engines, .channels, .power, .recorder, .tests, .access, .link, .drains, .output] s t := by
  unfold execCollectiveLimit at h
  injection h with h
  subst h
  repeat' (first
    | with_reducible exact Changes.refl
    | with_reducible assumption
    | ((with_reducible apply Changes.step (failCmd_changes _ _ _ _ _)); rfl)
    | (show kindsIn _ _ = true; rfl)
    | split
    | dsimp only
    | intro _)

end Sys2Proof.Machine
end

