-- ==== Sys2Proof/Laws/FootprintMessages.lean ====
section
/-! SUPPORT. What each function of Machine/Messages.lean can change. -/

set_option Elab.async false

set_option linter.unreachableTactic false
set_option linter.unusedTactic false
set_option linter.unnecessarySeqFocus false

namespace Sys2Proof.Machine

theorem parkOn_changes (s : State) (c : Cmd) (head : Packet) (src : Option Nat) (stored : List Byte) :
    Changes [.draws, .od, .commands, .fabric, .ports, .recorder, .access, .output] s (parkOn s c head src stored) := by
  unfold parkOn
  repeat' (first
    | with_reducible exact Changes.refl
    | with_reducible assumption
    | ((with_reducible apply Changes.step (originate_changes _ _ _ _ _ _ _)); rfl)
    | ((with_reducible apply Changes.step (putCmd_changes _ _)); rfl)
    | (show kindsIn _ _ = true; rfl)
    | split
    | dsimp only
    | intro _
    | with_reducible refine Changes.update ?_)

theorem execPut_changes (u q : Nat) (s : State) {t : State} (h : execPut u q s = .next t) :
    Changes [.draws, .od, .memory, .sectors, .accumulators, .commands, .tallies, .engines, .fabric, .ports, .channels, .power, .recorder, .tests, .access, .link, .drains, .output] s t := by
  unfold execPut at h
  injection h with h
  subst h
  repeat' (first
    | with_reducible exact Changes.refl
    | with_reducible assumption
    | ((with_reducible apply Changes.step (faultCmd_changes _ _ _ _ _)); rfl)
    | ((with_reducible apply Changes.step (parkOn_changes _ _ _ _ _)); rfl)
    | (show kindsIn _ _ = true; rfl)
    | split
    | dsimp only
    | intro _
    | with_reducible refine Changes.update ?_)

theorem execGet_changes (u q : Nat) (s : State) {t : State} (h : execGet u q s = .next t) :
    Changes [.draws, .od, .commands, .fabric, .ports, .recorder, .access, .output] s t := by
  unfold execGet at h
  injection h with h
  subst h
  repeat' (first
    | with_reducible exact Changes.refl
    | with_reducible assumption
    | ((with_reducible apply Changes.step (parkOn_changes _ _ _ _ _)); rfl)
    | (show kindsIn _ _ = true; rfl)
    | split
    | dsimp only
    | intro _
    | with_reducible refine Changes.update ?_)

theorem execAtomic_changes (u q : Nat) (s : State) {t : State} (h : execAtomic u q s = .next t) :
    Changes [.draws, .od, .memory, .sectors, .accumulators, .commands, .tallies, .engines, .fabric, .ports, .channels, .power, .recorder, .tests, .access, .link, .drains, .output] s t := by
  unfold execAtomic at h
  injection h with h
  subst h
  repeat' (first
    | with_reducible exact Changes.refl
    | with_reducible assumption
    | ((with_reducible apply Changes.step (faultCmd_changes _ _ _ _ _)); rfl)
    | ((with_reducible apply Changes.step (parkOn_changes _ _ _ _ _)); rfl)
    | (show kindsIn _ _ = true; rfl)
    | split
    | dsimp only
    | intro _
    | with_reducible refine Changes.update ?_)

theorem execSignal_changes (u q : Nat) (s : State) {t : State} (h : execSignal u q s = .next t) :
    Changes [.draws, .od, .commands, .fabric, .ports, .recorder, .access, .output] s t := by
  unfold execSignal at h
  injection h with h
  subst h
  repeat' (first
    | with_reducible exact Changes.refl
    | with_reducible assumption
    | ((with_reducible apply Changes.step (parkOn_changes _ _ _ _ _)); rfl)
    | (show kindsIn _ _ = true; rfl)
    | split
    | dsimp only
    | intro _
    | with_reducible refine Changes.update ?_)

theorem serveMessage_changes {K : List Kind} {s0 : State} {s : State} (spkg msgid kind : Nat) (f : State → RecvCtx → State) (hK : kindsIn [.draws, .od, .fabric, .ports, .recorder, .access, .output] K = true) (h : Changes K s0 s)
    (hf : ∀ e x0, Changes K e (f e x0)) : Changes K s0 (serveMessage s spkg msgid kind f) := by
  unfold serveMessage
  repeat' (first
    | exact h
    | with_reducible assumption
    | ((with_reducible apply Changes.step (busyMsg_changes _ _)); exact kindsIn_trans rfl hK)
    | ((with_reducible apply Changes.step (crcMsg_changes _ _)); exact kindsIn_trans rfl hK)
    | with_reducible refine Changes.trans ?_ (hf _ _)
    | split
    | dsimp only
    | intro _)

theorem withTally_changes {K : List Kind} {s0 : State} {s : State} (m : RecvCtx) (answer : State → State) (hK : kindsIn [.draws, .od, .tallies, .fabric, .ports, .recorder, .access, .output] K = true) (h : Changes K s0 s)
    (hf : ∀ e, Changes K e (answer e)) : Changes K s0 (withTally s m answer) := by
  unfold withTally
  repeat' (first
    | exact h
    | with_reducible assumption
    | ((with_reducible apply Changes.step (nakMsg_changes _ _ _)); exact kindsIn_trans rfl hK)
    | ((with_reducible apply Changes.step (tallyAdd_changes _ _ _)); exact kindsIn_trans rfl hK)
    | with_reducible refine Changes.trans ?_ (hf _)
    | split
    | dsimp only
    | intro _)

theorem putMsg_changes (s : State) (m : RecvCtx) :
    Changes [.draws, .od, .memory, .sectors, .tallies, .fabric, .ports, .recorder, .access, .link, .output] s (putMsg s m) := by
  unfold putMsg
  repeat' (first
    | with_reducible exact Changes.refl
    | with_reducible assumption
    | ((with_reducible apply Changes.step (ackMsg_changes _ _)); rfl)
    | (with_reducible apply localWrite_changes)
    | ((with_reducible apply Changes.step (memWriteBad_changes _ _ _ _)); rfl)
    | ((with_reducible apply Changes.step (nakMsg_changes _ _ _)); rfl)
    | (with_reducible apply withTally_changes)
    | (show kindsIn _ _ = true; rfl)
    | split
    | dsimp only
    | intro _)

theorem execPutMessage_changes (spkg msgid : Nat) (s : State) {t : State} (h : execPutMessage spkg msgid s = .next t) :
    Changes [.draws, .od, .memory, .sectors, .tallies, .fabric, .ports, .recorder, .access, .link, .output] s t := by
  unfold execPutMessage at h
  injection h with h
  subst h
  repeat' (first
    | with_reducible exact Changes.refl
    | with_reducible assumption
    | ((with_reducible apply Changes.step (putMsg_changes _ _)); rfl)
    | (with_reducible apply serveMessage_changes)
    | (show kindsIn _ _ = true; rfl)
    | split
    | dsimp only
    | intro _)

theorem getMsg_changes (s : State) (m : RecvCtx) :
    Changes [.draws, .od, .fabric, .ports, .recorder, .access, .output] s (getMsg s m) := by
  unfold getMsg
  repeat' (first
    | with_reducible exact Changes.refl
    | with_reducible assumption
    | ((with_reducible apply Changes.step (advanceStream_changes _ _)); rfl)
    | ((with_reducible apply Changes.step (dropRecv_changes _ _ _)); rfl)
    | ((with_reducible apply Changes.step (pumpSends_changes _ _)); rfl)
    | ((with_reducible apply Changes.step (sendResponse_changes _ _)); rfl)
    | with_reducible apply Changes.foldl
    | (show kindsIn _ _ = true; rfl)
    | split
    | dsimp only
    | intro _)

theorem execGetMessage_changes (spkg msgid : Nat) (s : State) {t : State} (h : execGetMessage spkg msgid s = .next t) :
    Changes [.draws, .od, .fabric, .ports, .recorder, .access, .output] s t := by
  unfold execGetMessage at h
  injection h with h
  subst h
  repeat' (first
    | with_reducible exact Changes.refl
    | with_reducible assumption
    | ((with_reducible apply Changes.step (getMsg_changes _ _)); rfl)
    | (with_reducible apply serveMessage_changes)
    | (show kindsIn _ _ = true; rfl)
    | split
    | dsimp only
    | intro _)

theorem atomicMsg_changes (s : State) (m : RecvCtx) :
    Changes [.draws, .od, .memory, .sectors, .tallies, .fabric, .ports, .recorder, .access, .link, .output] s (atomicMsg s m) := by
  unfold atomicMsg
  repeat' (first
    | with_reducible exact Changes.refl
    | with_reducible assumption
    | ((with_reducible apply Changes.step (answerMsg_changes _ _ _)); rfl)
    | (with_reducible apply localWrite_changes)
    | ((with_reducible apply Changes.step (memPut_changes _ _ _ _)); rfl)
    | ((with_reducible apply Changes.step (nakMsg_changes _ _ _)); rfl)
    | ((with_reducible apply Changes.step (tallyAdd_changes _ _ _)); rfl)
    | (with_reducible apply withTally_changes)
    | (show kindsIn _ _ = true; rfl)
    | split
    | dsimp only
    | intro _
    | with_reducible refine Changes.update ?_)

theorem execAtomicMessage_changes (spkg msgid : Nat) (s : State) {t : State} (h : execAtomicMessage spkg msgid s = .next t) :
    Changes [.draws, .od, .memory, .sectors, .tallies, .fabric, .ports, .recorder, .access, .link, .output] s t := by
  unfold execAtomicMessage at h
  injection h with h
  subst h
  repeat' (first
    | with_reducible exact Changes.refl
    | with_reducible assumption
    | ((with_reducible apply Changes.step (atomicMsg_changes _ _)); rfl)
    | (with_reducible apply serveMessage_changes)
    | (show kindsIn _ _ = true; rfl)
    | split
    | dsimp only
    | intro _)

theorem controlMsg_changes (s : State) (m : RecvCtx) :
    Changes [.draws, .od, .memory, .sectors, .tallies, .fabric, .ports, .recorder, .access, .link, .output] s (controlMsg s m) := by
  unfold controlMsg
  repeat' (first
    | with_reducible exact Changes.refl
    | with_reducible assumption
    | ((with_reducible apply Changes.step (ackMsg_changes _ _)); rfl)
    | ((with_reducible apply Changes.step (busyMsg_changes _ _)); rfl)
    | (with_reducible apply localWrite_changes)
    | ((with_reducible apply Changes.step (memPut_changes _ _ _ _)); rfl)
    | ((with_reducible apply Changes.step (nakMsg_changes _ _ _)); rfl)
    | ((with_reducible apply Changes.step (odSet_changes _ _ _ _)); rfl)
    | ((with_reducible apply Changes.step (raiseVector_changes _ _)); rfl)
    | (with_reducible apply withTally_changes)
    | (show kindsIn _ _ = true; rfl)
    | split
    | dsimp only
    | intro _)

theorem execControlMessage_changes (spkg msgid : Nat) (s : State) {t : State} (h : execControlMessage spkg msgid s = .next t) :
    Changes [.draws, .od, .memory, .sectors, .tallies, .fabric, .ports, .recorder, .access, .link, .output] s t := by
  unfold execControlMessage at h
  injection h with h
  subst h
  repeat' (first
    | with_reducible exact Changes.refl
    | with_reducible assumption
    | ((with_reducible apply Changes.step (controlMsg_changes _ _)); rfl)
    | (with_reducible apply serveMessage_changes)
    | (show kindsIn _ _ = true; rfl)
    | split
    | dsimp only
    | intro _)

theorem failMsg_changes (s : State) (m : SendMsg) (status code unitCore detail : Nat) :
    Changes [.draws, .od, .memory, .sectors, .accumulators, .commands, .tallies, .engines, .fabric, .ports, .channels, .power, .recorder, .tests, .access, .link, .drains, .output] s (failMsg s m status code unitCore detail) := by
  unfold failMsg
  repeat' (first
    | with_reducible exact Changes.refl
    | with_reducible assumption
    | ((with_reducible apply Changes.step (completeCmd_changes _ _ _ _)); rfl)
    | ((with_reducible apply Changes.step (dropSend_changes _ _)); rfl)
    | ((with_reducible apply Changes.step (failCmd_changes _ _ _ _ _)); rfl)
    | ((with_reducible apply Changes.step (fileReport_changes _ _)); rfl)
    | ((with_reducible apply Changes.step (odBump_changes _ _ _ _)); rfl)
    | ((with_reducible apply Changes.step (stopContext_changes _ _ _ _)); rfl)
    | (show kindsIn _ _ = true; rfl)
    | split
    | dsimp only
    | intro _)

theorem inboxDrop_changes (s : State) (p : Packet) :
    Changes [.fabric] s (inboxDrop s p) := by
  unfold inboxDrop
  repeat' (first
    | with_reducible exact Changes.refl
    | with_reducible assumption
    | (show kindsIn _ _ = true; rfl)
    | split
    | dsimp only
    | intro _
    | with_reducible refine Changes.update ?_)

theorem onAnswer_changes {K : List Kind} {s0 : State} {s : State} (msgid kind op : Nat) (f : State → SendMsg → Packet → State) (hK : kindsIn [.fabric] K = true) (h : Changes K s0 s)
    (hf : ∀ e x0 x1, Changes K e (f e x0 x1)) : Changes K s0 (onAnswer s msgid kind op f) := by
  unfold onAnswer
  repeat' (first
    | exact h
    | with_reducible assumption
    | ((with_reducible apply Changes.step (inboxDrop_changes _ _)); exact kindsIn_trans rfl hK)
    | with_reducible refine Changes.trans ?_ (hf _ _ _)
    | split
    | dsimp only
    | intro _)

theorem ackDone_changes (s : State) (m : SendMsg) (p : Packet) :
    Changes [.draws, .od, .memory, .sectors, .accumulators, .commands, .tallies, .engines, .fabric, .ports, .channels, .power, .recorder, .tests, .access, .link, .drains, .output] s (ackDone s m p) := by
  unfold ackDone
  repeat' (first
    | with_reducible exact Changes.refl
    | with_reducible assumption
    | ((with_reducible apply Changes.step (dropSend_changes _ _)); rfl)
    | ((with_reducible apply Changes.step (faultCmd_changes _ _ _ _ _)); rfl)
    | ((with_reducible apply Changes.step (finishCmd_changes _ _ _)); rfl)
    | ((with_reducible apply Changes.step (memPut_changes _ _ _ _)); rfl)
    | ((with_reducible apply Changes.step (pumpChan_changes _ _)); rfl)
    | ((with_reducible apply Changes.step (sealedFault_changes _ _ _)); rfl)
    | (show kindsIn _ _ = true; rfl)
    | split
    | dsimp only
    | intro _)

theorem execAck_changes (msgid : Nat) (s : State) {t : State} (h : execAck msgid s = .next t) :
    Changes [.draws, .od, .memory, .sectors, .accumulators, .commands, .tallies, .engines, .fabric, .ports, .channels, .power, .recorder, .tests, .access, .link, .drains, .output] s t := by
  unfold execAck at h
  injection h with h
  subst h
  repeat' (first
    | with_reducible exact Changes.refl
    | with_reducible assumption
    | ((with_reducible apply Changes.step (ackDone_changes _ _ _)); rfl)
    | (with_reducible apply localWrite_changes)
    | (with_reducible apply onAnswer_changes)
    | (show kindsIn _ _ = true; rfl)
    | split
    | dsimp only
    | intro _)

theorem unlessGone_changes {K : List Kind} {e s : State} {m : SendMsg} {f : State → State} (h : Changes K e s) (hf : Changes K e (f s))
    (hk : kindsIn [.draws, .od, .memory, .sectors, .accumulators, .commands, .tallies, .engines, .fabric, .ports, .channels, .power, .recorder, .tests, .access, .link, .drains, .output] K = true) :
    Changes K e (unlessGone s m f) := by
  have hd := (dropSend_changes s m.msgid).mono (kindsIn_trans (by rfl : kindsIn _ [.draws, .od, .memory, .sectors, .accumulators, .commands, .tallies, .engines, .fabric, .ports, .channels, .power, .recorder, .tests, .access, .link, .drains, .output] = true) hk)
  unfold unlessGone
  split
  · split
    · exact (h.trans hd).trans ((faultCmd_changes _ _ _ _ _).mono (kindsIn_trans (by rfl : kindsIn _ [.draws, .od, .memory, .sectors, .accumulators, .commands, .tallies, .engines, .fabric, .ports, .channels, .power, .recorder, .tests, .access, .link, .drains, .output] = true) hk))
    · exact h.trans hd
  · exact hf

theorem execNakBusy_changes (msgid : Nat) (s : State) {t : State} (h : execNakBusy msgid s = .next t) :
    Changes [.draws, .od, .memory, .sectors, .accumulators, .commands, .tallies, .engines, .fabric, .ports, .channels, .power, .recorder, .tests, .access, .link, .drains, .output] s t := by
  unfold execNakBusy at h
  injection h with h
  subst h
  repeat' (first
    | with_reducible exact Changes.refl
    | with_reducible assumption
    | (with_reducible apply onAnswer_changes)
    | ((with_reducible apply Changes.step (transmit_changes _ _ _)); rfl)
    | with_reducible apply unlessGone_changes
    | (show kindsIn _ _ = true; rfl)
    | split
    | dsimp only
    | intro _)

theorem execNakNoroute_changes (msgid : Nat) (s : State) {t : State} (h : execNakNoroute msgid s = .next t) :
    Changes [.fabric] s t := by
  unfold execNakNoroute at h
  injection h with h
  subst h
  repeat' (first
    | with_reducible exact Changes.refl
    | with_reducible assumption
    | (with_reducible apply onAnswer_changes)
    | (show kindsIn _ _ = true; rfl)
    | split
    | dsimp only
    | intro _)

theorem resendOr_changes (s : State) (m : SendMsg) (want : Nat → Bool) :
    Changes [.draws, .od, .memory, .sectors, .accumulators, .commands, .tallies, .engines, .fabric, .ports, .channels, .power, .recorder, .tests, .access, .link, .drains, .output] s (resendOr s m want) := by
  unfold resendOr
  repeat' (first
    | with_reducible exact Changes.refl
    | with_reducible assumption
    | ((with_reducible apply Changes.step (resend_changes _ _ _)); rfl)
    | with_reducible apply unlessGone_changes
    | (show kindsIn _ _ = true; rfl)
    | split
    | dsimp only
    | intro _)

theorem execNakIncomplete_changes (msgid : Nat) (s : State) {t : State} (h : execNakIncomplete msgid s = .next t) :
    Changes [.draws, .od, .memory, .sectors, .accumulators, .commands, .tallies, .engines, .fabric, .ports, .channels, .power, .recorder, .tests, .access, .link, .drains, .output] s t := by
  unfold execNakIncomplete at h
  injection h with h
  subst h
  repeat' (first
    | with_reducible exact Changes.refl
    | with_reducible assumption
    | (with_reducible apply onAnswer_changes)
    | ((with_reducible apply Changes.step (resendOr_changes _ _ _)); rfl)
    | (show kindsIn _ _ = true; rfl)
    | split
    | dsimp only
    | intro _)

theorem execNakCrc_changes (msgid : Nat) (s : State) {t : State} (h : execNakCrc msgid s = .next t) :
    Changes [.draws, .od, .memory, .sectors, .accumulators, .commands, .tallies, .engines, .fabric, .ports, .channels, .power, .recorder, .tests, .access, .link, .drains, .output] s t := by
  unfold execNakCrc at h
  injection h with h
  subst h
  repeat' (first
    | with_reducible exact Changes.refl
    | with_reducible assumption
    | (with_reducible apply onAnswer_changes)
    | ((with_reducible apply Changes.step (resendOr_changes _ _ _)); rfl)
    | (show kindsIn _ _ = true; rfl)
    | split
    | dsimp only
    | intro _)

theorem execNakAddress_changes (msgid : Nat) (s : State) {t : State} (h : execNakAddress msgid s = .next t) :
    Changes [.draws, .od, .memory, .sectors, .accumulators, .commands, .tallies, .engines, .fabric, .ports, .channels, .power, .recorder, .tests, .access, .link, .drains, .output] s t := by
  unfold execNakAddress at h
  injection h with h
  subst h
  repeat' (first
    | with_reducible exact Changes.refl
    | with_reducible assumption
    | ((with_reducible apply Changes.step (failMsg_changes _ _ _ _ _ _)); rfl)
    | (with_reducible apply onAnswer_changes)
    | (show kindsIn _ _ = true; rfl)
    | split
    | dsimp only
    | intro _)

theorem execNakTally_changes (msgid : Nat) (s : State) {t : State} (h : execNakTally msgid s = .next t) :
    Changes [.draws, .od, .memory, .sectors, .accumulators, .commands, .tallies, .engines, .fabric, .ports, .channels, .power, .recorder, .tests, .access, .link, .drains, .output] s t := by
  unfold execNakTally at h
  injection h with h
  subst h
  repeat' (first
    | with_reducible exact Changes.refl
    | with_reducible assumption
    | ((with_reducible apply Changes.step (failMsg_changes _ _ _ _ _ _)); rfl)
    | (with_reducible apply onAnswer_changes)
    | (show kindsIn _ _ = true; rfl)
    | split
    | dsimp only
    | intro _)

theorem execNakPoison_changes (msgid : Nat) (s : State) {t : State} (h : execNakPoison msgid s = .next t) :
    Changes [.draws, .od, .memory, .sectors, .accumulators, .commands, .tallies, .engines, .fabric, .ports, .channels, .power, .recorder, .tests, .access, .link, .drains, .output] s t := by
  unfold execNakPoison at h
  injection h with h
  subst h
  repeat' (first
    | with_reducible exact Changes.refl
    | with_reducible assumption
    | ((with_reducible apply Changes.step (failMsg_changes _ _ _ _ _ _)); rfl)
    | (with_reducible apply onAnswer_changes)
    | (show kindsIn _ _ = true; rfl)
    | split
    | dsimp only
    | intro _)

theorem landGet_changes (s : State) (m : SendMsg) :
    Changes [.draws, .od, .memory, .sectors, .accumulators, .commands, .tallies, .engines, .fabric, .ports, .channels, .power, .recorder, .tests, .access, .link, .drains, .output] s (landGet s m) := by
  unfold landGet
  repeat' (first
    | with_reducible exact Changes.refl
    | with_reducible assumption
    | ((with_reducible apply Changes.step (dropSend_changes _ _)); rfl)
    | ((with_reducible apply Changes.step (faultCmd_changes _ _ _ _ _)); rfl)
    | ((with_reducible apply Changes.step (finishCmd_changes _ _ _)); rfl)
    | ((with_reducible apply Changes.step (memWriteBad_changes _ _ _ _)); rfl)
    | ((with_reducible apply Changes.step (sealedFault_changes _ _ _)); rfl)
    | (show kindsIn _ _ = true; rfl)
    | split
    | dsimp only
    | intro _)

theorem timeoutMsg_changes (s : State) (m : SendMsg) :
    Changes [.draws, .od, .memory, .sectors, .accumulators, .commands, .tallies, .engines, .fabric, .ports, .channels, .power, .recorder, .tests, .access, .link, .drains, .output] s (timeoutMsg s m) := by
  unfold timeoutMsg
  repeat' (first
    | with_reducible exact Changes.refl
    | with_reducible assumption
    | ((with_reducible apply Changes.step (failMsg_changes _ _ _ _ _ _)); rfl)
    | ((with_reducible apply Changes.step (resendOr_changes _ _ _)); rfl)
    | (show kindsIn _ _ = true; rfl)
    | split
    | dsimp only
    | intro _
    | with_reducible refine Changes.update ?_)

theorem getDataDone_changes (s : State) (m : SendMsg) :
    Changes [.draws, .od, .memory, .sectors, .accumulators, .commands, .tallies, .engines, .fabric, .ports, .channels, .power, .recorder, .tests, .access, .link, .drains, .output] s (getDataDone s m) := by
  unfold getDataDone
  repeat' (first
    | with_reducible exact Changes.refl
    | with_reducible assumption
    | ((with_reducible apply Changes.step (dropSend_changes _ _)); rfl)
    | ((with_reducible apply Changes.step (landGet_changes _ _)); rfl)
    | (with_reducible apply localWrite_changes)
    | ((with_reducible apply Changes.step (putSend_changes _ _)); rfl)
    | ((with_reducible apply Changes.step (timeoutMsg_changes _ _)); rfl)
    | (show kindsIn _ _ = true; rfl)
    | split
    | dsimp only
    | intro _
    | with_reducible refine Changes.update ?_)

theorem execGetData_changes (msgid : Nat) (s : State) {t : State} (h : execGetData msgid s = .next t) :
    Changes [.draws, .od, .memory, .sectors, .accumulators, .commands, .tallies, .engines, .fabric, .ports, .channels, .power, .recorder, .tests, .access, .link, .drains, .output] s t := by
  unfold execGetData at h
  injection h with h
  subst h
  repeat' (first
    | with_reducible exact Changes.refl
    | with_reducible assumption
    | ((with_reducible apply Changes.step (getDataDone_changes _ _)); rfl)
    | (show kindsIn _ _ = true; rfl)
    | split
    | dsimp only
    | intro _)

theorem execResendTimer_changes (msgid : Nat) (s : State) {t : State} (h : execResendTimer msgid s = .next t) :
    Changes [.draws, .od, .memory, .sectors, .accumulators, .commands, .tallies, .engines, .fabric, .ports, .channels, .power, .recorder, .tests, .access, .link, .drains, .output] s t := by
  unfold execResendTimer at h
  injection h with h
  subst h
  repeat' (first
    | with_reducible exact Changes.refl
    | with_reducible assumption
    | ((with_reducible apply Changes.step (timeoutMsg_changes _ _)); rfl)
    | (show kindsIn _ _ = true; rfl)
    | split
    | dsimp only
    | intro _
    | with_reducible refine Changes.update ?_)

theorem incomplete_changes (s : State) (r : RecvCtx) :
    Changes [.draws, .od, .fabric, .ports, .recorder, .access, .output] s (incomplete s r) := by
  unfold incomplete
  repeat' (first
    | with_reducible exact Changes.refl
    | with_reducible assumption
    | ((with_reducible apply Changes.step (sendResponse_changes _ _)); rfl)
    | (show kindsIn _ _ = true; rfl)
    | split
    | dsimp only
    | intro _
    | with_reducible refine Changes.update ?_)

theorem execGapTime_changes (spkg msgid : Nat) (s : State) {t : State} (h : execGapTime spkg msgid s = .next t) :
    Changes [.draws, .od, .fabric, .ports, .recorder, .access, .output] s t := by
  unfold execGapTime at h
  injection h with h
  subst h
  repeat' (first
    | with_reducible exact Changes.refl
    | with_reducible assumption
    | ((with_reducible apply Changes.step (incomplete_changes _ _)); rfl)
    | ((with_reducible apply Changes.step (resend_changes _ _ _)); rfl)
    | (show kindsIn _ _ = true; rfl)
    | split
    | dsimp only
    | intro _
    | with_reducible refine Changes.update ?_)

theorem execTombstoneExpiry_changes (spkg msgid : Nat) (s : State) {t : State} (h : execTombstoneExpiry spkg msgid s = .next t) :
    Changes [.fabric] s t := by
  unfold execTombstoneExpiry at h
  injection h with h
  subst h
  repeat' (first
    | with_reducible exact Changes.refl
    | with_reducible assumption
    | (show kindsIn _ _ = true; rfl)
    | split
    | dsimp only
    | intro _
    | with_reducible refine Changes.update ?_)

theorem execStreamRecordFree_changes (source : Bool) (peer vc : Nat) (s : State) {t : State} (h : execStreamRecordFree source peer vc s = .next t) :
    Changes [.draws, .od, .fabric, .ports, .recorder, .access, .output] s t := by
  unfold execStreamRecordFree at h
  injection h with h
  subst h
  repeat' (first
    | with_reducible exact Changes.refl
    | with_reducible assumption
    | ((with_reducible apply Changes.step (pumpSends_changes _ _)); rfl)
    | (show kindsIn _ _ = true; rfl)
    | split
    | dsimp only
    | intro _
    | with_reducible refine Changes.update ?_)

end Sys2Proof.Machine
end

