-- ==== Sys2Proof/Laws/Fabric.lean ====
section
/-! SUPPORT. What routing a packet and answering a message leave of the messages that a package keeps, of its receive contexts and of its
tombstones (R299 to R312). -/

set_option Elab.async false

namespace Sys2Proof.Machine

/-- A kept message without its timer and the answer packets that have landed for it. -/
def SendMsg.bare (m : SendMsg) : SendMsg := { m with sentAt := 0, got := [], gotAt := 0 }

/-- The messages kept are the same but for their timers and landed answer packets, and no new one is numbered. -/
structure Posts (s t : State) : Prop where
  sends : t.sends.map SendMsg.bare = s.sends.map SendMsg.bare
  msgid : t.msgidNext = s.msgidNext

theorem Posts.refl (s : State) : Posts s s := ⟨rfl, rfl⟩
theorem Posts.trans {s t v : State} (h : Posts s t) (g : Posts t v) : Posts s v := ⟨g.sends.trans h.sends, g.msgid.trans h.msgid⟩
theorem Posts.of_eq {s t : State} (h : t.sends = s.sends) (g : t.msgidNext = s.msgidNext) : Posts s t := ⟨by rw [h], g⟩
theorem Posts.foldl {α : Type} {f : State → α → State} (hf : ∀ s a, Posts s (f s a)) (l : List α) (s : State) : Posts s (l.foldl f s) := by
  induction l generalizing s with
  | nil => exact .refl s
  | cons a r ih => exact (hf s a).trans (ih _)

/-- Besides, contexts, tombstones and stream records stay. -/
structure Answers (s t : State) : Prop where
  posts : Posts s t
  recvs : t.recvs = s.recvs
  tombs : t.tombs = s.tombs
  srecs : t.srecs = s.srecs

theorem Answers.refl (s : State) : Answers s s := ⟨.refl s, rfl, rfl, rfl⟩
theorem Answers.trans {s t v : State} (h : Answers s t) (g : Answers t v) : Answers s v :=
  ⟨h.posts.trans g.posts, g.recvs.trans h.recvs, g.tombs.trans h.tombs, g.srecs.trans h.srecs⟩
theorem Answers.foldl {α : Type} {f : State → α → State} (hf : ∀ s a, Answers s (f s a)) (l : List α) (s : State) : Answers s (l.foldl f s) := by
  induction l generalizing s with
  | nil => exact .refl s
  | cons a r ih => exact (hf s a).trans (ih _)

theorem odBump_answers (s : State) (i sub n : Nat) : Answers s (odBump s i sub n) := by
  have h : Kind.fabric.same s (odBump s i sub n) := (odBump_changes s i sub n).same .fabric rfl
  simp only [Kind.same] at h
  exact ⟨.of_eq (by simp [h]) (by simp [h]), by simp [h], by simp [h], by simp [h]⟩

theorem sendOn_answers (s : State) (port : Nat) (p : Packet) : Answers s (sendOn s port p) := by
  unfold sendOn sendSince; dsimp only; split <;> exact ⟨.of_eq rfl rfl, rfl, rfl, rfl⟩

theorem map_bare_mapFirst (p : SendMsg → Bool) (f : SendMsg → SendMsg) (hf : ∀ m, (f m).bare = m.bare) (l : List SendMsg) :
    (mapFirst p f l).map SendMsg.bare = l.map SendMsg.bare := by
  induction l with
  | nil => rfl
  | cons a r ih =>
    unfold mapFirst
    split
    · simp [hf]
    · simp [ih]

theorem takeResponse_answers (s : State) (p : Packet) : Answers s (takeResponse s p) := by
  unfold takeResponse
  split
  · split
    · split
      · exact .refl s
      · split
        · exact odBump_answers _ _ _ _
        · exact ⟨⟨map_bare_mapFirst (fun x => x.msgid == p.msgid) (fun x => { x with got := x.got ++ [p], gotAt := s.uptime }) (fun _ => rfl) s.sends, rfl⟩,
            rfl, rfl, rfl⟩
    · exact .refl s
  · exact ⟨.of_eq rfl rfl, rfl, rfl, rfl⟩

theorem lostResponse_answers (s : State) (p : Packet) : Answers s (lostResponse s p) := by
  unfold lostResponse
  split
  · exact odBump_answers _ _ _ _
  · exact .refl s

theorem sendResponse_answers (s : State) (p : Packet) : Answers s (sendResponse s p) := by
  have h : Answers s (if p.kind = 9 then odBump s 0x5000 0x13 1 else s) := by
    split
    · exact odBump_answers _ _ _ _
    · exact .refl s
  unfold sendResponse
  dsimp only
  split
  · exact h.trans (takeResponse_answers _ _)
  · split
    · exact h.trans (sendOn_answers _ _ _)
    · exact h.trans ⟨.of_eq rfl rfl, rfl, rfl, rfl⟩
    · exact h.trans (lostResponse_answers _ _)

theorem openRecv_posts (s : State) (p : Packet) : Posts s (openRecv s p) := by
  unfold openRecv
  dsimp only
  split
  · exact (odBump_answers _ _ _ _).posts
  · split
    · exact (sendResponse_answers _ _).posts
    · split <;> exact .of_eq rfl rfl

theorem useStream_posts (s : State) (p : Packet) : Posts s (useStream s p) := by
  unfold useStream; split
  · exact .of_eq rfl rfl
  · exact .refl s

theorem takeRequest_posts (s : State) (p : Packet) : Posts s (takeRequest s p) := by
  unfold takeRequest
  refine (useStream_posts s p).trans ?_
  generalize useStream s p = x
  dsimp only
  split
  · exact ((odBump_answers _ _ _ _).trans (sendResponse_answers _ _)).posts
  · split
    · split
      · exact (odBump_answers _ _ _ _).posts
      · exact .of_eq rfl rfl
    · exact openRecv_posts _ _

theorem routePacket_posts (s : State) (p : Packet) : Posts s (routePacket s p) := by
  unfold routePacket
  split
  · unfold arrive
    split
    · exact (takeResponse_answers _ _).posts
    · exact takeRequest_posts _ _
  · split
    · exact (odBump_answers _ _ _ _).posts
    · split
      · exact .of_eq rfl rfl
      · split
        · exact (sendOn_answers _ _ _).posts
        · exact .of_eq rfl rfl
        · unfold noRoute
          split
          · exact (lostResponse_answers _ _).posts
          · split
            · exact (sendResponse_answers _ _).posts
            · exact .refl s

theorem startTimer_posts (s : State) (msgid : Nat) : Posts s (startTimer s msgid) :=
  ⟨map_bare_mapFirst (fun x => x.msgid == msgid) (fun x => { x with sentAt := s.uptime }) (fun _ => rfl) s.sends, rfl⟩

theorem transmit_posts (s : State) (m : SendMsg) (want : Nat → Bool) : Posts s (transmit s m want) := by
  unfold transmit
  dsimp only
  exact (startTimer_posts s m.msgid).trans (Posts.foldl (fun s k => routePacket_posts _ _) _ _)

/-- A message kept in one state is kept in the other, but for landed answer packets. -/
theorem Posts.mem {s t : State} (h : Posts s t) {m : SendMsg} (hm : m ∈ s.sends) : ∃ x ∈ t.sends, x.bare = m.bare := by
  have : m.bare ∈ t.sends.map SendMsg.bare := by rw [h.sends]; exact List.mem_map_of_mem hm
  obtain ⟨x, hx, e⟩ := List.mem_map.mp this
  exact ⟨x, hx, e⟩

theorem mem_mapFirst {α : Type} {p : α → Bool} {f : α → α} {l : List α} {a : α} (ha : a ∈ l) (hp : p a = true) : ∃ b ∈ l, p b = true ∧ f b ∈ mapFirst p f l := by
  induction l with
  | nil => cases ha
  | cons b r ih =>
    unfold mapFirst
    by_cases hb : p b = true
    · exact ⟨b, by simp, hb, by simp [hb]⟩
    · simp only [hb, Bool.false_eq_true, if_false]
      rcases List.mem_cons.mp ha with rfl | ha
      · exact absurd hp hb
      · obtain ⟨c, h1, h2, h3⟩ := ih ha
        exact ⟨c, by simp [h1], h2, by simp [h3]⟩

theorem joinStream_sends (s : State) (h : Packet) : (joinStream s h).2.sends = s.sends ∧ (joinStream s h).2.msgidNext = s.msgidNext := by
  unfold joinStream
  dsimp only
  split
  · split <;> exact ⟨rfl, rfl⟩
  · exact ⟨rfl, rfl⟩

theorem joinStream_head (s : State) (h : Packet) : ∃ a b, (joinStream s h).1 = { h with syncid := a, oseq := b } := by
  unfold joinStream
  dsimp only
  split
  · split
    · exact ⟨_, _, rfl⟩
    · exact ⟨_, _, rfl⟩
  · exact ⟨h.syncid, h.oseq, rfl⟩

/-- What a message names: number, kind, operation, destination, length, tally, payload, and the command it belongs to. -/
structure SendMsg.Is (m : SendMsg) (id : Nat) (h : Packet) (src : Option Nat) (owner : Option (Nat × Nat × Nat)) : Prop where
  msgid : m.msgid = id
  kind : m.head.kind = h.kind
  op : m.head.op = h.op
  daddr : m.head.daddr = h.daddr
  len : m.head.len = h.len
  rtally : m.head.rtally = h.rtally
  rten : m.head.rten = h.rten
  ord : m.head.ord = h.ord
  src : m.src = src
  owner : m.owner = owner

theorem launch_mem (s : State) (m : SendMsg) (hm : m ∈ s.sends) :
    (launch s m).msgidNext = s.msgidNext ∧ ∃ x ∈ (launch s m).sends, x.Is m.msgid m.head m.src m.owner := by
  unfold launch
  dsimp only
  generalize hj : joinStream s { m.head with spkg := ownPkg s, arg := (if m.head.kind = 1 then seres (ownPkg s) (seresOff m.head.arg) else m.head.arg) } = j
  have hjs : j.2.sends = s.sends ∧ j.2.msgidNext = s.msgidNext := by rw [← hj]; exact joinStream_sends _ _
  obtain ⟨a, b, hab⟩ := joinStream_head s { m.head with spkg := ownPkg s, arg := (if m.head.kind = 1 then seres (ownPkg s) (seresOff m.head.arg) else m.head.arg) }
  rw [hj] at hab
  have P := (odBump_answers { j.2 with sends := mapFirst (fun x => x.msgid == m.msgid) (fun _ => { m with head := j.1, ctx := true, waiting := false }) j.2.sends } 0x5000 0x10 1).posts.trans
    (transmit_posts _ { m with head := j.1, ctx := true, waiting := false } (fun _ => true))
  refine ⟨P.msgid.trans hjs.2, ?_⟩
  obtain ⟨b', -, -, hin⟩ := mem_mapFirst (p := fun x => x.msgid == m.msgid) (f := fun _ => { m with head := j.1, ctx := true, waiting := false }) (l := j.2.sends) (a := m)
    (by rw [hjs.1]; exact hm) (by simp)
  obtain ⟨x, hx, e⟩ := P.mem hin
  have e1 : x.msgid = m.msgid := show x.bare.msgid = _ by rw [e]; rfl
  have e2 : x.head = j.1 := show x.bare.head = _ by rw [e]; rfl
  have e3 : x.src = m.src := show x.bare.src = _ by rw [e]; rfl
  have e4 : x.owner = m.owner := show x.bare.owner = _ by rw [e]; rfl
  rw [hab] at e2
  exact ⟨x, hx, e1, by rw [e2], by rw [e2], by rw [e2], by rw [e2], by rw [e2], by rw [e2], by rw [e2], e3, e4⟩

/-- A message originated takes the next number and is kept, sent or waiting (R292, R305). -/
theorem originate_keeps (s : State) (h : Packet) (src : Option Nat) (st : List Byte) (sp : List Nat) (o : Option (Nat × Nat × Nat)) (k : Option (Nat × Nat × Nat)) :
    (originate s h src st sp o k).2 = s.msgidNext ∧ (originate s h src st sp o k).1.msgidNext = wrap 32 (s.msgidNext + 1) ∧
    ∃ m ∈ (originate s h src st sp o k).1.sends, m.Is s.msgidNext h src o := by
  unfold originate
  dsimp only
  refine ⟨rfl, ?_⟩
  split
  · have g := launch_mem { s with msgidNext := wrap 32 (s.msgidNext + 1), sends := s.sends ++ [⟨s.msgidNext, { h with msgid := s.msgidNext, vc := requestVc h.kind h.op h.ord }, src, st, sp, o, 0, 0, s.uptime, [], s.uptime, k, sendContextFree s, true⟩] }
      ⟨s.msgidNext, { h with msgid := s.msgidNext, vc := requestVc h.kind h.op h.ord }, src, st, sp, o, 0, 0, s.uptime, [], s.uptime, k, sendContextFree s, true⟩ (by simp)
    refine ⟨g.1, ?_⟩
    obtain ⟨x, hx, i⟩ := g.2
    exact ⟨x, hx, i.msgid, i.kind, i.op, i.daddr, i.len, i.rtally, i.rten, i.ord, i.src, i.owner⟩
  · exact ⟨rfl, ⟨s.msgidNext, { h with msgid := s.msgidNext, vc := requestVc h.kind h.op h.ord }, src, st, sp, o, 0, 0, s.uptime, [], s.uptime, k, sendContextFree s, true⟩,
      List.mem_append_right _ (by simp), rfl, rfl, rfl, rfl, rfl, rfl, rfl, rfl, rfl, rfl⟩

/-- With no message waiting none goes out. -/
theorem pumpSends_idle (n : Nat) (s : State) (h : ∀ m ∈ s.sends, m.waiting = false) : pumpSends n s = s := by
  cases n with
  | zero => rfl
  | succ n =>
    have : s.sends.find? (canMove s) = none := by
      rw [List.find?_eq_none]
      intro m hm; simp [canMove, h m hm]
    unfold pumpSends
    rw [this]

theorem Posts.waiting {s t : State} (h : Posts s t) (hw : ∀ m ∈ s.sends, m.waiting = false) : ∀ m ∈ t.sends, m.waiting = false := by
  intro m hm
  have : m.bare ∈ s.sends.map SendMsg.bare := by rw [← h.sends]; exact List.mem_map_of_mem hm
  obtain ⟨x, hx, e⟩ := List.mem_map.mp this
  have : x.waiting = m.waiting := show x.bare.waiting = _ by rw [e]; rfl
  rw [← this]; exact hw x hx

theorem advanceStream_posts (s : State) (r : RecvCtx) : Posts s (advanceStream s r) ∧ (advanceStream s r).recvs = s.recvs ∧ (advanceStream s r).tombs = s.tombs := by
  unfold advanceStream
  dsimp only
  split
  · split
    · split <;> exact ⟨.of_eq rfl rfl, rfl, rfl⟩
    · exact ⟨.refl s, rfl, rfl⟩
  · exact ⟨.refl s, rfl, rfl⟩

/-- A message that ends here with an answer: its context is gone, and the answer is kept to be repeated (R308, R310). -/
theorem answerMsg_ends (s : State) (r : RecvCtx) (a : Packet) (hw : ∀ m ∈ s.sends, m.waiting = false) :
    findRecv (answerMsg s r a) r.spkg r.msgid = none ∧ (⟨r.spkg, r.msgid, a, s.uptime⟩ : Tomb) ∈ (answerMsg s r a).tombs := by
  unfold answerMsg
  dsimp only
  obtain ⟨h1, h2, h3⟩ := advanceStream_posts s r
  generalize hx : ({ (dropRecv (advanceStream s r) r.spkg r.msgid) with tombs := (advanceStream s r).tombs ++ [⟨r.spkg, r.msgid, a, s.uptime⟩] } : State) = x
  have hxp : Posts (advanceStream s r) x := by rw [← hx]; exact .of_eq rfl rfl
  have A := sendResponse_answers x a
  rw [pumpSends_idle _ _ ((h1.trans (hxp.trans A.posts)).waiting hw)]
  refine ⟨?_, ?_⟩
  · unfold findRecv
    rw [A.recvs, ← hx]
    unfold dropRecv
    rw [List.find?_eq_none]
    intro y hy
    have := (List.mem_filter.mp hy).2
    intro h
    simp only [Bool.and_eq_true, beq_iff_eq] at h
    simp [h.1, h.2] at this
  · rw [A.tombs, ← hx]; simp

end Sys2Proof.Machine
end

