-- ==== Sys2Proof/Laws/FootprintFaults.lean ====
section
/-! SUPPORT. What each function of Machine/Faults.lean can change. -/

set_option Elab.async false

set_option linter.unreachableTactic false
set_option linter.unusedTactic false
set_option linter.unnecessarySeqFocus false

namespace Sys2Proof.Machine

theorem setCore_changes (s : State) (core v code : Nat) :
    Changes [.draws, .od, .recorder, .access, .output] s (setCore s core v code) := by
  unfold setCore
  repeat' (first
    | with_reducible exact Changes.refl
    | with_reducible assumption
    | ((with_reducible apply Changes.step (stateChange_changes _ _ _ _ _ _ _)); rfl)
    | (show kindsIn _ _ = true; rfl)
    | split
    | dsimp only
    | intro _)

theorem serve_changes (s : State) (pos core : Nat) :
    Changes [.od] s (serve s pos core) := by
  unfold serve
  repeat' (first
    | with_reducible exact Changes.refl
    | with_reducible assumption
    | ((with_reducible apply Changes.step (odSet_changes _ _ _ _)); rfl)
    | (show kindsIn _ _ = true; rfl)
    | split
    | dsimp only
    | intro _)

theorem recordPos_changes (s : State) (pos : Nat) :
    Changes [.tests] s (recordPos s pos) := by
  unfold recordPos
  repeat' (first
    | with_reducible exact Changes.refl
    | with_reducible assumption
    | (show kindsIn _ _ = true; rfl)
    | split
    | dsimp only
    | intro _
    | with_reducible refine Changes.update ?_)

theorem unserve_changes (s : State) (core : Nat) :
    Changes [.od] s (unserve s core) := by
  unfold unserve
  repeat' (first
    | with_reducible exact Changes.refl
    | with_reducible assumption
    | ((with_reducible apply Changes.step (odSet_changes _ _ _ _)); rfl)
    | (show kindsIn _ _ = true; rfl)
    | split
    | dsimp only
    | intro _)

theorem countCores_changes (s : State) :
    Changes [.od] s (countCores s) := by
  unfold countCores
  repeat' (first
    | with_reducible exact Changes.refl
    | with_reducible assumption
    | ((with_reducible apply Changes.step (odSet_changes _ _ _ _)); rfl)
    | (show kindsIn _ _ = true; rfl)
    | split
    | dsimp only
    | intro _)

theorem clearPosition_changes (s : State) (k : Nat) :
    Changes [.memory, .sectors, .accumulators, .engines] s (clearPosition s k) := by
  unfold clearPosition
  repeat' (first
    | with_reducible exact Changes.refl
    | with_reducible assumption
    | ((with_reducible apply Changes.step (clearScratch_changes _ _)); rfl)
    | (show kindsIn _ _ = true; rfl)
    | split
    | dsimp only
    | intro _
    | with_reducible refine Changes.update ?_)

theorem stopUnit_changes (s : State) (u code : Nat) :
    Changes [.draws, .od, .memory, .sectors, .accumulators, .commands, .tallies, .engines, .channels, .power, .recorder, .access, .link, .drains, .output] s (stopUnit s u code) := by
  unfold stopUnit
  repeat' (first
    | with_reducible exact Changes.refl
    | with_reducible assumption
    | ((with_reducible apply Changes.step (abortCmd_changes _ _ _)); rfl)
    | ((with_reducible apply Changes.step (stopContext_changes _ _ _ _)); rfl)
    | with_reducible apply Changes.foldl
    | (show kindsIn _ _ = true; rfl)
    | split
    | dsimp only
    | intro _)

theorem disableQueues_changes (s : State) (u : Nat) :
    Changes [.draws, .od, .engines, .recorder, .access, .output] s (disableQueues s u) := by
  unfold disableQueues
  repeat' (first
    | with_reducible exact Changes.refl
    | with_reducible assumption
    | ((with_reducible apply Changes.step (discardHeld_changes _ _ _)); rfl)
    | ((with_reducible apply Changes.step (qSet_changes _ _ _ _ _)); rfl)
    | with_reducible apply Changes.foldl
    | (show kindsIn _ _ = true; rfl)
    | split
    | dsimp only
    | intro _)

theorem fenceEnd_changes (s : State) (core : Nat) (lost : Bool) :
    Changes [.draws, .od, .recorder, .tests, .access, .output] s (fenceEnd s core lost) := by
  unfold fenceEnd
  repeat' (first
    | with_reducible exact Changes.refl
    | with_reducible assumption
    | ((with_reducible apply Changes.step (countCores_changes _)); rfl)
    | ((with_reducible apply Changes.step (msixAllContexts_changes _)); rfl)
    | ((with_reducible apply Changes.step (snagSet_changes _ _)); rfl)
    | (show kindsIn _ _ = true; rfl)
    | split
    | dsimp only
    | intro _
    | with_reducible refine Changes.update ?_)

theorem fenceServing_changes (s : State) (core cause : Nat) (spare : Option Nat) :
    Changes [.draws, .od, .memory, .sectors, .accumulators, .commands, .tallies, .engines, .channels, .power, .recorder, .tests, .access, .link, .drains, .output] s (fenceServing s core cause spare) := by
  unfold fenceServing
  repeat' (first
    | with_reducible exact Changes.refl
    | with_reducible assumption
    | ((with_reducible apply Changes.step (clearPosition_changes _ _)); rfl)
    | ((with_reducible apply Changes.step (countCores_changes _)); rfl)
    | ((with_reducible apply Changes.step (disableQueues_changes _ _)); rfl)
    | ((with_reducible apply Changes.step (fenceEnd_changes _ _ _)); rfl)
    | ((with_reducible apply Changes.step (fileCode_changes _ _ _ _)); rfl)
    | ((with_reducible apply Changes.step (odSet_changes _ _ _ _)); rfl)
    | ((with_reducible apply Changes.step (recordPos_changes _ _)); rfl)
    | ((with_reducible apply Changes.step (serve_changes _ _ _)); rfl)
    | ((with_reducible apply Changes.step (setCore_changes _ _ _ _)); rfl)
    | ((with_reducible apply Changes.step (stopUnit_changes _ _ _)); rfl)
    | ((with_reducible apply Changes.step (unserve_changes _ _)); rfl)
    | (show kindsIn _ _ = true; rfl)
    | split
    | dsimp only
    | intro _)

theorem endTest_changes (s : State) :
    Changes [.od, .tests] s (endTest s) := by
  unfold endTest
  repeat' (first
    | with_reducible exact Changes.refl
    | with_reducible assumption
    | ((with_reducible apply Changes.step (odSet_changes _ _ _ _)); rfl)
    | (show kindsIn _ _ = true; rfl)
    | split
    | dsimp only
    | intro _
    | with_reducible refine Changes.update ?_)

theorem swapBack_changes (s : State) (core standin : Nat) :
    Changes [.draws, .od, .recorder, .access, .output] s (swapBack s core standin) := by
  unfold swapBack
  repeat' (first
    | with_reducible exact Changes.refl
    | with_reducible assumption
    | ((with_reducible apply Changes.step (countCores_changes _)); rfl)
    | ((with_reducible apply Changes.step (serve_changes _ _ _)); rfl)
    | ((with_reducible apply Changes.step (setCore_changes _ _ _ _)); rfl)
    | ((with_reducible apply Changes.step (unserve_changes _ _)); rfl)
    | (show kindsIn _ _ = true; rfl)
    | split
    | dsimp only
    | intro _)

theorem fenceNow_changes (s : State) (core cause : Nat) :
    Changes [.draws, .od, .memory, .sectors, .accumulators, .commands, .tallies, .engines, .channels, .power, .recorder, .tests, .access, .link, .drains, .output] s (fenceNow s core cause) := by
  unfold fenceNow
  repeat' (first
    | with_reducible exact Changes.refl
    | with_reducible assumption
    | ((with_reducible apply Changes.step (clearPosition_changes _ _)); rfl)
    | ((with_reducible apply Changes.step (endTest_changes _)); rfl)
    | ((with_reducible apply Changes.step (fenceEnd_changes _ _ _)); rfl)
    | ((with_reducible apply Changes.step (fenceServing_changes _ _ _ _)); rfl)
    | ((with_reducible apply Changes.step (fileCode_changes _ _ _ _)); rfl)
    | ((with_reducible apply Changes.step (recordPos_changes _ _)); rfl)
    | ((with_reducible apply Changes.step (setCore_changes _ _ _ _)); rfl)
    | ((with_reducible apply Changes.step (stopUnit_changes _ _ _)); rfl)
    | ((with_reducible apply Changes.step (swapBack_changes _ _ _)); rfl)
    | (show kindsIn _ _ = true; rfl)
    | split
    | dsimp only
    | intro _)

theorem execFence_changes (core cause : Nat) (s : State) {t : State} (h : execFence core cause s = .next t) :
    Changes [.draws, .od, .memory, .sectors, .accumulators, .commands, .tallies, .engines, .channels, .power, .recorder, .tests, .access, .link, .drains, .output] s t := by
  unfold execFence at h
  injection h with h
  subst h
  repeat' (first
    | with_reducible exact Changes.refl
    | with_reducible assumption
    | ((with_reducible apply Changes.step (fenceNow_changes _ _ _)); rfl)
    | (show kindsIn _ _ = true; rfl)
    | split
    | dsimp only
    | intro _)

theorem preemptAll_changes (s : State) (pos : Nat) :
    Changes [.draws, .od, .commands, .engines, .recorder, .access, .output] s (preemptAll s pos) := by
  unfold preemptAll
  repeat' (first
    | with_reducible exact Changes.refl
    | with_reducible assumption
    | ((with_reducible apply Changes.step (preempt_changes _ _)); rfl)
    | ((with_reducible apply Changes.step (putCmd_changes _ _)); rfl)
    | with_reducible apply Changes.foldl
    | (show kindsIn _ _ = true; rfl)
    | split
    | dsimp only
    | intro _
    | with_reducible refine Changes.update ?_)

theorem takeTurn_changes (s : State) (core : Nat) :
    Changes [.tests] s (takeTurn s core) := by
  unfold takeTurn
  repeat' (first
    | with_reducible exact Changes.refl
    | with_reducible assumption
    | (show kindsIn _ _ = true; rfl)
    | split
    | dsimp only
    | intro _
    | with_reducible refine Changes.update ?_)

theorem overdue_changes (s : State) (u : Nat) :
    Changes [.draws, .od, .recorder, .tests, .access, .output] s (overdue s u) := by
  unfold overdue
  repeat' (first
    | with_reducible exact Changes.refl
    | with_reducible assumption
    | ((with_reducible apply Changes.step (fileCode_changes _ _ _ _)); rfl)
    | ((with_reducible apply Changes.step (snagSet_changes _ _)); rfl)
    | (show kindsIn _ _ = true; rfl)
    | split
    | dsimp only
    | intro _
    | with_reducible refine Changes.update ?_)

theorem execTestStart_changes (core : Nat) (s : State) {t : State} (h : execTestStart core s = .next t) :
    Changes [.draws, .od, .commands, .engines, .recorder, .tests, .access, .output] s t := by
  unfold execTestStart at h
  injection h with h
  subst h
  repeat' (first
    | with_reducible exact Changes.refl
    | with_reducible assumption
    | ((with_reducible apply Changes.step (countCores_changes _)); rfl)
    | ((with_reducible apply Changes.step (odSet_changes _ _ _ _)); rfl)
    | ((with_reducible apply Changes.step (overdue_changes _ _)); rfl)
    | ((with_reducible apply Changes.step (preemptAll_changes _ _)); rfl)
    | ((with_reducible apply Changes.step (serve_changes _ _ _)); rfl)
    | ((with_reducible apply Changes.step (setCore_changes _ _ _ _)); rfl)
    | ((with_reducible apply Changes.step (takeTurn_changes _ _)); rfl)
    | ((with_reducible apply Changes.step (unserve_changes _ _)); rfl)
    | (show kindsIn _ _ = true; rfl)
    | split
    | dsimp only
    | intro _
    | with_reducible refine Changes.update ?_)

theorem addPattern_changes (s : State) (pattern : List Byte) (place unit : Nat) :
    Changes [.draws, .od, .recorder, .tests, .access, .output] s (addPattern s pattern place unit) := by
  unfold addPattern
  repeat' (first
    | with_reducible exact Changes.refl
    | with_reducible assumption
    | ((with_reducible apply Changes.step (fileCode_changes _ _ _ _)); rfl)
    | ((with_reducible apply Changes.step (odSet_changes _ _ _ _)); rfl)
    | ((with_reducible apply Changes.step (snagSet_changes _ _)); rfl)
    | (show kindsIn _ _ = true; rfl)
    | split
    | dsimp only
    | intro _
    | with_reducible refine Changes.update ?_)

theorem ageCapture_changes (s : State) (k : Capture) :
    Changes [.draws, .od, .recorder, .tests, .access, .output] s (ageCapture s k) := by
  unfold ageCapture
  repeat' (first
    | with_reducible exact Changes.refl
    | with_reducible assumption
    | ((with_reducible apply Changes.step (odBump_changes _ _ _ _)); rfl)
    | ((with_reducible apply Changes.step (odSet_changes _ _ _ _)); rfl)
    | (show kindsIn _ _ = true; rfl)
    | split
    | dsimp only
    | intro _
    | with_reducible refine Changes.update ?_)

theorem confirmCapture_changes (s : State) (k : Capture) :
    Changes [.draws, .od, .recorder, .tests, .access, .output] s (confirmCapture s k) := by
  unfold confirmCapture
  repeat' (first
    | with_reducible exact Changes.refl
    | with_reducible assumption
    | ((with_reducible apply Changes.step (odBump_changes _ _ _ _)); rfl)
    | ((with_reducible apply Changes.step (odSet_changes _ _ _ _)); rfl)
    | (show kindsIn _ _ = true; rfl)
    | split
    | dsimp only
    | intro _
    | with_reducible refine Changes.update ?_)

theorem execScanTest_changes (r : ScanResult) (s : State) {t : State} (h : execScanTest r s = .next t) :
    Changes [.draws, .od, .memory, .sectors, .accumulators, .commands, .tallies, .engines, .channels, .power, .recorder, .tests, .access, .link, .drains, .output] s t := by
  unfold execScanTest at h
  injection h with h
  subst h
  repeat' (first
    | with_reducible exact Changes.refl
    | with_reducible assumption
    | ((with_reducible apply Changes.step (addPattern_changes _ _ _ _)); rfl)
    | ((with_reducible apply Changes.step (ageCapture_changes _ _)); rfl)
    | ((with_reducible apply Changes.step (confirmCapture_changes _ _)); rfl)
    | ((with_reducible apply Changes.step (fenceNow_changes _ _ _)); rfl)
    | ((with_reducible apply Changes.step (odBump_changes _ _ _ _)); rfl)
    | ((with_reducible apply Changes.step (snagSet_changes _ _)); rfl)
    | with_reducible apply Changes.foldl
    | (show kindsIn _ _ = true; rfl)
    | split
    | dsimp only
    | intro _
    | with_reducible refine Changes.update ?_)

theorem execTestReturn_changes (s : State) {t : State} (h : execTestReturn s = .next t) :
    Changes [.draws, .od, .commands, .engines, .recorder, .tests, .access, .output] s t := by
  unfold execTestReturn at h
  injection h with h
  subst h
  repeat' (first
    | with_reducible exact Changes.refl
    | with_reducible assumption
    | ((with_reducible apply Changes.step (countCores_changes _)); rfl)
    | ((with_reducible apply Changes.step (endTest_changes _)); rfl)
    | ((with_reducible apply Changes.step (preemptAll_changes _ _)); rfl)
    | ((with_reducible apply Changes.step (setCore_changes _ _ _ _)); rfl)
    | ((with_reducible apply Changes.step (swapBack_changes _ _ _)); rfl)
    | (show kindsIn _ _ = true; rfl)
    | split
    | dsimp only
    | intro _
    | with_reducible refine Changes.update ?_)

theorem execSweepUnitScan_changes (unit : Nat) (done : Bool) (r : ScanResult) (s : State) {t : State} (h : execSweepUnitScan unit done r s = .next t) :
    Changes [.draws, .od, .recorder, .tests, .access, .output] s t := by
  unfold execSweepUnitScan at h
  injection h with h
  subst h
  repeat' (first
    | with_reducible exact Changes.refl
    | with_reducible assumption
    | ((with_reducible apply Changes.step (addPattern_changes _ _ _ _)); rfl)
    | ((with_reducible apply Changes.step (ageCapture_changes _ _)); rfl)
    | ((with_reducible apply Changes.step (confirmCapture_changes _ _)); rfl)
    | ((with_reducible apply Changes.step (fileCode_changes _ _ _ _)); rfl)
    | ((with_reducible apply Changes.step (odBump_changes _ _ _ _)); rfl)
    | ((with_reducible apply Changes.step (odSet_changes _ _ _ _)); rfl)
    | ((with_reducible apply Changes.step (overdue_changes _ _)); rfl)
    | with_reducible apply Changes.foldl
    | with_reducible apply Changes.foldl_fst
    | with_reducible apply Changes.foldl_snd
    | with_reducible apply Changes.foldl_trd
    | with_reducible apply Changes.foldl_run
    | with_reducible apply Changes.foldl_deep
    | with_reducible apply Changes.foldl_lane
    | with_reducible apply Changes.foldl_blocks
    | (show kindsIn _ _ = true; rfl)
    | split
    | dsimp only
    | intro _
    | with_reducible refine Changes.update ?_)

theorem unfence_changes (s : State) (core : Nat) :
    Changes [.tests] s (unfence s core) := by
  unfold unfence
  repeat' (first
    | with_reducible exact Changes.refl
    | with_reducible assumption
    | (show kindsIn _ _ = true; rfl)
    | split
    | dsimp only
    | intro _
    | with_reducible refine Changes.update ?_)

theorem installPattern_changes (s : State) (pattern : List Byte) (sel : Nat) :
    Changes [.draws, .od, .recorder, .tests, .access, .output] s (installPattern s pattern sel) := by
  unfold installPattern
  repeat' (first
    | with_reducible exact Changes.refl
    | with_reducible assumption
    | ((with_reducible apply Changes.step (odSet_changes _ _ _ _)); rfl)
    | ((with_reducible apply Changes.step (snagSet_changes _ _)); rfl)
    | (show kindsIn _ _ = true; rfl)
    | split
    | dsimp only
    | intro _
    | with_reducible refine Changes.update ?_)

end Sys2Proof.Machine
end

