-- ==== Sys2Proof/Laws/FootprintDieLinks.lean ====
section
/-! SUPPORT. What each function of Machine/DieLinks.lean can change. -/

set_option Elab.async false

set_option linter.unreachableTactic false
set_option linter.unusedTactic false
set_option linter.unnecessarySeqFocus false

namespace Sys2Proof.Machine

theorem setRole_changes (s : State) (d m b code : Nat) :
    Changes [.draws, .od, .recorder, .access, .output] s (setRole s d m b code) := by
  unfold setRole
  repeat' (first
    | with_reducible exact Changes.refl
    | with_reducible assumption
    | ((with_reducible apply Changes.step (odSet_changes _ _ _ _)); rfl)
    | ((with_reducible apply Changes.step (stateChange_changes _ _ _ _ _ _ _)); rfl)
    | (show kindsIn _ _ = true; rfl)
    | split
    | dsimp only
    | intro _)

theorem replay_changes (s : State) (d m on : Nat) :
    Changes [.draws, .od, .recorder, .access, .output] s (replay s d m on) := by
  unfold replay
  repeat' (first
    | with_reducible exact Changes.refl
    | with_reducible assumption
    | ((with_reducible apply Changes.step (emit_changes _ _)); rfl)
    | ((with_reducible apply Changes.step (odBump_changes _ _ _ _)); rfl)
    | (show kindsIn _ _ = true; rfl)
    | split
    | dsimp only
    | intro _)

theorem recordLane_changes (s : State) (k l : Nat) :
    Changes [.od, .dieLinks] s (recordLane s k l) := by
  unfold recordLane
  repeat' (first
    | with_reducible exact Changes.refl
    | with_reducible assumption
    | ((with_reducible apply Changes.step (odSet_changes _ _ _ _)); rfl)
    | (show kindsIn _ _ = true; rfl)
    | split
    | dsimp only
    | intro _
    | with_reducible refine Changes.update ?_)

theorem dieOut_changes (s : State) (d m : Nat) :
    Changes [.draws, .od, .memory, .sectors, .accumulators, .commands, .tallies, .engines, .dieLinks, .channels, .power, .recorder, .tests, .access, .link, .drains, .output] s (dieOut s d m) := by
  unfold dieOut
  repeat' (first
    | with_reducible exact Changes.refl
    | with_reducible assumption
    | ((with_reducible apply Changes.step (clearPosition_changes _ _)); rfl)
    | ((with_reducible apply Changes.step (countCores_changes _)); rfl)
    | ((with_reducible apply Changes.step (disableQueues_changes _ _)); rfl)
    | ((with_reducible apply Changes.step (endTest_changes _)); rfl)
    | ((with_reducible apply Changes.step (fileCode_changes _ _ _ _)); rfl)
    | ((with_reducible apply Changes.step (msixAllContexts_changes _)); rfl)
    | ((with_reducible apply Changes.step (odSet_changes _ _ _ _)); rfl)
    | ((with_reducible apply Changes.step (setCore_changes _ _ _ _)); rfl)
    | ((with_reducible apply Changes.step (snagSet_changes _ _)); rfl)
    | ((with_reducible apply Changes.step (stopUnit_changes _ _ _)); rfl)
    | ((with_reducible apply Changes.step (unserve_changes _ _)); rfl)
    | with_reducible apply Changes.foldl
    | with_reducible apply Changes.foldl_fst
    | with_reducible apply Changes.foldl_snd
    | with_reducible apply Changes.foldl_trd
    | with_reducible apply Changes.foldl_run
    | with_reducible apply Changes.foldl_deep
    | with_reducible apply Changes.foldl_lane
    | with_reducible apply Changes.foldl_blocks
    | (show kindsIn _ _ = true; rfl)
    | split
    | dsimp only
    | intro _
    | with_reducible refine Changes.update ?_)

theorem retrain_changes (s : State) (d m : Nat) (fallback : Bool) :
    Changes [.draws, .od, .dieLinks, .recorder, .access, .output] s (retrain s d m fallback) := by
  unfold retrain
  repeat' (first
    | with_reducible exact Changes.refl
    | with_reducible assumption
    | ((with_reducible apply Changes.step (odBump_changes _ _ _ _)); rfl)
    | (show kindsIn _ _ = true; rfl)
    | split
    | dsimp only
    | intro _
    | with_reducible refine Changes.update ?_)

theorem degraded_changes (s : State) (d m lane b : Nat) :
    Changes [.draws, .od, .recorder, .access, .output] s (degraded s d m lane b) := by
  unfold degraded
  repeat' (first
    | with_reducible exact Changes.refl
    | with_reducible assumption
    | ((with_reducible apply Changes.step (fileCode_changes _ _ _ _)); rfl)
    | ((with_reducible apply Changes.step (odSet_changes _ _ _ _)); rfl)
    | ((with_reducible apply Changes.step (snagSet_changes _ _)); rfl)
    | (show kindsIn _ _ = true; rfl)
    | split
    | dsimp only
    | intro _)

theorem failLanes_changes (s : State) (d m : Nat) (lanes : List Nat) :
    Changes [.draws, .od, .memory, .sectors, .accumulators, .commands, .tallies, .engines, .dieLinks, .channels, .power, .recorder, .tests, .access, .link, .drains, .output] s (failLanes s d m lanes) := by
  unfold failLanes
  repeat' (first
    | with_reducible exact Changes.refl
    | with_reducible assumption
    | ((with_reducible apply Changes.step (degraded_changes _ _ _ _ _)); rfl)
    | ((with_reducible apply Changes.step (dieOut_changes _ _ _)); rfl)
    | ((with_reducible apply Changes.step (odBump_changes _ _ _ _)); rfl)
    | ((with_reducible apply Changes.step (recordLane_changes _ _ _)); rfl)
    | ((with_reducible apply Changes.step (replay_changes _ _ _ _)); rfl)
    | ((with_reducible apply Changes.step (retrain_changes _ _ _ _)); rfl)
    | ((with_reducible apply Changes.step (setRole_changes _ _ _ _ _)); rfl)
    | with_reducible apply Changes.foldl
    | with_reducible apply Changes.foldl_fst
    | with_reducible apply Changes.foldl_snd
    | with_reducible apply Changes.foldl_trd
    | with_reducible apply Changes.foldl_run
    | with_reducible apply Changes.foldl_deep
    | with_reducible apply Changes.foldl_lane
    | with_reducible apply Changes.foldl_blocks
    | (show kindsIn _ _ = true; rfl)
    | split
    | dsimp only
    | intro _
    | with_reducible refine Changes.update ?_)

theorem execLaneFailure_changes (d m : Nat) (lanes : List Nat) (s : State) {t : State} (h : execLaneFailure d m lanes s = .next t) :
    Changes [.draws, .od, .memory, .sectors, .accumulators, .commands, .tallies, .engines, .dieLinks, .channels, .power, .recorder, .tests, .access, .link, .drains, .output] s t := by
  unfold execLaneFailure at h
  injection h with h
  subst h
  repeat' (first
    | with_reducible exact Changes.refl
    | with_reducible assumption
    | ((with_reducible apply Changes.step (failLanes_changes _ _ _ _)); rfl)
    | (show kindsIn _ _ = true; rfl)
    | split
    | dsimp only
    | intro _)

theorem execFlitCrcError_changes (d m : Nat) (lane : Option Nat) (s : State) {t : State} (h : execFlitCrcError d m lane s = .next t) :
    Changes [.draws, .od, .memory, .sectors, .accumulators, .commands, .tallies, .engines, .dieLinks, .channels, .power, .recorder, .tests, .access, .link, .drains, .output] s t := by
  unfold execFlitCrcError at h
  injection h with h
  subst h
  repeat' (first
    | with_reducible exact Changes.refl
    | with_reducible assumption
    | ((with_reducible apply Changes.step (failLanes_changes _ _ _ _)); rfl)
    | ((with_reducible apply Changes.step (odBump_changes _ _ _ _)); rfl)
    | ((with_reducible apply Changes.step (replay_changes _ _ _ _)); rfl)
    | (show kindsIn _ _ = true; rfl)
    | split
    | dsimp only
    | intro _
    | with_reducible refine Changes.update ?_)

theorem execModuleRetrainDone_changes (d m : Nat) (s : State) {t : State} (h : execModuleRetrainDone d m s = .next t) :
    Changes [.draws, .od, .dieLinks, .recorder, .access, .output] s t := by
  unfold execModuleRetrainDone at h
  injection h with h
  subst h
  repeat' (first
    | with_reducible exact Changes.refl
    | with_reducible assumption
    | ((with_reducible apply Changes.step (odBump_changes _ _ _ _)); rfl)
    | (show kindsIn _ _ = true; rfl)
    | split
    | dsimp only
    | intro _
    | with_reducible refine Changes.update ?_)

end Sys2Proof.Machine
end

