-- ==== Sys2Proof/Laws/FootprintJobEntries.lean ====
section
/-! SUPPORT. What each function of Machine/JobEntries.lean can change. -/

set_option Elab.async false

set_option linter.unreachableTactic false
set_option linter.unusedTactic false
set_option linter.unnecessarySeqFocus false

namespace Sys2Proof.Machine

theorem settleCtxState_changes (s : State) (c : Nat) :
    Changes [.draws, .od, .recorder, .access, .output] s (settleCtxState s c) := by
  unfold settleCtxState
  repeat' (first
    | with_reducible exact Changes.refl
    | with_reducible assumption
    | ((with_reducible apply Changes.step (stateChange_changes _ _ _ _ _ _ _)); rfl)
    | (show kindsIn _ _ = true; rfl)
    | split
    | dsimp only
    | intro _)

theorem settleOwner_changes (s : State) (p : Nat × Nat) :
    Changes [.draws, .od, .engines, .recorder, .access, .output] s (settleOwner s p) := by
  unfold settleOwner
  repeat' (first
    | with_reducible exact Changes.refl
    | with_reducible assumption
    | ((with_reducible apply Changes.step (discardHeld_changes _ _ _)); rfl)
    | ((with_reducible apply Changes.step (qSet_changes _ _ _ _ _)); rfl)
    | ((with_reducible apply Changes.step (settleQueue_changes _ _ _)); rfl)
    | (show kindsIn _ _ = true; rfl)
    | split
    | dsimp only
    | intro _)

theorem putTable_changes (s : State) (v : Nat) :
    Changes [.draws, .od, .engines, .recorder, .access, .output] s (putTable s v) := by
  unfold putTable
  repeat' (first
    | with_reducible exact Changes.refl
    | with_reducible assumption
    | ((with_reducible apply Changes.step (odSet_changes _ _ _ _)); rfl)
    | ((with_reducible apply Changes.step (settleCtxState_changes _ _)); rfl)
    | ((with_reducible apply Changes.step (settleOwner_changes _ _)); rfl)
    | with_reducible apply Changes.foldl
    | (show kindsIn _ _ = true; rfl)
    | split
    | dsimp only
    | intro _)

theorem restartCtx_changes (s : State) (c : Nat) :
    Changes [.draws, .od, .engines, .recorder, .access, .output] s (restartCtx s c) := by
  unfold restartCtx
  repeat' (first
    | with_reducible exact Changes.refl
    | with_reducible assumption
    | ((with_reducible apply Changes.step (addRecord_changes _ _)); rfl)
    | ((with_reducible apply Changes.step (settleOwner_changes _ _)); rfl)
    | ((with_reducible apply Changes.step (stateChange_changes _ _ _ _ _ _ _)); rfl)
    | with_reducible apply Changes.foldl
    | (show kindsIn _ _ = true; rfl)
    | split
    | dsimp only
    | intro _)

theorem writeRing_changes (s : State) (u q n v : Nat) :
    Changes [.od] s (writeRing s u q n v) := by
  unfold writeRing
  repeat' (first
    | with_reducible exact Changes.refl
    | with_reducible assumption
    | ((with_reducible apply Changes.step (qSet_changes _ _ _ _ _)); rfl)
    | (show kindsIn _ _ = true; rfl)
    | split
    | dsimp only
    | intro _)

theorem publishTail_changes (s : State) (u q v : Nat) :
    Changes [.draws, .od, .memory, .sectors, .accumulators, .commands, .tallies, .engines, .channels, .power, .recorder, .access, .link, .drains, .output] s (publishTail s u q v) := by
  unfold publishTail
  repeat' (first
    | with_reducible exact Changes.refl
    | with_reducible assumption
    | ((with_reducible apply Changes.step (fileReport_changes _ _)); rfl)
    | ((with_reducible apply Changes.step (qSet_changes _ _ _ _ _)); rfl)
    | ((with_reducible apply Changes.step (settleQueue_changes _ _ _)); rfl)
    | ((with_reducible apply Changes.step (stopContext_changes _ _ _ _)); rfl)
    | ((with_reducible apply Changes.step (writeOrHold_changes _ _)); rfl)
    | (show kindsIn _ _ = true; rfl)
    | split
    | dsimp only
    | intro _
    | with_reducible refine Changes.update ?_)

theorem writeHead_changes (s : State) (u q v : Nat) :
    Changes [.draws, .od, .engines, .recorder, .access, .output] s (writeHead s u q v) := by
  unfold writeHead
  repeat' (first
    | with_reducible exact Changes.refl
    | with_reducible assumption
    | ((with_reducible apply Changes.step (discardHeld_changes _ _ _)); rfl)
    | ((with_reducible apply Changes.step (qSet_changes _ _ _ _ _)); rfl)
    | (show kindsIn _ _ = true; rfl)
    | split
    | dsimp only
    | intro _)

theorem bindChan_changes (s : State) (ch : Nat) :
    Changes [.od, .channels] s (bindChan s ch) := by
  unfold bindChan
  repeat' (first
    | with_reducible exact Changes.refl
    | with_reducible assumption
    | ((with_reducible apply Changes.step (odSet_changes _ _ _ _)); rfl)
    | (show kindsIn _ _ = true; rfl)
    | split
    | dsimp only
    | intro _
    | with_reducible refine Changes.update ?_)

theorem unbindChan_changes (s : State) (ch : Nat) :
    Changes [.od, .channels] s (unbindChan s ch) := by
  unfold unbindChan
  repeat' (first
    | with_reducible exact Changes.refl
    | with_reducible assumption
    | ((with_reducible apply Changes.step (odSet_changes _ _ _ _)); rfl)
    | (show kindsIn _ _ = true; rfl)
    | split
    | dsimp only
    | intro _
    | with_reducible refine Changes.update ?_)

theorem writeMap_changes (s : State) (v : Nat) :
    Changes [.od] s (writeMap s v) := by
  unfold writeMap
  repeat' (first
    | with_reducible exact Changes.refl
    | with_reducible assumption
    | ((with_reducible apply Changes.step (odSet_changes _ _ _ _)); rfl)
    | (show kindsIn _ _ = true; rfl)
    | split
    | dsimp only
    | intro _)

end Sys2Proof.Machine
end

