-- ==== Sys2Proof/Laws/FootprintStarting.lean ====
section
/-! SUPPORT. What each function of Machine/Starting.lean can change. -/

set_option Elab.async false

set_option linter.unreachableTactic false
set_option linter.unusedTactic false
set_option linter.unnecessarySeqFocus false

namespace Sys2Proof.Machine

theorem putDuration_changes (s : State) (k ms : Nat) :
    Changes [.od] s (putDuration s k ms) := by
  unfold putDuration
  repeat' (first
    | with_reducible exact Changes.refl
    | with_reducible assumption
    | ((with_reducible apply Changes.step (odSet_changes _ _ _ _)); rfl)
    | (show kindsIn _ _ = true; rfl)
    | split
    | dsimp only
    | intro _)

theorem enterStep_changes (s : State) (k : Nat) (ms : Option Nat) :
    Changes [.od, .firmware] s (enterStep s k ms) := by
  unfold enterStep
  repeat' (first
    | with_reducible exact Changes.refl
    | with_reducible assumption
    | ((with_reducible apply Changes.step (odSet_changes _ _ _ _)); rfl)
    | ((with_reducible apply Changes.step (putDuration_changes _ _ _)); rfl)
    | (show kindsIn _ _ = true; rfl)
    | split
    | dsimp only
    | intro _
    | with_reducible refine Changes.update ?_)

theorem stopStart_changes (s : State) (reason : Nat) :
    Changes [.od, .firmware] s (stopStart s reason) := by
  unfold stopStart
  repeat' (first
    | with_reducible exact Changes.refl
    | with_reducible assumption
    | ((with_reducible apply Changes.step (odSet_changes _ _ _ _)); rfl)
    | (show kindsIn _ _ = true; rfl)
    | split
    | dsimp only
    | intro _
    | with_reducible refine Changes.update ?_)

theorem endStep8_changes (s : State) :
    Changes [.od, .ports, .firmware] s (endStep8 s) := by
  unfold endStep8
  repeat' (first
    | with_reducible exact Changes.refl
    | with_reducible assumption
    | ((with_reducible apply Changes.step (enterStep_changes _ _ _)); rfl)
    | (show kindsIn _ _ = true; rfl)
    | split
    | dsimp only
    | intro _
    | with_reducible refine Changes.update ?_)

theorem progressOnce_changes (s : State) :
    Changes [.od, .ports, .firmware] s (progressOnce s) := by
  unfold progressOnce
  repeat' (first
    | with_reducible exact Changes.refl
    | with_reducible assumption
    | ((with_reducible apply Changes.step (endStep8_changes _)); rfl)
    | ((with_reducible apply Changes.step (enterStep_changes _ _ _)); rfl)
    | ((with_reducible apply Changes.step (odSet_changes _ _ _ _)); rfl)
    | (show kindsIn _ _ = true; rfl)
    | split
    | dsimp only
    | intro _)

theorem progress_changes (s : State) :
    Changes [.od, .ports, .firmware] s (progress s) := by
  unfold progress
  repeat' (first
    | with_reducible exact Changes.refl
    | with_reducible assumption
    | ((with_reducible apply Changes.step (progressOnce_changes _)); rfl)
    | (show kindsIn _ _ = true; rfl)
    | split
    | dsimp only
    | intro _)

end Sys2Proof.Machine
end

