-- ==== Sys2Proof/Laws/FootprintHostLink.lean ====
section
/-! SUPPORT. What each function of Machine/HostLink.lean can change. -/

set_option Elab.async false

set_option linter.unreachableTactic false
set_option linter.unusedTactic false
set_option linter.unnecessarySeqFocus false

namespace Sys2Proof.Machine

theorem laneReport_changes (s : State) (lane : Nat) :
    Changes [.draws, .od, .recorder, .access, .output] s (laneReport s lane) := by
  unfold laneReport
  repeat' (first
    | with_reducible exact Changes.refl
    | with_reducible assumption
    | ((with_reducible apply Changes.step (fileReport_changes _ _)); rfl)
    | ((with_reducible apply Changes.step (freshNat_changes _ _ _)); rfl)
    | (show kindsIn _ _ = true; rfl)
    | split
    | dsimp only
    | intro _
    | with_reducible refine Changes.update ?_)

theorem linkTrained_changes (s : State) (m width : Nat) (cache : Bool) (k : HostConfig) (lanes : List Nat) :
    Changes [.draws, .od, .recorder, .access, .link, .firmware, .output] s (linkTrained s m width cache k lanes) := by
  unfold linkTrained
  repeat' (first
    | with_reducible exact Changes.refl
    | with_reducible assumption
    | ((with_reducible apply Changes.step (enterStep_changes _ _ _)); rfl)
    | ((with_reducible apply Changes.step (laneReport_changes _ _)); rfl)
    | ((with_reducible apply Changes.step (odBump_changes _ _ _ _)); rfl)
    | ((with_reducible apply Changes.step (odSet_changes _ _ _ _)); rfl)
    | ((with_reducible apply Changes.step (raiseVector_changes _ _)); rfl)
    | ((with_reducible apply Changes.step (sendPending_changes _)); rfl)
    | with_reducible apply Changes.foldl
    | with_reducible apply Changes.foldl_fst
    | with_reducible apply Changes.foldl_snd
    | with_reducible apply Changes.foldl_trd
    | with_reducible apply Changes.foldl_run
    | with_reducible apply Changes.foldl_deep
    | with_reducible apply Changes.foldl_lane
    | with_reducible apply Changes.foldl_blocks
    | (show kindsIn _ _ = true; rfl)
    | split
    | dsimp only
    | intro _
    | with_reducible refine Changes.update ?_)

theorem trainLink_changes (s : State) (m width : Nat) (cache : Bool) (k : HostConfig) (lanes : List Nat) :
    Changes [.draws, .od, .recorder, .access, .link, .firmware, .output] s (trainLink s m width cache k lanes) := by
  unfold trainLink
  repeat' (first
    | with_reducible exact Changes.refl
    | with_reducible assumption
    | ((with_reducible apply Changes.step (enterStep_changes _ _ _)); rfl)
    | ((with_reducible apply Changes.step (linkTrained_changes _ _ _ _ _ _)); rfl)
    | (show kindsIn _ _ = true; rfl)
    | split
    | dsimp only
    | intro _)

theorem execLinkTraining_changes (modes widths : List Nat) (cache : Bool) (config : HostConfig) (lanes : List Nat) (s : State) {t : State} (h : execLinkTraining modes widths cache config lanes s = .next t) :
    Changes [.draws, .od, .recorder, .access, .link, .firmware, .output] s t := by
  unfold execLinkTraining at h
  injection h with h
  subst h
  repeat' (first
    | with_reducible exact Changes.refl
    | with_reducible assumption
    | ((with_reducible apply Changes.step (trainLink_changes _ _ _ _ _ _)); rfl)
    | (show kindsIn _ _ = true; rfl)
    | split
    | dsimp only
    | intro _
    | with_reducible refine Changes.update ?_)

theorem retryRecords_changes (s : State) :
    Changes [.draws, .od, .memory, .sectors, .commands, .recorder, .access, .link, .output] s (retryRecords s) := by
  unfold retryRecords
  repeat' (first
    | with_reducible exact Changes.refl
    | with_reducible assumption
    | ((with_reducible apply Changes.step (writeOrHold_changes _ _)); rfl)
    | ((with_reducible apply Changes.step (writeRecords_changes _ _ _ _)); rfl)
    | with_reducible apply Changes.foldl
    | with_reducible apply Changes.foldl_fst
    | with_reducible apply Changes.foldl_snd
    | with_reducible apply Changes.foldl_trd
    | with_reducible apply Changes.foldl_run
    | with_reducible apply Changes.foldl_deep
    | with_reducible apply Changes.foldl_lane
    | with_reducible apply Changes.foldl_blocks
    | (show kindsIn _ _ = true; rfl)
    | split
    | dsimp only
    | intro _
    | with_reducible refine Changes.update ?_)

theorem linkDown_changes (s : State) :
    Changes [.draws, .od, .memory, .sectors, .accumulators, .commands, .tallies, .engines, .fabric, .ports, .channels, .power, .recorder, .tests, .access, .link, .drains, .output] s (linkDown s) := by
  unfold linkDown
  repeat' (first
    | with_reducible exact Changes.refl
    | with_reducible assumption
    | ((with_reducible apply Changes.step (odSet_changes _ _ _ _)); rfl)
    | ((with_reducible apply Changes.step (pumpChans_changes _)); rfl)
    | ((with_reducible apply Changes.step (retryRecords_changes _)); rfl)
    | (show kindsIn _ _ = true; rfl)
    | split
    | dsimp only
    | intro _
    | with_reducible refine Changes.update ?_)

theorem execLinkLoss_changes (s : State) {t : State} (h : execLinkLoss s = .next t) :
    Changes [.draws, .od, .memory, .sectors, .accumulators, .commands, .tallies, .engines, .fabric, .ports, .channels, .power, .recorder, .tests, .access, .link, .drains, .output] s t := by
  unfold execLinkLoss at h
  injection h with h
  subst h
  repeat' (first
    | with_reducible exact Changes.refl
    | with_reducible assumption
    | ((with_reducible apply Changes.step (linkDown_changes _)); rfl)
    | (show kindsIn _ _ = true; rfl)
    | split
    | dsimp only
    | intro _)

theorem execPerstN_changes (s : State) {t : State} (h : execPerstN s = .next t) :
    Changes [.draws, .od, .memory, .sectors, .accumulators, .commands, .tallies, .engines, .fabric, .ports, .channels, .power, .recorder, .tests, .access, .link, .drains, .output] s t := by
  unfold execPerstN at h
  injection h with h
  subst h
  repeat' (first
    | with_reducible exact Changes.refl
    | with_reducible assumption
    | ((with_reducible apply Changes.step (linkDown_changes _)); rfl)
    | ((with_reducible apply Changes.step (odSet_changes _ _ _ _)); rfl)
    | (show kindsIn _ _ = true; rfl)
    | split
    | dsimp only
    | intro _
    | with_reducible refine Changes.update ?_)

theorem filterRead_changes {K : List Kind} {s0 : State} {s : State} (lines : List Nat) (f : State → State)
    (hK : kindsIn [.draws, .od, .recorder, .access, .link, .output] K = true) (h : Changes K s0 s)
    (hf : ∀ e, Changes K e (f e)) : Changes K s0 (filterRead s lines f) := by
  unfold filterRead
  dsimp only
  split
  · refine Changes.trans ?_ (hf _)
    exact Changes.step (J := [.link]) (Changes.update Changes.refl) (kindsIn_trans rfl hK) h
  · refine Changes.step (odBump_changes _ _ _ _) (kindsIn_trans rfl hK) ?_
    refine Changes.step (emitAll_changes _ _) (kindsIn_trans rfl hK) ?_
    exact Changes.step (J := [.link]) (Changes.update Changes.refl) (kindsIn_trans rfl hK) h

theorem hdmAccess_changes (s : State) (write : Bool) (a n : Nat) (data : List Byte) :
    Changes [.draws, .od, .memory, .sectors, .recorder, .access, .link, .output] s (hdmAccess s write a n data) := by
  unfold hdmAccess
  repeat' (first
    | with_reducible exact Changes.refl
    | with_reducible assumption
    | ((with_reducible apply Changes.step (emit_changes _ _)); rfl)
    | (with_reducible apply filterRead_changes)
    | ((with_reducible apply Changes.step (memWrite_changes _ _ _)); rfl)
    | ((with_reducible apply Changes.step (odBump_changes _ _ _ _)); rfl)
    | (show kindsIn _ _ = true; rfl)
    | split
    | dsimp only
    | intro _)

theorem execHdmAccess_changes (write : Bool) (addr len : Nat) (data : List Byte) (s : State) {t : State} (h : execHdmAccess write addr len data s = .next t) :
    Changes [.draws, .od, .memory, .sectors, .recorder, .access, .link, .output] s t := by
  unfold execHdmAccess at h
  injection h with h
  subst h
  repeat' (first
    | with_reducible exact Changes.refl
    | with_reducible assumption
    | ((with_reducible apply Changes.step (hdmAccess_changes _ _ _ _ _)); rfl)
    | (show kindsIn _ _ = true; rfl)
    | split
    | dsimp only
    | intro _)

theorem execBisnpinvResponse_changes (line : Nat) (s : State) {t : State} (h : execBisnpinvResponse line s = .next t) :
    Changes [.draws, .od, .memory, .sectors, .accumulators, .commands, .tallies, .engines, .fabric, .ports, .channels, .power, .recorder, .tests, .access, .link, .drains, .output] s t := by
  unfold execBisnpinvResponse at h
  injection h with h
  subst h
  repeat' (first
    | with_reducible exact Changes.refl
    | with_reducible assumption
    | ((with_reducible apply Changes.step (pumpChans_changes _)); rfl)
    | ((with_reducible apply Changes.step (retryRecords_changes _)); rfl)
    | (show kindsIn _ _ = true; rfl)
    | split
    | dsimp only
    | intro _
    | with_reducible refine Changes.update ?_)

theorem execHostAccessFail_changes (write : Bool) (u q : Nat) (s : State) {t : State} (h : execHostAccessFail write u q s = .next t) :
    Changes [.draws, .od, .memory, .sectors, .accumulators, .commands, .tallies, .engines, .channels, .power, .recorder, .tests, .access, .link, .drains, .output] s t := by
  unfold execHostAccessFail at h
  injection h with h
  subst h
  repeat' (first
    | with_reducible exact Changes.refl
    | with_reducible assumption
    | ((with_reducible apply Changes.step (copyCmd_changes _ _ _)); rfl)
    | ((with_reducible apply Changes.step (copySource_changes _ _ _)); rfl)
    | ((with_reducible apply Changes.step (finishCmd_changes _ _ _)); rfl)
    | ((with_reducible apply Changes.step (odBump_changes _ _ _ _)); rfl)
    | (show kindsIn _ _ = true; rfl)
    | split
    | dsimp only
    | intro _)

theorem execDoorbellWrite_changes (offset size value : Nat) (s : State) {t : State} (h : execDoorbellWrite offset size value s = .next t) :
    Changes [.draws, .od, .memory, .sectors, .accumulators, .commands, .tallies, .engines, .channels, .power, .recorder, .access, .link, .drains, .output] s t := by
  unfold execDoorbellWrite at h
  injection h with h
  subst h
  repeat' (first
    | with_reducible exact Changes.refl
    | with_reducible assumption
    | ((with_reducible apply Changes.step (odBump_changes _ _ _ _)); rfl)
    | ((with_reducible apply Changes.step (publishTail_changes _ _ _ _)); rfl)
    | (show kindsIn _ _ = true; rfl)
    | split
    | dsimp only
    | intro _)

theorem drainQueue_changes (s : State) (u q : Nat) :
    Changes [.draws, .od, .commands, .engines, .recorder, .access, .drains, .output] s (drainQueue s u q) := by
  unfold drainQueue
  repeat' (first
    | with_reducible exact Changes.refl
    | with_reducible assumption
    | ((with_reducible apply Changes.step (becomeDrained_changes _ _ _)); rfl)
    | (show kindsIn _ _ = true; rfl)
    | split
    | dsimp only
    | intro _
    | with_reducible refine Changes.update ?_)

theorem orphanEvents_changes (s : State) :
    Changes [.draws, .od, .recorder, .access, .output] s (orphanEvents s) := by
  unfold orphanEvents
  repeat' (first
    | with_reducible exact Changes.refl
    | with_reducible assumption
    | ((with_reducible apply Changes.step (addRecord_changes _ _)); rfl)
    | ((with_reducible apply Changes.step (raiseVector_changes _ _)); rfl)
    | ((with_reducible apply Changes.step (snagSet_changes _ _)); rfl)
    | (show kindsIn _ _ = true; rfl)
    | split
    | dsimp only
    | intro _)

theorem becomeOrphaned_changes (s : State) :
    Changes [.draws, .od, .commands, .engines, .features, .recorder, .access, .drains, .firmware, .output] s (becomeOrphaned s) := by
  unfold becomeOrphaned
  repeat' (first
    | with_reducible exact Changes.refl
    | with_reducible assumption
    | ((with_reducible apply Changes.step (drainQueue_changes _ _ _)); rfl)
    | ((with_reducible apply Changes.step (odBump_changes _ _ _ _)); rfl)
    | ((with_reducible apply Changes.step (odSet_changes _ _ _ _)); rfl)
    | ((with_reducible apply Changes.step (orphanEvents_changes _)); rfl)
    | ((with_reducible apply Changes.step (settleContext_changes _ _)); rfl)
    | with_reducible apply Changes.foldl
    | (show kindsIn _ _ = true; rfl)
    | split
    | dsimp only
    | intro _
    | with_reducible refine Changes.update ?_)

theorem execHeartbeat_changes (size _value : Nat) (s : State) {t : State} (h : execHeartbeat size _value s = .next t) :
    Changes [.link] s t := by
  unfold execHeartbeat at h
  injection h with h
  subst h
  repeat' (first
    | with_reducible exact Changes.refl
    | with_reducible assumption
    | (show kindsIn _ _ = true; rfl)
    | split
    | dsimp only
    | intro _
    | with_reducible refine Changes.update ?_)

theorem execHeartbeatLapse_changes (s : State) {t : State} (h : execHeartbeatLapse s = .next t) :
    Changes [.draws, .od, .commands, .engines, .features, .recorder, .access, .drains, .firmware, .output] s t := by
  unfold execHeartbeatLapse at h
  injection h with h
  subst h
  repeat' (first
    | with_reducible exact Changes.refl
    | with_reducible assumption
    | ((with_reducible apply Changes.step (becomeOrphaned_changes _)); rfl)
    | (show kindsIn _ _ = true; rfl)
    | split
    | dsimp only
    | intro _)

theorem forceDrain_changes (s : State) (u q : Nat) :
    Changes [.draws, .od, .memory, .sectors, .commands, .tallies, .engines, .channels, .power, .recorder, .access, .link, .drains, .output] s (forceDrain s u q) := by
  unfold forceDrain
  repeat' (first
    | with_reducible exact Changes.refl
    | with_reducible assumption
    | ((with_reducible apply Changes.step (abortCmd_changes _ _ _)); rfl)
    | ((with_reducible apply Changes.step (becomeDrained_changes _ _ _)); rfl)
    | ((with_reducible apply Changes.step (endColls_changes _ _ _)); rfl)
    | with_reducible apply Changes.foldl
    | (show kindsIn _ _ = true; rfl)
    | split
    | dsimp only
    | intro _
    | with_reducible refine Changes.update ?_)

theorem execOrphanDrainLimit_changes (s : State) {t : State} (h : execOrphanDrainLimit s = .next t) :
    Changes [.draws, .od, .memory, .sectors, .commands, .tallies, .engines, .channels, .power, .recorder, .access, .link, .drains, .output] s t := by
  unfold execOrphanDrainLimit at h
  injection h with h
  subst h
  repeat' (first
    | with_reducible exact Changes.refl
    | with_reducible assumption
    | ((with_reducible apply Changes.step (forceDrain_changes _ _ _)); rfl)
    | with_reducible apply Changes.foldl
    | (show kindsIn _ _ = true; rfl)
    | split
    | dsimp only
    | intro _)

theorem returnQueues_changes (s : State) :
    Changes [.draws, .od, .recorder, .access, .drains, .output] s (returnQueues s) := by
  unfold returnQueues
  repeat' (first
    | with_reducible exact Changes.refl
    | with_reducible assumption
    | ((with_reducible apply Changes.step (qSet_changes _ _ _ _ _)); rfl)
    | ((with_reducible apply Changes.step (settleQueue_changes _ _ _)); rfl)
    | ((with_reducible apply Changes.step (stateChange_changes _ _ _ _ _ _ _)); rfl)
    | with_reducible apply Changes.foldl
    | with_reducible apply Changes.foldl_fst
    | with_reducible apply Changes.foldl_snd
    | with_reducible apply Changes.foldl_trd
    | with_reducible apply Changes.foldl_run
    | with_reducible apply Changes.foldl_deep
    | with_reducible apply Changes.foldl_lane
    | with_reducible apply Changes.foldl_blocks
    | (show kindsIn _ _ = true; rfl)
    | split
    | dsimp only
    | intro _
    | with_reducible refine Changes.update ?_)

end Sys2Proof.Machine
end

