-- ==== Sys2Proof/Laws/FootprintCalibration.lean ====
section
/-! SUPPORT. What each function of Machine/Calibration.lean can change. -/

set_option Elab.async false

set_option linter.unreachableTactic false
set_option linter.unusedTactic false
set_option linter.unnecessarySeqFocus false

namespace Sys2Proof.Machine

theorem tagCal_changes (s : State) (i : Nat) (temp : Int) :
    Changes [.od] s (tagCal s i temp) := by
  unfold tagCal
  repeat' (first
    | with_reducible exact Changes.refl
    | with_reducible assumption
    | ((with_reducible apply Changes.step (odSet_changes _ _ _ _)); rfl)
    | (show kindsIn _ _ = true; rfl)
    | split
    | dsimp only
    | intro _)

theorem scheduleRefresh_changes (s : State) (i : Nat) :
    Changes [.power] s (scheduleRefresh s i) := by
  unfold scheduleRefresh
  repeat' (first
    | with_reducible exact Changes.refl
    | with_reducible assumption
    | (show kindsIn _ _ = true; rfl)
    | split
    | dsimp only
    | intro _
    | with_reducible refine Changes.update ?_)

theorem checkCal_changes (s : State) (i : Nat) (temp : Int) :
    Changes [.draws, .od, .power, .recorder, .access, .output] s (checkCal s i temp) := by
  unfold checkCal
  repeat' (first
    | with_reducible exact Changes.refl
    | with_reducible assumption
    | ((with_reducible apply Changes.step (odSet_changes _ _ _ _)); rfl)
    | ((with_reducible apply Changes.step (scheduleRefresh_changes _ _)); rfl)
    | ((with_reducible apply Changes.step (snagSet_changes _ _)); rfl)
    | (show kindsIn _ _ = true; rfl)
    | split
    | dsimp only
    | intro _)

theorem refreshRefs_changes (s : State) (i : Nat) :
    Changes [.ports] s (refreshRefs s i) := by
  unfold refreshRefs
  repeat' (first
    | with_reducible exact Changes.refl
    | with_reducible assumption
    | (show kindsIn _ _ = true; rfl)
    | split
    | dsimp only
    | intro _
    | with_reducible refine Changes.update ?_)

end Sys2Proof.Machine
end

