-- ==== Sys2Proof/Laws/FootprintLink.lean ====
section
/-! SUPPORT. What each function of Machine/Link.lean can change. -/

set_option Elab.async false

set_option linter.unreachableTactic false
set_option linter.unusedTactic false
set_option linter.unnecessarySeqFocus false

namespace Sys2Proof.Machine

theorem abortPart_changes (s : State) (port vc : Nat) :
    Changes [.draws, .ports, .output] s (abortPart s port vc) := by
  unfold abortPart
  repeat' (first
    | with_reducible exact Changes.refl
    | with_reducible assumption
    | ((with_reducible apply Changes.step (sendAbort_changes _ _ _ _)); rfl)
    | (show kindsIn _ _ = true; rfl)
    | split
    | dsimp only
    | intro _
    | with_reducible refine Changes.update ?_)

theorem dropPacket_changes (s0 : State) (port vc : Nat) (more : Bool) :
    Changes [.draws, .od, .ports, .recorder, .access, .output] s0 (dropPacket s0 port vc more) := by
  unfold dropPacket
  repeat' (first
    | with_reducible exact Changes.refl
    | with_reducible assumption
    | ((with_reducible apply Changes.step (abortPart_changes _ _ _)); rfl)
    | ((with_reducible apply Changes.step (odBump_changes _ _ _ _)); rfl)
    | ((with_reducible apply Changes.step (putPort_changes _ _ _)); rfl)
    | (show kindsIn _ _ = true; rfl)
    | split
    | dsimp only
    | intro _
    | with_reducible refine Changes.update ?_)

theorem dropPartial_changes (s : State) (port vc : Nat) :
    Changes [.draws, .od, .ports, .recorder, .access, .output] s (dropPartial s port vc) := by
  unfold dropPartial
  repeat' (first
    | with_reducible exact Changes.refl
    | with_reducible assumption
    | ((with_reducible apply Changes.step (dropPacket_changes _ _ _ _)); rfl)
    | (show kindsIn _ _ = true; rfl)
    | split
    | dsimp only
    | intro _)

theorem setDropping_changes (s : State) (port vc : Nat) (on : Bool) :
    Changes [.ports] s (setDropping s port vc on) := by
  unfold setDropping
  repeat' (first
    | with_reducible exact Changes.refl
    | with_reducible assumption
    | ((with_reducible apply Changes.step (putPort_changes _ _ _)); rfl)
    | (show kindsIn _ _ = true; rfl)
    | split
    | dsimp only
    | intro _
    | with_reducible refine Changes.update ?_)

theorem receivePacket_changes (s : State) (p : Packet) :
    Changes [.draws, .od, .fabric, .ports, .recorder, .access, .output] s (receivePacket s p) := by
  unfold receivePacket
  repeat' (first
    | with_reducible exact Changes.refl
    | with_reducible assumption
    | ((with_reducible apply Changes.step (odBump_changes _ _ _ _)); rfl)
    | ((with_reducible apply Changes.step (routePacket_changes _ _)); rfl)
    | (show kindsIn _ _ = true; rfl)
    | split
    | dsimp only
    | intro _)

theorem abortPacket_changes (s : State) (port vc : Nat) :
    Changes [.draws, .od, .fabric, .ports, .recorder, .access, .output] s (abortPacket s port vc) := by
  unfold abortPacket
  repeat' (first
    | with_reducible exact Changes.refl
    | with_reducible assumption
    | ((with_reducible apply Changes.step (dropPartial_changes _ _ _)); rfl)
    | ((with_reducible apply Changes.step (incomplete_changes _ _)); rfl)
    | ((with_reducible apply Changes.step (resend_changes _ _ _)); rfl)
    | ((with_reducible apply Changes.step (setDropping_changes _ _ _ _)); rfl)
    | (show kindsIn _ _ = true; rfl)
    | split
    | dsimp only
    | intro _
    | with_reducible refine Changes.update ?_)

theorem takeSlot_changes (port : Nat) (f : Frame) (s : State) (k : Nat) :
    Changes [.draws, .od, .fabric, .ports, .recorder, .access, .output] s (takeSlot port f s k) := by
  unfold takeSlot
  repeat' (first
    | with_reducible exact Changes.refl
    | with_reducible assumption
    | ((with_reducible apply Changes.step (abortPacket_changes _ _ _)); rfl)
    | ((with_reducible apply Changes.step (dropPacket_changes _ _ _ _)); rfl)
    | ((with_reducible apply Changes.step (putPort_changes _ _ _)); rfl)
    | ((with_reducible apply Changes.step (receivePacket_changes _ _)); rfl)
    | ((with_reducible apply Changes.step (setDropping_changes _ _ _ _)); rfl)
    | (show kindsIn _ _ = true; rfl)
    | split
    | dsimp only
    | intro _
    | with_reducible refine Changes.update ?_)

theorem releaseTransit_changes (s : State) (port : Nat) :
    Changes [.fabric, .ports, .output] s (releaseTransit s port) := by
  unfold releaseTransit
  repeat' (first
    | with_reducible exact Changes.refl
    | with_reducible assumption
    | ((with_reducible apply Changes.step (dropTransit_changes _ _)); rfl)
    | ((with_reducible apply Changes.step (emitPacket_changes _ _ _)); rfl)
    | with_reducible apply Changes.foldl
    | with_reducible apply Changes.foldl_fst
    | with_reducible apply Changes.foldl_snd
    | with_reducible apply Changes.foldl_trd
    | with_reducible apply Changes.foldl_run
    | with_reducible apply Changes.foldl_deep
    | with_reducible apply Changes.foldl_lane
    | with_reducible apply Changes.foldl_blocks
    | (show kindsIn _ _ = true; rfl)
    | split
    | dsimp only
    | intro _)

theorem startOn_changes (s : State) (t : Transit) (q : Nat) :
    Changes [.fabric, .ports, .output] s (startOn s t q) := by
  unfold startOn
  repeat' (first
    | with_reducible exact Changes.refl
    | with_reducible assumption
    | ((with_reducible apply Changes.step (emitPacket_changes _ _ _)); rfl)
    | ((with_reducible apply Changes.step (queueBytes_changes _ _ _)); rfl)
    | (show kindsIn _ _ = true; rfl)
    | split
    | dsimp only
    | intro _
    | with_reducible refine Changes.update ?_)

theorem settleHeads_changes (s : State) :
    Changes [.fabric] s (settleHeads s) := by
  unfold settleHeads
  repeat' (first
    | with_reducible exact Changes.refl
    | with_reducible assumption
    | (show kindsIn _ _ = true; rfl)
    | split
    | dsimp only
    | intro _
    | with_reducible refine Changes.update ?_)

theorem retryWaiting_changes (s : State) :
    Changes [.draws, .od, .fabric, .ports, .recorder, .access, .output] s (retryWaiting s) := by
  unfold retryWaiting
  repeat' (first
    | with_reducible exact Changes.refl
    | with_reducible assumption
    | ((with_reducible apply Changes.step (dropTransit_changes _ _)); rfl)
    | ((with_reducible apply Changes.step (noRoute_changes _ _)); rfl)
    | ((with_reducible apply Changes.step (settleHeads_changes _)); rfl)
    | ((with_reducible apply Changes.step (startOn_changes _ _ _)); rfl)
    | with_reducible apply Changes.foldl
    | with_reducible apply Changes.foldl_fst
    | with_reducible apply Changes.foldl_snd
    | with_reducible apply Changes.foldl_trd
    | with_reducible apply Changes.foldl_run
    | with_reducible apply Changes.foldl_deep
    | with_reducible apply Changes.foldl_lane
    | with_reducible apply Changes.foldl_blocks
    | (show kindsIn _ _ = true; rfl)
    | split
    | dsimp only
    | intro _
    | with_reducible refine Changes.update ?_)

theorem badFrame_changes (s : State) (port : Nat) :
    Changes [.draws, .od, .ports, .recorder, .access, .output] s (badFrame s port) := by
  unfold badFrame
  repeat' (first
    | with_reducible exact Changes.refl
    | with_reducible assumption
    | ((with_reducible apply Changes.step (dropPartial_changes _ _ _)); rfl)
    | ((with_reducible apply Changes.step (odBump_changes _ _ _ _)); rfl)
    | with_reducible apply Changes.foldl
    | (show kindsIn _ _ = true; rfl)
    | split
    | dsimp only
    | intro _)

theorem settleXoff_changes (s : State) (port : Nat) :
    Changes [.draws, .od, .ports, .recorder, .access, .output] s (settleXoff s port) := by
  unfold settleXoff
  repeat' (first
    | with_reducible exact Changes.refl
    | with_reducible assumption
    | ((with_reducible apply Changes.step (emit_changes _ _)); rfl)
    | ((with_reducible apply Changes.step (odBump_changes _ _ _ _)); rfl)
    | ((with_reducible apply Changes.step (putPort_changes _ _ _)); rfl)
    | (show kindsIn _ _ = true; rfl)
    | split
    | dsimp only
    | intro _
    | with_reducible refine Changes.update ?_)

theorem settleXoffs_changes (s : State) :
    Changes [.draws, .od, .ports, .recorder, .access, .output] s (settleXoffs s) := by
  unfold settleXoffs
  repeat' (first
    | with_reducible exact Changes.refl
    | with_reducible assumption
    | ((with_reducible apply Changes.step (settleXoff_changes _ _)); rfl)
    | with_reducible apply Changes.foldl
    | (show kindsIn _ _ = true; rfl)
    | split
    | dsimp only
    | intro _)

theorem takeFrame_changes (s : State) (port : Nat) (f : Frame) :
    Changes [.draws, .od, .fabric, .ports, .recorder, .access, .output] s (takeFrame s port f) := by
  unfold takeFrame
  repeat' (first
    | with_reducible exact Changes.refl
    | with_reducible assumption
    | ((with_reducible apply Changes.step (badFrame_changes _ _)); rfl)
    | ((with_reducible apply Changes.step (putPort_changes _ _ _)); rfl)
    | ((with_reducible apply Changes.step (releaseTransit_changes _ _)); rfl)
    | ((with_reducible apply Changes.step (retryWaiting_changes _)); rfl)
    | ((with_reducible apply Changes.step (settleXoffs_changes _)); rfl)
    | ((with_reducible apply Changes.step (takeSlot_changes _ _ _ _)); rfl)
    | with_reducible apply Changes.foldl
    | (show kindsIn _ _ = true; rfl)
    | split
    | dsimp only
    | intro _
    | with_reducible refine Changes.update ?_)

theorem execEscapeMove_changes (port : Nat) (s : State) {t : State} (h : execEscapeMove port s = .next t) :
    Changes [.draws, .od, .fabric, .ports, .recorder, .access, .output] s t := by
  unfold execEscapeMove at h
  injection h with h
  subst h
  repeat' (first
    | with_reducible exact Changes.refl
    | with_reducible assumption
    | ((with_reducible apply Changes.step (dropTransit_changes _ _)); rfl)
    | ((with_reducible apply Changes.step (odBump_changes _ _ _ _)); rfl)
    | ((with_reducible apply Changes.step (retryWaiting_changes _)); rfl)
    | ((with_reducible apply Changes.step (sendSince_changes _ _ _ _)); rfl)
    | ((with_reducible apply Changes.step (settleXoffs_changes _)); rfl)
    | (show kindsIn _ _ = true; rfl)
    | split
    | dsimp only
    | intro _
    | with_reducible refine Changes.update ?_)

theorem abortQueued_changes (s : State) (t : Transit) :
    Changes [.draws, .ports, .output] s (abortQueued s t) := by
  unfold abortQueued
  repeat' (first
    | with_reducible exact Changes.refl
    | with_reducible assumption
    | ((with_reducible apply Changes.step (sendAbort_changes _ _ _ _)); rfl)
    | (show kindsIn _ _ = true; rfl)
    | split
    | dsimp only
    | intro _
    | with_reducible refine Changes.update ?_)

theorem execHopHoldLimit_changes (port : Nat) (s : State) {t : State} (h : execHopHoldLimit port s = .next t) :
    Changes [.draws, .od, .fabric, .ports, .recorder, .access, .output] s t := by
  unfold execHopHoldLimit at h
  injection h with h
  subst h
  repeat' (first
    | with_reducible exact Changes.refl
    | with_reducible assumption
    | ((with_reducible apply Changes.step (abortQueued_changes _ _)); rfl)
    | ((with_reducible apply Changes.step (dropTransit_changes _ _)); rfl)
    | ((with_reducible apply Changes.step (odBump_changes _ _ _ _)); rfl)
    | ((with_reducible apply Changes.step (retryWaiting_changes _)); rfl)
    | ((with_reducible apply Changes.step (settleXoffs_changes _)); rfl)
    | (show kindsIn _ _ = true; rfl)
    | split
    | dsimp only
    | intro _
    | with_reducible refine Changes.update ?_)

end Sys2Proof.Machine
end

