-- ==== Sys2Proof/Laws/FootprintOptics.lean ====
section
/-! SUPPORT. What each function of Machine/Optics.lean can change. -/

set_option Elab.async false

set_option linter.unreachableTactic false
set_option linter.unusedTactic false
set_option linter.unnecessarySeqFocus false

namespace Sys2Proof.Machine

theorem putRing_changes (s : State) (p : Nat) (tx : Bool) (slot : Nat) (r : Ring) :
    Changes [.ports] s (putRing s p tx slot r) := by
  unfold putRing
  repeat' (first
    | with_reducible exact Changes.refl
    | with_reducible assumption
    | ((with_reducible apply Changes.step (putPort_changes _ _ _)); rfl)
    | (show kindsIn _ _ = true; rfl)
    | split
    | dsimp only
    | intro _
    | with_reducible refine Changes.update ?_)

theorem setMap_changes (s : State) (p : Nat) (tx : Bool) (slot role lane : Nat) :
    Changes [.od] s (setMap s p tx slot role lane) := by
  unfold setMap
  repeat' (first
    | with_reducible exact Changes.refl
    | with_reducible assumption
    | ((with_reducible apply Changes.step (odSet_changes _ _ _ _)); rfl)
    | (show kindsIn _ _ = true; rfl)
    | split
    | dsimp only
    | intro _)

theorem sendMarkers_changes (s : State) (p : Nat) :
    Changes [.output] s (sendMarkers s p) := by
  unfold sendMarkers
  repeat' (first
    | with_reducible exact Changes.refl
    | with_reducible assumption
    | ((with_reducible apply Changes.step (emitAll_changes _ _)); rfl)
    | (show kindsIn _ _ = true; rfl)
    | split
    | dsimp only
    | intro _)

theorem dropFlight_changes (s : State) (p : Nat) :
    Changes [.draws, .od, .ports, .recorder, .access, .output] s (dropFlight s p) := by
  unfold dropFlight
  repeat' (first
    | with_reducible exact Changes.refl
    | with_reducible assumption
    | ((with_reducible apply Changes.step (dropPartial_changes _ _ _)); rfl)
    | with_reducible apply Changes.foldl
    | (show kindsIn _ _ = true; rfl)
    | split
    | dsimp only
    | intro _)

theorem setPortState_changes (s : State) (p v code : Nat) :
    Changes [.draws, .od, .ports, .recorder, .access, .firmware, .output] s (setPortState s p v code) := by
  unfold setPortState
  repeat' (first
    | with_reducible exact Changes.refl
    | with_reducible assumption
    | ((with_reducible apply Changes.step (dropFlight_changes _ _)); rfl)
    | ((with_reducible apply Changes.step (progress_changes _)); rfl)
    | ((with_reducible apply Changes.step (stateChange_changes _ _ _ _ _ _ _)); rfl)
    | (show kindsIn _ _ = true; rfl)
    | split
    | dsimp only
    | intro _)

theorem setKeyEntry_changes (s : State) (p v : Nat) :
    Changes [.od] s (setKeyEntry s p v) := by
  unfold setKeyEntry
  repeat' (first
    | with_reducible exact Changes.refl
    | with_reducible assumption
    | ((with_reducible apply Changes.step (odSet_changes _ _ _ _)); rfl)
    | (show kindsIn _ _ = true; rfl)
    | split
    | dsimp only
    | intro _)

theorem goDark_changes (s : State) (p : Nat) :
    Changes [.draws, .od, .ports, .recorder, .access, .firmware, .output] s (goDark s p) := by
  unfold goDark
  repeat' (first
    | with_reducible exact Changes.refl
    | with_reducible assumption
    | ((with_reducible apply Changes.step (putPort_changes _ _ _)); rfl)
    | ((with_reducible apply Changes.step (setPortState_changes _ _ _ _)); rfl)
    | (show kindsIn _ _ = true; rfl)
    | split
    | dsimp only
    | intro _
    | with_reducible refine Changes.update ?_)

theorem enterTraining_changes (s : State) (p : Nat) :
    Changes [.draws, .od, .ports, .recorder, .access, .firmware, .output] s (enterTraining s p) := by
  unfold enterTraining
  repeat' (first
    | with_reducible exact Changes.refl
    | with_reducible assumption
    | ((with_reducible apply Changes.step (putPort_changes _ _ _)); rfl)
    | ((with_reducible apply Changes.step (sendMarkers_changes _ _)); rfl)
    | ((with_reducible apply Changes.step (setPortState_changes _ _ _ _)); rfl)
    | (show kindsIn _ _ = true; rfl)
    | split
    | dsimp only
    | intro _
    | with_reducible refine Changes.update ?_)

theorem wakePort_changes (s : State) (p : Nat) :
    Changes [.draws, .od, .ports, .recorder, .access, .firmware, .output] s (wakePort s p) := by
  unfold wakePort
  repeat' (first
    | with_reducible exact Changes.refl
    | with_reducible assumption
    | ((with_reducible apply Changes.step (enterTraining_changes _ _)); rfl)
    | (show kindsIn _ _ = true; rfl)
    | split
    | dsimp only
    | intro _)

theorem isolate_changes (s : State) (p detail : Nat) :
    Changes [.draws, .od, .ports, .recorder, .access, .firmware, .output] s (isolate s p detail) := by
  unfold isolate
  repeat' (first
    | with_reducible exact Changes.refl
    | with_reducible assumption
    | ((with_reducible apply Changes.step (fileCode_changes _ _ _ _)); rfl)
    | ((with_reducible apply Changes.step (putPort_changes _ _ _)); rfl)
    | ((with_reducible apply Changes.step (setPortState_changes _ _ _ _)); rfl)
    | ((with_reducible apply Changes.step (snagSet_changes _ _)); rfl)
    | (show kindsIn _ _ = true; rfl)
    | split
    | dsimp only
    | intro _
    | with_reducible refine Changes.update ?_)

theorem sendEchoes_changes (s : State) (p : Nat) :
    Changes [.draws, .output] s (sendEchoes s p) := by
  unfold sendEchoes
  repeat' (first
    | with_reducible exact Changes.refl
    | with_reducible assumption
    | ((with_reducible apply Changes.step (emit_changes _ _)); rfl)
    | ((with_reducible apply Changes.step (freshNat_changes _ _ _)); rfl)
    | with_reducible apply Changes.foldl
    | with_reducible apply Changes.foldl_fst
    | with_reducible apply Changes.foldl_snd
    | with_reducible apply Changes.foldl_trd
    | with_reducible apply Changes.foldl_run
    | with_reducible apply Changes.foldl_deep
    | with_reducible apply Changes.foldl_lane
    | with_reducible apply Changes.foldl_blocks
    | (show kindsIn _ _ = true; rfl)
    | split
    | dsimp only
    | intro _)

theorem enterKeying_changes (s : State) (p : Nat) :
    Changes [.draws, .od, .ports, .recorder, .access, .firmware, .output] s (enterKeying s p) := by
  unfold enterKeying
  repeat' (first
    | with_reducible exact Changes.refl
    | with_reducible assumption
    | ((with_reducible apply Changes.step (emit_changes _ _)); rfl)
    | ((with_reducible apply Changes.step (putPort_changes _ _ _)); rfl)
    | ((with_reducible apply Changes.step (sendEchoes_changes _ _)); rfl)
    | ((with_reducible apply Changes.step (setPortState_changes _ _ _ _)); rfl)
    | (show kindsIn _ _ = true; rfl)
    | split
    | dsimp only
    | intro _
    | with_reducible refine Changes.update ?_)

theorem noSpare_changes (s : State) (p : Nat) :
    Changes [.draws, .od, .ports, .recorder, .access, .firmware, .output] s (noSpare s p) := by
  unfold noSpare
  repeat' (first
    | with_reducible exact Changes.refl
    | with_reducible assumption
    | ((with_reducible apply Changes.step (enterTraining_changes _ _)); rfl)
    | ((with_reducible apply Changes.step (isolate_changes _ _ _)); rfl)
    | (show kindsIn _ _ = true; rfl)
    | split
    | dsimp only
    | intro _)

theorem placeLane_changes (s : State) (p lane : Nat) :
    Changes [.draws, .od, .ports, .recorder, .access, .firmware, .output] s (placeLane s p lane) := by
  unfold placeLane
  repeat' (first
    | with_reducible exact Changes.refl
    | with_reducible assumption
    | ((with_reducible apply Changes.step (emit_changes _ _)); rfl)
    | ((with_reducible apply Changes.step (freshNat_changes _ _ _)); rfl)
    | ((with_reducible apply Changes.step (noSpare_changes _ _)); rfl)
    | ((with_reducible apply Changes.step (putPort_changes _ _ _)); rfl)
    | (show kindsIn _ _ = true; rfl)
    | split
    | dsimp only
    | intro _
    | with_reducible refine Changes.update ?_)

theorem placeLanes_changes (s : State) (p : Nat) :
    Changes [.draws, .od, .ports, .recorder, .access, .firmware, .output] s (placeLanes s p) := by
  unfold placeLanes
  repeat' (first
    | with_reducible exact Changes.refl
    | with_reducible assumption
    | ((with_reducible apply Changes.step (placeLane_changes _ _ _)); rfl)
    | with_reducible apply Changes.foldl
    | with_reducible apply Changes.foldl_fst
    | with_reducible apply Changes.foldl_snd
    | with_reducible apply Changes.foldl_trd
    | with_reducible apply Changes.foldl_run
    | with_reducible apply Changes.foldl_deep
    | with_reducible apply Changes.foldl_lane
    | with_reducible apply Changes.foldl_blocks
    | (show kindsIn _ _ = true; rfl)
    | split
    | dsimp only
    | intro _)

theorem restartCoat_changes (s0 s : State) (p : Nat) :
    Changes [.ports] s (restartCoat s0 s p) := by
  unfold restartCoat
  repeat' (first
    | with_reducible exact Changes.refl
    | with_reducible assumption
    | ((with_reducible apply Changes.step (putPort_changes _ _ _)); rfl)
    | (show kindsIn _ _ = true; rfl)
    | split
    | dsimp only
    | intro _
    | with_reducible refine Changes.update ?_)

theorem settlePort_changes (s0 s : State) (p : Nat) :
    Changes [.draws, .od, .ports, .recorder, .access, .firmware, .output] s (settlePort s0 s p) := by
  unfold settlePort
  repeat' (first
    | with_reducible exact Changes.refl
    | with_reducible assumption
    | ((with_reducible apply Changes.step (enterKeying_changes _ _)); rfl)
    | ((with_reducible apply Changes.step (enterTraining_changes _ _)); rfl)
    | ((with_reducible apply Changes.step (isolate_changes _ _ _)); rfl)
    | ((with_reducible apply Changes.step (placeLanes_changes _ _)); rfl)
    | ((with_reducible apply Changes.step (restartCoat_changes _ _ _)); rfl)
    | (show kindsIn _ _ = true; rfl)
    | split
    | dsimp only
    | intro _)

theorem sendReport_changes (s : State) (p : Nat) (bad : List Nat) :
    Changes [.ports, .output] s (sendReport s p bad) := by
  unfold sendReport
  repeat' (first
    | with_reducible exact Changes.refl
    | with_reducible assumption
    | ((with_reducible apply Changes.step (emit_changes _ _)); rfl)
    | ((with_reducible apply Changes.step (putPort_changes _ _ _)); rfl)
    | (show kindsIn _ _ = true; rfl)
    | split
    | dsimp only
    | intro _
    | with_reducible refine Changes.update ?_)

theorem moveLane_changes (s : State) (p slot : Nat) :
    Changes [.draws, .od, .ports, .recorder, .access, .firmware, .output] s (moveLane s p slot) := by
  unfold moveLane
  repeat' (first
    | with_reducible exact Changes.refl
    | with_reducible assumption
    | ((with_reducible apply Changes.step (placeLane_changes _ _ _)); rfl)
    | (show kindsIn _ _ = true; rfl)
    | split
    | dsimp only
    | intro _)

theorem wrongLock_changes (s : State) (p : Nat) (tx : Bool) (slot : Nat) (counted : Bool) :
    Changes [.draws, .od, .ports, .recorder, .access, .output] s (wrongLock s p tx slot counted) := by
  unfold wrongLock
  repeat' (first
    | with_reducible exact Changes.refl
    | with_reducible assumption
    | ((with_reducible apply Changes.step (odBump_changes _ _ _ _)); rfl)
    | ((with_reducible apply Changes.step (putRing_changes _ _ _ _ _)); rfl)
    | (show kindsIn _ _ = true; rfl)
    | split
    | dsimp only
    | intro _
    | with_reducible refine Changes.update ?_)

theorem takeReport_changes (s : State) (p : Nat) (w : BitVec 160) :
    Changes [.draws, .od, .ports, .recorder, .access, .firmware, .output] s (takeReport s p w) := by
  unfold takeReport
  repeat' (first
    | with_reducible exact Changes.refl
    | with_reducible assumption
    | ((with_reducible apply Changes.step (moveLane_changes _ _ _)); rfl)
    | ((with_reducible apply Changes.step (putPort_changes _ _ _)); rfl)
    | ((with_reducible apply Changes.step (setMap_changes _ _ _ _ _ _)); rfl)
    | ((with_reducible apply Changes.step (settlePort_changes _ _ _)); rfl)
    | ((with_reducible apply Changes.step (wrongLock_changes _ _ _ _ _)); rfl)
    | with_reducible apply Changes.foldl
    | with_reducible apply Changes.foldl_fst
    | with_reducible apply Changes.foldl_snd
    | with_reducible apply Changes.foldl_trd
    | with_reducible apply Changes.foldl_run
    | with_reducible apply Changes.foldl_deep
    | with_reducible apply Changes.foldl_lane
    | with_reducible apply Changes.foldl_blocks
    | (show kindsIn _ _ = true; rfl)
    | split
    | dsimp only
    | intro _
    | with_reducible refine Changes.update ?_)

theorem execReport_changes (port : Nat) (word : BitVec 160) (s : State) {t : State} (h : execReport port word s = .next t) :
    Changes [.draws, .od, .ports, .recorder, .access, .firmware, .output] s t := by
  unfold execReport at h
  injection h with h
  subst h
  repeat' (first
    | with_reducible exact Changes.refl
    | with_reducible assumption
    | ((with_reducible apply Changes.step (takeReport_changes _ _ _)); rfl)
    | (show kindsIn _ _ = true; rfl)
    | split
    | dsimp only
    | intro _)

theorem execMove_changes (port : Nat) (word : BitVec 160) (s : State) {t : State} (h : execMove port word s = .next t) :
    Changes [.ports] s t := by
  unfold execMove at h
  injection h with h
  subst h
  repeat' (first
    | with_reducible exact Changes.refl
    | with_reducible assumption
    | ((with_reducible apply Changes.step (putPort_changes _ _ _)); rfl)
    | (show kindsIn _ _ = true; rfl)
    | split
    | dsimp only
    | intro _
    | with_reducible refine Changes.update ?_)

theorem applyMove_changes (s : State) (p : Nat) (tx : Bool) (m : Mv) :
    Changes [.draws, .od, .recorder, .access, .output] s (applyMove s p tx m) := by
  unfold applyMove
  repeat' (first
    | with_reducible exact Changes.refl
    | with_reducible assumption
    | ((with_reducible apply Changes.step (odBump_changes _ _ _ _)); rfl)
    | ((with_reducible apply Changes.step (setMap_changes _ _ _ _ _ _)); rfl)
    | (show kindsIn _ _ = true; rfl)
    | split
    | dsimp only
    | intro _)

theorem execMoveTakesEffect_changes (port : Nat) (tx : Bool) (s : State) {t : State} (h : execMoveTakesEffect port tx s = .next t) :
    Changes [.draws, .od, .ports, .recorder, .access, .firmware, .output] s t := by
  unfold execMoveTakesEffect at h
  injection h with h
  subst h
  repeat' (first
    | with_reducible exact Changes.refl
    | with_reducible assumption
    | ((with_reducible apply Changes.step (applyMove_changes _ _ _ _)); rfl)
    | ((with_reducible apply Changes.step (enterKeying_changes _ _)); rfl)
    | ((with_reducible apply Changes.step (putPort_changes _ _ _)); rfl)
    | ((with_reducible apply Changes.step (settlePort_changes _ _ _)); rfl)
    | (show kindsIn _ _ = true; rfl)
    | split
    | dsimp only
    | intro _
    | with_reducible refine Changes.update ?_)

theorem ringSwept_changes (s : State) (p : Nat) (tx : Bool) (slot : Nat) (o : SweepOutcome) :
    Changes [.od, .ports] s (ringSwept s p tx slot o) := by
  unfold ringSwept
  repeat' (first
    | with_reducible exact Changes.refl
    | with_reducible assumption
    | ((with_reducible apply Changes.step (putRing_changes _ _ _ _ _)); rfl)
    | ((with_reducible apply Changes.step (setMap_changes _ _ _ _ _ _)); rfl)
    | (show kindsIn _ _ = true; rfl)
    | split
    | dsimp only
    | intro _
    | with_reducible refine Changes.update ?_)

theorem afterRing_changes (s0 s : State) (p : Nat) (tx : Bool) (slot : Nat) :
    Changes [.draws, .od, .ports, .recorder, .access, .firmware, .output] s (afterRing s0 s p tx slot) := by
  unfold afterRing
  repeat' (first
    | with_reducible exact Changes.refl
    | with_reducible assumption
    | ((with_reducible apply Changes.step (moveLane_changes _ _ _)); rfl)
    | ((with_reducible apply Changes.step (sendReport_changes _ _ _)); rfl)
    | ((with_reducible apply Changes.step (settlePort_changes _ _ _)); rfl)
    | (show kindsIn _ _ = true; rfl)
    | split
    | dsimp only
    | intro _)

theorem execRingSweep_changes (port : Nat) (tx : Bool) (slot : Nat) (o : SweepOutcome) (s : State) {t : State} (h : execRingSweep port tx slot o s = .next t) :
    Changes [.draws, .od, .ports, .recorder, .access, .firmware, .output] s t := by
  unfold execRingSweep at h
  injection h with h
  subst h
  repeat' (first
    | with_reducible exact Changes.refl
    | with_reducible assumption
    | ((with_reducible apply Changes.step (afterRing_changes _ _ _ _ _)); rfl)
    | ((with_reducible apply Changes.step (ringSwept_changes _ _ _ _ _)); rfl)
    | (show kindsIn _ _ = true; rfl)
    | split
    | dsimp only
    | intro _)

theorem execFeedforward_changes (port : Nat) (dT16tx dT16rx : Int) (s : State) {t : State} (h : execFeedforward port dT16tx dT16rx s = .next t) :
    Changes [.ports] s t := by
  unfold execFeedforward at h
  injection h with h
  subst h
  repeat' (first
    | with_reducible exact Changes.refl
    | with_reducible assumption
    | ((with_reducible apply Changes.step (putPort_changes _ _ _)); rfl)
    | (show kindsIn _ _ = true; rfl)
    | split
    | dsimp only
    | intro _
    | with_reducible refine Changes.update ?_)

theorem execLockLoss_changes (port : Nat) (tx : Bool) (slot : Nat) (s : State) {t : State} (h : execLockLoss port tx slot s = .next t) :
    Changes [.draws, .od, .ports, .recorder, .access, .firmware, .output] s t := by
  unfold execLockLoss at h
  injection h with h
  subst h
  repeat' (first
    | with_reducible exact Changes.refl
    | with_reducible assumption
    | ((with_reducible apply Changes.step (afterRing_changes _ _ _ _ _)); rfl)
    | ((with_reducible apply Changes.step (odBump_changes _ _ _ _)); rfl)
    | ((with_reducible apply Changes.step (putRing_changes _ _ _ _ _)); rfl)
    | (show kindsIn _ _ = true; rfl)
    | split
    | dsimp only
    | intro _
    | with_reducible refine Changes.update ?_)

theorem execRecapture_changes (port : Nat) (tx : Bool) (slot : Nat) (s : State) {t : State} (h : execRecapture port tx slot s = .next t) :
    Changes [.draws, .od, .ports, .recorder, .access, .firmware, .output] s t := by
  unfold execRecapture at h
  injection h with h
  subst h
  repeat' (first
    | with_reducible exact Changes.refl
    | with_reducible assumption
    | ((with_reducible apply Changes.step (afterRing_changes _ _ _ _ _)); rfl)
    | ((with_reducible apply Changes.step (putRing_changes _ _ _ _ _)); rfl)
    | (show kindsIn _ _ = true; rfl)
    | split
    | dsimp only
    | intro _
    | with_reducible refine Changes.update ?_)

theorem execHoldExpiry_changes (port : Nat) (tx : Bool) (slot : Nat) (s : State) {t : State} (h : execHoldExpiry port tx slot s = .next t) :
    Changes [.draws, .od, .ports, .recorder, .access, .firmware, .output] s t := by
  unfold execHoldExpiry at h
  injection h with h
  subst h
  repeat' (first
    | with_reducible exact Changes.refl
    | with_reducible assumption
    | ((with_reducible apply Changes.step (afterRing_changes _ _ _ _ _)); rfl)
    | ((with_reducible apply Changes.step (putRing_changes _ _ _ _ _)); rfl)
    | (show kindsIn _ _ = true; rfl)
    | split
    | dsimp only
    | intro _
    | with_reducible refine Changes.update ?_)

theorem execHeaterJump_changes (port : Nat) (tx : Bool) (slot : Nat) (s : State) {t : State} (h : execHeaterJump port tx slot s = .next t) :
    Changes [.draws, .od, .ports, .recorder, .access, .firmware, .output] s t := by
  unfold execHeaterJump at h
  injection h with h
  subst h
  repeat' (first
    | with_reducible exact Changes.refl
    | with_reducible assumption
    | ((with_reducible apply Changes.step (afterRing_changes _ _ _ _ _)); rfl)
    | ((with_reducible apply Changes.step (wrongLock_changes _ _ _ _ _)); rfl)
    | (show kindsIn _ _ = true; rfl)
    | split
    | dsimp only
    | intro _)

theorem loseAlignment_changes (s : State) (p slot : Nat) :
    Changes [.draws, .od, .ports, .recorder, .access, .firmware, .output] s (loseAlignment s p slot) := by
  unfold loseAlignment
  repeat' (first
    | with_reducible exact Changes.refl
    | with_reducible assumption
    | ((with_reducible apply Changes.step (odBump_changes _ _ _ _)); rfl)
    | ((with_reducible apply Changes.step (putPort_changes _ _ _)); rfl)
    | ((with_reducible apply Changes.step (sendReport_changes _ _ _)); rfl)
    | ((with_reducible apply Changes.step (settlePort_changes _ _ _)); rfl)
    | (show kindsIn _ _ = true; rfl)
    | split
    | dsimp only
    | intro _
    | with_reducible refine Changes.update ?_)

theorem goodMarker_changes (s : State) (p slot : Nat) (n : Nat) :
    Changes [.draws, .od, .ports, .recorder, .access, .firmware, .output] s (goodMarker s p slot n) := by
  unfold goodMarker
  repeat' (first
    | with_reducible exact Changes.refl
    | with_reducible assumption
    | ((with_reducible apply Changes.step (odBump_changes _ _ _ _)); rfl)
    | ((with_reducible apply Changes.step (putPort_changes _ _ _)); rfl)
    | ((with_reducible apply Changes.step (sendReport_changes _ _ _)); rfl)
    | ((with_reducible apply Changes.step (setMap_changes _ _ _ _ _ _)); rfl)
    | ((with_reducible apply Changes.step (settlePort_changes _ _ _)); rfl)
    | (show kindsIn _ _ = true; rfl)
    | split
    | dsimp only
    | intro _
    | with_reducible refine Changes.update ?_)

theorem execMarker_changes (port slot : Nat) (word : BitVec 160) (s : State) {t : State} (h : execMarker port slot word s = .next t) :
    Changes [.draws, .od, .ports, .recorder, .access, .firmware, .output] s t := by
  unfold execMarker at h
  injection h with h
  subst h
  repeat' (first
    | with_reducible exact Changes.refl
    | with_reducible assumption
    | ((with_reducible apply Changes.step (goodMarker_changes _ _ _ _)); rfl)
    | ((with_reducible apply Changes.step (loseAlignment_changes _ _ _)); rfl)
    | ((with_reducible apply Changes.step (putPort_changes _ _ _)); rfl)
    | (show kindsIn _ _ = true; rfl)
    | split
    | dsimp only
    | intro _
    | with_reducible refine Changes.update ?_)

theorem execAlignmentLoss_changes (port slot : Nat) (s : State) {t : State} (h : execAlignmentLoss port slot s = .next t) :
    Changes [.draws, .od, .ports, .recorder, .access, .firmware, .output] s t := by
  unfold execAlignmentLoss at h
  injection h with h
  subst h
  repeat' (first
    | with_reducible exact Changes.refl
    | with_reducible assumption
    | ((with_reducible apply Changes.step (loseAlignment_changes _ _ _)); rfl)
    | (show kindsIn _ _ = true; rfl)
    | split
    | dsimp only
    | intro _)

theorem execEcho_changes (port : Nat) (word : BitVec 160) (portCycle fixed : Nat) (s : State) {t : State} (h : execEcho port word portCycle fixed s = .next t) :
    Changes [.ports, .output] s t := by
  unfold execEcho at h
  injection h with h
  subst h
  repeat' (first
    | with_reducible exact Changes.refl
    | with_reducible assumption
    | ((with_reducible apply Changes.step (emit_changes _ _)); rfl)
    | ((with_reducible apply Changes.step (putPort_changes _ _ _)); rfl)
    | (show kindsIn _ _ = true; rfl)
    | split
    | dsimp only
    | intro _
    | with_reducible refine Changes.update ?_)

theorem execIdent_changes (port : Nat) (word : BitVec 160) (s : State) {t : State} (h : execIdent port word s = .next t) :
    Changes [.ports] s t := by
  unfold execIdent at h
  injection h with h
  subst h
  repeat' (first
    | with_reducible exact Changes.refl
    | with_reducible assumption
    | ((with_reducible apply Changes.step (putPort_changes _ _ _)); rfl)
    | (show kindsIn _ _ = true; rfl)
    | split
    | dsimp only
    | intro _
    | with_reducible refine Changes.update ?_)

theorem execMargin_changes (port : Nat) (word : BitVec 160) (s : State) {t : State} (h : execMargin port word s = .next t) :
    Changes [.ports] s t := by
  unfold execMargin at h
  injection h with h
  subst h
  repeat' (first
    | with_reducible exact Changes.refl
    | with_reducible assumption
    | ((with_reducible apply Changes.step (putPort_changes _ _ _)); rfl)
    | (show kindsIn _ _ = true; rfl)
    | split
    | dsimp only
    | intro _
    | with_reducible refine Changes.update ?_)

theorem recheckSlots_changes (s : State) (p : Nat) :
    Changes [.od, .ports] s (recheckSlots s p) := by
  unfold recheckSlots
  repeat' (first
    | with_reducible exact Changes.refl
    | with_reducible assumption
    | ((with_reducible apply Changes.step (putPort_changes _ _ _)); rfl)
    | ((with_reducible apply Changes.step (putRing_changes _ _ _ _ _)); rfl)
    | ((with_reducible apply Changes.step (setMap_changes _ _ _ _ _ _)); rfl)
    | with_reducible apply Changes.foldl
    | (show kindsIn _ _ = true; rfl)
    | split
    | dsimp only
    | intro _
    | with_reducible refine Changes.update ?_)

theorem sendMargins_changes (s : State) (p : Nat) (rows : List (List Nat)) :
    Changes [.ports, .output] s (sendMargins s p rows) := by
  unfold sendMargins
  repeat' (first
    | with_reducible exact Changes.refl
    | with_reducible assumption
    | ((with_reducible apply Changes.step (emitAll_changes _ _)); rfl)
    | ((with_reducible apply Changes.step (putPort_changes _ _ _)); rfl)
    | (show kindsIn _ _ = true; rfl)
    | split
    | dsimp only
    | intro _
    | with_reducible refine Changes.update ?_)

theorem mistCoat_changes (s : State) (p : Nat) (power tracking : List (List Nat)) (refs0 : MonReadings) :
    Changes [.draws, .od, .ports, .recorder, .access, .firmware, .output] s (mistCoat s p power tracking refs0) := by
  unfold mistCoat
  repeat' (first
    | with_reducible exact Changes.refl
    | with_reducible assumption
    | ((with_reducible apply Changes.step (fileCode_changes _ _ _ _)); rfl)
    | ((with_reducible apply Changes.step (odSet_changes _ _ _ _)); rfl)
    | ((with_reducible apply Changes.step (putPort_changes _ _ _)); rfl)
    | ((with_reducible apply Changes.step (recheckSlots_changes _ _)); rfl)
    | ((with_reducible apply Changes.step (sendMargins_changes _ _ _)); rfl)
    | ((with_reducible apply Changes.step (sendReport_changes _ _ _)); rfl)
    | ((with_reducible apply Changes.step (settlePort_changes _ _ _)); rfl)
    | ((with_reducible apply Changes.step (snagSet_changes _ _)); rfl)
    | ((with_reducible apply Changes.step (tagCal_changes _ _ _)); rfl)
    | (show kindsIn _ _ = true; rfl)
    | split
    | dsimp only
    | intro _
    | with_reducible refine Changes.update ?_)

theorem execMistCoat_changes (port : Nat) (power tracking : List (List Nat)) (refs : MonReadings) (s : State) {t : State} (h : execMistCoat port power tracking refs s = .next t) :
    Changes [.draws, .od, .ports, .recorder, .access, .firmware, .output] s t := by
  unfold execMistCoat at h
  injection h with h
  subst h
  repeat' (first
    | with_reducible exact Changes.refl
    | with_reducible assumption
    | ((with_reducible apply Changes.step (mistCoat_changes _ _ _ _ _)); rfl)
    | (show kindsIn _ _ = true; rfl)
    | split
    | dsimp only
    | intro _)

theorem monitorCompare_changes (s : State) (p : Nat) (r0 : MonReadings) :
    Changes [.draws, .od, .ports, .recorder, .access, .output] s (monitorCompare s p r0) := by
  unfold monitorCompare
  repeat' (first
    | with_reducible exact Changes.refl
    | with_reducible assumption
    | ((with_reducible apply Changes.step (fileCode_changes _ _ _ _)); rfl)
    | ((with_reducible apply Changes.step (odSet_changes _ _ _ _)); rfl)
    | ((with_reducible apply Changes.step (putPort_changes _ _ _)); rfl)
    | ((with_reducible apply Changes.step (snagSet_changes _ _)); rfl)
    | (show kindsIn _ _ = true; rfl)
    | split
    | dsimp only
    | intro _
    | with_reducible refine Changes.update ?_)

theorem execMonitorCompare_changes (port : Nat) (r : MonReadings) (s : State) {t : State} (h : execMonitorCompare port r s = .next t) :
    Changes [.draws, .od, .ports, .recorder, .access, .output] s t := by
  unfold execMonitorCompare at h
  injection h with h
  subst h
  repeat' (first
    | with_reducible exact Changes.refl
    | with_reducible assumption
    | ((with_reducible apply Changes.step (monitorCompare_changes _ _ _)); rfl)
    | (show kindsIn _ _ = true; rfl)
    | split
    | dsimp only
    | intro _)

theorem setClaim_changes (s : State) (p : Nat) (q : Option Nat) :
    Changes [.ports] s (setClaim s p q) := by
  unfold setClaim
  repeat' (first
    | with_reducible exact Changes.refl
    | with_reducible assumption
    | ((with_reducible apply Changes.step (putPort_changes _ _ _)); rfl)
    | (show kindsIn _ _ = true; rfl)
    | split
    | dsimp only
    | intro _
    | with_reducible refine Changes.update ?_)

theorem isolateSwapped_changes (s0 s : State) :
    Changes [.draws, .od, .ports, .recorder, .access, .firmware, .output] s (isolateSwapped s0 s) := by
  unfold isolateSwapped
  repeat' (first
    | with_reducible exact Changes.refl
    | with_reducible assumption
    | ((with_reducible apply Changes.step (isolate_changes _ _ _)); rfl)
    | with_reducible apply Changes.foldl
    | with_reducible apply Changes.foldl_fst
    | with_reducible apply Changes.foldl_snd
    | with_reducible apply Changes.foldl_trd
    | with_reducible apply Changes.foldl_run
    | with_reducible apply Changes.foldl_deep
    | with_reducible apply Changes.foldl_lane
    | with_reducible apply Changes.foldl_blocks
    | (show kindsIn _ _ = true; rfl)
    | split
    | dsimp only
    | intro _)

theorem goUp_changes (s : State) (p : Nat) :
    Changes [.draws, .od, .ports, .recorder, .access, .firmware, .output] s (goUp s p) := by
  unfold goUp
  repeat' (first
    | with_reducible exact Changes.refl
    | with_reducible assumption
    | ((with_reducible apply Changes.step (setPortState_changes _ _ _ _)); rfl)
    | ((with_reducible apply Changes.step (settlePort_changes _ _ _)); rfl)
    | (show kindsIn _ _ = true; rfl)
    | split
    | dsimp only
    | intro _)

theorem keyPort_changes (s : State) (p : Nat) :
    Changes [.draws, .od, .ports, .recorder, .access, .firmware, .output] s (keyPort s p) := by
  unfold keyPort
  repeat' (first
    | with_reducible exact Changes.refl
    | with_reducible assumption
    | ((with_reducible apply Changes.step (goUp_changes _ _)); rfl)
    | ((with_reducible apply Changes.step (isolate_changes _ _ _)); rfl)
    | ((with_reducible apply Changes.step (isolateSwapped_changes _ _)); rfl)
    | ((with_reducible apply Changes.step (odBump_changes _ _ _ _)); rfl)
    | ((with_reducible apply Changes.step (odSet_changes _ _ _ _)); rfl)
    | ((with_reducible apply Changes.step (putPort_changes _ _ _)); rfl)
    | ((with_reducible apply Changes.step (setClaim_changes _ _ _)); rfl)
    | ((with_reducible apply Changes.step (setKeyEntry_changes _ _ _)); rfl)
    | (show kindsIn _ _ = true; rfl)
    | split
    | dsimp only
    | intro _
    | with_reducible refine Changes.update ?_)

theorem execKeying_changes (port : Nat) (s : State) {t : State} (h : execKeying port s = .next t) :
    Changes [.draws, .od, .ports, .recorder, .access, .firmware, .output] s t := by
  unfold execKeying at h
  injection h with h
  subst h
  repeat' (first
    | with_reducible exact Changes.refl
    | with_reducible assumption
    | ((with_reducible apply Changes.step (keyPort_changes _ _)); rfl)
    | (show kindsIn _ _ = true; rfl)
    | split
    | dsimp only
    | intro _)

theorem execKeyingTimeExpiry_changes (port : Nat) (s : State) {t : State} (h : execKeyingTimeExpiry port s = .next t) :
    Changes [.draws, .od, .ports, .recorder, .access, .firmware, .output] s t := by
  unfold execKeyingTimeExpiry at h
  injection h with h
  subst h
  repeat' (first
    | with_reducible exact Changes.refl
    | with_reducible assumption
    | ((with_reducible apply Changes.step (goDark_changes _ _)); rfl)
    | ((with_reducible apply Changes.step (odBump_changes _ _ _ _)); rfl)
    | ((with_reducible apply Changes.step (setKeyEntry_changes _ _ _)); rfl)
    | (show kindsIn _ _ = true; rfl)
    | split
    | dsimp only
    | intro _)

theorem execKeyingDarkRetry_changes (port : Nat) (s : State) {t : State} (h : execKeyingDarkRetry port s = .next t) :
    Changes [.draws, .od, .ports, .recorder, .access, .firmware, .output] s t := by
  unfold execKeyingDarkRetry at h
  injection h with h
  subst h
  repeat' (first
    | with_reducible exact Changes.refl
    | with_reducible assumption
    | ((with_reducible apply Changes.step (wakePort_changes _ _)); rfl)
    | (show kindsIn _ _ = true; rfl)
    | split
    | dsimp only
    | intro _)

theorem rekeyPort_changes (s : State) (p : Nat) :
    Changes [.draws, .od, .ports, .recorder, .access, .firmware, .output] s (rekeyPort s p) := by
  unfold rekeyPort
  repeat' (first
    | with_reducible exact Changes.refl
    | with_reducible assumption
    | ((with_reducible apply Changes.step (enterKeying_changes _ _)); rfl)
    | ((with_reducible apply Changes.step (enterTraining_changes _ _)); rfl)
    | ((with_reducible apply Changes.step (putPort_changes _ _ _)); rfl)
    | (show kindsIn _ _ = true; rfl)
    | split
    | dsimp only
    | intro _
    | with_reducible refine Changes.update ?_)

theorem countCodeword_changes (p : Nat) (s : State) (slot : Nat) :
    Changes [.draws, .od, .ports, .recorder, .access, .output] s (countCodeword p s slot) := by
  unfold countCodeword
  repeat' (first
    | with_reducible exact Changes.refl
    | with_reducible assumption
    | ((with_reducible apply Changes.step (saturationEvent_changes _ _ _)); rfl)
    | (show kindsIn _ _ = true; rfl)
    | split
    | dsimp only
    | intro _
    | with_reducible refine Changes.update ?_)

theorem countSymbols_changes (p : Nat) (s : State) (x : Nat × Nat) :
    Changes [.draws, .od, .ports, .recorder, .access, .output] s (countSymbols p s x) := by
  unfold countSymbols
  repeat' (first
    | with_reducible exact Changes.refl
    | with_reducible assumption
    | ((with_reducible apply Changes.step (saturationEvent_changes _ _ _)); rfl)
    | (show kindsIn _ _ = true; rfl)
    | split
    | dsimp only
    | intro _
    | with_reducible refine Changes.update ?_)

theorem controlStream_changes (s : State) (p : Nat) :
    Changes [.output] s (controlStream s p) := by
  unfold controlStream
  repeat' (first
    | with_reducible exact Changes.refl
    | with_reducible assumption
    | ((with_reducible apply Changes.step (emit_changes _ _)); rfl)
    | ((with_reducible apply Changes.step (sendMarkers_changes _ _)); rfl)
    | (show kindsIn _ _ = true; rfl)
    | split
    | dsimp only
    | intro _)

theorem execFrameReceive_changes (port : Nat) (f : Frame) (s : State) {t : State} (h : execFrameReceive port f s = .next t) :
    Changes [.draws, .od, .fabric, .ports, .recorder, .access, .output] s t := by
  unfold execFrameReceive at h
  injection h with h
  subst h
  repeat' (first
    | with_reducible exact Changes.refl
    | with_reducible assumption
    | ((with_reducible apply Changes.step (controlStream_changes _ _)); rfl)
    | ((with_reducible apply Changes.step (countCodeword_changes _ _ _)); rfl)
    | ((with_reducible apply Changes.step (countSymbols_changes _ _ _)); rfl)
    | ((with_reducible apply Changes.step (putPort_changes _ _ _)); rfl)
    | ((with_reducible apply Changes.step (sendReport_changes _ _ _)); rfl)
    | ((with_reducible apply Changes.step (takeFrame_changes _ _ _)); rfl)
    | with_reducible apply Changes.foldl
    | with_reducible apply Changes.foldl_fst
    | with_reducible apply Changes.foldl_snd
    | with_reducible apply Changes.foldl_trd
    | with_reducible apply Changes.foldl_run
    | with_reducible apply Changes.foldl_deep
    | with_reducible apply Changes.foldl_lane
    | with_reducible apply Changes.foldl_blocks
    | (show kindsIn _ _ = true; rfl)
    | split
    | dsimp only
    | intro _
    | with_reducible refine Changes.update ?_)

theorem execLaserLost_changes (port : Nat) (li : Int) (s : State) {t : State} (h : execLaserLost port li s = .next t) :
    Changes [.draws, .od, .ports, .recorder, .access, .firmware, .output] s t := by
  unfold execLaserLost at h
  injection h with h
  subst h
  repeat' (first
    | with_reducible exact Changes.refl
    | with_reducible assumption
    | ((with_reducible apply Changes.step (goDark_changes _ _)); rfl)
    | ((with_reducible apply Changes.step (putPort_changes _ _ _)); rfl)
    | (show kindsIn _ _ = true; rfl)
    | split
    | dsimp only
    | intro _
    | with_reducible refine Changes.update ?_)

theorem execLaserPresent_changes (port : Nat) (li : Int) (s : State) {t : State} (h : execLaserPresent port li s = .next t) :
    Changes [.draws, .od, .ports, .recorder, .access, .firmware, .output] s t := by
  unfold execLaserPresent at h
  injection h with h
  subst h
  repeat' (first
    | with_reducible exact Changes.refl
    | with_reducible assumption
    | ((with_reducible apply Changes.step (putPort_changes _ _ _)); rfl)
    | ((with_reducible apply Changes.step (wakePort_changes _ _)); rfl)
    | (show kindsIn _ _ = true; rfl)
    | split
    | dsimp only
    | intro _
    | with_reducible refine Changes.update ?_)

theorem execRiLow_changes (port : Nat) (ri : Int) (s : State) {t : State} (h : execRiLow port ri s = .next t) :
    Changes [.draws, .od, .ports, .recorder, .access, .firmware, .output] s t := by
  unfold execRiLow at h
  injection h with h
  subst h
  repeat' (first
    | with_reducible exact Changes.refl
    | with_reducible assumption
    | ((with_reducible apply Changes.step (enterTraining_changes _ _)); rfl)
    | ((with_reducible apply Changes.step (putPort_changes _ _ _)); rfl)
    | (show kindsIn _ _ = true; rfl)
    | split
    | dsimp only
    | intro _
    | with_reducible refine Changes.update ?_)

theorem execRiRestored_changes (port : Nat) (ri : Int) (s : State) {t : State} (h : execRiRestored port ri s = .next t) :
    Changes [.draws, .od, .ports, .recorder, .access, .firmware, .output] s t := by
  unfold execRiRestored at h
  injection h with h
  subst h
  repeat' (first
    | with_reducible exact Changes.refl
    | with_reducible assumption
    | ((with_reducible apply Changes.step (enterTraining_changes _ _)); rfl)
    | ((with_reducible apply Changes.step (putPort_changes _ _ _)); rfl)
    | (show kindsIn _ _ = true; rfl)
    | split
    | dsimp only
    | intro _
    | with_reducible refine Changes.update ?_)

end Sys2Proof.Machine
end

