-- ==== Sys2Proof/Laws/FootprintPower.lean ====
section
/-! SUPPORT. What each function of Machine/Power.lean can change. -/

set_option Elab.async false

set_option linter.unreachableTactic false
set_option linter.unusedTactic false
set_option linter.unnecessarySeqFocus false

namespace Sys2Proof.Machine

theorem showFreq_changes (s : State) :
    Changes [.od] s (showFreq s) := by
  unfold showFreq
  repeat' (first
    | with_reducible exact Changes.refl
    | with_reducible assumption
    | ((with_reducible apply Changes.step (odSet_changes _ _ _ _)); rfl)
    | with_reducible apply Changes.foldl
    | (show kindsIn _ _ = true; rfl)
    | split
    | dsimp only
    | intro _)

theorem addStretch_changes (s : State) (d cause f : Nat) :
    Changes [.power] s (addStretch s d cause f) := by
  unfold addStretch
  repeat' (first
    | with_reducible exact Changes.refl
    | with_reducible assumption
    | (show kindsIn _ _ = true; rfl)
    | split
    | dsimp only
    | intro _
    | with_reducible refine Changes.update ?_)

theorem releaseStretch_changes (s : State) (d cause : Nat) :
    Changes [.power] s (releaseStretch s d cause) := by
  unfold releaseStretch
  repeat' (first
    | with_reducible exact Changes.refl
    | with_reducible assumption
    | (show kindsIn _ _ = true; rfl)
    | split
    | dsimp only
    | intro _
    | with_reducible refine Changes.update ?_)

theorem setCoreFreq_changes (s : State) (d f : Nat) :
    Changes [.power] s (setCoreFreq s d f) := by
  unfold setCoreFreq
  repeat' (first
    | with_reducible exact Changes.refl
    | with_reducible assumption
    | (show kindsIn _ _ = true; rfl)
    | split
    | dsimp only
    | intro _
    | with_reducible refine Changes.update ?_)

theorem restoreCore_changes (s : State) (d : Nat) :
    Changes [.power] s (restoreCore s d) := by
  unfold restoreCore
  repeat' (first
    | with_reducible exact Changes.refl
    | with_reducible assumption
    | ((with_reducible apply Changes.step (setCoreFreq_changes _ _ _)); rfl)
    | (show kindsIn _ _ = true; rfl)
    | split
    | dsimp only
    | intro _)

theorem showSensors_changes (s : State) :
    Changes [.od] s (showSensors s) := by
  unfold showSensors
  repeat' (first
    | with_reducible exact Changes.refl
    | with_reducible assumption
    | ((with_reducible apply Changes.step (odSet_changes _ _ _ _)); rfl)
    | (show kindsIn _ _ = true; rfl)
    | split
    | dsimp only
    | intro _)

theorem sense_changes (s : State) (r : Reading) :
    Changes [.od, .power] s (sense s r) := by
  unfold sense
  repeat' (first
    | with_reducible exact Changes.refl
    | with_reducible assumption
    | ((with_reducible apply Changes.step (showSensors_changes _)); rfl)
    | (show kindsIn _ _ = true; rfl)
    | split
    | dsimp only
    | intro _
    | with_reducible refine Changes.update ?_)

theorem senseAll_changes (s : State) (rs : List Reading) :
    Changes [.od, .power] s (senseAll s rs) := by
  unfold senseAll
  repeat' (first
    | with_reducible exact Changes.refl
    | with_reducible assumption
    | ((with_reducible apply Changes.step (sense_changes _ _)); rfl)
    | with_reducible apply Changes.foldl
    | (show kindsIn _ _ = true; rfl)
    | split
    | dsimp only
    | intro _)

theorem execDroop_changes (x : DroopSense) (s : State) {t : State} (h : execDroop x s = .next t) :
    Changes [.draws, .od, .power, .recorder, .access, .output] s t := by
  unfold execDroop at h
  injection h with h
  subst h
  repeat' (first
    | with_reducible exact Changes.refl
    | with_reducible assumption
    | ((with_reducible apply Changes.step (addStretch_changes _ _ _ _)); rfl)
    | ((with_reducible apply Changes.step (odBump_changes _ _ _ _)); rfl)
    | ((with_reducible apply Changes.step (showFreq_changes _)); rfl)
    | (show kindsIn _ _ = true; rfl)
    | split
    | dsimp only
    | intro _)

theorem execOvercurrent_changes (watts : Nat) (s : State) {t : State} (h : execOvercurrent watts s = .next t) :
    Changes [.draws, .od, .power, .recorder, .access, .output] s t := by
  unfold execOvercurrent at h
  injection h with h
  subst h
  repeat' (first
    | with_reducible exact Changes.refl
    | with_reducible assumption
    | ((with_reducible apply Changes.step (addStretch_changes _ _ _ _)); rfl)
    | ((with_reducible apply Changes.step (odBump_changes _ _ _ _)); rfl)
    | ((with_reducible apply Changes.step (showFreq_changes _)); rfl)
    | with_reducible apply Changes.foldl
    | with_reducible apply Changes.foldl_fst
    | with_reducible apply Changes.foldl_snd
    | with_reducible apply Changes.foldl_trd
    | with_reducible apply Changes.foldl_run
    | with_reducible apply Changes.foldl_deep
    | with_reducible apply Changes.foldl_lane
    | with_reducible apply Changes.foldl_blocks
    | (show kindsIn _ _ = true; rfl)
    | split
    | dsimp only
    | intro _)

theorem execThermalStretch_changes (r : Reading) (s : State) {t : State} (h : execThermalStretch r s = .next t) :
    Changes [.od, .power] s t := by
  unfold execThermalStretch at h
  injection h with h
  subst h
  repeat' (first
    | with_reducible exact Changes.refl
    | with_reducible assumption
    | ((with_reducible apply Changes.step (addStretch_changes _ _ _ _)); rfl)
    | ((with_reducible apply Changes.step (sense_changes _ _)); rfl)
    | ((with_reducible apply Changes.step (showFreq_changes _)); rfl)
    | with_reducible apply Changes.foldl
    | with_reducible apply Changes.foldl_fst
    | with_reducible apply Changes.foldl_snd
    | with_reducible apply Changes.foldl_trd
    | with_reducible apply Changes.foldl_run
    | with_reducible apply Changes.foldl_deep
    | with_reducible apply Changes.foldl_lane
    | with_reducible apply Changes.foldl_blocks
    | (show kindsIn _ _ = true; rfl)
    | split
    | dsimp only
    | intro _)

theorem execJunctionLimit_changes (r : Reading) (s : State) {t : State} (h : execJunctionLimit r s = .next t) :
    Changes [.od, .power] s t := by
  unfold execJunctionLimit at h
  injection h with h
  subst h
  repeat' (first
    | with_reducible exact Changes.refl
    | with_reducible assumption
    | ((with_reducible apply Changes.step (addStretch_changes _ _ _ _)); rfl)
    | ((with_reducible apply Changes.step (sense_changes _ _)); rfl)
    | ((with_reducible apply Changes.step (setCoreFreq_changes _ _ _)); rfl)
    | ((with_reducible apply Changes.step (showFreq_changes _)); rfl)
    | with_reducible apply Changes.foldl
    | with_reducible apply Changes.foldl_fst
    | with_reducible apply Changes.foldl_snd
    | with_reducible apply Changes.foldl_trd
    | with_reducible apply Changes.foldl_run
    | with_reducible apply Changes.foldl_deep
    | with_reducible apply Changes.foldl_lane
    | with_reducible apply Changes.foldl_blocks
    | (show kindsIn _ _ = true; rfl)
    | split
    | dsimp only
    | intro _)

theorem execStretchStepDown_changes (d : Nat) (s : State) {t : State} (h : execStretchStepDown d s = .next t) :
    Changes [.od, .power] s t := by
  unfold execStretchStepDown at h
  injection h with h
  subst h
  repeat' (first
    | with_reducible exact Changes.refl
    | with_reducible assumption
    | ((with_reducible apply Changes.step (showFreq_changes _)); rfl)
    | (show kindsIn _ _ = true; rfl)
    | split
    | dsimp only
    | intro _
    | with_reducible refine Changes.update ?_)

theorem raiseStretch_changes (s : State) (x : Stretch) :
    Changes [.power] s (raiseStretch s x) := by
  unfold raiseStretch
  repeat' (first
    | with_reducible exact Changes.refl
    | with_reducible assumption
    | (show kindsIn _ _ = true; rfl)
    | split
    | dsimp only
    | intro _
    | with_reducible refine Changes.update ?_)

theorem execStretchReleaseStep_changes (x : StretchStep) (s : State) {t : State} (h : execStretchReleaseStep x s = .next t) :
    Changes [.od, .power] s t := by
  unfold execStretchReleaseStep at h
  injection h with h
  subst h
  repeat' (first
    | with_reducible exact Changes.refl
    | with_reducible assumption
    | ((with_reducible apply Changes.step (raiseStretch_changes _ _)); rfl)
    | ((with_reducible apply Changes.step (showFreq_changes _)); rfl)
    | (show kindsIn _ _ = true; rfl)
    | split
    | dsimp only
    | intro _
    | with_reducible refine Changes.update ?_)

theorem putAllocations_changes (s : State) (v : Nat) :
    Changes [.od, .power] s (putAllocations s v) := by
  unfold putAllocations
  repeat' (first
    | with_reducible exact Changes.refl
    | with_reducible assumption
    | ((with_reducible apply Changes.step (odSet_changes _ _ _ _)); rfl)
    | (show kindsIn _ _ = true; rfl)
    | split
    | dsimp only
    | intro _
    | with_reducible refine Changes.update ?_)

theorem emergencyClocks_changes (s : State) :
    Changes [.od, .power] s (emergencyClocks s) := by
  unfold emergencyClocks
  repeat' (first
    | with_reducible exact Changes.refl
    | with_reducible assumption
    | ((with_reducible apply Changes.step (addStretch_changes _ _ _ _)); rfl)
    | ((with_reducible apply Changes.step (odSet_changes _ _ _ _)); rfl)
    | ((with_reducible apply Changes.step (setCoreFreq_changes _ _ _)); rfl)
    | ((with_reducible apply Changes.step (showFreq_changes _)); rfl)
    | with_reducible apply Changes.foldl
    | with_reducible apply Changes.foldl_fst
    | with_reducible apply Changes.foldl_snd
    | with_reducible apply Changes.foldl_trd
    | with_reducible apply Changes.foldl_run
    | with_reducible apply Changes.foldl_deep
    | with_reducible apply Changes.foldl_lane
    | with_reducible apply Changes.foldl_blocks
    | (show kindsIn _ _ = true; rfl)
    | split
    | dsimp only
    | intro _
    | with_reducible refine Changes.update ?_)

theorem causeSnag_changes (s : State) (b : Nat) :
    Changes [.draws, .od, .recorder, .access, .output] s (causeSnag s b) := by
  unfold causeSnag
  repeat' (first
    | with_reducible exact Changes.refl
    | with_reducible assumption
    | ((with_reducible apply Changes.step (snagSet_changes _ _)); rfl)
    | (show kindsIn _ _ = true; rfl)
    | split
    | dsimp only
    | intro _)

theorem raiseCause_changes (s : State) (b : Nat) :
    Changes [.draws, .od, .power, .recorder, .access, .output] s (raiseCause s b) := by
  unfold raiseCause
  repeat' (first
    | with_reducible exact Changes.refl
    | with_reducible assumption
    | ((with_reducible apply Changes.step (causeSnag_changes _ _)); rfl)
    | ((with_reducible apply Changes.step (emergencyClocks_changes _)); rfl)
    | ((with_reducible apply Changes.step (fileCode_changes _ _ _ _)); rfl)
    | ((with_reducible apply Changes.step (msixAllContexts_changes _)); rfl)
    | ((with_reducible apply Changes.step (odBump_changes _ _ _ _)); rfl)
    | ((with_reducible apply Changes.step (odSet_changes _ _ _ _)); rfl)
    | ((with_reducible apply Changes.step (snagSet_changes _ _)); rfl)
    | ((with_reducible apply Changes.step (stateChange_changes _ _ _ _ _ _ _)); rfl)
    | (show kindsIn _ _ = true; rfl)
    | split
    | dsimp only
    | intro _
    | with_reducible refine Changes.update ?_)

theorem clearCause_changes (s : State) (b : Nat) :
    Changes [.draws, .od, .power, .recorder, .access, .output] s (clearCause s b) := by
  unfold clearCause
  repeat' (first
    | with_reducible exact Changes.refl
    | with_reducible assumption
    | ((with_reducible apply Changes.step (releaseStretch_changes _ _ _)); rfl)
    | ((with_reducible apply Changes.step (stateChange_changes _ _ _ _ _ _ _)); rfl)
    | with_reducible apply Changes.foldl
    | with_reducible apply Changes.foldl_fst
    | with_reducible apply Changes.foldl_snd
    | with_reducible apply Changes.foldl_trd
    | with_reducible apply Changes.foldl_run
    | with_reducible apply Changes.foldl_deep
    | with_reducible apply Changes.foldl_lane
    | with_reducible apply Changes.foldl_blocks
    | (show kindsIn _ _ = true; rfl)
    | split
    | dsimp only
    | intro _
    | with_reducible refine Changes.update ?_)

theorem emergNFalls_changes (s : State) :
    Changes [.draws, .od, .power, .recorder, .access, .output] s (emergNFalls s) := by
  unfold emergNFalls
  repeat' (first
    | with_reducible exact Changes.refl
    | with_reducible assumption
    | ((with_reducible apply Changes.step (raiseCause_changes _ _)); rfl)
    | (show kindsIn _ _ = true; rfl)
    | split
    | dsimp only
    | intro _
    | with_reducible refine Changes.update ?_)

theorem execEmergNReturnsHigh_changes (s : State) {t : State} (h : execEmergNReturnsHigh s = .next t) :
    Changes [.draws, .od, .power, .recorder, .access, .output] s t := by
  unfold execEmergNReturnsHigh at h
  injection h with h
  subst h
  repeat' (first
    | with_reducible exact Changes.refl
    | with_reducible assumption
    | ((with_reducible apply Changes.step (clearCause_changes _ _)); rfl)
    | (show kindsIn _ _ = true; rfl)
    | split
    | dsimp only
    | intro _
    | with_reducible refine Changes.update ?_)

theorem execEmergencyReleaseStep_changes (watts : Nat) (s : State) {t : State} (h : execEmergencyReleaseStep watts s = .next t) :
    Changes [.od, .power] s t := by
  unfold execEmergencyReleaseStep at h
  injection h with h
  subst h
  repeat' (first
    | with_reducible exact Changes.refl
    | with_reducible assumption
    | ((with_reducible apply Changes.step (raiseStretch_changes _ _)); rfl)
    | ((with_reducible apply Changes.step (showFreq_changes _)); rfl)
    | with_reducible apply Changes.foldl
    | (show kindsIn _ _ = true; rfl)
    | split
    | dsimp only
    | intro _)

theorem thermalTrip_changes (r : Reading) (s : State) :
    Changes [.draws, .od, .power, .recorder, .access, .output] s (thermalTrip r s) := by
  unfold thermalTrip
  repeat' (first
    | with_reducible exact Changes.refl
    | with_reducible assumption
    | ((with_reducible apply Changes.step (raiseCause_changes _ _)); rfl)
    | ((with_reducible apply Changes.step (sense_changes _ _)); rfl)
    | (show kindsIn _ _ = true; rfl)
    | split
    | dsimp only
    | intro _
    | with_reducible refine Changes.update ?_)

theorem execStretchCauseClears_changes (cause d : Nat) (rs : List Reading) (s : State) {t : State} (h : execStretchCauseClears cause d rs s = .next t) :
    Changes [.draws, .od, .power, .recorder, .access, .output] s t := by
  unfold execStretchCauseClears at h
  injection h with h
  subst h
  repeat' (first
    | with_reducible exact Changes.refl
    | with_reducible assumption
    | ((with_reducible apply Changes.step (clearCause_changes _ _)); rfl)
    | ((with_reducible apply Changes.step (releaseStretch_changes _ _ _)); rfl)
    | ((with_reducible apply Changes.step (restoreCore_changes _ _)); rfl)
    | ((with_reducible apply Changes.step (senseAll_changes _ _)); rfl)
    | with_reducible apply Changes.foldl
    | with_reducible apply Changes.foldl_fst
    | with_reducible apply Changes.foldl_snd
    | with_reducible apply Changes.foldl_trd
    | with_reducible apply Changes.foldl_run
    | with_reducible apply Changes.foldl_deep
    | with_reducible apply Changes.foldl_lane
    | with_reducible apply Changes.foldl_blocks
    | (show kindsIn _ _ = true; rfl)
    | split
    | dsimp only
    | intro _
    | with_reducible refine Changes.update ?_)

theorem newWindow_changes (s : State) :
    Changes [.commands, .power] s (newWindow s) := by
  unfold newWindow
  repeat' (first
    | with_reducible exact Changes.refl
    | with_reducible assumption
    | ((with_reducible apply Changes.step (addWindow_changes _ _ _)); rfl)
    | with_reducible apply Changes.foldl
    | (show kindsIn _ _ = true; rfl)
    | split
    | dsimp only
    | intro _
    | with_reducible refine Changes.update ?_)

theorem takeDynamic_changes (s : State) (measured : List Nat) :
    Changes [.draws, .power] s (takeDynamic s measured) := by
  unfold takeDynamic
  repeat' (first
    | with_reducible exact Changes.refl
    | with_reducible assumption
    | (show kindsIn _ _ = true; rfl)
    | split
    | dsimp only
    | intro _
    | with_reducible refine Changes.update ?_)

theorem governDie_changes (s : State) (d : Nat) :
    Changes [.od] s (governDie s d) := by
  unfold governDie
  repeat' (first
    | with_reducible exact Changes.refl
    | with_reducible assumption
    | ((with_reducible apply Changes.step (odSet_changes _ _ _ _)); rfl)
    | (show kindsIn _ _ = true; rfl)
    | split
    | dsimp only
    | intro _)

theorem governorLoop_changes (measured : List Nat) (watts : Nat) (rs : List Reading) (s : State) :
    Changes [.draws, .od, .commands, .power, .recorder, .access, .output] s (governorLoop measured watts rs s) := by
  unfold governorLoop
  repeat' (first
    | with_reducible exact Changes.refl
    | with_reducible assumption
    | ((with_reducible apply Changes.step (clearCause_changes _ _)); rfl)
    | ((with_reducible apply Changes.step (governDie_changes _ _)); rfl)
    | ((with_reducible apply Changes.step (newWindow_changes _)); rfl)
    | ((with_reducible apply Changes.step (odSet_changes _ _ _ _)); rfl)
    | ((with_reducible apply Changes.step (raiseCause_changes _ _)); rfl)
    | ((with_reducible apply Changes.step (senseAll_changes _ _)); rfl)
    | ((with_reducible apply Changes.step (takeDynamic_changes _ _)); rfl)
    | with_reducible apply Changes.foldl
    | with_reducible apply Changes.foldl_fst
    | with_reducible apply Changes.foldl_snd
    | with_reducible apply Changes.foldl_trd
    | with_reducible apply Changes.foldl_run
    | with_reducible apply Changes.foldl_deep
    | with_reducible apply Changes.foldl_lane
    | with_reducible apply Changes.foldl_blocks
    | (show kindsIn _ _ = true; rfl)
    | split
    | dsimp only
    | intro _
    | with_reducible refine Changes.update ?_)

theorem applySetPoints_changes (s : State) :
    Changes [.od, .power] s (applySetPoints s) := by
  unfold applySetPoints
  repeat' (first
    | with_reducible exact Changes.refl
    | with_reducible assumption
    | ((with_reducible apply Changes.step (setCoreFreq_changes _ _ _)); rfl)
    | ((with_reducible apply Changes.step (showFreq_changes _)); rfl)
    | with_reducible apply Changes.foldl
    | with_reducible apply Changes.foldl_fst
    | with_reducible apply Changes.foldl_snd
    | with_reducible apply Changes.foldl_trd
    | with_reducible apply Changes.foldl_run
    | with_reducible apply Changes.foldl_deep
    | with_reducible apply Changes.foldl_lane
    | with_reducible apply Changes.foldl_blocks
    | (show kindsIn _ _ = true; rfl)
    | split
    | dsimp only
    | intro _
    | with_reducible refine Changes.update ?_)

theorem endRelease_changes (s : State) :
    Changes [.od, .power] s (endRelease s) := by
  unfold endRelease
  repeat' (first
    | with_reducible exact Changes.refl
    | with_reducible assumption
    | ((with_reducible apply Changes.step (odSet_changes _ _ _ _)); rfl)
    | ((with_reducible apply Changes.step (restoreCore_changes _ _)); rfl)
    | with_reducible apply Changes.foldl
    | with_reducible apply Changes.foldl_fst
    | with_reducible apply Changes.foldl_snd
    | with_reducible apply Changes.foldl_trd
    | with_reducible apply Changes.foldl_run
    | with_reducible apply Changes.foldl_deep
    | with_reducible apply Changes.foldl_lane
    | with_reducible apply Changes.foldl_blocks
    | (show kindsIn _ _ = true; rfl)
    | split
    | dsimp only
    | intro _
    | with_reducible refine Changes.update ?_)

theorem guardMargins_changes (s : State) (p : Nat) :
    Changes [.od] s (guardMargins s p) := by
  unfold guardMargins
  repeat' (first
    | with_reducible exact Changes.refl
    | with_reducible assumption
    | ((with_reducible apply Changes.step (odSet_changes _ _ _ _)); rfl)
    | (show kindsIn _ _ = true; rfl)
    | split
    | dsimp only
    | intro _)

theorem beginRefresh_changes (s : State) (i : Nat) :
    Changes [.od] s (beginRefresh s i) := by
  unfold beginRefresh
  repeat' (first
    | with_reducible exact Changes.refl
    | with_reducible assumption
    | ((with_reducible apply Changes.step (odSet_changes _ _ _ _)); rfl)
    | (show kindsIn _ _ = true; rfl)
    | split
    | dsimp only
    | intro _)

theorem endRefresh_changes (s : State) (i : Nat) (temp : Int) :
    Changes [.draws, .od, .ports, .power, .recorder, .access, .output] s (endRefresh s i temp) := by
  unfold endRefresh
  repeat' (first
    | with_reducible exact Changes.refl
    | with_reducible assumption
    | ((with_reducible apply Changes.step (guardMargins_changes _ _)); rfl)
    | ((with_reducible apply Changes.step (odBump_changes _ _ _ _)); rfl)
    | ((with_reducible apply Changes.step (refreshRefs_changes _ _)); rfl)
    | ((with_reducible apply Changes.step (tagCal_changes _ _ _)); rfl)
    | (show kindsIn _ _ = true; rfl)
    | split
    | dsimp only
    | intro _
    | with_reducible refine Changes.update ?_)

theorem checkCals_changes (s : State) (refs : List Int) :
    Changes [.draws, .od, .power, .recorder, .access, .output] s (checkCals s refs) := by
  unfold checkCals
  repeat' (first
    | with_reducible exact Changes.refl
    | with_reducible assumption
    | ((with_reducible apply Changes.step (checkCal_changes _ _ _)); rfl)
    | ((with_reducible apply Changes.step (guardMargins_changes _ _)); rfl)
    | with_reducible apply Changes.foldl
    | (show kindsIn _ _ = true; rfl)
    | split
    | dsimp only
    | intro _)

theorem execPolicyLoop_changes (watts1ms watts100ms : Nat) (refs : List Int) (s : State) {t : State} (h : execPolicyLoop watts1ms watts100ms refs s = .next t) :
    Changes [.draws, .od, .power, .recorder, .tests, .access, .output] s t := by
  unfold execPolicyLoop at h
  injection h with h
  subst h
  repeat' (first
    | with_reducible exact Changes.refl
    | with_reducible assumption
    | ((with_reducible apply Changes.step (applySetPoints_changes _)); rfl)
    | ((with_reducible apply Changes.step (checkCals_changes _ _)); rfl)
    | ((with_reducible apply Changes.step (endRelease_changes _)); rfl)
    | ((with_reducible apply Changes.step (odSet_changes _ _ _ _)); rfl)
    | ((with_reducible apply Changes.step (putAllocations_changes _ _)); rfl)
    | with_reducible apply Changes.foldl
    | with_reducible apply Changes.foldl_fst
    | with_reducible apply Changes.foldl_snd
    | with_reducible apply Changes.foldl_trd
    | with_reducible apply Changes.foldl_run
    | with_reducible apply Changes.foldl_deep
    | with_reducible apply Changes.foldl_lane
    | with_reducible apply Changes.foldl_blocks
    | (show kindsIn _ _ = true; rfl)
    | split
    | dsimp only
    | intro _
    | with_reducible refine Changes.update ?_)

theorem putLimit_changes (s : State) (sub v : Nat) :
    Changes [.od] s (putLimit s sub v) := by
  unfold putLimit
  repeat' (first
    | with_reducible exact Changes.refl
    | with_reducible assumption
    | ((with_reducible apply Changes.step (odSet_changes _ _ _ _)); rfl)
    | (show kindsIn _ _ = true; rfl)
    | split
    | dsimp only
    | intro _
    | with_reducible refine Changes.update ?_)

theorem vbulkLow_changes (mV : Nat) (s : State) :
    Changes [.draws, .od, .power, .recorder, .access, .output] s (vbulkLow mV s) := by
  unfold vbulkLow
  repeat' (first
    | with_reducible exact Changes.refl
    | with_reducible assumption
    | ((with_reducible apply Changes.step (raiseCause_changes _ _)); rfl)
    | (show kindsIn _ _ = true; rfl)
    | split
    | dsimp only
    | intro _)

theorem execCalibrationRefresh_changes (run : RefreshRun) (temp : Int) (s : State) {t : State} (h : execCalibrationRefresh run temp s = .next t) :
    Changes [.draws, .od, .ports, .power, .recorder, .access, .output] s t := by
  unfold execCalibrationRefresh at h
  injection h with h
  subst h
  repeat' (first
    | with_reducible exact Changes.refl
    | with_reducible assumption
    | ((with_reducible apply Changes.step (beginRefresh_changes _ _)); rfl)
    | ((with_reducible apply Changes.step (endRefresh_changes _ _ _)); rfl)
    | (show kindsIn _ _ = true; rfl)
    | split
    | dsimp only
    | intro _)

end Sys2Proof.Machine
end

