-- ==== Sys2Proof/Laws/FootprintRecords.lean ====
section
/-! SUPPORT. What each function of Machine/Records.lean can change. -/

set_option Elab.async false

set_option linter.unreachableTactic false
set_option linter.unusedTactic false
set_option linter.unnecessarySeqFocus false

namespace Sys2Proof.Machine

theorem copyRecords_changes (s : State) :
    Changes [.recorder] s (copyRecords s) := by
  unfold copyRecords
  repeat' (first
    | with_reducible exact Changes.refl
    | with_reducible assumption
    | (show kindsIn _ _ = true; rfl)
    | split
    | dsimp only
    | intro _
    | with_reducible refine Changes.update ?_)

theorem execFlush_changes (ok : Bool) (s : State) {t : State} (h : execFlush ok s = .next t) :
    Changes [.draws, .od, .recorder, .access, .output] s t := by
  unfold execFlush at h
  injection h with h
  subst h
  repeat' (first
    | with_reducible exact Changes.refl
    | with_reducible assumption
    | ((with_reducible apply Changes.step (copyRecords_changes _)); rfl)
    | ((with_reducible apply Changes.step (snagSet_changes _ _)); rfl)
    | (show kindsIn _ _ = true; rfl)
    | split
    | dsimp only
    | intro _
    | with_reducible refine Changes.update ?_)

theorem layDust_changes (s : State) :
    Changes [.od, .recorder] s (layDust s) := by
  unfold layDust
  repeat' (first
    | with_reducible exact Changes.refl
    | with_reducible assumption
    | ((with_reducible apply Changes.step (odSet_changes _ _ _ _)); rfl)
    | (show kindsIn _ _ = true; rfl)
    | split
    | dsimp only
    | intro _
    | with_reducible refine Changes.update ?_)

theorem enterHeld_changes (s : State) :
    Changes [.draws, .od, .recorder, .access, .output] s (enterHeld s) := by
  unfold enterHeld
  repeat' (first
    | with_reducible exact Changes.refl
    | with_reducible assumption
    | ((with_reducible apply Changes.step (odSet_changes _ _ _ _)); rfl)
    | ((with_reducible apply Changes.step (ringPush_changes _ _)); rfl)
    | ((with_reducible apply Changes.step (snagSet_changes _ _)); rfl)
    | with_reducible apply Changes.foldl
    | (show kindsIn _ _ = true; rfl)
    | split
    | dsimp only
    | intro _
    | with_reducible refine Changes.update ?_)

theorem liftDust_changes (s : State) :
    Changes [.draws, .od, .recorder, .access, .output] s (liftDust s) := by
  unfold liftDust
  repeat' (first
    | with_reducible exact Changes.refl
    | with_reducible assumption
    | ((with_reducible apply Changes.step (enterHeld_changes _)); rfl)
    | (show kindsIn _ _ = true; rfl)
    | split
    | dsimp only
    | intro _)

theorem execDustSheetLimit_changes (s : State) {t : State} (h : execDustSheetLimit s = .next t) :
    Changes [.draws, .od, .recorder, .access, .output] s t := by
  unfold execDustSheetLimit at h
  injection h with h
  subst h
  repeat' (first
    | with_reducible exact Changes.refl
    | with_reducible assumption
    | ((with_reducible apply Changes.step (liftDust_changes _)); rfl)
    | (show kindsIn _ _ = true; rfl)
    | split
    | dsimp only
    | intro _)

theorem clearRecords_changes (s : State) :
    Changes [.draws, .od, .recorder, .access, .output] s (clearRecords s) := by
  unfold clearRecords
  repeat' (first
    | with_reducible exact Changes.refl
    | with_reducible assumption
    | ((with_reducible apply Changes.step (enterHeld_changes _)); rfl)
    | ((with_reducible apply Changes.step (ringPush_changes _ _)); rfl)
    | (show kindsIn _ _ = true; rfl)
    | split
    | dsimp only
    | intro _
    | with_reducible refine Changes.update ?_)

theorem clearSnags_changes (s : State) (mask : Nat) :
    Changes [.draws, .od, .recorder, .access, .output] s (clearSnags s mask) := by
  unfold clearSnags
  repeat' (first
    | with_reducible exact Changes.refl
    | with_reducible assumption
    | ((with_reducible apply Changes.step (addRecord_changes _ _)); rfl)
    | ((with_reducible apply Changes.step (odSet_changes _ _ _ _)); rfl)
    | with_reducible apply Changes.foldl
    | with_reducible apply Changes.foldl_fst
    | with_reducible apply Changes.foldl_snd
    | with_reducible apply Changes.foldl_trd
    | with_reducible apply Changes.foldl_run
    | with_reducible apply Changes.foldl_deep
    | with_reducible apply Changes.foldl_lane
    | with_reducible apply Changes.foldl_blocks
    | (show kindsIn _ _ = true; rfl)
    | split
    | dsimp only
    | intro _)

theorem resetCounter_changes (s : State) (v : Nat) :
    Changes [.od] s (resetCounter s v) := by
  unfold resetCounter
  repeat' (first
    | with_reducible exact Changes.refl
    | with_reducible assumption
    | ((with_reducible apply Changes.step (odSet_changes _ _ _ _)); rfl)
    | (show kindsIn _ _ = true; rfl)
    | split
    | dsimp only
    | intro _)

end Sys2Proof.Machine
end

