-- ==== Sys2Proof/Laws/FootprintStackMemory.lean ====
section
/-! SUPPORT. What each function of Machine/StackMemory.lean can change. -/

set_option Elab.async false

set_option linter.unreachableTactic false
set_option linter.unusedTactic false
set_option linter.unnecessarySeqFocus false

namespace Sys2Proof.Machine

theorem loseHeadroom_changes (s : State) :
    Changes [.draws, .fabric, .ports] s (loseHeadroom s) := by
  unfold loseHeadroom
  repeat' (first
    | with_reducible exact Changes.refl
    | with_reducible assumption
    | ((with_reducible apply Changes.step (dropTransit_changes _ _)); rfl)
    | ((with_reducible apply Changes.step (freshNat_changes _ _ _)); rfl)
    | with_reducible apply Changes.foldl
    | with_reducible apply Changes.foldl_fst
    | with_reducible apply Changes.foldl_snd
    | with_reducible apply Changes.foldl_trd
    | with_reducible apply Changes.foldl_run
    | with_reducible apply Changes.foldl_deep
    | with_reducible apply Changes.foldl_lane
    | with_reducible apply Changes.foldl_blocks
    | (show kindsIn _ _ = true; rfl)
    | split
    | dsimp only
    | intro _)

theorem putSlot_changes (s : State) (j v : Nat) :
    Changes [.stacks] s (putSlot s j v) := by
  unfold putSlot
  repeat' (first
    | with_reducible exact Changes.refl
    | with_reducible assumption
    | (show kindsIn _ _ = true; rfl)
    | split
    | dsimp only
    | intro _
    | with_reducible refine Changes.update ?_)

theorem overrideSlot_changes (stack k : Nat) (mst : Nat) (s : State) (j : Nat) :
    Changes [.stacks] s (overrideSlot stack k mst s j) := by
  unfold overrideSlot
  repeat' (first
    | with_reducible exact Changes.refl
    | with_reducible assumption
    | ((with_reducible apply Changes.step (putSlot_changes _ _ _)); rfl)
    | (show kindsIn _ _ = true; rfl)
    | split
    | dsimp only
    | intro _)

theorem setOverrides_changes (s : State) (r : Retire) :
    Changes [.od, .stacks] s (setOverrides s r) := by
  unfold setOverrides
  repeat' (first
    | with_reducible exact Changes.refl
    | with_reducible assumption
    | ((with_reducible apply Changes.step (odSet_changes _ _ _ _)); rfl)
    | ((with_reducible apply Changes.step (overrideSlot_changes _ _ _ _ _)); rfl)
    | with_reducible apply Changes.foldl
    | (show kindsIn _ _ = true; rfl)
    | split
    | dsimp only
    | intro _
    | with_reducible refine Changes.update ?_)

theorem vacate_changes (s : State) :
    Changes [.od, .memory, .sectors] s (vacate s) := by
  unfold vacate
  repeat' (first
    | with_reducible exact Changes.refl
    | with_reducible assumption
    | ((with_reducible apply Changes.step (odSet_changes _ _ _ _)); rfl)
    | (show kindsIn _ _ = true; rfl)
    | split
    | dsimp only
    | intro _
    | with_reducible refine Changes.update ?_)

theorem endWaiting_changes (s : State) :
    Changes [.draws, .od, .memory, .sectors, .accumulators, .commands, .tallies, .engines, .fabric, .channels, .power, .recorder, .tests, .access, .link, .drains, .output] s (endWaiting s) := by
  unfold endWaiting
  repeat' (first
    | with_reducible exact Changes.refl
    | with_reducible assumption
    | ((with_reducible apply Changes.step (faultCmd_changes _ _ _ _ _)); rfl)
    | with_reducible apply Changes.foldl
    | with_reducible apply Changes.foldl_fst
    | with_reducible apply Changes.foldl_snd
    | with_reducible apply Changes.foldl_trd
    | with_reducible apply Changes.foldl_run
    | with_reducible apply Changes.foldl_deep
    | with_reducible apply Changes.foldl_lane
    | with_reducible apply Changes.foldl_blocks
    | (show kindsIn _ _ = true; rfl)
    | split
    | dsimp only
    | intro _
    | with_reducible refine Changes.update ?_)

theorem startRetire_changes (s : State) (stack : Nat) (sealedR : Bool) (channel : Nat) :
    Changes [.draws, .od, .memory, .sectors, .accumulators, .commands, .tallies, .engines, .stacks, .fabric, .ports, .channels, .power, .recorder, .tests, .access, .link, .drains, .output] s (startRetire s stack sealedR channel) := by
  unfold startRetire
  repeat' (first
    | with_reducible exact Changes.refl
    | with_reducible assumption
    | ((with_reducible apply Changes.step (endWaiting_changes _)); rfl)
    | ((with_reducible apply Changes.step (fileCode_changes _ _ _ _)); rfl)
    | ((with_reducible apply Changes.step (loseHeadroom_changes _)); rfl)
    | ((with_reducible apply Changes.step (msixAllContexts_changes _)); rfl)
    | ((with_reducible apply Changes.step (odSet_changes _ _ _ _)); rfl)
    | ((with_reducible apply Changes.step (setOverrides_changes _ _)); rfl)
    | ((with_reducible apply Changes.step (snagSet_changes _ _)); rfl)
    | ((with_reducible apply Changes.step (stateChange_changes _ _ _ _ _ _ _)); rfl)
    | ((with_reducible apply Changes.step (vacate_changes _)); rfl)
    | (show kindsIn _ _ = true; rfl)
    | split
    | dsimp only
    | intro _
    | with_reducible refine Changes.update ?_)

theorem sealThird_changes (s : State) (stack channel : Nat) :
    Changes [.draws, .od, .fabric, .ports, .recorder, .access, .output] s (sealThird s stack channel) := by
  unfold sealThird
  repeat' (first
    | with_reducible exact Changes.refl
    | with_reducible assumption
    | ((with_reducible apply Changes.step (fileCode_changes _ _ _ _)); rfl)
    | ((with_reducible apply Changes.step (loseHeadroom_changes _)); rfl)
    | ((with_reducible apply Changes.step (snagSet_changes _ _)); rfl)
    | ((with_reducible apply Changes.step (stateChange_changes _ _ _ _ _ _ _)); rfl)
    | (show kindsIn _ _ = true; rfl)
    | split
    | dsimp only
    | intro _)

theorem sealRetire_changes (s : State) (stack : Nat) :
    Changes [.draws, .od, .stacks, .fabric, .ports] s (sealRetire s stack) := by
  have hf : ∀ m : List (Nat × Nat), Store.wf 0 m = true →
      Store.wf 0 (m.map (fun p => if bits p.2 8 2 = 0 then p else (p.1, withField p.2 8 2 3))) = true := by
    intro m
    refine Store.map_wf (fun p => ?_) (fun p hp => ?_)
    · split <;> rfl
    · split
      · exact hp
      · simp only [withField]; omega
  have hl : Changes [.draws, .od, .stacks, .fabric, .ports] s
      (loseHeadroom { s with retires := mapWhere (fun r => r.stack == stack) (fun r => { r with sealedR := true }) s.retires }) :=
    Changes.step (loseHeadroom_changes _) rfl (Changes.update Changes.refl)
  unfold sealRetire
  dsimp only
  split
  · split
    · refine Changes.step (odSet_changes _ _ _ _) rfl ?_
      exact Changes.update hl (w_slots := hf _)
    · exact hl
  · exact hl

theorem retireStack_changes (s : State) (stack : Nat) (sealedR : Bool) (channel : Nat) :
    Changes [.draws, .od, .memory, .sectors, .accumulators, .commands, .tallies, .engines, .stacks, .fabric, .ports, .channels, .power, .recorder, .tests, .access, .link, .drains, .output] s (retireStack s stack sealedR channel) := by
  unfold retireStack
  repeat' (first
    | with_reducible exact Changes.refl
    | with_reducible assumption
    | ((with_reducible apply Changes.step (sealThird_changes _ _ _)); rfl)
    | ((with_reducible apply Changes.step (startRetire_changes _ _ _ _)); rfl)
    | (show kindsIn _ _ = true; rfl)
    | split
    | dsimp only
    | intro _)

theorem channelFails_changes (s : State) (stack channel : Nat) :
    Changes [.draws, .od, .memory, .sectors, .accumulators, .commands, .tallies, .engines, .stacks, .fabric, .ports, .channels, .power, .recorder, .tests, .access, .link, .drains, .output] s (channelFails s stack channel) := by
  unfold channelFails
  repeat' (first
    | with_reducible exact Changes.refl
    | with_reducible assumption
    | ((with_reducible apply Changes.step (odSet_changes _ _ _ _)); rfl)
    | ((with_reducible apply Changes.step (retireStack_changes _ _ _ _)); rfl)
    | ((with_reducible apply Changes.step (sealRetire_changes _ _)); rfl)
    | (show kindsIn _ _ = true; rfl)
    | split
    | dsimp only
    | intro _
    | with_reducible refine Changes.update ?_)

theorem execSealedRetirement_changes (stack channel : Nat) (s : State) {t : State} (h : execSealedRetirement stack channel s = .next t) :
    Changes [.draws, .od, .memory, .sectors, .accumulators, .commands, .tallies, .engines, .stacks, .fabric, .ports, .channels, .power, .recorder, .tests, .access, .link, .drains, .output] s t := by
  unfold execSealedRetirement at h
  injection h with h
  subst h
  repeat' (first
    | with_reducible exact Changes.refl
    | with_reducible assumption
    | ((with_reducible apply Changes.step (channelFails_changes _ _ _)); rfl)
    | (show kindsIn _ _ = true; rfl)
    | split
    | dsimp only
    | intro _)

theorem execPeriodicRetraining_changes (stack : Nat) (failed : Option Nat) (s : State) {t : State} (h : execPeriodicRetraining stack failed s = .next t) :
    Changes [.draws, .od, .memory, .sectors, .accumulators, .commands, .tallies, .engines, .stacks, .fabric, .ports, .channels, .power, .recorder, .tests, .access, .link, .drains, .output] s t := by
  unfold execPeriodicRetraining at h
  injection h with h
  subst h
  repeat' (first
    | with_reducible exact Changes.refl
    | with_reducible assumption
    | ((with_reducible apply Changes.step (channelFails_changes _ _ _)); rfl)
    | (show kindsIn _ _ = true; rfl)
    | split
    | dsimp only
    | intro _
    | with_reducible refine Changes.update ?_)

theorem correctedRead_changes (s : State) (sec : Nat) :
    Changes [.draws, .od, .sectors, .recorder, .access, .output] s (correctedRead s sec) := by
  unfold correctedRead
  repeat' (first
    | with_reducible exact Changes.refl
    | with_reducible assumption
    | ((with_reducible apply Changes.step (odBump_changes _ _ _ _)); rfl)
    | ((with_reducible apply Changes.step (snagSet_changes _ _)); rfl)
    | (show kindsIn _ _ = true; rfl)
    | split
    | dsimp only
    | intro _
    | with_reducible refine Changes.update ?_)

theorem uncorrectableRead_changes (s : State) (sec row : Nat) :
    Changes [.draws, .od, .memory, .sectors, .accumulators, .commands, .tallies, .engines, .stacks, .fabric, .ports, .channels, .power, .recorder, .tests, .access, .link, .drains, .output] s (uncorrectableRead s sec row) := by
  unfold uncorrectableRead
  repeat' (first
    | with_reducible exact Changes.refl
    | with_reducible assumption
    | ((with_reducible apply Changes.step (fileCode_changes _ _ _ _)); rfl)
    | ((with_reducible apply Changes.step (odBump_changes _ _ _ _)); rfl)
    | ((with_reducible apply Changes.step (odSet_changes _ _ _ _)); rfl)
    | ((with_reducible apply Changes.step (retireStack_changes _ _ _ _)); rfl)
    | ((with_reducible apply Changes.step (setMark_changes _ _ _)); rfl)
    | (show kindsIn _ _ = true; rfl)
    | split
    | dsimp only
    | intro _
    | with_reducible refine Changes.update ?_)

theorem symbolOutcome_changes (s : State) (sec n row : Nat) :
    Changes [.draws, .od, .memory, .sectors, .accumulators, .commands, .tallies, .engines, .stacks, .fabric, .ports, .channels, .power, .recorder, .tests, .access, .link, .drains, .output] s (symbolOutcome s sec n row) := by
  unfold symbolOutcome
  repeat' (first
    | with_reducible exact Changes.refl
    | with_reducible assumption
    | ((with_reducible apply Changes.step (correctedRead_changes _ _)); rfl)
    | ((with_reducible apply Changes.step (freshNat_changes _ _ _)); rfl)
    | ((with_reducible apply Changes.step (uncorrectableRead_changes _ _ _)); rfl)
    | (show kindsIn _ _ = true; rfl)
    | split
    | dsimp only
    | intro _
    | with_reducible refine Changes.update ?_)

theorem readOutcome_changes (s : State) (sec : Nat) (o : ReadOutcome) :
    Changes [.draws, .od, .memory, .sectors, .accumulators, .commands, .tallies, .engines, .stacks, .fabric, .ports, .channels, .power, .recorder, .tests, .access, .link, .drains, .output] s (readOutcome s sec o) := by
  unfold readOutcome
  repeat' (first
    | with_reducible exact Changes.refl
    | with_reducible assumption
    | ((with_reducible apply Changes.step (correctedRead_changes _ _)); rfl)
    | ((with_reducible apply Changes.step (odBump_changes _ _ _ _)); rfl)
    | ((with_reducible apply Changes.step (symbolOutcome_changes _ _ _ _)); rfl)
    | ((with_reducible apply Changes.step (uncorrectableRead_changes _ _ _)); rfl)
    | (show kindsIn _ _ = true; rfl)
    | split
    | dsimp only
    | intro _
    | with_reducible refine Changes.update ?_)

theorem execPatrolScrub_changes (sector : Nat) (o : ReadOutcome) (passDone : Bool) (s : State) {t : State} (h : execPatrolScrub sector o passDone s = .next t) :
    Changes [.draws, .od, .memory, .sectors, .accumulators, .commands, .tallies, .engines, .stacks, .fabric, .ports, .channels, .power, .recorder, .tests, .access, .link, .drains, .output] s t := by
  unfold execPatrolScrub at h
  injection h with h
  subst h
  repeat' (first
    | with_reducible exact Changes.refl
    | with_reducible assumption
    | ((with_reducible apply Changes.step (odBump_changes _ _ _ _)); rfl)
    | ((with_reducible apply Changes.step (readOutcome_changes _ _ _)); rfl)
    | (show kindsIn _ _ = true; rfl)
    | split
    | dsimp only
    | intro _)

theorem execCorrectedRewrite_changes (r : SectorRead) (s : State) {t : State} (h : execCorrectedRewrite r s = .next t) :
    Changes [.draws, .od, .memory, .sectors, .accumulators, .commands, .tallies, .engines, .stacks, .fabric, .ports, .channels, .power, .recorder, .tests, .access, .link, .drains, .output] s t := by
  unfold execCorrectedRewrite at h
  injection h with h
  subst h
  repeat' (first
    | with_reducible exact Changes.refl
    | with_reducible assumption
    | ((with_reducible apply Changes.step (readOutcome_changes _ _ _)); rfl)
    | (show kindsIn _ _ = true; rfl)
    | split
    | dsimp only
    | intro _
    | with_reducible refine Changes.update ?_)

theorem badRow_changes (j x : Nat) (s : State) (w : Nat) :
    Changes [.draws, .od, .memory, .sectors, .accumulators, .commands, .tallies, .engines, .stacks, .fabric, .ports, .channels, .power, .recorder, .tests, .access, .link, .drains, .output] s (badRow j x s w) := by
  unfold badRow
  repeat' (first
    | with_reducible exact Changes.refl
    | with_reducible assumption
    | ((with_reducible apply Changes.step (freshNat_changes _ _ _)); rfl)
    | ((with_reducible apply Changes.step (setMark_changes _ _ _)); rfl)
    | ((with_reducible apply Changes.step (uncorrectableRead_changes _ _ _)); rfl)
    | with_reducible apply Changes.foldl
    | with_reducible apply Changes.foldl_fst
    | with_reducible apply Changes.foldl_snd
    | with_reducible apply Changes.foldl_trd
    | with_reducible apply Changes.foldl_run
    | with_reducible apply Changes.foldl_deep
    | with_reducible apply Changes.foldl_lane
    | with_reducible apply Changes.foldl_blocks
    | (show kindsIn _ _ = true; rfl)
    | split
    | dsimp only
    | intro _)

theorem loseRows_changes (s : State) (j x : Nat) :
    Changes [.sectors] s (loseRows s j x) := by
  unfold loseRows
  repeat' (first
    | with_reducible exact Changes.refl
    | with_reducible assumption
    | (show kindsIn _ _ = true; rfl)
    | split
    | dsimp only
    | intro _
    | with_reducible refine Changes.update ?_)

theorem movePtr_changes (s : State) (j ent rows : Nat) :
    Changes [.od, .stacks] s (movePtr s j ent rows) := by
  unfold movePtr
  repeat' (first
    | with_reducible exact Changes.refl
    | with_reducible assumption
    | ((with_reducible apply Changes.step (odSet_changes _ _ _ _)); rfl)
    | ((with_reducible apply Changes.step (putSlot_changes _ _ _)); rfl)
    | (show kindsIn _ _ = true; rfl)
    | split
    | dsimp only
    | intro _
    | with_reducible refine Changes.update ?_)

theorem execSlotRelocation_changes (r : RelocRun) (s : State) {t : State} (h : execSlotRelocation r s = .next t) :
    Changes [.draws, .od, .memory, .sectors, .accumulators, .commands, .tallies, .engines, .stacks, .fabric, .ports, .channels, .power, .recorder, .tests, .access, .link, .drains, .output] s t := by
  unfold execSlotRelocation at h
  injection h with h
  subst h
  repeat' (first
    | with_reducible exact Changes.refl
    | with_reducible assumption
    | ((with_reducible apply Changes.step (badRow_changes _ _ _ _)); rfl)
    | ((with_reducible apply Changes.step (loseRows_changes _ _ _)); rfl)
    | ((with_reducible apply Changes.step (movePtr_changes _ _ _ _)); rfl)
    | with_reducible apply Changes.foldl
    | with_reducible apply Changes.foldl_fst
    | with_reducible apply Changes.foldl_snd
    | with_reducible apply Changes.foldl_trd
    | with_reducible apply Changes.foldl_run
    | with_reducible apply Changes.foldl_deep
    | with_reducible apply Changes.foldl_lane
    | with_reducible apply Changes.foldl_blocks
    | (show kindsIn _ _ = true; rfl)
    | split
    | dsimp only
    | intro _
    | with_reducible refine Changes.update ?_)

theorem execRetirementComplete_changes (s : State) {t : State} (h : execRetirementComplete s = .next t) :
    Changes [.draws, .od, .stacks, .recorder, .access, .output] s t := by
  unfold execRetirementComplete at h
  injection h with h
  subst h
  repeat' (first
    | with_reducible exact Changes.refl
    | with_reducible assumption
    | ((with_reducible apply Changes.step (odSet_changes _ _ _ _)); rfl)
    | ((with_reducible apply Changes.step (setOverrides_changes _ _)); rfl)
    | ((with_reducible apply Changes.step (stateChange_changes _ _ _ _ _ _ _)); rfl)
    | (show kindsIn _ _ = true; rfl)
    | split
    | dsimp only
    | intro _
    | with_reducible refine Changes.update ?_)

end Sys2Proof.Machine
end

