-- ==== Sys2Proof/Laws/FootprintOdValues.lean ====
section
/-! SUPPORT. What each function of Machine/OdValues.lean can change. -/

set_option Elab.async false

set_option linter.unreachableTactic false
set_option linter.unusedTactic false
set_option linter.unnecessarySeqFocus false

namespace Sys2Proof.Machine

theorem putReq_changes (s : State) (r : Requester) :
    Changes [.access] s (putReq s r) := by
  unfold putReq
  repeat' (first
    | with_reducible exact Changes.refl
    | with_reducible assumption
    | (show kindsIn _ _ = true; rfl)
    | split
    | dsimp only
    | intro _
    | with_reducible refine Changes.update ?_)

theorem dropReq_changes (s : State) (p : Path) :
    Changes [.access] s (dropReq s p) := by
  unfold dropReq
  repeat' (first
    | with_reducible exact Changes.refl
    | with_reducible assumption
    | (show kindsIn _ _ = true; rfl)
    | split
    | dsimp only
    | intro _
    | with_reducible refine Changes.update ?_)

theorem setSelect_changes (s : State) (p : Path) (i sub v : Nat) :
    Changes [.access] s (setSelect s p i sub v) := by
  unfold setSelect
  repeat' (first
    | with_reducible exact Changes.refl
    | with_reducible assumption
    | ((with_reducible apply Changes.step (putReq_changes _ _)); rfl)
    | (show kindsIn _ _ = true; rfl)
    | split
    | dsimp only
    | intro _
    | with_reducible refine Changes.update ?_)

theorem writeComponent_changes (s : State) (off v : Nat) :
    Changes [.od, .link] s (writeComponent s off v) := by
  unfold writeComponent
  repeat' (first
    | with_reducible exact Changes.refl
    | with_reducible assumption
    | ((with_reducible apply Changes.step (odSet_changes _ _ _ _)); rfl)
    | (show kindsIn _ _ = true; rfl)
    | split
    | dsimp only
    | intro _
    | with_reducible refine Changes.update ?_)

theorem writeTable_changes (s : State) (off v : Nat) :
    Changes [.output] s (writeTable s off v) := by
  unfold writeTable
  repeat' (first
    | with_reducible exact Changes.refl
    | with_reducible assumption
    | ((with_reducible apply Changes.step (sendPending_changes _)); rfl)
    | (show kindsIn _ _ = true; rfl)
    | split
    | dsimp only
    | intro _
    | with_reducible refine Changes.update ?_)

theorem barWrite0_changes (s : State) (off size v : Nat) :
    Changes [.draws, .od, .recorder, .access, .link, .output] s (barWrite0 s off size v) := by
  unfold barWrite0
  repeat' (first
    | with_reducible exact Changes.refl
    | with_reducible assumption
    | ((with_reducible apply Changes.step (odBump_changes _ _ _ _)); rfl)
    | ((with_reducible apply Changes.step (writeComponent_changes _ _ _)); rfl)
    | ((with_reducible apply Changes.step (writeTable_changes _ _ _)); rfl)
    | (show kindsIn _ _ = true; rfl)
    | split
    | dsimp only
    | intro _)

theorem execHotWindowWrite_changes (offset size value : Nat) (s : State) {t : State} (h : execHotWindowWrite offset size value s = .next t) :
    Changes [.draws, .od, .recorder, .access, .link, .output] s t := by
  unfold execHotWindowWrite at h
  injection h with h
  subst h
  repeat' (first
    | with_reducible exact Changes.refl
    | with_reducible assumption
    | ((with_reducible apply Changes.step (barWrite0_changes _ _ _ _)); rfl)
    | (show kindsIn _ _ = true; rfl)
    | split
    | dsimp only
    | intro _)

end Sys2Proof.Machine
end

