-- ==== Sys2Proof/Laws/FootprintFirmware.lean ====
section
/-! SUPPORT. What each function of Machine/Firmware.lean can change. -/

set_option Elab.async false

set_option linter.unreachableTactic false
set_option linter.unusedTactic false
set_option linter.unnecessarySeqFocus false

namespace Sys2Proof.Machine

theorem runImage_changes (s : State) (img : List Byte) :
    Changes [.od, .firmware] s (runImage s img) := by
  unfold runImage
  repeat' (first
    | with_reducible exact Changes.refl
    | with_reducible assumption
    | ((with_reducible apply Changes.step (odSet_changes _ _ _ _)); rfl)
    | (show kindsIn _ _ = true; rfl)
    | split
    | dsimp only
    | intro _
    | with_reducible refine Changes.update ?_)

theorem loadImage_changes (s : State) (img : Option (List Byte)) :
    Changes [.od, .firmware] s (loadImage s img) := by
  unfold loadImage
  repeat' (first
    | with_reducible exact Changes.refl
    | with_reducible assumption
    | ((with_reducible apply Changes.step (enterStep_changes _ _ _)); rfl)
    | ((with_reducible apply Changes.step (odSet_changes _ _ _ _)); rfl)
    | ((with_reducible apply Changes.step (runImage_changes _ _)); rfl)
    | (show kindsIn _ _ = true; rfl)
    | split
    | dsimp only
    | intro _)

theorem stageImage_changes (s : State) (img : Option (List Byte)) :
    Changes [.od, .firmware] s (stageImage s img) := by
  unfold stageImage
  repeat' (first
    | with_reducible exact Changes.refl
    | with_reducible assumption
    | ((with_reducible apply Changes.step (odSet_changes _ _ _ _)); rfl)
    | (show kindsIn _ _ = true; rfl)
    | split
    | dsimp only
    | intro _
    | with_reducible refine Changes.update ?_)

theorem attachDriver_changes (s : State) :
    Changes [.draws, .od, .features, .recorder, .access, .link, .output] s (attachDriver s) := by
  unfold attachDriver
  repeat' (first
    | with_reducible exact Changes.refl
    | with_reducible assumption
    | ((with_reducible apply Changes.step (dropReq_changes _ _)); rfl)
    | ((with_reducible apply Changes.step (odSet_changes _ _ _ _)); rfl)
    | ((with_reducible apply Changes.step (stateChange_changes _ _ _ _ _ _ _)); rfl)
    | (show kindsIn _ _ = true; rfl)
    | split
    | dsimp only
    | intro _
    | with_reducible refine Changes.update ?_)

theorem attach_changes (s : State) (again : Bool) :
    Changes [.draws, .od, .features, .recorder, .access, .link, .drains, .output] s (attach s again) := by
  unfold attach
  repeat' (first
    | with_reducible exact Changes.refl
    | with_reducible assumption
    | ((with_reducible apply Changes.step (attachDriver_changes _)); rfl)
    | ((with_reducible apply Changes.step (odSet_changes _ _ _ _)); rfl)
    | ((with_reducible apply Changes.step (raiseVector_changes _ _)); rfl)
    | ((with_reducible apply Changes.step (returnQueues_changes _)); rfl)
    | (show kindsIn _ _ = true; rfl)
    | split
    | dsimp only
    | intro _)

theorem freshAttach_changes (s : State) :
    Changes [.draws, .od, .engines, .features, .recorder, .access, .link, .drains, .output] s (freshAttach s) := by
  unfold freshAttach
  repeat' (first
    | with_reducible exact Changes.refl
    | with_reducible assumption
    | ((with_reducible apply Changes.step (attach_changes _ _)); rfl)
    | ((with_reducible apply Changes.step (putTable_changes _ _)); rfl)
    | (show kindsIn _ _ = true; rfl)
    | split
    | dsimp only
    | intro _
    | with_reducible refine Changes.update ?_)

theorem attachRequest_changes (s : State) (v : Nat) :
    Changes [.draws, .od, .commands, .engines, .features, .recorder, .access, .link, .drains, .firmware, .output] s (attachRequest s v) := by
  unfold attachRequest
  repeat' (first
    | with_reducible exact Changes.refl
    | with_reducible assumption
    | ((with_reducible apply Changes.step (attach_changes _ _)); rfl)
    | ((with_reducible apply Changes.step (becomeOrphaned_changes _)); rfl)
    | ((with_reducible apply Changes.step (freshAttach_changes _)); rfl)
    | (show kindsIn _ _ = true; rfl)
    | split
    | dsimp only
    | intro _)

theorem activationRequest_changes (s : State) (v : Nat) :
    Changes [.od] s (activationRequest s v) := by
  unfold activationRequest
  repeat' (first
    | with_reducible exact Changes.refl
    | with_reducible assumption
    | ((with_reducible apply Changes.step (odSet_changes _ _ _ _)); rfl)
    | (show kindsIn _ _ = true; rfl)
    | split
    | dsimp only
    | intro _)

theorem attest_changes (s : State) (p : Path) (challenge : Nat) (flashOk : Bool) {t : State} (h : attest s p challenge flashOk = some t) :
    Changes [.draws, .od, .recorder, .access, .firmware, .output] s t := by
  unfold attest at h
  revert h
  repeat' split
  all_goals intro h
  all_goals first | cases h | injection h with h; subst h
  all_goals repeat' (first
    | with_reducible exact Changes.refl
    | with_reducible assumption
    | ((with_reducible apply Changes.step (odBump_changes _ _ _ _)); rfl)
    | ((with_reducible apply Changes.step (putReq_changes _ _)); rfl)
    | (show kindsIn _ _ = true; rfl)
    | split
    | dsimp only
    | intro _
    | with_reducible refine Changes.update ?_)

end Sys2Proof.Machine
end

