-- ==== Sys2Proof/Laws/FootprintOdRules.lean ====
section
/-! SUPPORT. What each function of Machine/OdRules.lean can change. -/

set_option Elab.async false

set_option linter.unreachableTactic false
set_option linter.unusedTactic false
set_option linter.unnecessarySeqFocus false

namespace Sys2Proof.Machine

theorem authRecord_changes (s : State) (r : OdReq) (status : Nat) :
    Changes [.draws, .od, .recorder, .access, .output] s (authRecord s r status) := by
  unfold authRecord
  repeat' (first
    | with_reducible exact Changes.refl
    | with_reducible assumption
    | ((with_reducible apply Changes.step (addRecord_changes _ _)); rfl)
    | (show kindsIn _ _ = true; rfl)
    | split
    | dsimp only
    | intro _)

end Sys2Proof.Machine
end

