-- ==== Sys2Proof/Laws/FootprintOdAccess.lean ====
section
/-! SUPPORT. What each function of Machine/OdAccess.lean can change. -/

set_option Elab.async false

set_option linter.unreachableTactic false
set_option linter.unusedTactic false
set_option linter.unnecessarySeqFocus false

namespace Sys2Proof.Machine

theorem sendIdents_changes (s : State) :
    Changes [.output] s (sendIdents s) := by
  unfold sendIdents
  repeat' (first
    | with_reducible exact Changes.refl
    | with_reducible assumption
    | ((with_reducible apply Changes.step (emitAll_changes _ _)); rfl)
    | (show kindsIn _ _ = true; rfl)
    | split
    | dsimp only
    | intro _)

theorem writeNumber_changes (s : State) (v : Nat) :
    Changes [.draws, .od, .ports, .recorder, .access, .firmware, .output] s (writeNumber s v) := by
  unfold writeNumber
  repeat' (first
    | with_reducible exact Changes.refl
    | with_reducible assumption
    | ((with_reducible apply Changes.step (keyPort_changes _ _)); rfl)
    | ((with_reducible apply Changes.step (odSet_changes _ _ _ _)); rfl)
    | ((with_reducible apply Changes.step (progress_changes _)); rfl)
    | ((with_reducible apply Changes.step (sendIdents_changes _)); rfl)
    | with_reducible apply Changes.foldl
    | with_reducible apply Changes.foldl_fst
    | with_reducible apply Changes.foldl_snd
    | with_reducible apply Changes.foldl_trd
    | with_reducible apply Changes.foldl_run
    | with_reducible apply Changes.foldl_deep
    | with_reducible apply Changes.foldl_lane
    | with_reducible apply Changes.foldl_blocks
    | (show kindsIn _ _ = true; rfl)
    | split
    | dsimp only
    | intro _)

theorem activateRoutes_changes (s : State) :
    Changes [.draws, .od, .fabric, .ports, .recorder, .access, .firmware, .output] s (activateRoutes s).2 := by
  unfold activateRoutes
  repeat' (first
    | with_reducible exact Changes.refl
    | with_reducible assumption
    | ((with_reducible apply Changes.step (odSet_changes _ _ _ _)); rfl)
    | ((with_reducible apply Changes.step (progress_changes _)); rfl)
    | ((with_reducible apply Changes.step (retryWaiting_changes _)); rfl)
    | (show kindsIn _ _ = true; rfl)
    | split
    | dsimp only
    | intro _
    | with_reducible refine Changes.update ?_)

theorem writeEnable_changes (s : State) (p v : Nat) :
    Changes [.draws, .od, .ports, .recorder, .access, .firmware, .output] s (writeEnable s p v) := by
  unfold writeEnable
  repeat' (first
    | with_reducible exact Changes.refl
    | with_reducible assumption
    | ((with_reducible apply Changes.step (goDark_changes _ _)); rfl)
    | ((with_reducible apply Changes.step (odSet_changes _ _ _ _)); rfl)
    | ((with_reducible apply Changes.step (progress_changes _)); rfl)
    | ((with_reducible apply Changes.step (wakePort_changes _ _)); rfl)
    | (show kindsIn _ _ = true; rfl)
    | split
    | dsimp only
    | intro _)

theorem writeRestart_changes (s : State) (c v : Nat) :
    Changes [.draws, .od, .engines, .recorder, .access, .output] s (writeRestart s c v) := by
  unfold writeRestart
  repeat' (first
    | with_reducible exact Changes.refl
    | with_reducible assumption
    | ((with_reducible apply Changes.step (restartCtx_changes _ _)); rfl)
    | (show kindsIn _ _ = true; rfl)
    | split
    | dsimp only
    | intro _)

theorem writeEmergency_changes (s : State) (v : Nat) :
    Changes [.draws, .od, .power, .recorder, .access, .output] s (writeEmergency s v) := by
  unfold writeEmergency
  repeat' (first
    | with_reducible exact Changes.refl
    | with_reducible assumption
    | ((with_reducible apply Changes.step (clearCause_changes _ _)); rfl)
    | ((with_reducible apply Changes.step (odSet_changes _ _ _ _)); rfl)
    | ((with_reducible apply Changes.step (raiseCause_changes _ _)); rfl)
    | (show kindsIn _ _ = true; rfl)
    | split
    | dsimp only
    | intro _)

theorem writeBind_changes (s : State) (ch v : Nat) :
    Changes [.od, .channels] s (writeBind s ch v).2 := by
  unfold writeBind
  repeat' (first
    | with_reducible exact Changes.refl
    | with_reducible assumption
    | ((with_reducible apply Changes.step (bindChan_changes _ _)); rfl)
    | ((with_reducible apply Changes.step (unbindChan_changes _ _)); rfl)
    | (show kindsIn _ _ = true; rfl)
    | split
    | dsimp only
    | intro _)

theorem writeQueue_changes (s : State) (u q n v : Nat) :
    Changes [.draws, .od, .memory, .sectors, .accumulators, .commands, .tallies, .engines, .channels, .power, .recorder, .access, .link, .drains, .output] s (writeQueue s u q n v) := by
  unfold writeQueue
  repeat' (first
    | with_reducible exact Changes.refl
    | with_reducible assumption
    | ((with_reducible apply Changes.step (publishTail_changes _ _ _ _)); rfl)
    | ((with_reducible apply Changes.step (qSet_changes _ _ _ _ _)); rfl)
    | ((with_reducible apply Changes.step (writeHead_changes _ _ _ _)); rfl)
    | ((with_reducible apply Changes.step (writeRing_changes _ _ _ _ _)); rfl)
    | (show kindsIn _ _ = true; rfl)
    | split
    | dsimp only
    | intro _)

theorem writeReset_changes (s : State) (p : Path) (v : Nat) :
    Changes [.od, .ports] s (writeReset s p v) := by
  unfold writeReset
  repeat' (first
    | with_reducible exact Changes.refl
    | with_reducible assumption
    | ((with_reducible apply Changes.step (resetCounter_changes _ _)); rfl)
    | (show kindsIn _ _ = true; rfl)
    | split
    | dsimp only
    | intro _
    | with_reducible refine Changes.update ?_)

theorem writeTally_changes (s : State) (p : Path) (v : Nat) :
    Changes [.tallies] s (writeTally s p v) := by
  unfold writeTally
  repeat' (first
    | with_reducible exact Changes.refl
    | with_reducible assumption
    | ((with_reducible apply Changes.step (tallySet_changes _ _ _)); rfl)
    | (show kindsIn _ _ = true; rfl)
    | split
    | dsimp only
    | intro _)

theorem applyPower_changes (s : State) (sub v : Nat) :
    Changes [.draws, .od, .power, .recorder, .access, .output] s (applyPower s sub v) := by
  unfold applyPower
  repeat' (first
    | with_reducible exact Changes.refl
    | with_reducible assumption
    | ((with_reducible apply Changes.step (odSet_changes _ _ _ _)); rfl)
    | ((with_reducible apply Changes.step (putAllocations_changes _ _)); rfl)
    | ((with_reducible apply Changes.step (putLimit_changes _ _ _)); rfl)
    | ((with_reducible apply Changes.step (writeEmergency_changes _ _)); rfl)
    | (show kindsIn _ _ = true; rfl)
    | split
    | dsimp only
    | intro _
    | with_reducible refine Changes.update ?_)

theorem applyTests_changes (s : State) (p : Path) (sub v : Nat) (d : List Byte) :
    Changes [.draws, .od, .memory, .sectors, .accumulators, .commands, .tallies, .engines, .channels, .power, .recorder, .tests, .access, .link, .drains, .output] s (applyTests s p sub v d) := by
  unfold applyTests
  repeat' (first
    | with_reducible exact Changes.refl
    | with_reducible assumption
    | ((with_reducible apply Changes.step (fenceNow_changes _ _ _)); rfl)
    | ((with_reducible apply Changes.step (installPattern_changes _ _ _)); rfl)
    | ((with_reducible apply Changes.step (odSet_changes _ _ _ _)); rfl)
    | ((with_reducible apply Changes.step (unfence_changes _ _)); rfl)
    | (show kindsIn _ _ = true; rfl)
    | split
    | dsimp only
    | intro _)

theorem applyRecorder_changes (s : State) (sub v : Nat) :
    Changes [.draws, .od, .recorder, .access, .output] s (applyRecorder s sub v) := by
  unfold applyRecorder
  repeat' (first
    | with_reducible exact Changes.refl
    | with_reducible assumption
    | ((with_reducible apply Changes.step (clearRecords_changes _)); rfl)
    | ((with_reducible apply Changes.step (layDust_changes _)); rfl)
    | ((with_reducible apply Changes.step (liftDust_changes _)); rfl)
    | ((with_reducible apply Changes.step (odSet_changes _ _ _ _)); rfl)
    | (show kindsIn _ _ = true; rfl)
    | split
    | dsimp only
    | intro _)

theorem applyFirmware_changes (s : State) (sub v : Nat) (x : Aux) :
    Changes [.draws, .od, .commands, .engines, .features, .recorder, .access, .link, .drains, .firmware, .output] s (applyFirmware s sub v x) := by
  unfold applyFirmware
  repeat' (first
    | with_reducible exact Changes.refl
    | with_reducible assumption
    | ((with_reducible apply Changes.step (activationRequest_changes _ _)); rfl)
    | ((with_reducible apply Changes.step (attachRequest_changes _ _)); rfl)
    | ((with_reducible apply Changes.step (loadImage_changes _ _)); rfl)
    | ((with_reducible apply Changes.step (odSet_changes _ _ _ _)); rfl)
    | ((with_reducible apply Changes.step (stageImage_changes _ _)); rfl)
    | (show kindsIn _ _ = true; rfl)
    | split
    | dsimp only
    | intro _
    | with_reducible refine Changes.update ?_)

theorem applyJobs_changes (s : State) (sub v : Nat) :
    Changes [.draws, .od, .streams, .engines, .recorder, .access, .output] s (applyJobs s sub v) := by
  unfold applyJobs
  repeat' (first
    | with_reducible exact Changes.refl
    | with_reducible assumption
    | ((with_reducible apply Changes.step (odSet_changes _ _ _ _)); rfl)
    | ((with_reducible apply Changes.step (putTable_changes _ _)); rfl)
    | (show kindsIn _ _ = true; rfl)
    | split
    | dsimp only
    | intro _
    | with_reducible refine Changes.update ?_)

theorem applyChallenge_changes (s : State) (p : Path) (v : Nat) (flashOk : Bool) :
    Changes [.draws, .od, .recorder, .access, .firmware, .output] s (applyChallenge s p v flashOk).2 := by
  unfold applyChallenge
  repeat' (first
    | with_reducible exact Changes.refl
    | with_reducible assumption
    | exact Changes.step (attest_changes _ _ _ _ (by assumption)) rfl Changes.refl
    | (show kindsIn _ _ = true; rfl)
    | split
    | dsimp only
    | intro _
    | with_reducible refine Changes.update ?_)

theorem applySingle_changes (s : State) (p : Path) (i sub v : Nat) :
    Changes [.draws, .od, .memory, .sectors, .accumulators, .commands, .tallies, .engines, .stacks, .fabric, .ports, .channels, .power, .recorder, .tests, .access, .link, .drains, .firmware, .output] s (applySingle s p i sub v) := by
  unfold applySingle
  repeat' (first
    | with_reducible exact Changes.refl
    | with_reducible assumption
    | ((with_reducible apply Changes.step (clearSnags_changes _ _)); rfl)
    | ((with_reducible apply Changes.step (odSet_changes _ _ _ _)); rfl)
    | ((with_reducible apply Changes.step (rekeyPort_changes _ _)); rfl)
    | ((with_reducible apply Changes.step (startRetire_changes _ _ _ _)); rfl)
    | ((with_reducible apply Changes.step (writeMap_changes _ _)); rfl)
    | ((with_reducible apply Changes.step (writeNumber_changes _ _)); rfl)
    | ((with_reducible apply Changes.step (writeReset_changes _ _ _)); rfl)
    | ((with_reducible apply Changes.step (writeTally_changes _ _ _)); rfl)
    | with_reducible apply Changes.foldl
    | with_reducible apply Changes.foldl_fst
    | with_reducible apply Changes.foldl_snd
    | with_reducible apply Changes.foldl_trd
    | with_reducible apply Changes.foldl_run
    | with_reducible apply Changes.foldl_deep
    | with_reducible apply Changes.foldl_lane
    | with_reducible apply Changes.foldl_blocks
    | (show kindsIn _ _ = true; rfl)
    | split
    | dsimp only
    | intro _)

theorem applyRoutes_changes (s : State) (v : Nat) :
    Changes [.draws, .od, .fabric, .ports, .recorder, .access, .firmware, .output] s (applyRoutes s v).2 := by
  unfold applyRoutes
  repeat' (first
    | with_reducible exact Changes.refl
    | with_reducible assumption
    | ((with_reducible apply Changes.step (activateRoutes_changes _)); rfl)
    | (show kindsIn _ _ = true; rfl)
    | split
    | dsimp only
    | intro _)

theorem retryModule_changes (s : State) (d v : Nat) :
    Changes [.dieLinks] s (retryModule s d v) := by
  unfold retryModule
  repeat' (first
    | with_reducible exact Changes.refl
    | with_reducible assumption
    | (show kindsIn _ _ = true; rfl)
    | split
    | dsimp only
    | intro _
    | with_reducible refine Changes.update ?_)

theorem applyPlain_changes (s : State) (p : Path) (i sub v : Nat) (d : List Byte) (x : Aux) :
    Changes [.draws, .od, .memory, .sectors, .accumulators, .commands, .tallies, .streams, .engines, .stacks, .features, .fabric, .ports, .channels, .power, .recorder, .tests, .access, .link, .drains, .firmware, .output] s (applyPlain s p i sub v d x) := by
  unfold applyPlain
  repeat' (first
    | with_reducible exact Changes.refl
    | with_reducible assumption
    | ((with_reducible apply Changes.step (applyFirmware_changes _ _ _ _)); rfl)
    | ((with_reducible apply Changes.step (applyJobs_changes _ _ _)); rfl)
    | ((with_reducible apply Changes.step (applyPower_changes _ _ _)); rfl)
    | ((with_reducible apply Changes.step (applyRecorder_changes _ _ _)); rfl)
    | ((with_reducible apply Changes.step (applySingle_changes _ _ _ _ _)); rfl)
    | ((with_reducible apply Changes.step (applyTests_changes _ _ _ _ _)); rfl)
    | ((with_reducible apply Changes.step (scheduleRefresh_changes _ _)); rfl)
    | (show kindsIn _ _ = true; rfl)
    | split
    | dsimp only
    | intro _)

theorem applyIndexed_changes (s : State) (p : Path) (i sub v : Nat) (d : List Byte) (x : Aux) :
    Changes [.draws, .od, .memory, .sectors, .accumulators, .commands, .tallies, .streams, .engines, .stacks, .dieLinks, .features, .fabric, .ports, .channels, .power, .recorder, .tests, .access, .link, .drains, .firmware, .output] s (applyIndexed s p i sub v d x) := by
  unfold applyIndexed
  repeat' (first
    | with_reducible exact Changes.refl
    | with_reducible assumption
    | ((with_reducible apply Changes.step (applyPlain_changes _ _ _ _ _ _ _)); rfl)
    | ((with_reducible apply Changes.step (retryModule_changes _ _ _)); rfl)
    | ((with_reducible apply Changes.step (setSelect_changes _ _ _ _ _)); rfl)
    | ((with_reducible apply Changes.step (writeEnable_changes _ _ _)); rfl)
    | ((with_reducible apply Changes.step (writeQueue_changes _ _ _ _ _)); rfl)
    | ((with_reducible apply Changes.step (writeRestart_changes _ _ _)); rfl)
    | (show kindsIn _ _ = true; rfl)
    | split
    | dsimp only
    | intro _)

theorem odApply_changes (s : State) (p : Path) (i sub v : Nat) (d : List Byte) (x : Aux) :
    Changes [.draws, .od, .memory, .sectors, .accumulators, .commands, .tallies, .streams, .engines, .stacks, .dieLinks, .features, .fabric, .ports, .channels, .power, .recorder, .tests, .access, .link, .drains, .firmware, .output] s (odApply s p i sub v d x).2 := by
  unfold odApply
  repeat' (first
    | with_reducible exact Changes.refl
    | with_reducible assumption
    | ((with_reducible apply Changes.step (applyChallenge_changes _ _ _ _)); rfl)
    | ((with_reducible apply Changes.step (applyIndexed_changes _ _ _ _ _ _ _)); rfl)
    | ((with_reducible apply Changes.step (applyRoutes_changes _ _)); rfl)
    | ((with_reducible apply Changes.step (writeBind_changes _ _ _)); rfl)
    | (show kindsIn _ _ = true; rfl)
    | split
    | dsimp only
    | intro _)

theorem respond_changes (s : State) (p : Path) (r : OdReq) (status off len : Nat) (data : List Byte) :
    Changes [.access, .output] s (respond s p r status off len data) := by
  unfold respond
  repeat' (first
    | with_reducible exact Changes.refl
    | with_reducible assumption
    | ((with_reducible apply Changes.step (emit_changes _ _)); rfl)
    | ((with_reducible apply Changes.step (emitAll_changes _ _)); rfl)
    | (show kindsIn _ _ = true; rfl)
    | split
    | dsimp only
    | intro _
    | with_reducible refine Changes.update ?_)

theorem refuse_changes (s : State) (p : Path) (r : OdReq) (status len : Nat) :
    Changes [.draws, .od, .recorder, .access, .output] s (refuse s p r status len) := by
  unfold refuse
  repeat' (first
    | with_reducible exact Changes.refl
    | with_reducible assumption
    | ((with_reducible apply Changes.step (authRecord_changes _ _ _)); rfl)
    | ((with_reducible apply Changes.step (respond_changes _ _ _ _ _ _ _)); rfl)
    | (show kindsIn _ _ = true; rfl)
    | split
    | dsimp only
    | intro _)

theorem advancePointer_changes (s : State) (p : Path) (i sub : Nat) :
    Changes [.access] s (advancePointer s p i sub) := by
  unfold advancePointer
  repeat' (first
    | with_reducible exact Changes.refl
    | with_reducible assumption
    | ((with_reducible apply Changes.step (setSelect_changes _ _ _ _ _)); rfl)
    | (show kindsIn _ _ = true; rfl)
    | split
    | dsimp only
    | intro _)

theorem serveRead_changes (s : State) (p : Path) (r : OdReq) (row : OdRow) :
    Changes [.draws, .od, .recorder, .access, .output] s (serveRead s p r row) := by
  unfold serveRead
  repeat' (first
    | with_reducible exact Changes.refl
    | with_reducible assumption
    | ((with_reducible apply Changes.step (advancePointer_changes _ _ _ _)); rfl)
    | ((with_reducible apply Changes.step (putReq_changes _ _)); rfl)
    | ((with_reducible apply Changes.step (refuse_changes _ _ _ _ _)); rfl)
    | ((with_reducible apply Changes.step (respond_changes _ _ _ _ _ _ _)); rfl)
    | (show kindsIn _ _ = true; rfl)
    | split
    | dsimp only
    | intro _
    | with_reducible refine Changes.update ?_)

theorem writeValue_changes (s : State) (p : Path) (r : OdReq) (row : OdRow) (d : List Byte) (x : Aux) :
    Changes [.draws, .od, .memory, .sectors, .accumulators, .commands, .tallies, .streams, .engines, .stacks, .dieLinks, .features, .fabric, .ports, .channels, .power, .recorder, .tests, .access, .link, .drains, .firmware, .output] s (writeValue s p r row d x) := by
  unfold writeValue
  repeat' (first
    | with_reducible exact Changes.refl
    | with_reducible assumption
    | ((with_reducible apply Changes.step (odApply_changes _ _ _ _ _ _ _)); rfl)
    | ((with_reducible apply Changes.step (refuse_changes _ _ _ _ _)); rfl)
    | ((with_reducible apply Changes.step (respond_changes _ _ _ _ _ _ _)); rfl)
    | (show kindsIn _ _ = true; rfl)
    | split
    | dsimp only
    | intro _)

theorem serveWrite_changes (s : State) (p : Path) (r : OdReq) (row : OdRow) (x : Aux) :
    Changes [.draws, .od, .memory, .sectors, .accumulators, .commands, .tallies, .streams, .engines, .stacks, .dieLinks, .features, .fabric, .ports, .channels, .power, .recorder, .tests, .access, .link, .drains, .firmware, .output] s (serveWrite s p r row x) := by
  unfold serveWrite
  repeat' (first
    | with_reducible exact Changes.refl
    | with_reducible assumption
    | ((with_reducible apply Changes.step (putReq_changes _ _)); rfl)
    | ((with_reducible apply Changes.step (refuse_changes _ _ _ _ _)); rfl)
    | ((with_reducible apply Changes.step (respond_changes _ _ _ _ _ _ _)); rfl)
    | ((with_reducible apply Changes.step (writeValue_changes _ _ _ _ _ _)); rfl)
    | (show kindsIn _ _ = true; rfl)
    | split
    | dsimp only
    | intro _
    | with_reducible refine Changes.update ?_)

theorem serveMeta_changes (s : State) (p : Path) (r : OdReq) (row : OdRow) :
    Changes [.draws, .od, .recorder, .access, .output] s (serveMeta s p r row) := by
  unfold serveMeta
  repeat' (first
    | with_reducible exact Changes.refl
    | with_reducible assumption
    | ((with_reducible apply Changes.step (refuse_changes _ _ _ _ _)); rfl)
    | ((with_reducible apply Changes.step (respond_changes _ _ _ _ _ _ _)); rfl)
    | (show kindsIn _ _ = true; rfl)
    | split
    | dsimp only
    | intro _)

theorem serveAuth_changes (s : State) (p : Path) (r : OdReq) (row : OdRow) (x : Aux) :
    Changes [.draws, .od, .memory, .sectors, .accumulators, .commands, .tallies, .streams, .engines, .stacks, .dieLinks, .features, .fabric, .ports, .channels, .power, .recorder, .tests, .access, .link, .drains, .firmware, .output] s (serveAuth s p r row x) := by
  unfold serveAuth
  repeat' (first
    | with_reducible exact Changes.refl
    | with_reducible assumption
    | ((with_reducible apply Changes.step (authRecord_changes _ _ _)); rfl)
    | ((with_reducible apply Changes.step (odApply_changes _ _ _ _ _ _ _)); rfl)
    | ((with_reducible apply Changes.step (odSet_changes _ _ _ _)); rfl)
    | ((with_reducible apply Changes.step (refuse_changes _ _ _ _ _)); rfl)
    | ((with_reducible apply Changes.step (respond_changes _ _ _ _ _ _ _)); rfl)
    | (show kindsIn _ _ = true; rfl)
    | split
    | dsimp only
    | intro _)

theorem leaveOthers_changes (s : State) (p : Path) (r : OdReq) :
    Changes [.access] s (leaveOthers s p r) := by
  unfold leaveOthers
  repeat' (first
    | with_reducible exact Changes.refl
    | with_reducible assumption
    | ((with_reducible apply Changes.step (putReq_changes _ _)); rfl)
    | (show kindsIn _ _ = true; rfl)
    | split
    | dsimp only
    | intro _
    | with_reducible refine Changes.update ?_)

theorem serveNow_changes (s0 : State) (p : Path) (r : OdReq) (x : Aux) :
    Changes [.draws, .od, .memory, .sectors, .accumulators, .commands, .tallies, .streams, .engines, .stacks, .dieLinks, .features, .fabric, .ports, .channels, .power, .recorder, .tests, .access, .link, .drains, .firmware, .output] s0 (serveNow s0 p r x) := by
  unfold serveNow
  repeat' (first
    | with_reducible exact Changes.refl
    | with_reducible assumption
    | ((with_reducible apply Changes.step (leaveOthers_changes _ _ _)); rfl)
    | ((with_reducible apply Changes.step (refuse_changes _ _ _ _ _)); rfl)
    | ((with_reducible apply Changes.step (serveAuth_changes _ _ _ _ _)); rfl)
    | ((with_reducible apply Changes.step (serveMeta_changes _ _ _ _)); rfl)
    | ((with_reducible apply Changes.step (serveRead_changes _ _ _ _)); rfl)
    | ((with_reducible apply Changes.step (serveWrite_changes _ _ _ _ _)); rfl)
    | (show kindsIn _ _ = true; rfl)
    | split
    | dsimp only
    | intro _
    | with_reducible refine Changes.update ?_)

theorem odTake_changes (s : State) (p : Path) (r : OdReq) (x : Aux) :
    Changes [.draws, .od, .memory, .sectors, .accumulators, .commands, .tallies, .streams, .engines, .stacks, .dieLinks, .features, .fabric, .ports, .channels, .power, .recorder, .tests, .access, .link, .drains, .firmware, .output] s (odTake s p r x) := by
  unfold odTake
  repeat' (first
    | with_reducible exact Changes.refl
    | with_reducible assumption
    | ((with_reducible apply Changes.step (serveNow_changes _ _ _ _)); rfl)
    | (show kindsIn _ _ = true; rfl)
    | split
    | dsimp only
    | intro _
    | with_reducible refine Changes.update ?_)

theorem fromPermitted_changes {K : List Kind} {e s serve : State} {source : BitVec 128} (h : Changes K e s) (hs : Changes K e serve)
    (hk : kindsIn [.draws, .od, .recorder, .access, .output] K = true) : Changes K e (fromPermitted s source serve) := by
  unfold fromPermitted
  split
  · exact hs
  · exact h.trans ((odBump_changes _ _ _ _).mono hk)

theorem putSession_changes (s : State) (x : Session) :
    Changes [.access] s (putSession s x) := by
  unfold putSession
  repeat' (first
    | with_reducible exact Changes.refl
    | with_reducible assumption
    | (show kindsIn _ _ = true; rfl)
    | split
    | dsimp only
    | intro _
    | with_reducible refine Changes.update ?_)

theorem serveSession_changes (s : State) (x : Session) (p : Path) (seq : Nat) (r : OdReq) (a : Aux) :
    Changes [.draws, .od, .memory, .sectors, .accumulators, .commands, .tallies, .streams, .engines, .stacks, .dieLinks, .features, .fabric, .ports, .channels, .power, .recorder, .tests, .access, .link, .drains, .firmware, .output] s (serveSession s x p seq r a) := by
  unfold serveSession
  repeat' (first
    | with_reducible exact Changes.refl
    | with_reducible assumption
    | ((with_reducible apply Changes.step (odBump_changes _ _ _ _)); rfl)
    | ((with_reducible apply Changes.step (odTake_changes _ _ _ _)); rfl)
    | ((with_reducible apply Changes.step (putSession_changes _ _)); rfl)
    | (show kindsIn _ _ = true; rfl)
    | split
    | dsimp only
    | intro _
    | with_reducible refine Changes.update ?_)

theorem odServe_changes (s : State) (p : Path) (r : OdReq) (a : Aux) :
    Changes [.draws, .od, .memory, .sectors, .accumulators, .commands, .tallies, .streams, .engines, .stacks, .dieLinks, .features, .fabric, .ports, .channels, .power, .recorder, .tests, .access, .link, .drains, .firmware, .output] s (odServe s p r a) := by
  unfold odServe
  repeat' (first
    | with_reducible exact Changes.refl
    | with_reducible assumption
    | with_reducible apply fromPermitted_changes
    | ((with_reducible apply Changes.step (odTake_changes _ _ _ _)); rfl)
    | ((with_reducible apply Changes.step (serveSession_changes _ _ _ _ _ _)); rfl)
    | (show kindsIn _ _ = true; rfl)
    | split
    | dsimp only
    | intro _
    | with_reducible refine Changes.update ?_)

theorem serveHeld_changes (s : State) :
    Changes [.draws, .od, .memory, .sectors, .accumulators, .commands, .tallies, .streams, .engines, .stacks, .dieLinks, .features, .fabric, .ports, .channels, .power, .recorder, .tests, .access, .link, .drains, .firmware, .output] s (serveHeld s) := by
  unfold serveHeld
  repeat' (first
    | with_reducible exact Changes.refl
    | with_reducible assumption
    | ((with_reducible apply Changes.step (odTake_changes _ _ _ _)); rfl)
    | with_reducible apply Changes.foldl
    | with_reducible apply Changes.foldl_fst
    | with_reducible apply Changes.foldl_snd
    | with_reducible apply Changes.foldl_trd
    | with_reducible apply Changes.foldl_run
    | with_reducible apply Changes.foldl_deep
    | with_reducible apply Changes.foldl_lane
    | with_reducible apply Changes.foldl_blocks
    | (show kindsIn _ _ = true; rfl)
    | split
    | dsimp only
    | intro _
    | with_reducible refine Changes.update ?_)

end Sys2Proof.Machine
end

