-- ==== Sys2Proof/Laws/FootprintActivation.lean ====
section
/-! SUPPORT. What each function of Machine/Activation.lean can change. -/

set_option Elab.async false

set_option linter.unreachableTactic false
set_option linter.unusedTactic false
set_option linter.unnecessarySeqFocus false

namespace Sys2Proof.Machine

theorem fileDeferred_changes (s : State) :
    Changes [.draws, .od, .recorder, .access, .output] s (fileDeferred s) := by
  unfold fileDeferred
  repeat' (first
    | with_reducible exact Changes.refl
    | with_reducible assumption
    | ((with_reducible apply Changes.step (fileDetected_changes _ _)); rfl)
    | ((with_reducible apply Changes.step (saturationEvents_changes _ _ _)); rfl)
    | with_reducible apply Changes.foldl
    | (show kindsIn _ _ = true; rfl)
    | split
    | dsimp only
    | intro _
    | with_reducible refine Changes.update ?_)

theorem fileLapse_changes (s : State) :
    Changes [.draws, .od, .recorder, .access, .firmware, .output] s (fileLapse s) := by
  unfold fileLapse
  repeat' (first
    | with_reducible exact Changes.refl
    | with_reducible assumption
    | ((with_reducible apply Changes.step (orphanEvents_changes _)); rfl)
    | (show kindsIn _ _ = true; rfl)
    | split
    | dsimp only
    | intro _
    | with_reducible refine Changes.update ?_)

theorem endBlackout_changes (s : State) (result us : Nat) :
    Changes [.draws, .od, .memory, .sectors, .accumulators, .commands, .tallies, .streams, .engines, .stacks, .dieLinks, .features, .fabric, .ports, .channels, .power, .recorder, .tests, .access, .link, .drains, .firmware, .output] s (endBlackout s result us) := by
  unfold endBlackout
  repeat' (first
    | with_reducible exact Changes.refl
    | with_reducible assumption
    | ((with_reducible apply Changes.step (fileDeferred_changes _)); rfl)
    | ((with_reducible apply Changes.step (fileLapse_changes _)); rfl)
    | ((with_reducible apply Changes.step (odSet_changes _ _ _ _)); rfl)
    | ((with_reducible apply Changes.step (raiseVector_changes _ _)); rfl)
    | ((with_reducible apply Changes.step (serveHeld_changes _)); rfl)
    | (show kindsIn _ _ = true; rfl)
    | split
    | dsimp only
    | intro _)

theorem activateStaged_changes (s : State) :
    Changes [.od, .firmware] s (activateStaged s) := by
  unfold activateStaged
  repeat' (first
    | with_reducible exact Changes.refl
    | with_reducible assumption
    | ((with_reducible apply Changes.step (odSet_changes _ _ _ _)); rfl)
    | ((with_reducible apply Changes.step (runImage_changes _ _)); rfl)
    | (show kindsIn _ _ = true; rfl)
    | split
    | dsimp only
    | intro _
    | with_reducible refine Changes.update ?_)

theorem execQuiescing_changes (s : State) {t : State} (h : execQuiescing s = .next t) :
    Changes [.od] s t := by
  unfold execQuiescing at h
  injection h with h
  subst h
  repeat' (first
    | with_reducible exact Changes.refl
    | with_reducible assumption
    | ((with_reducible apply Changes.step (odSet_changes _ _ _ _)); rfl)
    | (show kindsIn _ _ = true; rfl)
    | split
    | dsimp only
    | intro _)

theorem execBlackout_changes (us : Nat) (s : State) {t : State} (h : execBlackout us s = .next t) :
    Changes [.draws, .od, .memory, .sectors, .accumulators, .commands, .tallies, .streams, .engines, .stacks, .dieLinks, .features, .fabric, .ports, .channels, .power, .recorder, .tests, .access, .link, .drains, .firmware, .output] s t := by
  unfold execBlackout at h
  injection h with h
  subst h
  repeat' (first
    | with_reducible exact Changes.refl
    | with_reducible assumption
    | ((with_reducible apply Changes.step (activateStaged_changes _)); rfl)
    | ((with_reducible apply Changes.step (endBlackout_changes _ _ _)); rfl)
    | ((with_reducible apply Changes.step (odSet_changes _ _ _ _)); rfl)
    | (show kindsIn _ _ = true; rfl)
    | split
    | dsimp only
    | intro _)

theorem execNewImageStartTimeout_changes (us : Nat) (s : State) {t : State} (h : execNewImageStartTimeout us s = .next t) :
    Changes [.draws, .od, .memory, .sectors, .accumulators, .commands, .tallies, .streams, .engines, .stacks, .dieLinks, .features, .fabric, .ports, .channels, .power, .recorder, .tests, .access, .link, .drains, .firmware, .output] s t := by
  unfold execNewImageStartTimeout at h
  injection h with h
  subst h
  repeat' (first
    | with_reducible exact Changes.refl
    | with_reducible assumption
    | ((with_reducible apply Changes.step (endBlackout_changes _ _ _)); rfl)
    | (show kindsIn _ _ = true; rfl)
    | split
    | dsimp only
    | intro _)

theorem execEmergN_changes (s : State) {t : State} (h : execEmergN s = .next t) :
    Changes [.draws, .od, .memory, .sectors, .accumulators, .commands, .tallies, .streams, .engines, .stacks, .dieLinks, .features, .fabric, .ports, .channels, .power, .recorder, .tests, .access, .link, .drains, .firmware, .output] s t := by
  unfold execEmergN at h
  injection h with h
  subst h
  repeat' (first
    | with_reducible exact Changes.refl
    | with_reducible assumption
    | ((with_reducible apply Changes.step (emergNFalls_changes _)); rfl)
    | ((with_reducible apply Changes.step (serveHeld_changes _)); rfl)
    | (show kindsIn _ _ = true; rfl)
    | split
    | dsimp only
    | intro _)

theorem execThermalTrip_changes (r : Reading) (s : State) {t : State} (h : execThermalTrip r s = .next t) :
    Changes [.draws, .od, .memory, .sectors, .accumulators, .commands, .tallies, .streams, .engines, .stacks, .dieLinks, .features, .fabric, .ports, .channels, .power, .recorder, .tests, .access, .link, .drains, .firmware, .output] s t := by
  unfold execThermalTrip at h
  injection h with h
  subst h
  repeat' (first
    | with_reducible exact Changes.refl
    | with_reducible assumption
    | ((with_reducible apply Changes.step (serveHeld_changes _)); rfl)
    | ((with_reducible apply Changes.step (thermalTrip_changes _ _)); rfl)
    | (show kindsIn _ _ = true; rfl)
    | split
    | dsimp only
    | intro _)

theorem execGovernorLoop_changes (measured : List Nat) (watts : Nat) (rs : List Reading) (s : State) {t : State} (h : execGovernorLoop measured watts rs s = .next t) :
    Changes [.draws, .od, .memory, .sectors, .accumulators, .commands, .tallies, .streams, .engines, .stacks, .dieLinks, .features, .fabric, .ports, .channels, .power, .recorder, .tests, .access, .link, .drains, .firmware, .output] s t := by
  unfold execGovernorLoop at h
  injection h with h
  subst h
  repeat' (first
    | with_reducible exact Changes.refl
    | with_reducible assumption
    | ((with_reducible apply Changes.step (governorLoop_changes _ _ _ _)); rfl)
    | ((with_reducible apply Changes.step (serveHeld_changes _)); rfl)
    | (show kindsIn _ _ = true; rfl)
    | split
    | dsimp only
    | intro _)

theorem execVbulkUndervoltage_changes (mV : Nat) (s : State) {t : State} (h : execVbulkUndervoltage mV s = .next t) :
    Changes [.draws, .od, .memory, .sectors, .accumulators, .commands, .tallies, .streams, .engines, .stacks, .dieLinks, .features, .fabric, .ports, .channels, .power, .recorder, .tests, .access, .link, .drains, .firmware, .output] s t := by
  unfold execVbulkUndervoltage at h
  injection h with h
  subst h
  repeat' (first
    | with_reducible exact Changes.refl
    | with_reducible assumption
    | ((with_reducible apply Changes.step (serveHeld_changes _)); rfl)
    | ((with_reducible apply Changes.step (vbulkLow_changes _ _)); rfl)
    | (show kindsIn _ _ = true; rfl)
    | split
    | dsimp only
    | intro _)

end Sys2Proof.Machine
end

