-- ==== Sys2Proof/Laws/FootprintOdRows.lean ====
section
/-! SUPPORT. What each function of Machine/OdRows.lean can change. -/

set_option Elab.async false

set_option linter.unreachableTactic false
set_option linter.unusedTactic false
set_option linter.unnecessarySeqFocus false

namespace Sys2Proof.Machine

theorem doWrite_changes (s : State) (p : Path) (i sub n v : Nat) :
    Changes [.draws, .od, .memory, .sectors, .accumulators, .commands, .tallies, .streams, .engines, .stacks, .dieLinks, .features, .fabric, .ports, .channels, .power, .recorder, .tests, .access, .link, .drains, .firmware, .output] s (doWrite s p i sub n v) := by
  unfold doWrite
  repeat' (first
    | with_reducible exact Changes.refl
    | with_reducible assumption
    | ((with_reducible apply Changes.step (odServe_changes _ _ _ _)); rfl)
    | with_reducible apply Changes.foldl
    | with_reducible apply Changes.foldl_fst
    | with_reducible apply Changes.foldl_snd
    | with_reducible apply Changes.foldl_trd
    | with_reducible apply Changes.foldl_run
    | with_reducible apply Changes.foldl_deep
    | with_reducible apply Changes.foldl_lane
    | with_reducible apply Changes.foldl_blocks
    | (show kindsIn _ _ = true; rfl)
    | split
    | dsimp only
    | intro _)

theorem doAuth_changes (s : State) (p : Path) (i sub n v : Nat) (token : List Byte) :
    Changes [.draws, .od, .memory, .sectors, .accumulators, .commands, .tallies, .streams, .engines, .stacks, .dieLinks, .features, .fabric, .ports, .channels, .power, .recorder, .tests, .access, .link, .drains, .firmware, .output] s (doAuth s p i sub n v token) := by
  unfold doAuth
  repeat' (first
    | with_reducible exact Changes.refl
    | with_reducible assumption
    | ((with_reducible apply Changes.step (odServe_changes _ _ _ _)); rfl)
    | (show kindsIn _ _ = true; rfl)
    | split
    | dsimp only
    | intro _)

theorem execContextRestart_changes (p : Path) (ctx value : Nat) (s : State) {t : State} (h : execContextRestart p ctx value s = .next t) :
    Changes [.draws, .od, .memory, .sectors, .accumulators, .commands, .tallies, .streams, .engines, .stacks, .dieLinks, .features, .fabric, .ports, .channels, .power, .recorder, .tests, .access, .link, .drains, .firmware, .output] s t := by
  unfold execContextRestart at h
  injection h with h
  subst h
  repeat' (first
    | with_reducible exact Changes.refl
    | with_reducible assumption
    | ((with_reducible apply Changes.step (doWrite_changes _ _ _ _ _ _)); rfl)
    | (show kindsIn _ _ = true; rfl)
    | split
    | dsimp only
    | intro _)

theorem execPartitionTableWrite_changes (p : Path) (len table : Nat) (s : State) {t : State} (h : execPartitionTableWrite p len table s = .next t) :
    Changes [.draws, .od, .memory, .sectors, .accumulators, .commands, .tallies, .streams, .engines, .stacks, .dieLinks, .features, .fabric, .ports, .channels, .power, .recorder, .tests, .access, .link, .drains, .firmware, .output] s t := by
  unfold execPartitionTableWrite at h
  injection h with h
  subst h
  repeat' (first
    | with_reducible exact Changes.refl
    | with_reducible assumption
    | ((with_reducible apply Changes.step (doWrite_changes _ _ _ _ _ _)); rfl)
    | (show kindsIn _ _ = true; rfl)
    | split
    | dsimp only
    | intro _)

theorem execRingBaseWrite_changes (p : Path) (u q : Nat) (size : Bool) (value : Nat) (s : State) {t : State} (h : execRingBaseWrite p u q size value s = .next t) :
    Changes [.draws, .od, .memory, .sectors, .accumulators, .commands, .tallies, .streams, .engines, .stacks, .dieLinks, .features, .fabric, .ports, .channels, .power, .recorder, .tests, .access, .link, .drains, .firmware, .output] s t := by
  unfold execRingBaseWrite at h
  injection h with h
  subst h
  repeat' (first
    | with_reducible exact Changes.refl
    | with_reducible assumption
    | ((with_reducible apply Changes.step (doWrite_changes _ _ _ _ _ _)); rfl)
    | (show kindsIn _ _ = true; rfl)
    | split
    | dsimp only
    | intro _)

theorem execTailWrite_changes (p : Path) (u q value : Nat) (s : State) {t : State} (h : execTailWrite p u q value s = .next t) :
    Changes [.draws, .od, .memory, .sectors, .accumulators, .commands, .tallies, .streams, .engines, .stacks, .dieLinks, .features, .fabric, .ports, .channels, .power, .recorder, .tests, .access, .link, .drains, .firmware, .output] s t := by
  unfold execTailWrite at h
  injection h with h
  subst h
  repeat' (first
    | with_reducible exact Changes.refl
    | with_reducible assumption
    | ((with_reducible apply Changes.step (doWrite_changes _ _ _ _ _ _)); rfl)
    | (show kindsIn _ _ = true; rfl)
    | split
    | dsimp only
    | intro _)

theorem execTallyWrite_changes (p : Path) (value : Nat) (s : State) {t : State} (h : execTallyWrite p value s = .next t) :
    Changes [.draws, .od, .memory, .sectors, .accumulators, .commands, .tallies, .streams, .engines, .stacks, .dieLinks, .features, .fabric, .ports, .channels, .power, .recorder, .tests, .access, .link, .drains, .firmware, .output] s t := by
  unfold execTallyWrite at h
  injection h with h
  subst h
  repeat' (first
    | with_reducible exact Changes.refl
    | with_reducible assumption
    | ((with_reducible apply Changes.step (doWrite_changes _ _ _ _ _ _)); rfl)
    | (show kindsIn _ _ = true; rfl)
    | split
    | dsimp only
    | intro _)

theorem execSrSeedWrite_changes (p : Path) (value : Nat) (s : State) {t : State} (h : execSrSeedWrite p value s = .next t) :
    Changes [.draws, .od, .memory, .sectors, .accumulators, .commands, .tallies, .streams, .engines, .stacks, .dieLinks, .features, .fabric, .ports, .channels, .power, .recorder, .tests, .access, .link, .drains, .firmware, .output] s t := by
  unfold execSrSeedWrite at h
  injection h with h
  subst h
  repeat' (first
    | with_reducible exact Changes.refl
    | with_reducible assumption
    | ((with_reducible apply Changes.step (doWrite_changes _ _ _ _ _ _)); rfl)
    | (show kindsIn _ _ = true; rfl)
    | split
    | dsimp only
    | intro _)

theorem execChannelBind_changes (p : Path) (chan : Nat) (s : State) {t : State} (h : execChannelBind p chan s = .next t) :
    Changes [.draws, .od, .memory, .sectors, .accumulators, .commands, .tallies, .streams, .engines, .stacks, .dieLinks, .features, .fabric, .ports, .channels, .power, .recorder, .tests, .access, .link, .drains, .firmware, .output] s t := by
  unfold execChannelBind at h
  injection h with h
  subst h
  repeat' (first
    | with_reducible exact Changes.refl
    | with_reducible assumption
    | ((with_reducible apply Changes.step (doWrite_changes _ _ _ _ _ _)); rfl)
    | (show kindsIn _ _ = true; rfl)
    | split
    | dsimp only
    | intro _)

theorem execChannelUnbind_changes (p : Path) (chan : Nat) (s : State) {t : State} (h : execChannelUnbind p chan s = .next t) :
    Changes [.draws, .od, .memory, .sectors, .accumulators, .commands, .tallies, .streams, .engines, .stacks, .dieLinks, .features, .fabric, .ports, .channels, .power, .recorder, .tests, .access, .link, .drains, .firmware, .output] s t := by
  unfold execChannelUnbind at h
  injection h with h
  subst h
  repeat' (first
    | with_reducible exact Changes.refl
    | with_reducible assumption
    | ((with_reducible apply Changes.step (doWrite_changes _ _ _ _ _ _)); rfl)
    | (show kindsIn _ _ = true; rfl)
    | split
    | dsimp only
    | intro _)

theorem execBackupMapWrite_changes (p : Path) (value : Nat) (s : State) {t : State} (h : execBackupMapWrite p value s = .next t) :
    Changes [.draws, .od, .memory, .sectors, .accumulators, .commands, .tallies, .streams, .engines, .stacks, .dieLinks, .features, .fabric, .ports, .channels, .power, .recorder, .tests, .access, .link, .drains, .firmware, .output] s t := by
  unfold execBackupMapWrite at h
  injection h with h
  subst h
  repeat' (first
    | with_reducible exact Changes.refl
    | with_reducible assumption
    | ((with_reducible apply Changes.step (doWrite_changes _ _ _ _ _ _)); rfl)
    | (show kindsIn _ _ = true; rfl)
    | split
    | dsimp only
    | intro _)

theorem execRetireStack_changes (p : Path) (value : Nat) (token : List Byte) (s : State) {t : State} (h : execRetireStack p value token s = .next t) :
    Changes [.draws, .od, .memory, .sectors, .accumulators, .commands, .tallies, .streams, .engines, .stacks, .dieLinks, .features, .fabric, .ports, .channels, .power, .recorder, .tests, .access, .link, .drains, .firmware, .output] s t := by
  unfold execRetireStack at h
  injection h with h
  subst h
  repeat' (first
    | with_reducible exact Changes.refl
    | with_reducible assumption
    | ((with_reducible apply Changes.step (doAuth_changes _ _ _ _ _ _ _)); rfl)
    | (show kindsIn _ _ = true; rfl)
    | split
    | dsimp only
    | intro _)

theorem execPackageNumberWrite_changes (p : Path) (value : Nat) (s : State) {t : State} (h : execPackageNumberWrite p value s = .next t) :
    Changes [.draws, .od, .memory, .sectors, .accumulators, .commands, .tallies, .streams, .engines, .stacks, .dieLinks, .features, .fabric, .ports, .channels, .power, .recorder, .tests, .access, .link, .drains, .firmware, .output] s t := by
  unfold execPackageNumberWrite at h
  injection h with h
  subst h
  repeat' (first
    | with_reducible exact Changes.refl
    | with_reducible assumption
    | ((with_reducible apply Changes.step (doWrite_changes _ _ _ _ _ _)); rfl)
    | (show kindsIn _ _ = true; rfl)
    | split
    | dsimp only
    | intro _)

theorem execRouteActivate_changes (p : Path) (value : Nat) (s : State) {t : State} (h : execRouteActivate p value s = .next t) :
    Changes [.draws, .od, .memory, .sectors, .accumulators, .commands, .tallies, .streams, .engines, .stacks, .dieLinks, .features, .fabric, .ports, .channels, .power, .recorder, .tests, .access, .link, .drains, .firmware, .output] s t := by
  unfold execRouteActivate at h
  injection h with h
  subst h
  repeat' (first
    | with_reducible exact Changes.refl
    | with_reducible assumption
    | ((with_reducible apply Changes.step (doWrite_changes _ _ _ _ _ _)); rfl)
    | (show kindsIn _ _ = true; rfl)
    | split
    | dsimp only
    | intro _)

theorem execReKeyRequest_changes (p : Path) (value : Nat) (s : State) {t : State} (h : execReKeyRequest p value s = .next t) :
    Changes [.draws, .od, .memory, .sectors, .accumulators, .commands, .tallies, .streams, .engines, .stacks, .dieLinks, .features, .fabric, .ports, .channels, .power, .recorder, .tests, .access, .link, .drains, .firmware, .output] s t := by
  unfold execReKeyRequest at h
  injection h with h
  subst h
  repeat' (first
    | with_reducible exact Changes.refl
    | with_reducible assumption
    | ((with_reducible apply Changes.step (doWrite_changes _ _ _ _ _ _)); rfl)
    | (show kindsIn _ _ = true; rfl)
    | split
    | dsimp only
    | intro _)

theorem execPortEnableWrite_changes (p : Path) (port value : Nat) (s : State) {t : State} (h : execPortEnableWrite p port value s = .next t) :
    Changes [.draws, .od, .memory, .sectors, .accumulators, .commands, .tallies, .streams, .engines, .stacks, .dieLinks, .features, .fabric, .ports, .channels, .power, .recorder, .tests, .access, .link, .drains, .firmware, .output] s t := by
  unfold execPortEnableWrite at h
  injection h with h
  subst h
  repeat' (first
    | with_reducible exact Changes.refl
    | with_reducible assumption
    | ((with_reducible apply Changes.step (doWrite_changes _ _ _ _ _ _)); rfl)
    | (show kindsIn _ _ = true; rfl)
    | split
    | dsimp only
    | intro _)

theorem execClearLaneRecord_changes (p : Path) (d value : Nat) (token : List Byte) (s : State) {t : State} (h : execClearLaneRecord p d value token s = .next t) :
    Changes [.draws, .od, .memory, .sectors, .accumulators, .commands, .tallies, .streams, .engines, .stacks, .dieLinks, .features, .fabric, .ports, .channels, .power, .recorder, .tests, .access, .link, .drains, .firmware, .output] s t := by
  unfold execClearLaneRecord at h
  injection h with h
  subst h
  repeat' (first
    | with_reducible exact Changes.refl
    | with_reducible assumption
    | ((with_reducible apply Changes.step (doAuth_changes _ _ _ _ _ _ _)); rfl)
    | (show kindsIn _ _ = true; rfl)
    | split
    | dsimp only
    | intro _)

theorem execEmergencyRequest_changes (p : Path) (value : Nat) (s : State) {t : State} (h : execEmergencyRequest p value s = .next t) :
    Changes [.draws, .od, .memory, .sectors, .accumulators, .commands, .tallies, .streams, .engines, .stacks, .dieLinks, .features, .fabric, .ports, .channels, .power, .recorder, .tests, .access, .link, .drains, .firmware, .output] s t := by
  unfold execEmergencyRequest at h
  injection h with h
  subst h
  repeat' (first
    | with_reducible exact Changes.refl
    | with_reducible assumption
    | ((with_reducible apply Changes.step (doWrite_changes _ _ _ _ _ _)); rfl)
    | (show kindsIn _ _ = true; rfl)
    | split
    | dsimp only
    | intro _)

theorem execRefreshRequest_changes (p : Path) (index : Nat) (value : Nat) (s : State) {t : State} (h : execRefreshRequest p index value s = .next t) :
    Changes [.draws, .od, .memory, .sectors, .accumulators, .commands, .tallies, .streams, .engines, .stacks, .dieLinks, .features, .fabric, .ports, .channels, .power, .recorder, .tests, .access, .link, .drains, .firmware, .output] s t := by
  unfold execRefreshRequest at h
  injection h with h
  subst h
  repeat' (first
    | with_reducible exact Changes.refl
    | with_reducible assumption
    | ((with_reducible apply Changes.step (doWrite_changes _ _ _ _ _ _)); rfl)
    | (show kindsIn _ _ = true; rfl)
    | split
    | dsimp only
    | intro _)

theorem execSnagClear_changes (p : Path) (mask : Nat) (s : State) {t : State} (h : execSnagClear p mask s = .next t) :
    Changes [.draws, .od, .memory, .sectors, .accumulators, .commands, .tallies, .streams, .engines, .stacks, .dieLinks, .features, .fabric, .ports, .channels, .power, .recorder, .tests, .access, .link, .drains, .firmware, .output] s t := by
  unfold execSnagClear at h
  injection h with h
  subst h
  repeat' (first
    | with_reducible exact Changes.refl
    | with_reducible assumption
    | ((with_reducible apply Changes.step (doWrite_changes _ _ _ _ _ _)); rfl)
    | (show kindsIn _ _ = true; rfl)
    | split
    | dsimp only
    | intro _)

theorem execFenceCore_changes (p : Path) (value : Nat) (token : List Byte) (s : State) {t : State} (h : execFenceCore p value token s = .next t) :
    Changes [.draws, .od, .memory, .sectors, .accumulators, .commands, .tallies, .streams, .engines, .stacks, .dieLinks, .features, .fabric, .ports, .channels, .power, .recorder, .tests, .access, .link, .drains, .firmware, .output] s t := by
  unfold execFenceCore at h
  injection h with h
  subst h
  repeat' (first
    | with_reducible exact Changes.refl
    | with_reducible assumption
    | ((with_reducible apply Changes.step (doAuth_changes _ _ _ _ _ _ _)); rfl)
    | (show kindsIn _ _ = true; rfl)
    | split
    | dsimp only
    | intro _)

theorem execUnfenceCore_changes (p : Path) (value : Nat) (token : List Byte) (s : State) {t : State} (h : execUnfenceCore p value token s = .next t) :
    Changes [.draws, .od, .memory, .sectors, .accumulators, .commands, .tallies, .streams, .engines, .stacks, .dieLinks, .features, .fabric, .ports, .channels, .power, .recorder, .tests, .access, .link, .drains, .firmware, .output] s t := by
  unfold execUnfenceCore at h
  injection h with h
  subst h
  repeat' (first
    | with_reducible exact Changes.refl
    | with_reducible assumption
    | ((with_reducible apply Changes.step (doAuth_changes _ _ _ _ _ _ _)); rfl)
    | (show kindsIn _ _ = true; rfl)
    | split
    | dsimp only
    | intro _)

theorem execInstallFieldPattern_changes (p : Path) (pattern : List Byte) (token : List Byte) (s : State) {t : State} (h : execInstallFieldPattern p pattern token s = .next t) :
    Changes [.draws, .od, .memory, .sectors, .accumulators, .commands, .tallies, .streams, .engines, .stacks, .dieLinks, .features, .fabric, .ports, .channels, .power, .recorder, .tests, .access, .link, .drains, .firmware, .output] s t := by
  unfold execInstallFieldPattern at h
  injection h with h
  subst h
  repeat' (first
    | with_reducible exact Changes.refl
    | with_reducible assumption
    | ((with_reducible apply Changes.step (odServe_changes _ _ _ _)); rfl)
    | (show kindsIn _ _ = true; rfl)
    | split
    | dsimp only
    | intro _)

theorem execCounterReset_changes (p : Path) (value : Nat) (s : State) {t : State} (h : execCounterReset p value s = .next t) :
    Changes [.draws, .od, .memory, .sectors, .accumulators, .commands, .tallies, .streams, .engines, .stacks, .dieLinks, .features, .fabric, .ports, .channels, .power, .recorder, .tests, .access, .link, .drains, .firmware, .output] s t := by
  unfold execCounterReset at h
  injection h with h
  subst h
  repeat' (first
    | with_reducible exact Changes.refl
    | with_reducible assumption
    | ((with_reducible apply Changes.step (doWrite_changes _ _ _ _ _ _)); rfl)
    | (show kindsIn _ _ = true; rfl)
    | split
    | dsimp only
    | intro _)

theorem execDustSheetLay_changes (p : Path) (s : State) {t : State} (h : execDustSheetLay p s = .next t) :
    Changes [.draws, .od, .memory, .sectors, .accumulators, .commands, .tallies, .streams, .engines, .stacks, .dieLinks, .features, .fabric, .ports, .channels, .power, .recorder, .tests, .access, .link, .drains, .firmware, .output] s t := by
  unfold execDustSheetLay at h
  injection h with h
  subst h
  repeat' (first
    | with_reducible exact Changes.refl
    | with_reducible assumption
    | ((with_reducible apply Changes.step (doWrite_changes _ _ _ _ _ _)); rfl)
    | (show kindsIn _ _ = true; rfl)
    | split
    | dsimp only
    | intro _)

theorem execDustSheetLift_changes (p : Path) (s : State) {t : State} (h : execDustSheetLift p s = .next t) :
    Changes [.draws, .od, .memory, .sectors, .accumulators, .commands, .tallies, .streams, .engines, .stacks, .dieLinks, .features, .fabric, .ports, .channels, .power, .recorder, .tests, .access, .link, .drains, .firmware, .output] s t := by
  unfold execDustSheetLift at h
  injection h with h
  subst h
  repeat' (first
    | with_reducible exact Changes.refl
    | with_reducible assumption
    | ((with_reducible apply Changes.step (doWrite_changes _ _ _ _ _ _)); rfl)
    | (show kindsIn _ _ = true; rfl)
    | split
    | dsimp only
    | intro _)

theorem execRecordRead_changes (p : Path) (s : State) {t : State} (h : execRecordRead p s = .next t) :
    Changes [.draws, .od, .memory, .sectors, .accumulators, .commands, .tallies, .streams, .engines, .stacks, .dieLinks, .features, .fabric, .ports, .channels, .power, .recorder, .tests, .access, .link, .drains, .firmware, .output] s t := by
  unfold execRecordRead at h
  injection h with h
  subst h
  repeat' (first
    | with_reducible exact Changes.refl
    | with_reducible assumption
    | ((with_reducible apply Changes.step (odServe_changes _ _ _ _)); rfl)
    | (show kindsIn _ _ = true; rfl)
    | split
    | dsimp only
    | intro _)

theorem execArchiveRead_changes (p : Path) (s : State) {t : State} (h : execArchiveRead p s = .next t) :
    Changes [.draws, .od, .memory, .sectors, .accumulators, .commands, .tallies, .streams, .engines, .stacks, .dieLinks, .features, .fabric, .ports, .channels, .power, .recorder, .tests, .access, .link, .drains, .firmware, .output] s t := by
  unfold execArchiveRead at h
  injection h with h
  subst h
  repeat' (first
    | with_reducible exact Changes.refl
    | with_reducible assumption
    | ((with_reducible apply Changes.step (odServe_changes _ _ _ _)); rfl)
    | (show kindsIn _ _ = true; rfl)
    | split
    | dsimp only
    | intro _)

theorem execClearRecorder_changes (p : Path) (token : List Byte) (s : State) {t : State} (h : execClearRecorder p token s = .next t) :
    Changes [.draws, .od, .memory, .sectors, .accumulators, .commands, .tallies, .streams, .engines, .stacks, .dieLinks, .features, .fabric, .ports, .channels, .power, .recorder, .tests, .access, .link, .drains, .firmware, .output] s t := by
  unfold execClearRecorder at h
  injection h with h
  subst h
  repeat' (first
    | with_reducible exact Changes.refl
    | with_reducible assumption
    | ((with_reducible apply Changes.step (odServe_changes _ _ _ _)); rfl)
    | (show kindsIn _ _ = true; rfl)
    | split
    | dsimp only
    | intro _)

theorem execAttach_changes (p : Path) (s : State) {t : State} (h : execAttach p s = .next t) :
    Changes [.draws, .od, .memory, .sectors, .accumulators, .commands, .tallies, .streams, .engines, .stacks, .dieLinks, .features, .fabric, .ports, .channels, .power, .recorder, .tests, .access, .link, .drains, .firmware, .output] s t := by
  unfold execAttach at h
  injection h with h
  subst h
  repeat' (first
    | with_reducible exact Changes.refl
    | with_reducible assumption
    | ((with_reducible apply Changes.step (doWrite_changes _ _ _ _ _ _)); rfl)
    | (show kindsIn _ _ = true; rfl)
    | split
    | dsimp only
    | intro _)

theorem execFresh_changes (p : Path) (s : State) {t : State} (h : execFresh p s = .next t) :
    Changes [.draws, .od, .memory, .sectors, .accumulators, .commands, .tallies, .streams, .engines, .stacks, .dieLinks, .features, .fabric, .ports, .channels, .power, .recorder, .tests, .access, .link, .drains, .firmware, .output] s t := by
  unfold execFresh at h
  injection h with h
  subst h
  repeat' (first
    | with_reducible exact Changes.refl
    | with_reducible assumption
    | ((with_reducible apply Changes.step (doWrite_changes _ _ _ _ _ _)); rfl)
    | (show kindsIn _ _ = true; rfl)
    | split
    | dsimp only
    | intro _)

theorem execDetach_changes (p : Path) (s : State) {t : State} (h : execDetach p s = .next t) :
    Changes [.draws, .od, .memory, .sectors, .accumulators, .commands, .tallies, .streams, .engines, .stacks, .dieLinks, .features, .fabric, .ports, .channels, .power, .recorder, .tests, .access, .link, .drains, .firmware, .output] s t := by
  unfold execDetach at h
  injection h with h
  subst h
  repeat' (first
    | with_reducible exact Changes.refl
    | with_reducible assumption
    | ((with_reducible apply Changes.step (doWrite_changes _ _ _ _ _ _)); rfl)
    | (show kindsIn _ _ = true; rfl)
    | split
    | dsimp only
    | intro _)

theorem execLoad_changes (p : Path) (image : Option (List Byte)) (s : State) {t : State} (h : execLoad p image s = .next t) :
    Changes [.draws, .od, .memory, .sectors, .accumulators, .commands, .tallies, .streams, .engines, .stacks, .dieLinks, .features, .fabric, .ports, .channels, .power, .recorder, .tests, .access, .link, .drains, .firmware, .output] s t := by
  unfold execLoad at h
  injection h with h
  subst h
  repeat' (first
    | with_reducible exact Changes.refl
    | with_reducible assumption
    | ((with_reducible apply Changes.step (odServe_changes _ _ _ _)); rfl)
    | (show kindsIn _ _ = true; rfl)
    | split
    | dsimp only
    | intro _)

theorem execStage_changes (p : Path) (image : Option (List Byte)) (s : State) {t : State} (h : execStage p image s = .next t) :
    Changes [.draws, .od, .memory, .sectors, .accumulators, .commands, .tallies, .streams, .engines, .stacks, .dieLinks, .features, .fabric, .ports, .channels, .power, .recorder, .tests, .access, .link, .drains, .firmware, .output] s t := by
  unfold execStage at h
  injection h with h
  subst h
  repeat' (first
    | with_reducible exact Changes.refl
    | with_reducible assumption
    | ((with_reducible apply Changes.step (odServe_changes _ _ _ _)); rfl)
    | (show kindsIn _ _ = true; rfl)
    | split
    | dsimp only
    | intro _)

theorem execActivationRequest_changes (p : Path) (s : State) {t : State} (h : execActivationRequest p s = .next t) :
    Changes [.draws, .od, .memory, .sectors, .accumulators, .commands, .tallies, .streams, .engines, .stacks, .dieLinks, .features, .fabric, .ports, .channels, .power, .recorder, .tests, .access, .link, .drains, .firmware, .output] s t := by
  unfold execActivationRequest at h
  injection h with h
  subst h
  repeat' (first
    | with_reducible exact Changes.refl
    | with_reducible assumption
    | ((with_reducible apply Changes.step (doWrite_changes _ _ _ _ _ _)); rfl)
    | (show kindsIn _ _ = true; rfl)
    | split
    | dsimp only
    | intro _)

theorem execActivationCancel_changes (p : Path) (s : State) {t : State} (h : execActivationCancel p s = .next t) :
    Changes [.draws, .od, .memory, .sectors, .accumulators, .commands, .tallies, .streams, .engines, .stacks, .dieLinks, .features, .fabric, .ports, .channels, .power, .recorder, .tests, .access, .link, .drains, .firmware, .output] s t := by
  unfold execActivationCancel at h
  injection h with h
  subst h
  repeat' (first
    | with_reducible exact Changes.refl
    | with_reducible assumption
    | ((with_reducible apply Changes.step (doWrite_changes _ _ _ _ _ _)); rfl)
    | (show kindsIn _ _ = true; rfl)
    | split
    | dsimp only
    | intro _)

theorem execCommitSecurityVersion_changes (p : Path) (value : Nat) (token : List Byte) (s : State) {t : State} (h : execCommitSecurityVersion p value token s = .next t) :
    Changes [.draws, .od, .memory, .sectors, .accumulators, .commands, .tallies, .streams, .engines, .stacks, .dieLinks, .features, .fabric, .ports, .channels, .power, .recorder, .tests, .access, .link, .drains, .firmware, .output] s t := by
  unfold execCommitSecurityVersion at h
  injection h with h
  subst h
  repeat' (first
    | with_reducible exact Changes.refl
    | with_reducible assumption
    | ((with_reducible apply Changes.step (doAuth_changes _ _ _ _ _ _ _)); rfl)
    | (show kindsIn _ _ = true; rfl)
    | split
    | dsimp only
    | intro _)

theorem execLockDebug_changes (p : Path) (value : Nat) (token : List Byte) (s : State) {t : State} (h : execLockDebug p value token s = .next t) :
    Changes [.draws, .od, .memory, .sectors, .accumulators, .commands, .tallies, .streams, .engines, .stacks, .dieLinks, .features, .fabric, .ports, .channels, .power, .recorder, .tests, .access, .link, .drains, .firmware, .output] s t := by
  unfold execLockDebug at h
  injection h with h
  subst h
  repeat' (first
    | with_reducible exact Changes.refl
    | with_reducible assumption
    | ((with_reducible apply Changes.step (doAuth_changes _ _ _ _ _ _ _)); rfl)
    | (show kindsIn _ _ = true; rfl)
    | split
    | dsimp only
    | intro _)

theorem execOperatorKeyHashWrite_changes (p : Path) (value : Nat) (s : State) {t : State} (h : execOperatorKeyHashWrite p value s = .next t) :
    Changes [.draws, .od, .memory, .sectors, .accumulators, .commands, .tallies, .streams, .engines, .stacks, .dieLinks, .features, .fabric, .ports, .channels, .power, .recorder, .tests, .access, .link, .drains, .firmware, .output] s t := by
  unfold execOperatorKeyHashWrite at h
  injection h with h
  subst h
  repeat' (first
    | with_reducible exact Changes.refl
    | with_reducible assumption
    | ((with_reducible apply Changes.step (doWrite_changes _ _ _ _ _ _)); rfl)
    | (show kindsIn _ _ = true; rfl)
    | split
    | dsimp only
    | intro _)

theorem execAttestationChallenge_changes (p : Path) (value : Nat) (flashOk : Bool) (s : State) {t : State} (h : execAttestationChallenge p value flashOk s = .next t) :
    Changes [.draws, .od, .memory, .sectors, .accumulators, .commands, .tallies, .streams, .engines, .stacks, .dieLinks, .features, .fabric, .ports, .channels, .power, .recorder, .tests, .access, .link, .drains, .firmware, .output] s t := by
  unfold execAttestationChallenge at h
  injection h with h
  subst h
  repeat' (first
    | with_reducible exact Changes.refl
    | with_reducible assumption
    | ((with_reducible apply Changes.step (odServe_changes _ _ _ _)); rfl)
    | (show kindsIn _ _ = true; rfl)
    | split
    | dsimp only
    | intro _)

theorem execOdRead_changes (p : Path) (r : OdReq) (s : State) {t : State} (h : execOdRead p r s = .next t) :
    Changes [.draws, .od, .memory, .sectors, .accumulators, .commands, .tallies, .streams, .engines, .stacks, .dieLinks, .features, .fabric, .ports, .channels, .power, .recorder, .tests, .access, .link, .drains, .firmware, .output] s t := by
  unfold execOdRead at h
  injection h with h
  subst h
  repeat' (first
    | with_reducible exact Changes.refl
    | with_reducible assumption
    | ((with_reducible apply Changes.step (odServe_changes _ _ _ _)); rfl)
    | (show kindsIn _ _ = true; rfl)
    | split
    | dsimp only
    | intro _)

theorem execOdWrite_changes (p : Path) (r : OdReq) (s : State) {t : State} (h : execOdWrite p r s = .next t) :
    Changes [.draws, .od, .memory, .sectors, .accumulators, .commands, .tallies, .streams, .engines, .stacks, .dieLinks, .features, .fabric, .ports, .channels, .power, .recorder, .tests, .access, .link, .drains, .firmware, .output] s t := by
  unfold execOdWrite at h
  injection h with h
  subst h
  repeat' (first
    | with_reducible exact Changes.refl
    | with_reducible assumption
    | ((with_reducible apply Changes.step (odServe_changes _ _ _ _)); rfl)
    | (show kindsIn _ _ = true; rfl)
    | split
    | dsimp only
    | intro _)

theorem execOdMeta_changes (p : Path) (r : OdReq) (s : State) {t : State} (h : execOdMeta p r s = .next t) :
    Changes [.draws, .od, .memory, .sectors, .accumulators, .commands, .tallies, .streams, .engines, .stacks, .dieLinks, .features, .fabric, .ports, .channels, .power, .recorder, .tests, .access, .link, .drains, .firmware, .output] s t := by
  unfold execOdMeta at h
  injection h with h
  subst h
  repeat' (first
    | with_reducible exact Changes.refl
    | with_reducible assumption
    | ((with_reducible apply Changes.step (odServe_changes _ _ _ _)); rfl)
    | (show kindsIn _ _ = true; rfl)
    | split
    | dsimp only
    | intro _)

theorem execAuthWrite_changes (p : Path) (r : OdReq) (s : State) {t : State} (h : execAuthWrite p r s = .next t) :
    Changes [.draws, .od, .memory, .sectors, .accumulators, .commands, .tallies, .streams, .engines, .stacks, .dieLinks, .features, .fabric, .ports, .channels, .power, .recorder, .tests, .access, .link, .drains, .firmware, .output] s t := by
  unfold execAuthWrite at h
  injection h with h
  subst h
  repeat' (first
    | with_reducible exact Changes.refl
    | with_reducible assumption
    | ((with_reducible apply Changes.step (odServe_changes _ _ _ _)); rfl)
    | (show kindsIn _ _ = true; rfl)
    | split
    | dsimp only
    | intro _)

theorem execStagingTimeout_changes (p : Path) (s : State) {t : State} (h : execStagingTimeout p s = .next t) :
    Changes [.access] s t := by
  unfold execStagingTimeout at h
  injection h with h
  subst h
  repeat' (first
    | with_reducible exact Changes.refl
    | with_reducible assumption
    | ((with_reducible apply Changes.step (putReq_changes _ _)); rfl)
    | (show kindsIn _ _ = true; rfl)
    | split
    | dsimp only
    | intro _
    | with_reducible refine Changes.update ?_)

theorem execUnsupportedMailboxOpcode_changes (opcode : Nat) (s : State) {t : State} (h : execUnsupportedMailboxOpcode opcode s = .next t) :
    Changes [.output] s t := by
  unfold execUnsupportedMailboxOpcode at h
  injection h with h
  subst h
  repeat' (first
    | with_reducible exact Changes.refl
    | with_reducible assumption
    | ((with_reducible apply Changes.step (emit_changes _ _)); rfl)
    | (show kindsIn _ _ = true; rfl)
    | split
    | dsimp only
    | intro _)

theorem execJobPageDoorbell_changes (ctx value : Nat) (r : OdReq) (s : State) {t : State} (h : execJobPageDoorbell ctx value r s = .next t) :
    Changes [.draws, .od, .memory, .sectors, .accumulators, .commands, .tallies, .streams, .engines, .stacks, .dieLinks, .features, .fabric, .ports, .channels, .power, .recorder, .tests, .access, .link, .drains, .firmware, .output] s t := by
  unfold execJobPageDoorbell at h
  injection h with h
  subst h
  repeat' (first
    | with_reducible exact Changes.refl
    | with_reducible assumption
    | ((with_reducible apply Changes.step (odServe_changes _ _ _ _)); rfl)
    | (show kindsIn _ _ = true; rfl)
    | split
    | dsimp only
    | intro _)

theorem ninthSession_changes (s : State) (n seq : Nat) (source : BitVec 128) (r : OdReq) :
    Changes [.draws, .od, .memory, .sectors, .accumulators, .commands, .tallies, .streams, .engines, .stacks, .dieLinks, .features, .fabric, .ports, .channels, .power, .recorder, .tests, .access, .link, .drains, .firmware, .output] s (ninthSession s n seq source r) := by
  unfold ninthSession
  repeat' (first
    | with_reducible exact Changes.refl
    | with_reducible assumption
    | ((with_reducible apply Changes.step (emit_changes _ _)); rfl)
    | ((with_reducible apply Changes.step (refuse_changes _ _ _ _ _)); rfl)
    | ((with_reducible apply Changes.step (serveNow_changes _ _ _ _)); rfl)
    | (show kindsIn _ _ = true; rfl)
    | split
    | dsimp only
    | intro _)

theorem takeHasowa_changes (s : State) (n seq : Nat) (source : BitVec 128) (r : OdReq) :
    Changes [.draws, .od, .memory, .sectors, .accumulators, .commands, .tallies, .streams, .engines, .stacks, .dieLinks, .features, .fabric, .ports, .channels, .power, .recorder, .tests, .access, .link, .drains, .firmware, .output] s (takeHasowa s n seq source r) := by
  unfold takeHasowa
  repeat' (first
    | with_reducible exact Changes.refl
    | with_reducible assumption
    | ((with_reducible apply Changes.step (dropReq_changes _ _)); rfl)
    | ((with_reducible apply Changes.step (emitAll_changes _ _)); rfl)
    | ((with_reducible apply Changes.step (ninthSession_changes _ _ _ _ _)); rfl)
    | ((with_reducible apply Changes.step (odBump_changes _ _ _ _)); rfl)
    | ((with_reducible apply Changes.step (putSession_changes _ _)); rfl)
    | ((with_reducible apply Changes.step (serveSession_changes _ _ _ _ _ _)); rfl)
    | (show kindsIn _ _ = true; rfl)
    | split
    | dsimp only
    | intro _
    | with_reducible refine Changes.update ?_)

theorem execHasowaRequest_changes (session seq : Nat) (head : HasowaHead) (source : BitVec 128) (r : OdReq) (s : State) {t : State} (h : execHasowaRequest session seq head source r s = .next t) :
    Changes [.draws, .od, .memory, .sectors, .accumulators, .commands, .tallies, .streams, .engines, .stacks, .dieLinks, .features, .fabric, .ports, .channels, .power, .recorder, .tests, .access, .link, .drains, .firmware, .output] s t := by
  unfold execHasowaRequest at h
  injection h with h
  subst h
  repeat' (first
    | with_reducible exact Changes.refl
    | with_reducible assumption
    | with_reducible apply fromPermitted_changes
    | ((with_reducible apply Changes.step (takeHasowa_changes _ _ _ _ _)); rfl)
    | (show kindsIn _ _ = true; rfl)
    | split
    | dsimp only
    | intro _)

theorem execSessionTimeout_changes (session : Nat) (s : State) {t : State} (h : execSessionTimeout session s = .next t) :
    Changes [.access] s t := by
  unfold execSessionTimeout at h
  injection h with h
  subst h
  repeat' (first
    | with_reducible exact Changes.refl
    | with_reducible assumption
    | ((with_reducible apply Changes.step (dropReq_changes _ _)); rfl)
    | (show kindsIn _ _ = true; rfl)
    | split
    | dsimp only
    | intro _
    | with_reducible refine Changes.update ?_)

theorem execDiscover_changes (s : State) {t : State} (h : execDiscover s = .next t) :
    Changes [.access] s t := by
  unfold execDiscover at h
  injection h with h
  subst h
  repeat' (first
    | with_reducible exact Changes.refl
    | with_reducible assumption
    | (show kindsIn _ _ = true; rfl)
    | split
    | dsimp only
    | intro _
    | with_reducible refine Changes.update ?_)

theorem execAnnounce_changes (s : State) {t : State} (h : execAnnounce s = .next t) :
    Changes [.access, .output] s t := by
  unfold execAnnounce at h
  injection h with h
  subst h
  repeat' (first
    | with_reducible exact Changes.refl
    | with_reducible assumption
    | ((with_reducible apply Changes.step (emit_changes _ _)); rfl)
    | (show kindsIn _ _ = true; rfl)
    | split
    | dsimp only
    | intro _
    | with_reducible refine Changes.update ?_)

theorem execBeaconLoss_changes (s : State) {t : State} (h : execBeaconLoss s = .next t) :
    Changes [.draws, .od, .recorder, .access, .output] s t := by
  unfold execBeaconLoss at h
  injection h with h
  subst h
  repeat' (first
    | with_reducible exact Changes.refl
    | with_reducible assumption
    | ((with_reducible apply Changes.step (odBump_changes _ _ _ _)); rfl)
    | ((with_reducible apply Changes.step (odSet_changes _ _ _ _)); rfl)
    | (show kindsIn _ _ = true; rfl)
    | split
    | dsimp only
    | intro _)

theorem execBeaconReturn_changes (s : State) {t : State} (h : execBeaconReturn s = .next t) :
    Changes [.od] s t := by
  unfold execBeaconReturn at h
  injection h with h
  subst h
  repeat' (first
    | with_reducible exact Changes.refl
    | with_reducible assumption
    | ((with_reducible apply Changes.step (odSet_changes _ _ _ _)); rfl)
    | (show kindsIn _ _ = true; rfl)
    | split
    | dsimp only
    | intro _)

end Sys2Proof.Machine
end

