-- ==== Sys2Proof/Laws/FootprintStartUp.lean ====
section
/-! SUPPORT. What each function of Machine/StartUp.lean can change. -/

set_option Elab.async false

set_option linter.unreachableTactic false
set_option linter.unusedTactic false
set_option linter.unnecessarySeqFocus false

namespace Sys2Proof.Machine

theorem vbulkGood_changes (s : State) :
    Changes [.draws, .od, .supplies, .power, .recorder, .access, .firmware, .output] s (vbulkGood s) := by
  unfold vbulkGood
  repeat' (first
    | with_reducible exact Changes.refl
    | with_reducible assumption
    | ((with_reducible apply Changes.step (clearCause_changes _ _)); rfl)
    | ((with_reducible apply Changes.step (enterStep_changes _ _ _)); rfl)
    | (show kindsIn _ _ = true; rfl)
    | split
    | dsimp only
    | intro _
    | with_reducible refine Changes.update ?_)

theorem vhtrGood_changes (s : State) :
    Changes [.draws, .od, .ports, .supplies, .recorder, .access, .firmware, .output] s (vhtrGood s) := by
  unfold vhtrGood
  repeat' (first
    | with_reducible exact Changes.refl
    | with_reducible assumption
    | ((with_reducible apply Changes.step (progress_changes _)); rfl)
    | ((with_reducible apply Changes.step (wakePort_changes _ _)); rfl)
    | with_reducible apply Changes.foldl
    | (show kindsIn _ _ = true; rfl)
    | split
    | dsimp only
    | intro _
    | with_reducible refine Changes.update ?_)

theorem execSupplyGood_changes (supply : Nat) (s : State) {t : State} (h : execSupplyGood supply s = .next t) :
    Changes [.clock, .draws, .od, .memory, .sectors, .accumulators, .commands, .tallies, .streams, .engines, .stacks, .dieLinks, .features, .fabric, .ports, .channels, .supplies, .power, .recorder, .tests, .access, .link, .drains, .firmware, .output] s t := by
  unfold execSupplyGood at h
  injection h with h
  subst h
  repeat' (first
    | with_reducible exact Changes.refl
    | with_reducible assumption
    | ((with_reducible apply Changes.step (clearCause_changes _ _)); rfl)
    | ((with_reducible apply Changes.step (serveHeld_changes _)); rfl)
    | ((with_reducible apply Changes.step (vbulkGood_changes _)); rfl)
    | ((with_reducible apply Changes.step (vhtrGood_changes _)); rfl)
    | (show kindsIn _ _ = true; rfl)
    | split
    | dsimp only
    | intro _
    | with_reducible refine Changes.update ?_)

theorem powerRecord_changes (s : State) (unit detail : Nat) :
    Changes [.draws, .od, .recorder, .access, .output] s (powerRecord s unit detail) := by
  unfold powerRecord
  repeat' (first
    | with_reducible exact Changes.refl
    | with_reducible assumption
    | ((with_reducible apply Changes.step (addRecord_changes _ _)); rfl)
    | ((with_reducible apply Changes.step (liftDust_changes _)); rfl)
    | (show kindsIn _ _ = true; rfl)
    | split
    | dsimp only
    | intro _)

theorem powerStop_changes (s : State) (c : Nat) :
    Changes [.draws, .od, .commands, .recorder, .access, .output] s (powerStop s c) := by
  unfold powerStop
  repeat' (first
    | with_reducible exact Changes.refl
    | with_reducible assumption
    | ((with_reducible apply Changes.step (qSet_changes _ _ _ _ _)); rfl)
    | ((with_reducible apply Changes.step (stateChange_changes _ _ _ _ _ _ _)); rfl)
    | ((with_reducible apply Changes.step (unfetch_changes _ _ _)); rfl)
    | with_reducible apply Changes.foldl
    | with_reducible apply Changes.foldl_fst
    | with_reducible apply Changes.foldl_snd
    | with_reducible apply Changes.foldl_trd
    | with_reducible apply Changes.foldl_run
    | with_reducible apply Changes.foldl_deep
    | with_reducible apply Changes.foldl_lane
    | with_reducible apply Changes.foldl_blocks
    | (show kindsIn _ _ = true; rfl)
    | split
    | dsimp only
    | intro _)

theorem dropRun_changes (s : State) (k : Chan) :
    Changes [.od, .channels] s (dropRun s k) := by
  unfold dropRun
  repeat' (first
    | with_reducible exact Changes.refl
    | with_reducible assumption
    | ((with_reducible apply Changes.step (odSet_changes _ _ _ _)); rfl)
    | (show kindsIn _ _ = true; rfl)
    | split
    | dsimp only
    | intro _
    | with_reducible refine Changes.update ?_)

theorem resetHub_changes (s : State) :
    Changes [.od, .tallies, .budget, .power, .link, .output] s (resetHub s) := by
  unfold resetHub
  repeat' (first
    | with_reducible exact Changes.refl
    | with_reducible assumption
    | ((with_reducible apply Changes.step (odSet_changes _ _ _ _)); rfl)
    | ((with_reducible apply Changes.step (setLevel_changes _ _ _)); rfl)
    | ((with_reducible apply Changes.step (showFreq_changes _)); rfl)
    | with_reducible apply Changes.foldl
    | with_reducible apply Changes.foldl_fst
    | with_reducible apply Changes.foldl_snd
    | with_reducible apply Changes.foldl_trd
    | with_reducible apply Changes.foldl_run
    | with_reducible apply Changes.foldl_deep
    | with_reducible apply Changes.foldl_lane
    | with_reducible apply Changes.foldl_blocks
    | (show kindsIn _ _ = true; rfl)
    | split
    | dsimp only
    | intro _
    | with_reducible refine Changes.update ?_)

theorem dropWork_changes (s : State) :
    Changes [.sectors, .accumulators, .commands, .budget, .streams, .engines, .dieLinks, .fabric, .ports, .power, .tests, .drains] s (dropWork s) := by
  unfold dropWork
  repeat' (first
    | with_reducible exact Changes.refl
    | with_reducible assumption
    | (show kindsIn _ _ = true; rfl)
    | split
    | dsimp only
    | intro _
    | with_reducible refine Changes.update ?_)

theorem dropMemory_changes (s : State) :
    Changes [.memory, .sectors] s (dropMemory s) := by
  unfold dropMemory
  repeat' (first
    | with_reducible exact Changes.refl
    | with_reducible assumption
    | (show kindsIn _ _ = true; rfl)
    | split
    | dsimp only
    | intro _
    | with_reducible refine Changes.update ?_)

theorem settleRetires_changes (s : State) :
    Changes [.stacks] s (settleRetires s) := by
  unfold settleRetires
  repeat' (first
    | with_reducible exact Changes.refl
    | with_reducible assumption
    | (show kindsIn _ _ = true; rfl)
    | split
    | dsimp only
    | intro _
    | with_reducible refine Changes.update ?_)

theorem darkPorts_changes (s : State) :
    Changes [.draws, .od, .ports, .recorder, .access, .firmware, .output] s (darkPorts s) := by
  unfold darkPorts
  repeat' (first
    | with_reducible exact Changes.refl
    | with_reducible assumption
    | ((with_reducible apply Changes.step (goDark_changes _ _)); rfl)
    | with_reducible apply Changes.foldl
    | (show kindsIn _ _ = true; rfl)
    | split
    | dsimp only
    | intro _
    | with_reducible refine Changes.update ?_)

theorem dropTests_changes (s : State) :
    Changes [.od, .tests] s (dropTests s) := by
  unfold dropTests
  repeat' (first
    | with_reducible exact Changes.refl
    | with_reducible assumption
    | ((with_reducible apply Changes.step (endTest_changes _)); rfl)
    | ((with_reducible apply Changes.step (odSet_changes _ _ _ _)); rfl)
    | (show kindsIn _ _ = true; rfl)
    | split
    | dsimp only
    | intro _
    | with_reducible refine Changes.update ?_)

theorem dropBuffers_changes (s : State) :
    Changes [.access] s (dropBuffers s) := by
  unfold dropBuffers
  repeat' (first
    | with_reducible exact Changes.refl
    | with_reducible assumption
    | (show kindsIn _ _ = true; rfl)
    | split
    | dsimp only
    | intro _
    | with_reducible refine Changes.update ?_)

theorem resetBulk_changes (s : State) :
    Changes [.draws, .od, .memory, .sectors, .accumulators, .commands, .tallies, .budget, .streams, .engines, .stacks, .dieLinks, .fabric, .ports, .channels, .power, .recorder, .tests, .access, .link, .drains, .firmware, .output] s (resetBulk s) := by
  unfold resetBulk
  repeat' (first
    | with_reducible exact Changes.refl
    | with_reducible assumption
    | ((with_reducible apply Changes.step (darkPorts_changes _)); rfl)
    | ((with_reducible apply Changes.step (dropBuffers_changes _)); rfl)
    | ((with_reducible apply Changes.step (dropMemory_changes _)); rfl)
    | ((with_reducible apply Changes.step (dropRun_changes _ _)); rfl)
    | ((with_reducible apply Changes.step (dropTests_changes _)); rfl)
    | ((with_reducible apply Changes.step (dropWork_changes _)); rfl)
    | ((with_reducible apply Changes.step (linkDown_changes _)); rfl)
    | ((with_reducible apply Changes.step (odSet_changes _ _ _ _)); rfl)
    | ((with_reducible apply Changes.step (powerStop_changes _ _)); rfl)
    | ((with_reducible apply Changes.step (resetHub_changes _)); rfl)
    | ((with_reducible apply Changes.step (settleRetires_changes _)); rfl)
    | with_reducible apply Changes.foldl
    | with_reducible apply Changes.foldl_fst
    | with_reducible apply Changes.foldl_snd
    | with_reducible apply Changes.foldl_trd
    | with_reducible apply Changes.foldl_run
    | with_reducible apply Changes.foldl_deep
    | with_reducible apply Changes.foldl_lane
    | with_reducible apply Changes.foldl_blocks
    | (show kindsIn _ _ = true; rfl)
    | split
    | dsimp only
    | intro _
    | with_reducible refine Changes.update ?_)

theorem execVbulkPowerFail_changes (overvoltage : Bool) (s : State) {t : State} (h : execVbulkPowerFail overvoltage s = .next t) :
    Changes [.draws, .od, .memory, .sectors, .accumulators, .commands, .tallies, .budget, .streams, .engines, .stacks, .dieLinks, .fabric, .ports, .channels, .supplies, .power, .recorder, .tests, .access, .link, .drains, .firmware, .output] s t := by
  unfold execVbulkPowerFail at h
  injection h with h
  subst h
  repeat' (first
    | with_reducible exact Changes.refl
    | with_reducible assumption
    | ((with_reducible apply Changes.step (powerRecord_changes _ _ _)); rfl)
    | ((with_reducible apply Changes.step (resetBulk_changes _)); rfl)
    | ((with_reducible apply Changes.step (stopStart_changes _ _)); rfl)
    | (show kindsIn _ _ = true; rfl)
    | split
    | dsimp only
    | intro _
    | with_reducible refine Changes.update ?_)

theorem coldReset_changes (s : State) :
    Changes [.clock, .draws, .od, .memory, .sectors, .accumulators, .commands, .tallies, .budget, .streams, .engines, .stacks, .dieLinks, .features, .fabric, .ports, .channels, .supplies, .power, .recorder, .tests, .access, .link, .drains, .firmware, .output] s (coldReset s) := by
  refine ⟨rfl, fun h => ?_, fun k hk => absurd hk (by cases k <;> decide)⟩
  exact ⟨rfl, List.Pairwise.nil, rfl, rfl, by simp [coldReset, State.reset], h.od.filter _, Nat.zero_le _, Nat.zero_le _, rfl, rfl, rfl, rfl, rfl, rfl, rfl, rfl, rfl⟩

theorem holdUpFlush_changes (s : State) :
    Changes [.draws, .recorder] s (holdUpFlush s) := by
  unfold holdUpFlush
  repeat' (first
    | with_reducible exact Changes.refl
    | with_reducible assumption
    | ((with_reducible apply Changes.step (copyRecords_changes _)); rfl)
    | ((with_reducible apply Changes.step (freshNat_changes _ _ _)); rfl)
    | (show kindsIn _ _ = true; rfl)
    | split
    | dsimp only
    | intro _
    | with_reducible refine Changes.update ?_)

theorem failRecorded_changes (s : State) (unit cause : Nat) :
    Changes [.draws, .od, .recorder, .access, .output] s (failRecorded s unit cause) := by
  unfold failRecorded
  repeat' (first
    | with_reducible exact Changes.refl
    | with_reducible assumption
    | ((with_reducible apply Changes.step (holdUpFlush_changes _)); rfl)
    | ((with_reducible apply Changes.step (powerRecord_changes _ _ _)); rfl)
    | (show kindsIn _ _ = true; rfl)
    | split
    | dsimp only
    | intro _)

theorem packageFail_changes (s : State) (unit cause : Nat) :
    Changes [.clock, .draws, .od, .memory, .sectors, .accumulators, .commands, .tallies, .budget, .streams, .engines, .stacks, .dieLinks, .features, .fabric, .ports, .channels, .supplies, .power, .recorder, .tests, .access, .link, .drains, .firmware, .output] s (packageFail s unit cause) := by
  unfold packageFail
  repeat' (first
    | with_reducible exact Changes.refl
    | with_reducible assumption
    | ((with_reducible apply Changes.step (coldReset_changes _)); rfl)
    | ((with_reducible apply Changes.step (failRecorded_changes _ _ _)); rfl)
    | (show kindsIn _ _ = true; rfl)
    | split
    | dsimp only
    | intro _)

theorem execPackagePowerFail_changes (cause : Nat) (s : State) {t : State} (h : execPackagePowerFail cause s = .next t) :
    Changes [.clock, .draws, .od, .memory, .sectors, .accumulators, .commands, .tallies, .budget, .streams, .engines, .stacks, .dieLinks, .features, .fabric, .ports, .channels, .supplies, .power, .recorder, .tests, .access, .link, .drains, .firmware, .output] s t := by
  unfold execPackagePowerFail at h
  injection h with h
  subst h
  repeat' (first
    | with_reducible exact Changes.refl
    | with_reducible assumption
    | ((with_reducible apply Changes.step (packageFail_changes _ _ _)); rfl)
    | (show kindsIn _ _ = true; rfl)
    | split
    | dsimp only
    | intro _
    | with_reducible refine Changes.update ?_)

theorem clockFail_changes (s : State) :
    Changes [.clock, .draws, .od, .memory, .sectors, .accumulators, .commands, .tallies, .budget, .streams, .engines, .stacks, .dieLinks, .features, .fabric, .ports, .channels, .supplies, .power, .recorder, .tests, .access, .link, .drains, .firmware, .output] s (clockFail s) := by
  unfold clockFail
  repeat' (first
    | with_reducible exact Changes.refl
    | with_reducible assumption
    | ((with_reducible apply Changes.step (coldReset_changes _)); rfl)
    | ((with_reducible apply Changes.step (failRecorded_changes _ _ _)); rfl)
    | ((with_reducible apply Changes.step (odSet_changes _ _ _ _)); rfl)
    | (show kindsIn _ _ = true; rfl)
    | split
    | dsimp only
    | intro _
    | with_reducible refine Changes.update ?_)

theorem execClk25Loss_changes (s : State) {t : State} (h : execClk25Loss s = .next t) :
    Changes [.clock, .draws, .od, .memory, .sectors, .accumulators, .commands, .tallies, .budget, .streams, .engines, .stacks, .dieLinks, .features, .fabric, .ports, .channels, .supplies, .power, .recorder, .tests, .access, .link, .drains, .firmware, .output] s t := by
  unfold execClk25Loss at h
  injection h with h
  subst h
  repeat' (first
    | with_reducible exact Changes.refl
    | with_reducible assumption
    | ((with_reducible apply Changes.step (clockFail_changes _)); rfl)
    | (show kindsIn _ _ = true; rfl)
    | split
    | dsimp only
    | intro _)

theorem execHeatersOff_changes (mV : Nat) (s : State) {t : State} (h : execHeatersOff mV s = .next t) :
    Changes [.draws, .od, .ports, .supplies, .recorder, .access, .firmware, .output] s t := by
  unfold execHeatersOff at h
  injection h with h
  subst h
  repeat' (first
    | with_reducible exact Changes.refl
    | with_reducible assumption
    | ((with_reducible apply Changes.step (goDark_changes _ _)); rfl)
    | with_reducible apply Changes.foldl
    | (show kindsIn _ _ = true; rfl)
    | split
    | dsimp only
    | intro _
    | with_reducible refine Changes.update ?_)

theorem loadFuses_changes (s : State) :
    Changes [.od] s (loadFuses s) := by
  unfold loadFuses
  repeat' (first
    | with_reducible exact Changes.refl
    | with_reducible assumption
    | ((with_reducible apply Changes.step (odSet_changes _ _ _ _)); rfl)
    | (show kindsIn _ _ = true; rfl)
    | split
    | dsimp only
    | intro _)

theorem fuseStop_changes (s : State) :
    Changes [.od, .firmware] s (fuseStop s) := by
  unfold fuseStop
  repeat' (first
    | with_reducible exact Changes.refl
    | with_reducible assumption
    | ((with_reducible apply Changes.step (odSet_changes _ _ _ _)); rfl)
    | ((with_reducible apply Changes.step (stopStart_changes _ _)); rfl)
    | (show kindsIn _ _ = true; rfl)
    | split
    | dsimp only
    | intro _
    | with_reducible refine Changes.update ?_)

theorem execFuseLoad_changes (result rpos : Nat) (s : State) {t : State} (h : execFuseLoad result rpos s = .next t) :
    Changes [.draws, .od, .supplies, .power, .recorder, .access, .firmware, .output] s t := by
  unfold execFuseLoad at h
  injection h with h
  subst h
  repeat' (first
    | with_reducible exact Changes.refl
    | with_reducible assumption
    | ((with_reducible apply Changes.step (addRecord_changes _ _)); rfl)
    | ((with_reducible apply Changes.step (enterStep_changes _ _ _)); rfl)
    | ((with_reducible apply Changes.step (fuseStop_changes _)); rfl)
    | ((with_reducible apply Changes.step (loadFuses_changes _)); rfl)
    | ((with_reducible apply Changes.step (odBump_changes _ _ _ _)); rfl)
    | ((with_reducible apply Changes.step (odSet_changes _ _ _ _)); rfl)
    | ((with_reducible apply Changes.step (raiseCause_changes _ _)); rfl)
    | ((with_reducible apply Changes.step (snagSet_changes _ _)); rfl)
    | (show kindsIn _ _ = true; rfl)
    | split
    | dsimp only
    | intro _
    | with_reducible refine Changes.update ?_)

theorem execBootRomStart_changes (s : State) {t : State} (h : execBootRomStart s = .next t) :
    Changes [.od, .firmware] s t := by
  unfold execBootRomStart at h
  injection h with h
  subst h
  repeat' (first
    | with_reducible exact Changes.refl
    | with_reducible assumption
    | ((with_reducible apply Changes.step (enterStep_changes _ _ _)); rfl)
    | ((with_reducible apply Changes.step (odSet_changes _ _ _ _)); rfl)
    | ((with_reducible apply Changes.step (stopStart_changes _ _)); rfl)
    | (show kindsIn _ _ = true; rfl)
    | split
    | dsimp only
    | intro _
    | with_reducible refine Changes.update ?_)

theorem addersBack_changes (s : State) :
    Changes [.od] s (addersBack s) := by
  unfold addersBack
  repeat' (first
    | with_reducible exact Changes.refl
    | with_reducible assumption
    | ((with_reducible apply Changes.step (odSet_changes _ _ _ _)); rfl)
    | with_reducible apply Changes.foldl
    | with_reducible apply Changes.foldl_fst
    | with_reducible apply Changes.foldl_snd
    | with_reducible apply Changes.foldl_trd
    | with_reducible apply Changes.foldl_run
    | with_reducible apply Changes.foldl_deep
    | with_reducible apply Changes.foldl_lane
    | with_reducible apply Changes.foldl_blocks
    | (show kindsIn _ _ = true; rfl)
    | split
    | dsimp only
    | intro _)

theorem execVbulkResume_changes (s : State) {t : State} (h : execVbulkResume s = .next t) :
    Changes [.draws, .od, .memory, .sectors, .accumulators, .commands, .tallies, .streams, .engines, .stacks, .dieLinks, .features, .fabric, .ports, .channels, .supplies, .power, .recorder, .tests, .access, .link, .drains, .firmware, .output] s t := by
  unfold execVbulkResume at h
  injection h with h
  subst h
  repeat' (first
    | with_reducible exact Changes.refl
    | with_reducible assumption
    | ((with_reducible apply Changes.step (addRecord_changes _ _)); rfl)
    | ((with_reducible apply Changes.step (addersBack_changes _)); rfl)
    | ((with_reducible apply Changes.step (clearCause_changes _ _)); rfl)
    | ((with_reducible apply Changes.step (enterStep_changes _ _ _)); rfl)
    | ((with_reducible apply Changes.step (odBump_changes _ _ _ _)); rfl)
    | ((with_reducible apply Changes.step (serveHeld_changes _)); rfl)
    | (show kindsIn _ _ = true; rfl)
    | split
    | dsimp only
    | intro _
    | with_reducible refine Changes.update ?_)

theorem zeroStacks_changes (s : State) :
    Changes [.od, .memory, .sectors, .stacks] s (zeroStacks s) := by
  unfold zeroStacks
  repeat' (first
    | with_reducible exact Changes.refl
    | with_reducible assumption
    | ((with_reducible apply Changes.step (odSet_changes _ _ _ _)); rfl)
    | (show kindsIn _ _ = true; rfl)
    | split
    | dsimp only
    | intro _
    | with_reducible refine Changes.update ?_)

theorem startRetirement_changes (code : Nat) (s : State) (stack : Nat) :
    Changes [.draws, .od, .stacks, .recorder, .access, .output] s (startRetirement code s stack) := by
  unfold startRetirement
  repeat' (first
    | with_reducible exact Changes.refl
    | with_reducible assumption
    | ((with_reducible apply Changes.step (odSet_changes _ _ _ _)); rfl)
    | ((with_reducible apply Changes.step (overrideSlot_changes _ _ _ _ _)); rfl)
    | ((with_reducible apply Changes.step (stateChange_changes _ _ _ _ _ _ _)); rfl)
    | with_reducible apply Changes.foldl
    | with_reducible apply Changes.foldl_fst
    | with_reducible apply Changes.foldl_snd
    | with_reducible apply Changes.foldl_trd
    | with_reducible apply Changes.foldl_run
    | with_reducible apply Changes.foldl_deep
    | with_reducible apply Changes.foldl_lane
    | with_reducible apply Changes.foldl_blocks
    | (show kindsIn _ _ = true; rfl)
    | split
    | dsimp only
    | intro _
    | with_reducible refine Changes.update ?_)

theorem failTraining_changes (s : State) (f : Nat × Nat) :
    Changes [.draws, .od, .stacks, .fabric, .ports, .recorder, .access, .output] s (failTraining s f) := by
  unfold failTraining
  repeat' (first
    | with_reducible exact Changes.refl
    | with_reducible assumption
    | ((with_reducible apply Changes.step (fileCode_changes _ _ _ _)); rfl)
    | ((with_reducible apply Changes.step (odSet_changes _ _ _ _)); rfl)
    | ((with_reducible apply Changes.step (sealThird_changes _ _ _)); rfl)
    | ((with_reducible apply Changes.step (snagSet_changes _ _)); rfl)
    | ((with_reducible apply Changes.step (startRetirement_changes _ _ _)); rfl)
    | (show kindsIn _ _ = true; rfl)
    | split
    | dsimp only
    | intro _
    | with_reducible refine Changes.update ?_)

theorem execHbm4Training_changes (failed : List (Nat × Nat)) (ms : Nat) (s : State) {t : State} (h : execHbm4Training failed ms s = .next t) :
    Changes [.draws, .od, .memory, .sectors, .stacks, .fabric, .ports, .recorder, .access, .firmware, .output] s t := by
  unfold execHbm4Training at h
  injection h with h
  subst h
  repeat' (first
    | with_reducible exact Changes.refl
    | with_reducible assumption
    | ((with_reducible apply Changes.step (enterStep_changes _ _ _)); rfl)
    | ((with_reducible apply Changes.step (failTraining_changes _ _)); rfl)
    | ((with_reducible apply Changes.step (odSet_changes _ _ _ _)); rfl)
    | ((with_reducible apply Changes.step (startRetirement_changes _ _ _)); rfl)
    | ((with_reducible apply Changes.step (zeroStacks_changes _)); rfl)
    | with_reducible apply Changes.foldl
    | with_reducible apply Changes.foldl_fst
    | with_reducible apply Changes.foldl_snd
    | with_reducible apply Changes.foldl_trd
    | with_reducible apply Changes.foldl_run
    | with_reducible apply Changes.foldl_deep
    | with_reducible apply Changes.foldl_lane
    | with_reducible apply Changes.foldl_blocks
    | (show kindsIn _ _ = true; rfl)
    | split
    | dsimp only
    | intro _)

theorem retryModules_changes (s : State) :
    Changes [.od, .dieLinks] s (retryModules s) := by
  unfold retryModules
  repeat' (first
    | with_reducible exact Changes.refl
    | with_reducible assumption
    | ((with_reducible apply Changes.step (odSet_changes _ _ _ _)); rfl)
    | with_reducible apply Changes.foldl
    | (show kindsIn _ _ = true; rfl)
    | split
    | dsimp only
    | intro _
    | with_reducible refine Changes.update ?_)

theorem trainLane_changes (s : State) (f : Nat × Nat × Nat) :
    Changes [.od, .dieLinks] s (trainLane s f) := by
  unfold trainLane
  repeat' (first
    | with_reducible exact Changes.refl
    | with_reducible assumption
    | ((with_reducible apply Changes.step (recordLane_changes _ _ _)); rfl)
    | (show kindsIn _ _ = true; rfl)
    | split
    | dsimp only
    | intro _)

theorem outAtStart_changes (s : State) (d : Nat) :
    Changes [.draws, .od, .dieLinks, .recorder, .tests, .access, .output] s (outAtStart s d) := by
  unfold outAtStart
  repeat' (first
    | with_reducible exact Changes.refl
    | with_reducible assumption
    | ((with_reducible apply Changes.step (fileCode_changes _ _ _ _)); rfl)
    | ((with_reducible apply Changes.step (msixAllContexts_changes _)); rfl)
    | ((with_reducible apply Changes.step (odSet_changes _ _ _ _)); rfl)
    | ((with_reducible apply Changes.step (setCore_changes _ _ _ _)); rfl)
    | ((with_reducible apply Changes.step (snagSet_changes _ _)); rfl)
    | with_reducible apply Changes.foldl
    | with_reducible apply Changes.foldl_fst
    | with_reducible apply Changes.foldl_snd
    | with_reducible apply Changes.foldl_trd
    | with_reducible apply Changes.foldl_run
    | with_reducible apply Changes.foldl_deep
    | with_reducible apply Changes.foldl_lane
    | with_reducible apply Changes.foldl_blocks
    | (show kindsIn _ _ = true; rfl)
    | split
    | dsimp only
    | intro _
    | with_reducible refine Changes.update ?_)

theorem startRoles_changes (before : List (List Nat)) (s : State) (d : Nat) :
    Changes [.draws, .od, .dieLinks, .recorder, .tests, .access, .output] s (startRoles before s d) := by
  unfold startRoles
  repeat' (first
    | with_reducible exact Changes.refl
    | with_reducible assumption
    | ((with_reducible apply Changes.step (degraded_changes _ _ _ _ _)); rfl)
    | ((with_reducible apply Changes.step (fileCode_changes _ _ _ _)); rfl)
    | ((with_reducible apply Changes.step (odSet_changes _ _ _ _)); rfl)
    | ((with_reducible apply Changes.step (outAtStart_changes _ _)); rfl)
    | ((with_reducible apply Changes.step (setRole_changes _ _ _ _ _)); rfl)
    | with_reducible apply Changes.foldl
    | with_reducible apply Changes.foldl_fst
    | with_reducible apply Changes.foldl_snd
    | with_reducible apply Changes.foldl_trd
    | with_reducible apply Changes.foldl_run
    | with_reducible apply Changes.foldl_deep
    | with_reducible apply Changes.foldl_lane
    | with_reducible apply Changes.foldl_blocks
    | (show kindsIn _ _ = true; rfl)
    | split
    | dsimp only
    | intro _
    | with_reducible refine Changes.update ?_)

theorem execDieLinkTraining_changes (failed : List (Nat × Nat × Nat)) (errataOk : Bool) (ms : Nat) (s : State) {t : State} (h : execDieLinkTraining failed errataOk ms s = .next t) :
    Changes [.draws, .od, .memory, .sectors, .accumulators, .commands, .tallies, .engines, .dieLinks, .fabric, .ports, .channels, .power, .recorder, .tests, .access, .link, .drains, .firmware, .output] s t := by
  unfold execDieLinkTraining at h
  injection h with h
  subst h
  repeat' (first
    | with_reducible exact Changes.refl
    | with_reducible assumption
    | ((with_reducible apply Changes.step (enterStep_changes _ _ _)); rfl)
    | ((with_reducible apply Changes.step (linkDown_changes _)); rfl)
    | ((with_reducible apply Changes.step (retryModules_changes _)); rfl)
    | ((with_reducible apply Changes.step (startRoles_changes _ _ _)); rfl)
    | ((with_reducible apply Changes.step (stopStart_changes _ _)); rfl)
    | ((with_reducible apply Changes.step (trainLane_changes _ _)); rfl)
    | with_reducible apply Changes.foldl
    | with_reducible apply Changes.foldl_fst
    | with_reducible apply Changes.foldl_snd
    | with_reducible apply Changes.foldl_trd
    | with_reducible apply Changes.foldl_run
    | with_reducible apply Changes.foldl_deep
    | with_reducible apply Changes.foldl_lane
    | with_reducible apply Changes.foldl_blocks
    | (show kindsIn _ _ = true; rfl)
    | split
    | dsimp only
    | intro _
    | with_reducible refine Changes.update ?_)

theorem startCore_changes (pass new : List Nat) (l served : List (Nat × Nat)) (s : State) (k : Nat) :
    Changes [.draws, .od, .recorder, .access, .output] s (startCore pass new l served s k) := by
  unfold startCore
  repeat' (first
    | with_reducible exact Changes.refl
    | with_reducible assumption
    | ((with_reducible apply Changes.step (odSet_changes _ _ _ _)); rfl)
    | ((with_reducible apply Changes.step (setCore_changes _ _ _ _)); rfl)
    | (show kindsIn _ _ = true; rfl)
    | split
    | dsimp only
    | intro _
    | with_reducible refine Changes.update ?_)

theorem fenceAtStart_changes (l served : List (Nat × Nat)) (s : State) (k : Nat) :
    Changes [.draws, .od, .recorder, .tests, .access, .output] s (fenceAtStart l served s k) := by
  unfold fenceAtStart
  repeat' (first
    | with_reducible exact Changes.refl
    | with_reducible assumption
    | ((with_reducible apply Changes.step (fileCode_changes _ _ _ _)); rfl)
    | ((with_reducible apply Changes.step (snagSet_changes _ _)); rfl)
    | (show kindsIn _ _ = true; rfl)
    | split
    | dsimp only
    | intro _
    | with_reducible refine Changes.update ?_)

theorem startCores_changes (failed : List Nat) (s : State) (d : Nat) :
    Changes [.draws, .od, .dieLinks, .recorder, .tests, .access, .output] s (startCores failed s d) := by
  unfold startCores
  repeat' (first
    | with_reducible exact Changes.refl
    | with_reducible assumption
    | ((with_reducible apply Changes.step (fenceAtStart_changes _ _ _ _)); rfl)
    | ((with_reducible apply Changes.step (outAtStart_changes _ _)); rfl)
    | ((with_reducible apply Changes.step (snagSet_changes _ _)); rfl)
    | ((with_reducible apply Changes.step (startCore_changes _ _ _ _ _ _)); rfl)
    | with_reducible apply Changes.foldl
    | with_reducible apply Changes.foldl_fst
    | with_reducible apply Changes.foldl_snd
    | with_reducible apply Changes.foldl_trd
    | with_reducible apply Changes.foldl_run
    | with_reducible apply Changes.foldl_deep
    | with_reducible apply Changes.foldl_lane
    | with_reducible apply Changes.foldl_blocks
    | (show kindsIn _ _ = true; rfl)
    | split
    | dsimp only
    | intro _
    | with_reducible refine Changes.update ?_)

theorem clearCores_changes (s : State) :
    Changes [.memory, .sectors, .accumulators, .engines] s (clearCores s) := by
  unfold clearCores
  repeat' (first
    | with_reducible exact Changes.refl
    | with_reducible assumption
    | (show kindsIn _ _ = true; rfl)
    | split
    | dsimp only
    | intro _
    | with_reducible refine Changes.update ?_)

theorem execQuickLogicSelfTest_changes (failed : List Nat) (ms : Nat) (s : State) {t : State} (h : execQuickLogicSelfTest failed ms s = .next t) :
    Changes [.draws, .od, .memory, .sectors, .accumulators, .engines, .dieLinks, .recorder, .tests, .access, .firmware, .output] s t := by
  unfold execQuickLogicSelfTest at h
  injection h with h
  subst h
  repeat' (first
    | with_reducible exact Changes.refl
    | with_reducible assumption
    | ((with_reducible apply Changes.step (clearCores_changes _)); rfl)
    | ((with_reducible apply Changes.step (countCores_changes _)); rfl)
    | ((with_reducible apply Changes.step (enterStep_changes _ _ _)); rfl)
    | ((with_reducible apply Changes.step (startCores_changes _ _ _)); rfl)
    | with_reducible apply Changes.foldl
    | (show kindsIn _ _ = true; rfl)
    | split
    | dsimp only
    | intro _
    | with_reducible refine Changes.update ?_)

theorem execOpticalStart_changes (laser : List Nat) (s : State) {t : State} (h : execOpticalStart laser s = .next t) :
    Changes [.draws, .od, .ports, .recorder, .access, .firmware, .output] s t := by
  unfold execOpticalStart at h
  injection h with h
  subst h
  repeat' (first
    | with_reducible exact Changes.refl
    | with_reducible assumption
    | ((with_reducible apply Changes.step (progress_changes _)); rfl)
    | ((with_reducible apply Changes.step (putPort_changes _ _ _)); rfl)
    | ((with_reducible apply Changes.step (wakePort_changes _ _)); rfl)
    | with_reducible apply Changes.foldl
    | (show kindsIn _ _ = true; rfl)
    | split
    | dsimp only
    | intro _
    | with_reducible refine Changes.update ?_)

theorem leaveTraining_changes (s : State) (p : Nat) :
    Changes [.draws, .od, .ports, .recorder, .access, .firmware, .output] s (leaveTraining s p) := by
  unfold leaveTraining
  repeat' (first
    | with_reducible exact Changes.refl
    | with_reducible assumption
    | ((with_reducible apply Changes.step (isolate_changes _ _ _)); rfl)
    | (show kindsIn _ _ = true; rfl)
    | split
    | dsimp only
    | intro _)

theorem laserWaitOver_changes (s : State) :
    Changes [.draws, .od, .ports, .recorder, .access, .firmware, .output] s (laserWaitOver s) := by
  unfold laserWaitOver
  repeat' (first
    | with_reducible exact Changes.refl
    | with_reducible assumption
    | ((with_reducible apply Changes.step (endStep8_changes _)); rfl)
    | ((with_reducible apply Changes.step (leaveTraining_changes _ _)); rfl)
    | ((with_reducible apply Changes.step (progress_changes _)); rfl)
    | with_reducible apply Changes.foldl
    | with_reducible apply Changes.foldl_fst
    | with_reducible apply Changes.foldl_snd
    | with_reducible apply Changes.foldl_trd
    | with_reducible apply Changes.foldl_run
    | with_reducible apply Changes.foldl_deep
    | with_reducible apply Changes.foldl_lane
    | with_reducible apply Changes.foldl_blocks
    | (show kindsIn _ _ = true; rfl)
    | split
    | dsimp only
    | intro _)

theorem execLaserWaitExpiry_changes (s : State) {t : State} (h : execLaserWaitExpiry s = .next t) :
    Changes [.draws, .od, .ports, .recorder, .access, .firmware, .output] s t := by
  unfold execLaserWaitExpiry at h
  injection h with h
  subst h
  repeat' (first
    | with_reducible exact Changes.refl
    | with_reducible assumption
    | ((with_reducible apply Changes.step (laserWaitOver_changes _)); rfl)
    | (show kindsIn _ _ = true; rfl)
    | split
    | dsimp only
    | intro _)

end Sys2Proof.Machine
end

