-- ==== Sys2Proof/Laws/Recorder.lean ====
section
/-! SUPPORT. What reports, snags, records and counters leave of what has gone out and of the snag bits: both only grow (R427, R432, R446,
R448). -/

set_option Elab.async false

namespace Sys2Proof.Machine

/-- What has gone out stays, and a snag that is set stays set. -/
structure Logs (s t : State) : Prop where
  out : s.out.Sublist t.out
  snags : ∀ b, bitOf (odGet s 0x7000 0x01) b = true → bitOf (odGet t 0x7000 0x01) b = true

theorem Logs.refl (s : State) : Logs s s := ⟨List.Sublist.refl _, fun _ h => h⟩
theorem Logs.trans {s t v : State} (h : Logs s t) (g : Logs t v) : Logs s v := ⟨h.out.trans g.out, fun b hb => g.snags b (h.snags b hb)⟩
theorem Logs.of_eq {s t : State} (h : t.out = s.out) (g : t.od = s.od) : Logs s t :=
  ⟨by rw [h], fun b hb => by unfold odGet at hb ⊢; rw [g]; exact hb⟩
theorem Logs.of_changes {K : List Kind} {s t : State} (h : Changes K s t) (ho : K.contains .output = false := by rfl)
    (hk : K.contains .od = false := by rfl) : Logs s t := .of_eq (h.same .output ho).2.2.2.2 (h.same .od hk)
theorem Logs.foldl {α : Type} {f : State → α → State} (hf : ∀ s a, Logs s (f s a)) (l : List α) (s : State) : Logs s (l.foldl f s) := by
  induction l generalizing s with
  | nil => exact .refl s
  | cons a r ih => exact (hf s a).trans (ih _)

theorem Logs.set (s : State) {i n : Nat} (v : Nat) (h : odKey 0x7000 0x01 ≠ odKey i n) : Logs s (odSet s i n v) :=
  ⟨List.Sublist.refl _, fun b hb => by rw [odGet_odSet_ne s v h]; exact hb⟩
theorem Logs.count (s : State) {i n : Nat} (v : Nat) (h : odKey 0x7000 0x01 ≠ odKey i n) : Logs s (odCount s i n v) := .set s _ h

theorem emit_logs (s : State) (o : Output) : Logs s (emit s o) := ⟨List.sublist_append_left _ _, fun _ h => h⟩
theorem emitAll_logs (s : State) (o : List Output) : Logs s (emitAll s o) := ⟨List.sublist_append_left _ _, fun _ h => h⟩

theorem raiseVector_logs (s : State) (v : Nat) : Logs s (raiseVector s v) := by
  unfold raiseVector
  dsimp only
  split
  · exact emit_logs _ _
  split
  · exact (emit_logs _ _).trans (emit_logs _ _)
  · exact (emit_logs s (.msix v)).trans (.of_eq rfl rfl)

theorem notifyAll_logs (s : State) (n : Nat) : Logs s (notifyAll s n) := by
  unfold notifyAll
  exact Logs.foldl (f := fun (s : State) (x : Session) => { s with notifies := s.notifies + 1, out := s.out ++ [.notify x.id s.notifies n] })
    (fun s x => ⟨List.sublist_append_left _ _, fun _ h => h⟩) _ _

theorem addRecordRaw_logs (s : State) (r : LogRec) : Logs s (addRecordRaw s r) := by
  unfold addRecordRaw
  split
  · exact (Logs.count s (i := 0x7A00) (n := 0x04) 1 (by decide)).trans (.of_eq rfl rfl)
  · exact .of_changes (ringPush_changes s r)

theorem bitOf_withBit (v b c : Nat) : bitOf (withBit v b true) c = (bitOf v c || decide (c = b)) := by
  unfold bitOf withBit
  simp only [if_true, Nat.testBit_or, Nat.testBit_two_pow]
  congr 1
  exact decide_eq_decide.mpr eq_comm

theorem snagSetRaw_logs (s : State) (b : Nat) : Logs s (snagSetRaw s b) ∧ bitOf (odGet (snagSetRaw s b) 0x7000 0x01) b = true := by
  unfold snagSetRaw
  dsimp only
  split
  · rename_i h; exact ⟨.refl s, h⟩
  · have h1 : Logs s (odSet s 0x7000 0x01 (withBit (odGet s 0x7000 0x01) b true)) :=
      ⟨List.Sublist.refl _, fun c hc => by rw [odGet_odSet, bitOf_withBit, hc]; rfl⟩
    have h2 : bitOf (odGet (odSet s 0x7000 0x01 (withBit (odGet s 0x7000 0x01) b true)) 0x7000 0x01) b = true := by
      rw [odGet_odSet, bitOf_withBit]; simp
    have h3 := (Logs.count (odSet s 0x7000 0x01 (withBit (odGet s 0x7000 0x01) b true)) (i := 0x7000) (n := 0x03) 1 (by decide)).trans
      ((addRecordRaw_logs _ ⟨0, 1, pkgUnit, 0, 0, b, 0, none⟩).trans (notifyAll_logs _ b))
    exact ⟨h1.trans h3, h3.snags b h2⟩

theorem moveHead_logs (s : State) (t a b : Nat) (ha : a = 2 ∨ a = 4) (hb : b = 6 ∨ b = 7) : Logs s (moveHead s t a b) := by
  unfold moveHead
  dsimp only
  split
  · exact .refl s
  · refine Logs.trans ?_ (snagSetRaw_logs _ 9).1
    refine (Logs.set s _ ?_).trans (.count _ _ ?_)
    · rcases ha with rfl | rfl <;> decide
    · rcases hb with rfl | rfl <;> decide

theorem fileDetected_logs (s : State) (r : Report) : Logs s (fileDetected s r) := by
  have h : ∀ (x : State) (t : Nat) (l : List Report), Logs x (moveHead (moveHead (odCount (odSet { x with reports := l } 0x7100 0x01 t)
      0x7100 0x08 1) t 0x02 0x06) t 0x04 0x07) := fun x t l =>
    (((Logs.of_eq (s := x) (t := { x with reports := l }) rfl rfl).trans (.set _ _ (by decide))).trans
      (.count _ _ (by decide))).trans
      ((moveHead_logs _ _ 2 6 (.inl rfl) (.inl rfl)).trans (moveHead_logs _ _ 4 7 (.inr rfl) (.inr rfl)))
  unfold fileDetected
  dsimp only
  split
  · exact (((addRecordRaw_logs _ _).trans (h _ _ _)).trans (raiseVector_logs _ _)).trans (notifyAll_logs _ _)
  · exact (addRecordRaw_logs _ _).trans (h _ _ _)

theorem fileReportRaw_logs (s : State) (r : Report) : Logs s (fileReportRaw s r) := by
  have hd : Logs s (detectReport s r).2 := .of_changes (detectReport_changes s r)
  unfold fileReportRaw
  dsimp only
  split
  · exact hd.trans (.of_eq rfl rfl)
  · exact hd.trans (fileDetected_logs _ _)

theorem saturationEvent_logs (s : State) (i n : Nat) : Logs s (saturationEvent s i n) := by
  have h := (snagSetRaw_logs s 8).1.trans (fileReportRaw_logs _ (plainReport 0x8060 0 (counterUnit i) (i * 65536 + n) noPeer))
  unfold saturationEvent
  with_reducible exact h

theorem saturationEvents_logs (n : Nat) (s0 s : State) : Logs s (saturationEvents n s0 s) := by
  induction n generalizing s0 s with
  | zero => exact .refl s
  | succ n ih =>
    unfold saturationEvents
    split
    · exact .refl s
    · refine Logs.trans (Logs.foldl ?_ _ s) (ih _ _)
      intro s k
      exact saturationEvent_logs s k.1 k.2

theorem addRecord_logs (s : State) (r : LogRec) : Logs s (addRecord s r) := by
  unfold addRecord
  exact (addRecordRaw_logs s r).trans (saturationEvents_logs 5 s _)

theorem fileKept_logs (s : State) (r : Report) : Logs s (fileKept s r) := by
  unfold fileKept
  refine Logs.trans ?_ (saturationEvents_logs 5 s _)
  split
  · exact .of_eq rfl rfl
  · exact fileDetected_logs s r

/-- A snag bit set reads set (R432). -/
theorem snagSet_logs (s : State) (b : Nat) : Logs s (snagSet s b) ∧ bitOf (odGet (snagSet s b) 0x7000 0x01) b = true := by
  unfold snagSet
  exact ⟨(snagSetRaw_logs s b).1.trans (saturationEvents_logs 5 s _), (saturationEvents_logs 5 s _).snags b (snagSetRaw_logs s b).2⟩

theorem fileReport_logs (s : State) (r : Report) : Logs s (fileReport s r) := by
  unfold fileReport
  exact (fileReportRaw_logs s r).trans (saturationEvents_logs 5 s _)

theorem fileCode_logs (s : State) (code unit detail : Nat) : Logs s (fileCode s code unit detail) := by
  unfold fileCode
  exact fileReport_logs s _

theorem odBump_logs (s : State) (i n v : Nat) (h : odKey 0x7000 0x01 ≠ odKey i n) : Logs s (odBump s i n v) := by
  unfold odBump
  dsimp only
  split
  · exact (Logs.count s v h).trans ((saturationEvent_logs _ i n).trans (saturationEvents_logs 5 _ _))
  · exact .count s v h

theorem stateChange_logs (s : State) (unit i sub v code sev : Nat) (h : odKey 0x7000 0x01 ≠ odKey i sub) : Logs s (stateChange s unit i sub v code sev) := by
  unfold stateChange
  dsimp only
  split
  · exact .refl s
  · exact (Logs.set s v h).trans (addRecord_logs _ _)

end Sys2Proof.Machine
end

