-- ==== Sys2Proof/Tests/Slice0.lean ====
section
/-! SUPPORT. Tests: ill-formed commands that WellFormed refuses, for every statement with hypotheses a state and operands that meet them,
and single steps on small states whose results the spec gives. -/

set_option Elab.async false

namespace Sys2Proof.Tests

open Sys2Proof Sys2Proof.Machine

/-! ### A package in service -/

/-- A partition table: context 0 is enabled, has the tallies 0 to 15 and a wait limit of 1 ms, and owns every queue of core 0 and of
sweep unit 0 of die 0, its queue 1 in band 1 and the others in band 0 (R212). -/
def table : Nat :=
  2 ^ 127 + 16 * 2 ^ 98 + 1 * 2 ^ 82 +
  (2 ^ 43 + 0xFFFF * 2 ^ 99 + 3 * 2 ^ 97 + 3 * 2 ^ 95 + 32 * 2 ^ 84 + 32 * 2 ^ 73) * 2 ^ 2048 +
  (2 ^ 115 + 0xFF * 2 ^ 99) * 2 ^ 2176

/-- Entries of the object dictionary, written in the order given. -/
def withOd (s : State) (l : List (Nat × Nat × Nat)) : State := l.foldl (fun s x => odSet s x.1 x.2.1 x.2.2) s

/-- The entries of a queue with its rings in job stack memory, head 0, tail 4, RUNNING. -/
def queueEntries (u q : Nat) : List (Nat × Nat × Nat) :=
  [(queueIndex u, q * 16 + 1, 0x40000000 + 0x100000 * q), (queueIndex u, q * 16 + 2, 8), (queueIndex u, q * 16 + 3, 0x40080000 + 0x100000 * q),
   (queueIndex u, q * 16 + 4, 0), (queueIndex u, q * 16 + 5, 4), (queueIndex u, q * 16 + 6, 2)]

/-- A package in service: supplies good, firmware runs, core 0 serves its position, die 0 has 1,400 W and its bucket 1 J. -/
def on : State :=
  withOd { State.reset with vbulk := true, vaux := true, vhtr := true, aonUp := true, romRuns := true, fwRuns := true, linkUp := true, busMaster := true, uptime := 1000,
                            budgets := ⟨1400, 1000, 4096⟩ :: List.replicate 3 Budget.reset }
    ([(0x9000, 0x03, table), (0x9010, 0x01, 1), (0x3000, 0x01, 1), (0x3000, 0x02, 0), (0x3000, 0x03, 0), (0x2100, 0x02, 1400), (0x2300, 0x01, 1000000000), (0x2300, 0x02, 1000),
      (0x1100, 0x01, 9)] ++ queueEntries 0 0 ++ queueEntries 0 1 ++ queueEntries 128 0)

/-- The fields that `State.Sound` speaks of are in order. -/
def inOrder (s : State) : Bool :=
  Store.wf 0 s.mem && decide (s.poison.Pairwise (· < ·)) && Store.wf 0 s.acc && Store.wf 0 s.tallies && s.tallies.all (fun p => p.2 < 2 ^ 32) &&
  decide (s.od.Pairwise (fun a b => a.1 < b.1)) && decide (s.reports.length ≤ 256) && decide (s.ring.length ≤ 4096) && decide (s.ports.length = 16) &&
  Store.wf 0 s.valid && Store.wf 0 s.reserves && Store.wf 0 s.reserveEnds && Store.wf 0 s.seeds && Store.wf 0 s.slots &&
  Store.wf 0 s.codewords && Store.wf 0 s.symbols && Store.wf 0 s.sensors

theorem sound_of {s : State} (h : inOrder s = true) : s.Sound := by
  simp only [inOrder, Bool.and_eq_true, decide_eq_true_eq, List.all_eq_true] at h
  obtain ⟨⟨⟨⟨⟨⟨⟨⟨⟨⟨⟨⟨⟨⟨⟨⟨h1, h2⟩, h3⟩, h4⟩, h5⟩, h6⟩, h7⟩, h8⟩, h9⟩, h10⟩, h11⟩, h12⟩, h13⟩, h14⟩, h15⟩, h16⟩, h17⟩ := h
  exact ⟨h1, h2, h3, h4, h5, h6, h7, h8, h9, h10, h11, h12, h13, h14, h15, h16, h17⟩

/-- A queue of commands: those of a state in service. -/
def withCmds (l : List Cmd) : State := { on with cmds := l }

/-- The word of an opcode with its fields. -/
def cmd (u q serial : Nat) (stage : Stage) (word : Nat) : Cmd := { Cmd.fresh u q serial (BitVec.ofNat 256 word) with stage := stage }


/-- A word with values at bit positions. -/
def word (l : List (Nat × Nat)) : Nat := (l.map (fun x => x.2 * 2 ^ x.1)).foldl (· + ·) 0

/-- The next state of an outcome. -/
def after (o : Host.Outcome State Fault Refusal) : State :=
  match o with
  | .next t => t
  | _ => State.reset

def isNext (o : Host.Outcome State Fault Refusal) : Bool :=
  match o with
  | .next _ => true
  | _ => false

theorem next_of {o : Host.Outcome State Fault Refusal} (h : isNext o = true) : o = .next (after o) := by
  cases o with
  | next t => rfl
  | fault f => cases h
  | refused r => cases h

/-! ### Ill-formed commands -/

theorem test_wf_core : (Instr.screedTileLand 26 0).wellFormed = false ∧ (Instr.testStart 128).wellFormed = false := by decide
theorem test_wf_queue : (Instr.nop 0 16).wellFormed = false ∧ (Instr.nop 128 8).wellFormed = false ∧ (Instr.nop 136 0).wellFormed = false := by decide
theorem test_wf_kind_of_unit : (Instr.mmul 128 0).wellFormed = false ∧ (Instr.setvl 128 0).wellFormed = false := by decide
theorem test_wf_die : (Instr.droop ⟨4, 60⟩).wellFormed = false ∧ (Instr.stretchReleaseStep ⟨0, 5⟩).wellFormed = false := by decide
theorem test_wf_stack : (Instr.periodicRetraining 24 none).wellFormed = false := by decide
theorem test_wf_channel : (Instr.sealedRetirement 0 32).wellFormed = false := by decide
theorem test_wf_module : (Instr.moduleRetrainDone 0 64).wellFormed = false := by decide
theorem test_wf_port : (Instr.keying 16).wellFormed = false := by decide
theorem test_wf_slot : (Instr.alignmentLoss 0 18).wellFormed = false := by decide
theorem test_wf_chan : (Instr.collectiveLimit 64).wellFormed = false := by decide
theorem test_wf_package : (Instr.gapTime (2 ^ 20) 0).wellFormed = false := by decide
theorem test_wf_message : (Instr.ack (2 ^ 32)).wellFormed = false := by decide
theorem test_wf_vc : (Instr.streamRecordFree true 0 8).wellFormed = false := by decide
theorem test_wf_accumulator : (Instr.correctedWordWriteBack 0 2 0 0).wellFormed = false ∧ (Instr.correctedWordWriteBack 0 0 1024 0).wellFormed = false ∧
    (Instr.correctedWordWriteBack 0 0 0 128).wellFormed = false ∧ (Instr.correctedWordWriteBack 6 0 0 0).wellFormed = false := by decide
theorem test_wf_path : (Instr.attach (.job 16 false)).wellFormed = false ∧ (Instr.attach (.hasowa 0 false)).wellFormed = false := by decide
theorem test_wf_request : (Instr.odRead (.mailbox false) { readReq 0 0 0 with index := 65536 }).wellFormed = false ∧
    (Instr.odRead (.mailbox false) { readReq 0 0 0 with sub := 256 }).wellFormed = false := by decide
theorem test_wf_context : (Instr.jobPageDoorbell 16 1 (readReq 0x1000 1 4)).wellFormed = false := by decide
theorem test_wf_sensor : (Instr.thermalTrip { site := 4, sensor := 0, t16 := 0 }).wellFormed = false ∧
    (Instr.thermalTrip { site := 15, sensor := 62, t16 := 0 }).wellFormed = false := by decide
theorem test_wf_matrix_event : (Instr.pass 0 0 (.parity 0 1024)).wellFormed = false ∧ (Instr.pass 0 0 (.working 4 0 0)).wellFormed = false ∧
    (Instr.xpose 0 0 (.hawkSlot 2 0)).wellFormed = false := by decide
theorem test_wf_window : (Instr.hdmAccess true 0 4 []).wellFormed = false ∧ (Instr.hdmAccess false 0 0 []).wellFormed = false := by decide
theorem test_wf_link : (Instr.linkTraining [5] [4] true ⟨true, true, true, false⟩ []).wellFormed = false ∧
    (Instr.linkTraining [0] [2] true ⟨true, true, true, false⟩ []).wellFormed = false := by decide
theorem test_wf_lists : (Instr.mistCoat 0 [] [] ⟨0, 0, 0, 0, [], [], 0, []⟩).wellFormed = false ∧ (Instr.governorLoop [0] 0 []).wellFormed = false := by decide
theorem test_wf_cause : (Instr.fence 0 6).wellFormed = false ∧ (Instr.packagePowerFail 0).wellFormed = false ∧ (Instr.supplyGood 3).wellFormed = false := by decide
theorem test_wf_sector : (Instr.patrolScrub 0x600000000 .clean false).wellFormed = false ∧ (Instr.bisnpinvResponse 0x600000000).wellFormed = false := by decide
theorem test_wf_index : (Instr.calibrationRefresh ⟨0x9FFF, false⟩ 0).wellFormed = false ∧ (Instr.refreshRequest (.mailbox false) 0xA100 1).wellFormed = false := by decide
theorem test_wf_sweep : (Instr.sweepUnitScan 127 false ⟨true, [], 0⟩).wellFormed = false := by decide
theorem test_wf_sizes : (Instr.doorbellWrite 0 3 0).wellFormed = false ∧ (Instr.heartbeat 16 0).wellFormed = false ∧ (Instr.hotWindowWrite 0x40000 1 0).wellFormed = false := by decide
theorem test_wf_start : (Instr.fuseLoad 3 0).wellFormed = false ∧ (Instr.hbm4Training [(24, 0)] 0).wellFormed = false ∧
    (Instr.dieLinkTraining [(0, 0, 68)] true 0).wellFormed = false ∧ (Instr.opticalStart [16]).wellFormed = false := by decide

/-! ### The machine -/

theorem wit_StepRunsTheFrontCommand : { on with pending := [.discover, .announce] }.pending = .discover :: [.announce] := rfl
theorem wit_StepWithNothingWaiting : on.pending = [] ∧ on.aonUp = true := ⟨rfl, rfl⟩
theorem wit_StepWithNothingWaiting_off : State.reset.pending = [] ∧ State.reset.aonUp = false := ⟨rfl, rfl⟩
theorem wit_StepTakesOneCommand : { on with pending := [.discover, .announce] }.pending = .discover :: [.announce] ∧
    step { on with pending := [.discover, .announce] } = .next (after (step { on with pending := [.discover, .announce] })) :=
  ⟨rfl, next_of (by decide +kernel)⟩
theorem wit_RowsKeepOtherKinds : exec .discover on = .next (after (exec .discover on)) ∧ (touches .discover).contains .memory = false :=
  ⟨next_of (by decide +kernel), by decide⟩
theorem wit_StepKeepsSound : { on with pending := [.nop 0 0] }.Sound ∧
    step { on with pending := [.nop 0 0] } = .next (after (step { on with pending := [.nop 0 0] })) :=
  ⟨sound_of (by decide +kernel), next_of (by decide +kernel)⟩

/-- A step leaves the rest of the queue. -/
theorem test_step : (after (step { on with pending := [.discover, .announce] })).pending = [.announce] ∧
    (after (step { on with pending := [.discover, .announce] })).announces = 1 := by decide +kernel
/-- An idle step lets a tick pass. -/
theorem test_idle : (after (step on)).uptime = 1001 := by decide +kernel

/-! ### Control commands -/

/-- An issued NOP, TWAIT, TSET and QFENCE; each adds 5 to tally 3, and the TSET sets tally 3 to 9 (R200, R202, R228). -/
def control (op : Nat) : Cmd := cmd 0 0 0 .issued (word [(0, op), (27, 1), (42, 3), (56, 5), (104, 3), (118, 9)])

theorem wit_ControlCommandsComplete_nop : (withCmds [control 0]).Sound ∧ queueExists 0 0 = true ∧
    readyControl (withCmds [control 0]) 0 0 0x00 = some (control 0) := ⟨sound_of (by decide +kernel), by decide +kernel⟩
theorem wit_ControlCommandsComplete_twait : (withCmds [control 1]).Sound ∧ queueExists 0 0 = true ∧
    readyControl (withCmds [control 1]) 0 0 0x01 = some (control 1) := ⟨sound_of (by decide +kernel), by decide +kernel⟩
theorem wit_ControlCommandsComplete_tset : (withCmds [control 2]).Sound ∧ queueExists 0 0 = true ∧
    readyControl (withCmds [control 2]) 0 0 0x02 = some (control 2) := ⟨sound_of (by decide +kernel), by decide +kernel⟩
theorem wit_AddsOnlyOnSuccess_status : (withCmds [control 2]).Sound ∧ stPOISON ≠ stOK ∧ stPOISON ≠ stSKIPPED :=
  ⟨sound_of (by decide +kernel), by decide⟩
theorem wit_AddsOnlyOnSuccess_tset : (withCmds [control 2]).Sound ∧ readyControl (withCmds [control 2]) 0 0 0x02 = some (control 2) ∧
    exec (.tset 0 0) (withCmds [control 2]) = .next (after (exec (.tset 0 0) (withCmds [control 2]))) :=
  ⟨sound_of (by decide +kernel), by decide +kernel, next_of (by decide +kernel)⟩
theorem wit_AddsOnlyOnSuccess_two : (withCmds [control 0]).Sound ∧ (control 0).aen = true ∧ (control 1).aen = true ∧ (control 0).atally = 3 ∧
    (control 1).atally = 3 := ⟨sound_of (by decide +kernel), by decide +kernel⟩
theorem wit_QfenceWaitsForEarlierCommands_open : (withCmds [control 3]).Sound ∧ readyControl (withCmds [control 3]) 0 0 0x03 = some (control 3) ∧
    fenceOpen (withCmds [control 3]) (control 3) = true := ⟨sound_of (by decide +kernel), by decide +kernel⟩

/-- A fence behind a command that runs. -/
def behind : State := withCmds [cmd 0 0 0 .parked 0xA1, { control 3 with serial := 1 }]
theorem wit_QfenceWaitsForEarlierCommands_shut : behind.Sound ∧ readyControl behind 0 0 0x03 = some { control 3 with serial := 1 } ∧
    fenceOpen behind { control 3 with serial := 1 } = false := ⟨sound_of (by decide +kernel), by decide +kernel⟩
theorem wit_QfenceWaitsForEarlierCommands_later : (withCmds [{ control 3 with stage := .parked }]).Sound ∧
    readyControl (withCmds [{ control 3 with stage := .parked }]) 0 0 0x03 = none ∧
    (qCmds (withCmds [{ control 3 with stage := .parked }]) 0 0).find? (fun d => d.stage == .parked && d.op == 0x03) = some { control 3 with stage := .parked } ∧
    fenceOpen (withCmds [{ control 3 with stage := .parked }]) { control 3 with stage := .parked } = true :=
  ⟨sound_of (by decide +kernel), by decide +kernel⟩
theorem wit_ControlCommandsFrame : (withCmds [control 3]).Sound ∧ queueExists 0 0 = true ∧ queueExists 128 7 = true ∧
    exec (.nop 0 0) (withCmds [control 0]) = .next (after (exec (.nop 0 0) (withCmds [control 0]))) ∧
    exec (.twait 0 0) (withCmds [control 1]) = .next (after (exec (.twait 0 0) (withCmds [control 1]))) ∧
    exec (.qfence 0 0) (withCmds [control 3]) = .next (after (exec (.qfence 0 0) (withCmds [control 3]))) :=
  ⟨sound_of (by decide +kernel), by decide, by decide, next_of (by decide +kernel), next_of (by decide +kernel), next_of (by decide +kernel)⟩
theorem wit_ControlCommandsFrame_budget : exec (.breserve 0 0) (withCmds [control 0xC0]) = .next (after (exec (.breserve 0 0) (withCmds [control 0xC0]))) ∧
    exec (.brelease 0 0) (withCmds [control 0xC1]) = .next (after (exec (.brelease 0 0) (withCmds [control 0xC1]))) :=
  ⟨next_of (by decide +kernel), next_of (by decide +kernel)⟩
theorem wit_RecordGoesToItsSlot : (withCmds [control 0]).Sound ∧ queueExists 0 0 = true ∧
    readyControl (withCmds [control 0]) 0 0 0x00 = some (control 0) ∧ qCmds (withCmds [control 0]) 0 0 = [control 0] ∧
    bitOf (qGet (withCmds [control 0]) 0 0 3) 63 = false ∧ inJob (withCmds [control 0]) (recordSlot (withCmds [control 0]) 0 0 0).2 32 = true ∧
    (withCmds [control 0]).biFilter = [] ∧ (withCmds [control 0]).biHeld = [] := ⟨sound_of (by decide +kernel), by decide +kernel⟩
theorem wit_ReservesMove : (withCmds [control 0xC0]).Sound ∧ queueExists 0 0 = true ∧
    readyControl (withCmds [control 0xC0]) 0 0 0xC0 = some (control 0xC0) ∧ readyControl (withCmds [control 0xC1]) 0 0 0xC1 = some (control 0xC1) :=
  ⟨sound_of (by decide +kernel), by decide +kernel⟩

/-- NOP adds 5 to tally 3; TSET sets it to 9 and then adds 5. -/
theorem test_nop : tallyGet (after (exec (.nop 0 0) (withCmds [control 0]))) 3 = 5 := by decide +kernel
theorem test_tset : tallyGet (after (exec (.tset 0 0) (withCmds [control 2]))) 3 = 14 := by decide +kernel
/-- A wait on tally 3 that has not reached 1 is not met; at 2^31 + 1 it has wrapped round and is not met either (R201). -/
theorem test_wait : tallyMet 0 1 = false ∧ tallyMet 1 1 = true ∧ tallyMet (2 ^ 31 + 1) 1 = false ∧ tallyMet (2 ^ 31) 1 = true := by decide
/-- A record's STATUS, OPCODE, unit and queue (R206). -/
theorem test_record : bits (memNat (after (exec (.twait 0 1) (withCmds [{ control 1 with q := 1, serial := 3 }]))) 0x40180060 32) 56 40 = 0x0000000001 + 0 ∧
    bits (memNat (after (exec (.twait 0 1) (withCmds [{ control 1 with q := 1, serial := 3 }]))) 0x40180060 32) 96 32 = 3 := by decide +kernel
/-- BRESERVE of 9 × 2^14 + 3 nJ (bits 135 to 104) takes that much of the level. -/
theorem test_breserve : reserveOf (after (exec (.breserve 0 0) (withCmds [control 0xC0]))) 0 0 = 147459 ∧
    bucketLevel (after (exec (.breserve 0 0) (withCmds [control 0xC0]))) 0 = 1000000000 - 147459 := by decide +kernel

/-! ### Queues -/

/-- Queue 0 of core 0 with its ring in host memory, in a range that the host lets the package read. -/
def hostRing : State := withOd on [(queueIndex 0, 1, 2 ^ 63 + 0x1000), (0x6400, 0x01, 7 + 16 * 2 ^ 24)]

theorem wit_FetchTakesTheHeadWord : canFetch on 0 0 = true ∧ (ringSlot on 0 0 (qGet on 0 0 4)).1 = false ∧
    inJob on (ringSlot on 0 0 (qGet on 0 0 4)).2 32 = true ∧ badSectors on (ringSlot on 0 0 (qGet on 0 0 4)).2 32 = [] ∧ drainSearch on 0 0 = false := by
  decide +kernel
def onPoison : State := { on with poison := [0x40000000 / 64] }
theorem wit_FetchTakesTheHeadWord_poison : canFetch onPoison 0 0 = true ∧ (ringSlot onPoison 0 0 (qGet onPoison 0 0 4)).1 = false ∧
    inJob onPoison (ringSlot onPoison 0 0 (qGet onPoison 0 0 4)).2 32 = true ∧ badSectors onPoison (ringSlot onPoison 0 0 (qGet onPoison 0 0 4)).2 32 ≠ [] := by
  decide +kernel
theorem wit_FetchTakesTheHeadWord_host : canFetch hostRing 0 0 = true ∧ (ringSlot hostRing 0 0 (qGet hostRing 0 0 4)).1 = true ∧ hostPath hostRing = true ∧
    hostOk hostRing (ringSlot hostRing 0 0 (qGet hostRing 0 0 4)).2 32 false = true ∧ drainSearch hostRing 0 0 = false := by decide +kernel
/-- The queue drains and looks for its step boundary; the host answers with a word that has SB. -/
def searching : State := { hostRing with draining := [(drainKey 0 0, noLimit + 1 + 4)] }
def boundaryWord : HostAns := ⟨true, false, [0, 0, 0, 1] ++ List.replicate 28 0⟩
theorem wit_FetchTakesTheHeadWord_boundary : canFetch searching 0 0 = true ∧ (ringSlot searching 0 0 (qGet searching 0 0 4)).1 = true ∧ hostPath searching = true ∧
    hostOk searching (ringSlot searching 0 0 (qGet searching 0 0 4)).2 32 false = true ∧ drainSearch searching 0 0 = true ∧
    fld (BitVec.ofNat 256 (leNat (boundaryWord.data.take 32))) 24 24 = 1 ∧ boundaryWord.ok = true ∧ boundaryWord.poisoned = false := by decide +kernel
theorem wit_FetchFrame : exec (.commandFetch 0 0 ⟨true, false, []⟩) on = .next (after (exec (.commandFetch 0 0 ⟨true, false, []⟩) on)) ∧
    exec (.ringFetchRetry 0 0 ⟨true, false, []⟩) hostRing = .next (after (exec (.ringFetchRetry 0 0 ⟨true, false, []⟩) hostRing)) ∧
    badSectors on (ringSlot on 0 0 (qGet on 0 0 4)).2 32 = [] ∧ drainSearch on 0 0 = false ∧
    odKey 0x3601 4 ≠ odKey (queueIndex 0) 4 ∧ odKey 0x3601 4 ≠ odKey (queueIndex 0) 6 :=
  ⟨next_of (by decide +kernel), next_of (by decide +kernel), by decide +kernel⟩

/-- The head advances, and the word that the host returned stands fetched. -/
theorem test_commandFetch : qGet (after (exec (.commandFetch 0 0 ⟨true, false, []⟩) on)) 0 0 4 = 1 ∧
    qGet (after (exec (.commandFetch 0 0 ⟨true, false, []⟩) (withOd on [(queueIndex 0, 5, 1)]))) 0 0 6 = 1 := by decide +kernel
theorem test_ringFetchRetry : ((after (exec (.ringFetchRetry 0 0 ⟨true, false, 0xA1 :: List.replicate 31 0⟩) hostRing)).cmds.map (·.op)) = [0xA1] ∧
    (after (exec (.ringFetchRetry 0 0 ⟨false, false, []⟩) hostRing)).cmds = [] := by decide +kernel
/-- A poisoned word ends POISON with code 0x3005 as it is fetched, and stops its context (R531). -/
theorem test_poisonedWord : ctxState (after (exec (.commandFetch 0 0 ⟨true, false, []⟩) onPoison)) 0 = 2 ∧
    bits (memNat (after (exec (.commandFetch 0 0 ⟨true, false, []⟩) onPoison)) 0x40080000 32) 64 8 = stPOISON := by decide +kernel

/-- A fetched NOP, and a fetched word of a reserved opcode. -/
def fetched (op : Nat) : Cmd := cmd 0 0 0 .fetched op
theorem wit_IssueEntersOrRejects : mayIssue (withCmds [fetched 0]) 0 0 (fetched 0) 0 ∧ illegalCode (withCmds [fetched 0]) 0 0 0 (fetched 0).word none = none ∧
    descPoison (withCmds [fetched 0]) 0 (fetched 0).word = none ∧
    illegalCode (withCmds [fetched 0]) 0 0 0 (fetched 0).word (productDesc (withCmds [fetched 0]) 0 (fetched 0).word) = none ∧
    hawkBusy (withCmds [fetched 0]) 0 0 (fetched 0).word = false ∧ screedBusy (withCmds [fetched 0]) 0 (fetched 0).word = false := by
  unfold mayIssue; decide +kernel
theorem wit_IssueEntersOrRejects_illegal : mayIssue (withCmds [fetched 0x77]) 0 0 (fetched 0x77) 0 ∧
    (illegalCode (withCmds [fetched 0x77]) 0 0 0 (fetched 0x77).word none).isSome := by unfold mayIssue; decide +kernel
/-- A reserved opcode ends with CODE 0x0001 (R225), an energy of 0 nJ with class 15 in a NOP stands. -/
theorem test_illegal : illegalCode on 0 0 0 0x77 none = some 0x0001 ∧ illegalCode on 0 0 0 (BitVec.ofNat 256 (word [(27, 1), (42, 16)])) none = some 0x0005 := by
  decide +kernel

/-- A NOP whose wait on tally 3 is not met. -/
def waiter : Cmd := cmd 0 0 0 .issued (word [(26, 1), (28, 3), (72, 1)])
def waited : State := { withCmds [waiter] with uptime := 100001 }
theorem wit_WaitTimeoutEndsTheCommand : atAdmission waited 0 0 = some waiter ∧ ctxOf waited 0 0 = some 0 ∧ waiter.wen = true ∧ waitMet waited waiter = false ∧
    waitLimit waited 0 ≠ 0 ∧ waited.uptime - waiter.issuedAt > waitLimit waited 0 := by decide +kernel
theorem wit_WaitTimeoutEndsTheCommand_within : atAdmission { waited with uptime := 100000 } 0 0 = some waiter ∧ ctxOf waited 0 0 = some 0 ∧
    waitMet { waited with uptime := 100000 } waiter = false ∧ { waited with uptime := 100000 }.uptime - waiter.issuedAt ≤ waitLimit { waited with uptime := 100000 } 0 := by
  decide +kernel

/-! ### Admission -/

/-- A SKIM of one row of 32 elements, with its descriptor at offset 0 of the core's scratch. -/
def skim (stage : Stage) : Cmd := { cmd 0 0 0 stage (word [(0, 0x41), (128, 1)]) with vl := 32 }
theorem wit_AdmissionReadKeepsWhatItRead : admissionPoint (withCmds [skim .issued]) 0 0 = some (skim .issued) ∧ (skim .issued).group.vector = true ∧
    (skim .issued).op ≠ 0x40 ∧ (skim .issued).adRead = false ∧ ready (withCmds [skim .issued]) (skim .issued) = true ∧
    lowestBad (withCmds [skim .issued]) ((skim .issued).at (skim .issued).daddr) 336 = none ∧
    chainIllegal (withCmds [skim .issued]) false (memNat (withCmds [skim .issued]) ((skim .issued).at (skim .issued).daddr) 336) 0 1 32 = false ∧
    tableStages (skim .issued) (memNat (withCmds [skim .issued]) ((skim .issued).at (skim .issued).daddr) 336) = [] ∧
    chVCHK (memNat (withCmds [skim .issued]) ((skim .issued).at (skim .issued).daddr) 336) = false := by decide +kernel
def skimPoison : State := { withCmds [skim .issued] with poison := [scr 0 64 / 64] }
theorem wit_AdmissionReadKeepsWhatItRead_poison : admissionPoint skimPoison 0 0 = some (skim .issued) ∧ ready skimPoison (skim .issued) = true ∧
    (lowestBad skimPoison ((skim .issued).at (skim .issued).daddr) 336).isSome := by decide +kernel

/-- A PUT at its admission, with an estimate of 100 in class 4. -/
def putCommand : Cmd := cmd 0 0 0 .issued (word [(0, 0xA0), (8, 4), (12, 100)])
theorem wit_AdmissionCharges : (withCmds [putCommand]).Sound ∧ queueExists 0 0 = true ∧ dieOf 0 = 0 ∧ picks (withCmds [putCommand]) 0 putCommand ∧
    putCommand ∈ (withCmds [putCommand]).cmds ∧ putCommand.op ≠ 0x40 ∧ skips putCommand = false :=
  ⟨sound_of (by decide +kernel), by unfold picks; decide +kernel⟩
theorem wit_AdmissionCharges_none : chosen on 3 (candidates on 3) = none := by decide +kernel
theorem wit_DispatcherOrder : candidates (withCmds [putCommand]) 0 = [putCommand] ∧ holdPassed (withCmds [putCommand]) 0 putCommand = false ∧
    chosen (withCmds [putCommand]) 0 (candidates (withCmds [putCommand]) 0) = some putCommand := by decide +kernel
/-- The PUT has waited for budget since reset, with an empty bucket. -/
def held : State := withOd { withCmds [{ putCommand with budgetAt := some 0 }] with uptime := 100000 } [(0x2300, 0x01, 0)]
theorem wit_DispatcherOrder_hold : candidates { held with reserves := [(0, 2000000)] } 0 = [{ putCommand with budgetAt := some 0 }] ∧
    holdPassed { held with reserves := [(0, 2000000)] } 0 { putCommand with budgetAt := some 0 } = true ∧
    chosen { held with reserves := [(0, 2000000)] } 0 (candidates { held with reserves := [(0, 2000000)] } 0) = some { putCommand with budgetAt := some 0 } := by
  decide +kernel
theorem wit_HoldLimitCountsOnce : candidates held 0 = [{ putCommand with budgetAt := some 0 }] ∧ holdPassed held 0 { putCommand with budgetAt := some 0 } = true ∧
    fits held { putCommand with budgetAt := some 0 } = false ∧ held.holds.contains (0, 0) = false ∧ { held with holds := [(0, 0)] }.holds.contains (0, 0) = true := by
  decide +kernel
def setvl : Cmd := cmd 0 0 0 .issued (word [(0, 0x40), (104, 777)])
theorem wit_SetvlWritesVl : queueExists 0 0 = true ∧ admissionPoint (withCmds [setvl]) 0 0 = some setvl ∧ setvl.op = 0x40 ∧
    ready (withCmds [setvl]) setvl = true ∧ fits (withCmds [setvl]) setvl = true ∧
    chosen (withCmds [setvl]) (dieOf 0) (candidates (withCmds [setvl]) (dieOf 0)) = some setvl := by decide +kernel
def reserved : State := { on with reserves := [(0, 500)], reserveEnds := [(0, 1000)] }
theorem wit_BucketRefillsAndReservesExpire : reserved.Sound ∧ dieReserves reserved 0 ≤ bucketCapacity (after (exec (.bucketRefill 0) reserved)) 0 ∧ reserveOf reserved 0 0 ≠ 0 ∧
    Store.get 0 reserved.reserveEnds (drainKey 0 0) ≤ reserved.uptime := ⟨sound_of (by decide +kernel), by decide +kernel⟩

/-- 100 × 2^4 nJ at a price of 1 (4,096) leaves the bucket (R213, R214). -/
theorem test_dispatch : (findCmd (after (exec (.dispatch 0) (withOd (withCmds [putCommand]) [(0x2300, 0x03, 4096)]))) 0 0 0).map (fun c => (c.stage, c.energy)) =
    some (.admitted, 1600) ∧ bucketLevel (after (exec (.dispatch 0) (withOd (withCmds [putCommand]) [(0x2300, 0x03, 4096)]))) 0 = 1000000000 - 1600 := by
  decide +kernel
/-- 1,400 W refill 14,000 nJ in a tick of 10 ns (R214). A reserve that its die's capacity no longer holds is cut (R217). -/
theorem test_bucketRefill : bucketLevel (after (exec (.bucketRefill 0) on)) 0 = 1000000000 + 14000 := by decide +kernel
theorem test_reserveCut : reserveOf (after (exec (.bucketRefill 0) (withOd { on with reserves := [(0, 500)] } [(0x2100, 0x02, 0)]))) 0 0 = 0 := by decide +kernel
theorem test_setvl : qGet (after (exec (.setvl 0 0) (withCmds [setvl]))) 0 0 8 = 777 := by decide +kernel

/-- Matrix commands of 32 rows and one pass on array position 0: one that runs in band 1, one that asks in band 0. -/
def mm (q serial base : Nat) (stage : Stage) (more : List (Nat × Nat)) : Cmd :=
  cmd 0 q serial stage (word ([(0, 0x20), (122, 1), (127, base), (132, 1), (152, 128), (169, 128)] ++ more))
def asks : State := withCmds [mm 1 0 0 .admitted [], { mm 0 0 4 .issued [] with age := 1 }]
theorem wit_PreemptionRequestTakesTheEngine : admissionPoint asks 0 0 = some { mm 0 0 4 .issued [] with age := 1 } ∧
    almostReady asks { mm 0 0 4 .issued [] with age := 1 } = true ∧ mm 1 0 0 .admitted [] ∈ asks.cmds ∧
    (engineUsers asks { mm 0 0 4 .issued [] with age := 1 }).filter (fun e => !e.preemptReq && mayPreempt asks { mm 0 0 4 .issued [] with age := 1 } e) =
      [mm 1 0 0 .admitted []] ∧ (mm 1 0 0 .admitted []).run.inPass = false := by decide +kernel
theorem wit_PreemptionRequestTakesTheEngine_inPass :
    admissionPoint (withCmds [{ mm 1 0 0 .admitted [] with run := { MatRun.start with inPass := true } }, { mm 0 0 4 .issued [] with age := 1 }]) 0 0 =
      some { mm 0 0 4 .issued [] with age := 1 } ∧
    (engineUsers (withCmds [{ mm 1 0 0 .admitted [] with run := { MatRun.start with inPass := true } }, { mm 0 0 4 .issued [] with age := 1 }])
      { mm 0 0 4 .issued [] with age := 1 }).filter (fun e => !e.preemptReq && mayPreempt
        (withCmds [{ mm 1 0 0 .admitted [] with run := { MatRun.start with inPass := true } }, { mm 0 0 4 .issued [] with age := 1 }])
        { mm 0 0 4 .issued [] with age := 1 } e) = [{ mm 1 0 0 .admitted [] with run := { MatRun.start with inPass := true } }] := by decide +kernel

/-! ### Transfer and vector commands -/

/-- COPY of 4 bytes from 0x50000000 to 0x50000010, with host source or destination as marked. -/
def copy (dhost shost : Nat) : Cmd :=
  cmd 0 0 0 .admitted (word [(0, 0x80), (210, 4), (209, dhost), (157, if dhost = 1 then 0x2000 else 0x50000010), (156, shost), (104, if shost = 1 then 0x2000 else 0x50000000)])
/-- The state with a command, host range 0x0 to 0x10000 readable and writable, and the bytes 1 to 4 at 0x50000000. -/
def copying (c : Cmd) : State := memWrite (withOd (withCmds [c]) [(0x6400, 0x01, 7 + 16 * 2 ^ 24)]) 0x50000000 [1, 2, 3, 4]
theorem wit_CopyMovesBytes : (copying (copy 0 0)).Sound ∧ queueExists 0 0 = true ∧ runCmd (copying (copy 0 0)) 0 0 0x80 = some (copy 0 0) ∧
    cpSHOST (copy 0 0).word = false ∧ cpDHOST (copy 0 0).word = false ∧ inMemory (copying (copy 0 0)) (cpSRC (copy 0 0).word) (cpLEN (copy 0 0).word) = true ∧
    inMemory (copying (copy 0 0)) (cpDST (copy 0 0).word) (cpLEN (copy 0 0).word) = true ∧
    sealedRange (copying (copy 0 0)) (cpDST (copy 0 0).word) (cpLEN (copy 0 0).word) = false ∧ (copying (copy 0 0)).biFilter = [] ∧
    (copying (copy 0 0)).biHeld = [] := ⟨sound_of (by decide +kernel), by decide +kernel⟩
theorem wit_CopyMovesBytes_fromHost : (copying (copy 0 1)).Sound ∧ runCmd (copying (copy 0 1)) 0 0 0x80 = some (copy 0 1) ∧ cpSHOST (copy 0 1).word = true ∧
    hostOk (copying (copy 0 1)) (cpSRC (copy 0 1).word) (cpLEN (copy 0 1).word) false = true ∧ hostPath (copying (copy 0 1)) = true ∧
    [5, 6, 7, 8].length = cpLEN (copy 0 1).word := ⟨sound_of (by decide +kernel), by decide +kernel⟩
theorem wit_CopyMovesBytes_toHost : (copying (copy 1 0)).Sound ∧ runCmd (copying (copy 1 0)) 0 0 0x80 = some (copy 1 0) ∧ cpDHOST (copy 1 0).word = true ∧
    inMemory (copying (copy 1 0)) (cpSRC (copy 1 0).word) (cpLEN (copy 1 0).word) = true := ⟨sound_of (by decide +kernel), by decide +kernel⟩
/-- The capacity has fallen below the source. -/
def vacated : State := withOd (copying (copy 0 0)) [(0x4000, 0x01, 0x48000000)]
theorem wit_CopyMovesBytes_vacated : vacated.Sound ∧ runCmd vacated 0 0 0x80 = some (copy 0 0) ∧
    isTallyWord vacated (cpSRC (copy 0 0).word) (cpLEN (copy 0 0).word) = false ∧ inMemory vacated (cpSRC (copy 0 0).word) (cpLEN (copy 0 0).word) = false :=
  ⟨sound_of (by decide +kernel), by decide +kernel⟩
theorem test_copy : memRead (after (exec (.copy 0 0 ⟨true, false, []⟩) (copying (copy 0 0)))) 0x50000010 4 = [1, 2, 3, 4] ∧
    memRead (after (exec (.copy 0 0 ⟨true, false, [5, 6, 7, 8]⟩) (copying (copy 0 1)))) 0x50000010 5 = [5, 6, 7, 8, 0] := by decide +kernel
theorem test_copy_host : .hostWrite 0x2000 [1, 2, 3, 4] [] ∈ (after (exec (.copy 0 0 ⟨true, false, []⟩) (copying (copy 1 0)))).out := by decide +kernel

/-- XPOSE of one BF16 tile of scratch through hawk 0. -/
def xpose : Cmd := cmd 0 0 0 .admitted (word [(0, 0x81), (108, 1), (112, 1), (117, 0x10000), (205, 0x20000)])
theorem wit_XposeTransposes : (withCmds [xpose]).Sound ∧ queueExists 0 0 = true ∧ runCmd (withCmds [xpose]) 0 0 0x81 = some xpose ∧
    xposeVacated (withCmds [xpose]) xpose = none ∧ xposePoison (withCmds [xpose]) xpose = none ∧ isMX (xpFMT xpose.word) = false ∧ xpose.rerun = false :=
  ⟨sound_of (by decide +kernel), by decide +kernel⟩
theorem wit_XposeTransposes_bytes : xpREBLK xpose.word = false ∧ xposeApart xpose ∧ 0 < xpNT xpose.word ∧ 0 < xpSize xpose.word ∧
    ¬ inRecords (withCmds [xpose]) 0 0 (xpDstAt xpose 0) := by
  unfold xposeApart apart inRecords
  decide +kernel
theorem wit_XposeTransposes_second : runCmd (withCmds [{ xpose with rerun := true }]) 0 0 0x81 = some { xpose with rerun := true } ∧
    xposeVacated (withCmds [{ xpose with rerun := true }]) { xpose with rerun := true } = none ∧
    xposePoison (withCmds [{ xpose with rerun := true }]) { xpose with rerun := true } = none := by decide +kernel
theorem wit_XposeTransposes_poison : runCmd { withCmds [xpose] with poison := [xpSrcAt xpose 0 / 64] } 0 0 0x81 = some xpose ∧
    (xposePoison { withCmds [xpose] with poison := [xpSrcAt xpose 0 / 64] } xpose).isSome := by decide +kernel
/-- The source lies in job memory above the capacity. -/
def xposeGone : Cmd := cmd 0 0 0 .admitted (word [(0, 0x81), (105, 1), (108, 1), (112, 1), (117, 0x50000000), (205, 0x20000)])
theorem wit_XposeTransposes_vacated : runCmd (withOd (withCmds [xposeGone]) [(0x4000, 0x01, 0x48000000)]) 0 0 0x81 = some xposeGone ∧
    (xposeVacated (withOd (withCmds [xposeGone]) [(0x4000, 0x01, 0x48000000)]) xposeGone).isSome := by decide +kernel
theorem wit_XposeTransposes_element : (127 : Nat) < 128 ∧ (0 : Nat) < 128 := by decide
/-- Element (1, 2) comes from element (2, 1) of the source (R240). -/
theorem test_xpose : listGet 0 (transposeTile ⟨1, 0, List.range 16384, [], none⟩).codes (1 * 128 + 2) = 2 * 128 + 1 := by decide +kernel

/-- A chain of one stage: O0 = I0 + C0, with FP32 streams and C0 = 1.0; the output lies at `dst`. -/
def chain (src dst : Nat) : Nat :=
  word [(68, 1), (128, src), (128 + 121, 1), (640, dst), (640 + 121, 1), (640 + 113, 8), (640 + 107, 0x3F),
    (1152 + 124, 1), (1152 + 108, 0), (1152 + 102, 0x10), (1152 + 96, 0x3F), (1152 + 90, 0x3F), (2176, 0x3F800000)]
/-- The SKIM of the chain over two elements, and 2.0 and -1.0 in the core's scratch. -/
def adding (dst : Nat) : Cmd := { skim .admitted with vl := 2, desc := chain 0x1000 dst }
def skimming (c : Cmd) : State := memPut (withCmds [c]) (scr 0 0x1000) 8 0xBF80000040000000
theorem wit_VectorExecutions : (skimming (adding 0x2000)).Sound ∧ queueExists 0 0 = true ∧
    vecCmd (skimming (adding 0x2000)) 0 0 .admitted false = some (adding 0x2000) ∧ vectorPoison (skimming (adding 0x2000)) (adding 0x2000) = none ∧
    (runVector (skimming (adding 0x2000)) (adding 0x2000)).2.poison = none ∧ (runVector (skimming (adding 0x2000)) (adding 0x2000)).2.beyond = none ∧
    (adding 0x2000).holds = false :=
  ⟨sound_of (by decide +kernel), by decide +kernel⟩
theorem wit_VectorExecutions_inPlace : vecCmd (skimming (adding 0x1000)) 0 0 .admitted false = some (adding 0x1000) ∧
    vectorPoison (skimming (adding 0x1000)) (adding 0x1000) = none ∧ (runVector (skimming (adding 0x1000)) (adding 0x1000)).2.poison = none ∧
    (runVector (skimming (adding 0x1000)) (adding 0x1000)).2.beyond = none ∧ (adding 0x1000).holds = true := by decide +kernel
theorem wit_VectorExecutions_poison : (vectorPoison { skimming (adding 0x2000) with poison := [scr 0 0x1000 / 64] } (adding 0x2000)).isSome ∧
    vecCmd { skimming (adding 0x2000) with poison := [scr 0 0x1000 / 64] } 0 0 .admitted false = some (adding 0x2000) := by decide +kernel
/-- A chain whose one stage gathers FP32 words at `addr` by the indices of I0, below 4,194,304. -/
def gathering (addr : Nat) : Cmd :=
  { skim .admitted with vl := 2, desc := word [(68, 1), (128, 0x1000), (128 + 121, 1), (640, 0x2000), (640 + 121, 1), (640 + 113, 8), (640 + 107, 0x3F),
    (1152 + 124, 7), (1152 + 108, 0), (1152 + 102, 0x10), (1152 + 96, 0x3F), (1152 + 90, 0x3F), (1152, addr), (2176, 0x4A800000)] }
theorem wit_VectorExecutions_gatherPoison :
    vecCmd { skimming (gathering 0x3000) with poison := [scr 0 0x3000 / 64] } 0 0 .admitted false = some (gathering 0x3000) ∧
    vectorPoison { skimming (gathering 0x3000) with poison := [scr 0 0x3000 / 64] } (gathering 0x3000) = none ∧
    (runVector { skimming (gathering 0x3000) with poison := [scr 0 0x3000 / 64] } (gathering 0x3000)).2.poison.isSome := by decide +kernel
theorem wit_VectorExecutions_beyond : vecCmd (skimming (gathering 0xBFFFF8)) 0 0 .admitted false = some (gathering 0xBFFFF8) ∧
    (runVector (skimming (gathering 0xBFFFF8)) (gathering 0xBFFFF8)).2.beyond.isSome := by decide +kernel
/-- 2.0 + 1.0 = 3.0 and -1.0 + 1.0 = +0. -/
theorem test_skim : memNat (after (exec (.skim 0 0 ⟨0, 0, 0⟩) (skimming (adding 0x2000)))) (scr 0 0x2000) 8 = 0x0000000040400000 := by decide +kernel
/-- An uncorrectable error in one execution is cured by the re-run; in both, the command ends FAULT and its output is not stored (R188). -/
theorem test_skim_faults : memNat (after (exec (.skim 0 0 ⟨1, 0, 0⟩) (skimming (adding 0x2000)))) (scr 0 0x2000) 4 = 0x40400000 ∧
    odGet (after (exec (.skim 0 0 ⟨2, 0, 0⟩) (skimming (adding 0x1000)))) 0x3400 0x06 = 1 := by decide +kernel

/-- The same chain on sweep unit 0, in job stack memory. -/
def sweeping (stage : Stage) (dual : Bool) : Cmd :=
  { cmd 128 0 0 stage (word [(0, 0x60), (148, 2)]) with desc := chain 0x50001000 0x50002000, dual := dual }
def swept (c : Cmd) : State := memPut (withCmds [c]) 0x50001000 8 0xBF80000040000000
theorem wit_VectorExecutions_sweep : (swept (sweeping .admitted false)).Sound ∧ queueExists 128 0 = true ∧
    vecCmd (swept (sweeping .admitted false)) 128 0 .admitted true = some (sweeping .admitted false) ∧
    sweepVacated (swept (sweeping .admitted false)) (sweeping .admitted false) = none ∧
    vectorPoison (swept (sweeping .admitted false)) (sweeping .admitted false) = none ∧
    (runVector (swept (sweeping .admitted false)) (sweeping .admitted false)).2.poison = none ∧
    (runVector (swept (sweeping .admitted false)) (sweeping .admitted false)).2.beyond = none := ⟨sound_of (by decide +kernel), by decide +kernel⟩
theorem wit_VectorExecutions_sweepPoison : (vectorPoison { swept (sweeping .admitted false) with poison := [0x50001000 / 64] } (sweeping .admitted false)).isSome := by
  decide +kernel
theorem test_sweep : ((findCmd (after (exec (.sweep 128 0 ⟨0, 0, 0⟩) (swept (sweeping .admitted false)))) 128 0 0).map (·.held)) =
    some (heldBytes [(0x50002000, [0, 0, 0x40, 0x40, 0, 0, 0, 0])]) := by decide +kernel
/-- A chain without gather and scatter stages reaches no place by an index. -/
theorem places_of {s : State} {c : Cmd} (h7 : chainHas c.desc 7 = false) (h8 : chainHas c.desc 8 = false) : placesThere s c := by
  intro k hk w hw
  simp only [chainHas, List.any_eq_false, List.mem_range, beq_iff_eq] at h7 h8
  exact hw.elim (fun h => absurd h (h7 k hk)) (fun h => absurd h (h8 k hk))
theorem wit_VectorExecutions_completes : chainHas (adding 0x2000).desc 7 = false ∧ chainHas (adding 0x2000).desc 8 = false ∧
    placesThere (skimming (adding 0x2000)) (adding 0x2000) ∧ placesThere (swept (sweeping .admitted true)) (sweeping .admitted true) ∧
    sweepVacated (swept (sweeping .admitted true)) (sweeping .admitted true) = none ∧
    vecCmd (swept (sweeping .admitted true)) 128 0 .admitted true = some (sweeping .admitted true) := by
  exact ⟨by decide +kernel, by decide +kernel, places_of (by decide +kernel) (by decide +kernel), places_of (by decide +kernel) (by decide +kernel),
    by decide +kernel, by decide +kernel⟩
/-- A gather below the index 8, whose words lie in the core's scratch. -/
def gatheringEight : Cmd :=
  { skim .admitted with vl := 2, desc := word [(68, 1), (128, 0x1000), (128 + 121, 1), (640, 0x2000), (640 + 121, 1), (640 + 113, 8), (640 + 107, 0x3F),
    (1152 + 124, 7), (1152 + 108, 0), (1152 + 102, 0x10), (1152 + 96, 0x3F), (1152 + 90, 0x3F), (1152, 0x3000), (2176, 0x41000000)] }
theorem wit_VectorExecutions_gathers : (skimming gatheringEight).Sound ∧ allClean (skimming gatheringEight) = true ∧
    vectorPoison (skimming gatheringEight) gatheringEight = none ∧ vecCmd (skimming gatheringEight) 0 0 .admitted false = some gatheringEight ∧
    chainHas gatheringEight.desc 7 = true ∧ placesThere (skimming gatheringEight) gatheringEight := by
  refine ⟨sound_of (by decide +kernel), by decide +kernel, by decide +kernel, by decide +kernel, by decide +kernel, ?_⟩
  intro k hk w _
  obtain rfl : k = 0 := by
    rw [show chNSTG gatheringEight.desc = 1 by decide +kernel] at hk
    omega
  refine ⟨by decide +kernel, by decide +kernel, by decide +kernel, fun t ht => ?_⟩
  rw [show v32 (chConst gatheringEight.desc (stageBound w - 0x10)) = .fin false (2 ^ 23) (-20) by decide +kernel] at ht
  rw [show fmtBits (sgFMT w) = 32 by decide +kernel, show sgADDR w = 0x3000 by decide +kernel, show scratchSize = 0xC00000 by decide +kernel]
  have : t < 8 := by
    simp [Val.lt, Val.cmp, intVal, sigAt, Nat.shiftLeft_eq] at ht
    omega
  omega

/-- A SWEEP that holds two bytes, one written twice. -/
def holding : Cmd := { sweeping .held false with held := [(0x50002000, 1), (0x50002001, 2), (0x50002000, 3)] }
theorem wit_HeldOutputsAreWritten : (swept holding).Sound ∧ queueExists 128 0 = true ∧
    (qCmds (swept holding) 128 0).find? (fun c => c.group.vector && c.stage == .held) = some holding ∧
    (joinBytes holding.held).find? (fun w => sealedRange (swept holding) w.1 w.2.length) = none ∧ sweepVacated (swept holding) holding = none ∧
    (swept holding).biFilter = [] ∧ (swept holding).biHeld = [] := ⟨sound_of (by decide +kernel), by decide +kernel⟩
theorem wit_HeldOutputsAreWritten_dual : vecCmd (swept (sweeping .parked true)) 128 0 .parked true = some (sweeping .parked true) ∧
    vecCmd (swept { sweeping .parked true with mismatched := true }) 128 0 .parked true = some { sweeping .parked true with mismatched := true } := by
  decide +kernel
theorem test_writeBack : memRead (after (exec (.writeBack 128 0) (swept holding))) 0x50002000 2 = [3, 2] := by decide +kernel
theorem test_dualCompare : ((findCmd (after (exec (.dualCompare 128 0 none) (swept (sweeping .parked true)))) 128 0 0).map (·.stage)) = some .held := by decide +kernel

/-! ### The matrix command -/

/-- BF16 commands of 32 rows: admitted, and with their only pass ended. -/
def bf16 : List (Nat × Nat) := [(144, 1), (148, 1)]
def mmA (more : List (Nat × Nat)) : Cmd := mm 0 0 0 .admitted (bf16 ++ more)
def mmF (formed : Nat) (more : List (Nat × Nat)) : Cmd := { mmA more with run := { MatRun.start with passes := 1, formed := formed } }
def shadow : WTile := ⟨0, 0, 0, false, 0, 0, 0, 0, 1, 128, [], [], [], none⟩
theorem wit_TilesAreLoaded : matCmd (withCmds [mmA []]) 0 0 (loadable (withCmds [mmA []])) = some (mmA []) := by decide +kernel
/-- The row feed comes through hawk 0. -/
theorem wit_TilesAreLoaded_hawk : hawkJob (withCmds [mmA [(108, 1)]]) 0 0 0 = some (mmA [(108, 1)], 0) ∧ hawkVacated (withCmds [mmA [(108, 1)]]) (mmA [(108, 1)]) = none := by
  decide +kernel
def passing : State := { withCmds [mmA []] with wtiles := [shadow] }
theorem wit_PassesWorkOnTheWorkingTile : passing.Sound ∧ matCmd passing 0 0 (passReady passing) = some (mmA []) :=
  ⟨sound_of (by decide +kernel), by decide +kernel⟩
theorem wit_PassesWorkOnTheWorkingTile_clean : ∀ w, activeTile (swapTiles passing (mmA [])) (mmA []) = some w →
    passPoison (mmA []) w (passFeeds passing (mmA [])) = none := by
  intro w h
  obtain rfl : { shadow with active := true } = w := Option.some.inj ((show activeTile (swapTiles passing (mmA [])) (mmA []) =
    some { shadow with active := true } by decide +kernel).symm.trans h)
  decide +kernel
theorem wit_PassesWorkOnTheWorkingTile_end :
    matCmd (withCmds [{ mmA [] with run := { MatRun.start with inPass := true } }]) 0 0 (fun c => c.run.inPass) =
      some { mmA [] with run := { MatRun.start with inPass := true } } := by decide +kernel
theorem wit_PassesWorkOnTheWorkingTile_preempted :
    matCmd (withCmds [{ mmA [(153, 1)] with preemptReq := true, run := { MatRun.start with inPass := true } }]) 0 0 (fun c => c.run.inPass) =
      some { mmA [(153, 1)] with preemptReq := true, run := { MatRun.start with inPass := true } } ∧ mmPasses (mmA [(153, 1)]).word ≠ 1 := by decide +kernel
theorem wit_RowsAreFormed : (withCmds [mmF 0 []]).Sound ∧ matCmd (withCmds [mmF 0 []]) 0 0 (formReady (withCmds [mmF 0 []])) = some (mmF 0 []) ∧
    formPoison (withCmds [mmF 0 []]) (mmF 0 []) 0 = none ∧ (withCmds [mmF 0 []]).accBad = [] ∧ (mmF 0 []).checked = false ∧
    mmACC (mmF 0 []).word = false := ⟨sound_of (by decide +kernel), by decide +kernel⟩
/-- With ACC, its resident tile valid. -/
theorem wit_RowsAreFormed_acc : matCmd { withCmds [mmF 0 [(116, 1)]] with valid := [(0, 2 ^ 128 - 1)] } 0 0
      (formReady { withCmds [mmF 0 [(116, 1)]] with valid := [(0, 2 ^ 128 - 1)] }) = some (mmF 0 [(116, 1)]) ∧ mmACC (mmF 0 [(116, 1)]).word = true ∧
    invalidSegment { withCmds [mmF 0 [(116, 1)]] with valid := [(0, 2 ^ 128 - 1)] } (mmF 0 [(116, 1)]) = none := by decide +kernel
theorem wit_CopyAndCommit : (withCmds [mmF 32 [(117, 1)]]).Sound ∧ matCmd (withCmds [mmF 32 [(117, 1)]]) 0 0 copyReady = some (mmF 32 [(117, 1)]) ∧
    (withCmds [mmF 32 [(117, 1)]]).accBad = [] ∧ tilesFit (mmF 32 [(117, 1)]) := ⟨sound_of (by decide +kernel), by unfold tilesFit; decide +kernel⟩
def copied : Cmd := { mmF 32 [(117, 1)] with run := { MatRun.start with passes := 1, formed := 32, copied := true } }
theorem wit_CopyAndCommit_commit : (withCmds [copied]).Sound ∧ matCmd (withCmds [copied]) 0 0 commitReady = some copied ∧ mmKEEP copied.word = true ∧
    findCmd (withCmds [copied]) 0 0 0 = some copied := ⟨sound_of (by decide +kernel), by decide +kernel⟩

/-- A commit sets the valid bits of segment 0 of both halves of bank 0, and no other (R102, R107). -/
theorem test_commit : validGet (after (exec (.commit 0 0) (withCmds [copied]))) 0 = 1 + 2 ^ 32 := by decide +kernel
theorem test_mmul : odGet (after (exec (.mmul 0 0) (withCmds [mmF 32 []]))) 0x3300 0x02 = 1 := by decide +kernel
theorem test_passEnd : ((findCmd (after (exec (.passEnd 0 0) (withCmds [{ mmA [] with run := { MatRun.start with inPass := true } }]))) 0 0 0).map (·.run.passes)) = some 1 := by
  decide +kernel
/-- A bad word in the resident tile ends the command FAULT and stops its context (R127, R209). -/
theorem test_rowForm_resident : ctxState (after (exec (.rowForm 0 0 (.resident 0 0 5)) { withCmds [mmF 0 [(116, 1)]] with valid := [(0, 2 ^ 32 + 3)] })) 0 = 2 := by
  decide +kernel

/-! ### Screed streams -/

def screedCmd : Cmd := cmd 0 0 0 .admitted (word [(0, 0x82), (105, 2), (108, 7), (112, 7), (116, 5), (130, 256)])
theorem wit_MatrixCommandAndScreed : runCmd (withCmds [screedCmd]) 0 0 0x82 = some screedCmd ∧ fld screedCmd.word 107 105 ≤ 4 ∧
    streamsOf (withCmds [screedCmd]) 0 (fld screedCmd.word 104 104) = [] := by decide +kernel
theorem test_screed : ((getScreed (after (exec (.screed 0 0) (withCmds [screedCmd]))) 0 0).map (·.asked)) = some 4 := by decide +kernel

/-! ### Worked examples of the spec -/

/-- 02_numeric_formats.md, "one MXFP8 E4M3 block". -/
theorem test_mxfp8_block : (convertRow 5 false false [] ([0x3F400000, 0xBF400000, 0x3A880000, 0x35800000] ++ List.replicate 28 0)) =
    ([0x7C, 0xFC, 0x30, 0x00] ++ List.replicate 28 0, [0x76], fINX ||| fUFL) := by decide +kernel
theorem test_mxfp8_block_stochastic :
    (convertRow 5 true false [0, 0, 32768, 49152] ([0x3F400000, 0xBF400000, 0x3A880000, 0x35800000] ++ List.replicate 28 0)).1.take 4 = [0x7C, 0xFC, 0x31, 0x01] ∧
    (convertRow 5 true false [0, 0, 32767, 49151] ([0x3F400000, 0xBF400000, 0x3A880000, 0x35800000] ++ List.replicate 28 0)).1.take 4 = [0x7C, 0xFC, 0x30, 0x00] := by
  decide +kernel
/-- 08_command_encodings.md, "encoding one forward command". -/
def forward : CmdWord := 0x0000000501000017FE010020005500840C000000000007000100A4028CC94520
theorem test_forward_word : fld forward 7 0 = 0x20 ∧ fld forward 11 8 = 5 ∧ fld forward 23 12 = 3220 ∧ fld forward 41 28 = 40 ∧ fld forward 103 72 = 7 ∧
    fld forward 55 42 = 41 ∧ fld forward 71 56 = 1 ∧ mmAMASK forward = 3 ∧ mmRBASE forward = 8 ∧ mmRCNT forward = 8 ∧ mmWBEN forward = false ∧
    mmAFMT forward = 5 ∧ mmWFMT forward = 5 ∧ mmKLEN forward = 8192 ∧ mmNCOL forward = 128 ∧ mmDESC forward = 0x2FFC0 ∧ mmOFMT forward = 1 ∧
    mmRM forward = true ∧ mmOUT forward = 1 := by decide +kernel
/-- The same example's last paragraph: with CHK the word is rejected with CODE 0x0008. -/
theorem test_forward_checked : (wordChecks on 0 0 0 (forward ||| (1#256 <<< 119)) none).find? (fun x => x.1 && x.2 == 0x0008) = some (true, 0x0008) ∧
    badRange on forward = false := by decide +kernel
/-- 00_scope.md, "naming an array and a remote byte". -/
theorem test_names : arrayUnit 651 = 0x22051003 ∧ unitOf 81 = unitId 1 2 81 0xFFF := by decide
/-- 09_stack_memory.md, "one address through a retirement": the place before it, and with OV1 = 1, X1 = 1, P1 = 23. -/
theorem test_translate : (Machine.translate on 0x1234567A40).slot = 2710 ∧ (Machine.translate on 0x1234567A40).cell = 1 ∧ (Machine.translate on 0x1234567A40).w = 4514 ∧
    (Machine.translate on 0x1234567A40).stack = 23 ∧ (Machine.translate on 0x1234567A40).channel = 22 ∧ (Machine.translate on 0x1234567A40).offset = 0x54234440 := by
  decide +kernel
theorem test_translate_moved :
    (Machine.translate { on with slots := [(2710, 2 ^ 31 + 1 * 2 ^ 26 + 23 * 2 ^ 21 + 2 * 2 ^ 8)], rowPtr := 4514 } 0x1234567A40).stack = 23 ∧
    (Machine.translate { on with slots := [(2710, 2 ^ 31 + 1 * 2 ^ 26 + 23 * 2 ^ 21 + 2 * 2 ^ 8)], rowPtr := 4515 } 0x1234567A40).stack = 21 := by decide +kernel
/-- 11_seresque_fabric.md, "a 10 KiB PUT whose tail arrives first". -/
theorem test_put_message : seres (3 * 262144 + 2 * 512 + 17) 0x900000000 = 0xC041100900000000 ∧ totalFlits 10240 = 163 ∧ packetBytes 10240 2 = 2048 := by decide
/-- 07_queues_and_dispatch.md, "admission on a low bucket": the charges and ceilings of its four candidates at a price of 1.0. -/
theorem test_charges : ([(4, 3250), (0, 2600), (1, 3000), (3, 3000)].map (fun x =>
      (charge (withOd on [(0x2300, 3, 4096)]) (cmd 0 0 0 .issued (word [(0, 0xA0), (8, x.1), (12, x.2)])),
       ceiling (withOd on [(0x2300, 3, 4096)]) (cmd 0 0 0 .issued (word [(0, 0xA0), (8, x.1), (12, x.2)]))))) =
    [(52000, 65536), (2600, 4096), (6000, 8192), (24000, 32768)] := by decide +kernel
/-- 15_power_and_thermal.md, "coolant flow dips under die 2": the prices at 92 °C and at 97 °C, and the stretch to 1.125 GHz. -/
theorem test_prices : nextPrice 4096 4096 (theta { on with sensors := [(2 * 256 + 26, 92 * 16)] } 2) = 7607 ∧
    nextPrice 4096 4096 (theta { on with sensors := [(2 * 256 + 26, 97 * 16)] } 2) = 16384 := by decide +kernel
theorem test_thermalStretch : arrayFreq (after (exec (.thermalStretch ⟨2, 0, 97 * 16⟩) on)) 2 = 1125 * 1024 ∧
    arrayFreq (after (exec (.stretchStepDown 2) (after (exec (.thermalStretch ⟨2, 0, 97 * 16⟩) on)))) 2 / 1024 = 1031 := by decide +kernel
/-- 12_optical_ports.md, "a switch move during a thermal step": 14 °C in the mean of two sensors lower a heater by 1.6 mW of
48 mW in 65,536 steps. -/
theorem test_feedforward : feedRing (14 * 16 + 14 * 16) ⟨2, 20000, 0, false, false⟩ = ⟨2, 20000 - 2179, 0, false, false⟩ := by decide

/-- A stream of two MXFP6 tiles whose first has landed in its messages: three packets of elements, one of scales. -/
def bytes (n : Nat) : List Byte := List.replicate n 0x2A
theorem bytes_length (n : Nat) : (bytes n).length = n := List.length_replicate
def tilePacket (k : Nat) (tail : Bool) (tflit crc n : Nat) : Packet :=
  { Packet.blank with kind := 0xA, pkt := k, tail := tail, tflit := tflit, mcrc := crc, payload := bytes n }
def getMessage (msgid n : Nat) (got : List Packet) : SendMsg :=
  ⟨msgid, { Packet.blank with kind := 1, len := n, msgid := msgid }, none, [], [], some (0, 0, 0), 0, 0, 0, got, 0, none, true, false⟩
def tileElements : SendMsg :=
  getMessage 1 12288 [tilePacket 0 false 0 0 4096, tilePacket 1 false 0 0 4096,
    tilePacket 2 true 195 (crc64 (bytes 4096 ++ (bytes 4096 ++ bytes 4096))) 4096]
def tileScales : SendMsg := getMessage 2 512 [tilePacket 0 true 9 (crc64 (bytes 512)) 512]
def stream (nt : Nat) : Screed := ⟨0, 0, 0, 0, 0, 0, 0, 256, nt, 7, 7, 2, 2, 0, 0, false, [(0, 1, 2)]⟩
def landing (nt : Nat) : State := { withCmds [{ screedCmd with stage := .parked }] with screeds := [stream nt], sends := [tileElements, tileScales] }

theorem tile_bytes : getBytes tileElements = bytes 4096 ++ (bytes 4096 ++ bytes 4096) := by
  simp [getBytes, tileElements, getMessage, tilePacket, List.range_succ]
theorem scale_bytes : getBytes tileScales = bytes 512 := by
  simp [getBytes, tileScales, getMessage, tilePacket, List.range_succ]
theorem tile_ready : getReady tileElements = true ∧ getReady tileScales = true := by
  simp only [getReady, getCrcOk, tile_bytes, scale_bytes]
  simp [tileElements, tileScales, getMessage, tilePacket, getAll, getTail, flitsOf, ceilDiv', bytes_length]
theorem landed_first (nt : Nat) : landedTile (landing nt) (stream nt) = some (0, tileElements, tileScales) := by
  have h := tile_ready
  have f1 : findSend (landing nt) 1 = some tileElements := rfl
  have f2 : findSend (landing nt) 2 = some tileScales := rfl
  simp [landedTile, stream, f1, f2, h.1, h.2]
theorem wit_MatrixCommandAndScreed_tile : (landing 2).Sound ∧ getScreed (landing 2) 0 0 = some (stream 2) ∧
    landedTile (landing 2) (stream 2) = some (0, tileElements, tileScales) ∧
    (widenBytes (stream 2).wfmt (stream 2).cfmt 16384 (getBytes tileElements)).length = fmtBytes (stream 2).cfmt 16384 ∧ isMX (stream 2).cfmt = true ∧
    (getBytes tileScales).length = 512 ∧ 0 + 1 ≠ (stream 2).nt :=
  ⟨sound_of (by decide +kernel), by decide +kernel, landed_first 2, by rw [tile_bytes]; simp [widenBytes, stream, fmtBytes, fmtBits, ceilDiv', bytes_length],
   by decide, by rw [scale_bytes]; exact bytes_length 512, by decide⟩
theorem wit_MatrixCommandAndScreed_last : landedTile (landing 1) (stream 1) = some (0, tileElements, tileScales) ∧ 0 + 1 = (stream 1).nt ∧
    (stream 1).completed = false ∧ findCmd (landing 1) 0 0 0 = some { screedCmd with stage := .parked } ∧ screedCmd.op = 0x82 :=
  ⟨landed_first 1, by decide, by decide, by decide +kernel, by decide +kernel⟩

/-! ### Messages of the fabric -/

/-- Package 0.32.201 in service, with signals in a ring of 256 slots at 0x60000000. -/
def numberedOn : State := withOd on [(0x5000, 0x01, 0x40C9), (0x5000, 0x0C, 0x60000000), (0x5000, 0x0D, 8)]
def sending (c : Cmd) : State := { numberedOn with cmds := [c] }
def putWord (loc : Nat) : Cmd := cmd 0 0 0 .admitted (word [(0, 0xA0), (185, seres 7 0x40000000), (141, loc), (120, 4)])
def getWord : Cmd := cmd 0 0 0 .admitted (word [(0, 0xA1), (185, seres 7 0x40000000), (141, 0x50000000), (120, 4)])
def atomicWord (rec : Nat) : Cmd := cmd 0 0 0 .admitted (word [(0, 0xA2), (168, seres 7 0x40000000), (124, rec), (108, 1)])
def signalWord : Cmd := cmd 0 0 0 .admitted (word [(0, 0xA3), (104, 7), (124, 0x123), (140, 0x456)])
theorem wit_FabricCommandsSendOneMessage : runCmd (sending (putWord 0x50000000)) 0 0 0xA0 = some (putWord 0x50000000) ∧
    inMemory (sending (putWord 0x50000000)) (ptLOCAL (putWord 0x50000000).word) (ptLEN (putWord 0x50000000).word) = true ∧
    runCmd (sending (putWord 0)) 0 0 0xA0 = some (putWord 0) ∧ inMemory (sending (putWord 0)) (ptLOCAL (putWord 0).word) (ptLEN (putWord 0).word) = false := by
  decide +kernel
theorem wit_FabricCommandsSendOneMessage_get : runCmd (sending getWord) 0 0 0xA1 = some getWord ∧ runCmd (sending signalWord) 0 0 0xA3 = some signalWord := by
  decide +kernel
theorem wit_FabricCommandsSendOneMessage_atomic : runCmd (sending (atomicWord 0x50000000)) 0 0 0xA2 = some (atomicWord 0x50000000) ∧
    inMemory (sending (atomicWord 0x50000000)) (atREC (atomicWord 0x50000000).word) 32 = true ∧ runCmd (sending (atomicWord 0)) 0 0 0xA2 = some (atomicWord 0) ∧
    inMemory (sending (atomicWord 0)) (atREC (atomicWord 0).word) 32 = false := by decide +kernel
theorem test_put : ((after (exec (.put 0 0) (sending (putWord 0x50000000)))).sends.map (fun m => (m.head.daddr, m.head.vc, m.src))) =
    [(seres 7 0x40000000, 4, some 0x50000000)] := by decide +kernel
theorem test_get : ((after (exec (.get 0 0) (sending getWord))).sends.map (fun m => (m.head.kind, m.head.vc, m.head.len))) = [(1, 0, 4)] := by decide +kernel
theorem test_atomic : ((after (exec (.atomic 0 0) (memPut (sending (atomicWord 0x50000000)) 0x50000000 16 (5 + 6 * 2 ^ 64)))).sends.map
    (fun m => (m.head.op, m.head.arg, m.head.arg2))) = [(8, 5, 6)] := by decide +kernel
theorem test_signal : ((after (exec (.signal 0 0) (sending signalWord))).sends.map (fun m => (m.head.kind, m.head.vc, m.head.arg, m.head.arg2))) = [(7, 5, 0x456, 0x123)] := by
  decide +kernel

/-- A one-packet message of package 5 for this package, the first of its stream where it is ordered, with the payload and its CRC-64. -/
def message (kind op off vc : Nat) (ord : Bool) (arg arg2 : Nat) (d : List Byte) (crc : Nat) : RecvCtx :=
  ⟨5, 9, [{ Packet.blank with
    daddr := seres 0x40C9 off, spkg := 5, msgid := 9, syncid := 9, kind := kind, op := op, ord := ord, vc := vc, arg := arg, arg2 := arg2, len := 4,
    tail := true, tflit := 1 + flitsOf d.length, payload := d, mcrc := crc, rtally := 2, rten := kind == 0 }], 0⟩
def receiving (r : RecvCtx) : State := { numberedOn with recvs := [r], srecs := [⟨false, 5, (recvHead r).vc, 9, 0, 0⟩] }
def putIn (off crc : Nat) : RecvCtx := message 0 0 off 4 false 0 0 [1, 2, 3, 4] crc
def goodCrc : Nat := crc64 [1, 2, 3, 4]
theorem wit_MessagesAreServed_put : (receiving (putIn 0x50000000 goodCrc)).Sound ∧ readyRecv (receiving (putIn 0x50000000 goodCrc)) 5 9 0 = some (putIn 0x50000000 goodCrc) ∧
    recvCrcOk (putIn 0x50000000 goodCrc) = true ∧ peerWritable (receiving (putIn 0x50000000 goodCrc)) (seresOff (recvHead (putIn 0x50000000 goodCrc)).daddr) 4 = true ∧
    (receiving (putIn 0x50000000 goodCrc)).sends = [] ∧ (receiving (putIn 0x50000000 goodCrc)).biFilter = [] ∧ (receiving (putIn 0x50000000 goodCrc)).biHeld = [] :=
  ⟨sound_of (by decide +kernel), by decide +kernel⟩
theorem wit_MessagesAreServed_room : (∀ m ∈ (receiving (putIn 0x50000000 goodCrc)).sends, m.waiting = false) ∧
    tombsFull (receiving (putIn 0x50000000 goodCrc)) = false := by decide +kernel
/-- A tombstone table with n entries; 1,048,576 fill it (R310). -/
def crowdedBy (n : Nat) (r : RecvCtx) : State := { receiving r with tombs := List.replicate n ⟨6, 1, Packet.blank, 0⟩ }
theorem crowded_full (n : Nat) (r : RecvCtx) : tombsFull (crowdedBy n r) = decide (1048576 ≤ n) := by simp [tombsFull, crowdedBy]
def crowded (r : RecvCtx) : State := crowdedBy 1048576 r
theorem wit_MessagesAreServed_full : tombsFull (crowded (putIn 0x50000000 goodCrc)) = true ∧
    readyRecv (crowded (putIn 0x50000000 goodCrc)) 5 9 0 = some (putIn 0x50000000 goodCrc) ∧ recvCrcOk (putIn 0x50000000 goodCrc) = true :=
  ⟨crowded_full 1048576 _, by decide +kernel⟩
theorem wit_MessagesAreServed_putRefused : readyRecv (receiving (putIn 0x1000 goodCrc)) 5 9 0 = some (putIn 0x1000 goodCrc) ∧
    peerWritable (receiving (putIn 0x1000 goodCrc)) (seresOff (recvHead (putIn 0x1000 goodCrc)).daddr) 4 = false ∧
    readyRecv (receiving (putIn 0x50000000 0)) 5 9 0 = some (putIn 0x50000000 0) ∧ recvCrcOk (putIn 0x50000000 0) = false := by decide +kernel
def getIn : RecvCtx := message 1 0 0x50000000 0 false 0 0 [] (crc64 [])
theorem wit_MessagesAreServed_get : readyRecv (receiving getIn) 5 9 1 = some getIn ∧ recvCrcOk getIn = true := by decide +kernel
def atomicIn (off op : Nat) : RecvCtx := message 2 op off 0 true 3 0 [] (crc64 [])
theorem wit_MessagesAreServed_atomic : readyRecv (receiving (atomicIn 0x50000008 0x10)) 5 9 2 = some (atomicIn 0x50000008 0x10) ∧
    recvCrcOk (atomicIn 0x50000008 0x10) = true ∧ isTallyWord (receiving (atomicIn 0x50000008 0x10)) 0x50000008 4 = false ∧
    peerWritable (receiving (atomicIn 0x50000008 0x10)) 0x50000008 8 = true ∧ seresOff (recvHead (atomicIn 0x50000008 0x10)).daddr % 8 = 0 ∧
    bitOf (recvHead (atomicIn 0x50000008 0x10)).op 4 = true ∧ (recvHead (atomicIn 0x50000008 0x10)).op % 8 < 4 ∧
    badSectors (receiving (atomicIn 0x50000008 0x10)) 0x50000008 8 = [] := by decide +kernel
theorem wit_MessagesAreServed_tally : readyRecv (receiving (atomicIn (tallyWindow + 20) 0)) 5 9 2 = some (atomicIn (tallyWindow + 20) 0) ∧
    isTallyWord (receiving (atomicIn (tallyWindow + 20) 0)) (tallyWindow + 20) 4 = true ∧ tallyOwned (receiving (atomicIn (tallyWindow + 20) 0)) 5 = true ∧
    (recvHead (atomicIn (tallyWindow + 20) 0)).rten = false ∧ (recvHead (atomicIn (tallyWindow + 20) 0)).op % 8 = 0 := by decide +kernel
def signalIn : RecvCtx := message 7 0 0 5 true 0x456 0x123 [] (crc64 [])
theorem wit_MessagesAreServed_signal : readyRecv (receiving signalIn) 5 9 7 = some signalIn ∧ recvCrcOk signalIn = true ∧ (recvHead signalIn).op = 0 ∧
    sigSize (receiving signalIn) ≠ 0 ∧ inJob (receiving signalIn) (sigSlot (receiving signalIn)) 32 = true ∧ sigFull (receiving signalIn) = false ∧
    sealedRange (receiving signalIn) (sigSlot (receiving signalIn)) 32 = false ∧ sealedRange (withOd (receiving signalIn) [(0x5000, 0x0F, 256)])
      (sigSlot (withOd (receiving signalIn) [(0x5000, 0x0F, 256)])) 32 = false ∧
    sigFull (withOd (receiving signalIn) [(0x5000, 0x0F, 256)]) = true ∧ readyRecv (withOd (receiving signalIn) [(0x5000, 0x0F, 256)]) 5 9 7 = some signalIn := by
  decide +kernel
/-- The signal ring's slot lies at a sealed place. -/
def sealedSignal : State :=
  { (receiving signalIn) with retires := [⟨(translate (receiving signalIn) (sigSlot (receiving signalIn))).stack, 0, true, false⟩] }
theorem wit_MessagesAreServed_sealed : sealedRange sealedSignal (sigSlot sealedSignal) 32 = true ∧ readyRecv sealedSignal 5 9 7 = some signalIn ∧
    inJob sealedSignal (sigSlot sealedSignal) 32 = true ∧ sigSize sealedSignal ≠ 0 := by decide +kernel
theorem test_putMessage : memRead (after (exec (.putMessage 5 9) (receiving (putIn 0x50000000 goodCrc)))) 0x50000000 4 = [1, 2, 3, 4] ∧
    tallyGet (after (exec (.putMessage 5 9) (receiving (putIn 0x50000000 goodCrc)))) 2 = 1 := by decide +kernel
theorem test_atomicMessage : memNat (after (exec (.atomicMessage 5 9) (memPut (receiving (atomicIn 0x50000008 0x10)) 0x50000008 8 (2 ^ 64 - 1)))) 0x50000008 8 = 2 ∧
    tallyGet (after (exec (.atomicMessage 5 9) (receiving (atomicIn (tallyWindow + 20) 0)))) 5 = 3 := by decide +kernel
/-- AOP 3 stores where the old value equals the comparand; AOP 1 adds FP32 (R244). -/
theorem test_atomicNew : atomicNew 3 32 7 9 7 = 9 ∧ atomicNew 3 32 8 9 7 = 8 ∧ atomicNew 1 32 0x3F800000 0x3F800000 0 = 0x40000000 ∧ atomicNew 0 32 0xFFFFFFFF 2 0 = 1 := by
  decide +kernel
/-- A signal record: TAG, PAYLOAD, source package and phase (R316). -/
theorem test_controlMessage : sigTail (after (exec (.controlMessage 5 9) (receiving signalIn))) = 1 ∧
    bits (memNat (after (exec (.controlMessage 5 9) (receiving signalIn))) 0x60000000 32) 192 64 = 0x456 ∧
    bits (memNat (after (exec (.controlMessage 5 9) (receiving signalIn))) 0x60000000 32) 59 37 = 1 + 0x123 * 2 + 5 * 2 ^ 17 := by decide +kernel
theorem test_getMessage : ((after (exec (.getMessage 5 9) (memPut (receiving getIn) 0x50000000 4 0x04030201))).recvs) = [] := by decide +kernel

/-- A parked command with a message 3 in flight, and an answer to it. -/
def waitingOn (op : Nat) (more : List (Nat × Nat)) : Cmd := { cmd 0 0 0 .parked (word ([(0, op), (27, 1), (42, 3), (56, 5)] ++ more)) with msgs := [3] }
def sent (kind resends : Nat) : SendMsg :=
  ⟨3, { Packet.blank with daddr := seres 7 0x40000000, spkg := 0x40C9, kind := kind, msgid := 3, len := 4, arg := seres 0x40C9 0x50000000, ord := true },
   none, [], [], some (0, 0, 0), 0, resends, 0, [], 0, none, true, false⟩
def answer (kind op : Nat) : Packet := { Packet.blank with daddr := seres 0x40C9 0, spkg := 7, msgid := 3, kind := kind, op := op, tail := true, tflit := 1, arg := 77 }
def answering (c : Cmd) (m : SendMsg) (p : Packet) : State := { numberedOn with cmds := [c], sends := [m], inbox := [p] }
def put0 : Cmd := waitingOn 0xA0 []
def fetchAdd : Cmd := waitingOn 0xA2 [(108, 1), (124, 0x50000100)]
theorem wit_AnswersEndOrRepeat_ack : (answering put0 (sent 0 0) (answer 8 0)).Sound ∧ hasAnswer (answering put0 (sent 0 0) (answer 8 0)) 3 8 0 (sent 0 0) (answer 8 0) ∧
    ownerCmd (answering put0 (sent 0 0) (answer 8 0)) (sent 0 0) = some put0 ∧ put0.op ≠ 0xA2 ∧ queueExists put0.u put0.q = true ∧
    (sent 0 0).waiting = false ∧ (answering put0 (sent 0 0) (answer 8 0)).biFilter = [] := ⟨sound_of (by decide +kernel), by unfold hasAnswer; decide +kernel⟩
theorem wit_AnswersEndOrRepeat_atomic : hasAnswer (answering fetchAdd (sent 2 0) (answer 8 0)) 3 8 0 (sent 2 0) (answer 8 0) ∧
    ownerCmd (answering fetchAdd (sent 2 0) (answer 8 0)) (sent 2 0) = some fetchAdd ∧ fetchAdd.op = 0xA2 ∧ fld fetchAdd.word 108 108 = 1 ∧
    inMemory (answering fetchAdd (sent 2 0) (answer 8 0)) (atREC fetchAdd.word + 16) 8 = true ∧
    sealedRange (answering fetchAdd (sent 2 0) (answer 8 0)) (atREC fetchAdd.word + 16) 8 = false := by unfold hasAnswer; decide +kernel
theorem wit_AnswersEndOrRepeat_repeat : hasAnswer (answering put0 (sent 0 0) (answer 9 nakBUSY)) 3 9 nakBUSY (sent 0 0) (answer 9 nakBUSY) ∧
    hasAnswer (answering put0 (sent 0 0) (answer 9 nakNOROUTE)) 3 9 nakNOROUTE (sent 0 0) (answer 9 nakNOROUTE) ∧
    hasAnswer (answering put0 (sent 0 0) (answer 9 nakINCOMPLETE)) 3 9 nakINCOMPLETE (sent 0 0) (answer 9 nakINCOMPLETE) ∧
    hasAnswer (answering put0 (sent 0 0) (answer 9 nakCRC)) 3 9 nakCRC (sent 0 0) (answer 9 nakCRC) ∧
    mayResend (answering put0 (sent 0 0) (answer 9 nakCRC)) (sent 0 0) = true ∧ mayResend (answering put0 (sent 0 255) (answer 9 nakCRC)) (sent 0 255) = false := by
  unfold hasAnswer; decide +kernel
theorem wit_AnswersEndOrRepeat_there : seresPkg (sent 0 0).head.daddr ≠ ownPkg (answering put0 (sent 0 0) (answer 9 nakBUSY)) ∧
    sourceGone (answering put0 (sent 0 0) (answer 9 nakCRC)) (sent 0 0) = none := by decide +kernel
/-- A message to this package itself. -/
def sentSelf : SendMsg := { sent 0 0 with head := { (sent 0 0).head with daddr := seres 0x40C9 0x50000000 } }
theorem wit_AnswersEndOrRepeat_self : hasAnswer (answering put0 sentSelf (answer 9 nakBUSY)) 3 9 nakBUSY sentSelf (answer 9 nakBUSY) ∧
    seresPkg sentSelf.head.daddr = ownPkg (answering put0 sentSelf (answer 9 nakBUSY)) ∧
    sourceGone (answering put0 sentSelf (answer 9 nakBUSY)) sentSelf = none := by unfold hasAnswer; decide +kernel
/-- A message whose source has left memory. -/
def sentGone : SendMsg := { sent 0 0 with src := some 0x50000000 }
def gone (p : Packet) : State := withOd (answering put0 sentGone p) [(0x4000, 0x01, 0x48000000)]
theorem wit_AnswersEndOrRepeat_gone : hasAnswer (gone (answer 9 nakINCOMPLETE)) 3 9 nakINCOMPLETE sentGone (answer 9 nakINCOMPLETE) ∧
    hasAnswer (gone (answer 9 nakCRC)) 3 9 nakCRC sentGone (answer 9 nakCRC) ∧ mayResend (gone (answer 9 nakCRC)) sentGone = true ∧
    (sourceGone (gone (answer 9 nakCRC)) sentGone).isSome = true ∧ ownerCmd (gone (answer 9 nakCRC)) sentGone = some put0 := by unfold hasAnswer; decide +kernel
/-- A message to this package itself whose source has left memory. -/
def selfGone : SendMsg := { sentSelf with src := some 0x50000000 }
def goneSelf : State := withOd (answering put0 selfGone (answer 9 nakBUSY)) [(0x4000, 0x01, 0x48000000)]
theorem wit_AnswersEndOrRepeat_selfGone : hasAnswer goneSelf 3 9 nakBUSY selfGone (answer 9 nakBUSY) ∧ seresPkg selfGone.head.daddr = ownPkg goneSelf ∧
    (sourceGone goneSelf selfGone).isSome = true ∧ ownerCmd goneSelf selfGone = some put0 := by unfold hasAnswer; decide +kernel
theorem wit_AnswersEndOrRepeat_end : hasAnswer (answering put0 (sent 0 0) (answer 9 nakADDRESS)) 3 9 nakADDRESS (sent 0 0) (answer 9 nakADDRESS) ∧
    hasAnswer (answering put0 (sent 0 0) (answer 9 nakTALLY)) 3 9 nakTALLY (sent 0 0) (answer 9 nakTALLY) ∧
    hasAnswer (answering put0 (sent 0 0) (answer 9 nakPOISON)) 3 9 nakPOISON (sent 0 0) (answer 9 nakPOISON) ∧
    ownerCmd (answering put0 (sent 0 0) (answer 9 nakADDRESS)) (sent 0 0) = some put0 ∧ screedOf (answering put0 (sent 0 0) (answer 9 nakADDRESS)) (sent 0 0) = none := by
  unfold hasAnswer; decide +kernel
theorem test_ack : tallyGet (after (exec (.ack 3) (answering put0 (sent 0 0) (answer 8 0)))) 3 = 5 ∧
    memNat (after (exec (.ack 3) (answering fetchAdd (sent 2 0) (answer 8 0)))) 0x50000110 8 = 77 := by decide +kernel
theorem test_naks : ((after (exec (.nakCrc 3) (answering put0 (sent 0 0) (answer 9 nakCRC)))).sends.map (·.resends)) = [1] ∧
    ((after (exec (.nakBusy 3) (answering put0 (sent 0 0) (answer 9 nakBUSY)))).sends.map (·.resends)) = [0] ∧
    tallyGet (after (exec (.nakAddress 3) (answering put0 (sent 0 0) (answer 9 nakADDRESS)))) 3 = 0 := by decide +kernel

/-- A GET whose whole answer has come. -/
def get0 : Cmd := waitingOn 0xA1 []
def got (crc : Nat) : SendMsg := { sent 1 0 with got := [{ Packet.blank with kind := 0xA, msgid := 3, tail := true, tflit := 2, mcrc := crc, payload := [9, 8, 7, 6] }] }
def getting (crc : Nat) : State := { numberedOn with cmds := [get0], sends := [got crc] }
theorem wit_GetDataAndTimer : (getting (crc64 [9, 8, 7, 6])).Sound ∧ findSend (getting (crc64 [9, 8, 7, 6])) 3 = some (got (crc64 [9, 8, 7, 6])) ∧
    (got (crc64 [9, 8, 7, 6])).head.kind = 1 ∧ getAll (got (crc64 [9, 8, 7, 6])) = true ∧ screedOf (getting (crc64 [9, 8, 7, 6])) (got (crc64 [9, 8, 7, 6])) = none ∧
    ownerCmd (getting (crc64 [9, 8, 7, 6])) (got (crc64 [9, 8, 7, 6])) = some get0 ∧ get0.op = 0xA1 ∧ getCrcOk (got (crc64 [9, 8, 7, 6])) = true ∧
    queueExists get0.u get0.q = true ∧ inMemory (getting (crc64 [9, 8, 7, 6])) (seresOff (got 0).head.arg) 4 = true ∧
    sealedRange (getting (crc64 [9, 8, 7, 6])) (seresOff (got 0).head.arg) 4 = false ∧ getCrcOk (got 0) = false ∧ findSend (getting 0) 3 = some (got 0) :=
  ⟨sound_of (by decide +kernel), by decide +kernel⟩
theorem wit_GetDataAndTimer_badCrc : getAll (got 0) = true ∧ getCrcOk (got 0) = false ∧ mayResend (getting 0) (got 0) = true ∧
    sourceGone (getting 0) (got 0) = none ∧ seresPkg (got 0).head.daddr ≠ ownPkg (getting 0) ∧ screedOf (getting 0) (got 0) = none := by decide +kernel
/-- The same GET with no re-sends left, and with a packet missing. -/
def gotLast : SendMsg := { got 0 with resends := 255 }
theorem wit_GetDataAndTimer_last : findSend { getting 0 with sends := [gotLast] } 3 = some gotLast ∧ getAll gotLast = true ∧ getCrcOk gotLast = false ∧
    mayResend { getting 0 with sends := [gotLast] } gotLast = false ∧ ownerCmd { getting 0 with sends := [gotLast] } gotLast = some get0 ∧
    screedOf { getting 0 with sends := [gotLast] } gotLast = none := by decide +kernel
theorem wit_GetDataAndTimer_missing : findSend { getting 0 with sends := [sent 1 0] } 3 = some (sent 1 0) ∧ getAll (sent 1 0) = false := by decide +kernel
/-- Ten seconds of uptime. -/
def later (s : State) : State := { s with uptime := 1000000000 }
theorem wit_GetDataAndTimer_timer : timerDue (answering put0 (sent 0 0) (answer 9 nakCRC)) (sent 0 0) = false ∧
    timerDue (later (answering put0 (sent 0 0) (answer 9 nakCRC))) (sent 0 0) = true ∧
    findSend (later (answering put0 (sent 0 0) (answer 9 nakCRC))) 3 = some (sent 0 0) ∧
    mayResend (later (answering put0 (sent 0 0) (answer 9 nakCRC))) (sent 0 0) = true ∧
    sourceGone (later (answering put0 (sent 0 0) (answer 9 nakCRC))) (sent 0 0) = none ∧
    timerDue (later (answering put0 (sent 0 255) (answer 9 nakCRC))) (sent 0 255) = true ∧
    mayResend (later (answering put0 (sent 0 255) (answer 9 nakCRC))) (sent 0 255) = false ∧
    ownerCmd (later (answering put0 (sent 0 255) (answer 9 nakCRC))) (sent 0 255) = some put0 ∧
    screedOf (later (answering put0 (sent 0 255) (answer 9 nakCRC))) (sent 0 255) = none := by decide +kernel
theorem wit_GetDataAndTimer_gone : timerDue (later (gone (answer 9 nakCRC))) sentGone = true ∧ mayResend (later (gone (answer 9 nakCRC))) sentGone = true ∧
    findSend (later (gone (answer 9 nakCRC))) 3 = some sentGone ∧ (sourceGone (later (gone (answer 9 nakCRC))) sentGone).isSome = true ∧
    ownerCmd (later (gone (answer 9 nakCRC))) sentGone = some put0 := by decide +kernel
theorem test_resendTimer : ((after (exec (.resendTimer 3) (later (answering put0 (sent 0 0) (answer 9 nakCRC))))).sends.map (fun m => (m.resends, m.i, m.sentAt))) =
    [(1, 1, 1000000000)] := by decide +kernel
theorem test_getData : memRead (after (exec (.getData 3) (getting (crc64 [9, 8, 7, 6])))) 0x50000000 4 = [9, 8, 7, 6] ∧
    ((after (exec (.getData 3) (getting 0))).sends.map (fun m => (m.got, m.resends))) = [([], 1)] := by decide +kernel

/-- A context that holds packet 1 of two, and a stream record of its source. -/
def half : RecvCtx := ⟨5, 9, [{ Packet.blank with spkg := 5, msgid := 9, kind := 0, pkt := 1, tail := true, tflit := 66, vc := 4, payload := [1] }], 0⟩
theorem wit_DestinationTimers : findRecv { numberedOn with recvs := [half] } 5 9 = some half ∧ serving { numberedOn with recvs := [half] } = true ∧
    (recvTail half).isSome ∧ recvWhole half = false ∧ { numberedOn with recvs := [half] }.uptime < half.gainedAt + gapTicks { numberedOn with recvs := [half] } ∧
    half.gainedAt + gapTicks (later { numberedOn with recvs := [half] }) ≤ (later { numberedOn with recvs := [half] }).uptime := by decide +kernel
/-- A tombstone made at reset, and one made at ten seconds. -/
def tombed (t : Nat) : State := { numberedOn with tombs := [⟨5, 9, Packet.blank, t⟩], uptime := 1000000000 }
theorem wit_DestinationTimers_tomb :
    (∀ x ∈ (tombed 0).tombs, x.spkg = 5 → x.msgid = 9 → x.madeAt + odGet (tombed 0) 0x5000 0x08 * 100000 ≤ (tombed 0).uptime) ∧
    (findTomb (tombed 0) 5 9).isSome ∧
    (∀ x ∈ (tombed 1000000000).tombs, x.spkg = 5 → x.msgid = 9 → (tombed 1000000000).uptime < x.madeAt + odGet (tombed 1000000000) 0x5000 0x08 * 100000) := by
  decide +kernel
theorem wit_DestinationTimers_record : findStream (later { numberedOn with srecs := [⟨false, 5, 0, 9, 0, 0⟩] }) false 5 0 = some ⟨false, 5, 0, 9, 0, 0⟩ ∧
    streamIdle (later { numberedOn with srecs := [⟨false, 5, 0, 9, 0, 0⟩] }) ⟨false, 5, 0, 9, 0, 0⟩ = true ∧
    streamIdle (receiving (atomicIn 0x50000008 0x10)) ⟨false, 5, 0, 9, 0, 0⟩ = false ∧
    findStream (receiving (atomicIn 0x50000008 0x10)) false 5 0 = some ⟨false, 5, 0, 9, 0, 0⟩ := by decide +kernel
theorem test_gapTime : odGet (after (exec (.gapTime 5 9) (later { numberedOn with recvs := [half] }))) 0x5000 0x13 = 1 ∧ heldBitmap half = 2 := by decide +kernel

/-! ### Frames -/

/-- A port whose rings are all LOCKED and whose receivers are aligned, as the far end sees them too. -/
def lit : Port :=
  { Port.reset with tx := List.replicate 18 ⟨2, 20000, 0, false, false⟩, rx := List.replicate 18 ⟨2, 20000, 0, false, false⟩,
                    aligned := List.replicate 18 true, sentReport := 0, lastReport := 0, laser := true }
/-- Port 3 is UP. A control flit over the upper 60 bytes, with its LCRC. -/
def up : State := withOd (putPort numberedOn 3 lit) [(0x5203, 0x01, 3)]
def control32 (x : Nat) : BitVec 512 := BitVec.ofNat 512 (x * 2 ^ 32 + crc32c 60 x)
/-- An ACK of package 7 for message 3 of this package, as the one flit of a packet on VC 1 in slot 0. -/
def ackFlit : BitVec 512 := BitVec.ofNat 512 (seres 0x40C9 0 * 2 ^ 448 + 7 * 2 ^ 428 + 3 * 2 ^ 396 + 8 * 2 ^ 336 + 2 ^ 305 + 2 ^ 261 + crc64 [])
def ackTag : Nat := 128 + 1 * 16 + 8 + 4
def ackFrame : Frame := ⟨control32 ((ackTag * 2 ^ 440 + crc32c 65 (ackFlit.toNat + ackTag * 2 ^ 512) * 2 ^ 216) / 2 ^ 32), [ackFlit, 0, 0, 0, 0, 0, 0], [], [], []⟩
theorem wit_FramesDeliver_lanes : 3 < up.ports.length ∧
    ackFrame = { ackFrame with badLanes := frameLanes up 3 ackFrame } ∧
    { ackFrame with badLanes := [0] } = { ackFrame with badLanes := frameLanes up 3 { ackFrame with badLanes := [0] } } ∧
    (∀ x ∈ up.transit, x.port.isSome = true) := by decide +kernel
theorem wit_FramesDeliver : portUp up 3 = true ∧ ctlGood ackFrame = true ∧ slotGood ackFrame 0 = true ∧ bitOf (slotTag ackFrame 0) 7 = true ∧
    bitOf (slotTag ackFrame 0) 3 = true ∧ bitOf (slotTag ackFrame 0) 2 = true ∧ bitOf (slotTag ackFrame 0) 1 = false ∧
    (∀ k, k < 7 → 1 ≤ k → bitOf (slotTag ackFrame k) 7 = false) ∧ serving up = true ∧
    (packetOf [listGet 0 ackFrame.slots 0] (bits (slotTag ackFrame 0) 4 3) 3).kind = 8 ∧
    seresPkg (packetOf [listGet 0 ackFrame.slots 0] (bits (slotTag ackFrame 0) 4 3) 3).daddr = ownPkg up ∧
    ctlGood { ackFrame with badLanes := [0] } = false := by decide +kernel
theorem test_frame : ((after (exec (.frameReceive 3 ackFrame) up)).inbox.map (fun p => (p.kind, p.msgid, p.spkg, p.vc, p.inPort))) = [(8, 3, 7, 1, 3)] ∧
    odGet (after (exec (.frameReceive 3 { ackFrame with badLanes := [0] }) up)) 0x5203 0x05 = 1 := by decide +kernel
/-- The check values of CRC-64 and CRC-32C over the digits 1 to 9 (R306, R293). -/
theorem test_crc : crc64 [0x31, 0x32, 0x33, 0x34, 0x35, 0x36, 0x37, 0x38, 0x39] = 0x995DC9BBDF1939FA ∧ crc32c 9 0x393837363534333231 = 0xE3069283 := by decide +kernel

/-- A packet for package 0.32.202 that waits for an adaptive port; the route's mode is 1 and its escape port 3. -/
def waitsHere : Transit := ⟨{ Packet.blank with daddr := seres 0x40CA 0, vc := 4, inPort := 2 }, none, false, 0, some 0⟩
def arrived : State := { (withOd up [(0x5100, 0x07, (2 ^ 10 + 3 * 2 ^ 12 + 2 ^ 19) * 2 ^ (32 * (516 + 0xCA)))]) with transit := [waitsHere] }
def hop : State := later arrived
theorem wit_HeldPacketsMoveOrDrop : escapee hop 3 = some waitsHere ∧ waitsHere.port = none ∧ vcStopped hop 3 7 = false ∧
    hop.transit.find? (fun t => heldBy 2 t && heldFor hop t.since (odGet hop 0x5000 0x07 * 1000)) = some waitsHere ∧
    (∀ y ∈ hop.transit.erase waitsHere, y.port.isSome ∧ y.headAt.isSome) ∧
    (∀ x ∈ arrived.transit, heldBy 2 x = true → heldFor arrived x.since (odGet arrived 0x5000 0x07 * 1000) = false) := by decide +kernel
theorem test_escapeMove : odGet (after (exec (.escapeMove 3) hop)) 0x5203 0x09 = 1 ∧ odGet (after (exec (.hopHoldLimit 2) hop)) 0x5202 0x08 = 1 := by decide +kernel

/-! ### Power and calibration -/

/-- A hot die, a hot lath, and one that has cooled. -/
def hotDie : Reading := ⟨1, 3, 2000⟩
def hotLath : Reading := ⟨15, 5, 2000⟩
def stretched : State := { on with stretches := [⟨1, 2, true, 900000⟩, ⟨1, 0, false, 800000⟩], sensors := [(1 * 256 + 3, 2000)] }
theorem wit_ClocksStretch : on.Sound ∧ droopMargin on 1 < droopMargin on 1 + 1 ∧ bulkOn on = true ∧ (6700 : Nat) < 6800 ∧ sensorExists hotDie.site hotDie.sensor = true ∧
    threshold on (thresholdSub hotDie.site hotDie.sensor + 1) ≤ hotDie.t16 ∧ 1 ∈ diesOf hotDie ∧ hasStretch on 1 (thermalCause hotDie) = false ∧
    isStackSensor hotDie.site hotDie.sensor = false ∧ 1600 ≤ hotDie.t16 :=
  ⟨sound_of (by decide +kernel), Nat.lt_succ_self _, by decide +kernel⟩
theorem wit_ClocksStretch_lath : sensorExists hotLath.site hotLath.sensor = true ∧ threshold on (thresholdSub hotLath.site hotLath.sensor + 1) ≤ hotLath.t16 ∧
    3 ∈ diesOf hotLath ∧ isStackSensor hotLath.site hotLath.sensor = false ∧ 1520 ≤ hotLath.t16 := by decide +kernel
theorem wit_ClocksStretch_values : floorFreq ≤ arrayFreq on 1 ∧ 0 ∉ diesOf hotDie ∧ hasStretch stretched 1 (thermalCause hotDie) = true ∧
    (100 : Int) < threshold on (thresholdSub 1 3 + 1) ∧ (100 : Int) < (if (1 : Nat) < 4 then 1600 else 1520) ∧
    (100 : Int) < (if (15 : Nat) < 4 then 1600 else 1520) ∧ bulkOn { on with vbulk := false } = false := by decide +kernel
theorem wit_ClocksStretch_within : (⟨1, 0⟩ : DroopSense).below ≤ droopMargin on 1 := Nat.zero_le _
/-- Past its margin, a droop halves the clock (R416). -/
theorem test_droop (b : Nat) (h : droopMargin on 1 < b) :
    odGet (after (exec (.droop ⟨1, b⟩) on)) 0x2301 0x0B = 750 ∧ odGet (after (exec (.droop ⟨1, b⟩) on)) 0x2301 0x0E = 1 := by
  have e : execDroop ⟨1, b⟩ on = .next (showFreq (odBump (addStretch on 1 0 (arrayFreq on 1 / 2)) 0x2301 0x0E 1)) := by
    unfold execDroop
    dsimp only
    rw [if_pos]
    rw [show bulkOn on = true by decide +kernel, decide_eq_true h]; rfl
  rw [exec, e]
  decide +kernel
theorem test_junction : odGet (after (exec (.junctionLimit hotDie) on)) 0x2301 0x0B = 400 ∧ (after (exec (.junctionLimit hotDie) on)).coreMHz[1]? = some 1000 := by
  decide +kernel

theorem wit_StretchesStepAndRelease : inRelease stretched ⟨1, 0⟩ = some ⟨1, 0, false, 800000⟩ ∧
    arraySetPoint stretched 1 * 1024 > 800000 + sixteenth stretched 1 ∧
    inRelease { stretched with stretches := [⟨1, 0, false, 1500000⟩] } ⟨1, 0⟩ = some ⟨1, 0, false, 1500000⟩ ∧
    arraySetPoint stretched 1 * 1024 ≤ 1500000 + sixteenth stretched 1 := by decide +kernel
theorem wit_StretchesStepAndRelease_clears : stretchCleared (senseAll stretched [⟨1, 3, 400⟩]) 2 1 = true ∧
    stretchCleared (senseAll stretched [⟨1, 3, 2000⟩]) 2 1 = false ∧
    (∀ x ∈ ({ on with trips := [1 * 256 + 3] }).trips, tripCooled (senseAll { on with trips := [1 * 256 + 3] } [⟨1, 3, 400⟩]) x = true) := by decide +kernel
theorem test_stretchStepDown : (after (exec (.stretchStepDown 1) stretched)).stretches = [⟨1, 2, true, 804000⟩, ⟨1, 0, false, 800000⟩] := by decide +kernel
theorem test_stretchRelease : (after (exec (.stretchReleaseStep ⟨1, 0⟩) stretched)).stretches = [⟨1, 2, true, 900000⟩, ⟨1, 0, false, 896000⟩] := by decide +kernel

theorem wit_EmergenciesComeAndGo : on.waitingReqs = [] ∧ on.aonUp = true ∧ causes on = 0 ∧ bulkOn on = true ∧
    threshold on (thresholdSub hotDie.site hotDie.sensor + 2) ≤ hotDie.t16 ∧
    sensorExists hotDie.site hotDie.sensor = true ∧ sensorPowered on hotDie.site hotDie.sensor = true ∧
    ({ on with overWindows := 999 }).overWindows = 999 ∧ odGet { on with overWindows := 999 } 0x2100 0x01 < 9000 := by decide +kernel
theorem wit_EmergenciesComeAndGo_release : causes (after (exec .emergN on)) = 1 ∧
    (after (exec .emergNReturnsHigh (after (exec .emergN on)))).releasing = true ∧
    causes (after (exec .emergNReturnsHigh (after (exec .emergN on)))) = 0 ∧
    10 * 100 ≤ 9 * odGet (after (exec .emergNReturnsHigh (after (exec .emergN on)))) 0x2100 0x03 := by decide +kernel
theorem test_emergN : odGet (after (exec .emergN on)) 0x2100 0x0B = 1 ∧ odGet (after (exec .emergN on)) 0x2302 0x0B = 400 := by decide +kernel
theorem test_supplyLow : causes (after (exec (.vbulkUndervoltage 10999) on)) = 8 ∧ causes (after (exec (.vbulkUndervoltage 11000) on)) = 0 := by decide +kernel

/-- A calibration refresh that is due, and the same one under way. -/
def refreshAsked : State := { on with refreshes := [(0xA002, 0)] }
def refreshBegun : State := withOd refreshAsked [(0xA002, 0x03, 2)]
theorem wit_ControlLoopsRun : on.waitingReqs = [] ∧ bulkOn on = true ∧ on.fwRuns = true ∧ odGet on 0x8000 0x09 ≠ 3 ∧ odGet on 0x2100 0x04 = 0 ∧ on.allocHeld = none ∧
    calIndexes.contains 0xA002 = true ∧ refreshAsked.refreshes.any (fun r => r.1 == 0xA002) = true ∧ causes refreshAsked = 0 ∧ refreshDue refreshAsked 0xA002 = true ∧
    odGet refreshBegun 0xA002 0x03 = 2 := by
  decide +kernel
/-- The refresh of port 2's power path, whose stages have been read. -/
def refreshPort : State :=
  withOd { putPort on 2 { Port.reset with last := some ⟨0, 0, 0, 0, List.replicate 18 0, List.replicate 18 0, 0, []⟩ } with refreshes := [(0xA012, 0)] } [(0xA012, 0x03, 2)]
theorem wit_ControlLoopsRun_port : calIndexes.contains 0xA012 = true ∧ odGet refreshPort 0xA012 0x03 = 2 ∧ 2 < refreshPort.ports.length ∧ 0xA012 = 0xA010 + 2 ∧ (getPort refreshPort 2).last.isSome ∧
    (getPort refreshPort 2).refs = none := by decide +kernel
theorem test_governor : odGet (after (exec (.governorLoop [0, 0, 0, 0] 8000 []) on)) 0x2100 0x07 = 8000 := by decide +kernel
theorem test_refresh : odGet (after (exec (.calibrationRefresh ⟨0xA002, false⟩ 640) refreshAsked)) 0xA002 0x03 = 2 ∧
    odGet (after (exec (.calibrationRefresh ⟨0xA002, true⟩ 640) refreshBegun)) 0xA002 0x04 = 1 ∧
    odGet (after (exec (.calibrationRefresh ⟨0xA002, true⟩ 640) refreshBegun)) 0xA002 0x02 = 1000 := by decide +kernel

/-! ### Object dictionary writes -/

/-- A WRITE that passes every check but that of rights: `writable`, computed. -/
def canWrite (s : State) (i sub n v : Nat) : Bool :=
  match rowOf i sub with
  | none => false
  | some row => servedNow s (.mailbox false) && odPresent i && accessOk row (writeReq i sub n v) && decide (n ≤ 16368) &&
      (if row.pieces then decide (n ≤ min 1048576 row.size) else decide (n = row.size)) && available s i && decide (v < 2 ^ (8 * n)) &&
      rangeOk s row i sub v n && stateOk s i sub v

theorem writable_of {s : State} {i sub n v : Nat} (h : canWrite s i sub n v = true) : ∃ row, writable s (.mailbox false) i sub n v row := by
  unfold canWrite at h
  split at h
  · simp at h
  · next row hr =>
    refine ⟨row, ?_⟩
    simp only [Bool.and_eq_true] at h
    obtain ⟨⟨⟨⟨⟨⟨⟨⟨h1, h2⟩, h3⟩, h0⟩, h4⟩, h5⟩, h6⟩, h7⟩, h8⟩ := h
    refine ⟨h1, h2, hr, h3, of_decide_eq_true h0, ?_, h5, of_decide_eq_true h6, h7, h8⟩
    split at h4 <;> simp_all

/-- The same of a WRITE in two pieces on a path: `writableInPieces`, computed. -/
def canWriteInPieces (s : State) (p : Path) (i sub n v : Nat) : Bool :=
  match rowOf i sub with
  | none => false
  | some row => decide (pathMax p < n) && decide (n ≤ 2 * pathMax p) && servedNow s p && odPresent i && row.pieces && accessOk row (writeReq i sub n v) &&
      decide (n ≤ min 1048576 row.size) && available s i && decide (v < 2 ^ (8 * n)) && rangeOk s row i sub v n && stateOk s i sub v

theorem writableInPieces_of {s : State} {p : Path} {i sub n v : Nat} (h : canWriteInPieces s p i sub n v = true) :
    ∃ row, writableInPieces s p i sub n v row := by
  unfold canWriteInPieces at h
  split at h
  · simp at h
  · next row hr =>
    refine ⟨row, ?_⟩
    simp only [Bool.and_eq_true, decide_eq_true_eq] at h
    obtain ⟨⟨⟨⟨⟨⟨⟨⟨⟨⟨h1, h2⟩, h3⟩, h4⟩, h5⟩, h6⟩, h7⟩, h8⟩, h9⟩, h10⟩, h11⟩ := h
    exact ⟨h1, h2, h3, h4, hr, h5, h6, h7, h8, h9, h10, h11⟩

/-- Context 0 has STOPPED; its queue 0 is still on. -/
def stoppedOn : State := withOd on [(0x9010, 0x01, 2)]
theorem wit_JobEntriesAreWritten_restart : ∃ row, writable stoppedOn (.mailbox false) (0x9010 + 0) 0x02 1 1 row := writable_of (by decide +kernel)
theorem wit_JobEntriesAreWritten_table : ∃ row, writable on (.mailbox false) 0x9000 0x03 288 table row := writable_of (by decide +kernel)
theorem wit_JobEntriesAreWritten_base : ∃ row, writable (qSet on 0 1 6 0) (.mailbox false) (queueIndex 0) (1 * 16 + 1) 8 0x40100000 row :=
  writable_of (by decide +kernel)
theorem wit_JobEntriesAreWritten_size : ∃ row, writable (qSet on 0 1 6 0) (.mailbox false) (queueIndex 0) (1 * 16 + 2) 1 8 row := writable_of (by decide +kernel)
theorem wit_JobEntriesAreWritten_tail : (∃ row, writable on (.mailbox false) (queueIndex 0) (0 * 16 + 5) 4 5 row) ∧ queueExists 0 0 = true ∧
    tailOk on 0 0 5 = true ∧ tailOk on 0 0 257 = false ∧ queueLive on 0 0 = true := ⟨writable_of (by decide +kernel), by decide +kernel⟩
theorem wit_JobEntriesAreWritten_tally : on.Sound ∧ ∃ row, writable on (.mailbox false) 0x9300 0x02 4 9 row :=
  ⟨sound_of (by decide +kernel), writable_of (by decide +kernel)⟩
theorem wit_JobEntriesAreWritten_seed : ∃ row, writable on (.mailbox false) 0x9000 0x02 8 77 row := writable_of (by decide +kernel)
theorem wit_JobEntriesAreWritten_map : ∃ row, writable on (.mailbox false) 0x9200 0x01 2048 0 row := writable_of (by decide +kernel)
/-- A session of the management port stands open. -/
def sessionOn : State := { on with sessions := [⟨9, BitVec.ofNat 128 (0xFE80 * 2 ^ 112 + 5), 0, 1, [], 0, []⟩] }
theorem wit_JobEntriesAreWritten_pieces : (∃ row, writableInPieces sessionOn (.hasowa 9 false) 0x9000 0x03 1040 table row) ∧
    ∃ row, writableInPieces sessionOn (.hasowa 9 false) 0x9200 0x01 2048 0 row := ⟨writableInPieces_of (by decide +kernel), writableInPieces_of (by decide +kernel)⟩
theorem test_tailRule : qGet (publishTail on 0 0 7) 0 0 5 = 7 ∧ qGet (publishTail on 0 0 257) 0 0 5 = 4 := by decide +kernel

/-- A channel whose record names a rank table of two packages, the first of them this one, its root; the other channels' records are all zero. -/
def twoPackages : Nat := 1 * 2 ^ 250 + 2 * 2 ^ 230 + 0x48000000 * 2 ^ 166 + 0x48010000 * 2 ^ 78 + 1 * 2 ^ 74 + 1 * 2 ^ 62
def bindable : State := withOd (memPut on 0x48000000 8 (0x40C9 + 7 * 2 ^ 32)) [(0x5000, 0x01, 0x40C9), (0x9103, 0x02, twoPackages)]
theorem wit_ChannelsAreBound : (∃ row, writable bindable (.mailbox false) (0x9100 + 3) 0x03 1 1 row) ∧ bindRefusal bindable 3 = 0 :=
  ⟨writable_of (by decide +kernel), by decide +kernel⟩
theorem test_channelBind : odGet (bindChan bindable 3) 0x9103 0x01 = 1 ∧ odGet (bindChan on 3) 0x9103 0x06 = 2 := by decide +kernel
theorem wit_ChannelsAreBound_refused : (∃ row, writable on (.mailbox false) (0x9100 + 3) 0x03 1 1 row) ∧ bindRefusal on 3 ≠ 0 :=
  ⟨writable_of (by decide +kernel), by decide +kernel⟩
theorem wit_ChannelsAreBound_unbind : ∃ row, writable on (.mailbox false) (0x9100 + 3) 0x03 1 0 row := writable_of (by decide +kernel)

theorem wit_SettingsAreWritten_number : ∃ row, writable on (.mailbox false) 0x5000 0x01 4 7 row := writable_of (by decide +kernel)
theorem wit_SettingsAreWritten_routes : (∃ row, writable on (.mailbox false) 0x5100 0x04 1 1 row) ∧ setRefusal on = none :=
  ⟨writable_of (by decide +kernel), by decide +kernel⟩
theorem wit_SettingsAreWritten_badRoutes : (∃ row, writable (withOd on [(0x5100, 0x01, 1)]) (.mailbox false) 0x5100 0x04 1 1 row) ∧
    setRefusal (withOd on [(0x5100, 0x01, 1)]) = some 2 := ⟨writable_of (by decide +kernel), by decide +kernel⟩
theorem wit_SettingsAreWritten_rekey : ∃ row, writable on (.mailbox false) 0x5300 0x03 2 5 row := writable_of (by decide +kernel)
theorem wit_SettingsAreWritten_enable : ∃ row, writable on (.mailbox false) (0x5200 + 2) 0x0C 1 0 row := writable_of (by decide +kernel)
theorem wit_SettingsAreWritten_emergency : ∃ row, writable on (.mailbox false) 0x2100 0x06 1 1 row := writable_of (by decide +kernel)
theorem wit_SettingsAreWritten_refresh : (∃ row, writable on (.mailbox false) 0xA002 0x05 1 1 row) ∧ calIndexes.contains 0xA002 = true :=
  ⟨writable_of (by decide +kernel), by decide +kernel⟩
theorem wit_SettingsAreWritten_snag : ∃ row, writable on (.mailbox false) 0x7000 0x02 32 5 row := writable_of (by decide +kernel)
theorem wit_SettingsAreWritten_counter : ∃ row, writable on (.mailbox false) 0x7400 0x01 4 0x2100000B row := writable_of (by decide +kernel)
theorem wit_SettingsAreWritten_dust : (∃ row, writable on (.mailbox false) 0x7A00 0x01 1 1 row) ∧ ∃ row, writable on (.mailbox false) 0x7A00 0x01 1 0 row :=
  ⟨writable_of (by decide +kernel), writable_of (by decide +kernel)⟩

/-- A driver attached; none yet, with the ROM at start-up step 4; an activation that waits. -/
def attachedOn : State := withOd on [(0x6100, 0x02, 1)]
def orphanOn : State := withOd stoppedOn [(0x6100, 0x02, 2)]
def loading : State := withOd { State.reset with vbulk := true, romRuns := true, linkUp := true } [(0x1100, 0x01, 4)]
def stagedOn : State := { on with staged := some [1] }
theorem wit_FirmwareRequestsAct_attach : (∃ row, writable on (.mailbox false) 0x8000 0x13 1 1 row) ∧ attachResult on (orphaned on) = 0 :=
  ⟨writable_of (by decide +kernel), by decide +kernel⟩
theorem wit_FirmwareRequestsAct_fresh : ∃ row, writable orphanOn (.mailbox false) 0x8000 0x13 1 2 row := writable_of (by decide +kernel)
theorem wit_FirmwareRequestsAct_detach : ∃ row, writable attachedOn (.mailbox false) 0x8000 0x13 1 3 row := writable_of (by decide +kernel)
theorem wit_FirmwareRequestsAct_load : ∃ row, writable loading (.mailbox false) 0x8000 0x07 1 1 row := writable_of (by decide +kernel)
theorem wit_FirmwareRequestsAct_stage : ∃ row, writable on (.mailbox false) 0x8000 0x07 1 2 row := writable_of (by decide +kernel)
theorem wit_FirmwareRequestsAct_activate : ∃ row, writable stagedOn (.mailbox false) 0x8000 0x09 1 1 row := writable_of (by decide +kernel)
theorem wit_FirmwareRequestsAct_cancel : (∃ row, writable (withOd stagedOn [(0x8000, 0x09, 1)]) (.mailbox false) 0x8000 0x09 1 0 row) ∧
    odGet (withOd stagedOn [(0x8000, 0x09, 1)]) 0x8000 0x09 = 1 := ⟨writable_of (by decide +kernel), by decide +kernel⟩
theorem wit_FirmwareRequestsAct_keyHash : ∃ row, writable on (.mailbox false) 0x8100 0x02 32 5 row := writable_of (by decide +kernel)
theorem wit_FirmwareRequestsAct_challenge : (∃ row, writable on (.mailbox false) 0x8200 0x03 32 5 row) ∧ on.sigIndex < 2 ^ 40 ∧ on.signing = none :=
  ⟨writable_of (by decide +kernel), by decide +kernel⟩
theorem wit_FirmwareRequestsAct_challengeBusy : (∃ row, writable { on with signing := some (.mailbox false, [], 5000) } (.mailbox false) 0x8200 0x03 32 5 row) ∧
    { on with signing := some (.mailbox false, [], 5000) }.signing.isSome = true := ⟨writable_of (by decide +kernel), rfl⟩
theorem wit_FirmwareRequestsAct_challengeSpent : (∃ row, writable { on with sigIndex := 2 ^ 40 } (.mailbox false) 0x8200 0x03 32 5 row) ∧
    2 ^ 40 ≤ { on with sigIndex := 2 ^ 40 }.sigIndex ∧ { on with sigIndex := 2 ^ 40 }.signing = none := ⟨writable_of (by decide +kernel), by decide +kernel⟩

theorem wit_ActivationsRun : odGet (withOd stagedOn [(0x8000, 0x09, 1)]) 0x8000 0x09 = 1 ∧ mustDefer (withOd stagedOn [(0x8000, 0x09, 1)]) = false ∧
    odGet (withOd stagedOn [(0x8000, 0x09, 2)]) 0x8000 0x09 = 2 ∧ odGet (withOd stagedOn [(0x8000, 0x09, 3)]) 0x8000 0x09 = 3 ∧
    (withOd stagedOn [(0x8000, 0x09, 3)]).waitingReqs = [] ∧ (withOd stagedOn [(0x8000, 0x09, 3)]).staged = some [1] := by decide +kernel
theorem test_blackout : (after (exec (.blackout 1500) (withOd stagedOn [(0x8000, 0x09, 3)]))).image = [1] ∧
    odGet (after (exec (.blackout 1500) (withOd stagedOn [(0x8000, 0x09, 3)]))) 0x8000 0x17 = 1500 ∧
    odGet (after (exec (.newImageStartTimeout 1500) (withOd stagedOn [(0x8000, 0x09, 3)]))) 0x8000 0x0B = 2 := by decide +kernel

/-! ### Authorized writes -/

/-- An AUTH WRITE that passes every check but those of rights and of its token: `authorizable`, computed. -/
def canAuthorize (s : State) (i sub : Nat) (value token : List Byte) : Bool :=
  match rowOf i sub with
  | none => false
  | some row => servedNow s (.mailbox false) && odPresent i && accessOk row (authReq i sub value token) &&
      decide (value.length + token.length ≤ 16368) && (if row.pieces then decide (value.length ≤ min 1048576 row.size) else decide (value.length = row.size)) && available s i &&
      rangeOk s row i sub (leNat value) value.length && stateOk s i sub (leNat value)

theorem authorizable_of {s : State} {i sub : Nat} {value token : List Byte} (h : canAuthorize s i sub value token = true) :
    ∃ row, authorizable s (.mailbox false) i sub value token row := by
  unfold canAuthorize at h
  split at h
  · simp at h
  · next row hr =>
    refine ⟨row, ?_⟩
    simp only [Bool.and_eq_true] at h
    obtain ⟨⟨⟨⟨⟨⟨⟨h1, h2⟩, h3⟩, h0⟩, h4⟩, h5⟩, h7⟩, h8⟩ := h
    refine ⟨h1, h2, hr, h3, of_decide_eq_true h0, ?_, h5, h7, h8⟩
    split at h4 <;> simp_all

theorem wit_AuthorizedWritesAct_retire : (∃ row, authorizable on (.mailbox false) 0x4000 0x09 (leBytes 1 5) [] row) ∧ ∀ m ∈ on.sends, m.waiting = false :=
  ⟨authorizable_of (by decide +kernel), by decide +kernel⟩
theorem wit_AuthorizedWritesAct_fence : (∃ row, authorizable on (.mailbox false) 0x7200 0x09 (leBytes 1 0) [] row) ∧
    (∀ x, on.testing = some (0, some x) → x ≠ 0) := ⟨authorizable_of (by decide +kernel), by
  intro x h; simp [show on.testing = none by decide +kernel] at h⟩
theorem wit_AuthorizedWritesAct_unfence : ∃ row, authorizable (withOd on [(0x3005, 0x01, 3)]) (.mailbox false) 0x7200 0x0A (leBytes 1 5) [] row :=
  authorizable_of (by decide +kernel)
theorem wit_AuthorizedWritesAct_pattern : ∃ row, authorizable on (.mailbox false) 0x7200 0x0F [1, 2, 3] [] row := authorizable_of (by decide +kernel)
theorem wit_AuthorizedWritesAct_clear : (∃ row, authorizable on (.mailbox false) 0x7A00 0x03 [] [] row) ∧ on.dust = false :=
  ⟨authorizable_of (by decide +kernel), by decide +kernel⟩
theorem wit_AuthorizedWritesAct_clearHeld : ∃ row, authorizable { on with dust := true } (.mailbox false) 0x7A00 0x03 [] [] row :=
  authorizable_of (by decide +kernel)
theorem wit_AuthorizedWritesAct_lock : ∃ row, authorizable on (.mailbox false) 0x8100 0x04 (leBytes 1 0) [] row := authorizable_of (by decide +kernel)
theorem wit_AuthorizedWritesAct_lane : ∃ row, authorizable on (.mailbox false) (0x3800 + 2) 0x08 (leBytes 1 9) [] row := authorizable_of (by decide +kernel)
/-- An AUTH WRITE without a token is refused and changes no count of them. -/
theorem test_noToken : tokenOk on 0x8100 0x04 (leBytes 1 0) [] = false := by
  simp [tokenOk, tokenBytes]

/-! ### The security version -/

/-- An image of security version 3 runs; a token of that AUTH WRITE, for the package with serial number 5, whose value hashes to 9. -/
def version3 : State := withOd on [(0x8000, 0x04, 3), (0x8100, 0x02, 5), (0x8100, 0x05, 1)]
def token3 : List Byte := leBytes 2 1 ++ leBytes 2 7 ++ leBytes 2 0x8000 ++ leBytes 2 0x0C ++ leBytes 8 5 ++ leBytes 8 0 ++ leBytes 8 0 ++ leBytes 32 9 ++
  List.replicate 2888 0
theorem wit_CommitRaisesTheSecurityVersion : ∃ row, authorizable version3 (.mailbox false) 0x8000 0x0C (leBytes 1 3) token3 row ∧
    (Config.rightsPolicy 8 = 0x11 → rightsOk version3 (.mailbox false) (authReq 0x8000 0x0C (leBytes 1 3) token3) row true = true) := by
  obtain ⟨row, h⟩ := authorizable_of (s := version3) (i := 0x8000) (sub := 0x0C) (value := leBytes 1 3) (token := token3) (by decide +kernel)
  refine ⟨row, h, fun hp => ?_⟩
  have hr : row.cls = ((rowOf 0x8000 0x0C).getD row).cls := by simp [h.2.2.1]
  have hc : (rowOf 0x8000 0x0C).map (fun r => bits 0x11 0 4 &&& r.cls &&& 1) = some 1 := by decide +kernel
  rw [h.2.2.1] at hc
  have hc' : bits 0x11 0 4 &&& row.cls &&& 1 = 1 := by simpa using hc
  simp [rightsOk, claimsDebug, authReq, classMask, policyClasses, classOf, hp, hc']
theorem wit_CommitRaisesTheSecurityVersion_token (h1 : Config.serial % 2 ^ 64 = 5) (h2 : Config.shake256 (leBytes 1 3) = 9)
    (h3 : Config.shake256 (imgBytes token3 0x40 68) = 5) (h4 : Config.xmssVerify (imgBytes token3 0x40 68) (imgBytes token3 0 0x84) (imgBytes token3 0x84 2820) = true) :
    tokenOk version3 0x8000 0x0C (leBytes 1 3) token3 = true := by
  simp only [tokenOk, h1, h2, h3, h4]
  decide +kernel
theorem wit_CommitRaisesTheSecurityVersion_image : imgSvn [] < odGet version3 0x8100 0x05 := by decide +kernel

/-! ### Requests and the management paths -/

/-- A READ that passes every check but that of rights: `readable`, computed; with what the row says of pieces. -/
def canRead (s : State) (r : OdReq) (pieces : Bool) : Bool :=
  match rowOf r.index r.sub with
  | none => false
  | some row => servedNow s (.mailbox false) && odPresent r.index && accessOk row (withOp r 0) && !malformed (.mailbox false) (withOp r 0) && available s r.index &&
      (row.pieces || (decide (r.offset = 0) && decide (r.length = row.size))) && (row.pieces == pieces)

theorem readable_of {s : State} {r : OdReq} {b : Bool} (h : canRead s r b = true) :
    ∃ row, readable s (.mailbox false) r row ∧ row.pieces = b := by
  unfold canRead at h
  split at h
  · simp at h
  · next row hr =>
    simp only [Bool.and_eq_true, Bool.not_eq_true', Bool.or_eq_true, beq_iff_eq, decide_eq_true_eq] at h
    obtain ⟨⟨⟨⟨⟨⟨h1, h2⟩, h3⟩, h4⟩, h5⟩, h6⟩, h7⟩ := h
    refine ⟨row, ⟨h1, h2, hr, h3, h4, h5, fun hp => ?_⟩, h7⟩
    rcases h6 with h6 | h6
    · simp [hp] at h6
    · exact h6

theorem wit_RequestsAreAnswered_read : servedNow on (.mailbox false) = true ∧ ∃ row, readable on (.mailbox false) (readReq 0x2100 0x01 2) row ∧ row.pieces = false :=
  ⟨by decide +kernel, readable_of (by decide +kernel)⟩
theorem wit_RequestsAreAnswered_record : ∃ row, readable on (.mailbox false) (readReq 0x7A00 0x06 64) row ∧ row.pieces = true := readable_of (by decide +kernel)
theorem wit_RequestsAreAnswered_archive : ∃ row, readable on (.mailbox false) (readReq 0x7A10 0x02 64) row ∧ row.pieces = true := readable_of (by decide +kernel)
theorem wit_RequestsAreAnswered_meta : odPresent 0x2100 = true ∧ (rowOf 0x2100 0x01).isSome = true ∧ malformed (.mailbox false) (withOp (readReq 0x2100 0x01 0) 2) = false ∧
    available on 0x2100 = true := by decide +kernel
theorem wit_RequestsAreAnswered_write : ∃ row, writable on (.mailbox false) 0x6100 0x01 4 5000 row := writable_of (by decide +kernel)
theorem wit_RequestsAreAnswered_page : pageState on 0 ≠ 1 ∧ servedNow on (.job 0 false) = true := by decide +kernel
def session : Session := ⟨4, BitVec.ofNat 128 (0x3FA * 2 ^ 118 + 1), 10, 0, [], 10, [.returnCode false]⟩
def inSession : State := { on with sessions := [session] }
theorem wit_RequestsAreAnswered_session : servedNow inSession (.hasowa 4 false) = true ∧ permitted inSession session.source = true ∧
    findSession inSession 4 = some session ∧ later32 (11 % 2 ^ 32) session.lastSeq = true ∧ 11 % 2 ^ 32 ≠ session.served ∧
    10 % 2 ^ 32 = session.served ∧ session.stored ≠ [] := by decide +kernel
/-- A REQUEST datagram addressed to this package. -/
def toUs : HasowaHead := ⟨1, 0, 50311, linkLocal⟩
theorem wit_RequestsAreAnswered_head : inSession.romRuns = true ∧ holdsRequests inSession = false ∧ isRequest 4 toUs = true :=
  ⟨by decide +kernel, by decide +kernel, by simp [isRequest, toUs]⟩
/-- A datagram for another address opens no session. -/
theorem test_otherAddress : isRequest 4 { toUs with kind := 1 } = false ∧ isRequest 0 toUs = false ∧ isRequest 4 { toUs with port := 50312 } = false := by
  simp [isRequest, toUs]

theorem wit_ManagementPathsRun : answered on (.mailbox false) = true ∧ ¬ (0xC000 ≤ 0xC004 ∧ 0xC004 ≤ 0xC003) ∧
    (getReq { on with requesters := [⟨.mailbox false, none, some (0, [1]), 0, [], 0, []⟩], uptime := 10 ^ 12 } (.mailbox false)).staged.isSome = true ∧
    findSession inSession 4 = some session ∧ session.seenAt + 60000 * msTicks ≤ ({ inSession with uptime := 10 ^ 13 }).uptime ∧ on.romRuns = true ∧ on.linkUp = true ∧
    10000 * msTicks ≤ 10 ^ 12 ∧ odGet (withOd on [(0x6800, 0x01, 1)]) 0x6800 0x01 = 1 ∧ odGet (withOd on [(0x6800, 0x01, 2)]) 0x6800 0x01 = 2 := by decide +kernel
theorem wit_ManagementPathsRun_before : on.uptime < (getReq on (.mailbox false)).stagedAt + 10000 * msTicks ∧
    (∀ x, findSession inSession 4 = some x → inSession.uptime < x.seenAt + 60000 * msTicks) ∧
    odGet (withOd on [(0x6800, 0x01, 2)]) 0x6800 0x01 ≠ 1 ∧ odGet (withOd on [(0x6800, 0x01, 1)]) 0x6800 0x01 ≠ 2 := by
  refine ⟨by decide +kernel, fun x h => ?_, by decide +kernel⟩
  rw [show findSession inSession 4 = some session from by decide +kernel] at h
  cases h
  decide +kernel
theorem test_beaconLoss : odGet (after (exec .beaconLoss (withOd on [(0x6800, 0x01, 1)]))) 0x6800 0x05 = 1 ∧
    odGet (after (exec .beaconReturn (withOd on [(0x6800, 0x01, 2)]))) 0x6800 0x01 = 1 := by decide +kernel
theorem wit_ManagementPathsRun_bar : on.linkUp = true ∧ hdmControlAt % 4 = 0 ∧ 0x10000 ≤ hdmControlAt ∧ hdmControlAt < 0x11000 ∧
    (0x20000 : Nat) % 4 = 0 ∧ (0x203FC : Nat) < 0x20400 := by
  refine ⟨by decide +kernel, ?_, ?_, ?_, by decide, by decide⟩ <;> (unfold hdmControlAt; omega)
/-- A vector's control word: masked until the host clears it (R493). -/
theorem test_barWrite : barRead0 on 0x2000C = 1 ∧ barRead0 (after (exec (.hotWindowWrite 0x2000C 4 0) on)) 0x2000C = 0 := by decide +kernel
theorem test_hotWindow : odGet (after (exec (.hotWindowWrite 0 4 7) on)) 0x6200 0x02 = 1 := by decide +kernel
theorem test_unsupportedOpcode : (after (exec (.unsupportedMailboxOpcode 0x1234) on)).out = [.returnCode true] := by decide +kernel

/-! ### Collectives -/

/-- Channel 3 of two packages, this one at a rank and package 5 at the other; rank 1 of it has the backup 9. -/
def channel (rank : Nat) (run : Option Coll) (landed : List Nat) : Chan :=
  ⟨3, twoPackages + rank * 2 ^ 210 + 10 * 2 ^ 41 + 10 * 2 ^ 25, if rank = 0 then [0x40C9, 5] else [5, 0x40C9], [0, 1], [(1, 9)], [], landed, [], [], run, false⟩
def bound (k : Chan) (l : List Cmd) : State := { numberedOn with chans := [k], cmds := l }
def reduceWord (mode count side : Nat) : CmdWord := word [(0, 0xB0), (104, 3), (110, mode), (117, count), (145, 0x50000), (177, 0x51000), (209, side)]
def gatherWord (count : Nat) : CmdWord := word [(0, 0xB1), (104, 3), (110, 1), (114, 1), (118, count), (146, 0x50000), (178, 0x52000)]
def permuteWord (pages stage : Nat) : CmdWord := word [(0, 0xB2), (104, 3), (110, pages), (130, 0x53000), (162, stage), (174, 2)]
def collCmd (stage : Stage) (w : CmdWord) : Cmd := { Cmd.fresh 0 0 0 w with stage := stage }
def coll (kind : Nat) (w : CmdWord) (sent : List Nat) (staged : Nat) : Coll := ⟨kind, 0, 0, 0, w, 0, 0, 0, false, 0, sent, staged, false, 0, false, false⟩

def reduceLeaf : State := bound (channel 1 none []) [collCmd .admitted (reduceWord 2 4 0)]
def reduceBad : State := bound (channel 1 none []) [collCmd .admitted (reduceWord 0 4 0)]
theorem wit_CollectivesRun_reduce : collJob reduceLeaf 0 0 0xB0 = some (collCmd .admitted (reduceWord 2 4 0), channel 1 none [], true) ∧
    rdMODE (reduceWord 2 4 0) = 2 ∧ (channel 1 none []).root reduceLeaf = false ∧ 0 < chunkCount (reduceWord 2 4 0) ∧
    collJob reduceBad 0 0 0xB0 = some (collCmd .admitted (reduceWord 0 4 0), channel 1 none [], true) ∧ rdMODE (reduceWord 0 4 0) ≠ 2 ∧
    badSide reduceBad (reduceWord 0 4 0) = true := by decide +kernel
def driving (kind : Nat) (w : CmdWord) (sent : List Nat) (staged : Nat) (landed : List Nat) : Chan := channel 1 (some (coll kind w sent staged)) landed
theorem wit_CollectivesRun_drives : (bound (driving 0 (reduceWord 2 4 0) [] 0 [0]) [collCmd .parked (reduceWord 2 4 0)]).Sound ∧
    drives (bound (driving 0 (reduceWord 2 4 0) [] 0 [0]) [collCmd .parked (reduceWord 2 4 0)]) 0 0 0xB0 (collCmd .parked (reduceWord 2 4 0))
      (driving 0 (reduceWord 2 4 0) [] 0 [0]) (coll 0 (reduceWord 2 4 0) [] 0) ∧
    (driving 0 (reduceWord 2 4 0) [] 0 [0]).root (bound (driving 0 (reduceWord 2 4 0) [] 0 [0]) []) = false ∧
    (driving 0 (reduceWord 2 4 0) [] 0 [0]).backup (bound (driving 0 (reduceWord 2 4 0) [] 0 [0]) []) = false ∧ chunkCount (reduceWord 2 4 0) = 1 :=
  ⟨sound_of (by decide +kernel), by unfold drives; decide +kernel⟩
theorem wit_CollectivesRun_gather :
    drives (bound (driving 1 (gatherWord 4) [0] 0 [0]) [collCmd .parked (gatherWord 4)]) 0 0 0xB1 (collCmd .parked (gatherWord 4))
      (driving 1 (gatherWord 4) [0] 0 [0]) (coll 1 (gatherWord 4) [0] 0) ∧ gaMsgs (gatherWord 4) = 1 := by unfold drives; decide +kernel
theorem wit_CollectivesRun_permute :
    drives (bound (driving 2 (permuteWord 1 0) [0] 1 [0]) [collCmd .parked (permuteWord 1 0)]) 0 0 0xB2 (collCmd .parked (permuteWord 1 0))
      (driving 2 (permuteWord 1 0) [0] 1 [0]) (coll 2 (permuteWord 1 0) [0] 1) ∧ pePieces (permuteWord 1 0) = 1 ∧ peAllMsgs (permuteWord 1 0) = 1 ∧
    piecesOut (bound (driving 2 (permuteWord 1 0) [0] 1 [0]) [collCmd .parked (permuteWord 1 0)]) (driving 2 (permuteWord 1 0) [0] 1 [0]) = false ∧
    outstanding (bound (driving 1 (gatherWord 4) [0] 0 [0]) [collCmd .parked (gatherWord 4)]) (driving 1 (gatherWord 4) [0] 0 [0]) = [] ∧
    outstanding (bound (driving 0 (reduceWord 2 4 0) [] 0 [0]) [collCmd .parked (reduceWord 2 4 0)]) (driving 0 (reduceWord 2 4 0) [] 0 [0]) = [] := by
  unfold drives; decide +kernel
theorem wit_CollectivesRun_self : collJob (bound (channel 1 none []) [collCmd .admitted (permuteWord 1 0)]) 0 0 0xB2 =
      some (collCmd .admitted (permuteWord 1 0), channel 1 none [], true) ∧
    inMemory (bound (channel 1 none []) []) (scr 0 (peSTAGE (permuteWord 1 0))) (2 * pePiece (permuteWord 1 0)) = true ∧
    peTo (bound (channel 1 none []) []) (channel 1 none []) = (channel 1 none []).rank (bound (channel 1 none []) []) := by decide +kernel
def running (up : Nat) : State := { bound (channel 0 (some (coll 0 (reduceWord 0 4 0) [] 0)) []) [collCmd .parked (reduceWord 0 4 0)] with uptime := up }
def runningChan : Chan := channel 0 (some (coll 0 (reduceWord 0 4 0) [] 0)) []
theorem wit_CollectivesRun_limits : getChan (running 1000) 3 = some runningChan ∧ runningChan.child (running 1000) false = some 1 ∧
    runningChan.child (running 1000) true = none ∧ (runningChan.backupOf 1).isSome = true ∧ crLATE (runningChan.crec (running 1000)) = 10 ∧
    0 + 10 * 100 ≤ (running 1000).uptime ∧ crCLIM (runningChan.crec (running 1000000)) = 10 ∧ 0 + 10 * 100000 ≤ (running 1000000).uptime ∧
    findCmd (running 1000000) 0 0 0 = some (collCmd .parked (reduceWord 0 4 0)) := by decide +kernel
theorem wit_CollectivesRun_fits : collFits (running 1000) runningChan (coll 0 (reduceWord 0 4 0) [] 0) := by
  intro c hc
  have h1 : chunkCount (coll 0 (reduceWord 0 4 0) [] 0).word = 1 := by decide +kernel
  obtain rfl : c = 0 := by omega
  exact (by decide +kernel : ∀ x ∈ chunkReads (running 1000) runningChan (coll 0 (reduceWord 0 4 0) [] 0) 0 ++
    formRanges (running 1000) runningChan (coll 0 (reduceWord 0 4 0) [] 0) 0, inMemory (running 1000) x.1 x.2 = true ∧ sealedRange (running 1000) x.1 x.2 = false)
theorem test_lateLimit : ((after (exec (.lateLimit 3 0 false) (running 1000))).chans.map (fun x => (getChunk x 0).lateL)) = [true] ∧
    ((after (exec (.lateLimit 3 0 false) (running 999))).chans.map (fun x => (getChunk x 0).lateL)) = [false] := by decide +kernel
theorem test_reduceCompletes : odGet (after (exec (.reduce 0 0) (bound (driving 0 (reduceWord 2 4 0) [] 0 [0]) [collCmd .parked (reduceWord 2 4 0)]))) 0x9103 0x05 = 1 := by
  decide +kernel

/-- A collective message of package 5 for channel 3, of serial 0. -/
def collMessage (kind off arg arg2 : Nat) (crc : Nat) : RecvCtx :=
  ⟨5, 9, [{ Packet.blank with
    daddr := seres 0x40C9 off, spkg := 5, msgid := 9, kind := kind, vc := 4, chan := 3, arg := arg, arg2 := arg2, len := 4, tail := true, tflit := 2,
    payload := [1, 2, 3, 4], mcrc := crc }], 0⟩
def arriving (k : Chan) (m : RecvCtx) : State := { bound k [] with recvs := [m] }
theorem wit_CollectiveMessagesLand_crc : (∀ kind ∈ [3, 4, 5, 6], readyRecv (arriving (channel 1 none []) (collMessage kind 0 0 0 0)) 5 9 kind = some (collMessage kind 0 0 0 0) ∧
    recvCrcOk (collMessage kind 0 0 0 0) = false) ∧ (arriving (channel 1 none []) (collMessage 3 0 0 0 0)).sends = [] := by decide +kernel
def upMessage : RecvCtx := collMessage 3 0x48020000 0 0 goodCrc
theorem wit_CollectiveMessagesLand_early : (arriving (channel 0 none []) upMessage).Sound ∧ collReady (arriving (channel 0 none []) upMessage) 5 9 3 upMessage (channel 0 none []) ∧
    acceptColl (arriving (channel 0 none []) upMessage) (channel 0 none []) (recvHead upMessage) 0 = .early ∧
    senderArea (arriving (channel 0 none []) upMessage) (channel 0 none []) 5 (bitOf (recvHead upMessage).arg2 30) = some 1 ∧
    seresOff (recvHead upMessage).daddr = areaAt ((channel 0 none []).crec (arriving (channel 0 none []) upMessage)) 0 1 ∧
    getChunk (channel 0 none []) 0 = ⟨0, [], none, none, false, false, 0, false, 0⟩ ∧
    slotTaken (arriving (channel 0 none []) upMessage) (channel 0 none []) 0 = false ∧ (recvPayload upMessage).length % 4 = 0 :=
  ⟨sound_of (by decide +kernel), by unfold collReady; decide +kernel⟩
def downMessage : RecvCtx := collMessage 4 0x51000000 0 0 goodCrc
def downChan : Chan := channel 1 (some (coll 0 (reduceWord 2 16385 0) [] 0)) []
theorem wit_CollectiveMessagesLand_down : (arriving downChan downMessage).Sound ∧ collReady (arriving downChan downMessage) 5 9 4 downMessage downChan ∧
    acceptColl (arriving downChan downMessage) downChan (recvHead downMessage) 0 = .run (coll 0 (reduceWord 2 16385 0) [] 0) ∧
    downChan.parent (arriving downChan downMessage) = some (downChan.ranks.findIdx (· == 5)) ∧ downChan.child (arriving downChan downMessage) false = none ∧
    downChan.child (arriving downChan downMessage) true = none ∧ rdVERD (reduceWord 2 16385 0) = false ∧ chunkCount (reduceWord 2 16385 0) = 2 ∧
    seresOff (recvHead downMessage).daddr = rdDST (reduceWord 2 16385 0) + 0 * 65536 := ⟨sound_of (by decide +kernel), by unfold collReady; decide +kernel⟩
def gatherMessage : RecvCtx := collMessage 5 (0x52000000 + 2097152) 0 (1 * 2 ^ 16) goodCrc
def gatherChan : Chan := channel 0 (some (coll 1 (gatherWord 1048576) [0, 1] 0)) []
theorem wit_CollectiveMessagesLand_gather : (arriving gatherChan gatherMessage).Sound ∧ collReady (arriving gatherChan gatherMessage) 5 9 5 gatherMessage gatherChan ∧
    acceptColl (arriving gatherChan gatherMessage) gatherChan (recvHead gatherMessage) 1 = .run (coll 1 (gatherWord 1048576) [0, 1] 0) ∧
    bits (recvHead gatherMessage).arg2 16 20 = 1 ∧ gatherChan.pkgOf 1 = 5 ∧ gatherChan.rank (arriving gatherChan gatherMessage) = 0 ∧
    0 + (recvPayload gatherMessage).length ≤ gaElems (gatherWord 1048576) ∧ (recvHead gatherMessage).len = (recvPayload gatherMessage).length ∧
    0 + (recvPayload gatherMessage).length ≤ gaWire (gatherWord 1048576) ∧ seresOff (recvHead gatherMessage).daddr = gaLand (gatherWord 1048576) 1 ∧
    gaWFMT (gatherWord 1048576) = gaCFMT (gatherWord 1048576) ∧ isMX (gaWFMT (gatherWord 1048576)) = false ∧ gaMsgs (gatherWord 1048576) = 2 :=
  ⟨sound_of (by decide +kernel), by unfold collReady; decide +kernel⟩
def permuteMessage : RecvCtx := collMessage 6 0x53000000 0 0 goodCrc
def permuteChan : Chan := channel 1 (some (coll 2 (permuteWord 2 0) [0, 1] 2)) []
theorem wit_CollectiveMessagesLand_permute : (arriving permuteChan permuteMessage).Sound ∧ collReady (arriving permuteChan permuteMessage) 5 9 6 permuteMessage permuteChan ∧
    acceptColl (arriving permuteChan permuteMessage) permuteChan (recvHead permuteMessage) 2 = .run (coll 2 (permuteWord 2 0) [0, 1] 2) ∧
    bitOf (recvHead permuteMessage).arg2 48 = false ∧ pePieces (permuteWord 2 0) = 2 ∧ peMsgs (permuteWord 2 0) 0 = 1 ∧ peAllMsgs (permuteWord 2 0) = 2 ∧
    seresOff (recvHead permuteMessage).daddr = peBASE (permuteWord 2 0) + 0 * pePiece (permuteWord 2 0) := ⟨sound_of (by decide +kernel), by unfold collReady; decide +kernel⟩
theorem wit_CollectiveMessagesLand_places : peerWritable (arriving (channel 0 none []) upMessage) (seresOff (recvHead upMessage).daddr) 4 = true ∧
    (recvHead upMessage).len = 4 ∧ peerWritable (arriving downChan downMessage) (seresOff (recvHead downMessage).daddr) (recvHead downMessage).len = true ∧
    peerWritable (arriving gatherChan gatherMessage) (gaLand (gatherWord 1048576) 1) (imageSize (gaCFMT (gatherWord 1048576)) (gaCOUNT (gatherWord 1048576))) = true ∧
    peerWritable (arriving permuteChan permuteMessage) (seresOff (recvHead permuteMessage).daddr) (recvHead permuteMessage).len = true := by decide +kernel
theorem test_reduceUp : memRead (after (exec (.reduceUp 5 9 0) (arriving (channel 0 none []) upMessage))) 0x48020000 4 = [1, 2, 3, 4] := by decide +kernel
theorem test_gatherMessage : memRead (after (exec (.gatherMessage 5 9) (arriving gatherChan gatherMessage))) (0x52000000 + 2097152) 4 = [1, 2, 3, 4] := by decide +kernel

/-! ### Stack memory and the die links -/

def hardSector : Nat := 0x40000000 / 64
def pendingOn : State := { on with slots := [(5, 3 * 2 ^ 8 + 2 ^ 31 + 7 * 2 ^ 26 + 9 * 2 ^ 21)] }
def retiring : State := { on with retires := [⟨4, 0, false, true⟩] }
theorem wit_StacksAndModulesRecover_scrub : bulkOn on = true ∧ hardSector * 64 < capacity on ∧ (sectorPlace on hardSector).stack < 24 ∧
    slotMst on (sectorPlace on hardSector).slot = 0 ∧ stackState on (sectorPlace on hardSector).stack ≠ 3 ∧ sectorBad on hardSector = false ∧
    recentReads on 0 (sectorPlace on hardSector).stack none + 1 < odGet on 0x4000 0x0A := by decide +kernel
theorem wit_StacksAndModulesRecover_sealed : bulkOn on = true ∧ stackState on 4 = 0 ∧ on.retirements < 2 ∧ 2 ≤ ({ on with retirements := 2 }).retirements ∧
    stackState { on with retirements := 2 } 4 = 0 ∧ (∀ m ∈ on.sends, m.waiting = false) := by decide +kernel
theorem wit_StacksAndModulesRecover_slot : pendingOn.Sound ∧ pendingSlot pendingOn = some (5, 3 * 2 ^ 8 + 2 ^ 31 + 7 * 2 ^ 26 + 9 * 2 ^ 21) ∧
    bits (3 * 2 ^ 8 + 2 ^ 31 + 7 * 2 ^ 26 + 9 * 2 ^ 21) 8 2 = 3 ∧ bulkOn pendingOn = true := ⟨sound_of (by decide +kernel), by decide +kernel⟩
/-- A live slot in relocation whose row 40 proves uncorrectable. -/
def movingOn : State := { on with slots := [(5, 2 * 2 ^ 8 + 2 ^ 31 + 7 * 2 ^ 26 + 9 * 2 ^ 21)], rowPtr := 32 }
theorem wit_StacksAndModulesRecover_badRow : movingOn.Sound ∧ pendingSlot movingOn = some (5, 2 * 2 ^ 8 + 2 ^ 31 + 7 * 2 ^ 26 + 9 * 2 ^ 21) ∧
    bits (2 * 2 ^ 8 + 2 ^ 31 + 7 * 2 ^ 26 + 9 * 2 ^ 21) 8 2 ≠ 3 ∧ movingOn.rowPtr ≤ 40 ∧ 40 < movingOn.rowPtr + 16 ∧
    recentReads movingOn 0 (sectorPlace movingOn (cellGranule 5 7 40 * 8)).stack none + 1 < odGet movingOn 0x4000 0x0A :=
  ⟨sound_of (by decide +kernel), by decide +kernel⟩
theorem wit_StacksAndModulesRecover_complete : retiring.retires.find? (·.step3) = some ⟨4, 0, false, true⟩ ∧ pendingSlot retiring = none ∧
    (∀ x ∈ retiring.retires, x.step3 = true) := by decide +kernel
theorem wit_StacksAndModulesRecover_module : rbWidth (roleByte on 2 5) = 0 ∧ bitOf (odGet on (0x3900 + modKey 2 5) 0x02) 63 = false ∧
    (∀ f ∈ on.flashLanes, f.1 ≠ modKey 2 5) ∧ ({ on with retraining := [modKey 2 5] }).retraining.contains (modKey 2 5) = true := by decide +kernel
theorem test_scrub : odGet (after (exec (.patrolScrub hardSector .corrected false) on)) (0x4100 + (sectorPlace on hardSector).stack) 0x02 = 1 ∧
    (after (exec (.patrolScrub hardSector (.uncorrectable 7) false) on)).poison = [hardSector] := by decide +kernel
theorem test_retirementComplete : stackState (after (exec .retirementComplete retiring)) 4 = 2 ∧ (after (exec .retirementComplete retiring)).retires = [] := by
  decide +kernel
/-- A sealed slot's rows from the pointer on are lost, and its last row settles it; short of that the pointer moves on (R265). -/
theorem test_slotRelocation : slotMst (after (exec (.slotRelocation ⟨2 ^ 15, []⟩) pendingOn)) 5 = 0 ∧
    (after (exec (.slotRelocation ⟨2 ^ 15, []⟩) pendingOn)).lostCells = [(5 * 24 + 7, 1)] ∧ slotMst (after (exec (.slotRelocation ⟨100, []⟩) pendingOn)) 5 = 3 ∧
    (after (exec (.slotRelocation ⟨100, []⟩) pendingOn)).rowPtr = 100 := by decide +kernel
theorem test_laneFailure : (after (exec (.laneFailure 2 5 [63]) on)).flashLanes = [(modKey 2 5, 63)] ∧
    roleByte (after (exec (.laneFailure 2 5 [63]) on)) 2 5 % 8 = 1 := by decide +kernel

/-! ### Fibre ports -/

/-- Port 2 lit in a state, with what it holds; the port numbers of the others are dark. -/
def port2 (st : Nat) (v : Port) : State := withOd (putPort numberedOn 2 v) [(0x5202, 0x01, st), (0x5202, 0x0C, 1)]
def started (s : State) : State := withOd { s with vhtr := true } [(0x1100, 0x01, 9)]
/-- The far end that the plan names for port 2, and one that nothing names; 64 echoes of 1 us. -/
def planned (far : Nat × Nat × Nat × Nat) : State :=
  withOd (port2 2 { lit with far := some far, echoes := (List.range 64).map (fun k => (k, 1000000)) }) [(0x5300, 0x01, (2 ^ 31 + 5 + 3 * 2 ^ 20) * 2 ^ 64)]

theorem wit_PortsFollowTheirLight_off : bulkOn { on with aonUp := false } = false := by decide +kernel
theorem wit_PortsFollowTheirLight_lost : bulkOn (port2 3 { Port.reset with laser := true }) = true ∧ (port2 3 { Port.reset with laser := true }).Sound ∧ (getPort (port2 3 { Port.reset with laser := true }) 2).laser = true ∧
    (1500 : Int) < 1600 ∧ startStep (started (port2 0 Port.reset)) = 9 ∧ portState (started (port2 0 Port.reset)) 2 = 0 ∧
    portEnabled (started (port2 0 Port.reset)) 2 = true ∧ (started (port2 0 Port.reset)).vhtr = true := ⟨by decide +kernel, sound_of (by decide +kernel), by decide +kernel⟩
theorem wit_PortsFollowTheirLight_receive : (port2 4 { Port.reset with riLost := true }).Sound ∧ (getPort (port2 4 { Port.reset with riLost := true }) 2).riLost = true ∧
    portState (port2 4 { Port.reset with riLost := true }) 2 = 4 ∧ (-501 : Int) < -500 ∧
    bulkOn (port2 4 { Port.reset with riLost := true }) = true := ⟨sound_of (by decide +kernel), by decide +kernel⟩
theorem wit_PortsFollowTheirLight_keying : portState (planned (5, 3, 0, 0)) 2 = 2 ∧ (getPort (planned (5, 3, 0, 0)) 2).far = some (5, 3, 0, 0) ∧
    64 ≤ (getPort (planned (5, 3, 0, 0)) 2).echoes.length ∧ hasNumber (planned (5, 3, 0, 0)) = true ∧ planMatches (planned (5, 3, 0, 0)) 2 (5, 3, 0, 0) = true ∧
    planMatches (planned (6, 3, 0, 0)) 2 (6, 3, 0, 0) = false ∧ swappedTo (planned (6, 3, 0, 0)) 2 (6, 3, 0, 0) = none ∧
    enoughLanes (planned (5, 3, 0, 0)) 2 = true ∧ enoughLanes (port2 2 Port.reset) 2 = false := by decide +kernel
theorem wit_PortsFollowTheirLight_dark : portState (port2 2 Port.reset) 2 = 2 ∧ (getPort (port2 2 Port.reset) 2).far = none ∧
    portState (withOd (started (port2 0 { Port.reset with laser := true })) [(0x5310, 0x01, 4 * 2 ^ (128 + 60))]) 2 = 0 ∧
    bits (keyEntry (withOd (started (port2 0 { Port.reset with laser := true })) [(0x5310, 0x01, 4 * 2 ^ (128 + 60))]) 2) 60 4 = 4 ∧
    (getPort (withOd (started (port2 0 { Port.reset with laser := true })) [(0x5310, 0x01, 4 * 2 ^ (128 + 60))]) 2).laser = true := by decide +kernel
theorem test_keying : portState (after (exec (.keying 2) (planned (5, 3, 0, 0)))) 2 = 3 ∧
    odGet (after (exec (.keying 2) (planned (5, 3, 0, 0)))) 0x5202 0x03 = 1000000 ∧
    odGet (after (exec (.keying 2) (planned (5, 3, 0, 0)))) 0x5202 0x04 = 716800 := by decide +kernel
theorem test_laserLost : portState (after (exec (.laserLost 2 1599) (port2 3 { Port.reset with laser := true }))) 2 = 0 ∧
    portState (after (exec (.laserLost 2 1600) (port2 3 { Port.reset with laser := true }))) 2 = 3 := by decide +kernel

/-! ### Rings, control words and monitors -/

def ringed (st : Nat) : State := port2 1 { Port.reset with rx := List.replicate 18 ⟨st, 20000, 0, false, false⟩ }
def lineless : State := port2 1 { Port.reset with rx := (List.replicate 18 Ring.off).set 4 ⟨1, 20000, 0, false, false⟩, tx := List.replicate 18 ⟨2, 20000, 0, false, false⟩ }
theorem wit_RingsAndControlWords_sweep : ringIs lineless 2 false 4 ⟨1, 20000, 0, false, false⟩ ∧ sweepTurn lineless 2 false 4 true = true ∧ sweepTurn lineless 2 false 4 false = false ∧
    ringIs (ringed 2) 2 false 17 ⟨2, 20000, 0, false, false⟩ ∧ ringIs (ringed 3) 2 false 0 ⟨3, 20000, 0, false, false⟩ := by unfold ringIs; decide +kernel
/-- A sweep that meets lines 16 and 17, after the gap of three spacings lines 0 to 17 from 7.6 mW on, and lines 0 to 5 after the next (R319, R329). -/
def sweepPeaks : List Nat := [1200, 2800] ++ (List.range 18).map (fun k => 7600 + 1600 * k) ++ (List.range 6).map (fun k => 39600 + 1600 * k)
theorem wit_RingsAndControlWords_peaks : afterGap sweepPeaks = some 7600 ∧ nearestMiddle (targetsOf 4 7600 sweepPeaks) = some 14000 ∧
    afterGap [1200, 2800, 4400] = none := by decide
/-- Of the two positions of line 4, 14 mW lies nearer the middle than 46 mW; its drive is 14/48 of 65,536 steps. A sweep without a gap is tried
again (R329, R330). -/
theorem test_rings : getRing (after (exec (.ringSweep 2 false 4 ⟨sweepPeaks, true⟩) lineless)) 2 false 4 = ⟨2, 19114, 0, false, false⟩ ∧
    getRing (after (exec (.ringSweep 2 false 4 ⟨[1200, 2800, 4400], true⟩) lineless)) 2 false 4 = ⟨1, 20000, 1, false, false⟩ ∧
    getRing (after (exec (.lockLoss 2 false 17) (ringed 2))) 2 false 17 = ⟨3, 20000, 0, false, false⟩ := by decide +kernel
/-- One of the two sensors 1 degree C warmer, the mean by half of it: the heaters go down by 57 uW, 78 steps of 0.73 uW (R329, R331). -/
theorem test_feedforwardRow : getRing (after (exec (.feedforward 2 0 16) (ringed 2))) 2 false 3 = ⟨2, 19923, 0, false, false⟩ ∧
    getRing (after (exec (.feedforward 2 16 0) (ringed 2))) 2 false 3 = ⟨2, 19923, 0, false, false⟩ := by decide +kernel
def cw (ty body : Nat) : BitVec 160 := BitVec.ofNat 160 (controlWord ty body)
theorem wit_RingsAndControlWords_marker : 4 < (getPort (ringed 2) 2).aligned.length ∧ 4 < (getPort (ringed 2) 2).missed.length ∧
    4 < (getPort (ringed 2) 2).slotBad.length ∧ portState (ringed 2) 2 = 1 ∧ cwGood (cw 1 (4 * 2 ^ 151)) = true ∧ cwType (cw 1 (4 * 2 ^ 151)) = 1 ∧
    bits (cw 1 (4 * 2 ^ 151)).toNat 151 5 = 4 ∧ cwGood 1 = false ∧ listGet 0 (getPort (ringed 2) 2).missed 4 = 0 ∧ (getRing (ringed 2) 2 false 4).st = 2 := by
  decide +kernel
theorem wit_RingsAndControlWords_words : takesWord (ringed 2) 2 2 (cw 2 (9 * 2 ^ 120)) ∧ takesWord (ringed 2) 2 3 (cw 3 (2 ^ 145 + 17 * 2 ^ 147 + 64 * 2 ^ 113)) ∧
    (getPort (ringed 2) 2).lastMseq ≠ some (bits (cw 3 (2 ^ 145 + 17 * 2 ^ 147 + 64 * 2 ^ 113)).toNat 105 8) ∧ bits (cw 3 (2 ^ 145 + 17 * 2 ^ 147 + 64 * 2 ^ 113)).toNat 145 2 = 1 ∧
    bits (cw 3 (2 ^ 145 + 17 * 2 ^ 147 + 64 * 2 ^ 113)).toNat 147 5 = 17 ∧ takesWord (port2 2 Port.reset) 2 4 (cw 4 (2 ^ 155)) ∧ takesWord (port2 2 Port.reset) 2 4 (cw 4 0) ∧
    bitOf (cw 4 (2 ^ 155)).toNat 155 = true ∧ bitOf (cw 4 0).toNat 155 = false ∧ bits (cw 4 (2 ^ 155)).toNat 147 8 < 64 ∧
    takesWord (ringed 2) 2 5 (cw 5 (5 * 2 ^ 136)) ∧ takesWord (ringed 2) 2 6 (cw 6 (4 * 2 ^ 152 + 2 ^ 114)) ∧ bits (cw 6 (4 * 2 ^ 152 + 2 ^ 114)).toNat 152 4 = 4 ∧
    (getPort (ringed 2) 2).mSeq ≠ bits (cw 6 (4 * 2 ^ 152 + 2 ^ 114)).toNat 114 8 := by unfold takesWord; decide +kernel
def moving : State := port2 3 { Port.reset with rxCount := 200, rxMove := [⟨5, 16, 1, 900, 0⟩, ⟨6, 17, 1, 100, 1⟩] }
theorem wit_RingsAndControlWords_move : firstMove (getPort moving 2).rxCount ((getPort moving 2).rxMove.filter (fun m => reached (getPort moving 2).rxCount m.cwidx)) =
      some ⟨6, 17, 1, 100, 1⟩ ∧
    (2 : Nat) < moving.ports.length ∧ indexOk (ringed 2) 2 (bits (cw 3 (2 ^ 145 + 17 * 2 ^ 147 + 64 * 2 ^ 113)).toNat 113 32) = true ∧
    takesWord moving 2 3 (cw 3 (2 ^ 145 + 15 * 2 ^ 147 + 264 * 2 ^ 113 + 2 * 2 ^ 105)) ∧
    indexOk moving 2 (bits (cw 3 (2 ^ 145 + 15 * 2 ^ 147 + 264 * 2 ^ 113 + 2 * 2 ^ 105)).toNat 113 32) = true ∧
    (getPort (ringed 2) 2).mStep = 0 := by unfold takesWord; decide +kernel
theorem test_moveTakesEffect : mapByte (after (exec (.moveTakesEffect 2 false) moving)) 2 false 17 = 6 := by decide +kernel
theorem test_ident : (getPort (after (exec (.ident 2 (cw 5 (5 * 2 ^ 136 + 3 * 2 ^ 132))) (ringed 2))) 2).far = some (5, 3, 0, 0) := by decide +kernel
def readings (li : Int) : MonReadings := ⟨li, 0, 0, 0, List.replicate 18 0, List.replicate 18 0, 0, []⟩
def coating : State := port2 1 { Port.reset with mist := 1, rx := List.replicate 18 ⟨2, 20000, 0, false, false⟩, aligned := List.replicate 18 true, refs := some (readings 2000) }
theorem wit_RingsAndControlWords_monitors : (getPort coating 2).mist = 1 ∧ portState coating 2 = 1 ∧ 16 ≤ usableLanes coating 2 false ∧
    (getPort coating 2).refs = some (readings 2000) ∧ lossLocation (lossThreshold coating 2) (readings 2000) { readings 1700 with farLpwr := (getPort coating 2).farLpwr } = some (1, 0, 300) := by decide +kernel
theorem test_monitorCompare : odGet (after (exec (.monitorCompare 2 (readings 1700)) coating)) 0x5402 0x06 = 2 ^ 24 + 300 ∧
    bitOf (odGet (after (exec (.monitorCompare 2 (readings 1700)) coating)) 0x7000 0x01) 82 = true := by decide +kernel

/-! ### Tests, records and the host link -/

/-- A test is due on every core. -/
def dueOn : State := { on with uptime := 10 ^ 15 }
/-- Core 1 is the spare of its die. -/
def spareOn : State := withOd dueOn [(0x3001, 0x01, 2), (0x3001, 0x02, 0xFF)]
def passes : ScanResult := ⟨true, [], 0⟩
theorem wit_TestsAndRecordsRun_fenceWaits : fenceWaits on 0 = false ∧ fenceWaits { on with fencesIn := [7] } 0 = true ∧ fenceWaits { on with fencesIn := [7] } 32 = false := by
  decide +kernel
theorem wit_TestsAndRecordsRun_fence : fenceable on 0 = true ∧ on.testing = none ∧ (1 : Nat) ≤ 5 ∧ thresholdMet (withOd on [(0x7200, 0x0E, 0)]) 0 = true ∧
    thresholdMet { on with fenceErrs := List.replicate 16 (0, 900) } 0 = true := by decide +kernel
theorem wit_TestsAndRecordsRun_start : bulkOn dueOn = true ∧ bulkOn spareOn = true ∧ dueOn.testing = none ∧ dueOn.sweepTest = none ∧ nextTest dueOn 0 = true ∧
    coreState dueOn 0 = 1 ∧ freeSpareCore dueOn (dieOf 0) = none ∧ nextTest on 0 = false ∧
    nextTest spareOn 0 = true ∧ corePos spareOn 0 < 128 ∧ freeSpareCore spareOn (dieOf 0) = some 1 ∧
    nextTest { spareOn with testNext := 1 } 1 = true ∧ coreState { spareOn with testNext := 1 } 1 = 2 := by decide +kernel
def testing0 : State := after (exec (.testStart 0) spareOn)
theorem wit_TestsAndRecordsRun_scan : testing0.testing = some (0, some 1) ∧ testing0.scanned = false ∧ some 1 ≠ some 0 ∧ passes.patternsPass = true ∧
    testing0.captures = [] ∧ (after (exec (.scanTest passes) testing0)).scanned = true ∧ (after (exec (.scanTest passes) testing0)).testing = some (0, some 1) ∧
    corePos (after (exec (.scanTest passes) testing0)) 1 < 128 := by decide +kernel
theorem wit_TestsAndRecordsRun_spare : (after (exec (.scanTest passes) (after (exec (.testStart 1) { spareOn with testNext := 1 })))).testing = some (1, none) ∧
    (after (exec (.scanTest passes) (after (exec (.testStart 1) { spareOn with testNext := 1 })))).scanned = true := by decide +kernel
theorem wit_TestsAndRecordsRun_sweep : isSweep 129 = true ∧ bulkOn on = true ∧ testDue on 129 = true ∧ testDue { on with skipped := [(129, 999)] } 129 = false ∧
    129 ∉ on.sweepOut ∧ sibling 129 ∉ on.sweepOut ∧
    sibling 129 ∈ ({ on with sweepOut := [128] }).sweepOut ∧ ({ on with sweepTest := some 129 }).sweepTest = some 129 := by decide +kernel
theorem wit_TestsAndRecordsRun_flush : ({ on with flushing := true }).flushing = true ∧ on.aonUp = true ∧ on.dust = false ∧ ({ on with dust := true }).dust = true ∧
    on.uptime < on.dustAt + odGet on 0x7A00 0x09 * 100000000 ∧ dueOn.dustAt + odGet dueOn 0x7A00 0x09 * 100000000 ≤ dueOn.uptime := by decide +kernel
theorem test_testReturn : servedBy testing0 0 = 1 ∧ servedBy (after (exec .testReturn (after (exec (.scanTest passes) testing0)))) 0 = 0 ∧
    coreState (after (exec (.scanTest ⟨false, [], 0⟩) testing0)) 0 = 3 := by decide +kernel
theorem test_fence : coreState (after (exec (.fence 0 1) spareOn)) 0 = 3 ∧ servedBy (after (exec (.fence 0 1) spareOn)) 0 = 1 := by decide +kernel

theorem wit_HostLinkRuns_training : bulkOn on = true ∧ on.romRuns = true ∧ firstMode [4, 1] = some 1 ∧ firstMode [] = none ∧ widestWidth [4, 8, 16] [15] = some 8 ∧
    widestWidth [16] [3] = none ∧ on.heldRecords = [] ∧ on.chans = [] ∧ (∀ c ∈ on.cmds, c.stage ≠ .done) ∧ on.linkUp = true ∧
    7 ∈ ({ on with biHeld := [7] }).biHeld := by decide +kernel
/-- A window over the first 256 MiB of job memory. -/
def windowed : State := withOd on [(0x6000, 0x04, 7), (0x6300, 0x02, 1), (0x6300, 0x03, 1)]
theorem wit_HostLinkRuns_window : windowed.Sound ∧ bulkOn windowed = true ∧ inWindow windowed 0x40000040 4 = true ∧ inJob windowed 0x40000040 4 = true ∧ sealedRange windowed 0x40000040 4 = false ∧
    badSectors windowed 0x40000040 4 = [] ∧ windowed.biFilter.length + (linesOf 0x40000040 4).length ≤ filterSize ∧
    inWindow (withOd windowed [(0x6300, 0x01, 0x30000000)]) 0x30000000 4 = true ∧ inJob (withOd windowed [(0x6300, 0x01, 0x30000000)]) 0x30000000 4 = false :=
  ⟨sound_of (by decide +kernel), by decide +kernel⟩
/-- The stack behind the word's sector is sealed; the sector is poisoned. -/
def sealedWindow : State := withOd windowed [(0x4100 + (sectorPlace windowed (0x40000040 / 64)).stack, 0x01, 3)]
def badWindow : State := { windowed with poison := [0x40000040 / 64] }
theorem wit_HostLinkRuns_sealed : sealedWindow.Sound ∧ inWindow sealedWindow 0x40000040 4 = true ∧ inJob sealedWindow 0x40000040 4 = true ∧
    sealedRange sealedWindow 0x40000040 4 = true := ⟨sound_of (by decide +kernel), by decide +kernel⟩
theorem wit_HostLinkRuns_bad : badWindow.Sound ∧ inWindow badWindow 0x40000040 4 = true ∧ inJob badWindow 0x40000040 4 = true ∧
    badSectors badWindow 0x40000040 4 ≠ [] ∧ badWindow.biFilter.length + (linesOf 0x40000040 4).length ≤ filterSize :=
  ⟨sound_of (by decide +kernel), by decide +kernel⟩
/-- The filter holds n lines. -/
def filledWindow (n : Nat) : State := { windowed with biFilter := List.replicate n 9 }
theorem filled_full (n : Nat) (h : filterSize ≤ n) :
    filterSize < (filledWindow n).biFilter.length + ((linesOf 0x40000040 4).filter (fun l => !(filledWindow n).biFilter.contains l)).length := by
  simp only [filledWindow, List.length_replicate, show linesOf 0x40000040 4 = [0x1000001] from by decide]
  rw [List.filter_cons_of_pos (by simp)]
  simp only [List.length_cons]
  omega
theorem wit_HostLinkRuns_full : (filledWindow filterSize).Sound ∧ inWindow (filledWindow filterSize) 0x40000040 4 = true ∧ inJob (filledWindow filterSize) 0x40000040 4 = true ∧
    filterSize < (filledWindow filterSize).biFilter.length + ((linesOf 0x40000040 4).filter (fun l => !(filledWindow filterSize).biFilter.contains l)).length :=
  ⟨sound_of (by decide +kernel), by decide +kernel, by decide +kernel, filled_full _ (Nat.le_refl _)⟩
theorem wit_HostLinkRuns_errata : errataStop (withOd on [(0x1100, 0x01, 0), (0x1100, 0x02, 3)]) = true ∧ errataStop on = false := by decide +kernel
def copyFromHost : Cmd := cmd 0 0 0 .admitted (word [(0, 0x80), (156, 1)])
theorem wit_HostLinkRuns_copyFrom : runCmd (withCmds [copyFromHost]) 0 0 0x80 = some copyFromHost ∧ cpSHOST copyFromHost.word = true := by decide +kernel
def copyToHost : Cmd := cmd 0 0 0 .admitted (word [(0, 0x80), (209, 1)])
theorem wit_HostLinkRuns_copy : runCmd on 0 0 0x80 = none ∧ runCmd (withCmds [copyToHost]) 0 0 0x80 = some copyToHost ∧ cpDHOST copyToHost.word = true := by decide +kernel
theorem wit_HostLinkRuns_doorbell : doorbellQueue 0x10000 = some (0, 0) ∧ 0x10000 % 4 = 0 ∧ orphaned on = false ∧ qGet on 0 0 6 = 2 ∧ tailOk on 0 0 (6 % 2 ^ 32) = true ∧
    doorbellQueue (0x12000 + 28) = some (128, 7) ∧ doorbellQueue (0x10000 + 26 * 64) = none ∧ qGet on 0 5 6 = 0 ∧ tailOk on 0 0 (2000 % 2 ^ 32) = false := by decide +kernel
theorem wit_HostLinkRuns_heartbeat : attached attachedOn = true ∧ attachedOn.uptime < attachedOn.beatAt + odGet attachedOn 0x6100 0x01 * msTicks ∧
    ({ attachedOn with uptime := 10 ^ 9 }).beatAt + odGet { attachedOn with uptime := 10 ^ 9 } 0x6100 0x01 * msTicks ≤ 10 ^ 9 ∧
    orphaned { orphanOn with uptime := 10 ^ 10 } = true ∧ ({ orphanOn with uptime := 10 ^ 10 }).drainAt + odGet orphanOn 0x9000 0x08 * msTicks ≤ 10 ^ 10 := by
  decide +kernel
theorem test_doorbell : qGet (after (exec (.doorbellWrite 0x10000 4 6) on)) 0 0 5 = 6 ∧ odGet (after (exec (.doorbellWrite 0x10000 2 6) on)) 0x6000 0x09 = 1 := by
  decide +kernel
theorem test_heartbeatLapse : odGet (after (exec .heartbeatLapse { attachedOn with uptime := 199999999 })) 0x6100 0x02 = 1 := by decide +kernel
theorem test_hdm : memRead (after (exec (.hdmAccess true 0x40000040 4 [1, 2, 3, 4]) windowed)) 0x40000040 4 = [1, 2, 3, 4] := by decide +kernel

/-! ### The supplies and the start-up -/

def powered : State := { State.reset with vaux := true, aonUp := true, vhtr := true, vbulk := true }
def atStep (n : Nat) (s : State) : State := withOd s [(0x1100, 0x01, n)]
theorem wit_StartUpAndSuppliesRun_supplies : ({ on with vaux := false }).vaux = false ∧ ({ on with vhtr := false }).vhtr = false ∧ on.waitingReqs = [] ∧
    ({ on with vbulk := false }).vbulk = false ∧ startStep (atStep 0 on) = 0 ∧ on.romRuns = true ∧ on.vbulkLost = false ∧
    odGet (withOd (atStep 0 on) [(0x1100, 0x02, 6)]) 0x1100 0x02 = 6 ∧ ({ atStep 0 on with vbulkLost := true }).vbulkLost = true := by decide +kernel
theorem wit_StartUpAndSuppliesRun_steps : powered.vaux = true ∧ startStep powered = 0 ∧ powered.romRuns = false ∧ startStep (atStep 2 powered) = 2 ∧
    startStep (atStep 5 on) = 5 ∧ on.flashRetired = [] ∧ stackState (atStep 5 on) 4 ≠ 3 ∧ startStep (atStep 6 on) = 6 ∧ startStep (atStep 7 on) = 7 ∧
    startStep (atStep 8 on) = 8 ∧ on.vhtr = true ∧ portState (atStep 8 on) 2 = 0 ∧ portEnabled (atStep 8 on) 2 = true ∧
    ({ atStep 8 on with uptime := 10 ^ 10 }).stepAt + odGet (atStep 8 on) 0x1100 0x07 * 100000000 ≤ 10 ^ 10 := by decide +kernel
theorem wit_StartUpAndSuppliesRun_fail : on.vbulk = true ∧ on.chans = [] ∧ powered.vaux = true ∧ powered.clk25 = true ∧ on.vhtr = true ∧ (1599 : Nat) < 1600 := by decide +kernel
theorem wit_StartUpAndSuppliesRun_quiet : startStep (atStep 6 on) = 6 ∧ (atStep 6 on).chans = [] ∧ (∀ c ∈ (atStep 6 on).cmds, c.stage ≠ .done) ∧
    (atStep 6 on).linkUp = true := by decide +kernel
theorem wit_StartUpAndSuppliesRun_sound : (atStep 8 on).Sound := sound_of (by decide +kernel)
theorem test_fuseLoad : startStep (after (exec (.fuseLoad 0 3) powered)) = 2 ∧ startStep (after (exec (.fuseLoad 2 3) powered)) = 0 ∧
    startStep (after (exec .bootRomStart (after (exec (.fuseLoad 0 3) powered)))) = 3 := by decide +kernel
theorem test_dieLinkTraining : odGet (after (exec (.dieLinkTraining [] false 5) (atStep 6 on))) 0x1100 0x02 = 3 := by decide +kernel
theorem test_powerFail : startStep (after (exec (.vbulkPowerFail false) on)) = 0 ∧ (after (exec (.vbulkPowerFail false) on)).flushing = true ∧
    odGet (after (exec (.heatersOff 1599) (port2 3 Port.reset))) 0x5202 0x01 = 0 := by decide +kernel

end Sys2Proof.Tests
end

section
/-! PROOFS. The energy bucket of a die (R214, R217, R218): sums over a sparse store, the cut of the reserves to a capacity, and O21. -/

namespace Sys2Proof.Machine

/-! ### What a well-formed store lists -/

theorem Store.lt_of_mem {α : Type} [DecidableEq α] {d : α} : ∀ {m : Store α} {lo : Nat}, Store.okFrom d (some lo) m = true →
    ∀ p ∈ m, lo < p.1
  | (j, w) :: r, lo, h, p, hp => by
    simp only [Store.okFrom, Bool.and_eq_true, decide_eq_true_eq] at h
    obtain ⟨⟨hlo, -⟩, hr⟩ := h
    rcases List.mem_cons.mp hp with rfl | hp
    · exact hlo
    · exact Nat.lt_trans hlo (Store.lt_of_mem hr p hp)

theorem Store.rising {α : Type} [DecidableEq α] {d : α} : ∀ {m : Store α} {lo : Option Nat}, Store.okFrom d lo m = true →
    m.Pairwise (fun a b => a.1 < b.1)
  | [], _, _ => List.Pairwise.nil
  | (j, w) :: r, lo, h => by
    simp only [Store.okFrom, Bool.and_eq_true] at h
    exact List.pairwise_cons.mpr ⟨Store.lt_of_mem h.2, Store.rising h.2⟩

theorem Store.get_of_mem {α : Type} [DecidableEq α] {d : α} : ∀ {m : Store α} {lo : Option Nat}, Store.okFrom d lo m = true →
    ∀ p ∈ m, Store.get d m p.1 = p.2
  | (j, w) :: r, lo, h, p, hp => by
    simp only [Store.okFrom, Bool.and_eq_true] at h
    rcases List.mem_cons.mp hp with rfl | hp
    · simp [Store.get]
    · have hj : j < p.1 := Store.lt_of_mem h.2 p hp
      simp only [Store.get]
      rw [if_neg (by omega), if_neg (by omega), Store.get_of_mem h.2 p hp]

/-- Writing what is listed already changes nothing. -/
theorem Store.put_of_mem {α : Type} [DecidableEq α] {d : α} : ∀ {m : Store α} {lo : Option Nat}, Store.okFrom d lo m = true →
    ∀ p ∈ m, Store.put d m p.1 p.2 = m
  | (j, w) :: r, lo, h, p, hp => by
    simp only [Store.okFrom, Bool.and_eq_true, decide_eq_true_eq] at h
    obtain ⟨⟨-, hw⟩, hr⟩ := h
    rcases List.mem_cons.mp hp with rfl | hp
    · simp [Store.put, hw]
    · have hj : j < p.1 := Store.lt_of_mem hr p hp
      simp only [Store.put]
      rw [if_neg (by omega), if_neg (by omega), Store.put_of_mem hr p hp]

/-! ### Sums over a store -/

/-- The sum of the values at the keys that satisfy `q`. -/
def Store.sumOn (q : Nat → Bool) (m : Store Nat) : Nat := ((m.filter (fun p => q p.1)).map (·.2)).sum

theorem Store.sumOn_cons (q : Nat → Bool) (p : Nat × Nat) (m : Store Nat) :
    Store.sumOn q (p :: m) = (if q p.1 = true then p.2 else 0) + Store.sumOn q m := by
  unfold Store.sumOn
  by_cases h : q p.1 = true <;> simp [h]

/-- A write at a summed key exchanges the old value for the new one. -/
theorem Store.sumOn_put {q : Nat → Bool} {k : Nat} (v : Nat) (hk : q k = true) : ∀ {m : Store Nat} {lo : Option Nat},
    Store.okFrom 0 lo m = true → Store.sumOn q (Store.put 0 m k v) + Store.get 0 m k = Store.sumOn q m + v
  | [], _, _ => by
    by_cases hv : v = 0 <;> simp [Store.put, Store.get, Store.sumOn, hv, hk]
  | (j, w) :: r, lo, h => by
    simp only [Store.okFrom, Bool.and_eq_true] at h
    simp only [Store.put, Store.get]
    split
    · split <;> simp only [Store.sumOn_cons, hk, if_true] <;> omega
    · split
      · next e =>
        subst e
        split <;> simp only [Store.sumOn_cons, hk, if_true] <;> omega
      · have ih := Store.sumOn_put v hk h.2
        simp only [Store.sumOn_cons]
        omega

theorem dieReserves_eq (s : State) (d : Nat) : dieReserves s d = Store.sumOn (fun k => dieOf (k / 16) == d) s.reserves :=
  List.sum_eq_foldl.symm

/-! ### The cut of the reserves (R217) -/

/-- One reserve is cut to what the earlier ones have left of the capacity. -/
def cutStep (x : State × Nat) (p : Nat × Nat) : State × Nat :=
  ({ x.1 with reserves := Store.put 0 x.1.reserves p.1 (min p.2 x.2) }, x.2 - p.2)

/-- The reserves of a die, as the store lists them. -/
def listedReserves (s : State) (d : Nat) : List (Nat × Nat) := s.reserves.filter (fun p => dieOf (p.1 / 16) == d)

theorem cutReserves_eq (s : State) (d : Nat) : cutReserves s d = ((listedReserves s d).foldl cutStep (s, bucketCapacity s d)).1 := rfl

theorem cutStep_budgets (l : List (Nat × Nat)) (x : State × Nat) : (l.foldl cutStep x).1.budgets = x.1.budgets := by
  induction l generalizing x with
  | nil => rfl
  | cons p r ih => exact ih _

theorem cutReserves_budgets (s : State) (d : Nat) : (cutReserves s d).budgets = s.budgets := cutStep_budgets _ _

/-- Cutting reserves that a store lists brings their sum down to the capacity. -/
theorem cutStep_sum {q : Nat → Bool} (l : List (Nat × Nat)) (s : State) (cap : Nat) (hs : Store.wf 0 s.reserves = true)
    (hr : l.Pairwise (fun a b => a.1 < b.1)) (hl : ∀ p ∈ l, q p.1 = true ∧ Store.get 0 s.reserves p.1 = p.2) :
    Store.sumOn q (l.foldl cutStep (s, cap)).1.reserves + (l.map (·.2)).sum ≤ Store.sumOn q s.reserves + cap := by
  induction l generalizing s cap with
  | nil => simp
  | cons p r ih =>
    obtain ⟨hp, hr⟩ := List.pairwise_cons.mp hr
    obtain ⟨hq, hg⟩ := hl p List.mem_cons_self
    have hput := Store.sumOn_put (min p.2 cap) hq hs
    have htail := ih { s with reserves := Store.put 0 s.reserves p.1 (min p.2 cap) } (cap - p.2) (Store.put_wf hs) hr (fun x hx => by
      obtain ⟨hqx, hgx⟩ := hl x (List.mem_cons_of_mem _ hx)
      exact ⟨hqx, (Store.get_put_of_ne hs (Nat.ne_of_gt (hp x hx))).trans hgx⟩)
    simp only [List.foldl_cons, List.map_cons, List.sum_cons, cutStep] at htail ⊢
    omega

/-- Reserves that fit the capacity are cut to themselves. -/
theorem cutStep_fitting (l : List (Nat × Nat)) (s : State) (cap : Nat) (hs : Store.wf 0 s.reserves = true)
    (hl : ∀ p ∈ l, p ∈ s.reserves) (hc : (l.map (·.2)).sum ≤ cap) : (l.foldl cutStep (s, cap)).1.reserves = s.reserves := by
  induction l generalizing cap with
  | nil => rfl
  | cons p r ih =>
    rw [List.map_cons, List.sum_cons] at hc
    have hput : Store.put 0 s.reserves p.1 (min p.2 cap) = s.reserves := by
      rw [Nat.min_eq_left (by omega)]; exact Store.put_of_mem hs p (hl p List.mem_cons_self)
    have hstep : cutStep (s, cap) p = (s, cap - p.2) := by simp only [cutStep, hput]
    rw [List.foldl_cons, hstep]
    exact ih (cap - p.2) (fun x hx => hl x (List.mem_cons_of_mem _ hx)) (by omega)

/-- After the cut the reserves of the die fit its capacity (R217). -/
theorem dieReserves_cutReserves {s : State} (hs : Store.wf 0 s.reserves = true) (d : Nat) :
    dieReserves (cutReserves s d) d ≤ bucketCapacity s d := by
  have hsum := cutStep_sum (q := fun k => dieOf (k / 16) == d) (listedReserves s d) s (bucketCapacity s d) hs
    ((Store.rising hs).filter _) (fun p hp => by
      obtain ⟨hm, hq⟩ := List.mem_filter.mp hp
      exact ⟨hq, Store.get_of_mem hs p hm⟩)
  rw [dieReserves_eq, cutReserves_eq]
  exact Nat.le_of_add_le_add_left (by rw [Nat.add_comm]; exact hsum)

/-- Reserves that fit stay (R217). -/
theorem cutReserves_reserves {s : State} (hs : Store.wf 0 s.reserves = true) {d : Nat} (hf : dieReserves s d ≤ bucketCapacity s d) :
    (cutReserves s d).reserves = s.reserves := by
  rw [dieReserves_eq] at hf
  exact cutStep_fitting _ s _ hs (fun p hp => List.mem_of_mem_filter hp) hf

/-! ### The refill and the expiry (R214, R217, R218) -/

theorem budgetOf_takeBudget (s : State) {d : Nat} (hd : d < 4) :
    budgetOf (takeBudget s d) d = ⟨allocation s d, odGet s (0x2300 + d) 0x02, odGet s (0x2300 + d) 0x03⟩ := by
  have : d = 0 ∨ d = 1 ∨ d = 2 ∨ d = 3 := by omega
  rcases this with rfl | rfl | rfl | rfl <;> rfl

theorem budgetOf_congr {s t : State} (h : t.budgets = s.budgets) (d : Nat) : budgetOf t d = budgetOf s d := by
  unfold budgetOf; rw [h]

theorem bucketCapacity_congr {s t : State} (h : t.budgets = s.budgets) (d : Nat) : bucketCapacity t d = bucketCapacity s d := by
  unfold bucketCapacity; rw [budgetOf_congr h]

theorem bucketLevel_setLevel (s : State) (d v : Nat) : bucketLevel (setLevel s d v) d = v := odGet_odSet _ _ _ _

theorem bucketCapacity_setLevel (s : State) (d v e : Nat) : bucketCapacity (setLevel s d v) e = bucketCapacity s e := rfl

theorem dieReserves_setLevel (s : State) (d v e : Nat) : dieReserves (setLevel s d v) e = dieReserves s e := rfl

theorem reserveOf_setReserve {s : State} (hs : Store.wf 0 s.reserves = true) (u q v : Nat) : reserveOf (setReserve s u q v) u q = v :=
  Store.get_put hs

/-! ### O21 -/

theorem bucketRefill_of_bulkOff (s : State) (d : Nat) (hb : bulkOn s = false) : exec (.bucketRefill d) s = .next s := by
  show execBucketRefill d s = _
  simp [execBucketRefill, hb]

theorem bucketRefill_fills (s : State) (d : Nat) (hs : s.Sound) (hd : d < 4) (hb : bulkOn s = true) :
    ∃ t, exec (.bucketRefill d) s = .next t ∧
      budgetOf t d = ⟨allocation s d, odGet s (0x2300 + d) 0x02, odGet s (0x2300 + d) 0x03⟩ ∧
      bucketLevel t d = min (bucketLevel s d + 10 * allocation s d) (bucketCapacity t d - dieReserves t d) ∧
      bucketLevel t d + dieReserves t d ≤ bucketCapacity t d ∧
      (dieReserves s d ≤ bucketCapacity t d → t.reserves = s.reserves) ∧
      ∀ i sub, odKey i sub ≠ odKey (0x2300 + d) 0x01 → odGet t i sub = odGet s i sub := by
  let c := cutReserves (takeBudget s d) d
  have hrun : exec (.bucketRefill d) s =
      .next (setLevel c d (min (bucketLevel c d + (budgetOf c d).alloc * 10) (bucketCapacity c d - dieReserves c d))) := by
    show execBucketRefill d s = _
    simp [execBucketRefill, hb, hd, c]
  have hwf : Store.wf 0 (takeBudget s d).reserves = true := hs.reserves
  have hbud : c.budgets = (takeBudget s d).budgets := cutReserves_budgets _ d
  have hset : budgetOf c d = ⟨allocation s d, odGet s (0x2300 + d) 0x02, odGet s (0x2300 + d) 0x03⟩ :=
    (budgetOf_congr hbud d).trans (budgetOf_takeBudget s hd)
  have hcap : bucketCapacity c d = bucketCapacity (takeBudget s d) d := bucketCapacity_congr hbud d
  have hfit : dieReserves c d ≤ bucketCapacity c d := (dieReserves_cutReserves hwf d).trans (Nat.le_of_eq hcap.symm)
  have hget : ∀ i sub, odGet c i sub = odGet s i sub := fun i sub =>
    ((OdKeeps.of_changes (P := fun _ => True) (takeBudget_changes s d)).trans (.of_changes (cutReserves_changes _ d))).get i sub trivial
  refine ⟨_, hrun, hset, ?_, ?_, ?_, ?_⟩
  · rw [bucketLevel_setLevel, dieReserves_setLevel, bucketCapacity_setLevel, hset, Nat.mul_comm, bucketLevel, hget]; rfl
  · rw [bucketLevel_setLevel, dieReserves_setLevel, bucketCapacity_setLevel]; omega
  · rw [bucketCapacity_setLevel, hcap]; exact fun hf => cutReserves_reserves hwf hf
  · exact fun i sub hk => (odGet_odSet_ne c _ hk).trans (hget i sub)

theorem reserveExpiry_returns (s : State) (u q : Nat) (hs : s.Sound) (hr : reserveOf s u q ≠ 0)
    (he : Store.get 0 s.reserveEnds (drainKey u q) ≤ s.uptime) :
    ∃ t, exec (.reserveExpiry u q) s = .next t ∧ reserveOf t u q = 0 ∧
      bucketLevel t (dieOf u) = min (bucketLevel s (dieOf u) + reserveOf s u q)
        (bucketCapacity s (dieOf u) - dieReserves (setReserve s u q 0) (dieOf u)) ∧
      ∀ i sub, odKey i sub ≠ odKey (0x2300 + dieOf u) 0x01 → odGet t i sub = odGet s i sub := by
  have hrun : exec (.reserveExpiry u q) s = .next (returnReserve s u q) := by
    show execReserveExpiry u q s = _
    simp [execReserveExpiry, hr, he]
  refine ⟨_, hrun, reserveOf_setReserve hs.reserves u q 0, bucketLevel_setLevel _ _ _, fun i sub hk => ?_⟩
  exact odGet_odSet_ne _ _ hk

/-- Settles O21: a refill first cuts the reserves to the capacity in force, and fills up to what they leave of it. -/
theorem bucketRefillsAndReservesExpire : Obligations.BucketRefillsAndReservesExpire :=
  ⟨bucketRefill_of_bulkOff, bucketRefill_fills, reserveExpiry_returns⟩

end Sys2Proof.Machine
end

section
/-! PROOFS. What notes leave of the requesters: reports, snags, records and counters send notices to the sessions and touch nothing else
of the requesters, their sessions and the requests that wait (R431, R476). -/

namespace Sys2Proof.Machine

/-- The requesters, their sessions and the requests that wait are as they were; only the count of notices may have moved on. -/
structure Notified (s t : State) : Prop where
  requesters : t.requesters = s.requesters
  sessions : t.sessions = s.sessions
  announces : t.announces = s.announces
  waitingReqs : t.waitingReqs = s.waitingReqs
  jobPages : t.jobPages = s.jobPages
  signing : t.signing = s.signing

theorem Notified.refl (s : State) : Notified s s := ⟨rfl, rfl, rfl, rfl, rfl, rfl⟩

theorem Notified.trans {s t u : State} (h : Notified s t) (g : Notified t u) : Notified s u :=
  ⟨g.requesters.trans h.requesters, g.sessions.trans h.sessions, g.announces.trans h.announces, g.waitingReqs.trans h.waitingReqs,
    g.jobPages.trans h.jobPages, g.signing.trans h.signing⟩

theorem Notified.of_changes {K : List Kind} {s t : State} (h : Changes K s t) (hk : K.contains .access = false := by rfl) : Notified s t := by
  obtain ⟨hr, hs, -, ha, hw, hj, hg⟩ := h.same .access hk
  exact ⟨hr, hs, ha, hw, hj, hg⟩

theorem Notified.foldl {α : Type} {f : State → α → State} (hf : ∀ s a, Notified s (f s a)) (l : List α) (s : State) :
    Notified s (l.foldl f s) := by
  induction l generalizing s with
  | nil => exact .refl s
  | cons a r ih => exact (hf s a).trans (ih _)

theorem notifyAll_notified (s : State) (n : Nat) : Notified s (notifyAll s n) := by
  unfold notifyAll
  exact Notified.foldl (f := fun (s : State) (x : Session) => { s with notifies := s.notifies + 1, out := s.out ++ [.notify x.id s.notifies n] })
    (fun _ _ => ⟨rfl, rfl, rfl, rfl, rfl, rfl⟩) _ _

theorem snagSetRaw_notified (s : State) (b : Nat) : Notified s (snagSetRaw s b) := by
  unfold snagSetRaw
  dsimp only
  split
  · exact .refl s
  · exact (((Notified.of_changes (odSet_changes _ _ _ _)).trans (.of_changes (odCount_changes _ _ _ _))).trans
      (.of_changes (addRecordRaw_changes _ _))).trans (notifyAll_notified _ _)

theorem moveHead_notified (s : State) (t a b : Nat) : Notified s (moveHead s t a b) := by
  unfold moveHead
  dsimp only
  split
  · exact .refl s
  · exact ((Notified.of_changes (odSet_changes _ _ _ _)).trans (.of_changes (odCount_changes _ _ _ _))).trans (snagSetRaw_notified _ _)

theorem fileDetected_notified (s : State) (r : Report) : Notified s (fileDetected s r) := by
  have hheads : ∀ (x : State) (t : Nat) (l : List Report), Notified x (moveHead (moveHead (odCount (odSet { x with reports := l } 0x7100 0x01 t)
      0x7100 0x08 1) t 0x02 0x06) t 0x04 0x07) := fun x t l =>
    ((Notified.mk rfl rfl rfl rfl rfl rfl : Notified x (odCount (odSet { x with reports := l } 0x7100 0x01 t) 0x7100 0x08 1)).trans
      (moveHead_notified _ _ _ _)).trans (moveHead_notified _ _ _ _)
  unfold fileDetected
  dsimp only
  split
  · exact (((Notified.of_changes (addRecordRaw_changes _ _)).trans (hheads _ _ _)).trans (.of_changes (raiseVector_changes _ _))).trans
      (notifyAll_notified _ _)
  · exact (Notified.of_changes (addRecordRaw_changes _ _)).trans (hheads _ _ _)

theorem fileReportRaw_notified (s : State) (r : Report) : Notified s (fileReportRaw s r) := by
  have hd : Notified s (detectReport s r).2 := .of_changes (detectReport_changes s r)
  unfold fileReportRaw
  dsimp only
  split
  · exact hd.trans ⟨rfl, rfl, rfl, rfl, rfl, rfl⟩
  · exact hd.trans (fileDetected_notified _ _)

theorem saturationEvent_notified (s : State) (i n : Nat) : Notified s (saturationEvent s i n) := by
  have h := (snagSetRaw_notified s 8).trans (fileReportRaw_notified _ (plainReport 0x8060 0 (counterUnit i) (i * 65536 + n) noPeer))
  unfold saturationEvent
  with_reducible exact h

theorem saturationEvents_notified (n : Nat) (s0 s : State) : Notified s (saturationEvents n s0 s) := by
  induction n generalizing s0 s with
  | zero => exact .refl s
  | succ n ih =>
    unfold saturationEvents
    split
    · exact .refl s
    · refine Notified.trans (Notified.foldl ?_ _ s) (ih _ _)
      intro s k
      exact saturationEvent_notified s k.1 k.2

theorem addRecord_notified (s : State) (r : LogRec) : Notified s (addRecord s r) := by
  unfold addRecord
  exact (Notified.of_changes (addRecordRaw_changes s r)).trans (saturationEvents_notified 5 s _)

theorem snagSet_notified (s : State) (b : Nat) : Notified s (snagSet s b) := by
  unfold snagSet
  exact (snagSetRaw_notified s b).trans (saturationEvents_notified 5 s _)

theorem fileReport_notified (s : State) (r : Report) : Notified s (fileReport s r) := by
  unfold fileReport
  exact (fileReportRaw_notified s r).trans (saturationEvents_notified 5 s _)

theorem fileCode_notified (s : State) (code unit detail : Nat) : Notified s (fileCode s code unit detail) := by
  unfold fileCode
  exact fileReport_notified s _

theorem odBump_notified (s : State) (i sub n : Nat) : Notified s (odBump s i sub n) := by
  have hc : Notified s (odCount s i sub n) := .of_changes (odCount_changes s i sub n)
  unfold odBump
  dsimp only
  split
  · exact hc.trans ((saturationEvent_notified _ i sub).trans (saturationEvents_notified 5 _ _))
  · exact hc

theorem stateChange_notified (s : State) (unit i sub v code sev : Nat) : Notified s (stateChange s unit i sub v code sev) := by
  unfold stateChange
  dsimp only
  split
  · exact .refl s
  · exact (Notified.of_changes (odSet_changes s i sub v)).trans (addRecord_notified _ _)

/-- With no request waiting there is none to serve. -/
theorem serveHeld_idle {s : State} (h : s.waitingReqs = []) : serveHeld s = s := by
  have hturn : waitingInTurn s = [] := by unfold waitingInTurn; rw [h]; rfl
  have hsame : { s with waitingReqs := [] } = s := by rw [← h]
  unfold serveHeld
  rw [hturn, hsame, List.foldl_nil, ite_self]

end Sys2Proof.Machine
end

section
/-! PROOFS. The clocks of the dies and their stretches (R416): what a stretch does to the frequency in force, what one die's clock keeps while
another's changes, and O40. -/

namespace Sys2Proof.Machine

theorem odKey_ne {i j m n : Nat} (hm : m < 256) (hn : n < 256) (h : i ≠ j ∨ m ≠ n) : odKey i m ≠ odKey j n := by
  unfold odKey; omega

/-! ### The frequency in force -/

theorem le_foldl_minFreq (l : List Stretch) (a c : Nat) : c ≤ l.foldl (fun m x => min m x.f) a ↔ c ≤ a ∧ ∀ x ∈ l, c ≤ x.f := by
  induction l generalizing a with
  | nil => simp
  | cons x r ih => rw [List.foldl_cons, ih, le_min_iff, List.forall_mem_cons, and_assoc]

/-- The frequency in force is the greatest that the set point and every stretch of the die allow. -/
theorem le_arrayFreq (s : State) (d c : Nat) : c ≤ arrayFreq s d ↔ c ≤ arraySetPoint s d * 1024 ∧ ∀ x ∈ s.stretches, x.d = d → c ≤ x.f := by
  unfold arrayFreq
  rw [le_foldl_minFreq]
  simp only [List.mem_filter, beq_iff_eq, and_imp]

theorem arrayFreq_le_of_mem {s : State} {d : Nat} {x : Stretch} (h : x ∈ s.stretches) (hd : x.d = d) : arrayFreq s d ≤ x.f :=
  ((le_arrayFreq s d _).mp (Nat.le_refl _)).2 x h hd

theorem hasStretch_iff (s : State) (d c : Nat) : hasStretch s d c = true ↔ ∃ x ∈ s.stretches, x.d = d ∧ x.cause = c ∧ x.active = true := by
  simp only [hasStretch, List.any_eq_true, Bool.and_eq_true, beq_iff_eq, and_assoc]

/-! ### What one die keeps -/

/-- The clocks of die d are as they were: its frequency in force, its stretches in force, its set point and its CORE clock. -/
structure SameDie (d : Nat) (s t : State) : Prop where
  freq : arrayFreq t d = arrayFreq s d
  stretch : ∀ c, hasStretch t d c = hasStretch s d c
  setPoint : arraySetPoint t d = arraySetPoint s d
  core : t.coreMHz[d]? = s.coreMHz[d]?

theorem SameDie.refl (d : Nat) (s : State) : SameDie d s s := ⟨rfl, fun _ => rfl, rfl, rfl⟩

theorem SameDie.trans {d : Nat} {s t u : State} (h : SameDie d s t) (g : SameDie d t u) : SameDie d s u :=
  ⟨g.freq.trans h.freq, fun c => (g.stretch c).trans (h.stretch c), g.setPoint.trans h.setPoint, g.core.trans h.core⟩

theorem SameDie.of_eq {d : Nat} {s t : State} (hs : t.stretches = s.stretches) (ha : t.arraySet = s.arraySet) (hc : t.coreMHz = s.coreMHz) :
    SameDie d s t :=
  ⟨by unfold arrayFreq arraySetPoint; rw [hs, ha], fun c => by unfold hasStretch; rw [hs], by unfold arraySetPoint; rw [ha], by rw [hc]⟩

theorem SameDie.of_changes {d : Nat} {K : List Kind} {s t : State} (h : Changes K s t) (hk : K.contains .power = false := by rfl) :
    SameDie d s t := by
  obtain ⟨hs, ha, -, hc, -⟩ := h.same .power hk
  exact .of_eq hs ha hc

theorem SameDie.foldl {α : Type} {d : Nat} {f : State → α → State} {l : List α} (hf : ∀ s, ∀ a ∈ l, SameDie d s (f s a)) (s : State) :
    SameDie d s (l.foldl f s) := by
  induction l generalizing s with
  | nil => exact .refl d s
  | cons a r ih => exact (hf s a List.mem_cons_self).trans (ih (fun s b hb => hf s b (List.mem_cons_of_mem _ hb)) _)

/-- Going through the dies of a list, a step that touches its own die alone acts on die d once. -/
theorem SameDie.foldl_dies {d : Nat} {f : State → Nat → State} (hf : ∀ s e, e ≠ d → SameDie d s (f s e)) {l : List Nat} (hn : l.Nodup)
    (hd : d ∈ l) (s : State) : ∃ x, SameDie d s x ∧ SameDie d (f x d) (l.foldl f s) := by
  obtain ⟨l₁, l₂, rfl⟩ := List.append_of_mem hd
  obtain ⟨-, hn₂, hdis⟩ := List.nodup_append.mp hn
  have h₁ : ∀ e ∈ l₁, e ≠ d := fun e he => hdis e he d List.mem_cons_self
  have h₂ : ∀ e ∈ l₂, e ≠ d := fun e he h => (List.nodup_cons.mp hn₂).1 (h ▸ he)
  refine ⟨l₁.foldl f s, SameDie.foldl (fun s e he => hf s e (h₁ e he)) s, ?_⟩
  rw [List.foldl_append, List.foldl_cons]
  exact SameDie.foldl (fun s e he => hf s e (h₂ e he)) _

/-! ### A stretch appears -/

theorem mem_addStretch {s : State} {d c f : Nat} {x : Stretch} : x ∈ (addStretch s d c f).stretches ↔
    (x ∈ s.stretches ∧ ¬ (x.d = d ∧ x.cause = c)) ∨ x = ⟨d, c, true, max floorFreq (min f (arrayFreq s d))⟩ := by
  simp [addStretch, imp_iff_not_or]

/-- A stretch of cause c has come on die d: it holds the frequency at f or what was in force, whichever is lower, but not below the floor;
and where the clock was no lower than the floor, it runs at just that. -/
structure Stretched (c f d : Nat) (s t : State) : Prop where
  stretch : hasStretch t d c = true
  le : arrayFreq t d ≤ max floorFreq (min f (arrayFreq s d))
  eq : floorFreq ≤ arrayFreq s d → arrayFreq t d = max floorFreq (min f (arrayFreq s d))

theorem addStretch_stretched (s : State) (d c f : Nat) : Stretched c f d s (addStretch s d c f) := by
  have hmem : (⟨d, c, true, max floorFreq (min f (arrayFreq s d))⟩ : Stretch) ∈ (addStretch s d c f).stretches := mem_addStretch.mpr (.inr rfl)
  have hle : arrayFreq (addStretch s d c f) d ≤ max floorFreq (min f (arrayFreq s d)) :=
    arrayFreq_le_of_mem hmem rfl
  refine ⟨(hasStretch_iff _ _ _).mpr ⟨_, hmem, rfl, rfl, rfl⟩, hle, fun hfl => Nat.le_antisymm hle ?_⟩
  have hold := (le_arrayFreq s d _).mp (Nat.le_refl _)
  have hcap : max floorFreq (min f (arrayFreq s d)) ≤ arrayFreq s d := max_le hfl (min_le_right _ _)
  refine (le_arrayFreq _ _ _).mpr ⟨hcap.trans hold.1, fun x hx hxd => ?_⟩
  rcases mem_addStretch.mp hx with ⟨hx, -⟩ | rfl
  · exact hcap.trans (hold.2 x hx hxd)
  · exact Nat.le_refl _

theorem addStretch_sameDie (s : State) {d e : Nat} (c f : Nat) (h : e ≠ d) : SameDie d s (addStretch s e c f) := by
  refine ⟨eq_of_forall_le_iff fun b => ?_, fun c' => Bool.eq_iff_iff.mpr ?_, rfl, rfl⟩
  · have hset : arraySetPoint (addStretch s e c f) d = arraySetPoint s d := rfl
    rw [le_arrayFreq, le_arrayFreq, hset]
    refine and_congr_right fun _ => ⟨fun hall x hx hxd => hall x (mem_addStretch.mpr (.inl ⟨hx, fun hh => h (hh.1.symm.trans hxd)⟩)) hxd, fun hall x hx hxd => ?_⟩
    rcases mem_addStretch.mp hx with ⟨hx, -⟩ | rfl
    · exact hall x hx hxd
    · exact absurd hxd h
  · rw [hasStretch_iff, hasStretch_iff]
    refine ⟨fun ⟨x, hx, hxd, hr⟩ => ?_, fun ⟨x, hx, hxd, hr⟩ => ⟨x, mem_addStretch.mpr (.inl ⟨hx, fun hh => h (hh.1.symm.trans hxd)⟩), hxd, hr⟩⟩
    rcases mem_addStretch.mp hx with ⟨hx, -⟩ | rfl
    · exact ⟨x, hx, hxd, hr⟩
    · exact absurd hxd h

theorem setCoreFreq_sameDie (s : State) {d e : Nat} (f : Nat) (h : e ≠ d) : SameDie d s (setCoreFreq s e f) :=
  ⟨rfl, fun _ => rfl, rfl, List.getElem?_set_ne h⟩

theorem coreMHz_setCoreFreq {s : State} {d f g : Nat} (h : (setCoreFreq s d f).coreMHz[d]? = some g) : g = f := by
  unfold setCoreFreq listSet at h
  rw [List.getElem?_set_self'] at h
  cases hc : s.coreMHz[d]? with
  | none => simp [hc] at h
  | some v => simp [hc] at h; exact h.symm

/-- What comes before and after that keeps the die's clocks keeps what the stretch did. -/
theorem Stretched.of_same {c f d : Nat} {s s' t t' : State} (h : Stretched c f d s' t) (hs : SameDie d s s') (ht : SameDie d t t') :
    Stretched c f d s t' :=
  ⟨(ht.stretch c).trans h.stretch, by rw [ht.freq, ← hs.freq]; exact h.le, by rw [ht.freq, ← hs.freq]; exact h.eq⟩

/-! ### The frequencies shown (0x2300 + d .0B) -/

theorem showFreq_sameDie (s : State) (d : Nat) : SameDie d s (showFreq s) := .of_changes (showFreq_changes s)

theorem showFreq_keeps (s : State) : OdKeeps (fun k => ∀ d, d < 4 → k ≠ odKey (0x2300 + d) 0x0B) s (showFreq s) := by
  have h : ∀ (x : State) (d v : Nat), d < 4 → OdKeeps (fun k => ∀ d, d < 4 → k ≠ odKey (0x2300 + d) 0x0B) x (odSet x (0x2300 + d) 0x0B v) :=
    fun x d v hd => .set x v (fun hk => hk d hd rfl)
  unfold showFreq
  simp only [List.foldl_cons, List.foldl_nil]
  exact (((h _ 0 _ (by decide)).trans (h _ 1 _ (by decide))).trans (h _ 2 _ (by decide))).trans (h _ 3 _ (by decide))

theorem odGet_showFreq (s : State) {d : Nat} (hd : d < 4) : odGet (showFreq s) (0x2300 + d) 0x0B = (arrayFreq s d + 512) / 1024 := by
  have hf : ∀ (x : State) (i sub v e : Nat), arrayFreq (odSet x i sub v) e = arrayFreq x e := fun _ _ _ _ _ => rfl
  have hne : ∀ e, e ≠ d → odKey (0x2300 + d) 0x0B ≠ odKey (0x2300 + e) 0x0B := fun e he h => he (by unfold odKey at h; omega)
  unfold showFreq
  simp only [List.foldl_cons, List.foldl_nil, hf]
  have : d = 0 ∨ d = 1 ∨ d = 2 ∨ d = 3 := by omega
  rcases this with rfl | rfl | rfl | rfl
  · rw [odGet_odSet_ne _ _ (hne 3 (by decide)), odGet_odSet_ne _ _ (hne 2 (by decide)), odGet_odSet_ne _ _ (hne 1 (by decide)), odGet_odSet]
  · rw [odGet_odSet_ne _ _ (hne 3 (by decide)), odGet_odSet_ne _ _ (hne 2 (by decide)), odGet_odSet]
  · rw [odGet_odSet_ne _ _ (hne 3 (by decide)), odGet_odSet]
  · rw [odGet_odSet]

/-! ### Readings -/

theorem showSensors_keeps (s : State) : OdKeeps (fun k => k / 256 ≠ 0x2200) s (showSensors s) := by
  unfold showSensors
  exact (((OdKeeps.set _ _ (by decide)).trans (.set _ _ (by decide))).trans (.set _ _ (by decide))).trans (.set _ _ (by decide))

theorem sense_keeps (s : State) (r : Reading) : OdKeeps (fun k => k / 256 ≠ 0x2200) s (sense s r) := by
  unfold sense
  split
  · exact (OdKeeps.of_od (t := { s with sensors := Store.put 0 s.sensors (r.site * 256 + r.sensor) r.t16 })).trans (showSensors_keeps _)
  · exact .refl s

theorem sense_sameDie (s : State) (r : Reading) (d : Nat) : SameDie d s (sense s r) := by
  unfold sense
  split
  · exact (SameDie.of_eq (s := s) (t := { s with sensors := Store.put 0 s.sensors (r.site * 256 + r.sensor) r.t16 }) rfl rfl rfl).trans
      (.of_changes (showSensors_changes _))
  · exact .refl d s

/-- No reading moves a threshold (0x2400, 0xA001). -/
theorem threshold_sense (s : State) (r : Reading) (sub : Nat) : threshold (sense s r) sub = threshold s sub := by
  unfold threshold guarded
  rw [(sense_keeps s r).get 0x2400 sub (by unfold odKey; omega), (sense_keeps s r).get 0xA001 0x01 (by decide)]

theorem sensorPowered_of_bulkOn {s : State} (h : bulkOn s = true) (site n : Nat) : sensorPowered s site n = true := by
  simp [sensorPowered, h]

theorem readSensor_congr {s t : State} (h : t.sensors = s.sensors) (site n : Nat) : readSensor t site n = readSensor s site n := by
  unfold readSensor; rw [h]

/-- A reading taken is kept. -/
theorem readSensor_sense {s : State} {r : Reading} (hs : s.Sound) (he : sensorExists r.site r.sensor = true)
    (hp : sensorPowered s r.site r.sensor = true) : readSensor (sense s r) r.site r.sensor = r.t16 := by
  unfold sense
  rw [he, hp]
  exact Store.get_put hs.sensors

theorem diesOf_nodup (r : Reading) : (diesOf r).Nodup := by
  unfold diesOf
  split
  · exact List.nodup_singleton _
  · decide

theorem mem_dies {d : Nat} (hd : d < 4) : d ∈ dies := by
  have : d = 0 ∨ d = 1 ∨ d = 2 ∨ d = 3 := by omega
  simpa [dies] using this

end Sys2Proof.Machine
end

section
/-! PROOFS. O40: each cause of a stretch is one `addStretch` on each die it acts on, between steps that keep that die's clocks. -/

namespace Sys2Proof.Machine

/-- What a droop or an overcurrent makes of a clock: half of what was in force, but for the floor (R416). -/
theorem Stretched.half {c d : Nat} {s t : State} (h : Stretched c (arrayFreq s d / 2) d s t) :
    hasStretch t d c = true ∧ arrayFreq t d ≤ max floorFreq (arrayFreq s d / 2) ∧
      (floorFreq ≤ arrayFreq s d → arrayFreq t d = max floorFreq (arrayFreq s d / 2)) := by
  have hhalf : min (arrayFreq s d / 2) (arrayFreq s d) = arrayFreq s d / 2 := Nat.min_eq_left (Nat.div_le_self _ _)
  obtain ⟨hs, hle, heq⟩ := h
  rw [hhalf] at hle heq
  exact ⟨hs, hle, heq⟩

/-- What a junction limit or an emergency makes of a clock: the floor (R416, R421). -/
theorem Stretched.floor {c d : Nat} {s t : State} (h : Stretched c floorFreq d s t) :
    arrayFreq t d ≤ floorFreq ∧ (floorFreq ≤ arrayFreq s d → arrayFreq t d = floorFreq) := by
  have hmax : max floorFreq (min floorFreq (arrayFreq s d)) = floorFreq := Nat.max_eq_left (Nat.min_le_left _ _)
  obtain ⟨-, hle, heq⟩ := h
  rw [hmax] at hle heq
  exact ⟨hle, heq⟩

theorem bulkOff_droop {s : State} (hb : bulkOn s = false) (x : DroopSense) : exec (.droop x) s = .next s := by
  show execDroop x s = _
  simp [execDroop, hb]

theorem bulkOff_overcurrent {s : State} (hb : bulkOn s = false) (watts : Nat) : exec (.overcurrent watts) s = .next s := by
  show execOvercurrent watts s = _
  simp [execOvercurrent, hb]

theorem droop_within (s : State) (x : DroopSense) (h : x.below ≤ droopMargin s x.die) : exec (.droop x) s = .next s := by
  show execDroop x s = _
  simp [execDroop, Nat.not_lt.mpr h]

theorem droop_stretches (s : State) (d below : Nat) (hd : d < 4) (hb : bulkOn s = true) (hm : droopMargin s d < below) :
    ∃ t, exec (.droop ⟨d, below⟩) s = .next t ∧ hasStretch t d 0 = true ∧ arrayFreq t d ≤ max floorFreq (arrayFreq s d / 2) ∧
      (floorFreq ≤ arrayFreq s d → arrayFreq t d = max floorFreq (arrayFreq s d / 2)) ∧
      odGet t (0x2300 + d) 0x0B = (arrayFreq t d + 512) / 1024 ∧ odGet t (0x2300 + d) 0x0E = min cntMax (odGet s (0x2300 + d) 0x0E + 1) ∧
      ∀ e, e ≠ d → arrayFreq t e = arrayFreq s e := by
  let a := addStretch s d 0 (arrayFreq s d / 2)
  let b := odBump a (0x2300 + d) 0x0E 1
  have hrun : exec (.droop ⟨d, below⟩) s = .next (showFreq b) := by
    show execDroop ⟨d, below⟩ s = _
    simp [execDroop, hd, hb, hm, a, b]
  have hafter : ∀ e, SameDie e a (showFreq b) := fun e =>
    (SameDie.of_changes (odBump_changes a _ _ _)).trans (showFreq_sameDie b e)
  have hcount : odGet b (0x2300 + d) 0x0E = min cntMax (odGet s (0x2300 + d) 0x0E + 1) :=
    odGet_odBump a _ _ _ (not_logKey (by omega) (by decide))
  obtain ⟨hs, hle, heq⟩ := ((addStretch_stretched s d 0 _).of_same (.refl d s) (hafter d)).half
  refine ⟨_, hrun, hs, hle, heq, ?_, ?_, fun e he => ?_⟩
  · rw [odGet_showFreq b hd, (showFreq_sameDie b d).freq]
  · rw [(showFreq_keeps b).get _ _ (fun e _ => odKey_ne (by decide) (by decide) (by omega)), hcount]
  · exact ((addStretch_sameDie s 0 _ (Ne.symm he)).trans (hafter e)).freq

theorem overcurrent_stretches (s : State) (watts : Nat) (hw : 6700 < watts) (hb : bulkOn s = true) :
    ∃ t, exec (.overcurrent watts) s = .next t ∧ odGet t 0x2100 0x0C = min cntMax (odGet s 0x2100 0x0C + 1) ∧
      ∀ d, d < 4 → hasStretch t d 1 = true ∧ arrayFreq t d ≤ max floorFreq (arrayFreq s d / 2) ∧
        (floorFreq ≤ arrayFreq s d → arrayFreq t d = max floorFreq (arrayFreq s d / 2)) := by
  let a := dies.foldl (fun s d => addStretch s d 1 (arrayFreq s d / 2)) s
  let b := odBump a 0x2100 0x0C 1
  have hrun : exec (.overcurrent watts) s = .next (showFreq b) := by
    show execOvercurrent watts s = _
    simp [execOvercurrent, hw, hb, a, b]
  have hold : OdKeeps (fun _ => True) s a := .foldl (fun s d => .of_changes (addStretch_changes s d 1 _)) dies s
  have hcount : odGet b 0x2100 0x0C = min cntMax (odGet s 0x2100 0x0C + 1) := by
    rw [← hold.get 0x2100 0x0C trivial]; exact odGet_odBump a _ _ _ (not_logKey (by decide) (by decide))
  refine ⟨_, hrun, ?_, fun d hd => ?_⟩
  · rw [(showFreq_keeps b).get _ _ (fun e _ => odKey_ne (by decide) (by decide) (by omega)), hcount]
  · obtain ⟨x, hx, ha⟩ := SameDie.foldl_dies (d := d) (f := fun s d => addStretch s d 1 (arrayFreq s d / 2))
      (fun s e he => addStretch_sameDie s 1 _ he) (by decide) (mem_dies hd) s
    have hafter : SameDie d (addStretch x d 1 (arrayFreq x d / 2)) (showFreq b) :=
      ha.trans ((SameDie.of_changes (odBump_changes a _ _ _)).trans (showFreq_sameDie b d))
    rw [hx.freq] at hafter
    exact ((addStretch_stretched x d 1 _).of_same hx hafter).half

/-- The stretch of a thermal row on one die: a cause that is in force already is left as it is (R416). -/
def thermalStep (cause : Nat) (s : State) (d : Nat) : State :=
  if hasStretch s d cause then s else addStretch s d cause (arraySetPoint s d * 768)

theorem thermalStep_sameDie (cause : Nat) (s : State) {d e : Nat} (h : e ≠ d) : SameDie d s (thermalStep cause s e) := by
  unfold thermalStep
  split
  · exact .refl d s
  · exact addStretch_sameDie s cause _ h

theorem execThermalStretch_eq (r : Reading) (s : State) : execThermalStretch r s =
    .next (if sensorExists r.site r.sensor && bulkOn s && threshold s (thresholdSub r.site r.sensor + 1) ≤ r.t16 then
      showFreq ((diesOf r).foldl (thermalStep (thermalCause r)) (sense s r)) else sense s r) := by
  unfold execThermalStretch
  simp only [threshold_sense]
  rfl

theorem thermalStretch_below (s : State) (r : Reading) (h : r.t16 < threshold s (thresholdSub r.site r.sensor + 1)) :
    exec (.thermalStretch r) s = .next (sense s r) := by
  show execThermalStretch r s = _
  rw [execThermalStretch_eq]
  simp [not_le.mpr h]

theorem bulkOff_thermalStretch {s : State} (hb : bulkOn s = false) (r : Reading) : exec (.thermalStretch r) s = .next (sense s r) := by
  show execThermalStretch r s = _
  rw [execThermalStretch_eq]
  simp [hb]

/-- A step that adds stretches and sets clocks, die after die, takes no reading. -/
theorem foldl_keeps_sensors {f : State → Nat → State} (hf : ∀ s d, (f s d).sensors = s.sensors) (l : List Nat) (s : State) :
    (showFreq (l.foldl f s)).sensors = s.sensors := by
  obtain ⟨-, -, -, -, -, -, -, -, -, -, -, hshow, -⟩ := (showFreq_changes (l.foldl f s)).same .power rfl
  exact hshow.trans (foldl_keeps (g := State.sensors) hf l s)

theorem thermalStretch_stretches (s : State) (r : Reading) (hs : s.Sound) (he : sensorExists r.site r.sensor = true) (hb : bulkOn s = true)
    (ht : threshold s (thresholdSub r.site r.sensor + 1) ≤ r.t16) :
    ∃ t, exec (.thermalStretch r) s = .next t ∧ readSensor t r.site r.sensor = r.t16 ∧
      ∀ d, d < 4 → (d ∈ diesOf r → hasStretch t d (thermalCause r) = true ∧
        (hasStretch s d (thermalCause r) = true → arrayFreq t d = arrayFreq s d) ∧
        (hasStretch s d (thermalCause r) = false → arrayFreq t d ≤ max floorFreq (arraySetPoint s d * 768) ∧
          (floorFreq ≤ arrayFreq s d → arrayFreq t d = max floorFreq (min (arraySetPoint s d * 768) (arrayFreq s d))))) ∧
        (d ∉ diesOf r → arrayFreq t d = arrayFreq s d) := by
  let a := (diesOf r).foldl (thermalStep (thermalCause r)) (sense s r)
  have hrun : exec (.thermalStretch r) s = .next (showFreq a) := by
    show execThermalStretch r s = _
    rw [execThermalStretch_eq]
    simp [he, hb, ht, a]
  have hsensors : (showFreq a).sensors = (sense s r).sensors :=
    foldl_keeps_sensors (fun s d => by unfold thermalStep; split <;> rfl) _ _
  refine ⟨_, hrun, ?_, fun d _ => ⟨fun hmem => ?_, fun hmem => ?_⟩⟩
  · rw [readSensor_congr hsensors, readSensor_sense hs he (sensorPowered_of_bulkOn hb _ _)]
  · obtain ⟨x, hx, ha⟩ := SameDie.foldl_dies (fun s e h => thermalStep_sameDie (thermalCause r) s h) (diesOf_nodup r) hmem (sense s r)
    have hbefore : SameDie d s x := (sense_sameDie s r d).trans hx
    have hafter : SameDie d (thermalStep (thermalCause r) x d) (showFreq a) := ha.trans (showFreq_sameDie a d)
    cases hc : hasStretch s d (thermalCause r) with
    | true =>
      have hstep : thermalStep (thermalCause r) x d = x := if_pos ((hbefore.stretch _).trans hc)
      rw [hstep] at hafter
      have hall := hbefore.trans hafter
      exact ⟨(hall.stretch _).trans hc, fun _ => hall.freq, nofun⟩
    | false =>
      have hstep : thermalStep (thermalCause r) x d = addStretch x d (thermalCause r) (arraySetPoint s d * 768) := by
        rw [← hbefore.setPoint]; exact if_neg (by rw [hbefore.stretch, hc]; decide)
      rw [hstep] at hafter
      obtain ⟨hst, hle, heq⟩ := (addStretch_stretched x d (thermalCause r) _).of_same hbefore hafter
      exact ⟨hst, nofun, fun _ => ⟨hle.trans (max_le_max_left _ (min_le_left _ _)), heq⟩⟩
  · have hfold : SameDie d (sense s r) a := SameDie.foldl (fun s e h => thermalStep_sameDie _ s (fun (hh : e = d) => hmem (hh ▸ h))) _
    exact ((sense_sameDie s r d).trans (hfold.trans (showFreq_sameDie a d))).freq

/-- ARRAY.d at the floor and CORE.d at 1.0 GHz, under a cause (R416, R421). -/
def floorStep (cause : Nat) (s : State) (d : Nat) : State := setCoreFreq (addStretch s d cause floorFreq) d 1000

theorem floorStep_sameDie (cause : Nat) (s : State) {d e : Nat} (h : e ≠ d) : SameDie d s (floorStep cause s e) :=
  (addStretch_sameDie s cause floorFreq h).trans (setCoreFreq_sameDie _ 1000 h)

/-- Going through dies to the floor, each of them gets there. -/
theorem foldl_floorStep (cause : Nat) {l : List Nat} (hn : l.Nodup) {d : Nat} (hd : d ∈ l) (s : State) :
    Stretched cause floorFreq d s (l.foldl (floorStep cause) s) ∧ ∀ f, (l.foldl (floorStep cause) s).coreMHz[d]? = some f → f = 1000 := by
  obtain ⟨x, hx, ha⟩ := SameDie.foldl_dies (fun s e h => floorStep_sameDie cause s h) hn hd s
  obtain ⟨hstretch, hle, heq⟩ := addStretch_stretched x d cause floorFreq
  have hstep : Stretched cause floorFreq d x (floorStep cause x d) := ⟨hstretch, hle, heq⟩
  exact ⟨hstep.of_same hx ha, fun f hf => coreMHz_setCoreFreq (ha.core.symm.trans hf)⟩

theorem execJunctionLimit_eq (r : Reading) (s : State) : execJunctionLimit r s =
    .next (if sensorExists r.site r.sensor && bulkOn s && !isStackSensor r.site r.sensor && (if r.site < 4 then 1600 else 1520) ≤ r.t16 then
      showFreq ((diesOf r).foldl (floorStep (if r.site < 4 then 4 else 6)) (sense s r)) else sense s r) := rfl

theorem junctionLimit_below (s : State) (r : Reading) (h : r.t16 < (if r.site < 4 then 1600 else 1520)) :
    exec (.junctionLimit r) s = .next (sense s r) := by
  show execJunctionLimit r s = _
  rw [execJunctionLimit_eq, if_neg]
  simp only [Bool.and_eq_true, decide_eq_true_eq, not_and]
  exact fun _ => not_le.mpr h

theorem bulkOff_junctionLimit {s : State} (hb : bulkOn s = false) (r : Reading) : exec (.junctionLimit r) s = .next (sense s r) := by
  show execJunctionLimit r s = _
  rw [execJunctionLimit_eq]
  simp [hb]

theorem junctionLimit_stretches (s : State) (r : Reading) (hs : s.Sound) (he : sensorExists r.site r.sensor = true) (hb : bulkOn s = true)
    (hk : isStackSensor r.site r.sensor = false) (ht : (if r.site < 4 then 1600 else 1520) ≤ r.t16) :
    ∃ t, exec (.junctionLimit r) s = .next t ∧ readSensor t r.site r.sensor = r.t16 ∧
      ∀ d, d ∈ diesOf r → hasStretch t d (if r.site < 4 then 4 else 6) = true ∧ arrayFreq t d ≤ floorFreq ∧
        (floorFreq ≤ arrayFreq s d → arrayFreq t d = floorFreq) ∧ ∀ f, t.coreMHz[d]? = some f → f = 1000 := by
  generalize hc : (if r.site < 4 then 4 else 6) = cause
  let a := (diesOf r).foldl (floorStep cause) (sense s r)
  have hrun : exec (.junctionLimit r) s = .next (showFreq a) := by
    show execJunctionLimit r s = _
    rw [execJunctionLimit_eq, hc, he, hb, hk, if_pos]
    simpa using ht
  have hsensors : (showFreq a).sensors = (sense s r).sensors := foldl_keeps_sensors (f := floorStep cause) (fun _ _ => rfl) _ _
  refine ⟨_, hrun, ?_, fun d hmem => ?_⟩
  · rw [readSensor_congr hsensors, readSensor_sense hs he (sensorPowered_of_bulkOn hb _ _)]
  · obtain ⟨hst, hcore⟩ := foldl_floorStep cause (diesOf_nodup r) hmem (sense s r)
    have hall : Stretched cause floorFreq d s (showFreq a) := hst.of_same (sense_sameDie s r d) (showFreq_sameDie a d)
    obtain ⟨hle, heq⟩ := hall.floor
    exact ⟨hall.stretch, hle, heq, fun f hf => hcore f ((showFreq_sameDie a d).core.symm.trans hf)⟩

/-- Settles O40: each cause adds its own stretch to the dies it acts on, and what comes before and after keeps their clocks. -/
theorem clocksStretch : Obligations.ClocksStretch :=
  ⟨droop_stretches, droop_within, overcurrent_stretches, thermalStretch_stretches, thermalStretch_below, junctionLimit_stretches,
    junctionLimit_below, fun _ x watts r hb =>
      ⟨bulkOff_droop hb x, bulkOff_overcurrent hb watts, bulkOff_thermalStretch hb r, bulkOff_junctionLimit hb r⟩⟩

end Sys2Proof.Machine
end

section
/-! PROOFS. Emergencies (R418, R420 to R422): what the appearance of a cause does and keeps, how a cause clears, and how the clocks rise
again. -/

namespace Sys2Proof.Machine

/-! ### The clocks and allocations of an emergency (R421) -/

/-- The allocations are held, and the emergency share of them is in force. -/
def holdAllocations (s : State) : State :=
  odSet { s with allocHeld := some (s.allocHeld.getD (odGet s 0x2100 0x02)) } 0x2100 0x02
    (emergencyShare s (s.allocHeld.getD (odGet s 0x2100 0x02)))

theorem emergencyClocks_eq (s : State) : emergencyClocks s = showFreq (holdAllocations (dies.foldl (floorStep 5) s)) := rfl

/-- What the clocks of an emergency leave of the power state. -/
theorem emergencyClocks_aside (s : State) : (emergencyClocks s).trips = s.trips ∧ (emergencyClocks s).emergNLow = s.emergNLow ∧
    (emergencyClocks s).releasing = s.releasing := by
  rw [emergencyClocks_eq]
  obtain ⟨-, -, -, -, -, -, -, -, -, hr, he, -, ht, -⟩ := (showFreq_changes (holdAllocations (dies.foldl (floorStep 5) s))).same .power rfl
  rw [ht, he, hr]
  exact ⟨foldl_keeps (g := State.trips) (f := floorStep 5) (fun _ _ => rfl) dies s,
    foldl_keeps (g := State.emergNLow) (f := floorStep 5) (fun _ _ => rfl) dies s,
    foldl_keeps (g := State.releasing) (f := floorStep 5) (fun _ _ => rfl) dies s⟩

theorem emergencyClocks_floor (s : State) {d : Nat} (hd : d < 4) : arrayFreq (emergencyClocks s) d ≤ floorFreq ∧
    ∀ f, (emergencyClocks s).coreMHz[d]? = some f → f = 1000 := by
  obtain ⟨hst, hcore⟩ := foldl_floorStep 5 (l := dies) (by decide) (mem_dies hd) s
  rw [emergencyClocks_eq]
  generalize dies.foldl (floorStep 5) s = a at *
  have hheld : SameDie d a (holdAllocations a) := .of_eq rfl rfl rfl
  have hall := hheld.trans (showFreq_sameDie _ d)
  exact ⟨hall.freq ▸ hst.floor.1, fun f hf => hcore f (hall.core.symm.trans hf)⟩

theorem emergencyClocks_holds (s : State) : (emergencyClocks s).allocHeld.isSome = true := by
  rw [emergencyClocks_eq]
  generalize dies.foldl (floorStep 5) s = a
  rfl

/-- The entries that the clocks of an emergency leave as they were. -/
theorem emergencyClocks_keeps (s : State) :
    OdKeeps (fun k => k ≠ odKey 0x2100 0x02 ∧ ∀ d, d < 4 → k ≠ odKey (0x2300 + d) 0x0B) s (emergencyClocks s) := by
  rw [emergencyClocks_eq]
  refine OdKeeps.trans ?_ ((showFreq_keeps _).mono (fun _ h => h.2))
  refine (OdKeeps.foldl (f := floorStep 5) (fun s d => ?_) dies s).trans ?_
  · exact (OdKeeps.of_changes (addStretch_changes s d 5 floorFreq)).trans (.of_changes (setCoreFreq_changes _ d 1000))
  · generalize dies.foldl (floorStep 5) s = a
    unfold holdAllocations
    exact (OdKeeps.of_od (s := a)).trans (.set _ _ (fun h => h.1 rfl))

theorem Logs.of_keeps {P : Nat → Prop} {s t : State} (h : OdKeeps P s t) (hp : P (odKey 0x7000 0x01)) (ho : t.out = s.out) : Logs s t :=
  ⟨by rw [ho], fun b hb => by rw [h.get _ _ hp]; exact hb⟩

theorem emergencyClocks_logs (s : State) : Logs s (emergencyClocks s) :=
  .of_keeps (emergencyClocks_keeps s) ⟨by decide, fun _ _ => odKey_ne (by decide) (by decide) (by omega)⟩
    ((emergencyClocks_changes s).same .output rfl).2.2.2.2

/-! ### A cause appears (R421) -/

/-- The record and the snag of a cause that appears. -/
def noteCause (s : State) (b : Nat) : State := causeSnag (stateChange s pkgUnit 0x2100 0x05 (withBit (causes s) b true) 0x8050 6) b

/-- An activation that is QUIESCING returns to DEFERRED (R504). -/
def deferActivation (s : State) : State := if odGet s 0x8000 0x09 = 2 then odSet s 0x8000 0x09 1 else s

/-- What follows the clocks of an emergency that is entered: its deferral of an activation, its report, its snag and its vectors. -/
def announceEmergency (s : State) (v : Nat) : State :=
  msixAllContexts (snagSet (fileCode (deferActivation s) 0x8050 pkgUnit v) 1)

/-- The entry into an emergency. -/
def enterEmergency (s : State) : State := odBump (emergencyClocks { s with releasing := false }) 0x2100 0x0B 1

theorem raiseCause_eq (s : State) (b : Nat) (h : bitOf (causes s) b = false) : raiseCause s b =
    if causes s ≠ 0 then noteCause s b else announceEmergency (enterEmergency (noteCause s b)) (withBit (causes s) b true) := by
  unfold raiseCause
  dsimp only
  rw [if_neg (by unfold causes at h; rw [h]; decide)]
  rfl

theorem causeSnag_offLog (s : State) (b : Nat) : OffLog s (causeSnag s b) := by
  unfold causeSnag
  split
  · exact snagSet_offLog s _
  · exact .refl s

theorem causeSnag_notified (s : State) (b : Nat) : Notified s (causeSnag s b) := by
  unfold causeSnag
  split
  · exact snagSet_notified s _
  · exact .refl s

theorem noteCause_changes (s : State) (b : Nat) : Changes [.draws, .od, .recorder, .access, .output] s (noteCause s b) :=
  (stateChange_changes s _ _ _ _ _ _).trans (causeSnag_changes _ b)

theorem noteCause_notified (s : State) (b : Nat) : Notified s (noteCause s b) :=
  (stateChange_notified s _ _ _ _ _ _).trans (causeSnag_notified _ b)

theorem noteCause_keeps (s : State) (b : Nat) : OdKeeps (fun k => k ≠ odKey 0x2100 0x05 ∧ ¬ logKey k) s (noteCause s b) :=
  (stateChange_keeps s _ _ _ _ _ _).trans ((causeSnag_offLog _ b).mono (fun _ h => h.2))

theorem causes_noteCause (s : State) (b : Nat) : causes (noteCause s b) = withBit (causes s) b true := by
  have hlog : ¬ logKey (odKey 0x2100 0x05) := not_logKey (by decide) (by decide)
  exact ((causeSnag_offLog _ b).get 0x2100 0x05 hlog).trans (odGet_stateChange s _ _ _ _ _ _ hlog)

theorem snag_noteCause (s : State) {b : Nat} (hb : b < 4) : bitOf (odGet (noteCause s b) 0x7000 0x01) (2 + b) = true := by
  unfold noteCause causeSnag
  rw [if_pos hb]
  exact (snagSet_logs _ _).2

theorem bitOf_withBit_self (v b : Nat) : bitOf (withBit v b true) b = true := by
  rw [bitOf_withBit]; simp

theorem enterEmergency_keeps (s : State) :
    OdKeeps (fun k => k ≠ odKey 0x2100 0x02 ∧ k ≠ odKey 0x2100 0x0B ∧ (∀ d, d < 4 → k ≠ odKey (0x2300 + d) 0x0B) ∧ ¬ logKey k) s (enterEmergency s) :=
  ((OdKeeps.of_od (s := s) (t := { s with releasing := false })).trans
    ((emergencyClocks_keeps _).mono (fun _ ⟨h2, _, hd, _⟩ => ⟨h2, hd⟩))).trans
      ((odBump_keeps _ _ _ _).mono (fun _ ⟨_, hb, _, hl⟩ => ⟨hb, hl⟩))

theorem enterEmergency_count (s : State) : odGet (enterEmergency s) 0x2100 0x0B = min cntMax (odGet s 0x2100 0x0B + 1) := by
  have hclocks : odGet (emergencyClocks { s with releasing := false }) 0x2100 0x0B = odGet s 0x2100 0x0B :=
    (emergencyClocks_keeps { s with releasing := false }).get 0x2100 0x0B
      ⟨by decide, fun d _ => odKey_ne (by decide) (by decide) (by omega)⟩
  unfold enterEmergency
  rw [odGet_odBump _ _ _ _ (not_logKey (by decide) (by decide)), hclocks]

theorem enterEmergency_logs (s : State) : Logs s (enterEmergency s) :=
  ((Logs.of_eq (s := s) (t := { s with releasing := false }) rfl rfl).trans (emergencyClocks_logs _)).trans (odBump_logs _ _ _ _ (by decide))

theorem enterEmergency_notified (s : State) : Notified s (enterEmergency s) :=
  ((Notified.mk rfl rfl rfl rfl rfl rfl : Notified s { s with releasing := false }).trans
    (.of_changes (emergencyClocks_changes _))).trans (odBump_notified _ _ _ _)

/-- Every clock is at its floor and the allocations are held: what holds in an emergency from its entry on (R421). -/
structure AtFloor (s : State) : Prop where
  array : ∀ d, d < 4 → arrayFreq s d ≤ floorFreq
  core : ∀ d f, d < 4 → s.coreMHz[d]? = some f → f = 1000
  held : s.allocHeld.isSome = true
  steady : s.releasing = false

theorem AtFloor.of_changes {K : List Kind} {s t : State} (h : AtFloor s) (g : Changes K s t) (hk : K.contains .power = false := by rfl) :
    AtFloor t := by
  obtain ⟨-, -, -, hc, ha, -, -, -, -, hr, -⟩ := g.same .power hk
  exact ⟨fun d hd => (Nat.le_of_eq (SameDie.of_changes g hk).freq).trans (h.array d hd), fun d f hd hf => h.core d f hd (hc ▸ hf), ha ▸ h.held, hr ▸ h.steady⟩

theorem enterEmergency_atFloor (s : State) : AtFloor (enterEmergency s) := by
  have hclocks : AtFloor (emergencyClocks { s with releasing := false }) :=
    ⟨fun d hd => (emergencyClocks_floor _ hd).1, fun d f hd => (emergencyClocks_floor _ hd).2 f, emergencyClocks_holds _,
      (emergencyClocks_aside _).2.2⟩
  exact hclocks.of_changes (odBump_changes _ 0x2100 0x0B 1)

theorem enterEmergency_aside (s : State) : (enterEmergency s).trips = s.trips ∧ (enterEmergency s).emergNLow = s.emergNLow := by
  obtain ⟨ht, he, -⟩ := emergencyClocks_aside { s with releasing := false }
  obtain ⟨-, -, -, -, -, -, -, -, -, -, he', -, ht', -⟩ := (odBump_changes (emergencyClocks { s with releasing := false }) 0x2100 0x0B 1).same .power rfl
  exact ⟨ht'.trans ht, he'.trans he⟩

theorem deferActivation_changes (s : State) : Changes [.od] s (deferActivation s) := by
  unfold deferActivation
  split
  · exact odSet_changes s _ _ _
  · exact .refl

theorem deferActivation_keeps (s : State) : OdKeeps (fun k => k ≠ odKey 0x8000 0x09) s (deferActivation s) := by
  unfold deferActivation
  split
  · exact .set s _ (fun h => h rfl)
  · exact .refl s

theorem announceEmergency_changes (s : State) (v : Nat) : Changes [.draws, .od, .recorder, .access, .output] s (announceEmergency s v) :=
  ((((deferActivation_changes s).mono (by decide)).trans (fileCode_changes _ _ _ _)).trans (snagSet_changes _ 1)).trans
    ((msixAllContexts_changes _).mono (by decide))

theorem announceEmergency_keeps (s : State) (v : Nat) : OdKeeps (fun k => k ≠ odKey 0x8000 0x09 ∧ ¬ logKey k) s (announceEmergency s v) :=
  ((((deferActivation_keeps s).mono (fun _ h => h.1)).trans ((fileCode_offLog _ _ _ _).mono (fun _ h => h.2))).trans
    ((snagSet_offLog _ 1).mono (fun _ h => h.2))).trans (.of_changes (msixAllContexts_changes _))

theorem announceEmergency_notified (s : State) (v : Nat) : Notified s (announceEmergency s v) :=
  (((Notified.of_changes (deferActivation_changes s)).trans (fileCode_notified _ _ _ _)).trans (snagSet_notified _ 1)).trans
    (.of_changes (msixAllContexts_changes _))

theorem msixAllContexts_logs (s : State) : Logs s (msixAllContexts s) := by
  unfold msixAllContexts
  exact .foldl (fun s c => raiseVector_logs s _) _ s

theorem announceEmergency_logs (s : State) (v : Nat) :
    Logs s (announceEmergency s v) ∧ bitOf (odGet (announceEmergency s v) 0x7000 0x01) 1 = true := by
  have hdefer : Logs s (deferActivation s) := .of_keeps (deferActivation_keeps s) (by decide) ((deferActivation_changes s).same .output rfl).2.2.2.2
  obtain ⟨hsnag, hbit⟩ := snagSet_logs (fileCode (deferActivation s) 0x8050 pkgUnit v) 1
  exact ⟨((hdefer.trans (fileCode_logs _ _ _ _)).trans hsnag).trans (msixAllContexts_logs _), (msixAllContexts_logs _).snags 1 hbit⟩

/-- A cause that was not in force appears, by R421. -/
theorem raiseCause_up (s : State) (b : Nat) (h : bitOf (causes s) b = false) : emergencyUp s (raiseCause s b) b := by
  rw [raiseCause_eq s b h]
  split
  · next hv => exact ⟨by rw [causes_noteCause, bitOf_withBit_self], snag_noteCause s, fun h0 => absurd h0 hv⟩
  · generalize hv : withBit (causes s) b true = v
    have hnoted : causes (noteCause s b) = v := (causes_noteCause s b).trans hv
    have hcount : odGet (noteCause s b) 0x2100 0x0B = odGet s 0x2100 0x0B :=
      (noteCause_keeps s b).get _ _ ⟨by decide, not_logKey (by decide) (by decide)⟩
    have hsnag := snag_noteCause s (b := b)
    generalize noteCause s b = n at *
    obtain ⟨hlogs, hone⟩ := announceEmergency_logs (enterEmergency n) v
    have hkeep := announceEmergency_keeps (enterEmergency n) v
    have hfloor := (enterEmergency_atFloor n).of_changes (announceEmergency_changes _ v)
    have hcauses : causes (announceEmergency (enterEmergency n) v) = v :=
      ((hkeep.get 0x2100 0x05 ⟨by decide, not_logKey (by decide) (by decide)⟩).trans
        ((enterEmergency_keeps n).get 0x2100 0x05 ⟨by decide, by decide, fun d _ => odKey_ne (by decide) (by decide) (by omega),
          not_logKey (by decide) (by decide)⟩)).trans hnoted
    have hentry : odGet (announceEmergency (enterEmergency n) v) 0x2100 0x0B = min cntMax (odGet s 0x2100 0x0B + 1) := by
      rw [hkeep.get _ _ ⟨by decide, not_logKey (by decide) (by decide)⟩, enterEmergency_count, hcount]
    exact ⟨by rw [hcauses, ← hv, bitOf_withBit_self], fun hb => hlogs.snags _ ((enterEmergency_logs n).snags _ (hsnag hb)),
      fun _ => ⟨hone, hfloor.array, hfloor.core, hfloor.held, hfloor.steady, hentry⟩⟩

theorem raiseCause_notified (s : State) (b : Nat) (h : bitOf (causes s) b = false) : Notified s (raiseCause s b) := by
  rw [raiseCause_eq s b h]
  split
  · exact noteCause_notified s b
  · exact ((noteCause_notified s b).trans (enterEmergency_notified _)).trans (announceEmergency_notified _ _)

/-- A cause that appears leaves the latched sensors and the level of EMERG_N. -/
theorem raiseCause_aside (s : State) (b : Nat) (h : bitOf (causes s) b = false) :
    (raiseCause s b).trips = s.trips ∧ (raiseCause s b).emergNLow = s.emergNLow := by
  obtain ⟨-, -, -, -, -, -, -, -, -, -, he, -, ht, -⟩ := (noteCause_changes s b).same .power rfl
  rw [raiseCause_eq s b h]
  split
  · exact ⟨ht, he⟩
  · generalize noteCause s b = n at *
    obtain ⟨ht', he'⟩ := enterEmergency_aside n
    obtain ⟨-, -, -, -, -, -, -, -, -, -, he'', -, ht'', -⟩ := (announceEmergency_changes (enterEmergency n) (withBit (causes s) b true)).same .power rfl
    exact ⟨(ht''.trans ht').trans ht, (he''.trans he').trans he⟩

/-- A step to x that keeps the causes, the count of emergencies and the requests (none waits), and then a cause that appears. -/
theorem serveHeld_raiseCause {s x : State} {b : Nat} (hw : s.waitingReqs = []) (hx : x.waitingReqs = s.waitingReqs)
    (hc : causes x = causes s) (hn : odGet x 0x2100 0x0B = odGet s 0x2100 0x0B) (hb : bitOf (causes s) b = false) :
    serveHeld (raiseCause x b) = raiseCause x b ∧ emergencyUp s (raiseCause x b) b := by
  have hbx : bitOf (causes x) b = false := by rw [hc]; exact hb
  have hup := raiseCause_up x b hbx
  unfold emergencyUp at hup ⊢
  rw [hc, hn] at hup
  exact ⟨serveHeld_idle ((raiseCause_notified x b hbx).waitingReqs.trans (hx.trans hw)), hup⟩

/-! ### The causes (R409, R418, R420, R421) -/

theorem emergN_up (s : State) (hw : s.waitingReqs = []) (ha : s.aonUp = true) (hb : bitOf (causes s) 0 = false) :
    ∃ t, exec .emergN s = .next t ∧ emergencyUp s t 0 ∧ t.emergNLow = true := by
  obtain ⟨hserve, hup⟩ := serveHeld_raiseCause (x := { s with emergNLow := true }) hw rfl rfl rfl hb
  refine ⟨_, ?_, hup, (raiseCause_aside { s with emergNLow := true } 0 hb).2⟩
  show execEmergN s = _
  have hfalls : emergNFalls s = raiseCause { s with emergNLow := true } 0 := if_pos ha
  rw [execEmergN, hfalls, hserve]

theorem vbulkUndervoltage_up (s : State) (mV : Nat) (hw : s.waitingReqs = []) (ha : s.aonUp = true) (hm : mV < 11000)
    (hb : bitOf (causes s) 3 = false) : ∃ t, exec (.vbulkUndervoltage mV) s = .next t ∧ emergencyUp s t 3 := by
  obtain ⟨hserve, hup⟩ := serveHeld_raiseCause hw rfl rfl rfl hb
  refine ⟨_, ?_, hup⟩
  show execVbulkUndervoltage mV s = _
  have hlow : vbulkLow mV s = raiseCause s 3 := if_pos (by simp [ha, hm])
  rw [execVbulkUndervoltage, hlow, hserve]

theorem mem_insertNat {l : List Nat} {k x : Nat} : x ∈ insertNat l k ↔ x ∈ l ∨ x = k := by
  refine ⟨insertNat_mem, fun h => ?_⟩
  induction l with
  | nil => simpa [insertNat] using h
  | cons j r ih =>
    unfold insertNat
    split
    · simp only [List.mem_cons] at h ⊢; tauto
    · split
      · next e => subst e; simp only [List.mem_cons] at h ⊢; tauto
      · simp only [List.mem_cons] at h ⊢; tauto

theorem sense_notified (s : State) (r : Reading) : Notified s (sense s r) := .of_changes (sense_changes s r)

theorem thermalTrip_up (s : State) (r : Reading) (hw : s.waitingReqs = []) (he : sensorExists r.site r.sensor = true)
    (hp : sensorPowered s r.site r.sensor = true) (ht : threshold s (thresholdSub r.site r.sensor + 2) ≤ r.t16) (hb : bitOf (causes s) 1 = false) :
    ∃ t, exec (.thermalTrip r) s = .next t ∧ emergencyUp s t 1 ∧ (r.site * 256 + r.sensor) ∈ t.trips := by
  let x : State := { sense s r with trips := insertNat (sense s r).trips (r.site * 256 + r.sensor) }
  have hcauses : causes x = causes s := (sense_keeps s r).get 0x2100 0x05 (by decide)
  have hcount : odGet x 0x2100 0x0B = odGet s 0x2100 0x0B := (sense_keeps s r).get 0x2100 0x0B (by decide)
  obtain ⟨hserve, hup⟩ := serveHeld_raiseCause (x := x) hw (sense_notified s r).waitingReqs hcauses hcount hb
  have htrip : thermalTrip r s = raiseCause x 1 := by
    unfold thermalTrip
    dsimp only
    rw [threshold_sense, he, hp, if_pos (by simpa using ht)]
  refine ⟨_, ?_, hup, ?_⟩
  · show execThermalTrip r s = _
    rw [execThermalTrip, htrip, hserve]
  · rw [(raiseCause_aside x 1 (hcauses ▸ hb)).1]
    exact mem_insertNat.mpr (.inr rfl)

/-- A window of the governor up to its comparison with the limit (R417). -/
def governWindow (m : List Nat) (watts : Nat) (rs : List Reading) (s : State) : State :=
  newWindow (dies.foldl governDie (odSet (odSet (takeDynamic (senseAll s rs) m) 0x2100 0x07 watts) 0x2100 0x09 (nextLambda s watts)))

/-- The entries of the limits and causes (0x2100 but for .07 and .09). -/
def limitKey (k : Nat) : Prop := k / 256 = 0x2100 ∧ k ≠ odKey 0x2100 0x07 ∧ k ≠ odKey 0x2100 0x09

theorem limitKey_of {n : Nat} (hn : n < 256) (h7 : n ≠ 7) (h9 : n ≠ 9) : limitKey (odKey 0x2100 n) := by
  unfold limitKey odKey; omega

theorem governDie_keeps (s : State) (d : Nat) : OdKeeps limitKey s (governDie s d) := by
  have hset : ∀ (x : State) (n v : Nat), n < 256 → OdKeeps limitKey x (odSet x (0x2300 + d) n v) := fun x n v hn =>
    .set x v (fun h => by unfold limitKey odKey at h; omega)
  unfold governDie
  exact ((hset _ _ _ (by decide)).trans (hset _ _ _ (by decide))).trans (hset _ _ _ (by decide))

theorem senseAll_keeps (s : State) (rs : List Reading) : OdKeeps (fun k => k / 256 ≠ 0x2200) s (senseAll s rs) :=
  .foldl sense_keeps rs s

theorem governWindow_keeps (m : List Nat) (watts : Nat) (rs : List Reading) (s : State) : OdKeeps limitKey s (governWindow m watts rs s) := by
  have hsense : OdKeeps limitKey s (senseAll s rs) := (senseAll_keeps s rs).mono (fun k h => by rw [h.1]; decide)
  have hstart : OdKeeps limitKey s (odSet (odSet (takeDynamic (senseAll s rs) m) 0x2100 0x07 watts) 0x2100 0x09 (nextLambda s watts)) :=
    ((hsense.trans (.of_changes (takeDynamic_changes _ m))).trans (.set _ _ (fun h => h.2.1 rfl))).trans (.set _ _ (fun h => h.2.2 rfl))
  exact (hstart.trans (.foldl governDie_keeps dies _)).trans (.of_changes (newWindow_changes _))

theorem governWindow_changes (m : List Nat) (watts : Nat) (rs : List Reading) (s : State) :
    Changes [.draws, .od, .commands, .power] s (governWindow m watts rs s) := by
  have hstart := ((((senseAll_changes s rs).mono (K := [.draws, .od, .commands, .power]) (by decide)).trans
    ((takeDynamic_changes _ m).mono (by decide))).trans ((odSet_changes _ 0x2100 0x07 watts).mono (by decide))).trans
    ((odSet_changes _ 0x2100 0x09 (nextLambda s watts)).mono (by decide))
  exact (Changes.foldl dies hstart (fun s d => (governDie_changes s d).mono (by decide))).trans ((newWindow_changes _).mono (by decide))

theorem sense_overWindows (s : State) (r : Reading) : (sense s r).overWindows = s.overWindows := by
  unfold sense; split <;> rfl

theorem newWindow_overWindows (s : State) : (newWindow s).overWindows = s.overWindows :=
  foldl_keeps (g := State.overWindows) (f := fun s (c : Cmd) => addWindow s (dieOf c.u) (energyPart c.nominal c.winTotal c.winDone))
    (fun _ _ => rfl) _ _

theorem governWindow_overWindows (m : List Nat) (watts : Nat) (rs : List Reading) (s : State) :
    (governWindow m watts rs s).overWindows = s.overWindows := by
  unfold governWindow
  rw [newWindow_overWindows, foldl_keeps (g := State.overWindows) (f := governDie) (fun _ _ => rfl)]
  exact foldl_keeps (g := State.overWindows) sense_overWindows rs s

theorem governorLoop_up (s : State) (m : List Nat) (watts : Nat) (rs : List Reading) (hw : s.waitingReqs = []) (hb : bulkOn s = true)
    (ho : s.overWindows = 999) (hl : odGet s 0x2100 0x01 < watts) (hc : bitOf (causes s) 2 = false) :
    ∃ t, exec (.governorLoop m watts rs) s = .next t ∧ emergencyUp s t 2 := by
  let g := governWindow m watts rs s
  have hkeep : OdKeeps limitKey s g := governWindow_keeps m watts rs s
  have hlimit : odGet g 0x2100 0x01 = odGet s 0x2100 0x01 := hkeep.get _ _ (limitKey_of (by decide) (by decide) (by decide))
  have hover : g.overWindows + 1 = 1000 := by rw [governWindow_overWindows, ho]
  have hnote : Notified s g := .of_changes (governWindow_changes m watts rs s)
  obtain ⟨hserve, hup⟩ := serveHeld_raiseCause (x := { g with overWindows := g.overWindows + 1 }) hw hnote.waitingReqs
    (hkeep.get 0x2100 0x05 (limitKey_of (by decide) (by decide) (by decide)))
    (hkeep.get 0x2100 0x0B (limitKey_of (by decide) (by decide) (by decide))) hc
  have hloop : governorLoop m watts rs s = raiseCause { g with overWindows := g.overWindows + 1 } 2 := by
    have hwindow : governorLoop m watts rs s = if odGet g 0x2100 0x01 < watts then
        (if g.overWindows + 1 = 1000 then raiseCause { g with overWindows := g.overWindows + 1 } 2 else { g with overWindows := g.overWindows + 1 })
        else clearCause { g with overWindows := 0 } 2 := if_pos hb
    rw [hwindow, if_pos (by rw [hlimit]; exact hl), if_pos hover]
  refine ⟨_, ?_, hup⟩
  show execGovernorLoop m watts rs s = _
  rw [execGovernorLoop, hloop, hserve]

/-! ### A cause clears (R421, R422) -/

theorem bitOf_withBit_clear (v b : Nat) : bitOf (withBit v b false) b = false := by
  unfold bitOf withBit
  rw [if_neg (by decide)]
  by_cases h : v.testBit b = true
  · have hflip := Nat.testBit_two_pow_add_eq (v - 2 ^ b) b
    rw [Nat.add_sub_cancel' (Nat.ge_two_pow_of_testBit h), h] at hflip
    rw [if_pos h]
    simpa using hflip.symm
  · rw [if_neg h]
    simpa using h

theorem clearCause_eq (s : State) (b : Nat) (h : bitOf (causes s) b = true) : clearCause s b =
    if withBit (causes s) b false ≠ 0 then stateChange s pkgUnit 0x2100 0x05 (withBit (causes s) b false) 0 0
    else dies.foldl (fun s d => releaseStretch s d 5)
      { stateChange s pkgUnit 0x2100 0x05 (withBit (causes s) b false) 0 0 with
        releasing := true, emergAt := (stateChange s pkgUnit 0x2100 0x05 (withBit (causes s) b false) 0 0).uptime } := by
  unfold clearCause
  dsimp only
  rw [if_neg (by unfold causes at h; rw [h]; decide)]
  rfl

theorem hasStretch_releaseStretch (s : State) (e d c : Nat) : hasStretch (releaseStretch s e c) d c = (hasStretch s d c && e != d) := by
  rw [Bool.eq_iff_iff, Bool.and_eq_true, bne_iff_ne, hasStretch_iff, hasStretch_iff]
  simp only [releaseStretch, List.mem_map]
  constructor
  · rintro ⟨_, ⟨x, hx, rfl⟩, hd, hc, ha⟩
    split at hd
    · next hr => simp [hr] at ha
    · next hr =>
      rw [if_neg hr] at hc ha
      refine ⟨⟨x, hx, hd, hc, ha⟩, fun he => ?_⟩
      exact hr (by simp [he, hc, hd])
  · rintro ⟨⟨x, hx, hd, hc, ha⟩, he⟩
    refine ⟨x, ⟨x, hx, if_neg ?_⟩, hd, hc, ha⟩
    simp [hd, Ne.symm he]

/-- Once every die's stretch of a cause is in release, none is in force. -/
theorem hasStretch_foldl_release (s : State) (c : Nat) {d : Nat} (hd : d < 4) :
    hasStretch (dies.foldl (fun s d => releaseStretch s d c) s) d c = false := by
  simp only [dies, List.foldl_cons, List.foldl_nil, hasStretch_releaseStretch]
  have : d = 0 ∨ d = 1 ∨ d = 2 ∨ d = 3 := by omega
  rcases this with rfl | rfl | rfl | rfl <;> simp

/-- A release touches the stretches alone. -/
theorem foldl_releaseStretch_stretches (l : List Nat) (s : State) (c : Nat) :
    ∃ x, l.foldl (fun s d => releaseStretch s d c) s = { s with stretches := x } := by
  induction l generalizing s with
  | nil => exact ⟨_, rfl⟩
  | cons d r ih => exact ih (releaseStretch s d c)

theorem emergNReturnsHigh_clears (s : State) (hb : bitOf (causes s) 0 = true) : ∃ t, exec .emergNReturnsHigh s = .next t ∧
    bitOf (causes t) 0 = false ∧ t.emergNLow = false ∧
    (causes s = 1 → causes t = 0 ∧ t.releasing = true ∧ t.emergAt = s.uptime ∧ ∀ d, d < 4 → hasStretch t d 5 = false) := by
  refine ⟨_, rfl, ?_⟩
  generalize hx : ({ s with emergNLow := false } : State) = x
  have hcx : causes x = causes s := by rw [← hx]; rfl
  have hlow : x.emergNLow = false := by rw [← hx]
  have hup : x.uptime = s.uptime := by rw [← hx]
  rw [clearCause_eq x 0 (hcx.symm ▸ hb), hcx]
  have hchange := stateChange_changes x pkgUnit 0x2100 0x05 (withBit (causes s) 0 false) 0 0
  have hcauses : causes (stateChange x pkgUnit 0x2100 0x05 (withBit (causes s) 0 false) 0 0) = withBit (causes s) 0 false :=
    odGet_stateChange x _ _ _ _ _ _ (not_logKey (by decide) (by decide))
  have huptime : (stateChange x pkgUnit 0x2100 0x05 (withBit (causes s) 0 false) 0 0).uptime = s.uptime := (hchange.same .clock rfl).trans hup
  obtain ⟨-, -, -, -, -, -, -, -, -, -, hlow', -⟩ := hchange.same .power rfl
  generalize stateChange x pkgUnit 0x2100 0x05 (withBit (causes s) 0 false) 0 0 = y at *
  have hbit : bitOf (causes y) 0 = false := hcauses ▸ bitOf_withBit_clear _ 0
  split
  · next hne =>
    refine ⟨hbit, hlow'.trans hlow, fun h1 => absurd ?_ hne⟩
    rw [h1]; decide
  · next he =>
    have hended := fun d hd => hasStretch_foldl_release { y with releasing := true, emergAt := y.uptime } 5 (d := d) hd
    obtain ⟨w, hw⟩ := foldl_releaseStretch_stretches dies { y with releasing := true, emergAt := y.uptime } 5
    rw [hw] at hended ⊢
    exact ⟨hbit, hlow'.trans hlow, fun _ => ⟨hcauses.trans (not_not.mp he), rfl, huptime, hended⟩⟩

/-! ### The release (R422) -/

theorem of_mem_mapFirst {α : Type} {p : α → Bool} {f : α → α} {l : List α} {b : α} (h : b ∈ mapFirst p f l) :
    b ∈ l ∨ ∃ a ∈ l, p a = true ∧ b = f a := by
  induction l with
  | nil => exact .inl h
  | cons a r ih =>
    unfold mapFirst at h
    split at h
    · next hp =>
      rcases List.mem_cons.mp h with rfl | h
      · exact .inr ⟨a, List.mem_cons_self, hp, rfl⟩
      · exact .inl (List.mem_cons_of_mem _ h)
    · rcases List.mem_cons.mp h with rfl | h
      · exact .inl List.mem_cons_self
      · rcases ih h with h | ⟨c, hc, hr⟩
        · exact .inl (List.mem_cons_of_mem _ h)
        · exact .inr ⟨c, List.mem_cons_of_mem _ hc, hr⟩

/-- A raised stretch stands no lower than before, on the same die. -/
theorem mem_raiseStretch {s : State} {x y : Stretch} (h : y ∈ (raiseStretch s x).stretches) : ∃ z ∈ s.stretches, z.d = y.d ∧ z.f ≤ y.f := by
  unfold raiseStretch at h
  dsimp only at h
  split at h
  · exact ⟨y, List.mem_of_mem_erase h, rfl, Nat.le_refl _⟩
  · rcases of_mem_mapFirst h with h | ⟨z, hz, hzx, rfl⟩
    · exact ⟨y, h, rfl, Nat.le_refl _⟩
    · obtain rfl := beq_iff_eq.mp hzx
      exact ⟨z, hz, rfl, Nat.le_add_right _ _⟩

theorem raiseStretch_arraySet (s : State) (x : Stretch) : (raiseStretch s x).arraySet = s.arraySet := by
  unfold raiseStretch; dsimp only; split <;> rfl

theorem arrayFreq_raiseStretch (s : State) (x : Stretch) (d : Nat) : arrayFreq s d ≤ arrayFreq (raiseStretch s x) d := by
  have hset : arraySetPoint (raiseStretch s x) d = arraySetPoint s d := by unfold arraySetPoint; rw [raiseStretch_arraySet]
  obtain ⟨hcap, hall⟩ := (le_arrayFreq s d _).mp (Nat.le_refl _)
  refine (le_arrayFreq _ _ _).mpr ⟨hset ▸ hcap, fun y hy hyd => ?_⟩
  obtain ⟨z, hz, hzd, hzf⟩ := mem_raiseStretch hy
  exact (hall z hz (hzd.trans hyd)).trans hzf

theorem arrayFreq_foldl_raiseStretch (l : List Stretch) (s : State) (d : Nat) : arrayFreq s d ≤ arrayFreq (l.foldl raiseStretch s) d := by
  induction l generalizing s with
  | nil => exact Nat.le_refl _
  | cons x r ih => exact (arrayFreq_raiseStretch s x d).trans (ih _)

/-- Stretches within a step of their set point end. -/
theorem foldl_raiseStretch_ends (l : List Stretch) (s : State) (h : ∀ x ∈ l, arraySetPoint s x.d * 1024 ≤ x.f + sixteenth s x.d) :
    (l.foldl raiseStretch s).stretches = s.stretches.diff l := by
  induction l generalizing s with
  | nil => rfl
  | cons x r ih =>
    have hx : raiseStretch s x = { s with stretches := s.stretches.erase x } := if_pos (h x List.mem_cons_self)
    rw [List.foldl_cons, hx, List.diff_cons]
    exact ih { s with stretches := s.stretches.erase x } (fun y hy => h y (List.mem_cons_of_mem _ hy))

theorem not_mem_diff_filter {α : Type} [DecidableEq α] {p : α → Bool} {l : List α} {a : α} (hp : p a = true) : a ∉ l.diff (l.filter p) := by
  rw [← List.count_eq_zero, List.count_diff, List.count_filter hp, Nat.sub_self]

theorem emergencyReleaseStep_rises (s : State) (watts : Nat) (hr : s.releasing = true) (hc : causes s = 0)
    (hw : 10 * watts ≤ 9 * odGet s 0x2100 0x03) : ∃ t, exec (.emergencyReleaseStep watts) s = .next t ∧
      (∀ d, d < 4 → arrayFreq s d ≤ arrayFreq t d) ∧
      ((∀ x ∈ s.stretches, x.cause = 5 → arraySetPoint s x.d * 1024 ≤ x.f + sixteenth s x.d) → ∀ x ∈ t.stretches, x.cause ≠ 5) := by
  let a := (s.stretches.filter (fun x => x.cause == 5)).foldl raiseStretch s
  have hrun : exec (.emergencyReleaseStep watts) s = .next (showFreq a) := by
    have hem : emergency s = false := by unfold emergency; unfold causes at hc; rw [hc]; rfl
    show execEmergencyReleaseStep watts s = _
    rw [execEmergencyReleaseStep, hr, hem, if_pos (by simpa using hw)]
  obtain ⟨hshow, -⟩ := (showFreq_changes a).same .power rfl
  refine ⟨_, hrun, fun d _ => ?_, fun hall x hx hx5 => ?_⟩
  · rw [(showFreq_sameDie a d).freq]
    exact arrayFreq_foldl_raiseStretch _ s d
  · rw [hshow, foldl_raiseStretch_ends _ s (fun y hy => hall y (List.mem_of_mem_filter hy) (by simpa using List.of_mem_filter hy))] at hx
    exact not_mem_diff_filter (by simpa using hx5) hx

/-- Settles O42: every cause comes in by `raiseCause_up`; the last one to clear begins the release, in which no clock falls. -/
theorem emergenciesComeAndGo : Obligations.EmergenciesComeAndGo :=
  ⟨emergN_up, thermalTrip_up, governorLoop_up, vbulkUndervoltage_up, emergNReturnsHigh_clears, emergencyReleaseStep_rises⟩

end Sys2Proof.Machine
end

section
/-! PROOFS. Stack memory recovers (R258 to R267): reads of a sector and what they count, the start of a retirement, the relocation of a slot
and the end of a retirement. -/

namespace Sys2Proof.Machine

/-! ### Reads of a sector (R258, R261) -/

theorem sectorPlace_stack_lt (s : State) (sec : Nat) : (sectorPlace s sec).stack < 24 := Nat.mod_lt _ (by decide)

/-- An entry of a stack's page is none of those that reports count in. -/
theorem stackKey_not_log {st n : Nat} (hst : st < 24) (hn : n < 256) : ¬ logKey (odKey (0x4100 + st) n) := not_logKey (by omega) hn

theorem odGet_odBump_of_ne (s : State) {i sub j n : Nat} (v : Nat) (h : odKey j n ≠ odKey i sub) (hl : ¬ logKey (odKey j n)) :
    odGet (odBump s i sub v) j n = odGet s j n := (odBump_keeps s i sub v).get j n ⟨h, hl⟩

/-- A read is entered in the log of reads. -/
def logRead (s : State) (place : Nat × Nat × Nat) : State := { s with readCounts := s.readCounts ++ [(place, s.uptime)] }

/-- A corrected read but for its snag. -/
def countCorrected (s : State) (sec : Nat) : State :=
  odBump (logRead { s with corrected := insertNat s.corrected sec } (1, (sectorPlace s sec).stack, (sectorPlace s sec).channel))
    (0x4100 + (sectorPlace s sec).stack) 0x02 1

theorem correctedRead_cases (s : State) (sec : Nat) : correctedRead s sec = countCorrected s sec ∨
    correctedRead s sec = snagSet (countCorrected s sec) (32 + (sectorPlace s sec).stack) := by
  have h : correctedRead s sec = if 1024 ≤ recentReads (countCorrected s sec) 1 (sectorPlace s sec).stack (some (sectorPlace s sec).channel)
    then snagSet (countCorrected s sec) (32 + (sectorPlace s sec).stack) else countCorrected s sec := rfl
  rw [h]
  split
  · exact .inr rfl
  · exact .inl rfl

/-- A corrected read is counted and its rewrite awaited; it marks nothing. -/
theorem correctedRead_counts (s : State) (sec : Nat) : sec ∈ (correctedRead s sec).corrected ∧ (correctedRead s sec).poison = s.poison ∧
    odGet (correctedRead s sec) (0x4100 + (sectorPlace s sec).stack) 0x02 =
      min cntMax (odGet s (0x4100 + (sectorPlace s sec).stack) 0x02 + 1) := by
  have hlog := stackKey_not_log (sectorPlace_stack_lt s sec) (n := 0x02) (by decide)
  have hcases := correctedRead_cases s sec
  have hcount : odGet (countCorrected s sec) (0x4100 + (sectorPlace s sec).stack) 0x02 =
    min cntMax (odGet s (0x4100 + (sectorPlace s sec).stack) 0x02 + 1) := odGet_odBump _ _ _ _ hlog
  obtain ⟨hp, -, -, hc, -⟩ : Kind.sectors.same (logRead { s with corrected := insertNat s.corrected sec } _) (countCorrected s sec) :=
    (odBump_changes _ _ _ _).same .sectors rfl
  have hmem : sec ∈ (countCorrected s sec).corrected := by rw [hc]; exact mem_insertNat.mpr (.inr rfl)
  have hpoison : (countCorrected s sec).poison = s.poison := hp
  generalize countCorrected s sec = x at *
  rcases hcases with h | h
  · rw [h]; exact ⟨hmem, hpoison, hcount⟩
  · obtain ⟨hp', -, -, hc', -⟩ := (snagSet_changes x (32 + (sectorPlace s sec).stack)).same .sectors rfl
    rw [h, hc', hp', (snagSet_offLog _ _).get _ _ hlog]
    exact ⟨hmem, hpoison, hcount⟩

/-- The mark and the count of an uncorrectable read. -/
def countUncorrectable (s : State) (sec row : Nat) : State :=
  odBump (logRead (setMark s sec true) (0, (sectorPlace s sec).stack, (sectorPlace s sec).channel * 65536 + row))
    (0x4100 + (sectorPlace s sec).stack) 0x03 1

/-- The soft repair of a row that has been read uncorrectable twice (R262). -/
def softRepair (s : State) (st place : Nat) : State :=
  if (s.readCounts.filter (fun r => r.1 == (0, st, place))).length = 2 then
    odSet { s with flashRepairs := s.flashRepairs ++ [(st, place)] } (0x4100 + st) 0x06 (wrap 16 (repairs s st + 1))
  else s

/-- An uncorrectable read up to the threshold of R263: the mark, the count, the report and the soft repair. -/
def noteUncorrectable (s : State) (sec row : Nat) : State :=
  softRepair (fileCode (countUncorrectable s sec row) 0x8010 (stackUnit (sectorPlace s sec).stack (sectorPlace s sec).channel) (sec * 64))
    (sectorPlace s sec).stack ((sectorPlace s sec).channel * 65536 + row)

theorem uncorrectableRead_eq (s : State) (sec row : Nat) : uncorrectableRead s sec row =
    if stackState (noteUncorrectable s sec row) (sectorPlace s sec).stack = 0 &&
      odGet (noteUncorrectable s sec row) 0x4000 0x0A ≤ recentReads (noteUncorrectable s sec row) 0 (sectorPlace s sec).stack none then
      retireStack (noteUncorrectable s sec row) (sectorPlace s sec).stack false 0xFFF
    else noteUncorrectable s sec row := rfl

theorem softRepair_keeps (s : State) (st place : Nat) : OdKeeps (fun k => k ≠ odKey (0x4100 + st) 0x06) s (softRepair s st place) := by
  unfold softRepair
  split
  · exact (OdKeeps.of_od (s := s) (t := { s with flashRepairs := s.flashRepairs ++ [(st, place)] })).trans (.set _ _ (fun h => h rfl))
  · exact .refl s

theorem softRepair_changes (s : State) (st place : Nat) : Changes [.od, .stacks] s (softRepair s st place) := by
  unfold softRepair
  split
  · exact Changes.step (odSet_changes _ _ _ _) rfl (Changes.update Changes.refl)
  · exact .refl

theorem noteUncorrectable_changes (s : State) (sec row : Nat) : Changes [.draws, .od, .stacks, .recorder, .access, .output]
    (logRead (setMark s sec true) (0, (sectorPlace s sec).stack, (sectorPlace s sec).channel * 65536 + row)) (noteUncorrectable s sec row) :=
  (((odBump_changes _ _ _ _).mono (by decide)).trans ((fileCode_changes _ _ _ _).mono (by decide))).trans ((softRepair_changes _ _ _).mono (by decide))

/-- The entries that an uncorrectable read below the threshold leaves. -/
theorem noteUncorrectable_keeps (s : State) (sec row : Nat) {i n : Nat} (h3 : odKey i n ≠ odKey (0x4100 + (sectorPlace s sec).stack) 0x03)
    (h6 : odKey i n ≠ odKey (0x4100 + (sectorPlace s sec).stack) 0x06) (hl : ¬ logKey (odKey i n)) :
    odGet (noteUncorrectable s sec row) i n = odGet s i n :=
  ((softRepair_keeps _ _ _).get i n h6).trans (((fileCode_offLog _ _ _ _).get i n hl).trans (odGet_odBump_of_ne _ _ h3 hl))

theorem noteUncorrectable_count (s : State) (sec row : Nat) : odGet (noteUncorrectable s sec row) (0x4100 + (sectorPlace s sec).stack) 0x03 =
    min cntMax (odGet s (0x4100 + (sectorPlace s sec).stack) 0x03 + 1) := by
  have hlog := stackKey_not_log (sectorPlace_stack_lt s sec) (n := 0x03) (by decide)
  exact ((softRepair_keeps _ _ _).get _ 0x03 (odKey_ne (by decide) (by decide) (by omega))).trans
    (((fileCode_offLog _ _ _ _).get _ 0x03 hlog).trans (odGet_odBump _ _ _ _ hlog))

theorem noteUncorrectable_marks (s : State) (sec row : Nat) : (noteUncorrectable s sec row).poison = insertNat s.poison sec :=
  ((noteUncorrectable_changes s sec row).same .sectors rfl).1

theorem noteUncorrectable_recent (s : State) (sec row : Nat) : recentReads (noteUncorrectable s sec row) 0 (sectorPlace s sec).stack none =
    recentReads s 0 (sectorPlace s sec).stack none + 1 := by
  obtain ⟨-, -, -, -, hreads⟩ := (noteUncorrectable_changes s sec row).same .sectors rfl
  have htime : (noteUncorrectable s sec row).uptime = s.uptime := (noteUncorrectable_changes s sec row).same .clock rfl
  have hday : s.uptime < s.uptime + dayTicks := Nat.lt_add_of_pos_right (by decide)
  have hlist : (noteUncorrectable s sec row).readCounts =
    s.readCounts ++ [((0, (sectorPlace s sec).stack, (sectorPlace s sec).channel * 65536 + row), s.uptime)] := hreads
  unfold recentReads
  rw [hlist, htime, List.filter_append, List.length_append]
  simp [hday]

/-- Below the threshold an uncorrectable read starts no retirement (R263). -/
theorem uncorrectableRead_below (s : State) (sec row : Nat) (h : recentReads s 0 (sectorPlace s sec).stack none + 1 < odGet s 0x4000 0x0A) :
    uncorrectableRead s sec row = noteUncorrectable s sec row := by
  have hst := sectorPlace_stack_lt s sec
  have hlimit : odGet (noteUncorrectable s sec row) 0x4000 0x0A = odGet s 0x4000 0x0A :=
    noteUncorrectable_keeps s sec row (odKey_ne (by decide) (by decide) (by omega)) (odKey_ne (by decide) (by decide) (by omega))
      (not_logKey (by decide) (by decide))
  rw [uncorrectableRead_eq, if_neg]
  rw [hlimit, noteUncorrectable_recent]
  simp [h]

theorem uncorrectableRead_marks (s : State) (sec row : Nat) (h : recentReads s 0 (sectorPlace s sec).stack none + 1 < odGet s 0x4000 0x0A) :
    sec ∈ (uncorrectableRead s sec row).poison ∧
      stackState (uncorrectableRead s sec row) (sectorPlace s sec).stack = stackState s (sectorPlace s sec).stack ∧
      odGet (uncorrectableRead s sec row) (0x4100 + (sectorPlace s sec).stack) 0x03 =
        min cntMax (odGet s (0x4100 + (sectorPlace s sec).stack) 0x03 + 1) := by
  rw [uncorrectableRead_below s sec row h]
  refine ⟨?_, ?_, noteUncorrectable_count s sec row⟩
  · rw [noteUncorrectable_marks]; exact mem_insertNat.mpr (.inr rfl)
  · exact noteUncorrectable_keeps s sec row (odKey_ne (by decide) (by decide) (by omega)) (odKey_ne (by decide) (by decide) (by omega))
      (stackKey_not_log (sectorPlace_stack_lt s sec) (by decide))

/-- The end of a pass of the scrub is counted. -/
def countPass (s : State) (st : Nat) (done : Bool) : State := if done then odBump s (0x4100 + st) 0x07 1 else s

theorem countPass_poison (s : State) (st : Nat) (done : Bool) : (countPass s st done).poison = s.poison := by
  unfold countPass
  split
  · exact ((odBump_changes s _ _ _).same .sectors rfl).1
  · rfl

theorem countPass_corrected (s : State) (st : Nat) (done : Bool) : (countPass s st done).corrected = s.corrected := by
  unfold countPass
  split
  · obtain ⟨-, -, -, hc, -⟩ := (odBump_changes s (0x4100 + st) 0x07 1).same .sectors rfl; exact hc
  · rfl

theorem odGet_countPass (s : State) {st n : Nat} (hst : st < 24) (hn : n < 7) (done : Bool) :
    odGet (countPass s st done) (0x4100 + st) n = odGet s (0x4100 + st) n := by
  unfold countPass
  split
  · exact odGet_odBump_of_ne s 1 (odKey_ne (by omega) (by decide) (by omega)) (stackKey_not_log hst (by omega))
  · rfl

theorem readOutcome_clean (s : State) (sec : Nat) : readOutcome s sec .clean = s := ite_self s

theorem readOutcome_corrected {s : State} {sec : Nat} (h : sectorBad s sec = false) : readOutcome s sec .corrected = correctedRead s sec :=
  if_neg (by rw [h]; decide)

theorem readOutcome_uncorrectable {s : State} {sec : Nat} (h : sectorBad s sec = false) (row : Nat) :
    readOutcome s sec (.uncorrectable row) = uncorrectableRead s sec row := if_neg (by rw [h]; decide)

theorem readOutcome_onDieReport {s : State} {sec : Nat} (h : sectorBad s sec = false) :
    readOutcome s sec .onDieReport = odBump s (0x4100 + (sectorPlace s sec).stack) 0x05 1 := if_neg (by rw [h]; decide)

theorem patrolScrub_reads (s : State) (sector : Nat) (o : ReadOutcome) (done : Bool) (hb : bulkOn s = true) (hc : sector * 64 < capacity s)
    (hm : slotMst s (sectorPlace s sector).slot = 0) (hs : stackState s (sectorPlace s sector).stack ≠ 3) :
    exec (.patrolScrub sector o done) s = .next (countPass (readOutcome s sector o) (sectorPlace s sector).stack done) := by
  show execPatrolScrub sector o done s = _
  simp [execPatrolScrub, hb, hc, hm, hs, countPass]

theorem patrolScrub_recovers (s : State) (sector row : Nat) (done : Bool) (st : Nat) (hb : bulkOn s = true) (hc : sector * 64 < capacity s)
    (hst : st = (sectorPlace s sector).stack) (hm : slotMst s (sectorPlace s sector).slot = 0) (hs : stackState s st ≠ 3)
    (hg : sectorBad s sector = false) :
    (∃ t, exec (.patrolScrub sector .clean done) s = .next t ∧ t.poison = s.poison ∧
      odGet t (0x4100 + st) 0x07 = (if done then min cntMax (odGet s (0x4100 + st) 0x07 + 1) else odGet s (0x4100 + st) 0x07)) ∧
    (∃ t, exec (.patrolScrub sector .corrected done) s = .next t ∧ sector ∈ t.corrected ∧ t.poison = s.poison ∧
      odGet t (0x4100 + st) 0x02 = min cntMax (odGet s (0x4100 + st) 0x02 + 1)) ∧
    (∃ t, exec (.patrolScrub sector .onDieReport done) s = .next t ∧ t.poison = s.poison ∧
      odGet t (0x4100 + st) 0x05 = min cntMax (odGet s (0x4100 + st) 0x05 + 1)) ∧
    (recentReads s 0 st none + 1 < odGet s 0x4000 0x0A →
      ∃ t, exec (.patrolScrub sector (.uncorrectable row) done) s = .next t ∧ sector ∈ t.poison ∧ stackState t st = stackState s st ∧
        odGet t (0x4100 + st) 0x03 = min cntMax (odGet s (0x4100 + st) 0x03 + 1)) := by
  have hlt : st < 24 := hst ▸ sectorPlace_stack_lt s sector
  subst hst
  refine ⟨⟨_, patrolScrub_reads s sector _ done hb hc hm hs, ?_⟩, ⟨_, patrolScrub_reads s sector _ done hb hc hm hs, ?_⟩,
    ⟨_, patrolScrub_reads s sector _ done hb hc hm hs, ?_⟩, fun hr => ⟨_, patrolScrub_reads s sector _ done hb hc hm hs, ?_⟩⟩
  · rw [readOutcome_clean, countPass_poison]
    refine ⟨rfl, ?_⟩
    cases done with
    | true => exact odGet_odBump s _ _ _ (stackKey_not_log hlt (by decide))
    | false => rfl
  · rw [readOutcome_corrected hg, countPass_poison, countPass_corrected, odGet_countPass _ hlt (by decide)]
    exact correctedRead_counts s sector
  · rw [readOutcome_onDieReport hg, countPass_poison, odGet_countPass _ hlt (by decide)]
    exact ⟨((odBump_changes s _ _ _).same .sectors rfl).1, odGet_odBump s _ _ _ (stackKey_not_log hlt (by decide))⟩
  · rw [readOutcome_uncorrectable hg, countPass_poison]
    obtain ⟨hp, hstate, hn⟩ := uncorrectableRead_marks s sector row hr
    generalize uncorrectableRead s sector row = x at *
    exact ⟨hp, (odGet_countPass x hlt (by decide) done).trans hstate, (odGet_countPass x hlt (by decide) done).trans hn⟩

theorem correctedRewrite_reads (s : State) (r : SectorRead) (hb : bulkOn s = true) : exec (.correctedRewrite r) s =
    .next { readOutcome s r.sector r.outcome with corrected := (readOutcome s r.sector r.outcome).corrected.filter (· != r.sector) } := by
  show execCorrectedRewrite r s = _
  rw [execCorrectedRewrite, if_pos hb]

theorem correctedRewrite_recovers (s : State) (sector : Nat) (hb : bulkOn s = true) :
    (∃ t, exec (.correctedRewrite ⟨sector, .clean⟩) s = .next t ∧ t.mem = s.mem ∧ ∀ x, x ∈ t.corrected ↔ (x ∈ s.corrected ∧ x ≠ sector)) ∧
    (∀ row st, st = (sectorPlace s sector).stack → sectorBad s sector = false → recentReads s 0 st none + 1 < odGet s 0x4000 0x0A →
      ∃ t, exec (.correctedRewrite ⟨sector, .uncorrectable row⟩) s = .next t ∧ sector ∈ t.poison ∧ sector ∉ t.corrected ∧
        odGet t (0x4100 + st) 0x03 = min cntMax (odGet s (0x4100 + st) 0x03 + 1)) := by
  refine ⟨⟨_, correctedRewrite_reads s _ hb, ?_⟩, fun row st hst hg hr => ⟨_, correctedRewrite_reads s _ hb, ?_⟩⟩
  · rw [readOutcome_clean]
    exact ⟨rfl, fun x => by simp [List.mem_filter]⟩
  · subst hst
    obtain ⟨hp, -, hn⟩ := uncorrectableRead_marks s sector row hr
    rw [readOutcome_uncorrectable hg]
    generalize uncorrectableRead s sector row = x at *
    exact ⟨hp, by simp [List.mem_filter], hn⟩

end Sys2Proof.Machine
end

section
/-! PROOFS. Retirements of stacks and relocations of slots (R263 to R267). -/

namespace Sys2Proof.Machine

/-! ### What a sealed retirement loses, and messages that have left (R253, R250) -/

theorem dropTransit_sends (s : State) (t : Transit) : (dropTransit s t).sends = s.sends := by
  unfold dropTransit
  dsimp only
  split <;> rfl

theorem loseHeadroom_sends (s : State) : (loseHeadroom s).sends = s.sends := by
  unfold loseHeadroom
  refine foldl_keeps (g := State.sends) (fun s t => ?_) _ s
  dsimp only
  split
  · rfl
  · exact dropTransit_sends _ t

theorem loseHeadroom_keeps {P : Nat → Prop} (s : State) : OdKeeps P s (loseHeadroom s) := .of_changes (loseHeadroom_changes s)

/-- With no message waiting to go out, none has lost its payload. -/
theorem endWaiting_idle {s : State} (h : ∀ m ∈ s.sends, m.waiting = false) : endWaiting s = s := by
  have hnone : s.sends.filter (·.waiting) = [] := by
    refine List.filter_eq_nil_iff.mpr fun m hm => ?_
    rw [h m hm]; decide
  unfold endWaiting
  rw [hnone]
  rfl

/-! ### The start of a retirement (R264, R266) -/

theorem overrideSlot_retirements (stack k mst : Nat) (s : State) (j : Nat) : (overrideSlot stack k mst s j).retirements = s.retirements := by
  unfold overrideSlot
  dsimp only
  split
  · rfl
  · split <;> rfl

/-- The overrides of the slots of a list, before their count is shown. -/
def putOverrides (l : List Nat) (s : State) (r : Retire) : State :=
  let x := l.foldl (overrideSlot r.stack r.k (if r.sealedR then 3 else 1)) s
  { x with retires := mapWhere (fun y => y.stack == r.stack) (fun y => { y with step3 := true }) x.retires, rowPtr := 0 }

theorem setOverrides_eq (s : State) (r : Retire) : setOverrides s r =
    odSet (odSet (putOverrides (List.range 4096) s r) 0x4000 0x03 (if r.sealedR then 2 else 1)) 0x4000 0x04
      (settledCount (putOverrides (List.range 4096) s r)) := rfl

theorem putOverrides_retirements (l : List Nat) (s : State) (r : Retire) : (putOverrides l s r).retirements = s.retirements :=
  foldl_keeps (g := State.retirements) (overrideSlot_retirements r.stack r.k (if r.sealedR then 3 else 1)) l s

theorem putOverrides_keeps {P : Nat → Prop} (l : List Nat) (s : State) (r : Retire) : OdKeeps P s (putOverrides l s r) := by
  have hslots : OdKeeps P s (l.foldl (overrideSlot r.stack r.k (if r.sealedR then 3 else 1)) s) :=
    .foldl (fun s j => .of_changes (overrideSlot_changes _ _ _ s j)) l s
  unfold putOverrides
  exact hslots.trans .of_od

theorem odSet_retirements (s : State) (i n v : Nat) : (odSet s i n v).retirements = s.retirements := rfl

theorem setOverrides_retirements (s : State) (r : Retire) : (setOverrides s r).retirements = s.retirements := by
  rw [setOverrides_eq, odSet_retirements, odSet_retirements, putOverrides_retirements]

/-- The page of the stacks' interleave (0x4000). -/
def interleaveKey (k : Nat) : Prop := k / 256 = 0x4000

theorem interleaveKey_of {n : Nat} (hn : n < 256) : interleaveKey (odKey 0x4000 n) := by
  unfold interleaveKey odKey; omega

theorem stackKey_not_interleave {st n : Nat} (hn : n < 256) : ¬ interleaveKey (odKey (0x4100 + st) n) := by
  unfold interleaveKey odKey; omega

theorem odSet_interleave_keeps (s : State) {n : Nat} (v : Nat) (hn : n < 256) : OdKeeps (fun k => ¬ interleaveKey k) s (odSet s 0x4000 n v) :=
  .set s v (fun h => h (interleaveKey_of hn))

theorem setOverrides_keeps (s : State) (r : Retire) : OdKeeps (fun k => ¬ interleaveKey k) s (setOverrides s r) := by
  rw [setOverrides_eq]
  exact ((putOverrides_keeps _ s r).trans (odSet_interleave_keeps _ _ (by decide))).trans (odSet_interleave_keeps _ _ (by decide))

theorem vacate_keeps (s : State) : OdKeeps (fun k => ¬ interleaveKey k) s (vacate s) := by
  unfold vacate
  exact (odSet_interleave_keeps s (n := 0x01) _ (by decide)).trans .of_od

/-- Steps 1 and 2 of a retirement: the stack RETIRING, the capacity lowered, the retirement recorded. -/
def recordRetire (s : State) (stack : Nat) (sealedR : Bool) : State :=
  let x := vacate (stateChange s (stackUnit stack 0xFFF) (0x4100 + stack) 0x01 1 0x8011 5)
  odSet { x with retirements := s.retirements + 1, retires := x.retires ++ [⟨stack, s.retirements + 1, sealedR, false⟩] } 0x4000 0x02 (s.retirements + 1)

/-- Its report, snag and vectors. -/
def announceRetire (s : State) (stack : Nat) (sealedR : Bool) (channel k : Nat) : State :=
  msixAllContexts (snagSet (fileCode s 0x8011 (stackUnit stack channel) ((if sealedR then 2 else 1) + k * 65536)) (56 + stack))

theorem startRetire_sealed_eq (s : State) (stack channel : Nat) : startRetire s stack true channel =
    let x := endWaiting (loseHeadroom (announceRetire (recordRetire s stack true) stack true channel (s.retirements + 1)))
    if relocating x then x else setOverrides x ⟨stack, s.retirements + 1, true, false⟩ := rfl

theorem recordRetire_state (s : State) {stack : Nat} (hst : stack < 24) (sealedR : Bool) : stackState (recordRetire s stack sealedR) stack = 1 := by
  have hchange := odGet_stateChange s (stackUnit stack 0xFFF) (0x4100 + stack) 0x01 1 0x8011 5 (stackKey_not_log hst (by decide))
  have hvacate := (vacate_keeps (stateChange s (stackUnit stack 0xFFF) (0x4100 + stack) 0x01 1 0x8011 5)).get _ 0x01 (stackKey_not_interleave (st := stack) (by decide))
  unfold recordRetire stackState
  dsimp only
  rw [odGet_odSet_ne _ _ (odKey_ne (by decide) (by decide) (by omega))]
  exact hvacate.trans hchange

theorem recordRetire_sends (s : State) (stack : Nat) (sealedR : Bool) : (recordRetire s stack sealedR).sends = s.sends := by
  obtain ⟨-, hs, -⟩ := ((stateChange_changes s (stackUnit stack 0xFFF) (0x4100 + stack) 0x01 1 0x8011 5).same .fabric rfl)
  obtain ⟨-, hv, -⟩ := ((vacate_changes (stateChange s (stackUnit stack 0xFFF) (0x4100 + stack) 0x01 1 0x8011 5)).same .fabric rfl)
  exact hv.trans hs

theorem announceRetire_changes (s : State) (stack : Nat) (sealedR : Bool) (channel k : Nat) :
    Changes [.draws, .od, .recorder, .access, .output] s (announceRetire s stack sealedR channel k) :=
  ((fileCode_changes s _ _ _).trans (snagSet_changes _ _)).trans ((msixAllContexts_changes _).mono (by decide))

theorem announceRetire_offLog (s : State) (stack : Nat) (sealedR : Bool) (channel k : Nat) : OffLog s (announceRetire s stack sealedR channel k) :=
  ((fileCode_offLog s _ _ _).trans (snagSet_offLog _ _)).trans (.of_changes (msixAllContexts_changes _))

/-- A sealed retirement that starts while no message waits to go out: the stack is RETIRING and the retirement counted. -/
theorem startRetire_sealed (s : State) {stack : Nat} (channel : Nat) (hst : stack < 24) (hw : ∀ m ∈ s.sends, m.waiting = false) :
    stackState (startRetire s stack true channel) stack = 1 ∧ (startRetire s stack true channel).retirements = s.retirements + 1 := by
  rw [startRetire_sealed_eq]
  have hstate := recordRetire_state s hst true
  have hsends := recordRetire_sends s stack true
  have hcount : (recordRetire s stack true).retirements = s.retirements + 1 := rfl
  generalize recordRetire s stack true = x at *
  have hchanges := announceRetire_changes x stack true channel (s.retirements + 1)
  have hlog := announceRetire_offLog x stack true channel (s.retirements + 1)
  generalize announceRetire x stack true channel (s.retirements + 1) = y at *
  have hidle : endWaiting (loseHeadroom y) = loseHeadroom y := endWaiting_idle (fun m hm => by
    rw [loseHeadroom_sends, (hchanges.same .fabric rfl).2.1, hsends] at hm
    exact hw m hm)
  have hys : stackState (loseHeadroom y) stack = 1 :=
    ((loseHeadroom_keeps (P := fun _ => True) y).get _ _ trivial).trans ((hlog.get _ _ (stackKey_not_log hst (by decide))).trans hstate)
  have hyc : (loseHeadroom y).retirements = s.retirements + 1 := by
    obtain ⟨-, -, -, hl, -⟩ := (loseHeadroom_changes y).same .stacks rfl
    obtain ⟨-, -, -, ha, -⟩ := hchanges.same .stacks rfl
    exact hl.trans (ha.trans hcount)
  dsimp only
  rw [hidle]
  generalize loseHeadroom y = z at *
  split
  · exact ⟨hys, hyc⟩
  · exact ⟨((setOverrides_keeps z _).get _ _ (stackKey_not_interleave (by decide))).trans hys, (setOverrides_retirements z _).trans hyc⟩

/-- A third stack is SEALED, with its snag and the snag of a package that is lost (R267). -/
theorem sealThird_seals (s : State) {stack : Nat} (channel : Nat) (hst : stack < 24) : stackState (sealThird s stack channel) stack = 3 ∧
    bitOf (odGet (sealThird s stack channel) 0x7000 0x01) (56 + stack) = true ∧ bitOf (odGet (sealThird s stack channel) 0x7000 0x01) 0 = true := by
  have hlog := stackKey_not_log hst (n := 0x01) (by decide)
  have hchange := odGet_stateChange (loseHeadroom s) (stackUnit stack 0xFFF) (0x4100 + stack) 0x01 3 0x8012 7 hlog
  unfold sealThird
  dsimp only
  generalize stateChange (loseHeadroom s) (stackUnit stack 0xFFF) (0x4100 + stack) 0x01 3 0x8012 7 = x at *
  have hfile := (fileCode_offLog x 0x8012 (stackUnit stack channel) 0).get _ _ hlog
  generalize fileCode x 0x8012 (stackUnit stack channel) 0 = y at *
  obtain ⟨-, hbit⟩ := snagSet_logs y (56 + stack)
  obtain ⟨hkeep, hzero⟩ := snagSet_logs (snagSet y (56 + stack)) 0
  refine ⟨?_, hkeep.snags _ hbit, hzero⟩
  exact (((snagSet_offLog y (56 + stack)).trans (snagSet_offLog _ 0)).get _ _ hlog).trans (hfile.trans hchange)

theorem channelFails_inService (s : State) {stack : Nat} (channel : Nat) (h : stackState s stack = 0) : channelFails s stack channel =
    retireStack (odSet s (0x4100 + stack) 0x04 (odGet s (0x4100 + stack) 0x04 ||| 2 ^ channel)) stack true channel := by
  unfold channelFails
  dsimp only
  rw [h]
  rfl

theorem retireStack_first (s : State) (stack : Nat) (sealedR : Bool) (channel : Nat) (h : s.retirements < 2) :
    retireStack s stack sealedR channel = startRetire s stack sealedR channel := if_pos h

theorem retireStack_third (s : State) (stack : Nat) (sealedR : Bool) (channel : Nat) (h : 2 ≤ s.retirements) :
    retireStack s stack sealedR channel = sealThird s stack channel := if_neg (Nat.not_lt.mpr h)

theorem exec_channelFails (s : State) (stack channel : Nat) (i : Instr)
    (hi : i = .sealedRetirement stack channel ∨ i = .periodicRetraining stack (some channel)) (hst : stack < 24) (hch : channel < 32)
    (hb : bulkOn s = true) : exec i s = .next (channelFails s stack channel) := by
  rcases hi with rfl | rfl
  · show execSealedRetirement stack channel s = _
    simp [execSealedRetirement, hst, hch, hb]
  · show execPeriodicRetraining stack (some channel) s = _
    simp [execPeriodicRetraining, hst, hch, hb]

theorem channelFailure_seals (s : State) (stack channel : Nat) (i : Instr)
    (hi : i = .sealedRetirement stack channel ∨ i = .periodicRetraining stack (some channel)) (hst : stack < 24) (hch : channel < 32)
    (hb : bulkOn s = true) (h0 : stackState s stack = 0) :
    (s.retirements < 2 → (∀ m ∈ s.sends, m.waiting = false) → ∃ t, exec i s = .next t ∧ stackState t stack = 1 ∧ t.retirements = s.retirements + 1) ∧
    (2 ≤ s.retirements → ∃ t, exec i s = .next t ∧ stackState t stack = 3 ∧ bitOf (odGet t 0x7000 0x01) (56 + stack) = true ∧
      bitOf (odGet t 0x7000 0x01) 0 = true) := by
  rw [exec_channelFails s stack channel i hi hst hch hb, channelFails_inService s channel h0]
  refine ⟨fun hr hw => ⟨_, rfl, ?_⟩, fun hr => ⟨_, rfl, ?_⟩⟩
  · rw [retireStack_first _ stack true channel (by exact hr)]
    exact startRetire_sealed _ channel hst hw
  · rw [retireStack_third _ stack true channel (by exact hr)]
    exact sealThird_seals _ channel hst

/-! ### Relocation (R265) -/

/-- A value written that is no default is read back, whatever the store lists. -/
theorem Store.get_put_of_value {α : Type} [DecidableEq α] {d : α} {v : α} (hv : v ≠ d) (k : Nat) : ∀ m : Store α,
    Store.get d (Store.put d m k v) k = v
  | [] => by simp [Store.put, Store.get, hv]
  | (j, w) :: r => by
    simp only [Store.put, if_neg hv]
    split
    · simp [Store.get]
    · split
      · simp [Store.get]
      · next h1 h2 => simp only [Store.get, if_neg h1, if_neg h2, Store.get_put_of_value hv k r]

/-- The rows of a cell from the pointer on are lost, and those lost before stay so. -/
theorem loseRows_lost (s : State) (j x : Nat) : Store.get 0 (loseRows s j x).lostCells (j * 24 + x) ≠ 0 ∧
    Store.get 0 (loseRows s j x).lostCells (j * 24 + x) ≤ s.rowPtr + 1 := by
  have hget : Store.get 0 (loseRows s j x).lostCells (j * 24 + x) =
      if Store.get 0 s.lostCells (j * 24 + x) = 0 then s.rowPtr + 1 else min (Store.get 0 s.lostCells (j * 24 + x)) (s.rowPtr + 1) :=
    Store.get_put_of_value (by split <;> omega) _ _
  rw [hget]
  split <;> omega

/-- The slot in relocation after its row pointer has moved on, or past its last row. -/
def movedSlot (s : State) (j ent rows : Nat) : State :=
  if s.rowPtr + rows < 2 ^ 15 then
    { (putSlot s j (if bits ent 8 2 = 3 then ent else withField ent 8 2 2)) with rowPtr := s.rowPtr + rows }
  else { (putSlot s j (withField ent 8 2 0)) with rowPtr := 0 }

theorem movePtr_eq (s : State) (j ent rows : Nat) :
    movePtr s j ent rows = odSet (movedSlot s j ent rows) 0x4000 0x04 (settledCount (movedSlot s j ent rows)) := by
  unfold movePtr movedSlot
  simp only [beq_iff_eq]

/-- What a relocation does to the entries and the row pointer; every other slot stays. -/
theorem movePtr_moves {s : State} (hs : Store.wf 0 s.slots = true) (j ent rows : Nat) :
    (∀ k, k ≠ j → slotEntry (movePtr s j ent rows) k = slotEntry s k) ∧
    (2 ^ 15 ≤ s.rowPtr + rows → slotEntry (movePtr s j ent rows) j = withField ent 8 2 0 ∧ (movePtr s j ent rows).rowPtr = 0) ∧
    (s.rowPtr + rows < 2 ^ 15 → slotEntry (movePtr s j ent rows) j = (if bits ent 8 2 = 3 then ent else withField ent 8 2 2) ∧
      (movePtr s j ent rows).rowPtr = s.rowPtr + rows) := by
  have hentry : ∀ k, slotEntry (movePtr s j ent rows) k = slotEntry (movedSlot s j ent rows) k := fun k => by rw [movePtr_eq]; rfl
  have hptr : (movePtr s j ent rows).rowPtr = (movedSlot s j ent rows).rowPtr := by rw [movePtr_eq]; rfl
  have hsame : ∀ v, slotEntry (putSlot s j v) j = v := fun v => Store.get_put hs
  have hother : ∀ v k, k ≠ j → slotEntry (putSlot s j v) k = slotEntry s k := fun v k hk => Store.get_put_of_ne hs hk
  simp only [hentry, hptr]
  unfold movedSlot
  split
  · next h => exact ⟨fun k hk => hother _ k hk, fun hn => absurd h (Nat.not_lt.mpr hn), fun _ => ⟨hsame _, rfl⟩⟩
  · next h => exact ⟨fun k hk => hother _ k hk, fun _ => ⟨hsame _, rfl⟩, fun hn => absurd hn h⟩

theorem movePtr_sectors (s : State) (j ent rows : Nat) : (movePtr s j ent rows).poison = s.poison ∧ (movePtr s j ent rows).lostCells = s.lostCells := by
  obtain ⟨hp, hl, -⟩ := (movePtr_changes s j ent rows).same .sectors rfl
  exact ⟨hp, hl⟩

/-- The rows of a run that prove uncorrectable and are copied in it. -/
def badRows (s : State) (r : RelocRun) : List Nat := r.bad.filter (fun w => s.rowPtr ≤ w && w < s.rowPtr + r.rows)

theorem slotRelocation_runs {s : State} {r : RelocRun} {j ent x : Nat} (hb : bulkOn s = true) (hp : pendingSlot s = some (j, ent))
    (hx : x = (if bitOf ent 20 then bits ent 15 5 else bits ent 26 5)) : exec (.slotRelocation r) s =
      .next (movePtr (if bits ent 8 2 = 3 then loseRows s j x else (badRows s r).foldl (badRow j x) s) j ent r.rows) := by
  show execSlotRelocation r s = _
  simp only [execSlotRelocation, hb, hp, hx, badRows, beq_iff_eq]
  rfl

theorem foldl_setMark_poison (l : List Nat) (f : Nat → Nat) (s : State) {sec : Nat} (h : sec ∈ s.poison ∨ ∃ i ∈ l, f i = sec) :
    sec ∈ (l.foldl (fun s i => setMark s (f i) true) s).poison := by
  induction l generalizing s with
  | nil => exact h.resolve_right (fun ⟨i, hi, _⟩ => absurd hi List.not_mem_nil)
  | cons i r ih =>
    refine ih (setMark s (f i) true) ?_
    have hmark : (setMark s (f i) true).poison = insertNat s.poison (f i) := rfl
    rw [hmark]
    rcases h with h | ⟨k, hk, rfl⟩
    · exact .inl (mem_insertNat.mpr (.inl h))
    · rcases List.mem_cons.mp hk with rfl | hk
      · exact .inl (mem_insertNat.mpr (.inr rfl))
      · exact .inr ⟨k, hk, rfl⟩

theorem badRow_eq (j x : Nat) (s : State) (w : Nat) :
    ∃ y, badRow j x s w = (List.range 8).foldl (fun s i => setMark s (cellGranule j x w * 8 + i) true) y := by
  unfold badRow
  dsimp only
  generalize uncorrectableRead (freshNat s 5 16).2 (cellGranule j x w * 8) (freshNat s 5 16).1 = y
  exact ⟨y, rfl⟩

/-- A bad row is poisoned at its target: the eight sectors of its granule. -/
theorem badRow_poisons (j x : Nat) (s : State) (w : Nat) {sec : Nat} (h : sec / 8 = cellGranule j x w) : sec ∈ (badRow j x s w).poison := by
  obtain ⟨y, hy⟩ := badRow_eq j x s w
  rw [hy]
  refine foldl_setMark_poison (List.range 8) (fun i => cellGranule j x w * 8 + i) y (.inr ⟨sec % 8, List.mem_range.mpr (Nat.mod_lt _ (by decide)), ?_⟩)
  omega

theorem slotRelocation_moves (s : State) (j ent x : Nat) (r : RelocRun) (hs : s.Sound) (hb : bulkOn s = true)
    (hp : pendingSlot s = some (j, ent)) (hx : x = (if bitOf ent 20 then bits ent 15 5 else bits ent 26 5)) :
    (r.bad = [] ∨ bits ent 8 2 = 3 → ∃ t, exec (.slotRelocation r) s = .next t ∧ (∀ k, k ≠ j → slotEntry t k = slotEntry s k) ∧
      (2 ^ 15 ≤ s.rowPtr + r.rows → slotEntry t j = withField ent 8 2 0 ∧ t.rowPtr = 0) ∧
      (s.rowPtr + r.rows < 2 ^ 15 → slotEntry t j = (if bits ent 8 2 = 3 then ent else withField ent 8 2 2) ∧ t.rowPtr = s.rowPtr + r.rows) ∧
      (bits ent 8 2 = 3 → Store.get 0 t.lostCells (j * 24 + x) ≠ 0 ∧ Store.get 0 t.lostCells (j * 24 + x) ≤ s.rowPtr + 1)) ∧
    (∀ w sec, r.bad = [w] → bits ent 8 2 ≠ 3 → s.rowPtr ≤ w → w < s.rowPtr + r.rows →
      recentReads s 0 (sectorPlace s (cellGranule j x w * 8)).stack none + 1 < odGet s 0x4000 0x0A →
      sec / 8 = cellGranule j x w → ∃ t, exec (.slotRelocation r) s = .next t ∧ sec ∈ t.poison) := by
  refine ⟨fun hcase => ⟨_, slotRelocation_runs hb hp hx, ?_⟩, fun w sec hbad hmst hlo hhi _ hsec => ⟨_, slotRelocation_runs hb hp hx, ?_⟩⟩
  · by_cases hmst : bits ent 8 2 = 3
    · rw [if_pos hmst]
      obtain ⟨hother, hlast, hon⟩ := movePtr_moves (s := loseRows s j x) hs.slots j ent r.rows
      refine ⟨hother, hlast, hon, fun _ => ?_⟩
      rw [(movePtr_sectors _ j ent r.rows).2]
      exact loseRows_lost s j x
    · have hnone : badRows s r = [] := by rw [badRows, hcase.resolve_right hmst]; rfl
      rw [if_neg hmst, hnone, List.foldl_nil]
      obtain ⟨hother, hlast, hon⟩ := movePtr_moves hs.slots j ent r.rows
      exact ⟨hother, hlast, hon, fun h => absurd h hmst⟩
  · have hone : badRows s r = [w] := by simp [badRows, hbad, hlo, hhi]
    rw [if_neg hmst, hone, List.foldl_cons, List.foldl_nil, (movePtr_sectors _ j ent r.rows).1]
    exact badRow_poisons j x s w hsec

/-! ### The end of a retirement (R264, R266) -/

/-- A retirement whose slots are all settled ends: the stack is RETIRED, recorded in flash, and no retirement of it is left. -/
def settleRetire (s : State) (r : Retire) : State :=
  let x := stateChange s (stackUnit r.stack 0xFFF) (0x4100 + r.stack) 0x01 2 0 0
  odSet { x with retires := x.retires.filter (fun y => y.stack != r.stack), flashRetired := x.flashRetired ++ [r.stack] } 0x4000 0x03 0

theorem settleRetire_retires (s : State) (r : Retire) : (settleRetire s r).retires = s.retires.filter (fun y => y.stack != r.stack) := by
  obtain ⟨-, -, hr, -⟩ := (stateChange_changes s (stackUnit r.stack 0xFFF) (0x4100 + r.stack) 0x01 2 0 0).same .stacks rfl
  show (stateChange s (stackUnit r.stack 0xFFF) (0x4100 + r.stack) 0x01 2 0 0).retires.filter _ = _
  rw [hr]

theorem retirementComplete_runs {s : State} {r : Retire} (hr : s.retires.find? (·.step3) = some r) (hp : pendingSlot s = none)
    (hall : ∀ x ∈ s.retires, x.step3 = true) : exec .retirementComplete s = .next (settleRetire s r) := by
  have hnone : (settleRetire s r).retires.find? (fun x => !x.step3) = none := by
    rw [settleRetire_retires, List.find?_eq_none]
    intro x hx
    rw [hall x (List.mem_of_mem_filter hx)]
    decide
  show execRetirementComplete s = _
  simp only [execRetirementComplete, hr, hp, Option.isNone_none, if_true]
  split
  · next x hx => exact absurd (hnone.symm.trans hx) (by simp)
  · rfl

theorem retirementComplete_retires (s : State) (r : Retire) (hr : s.retires.find? (·.step3) = some r) (hp : pendingSlot s = none)
    (hall : ∀ x ∈ s.retires, x.step3 = true) (hst : r.stack < 24) :
    ∃ t, exec .retirementComplete s = .next t ∧ stackState t r.stack = 2 ∧ r.stack ∈ t.flashRetired ∧ odGet t 0x4000 0x03 = 0 ∧
      ∀ x ∈ t.retires, x.stack ≠ r.stack := by
  refine ⟨_, retirementComplete_runs hr hp hall, ?_, ?_, odGet_odSet _ _ _ _, fun x hx => ?_⟩
  · have hchange := odGet_stateChange s (stackUnit r.stack 0xFFF) (0x4100 + r.stack) 0x01 2 0 0 (stackKey_not_log hst (by decide))
    unfold settleRetire stackState
    dsimp only
    rw [odGet_odSet_ne _ _ (odKey_ne (by decide) (by decide) (by omega))]
    exact hchange
  · exact List.mem_append_right _ (List.mem_singleton.mpr rfl)
  · rw [settleRetire_retires] at hx
    simpa using List.of_mem_filter hx

end Sys2Proof.Machine
end

section
/-! PROOFS. The modules of the die links recover (R274, R280, R282), and O55. -/

namespace Sys2Proof.Machine

/-! ### Modules and their entries -/

theorem modKey_lt {d m : Nat} (hd : d < 4) (hm : m < 64) : modKey d m < 256 := by
  unfold modKey; omega

/-- An entry of a module or of a die's links is none of those that reports count in. -/
theorem moduleKey_not_log {d m n : Nat} (hd : d < 4) (hm : m < 64) (hn : n < 256) : ¬ logKey (odKey (0x3900 + modKey d m) n) :=
  not_logKey (by have := modKey_lt hd hm; omega) hn

theorem dieKey_not_log {d n : Nat} (hd : d < 4) (hn : n < 256) : ¬ logKey (odKey (0x3800 + d) n) := not_logKey (by omega) hn

/-- A module's entry is no entry of a die. -/
theorem moduleKey_ne_dieKey {d n k i : Nat} (hd : d < 4) (hn : n < 256) (hi : i < 256) : odKey (0x3900 + k) n ≠ odKey (0x3800 + d) i :=
  odKey_ne hn hi (by omega)

/-- The two counts of a replay. -/
def countReplay (s : State) (d m : Nat) : State := odBump (odBump s (0x3900 + modKey d m) 0x04 1) (0x3800 + d) 0x05 1

theorem replay_eq (s : State) (d m on : Nat) : replay s d m on = emit (countReplay s d m) (.replay d on) := rfl

/-- A replay goes out, and is counted in the module and in the die (R274). -/
theorem replay_counts (s : State) {d m : Nat} (on : Nat) (hd : d < 4) (hm : m < 64) : .replay d on ∈ (replay s d m on).out ∧
    odGet (replay s d m on) (0x3900 + modKey d m) 0x04 = min cntMax (odGet s (0x3900 + modKey d m) 0x04 + 1) ∧
    odGet (replay s d m on) (0x3800 + d) 0x05 = min cntMax (odGet s (0x3800 + d) 0x05 + 1) := by
  have hmod := moduleKey_not_log hd hm (n := 0x04) (by decide)
  have hdie := dieKey_not_log hd (n := 0x05) (by decide)
  have hne : odKey (0x3900 + modKey d m) 0x04 ≠ odKey (0x3800 + d) 0x05 := moduleKey_ne_dieKey hd (by decide) (by decide)
  have hcounts : odGet (countReplay s d m) (0x3900 + modKey d m) 0x04 = min cntMax (odGet s (0x3900 + modKey d m) 0x04 + 1) ∧
      odGet (countReplay s d m) (0x3800 + d) 0x05 = min cntMax (odGet s (0x3800 + d) 0x05 + 1) := by
    unfold countReplay
    rw [odGet_odBump_of_ne _ 1 hne hmod, odGet_odBump s _ _ _ hmod, odGet_odBump _ _ _ _ hdie, odGet_odBump_of_ne s 1 hne.symm hdie]
    exact ⟨rfl, rfl⟩
  rw [replay_eq]
  generalize countReplay s d m = x at *
  exact ⟨List.mem_append_right _ (List.mem_singleton.mpr rfl), hcounts⟩

/-- The entries that a replay does not count in. -/
theorem replay_keeps (s : State) (d m on : Nat) {i n : Nat} (hm : odKey i n ≠ odKey (0x3900 + modKey d m) 0x04)
    (hd : odKey i n ≠ odKey (0x3800 + d) 0x05) (hl : ¬ logKey (odKey i n)) : odGet (replay s d m on) i n = odGet s i n := by
  have hcounts : odGet (countReplay s d m) i n = odGet s i n := (odGet_odBump_of_ne _ 1 hd hl).trans (odGet_odBump_of_ne s 1 hm hl)
  rw [replay_eq]
  generalize countReplay s d m = x at *
  exact hcounts

theorem replay_dieLinks (s : State) (d m on : Nat) : (replay s d m on).retraining = s.retraining ∧ (replay s d m on).laneErrs = s.laneErrs ∧
    (replay s d m on).flashLanes = s.flashLanes := by
  obtain ⟨hr, hl, hf, -⟩ := (replay_changes s d m on).same .dieLinks rfl
  exact ⟨hr, hl, hf⟩

theorem flitCrcError_replays (s : State) (d m : Nat) (hd : d < 4) (hm : m < 64) (hb : bulkOn s = true) :
    ∃ t, exec (.flitCrcError d m none) s = .next t ∧ .replay d m ∈ t.out ∧
      odGet t (0x3900 + modKey d m) 0x03 = min cntMax (odGet s (0x3900 + modKey d m) 0x03 + 1) ∧
      odGet t (0x3900 + modKey d m) 0x04 = min cntMax (odGet s (0x3900 + modKey d m) 0x04 + 1) ∧
      odGet t (0x3800 + d) 0x05 = min cntMax (odGet s (0x3800 + d) 0x05 + 1) ∧ t.laneErrs = s.laneErrs := by
  have hrun : exec (.flitCrcError d m none) s = .next (replay (odBump s (0x3900 + modKey d m) 0x03 1) d m m) := by
    show execFlitCrcError d m none s = _
    simp [execFlitCrcError, hd, hm, hb]
  have hmod : ∀ n, n < 256 → ¬ logKey (odKey (0x3900 + modKey d m) n) := fun n hn => moduleKey_not_log hd hm hn
  have herr : odGet (odBump s (0x3900 + modKey d m) 0x03 1) (0x3900 + modKey d m) 0x03 = min cntMax (odGet s (0x3900 + modKey d m) 0x03 + 1) :=
    odGet_odBump s _ _ _ (hmod _ (by decide))
  have hrep : odGet (odBump s (0x3900 + modKey d m) 0x03 1) (0x3900 + modKey d m) 0x04 = odGet s (0x3900 + modKey d m) 0x04 :=
    odGet_odBump_of_ne s 1 (odKey_ne (by decide) (by decide) (by omega)) (hmod _ (by decide))
  have hdie : odGet (odBump s (0x3900 + modKey d m) 0x03 1) (0x3800 + d) 0x05 = odGet s (0x3800 + d) 0x05 :=
    odGet_odBump_of_ne s 1 (moduleKey_ne_dieKey hd (by decide) (by decide)).symm (dieKey_not_log hd (by decide))
  have hlanes : (odBump s (0x3900 + modKey d m) 0x03 1).laneErrs = s.laneErrs := ((odBump_changes s _ _ _).same .dieLinks rfl).2.1
  generalize odBump s (0x3900 + modKey d m) 0x03 1 = x at *
  obtain ⟨hout, hcount, hcount'⟩ := replay_counts x m hd hm
  refine ⟨_, hrun, hout, ?_, hrep ▸ hcount, hdie ▸ hcount', (replay_dieLinks x d m m).2.1.trans hlanes⟩
  rw [replay_keeps x d m m (odKey_ne (by decide) (by decide) (by omega)) (moduleKey_ne_dieKey hd (by decide) (by decide)) (hmod _ (by decide)), herr]

/-! ### A lane fails (R280, R282) -/

/-- The first failed data lane of a module takes its first spare. -/
theorem lanesOf_first {s : State} {k l : Nat} (h : ∀ f ∈ s.flashLanes, f.1 ≠ k) (hl : l < 64) :
    lanesOf (recordLane s k l) k = ⟨[65, 66, 67], [(l, 64)], []⟩ := by
  have hlist : (recordLane s k l).flashLanes = s.flashLanes ++ [(k, l)] := rfl
  have hold : s.flashLanes.filter (fun f => f.1 == k) = [] := List.filter_eq_nil_iff.mpr (fun f hf => by simpa using h f hf)
  unfold lanesOf
  rw [hlist, List.filter_append, hold]
  simp [Lanes.fail, hl]

theorem recordLane_records (s : State) (k l : Nat) : (k, l) ∈ (recordLane s k l).flashLanes ∧
    bitOf (odGet (recordLane s k l) (0x3900 + k) 0x02) l = true ∧
    OdKeeps (fun j => j ≠ odKey (0x3900 + k) 0x02) s (recordLane s k l) := by
  refine ⟨List.mem_append_right _ (List.mem_singleton.mpr rfl), ?_, ?_⟩
  · unfold recordLane
    rw [odGet_odSet]
    exact bitOf_withBit_self _ l
  · unfold recordLane
    exact (OdKeeps.of_od (s := s) (t := { s with flashLanes := s.flashLanes ++ [(k, l)] })).trans (.set _ _ (fun h => h rfl))

/-- The entries that putting a role byte leaves: all but the byte, and the role table and widths of the die. -/
theorem setRole_keeps (s : State) (d m b code : Nat) {i n : Nat} (hb : odKey i n ≠ odKey (0x3900 + modKey d m) 0x01)
    (hd : ∀ k, k = 1 ∨ k = 3 ∨ k = 4 → odKey i n ≠ odKey (0x3800 + d) k) (hl : ¬ logKey (odKey i n)) :
    odGet (setRole s d m b code) i n = odGet s i n := by
  have hchange := (stateChange_keeps s (modUnit d m 0xFFF) (0x3900 + modKey d m) 0x01 b code (if code = 0 then 0 else severityOf code)).get i n ⟨hb, hl⟩
  unfold setRole
  dsimp only
  rw [odGet_odSet_ne _ _ (hd 4 (by decide)), odGet_odSet_ne _ _ (hd 3 (by decide)), odGet_odSet_ne _ _ (hd 1 (by decide))]
  exact hchange

theorem roleByte_setRole (s : State) {d m : Nat} (b code : Nat) (hd : d < 4) (hm : m < 64) : roleByte (setRole s d m b code) d m = b := by
  have hne : ∀ k, k < 256 → odKey (0x3900 + modKey d m) 0x01 ≠ odKey (0x3800 + d) k := fun k hk => moduleKey_ne_dieKey hd (by decide) hk
  have hchange := odGet_stateChange s (modUnit d m 0xFFF) (0x3900 + modKey d m) 0x01 b code (if code = 0 then 0 else severityOf code)
    (moduleKey_not_log hd hm (by decide))
  unfold roleByte setRole
  dsimp only
  rw [odGet_odSet_ne _ _ (hne 4 (by decide)), odGet_odSet_ne _ _ (hne 3 (by decide)), odGet_odSet_ne _ _ (hne 1 (by decide))]
  exact hchange

/-- The first failed data lane of a module of full width: it is recorded, the module retrains with a spare at its width, and its flits are
replayed. -/
theorem failLanes_first {s : State} {d m l : Nat} (hl : l < 64) (hw : rbWidth (roleByte s d m) = 0)
    (hbit : bitOf (odGet s (0x3900 + modKey d m) 0x02) l = false) (hf : ∀ f ∈ s.flashLanes, f.1 ≠ modKey d m) :
    failLanes s d m [l] = replay (setRole (retrain (recordLane s (modKey d m) l) d m false) d m (mkRole (rbRole (roleByte s d m)) 0 1) 0) d m m := by
  have hnew : [l].filter (fun l => l < 68 && !bitOf (odGet s (0x3900 + modKey d m) 0x02) l) = [l] := by
    simp [hbit, Nat.lt_trans hl (by decide : 64 < 68)]
  unfold failLanes
  dsimp only
  rw [hnew]
  simp only [List.foldl_cons, List.foldl_nil, lanesOf_first hf hl, hw]
  rfl

theorem laneFailure_repairs (s : State) (d m l : Nat) (hd : d < 4) (hm : m < 64) (hl : l < 64) (hb : bulkOn s = true)
    (hw : rbWidth (roleByte s d m) = 0) (hbit : bitOf (odGet s (0x3900 + modKey d m) 0x02) l = false) (hf : ∀ f ∈ s.flashLanes, f.1 ≠ modKey d m) :
    ∃ t, exec (.laneFailure d m [l]) s = .next t ∧ (modKey d m, l) ∈ t.flashLanes ∧ bitOf (odGet t (0x3900 + modKey d m) 0x02) l = true ∧
      roleByte t d m = mkRole (rbRole (roleByte s d m)) 0 1 ∧ modKey d m ∈ t.retraining ∧ .replay d m ∈ t.out ∧
      odGet t (0x3900 + modKey d m) 0x04 = min cntMax (odGet s (0x3900 + modKey d m) 0x04 + 1) ∧
      odGet t (0x3800 + d) 0x05 = min cntMax (odGet s (0x3800 + d) 0x05 + 1) := by
  have hrun : exec (.laneFailure d m [l]) s = .next (failLanes s d m [l]) := by
    show execLaneFailure d m [l] s = _
    simp [execLaneFailure, hd, hm, hb]
  rw [failLanes_first hl hw hbit hf] at hrun
  generalize hrole : mkRole (rbRole (roleByte s d m)) 0 1 = b at *
  obtain ⟨hflash, hlane, hkeep⟩ := recordLane_records s (modKey d m) l
  generalize recordLane s (modKey d m) l = x at *
  have hentry : ∀ i n, odGet (retrain x d m false) i n = odGet x i n := fun _ _ => rfl
  have hretrain : modKey d m ∈ (retrain x d m false).retraining := mem_insertNat.mpr (.inr rfl)
  have hflash' : (modKey d m, l) ∈ (retrain x d m false).flashLanes := hflash
  generalize retrain x d m false = y at *
  have hbyte := roleByte_setRole y b 0 hd hm
  obtain ⟨hr, -, hfl, -⟩ := (setRole_changes y d m b 0).same .dieLinks rfl
  have hmod : ∀ n, n < 256 → n ≠ 1 → odGet (setRole y d m b 0) (0x3900 + modKey d m) n = odGet x (0x3900 + modKey d m) n := fun n hn h1 =>
    (setRole_keeps y d m b 0 (odKey_ne hn (by decide) (.inr h1)) (fun k hk => moduleKey_ne_dieKey hd hn (by omega))
      (moduleKey_not_log hd hm hn)).trans (hentry _ _)
  have hdie : odGet (setRole y d m b 0) (0x3800 + d) 0x05 = odGet x (0x3800 + d) 0x05 :=
    (setRole_keeps y d m b 0 (moduleKey_ne_dieKey hd (by decide) (by decide)).symm (fun k hk => odKey_ne (by decide) (by omega) (by omega))
      (dieKey_not_log hd (by decide))).trans (hentry _ _)
  generalize setRole y d m b 0 = z at *
  obtain ⟨hout, hcount, hcount'⟩ := replay_counts z m hd hm
  obtain ⟨hr', -, hf'⟩ := replay_dieLinks z d m m
  have hz : ∀ n, n < 256 → n ≠ 4 → odGet (replay z d m m) (0x3900 + modKey d m) n = odGet z (0x3900 + modKey d m) n := fun n hn h4 =>
    replay_keeps z d m m (odKey_ne hn (by decide) (.inr h4)) (moduleKey_ne_dieKey hd hn (by decide)) (moduleKey_not_log hd hm hn)
  refine ⟨_, hrun, ?_, ?_, ?_, ?_, hout, ?_, ?_⟩
  · rw [hf', hfl]; exact hflash'
  · rw [hz 2 (by decide) (by decide), hmod 2 (by decide) (by decide)]; exact hlane
  · exact (hz 1 (by decide) (by decide)).trans hbyte
  · rw [hr', hr]; exact hretrain
  · rw [hcount, hmod 4 (by decide) (by decide), hkeep.get _ _ (odKey_ne (by decide) (by decide) (by omega))]
  · rw [hcount', hdie, hkeep.get _ _ (moduleKey_ne_dieKey hd (by decide) (by decide)).symm]

theorem moduleRetrainDone_counts (s : State) (d m : Nat) (hd : d < 4) (hm : m < 64) (hr : s.retraining.contains (modKey d m) = true) :
    ∃ t, exec (.moduleRetrainDone d m) s = .next t ∧ modKey d m ∉ t.retraining ∧
      odGet t (0x3900 + modKey d m) 0x05 = min cntMax (odGet s (0x3900 + modKey d m) 0x05 + 1) := by
  have hrun : exec (.moduleRetrainDone d m) s =
      .next (odBump { s with retraining := s.retraining.filter (· != modKey d m) } (0x3900 + modKey d m) 0x05 1) := by
    show execModuleRetrainDone d m s = _
    rw [execModuleRetrainDone, if_pos hr]
  have hleft := ((odBump_changes { s with retraining := s.retraining.filter (· != modKey d m) } (0x3900 + modKey d m) 0x05 1).same .dieLinks rfl).1
  refine ⟨_, hrun, ?_, odGet_odBump _ _ _ _ (moduleKey_not_log hd hm (by decide))⟩
  rw [hleft]
  simp [List.mem_filter]

/-- Settles O55: each event of a stack or a module in turn, by what its reads, its retirement, its relocation or its replay do. -/
theorem stacksAndModulesRecover : Obligations.StacksAndModulesRecover :=
  ⟨patrolScrub_recovers, correctedRewrite_recovers, fun _ _ => rfl, channelFailure_seals, slotRelocation_moves, retirementComplete_retires,
    flitCrcError_replays, laneFailure_repairs, moduleRetrainDone_counts⟩

end Sys2Proof.Machine
end

section
/-! PROOFS. A WRITE as a path takes it (R463 to R465, R475): what its arrival leaves of the state, the answer that goes out, and what a WRITE
that passes every check but that of rights comes to. -/

namespace Sys2Proof.Machine

/-! ### What arrives -/

/-- A request has arrived: nothing but the requesters and their sessions may differ, and each requester's selects stand. -/
structure Arrived (s t : State) : Prop where
  state : ∃ rq ss, t = { s with requesters := rq, sessions := ss }
  selects : ∀ p, (getReq t p).selects = (getReq s p).selects

theorem Arrived.refl (s : State) : Arrived s s := ⟨⟨s.requesters, s.sessions, rfl⟩, fun _ => rfl⟩

theorem Arrived.trans {s t u : State} (h : Arrived s t) (g : Arrived t u) : Arrived s u := by
  obtain ⟨rq, ss, hu⟩ := g.state
  obtain ⟨_, _, ht⟩ := h.state
  exact ⟨⟨rq, ss, by rw [hu, ht]⟩, fun p => (g.selects p).trans (h.selects p)⟩

theorem Arrived.changes {s t : State} (h : Arrived s t) : Changes [.access] s t := by
  obtain ⟨rq, ss, rfl⟩ := h.state
  exact Changes.update .refl

theorem Arrived.od {s t : State} (h : Arrived s t) : t.od = s.od := h.changes.same .od rfl

theorem Arrived.mem {s t : State} (h : Arrived s t) : t.mem = s.mem := h.changes.same .memory rfl

theorem Arrived.odGet {s t : State} (h : Arrived s t) (i n : Nat) : odGet t i n = odGet s i n := by unfold Machine.odGet; rw [h.od]

theorem Arrived.qGet {s t : State} (h : Arrived s t) (u q n : Nat) : qGet t u q n = qGet s u q n := h.odGet _ _

theorem Arrived.selectOf {s t : State} (h : Arrived s t) (p : Path) (i sub : Nat) :
    selectOf (getReq t p) i sub = selectOf (getReq s p) i sub := by
  unfold Machine.selectOf; rw [h.selects p]

theorem Arrived.available {s t : State} (h : Arrived s t) (i : Nat) : available t i = available s i := by
  obtain ⟨rq, ss, rfl⟩ := h.state; rfl

theorem Arrived.pageClosed {s t : State} (h : Arrived s t) (p : Path) : pageClosed t p = pageClosed s p := by
  obtain ⟨rq, ss, rfl⟩ := h.state; rfl

theorem Arrived.holdsRequests {s t : State} (h : Arrived s t) : holdsRequests t = holdsRequests s := by
  obtain ⟨rq, ss, rfl⟩ := h.state; rfl

theorem Arrived.reaches {s t : State} (h : Arrived s t) (p : Path) : reaches t p = reaches s p := by
  obtain ⟨rq, ss, rfl⟩ := h.state; rfl

theorem Arrived.rangeOk {s t : State} (h : Arrived s t) (row : OdRow) (i sub v len : Nat) : rangeOk t row i sub v len = rangeOk s row i sub v len := by
  obtain ⟨rq, ss, rfl⟩ := h.state; rfl

theorem Arrived.stateOk {s t : State} (h : Arrived s t) (i sub v : Nat) : stateOk t i sub v = stateOk s i sub v := by
  obtain ⟨rq, ss, rfl⟩ := h.state; rfl

theorem Arrived.rightsOk {s t : State} (h : Arrived s t) (p : Path) (r : OdReq) (row : OdRow) (w : Bool) :
    rightsOk t p r row w = rightsOk s p r row w := by
  have hselect := fun c d => h.selectOf (.job c d) 0x9300 1
  obtain ⟨rq, ss, rfl⟩ := h.state
  cases p with
  | mailbox d => rfl
  | hasowa n d => rfl
  | job c d =>
    unfold Machine.rightsOk
    dsimp only
    rw [hselect]
    rfl

/-- The requester of a path is kept under that path. -/
theorem getReq_p (s : State) (p : Path) : (getReq s p).p = requesterOf p := by
  unfold getReq
  cases hf : s.requesters.find? (fun r => r.p == requesterOf p) with
  | none => rfl
  | some r => exact eq_of_beq (List.find?_some (p := fun r : Requester => r.p == requesterOf p) hf)

theorem getReq_putReq (s : State) (q : Requester) (p : Path) : getReq (putReq s q) p = if q.p = requesterOf p then q else getReq s p := by
  unfold getReq putReq
  by_cases h : q.p = requesterOf p
  · simp [h]
  · rw [if_neg h, List.find?_cons_of_neg (by simpa using h), List.find?_filter]
    congr 2
    funext x
    by_cases hx : x.p = requesterOf p
    · simp [hx, Ne.symm h]
    · simp [hx]

/-- A requester's own copies are replaced, its selects kept. -/
theorem putReq_arrived {s : State} {p : Path} {q : Requester} (hp : q.p = (getReq s p).p) (hs : q.selects = (getReq s p).selects) :
    Arrived s (putReq s q) := by
  refine ⟨⟨_, s.sessions, rfl⟩, fun x => ?_⟩
  rw [getReq_putReq]
  split
  · next hx =>
    have hsame : requesterOf p = requesterOf x := by rw [← getReq_p s p, ← hp, hx]
    rw [hs]
    unfold getReq
    rw [hsame]
  · rfl

theorem leaveOthers_arrived (s : State) (p : Path) (r : OdReq) : Arrived s (leaveOthers s p r) := by
  have hcopies : ∀ snap staged, Arrived s (putReq s { getReq s p with snap := snap, staged := staged }) := fun _ _ => putReq_arrived (p := p) rfl rfl
  unfold leaveOthers
  dsimp only
  split_ifs
  · exact .refl s
  · exact hcopies _ _

theorem putSession_arrived (s : State) (x : Session) : Arrived s (putSession s x) := ⟨⟨s.requesters, _, rfl⟩, fun _ => rfl⟩

/-! ### Answers -/

theorem respond_answers (s : State) (p : Path) (r : OdReq) (status off len : Nat) (data : List Byte) :
    .odResponse p r.index r.sub status off len r.tag data ∈ (respond s p r status off len data).out := by
  cases p with
  | mailbox d => simp [respond, emit]
  | job c d => simp [respond, emit]
  | hasowa n d =>
    unfold respond
    dsimp only
    split <;> simp [emit, emitAll, sessionAnswer]

/-- An answer takes nothing back that has gone out. -/
theorem respond_out (s : State) (p : Path) (r : OdReq) (status off len : Nat) (data : List Byte) :
    s.out.Sublist (respond s p r status off len data).out := by
  cases p with
  | mailbox d => simp [respond, emit]
  | job c d => simp [respond, emit]
  | hasowa n d =>
    unfold respond
    dsimp only
    split <;> simp [emit, emitAll]

theorem refuse_write {r : OdReq} (h : r.op = 1) (s : State) (p : Path) (status len : Nat) :
    refuse s p r status len = respond s p r status r.offset len [] := by
  unfold refuse
  rw [if_neg (by omega)]

/-! ### The count of Hasowa requests (R475) -/

/-- A request that a path has taken is counted on a Hasowa path. -/
def countTaken (p : Path) (s : State) : State :=
  match p with
  | .hasowa _ _ => odBump s 0x6800 0x08 1
  | _ => s

/-- The entries that neither the count of requests nor its saturation can touch. -/
def offCount (k : Nat) : Prop := ¬ logKey k ∧ k ≠ odKey 0x6800 0x08

theorem offCount_of_page {i n : Nat} (hi : i < 0x6800 ∨ 0x8000 ≤ i) (hn : n < 256) : offCount (odKey i n) := by
  unfold offCount logKey odKey; omega

theorem countTaken_changes (p : Path) (s : State) : Changes [.draws, .od, .recorder, .access, .output] s (countTaken p s) := by
  cases p with
  | mailbox d => exact .refl
  | job c d => exact .refl
  | hasowa n d => exact odBump_changes s 0x6800 0x08 1

theorem countTaken_keeps (p : Path) (s : State) : OdKeeps offCount s (countTaken p s) := by
  cases p with
  | mailbox d => exact .refl s
  | job c d => exact .refl s
  | hasowa n d => exact (odBump_keeps s 0x6800 0x08 1).mono fun k hk => ⟨hk.2, hk.1⟩

theorem countTaken_out (p : Path) (s : State) : s.out.Sublist (countTaken p s).out := by
  cases p with
  | mailbox d => exact .refl _
  | job c d => exact .refl _
  | hasowa n d => exact (odBump_logs s 0x6800 0x08 1 (by decide)).out

/-- The count of a request is all that differs from a dictionary that was kept. -/
theorem countTaken_odKept {s u : State} (p : Path) (h : u.od = s.od) : odKept s (countTaken p u) p := by
  have hkeeps : OdKeeps offCount s (countTaken p u) := (OdKeeps.of_od h).trans (countTaken_keeps p u)
  cases p with
  | mailbox d => exact h
  | job c d => exact h
  | hasowa n d =>
    intro k hl hc
    have hkey : odKey (k / 256) (k % 256) = k := by unfold odKey; omega
    exact hkeeps.get _ _ (by rw [hkey]; exact ⟨hl, hc⟩)

/-! ### A request that is answered -/

/-- The answer to a request goes out with a status and no data, and the request is counted. -/
def answerTo (p : Path) (r : OdReq) (status : Nat) (s : State) : State := countTaken p (respond s p r status r.offset 0 [])

theorem answerTo_answers (p : Path) (r : OdReq) (status : Nat) (s : State) :
    .odResponse p r.index r.sub status r.offset 0 r.tag [] ∈ (answerTo p r status s).out :=
  (countTaken_out p _).subset (respond_answers s p r status r.offset 0 [])

theorem answerTo_changes (p : Path) (r : OdReq) (status : Nat) (s : State) :
    Changes [.draws, .od, .recorder, .access, .output] s (answerTo p r status s) :=
  (countTaken_changes p _).step rfl ((respond_changes s p r status r.offset 0 []).mono rfl)

theorem answerTo_keeps (p : Path) (r : OdReq) (status : Nat) (s : State) : OdKeeps offCount s (answerTo p r status s) :=
  (OdKeeps.of_changes (respond_changes s p r status r.offset 0 [])).trans (countTaken_keeps p _)

theorem answerTo_odKept (p : Path) (r : OdReq) (status : Nat) {s u : State} (h : u.od = s.od) : odKept s (answerTo p r status u) p :=
  countTaken_odKept p (((respond_changes u p r status r.offset 0 []).same .od rfl).trans h)

/-! ### The way of a WRITE -/

/-- A path that is answered takes the request, and a Hasowa session notes it. -/
theorem odServe_answered {s : State} {p : Path} (r : OdReq) (x : Aux) (h : answered s p = true) :
    ∃ s1, Arrived s s1 ∧ odServe s p r x = countTaken p (odTake s1 p r x) := by
  unfold answered at h
  rw [Bool.and_eq_true] at h
  obtain ⟨hreach, hpath⟩ := h
  cases p with
  | mailbox d => exact ⟨s, .refl s, rfl⟩
  | job c d =>
    refine ⟨s, .refl s, ?_⟩
    have hidle : pageState s c ≠ 1 := by simpa using hpath
    unfold odServe
    dsimp only
    rw [if_neg hidle]
    rfl
  | hasowa n d =>
    have hrom : s.romRuns = true := by simpa [reaches] using hreach
    have hserved : sessionServed s n = true := hpath
    unfold sessionServed at hserved
    cases hf : findSession s n with
    | none => simp [hf] at hserved
    | some y =>
      rw [hf] at hserved
      have hperm : permitted s y.source = true := hserved
      refine ⟨_, putSession_arrived s { y with lastSeq := wrap 32 (y.lastSeq + 1), seenAt := s.uptime, asked := y.asked ++ [wrap 32 (y.lastSeq + 1)] }, ?_⟩
      unfold odServe
      simp [hrom, hf, fromPermitted, hperm, serveSession, countTaken]

theorem odTake_served {s : State} {p : Path} (r : OdReq) (x : Aux) (hr : reaches s p = true) (hh : holdsRequests s = false) :
    odTake s p r x = serveNow s p r x := by
  unfold odTake
  simp [hr, hh]

/-- A WRITE to an entry that there is: without the right it is refused, before anything else is looked at (R464). -/
theorem serveNow_write {s : State} {p : Path} {r : OdReq} {row : OdRow} (x : Aux) (hop : r.op = 1) (hopen : pageClosed s p = false)
    (hform : malformed p r = false) (hpresent : odPresent r.index = true) (hrow : rowOf r.index r.sub = some row) :
    serveNow s p r x =
      if rightsOk (leaveOthers s p r) p r row true then
        if accessOk row r then serveWrite (leaveOthers s p r) p r row x else refuse (leaveOthers s p r) p r odACCESS 0
      else refuse (leaveOthers s p r) p r odRIGHTS 0 := by
  unfold serveNow
  cases hright : rightsOk (leaveOthers s p r) p r row true
  · simp [hopen, hform, hpresent, hrow, hop, hright]
  · cases haccess : accessOk row r <;> simp [hopen, hform, hpresent, hrow, hop, hright, haccess]

theorem servedNow_iff {s : State} {p : Path} :
    servedNow s p = true ↔ answered s p = true ∧ holdsRequests s = false ∧ pageClosed s p = false := by
  simp [servedNow, and_assoc]

/-- What a well-formed WRITE of a path that is served comes to, by its rights and its access. -/
theorem odServe_write {s : State} {p : Path} {r : OdReq} {row : OdRow} (x : Aux) (hserved : servedNow s p = true) (hop : r.op = 1)
    (hform : malformed p r = false) (hpresent : odPresent r.index = true) (hrow : rowOf r.index r.sub = some row) :
    ∃ s0, Arrived s s0 ∧ odServe s p r x = countTaken p (
      if rightsOk s p r row true then if accessOk row r then serveWrite s0 p r row x else refuse s0 p r odACCESS 0
      else refuse s0 p r odRIGHTS 0) := by
  obtain ⟨hanswered, hholds, hopen⟩ := servedNow_iff.mp hserved
  have hreach : reaches s p = true := by unfold answered at hanswered; exact (Bool.and_eq_true _ _ ▸ hanswered).1
  obtain ⟨s1, h1, hserve⟩ := odServe_answered r x hanswered
  have h0 : Arrived s (leaveOthers s1 p r) := h1.trans (leaveOthers_arrived s1 p r)
  refine ⟨_, h0, ?_⟩
  rw [hserve, odTake_served r x (by rwa [h1.reaches]) (by rwa [h1.holdsRequests]),
    serveNow_write x hop (by rwa [h1.pageClosed]) hform hpresent hrow, h0.rightsOk]

/-- A WRITE without the right is answered RIGHTS, and nothing is written (R464). -/
theorem odServe_withoutRight {s : State} {p : Path} {r : OdReq} {row : OdRow} (x : Aux) (hserved : servedNow s p = true) (hop : r.op = 1)
    (hform : malformed p r = false) (hpresent : odPresent r.index = true) (hrow : rowOf r.index r.sub = some row)
    (hright : rightsOk s p r row true = false) : ∃ s0, Arrived s s0 ∧ odServe s p r x = answerTo p r odRIGHTS s0 := by
  obtain ⟨s0, h0, hserve⟩ := odServe_write x hserved hop hform hpresent hrow
  refine ⟨s0, h0, ?_⟩
  rw [hserve, hright, if_neg Bool.false_ne_true, refuse_write hop]
  rfl

/-! ### A WRITE in one piece -/

theorem leNat_leBytes (n v : Nat) : leNat (leBytes n v) = v % 2 ^ (8 * n) := by
  induction n generalizing v with
  | zero => simp [leBytes, leNat, Nat.mod_one]
  | succ n ih =>
    simp only [leBytes, leNat, ih, BitVec.toNat_ofNat]
    rw [show 8 * (n + 1) = 8 + 8 * n by ring, pow_add, Nat.mod_mul]
    rfl

theorem malformed_of_write {p : Path} {r : OdReq} (hop : r.op = 1) (hres : r.reserved = 0) (hlen : r.length = r.data.length)
    (hfits : r.data.length ≤ pathMax p) : malformed p r = false := by
  unfold malformed
  simp [hop, hres, hlen, hfits]

theorem writeReq_wellFormed (i sub : Nat) {n : Nat} (v : Nat) {p : Path} (h : n ≤ pathMax p) : malformed p (writeReq i sub n v) = false :=
  malformed_of_write rfl rfl (leBytes_length n v).symm (by rw [show (writeReq i sub n v).data.length = n from leBytes_length n v]; exact h)

/-- A value in range that the state allows is applied, and answered with the status that its effect gives. -/
theorem writeValue_applied {s : State} {p : Path} {r : OdReq} {row : OdRow} {d : List Byte} (x : Aux)
    (hrange : rangeOk s row r.index r.sub (leNat d) d.length = true) (hstate : stateOk s r.index r.sub (leNat d) = true) :
    writeValue s p r row d x =
      respond (odApply s p r.index r.sub (leNat d) d x).2 p r (odApply s p r.index r.sub (leNat d) d x).1 r.offset 0 [] := by
  unfold writeValue
  simp [hrange, hstate]

/-- A WRITE of the whole value goes on to its range and its state; pieces that were staged for the entry are gone. -/
theorem serveWrite_whole {s : State} (p : Path) {i sub n : Nat} (v : Nat) {row : OdRow} (x : Aux)
    (hsize : if row.pieces then n ≤ min 1048576 row.size else n = row.size) (havail : available s i = true) :
    ∃ s1, Arrived s s1 ∧ serveWrite s p (writeReq i sub n v) row x = writeValue s1 p (writeReq i sub n v) row (leBytes n v) x := by
  unfold serveWrite
  by_cases hp : row.pieces = true
  · rw [if_pos hp] at hsize
    refine ⟨_, putReq_arrived (p := p) (q := { getReq s p with staged := none }) rfl rfl, ?_⟩
    simp [hp, writeReq, havail, Nat.not_lt.mpr hsize]
  · rw [if_neg hp] at hsize
    exact ⟨s, .refl s, by simp [hp, writeReq, havail, hsize]⟩

/-- A WRITE that passes every check is applied and answered. -/
theorem odServe_applied {s : State} {p : Path} {i sub n v : Nat} {row : OdRow} (x : Aux) (h : writable s p i sub n v row)
    (hright : rightsOk s p (writeReq i sub n v) row true = true) :
    ∃ s0, Arrived s s0 ∧ odServe s p (writeReq i sub n v) x =
      answerTo p (writeReq i sub n v) (odApply s0 p i sub v (leBytes n v) x).1 (odApply s0 p i sub v (leBytes n v) x).2 := by
  obtain ⟨hserved, hpresent, hrow, haccess, hmax, hsize, havail, hv, hrange, hstate⟩ := h
  obtain ⟨s0, h0, hserve⟩ := odServe_write x hserved rfl (writeReq_wellFormed i sub v hmax) hpresent hrow
  obtain ⟨s1, h1, hwhole⟩ := serveWrite_whole (s := s0) (sub := sub) p v x hsize (by rwa [h0.available])
  have hs1 : Arrived s s1 := h0.trans h1
  have hval : leNat (leBytes n v) = v := by rw [leNat_leBytes, Nat.mod_eq_of_lt hv]
  refine ⟨s1, hs1, ?_⟩
  rw [hserve, if_pos hright, if_pos haccess, hwhole, writeValue_applied x]
  · rw [hval]; rfl
  · rw [hval, leBytes_length, hs1.rangeOk]; exact hrange
  · rw [hval, hs1.stateOk]; exact hstate

/-- What a WRITE comes to, from what its value does to any state that its arrival can leave. -/
theorem odServe_outcome {s : State} {p : Path} {i sub n v status : Nat} {row : OdRow} (x : Aux) {effect : State → Prop}
    (h : writable s p i sub n v row)
    (happly : ∀ s0, Arrived s s0 → (odApply s0 p i sub v (leBytes n v) x).1 = status ∧
      effect (answerTo p (writeReq i sub n v) status (odApply s0 p i sub v (leBytes n v) x).2)) :
    writeOutcome s (odServe s p (writeReq i sub n v) x) p i sub n v row status (effect (odServe s p (writeReq i sub n v) x)) := by
  constructor
  · intro hright
    obtain ⟨s0, h0, hserve⟩ := odServe_applied x h hright
    obtain ⟨hstatus, heffect⟩ := happly s0 h0
    rw [hserve, hstatus]
    exact ⟨answerTo_answers p (writeReq i sub n v) status _, heffect⟩
  · intro hright
    obtain ⟨hserved, hpresent, hrow, -, hmax, -⟩ := h
    obtain ⟨s0, h0, hserve⟩ := odServe_withoutRight x hserved rfl (writeReq_wellFormed i sub v hmax) hpresent hrow hright
    rw [hserve]
    exact ⟨answerTo_answers p (writeReq i sub n v) odRIGHTS _, answerTo_odKept p _ _ h0.od,
      ((answerTo_changes p _ _ s0).same .memory rfl).trans h0.mem⟩

theorem doWrite_whole (s : State) {p : Path} (i sub : Nat) {n : Nat} (v : Nat) (h : n ≤ pathMax p) :
    doWrite s p i sub n v = odServe s p (writeReq i sub n v) Aux.none := if_pos h

/-- The same of a row that names its WRITE. -/
theorem doWrite_outcome {s : State} {p : Path} {i sub n v status : Nat} {row : OdRow} {effect : State → Prop} (h : writable s p i sub n v row)
    (happly : ∀ s0, Arrived s s0 → (odApply s0 p i sub v (leBytes n v) Aux.none).1 = status ∧
      effect (answerTo p (writeReq i sub n v) status (odApply s0 p i sub v (leBytes n v) Aux.none).2)) :
    writeOutcome s (doWrite s p i sub n v) p i sub n v row status (effect (doWrite s p i sub n v)) := by
  obtain ⟨-, -, -, -, hmax, -⟩ := id h
  rw [doWrite_whole s i sub v hmax]
  exact odServe_outcome Aux.none h happly

end Sys2Proof.Machine
end

section
/-! PROOFS. WRITEs that no right allows, and WRITEs in pieces among them (R460, R464, R465). -/

namespace Sys2Proof.Machine

/-! ### Requests that write nothing -/

/-- A key of the job plane's pages and of those above them. -/
def jobPlane (k : Nat) : Prop := 0x900000 ≤ k

theorem jobPlane_key {i : Nat} (h : 0x9000 ≤ i) (n : Nat) : jobPlane (odKey i n) := by unfold jobPlane odKey; omega

theorem not_logKey_of_jobPlane {k : Nat} (h : jobPlane k) : ¬ logKey k := by unfold jobPlane at h; unfold logKey; omega

theorem odBump_jobPlane (s : State) {i sub : Nat} (n : Nat) (h : odKey i sub < 0x900000) : OdKeeps jobPlane s (odBump s i sub n) :=
  (odBump_keeps s i sub n).mono fun _ hk => ⟨fun e => absurd hk (by unfold jobPlane; omega), not_logKey_of_jobPlane hk⟩

/-- Nothing has been written to the job plane or to memory, and nothing that had gone out is taken back. -/
structure Unwritten (s t : State) : Prop where
  keeps : OdKeeps jobPlane s t
  mem : t.mem = s.mem
  out : s.out.Sublist t.out

theorem Unwritten.refl (s : State) : Unwritten s s := ⟨.refl s, rfl, .refl _⟩

theorem Unwritten.trans {s t u : State} (h : Unwritten s t) (g : Unwritten t u) : Unwritten s u :=
  ⟨h.keeps.trans g.keeps, g.mem.trans h.mem, h.out.trans g.out⟩

theorem Unwritten.foldl {α : Type} {f : State → α → State} (hf : ∀ s a, Unwritten s (f s a)) (l : List α) (s : State) :
    Unwritten s (l.foldl f s) := by
  induction l generalizing s with
  | nil => exact .refl s
  | cons a r ih => exact (hf s a).trans (ih _)

theorem Arrived.unwritten {s t : State} (h : Arrived s t) : Unwritten s t := by
  obtain ⟨rq, ss, rfl⟩ := h.state
  exact ⟨.of_od rfl, rfl, .refl _⟩

theorem odBump_unwritten (s : State) {i sub : Nat} (n : Nat) (h : odKey i sub < 0x700000) : Unwritten s (odBump s i sub n) :=
  ⟨odBump_jobPlane s n (by omega), (odBump_changes s i sub n).same .memory rfl, (odBump_logs s i sub n (Nat.ne_of_gt (Nat.lt_trans h (by decide)))).out⟩

theorem respond_unwritten (s : State) (p : Path) (r : OdReq) (status off len : Nat) (data : List Byte) :
    Unwritten s (respond s p r status off len data) :=
  ⟨.of_changes (respond_changes s p r status off len data), (respond_changes s p r status off len data).same .memory rfl,
    respond_out s p r status off len data⟩

theorem refuse_unwritten {r : OdReq} (h : r.op = 1) (s : State) (p : Path) (status len : Nat) : Unwritten s (refuse s p r status len) := by
  rw [refuse_write h]; exact respond_unwritten s p r status r.offset len []

section
variable {p : Path} {r : OdReq} {row : OdRow} (hop : r.op = 1) (hrow : rowOf r.index r.sub = some row)
  (hright : ∀ s, rightsOk s p r row true = false)
include hop hrow hright

theorem serveNow_unwritten (s : State) (x : Aux) : Unwritten s (serveNow s p r x) := by
  have hrefuse := fun s status => refuse_unwritten hop s p status 0
  have harrive := (leaveOthers_arrived s p r).unwritten
  unfold serveNow
  split
  · exact hrefuse _ _
  split
  · exact hrefuse _ _
  dsimp only
  split
  · exact harrive.trans (hrefuse _ _)
  · simp only [hrow, hop]
    rw [if_pos (by simp [hright])]
    exact harrive.trans (hrefuse _ _)

theorem odTake_unwritten (s : State) (x : Aux) : Unwritten s (odTake s p r x) := by
  unfold odTake
  split_ifs
  · exact .refl s
  · exact ⟨.of_od rfl, rfl, .refl _⟩
  · exact serveNow_unwritten hop hrow hright s x

/-- A WRITE that no state gives the right to writes nothing, whatever becomes of it. -/
theorem odServe_unwritten (s : State) (x : Aux) : Unwritten s (odServe s p r x) := by
  have htake := fun s => odTake_unwritten hop hrow hright s x
  unfold odServe
  split
  · exact htake s
  · split
    · exact .refl s
    · exact htake s
  · split
    · exact .refl s
    split
    · unfold fromPermitted
      split
      · exact ((putSession_arrived s _).unwritten.trans (htake _)).trans (odBump_unwritten _ 1 (by decide))
      · exact odBump_unwritten s 1 (by decide)
    · exact .refl s

end

/-! ### Entries of the host alone -/

/-- A path of another class than HOST never writes an entry of the class HOST alone (R459, R461). -/
theorem rightsOk_hostOnly (s : State) {p : Path} (r : OdReq) {row : OdRow} (hcls : row.cls = 1) (hp : classOf p ≠ 1) :
    rightsOk s p r row true = false := by
  have hmask : ∀ b, b ≠ 0 → bitOf (classMask row r.index true) b = false := fun b hb => by
    unfold classMask bitOf
    rw [if_pos rfl, hcls, Nat.testBit_and, Nat.testBit_lt_two_pow (Nat.one_lt_two_pow hb), Bool.and_false]
  cases p with
  | mailbox d => exact absurd rfl hp
  | job c d =>
    unfold rightsOk
    dsimp only
    rw [hmask 2 (by decide), Bool.and_false, Bool.false_and]
  | hasowa n d =>
    have hclass : classMask row r.index true &&& classOf (.hasowa n d) = 0 := by
      unfold classMask
      rw [if_pos rfl, hcls, Nat.and_assoc]
      simp [classOf]
    unfold rightsOk
    dsimp only
    rw [hmask 3 (by decide), hclass]
    simp

/-- A value of 2,048 bytes or fewer that a path takes in pieces comes by another path than the mailbox (R470, R471, R474). -/
theorem classOf_of_pieces {p : Path} {n : Nat} (h : pathMax p < n) (hn : n ≤ 2048) : classOf p ≠ 1 := by
  cases p with
  | mailbox d => exact absurd (Nat.lt_of_lt_of_le h hn) (by simp [pathMax])
  | job c d => simp [classOf]
  | hasowa n d => simp [classOf]

theorem pathMax_pos (p : Path) : 0 < pathMax p := by cases p <;> simp [pathMax]

/-! ### A WRITE in pieces -/

theorem writePiece_first_wellFormed (i sub : Nat) {n : Nat} (v : Nat) (p : Path) : malformed p (writePiece i sub n v (pathMax p) 0) = false :=
  malformed_of_write rfl rfl rfl (List.length_take_le _ _)

/-- A value in pieces for an entry of the host alone, by a path of another class: the first piece is answered RIGHTS, and none writes. -/
theorem doWrite_pieces_refused {s : State} {p : Path} {i sub n v : Nat} {row : OdRow} (h : writableInPieces s p i sub n v row)
    (hcls : row.cls = 1) (hp : classOf p ≠ 1) :
    .odResponse p i sub odRIGHTS 0 0 0 [] ∈ (doWrite s p i sub n v).out ∧ Unwritten s (doWrite s p i sub n v) := by
  obtain ⟨hmax, -, hserved, hpresent, hrow, -⟩ := h
  have hpiece : ∀ (s : State) (k : Nat), Unwritten s (odServe s p (writePiece i sub n v (pathMax p) k) Aux.none) := fun s k =>
    odServe_unwritten rfl hrow (fun s => rightsOk_hostOnly s _ hcls hp) s _
  obtain ⟨m, hm⟩ : ∃ m, ceilDiv' n (pathMax p) = m + 1 := Nat.exists_eq_add_one.mpr (Nat.div_pos (by omega) (pathMax_pos p))
  obtain ⟨s0, h0, hfirst⟩ := odServe_withoutRight Aux.none hserved rfl (writePiece_first_wellFormed i sub v p) hpresent hrow
    (rightsOk_hostOnly s _ hcls hp)
  have hanswer := answerTo_answers p (writePiece i sub n v (pathMax p) 0) odRIGHTS s0
  have hrest := Unwritten.foldl hpiece
  unfold doWrite
  rw [if_neg (by omega), hm, List.range_succ_eq_map, List.foldl_cons, ← hfirst] at *
  rw [show (writePiece i sub n v (pathMax p) 0).offset = 0 from Nat.zero_mul _] at hanswer
  exact ⟨(hrest _ _).out.subset hanswer, (hpiece s 0).trans (hrest _ _)⟩

end Sys2Proof.Machine
end

section
/-! PROOFS. O44: what the values written to the job's entries do (R57, R195, R196, R205, R211, R212, R373), and their WRITEs. -/

namespace Sys2Proof.Machine

/-! ### Queue entries -/

theorem qGet_qSet (s : State) (u q n v : Nat) : qGet (qSet s u q n v) u q n = v := odGet_odSet _ _ _ _

theorem qGet_qSet_of_ne (s : State) (u q v : Nat) {m n : Nat} (h : m ≠ n) : qGet (qSet s u q n v) u q m = qGet s u q m :=
  odGet_odSet_ne s v (by unfold odKey; omega)

theorem queueIndex_bounds {u : Nat} (h : u < 256) : 0x3600 ≤ queueIndex u ∧ queueIndex u < 0x3700 := by
  unfold queueIndex; split <;> omega

/-- A queue that settles is IDLE when its head has caught up with its tail; nothing else of its entry changes (R196). -/
theorem qGet_settleQueue (s : State) (u q : Nat) {n : Nat} (h : n ≠ 6) : qGet (settleQueue s u q) u q n = qGet s u q n := by
  unfold settleQueue
  split
  · exact qGet_qSet_of_ne s u q _ h
  · rfl

theorem queueLive_iff (s : State) (u q : Nat) : queueLive s u q = true ↔ qGet s u q 6 = 1 ∨ qGet s u q 6 = 2 := by simp [queueLive]

theorem qGet_settleQueue_state {s : State} {u q : Nat} (h : queueLive s u q = true) :
    qGet (settleQueue s u q) u q 6 = if qGet s u q 4 = qGet s u q 5 then 1 else 2 := by
  unfold settleQueue
  rw [if_pos ((queueLive_iff s u q).mp h)]
  exact qGet_qSet _ _ _ _ _

/-- A ring starts anew with v in sub-index n: its head and its tail are 0 (R196). -/
def ringStarts (u q n v : Nat) (t : State) : Prop := qGet t u q n = v ∧ qGet t u q 4 = 0 ∧ qGet t u q 5 = 0

theorem writeRing_starts (s : State) (u q v : Nat) {n : Nat} (hn : n = 1 ∨ n = 2) : ringStarts u q n v (writeRing s u q n v) := by
  unfold writeRing
  refine ⟨?_, ?_, ?_⟩
  · iterate 4 rw [qGet_qSet_of_ne _ _ _ _ (by omega)]
    exact qGet_qSet _ _ _ _ _
  · iterate 3 rw [qGet_qSet_of_ne _ _ _ _ (by decide)]
    exact qGet_qSet _ _ _ _ _
  · iterate 2 rw [qGet_qSet_of_ne _ _ _ _ (by decide)]
    exact qGet_qSet _ _ _ _ _

theorem writeQueue_ring (s : State) (u q v : Nat) {n : Nat} (hn : n = 1 ∨ n = 2) : writeQueue s u q n v = writeRing s u q n v := if_pos (by omega)

theorem writeQueue_tail (s : State) (u q v : Nat) : writeQueue s u q 5 v = publishTail s u q v := by
  unfold writeQueue
  rw [if_neg (by decide), if_neg (by decide), if_neg (by decide), if_pos rfl]

/-- The tail v is published, and a queue that was on is IDLE or RUNNING by it (R195, R196). -/
def tailPublished (s : State) (u q v : Nat) (t : State) : Prop :=
  qGet t u q 5 = v ∧ (queueLive s u q = true → qGet t u q 6 = if qGet s u q 4 = v then 1 else 2)

theorem publishTail_publishes {s : State} {u q v : Nat} (h : tailOk s u q v = true) : tailPublished s u q v (publishTail s u q v) := by
  unfold publishTail
  rw [if_pos h]
  constructor
  · rw [qGet_settleQueue _ _ _ (by decide), qGet_qSet]
  · intro hlive
    have hlive' : queueLive (qSet s u q 5 v) u q = true := by
      rw [queueLive_iff, qGet_qSet_of_ne _ _ _ _ (by decide), ← queueLive_iff]; exact hlive
    rw [qGet_settleQueue_state hlive', qGet_qSet_of_ne _ _ _ _ (by decide), qGet_qSet]

/-! ### The partition table and the contexts -/

theorem OdKeeps.foldl_mem {α : Type} {P : Nat → Prop} {f : State → α → State} {l : List α} (hf : ∀ a ∈ l, ∀ s, OdKeeps P s (f s a)) (s : State) :
    OdKeeps P s (l.foldl f s) := by
  induction l generalizing s with
  | nil => exact .refl s
  | cons a r ih => exact (hf a (.head r) s).trans (ih (fun b hb => hf b (.tail a hb)) _)

/-- A queue that the numbers of a unit record can name. -/
def inQueueRange (x : Nat × Nat) : Prop := x.1 < 256 ∧ x.2 < 16

theorem queuesOf_le (u : Nat) : queuesOf u ≤ 16 := by unfold queuesOf; split <;> decide

theorem inQueueRange_of_allQueues {x : Nat × Nat} (h : x ∈ allQueues) : inQueueRange x := by
  simp only [allQueues, List.mem_flatten, List.mem_map, List.mem_filter, List.mem_range] at h
  obtain ⟨_, ⟨u, ⟨hu, -⟩, rfl⟩, hx⟩ := h
  obtain ⟨q, hq, rfl⟩ := List.mem_map.mp hx
  exact ⟨by dsimp only; omega, Nat.lt_of_lt_of_le (List.mem_range.mp hq) (queuesOf_le u)⟩

theorem urUnit_lt (r : Nat) : urUnit r < 256 := by
  have hfield : bits r 116 7 < 2 ^ 7 := Nat.mod_lt _ (by decide)
  unfold urUnit
  split <;> omega

theorem inQueueRange_of_ctxQueues {s : State} {c : Nat} {x : Nat × Nat} (h : x ∈ ctxQueues s c) : inQueueRange x := by
  simp only [ctxQueues, List.mem_flatMap, List.mem_map, List.mem_filter, List.mem_range] at h
  obtain ⟨r, -, q, ⟨hq, -⟩, rfl⟩ := h
  exact ⟨urUnit_lt r, Nat.lt_of_lt_of_le hq (queuesOf_le _)⟩

theorem qSet_jobPlane (s : State) {x : Nat × Nat} (hx : inQueueRange x) {n : Nat} (v : Nat) (hn : n < 16) :
    OdKeeps jobPlane s (qSet s x.1 x.2 n v) :=
  .qSet' s v (by
    have hindex := queueIndex_bounds hx.1
    have hq := hx.2
    unfold jobPlane odKey
    omega)

theorem discardHeld_jobPlane (s : State) {u : Nat} (q : Nat) (hu : u < 256) : OdKeeps jobPlane s (discardHeld s u q) := by
  have hcount : odKey (0x3200 + u) 0x0B < 0x900000 := by unfold odKey; omega
  unfold discardHeld
  dsimp only
  split
  · exact .refl s
  · refine OdKeeps.trans ?_ (odBump_jobPlane _ _ hcount)
    exact .of_od

theorem settleQueue_jobPlane (s : State) {x : Nat × Nat} (hx : inQueueRange x) : OdKeeps jobPlane s (settleQueue s x.1 x.2) := by
  unfold settleQueue
  split
  · exact qSet_jobPlane s hx _ (by decide)
  · exact .refl s

/-- The state of a queue under its context is an entry of its own page. -/
theorem settleOwner_jobPlane (s : State) {x : Nat × Nat} (hx : inQueueRange x) : OdKeeps jobPlane s (settleOwner s x) := by
  have hstate := fun (t : State) (v : Nat) => qSet_jobPlane t hx (n := 6) v (by decide)
  unfold settleOwner
  split
  · split
    · exact .refl s
    · exact (discardHeld_jobPlane s x.2 hx.1).trans (hstate _ _)
  split
  · exact hstate s _
  split
  · exact hstate s _
  split
  · exact settleQueue_jobPlane s hx
  · exact (hstate s _).trans (settleQueue_jobPlane _ hx)

/-- A context that restarts is RUNNING (R211). -/
theorem ctxState_restartCtx (s : State) {c : Nat} (hc : c < 16) : ctxState (restartCtx s c) c = 1 := by
  have hplane : jobPlane (odKey (0x9010 + c) 0x01) := jobPlane_key (by omega) _
  have hlog := not_logKey_of_jobPlane hplane
  unfold restartCtx ctxState
  dsimp only
  rw [(OdKeeps.foldl_mem (fun x hx t => settleOwner_jobPlane t (inQueueRange_of_ctxQueues hx)) _).get _ _ hplane,
    (addRecord_offLog _ _).get _ _ hlog]
  exact odGet_stateChange _ _ _ _ _ _ _ hlog

theorem settleCtxState_keepsTable (s : State) {c : Nat} : odGet (settleCtxState s c) 0x9000 0x03 = odGet s 0x9000 0x03 :=
  (stateChange_keeps s _ _ _ _ _ _).get _ _ ⟨by unfold odKey; omega, by unfold odKey logKey; omega⟩

/-- A partition table that is put in force reads as written (R212). -/
theorem odGet_putTable (s : State) (v : Nat) : odGet (putTable s v) 0x9000 0x03 = v := by
  unfold putTable
  dsimp only
  rw [(OdKeeps.foldl_mem (fun x hx t => settleOwner_jobPlane t (inQueueRange_of_allQueues hx)) _).get _ _ (jobPlane_key (by decide) _),
    foldl_keeps (g := fun t => odGet t 0x9000 0x03) (fun s c => settleCtxState_keepsTable s)]
  exact odGet_odSet _ _ _ _

theorem odGet_writeMap (s : State) (v : Nat) : odGet (writeMap s v) 0x9200 0x01 = v := by
  unfold writeMap
  rw [odGet_odSet_ne _ _ (by decide)]
  exact odGet_odSet _ _ _ _

/-! ### Which effect each entry has -/

section
variable (s : State) (p : Path) (v : Nat) (d : List Byte) (x : Aux)

theorem odApply_restart {c : Nat} (hc : c < 16) (hv : v ≠ 0) : odApply s p (0x9010 + c) 0x02 v d x = (odOK, restartCtx s c) := by
  have hselect : isSelect (0x9010 + c) 0x02 = false := by
    simp only [isSelect, Bool.or_eq_false_iff, Bool.and_eq_false_iff, beq_eq_false_iff_ne, decide_eq_false_iff_not]
    omega
  unfold odApply applyIndexed writeRestart
  rw [if_neg (by omega), if_neg (by omega), if_neg (by omega), hselect, if_neg Bool.false_ne_true, if_neg (by omega), if_neg (by omega),
    if_pos (by omega), if_neg hv, Nat.add_sub_cancel_left]

theorem odApply_table : odApply s p 0x9000 0x03 v d x = (odOK, putTable s v) := rfl

theorem odApply_seed : odApply s p 0x9000 0x02 v d x = (odOK, { (odSet s 0x9000 0x02 v) with seedPending := true }) := rfl

theorem odApply_map : odApply s p 0x9200 0x01 v d x = (odOK, writeMap s v) := rfl

theorem odApply_tally : odApply s p 0x9300 0x02 v d x = (odOK, tallySet s (selectedTally s p) v) := rfl

theorem odApply_queue {u q n : Nat} (hu : u < 136) (hn : n < 16) :
    odApply s p (queueIndex u) (q * 16 + n) v d x = (odOK, writeQueue s u q n v) := by
  have hindex := queueIndex_bounds (u := u) (by omega)
  have hunit : (if queueIndex u < 0x3680 then queueIndex u - 0x3600 else 128 + (queueIndex u - 0x3680)) = u := by
    unfold queueIndex; split_ifs <;> omega
  have hq : (q * 16 + n) / 16 = q := by omega
  have hsub : (q * 16 + n) % 16 = n := by omega
  have hselect : isSelect (queueIndex u) (q * 16 + n) = false := by
    simp only [isSelect, Bool.or_eq_false_iff, Bool.and_eq_false_iff, beq_eq_false_iff_ne, decide_eq_false_iff_not]
    omega
  unfold odApply applyIndexed
  rw [if_neg (by omega), if_neg (by omega), if_neg (by omega), hselect, if_neg Bool.false_ne_true, if_pos hindex, hunit, hq, hsub]

end

/-! ### The WRITEs -/

/-- An effect that shows in one entry, of a page that the count of requests does not touch, shows in what the WRITE comes to. -/
theorem answerTo_odGet (p : Path) (r : OdReq) (status : Nat) (s : State) {i n : Nat} (hi : i < 0x6800 ∨ 0x8000 ≤ i) (hn : n < 256) :
    odGet (answerTo p r status s) i n = odGet s i n :=
  (answerTo_keeps p r status s).get i n (offCount_of_page hi hn)

theorem answerTo_qGet (p : Path) (r : OdReq) (status : Nat) (s : State) {u q n : Nat} (h : queueExists u q = true) (hn : n < 16) :
    qGet (answerTo p r status s) u q n = qGet s u q n := by
  obtain ⟨hu, hq⟩ := queueExists_bounds h
  have hindex := queueIndex_bounds (u := u) (by omega)
  exact answerTo_odGet p r status s (by omega) (by omega)

theorem contextRestart_outcome (s : State) (p : Path) (row : OdRow) (ctx v : Nat) (hc : ctx < 16) (hv : v ≠ 0)
    (h : writable s p (0x9010 + ctx) 0x02 1 v row) :
    ∃ t, exec (.contextRestart p ctx v) s = .next t ∧ writeOutcome s t p (0x9010 + ctx) 0x02 1 v row odOK (ctxState t ctx = 1) := by
  refine ⟨_, rfl, doWrite_outcome (effect := fun t => ctxState t ctx = 1) h fun s0 _ => ?_⟩
  rw [odApply_restart _ _ _ _ _ hc hv, ctxState, answerTo_odGet _ _ _ _ (by omega) (by decide)]
  exact ⟨rfl, ctxState_restartCtx s0 hc⟩

theorem partitionTableWrite_outcome (s : State) (p : Path) (row : OdRow) (len v : Nat) (h : writable s p 0x9000 0x03 len v row) :
    ∃ t, exec (.partitionTableWrite p len v) s = .next t ∧ writeOutcome s t p 0x9000 0x03 len v row odOK (odGet t 0x9000 0x03 = v) := by
  refine ⟨_, rfl, doWrite_outcome (effect := fun t => odGet t 0x9000 0x03 = v) h fun s0 _ => ?_⟩
  rw [odApply_table]
  dsimp only
  rw [answerTo_odGet _ _ _ _ (by decide) (by decide)]
  exact ⟨rfl, odGet_putTable s0 v⟩

/-- The ring base and the ring size, each by its sub-index. -/
theorem ringWrite_outcome {s : State} {p : Path} {row : OdRow} {u q n bytes v : Nat} (hn : n = 1 ∨ n = 2) (hq : queueExists u q = true)
    (h : writable s p (queueIndex u) (q * 16 + n) bytes v row) :
    writeOutcome s (doWrite s p (queueIndex u) (q * 16 + n) bytes v) p (queueIndex u) (q * 16 + n) bytes v row odOK
      (ringStarts u q n v (doWrite s p (queueIndex u) (q * 16 + n) bytes v)) := by
  refine doWrite_outcome h fun s0 _ => ?_
  rw [odApply_queue _ _ _ _ _ (queueExists_bounds hq).1 (by omega), writeQueue_ring _ _ _ _ hn, ringStarts,
    answerTo_qGet _ _ _ _ hq (by omega), answerTo_qGet _ _ _ _ hq (by decide), answerTo_qGet _ _ _ _ hq (by decide)]
  exact ⟨rfl, writeRing_starts s0 u q v hn⟩

theorem ringBaseWrite_outcome (s : State) (p : Path) (row : OdRow) (u q v : Nat) (hq : queueExists u q = true)
    (h : writable s p (queueIndex u) (q * 16 + 1) 8 v row) :
    ∃ t, exec (.ringBaseWrite p u q false v) s = .next t ∧ writeOutcome s t p (queueIndex u) (q * 16 + 1) 8 v row odOK (ringStarts u q 1 v t) :=
  ⟨_, congrArg Host.Outcome.next (if_pos hq), ringWrite_outcome (.inl rfl) hq h⟩

theorem ringSizeWrite_outcome (s : State) (p : Path) (row : OdRow) (u q v : Nat) (hq : queueExists u q = true)
    (h : writable s p (queueIndex u) (q * 16 + 2) 1 v row) :
    ∃ t, exec (.ringBaseWrite p u q true v) s = .next t ∧ writeOutcome s t p (queueIndex u) (q * 16 + 2) 1 v row odOK (ringStarts u q 2 v t) :=
  ⟨_, congrArg Host.Outcome.next (if_pos hq), ringWrite_outcome (.inr rfl) hq h⟩

theorem tailWrite_outcome (s : State) (p : Path) (row : OdRow) (u q v : Nat) (hq : queueExists u q = true)
    (h : writable s p (queueIndex u) (q * 16 + 5) 4 v row) (htail : tailOk s u q v = true) :
    ∃ t, exec (.tailWrite p u q v) s = .next t ∧
      writeOutcome s t p (queueIndex u) (q * 16 + 5) 4 v row odOK (tailPublished s u q v t) := by
  refine ⟨_, congrArg Host.Outcome.next (if_pos hq), doWrite_outcome h fun s0 h0 => ?_⟩
  have htail0 : tailOk s0 u q v = true := by unfold tailOk; rw [h0.qGet, h0.qGet]; exact htail
  have hlive0 : queueLive s0 u q = queueLive s u q := by unfold queueLive; rw [h0.qGet]
  rw [odApply_queue _ _ _ _ _ (queueExists_bounds hq).1 (by decide), writeQueue_tail, tailPublished, answerTo_qGet _ _ _ _ hq (by decide),
    answerTo_qGet _ _ _ _ hq (by decide), ← hlive0, ← h0.qGet]
  exact ⟨rfl, publishTail_publishes htail0⟩

theorem tallyWrite_outcome (s : State) (p : Path) (row : OdRow) (v : Nat) (hs : s.Sound) (h : writable s p 0x9300 0x02 4 v row) :
    ∃ t, exec (.tallyWrite p v) s = .next t ∧ writeOutcome s t p 0x9300 0x02 4 v row odOK
      (∀ k, tallyGet t k = if k = selectedTally s p then v else tallyGet s k) := by
  obtain ⟨-, -, -, -, -, -, -, hv, -⟩ := id h
  refine ⟨_, rfl, doWrite_outcome (effect := fun t => ∀ k, tallyGet t k = if k = selectedTally s p then v else tallyGet s k) h
    fun s0 h0 => ?_⟩
  have hselected : selectedTally s0 p = selectedTally s p := h0.selectOf p _ _
  rw [odApply_tally, hselected]
  refine ⟨rfl, fun k => ?_⟩
  rw [tallyGet_congr ((answerTo_changes p _ _ _).same .tallies rfl), tallyGet_tallySet s0 (h0.changes.sound hs), Nat.mod_eq_of_lt hv,
    tallyGet_congr (h0.changes.same .tallies rfl)]

theorem srSeedWrite_outcome (s : State) (p : Path) (row : OdRow) (v : Nat) (h : writable s p 0x9000 0x02 8 v row) :
    ∃ t, exec (.srSeedWrite p v) s = .next t ∧
      writeOutcome s t p 0x9000 0x02 8 v row odOK (odGet t 0x9000 0x02 = v ∧ t.seedPending = true) := by
  refine ⟨_, rfl, doWrite_outcome (effect := fun t => odGet t 0x9000 0x02 = v ∧ t.seedPending = true) h fun s0 _ => ?_⟩
  rw [odApply_seed, answerTo_odGet _ _ _ _ (by decide) (by decide)]
  obtain ⟨-, -, -, hpending⟩ := (answerTo_changes p (writeReq 0x9000 0x02 8 v) odOK { odSet s0 0x9000 0x02 v with seedPending := true }).same .streams rfl
  exact ⟨rfl, odGet_odSet s0 _ _ v, hpending⟩

theorem backupMapWrite_outcome (s : State) (p : Path) (row : OdRow) (v : Nat) (h : writable s p 0x9200 0x01 2048 v row) :
    ∃ t, exec (.backupMapWrite p v) s = .next t ∧ writeOutcome s t p 0x9200 0x01 2048 v row odOK (odGet t 0x9200 0x01 = v) := by
  refine ⟨_, rfl, doWrite_outcome (effect := fun t => odGet t 0x9200 0x01 = v) h fun s0 _ => ?_⟩
  rw [odApply_map, answerTo_odGet _ _ _ _ (by decide) (by decide)]
  exact ⟨rfl, odGet_writeMap s0 v⟩

/-! ### The partition table and the backup map in pieces -/

theorem rowOf_table : rowOf 0x9000 0x03 = some ⟨0x9000, 1, false, 0x03, 0, 11, 1, 2048, 1, 0, 0xffffffffffffffff⟩ := by decide +kernel

theorem rowOf_map : rowOf 0x9200 0x01 = some ⟨0x9200, 1, false, 0x01, 0, 11, 1, 2048, 1, 0, 0xffffffffffffffff⟩ := by decide +kernel

/-- In pieces, an entry of 2,048 bytes of the host alone comes by a path that may not write it. -/
theorem hostEntry_inPieces_refused {s : State} {p : Path} {i sub n v : Nat} {row : OdRow} (hi : 0x9000 ≤ i)
    (h : writableInPieces s p i sub n v row) (hsize : row.size = 2048) (hcls : row.cls = 1) :
    .odResponse p i sub odRIGHTS 0 0 0 [] ∈ (doWrite s p i sub n v).out ∧ odGet (doWrite s p i sub n v) i sub = odGet s i sub ∧
      (doWrite s p i sub n v).mem = s.mem := by
  obtain ⟨hpieces, -, -, -, -, -, -, hlen, -⟩ := id h
  obtain ⟨hanswer, hkept⟩ := doWrite_pieces_refused h hcls (classOf_of_pieces hpieces (by omega))
  exact ⟨hanswer, hkept.keeps.get i sub (jobPlane_key hi sub), hkept.mem⟩

theorem partitionTableWrite_inPieces (s : State) (p : Path) (row : OdRow) (len v : Nat) (h : writableInPieces s p 0x9000 0x03 len v row) :
    ∃ t, exec (.partitionTableWrite p len v) s = .next t ∧ .odResponse p 0x9000 0x03 odRIGHTS 0 0 0 [] ∈ t.out ∧
      odGet t 0x9000 0x03 = odGet s 0x9000 0x03 ∧ t.mem = s.mem := by
  obtain ⟨-, -, -, -, hrow, -⟩ := id h
  have hfields := Option.some.inj (rowOf_table.symm.trans hrow)
  exact ⟨_, rfl, hostEntry_inPieces_refused (by omega) h (by rw [← hfields]) (by rw [← hfields])⟩

theorem backupMapWrite_inPieces (s : State) (p : Path) (row : OdRow) (v : Nat) (h : writableInPieces s p 0x9200 0x01 2048 v row) :
    ∃ t, exec (.backupMapWrite p v) s = .next t ∧ .odResponse p 0x9200 0x01 odRIGHTS 0 0 0 [] ∈ t.out ∧
      odGet t 0x9200 0x01 = odGet s 0x9200 0x01 ∧ t.mem = s.mem := by
  obtain ⟨-, -, -, -, hrow, -⟩ := id h
  have hfields := Option.some.inj (rowOf_map.symm.trans hrow)
  exact ⟨_, rfl, hostEntry_inPieces_refused (by omega) h (by rw [← hfields]) (by rw [← hfields])⟩

/-- Settles O44: each entry's WRITE in turn, by what its value does; and in pieces, by the rights that only the host has. -/
theorem jobEntriesAreWritten : Obligations.JobEntriesAreWritten :=
  ⟨contextRestart_outcome, partitionTableWrite_outcome, ringBaseWrite_outcome, ringSizeWrite_outcome, tailWrite_outcome, tallyWrite_outcome,
    srSeedWrite_outcome, backupMapWrite_outcome, partitionTableWrite_inPieces, backupMapWrite_inPieces⟩

end Sys2Proof.Machine
end

section
/-! PROOFS. O28: what a hawk holds after a write, the formats of the tiles that hawks and shadow registers take (R77, R79, R135, R144, R154). -/

namespace Sys2Proof.Machine

/-! ### Hawks as they are written -/

theorem getHawk_of_changes {K : List Kind} {s t : State} (h : Changes K s t) (hk : K.contains .engines = false) (i : Nat) :
    getHawk t i = getHawk s i := by
  unfold getHawk; rw [(h.same .engines hk).2.1]

theorem getHawk_id (s : State) (i : Nat) : (getHawk s i).id = i := by
  unfold getHawk
  cases hf : s.hawks.find? (fun h => h.id == i) with
  | none => rfl
  | some k => simpa using List.find?_some hf

/-- A hawk that a command owns is written as it is, at its number. -/
theorem getHawk_putHawk {s : State} {k : Hawk} {o : Nat × Nat × Nat} {i : Nat} (hi : k.id = i) (ho : k.owner = some o) :
    getHawk (putHawk s k) i = k := by
  simp [getHawk, putHawk, ho, hi]

theorem bumpIf_changes (s : State) (i sub n : Nat) :
    Changes [.draws, .od, .recorder, .access, .output] s (if n = 0 then s else odBump s i sub n) := by
  split
  · exact .refl
  · exact odBump_changes s i sub n

/-! ### The format of a tile (R144, R154) -/

theorem mmCompat_of_changes {K : List Kind} {s t : State} (h : Changes K s t) (hf : K.contains .features = false) (ho : K.contains .od = false)
    (w : CmdWord) : mmCompat t w = mmCompat s w := by
  unfold mmCompat odGet
  rw [(h.same .features hf).1, show t.od = s.od from h.same .od ho]

/-- The weights are converted by the features, the job's mode and the word alone. -/
theorem weightToBF16_of_changes {K : List Kind} {s t : State} (h : Changes K s t) (hf : K.contains .features = false)
    (ho : K.contains .od = false) (w : CmdWord) : weightToBF16 t w = weightToBF16 s w := by
  unfold weightToBF16; rw [mmCompat_of_changes h hf ho]

theorem feedToBF16_of_changes {K : List Kind} {s t : State} (h : Changes K s t) (hf : K.contains .features = false)
    (ho : K.contains .od = false) (w : CmdWord) : feedToBF16 t w = feedToBF16 s w := by
  unfold feedToBF16; rw [mmCompat_of_changes h hf ho]

theorem cutK_fmt (t : HawkTile) (w : CmdWord) (loader : Bool) (n : Nat) : (t.cutK w loader n).fmt = t.fmt := by
  have hwithin : ∀ nr nc, (t.within nr nc).fmt = t.fmt := fun nr nc => by unfold HawkTile.within; split <;> rfl
  unfold HawkTile.cutK; dsimp only; split <;> exact hwithin _ _

/-- Re-blocking keeps the format. -/
theorem blocksOnto_fmt (s : State) (t : HawkTile) (want : Nat) (hrm : Bool) (epoch : Nat) (lane : Nat → Nat → Nat) :
    (blocksOnto s t want hrm epoch lane).2.fmt = t.fmt := by
  unfold blocksOnto; split <;> rfl

theorem hawkGive_fmt (s : State) (w : CmdWord) (epoch : Nat) (loader : Bool) (t : HawkTile) (lane : Nat → Nat → Nat) :
    (hawkGive s w epoch loader t lane).2.fmt = if (if loader then weightToBF16 s w else feedToBF16 s w) then 1 else t.fmt := by
  unfold hawkGive
  by_cases hconv : (if loader then weightToBF16 s w else feedToBF16 s w) = true
  · rw [if_pos hconv, if_pos hconv]; rfl
  · rw [if_neg hconv, if_neg hconv]; exact blocksOnto_fmt _ _ _ _ _ _

/-- Where its source is there, a stored or landed tile has the format of the operand that its hawk feeds. -/
theorem sourceTile_fmt {s : State} {c : Cmd} {h n : Nat} (hr : hawkSourceReady s c n = true) :
    (sourceTile s c h n).1.fmt = if mmHwList c.word = [h] then mmWFMT c.word else mmAFMT c.word := by
  unfold sourceTile
  dsimp only
  split
  next hscreed =>
    unfold hawkSourceReady at hr
    cases hx : claimedStream s c with
    | none => simp [hscreed, hx] at hr
    | some x => simp only [cutK_fmt, beq_iff_eq]
  next => simp only [beq_iff_eq]; split <;> rfl

/-! ### HAWK_TILE_WRITE -/

/-- A write into a hawk that the command owns appends one tile, of its operand's format, converted in BF16 compatibility mode. -/
theorem hawkWrite_appends {s : State} {c : Cmd} {h n : Nat} (ho : (getHawk s (c.u * 2 + h)).owner = some (c.u, c.q, c.serial))
    (hr : hawkSourceReady s c n = true) :
    ∃ x, getHawk (hawkWrite s c h n) (c.u * 2 + h) =
        { getHawk s (c.u * 2 + h) with tiles := (getHawk s (c.u * 2 + h)).tiles ++ [x] } ∧
      x.fmt = (if (if mmHwList c.word = [h] then weightToBF16 s c.word else feedToBF16 s c.word) then 1
        else if mmHwList c.word = [h] then mmWFMT c.word else mmAFMT c.word) := by
  have hsrc := sourceTile_changes s c h n
  unfold hawkWrite
  dsimp only
  generalize hb : hawkGive (sourceTile s c h n).2 c.word c.epoch (mmHwList c.word == [h]) (sourceTile s c h n).1 _ = b
  have hgive : Changes [.draws, .streams] s b.1.st :=
    (hsrc.mono rfl).trans (by rw [← hb]; exact (hawkGive_changes _ _ _ _ _ _).mono rfl)
  refine ⟨b.2, ?_, ?_⟩
  · rw [getHawk_of_changes (putCmd_changes _ _) rfl, getHawk_of_changes (bumpIf_changes _ _ _ _) rfl, getHawk_of_changes hgive rfl]
    exact getHawk_putHawk (getHawk_id s _) ho
  · rw [← hb, hawkGive_fmt, sourceTile_fmt hr, weightToBF16_of_changes hsrc rfl rfl, feedToBF16_of_changes hsrc rfl rfl]
    simp only [beq_iff_eq]

/-- A hawk job is a matrix command of the queue whose tile's source is there. -/
theorem hawkJob_spec {s : State} {u q h n : Nat} {c : Cmd} (hj : hawkJob s u q h = some (c, n)) :
    c.u = u ∧ hawkSourceReady s c n = true := by
  unfold hawkJob at hj
  split at hj
  next d hd =>
    split at hj
    next m hm =>
      split at hj
      next hready =>
        obtain ⟨rfl, rfl⟩ := Prod.mk.inj (Option.some.inj hj)
        obtain ⟨-, hu, -⟩ := matCmd_spec hd
        exact ⟨hu, (Bool.and_eq_true_iff.mp hready).1⟩
      next => cases hj
    next => cases hj
  next => cases hj

/-- Hawk h as a command takes it for its write: the command's, with the tiles that stand there for it (R140). -/
def takenHawk (s : State) (c : Cmd) (h : Nat) : Hawk :=
  { getHawk s (c.u * 2 + h) with owner := some (c.u, c.q, c.serial), tiles := ownTiles s c h }

theorem hawkTileWrite_appends (s : State) (u q h n : Nat) (c : Cmd) (hh : h < 2) (hj : hawkJob s u q h = some (c, n))
    (hv : hawkVacated s c = none) :
    ∃ t x, exec (.hawkTileWrite u q h) s = .next t ∧ (getHawk t (u * 2 + h)).tiles = ownTiles s c h ++ [x] ∧
      x.fmt = (if (if mmHwList c.word = [h] then weightToBF16 s c.word else feedToBF16 s c.word) then 1
        else if mmHwList c.word = [h] then mmWFMT c.word else mmAFMT c.word) ∧
      (getHawk t (u * 2 + h)).owner = some (c.u, c.q, c.serial) ∧ t.acc = s.acc ∧ t.mem = s.mem := by
  obtain ⟨rfl, hready⟩ := hawkJob_spec hj
  have hk : getHawk (putHawk s (takenHawk s c h)) (c.u * 2 + h) = takenHawk s c h := getHawk_putHawk (getHawk_id s _) rfl
  have hrun : exec (.hawkTileWrite c.u q h) s = .next (hawkWrite (putHawk s (takenHawk s c h)) c h n) := by
    show execHawkTileWrite c.u q h s = _
    simp only [execHawkTileWrite, hawkTileWrite, hh, hj, hv, if_true, takenHawk]
  obtain ⟨x, hx, hfmt⟩ := hawkWrite_appends (s := putHawk s (takenHawk s c h)) (h := h) (n := n) (by rw [hk]; rfl) hready
  have hkept := ((putHawk_changes s (takenHawk s c h)).mono rfl).trans (hawkWrite_changes _ c h n)
  rw [hk] at hx
  exact ⟨_, x, hrun, by rw [hx]; rfl, hfmt, by rw [hx]; rfl, (hkept.same .accumulators rfl).1, hkept.same .memory rfl⟩

/-! ### WEIGHT_TILE_LOAD -/

/-- What the read of a weight tile gives: the raw tile, its format as it arrives, flags, changed elements and the state after it. -/
abbrev WeightRead := RawTile × Nat × Flags × Nat × State

abbrev WeightRead.fmt (r : WeightRead) : Nat := r.2.1
abbrev WeightRead.fl (r : WeightRead) : Flags := r.2.2.1
abbrev WeightRead.changed (r : WeightRead) : Nat := r.2.2.2.1
abbrev WeightRead.st (r : WeightRead) : State := r.2.2.2.2

/-- The read leaves the tiles that stand in the registers, and delivers the word's format, or BF16 where the weights are converted. -/
structure WeightRead.From (s : State) (w : CmdWord) (r : WeightRead) : Prop where
  changes : Changes [.streams, .engines] s r.st
  wtiles : r.st.wtiles = s.wtiles
  fmt : r.fmt = mmWFMT w ∨ r.fmt = if weightToBF16 s w then 1 else mmWFMT w

/-- The tile that forms from a read. -/
def shadowTile (c : Cmd) (r : WeightRead) : Loaded := formTile r.st c (nextPass c) r.fmt r.1

/-- The tile that was read is formed and stands behind the others; its changed elements are counted and its flags kept. -/
def shadowLoaded (c : Cmd) (r : WeightRead) : State :=
  let l := shadowTile c r
  let x := { l.st with wtiles := l.st.wtiles ++ [l.tile] }
  let n := r.changed + l.changed
  putCmd (if n = 0 then x else odBump x (0x3200 + c.u) 0x0A n) { c with flags := c.flags ||| r.fl ||| l.fl }

/-- A weight tile comes from a screed, from a held set, from the front of a hawk or from scratch, and is then formed. -/
theorem weightTileLoad_reads (s : State) (c : Cmd) : ∃ r : WeightRead, weightTileLoad s c = shadowLoaded c r ∧ r.From s c.word := by
  refine ⟨_, rfl, ?_⟩
  split
  · split <;> exact ⟨.refl, rfl, .inl rfl⟩
  · split
    · split
      next =>
        have hgive := hawkGive_changes s c.word c.epoch true
        exact ⟨(hgive _ _).mono rfl, ((hgive _ _).same .engines rfl).1, .inr rfl⟩
      next => exact ⟨(putHawk_changes _ _).mono rfl, rfl, .inr rfl⟩
    · exact ⟨.refl, rfl, .inl rfl⟩

/-- Forming converts weights that arrive unconverted, where they are to be converted. -/
theorem formTile_fmt {s x : State} {c : Cmd} {t f : Nat} {raw : RawTile} (hconv : weightToBF16 x c.word = weightToBF16 s c.word)
    (hf : f = mmWFMT c.word ∨ f = if weightToBF16 s c.word then 1 else mmWFMT c.word) :
    (formTile x c t f raw).tile.fmt = if weightToBF16 s c.word then 1 else mmWFMT c.word := by
  have hform : (formTile x c t f raw).tile.fmt = if weightToBF16 x c.word && f != 1 then 1 else f := rfl
  rw [hform, hconv]
  cases hw : weightToBF16 s c.word with
  | false =>
    rw [hw] at hf
    simpa using hf
  | true =>
    by_cases hone : f = 1 <;> simp [hone]

theorem shadowLoaded_wtiles (c : Cmd) (r : WeightRead) : (shadowLoaded c r).wtiles = r.st.wtiles ++ [(shadowTile c r).tile] := by
  have hform : (shadowTile c r).st.wtiles = r.st.wtiles := ((formTile_changes _ _ _ _ _).same .engines rfl).1
  refine ((putCmd_changes _ _).same .engines rfl).1.trans (((bumpIf_changes _ _ _ _).same .engines rfl).1.trans ?_)
  rw [← hform]

theorem weightTileLoad_appends (s : State) (u q : Nat) (c : Cmd) (h : matCmd s u q (loadable s) = some c) :
    ∃ t w, exec (.weightTileLoad u q) s = .next t ∧ t.wtiles = s.wtiles ++ [w] ∧ w.active = false ∧ w.tile = nextPass c ∧
      w.fmt = (if weightToBF16 s c.word then 1 else mmWFMT c.word) ∧ w.ncol = mmNCOL c.word ∧ hasShadow t c = true ∧ t.acc = s.acc ∧
      t.mem = s.mem := by
  have hrun : exec (.weightTileLoad u q) s = .next (weightTileLoad s c) := by
    show execWeightTileLoad u q s = _
    simp only [execWeightTileLoad, h]
  have hkept := weightTileLoad_changes s c
  obtain ⟨r, hr, hfrom⟩ := weightTileLoad_reads s c
  have htiles : (weightTileLoad s c).wtiles = s.wtiles ++ [(shadowTile c r).tile] := by
    rw [hr, shadowLoaded_wtiles, hfrom.wtiles]
  refine ⟨_, _, hrun, htiles, rfl, rfl, formTile_fmt (weightToBF16_of_changes hfrom.changes rfl rfl _) hfrom.fmt, rfl, ?_,
    (hkept.same .accumulators rfl).1, hkept.same .memory rfl⟩
  unfold hasShadow
  rw [htiles]
  simp [shadowTile, formTile]

/-- Settles O28: a load appends the tile that it forms, and a hawk's write the tile that its source gives. -/
theorem tilesAreLoaded : Obligations.TilesAreLoaded := ⟨weightTileLoad_appends, hawkTileWrite_appends⟩

end Sys2Proof.Machine
end

section
/-! PROOFS. O29: a clean pass and the end of a pass (R69, R75, R123, R124). -/

namespace Sys2Proof.Machine

theorem mem_putCmd {s : State} {c d : Cmd} (h : c ∈ s.cmds) (hu : d.u = c.u) (hq : d.q = c.q) (hn : d.serial = c.serial) :
    d ∈ (putCmd s d).cmds := List.mem_of_find?_eq_some (findCmd_putCmd h hu hq hn)

/-! ### PASS -/

/-- Swapping a shadow tile in leaves the command an active one. -/
theorem activeTile_swapTiles {s : State} {c : Cmd} (h : hasShadow s c = true) : ∃ t, activeTile (swapTiles s c) c = some t := by
  obtain ⟨w, hw, hmine⟩ := List.any_eq_true.mp h
  refine Option.isSome_iff_exists.mp (List.find?_isSome.mpr ⟨{ w with active := true }, ?_, ?_⟩)
  · exact List.mem_map.mpr ⟨w, List.mem_filter.mpr ⟨hw, by simp_all⟩, by simp_all⟩
  · simp_all

/-- The command as a pass begins: with the operands that a capture of the pass would hold (R440) and the flags of giving its hawk tiles. -/
def passBegun (s : State) (c : Cmd) (t : WTile) : Cmd :=
  let g := fedTiles (swapTiles s c) c
  let d := if c.checked || mmHALF c.word != 0 then keepPass g.2 c t (passFeeds s c) else c
  { d with flags := d.flags ||| g.1.fl }

/-- What the arrays' work of a pass leaves. -/
def passWorked (s : State) (c : Cmd) (t : WTile) : State × Cmd :=
  passWork (fedTiles (swapTiles s c) c).2 (passBegun s c t) t (passFeeds s c)

/-- The same with the tiles that the pass read dropped from their hawks, and the elements that their conversion changed counted. -/
def passFed (s : State) (c : Cmd) (t : WTile) : State :=
  let n := (fedTiles (swapTiles s c) c).1.changed
  if n = 0 then consumeFeeds (passWorked s c t).1 c else odBump (consumeFeeds (passWorked s c t).1 c) (0x3200 + c.u) 0x0A n

/-- A clean pass without poison ends in the write of its command, which is in the pass. -/
theorem passStep_clean {s : State} {c : Cmd} {t : WTile} (ht : activeTile (swapTiles s c) c = some t)
    (hp : passPoison c t (passFeeds s c) = none) :
    passStep s c .clean =
      putCmd (passFed s c t) { (passWorked s c t).2 with run := { (passWorked s c t).2.run with inPass := true } } := by
  unfold passFeeds at hp
  unfold passStep
  dsimp only [laneRError, noteEvent]
  rw [ht]
  dsimp only
  rw [hp]
  rfl

theorem passBegun_same (s : State) (c : Cmd) (t : WTile) : SameRun c (passBegun s c t) := by
  unfold passBegun
  dsimp only
  split <;> exact ⟨rfl, rfl, rfl, rfl, rfl, rfl, rfl⟩

theorem passWorked_same (s : State) (c : Cmd) (t : WTile) : SameRun c (passWorked s c t).2 := by
  have hbegun := passBegun_same s c t
  refine hbegun.trans (passWork_keeps _ _ _ _ fun f hf => ?_).2
  obtain ⟨e, -, rfl⟩ := List.mem_map.mp hf
  simp [hbegun.word]

theorem passFed_changes (s : State) (c : Cmd) (t : WTile) :
    Changes [.draws, .od, .accumulators, .streams, .engines, .recorder, .access, .output] s (passFed s c t) :=
  (((swapTiles_changes s c).mono rfl).trans ((fedTiles_changes _ c).mono rfl)).trans
    ((((passWork_changes _ _ t _).mono rfl).trans ((consumeFeeds_changes _ c).mono rfl)).trans ((bumpIf_changes _ _ _ _).mono rfl))

theorem pass_works (s : State) (u q : Nat) (c : Cmd) (ev : MatEvent) (hs : s.Sound) (h : matCmd s u q (passReady s) = some c) :
    ∃ t, exec (.pass u q ev) s = .next t ∧ (∀ k, ¬ workingWord c k → accGet t k = accGet s k) ∧
      (ev = .clean → (∀ w, activeTile (swapTiles s c) c = some w → passPoison c w (passFeeds s c) = none) →
        ∃ d, findCmd t u q c.serial = some d ∧ d.run.inPass = true ∧ d.run.passes = c.run.passes ∧ d.stage = .admitted) := by
  have hrun : exec (.pass u q ev) s = .next (passStep s c ev) := by
    show execPass u q ev s = _
    simp only [execPass, h]
  refine ⟨_, hrun, (passStep_keeps s c ev).get hs.acc, ?_⟩
  rintro rfl hclean
  obtain ⟨hmem, rfl, rfl, -, hstage, hready⟩ := matCmd_spec h
  have hshadow : hasShadow s c = true := by
    unfold passReady at hready
    simp only [Bool.and_eq_true] at hready
    exact hready.1.1.2
  obtain ⟨w, hw⟩ := activeTile_swapTiles hshadow
  have hfed : c ∈ (passFed s c w).cmds := by rwa [((passFed_changes s c w).same .commands rfl).1]
  have hd := passWorked_same s c w
  rw [passStep_clean hw (hclean w hw)]
  exact ⟨_, findCmd_putCmd hfed hd.u hd.q hd.serial, rfl, hd.passes, hd.stage.trans hstage⟩

/-! ### PASS_END -/

/-- A pre-empted command waits to be admitted again; its passes are kept under RES = 1 alone (R124). -/
theorem preempt_returns {s : State} {c : Cmd} (h : c ∈ s.cmds) (hpass : c.run.inPass = false) :
    ∃ d, findCmd (preempt s c) c.u c.q c.serial = some d ∧ d.run.inPass = false ∧ d.stage = .issued ∧ d.preempted = true ∧
      d.run.passes = if mmRES c.word then c.run.passes else 0 := by
  have hput : ∀ d : Cmd, d.u = c.u → d.q = c.q → d.serial = c.serial →
      findCmd (putCmd (dropTiles (releaseHawks s c true) c) d) c.u c.q c.serial = some d := fun d => findCmd_putCmd (c := c) h
  unfold preempt
  dsimp only
  split
  next =>
    exact ⟨_, (findCmd_of_changes (odBump_changes _ _ _ _) rfl _ _ _).trans (hput _ rfl rfl rfl), hpass, rfl, rfl, rfl⟩
  next =>
    exact ⟨_, ((findCmd_of_changes (odBump_changes _ _ _ _) rfl _ _ _).trans
      (findCmd_of_changes (screedRewind_changes _ _) rfl _ _ _)).trans (hput _ rfl rfl rfl), rfl, rfl, rfl, rfl⟩

/-- What PASS_END makes of its command: pre-empted before its last pass, or still admitted with the pass counted (R69, R123, R124). -/
def PassEnded (c d : Cmd) : Prop :=
  d.run.inPass = false ∧
    if c.preemptReq ∧ c.run.passes + 1 ≠ mmPasses c.word
    then d.stage = .issued ∧ d.preempted = true ∧ d.run.passes = (if mmRES c.word then c.run.passes + 1 else 0)
    else d.stage = .admitted ∧ d.run.passes = c.run.passes + 1

/-- A command whose pass has ended and been counted. -/
def passCounted (c : Cmd) : Cmd := { c with run := { c.run with passes := c.run.passes + 1, inPass := false } }

theorem passEnd_ends {s : State} {c : Cmd} (h : c ∈ s.cmds) (hstage : c.stage = .admitted) :
    ∃ d, findCmd (passEnd s c) c.u c.q c.serial = some d ∧ PassEnded c d := by
  have hmem : passCounted c ∈ (putCmd s (passCounted c)).cmds := mem_putCmd h rfl rfl rfl
  unfold passEnd PassEnded
  dsimp only
  split
  next hlast =>
    refine ⟨{ passCounted c with preemptReq := false }, ?_, rfl, ?_⟩
    · exact (findCmd_of_changes (releaseFeeds_changes _ _) rfl _ _ _).trans (findCmd_putCmd (c := passCounted c) hmem rfl rfl rfl)
    · rw [if_neg (fun hne => hne.2 hlast)]
      exact ⟨hstage, rfl⟩
  next hmore =>
    split
    next hreq =>
      obtain ⟨d, hfound, hpass, hd⟩ := preempt_returns hmem rfl
      exact ⟨d, hfound, hpass, by rw [if_pos ⟨hreq, hmore⟩]; exact hd⟩
    next hreq =>
      refine ⟨passCounted c, findCmd_putCmd h rfl rfl rfl, rfl, ?_⟩
      rw [if_neg (fun hr => hreq hr.1)]
      exact ⟨hstage, rfl⟩

/-- The asks that follow a pass are of screeds alone (R242). -/
theorem execPassEnd_ends {s : State} {u q : Nat} {c : Cmd} (h : matCmd s u q (fun c => c.run.inPass) = some c) :
    ∃ t, exec (.passEnd u q) s = .next t ∧
      Changes [.draws, .od, .engines, .fabric, .ports, .recorder, .access, .output] (passEnd s c) t := by
  refine ⟨_, rfl, ?_⟩
  rw [h]
  dsimp only
  split
  · exact .refl
  · exact askAll_changes _ _ _

theorem passEnd_counts (s : State) (u q : Nat) (c : Cmd) (h : matCmd s u q (fun c => c.run.inPass) = some c) :
    ∃ t d, exec (.passEnd u q) s = .next t ∧ t.acc = s.acc ∧ findCmd t u q c.serial = some d ∧ d.run.inPass = false ∧
      (if c.preemptReq ∧ c.run.passes + 1 ≠ mmPasses c.word
       then d.stage = .issued ∧ d.preempted = true ∧ d.run.passes = (if mmRES c.word then c.run.passes + 1 else 0)
       else d.stage = .admitted ∧ d.run.passes = c.run.passes + 1) := by
  obtain ⟨t, hrun, hasked⟩ := execPassEnd_ends h
  obtain ⟨hmem, rfl, rfl, -, hstage, -⟩ := matCmd_spec h
  obtain ⟨d, hfound, hended⟩ := passEnd_ends hmem hstage
  exact ⟨t, d, hrun, (hasked.same .accumulators rfl).1.trans ((passEnd_changes s c).same .accumulators rfl).1,
    (findCmd_of_changes hasked rfl _ _ _).trans hfound, hended⟩

/-- Settles O29: a pass by the words that its columns write, its end by the three ways in which a pass can end. -/
theorem passesWorkOnTheWorkingTile : Obligations.PassesWorkOnTheWorkingTile := ⟨pass_works, passEnd_counts⟩

end Sys2Proof.Machine
end

section
/-! PROOFS. O23: a matrix command asks for the engine of one that runs (R123, R124, R216). -/

namespace Sys2Proof.Machine

/-- A pre-empted command: it waits to be admitted again, and only RES = 1 keeps its passes and flags (R64, R124). -/
def preemptedForm (c : Cmd) : Cmd :=
  let d := { c with stage := .issued, preempted := true, preemptReq := false, winTotal := 0, winDone := 0 }
  if mmRES c.word then d else { d with run := c.run.again, flags := 0, oldFlags := c.oldFlags ||| c.flags }

theorem findCmd_preempt {s : State} {c : Cmd} (h : c ∈ s.cmds) : findCmd (preempt s c) c.u c.q c.serial = some (preemptedForm c) := by
  have hput : ∀ d : Cmd, d.u = c.u → d.q = c.q → d.serial = c.serial →
      findCmd (putCmd (dropTiles (releaseHawks s c true) c) d) c.u c.q c.serial = some d := fun d => findCmd_putCmd (c := c) h
  unfold preempt preemptedForm
  dsimp only
  split
  · exact (findCmd_of_changes (odBump_changes _ _ _ _) rfl _ _ _).trans (hput _ rfl rfl rfl)
  · exact ((findCmd_of_changes (odBump_changes _ _ _ _) rfl _ _ _).trans
      (findCmd_of_changes (screedRewind_changes _ _) rfl _ _ _)).trans (hput _ rfl rfl rfl)

theorem preemptedForm_spec (c : Cmd) : (preemptedForm c).stage = .issued ∧ (preemptedForm c).preempted = true ∧
    (preemptedForm c).preemptReq = false ∧ (preemptedForm c).run.passes = if mmRES c.word then c.run.passes else 0 := by
  unfold preemptedForm
  cases mmRES c.word <;> exact ⟨rfl, rfl, rfl, rfl⟩

/-- Settles O23: the one command asked for is marked where it is in a pass, and takes its pre-empted form where it is between passes. -/
theorem preemptionRequestTakesTheEngine : Obligations.PreemptionRequestTakesTheEngine := by
  intro s u q c e hpoint hop hready hmem hone
  have hrun : exec (.preemptionRequest u q) s = .next
      (let s1 := odBump s (0x2300 + dieOf u) 0x08 1
       if e.run.inPass then putCmd s1 { e with preemptReq := true } else preempt s1 e) := by
    show execPreemptionRequest u q s = _
    simp [execPreemptionRequest, hpoint, hop, hready, hone]
  have hstays : e ∈ (odBump s (0x2300 + dieOf u) 0x08 1).cmds := by rwa [((odBump_changes _ _ _ _).same .commands rfl).1]
  cases hin : e.run.inPass with
  | true =>
    rw [hin] at hrun
    exact ⟨_, _, hrun, findCmd_putCmd hstays rfl rfl rfl, fun _ => rfl, nofun⟩
  | false =>
    rw [hin] at hrun
    exact ⟨_, _, hrun, findCmd_preempt hstays, nofun, fun _ => preemptedForm_spec e⟩

end Sys2Proof.Machine
end

section
/-! PROOFS. O30: a row is formed (R104), and what a run of word writes leaves. -/

namespace Sys2Proof.Machine

theorem accGet_lt (s : State) (k : Nat) : accGet s k < 2 ^ 32 := (Store.get 0 s.acc k).isLt

/-- A word after a run of writes holds a value written to it, or, where none was, what it held. -/
theorem accGet_accPutAll (l : List (Nat × Nat)) {s : State} (h : Store.wf 0 s.acc = true) (k : Nat) :
    (∃ p ∈ l, p.1 = k ∧ accGet (accPutAll s l) k = p.2 % 2 ^ 32) ∨
      ((∀ p ∈ l, p.1 ≠ k) ∧ accGet (accPutAll s l) k = accGet s k) := by
  induction l generalizing s with
  | nil => exact .inr ⟨by simp, rfl⟩
  | cons a r ih =>
    rcases ih (s := accPut s a.1 a.2) (Store.put_wf h) with ⟨p, hp, hk, hv⟩ | ⟨hr, hv⟩
    · exact .inl ⟨p, List.mem_cons_of_mem a hp, hk, hv⟩
    by_cases hk : a.1 = k
    · refine .inl ⟨a, List.mem_cons_self, hk, hv.trans ?_⟩
      rw [← hk, accGet_accPut h]
    · refine .inr ⟨List.forall_mem_cons.mpr ⟨hk, hr⟩, hv.trans ?_⟩
      exact (accPut_keeps (P := (· = k)) s a.1 a.2 hk).get h k rfl

/-- Writes of the values that the words hold already leave every word. -/
theorem accGet_accPutAll_same {l : List (Nat × Nat)} {s : State} (h : Store.wf 0 s.acc = true) (hl : ∀ p ∈ l, p.2 = accGet s p.1)
    (k : Nat) : accGet (accPutAll s l) k = accGet s k := by
  rcases accGet_accPutAll l h k with ⟨p, hp, rfl, hv⟩ | ⟨-, hv⟩
  · rw [hv, hl p hp, Nat.mod_eq_of_lt (accGet_lt s _)]
  · exact hv

/-! ### The drain of a row -/

/-- The recipe ends in the write of its command, with the row counted; before that it touches neither commands nor words. -/
theorem drainRow_puts (s : State) (c : Cmd) (e ml m : Nat) (vs : List Nat) :
    ∃ x d, drainRow s c e ml m vs = putCmd x d ∧ Changes [.memory, .sectors, .streams, .engines] s x ∧
      d.u = c.u ∧ d.q = c.q ∧ d.serial = c.serial ∧ d.run.formed = m + 1 ∧ d.run.passes = c.run.passes := by
  have hdrawn : ∀ ids, Changes [.memory, .sectors, .streams, .engines] s
      (if mmRM c.word then rowDraws c.epoch (mmZOUT c.word) (mmOUT c.word != 0) ids s else (([], []), s)).2 := fun ids =>
    .ite_snd ((rowDraws_changes _ _ _ _ _).mono rfl) .refl
  have hstored : ∀ ids (ws : List (Nat × List Byte)), Changes [.memory, .sectors, .streams, .engines] s
      (ws.foldl (fun s x => memWrite s x.1 x.2)
        (if mmRM c.word then rowDraws c.epoch (mmZOUT c.word) (mmOUT c.word != 0) ids s else (([], []), s)).2) := fun ids ws =>
    .foldl ws (hdrawn ids) fun _ _ => (memWrite_changes _ _ _).mono rfl
  unfold drainRow
  refine ⟨_, _, rfl, ?_, rfl, rfl, rfl, rfl, rfl⟩
  dsimp only
  split
  · exact (hstored _ _).trans ((rowIntoHawk_changes _ _ _ _).mono rfl)
  · exact hstored _ _

/-! ### The values of a row -/

/-- Without ACC a row is formed of its working words, and no stream is drawn from (R104). -/
theorem formValues_noAcc (s : State) (c : Cmd) (e m : Nat) (h : mmACC c.word = false) :
    formValues s c e m = ((List.range (mmWidth c.word)).map fun j => accGet s (workKey c e m (mmCol0 c.word + j)), 0, s) := by
  unfold formValues
  simp only [h, Bool.false_eq_true, if_false]
  suffices hfold : ∀ (l a : List Nat), l.foldl (fun (x : List Nat × Flags × State) j =>
      (x.1 ++ [accGet s (workKey c e m (mmCol0 c.word + j))], x.2.1, x.2.2)) (a, 0, s) =
        (a ++ l.map fun j => accGet s (workKey c e m (mmCol0 c.word + j)), 0, s) by
    simpa using hfold (List.range (mmWidth c.word)) []
  intro l
  induction l with
  | nil => simp
  | cons j r ih => exact fun a => (ih _).trans (by simp)

/-- The words of a row that is formed without ACC are written with the values that they hold. -/
theorem accGet_formRow_noAcc {s : State} (hs : Store.wf 0 s.acc = true) {c : Cmd} (h : mmACC c.word = false) (e ml m k : Nat) :
    accGet (formRow s c e ml m) k = accGet s k := by
  unfold formRow
  simp only [formValues_noAcc s c e ml h]
  have hdrain : ∀ x d vs, accGet (drainRow x d e ml m vs) k = accGet x k := fun x d vs => by
    unfold accGet
    rw [((drainRow_changes x d e ml m vs).same .accumulators rfl).1]
  rw [hdrain]
  refine accGet_accPutAll_same hs (fun p hp => ?_) k
  obtain ⟨x, hx, rfl⟩ := List.mem_map.mp hp
  obtain ⟨j, hj, hvalue⟩ := Option.map_eq_some_iff.mp (List.getElem?_map ▸ List.mem_zipIdx_iff_getElem?.mp hx)
  obtain ⟨_, rfl⟩ := List.getElem?_eq_some_iff.mp hj
  simpa only [List.getElem_range] using hvalue.symm

/-- A row that is formed is counted by its command, which keeps its passes. -/
theorem formRow_counts {s : State} {c d : Cmd} (h : c ∈ s.cmds) (hd : SameRun c d) (e ml m : Nat) :
    ∃ f, findCmd (formRow s d e ml m) c.u c.q c.serial = some f ∧ f.run.formed = m + 1 ∧ f.run.passes = c.run.passes := by
  unfold formRow
  dsimp only
  obtain ⟨x, f, hput, hx, hu, hq, hn, hformed, hpasses⟩ := drainRow_puts
    (accPutAll (formValues s d e ml).2.2 ((formValues s d e ml).1.zipIdx.map fun x => (workKey d e ml (mmCol0 d.word + x.2), x.1)))
    { d with flags := d.flags ||| (formValues s d e ml).2.1 } e ml m (formValues s d e ml).1
  have hmem : c ∈ x.cmds := by
    rwa [(hx.same .commands rfl).1, ((accPutAll_changes _ _).same .commands rfl).1, ((formValues_changes s d e ml).same .commands rfl).1]
  rw [hput]
  exact ⟨f, findCmd_putCmd hmem (hu.trans hd.u) (hq.trans hd.q) (hn.trans hd.serial), hformed, hpasses.trans hd.passes⟩

/-! ### ROW_FORM -/

theorem badWord_none {s : State} (h : s.accBad = []) (c : Cmd) (key : Nat → Nat) : badWord s c key = none := if_pos h

/-- A clean row without poison, invalid segment, uncorrectable word or row check is formed. -/
theorem rowForm_clean {s : State} {c : Cmd} (hpoison : formPoison s c c.run.formed = none)
    (hvalid : mmACC c.word = true → c.run.formed = 0 → invalidSegment s c = none) (hbad : s.accBad = []) (hcheck : c.checked = false) :
    rowForm s c .clean = formRow s (readCarry s c) (listGet 0 (mmArrays c.word) (c.run.formed / mmM c.word))
      (c.run.formed % mmM c.word) c.run.formed := by
  have hsegment : (if mmACC c.word = true ∧ c.run.formed = 0 then invalidSegment s c else none) = none :=
    ite_eq_right_iff.mpr fun h => hvalid h.1 h.2
  unfold rowForm
  simp [hpoison, hsegment, badWord_none hbad, hcheck, noteEvent]

theorem mmM_pos_of_formReady {s : State} {c : Cmd} (h : formReady s c = true) : 0 < mmM c.word := by
  unfold formReady mmRows at h
  simp only [Bool.and_eq_true, decide_eq_true_eq] at h
  exact Nat.pos_of_lt_mul_left (Nat.zero_lt_of_lt h.1.2)

/-- Settles O30: the words by what every row keeps, and a clean row by the one way in which it is formed. -/
theorem rowsAreFormed : Obligations.RowsAreFormed := by
  intro s u q c ev hs h
  have hrun : exec (.rowForm u q ev) s = .next (rowForm s c ev) := by
    show execRowForm u q ev s = _
    simp only [execRowForm, h]
  obtain ⟨hmem, rfl, rfl, -, -, hready⟩ := matCmd_spec h
  refine ⟨_, hrun, (rowForm_keeps s c ev (mmM_pos_of_formReady hready)).get hs.acc, ?_⟩
  rintro rfl hpoison hvalid hbad hcheck
  have hcarry := readCarry_same s c
  rw [rowForm_clean hpoison hvalid hbad hcheck]
  obtain ⟨d, hfound, hformed, hpasses⟩ := formRow_counts hmem hcarry (listGet 0 (mmArrays c.word) (c.run.formed / mmM c.word))
    (c.run.formed % mmM c.word) c.run.formed
  exact ⟨d, hfound, hformed, hpasses, fun hacc k => accGet_formRow_noAcc hs.acc (by rw [hcarry.word]; exact hacc) _ _ _ k⟩

end Sys2Proof.Machine
end

section
/-! PROOFS. O31: the copy phase and the commit (R99, R102, R106, R107). -/

namespace Sys2Proof.Machine

/-! ### Words copied to other words -/

/-- `t` is `s` with words copied: a word k that `D k j` names holds what word j held, and a word that D names nowhere what it held. -/
structure Copies (D : Nat → Nat → Prop) (s t : State) : Prop where
  wf : Store.wf 0 t.acc = true
  get : ∀ k, (∃ j, D k j ∧ accGet t k = accGet s j) ∨ ((∀ j, ¬ D k j) ∧ accGet t k = accGet s k)

theorem Copies.refl {s : State} (h : Store.wf 0 s.acc = true) : Copies (fun _ _ => False) s s := ⟨h, fun _ => .inr ⟨fun _ => id, rfl⟩⟩

/-- Two copies in turn, the second of words that the first has not written. -/
theorem Copies.trans {D E : Nat → Nat → Prop} {s t v : State} (h : Copies D s t) (g : Copies E t v)
    (hsrc : ∀ k j i, E k j → ¬ D j i) : Copies (fun k j => D k j ∨ E k j) s v := by
  refine ⟨g.wf, fun k => ?_⟩
  rcases g.get k with ⟨j, hj, hv⟩ | ⟨hno, hv⟩
  · rcases h.get j with ⟨i, hi, -⟩ | ⟨-, hw⟩
    · exact absurd hi (hsrc k j i hj)
    · exact .inl ⟨j, .inr hj, hv.trans hw⟩
  · rcases h.get k with ⟨j, hj, hw⟩ | ⟨hno', hw⟩
    · exact .inl ⟨j, .inl hj, hv.trans hw⟩
    · exact .inr ⟨fun j => not_or.mpr ⟨hno' j, hno j⟩, hv.trans hw⟩

theorem Copies.congr {D E : Nat → Nat → Prop} {s t : State} (h : Copies D s t) (hDE : ∀ k j, D k j ↔ E k j) : Copies E s t := by
  obtain rfl : D = E := funext₂ fun k j => propext (hDE k j)
  exact h

/-- Copies one after another, of words that none of them writes. -/
theorem Copies.foldl {α : Type} {D : α → Nat → Nat → Prop} {f : State → α → State} (l : List α) {s : State} (hs : Store.wf 0 s.acc = true)
    (hf : ∀ a ∈ l, ∀ x, Store.wf 0 x.acc = true → Copies (D a) x (f x a)) (hsrc : ∀ a ∈ l, ∀ b ∈ l, ∀ k j i, D a k j → ¬ D b j i) :
    Copies (fun k j => ∃ a ∈ l, D a k j) s (l.foldl f s) := by
  induction l generalizing s with
  | nil => exact (Copies.refl hs).congr (by simp)
  | cons a r ih =>
    have hfirst := hf a List.mem_cons_self s hs
    have hrest := ih hfirst.wf (fun b hb => hf b (List.mem_cons_of_mem a hb))
      (fun b hb c hc => hsrc b (List.mem_cons_of_mem a hb) c (List.mem_cons_of_mem a hc))
    refine (hfirst.trans hrest ?_).congr (by simp)
    rintro k j i ⟨b, hb, hd⟩
    exact hsrc b (List.mem_cons_of_mem a hb) a List.mem_cons_self k j i hd

/-! ### COPY_PHASE (R106) -/

/-- Word j of the working tile is the one that a copy of row m on array position e writes to word k of the resident tile. -/
def rowPair (c : Cmd) (e m k j : Nat) : Prop :=
  ∃ i < mmWidth c.word, k = resKey c e m (mmCol0 c.word + i) ∧ j = workKey c e m (mmCol0 c.word + i)

/-- The same of all rows of all arrays. -/
def tilePair (c : Cmd) (k j : Nat) : Prop := ∃ e ∈ mmArrays c.word, ∃ m ∈ List.range (mmM c.word), rowPair c e m k j

theorem column_lt {w : CmdWord} {i : Nat} (h : i < mmWidth w) : mmCol0 w + i < 128 := by
  unfold mmWidth at h
  unfold mmCol0
  split at h <;> split <;> omega

theorem workBank_ne {c : Cmd} (h : tilesFit c) : workBank c.word < 2 ∧ workBank c.word ≠ mmBANK c.word := by
  obtain ⟨-, -, hbank⟩ := h
  unfold workBank
  omega

theorem resRow_lt {c : Cmd} (h : tilesFit c) {m : Nat} (hm : m < mmM c.word) : resRow c.word m < 1024 := by
  obtain ⟨hres, -, -⟩ := h
  unfold mmM at hm
  unfold resRow
  omega

theorem workRow_lt {c : Cmd} (h : tilesFit c) {m : Nat} (hm : m < mmM c.word) : workRow c.word m < 1024 := by
  obtain ⟨-, hwork, -⟩ := h
  unfold mmM at hm
  unfold workRow
  omega

/-- The tiles of a command lie in different banks. -/
theorem resKey_ne_workKey {c : Cmd} (h : tilesFit c) {e m i e' m' i' : Nat} (hm : m < mmM c.word) (hi : i < mmWidth c.word)
    (hm' : m' < mmM c.word) (hi' : i' < mmWidth c.word) :
    resKey c e m (mmCol0 c.word + i) ≠ workKey c e' m' (mmCol0 c.word + i') := by
  intro heq
  obtain ⟨hbank, hne⟩ := workBank_ne h
  exact hne (accKey_inj h.2.2 (resRow_lt h hm) (column_lt hi) hbank (workRow_lt h hm') (column_lt hi') heq).2.1.symm

/-- A word of the resident tile names its word of the working tile. -/
theorem workKey_of_resKey {c : Cmd} (h : tilesFit c) {e m i e' m' i' : Nat} (hm : m < mmM c.word) (hi : i < mmWidth c.word)
    (hm' : m' < mmM c.word) (hi' : i' < mmWidth c.word)
    (heq : resKey c e m (mmCol0 c.word + i) = resKey c e' m' (mmCol0 c.word + i')) :
    workKey c e m (mmCol0 c.word + i) = workKey c e' m' (mmCol0 c.word + i') := by
  obtain ⟨harray, -, hrow, hcol⟩ := accKey_inj h.2.2 (resRow_lt h hm) (column_lt hi) h.2.2 (resRow_lt h hm') (column_lt hi') heq
  have hrow' : m = m' := Nat.add_left_cancel hrow
  unfold workKey
  rw [harray, hrow', hcol]

/-- One row of one array. -/
theorem copyRow_copies (c : Cmd) (e m : Nat) {s : State} (hs : Store.wf 0 s.acc = true) :
    Copies (rowPair c e m) s (accPutAll s ((List.range (mmWidth c.word)).map fun i =>
      (resKey c e m (mmCol0 c.word + i), accGet s (workKey c e m (mmCol0 c.word + i))))) := by
  refine ⟨(accPutAll_keeps (P := fun _ => False) s _ fun _ _ => id).wf hs, fun k => ?_⟩
  rcases accGet_accPutAll _ hs k with ⟨p, hp, rfl, hv⟩ | ⟨hno, hv⟩
  · obtain ⟨i, hi, rfl⟩ := List.mem_map.mp hp
    exact .inl ⟨_, ⟨i, List.mem_range.mp hi, rfl, rfl⟩, hv.trans (Nat.mod_eq_of_lt (accGet_lt s _))⟩
  · refine .inr ⟨?_, hv⟩
    rintro j ⟨i, hi, rfl, -⟩
    exact hno _ (List.mem_map_of_mem (List.mem_range.mpr hi)) rfl

theorem copyRows_copies {c : Cmd} (h : tilesFit c) {s : State} (hs : Store.wf 0 s.acc = true) :
    Copies (tilePair c) s (copyRows s c (mmM c.word)) := by
  have hsrc : ∀ e m e' m' k j i, m < mmM c.word → m' < mmM c.word → rowPair c e m k j → ¬ rowPair c e' m' j i := by
    rintro e m e' m' k j i hm hm' ⟨x, hx, rfl, rfl⟩ ⟨y, hy, heq, -⟩
    exact resKey_ne_workKey h hm' hy hm hx heq.symm
  unfold copyRows
  refine Copies.foldl _ hs (fun e _ x hx => Copies.foldl _ hx (fun m _ y hy => copyRow_copies c e m hy) ?_) ?_
  · intro m hm m' hm' k j i
    exact hsrc e m e m' k j i (List.mem_range.mp hm) (List.mem_range.mp hm')
  · rintro e - e' - k j i ⟨m, hm, hd⟩ ⟨m', hm', hd'⟩
    exact hsrc e m e' m' k j i (List.mem_range.mp hm) (List.mem_range.mp hm') hd hd'

/-- A clean copy phase copies every row and notes that it has run. -/
theorem copyPhase_clean {s : State} {c : Cmd} (h : s.accBad = []) :
    copyPhase s c .clean = putCmd (copyRows s c (mmM c.word)) { c with run := { c.run with copied := true } } := by
  unfold copyPhase
  simp [copyBad, h, noteEvent]

theorem copyPhase_copies (s : State) (u q : Nat) (c : Cmd) (hs : s.Sound) (h : matCmd s u q copyReady = some c) (hbad : s.accBad = [])
    (hfit : tilesFit c) :
    ∃ t d, exec (.copyPhase u q .clean) s = .next t ∧ findCmd t u q c.serial = some d ∧ d.run.copied = true ∧
      (∀ e ∈ mmArrays c.word, ∀ m < mmM c.word, ∀ j < mmWidth c.word,
        accGet t (resKey c e m (mmCol0 c.word + j)) = accGet s (workKey c e m (mmCol0 c.word + j))) ∧
      ∀ k, (∀ e ∈ mmArrays c.word, ∀ m < mmM c.word, ∀ j < mmWidth c.word, k ≠ resKey c e m (mmCol0 c.word + j)) → accGet t k = accGet s k := by
  have hrun : exec (.copyPhase u q .clean) s = .next (copyPhase s c .clean) := by
    show execCopyPhase u q .clean s = _
    simp only [execCopyPhase, h]
  obtain ⟨hmem, rfl, rfl, -⟩ := matCmd_spec h
  have hstays : c ∈ (copyRows s c (mmM c.word)).cmds := by rwa [((copyRows_changes s c _).same .commands rfl).1]
  have hcopied := (copyRows_copies hfit hs.acc).get
  rw [copyPhase_clean hbad] at hrun
  refine ⟨_, _, hrun, findCmd_putCmd hstays rfl rfl rfl, rfl, fun e he m hm i hi => ?_, fun k hk => ?_⟩
  · rcases hcopied (resKey c e m (mmCol0 c.word + i)) with ⟨j, ⟨e', -, m', hm', i', hi', hres, rfl⟩, hv⟩ | ⟨hno, -⟩
    · exact hv.trans (congrArg (accGet s) (workKey_of_resKey hfit hm hi (List.mem_range.mp hm') hi' hres).symm)
    · exact absurd ⟨e, he, m, List.mem_range.mpr hm, i, hi, rfl, rfl⟩ (hno _)
  · rcases hcopied k with ⟨j, ⟨e, he, m, hm, i, hi, hres, -⟩, -⟩ | ⟨-, hv⟩
    · exact absurd hres (hk e he m (List.mem_range.mp hm) i hi)
    · exact hv

/-! ### COMMIT (R102, R107) -/

theorem validGet_validPut {s : State} (h : s.Sound) (a v b : Nat) :
    validGet (validPut s a v) b = if b = a then v else validGet s b := by
  unfold validGet validPut
  split
  next hb => rw [hb]; exact Store.get_put h.valid
  next hb => exact Store.get_put_of_ne h.valid hb

/-- An array holds a tile as valid: every bit of its mask is set. -/
def holdsValid (s : State) (a m : Nat) : Prop := validGet s a &&& m = m

theorem or_and_right_self (v m : Nat) : (v ||| m) &&& m = m := by
  refine Nat.eq_of_testBit_eq fun i => ?_
  cases hm : m.testBit i <;> simp [hm]

/-- Setting the bits of a tile in one array leaves those that are set in any. -/
theorem holdsValid_validPut {s : State} (h : s.Sound) (a b m : Nat) (hb : holdsValid s b m ∨ b = a) :
    holdsValid (validPut s a (validGet s a ||| m)) b m := by
  unfold holdsValid
  rw [validGet_validPut h]
  split
  next => exact or_and_right_self _ m
  next hne => exact hb.resolve_right hne

theorem setValid_sets {s : State} (hs : s.Sound) (c : Cmd) : ∀ e ∈ mmArrays c.word,
    holdsValid (setValid s c) (mmArrayId c.u c.word e) (tileMask (mmBANK c.word) (mmHALF c.word) (mmRBASE c.word) (mmRCNT c.word)) := by
  unfold setValid
  dsimp only
  generalize tileMask (mmBANK c.word) (mmHALF c.word) (mmRBASE c.word) (mmRCNT c.word) = m
  suffices hfold : ∀ (l : List Nat) (x : State), x.Sound → ∀ b, (holdsValid x b m ∨ ∃ e ∈ l, b = mmArrayId c.u c.word e) →
      holdsValid (l.foldl (fun s e => validPut s (mmArrayId c.u c.word e) (validGet s (mmArrayId c.u c.word e) ||| m)) x) b m from
    fun e he => hfold _ s hs _ (.inr ⟨e, he, rfl⟩)
  intro l
  induction l with
  | nil => simp
  | cons a r ih =>
    intro x hx b hb
    refine ih _ ((validPut_changes _ _ _).sound hx) b ?_
    rcases hb with hb | ⟨e, he, rfl⟩
    · exact .inl (holdsValid_validPut hx _ b m (.inl hb))
    rcases List.mem_cons.mp he with rfl | he
    · exact .inl (holdsValid_validPut hx _ _ m (.inr rfl))
    · exact .inr ⟨e, he, rfl⟩

/-- A commit with the valid bits of a kept tile set, and nothing else done (R102). -/
def commitValid (s : State) (c : Cmd) : State := if mmKEEP c.word then setValid s c else s

theorem commitValid_changes (s : State) (c : Cmd) : Changes [.accumulators] s (commitValid s c) := by
  unfold commitValid
  split
  · exact setValid_changes s c
  · exact .refl

theorem commitValid_acc (s : State) (c : Cmd) : (commitValid s c).acc = s.acc := by
  unfold commitValid
  split
  · unfold setValid
    refine foldl_acc (fun x e => ?_) _ s
    rfl
  · rfl

/-- What the rest of a commit touches before the completion: records, scalars, the hawk of a held set, and the commit counter. -/
abbrev commitKinds : List Kind := [.draws, .od, .memory, .sectors, .engines, .recorder, .access, .output]

/-- A commit is a completion, after its valid bits, records, scalars and held tiles; the report of a cured fault follows. -/
theorem commitStep_finishes (s : State) (c : Cmd) :
    ∃ x, commitStep s c = reportCured (finishCmd x c stOK) c ∧ Changes commitKinds (commitValid s c) x := by
  unfold commitStep
  refine ⟨_, rfl, ?_⟩
  have hcarry : Changes commitKinds (commitValid s c)
      (c.run.carry.foldl (fun s r => memPut s (scr c.u (awAddr (qword c.desc 0x68) + 16 * r.1)) 16 r.2) (commitValid s c)) :=
    .foldl _ .refl fun _ _ => (memPut_changes _ _ _ _).mono rfl
  have hssq := hcarry.trans (.foldl c.run.ssq .refl fun x r =>
    (memPut_changes x (scr c.u (awAddr (qword c.desc 0x70) + 4 * r.1)) 4 r.2).mono rfl)
  refine Changes.trans ?_ ((odBump_changes _ _ _ _).mono rfl)
  split
  · exact hssq.trans ((putHawk_changes _ _).mono rfl)
  · exact hssq

/-- A completion with status OK, of a state whose tallies are those of `s`, ends its command and applies its add; what follows it without
touching commands or tallies keeps both (R202, R206). -/
theorem finished_after {K : List Kind} {s x t : State} {c : Cmd} (hx : x.Sound) (htallies : x.tallies = s.tallies)
    (h : Changes K (finishCmd x c stOK) t) (hcmds : K.contains .commands = false := by rfl) (hk : K.contains .tallies = false := by rfl) :
    ended t c.u c.q c.serial ∧ ∀ k, tallyGet t k = addedTally c (tallyGet s) k := by
  refine ⟨(Settles.of_changes h hcmds).keep _ _ _ (completeCmd_ends x c stOK 0), fun k => ?_⟩
  rw [tallyGet_congr (h.same .tallies hk)]
  refine (completeCmd_adds x c stOK 0 k hx (by decide)).trans ?_
  unfold addedTally
  rw [tallyGet_congr htallies k]

/-- What a commit leaves: its command ended, its add applied, no accumulator word changed. -/
theorem commitStep_spec {s : State} (hs : s.Sound) (c : Cmd) :
    ended (commitStep s c) c.u c.q c.serial ∧ (∀ k, tallyGet (commitStep s c) k = addedTally c (tallyGet s) k) ∧
      (commitStep s c).acc = s.acc ∧ (commitStep s c).valid = (commitValid s c).valid := by
  obtain ⟨x, hcommit, hx⟩ := commitStep_finishes s c
  have htallies : x.tallies = s.tallies := (hx.same .tallies rfl).trans ((commitValid_changes s c).same .tallies rfl)
  have hcured := reportCured_changes (finishCmd x c stOK) c
  obtain ⟨hended, hadded⟩ := finished_after (hx.sound ((commitValid_changes s c).sound hs)) htallies hcured
  have hkept : Kind.accumulators.same (commitValid s c) (reportCured (finishCmd x c stOK) c) :=
    Kind.same_trans _ (Kind.same_trans _ (hx.same .accumulators rfl) ((finishCmd_changes x c stOK).same .accumulators rfl))
      (hcured.same .accumulators rfl)
  obtain ⟨hacc, -, -, hvalid⟩ := hkept
  rw [hcommit]
  exact ⟨hended, hadded, hacc.trans (commitValid_acc s c), hvalid⟩

theorem commit_completes (s : State) (u q : Nat) (c : Cmd) (hs : s.Sound) (h : matCmd s u q commitReady = some c) :
    ∃ t, exec (.commit u q) s = .next t ∧ ended t u q c.serial ∧ (∀ k, tallyGet t k = addedTally c (tallyGet s) k) ∧ t.acc = s.acc ∧
      (mmKEEP c.word = true → ∀ e ∈ mmArrays c.word,
        let m := tileMask (mmBANK c.word) (mmHALF c.word) (mmRBASE c.word) (mmRCNT c.word)
        validGet t (mmArrayId c.u c.word e) &&& m = m) := by
  have hrun : exec (.commit u q) s = .next (commitStep s c) := by
    show execCommit u q s = _
    simp only [execCommit, h]
  obtain ⟨-, rfl, rfl, -⟩ := matCmd_spec h
  obtain ⟨hended, htallies, hacc, hvalid⟩ := commitStep_spec hs c
  refine ⟨_, hrun, hended, htallies, hacc, fun hkeep e he => ?_⟩
  have hset := setValid_sets hs c e he
  unfold holdsValid at hset
  simpa only [validGet, hvalid, commitValid, if_pos hkeep] using hset

/-! ### CORRECTED_WORD_WRITE_BACK (R99) -/

theorem correctedWord_writtenBack (s : State) (a b r k : Nat) :
    ∃ t, exec (.correctedWordWriteBack a b r k) s = .next t ∧ accKey a b r k ∉ t.accFix ∧
      (∀ x, x ≠ accKey a b r k → (x ∈ t.accFix ↔ x ∈ s.accFix)) ∧ t.acc = s.acc :=
  ⟨_, rfl, by simp, fun x hx => by simp [hx], rfl⟩

/-- Settles O31: the copy phase by the words that its rows pair, the commit by its completion, the write-back at once. -/
theorem copyAndCommit : Obligations.CopyAndCommit := ⟨copyPhase_copies, commit_completes, correctedWord_writtenBack⟩

end Sys2Proof.Machine
end

section
/-! PROOFS. MMUL where a commit is ready (R107, R233): a completion leaves no more commands than it found, so the run ends with it. -/

namespace Sys2Proof.Machine

/-! ### Commands that leave -/

theorem cmds_sublist_of_changes {K : List Kind} {s t : State} (h : Changes K s t) (hk : K.contains .commands = false := by rfl) :
    t.cmds.Sublist s.cmds := by
  rw [(h.same .commands hk).1]

theorem dropCmd_sublist (s : State) (c : Cmd) : (dropCmd s c).cmds.Sublist s.cmds := List.filter_sublist

theorem foldl_cmds_sublist {α : Type} {f : State → α → State} (hf : ∀ s a, (f s a).cmds.Sublist s.cmds) (l : List α) (s : State) :
    (l.foldl f s).cmds.Sublist s.cmds := by
  induction l generalizing s with
  | nil => exact .refl _
  | cons a r ih => exact (ih _).trans (hf s a)

theorem writeRecords_sublist (k : Nat) (s : State) (u q : Nat) : (writeRecords k s u q).cmds.Sublist s.cmds := by
  induction k generalizing s with
  | zero => exact .refl _
  | succ k ih =>
    unfold writeRecords
    dsimp only
    split
    · split
      · split
        · exact cmds_sublist_of_changes (issueSnoops_changes _ _)
        · exact (ih _).trans ((cmds_sublist_of_changes (writeRecord_changes _ _ _ _ _ _)).trans (dropCmd_sublist _ _))
      · exact .refl _
    · exact .refl _

theorem setAside_sublist (s : State) (u q : Nat) : (setAside s u q).cmds.Sublist s.cmds := by
  unfold setAside
  split
  · exact .refl _
  · refine (cmds_sublist_of_changes (qSet_changes _ _ _ _ _)).trans (foldl_cmds_sublist (fun x c => ?_) _ s)
    exact (cmds_sublist_of_changes (dropTiles_changes _ c)).trans
      ((dropCmd_sublist _ c).trans (cmds_sublist_of_changes (releaseHawks_changes x c true)))

theorem becomeDrained_sublist (s : State) (u q : Nat) : (becomeDrained s u q).cmds.Sublist s.cmds := by
  have hdrained : (discardHeld (setAside s u q) u q).cmds.Sublist s.cmds :=
    (cmds_sublist_of_changes (discardHeld_changes _ u q)).trans (setAside_sublist s u q)
  have hstate : ∀ l, (qSet { discardHeld (setAside s u q) u q with draining := l } u q 6 4).cmds.Sublist s.cmds := fun l =>
    (cmds_sublist_of_changes (qSet_changes _ _ _ _ _)).trans hdrained
  unfold becomeDrained
  dsimp only
  split
  · exact (cmds_sublist_of_changes (settleContext_changes _ _)).trans (hstate _)
  · exact hstate _

theorem drainCheck_sublist (s : State) (u q : Nat) (d : Option Nat) : (drainCheck s u q d).cmds.Sublist s.cmds := by
  unfold drainCheck
  split
  · exact .refl _
  · split <;> split
    · exact .refl _
    · exact becomeDrained_sublist _ _ _
    · exact becomeDrained_sublist _ _ _
    · exact .refl _

theorem afterCompletion_sublist (s : State) (c : Cmd) (st : Nat) : (afterCompletion s c st).cmds.Sublist s.cmds := by
  have hfreed : (dropTiles (releaseHawks s c false) c).cmds.Sublist s.cmds := .refl _
  have hsnag : ((if st = stPOISON then snagSet (dropTiles (releaseHawks s c false) c) 135 else dropTiles (releaseHawks s c false) c)).cmds.Sublist
      s.cmds := by
    split
    · exact (cmds_sublist_of_changes (snagSet_changes _ _)).trans hfreed
    · exact hfreed
  unfold afterCompletion
  dsimp only
  refine (drainCheck_sublist _ _ _ _).trans ((writeRecords_sublist _ _ _ _).trans ?_)
  split
  · exact (cmds_sublist_of_changes (discardHeld_changes _ _ _)).trans hsnag
  · exact hsnag

/-- After a completion stand the commands that stood, the one that completes in its last form, and none more. -/
theorem completeCmd_sublist (s : State) (c : Cmd) (st code : Nat) :
    ∃ r, (completeCmd s c st code).cmds.Sublist (putCmd s (c.complete r)).cmds := by
  have hcmds : (stickyOr (applyAdd s c st) c.u c.q (c.flags ||| c.oldFlags)).cmds = s.cmds :=
    ((stickyOr_changes _ _ _ _).same .commands rfl).1.trans ((applyAdd_changes s c st).same .commands rfl).1
  have hput : ∀ d, (putCmd (stickyOr (applyAdd s c st) c.u c.q (c.flags ||| c.oldFlags)) d).cmds.Sublist (putCmd s d).cmds := fun d => by
    unfold putCmd
    rw [hcmds]
  exact ⟨_, (afterCompletion_sublist _ _ _).trans ((cmds_sublist_of_changes (settleEnergy_changes _ _)).trans (hput _))⟩

/-! ### Admitted matrix commands -/

/-- The count of admitted matrix commands, by which MMUL knows that one has completed. -/
def admittedMats (s : State) : Nat := (s.cmds.filter fun c => c.op == 0x20 && c.stage == .admitted).length

theorem admittedMats_le {s t : State} (h : t.cmds.Sublist s.cmds) : admittedMats t ≤ admittedMats s := (h.filter _).length_le

/-- Replacing the first element that satisfies `p` by one that fails `P` leaves fewer that satisfy `P`. -/
theorem length_filter_mapFirst_lt {α : Type} {p P : α → Bool} {a d : α} (l : List α) (h : l.find? p = some a) (ha : P a = true)
    (hd : P d = false) : ((mapFirst p (fun _ => d) l).filter P).length < (l.filter P).length := by
  induction l with
  | nil => simp at h
  | cons b r ih =>
    unfold mapFirst
    by_cases hb : p b = true
    · obtain rfl : b = a := by simpa [hb] using h
      simp [hb, ha, hd]
    · have hr := ih (by simpa [hb] using h)
      by_cases hP : P b = true <;> simpa [hb, hP] using hr

theorem admittedMats_putCmd_lt {s : State} {c d : Cmd} (h : findCmd s c.u c.q c.serial = some c) (hop : c.op = 0x20)
    (hstage : c.stage = .admitted) (hsame : sameCmd d = sameCmd c) (hd : d.stage ≠ .admitted) : admittedMats (putCmd s d) < admittedMats s := by
  rw [findCmd_eq] at h
  unfold admittedMats putCmd
  rw [hsame]
  exact length_filter_mapFirst_lt s.cmds h (by simp [hop, hstage]) (by simp [hd])

/-- A commit leaves fewer admitted matrix commands. -/
theorem admittedMats_commitStep_lt {s : State} {c : Cmd} (h : findCmd s c.u c.q c.serial = some c) (hop : c.op = 0x20)
    (hstage : c.stage = .admitted) : admittedMats (commitStep s c) < admittedMats s := by
  obtain ⟨x, hcommit, hx⟩ := commitStep_finishes s c
  have hcmds : x.cmds = s.cmds := (hx.same .commands rfl).1.trans ((commitValid_changes s c).same .commands rfl).1
  obtain ⟨r, hleft⟩ := completeCmd_sublist x c stOK 0
  have hput : admittedMats (putCmd x (c.complete r)) < admittedMats x :=
    admittedMats_putCmd_lt ((findCmd_congr hcmds _ _ _).trans h) hop hstage rfl nofun
  calc admittedMats (commitStep s c)
      ≤ admittedMats (putCmd x (c.complete r)) := by
        rw [hcommit]
        exact admittedMats_le ((cmds_sublist_of_changes (reportCured_changes _ _)).trans hleft)
    _ < admittedMats x := hput
    _ = admittedMats s := by unfold admittedMats; rw [hcmds]

/-! ### MMUL -/

theorem mmulStep_commits {s : State} {u q : Nat} {c : Cmd} (h : matCmd s u q commitReady = some c) :
    mmulStep s u q = some (commitStep s c) := by
  unfold mmulStep
  simp only [h]

/-- A run ends with the step that leaves fewer admitted matrix commands. -/
theorem mmulRun_ends {n : Nat} {s t : State} {u q : Nat} (hn : 0 < n) (h : mmulStep s u q = some t)
    (hless : admittedMats t < admittedMats s) : mmulRun n s u q = t := by
  obtain ⟨n, rfl⟩ := Nat.exists_eq_succ_of_ne_zero hn.ne'
  unfold mmulRun
  rw [h]
  exact if_neg (Nat.not_le.mpr hless)

theorem mmulFuel_pos (c : Cmd) : 0 < mmulFuel c := by unfold mmulFuel; omega

theorem mmul_commits (s : State) (u q : Nat) (c : Cmd) (hs : s.Sound) (h : matCmd s u q commitReady = some c)
    (hfound : findCmd s u q c.serial = some c) :
    ∃ t, exec (.mmul u q) s = .next t ∧ ended t u q c.serial ∧ (∀ k, tallyGet t k = addedTally c (tallyGet s) k) ∧ t.acc = s.acc := by
  obtain ⟨hmem, rfl, rfl, hop, hstage, -⟩ := matCmd_spec h
  obtain ⟨c', hc'⟩ : ∃ c', matCmd s c.u c.q (fun _ => true) = some c' :=
    Option.isSome_iff_exists.mp (List.find?_isSome.mpr ⟨c, by simp [qCmds, hmem], by simp [hop, hstage]⟩)
  have hrun : exec (.mmul c.u c.q) s = .next (commitStep s c) := by
    show execMmul c.u c.q s = _
    simp only [execMmul, hc']
    rw [mmulRun_ends (mmulFuel_pos c') (mmulStep_commits h) (admittedMats_commitStep_lt hfound hop hstage)]
  obtain ⟨hended, htallies, hacc, -⟩ := commitStep_spec hs c
  exact ⟨_, hrun, hended, htallies, hacc⟩

end Sys2Proof.Machine
end

section
/-! PROOFS. The screed streams of a core (R242): what asking for tiles keeps of every stream, and how many tiles the only stream of a screed
asks for. -/

namespace Sys2Proof.Machine

/-! ### Streams by their SCREED -/

/-- Another stream is of the same SCREED on the same screed. -/
def Screed.alike (x y : Screed) : Bool := y.core == x.core && y.strm == x.strm && y.q == x.q && y.serial == x.serial

theorem Screed.alike_iff (x y : Screed) :
    x.alike y = true ↔ y.core = x.core ∧ y.strm = x.strm ∧ y.q = x.q ∧ y.serial = x.serial := by
  simp only [Screed.alike, Bool.and_eq_true, beq_iff_eq, and_assoc]

theorem find_streamsOf (s : State) (x : Screed) :
    (streamsOf s x.core x.strm).find? (fun y => y.q == x.q && y.serial == x.serial) = s.screeds.find? x.alike := by
  unfold streamsOf
  rw [List.find?_filter]
  congr 1
  funext y
  rw [Bool.eq_iff_iff, Screed.alike_iff]
  simp [and_assoc]

/-- A screed runs the first of its streams. -/
theorem getScreed_eq_head (s : State) (core strm : Nat) : getScreed s core strm = (streamsOf s core strm).head? := List.head?_filter.symm

theorem getScreed_iff {s : State} {core strm : Nat} {x : Screed} : getScreed s core strm = some x ↔ ∃ r, streamsOf s core strm = x :: r := by
  rw [getScreed_eq_head, List.head?_eq_some_iff]

theorem getScreed_names {s : State} {core strm : Nat} {x : Screed} (h : getScreed s core strm = some x) : x.core = core ∧ x.strm = strm := by
  simpa using List.find?_some h

theorem filter_mapFirst {α : Type} {p P : α → Bool} {b : α} (l : List α) (hp : ∀ a, p a = true → P a = true) (hb : P b = true) :
    (mapFirst p (fun _ => b) l).filter P = mapFirst p (fun _ => b) (l.filter P) := by
  induction l with
  | nil => rfl
  | cons a r ih =>
    by_cases ha : p a = true
    · simp [mapFirst, ha, hp a ha, hb]
    · by_cases hP : P a = true <;> simp [mapFirst, ha, hP, ih]

theorem streamsOf_putScreed (s : State) (x : Screed) :
    streamsOf (putScreed s x) x.core x.strm = mapFirst x.alike (fun _ => x) (streamsOf s x.core x.strm) := by
  refine filter_mapFirst s.screeds (fun y hy => ?_) (by simp)
  obtain ⟨hcore, hstrm, -⟩ := (x.alike_iff y).mp hy
  simp [hcore, hstrm]

/-- The latest stream of a screed takes its new form. -/
theorem streamsOf_putScreed_cons {s : State} {x y : Screed} {r : List Screed} (h : streamsOf s y.core y.strm = x :: r)
    (hxy : y.alike x = true) : streamsOf (putScreed s y) y.core y.strm = y :: r := by
  rw [streamsOf_putScreed, h]
  exact if_pos hxy

/-! ### What asking keeps -/

/-- A stream but for the tiles that it has asked for. -/
def Screed.bare (x : Screed) : Screed := { x with asked := 0, flight := [] }

/-- Every stream is as it was but for the tiles that it has asked for. -/
def AsksOnly (s t : State) : Prop := t.screeds.map Screed.bare = s.screeds.map Screed.bare

theorem AsksOnly.trans {s t v : State} (h : AsksOnly s t) (g : AsksOnly t v) : AsksOnly s v := Eq.trans g h

theorem getScreed_of_asksOnly {s t : State} (h : AsksOnly s t) {core strm : Nat} {x : Screed} (hx : getScreed s core strm = some x) :
    ∃ y, getScreed t core strm = some y ∧ y.bare = x.bare := by
  have hbare : ∀ v : State, (getScreed v core strm).map Screed.bare =
      (v.screeds.map Screed.bare).find? (fun x => x.core == core && x.strm == strm) := fun v => by
    rw [List.find?_map]
    rfl
  have heq := (hbare t).trans ((congrArg _ h).trans (hbare s).symm)
  rw [hx] at heq
  exact Option.map_eq_some_iff.mp heq

theorem map_mapFirst_of_find {α β : Type} {p : α → Bool} {f : α → β} {a b : α} {l : List α} (h : l.find? p = some a) (hf : f b = f a) :
    (mapFirst p (fun _ => b) l).map f = l.map f := by
  induction l with
  | nil => rfl
  | cons c r ih =>
    by_cases hc : p c = true
    · obtain rfl : c = a := by simpa [hc] using h
      simp [mapFirst, hc, hf]
    · simpa [mapFirst, hc] using ih (by simpa [hc] using h)

/-- Asking for a tile puts the stream back with one more tile asked for, and touches no other stream. -/
theorem askTile_screeds (s : State) (x : Screed) :
    ∃ f, (askTile s x).screeds = (putScreed s { x with asked := x.asked + 1, flight := f }).screeds := by
  have hscreeds : ∀ (t : State) h st, (originate t h none [] [] none st).1.screeds = t.screeds := fun t h st =>
    ((originate_changes t h none [] [] none st).same .engines rfl).2.2
  unfold askTile
  dsimp only
  split
  · exact ⟨_, by simp only [putScreed, hscreeds]; rfl⟩
  · exact ⟨_, by simp only [putScreed, hscreeds]; rfl⟩

theorem askTile_asksOnly {s : State} {x : Screed} (h : s.screeds.find? x.alike = some x) : AsksOnly s (askTile s x) := by
  obtain ⟨f, hf⟩ := askTile_screeds s x
  unfold AsksOnly
  rw [hf]
  exact map_mapFirst_of_find h rfl

theorem alike_congr {x y : Screed} (h : x.alike y = true) : y.alike = x.alike := by
  obtain ⟨hcore, hstrm, hq, hserial⟩ := (x.alike_iff y).mp h
  unfold Screed.alike
  rw [hcore, hstrm, hq, hserial]

theorem askTiles_asksOnly (n : Nat) (s : State) (x : Screed) : AsksOnly s (askTiles n s x) := by
  induction n generalizing s x with
  | zero => rfl
  | succ n ih =>
    unfold askTiles
    rw [find_streamsOf]
    split
    next y hy =>
      split
      · refine (askTile_asksOnly ?_).trans (ih _ y)
        rwa [alike_congr (List.find?_some hy)]
      · rfl
    next => rfl

theorem askAll_asksOnly (s : State) (core strm : Nat) : AsksOnly s (askAll s core strm) := by
  unfold askAll
  generalize (streamsOf s core strm).reverse = l
  induction l generalizing s with
  | nil => rfl
  | cons x r ih => exact (askTiles_asksOnly 16 s x).trans (ih _)

/-! ### The only stream of a screed -/

theorem foldl_min_zero (l : List Nat) : l.foldl min 0 = 0 := by
  induction l with
  | nil => rfl
  | cons a r ih => simpa using ih

/-- Of the only stream of a screed, no tile of which is claimed, the slots of the first tiles are free, as many as its ring has (R242). -/
theorem slotFree_sole {s : State} {x : Screed} (h : streamsOf s x.core x.strm = [x]) (hclaimed : x.claimed = 0) (t : Nat) :
    slotFree s x t = decide (t < 2 ^ x.rs) := by
  have hunread : firstUnread s x = 0 := by
    unfold firstUnread
    rw [hclaimed, foldl_min_zero]
  unfold slotFree
  rw [h, hunread]
  simp

/-- Such a stream asks for its tiles until its slots are taken. -/
theorem askTiles_sole (n : Nat) {s : State} {x y : Screed} (hy : streamsOf s x.core x.strm = [y]) (hxy : x.alike y = true)
    (hclaimed : y.claimed = 0) (hasked : y.asked ≤ min y.nt (2 ^ y.rs)) :
    ∃ z, streamsOf (askTiles n s x) x.core x.strm = [z] ∧ z.asked = min (min y.nt (2 ^ y.rs)) (y.asked + n) := by
  induction n generalizing s x y with
  | zero => exact ⟨y, hy, (Nat.min_eq_right hasked).symm⟩
  | succ n ih =>
    obtain ⟨hcore, hstrm, hq, hserial⟩ := (x.alike_iff y).mp hxy
    have hsole : streamsOf s y.core y.strm = [y] := by rw [hcore, hstrm, hy]
    have hfind : (streamsOf s x.core x.strm).find? (fun z => z.q == x.q && z.serial == x.serial) = some y := by
      rw [hy]
      simp [hq, hserial]
    unfold askTiles
    rw [hfind]
    dsimp only
    split
    next hmore =>
      rw [slotFree_sole hsole hclaimed, Bool.and_eq_true, decide_eq_true_eq, decide_eq_true_eq] at hmore
      obtain ⟨f, hf⟩ := askTile_screeds s y
      have hnext : streamsOf (askTile s y) y.core y.strm = [{ y with asked := y.asked + 1, flight := f }] := by
        unfold streamsOf
        rw [hf]
        exact streamsOf_putScreed_cons (y := { y with asked := y.asked + 1, flight := f }) hsole (by simp [Screed.alike])
      obtain ⟨z, hz, hn⟩ := ih hnext (by simp [Screed.alike]) hclaimed (by simp only; omega)
      refine ⟨z, by rwa [← hcore, ← hstrm], ?_⟩
      simp only at hn
      omega
    next hdone =>
      rw [slotFree_sole hsole hclaimed, Bool.and_eq_true, decide_eq_true_eq, decide_eq_true_eq] at hdone
      exact ⟨y, hy, by omega⟩

end Sys2Proof.Machine
end

section
/-! PROOFS. O32: SCREED asks for the tiles of its ring, and a tile lands in its slot (R107, R233, R241, R242). -/

namespace Sys2Proof.Machine

/-! ### SCREED (R241) -/

/-- The stream that a SCREED begins. -/
def streamBegun (c : Cmd) : Screed :=
  ⟨c.u, fld c.word 104 104, c.u, c.q, c.serial, fld c.word 205 142, fld c.word 249 206, fld c.word 141 130, fld c.word 129 116,
    fld c.word 115 112, fld c.word 111 108, fld c.word 107 105, 0, 0, 0, false, []⟩

/-- A parked SCREED, its stream begun, before it asks for tiles. -/
def screedParked (s : State) (c : Cmd) : State :=
  let x := streamBegun c
  let before := (s.screeds.filter (fun y => !(y.core == c.u && y.strm == x.strm) || tilesHeld s y)).map (fun y =>
    if y.core == c.u && y.strm == x.strm then { y with nt := y.claimed } else y)
  putCmd { s with screeds := x :: before } { c with stage := .parked }

theorem startScreed_eq (s : State) (c : Cmd) : startScreed s c = askAll (screedParked s c) c.u (fld c.word 104 104) := rfl

theorem getScreed_screedParked (s : State) (c : Cmd) : getScreed (screedParked s c) c.u (fld c.word 104 104) = some (streamBegun c) := by
  unfold getScreed screedParked
  exact List.find?_cons_of_pos (by simp [streamBegun])

/-- Where no stream runs before it, the new stream is the only one of its screed. -/
theorem streamsOf_screedParked {s : State} {c : Cmd} (h : streamsOf s c.u (fld c.word 104 104) = []) :
    streamsOf (screedParked s c) c.u (fld c.word 104 104) = [streamBegun c] := by
  have hnone := List.filter_eq_nil_iff.mp h
  unfold streamsOf screedParked
  refine (List.filter_cons_of_pos (by simp [streamBegun])).trans (congrArg _ (List.filter_eq_nil_iff.mpr fun y hy => ?_))
  obtain ⟨z, hz, rfl⟩ := List.mem_map.mp hy
  have hother := hnone z (List.mem_filter.mp hz).1
  split
  · exact hother
  · exact hother

theorem askAll_sole {s : State} {x : Screed} (h : streamsOf s x.core x.strm = [x]) (hclaimed : x.claimed = 0) (hasked : x.asked = 0)
    (hring : x.rs ≤ 4) : ∃ z, streamsOf (askAll s x.core x.strm) x.core x.strm = [z] ∧ z.asked = min x.nt (2 ^ x.rs) := by
  obtain ⟨z, hz, hn⟩ := askTiles_sole 16 h (by simp [Screed.alike]) hclaimed (by rw [hasked]; exact Nat.zero_le _)
  have hslots : 2 ^ x.rs ≤ 2 ^ 4 := Nat.pow_le_pow_right (by decide) hring
  refine ⟨z, ?_, by omega⟩
  unfold askAll
  rw [h]
  exact hz

theorem screed_parks (s : State) (u q : Nat) (c : Cmd) (h : runCmd s u q 0x82 = some c) (hring : fld c.word 107 105 ≤ 4) :
    ∃ t d x, exec (.screed u q) s = .next t ∧ findCmd t u q c.serial = some d ∧ d.stage = .parked ∧
      getScreed t u (fld c.word 104 104) = some x ∧ x.serial = c.serial ∧ x.src = fld c.word 205 142 ∧ x.nt = fld c.word 129 116 ∧
      x.landed = 0 ∧ x.claimed = 0 ∧ t.mem = s.mem ∧
      (streamsOf s u (fld c.word 104 104) = [] → x.asked = min (fld c.word 129 116) (2 ^ fld c.word 107 105)) := by
  have hrun : exec (.screed u q) s = .next (startScreed s c) := by
    show execScreed u q s = _
    simp only [execScreed, h]
  obtain ⟨hmem, rfl, rfl, -, -⟩ := runCmd_spec h
  have hparked : findCmd (screedParked s c) c.u c.q c.serial = some { c with stage := .parked } := findCmd_putCmd (c := c) hmem rfl rfl rfl
  obtain ⟨x, hx, hbare⟩ := getScreed_of_asksOnly (askAll_asksOnly (screedParked s c) c.u (fld c.word 104 104)) (getScreed_screedParked s c)
  have hfields : ∀ {α : Type} (f : Screed → α), (∀ y, f y.bare = f y) → f x = f (streamBegun c) := fun f hf => by
    rw [← hf x, hbare, hf]
  refine ⟨_, { c with stage := .parked }, x, hrun, ?_, rfl, hx, hfields Screed.serial fun _ => rfl, hfields Screed.src fun _ => rfl,
    hfields Screed.nt fun _ => rfl, hfields Screed.landed fun _ => rfl, hfields Screed.claimed fun _ => rfl,
    (startScreed_changes s c).same .memory rfl, fun hnone => ?_⟩
  · rw [startScreed_eq]
    exact (findCmd_of_changes (askAll_changes _ _ _) rfl _ _ _).trans hparked
  · obtain ⟨z, hz, hasked⟩ := askAll_sole (x := streamBegun c) (streamsOf_screedParked hnone) rfl rfl hring
    obtain rfl : z = x := Option.some.inj ((getScreed_iff.mpr ⟨_, hz⟩).symm.trans hx)
    exact hasked

/-! ### SCREED_TILE_LAND (R241, R242) -/

/-- A stream whose tile t has landed. -/
def streamLanded (x : Screed) (t : Nat) : Screed := { x with landed := t + 1, flight := x.flight.filter (fun f => f.1 != t) }

/-- The bytes of a tile, widened, in its slot, and in the MX formats its scales behind them. -/
def tileStored (s : State) (x : Screed) (t : Nat) (a b : SendMsg) : State :=
  let at0 := scr x.core (screedSlot x t)
  let sclAt := at0 + fmtBytes x.cfmt 16384
  let s1 := memWriteBad s at0 (widenBytes x.wfmt x.cfmt 16384 (getBytes a)) (widenBad x.wfmt x.cfmt at0 a)
  if isMX x.cfmt then memWriteBad s1 sclAt (getBytes b) (getBad b sclAt) else s1

/-- A landed tile before the completion of its SCREED: stored, noted in its stream, and its messages dropped. -/
def tileLanded (s : State) (x : Screed) (t : Nat) (a b : SendMsg) : State :=
  dropSend (dropSend (putScreed (tileStored s x t a b) (streamLanded x t)) a.msgid) b.msgid

theorem landTile_eq (s : State) (x : Screed) (t : Nat) (a b : SendMsg) :
    landTile s x t a b = finishScreed (tileLanded s x t a b) (streamLanded x t) := rfl

theorem tileStored_changes (s : State) (x : Screed) (t : Nat) (a b : SendMsg) : Changes [.memory, .sectors] s (tileStored s x t a b) := by
  unfold tileStored
  dsimp only
  split
  · exact (memWriteBad_changes _ _ _ _).trans (memWriteBad_changes _ _ _ _)
  · exact memWriteBad_changes _ _ _ _

/-- Dropping the messages of a tile leaves the state as it was but for what messages touch. -/
theorem tileLanded_drops (s : State) (x : Screed) (t : Nat) (a b : SendMsg) :
    Changes [.draws, .od, .fabric, .ports, .recorder, .access, .output] (putScreed (tileStored s x t a b) (streamLanded x t))
      (tileLanded s x t a b) := (dropSend_changes _ _).trans (dropSend_changes _ _)

theorem tileLanded_changes (s : State) (x : Screed) (t : Nat) (a b : SendMsg) :
    Changes [.draws, .od, .memory, .sectors, .engines, .fabric, .ports, .recorder, .access, .output] s (tileLanded s x t a b) :=
  ((tileStored_changes s x t a b).mono rfl).trans (((putScreed_changes _ _).mono rfl).trans ((tileLanded_drops s x t a b).mono rfl))

theorem memByte_tileStored {s : State} (hs : s.Sound) {x : Screed} {t : Nat} {a b : SendMsg}
    (ha : (widenBytes x.wfmt x.cfmt 16384 (getBytes a)).length = fmtBytes x.cfmt 16384)
    (hb : isMX x.cfmt = true → (getBytes b).length = 512) (k : Nat) : memByte (tileStored s x t a b) k =
      (if isMX x.cfmt = true ∧ scr x.core (screedSlot x t) + fmtBytes x.cfmt 16384 ≤ k ∧ k < scr x.core (screedSlot x t) + fmtBytes x.cfmt 16384 + 512
       then listGet 0 (getBytes b) (k - (scr x.core (screedSlot x t) + fmtBytes x.cfmt 16384))
       else if scr x.core (screedSlot x t) ≤ k ∧ k < scr x.core (screedSlot x t) + fmtBytes x.cfmt 16384
       then listGet 0 (widenBytes x.wfmt x.cfmt 16384 (getBytes a)) (k - scr x.core (screedSlot x t)) else memByte s k) := by
  unfold tileStored
  dsimp only
  cases hmx : isMX x.cfmt with
  | true =>
    simp only [if_true, true_and]
    rw [memByte_memWriteBad_ite _ _ _ _ _ _ (memWriteBad_wf s _ _ _ hs.memory) (hb hmx), memByte_memWriteBad_ite _ _ _ _ _ _ hs.memory ha]
  | false =>
    simp only [Bool.false_eq_true, if_false, false_and]
    exact memByte_memWriteBad_ite _ _ _ _ _ _ hs.memory ha

theorem getScreed_tileLanded {s : State} {core strm : Nat} {x : Screed} (h : getScreed s core strm = some x) (t : Nat) (a b : SendMsg) :
    getScreed (tileLanded s x t a b) core strm = some (streamLanded x t) := by
  obtain ⟨rfl, rfl⟩ := getScreed_names h
  have hstreams : (tileStored s x t a b).screeds = s.screeds := ((tileStored_changes s x t a b).same .engines rfl).2.2
  have hdropped := ((tileLanded_drops s x t a b).same .engines rfl).2.2
  obtain ⟨r, hr⟩ := getScreed_iff.mp h
  have hnoted : streamsOf (putScreed (tileStored s x t a b) (streamLanded x t)) x.core x.strm = streamLanded x t :: r :=
    streamsOf_putScreed_cons (y := streamLanded x t) (by unfold streamsOf; rw [hstreams]; exact hr) (by simp [Screed.alike, streamLanded])
  refine getScreed_iff.mpr ⟨r, ?_⟩
  unfold streamsOf at hnoted ⊢
  rw [hdropped, hnoted]

/-- Before its last tile a stream does not complete its SCREED. -/
theorem finishScreed_of_more {s : State} {x : Screed} (h : x.landed ≠ x.nt) : finishScreed s x = s := by
  unfold finishScreed
  simp [h]

/-- With its last tile it does, where the SCREED stands parked. -/
theorem finishScreed_last {s : State} {x : Screed} {c : Cmd} (hlast : x.landed = x.nt) (hopen : x.completed = false)
    (hc : findCmd s x.u x.q x.serial = some c) (hop : c.op = 0x82) (hstage : c.stage = .parked) :
    finishScreed s x = finishCmd (putScreed s { x with completed := true }) c stOK := by
  have hfound : findCmd (putScreed s { x with completed := true }) x.u x.q x.serial = some c := hc
  unfold finishScreed
  rw [if_pos (by simp [hlast, hopen])]
  dsimp only
  rw [hfound]
  exact if_pos (by simp [hop, hstage])

theorem tileToLand_first {s : State} {core strm n : Nat} {x : Screed} {a b : SendMsg} (h : getScreed s core strm = some x)
    (hl : landedTile s x = some (n, a, b)) : tileToLand s core strm = some (x, n, a, b) := by
  obtain ⟨r, hr⟩ := getScreed_iff.mp h
  unfold tileToLand
  rw [hr, List.findSome?_cons, hl]
  rfl

theorem screedTile_lands (s : State) (core strm n : Nat) (x : Screed) (a b : SendMsg) (hs : s.Sound) (h : getScreed s core strm = some x)
    (hl : landedTile s x = some (n, a, b))
    (ha : (widenBytes x.wfmt x.cfmt 16384 (getBytes a)).length = fmtBytes x.cfmt 16384)
    (hb : isMX x.cfmt = true → (getBytes b).length = 512) :
    (n + 1 ≠ x.nt →
      ∃ t y, exec (.screedTileLand core strm) s = .next t ∧ getScreed t core strm = some y ∧ y.landed = n + 1 ∧ ∀ k, memByte t k =
        (if isMX x.cfmt = true ∧ scr x.core (screedSlot x n) + fmtBytes x.cfmt 16384 ≤ k ∧ k < scr x.core (screedSlot x n) + fmtBytes x.cfmt 16384 + 512
         then listGet 0 (getBytes b) (k - (scr x.core (screedSlot x n) + fmtBytes x.cfmt 16384))
         else if scr x.core (screedSlot x n) ≤ k ∧ k < scr x.core (screedSlot x n) + fmtBytes x.cfmt 16384
         then listGet 0 (widenBytes x.wfmt x.cfmt 16384 (getBytes a)) (k - scr x.core (screedSlot x n)) else memByte s k)) ∧
    (n + 1 = x.nt → x.completed = false → ∀ c, findCmd s x.u x.q x.serial = some c → c.op = 0x82 → c.stage = .parked →
      ∃ t, exec (.screedTileLand core strm) s = .next t ∧ ended t x.u x.q x.serial ∧ ∀ k, tallyGet t k = addedTally c (tallyGet s) k) := by
  have hrun : exec (.screedTileLand core strm) s = .next (askAll (finishScreed (tileLanded s x n a b) (streamLanded x n)) core strm) := by
    show execScreedTileLand core strm s = _
    simp only [execScreedTileLand, tileToLand_first h hl, landTile_eq]
  refine ⟨fun hmore => ?_, fun hlast hopen c hc hop hstage => ?_⟩
  · rw [finishScreed_of_more (x := streamLanded x n) hmore] at hrun
    obtain ⟨y, hy, hbare⟩ := getScreed_of_asksOnly (askAll_asksOnly _ core strm) (getScreed_tileLanded h n a b)
    refine ⟨_, y, hrun, hy, congrArg Screed.landed hbare, fun k => ?_⟩
    rw [memByte_of_changes (askAll_changes _ _ _), memByte_of_changes (tileLanded_drops s x n a b), memByte_of_changes (putScreed_changes _ _)]
    exact memByte_tileStored hs ha hb k
  · have hlanded := tileLanded_changes s x n a b
    have hfound : findCmd (tileLanded s x n a b) x.u x.q x.serial = some c := (findCmd_of_changes hlanded rfl _ _ _).trans hc
    rw [finishScreed_last (x := streamLanded x n) hlast hopen hfound hop hstage] at hrun
    have hdone := putScreed_changes (tileLanded s x n a b) { streamLanded x n with completed := true }
    have htallies := (hdone.same .tallies rfl).trans (hlanded.same .tallies rfl)
    obtain ⟨hended, hadded⟩ := finished_after (c := c) (hdone.sound (hlanded.sound hs)) htallies (askAll_changes _ core strm)
    obtain ⟨hu, hq, hserial⟩ : c.u = x.u ∧ c.q = x.q ∧ c.serial = x.serial := by simpa [and_assoc] using List.find?_some hc
    rw [hu, hq, hserial] at hended
    exact ⟨_, hrun, hended, hadded⟩

/-- Settles O32: MMUL by its commit, SCREED by the stream that it begins, the landing of a tile by the bytes that it stores. -/
theorem matrixCommandAndScreed : Obligations.MatrixCommandAndScreed := ⟨mmul_commits, screed_parks, screedTile_lands⟩

end Sys2Proof.Machine
end

section
/-! PROOFS. O15: the issue of a fetched command (R164, R198, R225, R235). -/

namespace Sys2Proof.Machine

/-! ### A command as it enters the issued state -/

/-- The claims of hawks and tiles leave the commands in flight and the count of issues. -/
theorem claims_keep_commands (s : State) (c : Cmd) : Kind.commands.same s (claimTiles (claimHawks s c) c).1 :=
  ((claimHawks_changes s c).trans (claimTiles_changes (claimHawks s c) c)).same .commands rfl

/-- What stands in flight after an issue: the command as issued, and one issue more (R164, R198, R235). -/
theorem findCmd_enterIssued {s : State} {c : Cmd} (h : c ∈ s.cmds) (d : Option Nat) :
    ∃ e, findCmd (enterIssued s c d) c.u c.q c.serial = some e ∧ e.stage = .issued ∧ e.word = c.word ∧ e.issuedAt = s.uptime ∧
      e.age = s.issues ∧ e.vl = qGet s c.u c.q 8 ∧ e.desc = d.getD 0 ∧ (enterIssued s c d).issues = s.issues + 1 := by
  obtain ⟨hcmds, hissues⟩ := claims_keep_commands s c
  refine ⟨_, findCmd_putCmd (c := c) ?_ rfl rfl rfl, rfl, rfl, rfl, rfl, rfl, rfl, congrArg (· + 1) hissues⟩
  exact hcmds ▸ h

/-! ### COMMAND_ISSUE (R198, R225) -/

/-- A command that may issue, and whose word no poison has replaced, is checked and issued. -/
theorem commandIssue_of_mayIssue {s : State} {u q ctx : Nat} {c : Cmd} (h : mayIssue s u q c ctx) :
    exec (.commandIssue u q) s = .next (issueCmd s c ctx) := by
  obtain ⟨hfirst, hctx, hopen, hdrain, hbad⟩ := h
  show execCommandIssue u q s = _
  simp only [execCommandIssue, hfirst, hctx, hopen, hdrain, hbad, Bool.and_self, if_true]

/-- A word that is legal, with a clean product descriptor, is issued where no hawk or stream holds it back. -/
theorem issueCmd_of_legal {s : State} {c : Cmd} {ctx : Nat} (hface : illegalCode s c.u c.q ctx c.word none = none)
    (hclean : descPoison s c.u c.word = none) (hdesc : illegalCode s c.u c.q ctx c.word (productDesc s c.u c.word) = none)
    (hhawk : hawkBusy s c.u c.q c.word = false) (hscreed : screedBusy s c.u c.word = false) :
    issueCmd s c ctx = enterIssued s c (productDesc s c.u c.word) := by
  simp [issueCmd, hface, hclean, hdesc, hhawk, hscreed]

/-- A word that is illegal on its face is rejected, with one code or another. -/
theorem issueCmd_of_illegal {s : State} {c : Cmd} {ctx : Nat} (h : (illegalCode s c.u c.q ctx c.word none).isSome) :
    ∃ n, issueCmd s c ctx = rejectCmd s c n := by
  obtain ⟨n, hn⟩ := Option.isSome_iff_exists.mp h
  unfold issueCmd
  rw [hn]
  dsimp only
  split
  · exact ⟨_, rfl⟩
  · exact ⟨_, rfl⟩

/-- A failing completion ends its command and does not apply its add (R202, R207). -/
theorem failCmd_ends_without_add (s : State) (c : Cmd) {st : Nat} (code : Nat) (r : Report) (hst : 1 < st) :
    ended (failCmd s c st code r) c.u c.q c.serial ∧ (failCmd s c st code r).tallies = s.tallies :=
  ⟨failCmd_ends s c st code r, failCmd_tallies s c st code r hst⟩

/-- Settles O15: a legal word by what an issue leaves in flight, an illegal one by its rejection. -/
theorem issueEntersOrRejects : Obligations.IssueEntersOrRejects := by
  intro s u q c ctx h
  have hrun := commandIssue_of_mayIssue h
  obtain ⟨hfirst, -⟩ := h
  obtain ⟨hmem, rfl, rfl, -⟩ := firstIn_spec hfirst
  refine ⟨fun hface hclean hdesc hhawk hscreed => ?_, fun hillegal => ?_⟩
  · rw [issueCmd_of_legal hface hclean hdesc hhawk hscreed] at hrun
    obtain ⟨e, he⟩ := findCmd_enterIssued hmem (productDesc s c.u c.word)
    exact ⟨_, e, hrun, he⟩
  · obtain ⟨n, hn⟩ := issueCmd_of_illegal hillegal
    exact ⟨_, hrun, hn ▸ failCmd_ends_without_add s c n _ (by decide)⟩

end Sys2Proof.Machine
end

section
/-! PROOFS. O25: XPOSE (R143, R144, R240, R253): rows of elements, the bytes that one tile stores, and the tiles in turn. -/

namespace Sys2Proof.Machine

/-! ### Lists of rows -/

theorem length_rows {α : Type} (m n : Nat) (f : Nat → Nat → α) :
    ((List.range m).flatMap fun r => (List.range n).map (f r)).length = m * n := by simp

/-- Element x of row r, where every row has n elements. -/
theorem listGet_rows {α : Type} (d : α) {m n r x : Nat} (f : Nat → Nat → α) (hr : r < m) (hx : x < n) :
    listGet d ((List.range m).flatMap fun r => (List.range n).map (f r)) (r * n + x) = f r x := by
  unfold listGet
  induction m with
  | zero => omega
  | succ m ih =>
    rw [List.range_succ, List.flatMap_append, List.flatMap_singleton]
    by_cases hlast : r = m
    · subst hlast
      rw [List.getD_append_right _ _ _ _ (by rw [length_rows]; omega), length_rows, Nat.add_sub_cancel_left]
      simp [hx]
    · have hin : r * n + x < m * n := by
        have := Nat.mul_le_mul_right n (show r + 1 ≤ m by omega)
        rw [Nat.succ_mul] at this
        omega
      rw [List.getD_append _ _ _ _ (by rw [length_rows]; exact hin)]
      exact ih (by omega)

/-! ### The transposed tile (R240) -/

theorem transposeTile_element (t : HawkTile) (r x : Nat) (hr : r < 128) (hx : x < 128) :
    listGet 0 (transposeTile t).codes (r * 128 + x) = listGet 0 t.codes (x * 128 + r) :=
  listGet_rows 0 (fun r x => listGet 0 t.codes (x * 128 + r)) hr hx

theorem transposeTile_codes_length (t : HawkTile) : (transposeTile t).codes.length = 16384 :=
  length_rows 128 128 _

theorem transposeTile_scales_length {t : HawkTile} (h : isMX t.fmt = true) : (transposeTile t).scales.length = 512 := by
  unfold transposeTile
  simp only [h, Bool.not_true, Bool.false_eq_true, if_false]
  split
  · exact length_rows 4 128 _
  · exact length_rows 128 4 _

/-! ### The tile that XPOSE stores (R144, R240) -/

/-- Tile i transposed, and re-blocked where REBLK selects it. -/
def xposeOutput (s : State) (c : Cmd) (axis i : Nat) : Blocks × HawkTile :=
  let out := transposeTile (xpTile s c axis i)
  if xpREBLK c.word then blocksOnto s out 0 (xpHRM c.word) c.epoch (fun _ x => hawkStream c.u (xpHAWK c.word) x) else (⟨[], 0, 0, s⟩, out)

/-- The bytes of that tile at its destination, and in the MX formats its scales at theirs. -/
def xposeStored (s : State) (c : Cmd) (axis i : Nat) : State :=
  let b := xposeOutput s c axis i
  let stored := memWrite b.1.st (xpDstAt c i) (packCodes (xpFMT c.word) b.2.codes)
  if isMX (xpFMT c.word) then memWrite stored (xpDsclAt c i) (b.2.scales.map (BitVec.ofNat 8)) else stored

theorem xposeTile_eq (s : State) (c : Cmd) (axis i : Nat) : (xposeTile s c axis i).1 =
    if (xposeOutput s c axis i).1.changed = 0 then xposeStored s c axis i
    else odBump (xposeStored s c axis i) (0x3200 + c.u) 0x0A (xposeOutput s c axis i).1.changed := rfl

theorem xposeOutput_plain {c : Cmd} (h : xpREBLK c.word = false) (s : State) (axis i : Nat) :
    (xposeOutput s c axis i).2 = transposeTile (xpTile s c axis i) := by
  simp [xposeOutput, h]

theorem xposeOutput_changes (s : State) (c : Cmd) (axis i : Nat) : Changes [.streams] s (xposeOutput s c axis i).1.st := by
  unfold xposeOutput
  dsimp only
  split
  · exact blocksOnto_changes _ _ _ _ _ _
  · exact .refl

/-- Moving blocks to the rows keeps the numbers of elements and of scales. -/
theorem blocksOnto_rows_lengths {s : State} {t : HawkTile} {hrm : Bool} {epoch : Nat} {lane : Nat → Nat → Nat} (hcodes : t.codes.length = 16384)
    (hscales : isMX t.fmt = true → t.scales.length = 512) :
    (blocksOnto s t 0 hrm epoch lane).2.codes.length = 16384 ∧
      (isMX t.fmt = true → (blocksOnto s t 0 hrm epoch lane).2.scales.length = 512) := by
  unfold blocksOnto
  split
  · exact ⟨hcodes, hscales⟩
  · simp only [reblockTile, Nat.zero_ne_one, if_false, length_rows, implies_true, and_self]

theorem xposeOutput_lengths (s : State) (c : Cmd) (axis i : Nat) :
    (xposeOutput s c axis i).2.codes.length = 16384 ∧ (isMX (xpFMT c.word) = true → (xposeOutput s c axis i).2.scales.length = 512) := by
  have hcodes := transposeTile_codes_length (xpTile s c axis i)
  have hscales : isMX (xpFMT c.word) = true → _ := transposeTile_scales_length (t := xpTile s c axis i)
  unfold xposeOutput
  dsimp only
  split
  · exact blocksOnto_rows_lengths hcodes hscales
  · exact ⟨hcodes, hscales⟩

theorem packCodes_length (fmt : Nat) (l : List Nat) : (packCodes fmt l).length = fmtBytes fmt l.length := leBytes_length _ _

/-- What the bytes read after one tile. -/
theorem memByte_xposeTile {s : State} (hs : s.Sound) (c : Cmd) (axis i a : Nat) : memByte (xposeTile s c axis i).1 a =
    if isMX (xpFMT c.word) = true ∧ xpDsclAt c i ≤ a ∧ a < xpDsclAt c i + 512
    then BitVec.ofNat 8 (listGet 0 (xposeOutput s c axis i).2.scales (a - xpDsclAt c i))
    else if xpDstAt c i ≤ a ∧ a < xpDstAt c i + xpSize c.word
    then listGet 0 (packCodes (xpFMT c.word) (xposeOutput s c axis i).2.codes) (a - xpDstAt c i) else memByte s a := by
  have hread := xposeOutput_changes s c axis i
  obtain ⟨hcodes, hscales⟩ := xposeOutput_lengths s c axis i
  have hsound := hread.sound hs
  have hcounted : memByte (xposeTile s c axis i).1 a = memByte (xposeStored s c axis i) a := by
    rw [xposeTile_eq]
    exact memByte_of_changes (bumpIf_changes _ _ _ _) a
  have hpacked : memByte (memWrite (xposeOutput s c axis i).1.st (xpDstAt c i) (packCodes (xpFMT c.word) (xposeOutput s c axis i).2.codes)) a =
      if xpDstAt c i ≤ a ∧ a < xpDstAt c i + xpSize c.word
      then listGet 0 (packCodes (xpFMT c.word) (xposeOutput s c axis i).2.codes) (a - xpDstAt c i) else memByte s a := by
    rw [← memByte_of_changes hread a]
    exact memByte_memWriteBad_ite _ _ _ _ _ _ hsound.memory (by rw [packCodes_length, hcodes]; rfl)
  have hscale : ∀ k, listGet 0 ((xposeOutput s c axis i).2.scales.map (BitVec.ofNat 8)) k =
      BitVec.ofNat 8 (listGet 0 (xposeOutput s c axis i).2.scales k) := fun k =>
    List.getD_map _ 0 (BitVec.ofNat 8)
  rw [hcounted]
  unfold xposeStored
  dsimp only
  cases hmx : isMX (xpFMT c.word) with
  | true =>
    simp only [if_true, true_and]
    rw [← hscale, ← hpacked]
    exact memByte_memWriteBad_ite _ _ _ _ _ _ (memWrite_wf _ _ _ hsound.memory) (by rw [List.length_map, hscales hmx])
  | false =>
    simp only [Bool.false_eq_true, if_false, false_and]
    exact hpacked

/-- Tile i of an XPOSE stores to offset a. -/
def xposeStores (c : Cmd) (i a : Nat) : Prop :=
  (xpDstAt c i ≤ a ∧ a < xpDstAt c i + xpSize c.word) ∨ (isMX (xpFMT c.word) = true ∧ xpDsclAt c i ≤ a ∧ a < xpDsclAt c i + 512)

/-- A tile leaves every other byte. -/
theorem memByte_xposeTile_outside {s : State} (hs : s.Sound) {c : Cmd} {i a : Nat} (h : ¬ xposeStores c i a) (axis : Nat) :
    memByte (xposeTile s c axis i).1 a = memByte s a := by
  obtain ⟨hdst, hscl⟩ := not_or.mp h
  rw [memByte_xposeTile hs, if_neg hscl, if_neg hdst]

/-! ### The tiles in turn -/

/-- The first n tiles, in order. -/
def xposeTiles (s : State) (c : Cmd) (n : Nat) : State × Flags :=
  (List.range n).foldl (fun (x : State × Flags) t =>
    let o := xposeTile x.1 c (sourceAxis s).1 t
    (o.1, x.2 ||| o.2)) ((sourceAxis s).2, 0)

/-- A clean XPOSE completes after its tiles; the report of a cured fault follows. -/
theorem xposeRun_eq (s : State) (c : Cmd) : xposeRun s c = reportCured
    (finishCmd (xposeTiles s c (xpNT c.word)).1 { c with flags := c.flags ||| (xposeTiles s c (xpNT c.word)).2 } stOK) c := rfl

theorem xposeTiles_succ (s : State) (c : Cmd) (n : Nat) :
    (xposeTiles s c (n + 1)).1 = (xposeTile (xposeTiles s c n).1 c (sourceAxis s).1 n).1 := by
  simp [xposeTiles, List.range_succ]

theorem xposeTiles_changes (s : State) (c : Cmd) (n : Nat) :
    Changes [.draws, .od, .memory, .sectors, .streams, .recorder, .access, .output] s (xposeTiles s c n).1 :=
  .foldl_fst _ ((sourceAxis_changes s).mono rfl) fun _ _ => xposeTile_changes _ _ _ _

/-- A tile counts its changed elements outside the entries of queues. -/
theorem xposeTile_sameRing {c : Cmd} (hq : queueExists c.u c.q = true) (s : State) (axis i : Nat) :
    SameRing c.u c.q s (xposeTile s c axis i).1 := by
  obtain ⟨hunit, -⟩ := queueExists_bounds hq
  have hstored : SameRing c.u c.q s (xposeStored s c axis i) := by
    have hpacked : ∀ d, SameRing c.u c.q s (memWrite (xposeOutput s c axis i).1.st (xpDstAt c i) d) := fun d =>
      (SameRing.of_changes (xposeOutput_changes s c axis i)).trans (.of_changes (memWrite_changes _ _ _))
    unfold xposeStored
    dsimp only
    split
    · exact (hpacked _).trans (.of_changes (memWrite_changes _ _ _))
    · exact hpacked _
  rw [xposeTile_eq]
  split
  · exact hstored
  · exact hstored.trans (.bump _ _ _ _ hq (by omega) (by decide))

theorem xposeTiles_sameRing {c : Cmd} (hq : queueExists c.u c.q = true) (s : State) (n : Nat) :
    SameRing c.u c.q s (xposeTiles s c n).1 := by
  induction n with
  | zero => exact .of_changes (sourceAxis_changes s)
  | succ n ih =>
    rw [xposeTiles_succ]
    exact ih.trans (xposeTile_sameRing hq _ _ _)

/-- Bytes that none of the tiles stores. -/
theorem memByte_xposeTiles_outside {s : State} (hs : s.Sound) {c : Cmd} {n a : Nat} (h : ∀ i < n, ¬ xposeStores c i a) :
    memByte (xposeTiles s c n).1 a = memByte s a := by
  induction n with
  | zero => exact memByte_of_changes (sourceAxis_changes s) a
  | succ n ih =>
    rw [xposeTiles_succ, memByte_xposeTile_outside ((xposeTiles_changes s c n).sound hs) (h n (Nat.lt_succ_self n))]
    exact ih fun i hi => h i (Nat.lt_succ_of_lt hi)

/-! ### Pieces of equal width -/

theorem piece_within {i n : Nat} (w : Nat) (h : i < n) : i * w + w ≤ n * w := by
  rw [← Nat.succ_mul]
  exact Nat.mul_le_mul_right w h

/-- Two pieces of one range. -/
theorem apart_pieces {i j : Nat} (b w : Nat) (h : i ≠ j) : apart (b + i * w) w (b + j * w) w := by
  unfold apart
  rcases Nat.lt_or_gt_of_ne h with h | h
  · have := piece_within w h
    omega
  · have := piece_within w h
    omega

/-- Pieces of ranges that lie apart. -/
theorem apart_of_pieces {a b w v n i j : Nat} (h : apart a (n * w) b (n * v)) (hi : i < n) (hj : j < n) :
    apart (a + i * w) w (b + j * v) v := by
  have := piece_within w hi
  have := piece_within v hj
  unfold apart at *
  omega

theorem apart_symm {a n b m : Nat} (h : apart a n b m) : apart b m a n := Or.symm h

/-- An offset in a range is not in one that lies apart. -/
theorem apart_offset {a n b m k : Nat} (h : apart a n b m) (hk : k < m) : ¬ (a ≤ b + k ∧ b + k < a + n) := by
  unfold apart at h
  omega

theorem xpDstAt_eq (c : Cmd) (i : Nat) : xpDstAt c i = xpDstAt c 0 + i * xpSize c.word := by simp [xpDstAt]
theorem xpDsclAt_eq (c : Cmd) (i : Nat) : xpDsclAt c i = xpDsclAt c 0 + i * 512 := by simp [xpDsclAt]
theorem xpSrcAt_eq (c : Cmd) (i : Nat) : xpSrcAt c i = xpSrcAt c 0 + i * xpSize c.word := by simp [xpSrcAt]
theorem xpSsclAt_eq (c : Cmd) (i : Nat) : xpSsclAt c i = xpSsclAt c 0 + i * 512 := by simp [xpSsclAt]

/-- A tile stores inside the destinations of its command. -/
theorem xposeStores_within {c : Cmd} {i n a : Nat} (hi : i < n) (h : xposeStores c i a) :
    (xpDstAt c 0 ≤ a ∧ a < xpDstAt c n) ∨ (isMX (xpFMT c.word) = true ∧ xpDsclAt c 0 ≤ a ∧ a < xpDsclAt c n) := by
  have := piece_within (xpSize c.word) hi
  have := piece_within 512 hi
  have := xpDstAt_eq c i
  have := xpDstAt_eq c n
  have := xpDsclAt_eq c i
  have := xpDsclAt_eq c n
  rcases h with ⟨hlo, hhi⟩ | ⟨hmx, hlo, hhi⟩
  · exact .inl ⟨by omega, by omega⟩
  · exact .inr ⟨hmx, by omega, by omega⟩

/-- A range that lies apart from both destinations of a tile. -/
theorem not_xposeStores {c : Cmd} {i b m k : Nat} (hdst : apart (xpDstAt c i) (xpSize c.word) b m)
    (hscl : isMX (xpFMT c.word) = true → apart (xpDsclAt c i) 512 b m) (hk : k < m) : ¬ xposeStores c i (b + k) :=
  not_or.mpr ⟨apart_offset hdst hk, fun ⟨hmx, hin⟩ => apart_offset (hscl hmx) hk hin⟩

section
variable {c : Cmd} (h : xposeApart c) {i j k : Nat} (hi : i < xpNT c.word) (hj : j < xpNT c.word)
include h hi hj

theorem source_notStored (hk : k < xpSize c.word) : ¬ xposeStores c i (xpSrcAt c j + k) := by
  obtain ⟨hdst, hmx⟩ := h
  refine not_xposeStores ?_ (fun hf => ?_) hk
  · rw [xpDstAt_eq, xpSrcAt_eq]
    exact apart_of_pieces hdst hi hj
  · obtain ⟨-, -, hscl, -⟩ := hmx hf
    rw [xpDsclAt_eq, xpSrcAt_eq]
    exact apart_of_pieces hscl hi hj

theorem sourceScale_notStored (hf : isMX (xpFMT c.word) = true) (hk : k < 512) : ¬ xposeStores c i (xpSsclAt c j + k) := by
  obtain ⟨-, hmx⟩ := h
  obtain ⟨hdst, -, -, hscl⟩ := hmx hf
  refine not_xposeStores ?_ (fun _ => ?_) hk
  · rw [xpDstAt_eq, xpSsclAt_eq]
    exact apart_of_pieces hdst hi hj
  · rw [xpDsclAt_eq, xpSsclAt_eq]
    exact apart_of_pieces hscl hi hj

/-- The scales of one tile lie apart from the elements of any. -/
theorem scales_apart (hf : isMX (xpFMT c.word) = true) : apart (xpDsclAt c i) 512 (xpDstAt c j) (xpSize c.word) := by
  obtain ⟨-, hmx⟩ := h
  obtain ⟨-, hscl, -, -⟩ := hmx hf
  rw [xpDsclAt_eq, xpDstAt_eq]
  exact apart_symm (apart_of_pieces hscl hj hi)

theorem element_notStored (hne : i ≠ j) (hk : k < xpSize c.word) : ¬ xposeStores c i (xpDstAt c j + k) := by
  refine not_xposeStores ?_ (scales_apart h hi hj) hk
  rw [xpDstAt_eq c i, xpDstAt_eq c j]
  exact apart_pieces _ _ hne

theorem scale_notStored (hne : i ≠ j) (hf : isMX (xpFMT c.word) = true) (hk : k < 512) : ¬ xposeStores c i (xpDsclAt c j + k) := by
  refine not_xposeStores (apart_symm (scales_apart h hj hi hf)) (fun _ => ?_) hk
  rw [xpDsclAt_eq c i, xpDsclAt_eq c j]
  exact apart_pieces _ _ hne

end

/-! ### What the tiles read and leave (R240) -/

/-- Bytes that are no single word of the tally window read as they stand. -/
theorem memRead_of_ne_four (s : State) (a : Nat) {n : Nat} (h : n ≠ 4) : memRead s a n = Store.getList 0 s.mem a n := by
  have hword : isTallyWord s a n = false := by
    unfold isTallyWord
    split <;> simp [h]
  simp [memRead, hword]

theorem memRead_congr {s t : State} {a n : Nat} (hn : n ≠ 4) (h : ∀ k < n, memByte t (a + k) = memByte s (a + k)) :
    memRead t a n = memRead s a n := by
  rw [memRead_of_ne_four t a hn, memRead_of_ne_four s a hn]
  exact List.map_congr_left fun k hk => h k (List.mem_range.mp hk)

theorem xpSize_ne_four (w : CmdWord) : xpSize w ≠ 4 := by
  have hbits : 4 ≤ fmtBits (xpFMT w) := by
    unfold fmtBits
    split <;> decide
  unfold xpSize fmtBytes ceilDiv'
  omega

/-- A source tile is transposed alike in two states that hold the same bytes of it. -/
theorem transpose_xpTile_congr {s t : State} {c : Cmd} {i : Nat} (axis : Nat)
    (helem : ∀ k < xpSize c.word, memByte t (xpSrcAt c i + k) = memByte s (xpSrcAt c i + k))
    (hscale : isMX (xpFMT c.word) = true → ∀ k < 512, memByte t (xpSsclAt c i + k) = memByte s (xpSsclAt c i + k)) :
    (transposeTile (xpTile t c axis i)).codes = (transposeTile (xpTile s c axis i)).codes ∧
      (transposeTile (xpTile t c axis i)).scales = (transposeTile (xpTile s c axis i)).scales := by
  have hcodes : (xpTile t c axis i).codes = (xpTile s c axis i).codes := by
    have hread : memRead t (xpSrcAt c i) (xpSize c.word) = memRead s (xpSrcAt c i) (xpSize c.word) :=
      memRead_congr (xpSize_ne_four c.word) helem
    unfold xpSize at hread
    simp only [xpTile, readCodes, memNat, hread]
  have hscales : (xpTile t c axis i).scales = (xpTile s c axis i).scales := by
    unfold xpTile
    dsimp only
    split
    next hf => rw [memRead_congr (by decide) (hscale hf)]
    next => rfl
  have hfmt : (xpTile t c axis i).fmt = (xpTile s c axis i).fmt := rfl
  have haxis : (xpTile t c axis i).axis = (xpTile s c axis i).axis := rfl
  exact ⟨by simp only [transposeTile, hcodes], by simp only [transposeTile, hfmt, haxis, hscales]⟩

/-- Tile i stands transposed at its destination, and in the MX formats its scales at theirs. -/
def tileTransposed (s t : State) (c : Cmd) (i : Nat) : Prop :=
  (∀ k < xpSize c.word, memByte t (xpDstAt c i + k) = listGet 0 (packCodes (xpFMT c.word) (xposeOut s c i).codes) k) ∧
  (isMX (xpFMT c.word) = true → ∀ k < 512, memByte t (xpDsclAt c i + k) = BitVec.ofNat 8 (listGet 0 (xposeOut s c i).scales k))

/-- Where the sources stand as they stood, the next tile is stored as its source transposed. -/
theorem tileTransposed_new {s t : State} (ht : t.Sound) {c : Cmd} {i : Nat} (hplain : xpREBLK c.word = false) (h : xposeApart c)
    (hi : i < xpNT c.word) (helem : ∀ k < xpSize c.word, memByte t (xpSrcAt c i + k) = memByte s (xpSrcAt c i + k))
    (hscale : isMX (xpFMT c.word) = true → ∀ k < 512, memByte t (xpSsclAt c i + k) = memByte s (xpSsclAt c i + k)) :
    tileTransposed s (xposeTile t c (sourceAxis s).1 i).1 c i := by
  obtain ⟨hcodes, hscales⟩ := transpose_xpTile_congr (sourceAxis s).1 helem hscale
  refine ⟨fun k hk => ?_, fun hf k hk => ?_⟩
  · have hno : ¬ (isMX (xpFMT c.word) = true ∧ xpDsclAt c i ≤ xpDstAt c i + k ∧ xpDstAt c i + k < xpDsclAt c i + 512) :=
      fun ⟨hf, hin⟩ => apart_offset (scales_apart h hi hi hf) hk hin
    rw [memByte_xposeTile ht, if_neg hno, if_pos ⟨Nat.le_add_right _ k, Nat.add_lt_add_left hk _⟩, xposeOutput_plain hplain, hcodes,
      Nat.add_sub_cancel_left]
    rfl
  · rw [memByte_xposeTile ht, if_pos ⟨hf, Nat.le_add_right _ k, Nat.add_lt_add_left hk _⟩, xposeOutput_plain hplain, hscales,
      Nat.add_sub_cancel_left]
    rfl

/-- A later tile leaves the tiles stored before it. -/
theorem tileTransposed_kept {s t : State} (ht : t.Sound) {c : Cmd} {i j : Nat} (h : xposeApart c) (hi : i < xpNT c.word) (hj : j < xpNT c.word)
    (hne : i ≠ j) (axis : Nat) (hstands : tileTransposed s t c j) : tileTransposed s (xposeTile t c axis i).1 c j := by
  obtain ⟨helem, hscale⟩ := hstands
  refine ⟨fun k hk => ?_, fun hf k hk => ?_⟩
  · exact (memByte_xposeTile_outside ht (element_notStored h hi hj hne hk) axis).trans (helem k hk)
  · exact (memByte_xposeTile_outside ht (scale_notStored h hi hj hne hf hk) axis).trans (hscale hf k hk)

theorem xposeTiles_transposed {s : State} (hs : s.Sound) {c : Cmd} (hplain : xpREBLK c.word = false) (h : xposeApart c) {n : Nat}
    (hn : n ≤ xpNT c.word) : ∀ i < n, tileTransposed s (xposeTiles s c n).1 c i := by
  induction n with
  | zero => exact fun i hi => absurd hi (Nat.not_lt_zero i)
  | succ n ih =>
    have hsound := (xposeTiles_changes s c n).sound hs
    have hsource : ∀ a, (∀ i < xpNT c.word, ¬ xposeStores c i a) → memByte (xposeTiles s c n).1 a = memByte s a := fun a ha =>
      memByte_xposeTiles_outside hs fun i hi => ha i (by omega)
    intro i hi
    rw [xposeTiles_succ]
    rcases Nat.lt_succ_iff_lt_or_eq.mp hi with hbefore | rfl
    · exact tileTransposed_kept hsound h hn (by omega) (by omega) _ (ih (by omega) i hbefore)
    · exact tileTransposed_new hsound hplain h hn (fun k hk => hsource _ fun j hj => source_notStored h hj hn hk)
        (fun hf k hk => hsource _ fun j hj => sourceScale_notStored h hj hn hf hk)

/-! ### XPOSE -/

theorem xpose_of_runCmd {s : State} {u q : Nat} {c : Cmd} (ev : MatEvent) (h : runCmd s u q 0x81 = some c) :
    exec (.xpose u q ev) s = .next (xposeCmd s c ev) := by
  show execXpose u q ev s = _
  simp only [execXpose, h]

section
variable {s : State} {c : Cmd} {ev : MatEvent}

/-- The outcome of a command whose sources are there and clean. -/
theorem xposeCmd_of_clean (hv : xposeVacated s c = none) (hp : xposePoison s c = none) (hev : ∀ h slot, ev ≠ .hawkSlot h slot) :
    xposeCmd s c ev = xposeRun s c := by
  unfold xposeCmd
  rw [hv, hp]
  cases ev with
  | hawkSlot h slot => exact absurd rfl (hev h slot)
  | _ => rfl

theorem xposeCmd_of_slot (hv : xposeVacated s c = none) (hp : xposePoison s c = none) (h slot : Nat) :
    xposeCmd s c (.hawkSlot h slot) = xposeSlotError s c slot := by
  unfold xposeCmd
  rw [hv, hp]

/-- A source that has left memory, or is poisoned, ends the command without its add (R143, R253). -/
theorem xposeCmd_fails (h : (xposeVacated s c).isSome ∨ (xposePoison s c).isSome) (ev : MatEvent) :
    ended (xposeCmd s c ev) c.u c.q c.serial ∧ (xposeCmd s c ev).tallies = s.tallies := by
  unfold xposeCmd
  cases hv : xposeVacated s c with
  | some a => exact failCmd_ends_without_add _ _ _ _ (by decide)
  | none =>
    obtain ⟨a, ha⟩ := Option.isSome_iff_exists.mp (h.resolve_left (by simp [hv]))
    rw [ha]
    exact failCmd_ends_without_add _ _ _ _ (by decide)

/-- What a clean XPOSE leaves: its command ended, its add applied, and outside its completion ring the bytes of its tiles. -/
theorem xposeRun_completes (hs : s.Sound) (hq : queueExists c.u c.q = true) :
    ended (xposeRun s c) c.u c.q c.serial ∧ (∀ k, tallyGet (xposeRun s c) k = addedTally c (tallyGet s) k) ∧
      ∀ a, ¬ inRecords s c.u c.q a → memByte (xposeRun s c) a = memByte (xposeTiles s c (xpNT c.word)).1 a := by
  have htiles := xposeTiles_changes s c (xpNT c.word)
  obtain ⟨hended, hadded, hbytes⟩ := finish_after (c := { c with flags := c.flags ||| (xposeTiles s c (xpNT c.word)).2 }) hq
    (htiles.sound hs) (htiles.same .tallies rfl) (xposeTiles_sameRing hq s _)
  have hcured := reportCured_changes (finishCmd (xposeTiles s c (xpNT c.word)).1
    { c with flags := c.flags ||| (xposeTiles s c (xpNT c.word)).2 } stOK) c
  rw [xposeRun_eq]
  exact ⟨(Settles.of_changes hcured).keep _ _ _ hended, fun k => (tallyGet_congr (hcured.same .tallies rfl) k).trans (hadded k),
    fun a ha => (memByte_of_changes hcured a).trans (hbytes a ha)⟩

/-- The first uncorrectable slot notes the fault for the re-run; nothing is written (R143). -/
theorem xposeSlotError_reruns (hmem : c ∈ s.cmds) (hfirst : c.rerun = false) (slot : Nat) :
    ∃ d, findCmd (xposeSlotError s c slot) c.u c.q c.serial = some d ∧ d.rerun = true ∧ d.word = c.word ∧
      (xposeSlotError s c slot).mem = s.mem := by
  have hreport := curedReport_changes s c 0x1010 (unitOf c.u) (pack3 (xpHAWK c.word) slot 0) none
  have hstays : c ∈ (curedReport s c 0x1010 (unitOf c.u) (pack3 (xpHAWK c.word) slot 0) none).2.cmds := by
    rwa [(hreport.same .commands rfl).1]
  simp only [xposeSlotError, hfirst, Bool.false_eq_true, if_false]
  exact ⟨_, findCmd_putCmd hstays rfl rfl rfl, rfl, rfl, hreport.same .memory rfl⟩

/-- A second one ends the command without its add. -/
theorem xposeSlotError_fails (hsecond : c.rerun = true) (slot : Nat) :
    ended (xposeSlotError s c slot) c.u c.q c.serial ∧ (xposeSlotError s c slot).tallies = s.tallies := by
  simp only [xposeSlotError, hsecond, if_true]
  exact failCmd_ends_without_add _ _ _ _ (by decide)

end

/-- Settles O25: the elements by the rows of the transposed tile, the bytes by the tiles in turn, the faults by their completions. -/
theorem xposeTransposes : Obligations.XposeTransposes := by
  refine ⟨transposeTile_element, ?_, ?_⟩
  · intro s u q c ev hs hq hc hv hp
    have hrun := xpose_of_runCmd ev hc
    obtain ⟨hmem, rfl, rfl, -⟩ := runCmd_spec hc
    obtain ⟨hended, hadded, hbytes⟩ := xposeRun_completes hs hq
    refine ⟨fun hev => ?_, fun hev hplain happart => ?_, fun h slot hev hfirst => ?_, fun h slot hev hsecond => ?_⟩
    · rw [xposeCmd_of_clean hv hp hev] at hrun
      refine ⟨_, hrun, hended, hadded, fun a ha hdst hscl => ?_⟩
      rw [hbytes a ha]
      refine memByte_xposeTiles_outside hs fun i hi hstores => ?_
      rcases xposeStores_within hi hstores with hin | ⟨hmx, hin⟩
      · omega
      · rcases hscl with hplain | hscl
        · exact absurd hmx (by simp [hplain])
        · omega
    · rw [xposeCmd_of_clean hv hp hev] at hrun
      refine ⟨_, hrun, fun i hi => ?_⟩
      obtain ⟨helem, hscale⟩ := xposeTiles_transposed hs hplain happart (Nat.le_refl _) i hi
      exact ⟨fun k hk ha => (hbytes _ ha).trans (helem k hk), fun hmx k hk ha => (hbytes _ ha).trans (hscale hmx k hk)⟩
    · subst hev
      rw [xposeCmd_of_slot hv hp] at hrun
      obtain ⟨d, hd⟩ := xposeSlotError_reruns hmem hfirst slot
      exact ⟨_, d, hrun, hd⟩
    · subst hev
      rw [xposeCmd_of_slot hv hp] at hrun
      exact ⟨_, hrun, xposeSlotError_fails hsecond slot⟩
  · intro s u q c ev hc hfault
    have hrun := xpose_of_runCmd ev hc
    obtain ⟨-, rfl, rfl, -⟩ := runCmd_spec hc
    exact ⟨_, hrun, xposeCmd_fails hfault ev⟩

end Sys2Proof.Machine
end

section
/-! PROOFS. O20: SETVL, the choice of its die's dispatcher, is admitted, writes VL and completes (R164, R199, R215, R230). -/

namespace Sys2Proof.Machine

/-- The row admits the command that is its dispatcher's choice (R215). -/
theorem setvl_dispatches {s : State} {u q : Nat} {c : Cmd} (h : admissionPoint s u q = some c) (hop : c.op = 0x40) (hready : ready s c = true)
    (hchosen : chosen s (dieOf u) (candidates s (dieOf u)) = some c) :
    ∃ x, exec (.setvl u q) s = .next (admitCmd x c) := by
  show ∃ x, execSetvl u q s = .next (admitCmd x c)
  simp only [execSetvl, dispatchDie, h, hop, hready, hchosen, beq_self_eq_true, Bool.and_self, if_true]
  exact ⟨_, rfl⟩

/-- The admission of SETVL ends in its completion, of a state whose VL it has written (R164, R230). -/
theorem admitCmd_setvl (s : State) {c : Cmd} (hop : c.op = 0x40) :
    ∃ x d, admitCmd s c = finishCmd (odBump (qSet x c.u c.q 8 (fld c.word 116 104)) (0x3400 + c.u) 0x01 1) d stOK ∧
      d.u = c.u ∧ d.q = c.q ∧ d.serial = c.serial := by
  simp only [admitCmd, if_pos hop]
  exact ⟨_, _, rfl, rfl, rfl, rfl⟩

/-- A counter below the entries of the queues is none of them. -/
theorem qGet_odBump_below {u q n i sub : Nat} (hq : queueExists u q = true) (hn : n < 16) (hi : i < 0x3600) (hsub : sub < 256) (s : State) (m : Nat) :
    qGet (odBump s i sub m) u q n = qGet s u q n := by
  obtain ⟨hu, hq16⟩ := queueExists_bounds hq
  refine (odBump_keeps s i sub m).get _ _ ⟨?_, ?_⟩
  · unfold odKey queueIndex
    split <;> omega
  · unfold logKey odKey queueIndex
    split <;> omega

/-- A completion leaves VL. -/
theorem qGet_finishCmd_vl {s : State} {c : Cmd} (hq : queueExists c.u c.q = true) : qGet (finishCmd s c stOK) c.u c.q 8 = qGet s c.u c.q 8 :=
  (completeCmd_offCompletion s c stOK 0).qGet hq (by decide) (by decide) (by decide) (by decide)

/-- Settles O20: the dispatcher admits the command, and its admission completes it with VL written; the completion leaves VL. -/
theorem setvlWritesVl : Obligations.SetvlWritesVl := by
  intro s u q c hq h hop hready _ hchosen
  obtain ⟨x, hrun⟩ := setvl_dispatches h hop hready hchosen
  obtain ⟨-, rfl, rfl, -⟩ := admissionPoint_spec h
  obtain ⟨y, d, hadmit, hu, hqd, hserial⟩ := admitCmd_setvl x hop
  rw [hadmit] at hrun
  refine ⟨_, hrun, ?_, ?_⟩
  · rw [← hu, ← hqd, ← hserial]
    exact completeCmd_ends _ d stOK 0
  · obtain ⟨hunit, -⟩ := queueExists_bounds hq
    rw [← hu, ← hqd] at hq ⊢
    rw [qGet_finishCmd_vl hq, qGet_odBump_below hq (by decide) (by omega) (by decide), qGet_qSet]

end Sys2Proof.Machine
end

section
/-! PROOFS. O27: the completion of a vector command, the bytes of its output store joined and written (R186, R187), and what a comparison leaves (R188, R189). -/

namespace Sys2Proof.Machine

/-! ### The completion of a vector command (R193, R202) -/

/-- The statistics of the vector engines lie below the entries of the queues. -/
theorem Cmd.statIndex_lt {c : Cmd} (hq : queueExists c.u c.q = true) : c.statIndex < 0x3600 := by
  obtain ⟨hunit, -⟩ := queueExists_bounds hq
  unfold Cmd.statIndex
  split <;> omega

/-- What stands after the completion of a vector command whose effect led from s to x: it has ended, its add is applied to the tallies of s,
and bytes outside its completion ring are those of x. -/
theorem finishVector_completes {s x : State} {c : Cmd} (hq : queueExists c.u c.q = true) (hx : x.Sound) (ht : x.tallies = s.tallies)
    (hr : SameRing c.u c.q s x) :
    ended (finishVector x c) c.u c.q c.serial ∧ (∀ k, tallyGet (finishVector x c) k = addedTally c (tallyGet s) k) ∧
      ∀ a, ¬ inRecords s c.u c.q a → memByte (finishVector x c) a = memByte x a := by
  have hcount := odBump_changes x c.statIndex 0x01 1
  have hcured := reportCured_changes (finishCmd (odBump x c.statIndex 0x01 1) c stOK) c
  obtain ⟨hended, hadded, hbytes⟩ := finish_after hq (hcount.sound hx) ((hcount.same .tallies rfl).trans ht)
    (hr.trans (.bump x c.statIndex 0x01 1 hq (.inl (Cmd.statIndex_lt hq)) (by decide)))
  exact ⟨(Settles.of_changes hcured).keep _ _ _ hended, fun k => (tallyGet_congr (hcured.same .tallies rfl) k).trans (hadded k),
    fun a ha => (memByte_of_changes hcured a).trans ((hbytes a ha).trans (memByte_of_changes hcount a))⟩

/-- The error completion of a vector command ends it without its add (R188). -/
theorem faultVectorOps_ends_without_add (s : State) (c : Cmd) {st : Nat} (code detail : Nat) (scattered : List (Nat × Nat)) (ops : Option (List Byte))
    (hst : 1 < st) : ended (faultVectorOps s c st code detail scattered ops) c.u c.q c.serial ∧
      (faultVectorOps s c st code detail scattered ops).tallies = s.tallies := by
  have hundefined : Changes [.draws, .memory, .sectors] s (undefine (undefine s (if c.holds then [] else outRanges c)) scattered) :=
    ((undefine_changes _ _).trans (undefine_changes _ _)).mono rfl
  obtain ⟨hended, htallies⟩ := failCmd_ends_without_add
    (odBump (undefine (undefine s (if c.holds then [] else outRanges c)) scattered) c.statIndex c.faultSub 1) { c with held := [] } code
    (cmdReport s c code (unitOf c.u) detail noPeer ops) hst
  exact ⟨hended, htallies.trans (((odBump_changes _ _ _ _).same .tallies rfl).trans (hundefined.same .tallies rfl))⟩

/-! ### The bytes of an output store (R186) -/

/-- Writing the joined ranges leaves what writing the held bytes one by one leaves. -/
theorem putList_joinBytes (l : List (Nat × Byte)) (m : Store Byte) :
    (joinBytes l).foldl (fun m w => Store.putList 0 m w.1 w.2) m = l.foldl (fun m p => Store.put 0 m p.1 p.2) m := by
  induction l generalizing m with
  | nil => rfl
  | cons p r ih =>
    obtain ⟨a, b⟩ := p
    rw [List.foldl_cons, ← ih, joinBytes]
    cases joinBytes r with
    | nil => rfl
    | cons w t =>
      obtain ⟨x, d⟩ := w
      dsimp only
      split
      next h =>
        subst h
        rfl
      next => rfl

theorem lastByte_cons (p : Nat × Byte) (l : List (Nat × Byte)) (a : Nat) (b : Byte) :
    lastByte (p :: l) a b = lastByte l a (if p.1 = a then p.2 else b) := rfl

/-- What a byte reads after single writes in their order. -/
theorem get_foldl_put (l : List (Nat × Byte)) {m : Store Byte} (h : Store.wf 0 m = true) (a : Nat) :
    Store.get 0 (l.foldl (fun m p => Store.put 0 m p.1 p.2) m) a = lastByte l a (Store.get 0 m a) := by
  induction l generalizing m with
  | nil => rfl
  | cons p r ih =>
    rw [List.foldl_cons, ih (Store.put_wf h), lastByte_cons]
    congr 1
    split
    next hp => rw [← hp, Store.get_put h]
    next hp => rw [Store.get_put_of_ne h (Ne.symm hp)]

/-- The state with the bytes of an output store written. -/
def heldWritten (s : State) (l : List (Nat × Byte)) : State := (joinBytes l).foldl (fun s w => memWrite s w.1 w.2) s

theorem heldWritten_changes (s : State) (l : List (Nat × Byte)) : Changes [.memory, .sectors] s (heldWritten s l) :=
  .foldl _ .refl fun _ _ => memWrite_changes _ _ _

theorem memByte_heldWritten {s : State} (h : s.Sound) (l : List (Nat × Byte)) (a : Nat) :
    memByte (heldWritten s l) a = lastByte l a (memByte s a) := by
  have hmem : (heldWritten s l).mem = (joinBytes l).foldl (fun m w => Store.putList 0 m w.1 w.2) s.mem :=
    (List.foldl_hom State.mem fun s w => (memWrite_mem s w.1 w.2).symm).symm
  unfold memByte
  rw [hmem, putList_joinBytes, get_foldl_put l h.memory]

/-! ### WRITE_BACK (R186, R187) -/

/-- Held outputs that meet neither a sealed nor a vacated place, nor a line of the host, are written, and the command completes. -/
theorem writeBack_of_clear {s : State} {c : Cmd} (hsealed : (joinBytes c.held).find? (fun w => sealedRange s w.1 w.2.length) = none)
    (hthere : c.isSweepCmd = true → sweepVacated s c = none) (hfilter : s.biFilter = []) (hheld : s.biHeld = []) :
    writeBack s c = finishVector (heldWritten s c.held) { c with held := [] } := by
  have hvacated : (if c.isSweepCmd then sweepVacated s c else none) = none := by
    split
    next h => exact hthere h
    next => rfl
  simp only [writeBack, firstSealed, hsealed, hvacated, Option.map_none, localWrite, hfilter, hheld]
  rfl

theorem writeBack_completes (s : State) (u q : Nat) (c : Cmd) (hs : s.Sound) (hq : queueExists u q = true)
    (h : (qCmds s u q).find? (fun c => c.group.vector && c.stage == .held) = some c)
    (hsealed : (joinBytes c.held).find? (fun w => sealedRange s w.1 w.2.length) = none)
    (hthere : c.isSweepCmd = true → sweepVacated s c = none) (hfilter : s.biFilter = []) (hheld : s.biHeld = []) :
    ∃ t, exec (.writeBack u q) s = .next t ∧ ended t u q c.serial ∧ (∀ k, tallyGet t k = addedTally c (tallyGet s) k) ∧
      ∀ a, ¬ inRecords s u q a → memByte t a = lastByte c.held a (memByte s a) := by
  have hrun : exec (.writeBack u q) s = .next (writeBack s c) := by
    show execWriteBack u q s = _
    simp only [execWriteBack, h]
  obtain ⟨-, rfl, rfl, -⟩ := find_qCmds h
  have hwritten := heldWritten_changes s c.held
  obtain ⟨hended, hadded, hbytes⟩ := finishVector_completes (c := { c with held := [] }) hq (hwritten.sound hs) (hwritten.same .tallies rfl)
    (.of_changes hwritten)
  rw [writeBack_of_clear hsealed hthere hfilter hheld] at hrun
  exact ⟨_, hrun, hended, hadded, fun a ha => (hbytes a ha).trans (memByte_heldWritten hs c.held a)⟩

/-! ### DUAL_COMPARE (R188, R189) -/

theorem dualCompare_of_parked {s : State} {u q : Nat} {c : Cmd} (h : vecCmd s u q .parked true = some c) (mismatch : Option Nat) :
    exec (.dualCompare u q mismatch) s = .next (mismatch.elim (putCmd s { c with stage := .held }) (dualMismatch s c)) := by
  show execDualCompare u q mismatch s = _
  simp only [execDualCompare, h]
  cases mismatch <;> rfl

/-- A second mismatch, and any of a command with a scatter stage, is the command's error completion, once it has been noted. -/
theorem dualMismatch_faults (s : State) {c : Cmd} (h : c.mismatched = true ∨ chainHas c.desc 8 = true) (e : Nat) :
    ∃ x code detail scattered ops, dualMismatch s c e = faultVectorOps x c stFAULT code detail scattered ops ∧ x.tallies = s.tallies := by
  have hnoted : (odBump (captureDual (snagSet s 128) c e) c.statIndex 0x05 1).tallies = s.tallies :=
    ((odBump_changes _ _ _ _).same .tallies rfl).trans
      (((captureDual_changes _ _ _).same .tallies rfl).trans ((snagSet_changes _ _).same .tallies rfl))
  unfold dualMismatch
  dsimp only
  split
  next => exact ⟨_, _, _, _, _, rfl, ((freshNat_changes _ _ _).same .tallies rfl).trans hnoted⟩
  next hscatter =>
    rw [if_pos (h.resolve_right hscatter)]
    exact ⟨_, _, _, _, _, rfl, hnoted⟩

theorem dualMismatch_ends_without_add (s : State) {c : Cmd} (h : c.mismatched = true ∨ chainHas c.desc 8 = true) (e : Nat) :
    ended (dualMismatch s c e) c.u c.q c.serial ∧ (dualMismatch s c e).tallies = s.tallies := by
  obtain ⟨x, code, detail, scattered, ops, hfault, htallies⟩ := dualMismatch_faults s h e
  obtain ⟨hended, hkept⟩ := faultVectorOps_ends_without_add x c (st := stFAULT) code detail scattered ops (by decide)
  rw [hfault]
  exact ⟨hended, hkept.trans htallies⟩

theorem dualCompare_spec (s : State) (u q : Nat) (c : Cmd) (h : vecCmd s u q .parked true = some c) :
    (∃ t, exec (.dualCompare u q none) s = .next t ∧ findCmd t u q c.serial = some { c with stage := .held } ∧ t.mem = s.mem) ∧
    (∀ e, c.mismatched = true ∨ chainHas c.desc 8 = true →
      ∃ t, exec (.dualCompare u q (some e)) s = .next t ∧ ended t u q c.serial ∧ t.tallies = s.tallies) := by
  have hrun := dualCompare_of_parked h
  obtain ⟨hmem, rfl, rfl, -⟩ := vecCmd_spec h
  exact ⟨⟨_, hrun none, findCmd_putCmd hmem rfl rfl rfl, rfl⟩, fun e he => ⟨_, hrun (some e), dualMismatch_ends_without_add s he e⟩⟩

/-- Settles O27: the write-back by the held bytes in their order and the completion after them, the comparison by what it answers. -/
theorem heldOutputsAreWritten : Obligations.HeldOutputsAreWritten := ⟨writeBack_completes, dualCompare_spec⟩

end Sys2Proof.Machine
end

section
/-! PROOFS. What a sector is read as, by the state it rests on (R258, R259, R265); and where nothing is poisoned, lost or sealed, that it stays
so through writes. -/

namespace Sys2Proof.Machine

/-! ### Sectors that read alike in two states -/

/-- The marks of the sectors, the interleave table and the state of every stack are the same in both states. -/
structure SameSectors (s t : State) : Prop where
  sectors : Kind.sectors.same s t
  table : Kind.stacks.same s t
  states : ∀ st < 24, stackState t st = stackState s st

theorem SameSectors.of_changes {K : List Kind} {s t : State} (h : Changes K s t) (hsectors : K.contains .sectors = false := by rfl)
    (hstacks : K.contains .stacks = false := by rfl) (hod : K.contains .od = false := by rfl) : SameSectors s t :=
  ⟨h.same .sectors hsectors, h.same .stacks hstacks, fun st _ => by simp only [stackState, odGet, show t.od = s.od from h.same .od hod]⟩

/-- A counter that is the state of no stack leaves every sector. -/
theorem SameSectors.bump (s : State) {i sub : Nat} (n : Nat) (hsub : sub < 256) (h : sub ≠ 0x01) : SameSectors s (odBump s i sub n) := by
  have hcount := odBump_changes s i sub n
  refine ⟨hcount.same .sectors rfl, hcount.same .stacks rfl, fun st hst => (odBump_keeps s i sub n).get _ _ ⟨?_, ?_⟩⟩
  · exact odKey_ne (by decide) hsub (.inr h.symm)
  · exact not_logKey (by omega) (by decide)

section
variable {s t : State} (h : SameSectors s t)
include h

theorem stackSealed_congr {st : Nat} (hst : st < 24) : stackSealed t st = stackSealed s st := by
  obtain ⟨-, -, hretires, -⟩ := h.table
  simp only [stackSealed, h.states st hst, hretires]

theorem anySealed_congr : anySealed t = anySealed s := by
  unfold anySealed
  rw [Bool.eq_iff_iff, List.any_eq_true, List.any_eq_true]
  exact exists_congr fun st => and_congr_right fun hst => by rw [stackSealed_congr h (List.mem_range.mp hst)]

theorem rowDone_congr (j : Nat) : rowDone t j = rowDone s j := by
  obtain ⟨hslots, hrow, -⟩ := h.table
  simp only [rowDone, pendingSlot, hslots, hrow]

theorem placeOf_congr (j e w : Nat) : placeOf t j e w = placeOf s j e w := by
  have hentry : slotEntry t j = slotEntry s j := by
    obtain ⟨hslots, -⟩ := h.table
    simp only [slotEntry, hslots]
  unfold placeOf slotMst
  rw [hentry, rowDone_congr h]

theorem translate_congr (a : Nat) : translate t a = translate s a := by
  simp only [translate, placeOf_congr h]

theorem sealedAt_congr (a : Nat) : sealedAt t a = sealedAt s a := by
  have hstack : (translate s a).stack < 24 := Nat.mod_lt _ (by decide)
  simp only [sealedAt, anySealed_congr h, translate_congr h, stackSealed_congr h hstack]

theorem sectorBad_congr (sec : Nat) : sectorBad t sec = sectorBad s sec := by
  obtain ⟨hpoison, hlost, hcleaned, -⟩ := h.sectors
  simp only [sectorBad, sectorMarked, sectorLost, sealedAt_congr h, translate_congr h, hpoison, hlost, hcleaned]

theorem allClean_congr : allClean t = allClean s := by
  obtain ⟨hpoison, hlost, -⟩ := h.sectors
  simp only [allClean, anySealed_congr h, hpoison, hlost]

theorem lowestBad_congr (a n : Nat) : lowestBad t a n = lowestBad s a n := by
  simp only [lowestBad, badSectors, allClean_congr h, funext (sectorBad_congr h)]

theorem vectorPoison_congr (c : Cmd) : vectorPoison t c = vectorPoison s c := by
  simp only [vectorPoison, allClean_congr h, lowestBad_congr h]

end

/-! ### Clean memory -/

theorem lowestBad_of_allClean {s : State} (h : allClean s = true) (a n : Nat) : lowestBad s a n = none := by
  simp [lowestBad, badSectors, h]

/-- A write of clean data to clean memory marks nothing (R259). -/
theorem memWrite_of_allClean {s : State} (h : allClean s = true) (a : Nat) (d : List Byte) :
    memWrite s a d = { s with mem := Store.putList 0 s.mem a d } := by
  simp only [allClean, Bool.and_eq_true] at h
  simp [memWrite, memWriteBad, markWrite, h]

theorem allClean_memWrite {s : State} (h : allClean s = true) (a : Nat) (d : List Byte) : allClean (memWrite s a d) = true := by
  rw [memWrite_of_allClean h]
  exact h

end Sys2Proof.Machine
end

section
/-! PROOFS. O26: an execution of a vector command meets neither poison nor an address outside the scratch where none stands in its way, and what
an execution leaves (R162, R180, R186 to R189, R251, R253). -/

namespace Sys2Proof.Machine

/-! ### Steps of a run that meet no fault -/

/-- From v to w a run meets no poison and no address outside the scratch; the dictionary stays, and memory stays clean. -/
structure Spares (v w : VRun) : Prop where
  poison : w.poison = v.poison
  beyond : w.beyond = v.beyond
  od : w.st.od = v.st.od
  clean : allClean v.st = true → allClean w.st = true

theorem Spares.refl (v : VRun) : Spares v v := ⟨rfl, rfl, rfl, id⟩

theorem Spares.trans {v w x : VRun} (h : Spares v w) (g : Spares w x) : Spares v x :=
  ⟨g.poison.trans h.poison, g.beyond.trans h.beyond, g.od.trans h.od, g.clean ∘ h.clean⟩

/-- A step that at most draws from the streams spares a run. -/
theorem Spares.of_streams {v w : VRun} (h : Changes [.streams] v.st w.st) (hpoison : w.poison = v.poison := by rfl)
    (hbeyond : w.beyond = v.beyond := by rfl) : Spares v w :=
  ⟨hpoison, hbeyond, h.same .od rfl, fun hc => (allClean_congr (.of_changes h)).trans hc⟩

/-- So does a write. -/
theorem Spares.of_write {v w : VRun} {a : Nat} {d : List Byte} (h : w.st = memWrite v.st a d) (hpoison : w.poison = v.poison := by rfl)
    (hbeyond : w.beyond = v.beyond := by rfl) : Spares v w :=
  ⟨hpoison, hbeyond, h ▸ (memWrite_changes v.st a d).same .od rfl, fun hc => h ▸ allClean_memWrite hc a d⟩

/-- Steps that each spare the run, in turn; β carries the run with its outputs or results. -/
theorem Spares.foldl {α β : Type} {run : β → VRun} {f : β → α → β} {l : List α} {v : VRun} {b : β} (hb : Spares v (run b))
    (hf : ∀ y, Spares v (run y) → ∀ a ∈ l, Spares (run y) (run (f y a))) : Spares v (run (l.foldl f b)) :=
  List.foldlRecOn (motive := fun y => Spares v (run y)) l f hb fun y hy a ha => hy.trans (hf y hy a ha)

theorem markStart_spares (c : Cmd) (v : VRun) : Spares v (markStart c v) := by
  unfold markStart
  split
  · exact .of_streams .refl
  · exact .refl v

theorem groupInputs_spares (c : Cmd) (g : Grp) (v : VRun) : Spares v (groupInputs c g v).2 :=
  .foldl (run := Prod.snd) (.refl v) fun _ _ _ _ => .of_streams .refl

/-! ### Outputs (R170, R171) -/

theorem putOut_spares (l : List (Nat × List Byte)) (x : VOut × VRun) : Spares x.2 (putOut l x).2 := by
  unfold putOut
  split
  · exact .refl x.2
  · exact .foldl (run := fun s => { x.2 with st := s }) (.refl x.2) fun _ _ _ _ => .of_write rfl

theorem Spares.putOut {v : VRun} {x : VOut × VRun} (h : Spares v x.2) (l : List (Nat × List Byte)) : Spares v (putOut l x).2 :=
  h.trans (putOut_spares l x)

theorem elementStore_spares (c : Cmd) (g : Grp) (ins res : List (List Nat)) (w : Nat) (x : VOut × VRun) :
    Spares x.2 (elementStore c g ins res w x).2 := by
  refine .foldl (run := Prod.snd) (.refl x.2) fun y _ u _ => ?_
  dsimp only
  split
  · exact .refl y.2
  · exact Spares.putOut (.of_streams (convertLanes_changes c (swFMT w) (swRM w) (swSAT w) _ _ _)) _

theorem putSum_spares (c : Cmd) (w at0 : Nat) (vs : List Nat) (x : VOut × VRun) : Spares x.2 (putSum c w at0 vs x).2 := by
  unfold putSum
  split
  · exact .refl x.2
  · exact putOut_spares _ x

theorem Spares.putSum {v : VRun} {x : VOut × VRun} (h : Spares v x.2) (c : Cmd) (w at0 : Nat) (vs : List Nat) : Spares v (putSum c w at0 vs x).2 :=
  h.trans (putSum_spares c w at0 vs x)

theorem groupOutput_spares (c : Cmd) (g : Grp) (ins res : List (List Nat)) (j : Nat) (x : VOut × VRun) :
    Spares x.2 (groupOutput c g ins res j x).2 := by
  unfold groupOutput
  dsimp only
  split
  · exact elementStore_spares c g ins res _ x
  · refine Spares.putSum ?_ c _ _ _
    exact .of_streams .refl
  · split
    · exact .refl x.2
    · refine Spares.putSum ?_ c _ _ _
      exact .of_streams .refl
  · exact .refl x.2

theorem rowBlock_spares (c : Cmd) (r j : Nat) (x : VOut × VRun) : Spares x.2 (rowBlock c r j x).2 := by
  unfold rowBlock
  dsimp only
  split
  · exact Spares.putOut (.of_streams (convertLanes_changes c (swFMT (chOut c.desc j)) (swRM (chOut c.desc j)) (swSAT (chOut c.desc j)) _ _ _)) _
  · exact .refl x.2

theorem rowOutput_spares (c : Cmd) (r : Nat) (reds : List Nat) (j : Nat) (x : VOut × VRun) : Spares x.2 (rowOutput c r reds j x).2 := by
  unfold rowOutput
  dsimp only
  split
  · split
    · refine Spares.trans ?_ (rowBlock_spares c r j _)
      exact .refl x.2
    · exact Spares.putOut (.of_streams (convertLanes_changes c (swFMT (chOut c.desc j)) (swRM (chOut c.desc j)) (swSAT (chOut c.desc j)) _ _ _)) _
  · split
    · refine Spares.putSum ?_ c _ _ _
      exact .of_streams .refl
    · exact .refl x.2
  · exact .refl x.2

/-! ### Gather and scatter stages (R180, R251) -/

/-- Nothing stands in the way of a run: it has met no fault, its gathers and scatters find clean memory, and their places are there. -/
structure Unhindered (c : Cmd) (v : VRun) : Prop where
  poison : v.poison = none
  beyond : v.beyond = none
  clean : chainHas c.desc 7 = true ∨ chainHas c.desc 8 = true → allClean v.st = true
  places : placesThere v.st c

theorem placesThere_congr {s t : State} (h : ∀ k, positionServed t k = positionServed s k) {c : Cmd} (hs : placesThere s c) : placesThere t c := by
  intro k hk w hw
  rw [h]
  exact hs k hk hw

theorem positionServed_congr {s t : State} (h : t.od = s.od) (k : Nat) : positionServed t k = positionServed s k := by
  simp only [positionServed, servedBy, odGet, h]

theorem Unhindered.spared {c : Cmd} {v w : VRun} (h : Unhindered c v) (g : Spares v w) : Unhindered c w :=
  ⟨g.poison.trans h.poison, g.beyond.trans h.beyond, fun hc => g.clean (h.clean hc), placesThere_congr (positionServed_congr g.od) h.places⟩

/-- The place of a lane is that of an index below the bound. -/
theorem lanePlace_below {w a bound off : Nat} (h : lanePlace w a bound = some off) :
    ∃ t : Nat, Val.lt (intVal t) (v32 bound) = true ∧ off = sgADDR w + t * (fmtBits (sgFMT w) / 8) := by
  unfold lanePlace at h
  split at h
  next t _ =>
    split at h
    next => cases h
    next hin =>
      simp only [Bool.or_eq_true, Bool.not_eq_true', not_or, Bool.not_eq_false] at hin
      exact ⟨t, hin.2, (Option.some.inj h).symm⟩
  next => cases h

/-- A selector of a chain constant. -/
theorem selValue_const {d : Nat} {g : Grp} {ins res : List (List Nat)} {x : Nat} (i : Nat) (hlo : 0x10 ≤ x) (hhi : x < 0x20) :
    selValue d g ins res x i = chConst d (x - 0x10) := by
  unfold selValue
  rw [if_neg (by omega), if_neg (by omega), if_pos ⟨hlo, hhi⟩]

section
variable {c : Cmd} {v : VRun} {k : Nat} (h : Unhindered c v) (hk : k < chNSTG c.desc)
  (hkind : sgKIND (chStage c.desc k) = 7 ∨ sgKIND (chStage c.desc k) = 8)
include h hk hkind

/-- An index below the bound of a gather or scatter stage has its place in the scratch of a served position. -/
theorem Unhindered.placeThere_of_lanePlace {g : Grp} {ins res : List (List Nat)} {i a off : Nat}
    (hplace : lanePlace (chStage c.desc k) a (selValue c.desc g ins res (stageBound (chStage c.desc k)) i) = some off) :
    placeThere v.st (c.stageCore (chStage c.desc k)) (chStage c.desc k) off = true := by
  obtain ⟨hserved, hlo, hhi, hinside⟩ := h.places k hk hkind
  rw [selValue_const i hlo hhi] at hplace
  obtain ⟨t, hbelow, rfl⟩ := lanePlace_below hplace
  simp only [placeThere, hserved, Bool.true_and, decide_eq_true_eq]
  exact hinside t hbelow

/-- A chain with such a stage runs on clean memory. -/
theorem Unhindered.allClean_of_stage : allClean v.st = true :=
  h.clean (hkind.imp (fun h7 => List.any_eq_true.mpr ⟨k, List.mem_range.mpr hk, by simp [h7]⟩)
    fun h8 => List.any_eq_true.mpr ⟨k, List.mem_range.mpr hk, by simp [h8]⟩)

end

theorem minOpt_none (a : Option Nat) : minOpt a none = a := by cases a <;> rfl

theorem minOpt_eq_none {a b : Option Nat} (h : minOpt a b = none) : a = none ∧ b = none := by
  cases a with
  | none => exact ⟨rfl, h⟩
  | some x => cases b <;> cases h

theorem gatherLane_spares {k w a b : Nat} {x : List Nat × VRun} (hclean : allClean x.2.st = true)
    (hplace : ∀ off, lanePlace w a b = some off → placeThere x.2.st k w off = true) : Spares x.2 (gatherLane k w a b x).2 := by
  unfold gatherLane
  split
  next off hoff =>
    simp only [hplace off hoff, Bool.not_true, Bool.false_eq_true, if_false, lowestBad_of_allClean hclean, minOpt_none]
    exact .refl x.2
  next => exact .of_streams .refl

theorem scatterLane_spares {c : Cmd} {k w lane a b bound : Nat} {x : VRun} (hclean : allClean x.st = true)
    (hplace : ∀ off, lanePlace w b bound = some off → placeThere x.st k w off = true) : Spares x (scatterLane c k w lane a b bound x) := by
  unfold scatterLane
  split
  next off hoff =>
    simp only [hplace off hoff, Bool.not_true, Bool.false_eq_true, if_false, lowestBad_of_allClean hclean, minOpt_none]
    split
    · exact .of_write rfl
    · have hdrawn : Spares x { x with st := (convertLanes c (sgFMT w) (sgRM w) (sgSAT w) lane [a] x.st).2 } :=
        .of_streams (convertLanes_changes c (sgFMT w) (sgRM w) (sgSAT w) _ _ _)
      exact hdrawn.trans (.of_write rfl)
  next => exact .of_streams .refl

/-! ### A run -/

theorem runStage_spares {c : Cmd} {k : Nat} {v : VRun} (h : Unhindered c v) (hk : k < chNSTG c.desc) (g : Grp) (ins res : List (List Nat)) :
    Spares v (runStage c k g ins res v).2 := by
  unfold runStage
  dsimp only
  split
  case h_4 => exact .of_streams (convertLanes_changes c (sgFMT (chStage c.desc k)) (sgRM (chStage c.desc k)) (sgSAT (chStage c.desc k)) _ _ _)
  case h_6 h7 =>
    have hbound : sgB (chStage c.desc k) = stageBound (chStage c.desc k) := by simp [stageBound, h7]
    refine .foldl (run := Prod.snd) (.refl v) fun y hy i _ => ?_
    have hy := h.spared hy
    rw [hbound]
    exact gatherLane_spares (hy.allClean_of_stage hk (.inl h7)) fun off hoff => hy.placeThere_of_lanePlace hk (.inl h7) hoff
  case h_7 h8 =>
    have hbound : sgC (chStage c.desc k) = stageBound (chStage c.desc k) := by simp [stageBound, h8]
    refine .foldl (run := id) (.refl v) fun y hy i _ => ?_
    have hy := h.spared hy
    rw [hbound]
    exact scatterLane_spares (hy.allClean_of_stage hk (.inr h8)) fun off hoff => hy.placeThere_of_lanePlace hk (.inr h8) hoff
  all_goals exact .of_streams .refl

theorem runStages_spares {c : Cmd} {v : VRun} (h : Unhindered c v) (g : Grp) (ins : List (List Nat)) : Spares v (runStages c g ins v).2 :=
  .foldl (run := Prod.snd) (.refl v) fun _ hy _ hk => runStage_spares (h.spared hy) (List.mem_range.mp hk) g ins _

theorem runRow_spares {c : Cmd} {x : VOut × VRun} (h : Unhindered c x.2) (r : Nat) : Spares x.2 (runRow c r x).2 := by
  unfold runRow
  dsimp only
  generalize hrun : List.foldl _ _ (rowGroups c r) = a
  have hgroups : Spares x.2 a.2.2 := by
    rw [← hrun]
    refine .foldl (run := fun y : List (List Nat) × VOut × VRun => y.2.2) (.refl x.2) fun y hy g _ => ?_
    have hread := (markStart_spares c y.2.2).trans (groupInputs_spares c g (markStart c y.2.2))
    exact .foldl (run := Prod.snd) (hread.trans (runStages_spares (h.spared (hy.trans hread)) g _)) fun _ _ _ _ => groupOutput_spares _ _ _ _ _ _
  exact .foldl (run := Prod.snd) (hgroups.trans (.of_streams .refl)) fun _ _ _ _ => rowOutput_spares _ _ _ _ _

/-! ### What an execution leaves (R186 to R189) -/

/-- An execution from s meets neither poison nor an address outside the scratch. -/
structure MeetsNoFault (s : State) (c : Cmd) : Prop where
  inputs : vectorPoison s c = none
  poison : (runVector s c).2.poison = none
  beyond : (runVector s c).2.beyond = none

/-- Of an execution from s the command holds in t the outputs, for the write-back or for the comparison, and the flags. -/
def holdsOutputs (s t : State) (c : Cmd) : Prop :=
  ∃ d, findCmd t c.u c.q c.serial = some d ∧ d.stage = (if c.dual then .parked else .held) ∧ d.held = heldBytes (runVector s c).1 ∧
    d.flags = (runVector s c).2.fl

/-- An execution with nothing in its way meets no fault (R180, R251). -/
theorem meetsNoFault_of_unhindered {s : State} {c : Cmd} (hinputs : vectorPoison s c = none)
    (hclean : chainHas c.desc 7 = true ∨ chainHas c.desc 8 = true → allClean s = true) (hplaces : placesThere s c) : MeetsNoFault s c := by
  have hstart : Unhindered c ⟨s, 0, [], none, none, []⟩ := ⟨rfl, rfl, hclean, hplaces⟩
  have hrun : Spares ⟨s, 0, [], none, none, []⟩ (runVector s c).2 := by
    unfold runVector
    exact .foldl (run := Prod.snd) (.refl _) fun _ hy r _ => runRow_spares (hstart.spared hy) r
  exact ⟨hinputs, hrun.poison, hrun.beyond⟩

/-- The groups that ran are counted. -/
theorem countWork_run_changes (s : State) (c : Cmd) : Changes [.draws, .od, .memory, .sectors, .streams, .recorder, .access, .output] s
    (countWork (runVector s c).2.st c) :=
  ((runVector_changes s c).mono rfl).trans ((countWork_changes _ c).mono rfl)

section
variable {s : State} {c : Cmd} {ev : LaneEvent}

theorem executeVector_of_clear (h : MeetsNoFault s c) (hev : ev.times = 0) : executeVector s c ev = vectorDone c (runVector s c) := by
  simp only [executeVector, h.inputs, h.poison, h.beyond, hev, minOpt, if_true]

/-- Poison, or an index whose address lies outside the scratch, is the command's error completion (R188, R253). -/
theorem executeVector_of_fault (h : (vectorPoison s c).isSome ∨ (runVector s c).2.poison.isSome ∨ (runVector s c).2.beyond.isSome) :
    ∃ st code a, 1 < st ∧ executeVector s c ev =
      faultVector (countWork (runVector s c).2.st c) { c with flags := (runVector s c).2.fl } st code a (runVector s c).2.scattered := by
  unfold executeVector
  dsimp only
  split
  next a _ => exact ⟨stPOISON, 0x3003, a, by decide, rfl⟩
  next a _ _ => exact ⟨stFAULT, 0x4001, a, by decide, rfl⟩
  next hpoison hbeyond =>
    obtain ⟨hinputs, hgathered⟩ := minOpt_eq_none hpoison
    simp [hinputs, hgathered, hbeyond] at h

theorem executeVector_fails (h : (vectorPoison s c).isSome ∨ (runVector s c).2.poison.isSome ∨ (runVector s c).2.beyond.isSome) :
    ended (executeVector s c ev) c.u c.q c.serial ∧ (executeVector s c ev).tallies = s.tallies := by
  obtain ⟨st, code, a, hst, hfault⟩ := executeVector_of_fault h
  obtain ⟨hended, htallies⟩ := faultVectorOps_ends_without_add (countWork (runVector s c).2.st c)
    { c with flags := (runVector s c).2.fl } code a (runVector s c).2.scattered none hst
  rw [hfault]
  exact ⟨hended, htallies.trans ((countWork_run_changes s c).same .tallies rfl)⟩

/-- A command with an output store holds its outputs (R186, R187, R189). -/
theorem executeVector_holds (h : MeetsNoFault s c) (hev : ev.times = 0) (hmem : c ∈ s.cmds) (hholds : c.holds = true) :
    holdsOutputs s (executeVector s c ev) c := by
  have hstays : c ∈ (countWork (runVector s c).2.st c).cmds := by
    rwa [((countWork_run_changes s c).same .commands rfl).1]
  simp only [executeVector_of_clear h hev, vectorDone, hholds, if_true]
  exact ⟨_, findCmd_putCmd hstays rfl rfl rfl, rfl, rfl, rfl⟩

/-- A command without one has ended and made its add. -/
theorem executeVector_completes (h : MeetsNoFault s c) (hev : ev.times = 0) (hs : s.Sound) (hq : queueExists c.u c.q = true)
    (hholds : c.holds = false) :
    ended (executeVector s c ev) c.u c.q c.serial ∧ ∀ k, tallyGet (executeVector s c ev) k = addedTally c (tallyGet s) k := by
  have hwork := countWork_run_changes s c
  have hring : SameRing c.u c.q s (countWork (runVector s c).2.st c) :=
    (SameRing.of_changes (runVector_changes s c)).trans (.bump _ _ _ _ hq (.inl (Cmd.statIndex_lt hq)) (by decide))
  obtain ⟨hended, hadded, -⟩ := finishVector_completes
    (c := { c with flags := (runVector s c).2.fl, scattered := (runVector s c).2.scattered, run := { (c.run) with streams := (runVector s c).2.starts } })
    hq (hwork.sound hs) (hwork.same .tallies rfl) hring
  simp only [executeVector_of_clear h hev, vectorDone, hholds, Bool.false_eq_true, if_false]
  exact ⟨hended, hadded⟩

end

/-! ### The count of a dual execution (R193) -/

/-- The state in which a sweep executes: a dual execution has been counted. -/
def dualCounted (s : State) (c : Cmd) : State := if c.dual then odBump s c.statIndex 0x04 1 else s

theorem dualCounted_changes (s : State) (c : Cmd) : Changes [.draws, .od, .recorder, .access, .output] s (dualCounted s c) := by
  unfold dualCounted
  split
  · exact odBump_changes _ _ _ _
  · exact .refl

theorem dualCounted_sameSectors (s : State) (c : Cmd) : SameSectors s (dualCounted s c) := by
  unfold dualCounted
  split
  · exact .bump s 1 (by decide) (by decide)
  · exact .of_changes (K := []) .refl

/-- The count is not the entry that says who serves a position. -/
theorem positionServed_dualCounted (s : State) (c : Cmd) (k : Nat) : positionServed (dualCounted s c) k = positionServed s k := by
  unfold dualCounted
  split
  next =>
    unfold positionServed
    cases hcore : isCore k with
    | false => rfl
    | true =>
      have hk : k < 128 := by
        simp only [isCore, Bool.and_eq_true, decide_eq_true_eq] at hcore
        exact hcore.1
      have hserved : servedBy (odBump s c.statIndex 0x04 1) k = servedBy s k :=
        (odBump_keeps s c.statIndex 0x04 1).get _ _ ⟨odKey_ne (by decide) (by decide) (.inr (by decide)), not_logKey (by omega) (by decide)⟩
      rw [hserved]
  next => rfl

/-- A dual execution that nothing hinders before its count meets no fault after it. -/
theorem dualCounted_meetsNoFault {s : State} {c : Cmd} (hinputs : vectorPoison s c = none)
    (hclean : chainHas c.desc 7 = true ∨ chainHas c.desc 8 = true → allClean s = true) (hplaces : placesThere s c) :
    MeetsNoFault (dualCounted s c) c :=
  have hsectors := dualCounted_sameSectors s c
  meetsNoFault_of_unhindered ((vectorPoison_congr hsectors c).trans hinputs) (fun hkinds => (allClean_congr hsectors).trans (hclean hkinds))
    (placesThere_congr (positionServed_dualCounted s c) hplaces)

/-! ### SKIM and SWEEP (R162, R231, R232) -/

section
variable {s : State} {u q : Nat} {c : Cmd} {ev : LaneEvent}

theorem skim_of_vecCmd (h : vecCmd s u q .admitted false = some c) : exec (.skim u q ev) s = .next (executeVector s c ev) := by
  show execSkim u q ev s = _
  simp only [execSkim, h]

theorem sweep_of_vecCmd (h : vecCmd s u q .admitted true = some c) (hthere : sweepVacated s c = none) :
    exec (.sweep u q ev) s = .next (executeVector (dualCounted s c) c ev) := by
  show execSweep u q ev s = _
  simp only [execSweep, h, hthere, dualCounted]

/-- A skim that meets no fault holds its outputs, or has ended. -/
theorem skim_of_clear (h : vecCmd s u q .admitted false = some c) (hs : s.Sound) (hq : queueExists u q = true) (hclear : MeetsNoFault s c)
    (hev : ev.times = 0) :
    (c.holds = true → ∃ t d, exec (.skim u q ev) s = .next t ∧ findCmd t u q c.serial = some d ∧
      d.stage = (if c.dual then .parked else .held) ∧ d.held = heldBytes (runVector s c).1 ∧ d.flags = (runVector s c).2.fl) ∧
    (c.holds = false → ∃ t, exec (.skim u q ev) s = .next t ∧ ended t u q c.serial ∧ ∀ k, tallyGet t k = addedTally c (tallyGet s) k) := by
  obtain ⟨hmem, rfl, rfl, -⟩ := vecCmd_spec h
  refine ⟨fun hholds => ?_, fun hstored => ⟨_, skim_of_vecCmd h, executeVector_completes hclear hev hs hq hstored⟩⟩
  obtain ⟨d, hd⟩ := executeVector_holds hclear hev hmem hholds
  exact ⟨_, d, skim_of_vecCmd h, hd⟩

/-- A sweep that meets no fault holds its outputs. -/
theorem sweep_of_clear (h : vecCmd s u q .admitted true = some c) (hthere : sweepVacated s c = none) (hclear : MeetsNoFault (dualCounted s c) c)
    (hev : ev.times = 0) :
    ∃ t d, exec (.sweep u q ev) s = .next t ∧ findCmd t u q c.serial = some d ∧ d.stage = (if c.dual then .parked else .held) ∧
      d.held = heldBytes (runVector (dualCounted s c) c).1 ∧ d.flags = (runVector (dualCounted s c) c).2.fl := by
  obtain ⟨hmem, rfl, rfl, -, hkind⟩ := vecCmd_spec h
  have hstays : c ∈ (dualCounted s c).cmds := by
    rwa [((dualCounted_changes s c).same .commands rfl).1]
  obtain ⟨d, hd⟩ := executeVector_holds hclear hev hstays (by simp [Cmd.holds, hkind])
  exact ⟨_, d, sweep_of_vecCmd h hthere, hd⟩

end

/-- Settles O26: an unhindered run meets no fault, and what an execution leaves goes by the faults it has met. -/
theorem vectorExecutions : Obligations.VectorExecutions := by
  refine ⟨fun s u q c ev hs hq hev hinputs hclean hplaces => ⟨fun h => ?_, fun h hthere => ?_⟩,
    fun s u q c ev hs hq => ⟨fun h => ⟨?_, ?_⟩, fun h hthere hsingle => ?_⟩⟩
  · obtain ⟨hholds, hends⟩ := skim_of_clear h hs hq (meetsNoFault_of_unhindered hinputs hclean hplaces) hev
    refine ⟨hends, fun hc => ?_⟩
    obtain ⟨t, d, hrun, hd, hstage, hheld, -⟩ := hholds hc
    exact ⟨t, d, hrun, hd, hstage, hheld⟩
  · obtain ⟨t, d, hrun, hd, hstage, hheld, -⟩ := sweep_of_clear h hthere (dualCounted_meetsNoFault hinputs hclean hplaces) hev
    exact ⟨t, d, _, hrun, rfl, hd, hstage, hheld⟩
  · exact fun hinputs hpoison hbeyond hev => skim_of_clear h hs hq ⟨hinputs, hpoison, hbeyond⟩ hev
  · intro hfault
    obtain ⟨-, rfl, rfl, -⟩ := vecCmd_spec h
    exact ⟨_, skim_of_vecCmd h, executeVector_fails hfault⟩
  · have hcounted : dualCounted s c = s := by simp [dualCounted, hsingle]
    refine ⟨fun hinputs hpoison hbeyond hev => ?_, fun hfault => ?_⟩
    · have hsweep := sweep_of_clear h hthere (hcounted.symm ▸ ⟨hinputs, hpoison, hbeyond⟩) hev
      simpa only [hcounted, hsingle, Bool.false_eq_true, if_false] using hsweep
    · obtain ⟨-, rfl, rfl, -⟩ := vecCmd_spec h
      exact ⟨_, sweep_of_vecCmd h hthere, hcounted.symm ▸ executeVector_fails hfault⟩

end Sys2Proof.Machine
end

section
/-! PROOFS. A step takes one command off the queue, changes only what its row touches, and keeps a state in order (R198, R201, R206): O1, O3, O4, O5. -/

namespace Sys2Proof.Machine

/-- What each row's meaning can change stands in the row's `touches`. -/
theorem exec_changes (c : Instr) (s : State) {t : State} (h : exec c s = .next t) : Changes (touches c) s t := by
  cases c with
  | nop u q => exact (execNop_changes u q s h).mono rfl
  | twait u q => exact (execTwait_changes u q s h).mono rfl
  | tset u q => exact (execTset_changes u q s h).mono rfl
  | qfence u q => exact (execQfence_changes u q s h).mono rfl
  | mmul u q => exact (execMmul_changes u q s h).mono rfl
  | setvl u q => exact (execSetvl_changes u q s h).mono rfl
  | skim u q ev => exact (execSkim_changes u q ev s h).mono rfl
  | sweep u q ev => exact (execSweep_changes u q ev s h).mono rfl
  | copy u q host => exact (execCopy_changes u q host s h).mono rfl
  | xpose u q ev => exact (execXpose_changes u q ev s h).mono rfl
  | screed u q => exact (execScreed_changes u q s h).mono rfl
  | put u q => exact (execPut_changes u q s h).mono rfl
  | get u q => exact (execGet_changes u q s h).mono rfl
  | atomic u q => exact (execAtomic_changes u q s h).mono rfl
  | signal u q => exact (execSignal_changes u q s h).mono rfl
  | reduce u q => exact (execReduce_changes u q s h).mono rfl
  | gather u q => exact (execGather_changes u q s h).mono rfl
  | permute u q => exact (execPermute_changes u q s h).mono rfl
  | breserve u q => exact (execBreserve_changes u q s h).mono rfl
  | brelease u q => exact (execBrelease_changes u q s h).mono rfl
  | commandFetch u q host => exact (execCommandFetch_changes u q host s h).mono rfl
  | commandIssue u q => exact (execCommandIssue_changes u q s h).mono rfl
  | admissionRead u q => exact (execAdmissionRead_changes u q s h).mono rfl
  | dispatch d => exact (execAdmit_changes d s h).mono rfl
  | holdLimitExpiry d => exact (execHoldLimitExpiry_changes d s h).mono rfl
  | bucketRefill d => exact (execBucketRefill_changes d s h).mono rfl
  | reserveExpiry u q => exact (execReserveExpiry_changes u q s h).mono rfl
  | preemptionRequest u q => exact (execPreemptionRequest_changes u q s h).mono rfl
  | waitTimeout u q => exact (execWaitTimeout_changes u q s h).mono rfl
  | contextRestart p ctx value => exact (execContextRestart_changes p ctx value s h).mono rfl
  | partitionTableWrite p len table => exact (execPartitionTableWrite_changes p len table s h).mono rfl
  | ringBaseWrite p u q size value => exact (execRingBaseWrite_changes p u q size value s h).mono rfl
  | tailWrite p u q value => exact (execTailWrite_changes p u q value s h).mono rfl
  | tallyWrite p value => exact (execTallyWrite_changes p value s h).mono rfl
  | srSeedWrite p value => exact (execSrSeedWrite_changes p value s h).mono rfl
  | weightTileLoad u q => exact (execWeightTileLoad_changes u q s h).mono rfl
  | pass u q ev => exact (execPass_changes u q ev s h).mono rfl
  | passEnd u q => exact (execPassEnd_changes u q s h).mono rfl
  | rowForm u q ev => exact (execRowForm_changes u q ev s h).mono rfl
  | copyPhase u q ev => exact (execCopyPhase_changes u q ev s h).mono rfl
  | commit u q => exact (execCommit_changes u q s h).mono rfl
  | correctedWordWriteBack array bank row col => exact (execCorrectedWordWriteBack_changes array bank row col s h).mono rfl
  | hawkTileWrite u q slot => exact (execHawkTileWrite_changes u q slot s h).mono rfl
  | dualCompare u q mismatch => exact (execDualCompare_changes u q mismatch s h).mono rfl
  | writeBack u q => exact (execWriteBack_changes u q s h).mono rfl
  | screedTileLand core strm => exact (execScreedTileLand_changes core strm s h).mono rfl
  | orphanDrainLimit => exact (execOrphanDrainLimit_changes s h).mono rfl
  | patrolScrub sector o passDone => exact (execPatrolScrub_changes sector o passDone s h).mono rfl
  | correctedRewrite r => exact (execCorrectedRewrite_changes r s h).mono rfl
  | periodicRetraining stack failed => exact (execPeriodicRetraining_changes stack failed s h).mono rfl
  | retireStack p value token => exact (execRetireStack_changes p value token s h).mono rfl
  | sealedRetirement stack channel => exact (execSealedRetirement_changes stack channel s h).mono rfl
  | slotRelocation r => exact (execSlotRelocation_changes r s h).mono rfl
  | retirementComplete => exact (execRetirementComplete_changes s h).mono rfl
  | flitCrcError d m lane => exact (execFlitCrcError_changes d m lane s h).mono rfl
  | laneFailure d m lanes => exact (execLaneFailure_changes d m lanes s h).mono rfl
  | moduleRetrainDone d m => exact (execModuleRetrainDone_changes d m s h).mono rfl
  | packageNumberWrite p value => exact (execPackageNumberWrite_changes p value s h).mono rfl
  | routeActivate p value => exact (execRouteActivate_changes p value s h).mono rfl
  | frameReceive port f => exact (execFrameReceive_changes port f s h).mono rfl
  | escapeMove port => exact (execEscapeMove_changes port s h).mono rfl
  | hopHoldLimit port => exact (execHopHoldLimit_changes port s h).mono rfl
  | putMessage spkg msgid => exact (execPutMessage_changes spkg msgid s h).mono rfl
  | getMessage spkg msgid => exact (execGetMessage_changes spkg msgid s h).mono rfl
  | atomicMessage spkg msgid => exact (execAtomicMessage_changes spkg msgid s h).mono rfl
  | controlMessage spkg msgid => exact (execControlMessage_changes spkg msgid s h).mono rfl
  | getData msgid => exact (execGetData_changes msgid s h).mono rfl
  | ack msgid => exact (execAck_changes msgid s h).mono rfl
  | nakBusy msgid => exact (execNakBusy_changes msgid s h).mono rfl
  | nakIncomplete msgid => exact (execNakIncomplete_changes msgid s h).mono rfl
  | nakCrc msgid => exact (execNakCrc_changes msgid s h).mono rfl
  | nakNoroute msgid => exact (execNakNoroute_changes msgid s h).mono rfl
  | nakAddress msgid => exact (execNakAddress_changes msgid s h).mono rfl
  | nakTally msgid => exact (execNakTally_changes msgid s h).mono rfl
  | nakPoison msgid => exact (execNakPoison_changes msgid s h).mono rfl
  | resendTimer msgid => exact (execResendTimer_changes msgid s h).mono rfl
  | gapTime spkg msgid => exact (execGapTime_changes spkg msgid s h).mono rfl
  | tombstoneExpiry spkg msgid => exact (execTombstoneExpiry_changes spkg msgid s h).mono rfl
  | streamRecordFree source peer vc => exact (execStreamRecordFree_changes source peer vc s h).mono rfl
  | laserLost port li => exact (execLaserLost_changes port li s h).mono rfl
  | ringSweep port tx slot o => exact (execRingSweep_changes port tx slot o s h).mono rfl
  | feedforward port dT16tx dT16rx => exact (execFeedforward_changes port dT16tx dT16rx s h).mono rfl
  | lockLoss port tx slot => exact (execLockLoss_changes port tx slot s h).mono rfl
  | recapture port tx slot => exact (execRecapture_changes port tx slot s h).mono rfl
  | holdExpiry port tx slot => exact (execHoldExpiry_changes port tx slot s h).mono rfl
  | heaterJump port tx slot => exact (execHeaterJump_changes port tx slot s h).mono rfl
  | marker port slot word => exact (execMarker_changes port slot word s h).mono rfl
  | alignmentLoss port slot => exact (execAlignmentLoss_changes port slot s h).mono rfl
  | report port word => exact (execReport_changes port word s h).mono rfl
  | move port word => exact (execMove_changes port word s h).mono rfl
  | moveTakesEffect port tx => exact (execMoveTakesEffect_changes port tx s h).mono rfl
  | echo port word portCycle fixed => exact (execEcho_changes port word portCycle fixed s h).mono rfl
  | ident port word => exact (execIdent_changes port word s h).mono rfl
  | margin port word => exact (execMargin_changes port word s h).mono rfl
  | mistCoat port power tracking refs => exact (execMistCoat_changes port power tracking refs s h).mono rfl
  | monitorCompare port r => exact (execMonitorCompare_changes port r s h).mono rfl
  | keying port => exact (execKeying_changes port s h).mono rfl
  | keyingTimeExpiry port => exact (execKeyingTimeExpiry_changes port s h).mono rfl
  | keyingDarkRetry port => exact (execKeyingDarkRetry_changes port s h).mono rfl
  | reKeyRequest p value => exact (execReKeyRequest_changes p value s h).mono rfl
  | portEnableWrite p port value => exact (execPortEnableWrite_changes p port value s h).mono rfl
  | riLow port ri => exact (execRiLow_changes port ri s h).mono rfl
  | channelBind p chan => exact (execChannelBind_changes p chan s h).mono rfl
  | channelUnbind p chan => exact (execChannelUnbind_changes p chan s h).mono rfl
  | backupMapWrite p value => exact (execBackupMapWrite_changes p value s h).mono rfl
  | reduceUp spkg msgid adderFault => exact (execReduceUp_changes spkg msgid adderFault s h).mono rfl
  | reduceDown spkg msgid => exact (execReduceDown_changes spkg msgid s h).mono rfl
  | gatherMessage spkg msgid => exact (execGatherMessage_changes spkg msgid s h).mono rfl
  | permuteMessage spkg msgid => exact (execPermuteMessage_changes spkg msgid s h).mono rfl
  | lateLimit chan chunk right => exact (execLateLimit_changes chan chunk right s h).mono rfl
  | collectiveLimit chan => exact (execCollectiveLimit_changes chan s h).mono rfl
  | supplyGood supply => exact (execSupplyGood_changes supply s h).mono rfl
  | vbulkUndervoltage mV => exact (execVbulkUndervoltage_changes mV s h).mono rfl
  | vbulkPowerFail overvoltage => exact (execVbulkPowerFail_changes overvoltage s h).mono rfl
  | packagePowerFail cause => exact (execPackagePowerFail_changes cause s h).mono rfl
  | heatersOff mV => exact (execHeatersOff_changes mV s h).mono rfl
  | droop d => exact (execDroop_changes d s h).mono rfl
  | overcurrent watts => exact (execOvercurrent_changes watts s h).mono rfl
  | thermalStretch r => exact (execThermalStretch_changes r s h).mono rfl
  | junctionLimit r => exact (execJunctionLimit_changes r s h).mono rfl
  | stretchStepDown d => exact (execStretchStepDown_changes d s h).mono rfl
  | stretchReleaseStep d => exact (execStretchReleaseStep_changes d s h).mono rfl
  | governorLoop measured watts rs => exact (execGovernorLoop_changes measured watts rs s h).mono rfl
  | policyLoop uncharged watts100ms refs => exact (execPolicyLoop_changes uncharged watts100ms refs s h).mono rfl
  | thermalTrip r => exact (execThermalTrip_changes r s h).mono rfl
  | emergN => exact (execEmergN_changes s h).mono rfl
  | emergencyRequest p value => exact (execEmergencyRequest_changes p value s h).mono rfl
  | emergencyReleaseStep watts => exact (execEmergencyReleaseStep_changes watts s h).mono rfl
  | calibrationRefresh index temp => exact (execCalibrationRefresh_changes index temp s h).mono rfl
  | refreshRequest p index value => exact (execRefreshRequest_changes p index value s h).mono rfl
  | snagClear p mask => exact (execSnagClear_changes p mask s h).mono rfl
  | fence core cause => exact (execFence_changes core cause s h).mono rfl
  | fenceCore p value token => exact (execFenceCore_changes p value token s h).mono rfl
  | unfenceCore p value token => exact (execUnfenceCore_changes p value token s h).mono rfl
  | testStart core => exact (execTestStart_changes core s h).mono rfl
  | scanTest r => exact (execScanTest_changes r s h).mono rfl
  | testReturn => exact (execTestReturn_changes s h).mono rfl
  | sweepUnitScan unit done r => exact (execSweepUnitScan_changes unit done r s h).mono rfl
  | installFieldPattern p pattern token => exact (execInstallFieldPattern_changes p pattern token s h).mono rfl
  | counterReset p value => exact (execCounterReset_changes p value s h).mono rfl
  | flush ok => exact (execFlush_changes ok s h).mono rfl
  | dustSheetLay p => exact (execDustSheetLay_changes p s h).mono rfl
  | dustSheetLift p => exact (execDustSheetLift_changes p s h).mono rfl
  | dustSheetLimit => exact (execDustSheetLimit_changes s h).mono rfl
  | recordRead p => exact (execRecordRead_changes p s h).mono rfl
  | archiveRead p => exact (execArchiveRead_changes p s h).mono rfl
  | clearRecorder p token => exact (execClearRecorder_changes p token s h).mono rfl
  | odRead p r => exact (execOdRead_changes p r s h).mono rfl
  | odWrite p r => exact (execOdWrite_changes p r s h).mono rfl
  | odMeta p r => exact (execOdMeta_changes p r s h).mono rfl
  | authWrite p r => exact (execAuthWrite_changes p r s h).mono rfl
  | stagingTimeout p => exact (execStagingTimeout_changes p s h).mono rfl
  | hotWindowWrite offset size value => exact (execHotWindowWrite_changes offset size value s h).mono rfl
  | unsupportedMailboxOpcode opcode => exact (execUnsupportedMailboxOpcode_changes opcode s h).mono rfl
  | jobPageDoorbell ctx value r => exact (execJobPageDoorbell_changes ctx value r s h).mono rfl
  | hasowaRequest session seq ver source r => exact (execHasowaRequest_changes session seq ver source r s h).mono rfl
  | sessionTimeout session => exact (execSessionTimeout_changes session s h).mono rfl
  | discover => exact (execDiscover_changes s h).mono rfl
  | announce => exact (execAnnounce_changes s h).mono rfl
  | beaconLoss => exact (execBeaconLoss_changes s h).mono rfl
  | beaconReturn => exact (execBeaconReturn_changes s h).mono rfl
  | linkTraining rate width cache memP lanes => exact (execLinkTraining_changes rate width cache memP lanes s h).mono rfl
  | linkLoss => exact (execLinkLoss_changes s h).mono rfl
  | perstN => exact (execPerstN_changes s h).mono rfl
  | hdmAccess write addr len data => exact (execHdmAccess_changes write addr len data s h).mono rfl
  | hostAccessFail write u q => exact (execHostAccessFail_changes write u q s h).mono rfl
  | ringFetchRetry u q host => exact (execRingFetchRetry_changes u q host s h).mono rfl
  | doorbellWrite offset size value => exact (execDoorbellWrite_changes offset size value s h).mono rfl
  | heartbeat size value => exact (execHeartbeat_changes size value s h).mono rfl
  | heartbeatLapse => exact (execHeartbeatLapse_changes s h).mono rfl
  | attach p => exact (execAttach_changes p s h).mono rfl
  | fresh p => exact (execFresh_changes p s h).mono rfl
  | detach p => exact (execDetach_changes p s h).mono rfl
  | load p image => exact (execLoad_changes p image s h).mono rfl
  | stage p image => exact (execStage_changes p image s h).mono rfl
  | activationRequest p => exact (execActivationRequest_changes p s h).mono rfl
  | activationCancel p => exact (execActivationCancel_changes p s h).mono rfl
  | quiescing => exact (execQuiescing_changes s h).mono rfl
  | blackout us => exact (execBlackout_changes us s h).mono rfl
  | newImageStartTimeout us => exact (execNewImageStartTimeout_changes us s h).mono rfl
  | commitSecurityVersion p value token => exact (execCommitSecurityVersion_changes p value token s h).mono rfl
  | lockDebug p value token => exact (execLockDebug_changes p value token s h).mono rfl
  | clearLaneRecord p d value token => exact (execClearLaneRecord_changes p d value token s h).mono rfl
  | operatorKeyHashWrite p value => exact (execOperatorKeyHashWrite_changes p value s h).mono rfl
  | attestationChallenge p value flashOk => exact (execAttestationChallenge_changes p value flashOk s h).mono rfl
  | fuseLoad result rpos => exact (execFuseLoad_changes result rpos s h).mono rfl
  | bootRomStart => exact (execBootRomStart_changes s h).mono rfl
  | hbm4Training failed ms => exact (execHbm4Training_changes failed ms s h).mono rfl
  | dieLinkTraining failed errataOk ms => exact (execDieLinkTraining_changes failed errataOk ms s h).mono rfl
  | quickLogicSelfTest failed ms => exact (execQuickLogicSelfTest_changes failed ms s h).mono rfl
  | opticalStart laser => exact (execOpticalStart_changes laser s h).mono rfl
  | laserWaitExpiry => exact (execLaserWaitExpiry_changes s h).mono rfl
  | vbulkResume => exact (execVbulkResume_changes s h).mono rfl
  | clk25Loss => exact (execClk25Loss_changes s h).mono rfl
  | laserPresent port li => exact (execLaserPresent_changes port li s h).mono rfl
  | emergNReturnsHigh => exact (execEmergNReturnsHigh_changes s h).mono rfl
  | stretchCauseClears cause d rs => exact (execStretchCauseClears_changes cause d rs s h).mono rfl
  | riRestored port ri => exact (execRiRestored_changes port ri s h).mono rfl
  | bisnpinvResponse line => exact (execBisnpinvResponse_changes line s h).mono rfl

theorem step_of_pending {c : Instr} {r : List Instr} {s : State} (h : s.pending = c :: r) : step s = exec c { s with pending := r } := by
  unfold step
  rw [h]

/-- A state keeps its order when another command waits. -/
theorem State.Sound.of_pending {s : State} (h : s.Sound) (r : List Instr) : State.Sound { s with pending := r } := { h with }

/-- Settles O1: `step` with a command at the front. -/
theorem stepRunsTheFrontCommand : Obligations.StepRunsTheFrontCommand := fun _ _ _ h => step_of_pending h

/-- Settles O3: no row touches the waiting commands. -/
theorem stepTakesOneCommand : Obligations.StepTakesOneCommand := by
  intro c r s t hp h
  exact (exec_changes c _ (step_of_pending hp ▸ h)).pending

/-- Settles O4: every row by what its meaning can change. -/
theorem rowsKeepOtherKinds : Obligations.RowsKeepOtherKinds := fun c s _ h => (exec_changes c s h).same

/-- Settles O5: a tick by `aonTick_changes`, a command by what its row changes. -/
theorem stepKeepsSound : Obligations.StepKeepsSound := by
  intro s t hs h
  cases hp : s.pending with
  | nil =>
    have htick : step s = .next (aonTick s) := by
      unfold step
      rw [hp]
    rw [htick] at h
    cases h
    exact (aonTick_changes s).sound hs
  | cons c r => exact (exec_changes c _ (step_of_pending hp ▸ h)).sound (hs.of_pending r)

end Sys2Proof.Machine
end

section
/-! PROOFS. O18 and O22: the admission that a dispatcher chooses charges the reserve of its queue and then the bucket of its die (R214, R215,
R217), and the hold limit of a blocking candidate (R215). -/

namespace Sys2Proof.Machine

/-! ### The budget of a die -/

/-- The reserves, the settings of the buckets and the level of die d are in `t` as they are in `s`. -/
structure SameBucket (d : Nat) (s t : State) : Prop where
  reserves : t.reserves = s.reserves
  budgets : t.budgets = s.budgets
  level : bucketLevel t d = bucketLevel s d

theorem SameBucket.refl (d : Nat) (s : State) : SameBucket d s s := ⟨rfl, rfl, rfl⟩

theorem SameBucket.trans {d : Nat} {s t v : State} (h : SameBucket d s t) (g : SameBucket d t v) : SameBucket d s v :=
  ⟨g.reserves.trans h.reserves, g.budgets.trans h.budgets, g.level.trans h.level⟩

theorem SameBucket.of_changes {d : Nat} {K : List Kind} {s t : State} (h : Changes K s t) (hod : K.contains .od = false := by rfl)
    (hbudget : K.contains .budget = false := by rfl) : SameBucket d s t := by
  obtain ⟨hreserves, -, hbudgets, -⟩ := h.same .budget hbudget
  exact ⟨hreserves, hbudgets, (OdKeeps.of_changes (P := fun _ => True) h hod).get _ _ trivial⟩

/-- The level of a bucket is no entry that reports, snags or records count in. -/
theorem levelKey_not_logKey {d : Nat} (hd : d < 4) : ¬ logKey (odKey (0x2300 + d) 0x01) := not_logKey (by omega) (by decide)

/-- A counter other than the level leaves the budget. -/
theorem SameBucket.bump {d : Nat} (hd : d < 4) (s : State) (i sub n : Nat) (h : odKey (0x2300 + d) 0x01 ≠ odKey i sub) :
    SameBucket d s (odBump s i sub n) := by
  obtain ⟨hreserves, -, hbudgets, -⟩ := (odBump_changes s i sub n).same .budget rfl
  exact ⟨hreserves, hbudgets, (odBump_keeps s i sub n).get _ _ ⟨h, levelKey_not_logKey hd⟩⟩

theorem SameBucket.reserveOf {d : Nat} {s t : State} (h : SameBucket d s t) (u q : Nat) : reserveOf t u q = reserveOf s u q := by
  unfold Machine.reserveOf
  rw [h.reserves]

theorem SameBucket.ceiling {d : Nat} {s t : State} (h : SameBucket d s t) (c : Cmd) : ceiling t c = ceiling s c := by
  unfold Machine.ceiling price
  rw [budgetOf_congr h.budgets, bucketCapacity_congr h.budgets]

theorem SameBucket.charge {d : Nat} {s t : State} (h : SameBucket d s t) (c : Cmd) : charge t c = charge s c := by
  unfold Machine.charge price
  rw [budgetOf_congr h.budgets, h.ceiling]

/-! ### The charge (R214, R217) -/

/-- The charge of a command that fits is drawn from the reserve of its queue, and what that lacks from the bucket of its die. -/
theorem drawCharge_draws {s : State} (hs : s.Sound) {c : Cmd} (hfits : fits s c = true) :
    reserveOf (drawCharge s c) c.u c.q = reserveOf s c.u c.q - min (reserveOf s c.u c.q) (charge s c) ∧
      bucketLevel (drawCharge s c) (dieOf c.u) + (charge s c - min (reserveOf s c.u c.q) (charge s c)) = bucketLevel s (dieOf c.u) := by
  have hlevel : bucketLevel (drawCharge s c) (dieOf c.u) =
      bucketLevel s (dieOf c.u) - (charge s c - min (reserveOf s c.u c.q) (charge s c)) := bucketLevel_setLevel _ _ _
  have hcharge : charge s c ≤ ceiling s c := Nat.min_le_right _ _
  have hceiling : ceiling s c ≤ reserveOf s c.u c.q + bucketLevel s (dieOf c.u) := of_decide_eq_true hfits
  exact ⟨reserveOf_setReserve hs.reserves _ _ _, by omega⟩

/-! ### Commands that are replaced -/

/-- A command that is replaced is found in its new form, if one of its serial stood before. -/
theorem findCmd_putCmd_self {s : State} {d : Cmd} (h : (findCmd s d.u d.q d.serial).isSome = true) :
    findCmd (putCmd s d) d.u d.q d.serial = some d := by
  obtain ⟨c, hc⟩ := Option.isSome_iff_exists.mp h
  rw [findCmd_eq] at hc
  obtain ⟨hu, hq, hn⟩ := (sameCmd_iff d c).mp (List.find?_some (p := sameCmd d) hc)
  have hput := findCmd_putCmd (List.mem_of_find?_eq_some hc) hu.symm hq.symm hn.symm
  rwa [hu, hq, hn] at hput

/-- Replacing a command takes no serial out of flight. -/
theorem findCmd_isSome_putCmd {s : State} {u q n : Nat} (d : Cmd) (h : (findCmd s u q n).isSome = true) :
    (findCmd (putCmd s d) u q n).isSome = true := by
  by_cases hk : d.u = u ∧ d.q = q ∧ d.serial = n
  · obtain ⟨rfl, rfl, rfl⟩ := hk
    rw [findCmd_putCmd_self h]
    rfl
  · have hkeep : findCmd (putCmd s d) u q n = findCmd s u q n := by
      unfold findCmd putCmd
      refine find_mapFirst_apart _ ?_ fun b hb => ?_
      · simp only [Bool.and_eq_false_iff, beq_eq_false_iff_ne]
        tauto
      · obtain ⟨hu, hq, hn⟩ := (sameCmd_iff d b).mp hb
        simp only [Bool.and_eq_false_iff, beq_eq_false_iff_ne, hu, hq, hn]
        tauto
    rw [hkeep]
    exact h

theorem findCmd_isSome_of_mem {s : State} {c : Cmd} (h : c ∈ s.cmds) : (findCmd s c.u c.q c.serial).isSome = true := by
  rw [findCmd_eq]
  exact List.find?_isSome.mpr ⟨c, h, sameCmd_refl c⟩

/-! ### The marks of candidates that do not fit (R215) -/

/-- A candidate that does not fit begins to wait for budget. -/
def markWait (s : State) (c : Cmd) : State := if c.budgetAt.isNone then putCmd s { c with budgetAt := some s.uptime } else s

theorem markWaits_eq (s : State) (d : Nat) (l : List Cmd) :
    markWaits s d l = if (l.filter (fun c => !fits s c)).isEmpty then s
      else odBump ((l.filter (fun c => !fits s c)).foldl markWait s) (0x2300 + d) 0x06 1 := rfl

theorem markWait_changes (s : State) (c : Cmd) : Changes [.commands] s (markWait s c) := by
  unfold markWait
  split
  · exact putCmd_changes _ _
  · exact .refl

theorem findCmd_isSome_markWait {s : State} {u q n : Nat} (c : Cmd) (h : (findCmd s u q n).isSome = true) :
    (findCmd (markWait s c) u q n).isSome = true := by
  unfold markWait
  split
  · exact findCmd_isSome_putCmd _ h
  · exact h

theorem findCmd_isSome_markWaits {s : State} {u q n : Nat} (d : Nat) (l : List Cmd) (h : (findCmd s u q n).isSome = true) :
    (findCmd (markWaits s d l) u q n).isSome = true := by
  have hmarked : ∀ (w : List Cmd) (x : State), (findCmd x u q n).isSome = true → (findCmd (w.foldl markWait x) u q n).isSome = true := by
    intro w
    induction w with
    | nil => exact fun _ hx => hx
    | cons c r ih => exact fun x hx => ih _ (findCmd_isSome_markWait c hx)
  rw [markWaits_eq]
  split
  · exact h
  · rw [findCmd_of_changes (odBump_changes _ _ _ _) rfl]
    exact hmarked _ _ h

theorem markWaits_sameBucket (s : State) {d : Nat} (hd : d < 4) (l : List Cmd) : SameBucket d s (markWaits s d l) := by
  rw [markWaits_eq]
  split
  · exact .refl d s
  · exact (SameBucket.of_changes (Changes.foldl _ .refl markWait_changes)).trans (.bump hd _ _ _ _ (by unfold odKey; omega))

/-! ### The admission (R199, R215) -/

/-- A command as its admission leaves it in flight. -/
def admittedForm (s : State) (c : Cmd) : Cmd :=
  { c with stage := .admitted, energy := c.energy + charge s c,
           epoch := if c.preempted then c.epoch else (applySeed (odBump (drawCharge s c) (0x2300 + dieOf c.u) 0x05 1)).epoch, budgetAt := none,
           preempted := false, preemptReq := false, nominal := c.nominalEnergy, winTotal := expectedWindows s c, winDone := 1,
           begun := collStart s }

/-- What an admission leaves of a command that goes on running, before the count of a sampled execution. -/
def admitted (s : State) (c : Cmd) : State :=
  addWindow (claimHawks (putCmd (openChan (applySeed (odBump (drawCharge s c) (0x2300 + dieOf c.u) 0x05 1)) (admittedForm s c)) (admittedForm s c))
    (admittedForm s c)) (dieOf c.u) (energyPart c.nominalEnergy (expectedWindows s c) 0)

theorem admitCmd_of_runs (s : State) {c : Cmd} (hop : c.op ≠ 0x40) (hskip : skips c = false) :
    admitCmd s c = if c.isSweepCmd && !chDUAL c.desc && c.dual then odBump (admitted s c) 0x7300 0x02 1 else admitted s c := by
  have hverdict : (c.group.vector && chVCHK c.desc && bitOf c.verdict 97) = false := hskip
  unfold admitCmd
  simp only [if_neg hop, hverdict, Bool.false_eq_true, if_false]
  rfl

theorem findCmd_admitted {s : State} {c : Cmd} (h : (findCmd s c.u c.q c.serial).isSome = true) :
    findCmd (admitted s c) c.u c.q c.serial = some (admittedForm s c) := by
  have hcmds : Changes [.draws, .od, .recorder, .access, .output, .budget, .streams, .channels] s
      (openChan (applySeed (odBump (drawCharge s c) (0x2300 + dieOf c.u) 0x05 1)) (admittedForm s c)) :=
    ((((drawCharge_changes s c).mono rfl).trans ((odBump_changes _ _ _ _).mono rfl)).trans ((applySeed_changes _).mono rfl)).trans
      ((openChan_changes _ _).mono rfl)
  unfold admitted
  rw [findCmd_of_changes (addWindow_changes _ _ _) rfl, findCmd_of_changes (claimHawks_changes _ _) rfl]
  exact findCmd_putCmd_self (d := admittedForm s c) (by rw [findCmd_of_changes hcmds rfl]; exact h)

theorem admitted_sameBucket (s : State) {c : Cmd} {d : Nat} (hd : d < 4) (hdie : dieOf c.u = d) : SameBucket d (drawCharge s c) (admitted s c) := by
  subst hdie
  have hbump := SameBucket.bump hd (drawCharge s c) (0x2300 + dieOf c.u) 0x05 1 (by unfold odKey; omega)
  have hput := (((applySeed_changes (odBump (drawCharge s c) (0x2300 + dieOf c.u) 0x05 1)).mono (K := [.streams, .channels, .commands, .engines, .power])
    rfl).trans ((openChan_changes _ (admittedForm s c)).mono rfl)).trans ((putCmd_changes _ (admittedForm s c)).mono rfl)
  exact hbump.trans (.of_changes ((hput.trans ((claimHawks_changes _ _).mono rfl)).trans ((addWindow_changes _ _ _).mono rfl)))

/-- The admission of a command that goes on running: it stands admitted with its charge, and the budget is as the charge leaves it. -/
theorem admitCmd_admits {s : State} {c : Cmd} {d : Nat} (hd : d < 4) (hdie : dieOf c.u = d) (hop : c.op ≠ 0x40) (hskip : skips c = false)
    (h : (findCmd s c.u c.q c.serial).isSome = true) :
    findCmd (admitCmd s c) c.u c.q c.serial = some (admittedForm s c) ∧ SameBucket d (drawCharge s c) (admitCmd s c) := by
  rw [admitCmd_of_runs s hop hskip]
  split
  · rw [findCmd_of_changes (odBump_changes _ _ _ _) rfl]
    exact ⟨findCmd_admitted h, (admitted_sameBucket s hd hdie).trans (.bump hd _ _ _ _ (by unfold odKey; omega))⟩
  · exact ⟨findCmd_admitted h, admitted_sameBucket s hd hdie⟩

/-! ### The dispatcher (R215) -/

/-- What the dispatcher chooses fits (R214, R217). -/
theorem fits_of_chosen {s : State} {d : Nat} {l : List Cmd} {c : Cmd} (h : chosen s d l = some c) : fits s c = true := by
  cases l with
  | nil => cases h
  | cons x r =>
    simp only [chosen] at h
    split at h
    · split at h
      · next hfits => cases h; exact hfits
      · cases h
    · exact List.find?_some h

/-- The state in which a dispatcher admits its choice. -/
def markedState (s : State) (d : Nat) : State :=
  { markWaits s d (candidates s d) with holds := (markWaits s d (candidates s d)).holds.filter (fun p => p.1 != d) }

theorem dispatch_of_picks {s : State} {d : Nat} {c : Cmd} (h : picks s d c) : exec (.dispatch d) s = .next (admitCmd (markedState s d) c) := by
  obtain ⟨hd, hchosen⟩ := h
  show execAdmit d s = _
  simp only [execAdmit, dispatchDie, hd, if_true, hchosen]
  rfl

theorem dispatch_of_none {s : State} {d : Nat} (hd : d < 4) (h : chosen s d (candidates s d) = none) :
    exec (.dispatch d) s = .next (markWaits s d (candidates s d)) := by
  show execAdmit d s = _
  simp only [execAdmit, dispatchDie, hd, if_true, h]

theorem markedState_sameBucket (s : State) {d : Nat} (hd : d < 4) : SameBucket d s (markedState s d) :=
  (markWaits_sameBucket s hd (candidates s d)).trans ⟨rfl, rfl, rfl⟩

theorem markedState_sound {s : State} (hs : s.Sound) (d : Nat) : (markedState s d).Sound :=
  { (markWaits_changes s d (candidates s d)).sound hs with }

/-- The admission of the dispatcher's choice, with its charge. -/
theorem dispatch_charges (s : State) (d : Nat) (c : Cmd) (hs : s.Sound) (_ : queueExists c.u c.q = true) (hdie : dieOf c.u = d)
    (hpick : picks s d c) (hmem : c ∈ s.cmds) (hop : c.op ≠ 0x40) (hskip : skips c = false) :
    ∃ t e, exec (.dispatch d) s = .next t ∧ findCmd t c.u c.q c.serial = some e ∧ e.stage = .admitted ∧ e.energy = c.energy + charge s c ∧
      charge s c ≤ ceiling s c ∧ ceiling s c ≤ reserveOf s c.u c.q + bucketLevel s d ∧
      reserveOf t c.u c.q = reserveOf s c.u c.q - min (reserveOf s c.u c.q) (charge s c) ∧
      bucketLevel t d + (charge s c - min (reserveOf s c.u c.q) (charge s c)) = bucketLevel s d := by
  have hd : d < 4 := hpick.1
  have hfits : fits s c = true := fits_of_chosen hpick.2
  have hmarked := markedState_sameBucket s hd
  have hfound : (findCmd (markedState s d) c.u c.q c.serial).isSome = true := findCmd_isSome_markWaits d _ (findCmd_isSome_of_mem hmem)
  obtain ⟨hcmd, hbucket⟩ := admitCmd_admits hd hdie hop hskip hfound
  have hfits' : fits (markedState s d) c = true := by
    unfold fits at hfits ⊢
    rw [hmarked.ceiling, hmarked.reserveOf, hdie, hmarked.level, ← hdie]
    exact hfits
  obtain ⟨hreserve, hlevel⟩ := drawCharge_draws (markedState_sound hs d) hfits'
  rw [hmarked.reserveOf, hmarked.charge] at hreserve hlevel
  rw [hdie, hmarked.level] at hlevel
  refine ⟨_, _, dispatch_of_picks hpick, hcmd, rfl, ?_, Nat.min_le_right _ _, hdie ▸ of_decide_eq_true hfits, ?_, ?_⟩
  · exact congrArg (c.energy + ·) (hmarked.charge c)
  · rw [hbucket.reserveOf, hreserve]
  · rw [hbucket.level, hlevel]

/-- Settles O18: the choice fits, so that its charge is drawn in full; the marks of the waiting candidates leave the budget. -/
theorem admissionCharges : Obligations.AdmissionCharges := by
  refine ⟨dispatch_charges, fun s d hd hnone => ?_⟩
  have hmarks := markWaits_sameBucket s hd (candidates s d)
  exact ⟨_, dispatch_of_none hd hnone, hmarks.reserves, hmarks.level⟩

/-! ### The hold limit (R215) -/

/-- Settles O22: the blocking candidate is noted before its counter moves, and one that is noted already meets the row's condition no more. -/
theorem holdLimitCountsOnce : Obligations.HoldLimitCountsOnce := by
  intro s d c r hd hfirst hpassed hblocked
  refine ⟨fun hnew => ?_, fun hold => ?_⟩
  · have hrun : exec (.holdLimitExpiry d) s =
        .next (odBump { s with holds := (d, c.age) :: s.holds.filter (fun p => p.1 != d) } (0x2300 + d) 0x07 1) := by
      show execHoldLimitExpiry d s = _
      simp only [execHoldLimitExpiry, hfirst, hd, hpassed, hblocked, hnew, decide_true, Bool.not_false, Bool.and_self, if_true]
    obtain ⟨-, -, -, hholds⟩ := (odBump_changes { s with holds := (d, c.age) :: s.holds.filter (fun p => p.1 != d) } (0x2300 + d) 0x07 1).same .budget rfl
    exact ⟨_, hrun, by rw [hholds]; simp, odGet_odBump _ _ _ _ (not_logKey (by omega) (by decide))⟩
  · show execHoldLimitExpiry d s = _
    simp only [execHoldLimitExpiry, hfirst, hold, Bool.not_true, Bool.and_false, Bool.false_eq_true, if_false]

end Sys2Proof.Machine
end

section
/-! PROOFS. The control commands and the reserves: O7 to O10, O12 and O16 (R200 to R206, R217, R227 to R229). -/

namespace Sys2Proof.Machine

/-! ### The tallies that a completion leaves (R202) -/

/-- A field of a command word is below the power of its width. -/
theorem fld_lt (w : CmdWord) (hi lo : Nat) : fld w hi lo < 2 ^ (hi + 1 - lo) := Nat.mod_lt _ (Nat.two_pow_pos _)

theorem addedTally_congr (c : Cmd) {f g : Nat → Nat} (h : ∀ k, f k = g k) (k : Nat) : addedTally c f k = addedTally c g k := by
  unfold addedTally
  rw [h k]

/-- A command that finishes OK has ended, with its add. -/
theorem finishCmd_ends_with_add {s : State} (hs : s.Sound) (c : Cmd) :
    ended (finishCmd s c stOK) c.u c.q c.serial ∧ ∀ k, tallyGet (finishCmd s c stOK) k = addedTally c (tallyGet s) k :=
  ⟨completeCmd_ends s c stOK 0, fun k => completeCmd_adds s c stOK 0 k hs (by decide)⟩

/-- The tallies after the set of a TSET (R228). -/
theorem tallyGet_tset {s : State} (hs : s.Sound) (c : Cmd) (k : Nat) :
    tallyGet (tallySet s (fld c.word 117 104) (fld c.word 149 118)) k = if k = fld c.word 117 104 then fld c.word 149 118 else tallyGet s k := by
  rw [tallyGet_tallySet s hs, Nat.mod_eq_of_lt (fld_lt c.word 149 118)]

/-! ### The rows of the control commands -/

theorem nop_of_ready {s : State} {u q : Nat} {c : Cmd} (h : readyControl s u q 0x00 = some c) :
    exec (.nop u q) s = .next (finishCmd s c stOK) := by
  show execNop u q s = _
  simp only [execNop, h]

theorem twait_of_ready {s : State} {u q : Nat} {c : Cmd} (h : readyControl s u q 0x01 = some c) :
    exec (.twait u q) s = .next (finishCmd s c stOK) := by
  show execTwait u q s = _
  simp only [execTwait, h]

theorem tset_of_ready {s : State} {u q : Nat} {c : Cmd} (h : readyControl s u q 0x02 = some c) :
    exec (.tset u q) s = .next (finishCmd (tallySet s (fld c.word 117 104) (fld c.word 149 118)) c stOK) := by
  show execTset u q s = _
  simp only [execTset, h]

/-- A TSET ends with its add applied to the tallies that its set leaves. -/
theorem tset_ends_with_add {s : State} (hs : s.Sound) (c : Cmd) :
    ended (finishCmd (tallySet s (fld c.word 117 104) (fld c.word 149 118)) c stOK) c.u c.q c.serial ∧
      ∀ k, tallyGet (finishCmd (tallySet s (fld c.word 117 104) (fld c.word 149 118)) c stOK) k =
        addedTally c (fun j => if j = fld c.word 117 104 then fld c.word 149 118 else tallyGet s j) k := by
  obtain ⟨hended, hadded⟩ := finishCmd_ends_with_add ((tallySet_changes s (fld c.word 117 104) (fld c.word 149 118)).sound hs) c
  exact ⟨hended, fun k => (hadded k).trans (addedTally_congr c (tallyGet_tset hs c) k)⟩

/-- Settles O7: each row finishes its command, TSET in the state that its set leaves. -/
theorem controlCommandsComplete : Obligations.ControlCommandsComplete := by
  refine ⟨fun s u q c hs h => ?_, fun s u q c hs h => ?_, fun s u q c hs h => ?_⟩ <;> obtain ⟨-, rfl, rfl, -⟩ := readyControl_spec h
  · exact ⟨_, nop_of_ready h, finishCmd_ends_with_add hs c⟩
  · exact ⟨_, twait_of_ready h, finishCmd_ends_with_add hs c⟩
  · exact ⟨_, tset_of_ready h, tset_ends_with_add hs c⟩

/-! ### The add (R202) -/

/-- A status that is neither OK nor SKIPPED lies above both. -/
theorem one_lt_status {st : Nat} (hok : st ≠ stOK) (hskipped : st ≠ stSKIPPED) : 1 < st := by
  unfold stOK at hok
  unfold stSKIPPED at hskipped
  omega

theorem tallyGet_completeCmd {s : State} (hs : s.Sound) (c : Cmd) (st code k : Nat) :
    tallyGet (completeCmd s c st code) k = if st = stOK ∨ st = stSKIPPED then addedTally c (tallyGet s) k else tallyGet s k := by
  split
  · next hst => exact completeCmd_adds s c st code k hs (by unfold stOK stSKIPPED at hst; omega)
  · next hst =>
    obtain ⟨hok, hskipped⟩ := not_or.mp hst
    exact tallyGet_congr (completeCmd_addsNothing s c st code (one_lt_status hok hskipped)) k

/-- Two commands that add to one tally both count. -/
theorem tallyGet_two_adds {s : State} (hs : s.Sound) {c d : Cmd} {k : Nat} (hc : c.aen = true) (hd : d.aen = true) (hck : c.atally = k)
    (hdk : d.atally = k) : tallyGet (completeCmd (completeCmd s c stOK 0) d stOK 0) k = (tallyGet s k + c.aval + d.aval) % 2 ^ 32 := by
  have hfirst : tallyGet (completeCmd s c stOK 0) k = (tallyGet s k + c.aval) % 2 ^ 32 := by
    rw [completeCmd_adds s c stOK 0 k hs (by decide), addedTally, if_pos ⟨hc, hck.symm⟩]
  rw [completeCmd_adds _ d stOK 0 k ((completeCmd_changes s c stOK 0).sound hs) (by decide), addedTally, if_pos ⟨hd, hdk.symm⟩, hfirst,
    Nat.mod_add_mod]

/-- Settles O8: a completion by its status, a stop of the context by its completions, TSET by its set before its add. -/
theorem addsOnlyOnSuccess : Obligations.AddsOnlyOnSuccess := by
  refine ⟨fun s c st code k hs => tallyGet_completeCmd hs c st code k, fun s c st code r k hok hskipped => ?_, fun s u q c t hs h hrun => ?_,
    fun s c d k hs => tallyGet_two_adds hs⟩
  · exact tallyGet_congr (failCmd_tallies s c st code r (one_lt_status hok hskipped)) k
  · rw [tset_of_ready h] at hrun
    cases hrun
    exact (tset_ends_with_add hs c).2

/-! ### QFENCE (R200, R203) -/

theorem qfence_of_ready {s : State} {u q : Nat} {c : Cmd} (h : readyControl s u q 0x03 = some c) :
    exec (.qfence u q) s = .next (if fenceOpen s c = true then finishCmd s c stOK else putCmd s { c with stage := .parked }) := by
  show execQfence u q s = _
  simp only [execQfence, h]

theorem qfence_of_parked {s : State} {u q : Nat} {c : Cmd} (h : readyControl s u q 0x03 = none)
    (hparked : (qCmds s u q).find? (fun d => d.stage == .parked && d.op == 0x03) = some c) :
    exec (.qfence u q) s = .next (if fenceOpen s c = true then finishCmd s c stOK else s) := by
  show execQfence u q s = _
  simp only [execQfence, h, hparked]

/-- Settles O9: an open fence finishes its command, a shut one parks it. -/
theorem qfenceWaitsForEarlierCommands : Obligations.QfenceWaitsForEarlierCommands := by
  intro s u q c hs
  refine ⟨fun h => ?_, fun h hparked hopen => ?_⟩
  · have hrun := qfence_of_ready h
    obtain ⟨hmem, rfl, rfl, -⟩ := readyControl_spec h
    refine ⟨fun hopen => ?_, fun hshut => ?_⟩
    · rw [hopen, if_pos rfl] at hrun
      exact ⟨_, hrun, finishCmd_ends_with_add hs c⟩
    · rw [hshut, if_neg (by decide)] at hrun
      exact ⟨_, hrun, findCmd_putCmd hmem rfl rfl rfl, rfl⟩
  · have hrun := qfence_of_parked h hparked
    obtain ⟨-, rfl, rfl, -⟩ := find_qCmds hparked
    rw [hopen, if_pos rfl] at hrun
    exact ⟨_, hrun, finishCmd_ends_with_add hs c⟩

/-! ### Reserves (R217, R229) -/

/-- The state that a BRESERVE leaves before its completion: the old reserve back in the bucket, and the new one out of it. -/
def reservedState (s : State) (c : Cmd) : State :=
  setReserveEnd (setReserve (setLevel (returnReserve s c.u c.q) (dieOf c.u) (bucketLevel (returnReserve s c.u c.q) (dieOf c.u) -
    min (fld c.word 135 104) (bucketLevel (returnReserve s c.u c.q) (dieOf c.u)))) c.u c.q
    (min (fld c.word 135 104) (bucketLevel (returnReserve s c.u c.q) (dieOf c.u)))) c.u c.q (s.uptime + 100 * fld c.word 145 136)

theorem breserve_of_ready {s : State} {u q : Nat} {c : Cmd} (h : readyControl s u q 0xC0 = some c) :
    exec (.breserve u q) s = .next (finishCmd (reservedState s c) c stOK) := by
  obtain ⟨-, hu, hq, -⟩ := readyControl_spec h
  show execBreserve u q s = _
  simp only [execBreserve, h]
  rw [← hu, ← hq]
  rfl

theorem brelease_of_ready {s : State} {u q : Nat} {c : Cmd} (h : readyControl s u q 0xC1 = some c) :
    exec (.brelease u q) s = .next (finishCmd (returnReserve s u q) c stOK) := by
  show execBrelease u q s = _
  simp only [execBrelease, h]

theorem dieOf_lt {u q : Nat} (h : queueExists u q = true) : dieOf u < 5 := by
  obtain ⟨hu, -⟩ := queueExists_bounds h
  unfold dieOf
  split <;> omega

/-- A completion touches no bucket level. -/
theorem levelKey_not_completionKey {u q : Nat} (hq : queueExists u q = true) : ¬ completionKey u q (odKey (0x2300 + dieOf u) 0x01) := by
  have hd := dieOf_lt hq
  obtain ⟨hu, hq16⟩ := queueExists_bounds hq
  unfold completionKey logKey odKey queueIndex
  rintro (⟨n, hn, e⟩ | e | e | e | ⟨c, hc, e⟩ | e)
  · split at e <;> omega
  all_goals omega

/-- A completion leaves the reserves and the level of its die's bucket. -/
theorem finishCmd_sameBucket (s : State) {c : Cmd} (hq : queueExists c.u c.q = true) (st : Nat) :
    SameBucket (dieOf c.u) s (finishCmd s c st) := by
  obtain ⟨hreserves, -, hbudgets, -⟩ := (finishCmd_changes s c st).same .budget rfl
  exact ⟨hreserves, hbudgets, (completeCmd_offCompletion s c st 0).get _ _ (levelKey_not_completionKey hq)⟩

theorem reserveEnd_setReserveEnd {s : State} (hs : Store.wf 0 s.reserveEnds = true) (u q v : Nat) :
    Store.get 0 (setReserveEnd s u q v).reserveEnds (drainKey u q) = v := Store.get_put hs

theorem returnReserve_empties {s : State} (hs : s.Sound) (u q : Nat) : reserveOf (returnReserve s u q) u q = 0 :=
  reserveOf_setReserve hs.reserves u q 0

/-- What a BRESERVE takes: from the bucket, into the reserve, until its time. -/
theorem reservedState_reserves {s : State} (hs : s.Sound) (c : Cmd) :
    reserveOf (reservedState s c) c.u c.q = min (fld c.word 135 104) (bucketLevel (returnReserve s c.u c.q) (dieOf c.u)) ∧
      bucketLevel (reservedState s c) (dieOf c.u) =
        bucketLevel (returnReserve s c.u c.q) (dieOf c.u) - reserveOf (reservedState s c) c.u c.q ∧
      Store.get 0 (reservedState s c).reserveEnds (drainKey c.u c.q) = s.uptime + 100 * fld c.word 145 136 := by
  have hback : (returnReserve s c.u c.q).Sound := (returnReserve_changes s c.u c.q).sound hs
  have hreserve : reserveOf (reservedState s c) c.u c.q = min (fld c.word 135 104) (bucketLevel (returnReserve s c.u c.q) (dieOf c.u)) :=
    reserveOf_setReserve hback.reserves _ _ _
  refine ⟨hreserve, ?_, reserveEnd_setReserveEnd hback.reserveEnds _ _ _⟩
  rw [hreserve]
  exact bucketLevel_setLevel _ _ _

/-- Settles O12: what the rows move before they finish their command, whose completion leaves the budget. -/
theorem reservesMove : Obligations.ReservesMove := by
  refine ⟨fun s u q c hs hq h => ?_, fun s u q c hs hq h => ?_⟩
  · have hrun := breserve_of_ready h
    obtain ⟨-, rfl, rfl, -⟩ := readyControl_spec h
    have hbucket := finishCmd_sameBucket (reservedState s c) hq stOK
    obtain ⟨-, hends, -⟩ := (finishCmd_changes (reservedState s c) c stOK).same .budget rfl
    obtain ⟨hreserve, hlevel, hend⟩ := reservedState_reserves hs c
    refine ⟨_, hrun, completeCmd_ends _ _ _ _, ?_, ?_, ?_⟩
    · rw [hbucket.reserveOf, hreserve]
    · rw [hbucket.level, hbucket.reserveOf, hlevel]
    · rw [hends, hend]
  · have hrun := brelease_of_ready h
    obtain ⟨-, rfl, rfl, -⟩ := readyControl_spec h
    have hbucket := finishCmd_sameBucket (returnReserve s c.u c.q) hq stOK
    exact ⟨_, hrun, completeCmd_ends _ _ _ _, (hbucket.reserveOf _ _).trans (returnReserve_empties hs _ _), hbucket.level⟩

/-! ### Frames (R200, R206, R208, R217) -/

theorem onlyCompletion_refl (s : State) (u q : Nat) (more : Nat → Prop) : onlyCompletion s s u q more := ⟨fun _ _ => rfl, fun _ _ _ _ => rfl⟩

/-- A completion in a state whose memory is that of s, and whose dictionary is too but for entries of no queue. -/
theorem finish_onlyCompletion {s x : State} {c : Cmd} {more : Nat → Prop} (hs : s.Sound) (hq : queueExists c.u c.q = true) (hmem : x.mem = s.mem)
    (hod : OdKeeps (fun k => ¬ more k) s x) (hmore : ∀ n, n < 16 → ¬ more (odKey (queueIndex c.u) (c.q * 16 + n))) :
    onlyCompletion s (finishCmd x c stOK) c.u c.q more := by
  have hring : SameRing c.u c.q s x := ⟨hod.get _ _ (hmore 2 (by decide)), hod.get _ _ (hmore 3 (by decide))⟩
  refine ⟨fun a ha => ?_, fun i sub hk hm => ?_⟩
  · have hbyte := (completeCmd_records x c stOK 0 hq).same (hmem ▸ hs.memory) a (fun h => ha ((hring.inRecords a).mp h))
    refine hbyte.trans ?_
    unfold memByte
    rw [hmem]
  · exact ((completeCmd_offCompletion x c stOK 0).get i sub hk).trans (hod.get i sub hm)

theorem finish_onlyCompletion_here {s : State} {c : Cmd} (hs : s.Sound) (hq : queueExists c.u c.q = true) :
    onlyCompletion s (finishCmd s c stOK) c.u c.q (fun _ => False) := finish_onlyCompletion hs hq rfl (.refl s) (fun _ _ => id)

/-- The level of a bucket is no entry of a queue. -/
theorem queueKey_ne_levelKey {u q n : Nat} (hq : queueExists u q = true) (hn : n < 16) :
    odKey (queueIndex u) (q * 16 + n) ≠ odKey (0x2300 + dieOf u) 0x01 := by
  have hd := dieOf_lt hq
  obtain ⟨hu, hq16⟩ := queueExists_bounds hq
  unfold odKey queueIndex
  split <;> omega

theorem returnReserve_keeps (s : State) (u q : Nat) : OdKeeps (fun k => k ≠ odKey (0x2300 + dieOf u) 0x01) s (returnReserve s u q) :=
  ⟨fun _ _ hk => odGet_odSet_ne _ _ hk⟩

theorem reservedState_keeps (s : State) (c : Cmd) : OdKeeps (fun k => k ≠ odKey (0x2300 + dieOf c.u) 0x01) s (reservedState s c) :=
  ⟨fun i sub hk => (odGet_odSet_ne _ _ hk).trans ((returnReserve_keeps s c.u c.q).get i sub hk)⟩

theorem returnReserve_mem (s : State) (u q : Nat) : (returnReserve s u q).mem = s.mem := (returnReserve_changes s u q).same .memory rfl

theorem qfence_onlyCompletion {s t : State} {u q : Nat} (hs : s.Sound) (hq : queueExists u q = true) (h : exec (.qfence u q) s = .next t) :
    onlyCompletion s t u q (fun _ => False) := by
  cases hready : readyControl s u q 0x03 with
  | some c =>
    rw [qfence_of_ready hready] at h
    cases h
    obtain ⟨-, rfl, rfl, -⟩ := readyControl_spec hready
    split
    · exact finish_onlyCompletion_here hs hq
    · exact ⟨fun _ _ => rfl, fun _ _ _ _ => rfl⟩
  | none =>
    cases hparked : (qCmds s u q).find? (fun d => d.stage == .parked && d.op == 0x03) with
    | some c =>
      rw [qfence_of_parked hready hparked] at h
      cases h
      obtain ⟨-, rfl, rfl, -⟩ := find_qCmds hparked
      split
      · exact finish_onlyCompletion_here hs hq
      · exact onlyCompletion_refl s _ _ _
    | none =>
      have hidle : exec (.qfence u q) s = .next s := by
        show execQfence u q s = _
        simp only [execQfence, hready, hparked]
      rw [hidle] at h
      cases h
      exact onlyCompletion_refl s _ _ _

/-- A control command that is not ready does nothing. -/
theorem control_idle {s : State} {u q : Nat} :
    (readyControl s u q 0x00 = none → exec (.nop u q) s = .next s) ∧ (readyControl s u q 0x01 = none → exec (.twait u q) s = .next s) ∧
    (readyControl s u q 0x02 = none → exec (.tset u q) s = .next s) ∧ (readyControl s u q 0xC0 = none → exec (.breserve u q) s = .next s) ∧
    (readyControl s u q 0xC1 = none → exec (.brelease u q) s = .next s) := by
  refine ⟨fun h => ?_, fun h => ?_, fun h => ?_, fun h => ?_, fun h => ?_⟩
  · show execNop u q s = _
    simp only [execNop, h]
  · show execTwait u q s = _
    simp only [execTwait, h]
  · show execTset u q s = _
    simp only [execTset, h]
  · show execBreserve u q s = _
    simp only [execBreserve, h]
  · show execBrelease u q s = _
    simp only [execBrelease, h]

/-- A row that finishes the ready command of a queue, and else does nothing, has the frame of what it finishes. -/
theorem onlyCompletion_of_ready {s t : State} {u q op : Nat} {i : Instr} {f : Cmd → State} {more : Nat → Prop} (h : exec i s = .next t)
    (hidle : readyControl s u q op = none → exec i s = .next s) (hrun : ∀ c, readyControl s u q op = some c → exec i s = .next (f c))
    (hf : ∀ c, c.u = u → c.q = q → onlyCompletion s (f c) c.u c.q more) : onlyCompletion s t u q more := by
  cases hready : readyControl s u q op with
  | none =>
    rw [hidle hready] at h
    cases h
    exact onlyCompletion_refl s _ _ _
  | some c =>
    rw [hrun c hready] at h
    cases h
    obtain ⟨-, rfl, rfl, -⟩ := readyControl_spec hready
    exact hf c rfl rfl

/-- Settles O10: each row by the state in which it finishes its command. -/
theorem controlCommandsFrame : Obligations.ControlCommandsFrame := by
  intro s t u q hs hq
  obtain ⟨hnop, htwait, htset, hbreserve, hbrelease⟩ := control_idle (s := s) (u := u) (q := q)
  refine ⟨fun h => ?_, fun h => ?_, fun h => ?_, qfence_onlyCompletion hs hq, fun h => ?_, fun h => ?_⟩
  · exact onlyCompletion_of_ready h hnop (fun _ => nop_of_ready) (by rintro c rfl rfl; exact finish_onlyCompletion_here hs hq)
  · exact onlyCompletion_of_ready h htwait (fun _ => twait_of_ready) (by rintro c rfl rfl; exact finish_onlyCompletion_here hs hq)
  · refine onlyCompletion_of_ready h htset (fun _ => tset_of_ready) ?_
    rintro c rfl rfl
    exact finish_onlyCompletion hs hq rfl (.of_changes (tallySet_changes s _ _)) (fun _ _ => id)
  · refine onlyCompletion_of_ready h hbreserve (fun _ => breserve_of_ready) ?_
    rintro c rfl rfl
    exact finish_onlyCompletion hs hq (returnReserve_mem s c.u c.q) (reservedState_keeps s c) (fun _ hn => queueKey_ne_levelKey hq hn)
  · refine onlyCompletion_of_ready h hbrelease (fun _ => brelease_of_ready) ?_
    rintro c rfl rfl
    exact finish_onlyCompletion hs hq (returnReserve_mem s c.u c.q) (returnReserve_keeps s c.u c.q) (fun _ hn => queueKey_ne_levelKey hq hn)

/-! ### WAIT_TIMEOUT (R205) -/

/-- Settles O16: the row's condition on the time a wait has stood. -/
theorem waitTimeoutEndsTheCommand : Obligations.WaitTimeoutEndsTheCommand := by
  intro s u q c ctx h hctx hwen hwait
  have hrun : exec (.waitTimeout u q) s = .next (if waitLimit s ctx ≠ 0 ∧ c.issuedAt + waitLimit s ctx < s.uptime
      then failCmd s c stTIMEOUT 0x6001 (cmdReport s c 0x6001 (unitOf u) c.wtally noPeer none) else s) := by
    show execWaitTimeout u q s = _
    simp only [execWaitTimeout, h, hctx, hwen, hwait, Bool.not_false, Bool.and_self, Bool.true_and, Bool.and_eq_true, bne_iff_ne, ne_eq,
      decide_eq_true_eq]
  obtain ⟨-, rfl, rfl, -⟩ := atAdmission_spec h
  refine ⟨fun hlimit hlate => ?_, fun hearly => ?_⟩
  · rw [if_pos ⟨hlimit, by omega⟩] at hrun
    exact ⟨_, hrun, failCmd_ends_without_add s c _ _ (by decide)⟩
  · rw [if_neg (by omega)] at hrun
    exact hrun

end Sys2Proof.Machine
end

section
/-! PROOFS. O11: the record of a command that is alone in its queue, and the slot it is written to (R203, R206). -/

namespace Sys2Proof.Machine

/-! ### The fields of a record (R206) -/

theorem recordWord_fields (s : State) {c : Cmd} {status code tval : Nat} (flags : Flags) (hq : queueExists c.u c.q = true) (hstatus : status < 2 ^ 8)
    (hcode : code < 2 ^ 16) (htval : tval < 2 ^ 32) :
    bits (recordWord s c status code tval flags) 192 64 = s.uptime % 2 ^ 64 ∧
      bits (recordWord s c status code tval flags) 96 32 = c.serial % 2 ^ 32 ∧
      bits (recordWord s c status code tval flags) 80 16 = code ∧ bits (recordWord s c status code tval flags) 64 8 = status := by
  obtain ⟨hu, hq16⟩ := queueExists_bounds hq
  have hop : c.op < 2 ^ 8 := fld_lt c.word 7 0
  have hrerun : c.rerun.toNat ≤ 1 := Bool.toNat_le _
  have hsb : c.sb.toNat ≤ 1 := Bool.toNat_le _
  have hflags : flags.toNat % 64 < 64 := Nat.mod_lt _ (by decide)
  have henergy : min c.energy (2 ^ 32 - 1) < 2 ^ 32 := by omega
  have hphase : 1 - c.serial / 2 ^ qGet s c.u c.q 2 % 2 ≤ 1 := Nat.sub_le _ _
  unfold recordWord
  simp only [bits, Nat.shiftRight_eq_div_pow]
  generalize 1 - c.serial / 2 ^ qGet s c.u c.q 2 % 2 = phase at hphase ⊢
  generalize min c.energy (2 ^ 32 - 1) = energy at henergy ⊢
  generalize flags.toNat % 64 = f at hflags ⊢
  generalize c.rerun.toNat = rerun at hrerun ⊢
  generalize c.sb.toNat = sb at hsb ⊢
  refine ⟨?_, ?_, ?_, ?_⟩ <;> omega

/-! ### Stores and tallies -/

theorem Store.get_eq_or_mem {α : Type} {d : α} : ∀ (m : Store α) (k : Nat), Store.get d m k = d ∨ (k, Store.get d m k) ∈ m
  | [], _ => .inl rfl
  | (j, w) :: r, k => by
    unfold Store.get
    split
    · exact .inl rfl
    · split
      · next e => exact .inr (e ▸ List.mem_cons_self)
      · exact (Store.get_eq_or_mem r k).imp id (List.mem_cons_of_mem _)

/-- A tally is a 32-bit count (R201). -/
theorem tallyGet_lt {s : State} (hs : s.Sound) (k : Nat) : tallyGet s k < 2 ^ 32 := by
  unfold tallyGet
  rcases Store.get_eq_or_mem (d := 0) s.tallies k with h | h
  · rw [h]
    decide
  · exact hs.tallyBound _ h

/-! ### A command alone in its queue -/

/-- A command that is replaced is replaced in its own queue. -/
theorem qCmds_putCmd (s : State) (d : Cmd) : qCmds (putCmd s d) d.u d.q = mapFirst (sameCmd d) (fun _ => d) (qCmds s d.u d.q) := by
  unfold qCmds putCmd
  refine filter_mapFirst (b := d) (P := fun c => c.u == d.u && c.q == d.q) s.cmds (fun b hb => ?_) (by simp)
  obtain ⟨hu, hq, -⟩ := (sameCmd_iff d b).mp hb
  simp [hu, hq]

theorem qCmds_congr {s t : State} (h : t.cmds = s.cmds) (u q : Nat) : qCmds t u q = qCmds s u q := by
  unfold qCmds
  rw [h]

theorem qCmds_dropCmd (s : State) (d : Cmd) (u q : Nat) : qCmds (dropCmd s d) u q = (qCmds s u q).filter (fun c => !sameCmd d c) := by
  unfold qCmds dropCmd
  simp only [List.filter_filter, Bool.and_comm]

/-- A command that the queue does not list is not found. -/
theorem findCmd_of_qCmds_nil {s : State} {u q : Nat} (h : qCmds s u q = []) (n : Nat) : findCmd s u q n = none := by
  unfold findCmd
  refine List.find?_eq_none.mpr fun c hc hk => ?_
  simp only [Bool.and_eq_true] at hk
  exact List.filter_eq_nil_iff.mp h c hc (by simpa using hk.1)

theorem qCmds_nil_of_sublist {s t : State} {u q : Nat} (h : t.cmds.Sublist s.cmds) (hs : qCmds s u q = []) : qCmds t u q = [] :=
  List.sublist_nil.mp (hs ▸ h.filter _)

/-- Where the host holds no line no write is held (R489). -/
theorem snooped_of_noLines {s : State} (hfilter : s.biFilter = []) (hheld : s.biHeld = []) (ranges : List (Nat × Nat)) : snooped s ranges = [] := by
  unfold snooped
  rw [hfilter, hheld]
  rfl

/-- The completed command of a queue that has no other one leaves its record, and no more. -/
theorem writeRecords_single {s : State} {u q k : Nat} {d : Cmd} (hqueue : qCmds s u q = [d]) (hdone : d.stage = .done) (hfilter : s.biFilter = [])
    (hheld : s.biHeld = []) (hk : 0 < k) : writeRecords k s u q = writeRecord (dropCmd s d) u q d.serial d.record d.irq := by
  obtain ⟨k, rfl⟩ := Nat.exists_eq_succ_of_ne_zero hk.ne'
  have hempty : qCmds (writeRecord (dropCmd s d) u q d.serial d.record d.irq) u q = [] := by
    rw [qCmds_congr ((writeRecord_changes _ _ _ _ _ _).same .commands rfl).1, qCmds_dropCmd, hqueue]
    simp [sameCmd_refl]
  have hrest : writeRecords k (writeRecord (dropCmd s d) u q d.serial d.record d.irq) u q = writeRecord (dropCmd s d) u q d.serial d.record d.irq := by
    cases k with
    | zero => rfl
    | succ k => simp only [writeRecords, hempty]
  simp only [writeRecords, hqueue, hdone, beq_self_eq_true, if_true, snooped_of_noLines hfilter hheld, bne_self_eq_false, Bool.and_false,
    Bool.false_eq_true, if_false, hrest]

/-- A record whose slot lies in job memory is written there. -/
theorem writeRecord_mem {s : State} {u q n : Nat} (r : Nat) (irq : Bool) (hlocal : (recordSlot s u q n).1 = false)
    (hjob : inJob s (recordSlot s u q n).2 32 = true) : (writeRecord s u q n r irq).mem = (memPut s (recordSlot s u q n).2 32 r).mem := by
  unfold writeRecord
  simp only [hlocal, hjob, Bool.false_eq_true, if_false, if_true]
  split
  · split
    · exact (raiseVector_changes _ _).same .memory rfl
    · rfl
  · rfl

/-! ### The completion (R203, R206) -/

/-- The record of a command that completes OK. -/
def okRecord (s : State) (c : Cmd) : Nat :=
  recordWord (stickyOr (applyAdd s c stOK) c.u c.q (c.flags ||| c.oldFlags)) c stOK 0
    (if c.aen && stOK ≤ 1 then tallyGet (applyAdd s c stOK) c.atally else 0) c.flags

/-- The state in which the records of a queue leave once a command of it has completed OK. -/
def settledState (s : State) (c : Cmd) : State :=
  let x := settleEnergy (putCmd (stickyOr (applyAdd s c stOK) c.u c.q (c.flags ||| c.oldFlags)) (c.complete (okRecord s c))) c
  let y := dropTiles (releaseHawks x c false) c
  if c.sb then discardHeld y c.u c.q else y

theorem finishCmd_eq (s : State) (c : Cmd) : finishCmd s c stOK =
    drainCheck (writeRecords (settledState s c).cmds.length (settledState s c) c.u c.q) c.u c.q (some c.serial) := rfl

theorem settledState_changes (s : State) (c : Cmd) :
    Changes [.tallies, .od, .commands, .power, .engines, .draws, .recorder, .access, .output] s (settledState s c) := by
  have hput := (((applyAdd_changes s c stOK).mono (K := [.tallies, .od, .commands, .power, .engines, .draws, .recorder, .access, .output]) rfl).trans
    ((stickyOr_changes _ c.u c.q (c.flags ||| c.oldFlags)).mono rfl)).trans ((putCmd_changes _ (c.complete (okRecord s c))).mono rfl)
  have hfreed := ((hput.trans ((settleEnergy_changes _ c).mono rfl)).trans ((releaseHawks_changes _ c false).mono rfl)).trans
    ((dropTiles_changes _ c).mono rfl)
  unfold settledState
  dsimp only
  split
  · exact hfreed.trans ((discardHeld_changes _ _ _).mono rfl)
  · exact hfreed

theorem settledState_cmds (s : State) (c : Cmd) : (settledState s c).cmds = (putCmd s (c.complete (okRecord s c))).cmds := by
  have hcmds : (stickyOr (applyAdd s c stOK) c.u c.q (c.flags ||| c.oldFlags)).cmds = s.cmds :=
    ((stickyOr_changes _ _ _ _).same .commands rfl).1.trans ((applyAdd_changes s c stOK).same .commands rfl).1
  have hput : (putCmd (stickyOr (applyAdd s c stOK) c.u c.q (c.flags ||| c.oldFlags)) (c.complete (okRecord s c))).cmds =
      (putCmd s (c.complete (okRecord s c))).cmds := by
    unfold putCmd
    rw [hcmds]
  have hfreed : ∀ x, Changes [.power, .engines] x (dropTiles (releaseHawks (settleEnergy x c) c false) c) := fun x =>
    (((settleEnergy_changes x c).mono rfl).trans ((releaseHawks_changes _ c false).mono rfl)).trans ((dropTiles_changes _ c).mono rfl)
  unfold settledState
  dsimp only
  split
  · exact ((discardHeld_changes _ _ _).same .commands rfl).1.trans (((hfreed _).same .commands rfl).1.trans hput)
  · exact ((hfreed _).same .commands rfl).1.trans hput

theorem settledState_offCompletion (s : State) (c : Cmd) : OffCompletion c.u c.q s (settledState s c) := by
  have hput := (((OdKeeps.of_changes (applyAdd_changes s c stOK)).trans (stickyOr_offCompletion _ c.u c.q (c.flags ||| c.oldFlags))).trans
    (.of_changes (putCmd_changes _ (c.complete (okRecord s c)))))
  have hfreed := ((hput.trans (.of_changes (settleEnergy_changes _ c))).trans (.of_changes (releaseHawks_changes _ c false))).trans
    (.of_changes (dropTiles_changes _ c))
  unfold settledState
  dsimp only
  split
  · exact hfreed.trans (discardHeld_offCompletion _ _ _)
  · exact hfreed

/-- The slots of a queue's records, and whether one lies in job memory, stay as a completion goes on. -/
theorem OffCompletion.recordSlot {u q : Nat} {s t : State} (h : OffCompletion u q s t) (hq : queueExists u q = true) (n : Nat) :
    recordSlot t u q n = recordSlot s u q n := by
  unfold Machine.recordSlot
  rw [h.qGet hq (by decide) (by decide) (by decide) (by decide), h.qGet hq (by decide) (by decide) (by decide) (by decide)]

theorem capacityKey_not_completionKey {u q : Nat} (hq : queueExists u q = true) : ¬ completionKey u q (odKey 0x4000 0x01) := by
  obtain ⟨hu, hq16⟩ := queueExists_bounds hq
  unfold completionKey logKey odKey queueIndex
  rintro (⟨n, hn, e⟩ | e | e | e | ⟨c, hc, e⟩ | e)
  · split at e <;> omega
  all_goals omega

theorem OffCompletion.inJob {u q : Nat} {s t : State} (h : OffCompletion u q s t) (hq : queueExists u q = true) (a n : Nat) :
    inJob t a n = inJob s a n := by
  unfold Machine.inJob capacity
  rw [h.get _ _ (capacityKey_not_completionKey hq)]

/-- A command alone in its queue that finishes OK, its slot in job memory and no line held by the host: its record is written, and it leaves. -/
theorem finishCmd_single {s : State} {c : Cmd} (hs : s.Sound) (hq : queueExists c.u c.q = true) (hqueue : qCmds s c.u c.q = [c])
    (hlocal : (recordSlot s c.u c.q c.serial).1 = false) (hjob : inJob s (recordSlot s c.u c.q c.serial).2 32 = true) (hfilter : s.biFilter = [])
    (hheld : s.biHeld = []) :
    findCmd (finishCmd s c stOK) c.u c.q c.serial = none ∧
      Store.getList 0 (finishCmd s c stOK).mem (recordSlot s c.u c.q c.serial).2 32 = leBytes 32 (okRecord s c) := by
  have hchanges := settledState_changes s c
  have hoff := settledState_offCompletion s c
  obtain ⟨-, -, -, -, hfilter', hheld', -⟩ := hchanges.same .link rfl
  have hqueue' : qCmds (settledState s c) c.u c.q = [c.complete (okRecord s c)] := by
    rw [qCmds_congr (settledState_cmds s c)]
    refine (qCmds_putCmd s (c.complete (okRecord s c))).trans ?_
    show mapFirst (sameCmd (c.complete (okRecord s c))) _ (qCmds s c.u c.q) = _
    have hsame : sameCmd (c.complete (okRecord s c)) c = true := sameCmd_refl c
    rw [hqueue]
    simp [mapFirst, hsame]
  have hsome : 0 < (settledState s c).cmds.length := by
    refine List.length_pos_of_mem (a := c.complete (okRecord s c)) ?_
    have : c.complete (okRecord s c) ∈ qCmds (settledState s c) c.u c.q := hqueue' ▸ List.mem_cons_self
    exact List.mem_of_mem_filter this
  have hfinish : finishCmd s c stOK = drainCheck (writeRecord (dropCmd (settledState s c) (c.complete (okRecord s c))) c.u c.q c.serial (okRecord s c) c.irq)
      c.u c.q (some c.serial) := by
    rw [finishCmd_eq, writeRecords_single hqueue' rfl (hfilter'.trans hfilter) (hheld'.trans hheld) hsome]
    rfl
  have hslot : recordSlot (dropCmd (settledState s c) (c.complete (okRecord s c))) c.u c.q c.serial = recordSlot s c.u c.q c.serial :=
    hoff.recordSlot hq c.serial
  rw [hfinish]
  constructor
  · refine findCmd_of_qCmds_nil (qCmds_nil_of_sublist (drainCheck_sublist _ _ _ _) ?_) _
    rw [qCmds_congr ((writeRecord_changes _ _ _ _ _ _).same .commands rfl).1, qCmds_dropCmd, hqueue']
    simp [sameCmd_refl]
  · have hmem : (dropCmd (settledState s c) (c.complete (okRecord s c))).mem = s.mem := hchanges.same .memory rfl
    have hthere := writeRecord_mem (s := dropCmd (settledState s c) (c.complete (okRecord s c))) (okRecord s c) c.irq (hslot ▸ hlocal)
      (hslot ▸ (hoff.inJob hq _ 32).trans hjob)
    rw [(drainCheck_changes _ _ _ _).same .memory rfl, hthere, hslot]
    exact getList_memPut _ _ _ _ (hmem ▸ hs.memory)

/-- The uptime, serial, CODE and STATUS of a record of a command that completes OK. -/
theorem okRecord_fields {s : State} (hs : s.Sound) {c : Cmd} (hq : queueExists c.u c.q = true) :
    bits (okRecord s c) 192 64 = s.uptime % 2 ^ 64 ∧ bits (okRecord s c) 96 32 = c.serial % 2 ^ 32 ∧ bits (okRecord s c) 80 16 = 0 ∧
      bits (okRecord s c) 64 8 = 0 := by
  have huptime : (stickyOr (applyAdd s c stOK) c.u c.q (c.flags ||| c.oldFlags)).uptime = s.uptime :=
    ((stickyOr_changes _ _ _ _).same .clock rfl).trans ((applyAdd_changes s c stOK).same .clock rfl)
  have htally : (if c.aen && stOK ≤ 1 then tallyGet (applyAdd s c stOK) c.atally else 0) < 2 ^ 32 := by
    split
    · exact tallyGet_lt ((applyAdd_changes s c stOK).sound hs) _
    · decide
  rw [← huptime]
  exact recordWord_fields _ c.flags hq (by decide) (by decide) htally

/-- Settles O11: the NOP finishes alone in its queue, so that its record leaves at once. -/
theorem recordGoesToItsSlot : Obligations.RecordGoesToItsSlot := by
  intro s u q c hs hq h hqueue hlocal hjob hfilter hheld
  have hrun := nop_of_ready h
  obtain ⟨-, rfl, rfl, -⟩ := readyControl_spec h
  obtain ⟨hgone, hrecord⟩ := finishCmd_single hs hq hqueue hlocal hjob hfilter hheld
  exact ⟨_, okRecord s c, hrun, hgone, hrecord, okRecord_fields hs hq⟩

end Sys2Proof.Machine
end

section
/-! PROOFS. O13 and O14: a fetch takes the word at the head of its ring (R194 to R198, R219, R486, R531). -/

namespace Sys2Proof.Machine

/-! ### A word enters (R196, R198) -/

/-- A queue that fetches is IDLE or RUNNING. -/
theorem live_of_canFetch {s : State} {u q : Nat} (h : canFetch s u q = true) : qGet s u q 6 = 1 ∨ qGet s u q 6 = 2 := by
  simp only [canFetch, queueLive, Bool.and_eq_true, Bool.or_eq_true, beq_iff_eq] at h
  tauto

/-- The command stands behind those in flight, the head moves past it, and the queue shows IDLE where the head meets the tail. -/
theorem enterFetched_enters {s : State} {c : Cmd} (hlive : qGet s c.u c.q 6 = 1 ∨ qGet s c.u c.q 6 = 2) :
    (enterFetched s c).cmds = s.cmds ++ [c] ∧ qGet (enterFetched s c) c.u c.q 4 = wrap 32 (c.serial + 1) ∧
      qGet (enterFetched s c) c.u c.q 6 = if qGet (enterFetched s c) c.u c.q 4 = qGet s c.u c.q 5 then 1 else 2 := by
  have hstate : qGet (qSet { s with cmds := s.cmds ++ [c] } c.u c.q 4 (wrap 32 (c.serial + 1))) c.u c.q 6 = qGet s c.u c.q 6 :=
    qGet_qSet_of_ne { s with cmds := s.cmds ++ [c] } c.u c.q _ (by decide)
  have htail : qGet (qSet { s with cmds := s.cmds ++ [c] } c.u c.q 4 (wrap 32 (c.serial + 1))) c.u c.q 5 = qGet s c.u c.q 5 :=
    qGet_qSet_of_ne { s with cmds := s.cmds ++ [c] } c.u c.q _ (by decide)
  have hhead : qGet (qSet { s with cmds := s.cmds ++ [c] } c.u c.q 4 (wrap 32 (c.serial + 1))) c.u c.q 4 = wrap 32 (c.serial + 1) := qGet_qSet _ _ _ _ _
  unfold enterFetched settleQueue
  rw [if_pos (by rw [hstate]; exact hlive), hhead, htail, qGet_qSet, qGet_qSet_of_ne _ _ _ _ (by decide), hhead]
  exact ⟨rfl, rfl, rfl⟩

/-- A word that enters leaves every entry but the head and the state of its queue. -/
theorem enterFetched_keeps (s : State) (c : Cmd) :
    OdKeeps (fun k => k ≠ odKey (queueIndex c.u) (c.q * 16 + 4) ∧ k ≠ odKey (queueIndex c.u) (c.q * 16 + 6)) s (enterFetched s c) := by
  have hhead : OdKeeps (fun k => k ≠ odKey (queueIndex c.u) (c.q * 16 + 4) ∧ k ≠ odKey (queueIndex c.u) (c.q * 16 + 6)) s
      (qSet { s with cmds := s.cmds ++ [c] } c.u c.q 4 (wrap 32 (c.serial + 1))) :=
    OdKeeps.trans (t := { s with cmds := s.cmds ++ [c] }) .of_od (.qSet' _ _ fun hk => hk.1 rfl)
  unfold enterFetched settleQueue
  split
  · exact hhead.trans (.qSet' _ _ fun hk => hk.2 rfl)
  · exact hhead

/-! ### The search for the step boundary (R219) -/

theorem drainSearch_congr {s t : State} (h : t.draining = s.draining) (u q : Nat) : drainSearch t u q = drainSearch s u q := by
  unfold drainSearch
  rw [h]

theorem drainSearch_enterFetched (s : State) (c : Cmd) (u q : Nat) : drainSearch (enterFetched s c) u q = drainSearch s u q := by
  obtain ⟨hdraining, -⟩ := (enterFetched_changes s c).same .drains rfl
  exact drainSearch_congr hdraining u q

/-- A queue that looks for no boundary takes a word as its fetch enters it. -/
theorem takeWord_of_noSearch {s : State} {u q : Nat} (word : CmdWord) (h : drainSearch s u q = false) :
    takeWord s u q word = enterFetched s (Cmd.fresh u q (qGet s u q 4) word) := by
  have hsearch : drainSearch (enterFetched s (Cmd.fresh u q (qGet s u q 4) word)) u q = false := (drainSearch_enterFetched s _ u q).trans h
  simp only [takeWord, searchStep, Cmd.fresh] at hsearch ⊢
  simp only [hsearch, Bool.not_false, if_true]

/-- A word with SB ends the search: the queue drains up to it. -/
theorem takeWord_finds {s : State} {u q : Nat} {word : CmdWord} (h : drainSearch s u q = true) (hsb : fld word 24 24 = 1) :
    (drainKey u q, qGet s u q 4) ∈ (takeWord s u q word).draining := by
  obtain ⟨hdraining, -⟩ := (enterFetched_changes s (Cmd.fresh u q (qGet s u q 4) word)).same .drains rfl
  have hsearch : drainSearch (enterFetched s (Cmd.fresh u q (qGet s u q 4) word)) u q = true := (drainSearch_enterFetched s _ u q).trans h
  have hboundary : (Cmd.fresh u q (qGet s u q 4) word).sb = true := by
    unfold Cmd.sb
    exact beq_iff_eq.mpr hsb
  obtain ⟨p, hp, hkey⟩ := List.any_eq_true.mp h
  simp only [Bool.and_eq_true, beq_iff_eq] at hkey
  have hput : (takeWord s u q word).draining = mapWhere (fun p => p.1 == drainKey u q) (fun p => (p.1, qGet s u q 4)) s.draining := by
    rw [← hdraining]
    unfold takeWord searchStep
    simp only [hboundary, if_true]
    rw [if_neg]
    · rfl
    · exact fun hnot => absurd hsearch (by simpa [Cmd.fresh] using hnot)
  rw [hput]
  exact List.mem_map.mpr ⟨p, hp, by simp [hkey.1]⟩

/-- What a word that is taken leaves of the dictionary. -/
theorem takeWord_keeps (s : State) (u q : Nat) (word : CmdWord) {i sub : Nat} (hsearch : drainSearch s u q = true → ¬ completionKey u q (odKey i sub))
    (hhead : odKey i sub ≠ odKey (queueIndex u) (q * 16 + 4)) (hstate : odKey i sub ≠ odKey (queueIndex u) (q * 16 + 6)) :
    odGet (takeWord s u q word) i sub = odGet s i sub := by
  have hentered := (enterFetched_keeps s (Cmd.fresh u q (qGet s u q 4) word)).get i sub ⟨hhead, hstate⟩
  cases h : drainSearch s u q with
  | false => rwa [takeWord_of_noSearch word h]
  | true =>
    refine Eq.trans ?_ hentered
    unfold takeWord searchStep
    dsimp only
    split
    · rfl
    · split
      · rfl
      · split
        · exact ((OdKeeps.of_od (s := enterFetched s (Cmd.fresh u q (qGet s u q 4) word))).trans (drainCheck_offCompletion _ _ _ _)).get i sub (hsearch h)
        · rfl

/-! ### The fetch (R198, R486, R531) -/

theorem commandFetch_of_canFetch {s : State} {u q : Nat} (h : HostAns) (hc : canFetch s u q = true) :
    exec (.commandFetch u q h) s = .next (fetchWord s u q h) := by
  show execCommandFetch u q h s = _
  simp only [execCommandFetch, hc, if_true]

theorem ringFetchRetry_of_canFetch {s : State} {u q : Nat} (h : HostAns) (hc : canFetch s u q = true)
    (hhost : (ringSlot s u q (qGet s u q 4)).1 = true) : exec (.ringFetchRetry u q h) s = .next (fetchWord s u q h) := by
  show execRingFetchRetry u q h s = _
  simp only [execRingFetchRetry, hc, hhost, Bool.and_self, if_true]

theorem fetchWord_of_local {s : State} {u q : Nat} (h : HostAns) (hlocal : (ringSlot s u q (qGet s u q 4)).1 = false)
    (hjob : inJob s (ringSlot s u q (qGet s u q 4)).2 32 = true) :
    fetchWord s u q h = if badSectors s (ringSlot s u q (qGet s u q 4)).2 32 = [] then
        takeWord s u q (BitVec.ofNat 256 (memNat s (ringSlot s u q (qGet s u q 4)).2 32))
      else takePoisoned s u q (ringSlot s u q (qGet s u q 4)).2 := by
  by_cases hclean : badSectors s (ringSlot s u q (qGet s u q 4)).2 32 = [] <;> simp [fetchWord, hlocal, hjob, hclean]

theorem fetchWord_of_host {s : State} {u q : Nat} {h : HostAns} (hhost : (ringSlot s u q (qGet s u q 4)).1 = true) (hok : h.ok = true)
    (hpath : hostPath s = true) (hrange : hostOk s (ringSlot s u q (qGet s u q 4)).2 32 false = true) :
    fetchWord s u q h = if h.poisoned = true then takePoisoned s u q (ringSlot s u q (qGet s u q 4)).2
      else takeWord s u q (BitVec.ofNat 256 (leNat (h.data.take 32))) := by
  simp only [fetchWord, hhost, hok, hpath, hrange, Bool.not_true, Bool.or_self, Bool.false_eq_true, if_false, if_true]

/-- A poisoned word ends its command, which adds to no tally. -/
theorem takePoisoned_ends (s : State) (u q a : Nat) :
    ended (takePoisoned s u q a) u q (qGet s u q 4) ∧ (takePoisoned s u q a).tallies = s.tallies := by
  obtain ⟨hended, htallies⟩ := failCmd_ends_without_add (enterFetched s { Cmd.fresh u q (qGet s u q 4) 0 with bad := some a })
    { Cmd.fresh u q (qGet s u q 4) 0 with bad := some a } 0x3005 (cmdReport (enterFetched s { Cmd.fresh u q (qGet s u q 4) 0 with bad := some a })
      { Cmd.fresh u q (qGet s u q 4) 0 with bad := some a } 0x3005 (unitOf u) a noPeer none) (st := stPOISON) (by decide)
  exact ⟨hended, htallies.trans ((enterFetched_changes s _).same .tallies rfl)⟩

/-- A word that is taken where no boundary is looked for. -/
theorem takeWord_takes {s : State} {u q : Nat} (word : CmdWord) (hc : canFetch s u q = true) (hsearch : drainSearch s u q = false) :
    (takeWord s u q word).cmds = s.cmds ++ [Cmd.fresh u q (qGet s u q 4) word] ∧
      qGet (takeWord s u q word) u q 4 = wrap 32 (qGet s u q 4 + 1) ∧
      qGet (takeWord s u q word) u q 6 = if qGet (takeWord s u q word) u q 4 = qGet s u q 5 then 1 else 2 := by
  rw [takeWord_of_noSearch word hsearch]
  exact enterFetched_enters (c := Cmd.fresh u q (qGet s u q 4) word) (live_of_canFetch hc)

/-- Settles O13: a local ring by what its slot holds, a host ring by what the host returned. -/
theorem fetchTakesTheHeadWord : Obligations.FetchTakesTheHeadWord := by
  intro s u q h hc
  have hfetch := commandFetch_of_canFetch h hc
  refine ⟨fun hlocal hjob hclean hsearch => ?_, fun hhost hok hgood hpath hrange hsearch => ?_, fun hhost hok hgood hpath hrange hsearch hsb => ?_,
    fun hlocal hjob hbad => ?_, fun hhost hok hbad hpath hrange => ?_, fun hhost hfail => ?_⟩
  · rw [fetchWord_of_local h hlocal hjob, if_pos hclean] at hfetch
    exact ⟨_, hfetch, takeWord_takes _ hc hsearch⟩
  · have hretry := ringFetchRetry_of_canFetch h hc hhost
    rw [fetchWord_of_host hhost hok hpath hrange, hgood, if_neg (by decide)] at hfetch hretry
    exact ⟨_, hfetch, hretry, takeWord_takes _ hc hsearch⟩
  · have hretry := ringFetchRetry_of_canFetch h hc hhost
    rw [fetchWord_of_host hhost hok hpath hrange, hgood, if_neg (by decide)] at hfetch hretry
    exact ⟨_, hfetch, hretry, takeWord_finds hsearch hsb⟩
  · rw [fetchWord_of_local h hlocal hjob, if_neg hbad] at hfetch
    exact ⟨_, hfetch, takePoisoned_ends s u q _⟩
  · have hretry := ringFetchRetry_of_canFetch h hc hhost
    rw [fetchWord_of_host hhost hok hpath hrange, hbad, if_pos rfl] at hfetch hretry
    exact ⟨_, hfetch, hretry, takePoisoned_ends s u q _⟩
  · have hstays : fetchWord s u q h = s := by simp [fetchWord, hhost, hfail]
    have hretry := ringFetchRetry_of_canFetch h hc hhost
    rw [hstays] at hfetch hretry
    exact ⟨hfetch, hretry⟩

/-! ### The frame -/

/-- A fetch that meets no poison takes a word, or does nothing. -/
theorem fetchWord_cases {s : State} {u q : Nat} {h : HostAns} (hgood : h.poisoned = false)
    (hclean : (ringSlot s u q (qGet s u q 4)).1 = false → badSectors s (ringSlot s u q (qGet s u q 4)).2 32 = []) :
    fetchWord s u q h = s ∨ ∃ word, fetchWord s u q h = takeWord s u q word := by
  unfold fetchWord
  dsimp only
  split
  · split
    · exact .inl rfl
    · rw [hgood, if_neg (by decide)]
      exact .inr ⟨_, rfl⟩
  · next hlocal =>
    split
    · exact .inl rfl
    · rw [hclean (by simpa using hlocal), if_neg (by decide)]
      exact .inr ⟨_, rfl⟩

/-- A row of fetching either fetches or does nothing. -/
theorem fetch_cases {s t : State} {u q : Nat} {h : HostAns} (hrun : exec (.commandFetch u q h) s = .next t ∨ exec (.ringFetchRetry u q h) s = .next t) :
    t = s ∨ t = fetchWord s u q h := by
  rcases hrun with hrun | hrun
  · change execCommandFetch u q h s = _ at hrun
    unfold execCommandFetch at hrun
    cases hrun
    split
    · exact .inr rfl
    · exact .inl rfl
  · change execRingFetchRetry u q h s = _ at hrun
    unfold execRingFetchRetry at hrun
    cases hrun
    split
    · exact .inr rfl
    · exact .inl rfl

/-- Settles O14: what a word that is taken leaves. -/
theorem fetchFrame : Obligations.FetchFrame := by
  intro s t u q i sub h hrun hgood hclean hsearch hhead hstate
  rcases fetch_cases hrun with rfl | rfl
  · rfl
  · rcases fetchWord_cases hgood hclean with hnone | ⟨word, hword⟩
    · rw [hnone]
    · rw [hword]
      exact takeWord_keeps s u q word hsearch hhead hstate

end Sys2Proof.Machine
end

section
/-! PROOFS. O33 and O35: the message of a fabric command, and what the answers to it do (R203, R243 to R245, R253, R292, R305, R308 to R314). -/

namespace Sys2Proof.Machine

/-! ### Fabric commands (R243 to R245) -/

theorem vacatedAt_of_not_inMemory {s : State} {a n : Nat} (h : inMemory s a n = false) : ∃ x, vacatedAt s a n = some x :=
  ⟨_, if_neg (by rw [h]; decide)⟩

/-- A fault ends its command, which adds to no tally. -/
theorem faultCmd_ends_without_add (s : State) (c : Cmd) (code unit detail : Nat) :
    ended (faultCmd s c code unit detail) c.u c.q c.serial ∧ (faultCmd s c code unit detail).tallies = s.tallies :=
  failCmd_ends_without_add s c code _ (by decide)

/-- A command that parks on its message has sent that one, which takes the next number (R203, R292). -/
theorem parkOn_parks {s : State} {c : Cmd} (hmem : c ∈ s.cmds) (head h : Packet) (src : Option Nat) (stored : List Byte)
    (hkind : head.kind = h.kind) (hop : head.op = h.op) (hdaddr : head.daddr = h.daddr) (hlen : head.len = h.len) (hord : head.ord = h.ord)
    (hrten : head.rten = h.rten) (hrtally : head.rtally = h.rtally) : parkedOn s (parkOn s c head src stored) c h src := by
  obtain ⟨hid, hnext, m, hm, his⟩ := originate_keeps (putCmd s { c with stage := .parked }) head src stored [] (some (c.u, c.q, c.serial)) none
  have hpark := parkOn_changes s c head src stored
  have hfound : (findCmd (originate (putCmd s { c with stage := .parked }) head src stored [] (some (c.u, c.q, c.serial)) none).1 c.u c.q c.serial).isSome = true := by
    rw [findCmd_of_changes (originate_changes _ _ _ _ _ _ _) rfl]
    exact findCmd_isSome_putCmd _ (findCmd_isSome_of_mem hmem)
  refine ⟨{ c with stage := .parked, msgs := [s.msgidNext] }, m, ?_, rfl, rfl, hnext, hm, his.msgid, his.owner, his.src, his.kind.trans hkind,
    his.op.trans hop, his.daddr.trans hdaddr, his.len.trans hlen, his.ord.trans hord, his.rten.trans hrten, his.rtally.trans hrtally,
    hpark.same .memory rfl, hpark.same .tallies rfl⟩
  have hput := findCmd_putCmd_self (d := { c with stage := .parked, msgs := [s.msgidNext] }) hfound
  unfold parkOn
  dsimp only
  rw [hid]
  exact hput

/-- A row that parks its command on a message has sent it, whatever its operands are. -/
theorem exec_parks {s : State} {i : Instr} {c : Cmd} (hmem : c ∈ s.cmds) (h : Packet) (src : Option Nat) (arg arg2 : Nat) (stored : List Byte)
    (hrun : exec i s = .next (parkOn s c { h with arg := arg, arg2 := arg2 } src stored)) :
    ∃ t, exec i s = .next t ∧ parkedOn s t c h src :=
  ⟨_, hrun, parkOn_parks hmem _ h src stored rfl rfl rfl rfl rfl rfl rfl⟩

/-- Settles O33: each row parks its command on the message it forms; a local range that has left memory is its fault. -/
theorem fabricCommandsSendOneMessage : Obligations.FabricCommandsSendOneMessage := by
  intro s u q c
  refine ⟨fun h => ⟨fun hthere => ?_, fun hgone => ?_⟩, fun h => ?_, fun h => ⟨fun hthere => ?_, fun hgone => ?_⟩, fun h => ?_⟩ <;>
    obtain ⟨hmem, rfl, rfl, -⟩ := runCmd_spec h
  · refine exec_parks hmem _ _ 0 0 [] ?_
    show execPut c.u c.q s = _
    simp only [execPut, h, vacatedAt_none hthere]
    rfl
  · obtain ⟨a, ha⟩ := vacatedAt_of_not_inMemory hgone
    refine ⟨_, ?_, faultCmd_ends_without_add s c 0x4001 (unitOf c.u) a⟩
    show execPut c.u c.q s = _
    simp only [execPut, h, ha]
  · refine exec_parks hmem _ _ (ptLOCAL c.word) 0 [] ?_
    show execGet c.u c.q s = _
    simp only [execGet, h]
    rfl
  · refine exec_parks hmem _ _ (memNat s (atREC c.word) 8) (memNat s (atREC c.word + 8) 8)
      (leBytes 8 (memNat s (atREC c.word) 8) ++ leBytes 8 (memNat s (atREC c.word + 8) 8)) ?_
    show execAtomic c.u c.q s = _
    simp only [execAtomic, h, vacatedAt_none hthere]
  · obtain ⟨a, ha⟩ := vacatedAt_of_not_inMemory hgone
    refine ⟨_, ?_, faultCmd_ends_without_add s c 0x4001 (unitOf c.u) a⟩
    show execAtomic c.u c.q s = _
    simp only [execAtomic, h, ha]
  · refine exec_parks hmem _ _ (fld c.word 203 140) (fld c.word 139 124) (leBytes 8 (fld c.word 203 140)) ?_
    show execSignal c.u c.q s = _
    simp only [execSignal, h]
    rfl

/-! ### Answers (R304, R308) -/

/-- An answer to a message that is kept is taken out of the inbox, and acts on the message. -/
theorem onAnswer_of_hasAnswer {s : State} {msgid kind op : Nat} {m : SendMsg} {p : Packet} (h : hasAnswer s msgid kind op m p)
    (f : State → SendMsg → Packet → State) : onAnswer s msgid kind op f = f (inboxDrop s p) m p := by
  obtain ⟨hsend, hinbox, -⟩ := h
  simp only [onAnswer, hinbox, hsend]

/-- Where the host holds no line a local write is carried out at once (R489). -/
theorem localWrite_of_noLines {s : State} (hfilter : s.biFilter = []) (hheld : s.biHeld = []) (ranges : List (Nat × Nat)) (f : State → State) :
    localWrite s ranges f = f s := by
  simp [localWrite, hfilter, hheld]

theorem ack_of_hasAnswer {s : State} {msgid : Nat} {m : SendMsg} {p : Packet} (h : hasAnswer s msgid 8 0 m p) (hfilter : s.biFilter = [])
    (hheld : s.biHeld = []) : exec (.ack msgid) s = .next (ackDone (inboxDrop s p) m p) := by
  have hsend := h.1
  show execAck msgid s = _
  simp only [execAck, hsend]
  rw [localWrite_of_noLines hfilter hheld, onAnswer_of_hasAnswer h]

/-- With no message waiting, the end of a message touches the messages kept alone. -/
theorem dropSend_idle {s : State} (hidle : ∀ m ∈ s.sends, m.waiting = false) (msgid : Nat) :
    dropSend s msgid = { s with sends := s.sends.filter (fun m => m.msgid != msgid) } :=
  pumpSends_idle _ _ fun m hm => hidle m (List.mem_of_mem_filter hm)

theorem dropSend_od {s : State} (hidle : ∀ m ∈ s.sends, m.waiting = false) (msgid : Nat) : (dropSend s msgid).od = s.od := by
  rw [dropSend_idle hidle]

theorem memByte_congr {s t : State} (h : t.mem = s.mem) (a : Nat) : memByte t a = memByte s a := by
  simp only [memByte, h]

/-- A command that writes a number and then finishes changes the bytes of the number alone, but for its completion. -/
theorem finishPut_after {s x : State} {c : Cmd} (hq : queueExists c.u c.q = true) (hx : x.Sound) (htallies : x.tallies = s.tallies)
    (hmem : x.mem = s.mem) (hod : x.od = s.od) (a n v : Nat) :
    ended (finishCmd (memPut x a n v) c stOK) c.u c.q c.serial ∧
    (∀ k, tallyGet (finishCmd (memPut x a n v) c stOK) k = addedTally c (tallyGet s) k) ∧
    ∀ b, ¬ inRecords s c.u c.q b → memByte (finishCmd (memPut x a n v) c stOK) b =
      if a ≤ b ∧ b < a + n then listGet 0 (leBytes n v) (b - a) else memByte s b := by
  have hput : Changes _ x (memPut x a n v) := memWriteBad_changes x a (leBytes n v) []
  obtain ⟨hended, hadded, hbytes⟩ := finish_after hq (hput.sound hx) ((hput.same .tallies rfl).trans htallies)
    (SameRing.of_od ((hput.same .od rfl).trans hod))
  refine ⟨hended, hadded, fun b hb => (hbytes b hb).trans ?_⟩
  rw [← memByte_congr hmem b]
  exact memByte_memWriteBad_ite x a b n (leBytes n v) [] hx.memory (leBytes_length n v)

/-- An ACK of a command that takes no old value finishes it. -/
theorem ackDone_finishes {s : State} {m : SendMsg} (p : Packet) {c : Cmd} (hcoll : m.coll = none) (howner : ownerCmd s m = some c)
    (hplain : c.op ≠ 0xA2 ∨ fld c.word 108 108 = 0) : ackDone s m p = finishCmd (dropSend s m.msgid) c stOK := by
  have hret : (c.op = 0xA2 && fld c.word 108 108 == 1) = false := by
    rcases hplain with h | h <;> simp [h]
  simp only [ackDone, hcoll, howner, hret, Bool.false_eq_true, if_false]

/-- An ACK writes the old value that its ATOMIC asked for, where it may, and then finishes the command (R244). -/
theorem ackDone_returns {s : State} {m : SendMsg} (p : Packet) {c : Cmd} (hcoll : m.coll = none) (howner : ownerCmd s m = some c) (hop : c.op = 0xA2)
    (hret : fld c.word 108 108 = 1) (hidle : ∀ m ∈ s.sends, m.waiting = false) (hthere : inMemory s (atREC c.word + 16) 8 = true)
    (hopen : sealedRange s (atREC c.word + 16) 8 = false) :
    ackDone s m p = finishCmd (memPut (dropSend s m.msgid) (atREC c.word + 16) 8 p.arg) c stOK := by
  have hdrop := dropSend_idle hidle m.msgid
  have hvacated : vacatedAt (dropSend s m.msgid) (atREC c.word + 16) 8 = none := by
    rw [hdrop]
    exact vacatedAt_none hthere
  have hsealed : sealedRange (dropSend s m.msgid) (atREC c.word + 16) 8 = false := by
    rw [hdrop]
    exact hopen
  simp only [ackDone, hcoll, howner, hop, hret, decide_true, beq_self_eq_true, Bool.and_self, if_true, hvacated, hsealed, Bool.false_eq_true, if_false]

theorem ack_ends (s : State) (msgid : Nat) (m : SendMsg) (p : Packet) (c : Cmd) (hs : s.Sound) (h : hasAnswer s msgid 8 0 m p)
    (howner : ownerCmd s m = some c) (hfilter : s.biFilter = []) (hheld : s.biHeld = []) (hq : queueExists c.u c.q = true) :
    ((c.op ≠ 0xA2 ∨ fld c.word 108 108 = 0) →
      ∃ t, exec (.ack msgid) s = .next t ∧ ended t c.u c.q c.serial ∧ (∀ k, tallyGet t k = addedTally c (tallyGet s) k) ∧
        ((∀ m ∈ s.sends, m.waiting = false) → ∀ a, ¬ inRecords s c.u c.q a → memByte t a = memByte s a)) ∧
    (c.op = 0xA2 → fld c.word 108 108 = 1 → (∀ m ∈ s.sends, m.waiting = false) → inMemory s (atREC c.word + 16) 8 = true →
      sealedRange s (atREC c.word + 16) 8 = false →
      ∃ t, exec (.ack msgid) s = .next t ∧ ended t c.u c.q c.serial ∧ (∀ k, tallyGet t k = addedTally c (tallyGet s) k) ∧
        ∀ a, ¬ inRecords s c.u c.q a → memByte t a = if atREC c.word + 16 ≤ a ∧ a < atREC c.word + 24
          then listGet 0 (leBytes 8 p.arg) (a - (atREC c.word + 16)) else memByte s a) := by
  have hrun := ack_of_hasAnswer h hfilter hheld
  have hcoll := h.2.2
  have hdropped : (dropSend (inboxDrop s p) m.msgid).Sound := (dropSend_changes (inboxDrop s p) m.msgid).sound (s := inboxDrop s p) { hs with }
  have htallies : (dropSend (inboxDrop s p) m.msgid).tallies = s.tallies := (dropSend_changes (inboxDrop s p) m.msgid).same .tallies rfl
  have hmem : (dropSend (inboxDrop s p) m.msgid).mem = s.mem := (dropSend_changes (inboxDrop s p) m.msgid).same .memory rfl
  refine ⟨fun hplain => ?_, fun hop hret hidle hthere hopen => ?_⟩
  · rw [ackDone_finishes p hcoll (s := inboxDrop s p) howner hplain] at hrun
    refine ⟨_, hrun, completeCmd_ends _ _ _ _, fun k => ?_, fun hidle a ha => ?_⟩
    · exact (completeCmd_adds _ c stOK 0 k hdropped (by decide)).trans (addedTally_congr c (tallyGet_congr htallies) k)
    · obtain ⟨-, -, hbytes⟩ := finish_after (s := s) (c := c) hq hdropped htallies (SameRing.of_od (dropSend_od (s := inboxDrop s p) hidle _))
      exact (hbytes a ha).trans (memByte_congr hmem a)
  · rw [ackDone_returns p hcoll (s := inboxDrop s p) howner hop hret hidle hthere hopen] at hrun
    obtain ⟨hended, hadded, hbytes⟩ := finishPut_after (s := s) (c := c) hq hdropped htallies hmem (dropSend_od (s := inboxDrop s p) hidle _)
      (atREC c.word + 16) 8 p.arg
    exact ⟨_, hrun, hended, hadded, hbytes⟩

/-! ### Messages that go again (R253, R288, R304, R309, R311) -/

/-- A message whose payload has left memory ends its command, which adds to no tally (R253). -/
theorem unlessGone_ends {s : State} {m : SendMsg} {c : Cmd} (hgone : (sourceGone s m).isSome = true) (howner : ownerCmd s m = some c)
    (f : State → State) : ended (unlessGone s m f) c.u c.q c.serial ∧ (unlessGone s m f).tallies = s.tallies := by
  obtain ⟨a, ha⟩ := Option.isSome_iff_exists.mp hgone
  simp only [unlessGone, ha, howner]
  obtain ⟨hended, htallies⟩ := faultCmd_ends_without_add (dropSend s m.msgid) c 0x4001 (unitOf c.u) a
  exact ⟨hended, htallies.trans ((dropSend_changes s m.msgid).same .tallies rfl)⟩

theorem unlessGone_of_there {s : State} {m : SendMsg} (h : sourceGone s m = none) (f : State → State) : unlessGone s m f = f s := by
  simp only [unlessGone, h]

theorem mem_of_findSend {s : State} {msgid : Nat} {m : SendMsg} (h : findSend s msgid = some m) : m ∈ s.sends := List.mem_of_find?_eq_some h

theorem bare_fields {x m : SendMsg} (h : x.bare = m.bare) :
    x.msgid = m.msgid ∧ x.resends = m.resends ∧ x.i = m.i ∧ x.owner = m.owner ∧ x.head = m.head := by
  simp only [SendMsg.bare, SendMsg.mk.injEq] at h
  obtain ⟨hid, hhead, -, -, -, howner, hi, hcount, -⟩ := h
  exact ⟨hid, hcount, hi, howner, hhead⟩

/-- A message that is presented again is kept as it was, but for its timer and what has landed for it. -/
theorem transmit_keeps {s : State} {m : SendMsg} (hm : m ∈ s.sends) (want : Nat → Bool) :
    ∃ x ∈ (transmit s m want).sends, x.msgid = m.msgid ∧ x.resends = m.resends ∧ x.i = m.i := by
  obtain ⟨x, hx, hbare⟩ := (transmit_posts s m want).mem hm
  obtain ⟨hid, hcount, hi, -, -⟩ := bare_fields hbare
  exact ⟨x, hx, hid, hcount, hi⟩

/-- A message that is sent again is counted as such (R311). -/
theorem resend_sentAgain {s : State} {m : SendMsg} (hm : m ∈ s.sends) (want : Nat → Bool) : sentAgain (resend s m want) m m.i := by
  obtain ⟨-, -, -, hput⟩ := mem_mapFirst (p := fun x => x.msgid == m.msgid)
    (f := fun _ => { m with resends := m.resends + 1, got := if m.head.kind = 1 then [] else m.got }) hm (by simp)
  have hposts := (odBump_answers (putSend s { m with resends := m.resends + 1, got := if m.head.kind = 1 then [] else m.got }) 0x5000 0x11 1).posts.trans
    (transmit_posts _ m want)
  obtain ⟨x, hx, hbare⟩ := hposts.mem (s := putSend s { m with resends := m.resends + 1, got := if m.head.kind = 1 then [] else m.got }) hput
  obtain ⟨hid, hcount, hi, howner, hhead⟩ := bare_fields hbare
  exact ⟨x, hx, hid, hcount, hi, howner, congrArg Packet.daddr hhead⟩

/-- What an answer does that asks for packets of its message once more. -/
theorem resendOr_repeats {s : State} {msgid kind op : Nat} {i : Instr} {m : SendMsg} {p : Packet} (h : hasAnswer s msgid kind op m p) (want : Nat → Bool)
    (hrun : exec i s = .next (if mayResend (inboxDrop s p) m = true then resendOr (inboxDrop s p) m want else inboxDrop s p)) :
    (mayResend s m = true → sourceGone s m = none → ∃ t, exec i s = .next t ∧ sentAgain t m m.i ∧ t.cmds = s.cmds) ∧
    (∀ c, mayResend s m = true → (sourceGone s m).isSome = true → ownerCmd s m = some c →
      ∃ t, exec i s = .next t ∧ ended t c.u c.q c.serial ∧ t.tallies = s.tallies) ∧
    (mayResend s m = false → ∃ t, exec i s = .next t ∧ t.sends = s.sends ∧ t.inbox = s.inbox.erase p ∧ t.cmds = s.cmds) := by
  have hm : m ∈ (inboxDrop s p).sends := mem_of_findSend h.1
  have hmay : mayResend (inboxDrop s p) m = mayResend s m := rfl
  rw [hmay] at hrun
  refine ⟨fun hleft hthere => ?_, fun c hleft hgone howner => ?_, fun hnone => ?_⟩
  · rw [hleft, if_pos rfl, resendOr, unlessGone_of_there (s := inboxDrop s p) hthere] at hrun
    exact ⟨_, hrun, resend_sentAgain hm want, ((resend_changes (inboxDrop s p) m want).same .commands rfl).1⟩
  · rw [hleft, if_pos rfl] at hrun
    exact ⟨_, hrun, unlessGone_ends (s := inboxDrop s p) hgone howner _⟩
  · rw [hnone, if_neg (by decide)] at hrun
    exact ⟨_, hrun, rfl, rfl, rfl⟩

theorem nakIncomplete_of_hasAnswer {s : State} {msgid : Nat} {m : SendMsg} {p : Packet} (h : hasAnswer s msgid 9 nakINCOMPLETE m p) :
    exec (.nakIncomplete msgid) s =
      .next (if mayResend (inboxDrop s p) m = true then resendOr (inboxDrop s p) m (fun k => !bitmapHas p k) else inboxDrop s p) := by
  show execNakIncomplete msgid s = _
  rw [execNakIncomplete, onAnswer_of_hasAnswer h]

theorem nakCrc_of_hasAnswer {s : State} {msgid : Nat} {m : SendMsg} {p : Packet} (h : hasAnswer s msgid 9 nakCRC m p) :
    exec (.nakCrc msgid) s = .next (if mayResend (inboxDrop s p) m = true then resendOr (inboxDrop s p) m (fun _ => true) else inboxDrop s p) := by
  show execNakCrc msgid s = _
  rw [execNakCrc, onAnswer_of_hasAnswer h]

theorem nakBusy_of_hasAnswer {s : State} {msgid : Nat} {m : SendMsg} {p : Packet} (h : hasAnswer s msgid 9 nakBUSY m p) :
    exec (.nakBusy msgid) s = .next (if seresPkg m.head.daddr = ownPkg s then
      unlessGone (inboxDrop s p) m (fun s => transmit s m (fun _ => true)) else inboxDrop s p) := by
  show execNakBusy msgid s = _
  rw [execNakBusy, onAnswer_of_hasAnswer h]
  rfl

/-- A NAK BUSY leaves the message to its timer; one of this package itself is presented again at once (R288, log 142). -/
theorem nakBusy_waits {s : State} {msgid : Nat} {m : SendMsg} {p : Packet} (h : hasAnswer s msgid 9 nakBUSY m p) :
    (seresPkg m.head.daddr ≠ ownPkg s → ∃ t, exec (.nakBusy msgid) s = .next t ∧ t.sends = s.sends ∧ t.inbox = s.inbox.erase p ∧ t.cmds = s.cmds) ∧
    (seresPkg m.head.daddr = ownPkg s → sourceGone s m = none → ∃ t x, exec (.nakBusy msgid) s = .next t ∧ t.cmds = s.cmds ∧ x ∈ t.sends ∧
      x.msgid = m.msgid ∧ x.resends = m.resends ∧ x.i = m.i) ∧
    (∀ c, seresPkg m.head.daddr = ownPkg s → (sourceGone s m).isSome = true → ownerCmd s m = some c →
      ∃ t, exec (.nakBusy msgid) s = .next t ∧ ended t c.u c.q c.serial ∧ t.tallies = s.tallies) := by
  have hrun := nakBusy_of_hasAnswer h
  refine ⟨fun hfar => ?_, fun hown hthere => ?_, fun c hown hgone howner => ?_⟩
  · rw [if_neg hfar] at hrun
    exact ⟨_, hrun, rfl, rfl, rfl⟩
  · rw [if_pos hown, unlessGone_of_there (s := inboxDrop s p) hthere] at hrun
    obtain ⟨x, hx, hkept⟩ := transmit_keeps (s := inboxDrop s p) (mem_of_findSend h.1) (fun _ => true)
    exact ⟨_, x, hrun, ((transmit_changes (inboxDrop s p) m fun _ => true).same .commands rfl).1, hx, hkept⟩
  · rw [if_pos hown] at hrun
    exact ⟨_, hrun, unlessGone_ends (s := inboxDrop s p) hgone howner _⟩

/-! ### Messages that fail (R313) -/

/-- A final NAK ends the command of its message, which adds to no tally. -/
theorem failMsg_ends {s : State} {m : SendMsg} {c : Cmd} (howner : ownerCmd s m = some c) (hscreed : screedOf s m = none) {st : Nat} (hst : 1 < st)
    (code unitCore detail : Nat) :
    ended (failMsg s m st code unitCore detail) c.u c.q c.serial ∧ (failMsg s m st code unitCore detail).tallies = s.tallies := by
  have hdrop : (odBump (dropSend s m.msgid) 0x5000 0x12 1).tallies = s.tallies :=
    ((odBump_changes _ _ _ _).same .tallies rfl).trans ((dropSend_changes s m.msgid).same .tallies rfl)
  simp only [failMsg, howner, hscreed]
  obtain ⟨hended, htallies⟩ := failCmd_ends_without_add (odBump (dropSend s m.msgid) 0x5000 0x12 1) c code
    (cmdReport (odBump (dropSend s m.msgid) 0x5000 0x12 1) c code (if unitCore = 1 then unitOf c.u else pkgUnit) detail (seresPkg m.head.daddr) none) hst
  exact ⟨hended, htallies.trans hdrop⟩

/-- Settles O35: each answer takes its message out of the inbox and then ends, repeats or leaves it. -/
theorem answersEndOrRepeat : Obligations.AnswersEndOrRepeat := by
  refine ⟨ack_ends, fun s msgid m p => ⟨nakBusy_waits, fun h => ?_, fun h => resendOr_repeats h _ (nakIncomplete_of_hasAnswer h),
    fun h => resendOr_repeats h _ (nakCrc_of_hasAnswer h)⟩, fun s msgid m p c howner hscreed => ⟨fun h => ?_, fun h => ?_, fun h => ?_⟩⟩
  · refine ⟨inboxDrop s p, ?_, rfl, rfl, rfl⟩
    show execNakNoroute msgid s = _
    rw [execNakNoroute, onAnswer_of_hasAnswer h]
  · have hrun : exec (.nakAddress msgid) s = .next (onAnswer s msgid 9 nakADDRESS _) := rfl
    rw [onAnswer_of_hasAnswer h] at hrun
    exact ⟨_, hrun, failMsg_ends (s := inboxDrop s p) howner hscreed (by decide) _ _ _⟩
  · have hrun : exec (.nakTally msgid) s = .next (onAnswer s msgid 9 nakTALLY _) := rfl
    rw [onAnswer_of_hasAnswer h] at hrun
    exact ⟨_, hrun, failMsg_ends (s := inboxDrop s p) howner hscreed (by decide) _ _ _⟩
  · have hrun : exec (.nakPoison msgid) s = .next (onAnswer s msgid 9 nakPOISON _) := rfl
    rw [onAnswer_of_hasAnswer h] at hrun
    exact ⟨_, hrun, failMsg_ends (s := inboxDrop s p) howner hscreed (by decide) _ _ _⟩

end Sys2Proof.Machine
end

section
/-! PROOFS. O34: the messages of peers that are served here (R204, R244, R287, R307, R308, R310, R315, R316). -/

namespace Sys2Proof.Machine

/-! ### What an answer leaves -/

/-- The tail of the signal ring stays, and nothing that has gone out is taken back. -/
structure KeepsSignals (s t : State) : Prop where
  tail : sigTail t = sigTail s
  out : s.out.Sublist t.out

theorem KeepsSignals.refl (s : State) : KeepsSignals s s := ⟨rfl, .refl _⟩
theorem KeepsSignals.trans {s t u : State} (h : KeepsSignals s t) (g : KeepsSignals t u) : KeepsSignals s u :=
  ⟨g.tail.trans h.tail, h.out.trans g.out⟩
theorem KeepsSignals.of_eq {s t : State} (hod : t.od = s.od) (hout : t.out = s.out) : KeepsSignals s t :=
  ⟨by simp only [sigTail, odGet, hod], by rw [hout]⟩
theorem KeepsSignals.of_changes {K : List Kind} {s t : State} (h : Changes K s t) (hout : K.contains .output = false := by rfl)
    (hod : K.contains .od = false := by rfl) : KeepsSignals s t := .of_eq (h.same .od hod) (h.same .output hout).2.2.2.2
theorem KeepsSignals.foldl {α : Type} {f : State → α → State} (hf : ∀ s a, KeepsSignals s (f s a)) (l : List α) (s : State) :
    KeepsSignals s (l.foldl f s) := by
  induction l generalizing s with
  | nil => exact .refl s
  | cons a r ih => exact (hf s a).trans (ih _)

theorem odBump_keepsSignals (s : State) {i sub : Nat} (n : Nat) (htail : odKey 0x5000 0x0F ≠ odKey i sub) (hsnag : odKey 0x7000 0x01 ≠ odKey i sub) :
    KeepsSignals s (odBump s i sub n) :=
  ⟨odGet_odBump_of_ne s n htail (not_logKey (by decide) (by decide)), (odBump_logs s i sub n hsnag).out⟩

theorem sendOn_keepsSignals (s : State) (port : Nat) (p : Packet) : KeepsSignals s (sendOn s port p) := by
  unfold sendOn sendSince
  dsimp only
  split
  · exact .of_eq rfl rfl
  · exact ⟨rfl, List.sublist_append_left _ _⟩

theorem takeResponse_keepsSignals (s : State) (p : Packet) : KeepsSignals s (takeResponse s p) := by
  unfold takeResponse
  split
  · split
    · split
      · exact .refl s
      · split
        · exact odBump_keepsSignals s 1 (by decide) (by decide)
        · exact .of_eq rfl rfl
    · exact .refl s
  · exact .of_eq rfl rfl

theorem lostResponse_keepsSignals (s : State) (p : Packet) : KeepsSignals s (lostResponse s p) := by
  unfold lostResponse
  split
  · exact odBump_keepsSignals s 1 (by unfold odKey; omega) (by unfold odKey; omega)
  · exact .refl s

theorem sendResponse_keepsSignals (s : State) (p : Packet) : KeepsSignals s (sendResponse s p) := by
  have hcount : KeepsSignals s (if p.kind = 9 then odBump s 0x5000 0x13 1 else s) := by
    split
    · exact odBump_keepsSignals s 1 (by decide) (by decide)
    · exact .refl s
  unfold sendResponse
  dsimp only
  split
  · exact hcount.trans (takeResponse_keepsSignals _ _)
  · split
    · exact hcount.trans (sendOn_keepsSignals _ _ _)
    · exact hcount.trans (.of_eq rfl rfl)
    · exact hcount.trans (lostResponse_keepsSignals _ _)

/-! ### A message that has been answered -/

/-- The context of a message is gone; memory, tallies and the signal ring are as they were. -/
structure MsgEnded (r : RecvCtx) (s t : State) : Prop where
  gone : findRecv t r.spkg r.msgid = none
  mem : t.mem = s.mem
  tallies : t.tallies = s.tallies
  signals : KeepsSignals s t

/-- Responses leave every context, and so one that has been taken away stays so; as none waits, no message goes out. -/
theorem pumpSends_ended {s x t : State} {r : RecvCtx} (hidle : ∀ m ∈ x.sends, m.waiting = false)
    (htaken : x.recvs = (dropRecv s r.spkg r.msgid).recvs) (hbefore : KeepsSignals s x) (hanswers : Answers x t) (hafter : KeepsSignals x t)
    (hmem : (pumpSends 64 t).mem = s.mem) (htallies : (pumpSends 64 t).tallies = s.tallies) :
    MsgEnded r s (pumpSends 64 t) ∧ (pumpSends 64 t).tombs = x.tombs := by
  rw [pumpSends_idle 64 t (hanswers.posts.waiting hidle)] at hmem htallies ⊢
  refine ⟨⟨?_, hmem, htallies, hbefore.trans hafter⟩, hanswers.tombs⟩
  rw [findRecv, hanswers.recvs, htaken, dropRecv, List.find?_filter, List.find?_eq_none]
  intro y _
  cases y.spkg == r.spkg && y.msgid == r.msgid <;> decide

/-- The context is taken away as its stream goes on. -/
theorem advanced_recvs (s : State) (r : RecvCtx) : (dropRecv (advanceStream s r) r.spkg r.msgid).recvs = (dropRecv s r.spkg r.msgid).recvs := by
  obtain ⟨-, hrecvs, -⟩ := advanceStream_posts s r
  simp only [dropRecv, hrecvs]

theorem advanced_keepsSignals (s : State) (r : RecvCtx) : KeepsSignals s (dropRecv (advanceStream s r) r.spkg r.msgid) :=
  (KeepsSignals.of_changes (advanceStream_changes s r)).trans (.of_changes (dropRecv_changes _ _ _))

/-- A state with the tombstone of a message set has its contexts and its signals. -/
theorem withTombs_keeps (s : State) (tombs : List Tomb) : KeepsSignals s { s with tombs := tombs } := .of_eq rfl rfl

theorem answerMsg_ended {s : State} (hidle : ∀ m ∈ s.sends, m.waiting = false) (r : RecvCtx) (a : Packet) : MsgEnded r s (answerMsg s r a) := by
  have hchanges := answerMsg_changes s r a
  obtain ⟨hposts, -, -⟩ := advanceStream_posts s r
  exact (pumpSends_ended (x := { (dropRecv (advanceStream s r) r.spkg r.msgid) with
      tombs := (advanceStream s r).tombs ++ [⟨r.spkg, r.msgid, a, s.uptime⟩] })
    (hposts.waiting hidle) (advanced_recvs s r) ((advanced_keepsSignals s r).trans (withTombs_keeps _ _)) (sendResponse_answers _ a) (sendResponse_keepsSignals _ a)
    (hchanges.same .memory rfl) (hchanges.same .tallies rfl)).1

theorem nakMsg_ended {s : State} (hidle : ∀ m ∈ s.sends, m.waiting = false) (r : RecvCtx) (reason : Nat) : MsgEnded r s (nakMsg s r reason) :=
  answerMsg_ended hidle r _

theorem ackMsg_ended {s : State} (hidle : ∀ m ∈ s.sends, m.waiting = false) (r : RecvCtx) : MsgEnded r s (ackMsg s r) :=
  answerMsg_ended hidle r _

/-- A message that is refused for now ends too, and is not remembered (R304). -/
theorem busyMsg_ended {s : State} (hidle : ∀ m ∈ s.sends, m.waiting = false) (r : RecvCtx) :
    MsgEnded r s (busyMsg s r) ∧ (busyMsg s r).tombs = s.tombs := by
  have hchanges := busyMsg_changes s r
  exact pumpSends_ended (x := dropRecv s r.spkg r.msgid) hidle rfl (.of_changes (dropRecv_changes _ _ _)) (sendResponse_answers _ _)
    (sendResponse_keepsSignals _ _) (hchanges.same .memory rfl) (hchanges.same .tallies rfl)

/-- A GET that is refused frees its context and is not remembered. -/
theorem getMsg_of_refused {s : State} {r : RecvCtx} (h : (!(inJob s (seresOff (recvHead r).daddr) (recvHead r).len ||
    isTallyWord s (seresOff (recvHead r).daddr) (recvHead r).len)) = true) :
    getMsg s r = sendResponse (dropRecv (advanceStream s r) r.spkg r.msgid) (response s (recvHead r) 9 nakADDRESS) := by
  simp only [getMsg, h, if_true]

/-- A GET ends with its data or with a refusal, and is not remembered (R310). -/
theorem getMsg_ended {s : State} (hidle : ∀ m ∈ s.sends, m.waiting = false) (r : RecvCtx) :
    MsgEnded r s (getMsg s r) ∧ (getMsg s r).tombs = s.tombs := by
  have hchanges := getMsg_changes s r
  have hmem := hchanges.same .memory rfl
  have htallies := hchanges.same .tallies rfl
  obtain ⟨hposts, -, htombs⟩ := advanceStream_posts s r
  suffices h : ∃ t, getMsg s r = pumpSends 64 t ∧ Answers (dropRecv (advanceStream s r) r.spkg r.msgid) t ∧
      KeepsSignals (dropRecv (advanceStream s r) r.spkg r.msgid) t by
    obtain ⟨t, hrun, hanswers, hafter⟩ := h
    rw [hrun] at hmem htallies ⊢
    have hended := pumpSends_ended (x := dropRecv (advanceStream s r) r.spkg r.msgid) (r := r) (hposts.waiting hidle) (advanced_recvs s r)
      (advanced_keepsSignals s r) hanswers hafter hmem htallies
    exact ⟨hended.1, hended.2.trans htombs⟩
  by_cases hrefused : (!(inJob s (seresOff (recvHead r).daddr) (recvHead r).len || isTallyWord s (seresOff (recvHead r).daddr) (recvHead r).len)) = true
  · have hanswers := sendResponse_answers (dropRecv (advanceStream s r) r.spkg r.msgid) (response s (recvHead r) 9 nakADDRESS)
    exact ⟨_, (getMsg_of_refused hrefused).trans (pumpSends_idle 64 _ (hanswers.posts.waiting (hposts.waiting hidle))).symm, hanswers,
      sendResponse_keepsSignals _ _⟩
  · exact ⟨_, by simp only [getMsg, hrefused]; rfl, .foldl sendResponse_answers _ _, .foldl sendResponse_keepsSignals _ _⟩

/-! ### The RTEN add (R204) -/

theorem rtenAdd_congr {s x : State} (htallies : x.tallies = s.tallies) (howned : ∀ t, tallyOwned x t = tallyOwned s t) (r : RecvCtx) (k : Nat) :
    rtenAdd x r k = rtenAdd s r k := by
  simp only [rtenAdd, howned, tallyGet_congr htallies]

theorem tallyOwned_congr {s x : State} (h : odGet x 0x9000 0x03 = odGet s 0x9000 0x03) (t : Nat) : tallyOwned x t = tallyOwned s t := by
  have hrec : ctxRec x = ctxRec s := funext fun c => by simp only [ctxRec, h]
  unfold tallyOwned ctxEnabled tallyIn tallyBase tallyCount
  rw [hrec]

/-- A message served: its context is gone, its RTEN add has been applied, and memory and the signal ring stay from here on. -/
structure MsgServed (r : RecvCtx) (s t : State) : Prop where
  gone : findRecv t r.spkg r.msgid = none
  mem : t.mem = s.mem
  tallies : ∀ k, tallyGet t k = rtenAdd s r k
  signals : KeepsSignals s t

/-- The RTEN add and the answer after it: a tally that no context owns is refused, which leaves what is written (R204). -/
theorem withTally_served {s : State} (hs : s.Sound) (hidle : ∀ m ∈ s.sends, m.waiting = false) (r : RecvCtx) (answer : State → State)
    (hanswer : ∀ x : State, (∀ m ∈ x.sends, m.waiting = false) → MsgEnded r x (answer x)) : MsgServed r s (withTally s r answer) := by
  unfold withTally
  dsimp only
  split
  · rename_i hplain
    obtain ⟨hgone, hmem, htallies, hkept⟩ := hanswer s hidle
    exact ⟨hgone, hmem, fun k => (tallyGet_congr htallies k).trans (by simp_all [rtenAdd]), hkept⟩
  · rename_i hadds
    split
    · rename_i howned
      obtain ⟨hgone, hmem, htallies, hkept⟩ := hanswer (tallyAdd s (recvHead r).rtally 1) hidle
      refine ⟨hgone, hmem, fun k => (tallyGet_congr htallies k).trans ?_, (KeepsSignals.of_changes (tallyAdd_changes s _ 1)).trans hkept⟩
      rw [tallyAdd, tallyGet_tallySet s hs, rtenAdd]
      have hrten : (recvHead r).rten = true := by simpa using hadds
      by_cases hk : k = (recvHead r).rtally <;> simp [hk, hrten, howned]
    · rename_i hfree
      obtain ⟨hgone, hmem, htallies, hkept⟩ := nakMsg_ended hidle r nakTALLY
      exact ⟨hgone, hmem, fun k => (tallyGet_congr htallies k).trans (by simp [rtenAdd, hfree]), hkept⟩

/-! ### Messages served -/

theorem readyRecv_spec {s : State} {spkg msgid kind : Nat} {r : RecvCtx} (h : readyRecv s spkg msgid kind = some r) :
    findRecv s spkg msgid = some r ∧ r.spkg = spkg ∧ r.msgid = msgid := by
  unfold readyRecv at h
  split at h
  · rename_i x hx
    split at h
    · cases h
      have hnames := List.find?_some hx
      simp only [Bool.and_eq_true, beq_iff_eq] at hnames
      exact ⟨hx, hnames⟩
    · cases h
  · cases h

theorem serveMessage_of_badCrc {s : State} {spkg msgid kind : Nat} {r : RecvCtx} (h : readyRecv s spkg msgid kind = some r)
    (hcrc : recvCrcOk r = false) (f : State → RecvCtx → State) : serveMessage s spkg msgid kind f = crcMsg s r := by
  simp only [serveMessage, h, hcrc, Bool.not_false, if_true]

theorem serveMessage_of_room {s : State} {spkg msgid kind : Nat} {r : RecvCtx} (h : readyRecv s spkg msgid kind = some r)
    (hcrc : recvCrcOk r = true) (hroom : (kind != 1 && tombsFull s) = false) (f : State → RecvCtx → State) :
    serveMessage s spkg msgid kind f = f s r := by
  simp only [serveMessage, h, hcrc, hroom, Bool.not_true, Bool.false_eq_true, if_false]

theorem serveMessage_of_full {s : State} {spkg msgid kind : Nat} {r : RecvCtx} (h : readyRecv s spkg msgid kind = some r)
    (hcrc : recvCrcOk r = true) (hfull : (kind != 1 && tombsFull s) = true) (f : State → RecvCtx → State) :
    serveMessage s spkg msgid kind f = busyMsg s r := by
  simp only [serveMessage, h, hcrc, hfull, Bool.not_true, Bool.false_eq_true, if_false, if_true]

/-- The first element that a list changes at is found changed, where the change keeps what is looked for. -/
theorem find?_mapFirst {α : Type} {p : α → Bool} {f : α → α} (hf : ∀ a, p a = true → p (f a) = true) (l : List α) :
    (mapFirst p f l).find? p = (l.find? p).map f := by
  induction l with
  | nil => rfl
  | cons a r ih =>
    unfold mapFirst
    by_cases ha : p a = true
    · simp [ha, hf a ha]
    · simp [ha, ih]

/-- A CRC mismatch leaves the context, empty (R308, R315). -/
theorem crcMsg_drops {s : State} {r : RecvCtx} (h : findRecv s r.spkg r.msgid = some r) : crcDropped s (crcMsg s r) r := by
  have hchanges := crcMsg_changes s r
  refine ⟨?_, hchanges.same .memory rfl, hchanges.same .tallies rfl, hchanges.same .channels rfl⟩
  unfold crcMsg findRecv
  rw [(sendResponse_answers _ _).recvs]
  have hfound := find?_mapFirst (p := fun x : RecvCtx => x.spkg == r.spkg && x.msgid == r.msgid) (f := fun x => { x with pkts := [] })
    (fun _ hx => hx) s.recvs
  refine hfound.trans ?_
  have hkept : s.recvs.find? (fun x => x.spkg == r.spkg && x.msgid == r.msgid) = some r := h
  rw [hkept]
  rfl

theorem badCrc_row {s : State} {spkg msgid kind : Nat} {i : Instr} {r : RecvCtx} (f : State → RecvCtx → State)
    (hrun : exec i s = .next (serveMessage s spkg msgid kind f)) (h : readyRecv s spkg msgid kind = some r) (hcrc : recvCrcOk r = false) :
    ∃ t, exec i s = .next t ∧ crcDropped s t r := by
  obtain ⟨hfound, rfl, rfl⟩ := readyRecv_spec h
  exact ⟨_, hrun.trans (congrArg _ (serveMessage_of_badCrc h hcrc f)), crcMsg_drops hfound⟩

theorem full_row {s : State} {spkg msgid kind : Nat} {i : Instr} {r : RecvCtx} (f : State → RecvCtx → State)
    (hrun : exec i s = .next (serveMessage s spkg msgid kind f)) (hidle : ∀ m ∈ s.sends, m.waiting = false) (hkind : (kind != 1) = true)
    (hcrc : recvCrcOk r = true) (hfull : tombsFull s = true) (h : readyRecv s spkg msgid kind = some r) :
    ∃ t, exec i s = .next t ∧ findRecv t spkg msgid = none ∧ t.tallies = s.tallies ∧ t.mem = s.mem ∧ t.tombs = s.tombs := by
  obtain ⟨-, rfl, rfl⟩ := readyRecv_spec h
  obtain ⟨⟨hgone, hmem, htallies, -⟩, htombs⟩ := busyMsg_ended hidle r
  exact ⟨_, hrun.trans (congrArg _ (serveMessage_of_full h hcrc (by rw [hkind, hfull]; rfl) f)), hgone, htallies, hmem, htombs⟩

/-- A row that serves a whole message with a good CRC, where a tombstone is free or none is needed. -/
theorem exec_of_room {s : State} {spkg msgid kind : Nat} {i : Instr} {r : RecvCtx} {f : State → RecvCtx → State}
    (hrun : exec i s = .next (serveMessage s spkg msgid kind f)) (h : readyRecv s spkg msgid kind = some r) (hcrc : recvCrcOk r = true)
    (hroom : (kind != 1 && tombsFull s) = false) : exec i s = .next (f s r) :=
  hrun.trans (congrArg _ (serveMessage_of_room h hcrc hroom f))

theorem putMessage_of_room {s : State} {spkg msgid : Nat} {r : RecvCtx} (h : readyRecv s spkg msgid 0 = some r) (hcrc : recvCrcOk r = true)
    (hroom : tombsFull s = false) : exec (.putMessage spkg msgid) s = .next (putMsg s r) :=
  exec_of_room (f := putMsg) rfl h hcrc (by rw [hroom]; rfl)

theorem getMessage_of_ready {s : State} {spkg msgid : Nat} {r : RecvCtx} (h : readyRecv s spkg msgid 1 = some r) (hcrc : recvCrcOk r = true) :
    exec (.getMessage spkg msgid) s = .next (getMsg s r) :=
  exec_of_room (f := getMsg) rfl h hcrc rfl

theorem atomicMessage_of_room {s : State} {spkg msgid : Nat} {r : RecvCtx} (h : readyRecv s spkg msgid 2 = some r) (hcrc : recvCrcOk r = true)
    (hroom : tombsFull s = false) : exec (.atomicMessage spkg msgid) s = .next (atomicMsg s r) :=
  exec_of_room (f := atomicMsg) rfl h hcrc (by rw [hroom]; rfl)

theorem controlMessage_of_room {s : State} {spkg msgid : Nat} {r : RecvCtx} (h : readyRecv s spkg msgid 7 = some r) (hcrc : recvCrcOk r = true)
    (hroom : tombsFull s = false) : exec (.controlMessage spkg msgid) s = .next (controlMsg s r) :=
  exec_of_room (f := controlMsg) rfl h hcrc (by rw [hroom]; rfl)

/-! ### PUT and ATOMIC -/

/-- A write that is served: its bytes stand, its RTEN add has been applied, and its context is gone. -/
theorem write_served {s : State} (hs : s.Sound) (hidle : ∀ m ∈ s.sends, m.waiting = false) (r : RecvCtx) (a : Nat) (d : List Byte)
    (bad : List (Nat × Nat)) (answer : State → State) (hanswer : ∀ x : State, (∀ m ∈ x.sends, m.waiting = false) → MsgEnded r x (answer x)) :
    findRecv (withTally (memWriteBad s a d bad) r answer) r.spkg r.msgid = none ∧
    (∀ k, tallyGet (withTally (memWriteBad s a d bad) r answer) k = rtenAdd s r k) ∧
    ∀ x, memByte (withTally (memWriteBad s a d bad) r answer) x = if a ≤ x ∧ x < a + d.length then listGet 0 d (x - a) else memByte s x := by
  have hwrite := memWriteBad_changes s a d bad
  have hsends : (memWriteBad s a d bad).sends = s.sends := (hwrite.same .fabric rfl).2.1
  obtain ⟨hgone, hmem, htallies, -⟩ := withTally_served (hwrite.sound hs) (by rw [hsends]; exact hidle) r answer hanswer
  refine ⟨hgone, fun k => ?_, fun x => ?_⟩
  · have hod : (memWriteBad s a d bad).od = s.od := hwrite.same .od rfl
    rw [htallies k, rtenAdd_congr (hwrite.same .tallies rfl) (tallyOwned_congr (by simp only [odGet, hod])) r k]
  · rw [memByte_congr hmem x]
    exact memByte_memWriteBad_ite s a x d.length d bad hs.memory rfl

theorem putMsg_of_writable {s : State} {r : RecvCtx} (hfilter : s.biFilter = []) (hheld : s.biHeld = [])
    (h : peerWritable s (seresOff (recvHead r).daddr) (recvPayload r).length = true) :
    putMsg s r = withTally (memWriteBad s (seresOff (recvHead r).daddr) (recvPayload r) (recvBad r (seresOff (recvHead r).daddr))) r
      (fun s => ackMsg s r) := by
  simp only [putMsg, h, Bool.not_true, Bool.false_eq_true, if_false, localWrite_of_noLines hfilter hheld]

theorem putMsg_of_refused {s : State} {r : RecvCtx} (h : peerWritable s (seresOff (recvHead r).daddr) (recvPayload r).length = false) :
    putMsg s r = nakMsg s r nakADDRESS := by
  simp only [putMsg, h, Bool.not_false, if_true]

/-- The answer of an ATOMIC: the old value, where it asked for it (R244). -/
def atomicAnswer (s : State) (r : RecvCtx) (old : Nat) : Packet :=
  { (response s (recvHead r) 8 0) with arg := if bitOf (recvHead r).op 3 then old else 0 }

theorem atomicMsg_of_word {s : State} {r : RecvCtx} {n : Nat} (hfilter : s.biFilter = []) (hheld : s.biHeld = [])
    (hn : n = (if bitOf (recvHead r).op 4 then 8 else 4)) (hplace : isTallyWord s (seresOff (recvHead r).daddr) 4 = false)
    (hwritable : peerWritable s (seresOff (recvHead r).daddr) n = true) (haligned : seresOff (recvHead r).daddr % n = 0)
    (hop : (recvHead r).op % 8 < 4) (hwide : ¬ ((recvHead r).op % 8 = 1 ∧ n = 8)) (hclean : badSectors s (seresOff (recvHead r).daddr) n = []) :
    atomicMsg s r = withTally (memPut s (seresOff (recvHead r).daddr) n
      (atomicNew ((recvHead r).op % 8) (8 * n) (memNat s (seresOff (recvHead r).daddr) n) (recvHead r).arg (recvHead r).arg2)) r
      (fun x => answerMsg x r (atomicAnswer x r (memNat s (seresOff (recvHead r).daddr) n))) := by
  have hadd : ((recvHead r).op % 8 = 1 && bitOf (recvHead r).op 4) = false := by
    cases hbit : bitOf (recvHead r).op 4 <;> simp_all
  have hknown : ¬ 4 ≤ (recvHead r).op % 8 := by omega
  simp only [atomicMsg, hplace, ← hn, hwritable, haligned, hknown, hadd, hclean, localWrite_of_noLines hfilter hheld, atomicAnswer, ne_eq,
    not_true_eq_false, decide_false, Bool.not_true, Bool.or_self, Bool.false_eq_true, if_false, bne_self_eq_false]

theorem atomicMsg_of_tally {s : State} {r : RecvCtx} {n : Nat} (hplace : isTallyWord s (seresOff (recvHead r).daddr) 4 = true)
    (hn : n = (seresOff (recvHead r).daddr - tallyWindow) / 4) (hop : (recvHead r).op % 8 = 0) (hword : bitOf (recvHead r).op 4 = false)
    (howned : tallyOwned s n = true) :
    atomicMsg s r = withTally (tallyAdd s n ((recvHead r).arg % 2 ^ 32)) r (fun x => answerMsg x r (atomicAnswer x r (tallyGet s n))) := by
  subst hn
  simp only [atomicMsg, hplace, hop, hword, howned, atomicAnswer, ne_eq, not_true_eq_false, decide_false, Bool.or_self, Bool.not_true,
    Bool.false_eq_true, if_false, if_true]

/-! ### CONTROL -/

theorem controlMsg_of_sealed {s : State} {r : RecvCtx} (hop : (recvHead r).op = 0) (h : sealedRange s (sigSlot s) 32 = true) :
    controlMsg s r = nakMsg s r nakADDRESS := by
  simp [controlMsg, hop, h]

theorem controlMsg_of_full {s : State} {r : RecvCtx} (hop : (recvHead r).op = 0) (hring : sigSize s ≠ 0) (hplace : inJob s (sigSlot s) 32 = true)
    (hopen : sealedRange s (sigSlot s) 32 = false) (h : sigFull s = true) : controlMsg s r = busyMsg s r := by
  simp [controlMsg, hop, hring, hplace, hopen, h]

/-- The state as a signal has been written and announced, before its RTEN add and its answer (R316). -/
def signalled (s : State) (r : RecvCtx) : State :=
  raiseVector (odSet (memPut s (sigSlot s) 32 (signalRecord s r)) 0x5000 0x0F (wrap 32 (sigTail s + 1))) 1

theorem controlMsg_of_room {s : State} {r : RecvCtx} (hfilter : s.biFilter = []) (hheld : s.biHeld = []) (hop : (recvHead r).op = 0)
    (hring : sigSize s ≠ 0) (hplace : inJob s (sigSlot s) 32 = true) (hopen : sealedRange s (sigSlot s) 32 = false) (hroom : sigFull s = false) :
    controlMsg s r = withTally (signalled s r) r (fun x => ackMsg x r) := by
  simp only [controlMsg, hop, hring, hplace, hopen, hroom, localWrite_of_noLines hfilter hheld, signalled, zero_ne_one, decide_false,
    Bool.not_true, Bool.or_self, Bool.false_eq_true, if_false]

theorem raiseVector_mem_out (s : State) (v : Nat) : .msix v ∈ (raiseVector s v).out := by
  unfold raiseVector
  dsimp only
  split
  · simp [emit]
  split <;> simp [emit]

/-- The state with a signal written is in order; it has the messages, the tallies and the contexts of before, and the next tail. -/
theorem signalled_frame {s : State} (hs : s.Sound) (r : RecvCtx) :
    (signalled s r).Sound ∧ (signalled s r).tallies = s.tallies ∧ (signalled s r).sends = s.sends ∧
    (signalled s r).mem = (memPut s (sigSlot s) 32 (signalRecord s r)).mem ∧ odGet (signalled s r) 0x9000 0x03 = odGet s 0x9000 0x03 ∧
    sigTail (signalled s r) = wrap 32 (sigTail s + 1) := by
  have hput : Changes _ s (memPut s (sigSlot s) 32 (signalRecord s r)) := memWriteBad_changes s _ _ []
  have hset := odSet_changes (memPut s (sigSlot s) 32 (signalRecord s r)) 0x5000 0x0F (wrap 32 (sigTail s + 1))
  have hraise := raiseVector_changes (odSet (memPut s (sigSlot s) 32 (signalRecord s r)) 0x5000 0x0F (wrap 32 (sigTail s + 1))) 1
  have hentry : ∀ i n, odGet (signalled s r) i n = odGet (odSet (memPut s (sigSlot s) 32 (signalRecord s r)) 0x5000 0x0F (wrap 32 (sigTail s + 1))) i n :=
    fun i n => (OdKeeps.of_changes (P := fun _ => True) hraise).get i n trivial
  refine ⟨hraise.sound (hset.sound (hput.sound hs)), ?_, ?_, ?_, ?_, ?_⟩
  · exact (hraise.same .tallies rfl).trans ((hset.same .tallies rfl).trans (hput.same .tallies rfl))
  · exact (hraise.same .fabric rfl).2.1.trans ((hset.same .fabric rfl).2.1.trans (hput.same .fabric rfl).2.1)
  · exact (hraise.same .memory rfl).trans (hset.same .memory rfl)
  · rw [hentry, odGet_odSet_ne _ _ (by decide)]
    exact (OdKeeps.of_changes (P := fun _ => True) hput).get _ _ trivial
  · rw [sigTail, hentry]
    exact odGet_odSet _ _ _ _

/-- A signal that is served: its record stands, the tail has gone on, and the vector has been raised (R316). -/
theorem signal_served {s : State} (hs : s.Sound) (hidle : ∀ m ∈ s.sends, m.waiting = false) (r : RecvCtx) :
    findRecv (withTally (signalled s r) r (fun x => ackMsg x r)) r.spkg r.msgid = none ∧
    (∀ k, tallyGet (withTally (signalled s r) r (fun x => ackMsg x r)) k = rtenAdd s r k) ∧
    sigTail (withTally (signalled s r) r (fun x => ackMsg x r)) = wrap 32 (sigTail s + 1) ∧
    .msix 1 ∈ (withTally (signalled s r) r (fun x => ackMsg x r)).out ∧
    ∀ a, memByte (withTally (signalled s r) r (fun x => ackMsg x r)) a =
      if sigSlot s ≤ a ∧ a < sigSlot s + 32 then listGet 0 (leBytes 32 (signalRecord s r)) (a - sigSlot s) else memByte s a := by
  obtain ⟨hsound, htallies, hsends, hmem, hcontexts, htail⟩ := signalled_frame hs r
  obtain ⟨hgone, hkeptMem, hadds, hkept⟩ := withTally_served hsound (by rw [hsends]; exact hidle) r (fun x => ackMsg x r)
    (fun x hx => ackMsg_ended hx r)
  refine ⟨hgone, fun k => ?_, hkept.tail.trans htail, hkept.out.subset (raiseVector_mem_out _ 1), fun a => ?_⟩
  · rw [hadds k, rtenAdd_congr htallies (tallyOwned_congr hcontexts) r k]
  · rw [memByte_congr (hkeptMem.trans hmem) a]
    exact memByte_memWriteBad_ite s _ a 32 _ [] hs.memory (leBytes_length _ _)

/-! ### The statement -/

/-- A PUT lands its payload, or is refused where peers may not write. -/
theorem putMessage_served {s : State} {spkg msgid : Nat} {r : RecvCtx} (hs : s.Sound) (hidle : ∀ m ∈ s.sends, m.waiting = false)
    (hfilter : s.biFilter = []) (hheld : s.biHeld = []) (h : readyRecv s spkg msgid 0 = some r) (hcrc : recvCrcOk r = true) (hroom : tombsFull s = false) :
    (peerWritable s (seresOff (recvHead r).daddr) (recvPayload r).length = true →
      ∃ t, exec (.putMessage spkg msgid) s = .next t ∧ findRecv t spkg msgid = none ∧ (∀ k, tallyGet t k = rtenAdd s r k) ∧
        ∀ a, memByte t a = if seresOff (recvHead r).daddr ≤ a ∧ a < seresOff (recvHead r).daddr + (recvPayload r).length
          then listGet 0 (recvPayload r) (a - seresOff (recvHead r).daddr) else memByte s a) ∧
    (peerWritable s (seresOff (recvHead r).daddr) (recvPayload r).length = false →
      ∃ t, exec (.putMessage spkg msgid) s = .next t ∧ findRecv t spkg msgid = none ∧ t.tallies = s.tallies ∧ t.mem = s.mem) := by
  have hrun := putMessage_of_room h hcrc hroom
  obtain ⟨-, rfl, rfl⟩ := readyRecv_spec h
  refine ⟨fun hwritable => ?_, fun hrefused => ?_⟩
  · rw [putMsg_of_writable hfilter hheld hwritable] at hrun
    exact ⟨_, hrun, write_served hs hidle r _ _ _ _ fun x hx => ackMsg_ended hx r⟩
  · rw [putMsg_of_refused hrefused] at hrun
    obtain ⟨hgone, hmem, htallies, -⟩ := nakMsg_ended hidle r nakADDRESS
    exact ⟨_, hrun, hgone, htallies, hmem⟩

/-- Settles O34: a message is refused, dropped, or served by the lemma of its row. -/
theorem messagesAreServed : Obligations.MessagesAreServed := by
  intro s spkg msgid r hs hidle hfilter hheld
  refine ⟨fun h hcrc hroom => putMessage_served hs hidle hfilter hheld h hcrc hroom, badCrc_row putMsg rfl, badCrc_row getMsg rfl,
    badCrc_row atomicMsg rfl, badCrc_row controlMsg rfl, fun h hcrc => ?_, fun h hcrc hroom => ⟨fun n hn hplace hwritable haligned hop hwide hclean => ?_,
      fun n hplace hn hop hword howned hplain => ?_⟩,
    fun h hcrc hroom hop hring hplace => ⟨fun hsealed => ?_, fun hopen hfree => ?_, fun hopen hfull => ?_⟩, fun i hcrc hfull hrow => ?_⟩
  · have hrun := getMessage_of_ready h hcrc
    obtain ⟨-, rfl, rfl⟩ := readyRecv_spec h
    obtain ⟨⟨hgone, hmem, htallies, -⟩, htombs⟩ := getMsg_ended hidle r
    exact ⟨_, hrun, hgone, htallies, hmem, htombs⟩
  · have hrun := atomicMessage_of_room h hcrc hroom
    obtain ⟨-, rfl, rfl⟩ := readyRecv_spec h
    rw [atomicMsg_of_word hfilter hheld hn hplace hwritable haligned hop hwide hclean] at hrun
    obtain ⟨hgone, htallies, hbytes⟩ := write_served hs hidle r (seresOff (recvHead r).daddr) (leBytes n
      (atomicNew ((recvHead r).op % 8) (8 * n) (memNat s (seresOff (recvHead r).daddr) n) (recvHead r).arg (recvHead r).arg2)) [] _
      fun x hx => answerMsg_ended hx r (atomicAnswer x r (memNat s (seresOff (recvHead r).daddr) n))
    simp only [leBytes_length] at hbytes
    exact ⟨_, hrun, hgone, htallies, hbytes⟩
  · have hrun := atomicMessage_of_room h hcrc hroom
    obtain ⟨-, rfl, rfl⟩ := readyRecv_spec h
    rw [atomicMsg_of_tally hplace hn hop hword howned] at hrun
    have hadd := tallyAdd_changes s n ((recvHead r).arg % 2 ^ 32)
    obtain ⟨hgone, hmem, htallies, -⟩ := withTally_served (hadd.sound hs) hidle r _
      fun x hx => answerMsg_ended hx r (atomicAnswer x r (tallyGet s n))
    refine ⟨_, hrun, hgone, hmem, fun k => (htallies k).trans ?_⟩
    simp only [rtenAdd, hplain, Bool.false_eq_true, false_and, if_false]
    exact tallyGet_tallySet s hs n _ k
  · have hrun := controlMessage_of_room h hcrc hroom
    obtain ⟨-, rfl, rfl⟩ := readyRecv_spec h
    rw [controlMsg_of_sealed hop hsealed] at hrun
    obtain ⟨hgone, hmem, htallies, hkept⟩ := nakMsg_ended hidle r nakADDRESS
    exact ⟨_, hrun, hgone, htallies, hmem, hkept.tail⟩
  · have hrun := controlMessage_of_room h hcrc hroom
    obtain ⟨-, rfl, rfl⟩ := readyRecv_spec h
    rw [controlMsg_of_room hfilter hheld hop hring hplace hopen hfree] at hrun
    obtain ⟨hgone, htallies, htail, hvector, hbytes⟩ := signal_served hs hidle r
    exact ⟨_, hrun, hgone, htallies, htail, fun _ => hvector, hbytes⟩
  · have hrun := controlMessage_of_room h hcrc hroom
    obtain ⟨-, rfl, rfl⟩ := readyRecv_spec h
    rw [controlMsg_of_full hop hring hplace hopen hfull] at hrun
    obtain ⟨⟨hgone, hmem, htallies, hkept⟩, -⟩ := busyMsg_ended hidle r
    exact ⟨_, hrun, hgone, htallies, hmem, hkept.tail⟩
  · rcases hrow with ⟨h, rfl⟩ | ⟨h, rfl⟩ | ⟨h, rfl⟩
    · exact full_row putMsg rfl hidle rfl hcrc hfull h
    · exact full_row atomicMsg rfl hidle rfl hcrc hfull h
    · exact full_row controlMsg rfl hidle rfl hcrc hfull h

end Sys2Proof.Machine
end

section
/-! PROOFS. What the stop of a context and the drain of a queue leave of the object dictionary (R209, R219, R220), for O59. -/

namespace Sys2Proof.Machine

/-! ### Commands that end -/

theorem withScreeds_od {P : Nat → Prop} (s : State) (l : List Screed) : OdKeeps P s { s with screeds := l } := .of_od
theorem withDraining_od {P : Nat → Prop} (s : State) (l : List (Nat × Nat)) : OdKeeps P s { s with draining := l } := .of_od
theorem withHeldRecords_od {P : Nat → Prop} (s : State) (l : List (Nat × Nat × Nat)) : OdKeeps P s { s with heldRecords := l } := .of_od
theorem withValid_od {P : Nat → Prop} (s : State) (array v : Nat) : OdKeeps P s (validPut s array v) := .of_od rfl

theorem localWrite_offCompletion {u q : Nat} {s0 s : State} {ranges : List (Nat × Nat)} {f : State → State} (h : OffCompletion u q s0 s)
    (hf : OffCompletion u q s0 (f s)) : OffCompletion u q s0 (localWrite s ranges f) := by
  unfold localWrite
  split
  · exact hf
  split
  · exact h.trans (issueSnoops_offCompletion s ranges)
  · exact h

theorem copyPart_offCompletion {u q : Nat} (s : State) (w : CmdWord) (n : Nat) : OffCompletion u q s (copyPart s w n) := by
  have hsource : OffCompletion u q s (if cpSHOST w then freeBytes s n else (memRead s (cpSRC w) n, s)).2 := by
    split
    · exact .of_od rfl
    · exact .refl s
  unfold copyPart
  dsimp only
  split
  · exact hsource.trans (hostWrite_offCompletion _ _ _ _)
  split
  · exact .refl s
  · exact localWrite_offCompletion hsource (hsource.trans (.of_changes (memWriteBad_changes _ _ _ _)))

theorem copyStopped_offCompletion {u q : Nat} (s : State) (c : Cmd) : OffCompletion u q s (copyStopped s c) := by
  unfold copyStopped
  split
  · dsimp only
    have hdraw : OffCompletion u q s { s with free := s.free + 1 } := .of_od rfl
    generalize Config.freeNat 4 s.free % _ = k
    by_cases hk : k = 0
    · rw [if_pos hk]
      exact hdraw
    · rw [if_neg hk]
      exact hdraw.trans (copyPart_offCompletion _ _ _)
  · exact .refl s

theorem abortCmd_offCompletion (s : State) (c : Cmd) (code : Nat) : OffCompletion c.u c.q s (abortCmd s c code) := by
  have hends := (copyStopped_offCompletion s c).trans (completeCmd_offCompletion (copyStopped s c) c stABORTED code)
  unfold abortCmd
  dsimp only
  split
  · exact hends.trans (fileReport_offLog _ _).offCompletion
  · exact hends

/-- Commands of a queue that end ABORTED leave what a completion in it leaves. -/
theorem abortCmds_offCompletion {u q : Nat} {l : List Cmd} (hl : ∀ c ∈ l, c.u = u ∧ c.q = q) (code : Nat) (s : State) :
    OffCompletion u q s (l.foldl (fun s c => abortCmd s c code) s) := by
  refine OdKeeps.foldl_mem (fun c hc s => ?_) s
  obtain ⟨rfl, rfl⟩ := hl c hc
  exact abortCmd_offCompletion s c code

theorem of_mem_qCmds {s : State} {u q : Nat} {c : Cmd} (h : c ∈ qCmds s u q) : c.u = u ∧ c.q = q := by
  have hnames := (List.mem_filter.mp h).2
  simp only [Bool.and_eq_true, beq_iff_eq] at hnames
  exact hnames

/-! ### Collectives that end -/

/-- The pages below those of the collective channels. -/
def belowChannels (k : Nat) : Prop := k < 0x910000

theorem endColl_belowChannels (s : State) (k : Chan) (stopped : Bool) : OdKeeps belowChannels s (endColl s k stopped) := by
  have hentry : ∀ sub, ¬ belowChannels (odKey (0x9100 + k.id) sub) := fun sub => by unfold belowChannels odKey; omega
  unfold endColl
  dsimp only
  refine OdKeeps.trans ?_ (.set _ _ (hentry 0x01))
  refine OdKeeps.trans ?_ (.set _ _ (hentry 0x05))
  exact .of_od

theorem endColls_belowChannels (s : State) (u q : Nat) : OdKeeps belowChannels s (endColls s u q) :=
  OdKeeps.foldl (fun s k => endColl_belowChannels s k true) _ s

/-! ### The stop of a context (R209) -/

/-- The tails of the queues: no stop writes them. -/
def tailKey (k : Nat) : Prop := 0x360000 ≤ k ∧ k < 0x370000 ∧ k % 16 = 5

theorem tailKey_of_queue {u q : Nat} (h : inQueueRange (u, q)) : tailKey (odKey (queueIndex u) (q * 16 + 5)) := by
  obtain ⟨hu, hq⟩ := h
  have hindex := queueIndex_bounds hu
  dsimp only at hq hindex
  unfold tailKey odKey
  omega

theorem tailKey_stays {u : Nat} (q : Nat) (_ : u < 256) {k : Nat} (h : tailKey k) : ¬ completionKey u q k := by
  obtain ⟨hlow, hhigh, htail⟩ := h
  unfold completionKey odKey logKey
  rintro (⟨n, hn, e⟩ | e | e | e | ⟨c, -, e⟩ | e) <;> omega

theorem OffCompletion.tails {u q : Nat} {s t : State} (h : OffCompletion u q s t) (hu : u < 256) : OdKeeps tailKey s t :=
  h.mono fun _ hk => tailKey_stays q hu hk

theorem stopQueue_tails (s : State) {x : Nat × Nat} (hx : inQueueRange x) : OdKeeps tailKey s (stopQueue s x.1 x.2) := by
  have hstate : OdKeeps tailKey s (qSet s x.1 x.2 6 3) := .qSet' s 3 fun hk => tailKey_stays x.2 hx.1 hk (.inl ⟨6, by decide, rfl⟩)
  have haborts := fun t : State => (abortCmds_offCompletion (l := (qCmds t x.1 x.2).filter stops)
    (fun c hc => of_mem_qCmds (List.mem_filter.mp hc).1) 0x6002 t).tails hx.1
  have hcolls := fun t : State => (endColls_belowChannels t x.1 x.2).mono (Q := tailKey) fun k hk => Nat.lt_trans hk.2.1 (by decide)
  unfold stopQueue
  dsimp only
  refine OdKeeps.trans ?_ ((discardHeld_offCompletion _ _ _).tails hx.1)
  refine OdKeeps.trans ?_ (withScreeds_od _ _)
  refine OdKeeps.trans ?_ (hcolls _)
  refine OdKeeps.trans ?_ (haborts _)
  exact hstate.trans (withDraining_od _ _)

theorem invalidateTile_tails (s : State) {array : Nat} (bank half base cnt : Nat) (h : array < 2048) :
    OdKeeps tailKey s (invalidateTile s array bank half base cnt) := by
  unfold invalidateTile
  dsimp only
  split
  · exact .refl s
  · refine OdKeeps.trans (withValid_od s _ _) ((odBump_keeps _ _ _ _).mono fun k hk => ?_)
    obtain ⟨hlow, hhigh, -⟩ := hk
    unfold odKey logKey
    omega

theorem invalidateContext_tails (s : State) (ctx : Nat) : OdKeeps tailKey s (invalidateContext s ctx) := by
  unfold invalidateContext
  refine OdKeeps.foldl (fun s r => OdKeeps.foldl (fun s e => ?_) _ s) _ s
  split
  · exact .refl s
  · refine OdKeeps.foldl_mem (fun a ha s => OdKeeps.foldl (fun s bank => ?_) _ s) s
    have hunit := urUnit_lt r
    have harray : a < 8 := by
      unfold engineArrays at ha
      split at ha <;> simp at ha <;> omega
    exact invalidateTile_tails s bank _ _ _ (by omega)

theorem stopQueues_tails (s : State) (ctx : Nat) : OdKeeps tailKey s (stopQueues s ctx) := by
  unfold stopQueues
  exact OdKeeps.foldl_mem (fun x hx t => stopQueue_tails t (inQueueRange_of_ctxQueues hx)) s

/-- A context that stops leaves the tail of every queue. -/
theorem stopContext_tails (s : State) (ctx code : Nat) : OdKeeps tailKey s (stopContext s ctx code none) := by
  have hstate : OdKeeps tailKey s (stateChange s pkgUnit (0x9010 + ctx) 0x01 2 code (severityOf code)) :=
    (stateChange_keeps _ _ _ _ _ _ _).mono fun k hk => by
      obtain ⟨hlow, hhigh, -⟩ := hk
      unfold odKey logKey
      omega
  unfold stopContext
  split
  · exact .refl s
  · refine OdKeeps.trans ?_ (invalidateContext_tails _ ctx)
    refine OdKeeps.trans ?_ (.of_changes (stopChans_changes _ ctx))
    exact hstate.trans (stopQueues_tails _ ctx)

theorem writeOrHold_tails (s : State) {x : Nat × Nat × Nat} (hx : x.1 / 16 < 256) : OdKeeps tailKey s (writeOrHold s x) := by
  unfold writeOrHold
  dsimp only
  split
  · exact ((issueSnoops_offCompletion (q := x.1 % 16) s _).tails hx).trans (withHeldRecords_od _ _)
  · exact (writeRecord_offCompletion s _ (x.1 % 16) _ _ _).tails hx

theorem OffLog.tails {s t : State} (h : OffLog s t) : OdKeeps tailKey s t :=
  h.mono fun k hk hlog => by
    obtain ⟨hlow, hhigh, -⟩ := hk
    unfold logKey at hlog
    omega

/-- A tail that the rule refuses leaves the tail of every queue (R195). -/
theorem publishTail_refused {s : State} {u q v : Nat} (hx : inQueueRange (u, q)) (h : tailOk s u q v = false) :
    OdKeeps tailKey s (publishTail s u q v) := by
  have hkey : drainKey u q / 16 < 256 := by
    obtain ⟨hu, hq⟩ := hx
    dsimp only at hu hq
    unfold drainKey
    omega
  unfold publishTail
  rw [if_neg (by rw [h]; decide)]
  split
  · exact .refl s
  · exact ((writeOrHold_tails s hkey).trans (stopContext_tails _ _ _)).trans (fileReport_offLog _ _).tails

/-! ### The drain of a queue (R219, R220) -/

/-- The entries that the drain of a queue leaves. -/
def drainKeeps (u q k : Nat) : Prop := ¬ completionKey u q k ∧ belowChannels k

theorem forceDrain_keeps (s : State) (u q : Nat) : OdKeeps (drainKeeps u q) s (forceDrain s u q) := by
  unfold forceDrain
  split
  · exact .refl s
  · dsimp only
    refine OdKeeps.trans ?_ ((becomeDrained_offCompletion _ u q).mono fun _ hk => hk.1)
    refine OdKeeps.trans ?_ (withScreeds_od _ _)
    refine OdKeeps.trans ?_ ((endColls_belowChannels _ u q).mono fun _ hk => hk.2)
    refine OdKeeps.trans ?_ ((abortCmds_offCompletion (fun c hc => of_mem_qCmds (List.mem_filter.mp hc).1) 0x6003 _).mono fun _ hk => hk.1)
    exact withDraining_od _ _

/-- The state entry of a queue. -/
theorem stateKey_bounds {u q : Nat} (h : inQueueRange (u, q)) :
    0x360000 ≤ odKey (queueIndex u) (q * 16 + 6) ∧ odKey (queueIndex u) (q * 16 + 6) < 0x370000 := by
  obtain ⟨hu, hq⟩ := h
  have hindex := queueIndex_bounds hu
  dsimp only at hq hindex
  unfold odKey
  omega

/-- A queue that drains shows DRAINED (R219). -/
theorem becomeDrained_state (s : State) {u q : Nat} (h : inQueueRange (u, q)) : qGet (becomeDrained s u q) u q 6 = 4 := by
  obtain ⟨hlow, hhigh⟩ := stateKey_bounds h
  have hsettles : ∀ (t : State) (c : Nat), qGet (settleContext t c) u q 6 = qGet t u q 6 := fun t c => by
    unfold settleContext
    split
    · refine (stateChange_keeps _ _ _ _ _ _ _).get _ _ ⟨?_, ?_⟩
      · unfold odKey at *; omega
      · unfold logKey; omega
    · rfl
  unfold becomeDrained
  dsimp only
  split
  · rw [hsettles]
    exact qGet_qSet _ _ _ _ _
  · exact qGet_qSet _ _ _ _ _

theorem forceDrain_state (s : State) {u q : Nat} (h : inQueueRange (u, q)) :
    qGet (forceDrain s u q) u q 6 = if queueLive s u q then 4 else qGet s u q 6 := by
  unfold forceDrain
  cases hlive : queueLive s u q
  · simp
  · simp only [Bool.not_true, Bool.false_eq_true, if_false, if_true]
    exact becomeDrained_state _ h

/-- The drain of one queue leaves the state of another. -/
theorem forceDrain_other (s : State) {u q v r : Nat} (hx : queueExists u q = true) (hy : queueExists v r = true) (hne : (u, q) ≠ (v, r)) :
    qGet (forceDrain s u q) v r 6 = qGet s v r 6 := by
  obtain ⟨hu, hq⟩ := queueExists_bounds hx
  obtain ⟨hv, hr⟩ := queueExists_bounds hy
  refine (forceDrain_keeps s u q).get _ _ ⟨?_, ?_⟩
  · have hdistinct : u ≠ v ∨ q ≠ r := by
      by_contra hsame
      exact hne (by simp_all)
    unfold completionKey odKey queueIndex logKey
    rintro (⟨n, hn, e⟩ | e | e | e | ⟨c, -, e⟩ | e)
    · split at e <;> split at e <;> omega
    all_goals split at e <;> omega
  · exact Nat.lt_trans (stateKey_bounds ⟨by dsimp only; omega, hr⟩).2 (by decide)

/-- The drains of a list of queues: those that are live and listed are DRAINED, and the state of every other queue stays. -/
theorem forceDrains_state {l : List (Nat × Nat)} (hl : ∀ x ∈ l, queueExists x.1 x.2 = true) (s : State) {p : Nat × Nat}
    (hp : queueExists p.1 p.2 = true) :
    qGet (l.foldl (fun s x => forceDrain s x.1 x.2) s) p.1 p.2 6 = if p ∈ l ∧ queueLive s p.1 p.2 = true then 4 else qGet s p.1 p.2 6 := by
  induction l generalizing s with
  | nil => simp
  | cons x r ih =>
    have hx := hl x (.head r)
    have hrange : inQueueRange (p.1, p.2) := by
      obtain ⟨hu, hq⟩ := queueExists_bounds hp
      exact ⟨by dsimp only; omega, hq⟩
    rw [List.foldl_cons, ih (fun y hy => hl y (.tail x hy))]
    by_cases hsame : x = p
    · subst hsame
      have hdrained := forceDrain_state s hrange
      cases hlive : queueLive s x.1 x.2 <;> simp_all [queueLive]
    · have hother := forceDrain_other s hx hp (by simpa [Prod.ext_iff] using hsame)
      have hlive : queueLive (forceDrain s x.1 x.2) p.1 p.2 = queueLive s p.1 p.2 := by simp only [queueLive, hother]
      rw [hother, hlive]
      simp [Ne.symm hsame]

theorem queueExists_of_allQueues {x : Nat × Nat} (h : x ∈ allQueues) : queueExists x.1 x.2 = true := by
  simp only [allQueues, List.mem_flatten, List.mem_map, List.mem_filter, List.mem_range] at h
  obtain ⟨_, ⟨u, ⟨-, hu⟩, rfl⟩, hx⟩ := h
  obtain ⟨q, hq, rfl⟩ := List.mem_map.mp hx
  simp only [queueExists, hu, List.mem_range.mp hq, decide_true, Bool.and_self]

/-! ### The Orphaned state (R499, R500) -/

/-- The attachment state (0x6100.02) is none of what a drain writes. -/
theorem attachmentKey_stays {u : Nat} (q : Nat) (hu : u < 256) : ¬ completionKey u q (odKey 0x6100 0x02) := by
  have hindex := queueIndex_bounds hu
  unfold completionKey odKey logKey
  rintro (⟨n, hn, e⟩ | e | e | e | ⟨c, -, e⟩ | e) <;> omega

end Sys2Proof.Machine
end

section
/-! PROOFS. O59: the host link, its window, its doorbells and the Orphaned state (R219, R220, R483 to R491, R499, R500, R517). -/

namespace Sys2Proof.Machine

/-! ### Link training (R483, R510) -/

/-- The link as it shows in its entries once it has reached L0. -/
def linkShown (s : State) (m width : Nat) (cache : Bool) (k : HostConfig) : State :=
  odSet (odSet (odSet (odSet (sendPending { s with
    linkUp := true, perstLow := false, busMaster := k.busMaster, msixOn := k.msix, msixMasked := k.masked })
    0x6000 0x01 (linkState m)) 0x6000 0x02 (modeRate m)) 0x6000 0x03 width) 0x6000 0x04 (linkProtocols m cache k.mem)

/-- A retrain is counted besides, and raises vector 2. -/
def linkAnnounced (s : State) (m width : Nat) (cache : Bool) (k : HostConfig) : State :=
  if s.linkUp then raiseVector (odBump (linkShown s m width cache k) 0x6000 0x05 1) 2 else linkShown s m width cache k

/-- The reports of the lanes left out. -/
def lanesReported (lanes : List Nat) (s : State) : State := (lanes.filter (· < 16)).foldl laneReport s

/-- Step 3 of a start ends with the link, and step 4 with it where the running image is intact (R510, R513). -/
def linkStepsEnd (s : State) : State :=
  let t := if startStep s = 3 then enterStep s 4 none else s
  if startStep t = 4 && t.fwRuns then enterStep t 5 none else t

theorem trainLink_eq (s : State) (m width : Nat) (cache : Bool) (k : HostConfig) (lanes : List Nat) :
    trainLink s m width cache k lanes = linkStepsEnd (lanesReported lanes (linkAnnounced s m width cache k)) := rfl

/-- The page of the start-up. -/
def startPage (k : Nat) : Prop := k / 256 = 0x1100

theorem enterStep_keeps (s : State) (k : Nat) (ms : Option Nat) : OdKeeps (fun x => ¬ startPage x) s (enterStep s k ms) := by
  have hset : ∀ (t : State) (sub v : Nat), sub < 256 → OdKeeps (fun x => ¬ startPage x) t (odSet t 0x1100 sub v) := fun t sub v hsub =>
    .set t v fun hk => hk (by unfold startPage odKey; omega)
  unfold enterStep
  dsimp only
  refine OdKeeps.trans ?_ (hset _ 0x02 _ (by decide))
  refine OdKeeps.trans ?_ (hset _ 0x01 _ (by decide))
  split
  · refine OdKeeps.trans (t := putDuration s (startStep s) (ms.getD ((s.uptime - s.stepAt) / 100000))) (hset s 0x03 _ (by decide)) ?_
    exact .of_od
  · exact .of_od

theorem enterStep_startStep (s : State) (k : Nat) (ms : Option Nat) : startStep (enterStep s k ms) = k := by
  unfold enterStep startStep
  dsimp only
  rw [odGet_odSet_ne _ _ (by decide)]
  exact odGet_odSet _ _ _ _

theorem enterStep_fwRuns (s : State) (k : Nat) (ms : Option Nat) : (enterStep s k ms).fwRuns = s.fwRuns := by
  unfold enterStep
  dsimp only
  split <;> rfl

theorem linkStepsEnd_keeps (s : State) : OdKeeps (fun x => ¬ startPage x) s (linkStepsEnd s) := by
  have hfirst : OdKeeps (fun x => ¬ startPage x) s (if startStep s = 3 then enterStep s 4 none else s) := by
    split
    · exact enterStep_keeps s 4 none
    · exact .refl s
  unfold linkStepsEnd
  dsimp only
  generalize (if startStep s = 3 then enterStep s 4 none else s) = t at hfirst
  split
  · exact hfirst.trans (enterStep_keeps t 5 none)
  · exact hfirst

theorem linkStepsEnd_changes (s : State) : Changes [.od, .firmware] s (linkStepsEnd s) := by
  have hfirst : Changes [.od, .firmware] s (if startStep s = 3 then enterStep s 4 none else s) := by
    split
    · exact enterStep_changes s 4 none
    · exact .refl
  unfold linkStepsEnd
  dsimp only
  generalize (if startStep s = 3 then enterStep s 4 none else s) = t at hfirst
  split
  · exact hfirst.trans (enterStep_changes t 5 none)
  · exact hfirst

theorem linkStepsEnd_of_three {s : State} (h : startStep s = 3) : startStep (linkStepsEnd s) = if s.fwRuns then 5 else 4 := by
  have hfour := enterStep_startStep s 4 none
  have hfw := enterStep_fwRuns s 4 none
  unfold linkStepsEnd
  rw [if_pos h]
  dsimp only
  rw [hfour, hfw]
  cases s.fwRuns
  · exact hfour
  · exact enterStep_startStep _ 5 none

theorem laneReport_offLog (s : State) (lane : Nat) : OffLog s (laneReport s lane) := by
  unfold laneReport
  dsimp only
  refine OdKeeps.trans ?_ (fileReport_offLog _ _)
  exact (OdKeeps.of_changes (freshNat_changes s 5 16)).trans (.of_changes (freshNat_changes _ 6 3))

theorem laneReport_logs (s : State) (lane : Nat) : Logs s (laneReport s lane) := by
  unfold laneReport
  dsimp only
  refine Logs.trans ?_ (fileReport_logs _ _)
  exact (Logs.of_changes (freshNat_changes s 5 16)).trans (.of_changes (freshNat_changes _ 6 3))

theorem lanesReported_changes (lanes : List Nat) (s : State) : Changes [.draws, .od, .recorder, .access, .output] s (lanesReported lanes s) :=
  Changes.foldl _ .refl laneReport_changes

/-- What the link shows, and the place of the start, are not written by the reports of lanes or by the end of its steps. -/
theorem odGet_trained (lanes : List Nat) (s : State) {sub : Nat} (hsub : sub < 256) :
    odGet (linkStepsEnd (lanesReported lanes s)) 0x6000 sub = odGet s 0x6000 sub := by
  rw [(linkStepsEnd_keeps _).get _ _ (by unfold startPage odKey; omega)]
  exact (OdKeeps.foldl laneReport_offLog _ s).get _ _ (not_logKey (by decide) hsub)

theorem linkAnnounced_keeps (s : State) (m width : Nat) (cache : Bool) (k : HostConfig) :
    OdKeeps (fun x => x ≠ odKey 0x6000 0x05 ∧ ¬ logKey x) (linkShown s m width cache k) (linkAnnounced s m width cache k) := by
  unfold linkAnnounced
  split
  · exact (odBump_keeps _ _ _ _).trans (.of_changes (raiseVector_changes _ _))
  · exact .refl _

/-- An entry that a link in L0 does not show is as it was. -/
theorem odGet_linkShown_other (s : State) (m width : Nat) (cache : Bool) (k : HostConfig) {i n : Nat}
    (h : ∀ sub, 1 ≤ sub → sub ≤ 4 → odKey i n ≠ odKey 0x6000 sub) : odGet (linkShown s m width cache k) i n = odGet s i n := by
  unfold linkShown
  rw [odGet_odSet_ne _ _ (h 4 (by decide) (by decide)), odGet_odSet_ne _ _ (h 3 (by decide) (by decide)),
    odGet_odSet_ne _ _ (h 2 (by decide) (by decide)), odGet_odSet_ne _ _ (h 1 (by decide) (by decide))]
  exact (OdKeeps.of_changes (P := fun _ => True) (sendPending_changes _)).get i n trivial

theorem linkShown_entries (s : State) (m width : Nat) (cache : Bool) (k : HostConfig) :
    odGet (linkShown s m width cache k) 0x6000 0x01 = linkState m ∧ odGet (linkShown s m width cache k) 0x6000 0x02 = modeRate m ∧
    odGet (linkShown s m width cache k) 0x6000 0x03 = width ∧
    odGet (linkShown s m width cache k) 0x6000 0x04 = linkProtocols m cache k.mem := by
  unfold linkShown
  refine ⟨?_, ?_, ?_, odGet_odSet _ _ _ _⟩
  · iterate 3 rw [odGet_odSet_ne _ _ (by decide)]
    exact odGet_odSet _ _ _ _
  · iterate 2 rw [odGet_odSet_ne _ _ (by decide)]
    exact odGet_odSet _ _ _ _
  · rw [odGet_odSet_ne _ _ (by decide)]
    exact odGet_odSet _ _ _ _

/-- The trained link: what it shows and whom it may reach. -/
theorem linkTrained_shows (s : State) (m width : Nat) (cache : Bool) (k : HostConfig) (lanes : List Nat) {t : State}
    (ht : t = trainLink s m width cache k lanes) :
    odGet t 0x6000 0x01 = linkState m ∧ odGet t 0x6000 0x02 = modeRate m ∧ odGet t 0x6000 0x03 = width ∧
    odGet t 0x6000 0x04 = linkProtocols m cache k.mem ∧
    odGet t 0x6000 0x05 = if s.linkUp then min cntMax (odGet s 0x6000 0x05 + 1) else odGet s 0x6000 0x05 := by
  have hkept : ∀ sub, sub < 5 → odGet t 0x6000 sub = odGet (linkShown s m width cache k) 0x6000 sub := fun sub hsub => by
    rw [ht, trainLink_eq, odGet_trained _ _ (by omega)]
    exact (linkAnnounced_keeps s m width cache k).get _ _ ⟨by unfold odKey; omega, not_logKey (by decide) (by omega)⟩
  obtain ⟨hstate, hrate, hwidth, hprotocols⟩ := linkShown_entries s m width cache k
  refine ⟨(hkept 1 (by decide)).trans hstate, (hkept 2 (by decide)).trans hrate, (hkept 3 (by decide)).trans hwidth,
    (hkept 4 (by decide)).trans hprotocols, ?_⟩
  have hbefore : odGet (linkShown s m width cache k) 0x6000 0x05 = odGet s 0x6000 0x05 :=
    odGet_linkShown_other s m width cache k fun sub _ hsub => by unfold odKey; omega
  rw [ht, trainLink_eq, odGet_trained _ _ (by decide), linkAnnounced]
  split
  · rw [(OdKeeps.of_changes (P := fun _ => True) (raiseVector_changes _ _)).get _ _ trivial, odGet_odBump _ _ _ _ (not_logKey (by decide) (by decide)),
      hbefore]
  · exact hbefore

theorem linkAnnounced_link (s : State) (m width : Nat) (cache : Bool) (k : HostConfig) :
    (linkAnnounced s m width cache k).linkUp = true ∧ (linkAnnounced s m width cache k).perstLow = false ∧
    (linkAnnounced s m width cache k).busMaster = k.busMaster ∧ (linkAnnounced s m width cache k).fwRuns = s.fwRuns := by
  have hsend := sendPending_changes { s with linkUp := true, perstLow := false, busMaster := k.busMaster, msixOn := k.msix, msixMasked := k.masked }
  have hannounce : Changes [.draws, .od, .recorder, .access, .output] (linkShown s m width cache k) (linkAnnounced s m width cache k) := by
    unfold linkAnnounced
    split
    · exact (odBump_changes _ _ _ _).trans ((raiseVector_changes _ _).mono rfl)
    · exact .refl
  obtain ⟨hup, hmaster, -, hperst, -⟩ := hannounce.same .link rfl
  obtain ⟨-, -, -, -, hfw, -⟩ := hannounce.same .firmware rfl
  obtain ⟨hup0, hmaster0, -, hperst0, -⟩ := hsend.same .link rfl
  obtain ⟨-, -, -, -, hfw0, -⟩ := hsend.same .firmware rfl
  exact ⟨hup.trans hup0, hperst.trans hperst0, hmaster.trans hmaster0, hfw.trans hfw0⟩

/-- The trained link is up; a retrain has raised vector 2, and step 3 of a start has ended. -/
theorem linkTrained_runs (s : State) (m width : Nat) (cache : Bool) (k : HostConfig) (lanes : List Nat) {t : State}
    (ht : t = trainLink s m width cache k lanes) :
    t.linkUp = true ∧ t.perstLow = false ∧ t.busMaster = k.busMaster ∧ (s.linkUp = true → .msix 2 ∈ t.out) ∧
    (startStep s = 3 → startStep t = if s.fwRuns then 5 else 4) := by
  rw [trainLink_eq] at ht
  obtain ⟨hup, hperst, hmaster, hfw⟩ := linkAnnounced_link s m width cache k
  have hlanes := lanesReported_changes lanes (linkAnnounced s m width cache k)
  have hsteps := linkStepsEnd_changes (lanesReported lanes (linkAnnounced s m width cache k))
  obtain ⟨hup1, hmaster1, -, hperst1, -⟩ := hlanes.same .link rfl
  obtain ⟨hup2, hmaster2, -, hperst2, -⟩ := hsteps.same .link rfl
  obtain ⟨-, -, -, -, hfw1, -⟩ := hlanes.same .firmware rfl
  obtain ⟨-, -, -, -, hout⟩ := hsteps.same .output rfl
  subst ht
  refine ⟨hup2.trans (hup1.trans hup), hperst2.trans (hperst1.trans hperst), hmaster2.trans (hmaster1.trans hmaster), fun hagain => ?_, fun hthree => ?_⟩
  · rw [hout]
    refine (Logs.foldl laneReport_logs _ _).out.subset ?_
    rw [linkAnnounced, if_pos hagain]
    exact raiseVector_mem_out _ 2
  · have hstart : startStep (lanesReported lanes (linkAnnounced s m width cache k)) = 3 := by
      rw [← hthree]
      refine ((OdKeeps.foldl laneReport_offLog _ _).get 0x1100 0x01 (not_logKey (by decide) (by decide))).trans ?_
      refine ((linkAnnounced_keeps s m width cache k).get 0x1100 0x01 ⟨by decide, not_logKey (by decide) (by decide)⟩).trans ?_
      exact odGet_linkShown_other s m width cache k fun sub _ _ => by unfold odKey; omega
    rw [linkStepsEnd_of_three hstart, hfw1, hfw]

theorem linkTraining_of_ready {s : State} {modes widths : List Nat} {cache : Bool} {k : HostConfig} {lanes : List Nat} (hbulk : bulkOn s = true)
    (hrom : s.romRuns = true) {m width : Nat} (hstop : errataStop s = false) (hmode : firstMode modes = some m)
    (hwidth : widestWidth widths lanes = some width) :
    exec (.linkTraining modes widths cache k lanes) s = .next (trainLink s m width cache k lanes) := by
  show execLinkTraining modes widths cache k lanes s = _
  simp only [execLinkTraining, hbulk, hrom, hstop, hmode, hwidth, Bool.not_false, Bool.and_self, if_true]

theorem linkTraining_of_unready {s : State} {modes widths : List Nat} {cache : Bool} {k : HostConfig} {lanes : List Nat}
    (h : errataStop s = true ∨ firstMode modes = none ∨ widestWidth widths lanes = none) :
    exec (.linkTraining modes widths cache k lanes) s = .next s := by
  show execLinkTraining modes widths cache k lanes s = _
  unfold execLinkTraining
  rcases h with hstop | hmode | hwidth
  · simp only [hstop, Bool.not_true, Bool.and_false, Bool.false_eq_true, if_false]
  · simp only [hmode, ite_self]
  · cases firstMode modes <;> simp only [hwidth, ite_self]

/-! ### Link loss (R484, R517) -/

/-- A link that leaves L0 shows nothing and holds no line; the mailbox requests that wait are discarded (R484, R504). -/
def linkShut (s : State) : State :=
  odSet (odSet (odSet (odSet { s with
    linkUp := false, biFilter := [], biHeld := [],
    waitingReqs := s.waitingReqs.filter (fun r => match r.p with | .mailbox _ => false | _ => true) } 0x6000 0x01 0) 0x6000 0x02 0) 0x6000 0x03 0) 0x6000 0x04 0

theorem linkShut_entries (s : State) : odGet (linkShut s) 0x6000 0x01 = 0 ∧ odGet (linkShut s) 0x6000 0x02 = 0 ∧
    odGet (linkShut s) 0x6000 0x03 = 0 ∧ odGet (linkShut s) 0x6000 0x04 = 0 := by
  unfold linkShut
  refine ⟨?_, ?_, ?_, odGet_odSet _ _ _ _⟩
  · iterate 3 rw [odGet_odSet_ne _ _ (by decide)]
    exact odGet_odSet _ _ _ _
  · iterate 2 rw [odGet_odSet_ne _ _ (by decide)]
    exact odGet_odSet _ _ _ _
  · rw [odGet_odSet_ne _ _ (by decide)]
    exact odGet_odSet _ _ _ _

/-- The state as PERST_N takes what the host had configured, before its link goes down (R517). -/
def perstHeld (s : State) : State :=
  { s with perstLow := true, busMaster := false, component := [], msixOn := false, msixMasked := false, msixTable := [], msixPending := [] }

theorem linkLoss_of_up {s : State} (h : s.linkUp = true) : exec .linkLoss s = .next (pumpChans (retryRecords (linkShut s))) :=
  congrArg Host.Outcome.next (if_pos h)

theorem perstN_eq (s : State) : exec .perstN s = .next (odSet (pumpChans (retryRecords (linkShut (perstHeld s)))) 0x6300 0x03 0) := rfl

theorem bisnpinvResponse_of_held {s : State} {line : Nat} (h : line ∈ s.biHeld) :
    exec (.bisnpinvResponse line) s = .next (pumpChans (retryRecords { s with biHeld := s.biHeld.erase line })) :=
  congrArg Host.Outcome.next (if_pos (List.contains_iff_mem.mpr h))

/-- Where no collective runs and no record waits, nothing goes on as the host's lines are released. -/
theorem pumpChans_quiet {x : State} (hchans : x.chans = []) (hheld : x.heldRecords = []) (hdone : ∀ c ∈ x.cmds, c.stage ≠ .done) :
    pumpChans (retryRecords x) = { x with heldRecords := [] } := by
  have hfinished : x.cmds.filter (fun c => c.stage == .done) = [] := by
    rw [List.filter_eq_nil_iff]
    intro c hc
    simpa using hdone c hc
  have hretry : retryRecords x = { x with heldRecords := [] } := by
    simp only [retryRecords, hheld, List.foldl_nil, hfinished, List.map_nil]
  rw [hretry, pumpChans, hchans, List.foldl_nil]

/-! ### The window (R488, R489) -/

theorem hdmAccess_of_inWindow {s : State} {write : Bool} {a n : Nat} {data : List Byte} (hwindow : inWindow s a n = true) (hbulk : bulkOn s = true)
    (hlen : write = true → data.length = n) : exec (.hdmAccess write a n data) s = .next (hdmAccess s write a n data) := by
  have hsize : (!write || data.length == n) = true := by
    cases write
    · rfl
    · simp [hlen rfl]
  show execHdmAccess write a n data s = _
  simp only [execHdmAccess, hwindow, hbulk, hsize, Bool.and_self, if_true]

/-- An access outside job memory is counted, and reaches no byte. -/
theorem hdmAccess_outside {s : State} {a n : Nat} (h : inJob s a n = false) (write : Bool) (data : List Byte) :
    (hdmAccess s write a n data).mem = s.mem ∧
    odGet (hdmAccess s write a n data) 0x6300 0x05 = min cntMax (odGet s 0x6300 0x05 + 1) ∧
    (write = false → .hdm true [] ∈ (hdmAccess s write a n data).out) := by
  have hmem : (odBump s 0x6300 0x05 1).mem = s.mem := (odBump_changes s _ _ _).same .memory rfl
  have hcount := odGet_odBump s 0x6300 0x05 1 (not_logKey (by decide) (by decide))
  cases write
  · simp only [hdmAccess, h, Bool.not_false, if_true, Bool.false_eq_true, if_false]
    exact ⟨hmem, hcount, fun _ => List.mem_append_right _ (by simp)⟩
  · simp only [hdmAccess, h, Bool.not_false, if_true]
    exact ⟨hmem, hcount, nofun⟩

theorem hdmAccess_write {s : State} {a n : Nat} {data : List Byte} (h : inJob s a n = true) :
    hdmAccess s true a n data = if sealedRange s a n then s else memWrite s a (data.take n) := by
  simp only [hdmAccess, h, Bool.not_true, Bool.false_eq_true, if_false, if_true]

/-- What a read delivers, once its lines stand in the filter. -/
def windowAnswer (s : State) (a n : Nat) : State := if badSectors s a n == [] then emit s (.hdm false (memRead s a n)) else emit s (.hdm true [])

theorem hdmAccess_read {s : State} {a n : Nat} (data : List Byte) (h : inJob s a n = true) :
    hdmAccess s false a n data = filterRead s (linesOf a n) (fun s => windowAnswer s a n) := by
  simp only [hdmAccess, h, Bool.not_true, Bool.false_eq_true, if_false]
  rfl

/-- Lines that fit enter the filter. -/
theorem filterRead_of_room {s : State} {lines : List Nat} (h : s.biFilter.length + lines.length ≤ filterSize) (f : State → State) :
    filterRead s lines f = f { s with biFilter := s.biFilter ++ lines.filter (fun l => !s.biFilter.contains l) } := by
  have hnew := List.length_filter_le (fun l => !s.biFilter.contains l) lines
  unfold filterRead
  dsimp only
  rw [if_pos (by omega)]

/-- The n oldest entries of the filter have been invalidated, and the host's responses are awaited. -/
def displaced (s : State) (n : Nat) : State :=
  emitAll { s with biFilter := s.biFilter.drop n, biHeld := s.biHeld ++ s.biFilter.take n } ((s.biFilter.take n).map (fun l => Output.bisnpInv l))

theorem displaced_mem (s : State) (n : Nat) : (displaced s n).mem = s.mem := rfl
theorem displaced_out {s : State} {n l : Nat} (h : l ∈ s.biFilter.take n) : .bisnpInv l ∈ (displaced s n).out :=
  List.mem_append_right _ (List.mem_map_of_mem h)
theorem displaced_biHeld {s : State} {n l : Nat} (h : l ∈ s.biFilter.take n) : l ∈ (displaced s n).biHeld := List.mem_append_right _ h

theorem filterRead_of_excess {s : State} {lines : List Nat} {n : Nat}
    (hn : s.biFilter.length + (lines.filter (fun l => !s.biFilter.contains l)).length - filterSize = n) (hpos : n ≠ 0) (f : State → State) :
    filterRead s lines f = odBump (displaced s n) 0x6300 0x04 n := by
  unfold filterRead
  dsimp only
  rw [hn, if_neg hpos]
  rfl

/-- Lines that do not fit displace the oldest entries, whose invalidations go out and are awaited. -/
theorem filterRead_displaces {s : State} {lines : List Nat} {n : Nat}
    (hn : s.biFilter.length + (lines.filter (fun l => !s.biFilter.contains l)).length - filterSize = n) (hpos : n ≠ 0) (f : State → State) :
    (filterRead s lines f).mem = s.mem ∧
    ∀ l ∈ s.biFilter.take n, .bisnpInv l ∈ (filterRead s lines f).out ∧ l ∈ (filterRead s lines f).biHeld := by
  rw [filterRead_of_excess hn hpos]
  have hbump := odBump_changes (displaced s n) 0x6300 0x04 n
  obtain ⟨-, -, -, -, -, hheld, -, -⟩ := hbump.same .link rfl
  refine ⟨(hbump.same .memory rfl).trans (displaced_mem s n), fun l hl => ⟨?_, ?_⟩⟩
  · exact (odBump_logs (displaced s n) 0x6300 0x04 n (by decide)).out.subset (displaced_out hl)
  · rw [hheld]
    exact displaced_biHeld hl

/-- The answer to a read that fits: its bytes, or poison. -/
theorem hdmAccess_delivers {s : State} {a n : Nat} (hjob : inJob s a n = true) (hroom : s.biFilter.length + (linesOf a n).length ≤ filterSize) :
    (hdmAccess s false a n []).mem = s.mem ∧
    (if badSectors s a n = [] then Output.hdm false (memRead s a n) else .hdm true []) ∈ (hdmAccess s false a n []).out := by
  rw [hdmAccess_read [] hjob, filterRead_of_room hroom]
  unfold windowAnswer
  by_cases hclean : badSectors s a n = []
  · have hfiltered : (badSectors { s with biFilter := s.biFilter ++ (linesOf a n).filter (fun l => !s.biFilter.contains l) } a n == []) = true :=
      beq_iff_eq.mpr hclean
    rw [if_pos hfiltered, if_pos hclean]
    exact ⟨rfl, List.mem_append_right _ (by exact List.mem_singleton.mpr rfl)⟩
  · have hfiltered : ¬ (badSectors { s with biFilter := s.biFilter ++ (linesOf a n).filter (fun l => !s.biFilter.contains l) } a n == []) = true :=
      fun h => hclean (beq_iff_eq.mp h)
    rw [if_neg hfiltered, if_neg hclean]
    exact ⟨rfl, List.mem_append_right _ (List.mem_singleton.mpr rfl)⟩

/-! ### Host memory (R486) -/

theorem hostWriteFail_of_none {s : State} {u q : Nat} (h : runCmd s u q 0x80 = none) :
    exec (.hostAccessFail true u q) s = .next (odBump s 0x6000 0x08 1) := by
  show execHostAccessFail true u q s = _
  simp only [execHostAccessFail, h, if_true]

theorem hostReadFail_of_none {s : State} {u q : Nat} (h : runCmd s u q 0x80 = none) : exec (.hostAccessFail false u q) s = .next s := by
  show execHostAccessFail false u q s = _
  simp only [execHostAccessFail, h, Bool.false_eq_true, if_false]

/-- A host write that fails is discarded, and its COPY ends. -/
theorem hostWriteFail_ends {s : State} {u q : Nat} {c : Cmd} (h : runCmd s u q 0x80 = some c) (hhost : cpDHOST c.word = true) :
    ∃ t, exec (.hostAccessFail true u q) s = .next t ∧ ended t u q c.serial := by
  have hrun : exec (.hostAccessFail true u q) s =
      .next (finishCmd (copySource (odBump s 0x6000 0x08 1) c.word ⟨false, true, []⟩).2 c stOK) := by
    show execHostAccessFail true u q s = _
    simp only [execHostAccessFail, h, hhost, if_true]
  obtain ⟨-, rfl, rfl, -⟩ := runCmd_spec h
  exact ⟨_, hrun, completeCmd_ends _ _ _ _⟩

/-- A host read that fails is a COPY whose source is poisoned. -/
theorem hostReadFail_copies {s : State} {u q : Nat} {c : Cmd} (h : runCmd s u q 0x80 = some c) (hhost : cpSHOST c.word = true) :
    ∃ t, exec (.hostAccessFail false u q) s = .next t ∧ exec (.copy u q ⟨false, true, []⟩) s = .next t := by
  refine ⟨copyCmd s c ⟨false, true, []⟩, ?_, ?_⟩
  · show execHostAccessFail false u q s = _
    simp only [execHostAccessFail, h, hhost, Bool.false_eq_true, if_false, if_true]
  · show execCopy u q _ s = _
    simp only [execCopy, h]

/-! ### Doorbells (R491) -/

theorem doorbellQueue_range {off u q : Nat} (h : doorbellQueue off = some (u, q)) : inQueueRange (u, q) := by
  simp only [doorbellQueue, Bool.and_eq_true, decide_eq_true_eq] at h
  split at h
  · split at h
    · cases h
      constructor <;> dsimp only <;> omega
    · cases h
  · split at h
    · cases h
      constructor <;> dsimp only <;> omega
    · cases h

theorem doorbellWrite_of_taken {s : State} {off v u q : Nat} (hup : s.linkUp = true) (hqueue : doorbellQueue off = some (u, q)) (haligned : off % 4 = 0)
    (hattached : orphaned s = false) (hon : qGet s u q 6 ≠ 0) : exec (.doorbellWrite off 4 v) s = .next (publishTail s u q (v % 2 ^ 32)) := by
  have htaken : ((4 : Nat) != 4 || off % 4 != 0 || orphaned s || qGet s u q 6 == 0) = false := by
    simp [haligned, hattached, hon]
  show execDoorbellWrite off 4 v s = _
  simp only [execDoorbellWrite, hup, hqueue, htaken, Bool.not_true, Bool.false_eq_true, if_false]

theorem doorbellWrite_of_rejected {s : State} {off size v u q : Nat} (hup : s.linkUp = true) (hqueue : doorbellQueue off = some (u, q))
    (h : size ≠ 4 ∨ off % 4 ≠ 0 ∨ orphaned s = true ∨ qGet s u q 6 = 0) :
    exec (.doorbellWrite off size v) s = .next (odBump s 0x6000 0x09 1) := by
  have hrejected : (size != 4 || off % 4 != 0 || orphaned s || qGet s u q 6 == 0) = true := by
    simpa [or_assoc] using h
  show execDoorbellWrite off size v s = _
  simp only [execDoorbellWrite, hup, hqueue, hrejected, Bool.not_true, Bool.false_eq_true, if_false, if_true]

/-! ### The heartbeat and the Orphaned state (R219, R220, R499, R500) -/

/-- The attachment state (0x6100.02). -/
def attachmentKey (k : Nat) : Prop := k = odKey 0x6100 0x02

theorem OffLog.attachment {s t : State} (h : OffLog s t) : OdKeeps attachmentKey s t :=
  h.mono fun k hk hlog => by
    unfold attachmentKey odKey at hk
    unfold logKey at hlog
    omega

theorem OffCompletion.attachment {u q : Nat} {s t : State} (h : OffCompletion u q s t) (hu : u < 256) : OdKeeps attachmentKey s t :=
  h.mono fun _ hk => hk ▸ attachmentKey_stays q hu

theorem settleContext_attachment (s : State) (c : Nat) : OdKeeps attachmentKey s (settleContext s c) := by
  unfold settleContext
  split
  · refine (stateChange_keeps _ _ _ _ _ _ _).mono fun k hk => ?_
    unfold attachmentKey odKey at hk
    unfold odKey logKey
    omega
  · exact .refl s

theorem drainQueue_attachment (s : State) {x : Nat × Nat} (hx : inQueueRange x) : OdKeeps attachmentKey s (drainQueue s x.1 x.2) := by
  unfold drainQueue
  split
  · exact .refl s
  split
  · exact withDraining_od _ _
  split
  · exact withDraining_od _ _
  · exact (becomeDrained_offCompletion s x.1 x.2).attachment hx.1

theorem orphanEvents_attachment (s : State) : OdKeeps attachmentKey s (orphanEvents s) := by
  unfold orphanEvents
  exact ((addRecord_offLog _ _).attachment.trans (snagSet_offLog _ _).attachment).trans (.of_changes (raiseVector_changes _ _))

/-- A lapse leaves the package Orphaned (R499). -/
theorem becomeOrphaned_orphaned (s : State) : orphaned (becomeOrphaned s) = true := by
  have hset : odGet (odSet { s with featuresBefore := s.features, drainAt := s.uptime } 0x6100 0x02 2) 0x6100 0x02 = 2 := odGet_odSet _ _ _ _
  have hevents : ∀ x : State, OdKeeps attachmentKey x (if inBlackout s then { x with lapsed := true } else orphanEvents x) := fun x => by
    split
    · exact .of_od
    · exact orphanEvents_attachment x
  have hbump : ∀ x : State, OdKeeps attachmentKey x (odBump x 0x6100 0x04 1) := fun x => (odBump_keeps _ _ _ _).mono fun k hk => by
    unfold attachmentKey odKey at hk
    unfold odKey logKey
    omega
  have hdrains : ∀ x : State, OdKeeps attachmentKey x (allQueues.foldl (fun s p => drainQueue s p.1 p.2) x) := fun x =>
    OdKeeps.foldl_mem (fun p hp t => drainQueue_attachment t (inQueueRange_of_allQueues hp)) x
  have hkept : OdKeeps attachmentKey (odSet { s with featuresBefore := s.features, drainAt := s.uptime } 0x6100 0x02 2) (becomeOrphaned s) := by
    unfold becomeOrphaned
    dsimp only
    refine OdKeeps.trans ?_ (OdKeeps.foldl settleContext_attachment _ _)
    refine OdKeeps.trans ?_ (hdrains _)
    refine OdKeeps.trans ?_ (hbump _)
    exact hevents _
  rw [orphaned, beq_iff_eq]
  exact (hkept.get 0x6100 0x02 rfl).trans hset

/-! ### The statement -/

/-- Once no collective runs and no record waits, a link that goes down leaves its entries at 0. -/
theorem linkShut_quiet {s : State} (hchans : s.chans = []) (hheld : s.heldRecords = []) (hdone : ∀ c ∈ s.cmds, c.stage ≠ .done) :
    pumpChans (retryRecords (linkShut s)) = { (linkShut s) with heldRecords := [] } :=
  pumpChans_quiet (x := linkShut s) hchans hheld hdone

/-- The loss of the link, its reset and an answered line, where nothing has waited for the host. -/
theorem linkEnds_quiet {s : State} (hchans : s.chans = []) (hheld : s.heldRecords = []) (hdone : ∀ c ∈ s.cmds, c.stage ≠ .done) :
    (s.linkUp = true → ∃ t, exec .linkLoss s = .next t ∧ t.linkUp = false ∧ t.biFilter = [] ∧ t.biHeld = [] ∧ odGet t 0x6000 0x01 = 0 ∧
      odGet t 0x6000 0x02 = 0 ∧ odGet t 0x6000 0x03 = 0 ∧ odGet t 0x6000 0x04 = 0 ∧ t.mem = s.mem) ∧
    (∃ t, exec .perstN s = .next t ∧ t.perstLow = true ∧ t.linkUp = false ∧ odGet t 0x6300 0x03 = 0 ∧ t.mem = s.mem) ∧
    (∀ line, line ∈ s.biHeld → ∃ t, exec (.bisnpinvResponse line) s = .next t ∧ t.biHeld = s.biHeld.erase line ∧ t.mem = s.mem) := by
  refine ⟨fun hup => ?_, ?_, fun line hline => ?_⟩
  · have hrun := linkLoss_of_up hup
    rw [linkShut_quiet hchans hheld hdone] at hrun
    obtain ⟨hstate, hrate, hwidth, hprotocols⟩ := linkShut_entries s
    exact ⟨_, hrun, rfl, rfl, rfl, hstate, hrate, hwidth, hprotocols, rfl⟩
  · have hrun := perstN_eq s
    rw [linkShut_quiet (s := perstHeld s) hchans hheld hdone] at hrun
    exact ⟨_, hrun, rfl, rfl, odGet_odSet _ _ _ _, rfl⟩
  · have hrun := bisnpinvResponse_of_held hline
    rw [pumpChans_quiet (x := { s with biHeld := s.biHeld.erase line }) hchans hheld hdone] at hrun
    exact ⟨_, hrun, rfl, rfl⟩

/-- An access through the window reaches job memory and nothing else. -/
theorem window_accesses {s : State} {a n : Nat} {data : List Byte} (hs : s.Sound) (hwindow : inWindow s a n = true) (hbulk : bulkOn s = true)
    (hlen : data.length = n) :
    (inJob s a n = true → sealedRange s a n = false → ∃ t, exec (.hdmAccess true a n data) s = .next t ∧
      ∀ x, memByte t x = if a ≤ x ∧ x < a + n then listGet 0 data (x - a) else memByte s x) ∧
    (inJob s a n = true → sealedRange s a n = true → ∃ t, exec (.hdmAccess true a n data) s = .next t ∧ t.mem = s.mem) ∧
    (inJob s a n = false → ∃ t, exec (.hdmAccess true a n data) s = .next t ∧ t.mem = s.mem ∧
      odGet t 0x6300 0x05 = min cntMax (odGet s 0x6300 0x05 + 1)) := by
  have hrun := hdmAccess_of_inWindow (write := true) hwindow hbulk fun _ => hlen
  refine ⟨fun hjob hopen => ?_, fun hjob hsealed => ?_, fun hout => ?_⟩
  · rw [hdmAccess_write hjob, hopen, if_neg (by decide), List.take_of_length_le (by omega)] at hrun
    exact ⟨_, hrun, fun x => memByte_memWriteBad_ite s a x n data [] hs.memory hlen⟩
  · rw [hdmAccess_write hjob, hsealed, if_pos rfl] at hrun
    exact ⟨_, hrun, rfl⟩
  · obtain ⟨hmem, hcount, -⟩ := hdmAccess_outside hout true data
    exact ⟨_, hrun, hmem, hcount⟩

/-- A read through the window delivers its bytes or poison, or displaces entries of the filter first. -/
theorem window_reads {s : State} {a n : Nat} (hwindow : inWindow s a n = true) (hbulk : bulkOn s = true) :
    (inJob s a n = true → filterSize < s.biFilter.length + ((linesOf a n).filter (fun l => !s.biFilter.contains l)).length →
      ∃ t, exec (.hdmAccess false a n []) s = .next t ∧ t.mem = s.mem ∧
        ∀ l ∈ s.biFilter.take (s.biFilter.length + ((linesOf a n).filter (fun l => !s.biFilter.contains l)).length - filterSize),
          .bisnpInv l ∈ t.out ∧ l ∈ t.biHeld) ∧
    (inJob s a n = true → badSectors s a n ≠ [] → s.biFilter.length + (linesOf a n).length ≤ filterSize →
      ∃ t, exec (.hdmAccess false a n []) s = .next t ∧ t.mem = s.mem ∧ .hdm true [] ∈ t.out) ∧
    (inJob s a n = true → badSectors s a n = [] → s.biFilter.length + (linesOf a n).length ≤ filterSize →
      ∃ t, exec (.hdmAccess false a n []) s = .next t ∧ t.mem = s.mem ∧ .hdm false (memRead s a n) ∈ t.out) ∧
    (inJob s a n = false → ∃ t, exec (.hdmAccess false a n []) s = .next t ∧ t.mem = s.mem ∧ .hdm true [] ∈ t.out ∧
      odGet t 0x6300 0x05 = min cntMax (odGet s 0x6300 0x05 + 1)) := by
  have hrun := hdmAccess_of_inWindow (write := false) (data := []) hwindow hbulk nofun
  refine ⟨fun hjob hexcess => ?_, fun hjob hbad hroom => ?_, fun hjob hclean hroom => ?_, fun hout => ?_⟩
  · rw [hdmAccess_read [] hjob] at hrun
    exact ⟨_, hrun, filterRead_displaces rfl (by omega) _⟩
  · obtain ⟨hmem, hdelivered⟩ := hdmAccess_delivers hjob hroom
    rw [if_neg hbad] at hdelivered
    exact ⟨_, hrun, hmem, hdelivered⟩
  · obtain ⟨hmem, hdelivered⟩ := hdmAccess_delivers hjob hroom
    rw [if_pos hclean] at hdelivered
    exact ⟨_, hrun, hmem, hdelivered⟩
  · obtain ⟨hmem, hcount, hpoison⟩ := hdmAccess_outside hout false []
    exact ⟨_, hrun, hmem, hpoison rfl, hcount⟩

/-- A doorbell publishes its tail, leaves it where the tail rule refuses it, or is counted. -/
theorem doorbells {s : State} {off size v u q : Nat} (hup : s.linkUp = true) (hqueue : doorbellQueue off = some (u, q)) :
    (size = 4 → off % 4 = 0 → orphaned s = false → qGet s u q 6 ≠ 0 → tailOk s u q (v % 2 ^ 32) = true →
      ∃ t, exec (.doorbellWrite off size v) s = .next t ∧ qGet t u q 5 = v % 2 ^ 32 ∧
        (qGet s u q 6 = 1 ∨ qGet s u q 6 = 2 → qGet t u q 6 = if qGet s u q 4 = v % 2 ^ 32 then 1 else 2)) ∧
    (size = 4 → off % 4 = 0 → orphaned s = false → qGet s u q 6 ≠ 0 → tailOk s u q (v % 2 ^ 32) = false →
      ∃ t, exec (.doorbellWrite off size v) s = .next t ∧ qGet t u q 5 = qGet s u q 5) ∧
    (size ≠ 4 ∨ off % 4 ≠ 0 ∨ orphaned s = true ∨ qGet s u q 6 = 0 → ∃ t, exec (.doorbellWrite off size v) s = .next t ∧
      odGet t 0x6000 0x09 = min cntMax (odGet s 0x6000 0x09 + 1) ∧ qGet t u q 5 = qGet s u q 5) := by
  have hrange := doorbellQueue_range hqueue
  have htail := tailKey_of_queue hrange
  refine ⟨?_, ?_, fun hrejected => ?_⟩
  · rintro rfl haligned hattached hon hok
    obtain ⟨hpublished, hstate⟩ := publishTail_publishes hok
    exact ⟨_, doorbellWrite_of_taken hup hqueue haligned hattached hon, hpublished, fun hlive => hstate ((queueLive_iff s u q).mpr hlive)⟩
  · rintro rfl haligned hattached hon hrefused
    exact ⟨_, doorbellWrite_of_taken hup hqueue haligned hattached hon, (publishTail_refused hrange hrefused).get _ _ htail⟩
  · refine ⟨_, doorbellWrite_of_rejected hup hqueue hrejected, odGet_odBump _ _ _ _ (not_logKey (by decide) (by decide)), ?_⟩
    obtain ⟨hlow, hhigh, -⟩ := htail
    refine odGet_odBump_of_ne s 1 ?_ ?_
    · unfold odKey at *
      omega
    · unfold logKey
      omega

/-- Settles O59: each of its events by the lemmas of its part. -/
theorem hostLinkRuns : Obligations.HostLinkRuns := by
  refine ⟨fun s modes widths cache k lanes hbulk hrom => ⟨linkTraining_of_unready, fun m width hstop hmode hwidth => ?_⟩,
    fun s => ⟨fun hup => ?_, ?_, fun line => bisnpinvResponse_of_held⟩, fun s => linkEnds_quiet, fun s a n data hs hwindow hbulk hlen => ?_,
    fun s u q => ⟨fun h => ?_, fun c => hostWriteFail_ends, hostReadFail_of_none, fun c => hostReadFail_copies⟩,
    fun s off size v u q => doorbells, fun s v hup hattached => ?_, fun s hattached => ⟨fun hearly => ?_, fun hlapsed => ?_⟩, fun s horphaned hlimit => ?_⟩
  · obtain ⟨hstate, hrate, hwide, hprotocols, hretrains⟩ := linkTrained_shows s m width cache k lanes rfl
    obtain ⟨hup, hperst, hmaster, hvector, hstep⟩ := linkTrained_runs s m width cache k lanes rfl
    exact ⟨_, linkTraining_of_ready hbulk hrom hstop hmode hwidth, hup, hperst, hmaster, hstate, hrate, hwide, hprotocols, hretrains, hvector, hstep⟩
  · exact ⟨linkShut s, linkLoss_of_up hup, rfl, rfl, rfl, rfl, rfl, rfl, rfl⟩
  · exact ⟨linkShut (perstHeld s), perstN_eq s, rfl, rfl, rfl, rfl, rfl, rfl, rfl, rfl, rfl, rfl, rfl, rfl⟩
  · obtain ⟨hlands, hsealed, houtside⟩ := window_accesses hs hwindow hbulk hlen
    exact ⟨hlands, hsealed, houtside, window_reads hwindow hbulk⟩
  · exact ⟨_, hostWriteFail_of_none h, odGet_odBump _ _ _ _ (not_logKey (by decide) (by decide)), (odBump_changes s _ _ _).same .memory rfl⟩
  · refine ⟨{ s with beatAt := s.uptime }, ?_, rfl, rfl⟩
    show execHeartbeat 4 v s = _
    simp only [execHeartbeat, hup, hattached, decide_true, Bool.and_self, if_true]
  · have hnot : (attached s && decide (s.beatAt + odGet s 0x6100 0x01 * msTicks ≤ s.uptime)) = false := by
      rw [decide_eq_false (by omega), Bool.and_false]
    show execHeartbeatLapse s = _
    simp only [execHeartbeatLapse, hnot, Bool.false_eq_true, if_false]
  · refine ⟨becomeOrphaned s, ?_, becomeOrphaned_orphaned s⟩
    show execHeartbeatLapse s = _
    simp only [execHeartbeatLapse, hattached, hlapsed, decide_true, Bool.and_self, if_true]
  · refine ⟨allQueues.foldl (fun s p => forceDrain s p.1 p.2) s, ?_, fun p hp => ?_⟩
    · show execOrphanDrainLimit s = _
      simp only [execOrphanDrainLimit, horphaned, hlimit, decide_true, Bool.and_self, if_true]
    · have hstate := forceDrains_state (fun x hx => queueExists_of_allQueues hx) s (queueExists_of_allQueues hp)
      simpa only [hp, true_and] using hstate

end Sys2Proof.Machine
end

section
/-! PROOFS. O24: COPY (R239): what its source delivers, and what it leaves at its destination, local or the host's (R202, R252, R253, R486). -/

namespace Sys2Proof.Machine

/-! ### The source of a COPY (R239, R252, R486) -/

theorem memRead_length (s : State) (a n : Nat) : (memRead s a n).length = n := by
  unfold memRead
  split
  next htally =>
    obtain rfl : n = 4 := by
      unfold isTallyWord at htally
      split at htally
      · exact beq_iff_eq.mp (Bool.and_eq_true_iff.mp htally).2
      · cases htally
    exact leBytes_length 4 _
  next => simp [Store.getList]

/-- The source of a COPY delivers the bytes d: the host, which may be read there, or local offsets that are there, a tally word among them. -/
def copyDelivers (s : State) (w : CmdWord) (h : HostAns) (d : List Byte) : Prop :=
  if cpSHOST w then h.ok = true ∧ hostOk s (cpSRC w) (cpLEN w) false = true ∧ hostPath s = true ∧ h.data.length = cpLEN w ∧ d = h.data
  else (inMemory s (cpSRC w) (cpLEN w) = true ∨ isTallyWord s (cpSRC w) (cpLEN w) = true) ∧ d = memRead s (cpSRC w) (cpLEN w)

section
variable {s : State} {c : Cmd} {h : HostAns} {d : List Byte} (hd : copyDelivers s c.word h d)
include hd

theorem copyDelivers_length : d.length = cpLEN c.word := by
  unfold copyDelivers at hd
  split at hd
  · obtain ⟨-, -, -, hlen, rfl⟩ := hd
    exact hlen
  · obtain ⟨-, rfl⟩ := hd
    exact memRead_length s _ _

/-- Such a source is read as it stands, and reading it leaves the state. -/
theorem copySource_of_delivers : ∃ poisoned, copySource s c.word h = ((d, poisoned), s) := by
  unfold copyDelivers at hd
  unfold copySource
  split at hd
  next hhost =>
    obtain ⟨hok, hmay, hpath, hlen, rfl⟩ := hd
    exact ⟨h.poisoned, by simp [hhost, hok, hmay, hpath, hlen]⟩
  next hlocal =>
    obtain ⟨-, rfl⟩ := hd
    exact ⟨false, if_neg hlocal⟩

/-- Such a source has not left memory, so that a COPY moves its bytes where its destination is the host's, or is there and not sealed (R253, R265). -/
theorem copyCmd_of_delivers (hdst : cpDHOST c.word = true ∨
    (inMemory s (cpDST c.word) (cpLEN c.word) = true ∧ sealedRange s (cpDST c.word) (cpLEN c.word) = false)) :
    copyCmd s c h = copyMove s c h := by
  have hsource : (if cpSHOST c.word || isTallyWord s (cpSRC c.word) (cpLEN c.word) then none
      else vacatedAt s (cpSRC c.word) (cpLEN c.word)) = none := by
    split
    next => rfl
    next hplain =>
      simp only [Bool.or_eq_true, not_or] at hplain
      unfold copyDelivers at hd
      rw [if_neg hplain.1] at hd
      exact vacatedAt_none (hd.1.resolve_right hplain.2)
  unfold copyCmd
  dsimp only
  rw [hsource]
  rcases hdst with hhost | ⟨hthere, hopen⟩
  · simp [hhost, minOpt]
  · simp [vacatedAt_none hthere, hopen, minOpt]

/-! ### What a COPY leaves (R202, R239) -/

/-- A COPY to a local destination of which the host holds no line writes the bytes there and completes. -/
theorem copyCmd_local (hlocal : cpDHOST c.word = false) (hthere : inMemory s (cpDST c.word) (cpLEN c.word) = true)
    (hopen : sealedRange s (cpDST c.word) (cpLEN c.word) = false) (hfilter : s.biFilter = []) (hheld : s.biHeld = []) :
    ∃ bad, copyCmd s c h = finishCmd (memWriteBad s (cpDST c.word) d bad) c stOK := by
  obtain ⟨poisoned, hsource⟩ := copySource_of_delivers hd
  rw [copyCmd_of_delivers hd (.inr ⟨hthere, hopen⟩)]
  simp only [copyMove, hsource, hlocal, Bool.false_eq_true, if_false]
  exact ⟨_, localWrite_of_noLines hfilter hheld _ _⟩

/-- A COPY to the host hands the bytes to it and completes. -/
theorem copyCmd_host (hhost : cpDHOST c.word = true) :
    ∃ bad, copyCmd s c h = finishCmd (hostWrite s (cpDST c.word) d bad) c stOK := by
  obtain ⟨poisoned, hsource⟩ := copySource_of_delivers hd
  rw [copyCmd_of_delivers hd (.inl hhost)]
  simp only [copyMove, hsource, hhost, if_true]
  exact ⟨_, rfl⟩

end

/-- A local source that has left memory ends a COPY FAULT (R253). -/
theorem copyCmd_vacated {s : State} {c : Cmd} (h : HostAns) (hlocal : cpSHOST c.word = false)
    (hplain : isTallyWord s (cpSRC c.word) (cpLEN c.word) = false) (hgone : inMemory s (cpSRC c.word) (cpLEN c.word) = false) :
    ∃ a, copyCmd s c h = faultCmd s c 0x4001 (unitOf c.u) a := by
  obtain ⟨x, hx⟩ := vacatedAt_of_not_inMemory hgone
  unfold copyCmd
  simp only [hlocal, hplain, Bool.or_self, Bool.false_eq_true, if_false, hx]
  cases (if cpDHOST c.word = true then none else vacatedAt s (cpDST c.word) (cpLEN c.word)) with
  | none => exact ⟨x, rfl⟩
  | some y => exact ⟨min x y, rfl⟩

theorem copy_of_runCmd {s : State} {u q : Nat} {c : Cmd} (h : HostAns) (hc : runCmd s u q 0x80 = some c) :
    exec (.copy u q h) s = .next (copyCmd s c h) := by
  show execCopy u q h s = _
  simp only [execCopy, hc]

/-- What leaves the entries that no completion touches leaves the place of the records. -/
theorem OffCompletion.sameRing {u q : Nat} {s t : State} (g : OffCompletion u q s t) (hq : queueExists u q = true) : SameRing u q s t :=
  ⟨g.qGet hq (by decide) (by decide) (by decide) (by decide), g.qGet hq (by decide) (by decide) (by decide) (by decide)⟩

/-- Settles O24: each destination by the write that precedes the completion, a source that has left memory by its fault. -/
theorem copyMovesBytes : Obligations.CopyMovesBytes := by
  intro s u q c h hs hq hc
  have hrun := copy_of_runCmd h hc
  obtain ⟨-, rfl, rfl, -⟩ := runCmd_spec hc
  refine ⟨fun d (hd : copyDelivers s c.word h d) => ⟨fun hlocal hthere hopen hfilter hheld => ?_, fun hhost => ?_⟩,
    fun hlocal hplain hgone => ?_⟩
  · obtain ⟨bad, hcopy⟩ := copyCmd_local hd hlocal hthere hopen hfilter hheld
    rw [hcopy] at hrun
    have hwrite := memWriteBad_changes s (cpDST c.word) d bad
    obtain ⟨hended, hadded, hbytes⟩ := finish_after hq (hwrite.sound hs) (hwrite.same .tallies rfl) (.of_changes hwrite)
    exact ⟨_, hrun, hended, hadded, fun a ha =>
      (hbytes a ha).trans (memByte_memWriteBad_ite s _ a _ d bad hs.memory (copyDelivers_length hd))⟩
  · obtain ⟨bad, hcopy⟩ := copyCmd_host hd hhost
    rw [hcopy] at hrun
    have hwrite := hostWrite_changes s (cpDST c.word) d bad
    obtain ⟨hended, hadded, hbytes⟩ := finish_after hq (hwrite.sound hs) (hwrite.same .tallies rfl)
      ((hostWrite_offCompletion s _ d bad).sameRing hq)
    exact ⟨_, hrun, hended, hadded, fun a ha => (hbytes a ha).trans (memByte_of_changes hwrite a)⟩
  · obtain ⟨a, hcopy⟩ := copyCmd_vacated h hlocal hplain hgone
    rw [hcopy] at hrun
    exact ⟨_, hrun, faultCmd_ends_without_add s c _ _ a⟩

end Sys2Proof.Machine
end

section
/-! PROOFS. Collective channels: what a channel reads after it is replaced, what the start of a collective leaves, and what its completion leaves
of its channel, its command and the tallies (R348 to R353, R363, R388, R389). -/

namespace Sys2Proof.Machine

/-! ### Channels by their number -/

theorem getChan_id {s : State} {ch : Nat} {k : Chan} (h : getChan s ch = some k) : k.id = ch :=
  beq_iff_eq.mp (List.find?_some (p := fun x : Chan => x.id == ch) h)

theorem getChan_congr {s t : State} (h : t.chans = s.chans) (ch : Nat) : getChan t ch = getChan s ch := by
  simp only [getChan, h]

/-- A channel that is replaced is found in its new form. -/
theorem getChan_putChan {s : State} {k x : Chan} (h : getChan s k.id = some x) : getChan (putChan s k) k.id = some k := by
  have hnew : getChan (putChan s k) k.id = (getChan s k.id).map fun _ => k :=
    find?_mapFirst (p := fun y : Chan => y.id == k.id) (fun _ _ => beq_self_eq_true k.id) s.chans
  rw [hnew, h]
  rfl

/-- The later replacement of a channel stands alone. -/
theorem putChan_putChan (s : State) {k x : Chan} (h : x.id = k.id) : putChan (putChan s k) x = putChan s x := by
  unfold putChan
  dsimp only
  rw [h]
  congr 1
  induction s.chans with
  | nil => rfl
  | cons y l ih =>
    by_cases hy : (y.id == k.id) = true
    · simp [mapFirst, hy]
    · simp only [mapFirst, hy, Bool.false_eq_true, if_false, ih]

/-- The record of a bound channel is the one it is bound with (R350). -/
theorem Chan.crec_of_getChan {s : State} {k x : Chan} (h : getChan s k.id = some x) : k.crec s = x.crecord := by
  unfold getChan at h
  simp only [Chan.crec, chanRecord, h]

theorem collChan_getChan {s : State} {c : Cmd} {k : Chan} (h : collChan s c = some k) : getChan s k.id = some k := by
  rw [getChan_id h]
  exact h

/-! ### The command and the channel of a row (R353) -/

/-- A row that begins a collective has an admitted command and its bound channel. -/
theorem collJob_begins {s : State} {u q op : Nat} {c : Cmd} {k : Chan} (h : collJob s u q op = some (c, k, true)) :
    c ∈ s.cmds ∧ getChan s k.id = some k := by
  unfold collJob at h
  split at h
  next d hrun =>
    split at h
    next x hchan =>
      split at h
      · cases h
        obtain ⟨hmem, -⟩ := runCmd_spec hrun
        exact ⟨hmem, collChan_getChan hchan⟩
      · cases h
    next => cases h
  next =>
    split at h
    · split at h <;> cases h
    · cases h

/-- A row that drives one has its bound channel. -/
theorem collJob_drives {s : State} {u q op : Nat} {c : Cmd} {k : Chan} (h : collJob s u q op = some (c, k, false)) :
    getChan s k.id = some k := by
  unfold collJob at h
  split at h
  · split at h
    · split at h <;> cases h
    · cases h
  · split at h
    · split at h
      next hchan =>
        cases h
        exact collChan_getChan hchan
      next => cases h
    · cases h

/-! ### The start of a collective (R353, R380, R388) -/

/-- The collective that a command begins. -/
def collBegun (c : Cmd) (kind side : Nat) : Coll :=
  ⟨kind, c.u, c.q, c.serial, c.word, c.begun.seed, side, c.begun.norm, c.begun.flag, c.begun.admittedAt, [], 0, false, 0, false, false⟩

/-- Its channel. -/
def chanBegun (c : Cmd) (k : Chan) (kind side : Nat) : Chan := { k with run := some (collBegun c kind side), stopped := false }

section
variable {s : State} {c : Cmd} {k : Chan} (kind side : Nat)

theorem getChan_startColl (h : getChan s k.id = some k) : getChan (startColl s c k kind side) k.id = some (chanBegun c k kind side) :=
  getChan_putChan (k := chanBegun c k kind side) h

theorem findCmd_startColl (h : c ∈ s.cmds) : findCmd (startColl s c k kind side) c.u c.q c.serial = some { c with stage := .parked } :=
  findCmd_putCmd (c := c) h rfl rfl rfl

/-- Of the dictionary the start changes the state of the channel alone. -/
theorem odGet_startColl_state : odGet (startColl s c k kind side) (0x9100 + k.id) 0x01 = 2 :=
  odGet_odSet (putChan s (chanBegun c k kind side)) _ _ _

theorem odGet_startColl_of_ne {sub : Nat} (h : sub ≠ 1) (hsub : sub < 256) :
    odGet (startColl s c k kind side) (0x9100 + k.id) sub = odGet s (0x9100 + k.id) sub :=
  odGet_odSet_ne (putChan s (chanBegun c k kind side)) 2 (odKey_ne hsub (by decide) (.inr h))

/-- Whatever then leaves the state as it is has started the collective. -/
theorem collStarted_startColl (hmem : c ∈ s.cmds) (hchan : getChan s k.id = some k) : collStarted (startColl s c k kind side) c k kind :=
  ⟨⟨_, _, getChan_startColl kind side hchan, rfl, rfl, rfl, rfl, rfl, rfl, rfl, rfl⟩, odGet_startColl_state kind side,
    findCmd_startColl kind side hmem⟩

end

/-! ### The completion of a collective (R363, R388, R389) -/

/-- No completion touches the entries of the channels. -/
theorem channelKey_stays {u q n : Nat} (hq : queueExists u q = true) {i : Nat} (hi : i < 64) (hn : n < 256) :
    ¬ completionKey u q (odKey (0x9100 + i) n) := by
  obtain ⟨hu, hq16⟩ := queueExists_bounds hq
  unfold completionKey odKey queueIndex logKey
  rintro (⟨m, hm, e⟩ | e | e | e | ⟨c, hc, e⟩ | e)
  · split at e <;> omega
  all_goals omega

/-- A channel whose collective has ended. -/
def Chan.atRest (x : Chan) (stopped : Bool) : Chan :=
  { x with chunks := [], landed := [], readyIn := [], edges := [], run := none, stopped := stopped }

section
variable {s : State} {k : Chan} (stopped : Bool)

theorem getChan_endColl {x : Chan} (h : getChan s k.id = some x) : getChan (endColl s k stopped) k.id = some (x.atRest stopped) := by
  have hrest : getChan (endColl s k stopped) k.id = (getChan s k.id).map fun y => y.atRest stopped :=
    find?_mapFirst (p := fun y : Chan => y.id == k.id) (f := fun y => y.atRest stopped) (fun _ hy => hy) s.chans
  rw [hrest, h]
  rfl

theorem odGet_endColl_state : odGet (endColl s k stopped) (0x9100 + k.id) 0x01 = 1 := odGet_odSet _ _ _ _

/-- The channel takes the next serial. -/
theorem odGet_endColl_serial : odGet (endColl s k stopped) (0x9100 + k.id) 0x05 = wrap 32 (k.serial s + 1) := by
  unfold endColl
  dsimp only
  rw [odGet_odSet_ne _ _ (odKey_ne (by decide) (by decide) (.inr (by decide))), odGet_odSet]
  rfl

theorem odGet_endColl_completions : odGet (endColl s k stopped) (0x9100 + k.id) 0x0D = odGet s (0x9100 + k.id) 0x0D := by
  unfold endColl
  dsimp only
  rw [odGet_odSet_ne _ _ (odKey_ne (by decide) (by decide) (.inr (by decide))),
    odGet_odSet_ne _ _ (odKey_ne (by decide) (by decide) (.inr (by decide)))]
  rfl

end

/-- A collective whose channel stands and whose command is in flight, in a state x that has the tallies of s and, but for the channel's state, its
entries of the channel, completes. -/
theorem finishColl_finishes {s x : State} {c : Cmd} {k y : Chan} {r : Coll} (hx : x.Sound) (hid : k.id < 64) (hq : queueExists c.u c.q = true)
    (hchan : getChan x k.id = some y) (hcmd : findCmd x r.u r.q r.serial = some c) (htallies : x.tallies = s.tallies)
    (hentries : ∀ sub, sub ≠ 1 → sub < 256 → odGet x (0x9100 + k.id) sub = odGet s (0x9100 + k.id) sub) :
    collFinished s (finishColl x k r) c k := by
  have hend := endColl_changes x k false
  have hcount := odBump_changes (endColl x k false) (0x9100 + k.id) 0x0D 1
  have hfinish := finishCmd_changes (odBump (endColl x k false) (0x9100 + k.id) 0x0D 1) c stOK
  have hfound : findCmd (odBump (endColl x k false) (0x9100 + k.id) 0x0D 1) r.u r.q r.serial = some c :=
    (findCmd_of_changes hcount rfl _ _ _).trans ((findCmd_of_changes hend rfl _ _ _).trans hcmd)
  have hrun : finishColl x k r = finishCmd (odBump (endColl x k false) (0x9100 + k.id) 0x0D 1) c stOK := by
    unfold finishColl
    dsimp only
    rw [hfound]
  have hlog : ∀ sub < 256, ¬ logKey (odKey (0x9100 + k.id) sub) := fun sub hsub => not_logKey (by omega) hsub
  have hkept : ∀ sub < 256, odGet (finishColl x k r) (0x9100 + k.id) sub =
      odGet (odBump (endColl x k false) (0x9100 + k.id) 0x0D 1) (0x9100 + k.id) sub := fun sub hsub => by
    rw [hrun]
    exact (completeCmd_offCompletion _ c stOK 0).get _ _ (channelKey_stays hq hid hsub)
  have hother : ∀ sub < 256, sub ≠ 0x0D → odGet (finishColl x k r) (0x9100 + k.id) sub = odGet (endColl x k false) (0x9100 + k.id) sub :=
    fun sub hsub hne => (hkept sub hsub).trans (odGet_odBump_of_ne _ 1 (odKey_ne hsub (by decide) (.inr hne)) (hlog sub hsub))
  refine ⟨?_, fun n => ?_, ⟨y.atRest false, ?_, rfl, rfl, rfl⟩, ?_, ?_, ?_⟩
  · rw [hrun]
    exact completeCmd_ends _ _ _ _
  · have hbefore := (hcount.same .tallies rfl).trans ((hend.same .tallies rfl).trans htallies)
    rw [hrun]
    refine (completeCmd_adds _ c stOK 0 n (hcount.sound (hend.sound hx)) (by decide)).trans ?_
    unfold addedTally
    rw [tallyGet_congr hbefore n]
  · rw [hrun, getChan_congr (hfinish.same .channels rfl), getChan_congr (hcount.same .channels rfl)]
    exact getChan_endColl false hchan
  · rw [hother 0x01 (by decide) (by decide), odGet_endColl_state]
  · rw [hother 0x05 (by decide) (by decide), odGet_endColl_serial, Chan.serial, hentries 0x05 (by decide) (by decide), Chan.serial]
  · rw [hkept 0x0D (by decide), odGet_odBump _ _ _ _ (hlog 0x0D (by decide)), odGet_endColl_completions, hentries 0x0D (by decide) (by decide)]

end Sys2Proof.Machine
end

section
/-! PROOFS. O53: collectives start, are driven to their completion, and meet their limits (R246 to R248, R253, R362 to R364, R374, R383, R386). -/

namespace Sys2Proof.Machine

/-! ### REDUCE (R246, R362 to R364) -/

theorem localWrite_nil (s : State) (f : State → State) : localWrite s [] f = f s := by
  have hnone : snooped s [] = [] := by simp [snooped]
  simp [localWrite, hnone]

/-- Only the root of a broadcast writes as its REDUCE begins. -/
theorem reduce_begins {s : State} {u q : Nat} {c : Cmd} {k : Chan} (h : collJob s u q 0xB0 = some (c, k, true))
    (hplain : rdMODE c.word ≠ 2 ∨ k.root s = false) : exec (.reduce u q) s = .next (startReduce s c k) := by
  have hranges : beginRanges s c k = [] := by
    unfold beginRanges
    rcases hplain with hmode | hroot
    · simp [hmode]
    · simp [hroot]
  show execReduce u q s = _
  simp only [execReduce, h, hranges, localWrite_nil]

theorem reduce_drives {s : State} {u q : Nat} {c : Cmd} {k : Chan} (h : collJob s u q 0xB0 = some (c, k, false)) :
    exec (.reduce u q) s = .next (pumpReduce s k.id) := by
  show execReduce u q s = _
  simp only [execReduce, h]

/-- The state after a pass over the chunks of a reduction; a broadcast forms none on its way. -/
def chunksFormed (s : State) (ch : Nat) (r : Coll) : State :=
  if rdMODE r.word = 2 then s else (List.range (chunkCount r.word)).foldl (fun s c => formChunk s ch c) s

/-- After that pass a reduction that still runs is completed or left. -/
theorem pumpReduce_eq {s : State} {ch : Nat} {k x : Chan} {r : Coll} (hchan : getChan s ch = some k) (hrun : k.run = some r)
    (hafter : getChan (chunksFormed s ch r) ch = some x) (hruns : x.run = some r) :
    pumpReduce s ch = settleReduce (chunksFormed s ch r) x r := by
  unfold chunksFormed at hafter ⊢
  simp only [pumpReduce, hchan, hrun, hafter, hruns]

theorem pumpReduce_broadcast {s : State} {ch : Nat} {k : Chan} {r : Coll} (hchan : getChan s ch = some k) (hrun : k.run = some r)
    (hmode : rdMODE r.word = 2) : pumpReduce s ch = settleReduce s k r := by
  have hformed : chunksFormed s ch r = s := if_pos hmode
  rw [pumpReduce_eq hchan hrun (by rw [hformed]; exact hchan) hrun, hformed]

/-- A reduction of which nothing has been sent and nothing has landed is not done (R363). -/
theorem reduceDone_of_nothing {s : State} {k : Chan} {r : Coll} (hlanded : k.landed = []) (hsent : r.sent = []) (hsome : 0 < chunkCount r.word) :
    reduceDone s k r = false := by
  have hlong : ((0 : Nat) == chunkCount r.word) = false := beq_false_of_ne (Nat.ne_of_lt hsome)
  have hup : upDone s k r = false := by simp only [upDone, hsent, List.length_nil, hlong, Bool.false_and]
  have hall : allLanded k r = false := by simp only [allLanded, hlanded, List.length_nil, hlong]
  unfold reduceDone
  split
  · exact hup
  · split
    · split
      · exact hall
      · exact hup
    · rw [hall, Bool.false_and, Bool.false_and]
    · rw [hall, Bool.false_and]

theorem settleReduce_of_open {s : State} {k : Chan} {r : Coll} (h : reduceDone s k r = false) : settleReduce s k r = s := by
  simp only [settleReduce, h, Bool.false_eq_true, if_false]

/-- A broadcast starts away from the root, and waits for its chunks. -/
theorem startReduce_waits {s : State} {c : Cmd} {k : Chan} (hchan : getChan s k.id = some k) (hmode : rdMODE c.word = 2) (hroot : k.root s = false)
    (hlanded : k.landed = []) (hsome : 0 < chunkCount c.word) : startReduce s c k = startColl s c k 0 0 := by
  have hpump : startReduce s c k = pumpReduce (startColl s c k 0 0) k.id := by simp [startReduce, hmode, hroot]
  rw [hpump, pumpReduce_broadcast (getChan_startColl 0 0 hchan) (k := chanBegun c k 0 0) (r := collBegun c 0 0) rfl hmode]
  exact settleReduce_of_open (reduceDone_of_nothing hlanded rfl hsome)

/-- A side record that breaks R364 ends the command of another mode. -/
theorem startReduce_badSide {s : State} {c : Cmd} (k : Chan) (hmode : rdMODE c.word ≠ 2) (hbad : badSide s c.word = true) :
    ended (startReduce s c k) c.u c.q c.serial ∧ (startReduce s c k).tallies = s.tallies := by
  have hstart := startColl_changes s c k 0 (memNat s (rdSIDE c.word) 64)
  have hfail : startReduce s c k = failCmd (startColl s c k 0 (memNat s (rdSIDE c.word) 64)) c stFAULT 0x5005
      (cmdReport s c 0x5005 pkgUnit (pack3 k.id (k.serial s % 65536) 0) noPeer none) := by
    simp [startReduce, hmode, hbad]
  obtain ⟨hended, htallies⟩ := failCmd_ends_without_add (startColl s c k 0 (memNat s (rdSIDE c.word) 64)) c 0x5005
    (cmdReport s c 0x5005 pkgUnit (pack3 k.id (k.serial s % 65536) 0) noPeer none) (st := stFAULT) (by decide)
  rw [hfail]
  exact ⟨hended, htallies.trans (hstart.same .tallies rfl)⟩

/-! ### Collectives that complete (R363, R383, R386, R387) -/

section
variable {s : State} {u q op : Nat} {c : Cmd} {k : Chan} {r : Coll} (hs : s.Sound) (hid : k.id < 64) (hq : queueExists c.u c.q = true)
  (h : drives s u q op c k r)
include hs hid hq h

/-- The collective that a parked command drives completes with it. -/
theorem finishColl_of_drives : collFinished s (finishColl s k r) c k := by
  obtain ⟨hjob, -, hu, hqr, hserial, hcmd⟩ := h
  exact finishColl_finishes hs hid hq (collJob_drives hjob) (by rw [hu, hqr, hserial]; exact hcmd) rfl fun _ _ _ => rfl

/-- A broadcast with every chunk landed and sent on completes; one with the verdict block clears the step's norm first (R380). -/
theorem settleReduce_finishes (hout : outstanding s k = []) (hmode : rdMODE r.word = 2) (hroot : k.root s = false) (hbackup : k.backup s = false)
    (hlanded : k.landed.length = chunkCount r.word) : collFinished s (settleReduce s k r) c k := by
  have hdone : reduceDone s k r = true := by simp [reduceDone, allLanded, downDone, hbackup, hmode, hlanded, hout]
  unfold settleReduce
  simp only [hdone, hroot, Bool.false_and, Bool.false_eq_true, if_true, if_false]
  split
  · obtain ⟨hjob, -, hu, hqr, hserial, hcmd⟩ := h
    have hnorm := odSet_changes s 0x9000 0x0C 0
    have hflag := odSet_changes (odSet s 0x9000 0x0C 0) 0x9000 0x0D 0
    refine finishColl_finishes (c := c) (y := k) (hflag.sound (hnorm.sound hs)) hid hq (collJob_drives hjob) ?_ rfl fun sub _ hsub => ?_
    · rw [hu, hqr, hserial]
      exact hcmd
    · rw [odGet_odSet_ne _ _ (odKey_ne hsub (by decide) (.inl (by omega))), odGet_odSet_ne _ _ (odKey_ne hsub (by decide) (.inl (by omega)))]
  · exact finishColl_of_drives hs hid hq h

end

theorem gather_drives {s : State} {u q : Nat} {c : Cmd} {k : Chan} (h : collJob s u q 0xB1 = some (c, k, false)) :
    exec (.gather u q) s = .next (pumpGather 16 s k.id) := by
  show execGather u q s = _
  simp only [execGather, h]

theorem pumpGather_finishes {s : State} {ch : Nat} {k : Chan} {r : Coll} (n : Nat) (hchan : getChan s ch = some k) (hrun : k.run = some r)
    (hout : outstanding s k = []) (hsent : r.sent.length = (k.ranks.length - 1) * gaMsgs r.word)
    (hlanded : k.landed.length = (k.ranks.length - 1) * gaMsgs r.word) : pumpGather (n + 1) s ch = finishColl s k r := by
  simp [pumpGather, hchan, hrun, hout, hsent, hlanded]

theorem permute_drives {s : State} {u q : Nat} {c : Cmd} {k : Chan} (h : collJob s u q 0xB2 = some (c, k, false)) :
    exec (.permute u q) s = .next (pumpPermute 8 s k.id) := by
  show execPermute u q s = _
  simp only [execPermute, h]

theorem pumpPermute_finishes {s : State} {ch : Nat} {k : Chan} {r : Coll} (n : Nat) (hchan : getChan s ch = some k) (hrun : k.run = some r)
    (hout : piecesOut s k = false) (hsent : r.sent.length = pePieces r.word) (hstaged : r.staged = pePieces r.word)
    (hlanded : k.landed.length = peAllMsgs r.word) : pumpPermute (n + 1) s ch = finishColl s k r := by
  simp [pumpPermute, hchan, hrun, hout, hsent, hstaged, hlanded]

/-! ### PERMUTE begins (R248, R253, R386) -/

theorem permute_begins {s : State} {u q : Nat} {c : Cmd} {k : Chan} (h : collJob s u q 0xB2 = some (c, k, true)) :
    exec (.permute u q) s = .next (startPermute s c k) := by
  show execPermute u q s = _
  simp only [execPermute, h]

theorem unlessVacated_none (fail : Nat → State) (go : State) : unlessVacated none fail go = go := rfl

theorem unlessVacated_some (a : Nat) (fail : Nat → State) (go : State) : unlessVacated (some a) fail go = fail a := rfl

/-- A rank whose region moves to itself has nothing to send. -/
theorem startPermute_self {s : State} {c : Cmd} {k : Chan} (hchan : getChan s k.id = some k)
    (hthere : inMemory s (scr c.u (peSTAGE c.word)) (2 * pePiece c.word) = true) (hself : peTo s k = k.rank s) :
    startPermute s c k = finishColl (startColl s c k 2 0) (chanBegun c k 2 0) (collBegun c 2 0) := by
  unfold startPermute
  rw [vacatedAt_none hthere, unlessVacated_none]
  dsimp only
  rw [if_pos hself, getChan_startColl 2 0 hchan]
  rfl

theorem startPermute_self_finishes {s : State} {c : Cmd} {k : Chan} (hs : s.Sound) (hid : k.id < 64) (hq : queueExists c.u c.q = true)
    (hmem : c ∈ s.cmds) (hchan : getChan s k.id = some k) (hthere : inMemory s (scr c.u (peSTAGE c.word)) (2 * pePiece c.word) = true)
    (hself : peTo s k = k.rank s) : collFinished s (startPermute s c k) c k := by
  have hstart := startColl_changes s c k 2 0
  rw [startPermute_self hchan hthere hself]
  exact finishColl_finishes (c := { c with stage := .parked }) (k := chanBegun c k 2 0) (hstart.sound hs) hid hq (getChan_startColl 2 0 hchan)
    (findCmd_startColl 2 0 hmem) (hstart.same .tallies rfl) fun _ hne hsub => odGet_startColl_of_ne 2 0 hne hsub

theorem startPermute_vacated {s : State} {c : Cmd} (k : Chan) (hgone : inMemory s (scr c.u (peSTAGE c.word)) (2 * pePiece c.word) = false) :
    ended (startPermute s c k) c.u c.q c.serial ∧ (startPermute s c k).tallies = s.tallies := by
  obtain ⟨a, ha⟩ := vacatedAt_of_not_inMemory hgone
  unfold startPermute
  rw [ha, unlessVacated_some]
  exact faultCmd_ends_without_add s c _ _ a

/-! ### The chunks of a channel (R355) -/

/-- A chunk of which nothing has come. -/
def Chunk.untouched (c : Nat) : Chunk := ⟨c, [], none, none, false, false, 0, false, 0⟩

theorem getChunk_nil {k : Chan} (h : k.chunks = []) (c : Nat) : getChunk k c = .untouched c := by
  simp only [getChunk, h]
  rfl

theorem getChunk_c (k : Chan) (c : Nat) : (getChunk k c).c = c := by
  unfold getChunk
  cases hfound : k.chunks.find? (fun x => x.c == c) with
  | none => rfl
  | some x => exact beq_iff_eq.mp (List.find?_some (p := fun x : Chunk => x.c == c) hfound)

theorem getChunk_putChunk (k : Chan) (x : Chunk) (j : Nat) : getChunk (putChunk k x) j = if x.c = j then x else getChunk k j := by
  unfold getChunk putChunk
  dsimp only
  split
  next hx =>
    rw [List.find?_cons_of_pos (p := fun y : Chunk => y.c == j) (beq_iff_eq.mpr hx)]
    rfl
  next hx =>
    rw [List.find?_cons_of_neg (p := fun y : Chunk => y.c == j) (by simpa using hx), List.find?_filter]
    congr 2
    funext y
    by_cases hy : y.c = j
    · subst hy
      simp [Ne.symm hx]
    · simp [hy]

/-! ### Chunks that wait for a copy (R359, R369, R374) -/

/-- The chunk waits for the copy of its left child. -/
def Chunk.waits (x : Chunk) : Prop := x.copies = [] ∧ x.left = none ∧ x.formed = false

/-- A collective whose ranges stand in memory, none of those it writes sealed, goes on (R253, R265). -/
theorem unlessBlocked_of_fits {s : State} {reads writes : List (Nat × Nat)}
    (h : ∀ x ∈ reads ++ writes, inMemory s x.1 x.2 = true ∧ sealedRange s x.1 x.2 = false) (r : Coll) (go : State) :
    unlessBlocked s r reads writes go = go := by
  have hthere : minOpts ((reads ++ writes).map fun x => vacatedAt s x.1 x.2) = none := by
    have hnone : (reads ++ writes).map (fun x => vacatedAt s x.1 x.2) = (reads ++ writes).map fun _ => none :=
      List.map_congr_left fun x hx => vacatedAt_none (h x hx).1
    rw [hnone]
    unfold minOpts
    exact List.foldlRecOn (motive := fun a => a = none) _ _ rfl fun a ha b hb => by
      obtain ⟨-, -, rfl⟩ := List.mem_map.mp hb
      rw [minOpt_none, ha]
  have hopen : writes.find? (fun x => sealedRange s x.1 x.2) = none :=
    List.find?_eq_none.mpr fun x hx => by rw [(h x (List.mem_append_right _ hx)).2]; decide
  simp only [unlessBlocked, hthere, hopen]

/-- Without a copy nothing is judged and nothing is chosen, where the only child is the left one. -/
theorem chooseSides_waits {s : State} {k : Chan} {c rank : Nat} (r : Coll) (hchild : k.child s false = some rank) (honly : k.child s true = none)
    (h : (getChunk k c).waits) : chooseSides s k r c = (s, getChunk k c) := by
  obtain ⟨hcopies, hleft, -⟩ := h
  have hjudged : judgeCopies s k r c = (s, getChunk k c) := by
    unfold judgeCopies
    rw [hcopies, List.foldl_nil, ← hcopies]
  have hchosen : ∀ backup, chooseCopy s (getChunk k c) false backup = none := fun backup => by
    cases backup <;> simp [chooseCopy, hcopies]
  simp [chooseSides, hjudged, hchild, honly, hleft, hchosen]

section
variable {s : State} {k : Chan} {r : Coll} {rank c : Nat} (hchan : getChan s k.id = some k) (hrun : k.run = some r)
  (hchild : k.child s false = some rank) (honly : k.child s true = none) (hfilter : s.biFilter = []) (hheld : s.biHeld = [])
include hchan hrun hchild honly hfilter hheld

/-- A chunk that waits is noted in its channel, and no more. -/
theorem formChunk_waits (h : (getChunk k c).waits)
    (hfits : ∀ x ∈ chunkReads s k r c ++ formRanges s k r c, inMemory s x.1 x.2 = true ∧ sealedRange s x.1 x.2 = false) :
    formChunk s k.id c = putChan s (putChunk k (getChunk k c)) := by
  have ⟨_, hleft, hformed⟩ := h
  have hclear : (snooped s (formRanges s k r c) != []) = false := by
    rw [snooped_of_noLines hfilter hheld]
    rfl
  have hnoted : getChan (putChan s (putChunk k (getChunk k c))) k.id = some (putChunk k (getChunk k c)) :=
    getChan_putChan (k := putChunk k (getChunk k c)) hchan
  have hcrec : (putChunk k (getChunk k c)).crec (putChan s (putChunk k (getChunk k c))) = k.crec s := by
    rw [Chan.crec_of_getChan (k := putChunk k (getChunk k c)) hnoted, Chan.crec_of_getChan hchan]
    rfl
  have hstill : (putChunk k (getChunk k c)).child (putChan s (putChunk k (getChunk k c))) false = some rank := by
    rw [← hchild]
    simp only [Chan.child, Chan.pos, Chan.rank, hcrec]
    rfl
  have hunready : sidesReady (putChan s (putChunk k (getChunk k c))) (putChunk k (getChunk k c)) (getChunk k c) = false := by
    simp [sidesReady, hstill, hleft]
  unfold formChunk
  simp only [hchan, hrun, hformed, Bool.false_eq_true, if_false, unlessBlocked_of_fits hfits, hclear, chooseSides_waits r hchild honly h, hunready,
    Bool.not_false, Bool.true_or, if_true]

end

/-- The state s but for the chunks of channel k, which read as `look` says. -/
def chunksRead (s : State) (k : Chan) (look : Nat → Chunk) (t : State) : Prop :=
  ∃ l, t = putChan s { k with chunks := l } ∧ ∀ j, getChunk { k with chunks := l } j = look j

section
variable {s t : State} {k : Chan} {r : Coll} {rank : Nat} {look : Nat → Chunk} (hchan : getChan s k.id = some k) (hrun : k.run = some r)
  (hchild : k.child s false = some rank) (honly : k.child s true = none) (hfilter : s.biFilter = []) (hheld : s.biHeld = [])
  (hlook : ∀ j, (look j).waits) (hnone : k.chunks = [])
include hchan hrun hchild honly hfilter hheld hlook hnone

/-- A pass over one more of the chunks leaves them all waiting. -/
theorem formChunk_keeps {c : Nat} (hc : c < chunkCount r.word) (hfits : collFits s k r) (h : chunksRead s k look t) :
    chunksRead s k look (formChunk t k.id c) := by
  obtain ⟨l, rfl, hread⟩ := h
  have hfound : getChan (putChan s { k with chunks := l }) k.id = some { k with chunks := l } := getChan_putChan (k := { k with chunks := l }) hchan
  have hcrec : ({ k with chunks := l } : Chan).crec (putChan s { k with chunks := l }) = k.crec s := by
    rw [Chan.crec_of_getChan (k := { k with chunks := l }) hfound, Chan.crec_of_getChan hchan]
  have hsides : ∀ right, ({ k with chunks := l } : Chan).child (putChan s { k with chunks := l }) right = k.child s right := fun right => by
    simp only [Chan.child, Chan.pos, Chan.rank, hcrec]
    rfl
  have hwaits : (getChunk { k with chunks := l } c).waits := by
    rw [hread]
    exact hlook c
  have hreads : chunkReads (putChan s { k with chunks := l }) { k with chunks := l } r c = chunkReads s k r c := by
    simp only [chunkReads, hwaits.1, getChunk_nil hnone, Chunk.untouched, List.map_nil]
  have hranges : formRanges (putChan s { k with chunks := l }) { k with chunks := l } r c = formRanges s k r c := by
    simp only [formRanges, Chan.root, Chan.pos, Chan.rank, Chan.backup, hcrec]
    rfl
  have hform := formChunk_waits (k := { k with chunks := l }) hfound hrun ((hsides false).trans hchild) ((hsides true).trans honly) hfilter hheld
    hwaits (by rw [hreads, hranges]; exact hfits c hc)
  refine ⟨_, hform.trans (putChan_putChan s rfl), fun j => ?_⟩
  show getChunk (putChunk { k with chunks := l } (getChunk { k with chunks := l } c)) j = look j
  rw [getChunk_putChunk, getChunk_c]
  split
  next hj => rw [hj, hread]
  next => exact hread j

/-- Driving a reduction whose chunks all wait leaves them waiting, and its collective running. -/
theorem pumpReduce_waits (hfits : collFits s k r) (hlanded : k.landed = []) (hsent : r.sent = []) (hsome : 0 < chunkCount r.word)
    (h : chunksRead s k look t) : chunksRead s k look (pumpReduce t k.id) := by
  have hfound : ∀ {v}, chunksRead s k look v → ∃ l, getChan v k.id = some { k with chunks := l } := fun ⟨l, hv, _⟩ =>
    ⟨l, hv ▸ getChan_putChan (k := { k with chunks := l }) hchan⟩
  obtain ⟨l, hl⟩ := hfound h
  have hformed : chunksRead s k look (chunksFormed t k.id r) := by
    unfold chunksFormed
    split
    · exact h
    · exact List.foldlRecOn _ _ h fun v hv c hc =>
        formChunk_keeps hchan hrun hchild honly hfilter hheld hlook hnone (List.mem_range.mp hc) hfits hv
  obtain ⟨m, hm⟩ := hfound hformed
  rw [pumpReduce_eq hl hrun hm hrun, settleReduce_of_open (reduceDone_of_nothing (k := { k with chunks := m }) hlanded hsent hsome)]
  exact hformed

end

/-! ### LATE_LIMIT and COLLECTIVE_LIMIT (R363, R374) -/

theorem lateLimit_due {s : State} {ch chunk : Nat} {k : Chan} {r : Coll} {rank : Nat} (hchan : getChan s ch = some k) (hrun : k.run = some r)
    (hkind : r.kind = 0) (hchild : k.child s false = some rank) (honly : k.child s true = none) (hbackup : (k.backupOf rank).isSome = true)
    (hlate : crLATE (k.crec s) ≠ 0) (hopen : (getChunk k chunk).formed = false) (hchunk : chunk < chunkCount r.word)
    (hdue : r.admittedAt + crLATE (k.crec s) * 100 ≤ s.uptime) :
    exec (.lateLimit ch chunk false) s = .next (pumpReduce (putChan s (putChunk k { getChunk k chunk with lateL := true })) ch) := by
  have hstart : lateStart s k r (getChunk k chunk) false = some r.admittedAt := by simp [lateStart, honly]
  show execLateLimit ch chunk false s = _
  simp [execLateLimit, hchan, hrun, hchild, hstart, hlate, hbackup, hdue, hopen, hchunk, hkind]

/-- The marked chunk waits on with its mark. -/
theorem lateLimit_marks {s : State} {chunk : Nat} {k : Chan} {r : Coll} {rank : Nat} (hchan : getChan s k.id = some k) (hrun : k.run = some r)
    (hchild : k.child s false = some rank) (honly : k.child s true = none) (hnone : k.chunks = []) (hlanded : k.landed = []) (hsent : r.sent = [])
    (hsome : 0 < chunkCount r.word) (hfilter : s.biFilter = []) (hheld : s.biHeld = []) (hfits : collFits s k r) :
    ∃ x, getChan (pumpReduce (putChan s (putChunk k { getChunk k chunk with lateL := true })) k.id) k.id = some x ∧ x.run = some r ∧
      (getChunk x chunk).lateL = true := by
  have hlook : ∀ j, (getChunk (putChunk k { getChunk k chunk with lateL := true }) j).waits := fun j => by
    rw [getChunk_putChunk, getChunk_nil hnone, getChunk_nil hnone]
    split <;> exact ⟨rfl, rfl, rfl⟩
  obtain ⟨l, hpump, hread⟩ := pumpReduce_waits hchan hrun hchild honly hfilter hheld hlook hnone hfits hlanded hsent hsome
    (t := putChan s (putChunk k { getChunk k chunk with lateL := true })) ⟨_, rfl, fun _ => rfl⟩
  rw [hpump]
  refine ⟨_, getChan_putChan (k := { k with chunks := l }) hchan, hrun, ?_⟩
  rw [hread, getChunk_putChunk, if_pos (getChunk_c k chunk)]

theorem collectiveLimit_ends {s : State} {ch : Nat} {k : Chan} {r : Coll} {c : Cmd} (hchan : getChan s ch = some k) (hrun : k.run = some r)
    (hlimit : crCLIM (k.crec s) ≠ 0) (hdue : r.admittedAt + crCLIM (k.crec s) * 100000 ≤ s.uptime) (hcmd : findCmd s r.u r.q r.serial = some c) :
    ∃ t, exec (.collectiveLimit ch) s = .next t ∧ ended t c.u c.q c.serial ∧ t.tallies = s.tallies := by
  refine ⟨failCmd s c stFABRIC 0x5004 (cmdReport s c 0x5004 pkgUnit (pack3 ch (k.serial s % 65536) 0) noPeer none), ?_,
    failCmd_ends_without_add s c _ _ (by decide)⟩
  show execCollectiveLimit ch s = _
  simp [execCollectiveLimit, hchan, hrun, hlimit, hdue, hcmd]

/-- Settles O53: a start by what it leaves of its channel and command, a completion by `finishColl_finishes`, the late limit by the chunks that
wait through the pass it sets off. -/
theorem collectivesRun : Obligations.CollectivesRun := by
  refine ⟨fun s u q c k hjob => ⟨fun hmode hroot hlanded hsome => ?_, fun hmode hbad => ?_⟩,
    fun s u q c k r hs hid hq => ⟨fun h hout hmode hroot hbackup hlanded => ?_, fun h hout hsent hlanded => ?_, fun h hout hsent hstaged hlanded => ?_⟩,
    fun s u q c k hjob hs hid hq => ⟨fun hthere hself => ?_, fun hgone => ?_⟩,
    fun s ch chunk k r rank hchan hrun hkind hchild honly hbackup hlate hnone hlanded hsent hchunk hfilter hheld hdue hfits => ?_,
    fun s ch k r c => collectiveLimit_ends⟩
  · obtain ⟨hmem, hchan⟩ := collJob_begins hjob
    refine ⟨_, reduce_begins hjob (.inr hroot), ?_⟩
    rw [startReduce_waits hchan hmode hroot hlanded hsome]
    exact ⟨collStarted_startColl 0 0 hmem hchan, (startColl_changes s c k 0 0).same .memory rfl⟩
  · exact ⟨_, reduce_begins hjob (.inl hmode), startReduce_badSide k hmode hbad⟩
  · have ⟨hjob, hrun, _⟩ := h
    refine ⟨_, reduce_drives hjob, ?_⟩
    rw [pumpReduce_broadcast (collJob_drives hjob) hrun hmode]
    exact settleReduce_finishes hs hid hq h hout hmode hroot hbackup hlanded
  · have ⟨hjob, hrun, _⟩ := h
    refine ⟨_, gather_drives hjob, ?_⟩
    rw [pumpGather_finishes 15 (collJob_drives hjob) hrun hout hsent hlanded]
    exact finishColl_of_drives hs hid hq h
  · have ⟨hjob, hrun, _⟩ := h
    refine ⟨_, permute_drives hjob, ?_⟩
    rw [pumpPermute_finishes 7 (collJob_drives hjob) hrun hout hsent hstaged hlanded]
    exact finishColl_of_drives hs hid hq h
  · obtain ⟨hmem, hchan⟩ := collJob_begins hjob
    exact ⟨_, permute_begins hjob, startPermute_self_finishes hs hid hq hmem hchan hthere hself⟩
  · exact ⟨_, permute_begins hjob, startPermute_vacated k hgone⟩
  · have hopen : (getChunk k chunk).formed = false := by
      rw [getChunk_nil hnone]
      rfl
    refine ⟨_, lateLimit_due hchan hrun hkind hchild honly hbackup hlate hopen hchunk hdue, ?_⟩
    obtain rfl := getChan_id hchan
    exact lateLimit_marks hchan hrun hchild honly hnone hlanded hsent (by omega) hfilter hheld hfits

end Sys2Proof.Machine
end

section
/-! PROOFS. O6: the state after reset is in order (R249, R410). -/

-- Here and in the sections below, theorems are checked one at a time: the whole text then needs less memory.
set_option Elab.async false

namespace Sys2Proof.Machine

/-- Settles O6: after reset every store and list is empty, and the sixteen ports stand. -/
theorem resetIsSound : Obligations.ResetIsSound where
  memory := rfl
  poison := .nil
  acc := rfl
  tallies := rfl
  tallyBound := fun _ h => nomatch h
  od := .nil
  reports := Nat.zero_le _
  ring := Nat.zero_le _
  ports := List.length_replicate
  valid := rfl
  reserves := rfl
  reserveEnds := rfl
  seeds := rfl
  slots := rfl
  codewords := rfl
  symbols := rfl
  sensors := rfl

end Sys2Proof.Machine
end

section
/-! PROOFS. O36: the answer of a GET lands or counts as a timeout, and the timer of a message sends it again or ends it (R253, R288, R308, R311, R313). -/

set_option Elab.async false

namespace Sys2Proof.Machine

/-! ### Requests that leave the package (R297, R301) -/

/-- A NAK is no packet of a GET's answer, so that no kept message takes it. -/
theorem takeResponse_sends {s : State} {p : Packet} (h : p.kind ≠ 0xA) : (takeResponse s p).sends = s.sends := by
  rw [takeResponse, if_neg h]

theorem sendOn_sends (s : State) (port : Nat) (p : Packet) : (sendOn s port p).sends = s.sends := by
  unfold sendOn sendSince
  dsimp only
  split <;> rfl

theorem odBump_sends (s : State) (i sub n : Nat) : (odBump s i sub n).sends = s.sends := ((odBump_changes s i sub n).same .fabric rfl).2.1

theorem lostResponse_sends (s : State) (p : Packet) : (lostResponse s p).sends = s.sends := by
  unfold lostResponse
  split
  · exact odBump_sends _ _ _ _
  · rfl

/-- No response but a packet of a GET's answer touches the messages kept. -/
theorem sendResponse_sends {s : State} {p : Packet} (h : p.kind ≠ 0xA) : (sendResponse s p).sends = s.sends := by
  have hcount : (if p.kind = 9 then odBump s 0x5000 0x13 1 else s).sends = s.sends := by
    split
    · exact odBump_sends _ _ _ _
    · rfl
  unfold sendResponse
  dsimp only
  split
  · exact (takeResponse_sends h).trans hcount
  · split
    · exact (sendOn_sends _ _ _).trans hcount
    · exact hcount
    · exact (lostResponse_sends _ _).trans hcount

/-- A request for another package leaves the messages kept as they are, whether it goes on, waits or has no route. -/
theorem routePacket_sends {s : State} {p : Packet} (hfar : seresPkg p.daddr ≠ ownPkg s) (hkind : isResponse p.kind = false) :
    (routePacket s p).sends = s.sends := by
  rw [routePacket, if_neg hfar]
  split
  · exact odBump_sends _ _ _ _
  · split
    · rfl
    · split
      · exact sendOn_sends _ _ _
      · rfl
      · rw [noRoute, hkind, if_neg Bool.false_ne_true]
        split
        · exact sendResponse_sends (by decide : (9 : Nat) ≠ 0xA)
        · rfl

/-! ### A GET that goes again (R292, R311) -/

/-- A GET has no payload: it goes as one packet. -/
theorem transmit_get {s : State} {m : SendMsg} (hget : m.head.kind = 1) :
    transmit s m (fun _ => true) = routePacket (startTimer s m.msgid) (packetAt m.head [] 0 0) := by
  have hpayload : msgPayload s m = [] := by simp [msgPayload, hget, noPayload]
  have hpoison : ∀ x k, msgPoison x m k = 0 := fun x k => by simp [msgPoison, hget, noPayload]
  simp only [transmit, hpayload, hpoison]
  rfl

/-- A GET to another package that is sent again starts its timer, and leaves the other messages kept alone. -/
theorem transmit_get_sends {s : State} {m : SendMsg} (hget : m.head.kind = 1) (hfar : seresPkg m.head.daddr ≠ ownPkg s) :
    (transmit s m (fun _ => true)).sends = (startTimer s m.msgid).sends := by
  rw [transmit_get hget]
  have haddr : (packetAt m.head [] 0 0).daddr = m.head.daddr := by simp [packetAt]
  refine routePacket_sends ?_ ?_
  · rw [haddr]
    exact hfar
  · show isResponse m.head.kind = false
    rw [hget]
    rfl

/-- The first entry that carries the number of a message is the message, once it has been put. -/
theorem find_putSend {s : State} {m x : SendMsg} (hx : x ∈ s.sends) (hid : x.msgid = m.msgid) :
    (putSend s m).sends.find? (fun x => x.msgid == m.msgid) = some m := by
  have hfound : (s.sends.find? (fun x => x.msgid == m.msgid)).isSome = true := List.find?_isSome.mpr ⟨x, hx, by simp [hid]⟩
  obtain ⟨y, hy⟩ := Option.isSome_iff_exists.mp hfound
  show (mapFirst _ _ s.sends).find? _ = _
  rw [find?_mapFirst (p := fun x : SendMsg => x.msgid == m.msgid) (f := fun _ => m) (fun _ _ => beq_self_eq_true m.msgid), hy]
  rfl

theorem startTimer_mem {s : State} {m : SendMsg} {msgid : Nat} (h : s.sends.find? (fun x => x.msgid == msgid) = some m) :
    { m with sentAt := s.uptime } ∈ (startTimer s msgid).sends := by
  have hstarted := find?_mapFirst (p := fun x : SendMsg => x.msgid == msgid) (f := fun x => { x with sentAt := s.uptime }) (fun _ h => h) s.sends
  rw [h] at hstarted
  exact List.mem_of_find?_eq_some hstarted

theorem ownPkg_odBump_resends (s : State) (n : Nat) : ownPkg (odBump s 0x5000 0x11 n) = ownPkg s :=
  (odBump_keeps s 0x5000 0x11 n).get 0x5000 0x01 ⟨by decide, not_logKey (by decide) (by decide)⟩

/-- A GET to another package that goes again is kept with nothing landed and its timer started (R308, R311). -/
theorem resend_get {s : State} {m x : SendMsg} (hx : x ∈ s.sends) (hid : x.msgid = m.msgid) (hget : m.head.kind = 1)
    (hfar : seresPkg m.head.daddr ≠ ownPkg s) :
    { m with resends := m.resends + 1, got := [], sentAt := s.uptime } ∈ (resend s m (fun _ => true)).sends := by
  unfold resend
  rw [if_pos hget]
  have hfound := find_putSend (m := { m with resends := m.resends + 1, got := [] }) hx hid
  have huptime : (odBump (putSend s { m with resends := m.resends + 1, got := [] }) 0x5000 0x11 1).uptime = s.uptime :=
    (odBump_changes (putSend s { m with resends := m.resends + 1, got := [] }) 0x5000 0x11 1).same .clock rfl
  rw [← odBump_sends _ 0x5000 0x11 1] at hfound
  have hstarted := startTimer_mem hfound
  rw [huptime] at hstarted
  rw [transmit_get_sends hget (by rw [ownPkg_odBump_resends]; exact hfar)]
  exact hstarted

/-! ### GET_DATA (R253, R265, R308) -/

theorem getData_of_findSend {s : State} {msgid : Nat} {m : SendMsg} (h : findSend s msgid = some m) :
    exec (.getData msgid) s = .next (getDataDone s m) := by
  show execGetData msgid s = _
  simp only [execGetData, h]

/-- A message that has a command, and belongs to no screed, names it. -/
theorem owner_of_ownerCmd {s : State} {m : SendMsg} {c : Cmd} (howner : ownerCmd s m = some c) (hscreed : screedOf s m = none) :
    ∃ o, m.owner = some o := by
  cases ho : m.owner with
  | some o => exact ⟨o, rfl⟩
  | none => simp [ownerCmd, ho, hscreed] at howner

/-- A whole answer with a good CRC lands its bytes and finishes the GET. -/
theorem getDataDone_lands {s : State} {m : SendMsg} {c : Cmd} (hget : m.head.kind = 1) (hall : getAll m = true) (hcrc : getCrcOk m = true)
    (hscreed : screedOf s m = none) (howner : ownerCmd s m = some c) (hfilter : s.biFilter = []) (hheld : s.biHeld = [])
    (hthere : inMemory s (seresOff m.head.arg) (getBytes m).length = true) (hopen : sealedRange s (seresOff m.head.arg) (getBytes m).length = false) :
    getDataDone s m = finishCmd (memWriteBad (dropSend s m.msgid) (seresOff m.head.arg) (getBytes m) (getBad m (seresOff m.head.arg))) c stOK := by
  obtain ⟨o, ho⟩ := owner_of_ownerCmd howner hscreed
  simp only [getDataDone, hget, hall, hcrc, hscreed, ho, bne_self_eq_false, Bool.not_true, Bool.or_self, Bool.false_eq_true, if_false,
    Option.isSome_none, localWrite_of_noLines hfilter hheld, landGet, vacatedAt_none hthere, howner, hopen]

/-- A whole answer with a bad CRC counts as a timeout, its packets discarded. -/
theorem getDataDone_badCrc {s : State} {m : SendMsg} (hget : m.head.kind = 1) (hall : getAll m = true) (hcrc : getCrcOk m = false) :
    getDataDone s m = timeoutMsg (putSend s { m with got := [] }) { m with got := [] } := by
  simp only [getDataDone, hget, hall, hcrc, bne_self_eq_false, Bool.not_true, Bool.or_self, Bool.false_eq_true, if_false, Bool.not_false, if_true]

theorem getData_completes {s : State} {msgid : Nat} {m : SendMsg} {c : Cmd} (hs : s.Sound) (hsend : findSend s msgid = some m)
    (hget : m.head.kind = 1) (hall : getAll m = true) (hscreed : screedOf s m = none) (howner : ownerCmd s m = some c)
    (hcrc : getCrcOk m = true) (hq : queueExists c.u c.q = true) (hfilter : s.biFilter = []) (hheld : s.biHeld = [])
    (hthere : inMemory s (seresOff m.head.arg) (getBytes m).length = true) (hopen : sealedRange s (seresOff m.head.arg) (getBytes m).length = false) :
    ∃ t, exec (.getData msgid) s = .next t ∧ ended t c.u c.q c.serial ∧ (∀ k, tallyGet t k = addedTally c (tallyGet s) k) ∧
      ((∀ m ∈ s.sends, m.waiting = false) → ∀ a, ¬ inRecords s c.u c.q a → memByte t a =
        if seresOff m.head.arg ≤ a ∧ a < seresOff m.head.arg + (getBytes m).length then listGet 0 (getBytes m) (a - seresOff m.head.arg)
        else memByte s a) := by
  have hrun := getData_of_findSend hsend
  rw [getDataDone_lands hget hall hcrc hscreed howner hfilter hheld hthere hopen] at hrun
  have hdrop := dropSend_changes s m.msgid
  have hwrite := memWriteBad_changes (dropSend s m.msgid) (seresOff m.head.arg) (getBytes m) (getBad m (seresOff m.head.arg))
  have hsound := hwrite.sound (hdrop.sound hs)
  have htallies := (hwrite.same .tallies rfl).trans (hdrop.same .tallies rfl)
  refine ⟨_, hrun, completeCmd_ends _ _ _ _, fun k => ?_, fun hidle a ha => ?_⟩
  · exact (completeCmd_adds _ c stOK 0 k hsound (by decide)).trans (addedTally_congr c (tallyGet_congr htallies) k)
  · obtain ⟨-, -, hbytes⟩ := finish_after (s := s) (c := c) hq hsound htallies
      (SameRing.of_od ((hwrite.same .od rfl).trans (dropSend_od hidle m.msgid)))
    rw [hbytes a ha, memByte_memWriteBad_ite _ _ _ _ _ _ (hdrop.sound hs).memory rfl, memByte_congr (hdrop.same .memory rfl)]

/-! ### Timeouts (R253, R311, R313) -/

theorem timeoutMsg_repeats {s : State} {m : SendMsg} (hleft : mayResend s m = true) (hthere : sourceGone s m = none) :
    timeoutMsg s m = resend s { m with i := m.i + 1 } (fun _ => true) := by
  rw [timeoutMsg, if_pos hleft, resendOr, unlessGone_of_there (m := { m with i := m.i + 1 }) hthere]

theorem timeoutMsg_vacated {s : State} {m : SendMsg} {c : Cmd} (hleft : mayResend s m = true) (hgone : (sourceGone s m).isSome = true)
    (howner : ownerCmd s m = some c) : ended (timeoutMsg s m) c.u c.q c.serial ∧ (timeoutMsg s m).tallies = s.tallies := by
  rw [timeoutMsg, if_pos hleft]
  exact unlessGone_ends (m := { m with i := m.i + 1 }) hgone howner _

theorem timeoutMsg_fails {s : State} {m : SendMsg} {c : Cmd} (hnone : mayResend s m = false) (howner : ownerCmd s m = some c)
    (hscreed : screedOf s m = none) : ended (timeoutMsg s m) c.u c.q c.serial ∧ (timeoutMsg s m).tallies = s.tallies := by
  rw [timeoutMsg, hnone, if_neg Bool.false_ne_true]
  exact failMsg_ends howner hscreed (by decide) _ _ _

/-- A bad CRC sends a GET to another package again, with the next interval, its packets discarded (R308, R311). -/
theorem getData_repeats {s : State} {msgid : Nat} {m : SendMsg} (hsend : findSend s msgid = some m) (hget : m.head.kind = 1)
    (hall : getAll m = true) (hcrc : getCrcOk m = false) (hleft : mayResend s m = true) (hthere : sourceGone s m = none)
    (hfar : seresPkg m.head.daddr ≠ ownPkg s) :
    ∃ t x, exec (.getData msgid) s = .next t ∧ x ∈ t.sends ∧ x.msgid = m.msgid ∧ x.got = [] ∧ x.resends = m.resends + 1 ∧ x.i = m.i + 1 ∧
      x.sentAt = s.uptime ∧ t.mem = s.mem ∧ t.cmds = s.cmds := by
  have hrun := getData_of_findSend hsend
  rw [getDataDone_badCrc hget hall hcrc, timeoutMsg_repeats (s := putSend s { m with got := [] }) (m := { m with got := [] }) hleft hthere] at hrun
  have hput := List.mem_of_find?_eq_some (find_putSend (m := { m with got := [] }) (mem_of_findSend hsend) rfl)
  have hkept := resend_changes (putSend s { m with got := [] }) { m with got := [], i := m.i + 1 } (fun _ => true)
  exact ⟨_, _, hrun, resend_get (m := { m with got := [], i := m.i + 1 }) hput rfl hget hfar, rfl, rfl, rfl, rfl, rfl, hkept.same .memory rfl,
    (hkept.same .commands rfl).1⟩

/-! ### RESEND_TIMER (R311) -/

/-- A message that replaces one of its number is itself replaced by the next of that number. -/
theorem putSend_putSend (s : State) {m n : SendMsg} (h : n.msgid = m.msgid) : putSend (putSend s m) n = putSend s n := by
  have hlist : ∀ l : List SendMsg, mapFirst (fun x => x.msgid == n.msgid) (fun _ => n) (mapFirst (fun x => x.msgid == m.msgid) (fun _ => m) l) =
      mapFirst (fun x => x.msgid == n.msgid) (fun _ => n) l := by
    intro l
    induction l with
    | nil => rfl
    | cons a r ih =>
      by_cases ha : a.msgid = m.msgid
      · simp [mapFirst, ha, h]
      · have hr : mapFirst (fun x => x.msgid == m.msgid) (fun _ => m) (a :: r) = a :: mapFirst (fun x => x.msgid == m.msgid) (fun _ => m) r := by
          simp [mapFirst, ha]
        have hn : ∀ x, mapFirst (fun x => x.msgid == n.msgid) (fun _ => n) (a :: x) = a :: mapFirst (fun x => x.msgid == n.msgid) (fun _ => n) x :=
          fun x => by simp [mapFirst, ha, h]
        rw [hr, hn, hn, ih]
  simp only [putSend, hlist]

/-- A kept message goes again with its next interval (R311). -/
theorem resend_nextInterval {s : State} {m : SendMsg} (hm : m ∈ s.sends) (want : Nat → Bool) :
    sentAgain (resend s { m with i := m.i + 1 } want) m (m.i + 1) := by
  have hput := List.mem_of_find?_eq_some (find_putSend (m := { m with i := m.i + 1 }) hm rfl)
  have hsame : resend (putSend s { m with i := m.i + 1 }) { m with i := m.i + 1 } want = resend s { m with i := m.i + 1 } want := by
    unfold resend
    rw [putSend_putSend]
    rfl
  rw [← hsame]
  exact resend_sentAgain hput want

theorem resendTimer_of_findSend {s : State} {msgid : Nat} {m : SendMsg} (h : findSend s msgid = some m) :
    exec (.resendTimer msgid) s = .next (if timerDue s m = true then timeoutMsg s m else s) := by
  show execResendTimer msgid s = _
  simp only [execResendTimer, h]

/-- Settles O36: an answer by what it does when whole, and the timer by the timeout that it shares with a bad CRC. -/
theorem getDataAndTimer : Obligations.GetDataAndTimer := by
  refine ⟨fun s msgid m hs hsend hget hall hscreed => ⟨fun c howner _ hcrc => getData_completes hs hsend hget hall hscreed howner hcrc,
    getData_repeats hsend hget hall, fun c hcrc hnone howner => ?_⟩, fun s msgid m hsend hmissing => ?_,
    fun s msgid m hsend => ⟨fun hearly => ?_, fun hdue hleft hthere => ?_, fun c hdue hleft hgone howner => ?_, fun c hdue hnone howner hscreed => ?_⟩⟩
  · have hrun := getData_of_findSend hsend
    rw [getDataDone_badCrc hget hall hcrc] at hrun
    exact ⟨_, hrun, timeoutMsg_fails (s := putSend s { m with got := [] }) (m := { m with got := [] }) hnone howner hscreed⟩
  · rw [getData_of_findSend hsend, getDataDone, hmissing]
    simp
  · rw [resendTimer_of_findSend hsend, hearly, if_neg Bool.false_ne_true]
  · have hrun := resendTimer_of_findSend hsend
    rw [if_pos hdue, timeoutMsg_repeats hleft hthere] at hrun
    have hkept := resend_changes s { m with i := m.i + 1 } (fun _ => true)
    exact ⟨_, hrun, resend_nextInterval (mem_of_findSend hsend) _, (hkept.same .commands rfl).1⟩
  · have hrun := resendTimer_of_findSend hsend
    rw [if_pos hdue] at hrun
    exact ⟨_, hrun, timeoutMsg_vacated hleft hgone howner⟩
  · have hrun := resendTimer_of_findSend hsend
    rw [if_pos hdue] at hrun
    exact ⟨_, hrun, timeoutMsg_fails hnone howner hscreed⟩

end Sys2Proof.Machine
end

section
/-! PROOFS. O54: collective messages at their destination (R308, R315, R353, R356, R359, R362, R377, R384, R386, R388). -/

set_option Elab.async false

namespace Sys2Proof.Machine

/-! ### A message that lands (R308) -/

theorem leBytes_leNat (l : List Byte) : leBytes l.length (leNat l) = l := by
  induction l with
  | nil => rfl
  | cons b r ih =>
    have hlow : BitVec.ofNat 8 (b.toNat + 256 * leNat r) = b := BitVec.eq_of_toNat_eq (by simp [BitVec.toNat_ofNat]; omega)
    have hrest : (b.toNat + 256 * leNat r) / 256 = leNat r := by have := b.isLt; omega
    simp only [List.length_cons, leBytes, leNat, hlow, hrest, ih]

/-- Bytes read as FP32 values and written again are the bytes. -/
theorem bytes32_words32 (n : Nat) (l : List Byte) (h : l.length = 4 * n) : bytes32 (words32 n l) = l := by
  induction n generalizing l with
  | zero => simp [List.eq_nil_of_length_eq_zero h, words32, bytes32]
  | succ n ih =>
    have hhead : leBytes 4 (leNat (l.take 4)) = l.take 4 := by
      have hlen : (l.take 4).length = 4 := by rw [List.length_take]; omega
      have hsame := leBytes_leNat (l.take 4)
      rwa [hlen] at hsame
    have hrest : bytes32 (words32 n (l.drop 4)) = l.drop 4 := ih _ (by rw [List.length_drop]; omega)
    rw [words32, bytes32, List.flatMap_cons, hhead]
    exact (congrArg _ hrest).trans (List.take_append_drop 4 l)

/-- A message that is acknowledged once its bytes have been written has landed; a state y in between has the memory of s. -/
theorem ackMsg_lands {s y x : State} {m : RecvCtx} {a : Nat} (bad : List (Nat × Nat)) (hy : y.Sound) (hmem : y.mem = s.mem)
    (hwrite : x.mem = (memWriteBad y a (recvPayload m) bad).mem) (hidle : ∀ z ∈ x.sends, z.waiting = false) : landedAt s (ackMsg x m) m a := by
  obtain ⟨hgone, hkept, -, -⟩ := ackMsg_ended hidle m
  refine ⟨hgone, fun b => ?_⟩
  rw [memByte_congr (hkept.trans hwrite) b, memByte_memWriteBad_ite y a b _ (recvPayload m) bad hy.memory rfl, memByte_congr hmem b]

theorem getChan_ackMsg (s : State) (m : RecvCtx) (ch : Nat) : getChan (ackMsg s m) ch = getChan s ch :=
  getChan_congr ((ackMsg_changes s m).same .channels rfl) ch

/-! ### Collective messages for a bound channel (R308, R353) -/

theorem collMessage_of_ready {s : State} {spkg msgid kind : Nat} {m : RecvCtx} {k : Chan} (h : collReady s spkg msgid kind m k)
    (f : State → Chan → RecvCtx → State) : collMessage s spkg msgid kind f = f s k m := by
  obtain ⟨hready, hcrc, hchan, -, hroom, -⟩ := h
  simp only [collMessage, hready, hcrc, hroom, hchan, Bool.not_true, Bool.false_eq_true, if_false]

theorem collMessage_of_badCrc {s : State} {spkg msgid kind : Nat} {m : RecvCtx} (h : readyRecv s spkg msgid kind = some m)
    (hcrc : recvCrcOk m = false) (f : State → Chan → RecvCtx → State) : collMessage s spkg msgid kind f = crcMsg s m := by
  simp only [collMessage, h, hcrc, Bool.not_false, if_true]

/-- Each row of a collective message drops it where its CRC does not match. -/
theorem collMessage_drops {s : State} {spkg msgid kind : Nat} {i : Instr} {m : RecvCtx} (f : State → Chan → RecvCtx → State)
    (hrun : exec i s = .next (collMessage s spkg msgid kind f)) (h : readyRecv s spkg msgid kind = some m) (hcrc : recvCrcOk m = false) :
    ∃ t, exec i s = .next t ∧ crcDropped s t m := by
  obtain ⟨hfound, rfl, rfl⟩ := readyRecv_spec h
  exact ⟨_, hrun.trans (congrArg _ (collMessage_of_badCrc h hcrc f)), crcMsg_drops hfound⟩

theorem collReady_getChan {s : State} {spkg msgid kind : Nat} {m : RecvCtx} {k : Chan} (h : collReady s spkg msgid kind m k) :
    getChan s k.id = some k := by
  obtain ⟨-, -, hchan, -⟩ := h
  rw [getChan_id hchan]
  exact hchan

/-- A message for a place that peers may write, where the host holds no line, lands at once. -/
theorem landOr_of_writable {s : State} {m : RecvCtx} {a n : Nat} (h : peerWritable s a n = true) (acc : Accept) (go : State) :
    landOr s m acc a n go = go := by
  rw [landOr, if_pos h]

/-! ### Chunks from below (R356, R359) -/

theorem acceptColl_early_run {s : State} {k : Chan} {h : Packet} {kind : Nat} (he : acceptColl s k h kind = .early) : k.run = none := by
  cases hrun : k.run with
  | none => rfl
  | some r =>
    simp only [acceptColl, hrun] at he
    split at he
    · cases he
    · split at he <;> cases he

theorem pumpReduce_idle {s : State} {ch : Nat} {k : Chan} (hchan : getChan s ch = some k) (hrun : k.run = none) : pumpReduce s ch = s := by
  simp only [pumpReduce, hchan, hrun]

/-- The record of a copy that has come before its collective. -/
def earlyCopy (s : State) (m : RecvCtx) (area : Nat) : ChunkCopy :=
  ⟨area, m.spkg, bits (recvHead m).arg 0 32, bitOf (recvHead m).arg2 31, holdsNfin m, bits (recvHead m).arg 32 32,
    bitOf (recvHead m).arg2 32, (recvHead m).inPort, s.uptime, none⟩

theorem not_poisoned {m : RecvCtx} (h : ∀ p ∈ m.pkts, p.poison = 0) : m.pkts.any (fun p => p.poison != 0) = false :=
  List.any_eq_false.mpr fun p hp => by simp [h p hp]

/-- A copy without poison is written as it is, counted where it holds NFIN, and noted in its chunk. -/
theorem takeCopy_clean {s : State} {k : Chan} {m : RecvCtx} (c area faults : Nat) (hclean : ∀ p ∈ m.pkts, p.poison = 0)
    (hwords : (recvPayload m).length % 4 = 0) :
    takeCopy s k m c area faults = putChan (countNonFinite (memWrite s (areaAt (k.crec s) c area) (recvPayload m)) k.id (holdsNfin m))
      (putChunk k { getChunk k c with copies := (getChunk k c).copies ++ [earlyCopy s m area], faults := faults }) := by
  have hbytes := bytes32_words32 ((recvPayload m).length / 4) (recvPayload m) (by omega)
  simp only [takeCopy, not_poisoned hclean, Bool.false_eq_true, if_false, hbytes]
  rfl

/-- A copy that comes before its collective waits in its area. -/
theorem reduceUpMsg_early {s : State} {k : Chan} {m : RecvCtx} {area : Nat} (faults : Nat)
    (hearly : acceptColl s k (recvHead m) 0 = .early) (harea : senderArea s k m.spkg (bitOf (recvHead m).arg2 30) = some area)
    (hplace : seresOff (recvHead m).daddr = areaAt (k.crec s) (bits (recvHead m).arg2 16 14) area)
    (hnew : getChunk k (bits (recvHead m).arg2 16 14) = .untouched (bits (recvHead m).arg2 16 14))
    (hfree : slotTaken s k (bits (recvHead m).arg2 16 14) = false)
    (hopen : peerWritable s (seresOff (recvHead m).daddr) (recvHead m).len = true) (hfilter : s.biFilter = []) (hheld : s.biHeld = []) :
    reduceUpMsg s k m faults = pumpReduce (ackMsg (takeCopy s k m (bits (recvHead m).arg2 16 14) area faults) m) k.id := by
  have hunchosen : chosenSide (.untouched (bits (recvHead m).arg2 16 14)) area = false := by simp [chosenSide, Chunk.untouched]
  have hempty : (Chunk.untouched (bits (recvHead m).arg2 16 14)).copies = [] := rfl
  rw [hplace] at hopen
  simp only [reduceUpMsg, hearly, harea, hplace, hnew, hunchosen, hfree, ne_eq, not_true_eq_false, decide_false, Bool.or_self, Bool.false_eq_true,
    if_false, hempty, List.any_nil, landOr_of_writable hopen, localWrite_of_noLines hfilter hheld]

theorem reduceUp_early {s : State} {spkg msgid f : Nat} {m : RecvCtx} {k : Chan} {area : Nat} (hs : s.Sound) (h : collReady s spkg msgid 3 m k)
    (hearly : acceptColl s k (recvHead m) 0 = .early) (harea : senderArea s k m.spkg (bitOf (recvHead m).arg2 30) = some area)
    (hplace : seresOff (recvHead m).daddr = areaAt (k.crec s) (bits (recvHead m).arg2 16 14) area)
    (hnew : getChunk k (bits (recvHead m).arg2 16 14) = .untouched (bits (recvHead m).arg2 16 14))
    (hfree : slotTaken s k (bits (recvHead m).arg2 16 14) = false) (hwords : (recvPayload m).length % 4 = 0)
    (hopen : peerWritable s (seresOff (recvHead m).daddr) (recvHead m).len = true) :
    ∃ t, exec (.reduceUp spkg msgid f) s = .next t ∧ landedAt s t m (seresOff (recvHead m).daddr) ∧
      ∃ x y, getChan t k.id = some x ∧ (getChunk x (bits (recvHead m).arg2 16 14)).copies = [y] ∧ y.area = area ∧ y.spkg = m.spkg ∧
        y.nfin = (recvHead m).nfin := by
  have hchan := collReady_getChan h
  have hrun : exec (.reduceUp spkg msgid f) s = .next (collMessage s spkg msgid 3 fun s k m => reduceUpMsg s k m f) := rfl
  rw [collMessage_of_ready h] at hrun
  obtain ⟨-, -, -, hclean, -, hidle, hfilter, hheld⟩ := h
  rw [reduceUpMsg_early f hearly harea hplace hnew hfree hopen hfilter hheld, takeCopy_clean _ area f hclean hwords, hnew] at hrun
  generalize hc : bits (recvHead m).arg2 16 14 = c at *
  have hwrite := memWrite_changes s (areaAt (k.crec s) c area) (recvPayload m)
  have hcount := countNonFinite_changes (memWrite s (areaAt (k.crec s) c area) (recvPayload m)) k.id (holdsNfin m)
  generalize hy : countNonFinite (memWrite s (areaAt (k.crec s) c area) (recvPayload m)) k.id (holdsNfin m) = y at *
  have hfound : getChan y k.id = some k := (getChan_congr ((hcount.same .channels rfl).trans (hwrite.same .channels rfl)) k.id).trans hchan
  have hnoted := (getChan_ackMsg (putChan y (putChunk k { Chunk.untouched c with copies := [earlyCopy s m area], faults := f })) m k.id).trans
    (getChan_putChan (k := putChunk k { Chunk.untouched c with copies := [earlyCopy s m area], faults := f }) hfound)
  have hsends : y.sends = s.sends := (hcount.same .fabric rfl).2.1.trans (hwrite.same .fabric rfl).2.1
  refine ⟨_, hrun.trans (congrArg _ (pumpReduce_idle hnoted (acceptColl_early_run hearly))), ?_, _, earlyCopy s m area, hnoted, ?_, rfl, rfl, ?_⟩
  · rw [hplace]
    exact ackMsg_lands [] hs rfl (hcount.same .memory rfl) (by rw [← hsends] at hidle; exact hidle)
  · rw [getChunk_putChunk]
    exact congrArg Chunk.copies (if_pos rfl)
  · simp [earlyCopy, holdsNfin, not_poisoned hclean]

/-! ### Result chunks (R362) -/

/-- The tree of a channel is fixed by its record. -/
theorem Chan.child_congr {s t : State} {k : Chan} (h : k.crec t = k.crec s) (right : Bool) : k.child t right = k.child s right := by
  simp only [Chan.child, Chan.pos, Chan.rank, h]
  rfl

/-- A leaf of the tree sends nothing down. -/
theorem sendDown_leaf {s : State} {k : Chan} (hleft : k.child s false = none) (hright : k.child s true = none) (r : Coll) (c a n : Nat) (nfin : Bool) :
    sendDown s k r c a n nfin = s := by
  have htargets : downTargets s k = [] := by simp [downTargets, hleft, hright]
  simp [sendDown, htargets]

/-- A reduction of which nothing has been sent, and not every chunk has landed, is not done (R363). -/
theorem reduceDone_of_missing {s : State} {k : Chan} {r : Coll} (hlanded : k.landed.length < chunkCount r.word) (hsent : r.sent = []) :
    reduceDone s k r = false := by
  have hup : upDone s k r = false := by
    have hlong : ((0 : Nat) == chunkCount r.word) = false := beq_false_of_ne (by omega)
    simp only [upDone, hsent, List.length_nil, hlong, Bool.false_and]
  have hall : allLanded k r = false := beq_false_of_ne (Nat.ne_of_lt hlanded)
  simp only [reduceDone, hup, hall, Bool.false_and]
  split
  · rfl
  · split
    · exact ite_self false
    · rfl
    · rfl

theorem reduceDownMsg_lands {s : State} {k : Chan} {m : RecvCtx} {r : Coll} (haccept : acceptColl s k (recvHead m) 0 = .run r)
    (hmode : rdMODE r.word = 2) (hbackup : k.backup s = false) (hparent : k.parent s = some (k.ranks.findIdx (· == m.spkg)))
    (hverd : rdVERD r.word = false) (hchunk : bits (recvHead m).arg2 16 14 < chunkCount r.word)
    (hplace : seresOff (recvHead m).daddr = rdDST r.word + bits (recvHead m).arg2 16 14 * 65536) (hlanded : k.landed = [])
    (hopen : peerWritable s (seresOff (recvHead m).daddr) (recvHead m).len = true) (hfilter : s.biFilter = []) (hheld : s.biHeld = []) :
    reduceDownMsg s k m = pumpReduce (sendDown (ackMsg (putChan (memWriteBad (countNonFinite s k.id (recvHead m).nfin)
      (seresOff (recvHead m).daddr) (recvPayload m) (recvBad m (seresOff (recvHead m).daddr)))
      (markLanded k (bits (recvHead m).arg2 16 14))) m) k r (bits (recvHead m).arg2 16 14) (seresOff (recvHead m).daddr) (recvHead m).len
      (recvHead m).nfin) k.id := by
  have hin : ¬ chunkCount r.word ≤ bits (recvHead m).arg2 16 14 := Nat.not_le_of_lt hchunk
  simp only [reduceDownMsg, haccept, hmode, hbackup, hparent, hverd, hin, Bool.false_eq_true, if_false]
  rw [← hplace]
  simp [hlanded, landOr_of_writable hopen, localWrite_of_noLines hfilter hheld]

theorem reduceDown_lands {s : State} {spkg msgid : Nat} {m : RecvCtx} {k : Chan} {r : Coll} (hs : s.Sound) (hrunning : k.run = some r)
    (hlanded : k.landed = []) (hsent : r.sent = []) (h : collReady s spkg msgid 4 m k) (haccept : acceptColl s k (recvHead m) 0 = .run r)
    (hmode : rdMODE r.word = 2) (hbackup : k.backup s = false) (hparent : k.parent s = some (k.ranks.findIdx (· == m.spkg)))
    (hleft : k.child s false = none) (hright : k.child s true = none) (hverd : rdVERD r.word = false) (hmore : 1 < chunkCount r.word)
    (hchunk : bits (recvHead m).arg2 16 14 < chunkCount r.word)
    (hplace : seresOff (recvHead m).daddr = rdDST r.word + bits (recvHead m).arg2 16 14 * 65536)
    (hopen : peerWritable s (seresOff (recvHead m).daddr) (recvHead m).len = true) :
    ∃ t, exec (.reduceDown spkg msgid) s = .next t ∧ landedAt s t m (seresOff (recvHead m).daddr) ∧
      ∃ x, getChan t k.id = some x ∧ x.landed = [bits (recvHead m).arg2 16 14] := by
  have hchan := collReady_getChan h
  have hrun : exec (.reduceDown spkg msgid) s = .next (collMessage s spkg msgid 4 reduceDownMsg) := rfl
  rw [collMessage_of_ready h] at hrun
  obtain ⟨-, -, -, -, -, hidle, hfilter, hheld⟩ := h
  rw [reduceDownMsg_lands haccept hmode hbackup hparent hverd hchunk hplace hlanded hopen hfilter hheld] at hrun
  generalize bits (recvHead m).arg2 16 14 = c at *
  have hcount := countNonFinite_changes s k.id (recvHead m).nfin
  have hwrite := memWriteBad_changes (countNonFinite s k.id (recvHead m).nfin) (seresOff (recvHead m).daddr) (recvPayload m)
    (recvBad m (seresOff (recvHead m).daddr))
  have hfound := (getChan_congr ((hwrite.same .channels rfl).trans (hcount.same .channels rfl)) k.id).trans hchan
  have hmarked := (getChan_ackMsg (putChan _ (markLanded k c)) m k.id).trans (getChan_putChan (k := markLanded k c) hfound)
  have hcrec := (Chan.crec_of_getChan (k := k) hmarked).trans (Chan.crec_of_getChan hchan).symm
  rw [sendDown_leaf ((Chan.child_congr hcrec false).trans hleft) ((Chan.child_congr hcrec true).trans hright),
    pumpReduce_broadcast (k := markLanded k c) hmarked hrunning hmode] at hrun
  have hone : (markLanded k c).landed = [c] := by simp [markLanded, hlanded, insertNat]
  rw [settleReduce_of_open (reduceDone_of_missing (by rw [hone]; exact hmore) hsent)] at hrun
  have hsends := (hwrite.same .fabric rfl).2.1.trans (hcount.same .fabric rfl).2.1
  exact ⟨_, hrun, ackMsg_lands _ (hcount.sound hs) (hcount.same .memory rfl) rfl (by rw [← hsends] at hidle; exact hidle), _, hmarked, hone⟩

/-! ### Gathered images (R384) -/

/-- Where both formats are one and have no scales, the bytes of an image's elements land unchanged. -/
theorem landImage_same {s : State} {w : CmdWord} {base off : Nat} {d : List Byte} (hfmt : gaWFMT w = gaCFMT w) (hplain : isMX (gaWFMT w) = false)
    (hin : off + d.length ≤ gaElems w) (hsome : 0 < d.length) (bad : List (Nat × Nat)) :
    ∃ marks, landImage s w base off d bad = memWriteBad s (base + off) d marks := by
  have hhi : min (off + d.length) (gaElems w) = off + d.length := Nat.min_eq_left hin
  have hnonempty : ¬ off + d.length ≤ off := by omega
  have hall : d.take (off + d.length - off) = d := List.take_of_length_le (by omega)
  unfold landImage
  dsimp only
  rw [hhi, hplain, if_pos (show (!false) = true from rfl), if_neg hnonempty, if_pos hfmt, hall]
  exact ⟨_, rfl⟩

/-- Where both formats are one no code straddles two messages. -/
theorem landStraddle_same {w : CmdWord} (hfmt : gaWFMT w = gaCFMT w) (s : State) (k : Chan) (rank n : Nat) : landStraddle s k w rank n = s := by
  have hsame : ∀ p q : Bool, (decide (gaWFMT w = gaCFMT w) || p || q) = true := fun p q => by simp [hfmt]
  unfold landStraddle
  dsimp only
  split
  · exact if_pos (hsame _ _)
  · rfl

/-- A gather whose messages are all sent waits for the images that are still to land. -/
theorem pumpGather_waits {s : State} {ch : Nat} {k : Chan} {r : Coll} (n : Nat) (hchan : getChan s ch = some k) (hrun : k.run = some r)
    (hsent : r.sent.length = (k.ranks.length - 1) * gaMsgs r.word) (hlanded : k.landed.length < (k.ranks.length - 1) * gaMsgs r.word) :
    pumpGather n s ch = s := by
  cases n with
  | zero => rfl
  | succ n =>
    have hopen : (k.landed.length == (k.ranks.length - 1) * gaMsgs r.word) = false := beq_false_of_ne (Nat.ne_of_lt hlanded)
    simp [pumpGather, hchan, hrun, hsent, hopen]

/-- The channel that has noted a gathered message: its tag, and its first and last byte. -/
def gatherNoted (k : Chan) (m : RecvCtx) (rank n : Nat) : Chan :=
  { (markLanded k (rank * 2 ^ 14 + n)) with
    edges := k.edges ++ [(edgeKey rank n 0, (recvPayload m).headD 0), (edgeKey rank n 1, (recvPayload m).getLastD 0)] }

theorem gatherMsg_lands {s : State} {k : Chan} {m : RecvCtx} {r : Coll} {rank off : Nat} (haccept : acceptColl s k (recvHead m) 1 = .run r)
    (hrank : bits (recvHead m).arg2 16 20 = rank) (hoff : bits (recvHead m).arg 0 32 = off) (hsender : k.pkgOf rank = m.spkg)
    (hother : rank ≠ k.rank s) (haligned : off % 1048576 = 0) (hlen : (recvHead m).len = (recvPayload m).length)
    (hwire : off + (recvPayload m).length ≤ gaWire r.word) (hplace : seresOff (recvHead m).daddr = gaLand r.word rank)
    (hfmt : gaWFMT r.word = gaCFMT r.word) (hlanded : k.landed = [])
    (hopen : peerWritable s (gaLand r.word rank) (imageSize (gaCFMT r.word) (gaCOUNT r.word)) = true) (hfilter : s.biFilter = [])
    (hheld : s.biHeld = []) :
    gatherMsg s k m = pumpGather 16 (ackMsg (landImage (putChan s (gatherNoted k m rank (off / 1048576))) r.word (gaLand r.word rank) off
      (recvPayload m) (recvBad m off)) m) k.id := by
  have hfits : ¬ gaWire r.word < off + (recvPayload m).length := Nat.not_lt_of_le hwire
  unfold gatherMsg
  simp only [haccept, hrank, hoff, hlen, hsender, hother, haligned, hfits, hplace, ne_eq, not_true_eq_false, decide_false, Bool.or_self,
    Bool.false_eq_true, if_false, hlanded, List.contains_nil, landOr_of_writable hopen, localWrite_of_noLines hfilter hheld,
    landStraddle_same hfmt, ite_self]
  rfl

theorem gatherMessage_lands {s : State} {spkg msgid : Nat} {m : RecvCtx} {k : Chan} {r : Coll} {rank off : Nat} (hs : s.Sound)
    (hrunning : k.run = some r) (hlanded : k.landed = []) (h : collReady s spkg msgid 5 m k) (haccept : acceptColl s k (recvHead m) 1 = .run r)
    (hrank : rank = bits (recvHead m).arg2 16 20) (hoff : off = bits (recvHead m).arg 0 32) (hsender : k.pkgOf rank = m.spkg)
    (hother : rank ≠ k.rank s) (haligned : off % 1048576 = 0) (helems : off + (recvPayload m).length ≤ gaElems r.word)
    (hlen : (recvHead m).len = (recvPayload m).length) (hsome : 0 < (recvPayload m).length)
    (hwire : off + (recvPayload m).length ≤ gaWire r.word) (hplace : seresOff (recvHead m).daddr = gaLand r.word rank)
    (hfmt : gaWFMT r.word = gaCFMT r.word) (hplain : isMX (gaWFMT r.word) = false)
    (hsent : r.sent.length = (k.ranks.length - 1) * gaMsgs r.word) (hmore : 1 < (k.ranks.length - 1) * gaMsgs r.word)
    (hopen : peerWritable s (gaLand r.word rank) (imageSize (gaCFMT r.word) (gaCOUNT r.word)) = true) :
    ∃ t, exec (.gatherMessage spkg msgid) s = .next t ∧ landedAt s t m (gaLand r.word rank + off) ∧
      ∃ x, getChan t k.id = some x ∧ x.landed = [rank * 2 ^ 14 + off / 1048576] := by
  have hchan := collReady_getChan h
  have hrun : exec (.gatherMessage spkg msgid) s = .next (collMessage s spkg msgid 5 gatherMsg) := rfl
  rw [collMessage_of_ready h] at hrun
  obtain ⟨-, -, -, -, -, hidle, hfilter, hheld⟩ := h
  rw [gatherMsg_lands haccept hrank.symm hoff.symm hsender hother haligned hlen hwire hplace hfmt hlanded hopen hfilter hheld] at hrun
  obtain ⟨marks, hland⟩ := landImage_same (s := putChan s (gatherNoted k m rank (off / 1048576))) (base := gaLand r.word rank) hfmt hplain helems
    hsome (recvBad m off)
  rw [hland] at hrun
  have hput := putChan_changes s (gatherNoted k m rank (off / 1048576))
  have hwrite := memWriteBad_changes (putChan s (gatherNoted k m rank (off / 1048576))) (gaLand r.word rank + off) (recvPayload m) marks
  have hnoted := (getChan_ackMsg _ m k.id).trans ((getChan_congr (hwrite.same .channels rfl) k.id).trans
    (getChan_putChan (k := gatherNoted k m rank (off / 1048576)) hchan))
  have hone : (gatherNoted k m rank (off / 1048576)).landed = [rank * 2 ^ 14 + off / 1048576] := by
    simp [gatherNoted, markLanded, hlanded, insertNat]
  rw [pumpGather_waits 16 hnoted hrunning hsent (by rw [hone]; exact hmore)] at hrun
  have hsends := (hwrite.same .fabric rfl).2.1.trans (hput.same .fabric rfl).2.1
  exact ⟨_, hrun, ackMsg_lands marks (hput.sound hs) (hput.same .memory rfl) rfl (by rw [← hsends] at hidle; exact hidle), _, hnoted, hone⟩

/-! ### Pieces of a permute (R386) -/

/-- A permute whose pieces are all staged and sent waits for the pieces that are still to land. -/
theorem pumpPermute_waits {s : State} {ch : Nat} {k : Chan} {r : Coll} (n : Nat) (hchan : getChan s ch = some k) (hrun : k.run = some r)
    (hsent : r.sent.length = pePieces r.word) (hstaged : r.staged = pePieces r.word) (hlanded : k.landed.length < peAllMsgs r.word) :
    pumpPermute n s ch = s := by
  cases n with
  | zero => rfl
  | succ n =>
    have hopen : (k.landed.length == peAllMsgs r.word) = false := beq_false_of_ne (Nat.ne_of_lt hlanded)
    simp [pumpPermute, hchan, hrun, hsent, hstaged, hopen]

theorem permuteMsg_lands {s : State} {k : Chan} {m : RecvCtx} {r : Coll} {part : Nat} (haccept : acceptColl s k (recvHead m) 2 = .run r)
    (hdata : bitOf (recvHead m).arg2 48 = false) (hpiece : bits (recvHead m).arg2 16 32 < pePieces r.word)
    (hpart : part < peMsgs r.word (bits (recvHead m).arg2 16 32))
    (hplace : seresOff (recvHead m).daddr = peBASE r.word + bits (recvHead m).arg2 16 32 * pePiece r.word + part * 1048576)
    (hlanded : k.landed = []) (hopen : peerWritable s (seresOff (recvHead m).daddr) (recvHead m).len = true) (hfilter : s.biFilter = [])
    (hheld : s.biHeld = []) :
    permuteMsg s k m = pumpPermute 8 (ackMsg (putChan (memWriteBad s (seresOff (recvHead m).daddr) (recvPayload m)
      (recvBad m (seresOff (recvHead m).daddr))) (markLanded k (peTag (bits (recvHead m).arg2 16 32) part))) m) k.id := by
  have hcount : (seresOff (recvHead m).daddr - (peBASE r.word + bits (recvHead m).arg2 16 32 * pePiece r.word)) / 1048576 = part := by omega
  have hin : ¬ pePieces r.word ≤ bits (recvHead m).arg2 16 32 := Nat.not_le_of_lt hpiece
  have hthere : ¬ peMsgs r.word (bits (recvHead m).arg2 16 32) ≤ part := Nat.not_le_of_lt hpart
  unfold permuteMsg
  simp only [haccept, hcount, hin, hthere, hdata, ← hplace, ne_eq, not_true_eq_false, decide_false, Bool.or_self, Bool.false_eq_true, if_false,
    hlanded, List.contains_nil, landOr_of_writable hopen, localWrite_of_noLines hfilter hheld]

theorem permuteMessage_lands {s : State} {spkg msgid : Nat} {m : RecvCtx} {k : Chan} {r : Coll} {part : Nat} (hs : s.Sound)
    (hrunning : k.run = some r) (hlanded : k.landed = []) (h : collReady s spkg msgid 6 m k) (haccept : acceptColl s k (recvHead m) 2 = .run r)
    (hdata : bitOf (recvHead m).arg2 48 = false) (hpiece : bits (recvHead m).arg2 16 32 < pePieces r.word)
    (hpart : part < peMsgs r.word (bits (recvHead m).arg2 16 32))
    (hplace : seresOff (recvHead m).daddr = peBASE r.word + bits (recvHead m).arg2 16 32 * pePiece r.word + part * 1048576)
    (hsent : r.sent.length = pePieces r.word) (hstaged : r.staged = pePieces r.word) (hmore : 1 < peAllMsgs r.word)
    (hopen : peerWritable s (seresOff (recvHead m).daddr) (recvHead m).len = true) :
    ∃ t, exec (.permuteMessage spkg msgid) s = .next t ∧ landedAt s t m (seresOff (recvHead m).daddr) ∧
      ∃ x, getChan t k.id = some x ∧ x.landed = [peTag (bits (recvHead m).arg2 16 32) part] := by
  have hchan := collReady_getChan h
  have hrun : exec (.permuteMessage spkg msgid) s = .next (collMessage s spkg msgid 6 permuteMsg) := rfl
  rw [collMessage_of_ready h] at hrun
  obtain ⟨-, -, -, -, -, hidle, hfilter, hheld⟩ := h
  rw [permuteMsg_lands haccept hdata hpiece hpart hplace hlanded hopen hfilter hheld] at hrun
  generalize peTag (bits (recvHead m).arg2 16 32) part = tag at *
  have hwrite := memWriteBad_changes s (seresOff (recvHead m).daddr) (recvPayload m) (recvBad m (seresOff (recvHead m).daddr))
  have hmarked := (getChan_ackMsg (putChan _ (markLanded k tag)) m k.id).trans
    (getChan_putChan (k := markLanded k tag) ((getChan_congr (hwrite.same .channels rfl) k.id).trans hchan))
  have hone : (markLanded k tag).landed = [tag] := by simp [markLanded, hlanded, insertNat]
  rw [pumpPermute_waits (k := markLanded k tag) 8 hmarked hrunning hsent hstaged (by rw [hone]; exact hmore)] at hrun
  have hsends := (hwrite.same .fabric rfl).2.1
  exact ⟨_, hrun, ackMsg_lands _ hs rfl rfl (by rw [← hsends] at hidle; exact hidle), _, hmarked, hone⟩

/-! ### The statement -/

/-- Settles O54: a bad CRC by `crcMsg_drops`, and each message by the write that its row makes before it is acknowledged. -/
theorem collectiveMessagesLand : Obligations.CollectiveMessagesLand := by
  refine ⟨fun s spkg msgid f m hcrc => ⟨fun h => collMessage_drops _ rfl h hcrc, fun h => collMessage_drops reduceDownMsg rfl h hcrc,
      fun h => collMessage_drops gatherMsg rfl h hcrc, fun h => collMessage_drops permuteMsg rfl h hcrc⟩,
    fun s spkg msgid f m k area hs h hearly harea hplace hnew hfree hwords => reduceUp_early hs h hearly harea hplace hnew hfree hwords,
    fun s spkg msgid m k r hs hrunning hlanded hsent h => reduceDown_lands hs hrunning hlanded hsent h,
    fun s spkg msgid m k r hs hrunning hlanded => ⟨fun h haccept rank off hrank hoff hsender hother haligned helems hlen hsome hwire hplace hfmt
      hplain hsent hmore hopen => gatherMessage_lands hs hrunning hlanded h haccept hrank hoff hsender hother haligned helems hlen hsome hwire
        hplace hfmt hplain hsent hmore hopen,
      fun h haccept hdata part => permuteMessage_lands hs hrunning hlanded h haccept hdata⟩⟩

end Sys2Proof.Machine
end

section
/-! PROOFS. An AUTH WRITE as a path takes it (R464, R467): what it comes to by its rights and its token, from what its value does. -/

set_option Elab.async false

namespace Sys2Proof.Machine

theorem Arrived.sends {s t : State} (h : Arrived s t) : t.sends = s.sends := (h.changes.same .fabric rfl).2.1

theorem Arrived.tokenOk {s t : State} (h : Arrived s t) (i sub : Nat) (value token : List Byte) :
    tokenOk t i sub value token = tokenOk s i sub value token := by
  obtain ⟨rq, ss, rfl⟩ := h.state; rfl

theorem authReq_wellFormed (i sub : Nat) {value token : List Byte} {p : Path} (h : value.length + token.length ≤ pathMax p) :
    malformed p (authReq i sub value token) = false := by
  unfold malformed authReq
  simp [h]

theorem authRecord_offLog (s : State) (r : OdReq) (status : Nat) : OffLog s (authRecord s r status) := addRecord_offLog s _

/-- An AUTH WRITE to an entry that there is, by its rights and its access (R464). -/
theorem serveNow_auth {s : State} {p : Path} {r : OdReq} {row : OdRow} (x : Aux) (hop : r.op = 3) (hopen : pageClosed s p = false)
    (hform : malformed p r = false) (hpresent : odPresent r.index = true) (hrow : rowOf r.index r.sub = some row)
    (haccess : accessOk row r = true) :
    serveNow s p r x =
      if rightsOk (leaveOthers s p r) p r row true then serveAuth (leaveOthers s p r) p r row x
      else refuse (leaveOthers s p r) p r odRIGHTS 0 := by
  unfold serveNow
  cases hright : rightsOk (leaveOthers s p r) p r row true <;> simp [hopen, hform, hpresent, hrow, hop, hright, haccess]

/-- What an AUTH WRITE leaves of the state that its value made: the count that tokens are bound to, its record, and the answer. -/
def authDone (p : Path) (r : OdReq) (n : Nat) (s : State) : State := answerTo p r odOK (authRecord (odSet s 0x8100 0x09 (n + 1)) r odOK)

/-- The same of one that is refused: its record and the answer. -/
def authRefused (p : Path) (r : OdReq) (status : Nat) (s : State) : State := answerTo p r status (authRecord s r status)

theorem refuse_auth {r : OdReq} (h : r.op = 3) (s : State) (p : Path) (status : Nat) :
    countTaken p (refuse s p r status 0) = authRefused p r status s := by
  unfold refuse
  rw [if_pos h]
  rfl

/-- A value that passes every check but the token's is applied with a token that passes, and refused AUTH without. -/
theorem serveAuth_checked {s : State} {p : Path} {i sub : Nat} {value token : List Byte} {row : OdRow} (x : Aux)
    (hsize : if row.pieces then value.length ≤ min 1048576 row.size else value.length = row.size) (havail : available s i = true)
    (hrange : rangeOk s row i sub (leNat value) value.length = true) (hstate : stateOk s i sub (leNat value) = true) :
    countTaken p (serveAuth s p (authReq i sub value token) row x) =
      if tokenOk s i sub value token then
        authDone p (authReq i sub value token) (odGet s 0x8100 0x09) (odApply s p i sub (leNat value) value x).2
      else authRefused p (authReq i sub value token) odAUTH s := by
  have hfits : ¬ (if row.pieces then min 1048576 row.size < value.length else value.length ≠ row.size) := by
    by_cases hp : row.pieces = true
    · rw [if_pos hp] at hsize ⊢
      exact Nat.not_lt.mpr hsize
    · rw [if_neg hp] at hsize ⊢
      exact not_not.mpr hsize
  have hval : (value ++ token).take value.length = value := List.take_left
  have htok : (value ++ token).drop value.length = token := List.drop_left
  rw [← refuse_auth rfl]
  unfold serveAuth
  simp only [authReq, hval, htok, eq_false hfits, if_false, havail, hrange, hstate, Bool.not_true, Bool.false_eq_true]
  cases tokenOk s i sub value token <;> rfl

/-- What an AUTH WRITE that passes every check but those of rights and token comes to. -/
theorem odServe_auth {s : State} {p : Path} {i sub : Nat} {value token : List Byte} {row : OdRow} (x : Aux)
    (h : authorizable s p i sub value token row) : ∃ s0, Arrived s s0 ∧ odServe s p (authReq i sub value token) x =
      if rightsOk s p (authReq i sub value token) row true then
        if tokenOk s i sub value token then
          authDone p (authReq i sub value token) (odGet s 0x8100 0x09) (odApply s0 p i sub (leNat value) value x).2
        else authRefused p (authReq i sub value token) odAUTH s0
      else authRefused p (authReq i sub value token) odRIGHTS s0 := by
  obtain ⟨hserved, hpresent, hrow, haccess, hmax, hsize, havail, hrange, hstate⟩ := h
  obtain ⟨hanswered, hholds, hopen⟩ := servedNow_iff.mp hserved
  have hreach : reaches s p = true := by unfold answered at hanswered; exact (Bool.and_eq_true _ _ ▸ hanswered).1
  obtain ⟨s1, h1, hserve⟩ := odServe_answered (authReq i sub value token) x hanswered
  have h0 : Arrived s (leaveOthers s1 p (authReq i sub value token)) := h1.trans (leaveOthers_arrived s1 p _)
  refine ⟨_, h0, ?_⟩
  rw [hserve, odTake_served _ x (by rwa [h1.reaches]) (by rwa [h1.holdsRequests]),
    serveNow_auth x rfl (by rwa [h1.pageClosed]) (authReq_wellFormed i sub hmax) hpresent hrow haccess, h0.rightsOk]
  split
  · rw [serveAuth_checked x hsize (by rwa [h0.available]) (by rwa [h0.rangeOk]) (by rwa [h0.stateOk]), h0.tokenOk, h0.odGet]
  · exact refuse_auth rfl _ p odRIGHTS

/-! ### What the end of an AUTH WRITE leaves -/

theorem authDone_changes (p : Path) (r : OdReq) (n : Nat) (s : State) :
    Changes [.draws, .od, .recorder, .access, .output] s (authDone p r n s) :=
  (answerTo_changes p r odOK _).step rfl ((authRecord_changes _ r odOK).step rfl ((odSet_changes s 0x8100 0x09 (n + 1)).mono rfl))

theorem authDone_keeps (p : Path) (r : OdReq) (n : Nat) (s : State) :
    OdKeeps (fun k => offCount k ∧ k ≠ odKey 0x8100 0x09) s (authDone p r n s) :=
  ((OdKeeps.set s (n + 1) fun hk => hk.2 rfl).trans ((authRecord_offLog _ r odOK).mono fun _ hk => hk.1.1)).trans
    ((answerTo_keeps p r odOK _).mono fun _ hk => hk.1)

/-- The count that tokens are bound to has moved on. -/
theorem authDone_counts (p : Path) (r : OdReq) (n : Nat) (s : State) : odGet (authDone p r n s) 0x8100 0x09 = n + 1 := by
  have hlog := (authRecord_offLog (odSet s 0x8100 0x09 (n + 1)) r odOK).get 0x8100 0x09 (not_logKey (by decide) (by decide))
  have hcount := (answerTo_keeps p r odOK (authRecord (odSet s 0x8100 0x09 (n + 1)) r odOK)).get 0x8100 0x09
    (offCount_of_page (by decide) (by decide))
  exact hcount.trans (hlog.trans (odGet_odSet _ _ _ _))

/-- A refusal writes nothing but its record and its answer. -/
theorem authRefused_writes (p : Path) (i sub : Nat) (value token : List Byte) (status : Nat) {s s0 : State} (h0 : Arrived s s0) :
    .odResponse p i sub status value.length 0 0 [] ∈ (authRefused p (authReq i sub value token) status s0).out ∧
      odGet (authRefused p (authReq i sub value token) status s0) 0x8100 0x09 = odGet s 0x8100 0x09 ∧
      (authRefused p (authReq i sub value token) status s0).mem = s.mem := by
  have hlog := (authRecord_offLog s0 (authReq i sub value token) status).get 0x8100 0x09 (not_logKey (by decide) (by decide))
  have hcount := (answerTo_keeps p (authReq i sub value token) status (authRecord s0 (authReq i sub value token) status)).get 0x8100 0x09
    (offCount_of_page (by decide) (by decide))
  have hmem := (answerTo_changes p (authReq i sub value token) status (authRecord s0 (authReq i sub value token) status)).same .memory rfl
  have hrecord := (authRecord_changes s0 (authReq i sub value token) status).same .memory rfl
  exact ⟨answerTo_answers p (authReq i sub value token) status _, (hcount.trans hlog).trans (h0.odGet _ _), (hmem.trans hrecord).trans h0.mem⟩

/-- What an AUTH WRITE comes to, from what its value does to any state that its arrival can leave. -/
theorem odServe_authOutcome {s : State} {p : Path} {i sub : Nat} {value token : List Byte} {row : OdRow} (x : Aux) {f : State → State}
    {effect : State → Prop} (h : authorizable s p i sub value token row)
    (hf : ∀ s0, odApply s0 p i sub (leNat value) value x = (odOK, f s0))
    (happly : ∀ s0, Arrived s s0 → effect (authDone p (authReq i sub value token) (odGet s 0x8100 0x09) (f s0))) :
    authOutcome s (odServe s p (authReq i sub value token) x) p i sub value token row (effect (odServe s p (authReq i sub value token) x)) := by
  obtain ⟨s0, h0, hserve⟩ := odServe_auth x h
  rw [hserve, hf]
  refine ⟨fun hright htoken => ?_, fun hright htoken => ?_, fun hright => ?_⟩
  · rw [if_pos hright, if_pos htoken]
    exact ⟨answerTo_answers p (authReq i sub value token) odOK _, authDone_counts _ _ _ _, happly s0 h0⟩
  · rw [if_pos hright, if_neg (by rw [htoken]; exact Bool.false_ne_true)]
    exact authRefused_writes p i sub value token odAUTH h0
  · rw [if_neg (by rw [hright]; exact Bool.false_ne_true)]
    exact authRefused_writes p i sub value token odRIGHTS h0

theorem leNat_leBytes_one {v : Nat} (hv : v < 256) : leNat (leBytes 1 v) = v := (leNat_leBytes 1 v).trans (Nat.mod_eq_of_lt hv)

/-- The same of a value of one byte. -/
theorem doAuth_outcome {s : State} {p : Path} {i sub v : Nat} {token : List Byte} {row : OdRow} {f : State → State} {effect : State → Prop}
    (h : authorizable s p i sub (leBytes 1 v) token row) (hv : v < 256)
    (hf : ∀ s0, odApply s0 p i sub v (leBytes 1 v) Aux.none = (odOK, f s0))
    (happly : ∀ s0, Arrived s s0 → effect (authDone p (authReq i sub (leBytes 1 v) token) (odGet s 0x8100 0x09) (f s0))) :
    authOutcome s (doAuth s p i sub 1 v token) p i sub (leBytes 1 v) token row (effect (doAuth s p i sub 1 v token)) :=
  odServe_authOutcome Aux.none h (fun s0 => by rw [leNat_leBytes_one hv]; exact hf s0) happly

end Sys2Proof.Machine
end

section
/-! PROOFS. The stacks, images, locks and modules that an AUTH WRITE names (R263, R282, R505, R506), for O49. -/

set_option Elab.async false

namespace Sys2Proof.Machine

/-- An entry off the recorder's pages stands as the value of an AUTH WRITE left it. -/
theorem authDone_get (p : Path) (r : OdReq) (n : Nat) (s : State) {i sub : Nat} (hcount : offCount (odKey i sub))
    (h : odKey i sub ≠ odKey 0x8100 0x09) : odGet (authDone p r n s) i sub = odGet s i sub :=
  (authDone_keeps p r n s).get i sub ⟨hcount, h⟩

/-! ### Which effect each entry has -/

section
variable (s : State) (p : Path) (v : Nat) (d : List Byte) (x : Aux)

theorem odApply_retire : odApply s p 0x4000 0x09 v d x = (odOK, startRetire s v false 0xFFF) := by
  simp [odApply, applyIndexed, applyPlain, applySingle, isSelect]

theorem odApply_fence : odApply s p 0x7200 0x09 v d x = (odOK, fenceNow s v 5) := by
  simp [odApply, applyIndexed, applyPlain, applyTests, isSelect]

theorem odApply_unfence : odApply s p 0x7200 0x0A v d x = (odOK, unfence s v) := rfl

theorem odApply_pattern : odApply s p 0x7200 0x0F v d x = (odOK, installPattern s d (selectOf (getReq s p) 0x7200 0x10)) := rfl

theorem odApply_clear : odApply s p 0x7A00 0x03 v d x = (odOK, clearRecords s) := rfl

theorem odApply_version : odApply s p 0x8000 0x0C v d x = (odOK, odSet s 0x8100 0x05 (max (odGet s 0x8100 0x05) v)) := rfl

theorem odApply_lock : odApply s p 0x8100 0x04 v d x = (odOK, odSet s 0x8100 0x04 v) := rfl

theorem odApply_laneRecord {n : Nat} (hn : n < 4) : odApply s p (0x3800 + n) 0x08 v d x = (odOK, retryModule s n v) := by
  have hsel : isSelect (0x3800 + n) 0x08 = false := by interval_cases n <;> rfl
  unfold odApply applyIndexed
  rw [if_neg (by omega), if_neg (by omega), if_neg (by omega), hsel, if_neg (by decide), if_neg (by omega), if_neg (by omega), if_neg (by omega),
    if_pos (by omega), Nat.add_sub_cancel_left]

end

/-! ### A stack to retire (R263) -/

theorem startRetire_live_eq (s : State) (stack channel : Nat) : startRetire s stack false channel =
    let x := endWaiting (announceRetire (recordRetire s stack false) stack false channel (s.retirements + 1))
    if relocating x then x else setOverrides x ⟨stack, s.retirements + 1, false, false⟩ := rfl

/-- A live retirement that starts while no message waits to go out: the stack is RETIRING and the retirement counted. -/
theorem startRetire_live (s : State) {stack : Nat} (channel : Nat) (hst : stack < 24) (hw : ∀ m ∈ s.sends, m.waiting = false) :
    stackState (startRetire s stack false channel) stack = 1 ∧ (startRetire s stack false channel).retirements = s.retirements + 1 := by
  have hstate := recordRetire_state s hst false
  have hsends := recordRetire_sends s stack false
  have hcount : (recordRetire s stack false).retirements = s.retirements + 1 := rfl
  rw [startRetire_live_eq]
  generalize recordRetire s stack false = x at *
  have hchanges := announceRetire_changes x stack false channel (s.retirements + 1)
  have hlog := announceRetire_offLog x stack false channel (s.retirements + 1)
  generalize announceRetire x stack false channel (s.retirements + 1) = y at *
  have hidle : endWaiting y = y := endWaiting_idle fun m hm => hw m (by rwa [(hchanges.same .fabric rfl).2.1, hsends] at hm)
  have hys : stackState y stack = 1 := (hlog.get _ _ (stackKey_not_log hst (by decide))).trans hstate
  have hyc : y.retirements = s.retirements + 1 := by
    obtain ⟨-, -, -, ha, -⟩ := hchanges.same .stacks rfl
    exact ha.trans hcount
  dsimp only
  rw [hidle]
  split
  · exact ⟨hys, hyc⟩
  · exact ⟨((setOverrides_keeps y _).get _ _ (stackKey_not_interleave (by decide))).trans hys, (setOverrides_retirements y _).trans hyc⟩

theorem retireStack_acts {s : State} {p : Path} {row : OdRow} {v : Nat} {token : List Byte} (hv : v < 24)
    (hw : ∀ m ∈ s.sends, m.waiting = false) (h : authorizable s p 0x4000 0x09 (leBytes 1 v) token row) :
    authOutcome s (doAuth s p 0x4000 0x09 1 v token) p 0x4000 0x09 (leBytes 1 v) token row
      (stackState (doAuth s p 0x4000 0x09 1 v token) v = 1 ∧ (doAuth s p 0x4000 0x09 1 v token).retirements = s.retirements + 1) := by
  refine doAuth_outcome (effect := fun t => stackState t v = 1 ∧ t.retirements = s.retirements + 1) h (by omega)
    (fun s0 => odApply_retire s0 p v _ _) fun s0 h0 => ?_
  obtain ⟨hstate, hcount⟩ := startRetire_live s0 0xFFF hv (by rwa [h0.sends])
  generalize startRetire s0 v false 0xFFF = x at *
  obtain ⟨-, -, -, hdone, -⟩ := (authDone_changes p (authReq 0x4000 0x09 (leBytes 1 v) token) (odGet s 0x8100 0x09) x).same .stacks rfl
  obtain ⟨-, -, -, harrived, -⟩ := h0.changes.same .stacks rfl
  exact ⟨(authDone_get p _ _ _ (offCount_of_page (by omega) (by decide)) (odKey_ne (by decide) (by decide) (by omega))).trans hstate,
    hdone.trans (hcount.trans (congrArg (· + 1) harrived))⟩

/-! ### The security version and the debug lock (R505, R506) -/

/-- A commit of the security version is in range only as the running image's (R506). -/
theorem rangeOk_version {s : State} {row : OdRow} {v len : Nat} (h : rangeOk s row 0x8000 0x0C v len = true) : v = odGet s 0x8000 0x04 := by
  unfold rangeOk at h
  rw [Bool.and_eq_true] at h
  exact eq_of_beq h.2

theorem commitSecurityVersion_acts {s : State} {p : Path} {row : OdRow} {v : Nat} {token : List Byte} (hv : v < 256)
    (h : authorizable s p 0x8000 0x0C (leBytes 1 v) token row) :
    authOutcome s (doAuth s p 0x8000 0x0C 1 v token) p 0x8000 0x0C (leBytes 1 v) token row
      (odGet (doAuth s p 0x8000 0x0C 1 v token) 0x8100 0x05 = max (odGet s 0x8100 0x05) (odGet s 0x8000 0x04)) := by
  obtain ⟨-, -, -, -, -, -, -, hrange, -⟩ := id h
  have hversion := rangeOk_version hrange
  rw [leNat_leBytes_one hv] at hversion
  refine doAuth_outcome (effect := fun t => odGet t 0x8100 0x05 = max (odGet s 0x8100 0x05) (odGet s 0x8000 0x04)) h hv
    (fun s0 => odApply_version s0 p v _ _) fun s0 h0 => ?_
  rw [authDone_get p _ _ _ (offCount_of_page (by decide) (by decide)) (by decide), ← hversion, ← h0.odGet 0x8100 0x05]
  exact odGet_odSet s0 0x8100 0x05 _

theorem lockDebug_acts {s : State} {p : Path} {row : OdRow} {v : Nat} {token : List Byte} (hv : v < 256)
    (h : authorizable s p 0x8100 0x04 (leBytes 1 v) token row) :
    authOutcome s (doAuth s p 0x8100 0x04 1 v token) p 0x8100 0x04 (leBytes 1 v) token row
      (odGet (doAuth s p 0x8100 0x04 1 v token) 0x8100 0x04 = v) := by
  refine doAuth_outcome (effect := fun t => odGet t 0x8100 0x04 = v) h hv (fun s0 => odApply_lock s0 p v _ _) fun s0 _ => ?_
  exact (authDone_get p _ _ _ (offCount_of_page (by decide) (by decide)) (by decide)).trans (odGet_odSet s0 0x8100 0x04 v)

/-! ### A module to try again (R282) -/

theorem clearLaneRecord_acts {s : State} {p : Path} {row : OdRow} {d v : Nat} {token : List Byte} (hd : d < 4) (hv : v < 256)
    (h : authorizable s p (0x3800 + d) 0x08 (leBytes 1 v) token row) :
    authOutcome s (doAuth s p (0x3800 + d) 0x08 1 v token) p (0x3800 + d) 0x08 (leBytes 1 v) token row
      (modKey d v ∈ (doAuth s p (0x3800 + d) 0x08 1 v token).retryLanes) := by
  refine doAuth_outcome (effect := fun t => modKey d v ∈ t.retryLanes) h hv (fun s0 => odApply_laneRecord s0 p v _ _ hd) fun s0 _ => ?_
  obtain ⟨-, -, -, hkept, -⟩ :=
    (authDone_changes p (authReq (0x3800 + d) 0x08 (leBytes 1 v) token) (odGet s 0x8100 0x09) (retryModule s0 d v)).same .dieLinks rfl
  rw [hkept]
  exact mem_insertNat.mpr (.inr rfl)

end Sys2Proof.Machine
end

section
/-! PROOFS. The fence of a core by an AUTH WRITE (R435, R439, R455), and the other writes of the test page (R436, R442), for O49. -/

set_option Elab.async false

namespace Sys2Proof.Machine

/-! ### What the stop of a unit leaves of the cores' entries -/

/-- The pages of the cores. -/
def corePages (k : Nat) : Prop := k < 0x310000

theorem not_logKey_of_corePages {k : Nat} (h : corePages k) : ¬ logKey k := by unfold corePages at h; unfold logKey; omega

theorem OffLog.corePages {s t : State} (h : OffLog s t) : OdKeeps corePages s t := h.mono fun _ => not_logKey_of_corePages

theorem OffCompletion.corePages {u q : Nat} {s t : State} (h : OffCompletion u q s t) : OdKeeps corePages s t := by
  refine h.mono fun k hk hc => ?_
  unfold Machine.corePages at hk
  have hindex : 0x3600 ≤ queueIndex u := by unfold queueIndex; split <;> omega
  unfold completionKey odKey logKey at hc
  rcases hc with ⟨n, -, e⟩ | e | e | e | ⟨c, -, e⟩ | e <;> omega

theorem odBump_corePages (s : State) {i : Nat} (sub n : Nat) (h : 0x3100 ≤ i) : OdKeeps corePages s (odBump s i sub n) :=
  (odBump_keeps s i sub n).mono fun k hk => ⟨by unfold corePages at hk; unfold odKey; omega, not_logKey_of_corePages hk⟩

theorem odSet_corePages (s : State) {i : Nat} (sub v : Nat) (h : 0x3100 ≤ i) : OdKeeps corePages s (odSet s i sub v) :=
  .set s v fun hk => by unfold corePages odKey at hk; omega

theorem stateChange_corePages (s : State) (unit : Nat) {i : Nat} (sub v code sev : Nat) (h : 0x3100 ≤ i) :
    OdKeeps corePages s (stateChange s unit i sub v code sev) :=
  (stateChange_keeps s unit i sub v code sev).mono fun k hk => ⟨by unfold corePages at hk; unfold odKey; omega, not_logKey_of_corePages hk⟩

theorem stopQueue_corePages (s : State) (u q : Nat) : OdKeeps corePages s (stopQueue s u q) := by
  have hqueue : 0x3100 ≤ queueIndex u := by unfold queueIndex; split <;> omega
  have haborts := fun t : State => (OdKeeps.foldl (fun s c => (abortCmd_offCompletion s c 0x6002).corePages) ((qCmds t u q).filter stops) t)
  have hcolls := fun t : State => (endColls_belowChannels t u q).mono (Q := corePages) fun k hk => Nat.lt_trans hk (by decide)
  unfold stopQueue
  dsimp only
  refine OdKeeps.trans ?_ (discardHeld_offCompletion _ _ _).corePages
  refine OdKeeps.trans ?_ (withScreeds_od _ _)
  refine OdKeeps.trans ?_ (hcolls _)
  refine OdKeeps.trans ?_ (haborts _)
  exact (odSet_corePages s (i := queueIndex u) (q * 16 + 6) 3 hqueue).trans (withDraining_od _ _)

theorem invalidateContext_corePages (s : State) (ctx : Nat) : OdKeeps corePages s (invalidateContext s ctx) := by
  have htile : ∀ (s : State) (array bank half base cnt : Nat), OdKeeps corePages s (invalidateTile s array bank half base cnt) :=
    fun s array bank half base cnt => by
      unfold invalidateTile
      dsimp only
      split
      · exact .refl s
      · exact (withValid_od s _ _).trans (odBump_corePages _ _ _ (by omega))
  unfold invalidateContext
  refine OdKeeps.foldl (fun s r => OdKeeps.foldl (fun s e => ?_) _ s) _ s
  split
  · exact .refl s
  · exact OdKeeps.foldl (fun s a => OdKeeps.foldl (fun s bank => htile s _ bank _ _ _) _ s) _ s

theorem stopQueues_corePages (s : State) (ctx : Nat) : OdKeeps corePages s (stopQueues s ctx) := by
  unfold stopQueues
  refine OdKeeps.foldl (fun t x => ?_) _ s
  exact stopQueue_corePages t x.1 x.2

theorem stopContext_corePages (s : State) (ctx code : Nat) : OdKeeps corePages s (stopContext s ctx code none) := by
  unfold stopContext
  split
  · exact .refl s
  · refine OdKeeps.trans ?_ (invalidateContext_corePages _ ctx)
    refine OdKeeps.trans ?_ (.of_changes (stopChans_changes _ ctx))
    exact (stateChange_corePages s pkgUnit (i := 0x9010 + ctx) _ _ _ _ (by omega)).trans (stopQueues_corePages _ ctx)

theorem stopUnit_corePages (s : State) (u code : Nat) : OdKeeps corePages s (stopUnit s u code) := by
  unfold stopUnit
  exact (OdKeeps.foldl (fun s c => stopContext_corePages s c code) _ s).trans (OdKeeps.foldl (fun s c => (abortCmd_offCompletion s c 0x6002).corePages) _ _)

/-! ### What a fence leaves of the cores' states -/

/-- The states of the cores. -/
def coreStates (k : Nat) : Prop := k < 0x310000 ∧ k % 256 = 1

theorem coreStates_of {core : Nat} (h : core < 128) : coreStates (odKey (0x3000 + core) 0x01) := by unfold coreStates odKey; omega

theorem OdKeeps.states {s t : State} (h : OdKeeps corePages s t) : OdKeeps coreStates s t := h.mono fun _ hk => hk.1

theorem odSet_coreStates (s : State) (i : Nat) {sub : Nat} (v : Nat) (h : sub < 256 ∧ sub ≠ 1) : OdKeeps coreStates s (odSet s i sub v) :=
  .set s v fun hk => by unfold coreStates odKey at hk; omega

theorem serve_coreStates (s : State) (pos core : Nat) : OdKeeps coreStates s (serve s pos core) :=
  (odSet_coreStates s _ _ (by decide)).trans (odSet_coreStates _ _ _ (by decide))

theorem unserve_coreStates (s : State) (core : Nat) : OdKeeps coreStates s (unserve s core) := odSet_coreStates s _ _ (by decide)

theorem recordPos_keeps {P : Nat → Prop} (s : State) (pos : Nat) : OdKeeps P s (recordPos s pos) := .of_changes (recordPos_changes s pos)

theorem clearPosition_keeps {P : Nat → Prop} (s : State) (k : Nat) : OdKeeps P s (clearPosition s k) := .of_changes (clearPosition_changes s k)

theorem countCores_coreStates (s : State) : OdKeeps coreStates s (countCores s) :=
  (odSet_coreStates s 0x7200 _ (by decide)).trans (odSet_coreStates _ 0x7200 _ (by decide))

theorem disableQueues_coreStates (s : State) (u : Nat) : OdKeeps coreStates s (disableQueues s u) := by
  have hqueue : 0x3100 ≤ queueIndex u := by unfold queueIndex; split <;> omega
  exact .foldl (fun s q => ((discardHeld_offCompletion s u q).corePages.trans (odSet_corePages _ (i := queueIndex u) (q * 16 + 6) 0 hqueue)).states) _ s

theorem fileCode_coreStates (s : State) (code unit detail : Nat) : OdKeeps coreStates s (fileCode s code unit detail) :=
  (fileCode_offLog s code unit detail).corePages.states

theorem fenceEnd_coreStates (s : State) (core : Nat) (lost : Bool) : OdKeeps coreStates s (fenceEnd s core lost) := by
  have hsnag := fun (t : State) b => (snagSet_offLog t b).corePages.states
  have hcounted := (countCores_coreStates s).trans (hsnag _ (16 + dieOf core))
  have hsnags : OdKeeps coreStates s (if lost then snagSet (snagSet (countCores s) (16 + dieOf core)) (20 + dieOf core)
      else snagSet (countCores s) (16 + dieOf core)) := by
    split
    · exact hcounted.trans (hsnag _ _)
    · exact hcounted
  unfold fenceEnd
  dsimp only
  exact (hsnags.trans .of_od).trans (.of_changes (msixAllContexts_changes _))

/-- A core takes its state; every other core keeps its own. -/
theorem coreState_setCore (s : State) {core : Nat} (h : core < 128) (v code : Nat) : coreState (setCore s core v code) core = v :=
  odGet_stateChange s _ _ _ _ _ _ (not_logKey (by omega) (by decide))

theorem coreState_setCore_ne (s : State) {core other : Nat} (h : core < 128) (hne : core ≠ other) (v code : Nat) :
    coreState (setCore s other v code) core = coreState s core :=
  (stateChange_keeps s _ _ _ _ _ _).get _ _ ⟨odKey_ne (by decide) (by decide) (by omega), not_logKey (by omega) (by decide)⟩

/-- A core is FENCED, and flash holds it as fenced. -/
def fencedIn (core : Nat) (t : State) : Prop := coreState t core = 3 ∧ core ∈ t.flashFenced

/-- The last step of a fence leaves its core FENCED where it is already. -/
theorem fenceEnd_fences {s : State} {core : Nat} (h : core < 128) (lost : Bool) (hs : coreState s core = 3) : fencedIn core (fenceEnd s core lost) := by
  refine ⟨((fenceEnd_coreStates s core lost).get _ _ (coreStates_of h)).trans hs, ?_⟩
  unfold fenceEnd
  dsimp only
  obtain ⟨-, -, -, -, -, -, -, -, -, -, -, hflash, -⟩ := (msixAllContexts_changes _).same .tests rfl
  rw [hflash]
  exact mem_insertNat.mpr (.inr rfl)

/-- A spare that stands in for none is not the core that serves a position. -/
theorem freeSpareCore_free {s : State} {d x : Nat} (h : freeSpareCore s d = some x) : corePos s x = 0xFF := by
  have hfree := List.find?_some h
  rw [Bool.and_eq_true] at hfree
  exact eq_of_beq hfree.2

theorem fenceServing_fences {s : State} {core : Nat} (h : core < 128) (cause : Nat) {spare : Option Nat} (hspare : ∀ x, spare = some x → core ≠ x) :
    fencedIn core (fenceServing s core cause spare) := by
  have hkey := coreStates_of h
  have hstopped : ∀ code, coreState (clearPosition (stopUnit (setCore s core 3 code) (corePos s core) code) (corePos s core)) core = 3 := fun code =>
    (((stopUnit_corePages (setCore s core 3 code) (corePos s core) code).states.trans (clearPosition_keeps _ _)).get _ _ hkey).trans
      (coreState_setCore s h 3 code)
  unfold fenceServing
  cases spare with
  | some x =>
    refine fenceEnd_fences h false ?_
    have hserve := fun t : State => ((unserve_coreStates t core).trans (serve_coreStates _ (corePos s core) x)).get _ _ hkey
    refine ((fileCode_coreStates _ _ _ _).get _ _ hkey).trans (((recordPos_keeps (P := coreStates) _ _).get _ _ hkey).trans ?_)
    exact (coreState_setCore_ne _ h (hspare x rfl) 1 _).trans ((hserve _).trans (hstopped 0x8001))
  | none =>
    refine fenceEnd_fences h true ?_
    have hlost := fun t : State => (odSet_coreStates t (0x3000 + corePos s core) (sub := 0x03) 0xFF (by decide)).trans (unserve_coreStates _ core)
    refine ((fileCode_coreStates _ _ _ _).get _ _ hkey).trans (((countCores_coreStates _).get _ _ hkey).trans ?_)
    refine ((disableQueues_coreStates _ _).get _ _ hkey).trans (((recordPos_keeps (P := coreStates) _ _).get _ _ hkey).trans ?_)
    exact ((hlost _).get _ _ hkey).trans (hstopped 0x8002)

/-- A core that is not under test is FENCED, whether or not it serves a position. -/
theorem fenceUntested_fences {s : State} {core : Nat} (h : core < 128) (cause : Nat) : fencedIn core
    (if corePos s core = 0xFF then fenceEnd (setCore s core 3 0) core false else fenceServing s core cause (freeSpareCore s (dieOf core))) := by
  split
  · exact fenceEnd_fences h false (coreState_setCore s h 3 0)
  · next hserves =>
    refine fenceServing_fences h cause fun x hx e => hserves ?_
    rw [e]
    exact freeSpareCore_free hx

/-- The core under test is FENCED and its stand-in keeps the position; a stand-in gives the position back before its own fence; any other
core is FENCED as one that is not under test (R435, R439, R455). -/
theorem fenceNow_fences {s : State} {core : Nat} (h : core < 128) (cause : Nat) (hstandin : ∀ x, s.testing = some (core, some x) → x ≠ core) :
    fencedIn core (fenceNow s core cause) := by
  have hkey := coreStates_of h
  unfold fenceNow
  split
  · next t x htesting =>
    split
    · next ht =>
      subst ht
      refine fenceEnd_fences h false (((fileCode_coreStates _ _ _ _).get _ _ hkey).trans (((recordPos_keeps (P := coreStates) _ _).get _ _ hkey).trans ?_))
      exact (coreState_setCore_ne _ h (hstandin x htesting).symm 1 _).trans (coreState_setCore _ h 3 _)
    split
    · next hx =>
      subst hx
      refine fenceEnd_fences h false (((fileCode_coreStates _ _ _ _).get _ _ hkey).trans (((clearPosition_keeps (P := coreStates) _ _).get _ _ hkey).trans ?_))
      exact ((stopUnit_corePages _ _ _).states.get _ _ hkey).trans (coreState_setCore _ h 3 _)
    · exact fenceUntested_fences h cause
  · split
    · next ht =>
      subst ht
      exact fenceEnd_fences h false (coreState_setCore _ h 3 0)
    · exact fenceUntested_fences h cause
  · exact fenceUntested_fences h cause

theorem fenceCore_acts {s : State} {p : Path} {row : OdRow} {v : Nat} {token : List Byte} (hv : v < 128)
    (hstandin : ∀ x, s.testing = some (v, some x) → x ≠ v) (h : authorizable s p 0x7200 0x09 (leBytes 1 v) token row) :
    authOutcome s (doAuth s p 0x7200 0x09 1 v token) p 0x7200 0x09 (leBytes 1 v) token row
      (coreState (doAuth s p 0x7200 0x09 1 v token) v = 3 ∧ v ∈ (doAuth s p 0x7200 0x09 1 v token).flashFenced) := by
  refine doAuth_outcome (effect := fencedIn v) h (by omega) (fun s0 => odApply_fence s0 p v _ _) fun s0 h0 => ?_
  obtain ⟨-, -, htesting, -⟩ := h0.changes.same .tests rfl
  obtain ⟨hstate, hflash⟩ := fenceNow_fences (s := s0) hv 5 (by rwa [htesting])
  generalize fenceNow s0 v 5 = x at *
  obtain ⟨-, -, -, -, -, -, -, -, -, -, -, hdone, -⟩ :=
    (authDone_changes p (authReq 0x7200 0x09 (leBytes 1 v) token) (odGet s 0x8100 0x09) x).same .tests rfl
  exact ⟨(authDone_get p _ _ _ (offCount_of_page (by omega) (by decide)) (odKey_ne (by decide) (by decide) (by omega))).trans hstate, hdone ▸ hflash⟩

/-! ### The scan of a FENCED core and the field patterns (R436, R442) -/

theorem unfenceCore_acts {s : State} {p : Path} {row : OdRow} {v : Nat} {token : List Byte} (hv : v < 128)
    (h : authorizable s p 0x7200 0x0A (leBytes 1 v) token row) :
    authOutcome s (doAuth s p 0x7200 0x0A 1 v token) p 0x7200 0x0A (leBytes 1 v) token row
      (v ∈ (doAuth s p 0x7200 0x0A 1 v token).rescan ∧ coreState (doAuth s p 0x7200 0x0A 1 v token) v = coreState s v) := by
  refine doAuth_outcome (effect := fun t => v ∈ t.rescan ∧ coreState t v = coreState s v) h (by omega) (fun s0 => odApply_unfence s0 p v _ _)
    fun s0 h0 => ⟨?_, ?_⟩
  · obtain ⟨-, -, -, -, -, -, -, -, -, -, -, -, -, hdone, -⟩ :=
      (authDone_changes p (authReq 0x7200 0x0A (leBytes 1 v) token) (odGet s 0x8100 0x09) (unfence s0 v)).same .tests rfl
    rw [hdone]
    exact mem_insertNat.mpr (.inr rfl)
  · exact (authDone_get p _ _ _ (offCount_of_page (by omega) (by decide)) (odKey_ne (by decide) (by decide) (by omega))).trans (h0.odGet _ _)

/-- A pattern that is installed is kept: a new one, or in place of the one selected. -/
theorem installPattern_keeps (s : State) (pattern : List Byte) (sel : Nat) : pattern ∈ (installPattern s pattern sel).patterns ∧
    odGet (installPattern s pattern sel) 0x7200 0x0D = (installPattern s pattern sel).patterns.length := by
  have hlist : pattern ∈ (if s.patterns.length < 128 then s.patterns ++ [pattern] else listSet s.patterns (sel % 128) pattern) := by
    split
    · exact List.mem_append_right _ List.mem_cons_self
    · exact List.mem_set (Nat.lt_of_lt_of_le (Nat.mod_lt sel (by decide)) (by omega)) pattern
  unfold installPattern
  dsimp only
  generalize (if s.patterns.length < 128 then s.patterns ++ [pattern] else listSet s.patterns (sel % 128) pattern) = l at *
  obtain ⟨-, hkept, -⟩ := (snagSet_changes (odSet { s with patterns := l } 0x7200 0x0D l.length) 132).same .tests rfl
  rw [hkept, (snagSet_offLog _ _).get 0x7200 0x0D (not_logKey (by decide) (by decide))]
  exact ⟨hlist, odGet_odSet _ _ _ _⟩

theorem installFieldPattern_acts {s : State} {p : Path} {row : OdRow} {pattern token : List Byte}
    (h : authorizable s p 0x7200 0x0F pattern token row) :
    authOutcome s (odServe s p (authReq 0x7200 0x0F pattern token) Aux.none) p 0x7200 0x0F pattern token row
      (pattern ∈ (odServe s p (authReq 0x7200 0x0F pattern token) Aux.none).patterns ∧
        odGet (odServe s p (authReq 0x7200 0x0F pattern token) Aux.none) 0x7200 0x0D =
          (odServe s p (authReq 0x7200 0x0F pattern token) Aux.none).patterns.length) := by
  refine odServe_authOutcome (effect := fun t => pattern ∈ t.patterns ∧ odGet t 0x7200 0x0D = t.patterns.length) Aux.none h
    (fun s0 => odApply_pattern s0 p _ pattern _) fun s0 h0 => ?_
  obtain ⟨hkept, hcount⟩ := installPattern_keeps s0 pattern (selectOf (getReq s0 p) 0x7200 0x10)
  generalize installPattern s0 pattern (selectOf (getReq s0 p) 0x7200 0x10) = x at *
  obtain ⟨-, hdone, -⟩ := (authDone_changes p (authReq 0x7200 0x0F pattern token) (odGet s 0x8100 0x09) x).same .tests rfl
  exact ⟨hdone ▸ hkept, (authDone_get p _ _ _ ⟨not_logKey (by decide) (by decide), by decide⟩ (by decide)).trans (hdone ▸ hcount)⟩

end Sys2Proof.Machine
end

section
/-! PROOFS. What records leave of the recorder, and the clear of it by an AUTH WRITE (R448, R451, R453), for O49. -/

set_option Elab.async false

namespace Sys2Proof.Machine

/-! ### What making records leaves (R448) -/

/-- Records may have entered the ring: each with a number at or above the next one before, and the archive and the dust sheet as they were. -/
structure Recorded (s t : State) : Prop where
  archive : t.archive = s.archive
  dust : t.dust = s.dust
  nextSeq : s.nextSeq ≤ t.nextSeq
  ring : ∀ r ∈ t.ring, r ∈ s.ring ∨ s.nextSeq ≤ r.seq

theorem Recorded.refl (s : State) : Recorded s s := ⟨rfl, rfl, Nat.le_refl _, fun _ h => .inl h⟩

theorem Recorded.trans {s t u : State} (h : Recorded s t) (g : Recorded t u) : Recorded s u :=
  ⟨g.archive.trans h.archive, g.dust.trans h.dust, h.nextSeq.trans g.nextSeq,
    fun r hr => (g.ring r hr).elim (h.ring r) fun hseq => .inr (h.nextSeq.trans hseq)⟩

theorem Recorded.of_changes {K : List Kind} {s t : State} (h : Changes K s t) (hk : K.contains .recorder = false := by rfl) : Recorded s t := by
  obtain ⟨-, hring, harchive, hseq, -, -, -, -, -, -, hdust, -⟩ := h.same .recorder hk
  exact ⟨harchive, hdust, Nat.le_of_eq hseq.symm, fun r hr => .inl (hring ▸ hr)⟩

theorem Recorded.foldl {α : Type} {f : State → α → State} (hf : ∀ s a, Recorded s (f s a)) (l : List α) (s : State) :
    Recorded s (l.foldl f s) := by
  induction l generalizing s with
  | nil => exact .refl s
  | cons a r ih => exact (hf s a).trans (ih _)

theorem odSet_recorded (s : State) (i sub v : Nat) : Recorded s (odSet s i sub v) := .of_changes (odSet_changes s i sub v)

theorem odCount_recorded (s : State) (i sub v : Nat) : Recorded s (odCount s i sub v) := .of_changes (odCount_changes s i sub v)

/-- A record as it enters the ring: with the next number. -/
def entered (s : State) (r : LogRec) : LogRec :=
  { r with seq := s.nextSeq, report := r.report.map (fun p => { p with seq := s.nextSeq }) }

theorem ringPush_ring (s : State) (r : LogRec) : (ringPush s r).ring = (s.ring ++ [entered s r]).drop (s.ring.length + 1 - 4096) := by
  unfold ringPush entered; with_reducible rfl

theorem ringPush_nextSeq (s : State) (r : LogRec) : (ringPush s r).nextSeq = s.nextSeq + 1 := by unfold ringPush; with_reducible rfl

theorem ringPush_archive (s : State) (r : LogRec) : (ringPush s r).archive = s.archive := by unfold ringPush; with_reducible rfl

theorem ringPush_dust (s : State) (r : LogRec) : (ringPush s r).dust = s.dust := by unfold ringPush; with_reducible rfl

theorem ringPush_od (s : State) (r : LogRec) : (ringPush s r).od = s.od := by unfold ringPush; with_reducible rfl

theorem ringPush_recorded (s : State) (r : LogRec) : Recorded s (ringPush s r) := by
  refine ⟨ringPush_archive s r, ringPush_dust s r, by rw [ringPush_nextSeq]; omega, fun x hx => ?_⟩
  rw [ringPush_ring] at hx
  rcases List.mem_append.mp (List.mem_of_mem_drop hx) with hx | hx
  · exact .inl hx
  · exact .inr (by rw [List.mem_singleton.mp hx]; exact Nat.le_refl _)

/-- A record joins a ring that has room for it. -/
theorem ringPush_room {s : State} (r : LogRec) (h : s.ring.length < 4096) : (ringPush s r).ring = s.ring ++ [entered s r] := by
  rw [ringPush_ring, show s.ring.length + 1 - 4096 = 0 by omega, List.drop_zero]

theorem addRecordRaw_recorded (s : State) (r : LogRec) : Recorded s (addRecordRaw s r) := by
  unfold addRecordRaw
  split
  · exact (odCount_recorded s 0x7A00 0x04 1).trans ⟨rfl, rfl, Nat.le_refl _, fun _ h => .inl h⟩
  · exact ringPush_recorded s r

theorem snagSetRaw_recorded (s : State) (b : Nat) : Recorded s (snagSetRaw s b) := by
  unfold snagSetRaw
  dsimp only
  split
  · exact .refl s
  · exact (((odSet_recorded s _ _ _).trans (odCount_recorded _ _ _ _)).trans (addRecordRaw_recorded _ _)).trans (.of_changes (notifyAll_changes _ _))

theorem moveHead_recorded (s : State) (t a b : Nat) : Recorded s (moveHead s t a b) := by
  unfold moveHead
  dsimp only
  split
  · exact .refl s
  · exact ((odSet_recorded s _ _ _).trans (odCount_recorded _ _ _ _)).trans (snagSetRaw_recorded _ 9)

theorem withReports_recorded (s : State) (l : List Report) : Recorded s { s with reports := l } := ⟨rfl, rfl, Nat.le_refl _, fun _ h => .inl h⟩

theorem fileDetected_recorded (s : State) (r : Report) : Recorded s (fileDetected s r) := by
  have hqueued : ∀ (x : State) (t : Nat) (l : List Report), Recorded x (moveHead (moveHead (odCount (odSet { x with reports := l } 0x7100 0x01 t)
      0x7100 0x08 1) t 0x02 0x06) t 0x04 0x07) := fun x t l =>
    (((withReports_recorded x l).trans (odSet_recorded _ _ _ _)).trans (odCount_recorded _ _ _ _)).trans
      ((moveHead_recorded _ _ _ _).trans (moveHead_recorded _ _ _ _))
  unfold fileDetected
  dsimp only
  split
  · exact (((addRecordRaw_recorded _ _).trans (hqueued _ _ _)).trans (.of_changes (raiseVector_changes _ _))).trans (.of_changes (notifyAll_changes _ _))
  · exact (addRecordRaw_recorded _ _).trans (hqueued _ _ _)

theorem fileReportRaw_recorded (s : State) (r : Report) : Recorded s (fileReportRaw s r) := by
  have hdetected : Recorded s (detectReport s r).2 := .of_changes (detectReport_changes s r)
  unfold fileReportRaw
  dsimp only
  split
  · exact hdetected.trans ⟨rfl, rfl, Nat.le_refl _, fun _ h => .inl h⟩
  · exact hdetected.trans (fileDetected_recorded _ _)

theorem saturationEvent_recorded (s : State) (i n : Nat) : Recorded s (saturationEvent s i n) := by
  have h := (snagSetRaw_recorded s 8).trans (fileReportRaw_recorded _ (plainReport 0x8060 0 (counterUnit i) (i * 65536 + n) noPeer))
  unfold saturationEvent
  with_reducible exact h

theorem saturationEvents_recorded (n : Nat) (s0 s : State) : Recorded s (saturationEvents n s0 s) := by
  induction n generalizing s0 s with
  | zero => exact .refl s
  | succ n ih =>
    unfold saturationEvents
    split
    · exact .refl s
    · refine Recorded.trans (Recorded.foldl ?_ _ s) (ih _ _)
      intro s k
      exact saturationEvent_recorded s k.1 k.2

theorem addRecord_recorded (s : State) (r : LogRec) : Recorded s (addRecord s r) :=
  (addRecordRaw_recorded s r).trans (saturationEvents_recorded 5 s _)

theorem snagSet_recorded (s : State) (b : Nat) : Recorded s (snagSet s b) := (snagSetRaw_recorded s b).trans (saturationEvents_recorded 5 s _)

theorem odBump_recorded (s : State) (i sub n : Nat) : Recorded s (odBump s i sub n) := by
  unfold odBump
  dsimp only
  split
  · exact (odCount_recorded s i sub n).trans ((saturationEvent_recorded _ i sub).trans (saturationEvents_recorded 5 _ _))
  · exact odCount_recorded s i sub n

theorem countTaken_recorded (p : Path) (s : State) : Recorded s (countTaken p s) := by
  cases p with
  | mailbox d => exact .refl s
  | job c d => exact .refl s
  | hasowa n d => exact odBump_recorded s 0x6800 0x08 1

theorem authDone_recorded (p : Path) (r : OdReq) (n : Nat) (s : State) : Recorded s (authDone p r n s) :=
  ((odSet_recorded s 0x8100 0x09 (n + 1)).trans (addRecord_recorded _ _)).trans
    ((Recorded.of_changes (respond_changes _ p r odOK r.offset 0 [])).trans (countTaken_recorded p _))

/-! ### The clear (R453) -/

/-- The clear record, in a ring and an archive that are erased. -/
def clearedRing (s : State) : State := ringPush { s with ring := [], archive := [] } ⟨0, 5, pkgUnit, 0, 0, 0, lastSeq s, none⟩

theorem clearRecords_eq (s : State) : clearRecords s = if s.dust then enterHeld (clearedRing s) else clearedRing s := by
  unfold clearRecords clearedRing; with_reducible rfl

/-- The recorder holds records from number n on alone. -/
structure RecordsFrom (n : Nat) (t : State) : Prop where
  archive : t.archive = []
  nextSeq : n ≤ t.nextSeq
  ring : ∀ r ∈ t.ring, n ≤ r.seq

theorem RecordsFrom.recorded {n : Nat} {s t : State} (h : RecordsFrom n s) (g : Recorded s t) : RecordsFrom n t :=
  ⟨g.archive.trans h.archive, h.nextSeq.trans g.nextSeq, fun r hr => (g.ring r hr).elim (h.ring r) h.nextSeq.trans⟩

theorem clearedRing_ring (s : State) : (clearedRing s).ring = [⟨s.nextSeq, 5, pkgUnit, 0, 0, 0, lastSeq s, none⟩] := by
  unfold clearedRing
  rw [ringPush_room _ (by simp)]
  rfl

theorem clearedRing_nextSeq (s : State) : (clearedRing s).nextSeq = s.nextSeq + 1 := ringPush_nextSeq _ _

theorem clearedRing_dust (s : State) : (clearedRing s).dust = s.dust := ringPush_dust _ _

theorem clearedRing_od (s : State) : (clearedRing s).od = s.od := ringPush_od _ _

theorem clearedRing_from (s : State) : RecordsFrom s.nextSeq (clearedRing s) := by
  refine ⟨ringPush_archive _ _, by rw [clearedRing_nextSeq]; omega, fun r hr => ?_⟩
  rw [clearedRing_ring, List.mem_singleton] at hr
  rw [hr]

/-- The freeze has ended: no event is held any more. -/
def unfrozen (s : State) : State := { odSet s 0x7A00 0x01 0 with dust := false, heldEvents := [], heldCount := 0 }

theorem unfrozen_from {n : Nat} {s : State} (h : RecordsFrom n s) : RecordsFrom n (unfrozen s) := ⟨h.archive, h.nextSeq, h.ring⟩

/-- A freeze ends with the held events in the ring. -/
theorem enterHeld_recorded (s : State) : Recorded (unfrozen s) (enterHeld s) := by
  have hheld : Recorded (unfrozen s) (s.heldEvents.foldl (fun t e => ringPush t e.body) (unfrozen s)) := by
    refine Recorded.foldl ?_ _ _
    intro t e
    exact ringPush_recorded t e.body
  unfold enterHeld
  dsimp only
  split
  · exact hheld
  · exact hheld.trans ((ringPush_recorded _ _).trans (snagSet_recorded _ 7))

theorem clearRecords_from (s : State) : RecordsFrom s.nextSeq (clearRecords s) := by
  rw [clearRecords_eq]
  split
  · exact (unfrozen_from (clearedRing_from s)).recorded (enterHeld_recorded _)
  · exact clearedRing_from s

theorem clearRecords_dust (s : State) : (clearRecords s).dust = false := by
  rw [clearRecords_eq]
  split
  · exact (enterHeld_recorded _).dust
  · next h => rw [clearedRing_dust, Bool.eq_false_iff.mpr h]

/-! ### The clear where no freeze held -/

/-- A record that no freeze holds up enters the ring, and no count moves. -/
theorem addRecord_unfrozen {s : State} (r : LogRec) (h : s.dust = false) : addRecord s r = ringPush s r := by
  have hraw : addRecordRaw s r = ringPush s r := by
    unfold addRecordRaw
    rw [h, if_neg Bool.false_ne_true]
  have hnone : newlySaturated s (ringPush s r) = [] := by
    refine List.filter_eq_nil_iff.mpr fun k _ => ?_
    have hsame : odGet (ringPush s r) k.1 k.2 = odGet s k.1 k.2 := by unfold odGet; rw [ringPush_od]
    rw [hsame]
    simp
  unfold addRecord
  rw [hraw]
  unfold saturationEvents
  rw [hnone]

/-- The count of a request that does not saturate it makes no record. -/
theorem countTaken_ring {s t : State} {p : Path} (h : countsOn s p) (hcount : odGet t 0x6800 0x08 = odGet s 0x6800 0x08) :
    (countTaken p t).ring = t.ring := by
  cases p with
  | mailbox d => rfl
  | job c d => rfl
  | hasowa n d =>
    have hbelow : odGet s 0x6800 0x08 + 1 < cntMax := h
    have hcounted : odGet (odCount t 0x6800 0x08 1) 0x6800 0x08 ≠ cntMax := by
      unfold odCount
      rw [odGet_odSet, hcount]
      omega
    unfold countTaken odBump
    dsimp only
    rw [if_neg fun hsat => hcounted hsat.1]
    rfl

/-- The record of an AUTH WRITE that no freeze holds up follows the records of the ring. -/
theorem authRecord_ring {t : State} (r : OdReq) (status : Nat) (hdust : t.dust = false) (hring : t.ring.length < 4096) :
    ∃ a : LogRec, (authRecord t r status).ring = t.ring ++ [a] ∧ a.kind = 8 ∧ a.seq = t.nextSeq := by
  unfold authRecord
  dsimp only
  rw [addRecord_unfrozen _ hdust, ringPush_room _ hring]
  exact ⟨_, rfl, rfl, rfl⟩

theorem authRecord_count {t : State} (r : OdReq) (status : Nat) : odGet (authRecord t r status) 0x6800 0x08 = odGet t 0x6800 0x08 :=
  (authRecord_offLog t r status).get _ _ (not_logKey (by decide) (by decide))

theorem authDone_ring {s t : State} {p : Path} (r : OdReq) (n : Nat) (h : countsOn s p) (hcount : odGet t 0x6800 0x08 = odGet s 0x6800 0x08)
    (hdust : t.dust = false) (hring : t.ring.length < 4096) :
    ∃ a : LogRec, (authDone p r n t).ring = t.ring ++ [a] ∧ a.kind = 8 ∧ a.seq = t.nextSeq := by
  obtain ⟨a, ha, hkind, hseq⟩ := authRecord_ring (t := odSet t 0x8100 0x09 (n + 1)) r odOK hdust hring
  have hkept : odGet (authRecord (odSet t 0x8100 0x09 (n + 1)) r odOK) 0x6800 0x08 = odGet s 0x6800 0x08 := by
    rw [authRecord_count, odGet_odSet_ne _ _ (by decide), hcount]
  unfold authDone answerTo
  generalize authRecord (odSet t 0x8100 0x09 (n + 1)) r odOK = u at *
  have hanswer := respond_changes u p r odOK r.offset 0 []
  obtain ⟨-, hsame, -⟩ := hanswer.same .recorder rfl
  have hcounted : odGet (respond u p r odOK r.offset 0 []) 0x6800 0x08 = odGet s 0x6800 0x08 := by
    rw [← hkept]; unfold odGet; rw [hanswer.same .od rfl]
  exact ⟨a, (countTaken_ring h hcounted).trans (hsame.trans ha), hkind, hseq⟩

/-- What a cleared recorder holds: where no freeze held, the clear record, which names the last one before it, and the record of the write. -/
def recorderCleared (s t : State) : Prop :=
  t.archive = [] ∧ t.dust = false ∧ (∀ r ∈ t.ring, s.nextSeq ≤ r.seq) ∧
    (s.dust = false → ∃ r a, t.ring = [r, a] ∧ r.kind = 5 ∧ r.seq = s.nextSeq ∧ r.extra = lastSeq s ∧ a.kind = 8 ∧ a.seq = s.nextSeq + 1)

theorem authDone_cleared {s s0 : State} {p : Path} (r : OdReq) (n : Nat) (hcounts : countsOn s p) (h0 : Arrived s s0) :
    recorderCleared s (authDone p r n (clearRecords s0)) := by
  obtain ⟨-, -, -, hseq, -, -, -, -, -, -, hdust, -⟩ := h0.changes.same .recorder rfl
  have hrecorded := authDone_recorded p r n (clearRecords s0)
  obtain ⟨harchive, -, hring⟩ := (clearRecords_from s0).recorded hrecorded
  refine ⟨harchive, hrecorded.dust.trans (clearRecords_dust s0), fun x hx => hseq ▸ hring x hx, fun hopen => ?_⟩
  have hopen0 : s0.dust = false := hdust.trans hopen
  have hclear : clearRecords s0 = clearedRing s0 := by rw [clearRecords_eq, hopen0, if_neg Bool.false_ne_true]
  have hcount : odGet (clearedRing s0) 0x6800 0x08 = odGet s 0x6800 0x08 := by
    rw [← h0.odGet]; unfold odGet; rw [clearedRing_od]
  obtain ⟨a, ha, hkind, haseq⟩ := authDone_ring r n hcounts hcount ((clearedRing_dust s0).trans hopen0) (by rw [clearedRing_ring]; simp)
  rw [hclear, ha, clearedRing_ring, ← hseq]
  refine ⟨_, a, rfl, rfl, rfl, ?_, hkind, haseq.trans (clearedRing_nextSeq s0)⟩
  unfold lastSeq
  rw [hseq]

theorem clearRecorder_acts {s : State} {p : Path} {row : OdRow} {token : List Byte} (hcounts : countsOn s p)
    (h : authorizable s p 0x7A00 0x03 [] token row) :
    authOutcome s (odServe s p (authReq 0x7A00 0x03 [] token) Aux.none) p 0x7A00 0x03 [] token row
      (recorderCleared s (odServe s p (authReq 0x7A00 0x03 [] token) Aux.none)) :=
  odServe_authOutcome (effect := recorderCleared s) Aux.none h (fun s0 => odApply_clear s0 p _ [] _) fun _ h0 => authDone_cleared _ _ hcounts h0

/-- Settles O49: each AUTH WRITE by the lemma of its entry. -/
theorem authorizedWritesAct : Obligations.AuthorizedWritesAct :=
  ⟨fun _ _ _ _ _ hv hidle h => ⟨_, rfl, retireStack_acts hv hidle h⟩, fun _ _ _ _ _ hv hstandin h => ⟨_, rfl, fenceCore_acts hv hstandin h⟩,
    fun _ _ _ _ _ hv h => ⟨_, rfl, unfenceCore_acts hv h⟩, fun _ _ _ _ _ h => ⟨_, rfl, installFieldPattern_acts h⟩,
    fun _ _ _ _ hcounts h => ⟨_, rfl, clearRecorder_acts hcounts h⟩, fun _ _ _ _ _ hv h => ⟨_, rfl, commitSecurityVersion_acts hv h⟩,
    fun _ _ _ _ _ hv h => ⟨_, rfl, lockDebug_acts hv h⟩,
    fun s p _ d v token hd hv h => ⟨doAuth s p (0x3800 + d) 0x08 1 v token, congrArg _ (if_pos hd), clearLaneRecord_acts hd hv h⟩⟩

end Sys2Proof.Machine
end

section
/-! PROOFS. The page of the start-up (R510, R511): how its step and its stop reason move on, and what a step forward leaves, for O60. -/

set_option Elab.async false

namespace Sys2Proof.Machine

/-! ### The place of a start -/

/-- The start moves on from `s` to `t`: its step does not fall back, and no stop of the fuses comes to show (R510). -/
structure Onward (s t : State) : Prop where
  step : startStep s ≤ startStep t
  reason : odGet s 0x1100 0x02 ≠ 1 → odGet t 0x1100 0x02 ≠ 1

theorem Onward.refl (s : State) : Onward s s := ⟨Nat.le_refl _, id⟩

theorem Onward.trans {s t u : State} (h : Onward s t) (g : Onward t u) : Onward s u := ⟨h.step.trans g.step, g.reason ∘ h.reason⟩

theorem Onward.foldl {α : Type} {f : State → α → State} (hf : ∀ s a, Onward s (f s a)) (l : List α) (s : State) : Onward s (l.foldl f s) := by
  induction l generalizing s with
  | nil => exact .refl s
  | cons a r ih => exact (hf s a).trans (ih _)

/-- What keeps the page of the start-up leaves the place of the start. -/
theorem Onward.of_keeps {P : Nat → Prop} {s t : State} (h : OdKeeps P s t) (hp : ∀ n, n < 256 → P (odKey 0x1100 n)) : Onward s t :=
  ⟨Nat.le_of_eq (h.get 0x1100 0x01 (hp 1 (by decide))).symm, fun hr => (h.get 0x1100 0x02 (hp 2 (by decide))).symm ▸ hr⟩

theorem Onward.of_offLog {s t : State} (h : OffLog s t) : Onward s t := .of_keeps h fun _ hn => not_logKey (by decide) hn

theorem startPage_key {n : Nat} (h : n < 256) : startPage (odKey 0x1100 n) := by unfold startPage odKey; omega

theorem not_startPage {i n : Nat} (hi : i ≠ 0x1100) (hn : n < 256) : ¬ startPage (odKey i n) := by unfold startPage odKey; omega

theorem odSet_startPage (s : State) {n : Nat} (v : Nat) (hn : n < 256) : OdKeeps (fun k => ¬ startPage k) s (odSet s 0x1100 n v) :=
  .set s v fun hk => hk (startPage_key hn)

theorem stepReason_ne (s : State) (k : Nat) : stepReason s k ≠ 1 := by unfold stepReason; split_ifs <;> decide

theorem enterStep_reason (s : State) (k : Nat) (ms : Option Nat) : odGet (enterStep s k ms) 0x1100 0x02 ≠ 1 := by
  unfold enterStep
  dsimp only
  rw [odGet_odSet]
  exact stepReason_ne _ k

theorem enterStep_onward {s : State} {k : Nat} (h : startStep s ≤ k) (ms : Option Nat) : Onward s (enterStep s k ms) :=
  ⟨by rw [enterStep_startStep]; exact h, fun _ => enterStep_reason s k ms⟩

theorem enterStep_rposLatched (s : State) (k : Nat) (ms : Option Nat) : (enterStep s k ms).rposLatched = s.rposLatched := by
  unfold enterStep
  dsimp only
  split <;> rfl

theorem enterStep_romRuns (s : State) (k : Nat) (ms : Option Nat) : (enterStep s k ms).romRuns = s.romRuns := by
  unfold enterStep
  dsimp only
  split <;> rfl

theorem enterStep_vbulkLost (s : State) (k : Nat) (ms : Option Nat) : (enterStep s k ms).vbulkLost = s.vbulkLost := by
  unfold enterStep
  dsimp only
  split <;> rfl

theorem stopStart_startStep (s : State) (reason : Nat) : startStep (stopStart s reason) = 0 := by
  unfold stopStart startStep
  rw [odGet_odSet_ne _ _ (by decide)]
  exact odGet_odSet _ _ _ _

theorem stopStart_reason (s : State) (reason : Nat) : odGet (stopStart s reason) 0x1100 0x02 = reason := odGet_odSet _ _ _ _

theorem stopStart_keeps (s : State) (reason : Nat) : OdKeeps (fun k => ¬ startPage k) s (stopStart s reason) := by
  unfold stopStart
  exact ((OdKeeps.of_od (t := { s with stepAt := s.uptime })).trans (odSet_startPage _ _ (by decide))).trans (odSet_startPage _ _ (by decide))

/-! ### A step forward (R511) -/

/-- A step forward leaves every other page, every port's own state, and what the ROM and the fuses have left. -/
structure StepOnly (s t : State) : Prop where
  keeps : OdKeeps (fun k => ¬ startPage k) s t
  ports : t.ports = s.ports
  onward : Onward s t
  romRuns : t.romRuns = s.romRuns

theorem StepOnly.refl (s : State) : StepOnly s s := ⟨.refl s, rfl, .refl s, rfl⟩

theorem StepOnly.trans {s t u : State} (h : StepOnly s t) (g : StepOnly t u) : StepOnly s u :=
  ⟨h.keeps.trans g.keeps, g.ports.trans h.ports, h.onward.trans g.onward, g.romRuns.trans h.romRuns⟩

theorem enterStep_stepOnly {s : State} {k : Nat} (h : startStep s ≤ k) (ms : Option Nat) : StepOnly s (enterStep s k ms) := by
  obtain ⟨hports, -⟩ := (enterStep_changes s k ms).same .ports rfl
  exact ⟨enterStep_keeps s k ms, hports, enterStep_onward h ms, enterStep_romRuns s k ms⟩

theorem endStep8_stepOnly {s : State} (h : startStep s = 8) : StepOnly s (endStep8 s) := by
  have hkeyed : ∀ l, StepOnly s { s with keyed := l } := fun l => ⟨.of_od, rfl, .of_offLog .of_od, rfl⟩
  have hstep : ∀ l, startStep { s with keyed := l } ≤ 9 := fun l => Nat.le_trans (Nat.le_of_eq h) (by decide)
  exact (hkeyed _).trans (enterStep_stepOnly (hstep _) none)

theorem progressOnce_stepOnly (s : State) : StepOnly s (progressOnce s) := by
  unfold progressOnce
  split
  · next h =>
    split
    · exact endStep8_stepOnly h
    · exact .refl s
  · next h =>
    split
    · split
      · exact enterStep_stepOnly (h.trans_le (by decide)) none
      · refine ⟨odSet_startPage s 0 (by decide), rfl, ⟨?_, fun _ => ?_⟩, rfl⟩
        · unfold startStep
          rw [odGet_odSet_ne _ _ (by decide)]
        · rw [odGet_odSet]
          decide
    · exact .refl s
  · next h =>
    split
    · exact enterStep_stepOnly (h.trans_le (by decide)) none
    · exact .refl s
  · exact .refl s

theorem progress_stepOnly (s : State) : StepOnly s (progress s) :=
  ((progressOnce_stepOnly s).trans (progressOnce_stepOnly _)).trans (progressOnce_stepOnly _)

end Sys2Proof.Machine
end

section
/-! PROOFS. The states that a port enters (R331, R335, R341, R510): what it shows, and what it leaves of the other ports, for O60. -/

set_option Elab.async false

namespace Sys2Proof.Machine

/-! ### What a port writes -/

/-- The entries that a port's state and its dropped packets are written to: its state, its count of drops, and the recorder's pages. -/
def portOwn (p k : Nat) : Prop := k = odKey (0x5200 + p) 0x01 ∨ k = odKey (0x5200 + p) 0x06 ∨ logKey k

/-- The entries that a change of a port's state can write: its own, and the page of the start-up. -/
abbrev OffPort (p : Nat) (s t : State) : Prop := OdKeeps (fun k => ¬ portOwn p k ∧ ¬ startPage k) s t

theorem OffLog.offPort {p : Nat} {s t : State} (h : OffLog s t) : OffPort p s t := h.mono fun _ hk hl => hk.1 (.inr (.inr hl))

theorem not_portOwn_start (p : Nat) {n : Nat} (hn : n < 256) : ¬ portOwn p (odKey 0x1100 n) := by unfold portOwn logKey odKey; omega

theorem not_portOwn_of_ne {p q n : Nat} (hq : q < 16) (hne : q ≠ p) (hn : n < 256) : ¬ portOwn p (odKey (0x5200 + q) n) := by
  unfold portOwn logKey odKey; omega

theorem not_portOwn_map {p n : Nat} (hp : p < 16) (h : n < 256 ∧ n ≠ 1 ∧ n ≠ 6) : ¬ portOwn p (odKey (0x5200 + p) n) := by
  unfold portOwn logKey odKey; omega

theorem Onward.of_own {p : Nat} {s t : State} (h : OdKeeps (fun k => ¬ portOwn p k) s t) : Onward s t :=
  .of_keeps h fun _ hn => not_portOwn_start p hn

theorem dropPartial_own (s : State) (p vc : Nat) : OdKeeps (fun k => ¬ portOwn p k) s (dropPartial s p vc) := by
  have hcount : ∀ t : State, OdKeeps (fun k => ¬ portOwn p k) t (odBump t (0x5200 + p) 0x06 1) := fun t =>
    (odBump_keeps t _ _ _).mono fun k hk => ⟨fun e => hk (.inr (.inl e)), fun hl => hk (.inr (.inr hl))⟩
  unfold dropPartial
  split
  · exact .refl s
  · unfold dropPacket
    dsimp only
    exact ((OdKeeps.of_changes (abortPart_changes s p vc)).trans (.of_changes (putPort_changes _ p _))).trans (hcount _)

theorem dropFlight_own (s : State) (p : Nat) : OdKeeps (fun k => ¬ portOwn p k) s (dropFlight s p) := by
  unfold dropFlight
  refine OdKeeps.foldl (fun s vc => ?_) _ s
  split
  · exact .refl s
  · exact dropPartial_own s p vc

/-- A port in its new state, its packets in flight dropped where it leaves UP, before the start moves on with it. -/
def portEntered (s : State) (p v code : Nat) : State :=
  stateChange (if portState s p = 3 then dropFlight s p else s) (portUnit p) (0x5200 + p) 0x01 v code (if code = 0 then 0 else severityOf code)

theorem setPortState_eq (s : State) (p v code : Nat) :
    setPortState s p v code = if portState s p = v then s else progress (portEntered s p v code) := rfl

theorem portEntered_own (s : State) (p v code : Nat) : OdKeeps (fun k => ¬ portOwn p k) s (portEntered s p v code) := by
  have hdropped : OdKeeps (fun k => ¬ portOwn p k) s (if portState s p = 3 then dropFlight s p else s) := by
    split
    · exact dropFlight_own s p
    · exact .refl s
  exact hdropped.trans ((stateChange_keeps _ _ _ _ _ _ _).mono fun k hk => ⟨fun e => hk (.inl e), fun hl => hk (.inr (.inr hl))⟩)

theorem setPortState_offPort (s : State) (p v code : Nat) : OffPort p s (setPortState s p v code) := by
  rw [setPortState_eq]
  split
  · exact .refl s
  · exact ((portEntered_own s p v code).mono fun _ hk => hk.1).trans ((progress_stepOnly _).keeps.mono fun _ hk => hk.2)

theorem setPortState_onward (s : State) (p v code : Nat) : Onward s (setPortState s p v code) := by
  rw [setPortState_eq]
  split
  · exact .refl s
  · exact (Onward.of_own (portEntered_own s p v code)).trans (progress_stepOnly _).onward

/-- A port shows the state that it enters. -/
theorem portState_setPortState (s : State) {p : Nat} (hp : p < 16) (v code : Nat) : portState (setPortState s p v code) p = v := by
  rw [setPortState_eq]
  split
  · assumption
  · unfold portState
    rw [(progress_stepOnly _).keeps.get _ _ (not_startPage (by omega) (by decide))]
    exact odGet_stateChange _ _ _ _ _ _ _ (not_logKey (by omega) (by decide))

/-- A port that does not leave UP changes nothing of any port's rings. -/
theorem setPortState_ports {s : State} {p : Nat} (h : portState s p ≠ 3) (v code : Nat) : (setPortState s p v code).ports = s.ports := by
  rw [setPortState_eq]
  split
  · rfl
  · rw [(progress_stepOnly _).ports]
    unfold portEntered
    rw [if_neg h]
    exact ((stateChange_changes s _ _ _ _ _ _).same .ports rfl).1

theorem getPort_congr {s t : State} (h : t.ports = s.ports) (p : Nat) : getPort t p = getPort s p := by unfold getPort; rw [h]

theorem getPort_putPort_ne (s : State) {p q : Nat} (v : Port) (h : q ≠ p) : getPort (putPort s p v) q = getPort s q := by
  unfold getPort putPort
  simp [List.getD_eq_getElem?_getD, List.getElem?_set_ne (Ne.symm h)]

theorem getPort_putPort {s : State} {p : Nat} (hp : p < s.ports.length) (v : Port) : getPort (putPort s p v) p = v := by
  unfold getPort putPort
  simp [List.getD_eq_getElem?_getD, hp]

/-! ### DARK (R331) -/

theorem goDark_offPort (s : State) (p : Nat) : OffPort p s (goDark s p) := by
  unfold goDark
  dsimp only
  exact (setPortState_offPort s p 0 0).trans (.of_changes (putPort_changes _ p _))

theorem goDark_onward (s : State) (p : Nat) : Onward s (goDark s p) := by
  unfold goDark
  dsimp only
  exact (setPortState_onward s p 0 0).trans (.of_offLog (.of_changes (putPort_changes _ p _)))

theorem portState_goDark (s : State) {p : Nat} (hp : p < 16) : portState (goDark s p) p = 0 := portState_setPortState s hp 0 0

theorem portState_of_offPort {s t : State} {p q : Nat} (h : OffPort p s t) (hq : q < 16) (hne : q ≠ p) : portState t q = portState s q :=
  h.get _ _ ⟨not_portOwn_of_ne hq hne (by decide), not_startPage (by omega) (by decide)⟩

/-- Ports taken one after the other: under an invariant that each step keeps, what holds once port q has been taken, and is left by every
other port, holds in the end. -/
theorem foldl_ports {f : State → Nat → State} {I P : State → Prop} {q : Nat} (hkeep : ∀ s p, I s → I (f s p)) (hone : ∀ s, I s → P (f s q))
    (hother : ∀ s p, q ≠ p → I s → P s → P (f s p)) (l : List Nat) (s : State) (hs : I s) (h : q ∈ l ∨ P s) : P (l.foldl f s) := by
  induction l generalizing s with
  | nil => simpa using h
  | cons p r ih =>
    refine ih (f s p) (hkeep s p hs) ?_
    by_cases hqp : q = p
    · exact .inr (hqp ▸ hone s hs)
    · rcases h with h | h
      · exact .inl (by simpa [hqp] using h)
      · exact .inr (hother s p hqp hs h)

/-- All ports that go dark show DARK. -/
theorem portState_allDark (s : State) {p : Nat} (hp : p < 16) : portState ((List.range 16).foldl goDark s) p = 0 :=
  foldl_ports (I := fun _ => True) (P := fun t => portState t p = 0) (fun _ _ _ => trivial) (fun s _ => portState_goDark s hp)
    (fun s q hne _ h => (portState_of_offPort (goDark_offPort s q) hp hne).trans h) _ s trivial (.inl (List.mem_range.mpr hp))

/-- Heaters that lose their supply leave every port DARK (R409). -/
theorem heatersOff_darkens {s : State} {mV : Nat} (h : s.vhtr = true) (hv : mV < 1600 ∨ 2000 < mV) :
    ∃ t, exec (.heatersOff mV) s = .next t ∧ t.vhtr = false ∧ ∀ p, p < 16 → portState t p = 0 := by
  have hlow : (s.vhtr && (decide (mV < 1600) || decide (2000 < mV))) = true := by simpa [h] using hv
  refine ⟨_, congrArg Host.Outcome.next (if_pos hlow), ?_, fun p hp => portState_allDark _ hp⟩
  obtain ⟨-, -, hkept, -⟩ := (Changes.foldl (List.range 16) (.refl (s := { s with vhtr := false })) goDark_changes).same .supplies rfl
  exact hkept

/-! ### TRAINING (R331, R510) -/

/-- A port that starts training leaves its laser as it was, and every other port. -/
theorem enterTraining_offPort (s : State) (p : Nat) : OffPort p s (enterTraining s p) := by
  unfold enterTraining
  dsimp only
  exact ((setPortState_offPort s p 1 0).trans (.of_changes (putPort_changes _ p _))).trans (.of_changes (sendMarkers_changes _ p))

theorem wakePort_offPort (s : State) (p : Nat) : OffPort p s (wakePort s p) := by
  unfold wakePort
  split
  · exact enterTraining_offPort s p
  · exact .refl s

theorem wakePort_onward (s : State) (p : Nat) : Onward s (wakePort s p) := by
  unfold wakePort
  split
  · unfold enterTraining
    dsimp only
    exact ((setPortState_onward s p 1 0).trans (.of_offLog (.of_changes (putPort_changes _ p _)))).trans
      (.of_offLog (.of_changes (sendMarkers_changes _ p)))
  · exact .refl s

/-- The laser of a port stands through a wake, its own and every other's. -/
theorem wakePort_laser (s : State) (p q : Nat) : (getPort (wakePort s p) q).laser = (getPort s q).laser := by
  unfold wakePort
  split
  · next hwake =>
    simp only [Bool.and_eq_true, decide_eq_true_eq] at hwake
    obtain ⟨⟨⟨⟨-, hdark⟩, -⟩, -⟩, -⟩ := hwake
    have hports := setPortState_ports (s := s) (p := p) (by omega) 1 0
    have hsame := getPort_congr hports
    have hlen : (setPortState s p 1 0).ports.length = s.ports.length := congrArg List.length hports
    unfold enterTraining
    dsimp only
    rw [getPort_congr ((sendMarkers_changes _ p).same .ports rfl).1]
    generalize setPortState s p 1 0 = x at *
    by_cases hqp : q = p
    · subst hqp
      by_cases hlt : q < x.ports.length
      · rw [getPort_putPort hlt, ← hsame]
      · unfold putPort
        rw [List.set_eq_of_length_le (by omega), ← hsame]
    · rw [getPort_putPort_ne _ _ hqp, hsame]
  · rfl

/-- A port that has light and is enabled, once step 8 has begun: it is DARK still, or has been woken. -/
structure Wakes (s : State) (q : Nat) : Prop where
  step : 8 ≤ startStep s
  enabled : portEnabled s q = true
  vhtr : s.vhtr = true
  laser : (getPort s q).laser = true
  state : portState s q = 0 ∨ portState s q = 1

theorem wakePort_of_dark {s : State} {q : Nat} (h : Wakes s q) (hdark : portState s q = 0) : wakePort s q = enterTraining s q := by
  unfold wakePort
  exact if_pos (by simp [h.step, h.enabled, h.vhtr, h.laser, hdark])

theorem portState_wakePort {s : State} {q : Nat} (hq : q < 16) (h : Wakes s q) : portState (wakePort s q) q = 1 := by
  rcases h.state with hdark | htraining
  · rw [wakePort_of_dark h hdark]
    unfold enterTraining portState
    dsimp only
    rw [(OdKeeps.of_changes (P := fun _ => True) (sendMarkers_changes _ q)).get _ _ trivial]
    exact portState_setPortState s hq 1 0
  · have hawake : wakePort s q = s := by
      unfold wakePort
      exact if_neg (by simp [htraining])
    rw [hawake, htraining]

theorem Wakes.step_of {s : State} {q : Nat} (hq : q < 16) (h : Wakes s q) (p : Nat) : Wakes (wakePort s p) q := by
  obtain ⟨-, -, hvhtr, -⟩ := (wakePort_changes s p).same .supplies rfl
  have henabled : portEnabled (wakePort s p) q = portEnabled s q := by
    unfold portEnabled
    rw [(wakePort_offPort s p).get _ _ ⟨?_, not_startPage (by omega) (by decide)⟩]
    by_cases hqp : q = p
    · exact hqp ▸ not_portOwn_map hq (by decide)
    · exact not_portOwn_of_ne hq hqp (by decide)
  refine ⟨h.step.trans (wakePort_onward s p).step, henabled.trans h.enabled, hvhtr.trans h.vhtr, (wakePort_laser s p q).trans h.laser, ?_⟩
  by_cases hqp : q = p
  · exact .inr (hqp ▸ portState_wakePort hq h)
  · rw [portState_of_offPort (wakePort_offPort s p) hq hqp]
    exact h.state

/-- The ports whose laser is present are noted. -/
def lasersNoted (laser : List Nat) (s : State) : State :=
  (List.range 16).foldl (fun s p => putPort s p { (getPort s p) with laser := laser.contains p }) s

theorem lasersNoted_laser {s : State} (laser : List Nat) (h : s.ports.length = 16) {q : Nat} (hq : q < 16) :
    (getPort (lasersNoted laser s) q).laser = laser.contains q :=
  foldl_ports (f := fun s p => putPort s p { (getPort s p) with laser := laser.contains p }) (I := fun t => t.ports.length = 16)
    (P := fun t => (getPort t q).laser = laser.contains q) (fun _ _ ht => (List.length_set ..).trans ht)
    (fun t ht => by rw [getPort_putPort (by omega)]) (fun _ _ hne _ ht => by rw [getPort_putPort_ne _ _ hne]; exact ht) _ s h (.inl (List.mem_range.mpr hq))

theorem lasersNoted_changes (laser : List Nat) (s : State) : Changes [.ports] s (lasersNoted laser s) :=
  Changes.foldl _ .refl fun s p => putPort_changes s p _

theorem portState_of_steps {s t : State} (h : StepOnly s t) {p : Nat} (hp : p < 16) : portState t p = portState s p :=
  h.keeps.get _ _ (not_startPage (by omega) (by decide))

/-- Step 8 takes in the lasers and wakes the ports that have light (R510). -/
theorem opticalStart_wakes {s : State} (laser : List Nat) (hs : s.Sound) (hstep : startStep s = 8) (hvhtr : s.vhtr = true) :
    ∃ t, exec (.opticalStart laser) s = .next t ∧ 8 ≤ startStep t ∧ ∀ p, p < 16 → (getPort t p).laser = laser.contains p ∧
      (p ∈ laser → portState s p = 0 → portEnabled s p = true → portState t p = 1) := by
  have hready : (startStep s = 8 && s.vhtr) = true := by simp [hstep, hvhtr]
  have hnoted := lasersNoted_changes laser s
  have hod : ∀ i n, odGet (lasersNoted laser s) i n = odGet s i n := fun i n => (OdKeeps.of_changes (P := fun _ => True) hnoted).get i n trivial
  obtain ⟨-, -, hsupply, -⟩ := hnoted.same .supplies rfl
  have hlaser := fun q => lasersNoted_laser laser hs.ports (q := q)
  refine ⟨progress ((List.range 16).foldl wakePort (lasersNoted laser s)), congrArg Host.Outcome.next (if_pos hready), ?_, fun p hp => ⟨?_, ?_⟩⟩
  · have hbegun : startStep (lasersNoted laser s) = 8 := (hod _ _).trans hstep
    exact hbegun ▸ ((Onward.foldl wakePort_onward _ _).trans (progress_stepOnly _).onward).step
  · rw [getPort_congr (progress_stepOnly _).ports, foldl_keeps (g := fun t => (getPort t p).laser) (fun s q => wakePort_laser s q p)]
    exact hlaser p hp
  · intro hmem hdark henabled
    rw [portState_of_steps (progress_stepOnly _) hp]
    have hwakes : Wakes (lasersNoted laser s) p :=
      ⟨((hod _ _).trans hstep).ge, by unfold portEnabled; rw [hod]; exact henabled, hsupply.trans hvhtr, by rw [hlaser p hp]; simpa using hmem,
        .inl ((hod _ _).trans hdark)⟩
    exact foldl_ports (I := fun t => Wakes t p) (P := fun t => portState t p = 1) (fun _ q h => h.step_of hp q) (fun _ h => portState_wakePort hp h)
      (fun t q hne _ h => (portState_of_offPort (wakePort_offPort t q) hp hne).trans h) _ _ hwakes (.inl (List.mem_range.mpr hp))

/-! ### The laser wait (R511) -/

/-- The lanes of a port are counted from its rings and its lane maps alone. -/
theorem enoughLanes_congr {s t : State} {p : Nat} (hport : getPort t p = getPort s p)
    (hmap : ∀ n, n = 0x0A ∨ n = 0x0B → odGet t (0x5200 + p) n = odGet s (0x5200 + p) n) :
    enoughLanes t p = enoughLanes s p := by
  have hrole : ∀ tx slot, slotRole t p tx slot = slotRole s p tx slot := fun tx slot => by
    unfold slotRole mapByte
    rw [hmap _ (by cases tx <;> simp [mapSub])]
  have husable : ∀ tx, slotUsable t p tx = slotUsable s p tx := fun tx => by
    funext slot
    unfold slotUsable getRing farStatus
    rw [hrole, hport]
  unfold enoughLanes usableLanes
  rw [husable, husable]

theorem isolate_offPort (s : State) (p detail : Nat) : OffPort p s (isolate s p detail) := by
  have hfiled := fun t : State => OffLog.offPort (p := p) ((snagSet_offLog t (112 + p)).trans (fileCode_offLog _ 0x8031 (portUnit p) detail))
  unfold isolate
  dsimp only
  exact ((setPortState_offPort s p 4 0x8031).trans (hfiled _)).trans (.of_changes (putPort_changes _ p _))

theorem isolate_onward (s : State) (p detail : Nat) : Onward s (isolate s p detail) := by
  unfold isolate
  dsimp only
  exact ((setPortState_onward s p 4 0x8031).trans (.of_offLog ((snagSet_offLog _ _).trans (fileCode_offLog _ _ _ _)))).trans
    (.of_offLog (.of_changes (putPort_changes _ p _)))

theorem portState_isolate (s : State) {p : Nat} (hp : p < 16) (detail : Nat) : portState (isolate s p detail) p = 4 := by
  have hlog : ¬ logKey (odKey (0x5200 + p) 0x01) := not_logKey (by omega) (by decide)
  unfold isolate portState
  dsimp only
  rw [(OdKeeps.of_changes (P := fun _ => True) (putPort_changes _ p _)).get _ _ trivial, (fileCode_offLog _ _ _ _).get _ _ hlog,
    (snagSet_offLog _ _).get _ _ hlog]
  exact portState_setPortState s hp 4 0x8031

/-- A port that is isolated from TRAINING leaves the rings of every other port. -/
theorem getPort_isolate_ne {s : State} {p q : Nat} (h : portState s p ≠ 3) (hne : q ≠ p) (detail : Nat) : getPort (isolate s p detail) q = getPort s q := by
  unfold isolate
  dsimp only
  rw [getPort_putPort_ne _ _ hne]
  refine getPort_congr ?_ q
  rw [((fileCode_changes _ _ _ _).same .ports rfl).1, ((snagSet_changes _ _).same .ports rfl).1, setPortState_ports h]

theorem leaveTraining_offPort (s : State) (p : Nat) : OffPort p s (leaveTraining s p) := by
  unfold leaveTraining
  split
  · exact isolate_offPort s p 0
  · exact .refl s

theorem leaveTraining_onward (s : State) (p : Nat) : Onward s (leaveTraining s p) := by
  unfold leaveTraining
  split
  · exact isolate_onward s p 0
  · exact .refl s

/-- A port that trains with too few lanes, or has been left ISOLATED. -/
def tooFew (s : State) (q : Nat) : Prop := portState s q = 1 ∧ enoughLanes s q = false ∨ portState s q = 4

theorem portState_leaveTraining {s : State} {q : Nat} (hq : q < 16) (h : tooFew s q) : portState (leaveTraining s q) q = 4 := by
  unfold leaveTraining
  rcases h with ⟨htraining, hfew⟩ | hisolated
  · rw [if_pos (by simp [htraining, hfew])]
    exact portState_isolate s hq 0
  · rw [if_neg (by simp [hisolated])]
    exact hisolated

theorem enoughLanes_leaveTraining {s : State} {p q : Nat} (hq : q < 16) (hne : q ≠ p) : enoughLanes (leaveTraining s p) q = enoughLanes s q := by
  have hmap : ∀ n, n = 0x0A ∨ n = 0x0B → odGet (leaveTraining s p) (0x5200 + q) n = odGet s (0x5200 + q) n := fun n hn =>
    (leaveTraining_offPort s p).get _ _ ⟨not_portOwn_of_ne hq hne (by omega), not_startPage (by omega) (by omega)⟩
  refine enoughLanes_congr ?_ hmap
  unfold leaveTraining
  split
  · next htraining =>
    rw [Bool.and_eq_true, decide_eq_true_eq] at htraining
    exact getPort_isolate_ne (by omega) hne 0
  · rfl

theorem tooFew_leaveTraining {s : State} {q : Nat} (hq : q < 16) (p : Nat) (h : tooFew s q) : tooFew (leaveTraining s p) q := by
  by_cases hqp : q = p
  · exact .inr (hqp ▸ portState_leaveTraining hq h)
  · unfold tooFew
    rw [portState_of_offPort (leaveTraining_offPort s p) hq hqp, enoughLanes_leaveTraining hq hqp]
    exact h

/-- The laser wait ends step 8 at the latest, and leaves ISOLATED the ports that train with too few lanes (R510, R511). -/
theorem laserWaitExpiry_ends {s : State} (hstep : startStep s = 8) (hvhtr : s.vhtr = true)
    (hpast : s.stepAt + odGet s 0x1100 0x07 * 100000000 ≤ s.uptime) : ∃ t, exec .laserWaitExpiry s = .next t ∧ 9 ≤ startStep t ∧
      ∀ p, p < 16 → portState s p = 1 → enoughLanes s p = false → portState t p = 4 := by
  have hready : (startStep s = 8 && s.vhtr && s.stepAt + odGet s 0x1100 0x07 * 100000000 ≤ s.uptime) = true := by simp [hstep, hvhtr, hpast]
  refine ⟨laserWaitOver s, congrArg Host.Outcome.next (if_pos hready), ?_⟩
  have honward := (Onward.foldl leaveTraining_onward (List.range 16) s).step
  have hisolated : ∀ p, p < 16 → portState s p = 1 → enoughLanes s p = false → portState ((List.range 16).foldl leaveTraining s) p = 4 :=
    fun p hp htraining hfew => foldl_ports (I := fun t => tooFew t p) (P := fun t => portState t p = 4) (fun _ q h => tooFew_leaveTraining hp q h)
      (fun _ h => portState_leaveTraining hp h) (fun t q hne _ h => (portState_of_offPort (leaveTraining_offPort t q) hp hne).trans h) _ s
      (.inl ⟨htraining, hfew⟩) (.inl (List.mem_range.mpr hp))
  unfold laserWaitOver
  dsimp only
  generalize (List.range 16).foldl leaveTraining s = x at *
  split
  · next height =>
    have hended := (endStep8_stepOnly height).trans (progress_stepOnly _)
    have hnine : startStep (endStep8 x) = 9 := enterStep_startStep _ 9 none
    exact ⟨hnine ▸ (progress_stepOnly (endStep8 x)).onward.step, fun p hp ht hf => (portState_of_steps hended hp).trans (hisolated p hp ht hf)⟩
  · exact ⟨by omega, hisolated⟩

end Sys2Proof.Machine
end

section
/-! PROOFS. The supplies that become good, and the first steps of a start: the fuses and the ROM (R409, R505, R510, R513, R529), for O60. -/

set_option Elab.async false

namespace Sys2Proof.Machine

/-! ### VBULK (R529) -/

/-- A cause that clears: its bit is gone, and nothing else of the dictionary off the recorder's pages, nor a waiting request. -/
structure CauseCleared (s t : State) (b : Nat) : Prop where
  bit : bitOf (causes t) b = false
  keeps : OdKeeps (fun k => k ≠ odKey 0x2100 0x05 ∧ ¬ logKey k) s t
  notified : Notified s t

theorem clearCause_cleared (s : State) (b : Nat) : CauseCleared s (clearCause s b) b := by
  by_cases h : bitOf (causes s) b = true
  · have hchange := stateChange_keeps s pkgUnit 0x2100 0x05 (withBit (causes s) b false) 0 0
    have hnotified := stateChange_notified s pkgUnit 0x2100 0x05 (withBit (causes s) b false) 0 0
    have hcauses : causes (stateChange s pkgUnit 0x2100 0x05 (withBit (causes s) b false) 0 0) = withBit (causes s) b false :=
      odGet_stateChange s _ _ _ _ _ _ (not_logKey (by decide) (by decide))
    rw [clearCause_eq s b h]
    generalize stateChange s pkgUnit 0x2100 0x05 (withBit (causes s) b false) 0 0 = y at *
    have hbit : bitOf (causes y) b = false := hcauses ▸ bitOf_withBit_clear _ b
    split
    · exact ⟨hbit, hchange, hnotified⟩
    · obtain ⟨w, hw⟩ := foldl_releaseStretch_stretches dies { y with releasing := true, emergAt := y.uptime } 5
      rw [hw]
      exact ⟨hbit, hchange.trans .of_od, hnotified.trans ⟨rfl, rfl, rfl, rfl, rfl, rfl⟩⟩
  · have hclear : (!bitOf (odGet s 0x2100 0x05) b) = true := by simpa [causes] using h
    have hsame : clearCause s b = s := if_pos hclear
    rw [hsame]
    exact ⟨Bool.eq_false_iff.mpr h, .refl s, .refl s⟩

theorem CauseCleared.get {s t : State} {b i n : Nat} (h : CauseCleared s t b) (hi : i ≠ 0x2100 ∧ i ≠ 0x7000 ∧ i ≠ 0x7100 ∧ i ≠ 0x7A00) (hn : n < 256) :
    odGet t i n = odGet s i n := h.keeps.get i n ⟨odKey_ne hn (by decide) (by omega), not_logKey (by omega) hn⟩

theorem supplyCause_of_keeps {P : Nat → Prop} {s t : State} (h : OdKeeps P s t) (hp : P (odKey 0x2100 0x05)) (hs : bitOf (causes s) 3 = false) :
    bitOf (odGet t 0x2100 0x05) 3 = false := (h.get 0x2100 0x05 hp).symm ▸ hs

/-- VBULK counts as good: SUPPLY has cleared, and a sequence that waited for it is in step 3. -/
theorem vbulkGood_good {s : State} (hw : s.waitingReqs = []) : serveHeld (vbulkGood s) = vbulkGood s ∧ (vbulkGood s).vbulk = true ∧
    bitOf (odGet (vbulkGood s) 0x2100 0x05) 3 = false ∧
    (startStep s = 0 → s.romRuns = true → s.vbulkLost = false → odGet s 0x1100 0x02 = 6 → startStep (vbulkGood s) = 3) := by
  have hcleared := clearCause_cleared { s with vbulk := true } 3
  obtain ⟨hvbulk, -⟩ := (clearCause_changes { s with vbulk := true } 3).same .supplies rfl
  obtain ⟨-, -, -, hrom, -, -, -, -, -, hlost⟩ := (clearCause_changes { s with vbulk := true } 3).same .firmware rfl
  have hstep : startStep (clearCause { s with vbulk := true } 3) = startStep s := hcleared.get (by decide) (by decide)
  have hreason : odGet (clearCause { s with vbulk := true } 3) 0x1100 0x02 = odGet s 0x1100 0x02 := hcleared.get (by decide) (by decide)
  have hwaiting : (clearCause { s with vbulk := true } 3).waitingReqs = [] := hcleared.notified.waitingReqs.trans hw
  unfold vbulkGood
  dsimp only
  generalize clearCause { s with vbulk := true } 3 = x at *
  split
  · obtain ⟨hsupply, -⟩ := (enterStep_changes x 3 none).same .supplies rfl
    obtain ⟨-, -, -, -, hreqs, -⟩ := (enterStep_changes x 3 none).same .access rfl
    exact ⟨serveHeld_idle (hreqs.trans hwaiting), hsupply.trans hvbulk,
      supplyCause_of_keeps (enterStep_keeps x 3 none) (not_startPage (by decide) (by decide)) hcleared.bit, fun _ _ _ _ => enterStep_startStep x 3 none⟩
  · next hstays =>
    refine ⟨serveHeld_idle hwaiting, hvbulk, hcleared.bit, fun h0 hr hl hsix => absurd ?_ hstays⟩
    simp [hstep, hreason, hrom, hlost, h0, hr, hl, hsix]

theorem supplyGood_vbulk {s : State} (hw : s.waitingReqs = []) (h : s.vbulk = false) : ∃ t, exec (.supplyGood 0) s = .next t ∧ t.vbulk = true ∧
    bitOf (odGet t 0x2100 0x05) 3 = false ∧
    (startStep s = 0 → s.romRuns = true → s.vbulkLost = false → odGet s 0x1100 0x02 = 6 → startStep t = 3) := by
  obtain ⟨hserve, hgood⟩ := vbulkGood_good hw
  have hrow : exec (.supplyGood 0) s = .next (if s.vbulk then clearCause s 3 else serveHeld (vbulkGood s)) := rfl
  rw [h, if_neg Bool.false_ne_true, hserve] at hrow
  exact ⟨_, hrow, hgood⟩

theorem supplyGood_again {s : State} (h : s.vbulk = true) :
    ∃ t, exec (.supplyGood 0) s = .next t ∧ t.vbulk = true ∧ bitOf (odGet t 0x2100 0x05) 3 = false := by
  obtain ⟨hvbulk, -⟩ := (clearCause_changes s 3).same .supplies rfl
  exact ⟨_, congrArg Host.Outcome.next (if_pos h), hvbulk.trans h, (clearCause_cleared s 3).bit⟩

/-! ### VAUX and VHTR (R510, R529) -/

theorem supplyGood_vaux {s : State} (h : s.vaux = false) : ∃ t, exec (.supplyGood 1) s = .next t ∧ t.vaux = true ∧ t.uptime = 0 :=
  ⟨_, congrArg Host.Outcome.next (if_neg (by rw [h]; exact Bool.false_ne_true)), rfl, rfl⟩

theorem supplyGood_vhtr {s : State} (h : s.vhtr = false) : ∃ t, exec (.supplyGood 2) s = .next t ∧ t.vhtr = true := by
  refine ⟨vhtrGood s, congrArg Host.Outcome.next (if_neg (by rw [h]; exact Bool.false_ne_true)), ?_⟩
  unfold vhtrGood
  dsimp only
  obtain ⟨-, -, hprogress, -⟩ := (progress_changes _).same .supplies rfl
  obtain ⟨-, -, hwoken, -⟩ := (Changes.foldl (List.range 16) (.refl (s := { s with
    vhtr := true, stepAt := if startStep s = 8 then s.uptime else s.stepAt })) wakePort_changes).same .supplies rfl
  exact hprogress.trans hwoken

/-! ### The resume (R513) -/

/-- What a resume finds before it enters step 3: SUPPLY cleared, the resume counted and recorded, the adders in service. -/
def resumed (s : State) : State :=
  let x := clearCause { s with vbulk := true, vbulkLost := false } 3
  addersBack (addRecord (odBump x 0x1100 0x06 1) ⟨0, 4, pkgUnit, 0, 0, 1, x.nextSeq, none⟩)

theorem addersBack_keeps (s : State) : OdKeeps (fun k => k < 0x520000) s (addersBack s) :=
  OdKeeps.foldl (fun s p => .set s 1 (by unfold odKey; omega)) _ s

theorem resumed_changes (s : State) :
    Changes [.draws, .od, .power, .recorder, .access, .output] { s with vbulk := true, vbulkLost := false } (resumed s) := by
  unfold resumed
  dsimp only
  exact (((clearCause_changes _ 3).trans ((odBump_changes _ _ _ _).mono rfl)).trans ((addRecord_changes _ _).mono rfl)).trans ((addersBack_changes _).mono rfl)

theorem resumed_cleared (s : State) : bitOf (odGet (resumed s) 0x2100 0x05) 3 = false := by
  have hcleared := clearCause_cleared { s with vbulk := true, vbulkLost := false } 3
  unfold resumed
  dsimp only
  generalize clearCause { s with vbulk := true, vbulkLost := false } 3 = x at *
  have hcounted := (odBump_keeps x 0x1100 0x06 1).get 0x2100 0x05 ⟨by decide, not_logKey (by decide) (by decide)⟩
  rw [(addersBack_keeps _).get 0x2100 0x05 (by decide), (addRecord_offLog _ _).get 0x2100 0x05 (not_logKey (by decide) (by decide)), hcounted]
  exact hcleared.bit

theorem resumed_notified (s : State) : Notified s (resumed s) := by
  have hcleared := (clearCause_cleared { s with vbulk := true, vbulkLost := false } 3).notified
  have hset : Notified s { s with vbulk := true, vbulkLost := false } := ⟨rfl, rfl, rfl, rfl, rfl, rfl⟩
  unfold resumed
  dsimp only
  exact ((hset.trans hcleared).trans ((odBump_notified _ _ _ _).trans (addRecord_notified _ _))).trans (.of_changes (addersBack_changes _))

theorem vbulkResume_resumes {s : State} (hw : s.waitingReqs = []) (hrom : s.romRuns = true) (hlost : s.vbulkLost = true) (hstep : startStep s = 0) :
    ∃ t, exec .vbulkResume s = .next t ∧ t.vbulk = true ∧ t.vbulkLost = false ∧ startStep t = 3 ∧ bitOf (odGet t 0x2100 0x05) 3 = false := by
  have hready : (s.romRuns && s.vbulkLost && decide (startStep s = 0)) = true := by simp [hrom, hlost, hstep]
  obtain ⟨-, -, -, -, hreqs, -⟩ := (enterStep_changes (resumed s) 3 none).same .access rfl
  have hserve : serveHeld (enterStep (resumed s) 3 none) = enterStep (resumed s) 3 none :=
    serveHeld_idle (hreqs.trans ((resumed_notified s).waitingReqs.trans hw))
  have hrow : exec .vbulkResume s = .next (if s.romRuns && s.vbulkLost && startStep s = 0 then serveHeld (enterStep (resumed s) 3 none) else s) := rfl
  rw [if_pos hready, hserve] at hrow
  obtain ⟨hvbulk, -⟩ := (resumed_changes s).same .supplies rfl
  obtain ⟨-, -, -, -, -, -, -, -, -, hclear⟩ := (resumed_changes s).same .firmware rfl
  obtain ⟨hsupply, -⟩ := (enterStep_changes (resumed s) 3 none).same .supplies rfl
  exact ⟨_, hrow, hsupply.trans hvbulk, (enterStep_vbulkLost _ _ _).trans hclear, enterStep_startStep _ _ _,
    supplyCause_of_keeps (enterStep_keeps _ 3 none) (not_startPage (by decide) (by decide)) (resumed_cleared s)⟩

/-! ### Steps 1 and 2 (R505, R510) -/

/-- The AON island is up, with RPOS sampled and the recorder's next number (R450, R510). -/
def islandUp (rpos : Nat) (s : State) : State :=
  { s with clk25 := true, aonUp := true, rposLatched := rpos, nextSeq := startSeq s, stepAt := s.uptime }

/-- The start is counted and recorded (R528). -/
def startRecorded (s : State) : State := addRecord (odBump s 0x1100 0x05 1) ⟨0, 4, pkgUnit, 0, 0, 0, (odBump s 0x1100 0x05 1).nextSeq, none⟩

/-- The snags of the flush of the last power-fail (R432). -/
def flushTold (ran failed : Bool) (s : State) : State :=
  let s1 := if ran then snagSet s 6 else s
  if failed then snagSet s1 7 else s1

/-- The flush has been told of. -/
def flushTaken (s : State) : State := odSet { s with flushRan := false, flushFailed := false } 0x1100 0x03 0

/-- What step 1 has noted by the time the fuses' result shows; EMERG_N counts as it stands. -/
def fusesNoted (rpos : Nat) (s : State) : State :=
  let s1 := if odGet s 0x1100 0x05 = 0 then loadFuses s else s
  let s6 := flushTaken (flushTold s.flushRan s.flushFailed (startRecorded (islandUp rpos s1)))
  if s.emergNLow then raiseCause s6 0 else s6

/-- What the notes of step 1 may touch. -/
abbrev noteKinds : List Kind := [.draws, .od, .power, .recorder, .access, .output]

theorem startRecorded_changes (s : State) : Changes noteKinds s (startRecorded s) :=
  ((odBump_changes s 0x1100 0x05 1).mono rfl).trans ((addRecord_changes _ _).mono rfl)

theorem flushTold_changes (ran failed : Bool) (s : State) : Changes noteKinds s (flushTold ran failed s) := by
  have hsnag := fun (t : State) b => (snagSet_changes t b).mono (K := noteKinds) rfl
  unfold flushTold
  cases ran <;> cases failed
  · exact .refl
  · exact hsnag s 7
  · exact hsnag s 6
  · exact (hsnag s 6).trans (hsnag _ 7)

theorem flushTaken_changes (s : State) : Changes noteKinds s (flushTaken s) := by
  unfold flushTaken
  exact Changes.step (odSet_changes _ 0x1100 0x03 0) rfl (Changes.update .refl)

theorem fusesNoted_changes (rpos : Nat) (s : State) :
    Changes noteKinds (islandUp rpos (if odGet s 0x1100 0x05 = 0 then loadFuses s else s)) (fusesNoted rpos s) := by
  unfold fusesNoted
  dsimp only
  generalize islandUp rpos (if odGet s 0x1100 0x05 = 0 then loadFuses s else s) = x
  have hnoted := ((startRecorded_changes x).trans (flushTold_changes s.flushRan s.flushFailed _)).trans (flushTaken_changes _)
  split
  · exact hnoted.trans ((raiseCause_changes _ 0).mono rfl)
  · exact hnoted

theorem fuseLoad_of_ready {s : State} {result rpos : Nat} (hvaux : s.vaux = true) (hstep : startStep s = 0) (hrom : s.romRuns = false)
    (hresult : result < 3) (hrpos : rpos < 16) : exec (.fuseLoad result rpos) s = .next
      (if result = 2 then fuseStop (odSet (fusesNoted rpos s) 0x8100 0x08 result)
      else enterStep (odSet (odSet (fusesNoted rpos s) 0x8100 0x08 result) 0x1100 0x01 1) 2 none) :=
  congrArg Host.Outcome.next (if_pos (by simp [hvaux, hstep, hrom, hresult, hrpos]))

theorem fuseStop_stops (s : State) : startStep (fuseStop s) = 0 ∧ odGet (fuseStop s) 0x1100 0x02 = 1 ∧ (fuseStop s).romRuns = true :=
  ⟨stopStart_startStep _ _, stopStart_reason _ _, rfl⟩

theorem fuseStop_keeps (s : State) : OdKeeps (fun k => k ≠ odKey 0x6800 0x01 ∧ ¬ startPage k) s (fuseStop s) := by
  have hrom : OdKeeps (fun k => k ≠ odKey 0x6800 0x01 ∧ ¬ startPage k) s (odSet { s with romRuns := true } 0x6800 0x01 1) :=
    (OdKeeps.of_od (t := { s with romRuns := true })).trans (.set _ 1 fun hk => hk.1 rfl)
  exact hrom.trans ((stopStart_keeps _ 1).mono fun _ hk => hk.2)

/-- Step 1 reads the fuses; a failure stops the start with the ROM left to answer (R505, R510). -/
theorem fuseLoad_reads {s : State} {result rpos : Nat} (hvaux : s.vaux = true) (hstep : startStep s = 0) (hrom : s.romRuns = false)
    (hresult : result < 3) (hrpos : rpos < 16) : ∃ t, exec (.fuseLoad result rpos) s = .next t ∧ t.clk25 = true ∧ t.aonUp = true ∧
      t.rposLatched = rpos ∧ odGet t 0x8100 0x08 = result ∧ startStep t = (if result = 2 then 0 else 2) ∧
      (result = 2 → t.romRuns = true ∧ odGet t 0x1100 0x02 = 1) := by
  refine ⟨_, fuseLoad_of_ready hvaux hstep hrom hresult hrpos, ?_⟩
  obtain ⟨-, -, -, hclk, haon⟩ := (fusesNoted_changes rpos s).same .supplies rfl
  obtain ⟨-, -, -, -, -, -, -, hlatched, -⟩ := (fusesNoted_changes rpos s).same .firmware rfl
  have hread : odGet (odSet (fusesNoted rpos s) 0x8100 0x08 result) 0x8100 0x08 = result := odGet_odSet _ _ _ _
  generalize fusesNoted rpos s = x at *
  split
  · obtain ⟨hstop, hreason, hruns⟩ := fuseStop_stops (odSet x 0x8100 0x08 result)
    exact ⟨hclk, haon, hlatched, ((fuseStop_keeps _).get 0x8100 0x08 ⟨by decide, not_startPage (by decide) (by decide)⟩).trans hread, hstop,
      fun _ => ⟨hruns, hreason⟩⟩
  · next hne =>
    obtain ⟨-, -, -, hclk2, haon2⟩ := (enterStep_changes (odSet (odSet x 0x8100 0x08 result) 0x1100 0x01 1) 2 none).same .supplies rfl
    refine ⟨hclk2.trans hclk, haon2.trans haon, (enterStep_rposLatched _ _ _).trans hlatched, ?_, enterStep_startStep _ _ _, fun h => absurd h hne⟩
    rw [(enterStep_keeps _ 2 none).get 0x8100 0x08 (not_startPage (by decide) (by decide)), odGet_odSet_ne _ _ (by decide)]
    exact hread

/-- The ROM runs from step 2 on; step 3 waits for VBULK (R510). -/
theorem bootRomStart_runs {s : State} (h : startStep s = 2) : ∃ t, exec .bootRomStart s = .next t ∧ t.romRuns = true ∧ odGet t 0x6800 0x01 = 1 ∧
    startStep t = (if s.vbulk then 3 else 0) ∧ (s.vbulk = false → odGet t 0x1100 0x02 = 6) := by
  have hrow : exec .bootRomStart s = .next (if s.vbulk then enterStep (odSet { s with romRuns := true } 0x6800 0x01 1) 3 none
    else stopStart (odSet { s with romRuns := true } 0x6800 0x01 1) 6) := congrArg Host.Outcome.next (if_pos h)
  have hanswers : odGet (odSet { s with romRuns := true } 0x6800 0x01 1) 0x6800 0x01 = 1 := odGet_odSet _ _ _ _
  have hruns : (odSet { s with romRuns := true } 0x6800 0x01 1).romRuns = true := rfl
  refine ⟨_, hrow, ?_⟩
  generalize odSet { s with romRuns := true } 0x6800 0x01 1 = x at *
  cases hv : s.vbulk
  · exact ⟨hruns, ((stopStart_keeps x 6).get _ _ (not_startPage (by decide) (by decide))).trans hanswers, stopStart_startStep x 6,
      fun _ => stopStart_reason x 6⟩
  · exact ⟨(enterStep_romRuns x 3 none).trans hruns, ((enterStep_keeps x 3 none).get _ _ (not_startPage (by decide) (by decide))).trans hanswers,
      enterStep_startStep x 3 none, nofun⟩

end Sys2Proof.Machine
end

section
/-! PROOFS. Steps 5 to 7 of a start: the stacks, the die links and the cores (R262, R263, R285, R510, R512), for O60. -/

set_option Elab.async false

namespace Sys2Proof.Machine

/-- A range that a store has dropped holds nothing. -/
theorem Store.get_dropRange {α : Type} {d : α} (m : Store α) {lo hi k : Nat} (hlo : lo ≤ k) (hhi : k < hi) :
    Store.get d (Store.dropRange m lo hi) k = d := by
  refine (Store.get_eq_or_mem (Store.dropRange m lo hi) k).resolve_right fun hmem => ?_
  have hkept := (List.mem_filter.mp hmem).2
  simp only [Bool.or_eq_true, decide_eq_true_eq] at hkept
  omega

/-! ### Step 5: the stacks (R262, R263) -/

/-- The stacks at their start, before any retirement: zeros, and the repairs counted. -/
def stacksZeroed (s : State) : State := (List.range 24).foldl (fun s st => odSet s (0x4100 + st) 0x06 (wrap 16 (repairs s st))) (zeroStacks s)

theorem hbm4Training_eq {s : State} (failed : List (Nat × Nat)) (ms : Nat) (h : startStep s = 5) : exec (.hbm4Training failed ms) s =
    .next (enterStep ((failed.filter (fun f => f.1 < 24 && f.2 < 32)).foldl failTraining
      ((s.flashRetired.take 2).foldl (startRetirement 0) (stacksZeroed s))) 6 (some ms)) := congrArg Host.Outcome.next (if_pos h)

theorem stacksZeroed_changes (s : State) : Changes [.od] (zeroStacks s) (stacksZeroed s) := Changes.foldl _ .refl fun s _ => odSet_changes s _ _ _

theorem zeroStacks_fields (s : State) : (zeroStacks s).mem = Store.dropRange s.mem 0 stackTop ∧ (zeroStacks s).flashRetired = s.flashRetired ∧
    (zeroStacks s).retirements = 0 := ⟨rfl, rfl, rfl⟩

theorem zeroStacks_keeps (s : State) : OdKeeps (fun k => ¬ interleaveKey k) s (zeroStacks s) := by
  have hset := fun (t : State) (n v : Nat) (hn : n < 256) => odSet_interleave_keeps t (n := n) v hn
  unfold zeroStacks
  dsimp only
  refine OdKeeps.trans ?_ (hset _ 0x04 _ (by decide))
  refine OdKeeps.trans ?_ (hset _ 0x03 _ (by decide))
  refine OdKeeps.trans ?_ (hset _ 0x02 _ (by decide))
  refine OdKeeps.trans ?_ (hset _ 0x01 _ (by decide))
  exact .of_od

theorem stackState_stacksZeroed (s : State) (st : Nat) : stackState (stacksZeroed s) st = stackState s st := by
  have hrepairs : OdKeeps (fun k => k % 256 ≠ 6) (zeroStacks s) (stacksZeroed s) :=
    OdKeeps.foldl (fun s i => .set s _ (by unfold odKey; omega)) _ _
  exact (hrepairs.get _ _ (by unfold odKey; omega)).trans ((zeroStacks_keeps s).get _ _ (stackKey_not_interleave (by decide)))

/-- The zeros stand through the retirements of the start, and through the failures that it finds. -/
theorem trained_mem (s : State) (l : List Nat) (failed : List (Nat × Nat)) :
    (failed.foldl failTraining (l.foldl (startRetirement 0) (stacksZeroed s))).mem = Store.dropRange s.mem 0 stackTop := by
  have hretired := (Changes.foldl l (.refl (s := stacksZeroed s)) (startRetirement_changes 0)).same .memory rfl
  have hfailed := (Changes.foldl failed (.refl (s := l.foldl (startRetirement 0) (stacksZeroed s))) failTraining_changes).same .memory rfl
  exact (hfailed.trans hretired).trans ((stacksZeroed_changes s).same .memory rfl)

/-- The overrides of the slots of a list at a start-up retirement. -/
def startOverrides (l : List Nat) (s : State) (st : Nat) : State :=
  l.foldl (overrideSlot st (s.retirements + 1) 0) { s with retirements := s.retirements + 1 }

/-- A start-up retirement, once its overrides are set. -/
def startRetired (code k st : Nat) (s : State) : State :=
  odSet (odSet (stateChange s (stackUnit st 0xFFF) (0x4100 + st) 0x01 2 code (if code = 0 then 0 else severityOf code)) 0x4000 0x02 k) 0x4000 0x01
    (capacity s - 0x1000000000)

theorem startRetirement_eq (code : Nat) (s : State) (st : Nat) :
    startRetirement code s st = startRetired code (s.retirements + 1) st (startOverrides (List.range 4096) s st) := rfl

theorem startOverrides_flash (l : List Nat) (s : State) (st : Nat) : (startOverrides l s st).flashRetired = s.flashRetired := by
  have hslot : ∀ (t : State) (j : Nat), (overrideSlot st (s.retirements + 1) 0 t j).flashRetired = t.flashRetired := fun t j => by
    unfold overrideSlot
    dsimp only
    split
    · rfl
    · split <;> rfl
  exact foldl_keeps (g := State.flashRetired) hslot l { s with retirements := s.retirements + 1 }

theorem startRetired_state (code k : Nat) (s : State) {st : Nat} (hst : st < 24) : stackState (startRetired code k st s) st = 2 := by
  unfold startRetired stackState
  rw [odGet_odSet_ne _ _ (odKey_ne (by decide) (by decide) (by omega)), odGet_odSet_ne _ _ (odKey_ne (by decide) (by decide) (by omega))]
  exact odGet_stateChange _ _ _ _ _ _ _ (stackKey_not_log hst (by decide))

theorem startRetired_flash (code k st : Nat) (s : State) : (startRetired code k st s).flashRetired = s.flashRetired := by
  obtain ⟨-, -, -, -, hkept, -⟩ :=
    (stateChange_changes s (stackUnit st 0xFFF) (0x4100 + st) 0x01 2 code (if code = 0 then 0 else severityOf code)).same .stacks rfl
  exact hkept

/-- A retirement at a start leaves its stack RETIRED, and what flash holds. -/
theorem startRetirement_retires (code : Nat) (s : State) {st : Nat} (hst : st < 24) : stackState (startRetirement code s st) st = 2 ∧
    (startRetirement code s st).flashRetired = s.flashRetired := by
  rw [startRetirement_eq]
  exact ⟨startRetired_state code _ _ hst, (startRetired_flash code _ st _).trans (startOverrides_flash _ s st)⟩

/-- A stack in service that fails its training, the first of its package, is RETIRED, and flash holds it. -/
theorem failTraining_retires {s : State} {st : Nat} (ch : Nat) (hst : st < 24) (hflash : s.flashRetired = []) (hnone : s.retirements = 0)
    (hserves : stackState s st ≠ 3) : stackState (failTraining s (st, ch)) st = 2 ∧ st ∈ (failTraining s (st, ch)).flashRetired := by
  have hlog := stackKey_not_log hst (n := 0x01) (by decide)
  have hmarked : ∀ v, stackState (odSet s (0x4100 + st) 0x04 v) st ≠ 3 := fun v => by
    unfold stackState
    rw [odGet_odSet_ne _ _ (by unfold odKey; omega)]
    exact hserves
  have hunmarked : ∀ v, (odSet s (0x4100 + st) 0x04 v).flashRetired = [] := fun _ => hflash
  have hfirst : ∀ v, (odSet s (0x4100 + st) 0x04 v).retirements = 0 := fun _ => hnone
  unfold failTraining
  dsimp only
  rw [if_neg (by simp [hunmarked, hmarked]), if_pos (by simp [hfirst])]
  generalize hx : ({ odSet s (0x4100 + st) 0x04 (odGet s (0x4100 + st) 0x04 ||| 2 ^ ch) with
    flashRetired := (odSet s (0x4100 + st) 0x04 (odGet s (0x4100 + st) 0x04 ||| 2 ^ ch)).flashRetired ++ [st] } : State) = x
  have hkept : st ∈ x.flashRetired := by rw [← hx]; exact List.mem_append_right _ List.mem_cons_self
  obtain ⟨hstate, hsame⟩ := startRetirement_retires 0x8011 x hst
  generalize startRetirement 0x8011 x st = y at *
  constructor
  · exact (((fileCode_offLog _ _ _ _).trans (snagSet_offLog _ _)).get _ _ hlog).trans hstate
  · obtain ⟨-, -, -, -, hfiled, -⟩ := (fileCode_changes y 0x8011 (stackUnit st ch) (y.retirements * 65536)).same .stacks rfl
    obtain ⟨-, -, -, -, hsnag, -⟩ := (snagSet_changes (fileCode y 0x8011 (stackUnit st ch) (y.retirements * 65536)) (56 + st)).same .stacks rfl
    rw [hsnag, hfiled, hsame]
    exact hkept

theorem hbm4Training_zeroes {s : State} (failed : List (Nat × Nat)) (ms : Nat) (h : startStep s = 5) :
    ∃ t, exec (.hbm4Training failed ms) s = .next t ∧ startStep t = 6 ∧ (∀ a, a < stackTop → memByte t a = 0) ∧
      ∀ st ch, failed = [(st, ch)] → s.flashRetired = [] → st < 24 → ch < 32 → stackState s st ≠ 3 → stackState t st = 2 ∧ st ∈ t.flashRetired := by
  refine ⟨_, hbm4Training_eq failed ms h, enterStep_startStep _ _ _, fun a ha => ?_, fun st ch hfailed hflash hst hch hserves => ?_⟩
  · unfold memByte
    rw [(enterStep_changes _ 6 (some ms)).same .memory rfl, trained_mem]
    exact Store.get_dropRange s.mem (Nat.zero_le a) ha
  · obtain ⟨-, hzeroFlash, hzeroCount⟩ := zeroStacks_fields s
    obtain ⟨-, -, -, hcount, hkept, -⟩ := (stacksZeroed_changes s).same .stacks rfl
    have hone : failed.filter (fun f => f.1 < 24 && f.2 < 32) = [(st, ch)] := by rw [hfailed]; simp [hst, hch]
    rw [hone, hflash, List.take_nil, List.foldl_nil, List.foldl_cons, List.foldl_nil]
    obtain ⟨hstate, hmem⟩ := failTraining_retires (s := stacksZeroed s) ch hst (hkept.trans (hzeroFlash.trans hflash)) (hcount.trans hzeroCount)
      (by rwa [stackState_stacksZeroed])
    generalize failTraining (stacksZeroed s) (st, ch) = x at *
    obtain ⟨-, -, -, -, hsame, -⟩ := (enterStep_changes x 6 (some ms)).same .stacks rfl
    exact ⟨((enterStep_keeps x 6 (some ms)).get _ _ (not_startPage (by omega) (by decide))).trans hstate, hsame ▸ hmem⟩

/-! ### Step 6: the die links (R277 to R285) -/

theorem issueSnoops_linkUp (s : State) (ranges : List (Nat × Nat)) : (issueSnoops s ranges).linkUp = s.linkUp := by
  unfold issueSnoops
  dsimp only
  exact ((odBump_changes _ _ _ _).same .link rfl).1

/-- A record that was held back is written, and the link, the channels and the commands are as they were. -/
theorem writeOrHold_quiet (s : State) (x : Nat × Nat × Nat) :
    (writeOrHold s x).linkUp = s.linkUp ∧ (writeOrHold s x).chans = s.chans ∧ (writeOrHold s x).cmds = s.cmds := by
  unfold writeOrHold
  dsimp only
  split
  · have hsnoops := issueSnoops_changes s [((recordSlot s (x.1 / 16) (x.1 % 16) x.2.1).2, 32)]
    exact ⟨issueSnoops_linkUp s _, hsnoops.same .channels rfl, (hsnoops.same .commands rfl).1⟩
  · have hrecord := writeRecord_changes s (x.1 / 16) (x.1 % 16) x.2.1 x.2.2 false
    exact ⟨(hrecord.same .link rfl).1, hrecord.same .channels rfl, (hrecord.same .commands rfl).1⟩

theorem linkDown_eq (s : State) : linkDown s = pumpChans (retryRecords (linkShut s)) := rfl

/-- With no channel and no command that is done, the link goes down whatever records were held. -/
theorem linkDown_down {s : State} (hchans : s.chans = []) (hdone : ∀ c ∈ s.cmds, c.stage ≠ .done) : (linkDown s).linkUp = false := by
  have hlink := foldl_keeps (g := State.linkUp) (fun t x => (writeOrHold_quiet t x).1) (linkShut s).heldRecords { linkShut s with heldRecords := [] }
  have hchan := foldl_keeps (g := State.chans) (fun t x => (writeOrHold_quiet t x).2.1) (linkShut s).heldRecords { linkShut s with heldRecords := [] }
  have hcmds := foldl_keeps (g := State.cmds) (fun t x => (writeOrHold_quiet t x).2.2) (linkShut s).heldRecords { linkShut s with heldRecords := [] }
  rw [linkDown_eq]
  unfold retryRecords
  dsimp only
  generalize (linkShut s).heldRecords.foldl writeOrHold { linkShut s with heldRecords := [] } = x at *
  have hnone : x.cmds.filter (fun c => c.stage == .done) = [] := by
    rw [hcmds, List.filter_eq_nil_iff]
    intro c hc
    simpa using hdone c hc
  rw [hnone, List.map_nil, List.foldl_nil]
  unfold pumpChans
  rw [show x.chans = [] from hchan.trans hchans, List.foldl_nil]
  exact hlink

theorem dieLinkTraining_trains {s : State} (failed : List (Nat × Nat × Nat)) (ms : Nat) (h : startStep s = 6) :
    (∃ t, exec (.dieLinkTraining failed true ms) s = .next t ∧ startStep t = 7 ∧ t.mem = s.mem) ∧
    ∃ t, exec (.dieLinkTraining failed false ms) s = .next t ∧ startStep t = 0 ∧ odGet t 0x1100 0x02 = 3 ∧
      (s.chans = [] → (∀ c ∈ s.cmds, c.stage ≠ .done) → t.linkUp = false) := by
  constructor
  · have hretried := (retryModules_changes { s with diesOut := [], sweepOut := [], retraining := [] }).same .memory rfl
    have hrow : exec (.dieLinkTraining failed true ms) s = .next (let s1 := retryModules { s with diesOut := [], sweepOut := [], retraining := [] }
      enterStep (dies.foldl (startRoles (dies.map (fun d => modules.map (fun m => (lanesOf s1 (modKey d m)).width)))) (failed.foldl trainLane s1)) 7 (some ms)) :=
      congrArg Host.Outcome.next (if_pos h)
    refine ⟨_, hrow, enterStep_startStep _ _ _, ?_⟩
    dsimp only
    generalize retryModules { s with diesOut := [], sweepOut := [], retraining := [] } = x at *
    have htrained := (Changes.foldl failed (.refl (s := x)) trainLane_changes).same .memory rfl
    generalize failed.foldl trainLane x = y at *
    have hroles := (Changes.foldl dies (.refl (s := y))
      (startRoles_changes (dies.map (fun d => modules.map (fun m => (lanesOf x (modKey d m)).width))))).same .memory rfl
    exact ((enterStep_changes _ 7 (some ms)).same .memory rfl).trans (hroles.trans (htrained.trans hretried))
  · exact ⟨stopStart (linkDown s) 3, congrArg Host.Outcome.next (if_pos h), stopStart_startStep _ _, stopStart_reason _ _,
      fun hchans hdone => linkDown_down hchans hdone⟩

/-! ### Step 7: the cores (R512) -/

theorem quickLogicSelfTest_clears {s : State} (failed : List Nat) (ms : Nat) (h : startStep s = 7) : ∃ t, exec (.quickLogicSelfTest failed ms) s = .next t ∧
    startStep t = 8 ∧ t.acc = [] ∧ ∀ a, scratchBase ≤ a → a < tallyWindow → memByte t a = 0 := by
  have hrow : exec (.quickLogicSelfTest failed ms) s = .next (enterStep (countCores { (dies.foldl (startCores failed)
    (clearCores { s with sweepOut := (failed.filter isSweep).foldl insertNat s.sweepOut })) with rescan := [] }) 8 (some ms)) :=
    congrArg Host.Outcome.next (if_pos h)
  refine ⟨_, hrow, enterStep_startStep _ _ _, ?_⟩
  generalize hx : clearCores { s with sweepOut := (failed.filter isSweep).foldl insertNat s.sweepOut } = x
  have hmem : x.mem = Store.dropRange s.mem scratchBase tallyWindow := by rw [← hx]; rfl
  have hacc : x.acc = [] := by rw [← hx]; rfl
  have hcores := Changes.foldl dies (.refl (s := x)) (startCores_changes failed)
  obtain ⟨hcoreAcc, -⟩ := hcores.same .accumulators rfl
  have hcoreMem := hcores.same .memory rfl
  generalize dies.foldl (startCores failed) x = y at *
  have hcount := countCores_changes { y with rescan := [] }
  generalize countCores { y with rescan := [] } = z at *
  have hstep := enterStep_changes z 8 (some ms)
  refine ⟨(hstep.same .accumulators rfl).1.trans ((hcount.same .accumulators rfl).1.trans (hcoreAcc.trans hacc)), fun a hlo hhi => ?_⟩
  have hkept : (enterStep z 8 (some ms)).mem = Store.dropRange s.mem scratchBase tallyWindow :=
    (hstep.same .memory rfl).trans ((hcount.same .memory rfl).trans (hcoreMem.trans hmem))
  unfold memByte
  rw [hkept]
  exact Store.get_dropRange s.mem hlo hhi

end Sys2Proof.Machine
end

section
/-! PROOFS. The power-fails: what the record of one, the reset of the VBULK islands and the cold reset leave (R409, R411, R449, R513, R517), and O60. -/

set_option Elab.async false

namespace Sys2Proof.Machine

/-! ### The record of a power-fail (R451, R528) -/

theorem enterHeld_offLog (s : State) : OffLog s (enterHeld s) := by
  have hheld : ∀ (l : List HeldEvent) (t : State), OffLog t (l.foldl (fun t e => ringPush t e.body) t) := fun l t => by
    refine OdKeeps.foldl ?_ l t
    intro u e
    exact .of_changes (ringPush_changes u e.body)
  have hlift : OffLog s { (odSet s 0x7A00 0x01 0) with dust := false, heldEvents := [], heldCount := 0 } :=
    (offLog_set s (i := 0x7A00) (n := 0x01) 0 (by decide) (by decide)).trans .of_od
  unfold enterHeld
  dsimp only
  split
  · exact hlift.trans (hheld _ _)
  · exact (hlift.trans (hheld _ _)).trans ((OdKeeps.of_changes (ringPush_changes _ _)).trans (snagSet_offLog _ 7))

theorem powerRecord_offLog (s : State) (unit detail : Nat) : OffLog s (powerRecord s unit detail) := by
  have hlift : OffLog s (liftDust s) := by
    unfold liftDust
    split
    · exact enterHeld_offLog s
    · exact .refl s
  exact hlift.trans (addRecord_offLog _ _)

/-! ### The reset of the VBULK islands (R411) -/

/-- The pages below those of power and of the units, the start-up's among them. -/
def lowPages (k : Nat) : Prop := k < 0x200000

theorem odSet_low (s : State) {i : Nat} (sub v : Nat) (h : 0x2000 ≤ i) : OdKeeps lowPages s (odSet s i sub v) :=
  .set s v fun hk => by unfold lowPages odKey at hk; omega

theorem Onward.of_low {s t : State} (h : OdKeeps lowPages s t) : Onward s t := .of_keeps h fun _ hn => by unfold lowPages odKey; omega

theorem qSet_low (s : State) (u q n v : Nat) : OdKeeps lowPages s (qSet s u q n v) :=
  odSet_low s _ v (by unfold queueIndex; split <;> omega)

theorem powerStop_low (s : State) (c : Nat) : OdKeeps lowPages s (powerStop s c) := by
  have hstate : OdKeeps lowPages s (stateChange s pkgUnit (0x9010 + c) 0x01 2 0 0) := (stateChange_keeps _ _ _ _ _ _ _).mono fun k hk => by
    unfold lowPages at hk
    unfold odKey logKey
    omega
  have hfetched : ∀ (t : State) u q, OdKeeps lowPages t (unfetch t u q) := fun t u q => by
    unfold unfetch
    split
    · exact (OdKeeps.of_od (t := { t with cmds := _ })).trans (qSet_low _ u q 4 _)
    · exact .refl t
  unfold powerStop
  refine hstate.trans (OdKeeps.foldl ?_ _ _)
  intro t x
  exact (hfetched t x.1 x.2).trans (qSet_low _ x.1 x.2 6 3)

theorem dropRun_low (s : State) (k : Chan) : OdKeeps lowPages s (dropRun s k) := by
  unfold dropRun
  exact ((OdKeeps.of_od (t := { s with chans := _ })).trans (odSet_low _ (i := 0x9100 + k.id) 0x01 0 (by omega))).trans
    (odSet_low _ (i := 0x9100 + k.id) 0x05 0 (by omega))

/-- No channel of a list that is dropped is left. -/
theorem mem_dropRuns {l : List Chan} {s : State} {x : Chan} (h : x ∈ (l.foldl dropRun s).chans) : x ∈ s.chans ∧ ∀ k ∈ l, x.id ≠ k.id := by
  induction l generalizing s with
  | nil => exact ⟨h, nofun⟩
  | cons k r ih =>
    obtain ⟨hmem, hrest⟩ := ih h
    obtain ⟨hkept, hid⟩ := List.mem_filter.mp (show x ∈ s.chans.filter (fun y => y.id != k.id) from hmem)
    exact ⟨hkept, fun y hy => (List.mem_cons.mp hy).elim (fun e => e ▸ bne_iff_ne.mp hid) (hrest y)⟩

theorem dropRuns_chans (s : State) : (s.chans.foldl dropRun s).chans = [] :=
  List.eq_nil_iff_forall_not_mem.mpr fun x hx => (mem_dropRuns hx).2 x (mem_dropRuns hx).1 rfl

theorem goDark_romRuns (s : State) (p : Nat) : (goDark s p).romRuns = s.romRuns := by
  have hentered : (portEntered s p 0 0).romRuns = s.romRuns := by
    have hdropped : (if portState s p = 3 then dropFlight s p else s).romRuns = s.romRuns := by
      split
      · exact ((dropFlight_changes s p).same .firmware rfl).2.2.2.1
      · rfl
    exact ((stateChange_changes _ _ _ _ _ _ _).same .firmware rfl).2.2.2.1.trans hdropped
  unfold goDark
  dsimp only
  rw [show ∀ (t : State) v, (putPort t p v).romRuns = t.romRuns from fun _ _ => rfl, setPortState_eq]
  split
  · rfl
  · exact (progress_stepOnly _).romRuns.trans hentered

theorem darkPorts_onward (s : State) : Onward s (darkPorts s) := by
  unfold darkPorts
  exact (Onward.foldl goDark_onward _ s).trans (.of_offLog .of_od)

theorem darkPorts_romRuns (s : State) : (darkPorts s).romRuns = s.romRuns := by
  unfold darkPorts
  dsimp only
  exact foldl_keeps (g := State.romRuns) goDark_romRuns _ s

/-- The work under way is gone, and the ports are dark. -/
def workDropped (s : State) : State := darkPorts (settleRetires (dropMemory (dropWork s)))

/-- The islands with no channel left, before their link goes down. -/
def bulkDropped (s : State) : State :=
  let x := ((List.range 16).filter (ctxEnabled s)).foldl powerStop s
  { dropBuffers (dropTests (workDropped (x.chans.foldl dropRun x))) with draining := [], heldRecords := [] }

theorem resetBulk_eq (s : State) : resetBulk s = resetHub (odSet (linkDown (bulkDropped s)) 0x6300 0x03 0) := rfl

/-- What the islands hold once their work is dropped, with the ROM and the place of the start as they were. -/
structure Dropped (s t : State) : Prop where
  chans : t.chans = []
  cmds : t.cmds = []
  mem : t.mem = []
  acc : t.acc = []
  romRuns : t.romRuns = s.romRuns
  onward : Onward s t

theorem workDropped_dropped {s : State} (h : s.chans = []) : Dropped s (workDropped s) := by
  generalize hx : settleRetires (dropMemory (dropWork s)) = x
  have hchans : x.chans = [] := by rw [← hx]; exact h
  have hcmds : x.cmds = [] := by rw [← hx]; rfl
  have hmem : x.mem = [] := by rw [← hx]; rfl
  have hacc : x.acc = [] := by rw [← hx]; rfl
  have hrom : x.romRuns = s.romRuns := by rw [← hx]; rfl
  have hod : x.od = s.od := by rw [← hx]; rfl
  have hdark := darkPorts_changes x
  unfold workDropped
  rw [hx]
  exact ⟨(hdark.same .channels rfl).trans hchans, (hdark.same .commands rfl).1.trans hcmds, (hdark.same .memory rfl).trans hmem,
    (hdark.same .accumulators rfl).1.trans hacc, (darkPorts_romRuns x).trans hrom, (Onward.of_offLog (.of_od hod)).trans (darkPorts_onward x)⟩

theorem dropTests_low (s : State) : OdKeeps lowPages s (dropTests s) := by
  have htest : OdKeeps lowPages s (endTest s) :=
    (OdKeeps.of_od (t := { s with testing := none, scanned := false })).trans (odSet_low _ (i := 0x7200) 0x02 _ (by decide))
  unfold dropTests
  exact (htest.trans .of_od).trans (odSet_low _ (i := 0x7200) 0x06 _ (by decide))

theorem bulkDropped_dropped (s : State) : Dropped s (bulkDropped s) := by
  unfold bulkDropped
  dsimp only
  generalize hx : ((List.range 16).filter (ctxEnabled s)).foldl powerStop s = x
  have hstopped : Onward s x := hx ▸ Onward.of_low (OdKeeps.foldl powerStop_low _ s)
  have hrom : x.romRuns = s.romRuns := by
    have hstops := Changes.foldl ((List.range 16).filter (ctxEnabled s)) (.refl (s := s)) powerStop_changes
    rw [hx] at hstops
    exact (hstops.same .firmware rfl).2.2.2.1
  have hruns := Changes.foldl x.chans (.refl (s := x)) dropRun_changes
  have hunbound : Onward x (x.chans.foldl dropRun x) := Onward.of_low (OdKeeps.foldl dropRun_low _ x)
  have hnone := dropRuns_chans x
  generalize x.chans.foldl dropRun x = y at *
  obtain ⟨hchans, hcmds, hmem, hacc, hwork, honward⟩ := workDropped_dropped hnone
  generalize workDropped y = z at *
  have htests := dropTests_changes z
  refine ⟨(htests.same .channels rfl).trans hchans, (htests.same .commands rfl).1.trans hcmds, (htests.same .memory rfl).trans hmem,
    (htests.same .accumulators rfl).1.trans hacc,
    (htests.same .firmware rfl).2.2.2.1.trans (hwork.trans ((hruns.same .firmware rfl).2.2.2.1.trans hrom)), ?_⟩
  exact ((hstopped.trans hunbound).trans honward).trans ((Onward.of_low (dropTests_low z)).trans (.of_offLog (.of_od rfl)))

/-- The buckets and prices of one die as at reset. -/
def resetDie (s : State) (d : Nat) : State :=
  odSet (odSet (odSet (setLevel s d 0) (0x2300 + d) 0x03 4096) (0x2300 + d) 0x0C 4096) (0x2300 + d) 0x0D 4096

/-- The HUB island as at reset, before its frequencies show. -/
def hubReset (s : State) : State :=
  { odSet (dies.foldl resetDie s) 0x2100 0x09 4096 with
    budgets := List.replicate 4 Budget.reset, overWindows := 0, dynamic := [0, 0, 0, 0], tallies := [], busMaster := false, component := [],
    msixOn := false, msixMasked := false, msixTable := [], msixPending := [] }

theorem resetHub_eq (s : State) : resetHub s = showFreq (hubReset s) := by
  unfold resetHub hubReset resetDie; with_reducible rfl

theorem resetDie_low (s : State) (d : Nat) : OdKeeps lowPages s (resetDie s d) := by
  have hset := fun (t : State) (sub v : Nat) => odSet_low t (i := 0x2300 + d) sub v (by omega)
  unfold resetDie
  exact (((hset s 0x01 0).trans (hset _ 0x03 4096)).trans (hset _ 0x0C 4096)).trans (hset _ 0x0D 4096)

theorem hubReset_low (s : State) : OdKeeps lowPages s (hubReset s) := by
  unfold hubReset
  exact ((OdKeeps.foldl resetDie_low _ s).trans (odSet_low _ (i := 0x2100) 0x09 4096 (by decide))).trans .of_od

theorem showFreq_low (s : State) : OdKeeps lowPages s (showFreq s) := by
  unfold showFreq
  refine OdKeeps.foldl ?_ _ s
  intro t d
  exact odSet_low t (i := 0x2300 + d) 0x0B _ (by omega)

theorem resetHub_low (s : State) : OdKeeps lowPages s (resetHub s) := by
  rw [resetHub_eq]
  exact (hubReset_low s).trans (showFreq_low _)

theorem hubReset_linkUp (s : State) : (hubReset s).linkUp = s.linkUp := by
  have hdies := foldl_keeps (g := State.linkUp) (f := resetDie) (fun _ _ => rfl) dies s
  unfold hubReset
  generalize dies.foldl resetDie s = x at *
  exact hdies

theorem resetHub_linkUp (s : State) : (resetHub s).linkUp = s.linkUp := by
  rw [resetHub_eq]
  exact ((showFreq_changes _).same .link rfl).1.trans (hubReset_linkUp s)

theorem linkShut_low (s : State) : OdKeeps lowPages s (linkShut s) := by
  have hset := fun (t : State) (sub : Nat) => odSet_low t (i := 0x6000) sub 0 (by decide)
  unfold linkShut
  exact ((((OdKeeps.of_od (by rfl)).trans (hset _ 0x01)).trans (hset _ 0x02)).trans (hset _ 0x03)).trans (hset _ 0x04)

/-- The link of the islands is shut, and their decoder uncommitted. -/
def bulkShut (s : State) : State := odSet { linkShut s with heldRecords := [] } 0x6300 0x03 0

theorem bulkShut_dropped {s x : State} (h : Dropped s x) : Dropped s (bulkShut x) := by
  have hod : OdKeeps lowPages x (bulkShut x) := ((linkShut_low x).trans .of_od).trans (odSet_low _ (i := 0x6300) 0x03 0 (by decide))
  exact ⟨h.chans, h.cmds, h.mem, h.acc, h.romRuns, h.onward.trans (.of_low hod)⟩

theorem bulkShut_linkUp (s : State) : (bulkShut s).linkUp = false := rfl

theorem linkDown_dropped {s x : State} (h : Dropped s x) (hheld : x.heldRecords = []) : odSet (linkDown x) 0x6300 0x03 0 = bulkShut x := by
  have hdone : ∀ c ∈ (linkShut x).cmds, c.stage ≠ .done := by
    intro c hc
    rw [show (linkShut x).cmds = [] from h.cmds] at hc
    exact absurd hc List.not_mem_nil
  rw [linkDown_eq, pumpChans_quiet (x := linkShut x) h.chans hheld hdone]
  rfl

theorem resetHub_dropped {s x : State} (h : Dropped s x) : Dropped s (resetHub x) := by
  have hhub := resetHub_changes x
  exact ⟨(hhub.same .channels rfl).trans h.chans, (hhub.same .commands rfl).1.trans h.cmds, (hhub.same .memory rfl).trans h.mem,
    (hhub.same .accumulators rfl).1.trans h.acc, (hhub.same .firmware rfl).2.2.2.1.trans h.romRuns, h.onward.trans (.of_low (resetHub_low x))⟩

/-- The islands after their reset: the link is down besides. -/
theorem resetBulk_dropped (s : State) : Dropped s (resetBulk s) ∧ (resetBulk s).linkUp = false := by
  have hdropped := bulkDropped_dropped s
  rw [resetBulk_eq, linkDown_dropped hdropped rfl, resetHub_linkUp]
  exact ⟨resetHub_dropped (bulkShut_dropped hdropped), bulkShut_linkUp _⟩

/-! ### VBULK (R409, R411, R449) -/

/-- The power-fail is recorded while VAUX is there to hold the recorder. -/
def failNoted (s : State) (high : Bool) : State := if s.aonUp then powerRecord s vbulkUnit (1 + (if high then 2 else 1) * 256) else s

/-- VBULK is gone from the islands as they are left, and a flush is demanded. -/
def bulkLost (s x : State) : State :=
  { x with vbulk := false, vbulkLost := s.vbulkLost || 3 ≤ startStep s, flushing := s.aonUp, flushRan := s.flushRan || s.aonUp }

/-- A start that the failure interrupts waits for VBULK, unless its fuses stopped it. -/
def startLost (s : State) : State := if s.romRuns && odGet s 0x1100 0x02 != 1 then stopStart s 6 else s

theorem vbulkPowerFail_eq {s : State} (high : Bool) (h : s.vbulk = true) :
    exec (.vbulkPowerFail high) s = .next (startLost (bulkLost s (resetBulk (failNoted s high)))) := congrArg Host.Outcome.next (if_pos h)

theorem failNoted_offLog (s : State) (high : Bool) : OffLog s (failNoted s high) := by
  unfold failNoted
  split
  · exact powerRecord_offLog s _ _
  · exact .refl s

theorem failNoted_romRuns (s : State) (high : Bool) : (failNoted s high).romRuns = s.romRuns := by
  unfold failNoted
  split
  · exact ((powerRecord_changes s _ _).same .firmware rfl).2.2.2.1
  · rfl

/-- A VBULK power-fail stops the work, demands a flush, and leaves a start to be resumed. -/
theorem vbulkPowerFail_stops {s : State} (high : Bool) (h : s.vbulk = true) : ∃ t, exec (.vbulkPowerFail high) s = .next t ∧ t.vbulk = false ∧
    t.flushing = s.aonUp ∧ t.vbulkLost = (s.vbulkLost || 3 ≤ startStep s) ∧ (s.romRuns = true → odGet s 0x1100 0x02 ≠ 1 → startStep t = 0) ∧
    (s.chans = [] → t.cmds = [] ∧ t.mem = [] ∧ t.acc = [] ∧ t.linkUp = false) := by
  obtain ⟨hdropped, hlink⟩ := resetBulk_dropped (failNoted s high)
  have honward := (Onward.of_offLog (failNoted_offLog s high)).trans hdropped.onward
  have hrom := hdropped.romRuns.trans (failNoted_romRuns s high)
  refine ⟨_, vbulkPowerFail_eq high h, ?_⟩
  generalize resetBulk (failNoted s high) = x at *
  have hleft : s.chans = [] → (bulkLost s x).cmds = [] ∧ (bulkLost s x).mem = [] ∧ (bulkLost s x).acc = [] ∧ (bulkLost s x).linkUp = false :=
    fun _ => ⟨hdropped.cmds, hdropped.mem, hdropped.acc, hlink⟩
  unfold startLost
  split
  · exact ⟨rfl, rfl, rfl, fun _ _ => stopStart_startStep _ _, hleft⟩
  · next hstays =>
    refine ⟨rfl, rfl, rfl, fun hr hs => absurd ?_ hstays, hleft⟩
    have hreason : odGet (bulkLost s x) 0x1100 0x02 ≠ 1 := honward.reason hs
    simp [hreason, show (bulkLost s x).romRuns = true from hrom.trans hr]

/-! ### The package (R409, R411, R449, R517) -/

theorem odLook_none {l : List (Nat × Nat)} {k : Nat} (h : ∀ p ∈ l, p.1 ≠ k) : odLook l k = none := by
  induction l with
  | nil => rfl
  | cons p r ih =>
    unfold odLook
    rw [if_neg (Ne.symm (h p List.mem_cons_self))]
    exact ih fun q hq => h q (List.mem_cons_of_mem _ hq)

/-- A cold reset leaves no step of a start. -/
theorem startStep_coldReset (s : State) : startStep (coldReset s) = 0 := by
  have hnone : odLook (coldReset s).od (odKey 0x1100 0x01) = none := odLook_none fun p hp hkey => by
    have hkeep := (List.mem_filter.mp hp).2
    rw [hkey] at hkeep
    revert hkeep
    simp [odKey]
  unfold startStep odGet
  rw [hnone]
  decide

theorem coldReset_empty (s : State) : (coldReset s).cmds = [] ∧ (coldReset s).mem = [] ∧ (coldReset s).aonUp = false ∧
    (coldReset s).flushRan = s.flushRan := ⟨rfl, rfl, rfl, rfl⟩

theorem failRecorded_flush (s : State) (unit cause : Nat) : (failRecorded s unit cause).flushRan = true := by
  unfold failRecorded holdUpFlush
  with_reducible rfl

theorem packagePowerFail_cold {s : State} {cause : Nat} (hvaux : s.vaux = true) (hcause : cause = 1 ∨ cause = 2) :
    ∃ t, exec (.packagePowerFail cause) s = .next t ∧ t.vaux = false ∧ t.cmds = [] ∧ t.mem = [] ∧ t.aonUp = false ∧ t.flushRan = true ∧
      startStep t = 0 := by
  have hready : (s.vaux && (decide (cause = 1) || decide (cause = 2))) = true := by simpa [hvaux] using hcause
  obtain ⟨hcmds, hmem, haon, hflush⟩ := coldReset_empty (failRecorded s vauxUnit cause)
  exact ⟨{ packageFail s vauxUnit cause with vaux := false }, congrArg Host.Outcome.next (if_pos hready), rfl, hcmds, hmem, haon,
    hflush.trans (failRecorded_flush s vauxUnit cause), startStep_coldReset _⟩

theorem clk25Loss_cold {s : State} (hvaux : s.vaux = true) (hclk : s.clk25 = true) : ∃ t, exec .clk25Loss s = .next t ∧ t.clk25 = false ∧
    t.uptime = s.uptime ∧ t.cmds = [] ∧ t.mem = [] ∧ t.aonUp = false ∧ t.flushRan = true ∧ startStep t = 0 := by
  have hready : (s.vaux && s.clk25) = true := by simp [hvaux, hclk]
  obtain ⟨hcmds, hmem, haon, hflush⟩ := coldReset_empty (failRecorded s pkgUnit 3)
  refine ⟨clockFail s, congrArg Host.Outcome.next (if_pos hready), rfl, (failRecorded_changes s pkgUnit 3).same .clock rfl, hcmds, hmem, haon,
    hflush.trans (failRecorded_flush s pkgUnit 3), ?_⟩
  exact (odGet_odSet_ne (coldReset (failRecorded s pkgUnit 3)) _ (by decide)).trans (startStep_coldReset _)

/-- Settles O60: each supply and each step of the start by the lemma of its row. -/
theorem startUpAndSuppliesRun : Obligations.StartUpAndSuppliesRun :=
  ⟨fun _ => ⟨supplyGood_vaux, supplyGood_vhtr, supplyGood_vbulk, supplyGood_again, vbulkResume_resumes⟩, fun _ _ _ => fuseLoad_reads,
    fun _ => bootRomStart_runs, fun _ failed ms => hbm4Training_zeroes failed ms, fun _ failed ms => dieLinkTraining_trains failed ms,
    fun _ failed ms => quickLogicSelfTest_clears failed ms, fun _ laser => opticalStart_wakes laser, fun _ => laserWaitExpiry_ends,
    fun _ high => vbulkPowerFail_stops high, fun _ _ hvaux => ⟨packagePowerFail_cold hvaux, clk25Loss_cold hvaux⟩, fun _ _ => heatersOff_darkens⟩

end Sys2Proof.Machine
end

section
/-! PROOFS. What the forwarding of packets leaves of the object dictionary, of the snags and of what has gone out (R293 to R297, R301). -/

set_option Elab.async false

namespace Sys2Proof.Machine

/-- The entries that forwarding does not count in: packets that a port drops or stops (R294, R295, R301), and NAKs sent (R312), count elsewhere. -/
def offForward (k : Nat) : Prop := ¬ logKey k ∧ k ≠ odKey 0x5000 0x13 ∧ (0x520000 ≤ k → k % 256 ≠ 0x06 ∧ k % 256 ≠ 0x07)

/-- Forwarding counts elsewhere, sets snags alone, and takes nothing back that has gone out. -/
structure Forwards (s t : State) : Prop where
  keeps : OdKeeps offForward s t
  logs : Logs s t

theorem Forwards.refl (s : State) : Forwards s s := ⟨.refl s, .refl s⟩

theorem Forwards.trans {s t u : State} (h : Forwards s t) (g : Forwards t u) : Forwards s u := ⟨h.keeps.trans g.keeps, h.logs.trans g.logs⟩

theorem Forwards.foldl {α : Type} {f : State → α → State} (hf : ∀ s a, Forwards s (f s a)) (l : List α) (s : State) : Forwards s (l.foldl f s) := by
  induction l generalizing s with
  | nil => exact .refl s
  | cons a r ih => exact (hf s a).trans (ih _)

/-- A step that neither writes the dictionary nor sends. -/
theorem Forwards.of_changes {K : List Kind} {s t : State} (h : Changes K s t) (ho : K.contains .output = false := by rfl)
    (hk : K.contains .od = false := by rfl) : Forwards s t := ⟨.of_changes h hk, .of_changes h ho hk⟩

theorem emit_forwards (s : State) (o : Output) : Forwards s (emit s o) := ⟨.of_od rfl, emit_logs s o⟩

/-- Counts of packets that a port drops or stops. -/
theorem odBump_port_forwards (s : State) (p n : Nat) {sub : Nat} (h : sub = 0x06 ∨ sub = 0x07) : Forwards s (odBump s (0x5200 + p) sub n) := by
  refine ⟨(odBump_keeps s _ _ n).mono fun k hk => ⟨?_, hk.1⟩, odBump_logs s _ _ n (by unfold odKey; omega)⟩
  obtain ⟨-, -, hoff⟩ := hk
  unfold odKey
  omega

theorem odBump_nak_forwards (s : State) (n : Nat) : Forwards s (odBump s 0x5000 0x13 n) :=
  ⟨(odBump_keeps s _ _ n).mono fun _ hk => ⟨hk.2.1, hk.1⟩, odBump_logs s _ _ n (by decide)⟩

theorem emitFlits_forwards (s : State) (port : Nat) (fl : List (Nat × BitVec 512)) (o : List Frame → Output) : Forwards s (emitFlits s port fl o) :=
  (Forwards.of_changes (putPort_changes s port _)).trans (emit_forwards _ _)

theorem sendSince_forwards (s : State) (port : Nat) (p : Packet) (since : Nat) : Forwards s (sendSince s port p since) := by
  unfold sendSince
  dsimp only
  split
  · exact ⟨.of_od rfl, .of_eq rfl rfl⟩
  · exact emitFlits_forwards _ _ _ _

theorem dropTransit_forwards (s : State) (t : Transit) : Forwards s (dropTransit s t) := .of_changes (dropTransit_changes s t)

theorem lostResponse_forwards (s : State) (p : Packet) : Forwards s (lostResponse s p) := by
  unfold lostResponse
  split
  · exact odBump_port_forwards s _ 1 (.inl rfl)
  · exact .refl s

/-- A NAK goes out, or is taken at once where this package sent the message. -/
theorem sendResponse_nak_forwards (s : State) {p : Packet} (h : p.kind = 9) : Forwards s (sendResponse s p) := by
  unfold sendResponse
  rw [if_pos h]
  dsimp only
  refine (odBump_nak_forwards s 1).trans ?_
  split
  · rw [takeResponse, if_neg (by rw [h]; decide)]
    exact ⟨.of_od rfl, .of_eq rfl rfl⟩
  · split
    · exact sendSince_forwards _ _ _ _
    · exact ⟨.of_od rfl, .of_eq rfl rfl⟩
    · exact lostResponse_forwards _ _

theorem noRoute_forwards (s : State) (p : Packet) : Forwards s (noRoute s p) := by
  unfold noRoute
  split
  · exact lostResponse_forwards s p
  · split
    · exact sendResponse_nak_forwards s rfl
    · exact .refl s

theorem startOn_forwards (s : State) (t : Transit) (q : Nat) : Forwards s (startOn s t q) := by
  unfold startOn
  dsimp only
  split
  · exact ⟨.of_od rfl, .of_eq rfl rfl⟩
  · exact Forwards.trans (t := { s with transit := s.transit.erase t }) ⟨.of_od rfl, .of_eq rfl rfl⟩ (emitFlits_forwards _ _ _ _)

theorem retryWaiting_forwards (s : State) : Forwards s (retryWaiting s) := by
  unfold retryWaiting
  refine (Forwards.foldl (fun s t => ?_) _ s).trans ⟨.of_od rfl, .of_eq rfl rfl⟩
  split
  · exact .refl s
  · split
    · exact startOn_forwards s t _
    · exact .refl s
    · exact (dropTransit_forwards s t).trans (noRoute_forwards _ _)

theorem settleXoff_forwards (s : State) (port : Nat) : Forwards s (settleXoff s port) := by
  have hsent := (Forwards.of_changes (putPort_changes s port
    { getPort s port with xoffSent := xoffMask s port, fseq := ((getPort s port).fseq + 1) % 256 })).trans
      (emit_forwards _ (.xoff port (xoffMask s port) (frameOf (xoffMask s port) (getPort s port).fseq [])))
  unfold settleXoff
  split
  · dsimp only
    split
    · exact hsent
    · exact hsent.trans (odBump_port_forwards _ port 1 (.inr rfl))
  · exact .refl s

theorem settleXoffs_forwards (s : State) : Forwards s (settleXoffs s) := Forwards.foldl settleXoff_forwards _ s

/-- Where every packet held has its port and its place, no packet takes one anew (R297). -/
theorem retryWaiting_placed {s : State} (h : ∀ y ∈ s.transit, y.port.isSome = true ∧ y.headAt.isSome = true) :
    (retryWaiting s).transit = s.transit := by
  have hnone : s.transit.filter (fun t => t.port.isNone) = [] := List.filter_eq_nil_iff.mpr fun y hy => by
    obtain ⟨q, hq⟩ := Option.isSome_iff_exists.mp (h y hy).1
    simp [hq]
  unfold retryWaiting settleHeads
  rw [hnone]
  refine (List.map_congr_left fun y hy => ?_).trans (List.map_id _)
  obtain ⟨a, ha⟩ := Option.isSome_iff_exists.mp (h y hy).2
  simp [ha]

theorem emitPacket_transit (s : State) (port : Nat) (p : Packet) : (emitPacket s port p).transit = s.transit := rfl

theorem dropTransit_transit (s : State) (t : Transit) : (dropTransit s t).transit = s.transit.erase t := by
  unfold dropTransit
  dsimp only
  split <;> rfl

end Sys2Proof.Machine
end

section
/-! PROOFS. O37: the gap time of a receive context, the window of a tombstone and the idle time of a stream record (R299, R309, R310). -/

set_option Elab.async false

namespace Sys2Proof.Machine

/-! ### Answers that are counted (R309, R446) -/

/-- A count of a response that no port could carry stands on the page of a port. -/
theorem lostResponse_keeps (s : State) (p : Packet) : OdKeeps (fun k => k < 0x520000) s (lostResponse s p) := by
  unfold lostResponse
  split
  · refine (odBump_keeps s _ 0x06 1).mono fun k hk => ⟨?_, ?_⟩
    · unfold odKey
      omega
    · unfold logKey
      omega
  · exact .refl s

/-- A NAK that goes out is counted, whatever becomes of it. -/
theorem sendResponse_counts {s : State} {p : Packet} (h : p.kind = 9) :
    odGet (sendResponse s p) 0x5000 0x13 = min cntMax (odGet s 0x5000 0x13 + 1) := by
  have hcount := odGet_odBump s 0x5000 0x13 1 (not_logKey (by decide) (by decide))
  have hsent : odGet (sendResponse s p) 0x5000 0x13 = odGet (odBump s 0x5000 0x13 1) 0x5000 0x13 := by
    unfold sendResponse
    rw [if_pos h]
    dsimp only
    split
    · rw [takeResponse, if_neg (by rw [h]; decide)]
      exact (OdKeeps.of_od (P := fun _ => True) rfl).get _ _ trivial
    · split
      · exact (OdKeeps.of_changes (P := fun _ => True) (sendOn_changes _ _ _)).get _ _ trivial
      · exact (OdKeeps.of_od (P := fun _ => True) rfl).get _ _ trivial
      · exact (lostResponse_keeps _ _).get _ _ (by decide)
  exact hsent.trans hcount

/-! ### GAP_TIME (R309) -/

theorem gapTime_of_findRecv {s : State} {spkg msgid : Nat} {r : RecvCtx} (hfind : findRecv s spkg msgid = some r) (hserving : serving s = true)
    (htail : (recvTail r).isSome = true) (hpart : recvWhole r = false) :
    exec (.gapTime spkg msgid) s = .next (if r.gainedAt + gapTicks s ≤ s.uptime then incomplete s r else s) := by
  show execGapTime spkg msgid s = _
  simp [execGapTime, hfind, hserving, htail, hpart]

theorem incomplete_answers (s : State) (r : RecvCtx) : Answers s (incomplete s r) ∧ (incomplete s r).mem = s.mem ∧
    odGet (incomplete s r) 0x5000 0x13 = min cntMax (odGet s 0x5000 0x13 + 1) :=
  ⟨sendResponse_answers s _, (incomplete_changes s r).same .memory rfl, sendResponse_counts rfl⟩

/-! ### TOMBSTONE_EXPIRY (R310) -/

/-- A tombstone of a message whose window has passed. -/
def tombOver (s : State) (spkg msgid : Nat) (x : Tomb) : Bool :=
  x.spkg == spkg && x.msgid == msgid && decide (x.madeAt + odGet s 0x5000 0x08 * 100000 ≤ s.uptime)

/-- The expiry leaves the tombstones that are not over. -/
theorem tombstoneExpiry_filters (s : State) (spkg msgid : Nat) :
    exec (.tombstoneExpiry spkg msgid) s = .next { s with tombs := s.tombs.filter (fun x => !tombOver s spkg msgid x) } := rfl

theorem tombOver_false_of_ne {s : State} {spkg msgid p i : Nat} {x : Tomb} (hne : p ≠ spkg ∨ i ≠ msgid)
    (hx : (x.spkg == p && x.msgid == i) = true) : tombOver s spkg msgid x = false := by
  simp only [Bool.and_eq_true, beq_iff_eq] at hx
  obtain ⟨rfl, rfl⟩ := hx
  rcases hne with h | h <;> simp [tombOver, h]

theorem tombstoneExpiry_ends (s : State) (spkg msgid : Nat) :
    ∃ t, exec (.tombstoneExpiry spkg msgid) s = .next t ∧ t.recvs = s.recvs ∧ t.tombs.Sublist s.tombs ∧
      ((∀ x ∈ s.tombs, x.spkg = spkg → x.msgid = msgid → x.madeAt + odGet s 0x5000 0x08 * 100000 ≤ s.uptime) → findTomb t spkg msgid = none) ∧
      ((∀ x ∈ s.tombs, x.spkg = spkg → x.msgid = msgid → s.uptime < x.madeAt + odGet s 0x5000 0x08 * 100000) → t = s) ∧
      ∀ p i, (p ≠ spkg ∨ i ≠ msgid) → findTomb t p i = findTomb s p i := by
  refine ⟨_, tombstoneExpiry_filters s spkg msgid, rfl, List.filter_sublist, fun hover => ?_, fun hlasts => ?_, fun p i hne => ?_⟩
  · refine List.find?_eq_none.mpr fun x hx hnamed => ?_
    obtain ⟨hmem, hleft⟩ := List.mem_filter.mp hx
    simp only [Bool.and_eq_true, beq_iff_eq] at hnamed
    obtain ⟨hpkg, hid⟩ := hnamed
    simp [tombOver, hpkg, hid, hover x hmem hpkg hid] at hleft
  · have hall : s.tombs.filter (fun x => !tombOver s spkg msgid x) = s.tombs := List.filter_eq_self.mpr fun x hx => by
      by_cases hpkg : x.spkg = spkg
      · by_cases hid : x.msgid = msgid
        · simp [tombOver, hlasts x hx hpkg hid]
        · simp [tombOver, hid]
      · simp [tombOver, hpkg]
    rw [hall]
  · unfold findTomb
    rw [List.find?_filter]
    refine congrFun (congrArg List.find? (funext fun x => ?_)) s.tombs
    cases hx : (x.spkg == p && x.msgid == i)
    · simp
    · simp [tombOver_false_of_ne hne hx]

/-! ### STREAM_RECORD_FREE (R299) -/

theorem streamRecordFree_of_findStream {s : State} {source : Bool} {peer vc : Nat} {r : StreamRec} (h : findStream s source peer vc = some r) :
    exec (.streamRecordFree source peer vc) s =
      .next (if streamIdle s r then pumpSends 64 { s with srecs := s.srecs.filter (fun x => x != r) } else s) := by
  show execStreamRecordFree source peer vc s = _
  simp only [execStreamRecordFree, h]

/-- Settles O37: each timer by what its row does once it is due, and by the state that it leaves before. -/
theorem destinationTimers : Obligations.DestinationTimers := by
  refine ⟨fun s spkg msgid r hfind hserving htail hpart => ?_, tombstoneExpiry_ends, fun s source peer vc r hfind => ?_⟩
  · have hrun := gapTime_of_findRecv hfind hserving htail hpart
    obtain ⟨hkept, hmem, hcount⟩ := incomplete_answers s r
    refine ⟨fun hdue => ⟨incomplete s r, ?_, hkept.recvs, hkept.tombs, hmem, hcount⟩, fun hearly => ?_⟩
    · rw [hrun, if_pos hdue]
    · rw [hrun, if_neg (by omega)]
  · have hrun := streamRecordFree_of_findStream hfind
    refine ⟨fun hidle hsent => ?_, fun hbusy => ?_⟩
    · rw [if_pos hidle, pumpSends_idle 64 { s with srecs := s.srecs.filter (fun x => x != r) } hsent] at hrun
      exact ⟨_, hrun, by simp, fun x hx hne => List.mem_filter.mpr ⟨hx, by simpa using hne⟩⟩
    · rw [hrun, hbusy, if_neg Bool.false_ne_true]

end Sys2Proof.Machine
end

section
/-! PROOFS. O39: packets held at a hop, the move to the escape path and the hold limit (R301). -/

set_option Elab.async false

namespace Sys2Proof.Machine

/-- What follows once a packet has left the hold of a port, where it is counted: the packets left are looked at again, and stay as they are where
each has its port and its place. -/
theorem settleHolds_leaves {x : State} {port sub : Nat} (hport : port < 16) (hsub : sub = 0x08 ∨ sub = 0x09) :
    ((∀ y ∈ x.transit, y.port.isSome = true ∧ y.headAt.isSome = true) → (settleXoffs (retryWaiting x)).transit = x.transit) ∧
      odGet (settleXoffs (retryWaiting x)) (0x5200 + port) sub = odGet x (0x5200 + port) sub := by
  refine ⟨fun hplaced => ?_, ((retryWaiting_forwards x).trans (settleXoffs_forwards _)).keeps.get _ _ ⟨not_logKey (by omega) (by omega), ?_⟩⟩
  · obtain ⟨-, -, -, -, -, -, hsettled⟩ := (settleXoffs_changes (retryWaiting x)).same .fabric rfl
    rw [hsettled, retryWaiting_placed hplaced]
  · unfold odKey
    omega

theorem odBump_transit (s : State) (i sub n : Nat) : (odBump s i sub n).transit = s.transit := by
  obtain ⟨-, -, -, -, -, -, htransit⟩ := (odBump_changes s i sub n).same .fabric rfl
  exact htransit

/-! ### ESCAPE_MOVE -/

/-- A packet whose VC is not stopped goes out at once. -/
theorem sendSince_of_running {s : State} {port : Nat} {p : Packet} (h : vcStopped s port p.vc = false) (since : Nat) :
    sendSince s port p since = emitPacket s port { p with hops := p.hops + 1 } := by
  simp only [sendSince, h, Bool.false_eq_true, if_false]

theorem odGet_emitPacket (s : State) (port : Nat) (p : Packet) (i n : Nat) : odGet (emitPacket s port p) i n = odGet s i n := rfl

/-- The packet that has waited long enough leaves its queue and is counted on its escape port. -/
def escaping (s : State) (port : Nat) (x : Transit) : State := odBump (dropTransit s x) (0x5200 + port) 0x09 1

theorem escapeMove_of_escapee {s : State} {port : Nat} {x : Transit} (hx : escapee s port = some x) (hnone : x.port = none) :
    exec (.escapeMove port) s = .next (settleXoffs (retryWaiting (sendSince (escaping s port x) port { x.pkt with vc := 7 } x.since))) := by
  show execEscapeMove port s = _
  simp only [execEscapeMove, hx, hnone]
  rfl

theorem vcStopped_escaping (s : State) {port : Nat} {x : Transit} (hnone : x.port = none) :
    vcStopped (escaping s port x) port 7 = vcStopped s port 7 := by
  have hports : (escaping s port x).ports = s.ports := by
    refine ((odBump_changes _ _ _ _).same .ports rfl).1.trans ?_
    simp only [dropTransit, hnone]
  unfold vcStopped
  rw [getPort_congr hports]

theorem emitPacket_emits (s : State) (port : Nat) (p : Packet) : ∃ fr, Output.packet port p.vc p fr ∈ (emitPacket s port p).out :=
  ⟨_, List.mem_append_right _ (List.mem_singleton.mpr rfl)⟩

theorem escapeMove_moves {s : State} {port : Nat} {x : Transit} (hport : port < 16) (hx : escapee s port = some x) (hnone : x.port = none)
    (hruns : vcStopped s port 7 = false) :
    ∃ t, exec (.escapeMove port) s = .next t ∧ ((∀ y ∈ s.transit.erase x, y.port.isSome ∧ y.headAt.isSome) → t.transit = s.transit.erase x) ∧
      (∃ fr, .packet port 7 { x.pkt with vc := 7, hops := x.pkt.hops + 1 } fr ∈ t.out) ∧
      odGet t (0x5200 + port) 0x09 = min cntMax (odGet s (0x5200 + port) 0x09 + 1) := by
  have hrun := escapeMove_of_escapee hx hnone
  have hgoes : vcStopped (escaping s port x) port 7 = false := (vcStopped_escaping s hnone).trans hruns
  rw [sendSince_of_running (s := escaping s port x) (port := port) (p := { x.pkt with vc := 7 }) hgoes] at hrun
  have htransit : (escaping s port x).transit = s.transit.erase x := (odBump_transit _ _ _ _).trans (dropTransit_transit s x)
  have hlog : ¬ logKey (odKey (0x5200 + port) 0x09) := not_logKey (by omega) (by decide)
  have hcount : odGet (escaping s port x) (0x5200 + port) 0x09 = min cntMax (odGet s (0x5200 + port) 0x09 + 1) := by
    unfold escaping
    rw [odGet_odBump _ _ _ _ hlog, (OdKeeps.of_changes (P := fun _ => True) (dropTransit_changes s x)).get _ _ trivial]
  obtain ⟨fr, hsent⟩ := emitPacket_emits (escaping s port x) port { x.pkt with vc := 7, hops := x.pkt.hops + 1 }
  obtain ⟨hleft, hkept⟩ := settleHolds_leaves (x := emitPacket (escaping s port x) port { x.pkt with vc := 7, hops := x.pkt.hops + 1 }) hport (.inr rfl)
  refine ⟨_, hrun, fun hplaced => ?_, ⟨fr, ?_⟩, (hkept.trans (odGet_emitPacket _ _ _ _ _)).trans hcount⟩
  · rw [emitPacket_transit, htransit] at hleft
    exact hleft hplaced
  · exact ((retryWaiting_forwards _).trans (settleXoffs_forwards _)).logs.out.subset hsent

/-! ### HOP_HOLD_LIMIT -/

/-- The packet held too long is dropped, with an ABORT after its flits that had gone on, and counted as stale. -/
def staled (s : State) (port : Nat) (x : Transit) : State := odBump (dropTransit (abortQueued s x) x) (0x5200 + port) 0x08 1

theorem hopHoldLimit_eq (s : State) (port : Nat) : exec (.hopHoldLimit port) s =
    .next (match s.transit.find? (fun t => heldBy port t && heldFor s t.since (odGet s 0x5000 0x07 * 1000)) with
      | some x => settleXoffs (retryWaiting (staled s port x))
      | none => s) := rfl

theorem hopHoldLimit_drops {s : State} {port : Nat} {x : Transit} (hport : port < 16)
    (hx : s.transit.find? (fun t => heldBy port t && heldFor s t.since (odGet s 0x5000 0x07 * 1000)) = some x) :
    ∃ t, exec (.hopHoldLimit port) s = .next t ∧ ((∀ y ∈ s.transit.erase x, y.port.isSome ∧ y.headAt.isSome) → t.transit = s.transit.erase x) ∧
      odGet t (0x5200 + port) 0x08 = min cntMax (odGet s (0x5200 + port) 0x08 + 1) := by
  have hrun := hopHoldLimit_eq s port
  simp only [hx] at hrun
  have haborted := abortQueued_changes s x
  obtain ⟨-, -, -, -, -, -, hsame⟩ := haborted.same .fabric rfl
  have htransit : (staled s port x).transit = s.transit.erase x := by
    unfold staled
    rw [odBump_transit, dropTransit_transit, hsame]
  have hlog : ¬ logKey (odKey (0x5200 + port) 0x08) := not_logKey (by omega) (by decide)
  have hcount : odGet (staled s port x) (0x5200 + port) 0x08 = min cntMax (odGet s (0x5200 + port) 0x08 + 1) := by
    unfold staled
    rw [odGet_odBump _ _ _ _ hlog, (OdKeeps.of_changes (P := fun _ => True) (dropTransit_changes _ x)).get _ _ trivial,
      (OdKeeps.of_changes (P := fun _ => True) haborted).get _ _ trivial]
  obtain ⟨hleft, hkept⟩ := settleHolds_leaves (x := staled s port x) hport (.inl rfl)
  exact ⟨_, hrun, fun hplaced => (hleft (by rw [htransit]; exact hplaced)).trans htransit, hkept.trans hcount⟩

/-- Settles O39: the packet picked leaves its queue, and what follows leaves the others and the counts. -/
theorem heldPacketsMoveOrDrop : Obligations.HeldPacketsMoveOrDrop := by
  refine ⟨fun s port x hport hx hnone hruns => escapeMove_moves hport hx hnone hruns, fun s port x hport hx => hopHoldLimit_drops hport hx,
    fun s port hshort => ?_⟩
  have hnone : s.transit.find? (fun t => heldBy port t && heldFor s t.since (odGet s 0x5000 0x07 * 1000)) = none :=
    List.find?_eq_none.mpr fun x hx hlong => by
      rw [Bool.and_eq_true] at hlong
      rw [hshort x hx hlong.1] at hlong
      exact Bool.false_ne_true hlong.2
  rw [hopHoldLimit_eq, hnone]

end Sys2Proof.Machine
end

section
/-! PROOFS. O38: a frame is checked, and delivers its packets (R293, R294, R323, R332). -/

set_option Elab.async false

namespace Sys2Proof.Machine

/-! ### The codewords of a frame (R322, R323) -/

theorem OffLog.forwards {s t : State} (h : OffLog s t) (g : Logs s t) : Forwards s t := ⟨h.mono fun _ hk => hk.1, g⟩

theorem saturationEvent_forwards (s : State) (i n : Nat) : Forwards s (saturationEvent s i n) :=
  (saturationEvent_offLog s i n).forwards (saturationEvent_logs s i n)

theorem countCodeword_forwards (p : Nat) (s : State) (slot : Nat) : Forwards s (countCodeword p s slot) := by
  unfold countCodeword
  dsimp only
  split
  · refine Forwards.trans ?_ (saturationEvent_forwards _ _ _)
    exact ⟨.of_od rfl, .of_eq rfl rfl⟩
  · exact ⟨.of_od rfl, .of_eq rfl rfl⟩

theorem countSymbols_forwards (p : Nat) (s : State) (x : Nat × Nat) : Forwards s (countSymbols p s x) := by
  unfold countSymbols
  split
  · exact .refl s
  · dsimp only
    split
    · refine Forwards.trans ?_ (saturationEvent_forwards _ _ _)
      exact ⟨.of_od rfl, .of_eq rfl rfl⟩
    · exact ⟨.of_od rfl, .of_eq rfl rfl⟩

theorem countCodeword_ports (p : Nat) (s : State) (slot : Nat) : (countCodeword p s slot).ports = s.ports := by
  unfold countCodeword
  dsimp only
  split
  · exact ((saturationEvent_changes _ _ _).same .ports rfl).1
  · rfl

theorem countSymbols_ports (p : Nat) (s : State) (x : Nat × Nat) : (countSymbols p s x).ports = s.ports := by
  unfold countSymbols
  split
  · rfl
  · dsimp only
    split
    · exact ((saturationEvent_changes _ _ _).same .ports rfl).1
    · rfl

theorem sendMarkers_forwards (s : State) (p : Nat) : Forwards s (sendMarkers s p) := ⟨.of_od rfl, emitAll_logs s _⟩

theorem controlStream_forwards (s : State) (p : Nat) : Forwards s (controlStream s p) := by
  unfold controlStream
  dsimp only
  split_ifs
  · exact .refl s
  · exact sendMarkers_forwards s p
  · exact emit_forwards s _

/-- A port that has counted the codewords of a frame, before it looks at the slots. -/
def frameCounted (s : State) (port : Nat) (f : Frame) : State :=
  let bad := badSlots s port f
  let s1 := controlStream (putPort s port (framePhase (getPort s port) bad)) port
  if (getPort s port).phase = 0 then f.corrected.foldl (countSymbols port) (bad.foldl (countCodeword port) s1) else s1

theorem frameCounted_forwards (s : State) (port : Nat) (f : Frame) : Forwards s (frameCounted s port f) := by
  have hstream := (Forwards.of_changes (putPort_changes s port (framePhase (getPort s port) (badSlots s port f)))).trans (controlStream_forwards _ port)
  unfold frameCounted
  dsimp only
  split
  · exact (hstream.trans (.foldl (countCodeword_forwards port) _ _)).trans (.foldl (countSymbols_forwards port) _ _)
  · exact hstream

theorem frameCounted_changes (s : State) (port : Nat) (f : Frame) :
    Changes [.draws, .od, .ports, .recorder, .access, .output] s (frameCounted s port f) := by
  have hstream : Changes [.draws, .od, .ports, .recorder, .access, .output] s
      (controlStream (putPort s port (framePhase (getPort s port) (badSlots s port f))) port) :=
    ((putPort_changes s port _).mono rfl).trans ((controlStream_changes _ port).mono rfl)
  unfold frameCounted
  dsimp only
  split
  · exact Changes.foldl _ (Changes.foldl _ hstream (countCodeword_changes port)) (countSymbols_changes port)
  · exact hstream

/-- The port knows then which slots' codewords could not be corrected. -/
theorem getPort_frameCounted {s : State} {port : Nat} (hlen : port < s.ports.length) (f : Frame) :
    getPort (frameCounted s port f) port = framePhase (getPort s port) (badSlots s port f) := by
  have hstream : (controlStream (putPort s port (framePhase (getPort s port) (badSlots s port f))) port).ports =
      (putPort s port (framePhase (getPort s port) (badSlots s port f))).ports := ((controlStream_changes _ port).same .ports rfl).1
  rw [← getPort_putPort hlen (framePhase (getPort s port) (badSlots s port f))]
  refine getPort_congr ?_ port
  unfold frameCounted
  dsimp only
  split
  · rw [foldl_keeps (countSymbols_ports port), foldl_keeps (countCodeword_ports port), hstream]
  · exact hstream

/-- The lanes whose data counts as bad once a port is in state `x`. -/
def lanesBadIn (s x : State) (port : Nat) : List Nat :=
  ((getPort x port).badNow.filter (fun y => slotRole s port false y == 0)).map (slotLane s port false) ++ lanesDown s port

theorem lanesBadIn_frameCounted {s : State} {port : Nat} (hlen : port < s.ports.length) (f : Frame) :
    lanesBadIn s (frameCounted s port f) port = frameLanes s port f := by
  unfold lanesBadIn
  rw [getPort_frameCounted hlen]
  rfl

/-- What a frame comes to on a port that is UP. -/
theorem frameReceive_of_up {s : State} {port : Nat} (f : Frame) (hport : port < 16) (hlen : port < s.ports.length) (hup : portUp s port = true) :
    exec (.frameReceive port f) s = .next (sendReport (takeFrame (frameCounted s port f) port { f with badLanes := frameLanes s port f }) port
      (getPort (frameCounted s port f) port).badNow) := by
  have hlit : portState s port = 3 := by simpa [portUp] using hup
  have hready : (decide (port < 16) && portState s port != 0) = true := by simp [hport, hlit]
  have hrun : exec (.frameReceive port f) s = .next (sendReport (if portUp s port then takeFrame (frameCounted s port f) port
      { f with badLanes := lanesBadIn s (frameCounted s port f) port } else frameCounted s port f) port
      (getPort (frameCounted s port f) port).badNow) := congrArg Host.Outcome.next (if_pos hready)
  rw [hrun, if_pos hup, lanesBadIn_frameCounted hlen]

/-! ### A control flit that fails its check (R294) -/

theorem odGet_badFrame (s : State) {port : Nat} (hport : port < 16) :
    odGet (badFrame s port) (0x5200 + port) 0x05 = min cntMax (odGet s (0x5200 + port) 0x05 + 1) := by
  unfold badFrame
  dsimp only
  rw [(OdKeeps.foldl (fun t vc => dropPartial_own t port vc) _ _).get _ _ (not_portOwn_map hport (by decide))]
  exact odGet_odBump _ _ _ _ (not_logKey (by omega) (by decide))

theorem frameReceive_bad {s : State} {port : Nat} {f0 f : Frame} (hport : port < 16) (hlen : port < s.ports.length) (hup : portUp s port = true)
    (hf : f = { f0 with badLanes := frameLanes s port f0 }) (hbad : ctlGood f = false) :
    ∃ t, exec (.frameReceive port f0) s = .next t ∧ t.inbox = s.inbox ∧ t.recvs = s.recvs ∧ t.sends = s.sends ∧
      odGet t (0x5200 + port) 0x05 = min cntMax (odGet s (0x5200 + port) 0x05 + 1) := by
  have hrun := frameReceive_of_up f0 hport hlen hup
  have htaken : takeFrame (frameCounted s port f0) port f = badFrame (frameCounted s port f0) port := by
    unfold takeFrame
    rw [hbad]
    rfl
  rw [← hf, htaken] at hrun
  have hcounted := (frameCounted_forwards s port f0).keeps.get (0x5200 + port) 0x05 ⟨not_logKey (by omega) (by decide), by unfold odKey; omega⟩
  have hchanges := (frameCounted_changes s port f0).trans (badFrame_changes _ port)
  have hreport := sendReport_changes (badFrame (frameCounted s port f0) port) port (getPort (frameCounted s port f0) port).badNow
  obtain ⟨-, hsends, hrecvs, -, -, hinbox, -⟩ := (hchanges.trans (hreport.mono rfl)).same .fabric rfl
  refine ⟨_, hrun, hinbox, hrecvs, hsends, ?_⟩
  rw [(OdKeeps.of_changes (P := fun _ => True) hreport).get _ _ trivial, odGet_badFrame _ hport, hcounted]

/-! ### The slots of a frame (R293) -/

/-- A slot that is not VALID brings nothing. -/
theorem takeSlot_empty {port : Nat} {f : Frame} {k : Nat} (h : bitOf (slotTag f k) 7 = false) (s : State) : takeSlot port f s k = s := by
  simp [takeSlot, h]

theorem foldl_takeSlot_empty {port : Nat} {f : Frame} (l : List Nat) (h : ∀ k ∈ l, bitOf (slotTag f k) 7 = false) (s : State) :
    l.foldl (takeSlot port f) s = s := by
  induction l with
  | nil => rfl
  | cons k r ih => rw [List.foldl_cons, takeSlot_empty (h k List.mem_cons_self), ih fun k hk => h k (List.mem_cons_of_mem _ hk)]

theorem serving_putPort (s : State) (p : Nat) (v : Port) : serving (putPort s p v) = serving s := rfl

theorem ownPkg_putPort (s : State) (p : Nat) (v : Port) : ownPkg (putPort s p v) = ownPkg s := rfl

/-- A one-flit answer for this package enters the inbox (R304). -/
theorem receivePacket_answer {s : State} {p : Packet} (hserving : serving s = true) (hkind : p.kind = 8 ∨ p.kind = 9)
    (hown : seresPkg p.daddr = ownPkg s) : receivePacket s p = { s with inbox := s.inbox ++ [p] } := by
  have hknown : ¬ 0xB ≤ p.kind := by omega
  have hresponse : isResponse p.kind = true := by rcases hkind with h | h <;> rw [h] <;> rfl
  have hanswer : p.kind ≠ 0xA := by omega
  unfold receivePacket routePacket arrive takeResponse
  rw [if_neg hknown, if_pos hserving, if_pos hown, if_pos hresponse, if_neg hanswer]

/-- Slot 0 brings a whole packet of one flit: its header flit is its END too. -/
theorem takeSlot_whole {s : State} {port : Nat} {f : Frame} {p : Packet} (hgood : slotGood f 0 = true) (hvalid : bitOf (slotTag f 0) 7 = true)
    (hhead : bitOf (slotTag f 0) 3 = true) (hend : bitOf (slotTag f 0) 2 = true) (hflows : bitOf (slotTag f 0) 1 = false)
    (hp : p = packetOf [listGet 0 f.slots 0] (bits (slotTag f 0) 4 3) port) :
    ∃ v, takeSlot port f s 0 = receivePacket (putPort s port v) p := by
  refine ⟨{ getPort s port with
    dropping := listSet (getPort s port).dropping (bits (slotTag f 0) 4 3) false
    partialFlits := listSet (getPort s port).partialFlits (bits (slotTag f 0) 4 3) [] }, ?_⟩
  unfold takeSlot
  simp only [hgood, hvalid, hhead, hend, hflows, Bool.not_true, Bool.false_eq_true, if_false, if_true, Bool.false_and, List.nil_append, ← hp]

theorem range_seven : List.range 7 = 0 :: [1, 2, 3, 4, 5, 6] := rfl

/-! ### What moves before the slots (R295, R297) -/

theorem dropTransit_inbox (s : State) (t : Transit) : (dropTransit s t).inbox = s.inbox := by
  unfold dropTransit
  dsimp only
  split <;> rfl

theorem emitPacket_inbox (s : State) (port : Nat) (p : Packet) : (emitPacket s port p).inbox = s.inbox := rfl

/-- The packets that go out once a VC runs again leave the inbox, and of the packets held some alone. -/
theorem releaseTransit_leaves (s : State) (port : Nat) :
    (releaseTransit s port).inbox = s.inbox ∧ (releaseTransit s port).transit.Sublist s.transit := by
  unfold releaseTransit
  refine List.foldlRecOn (motive := fun t : State => t.inbox = s.inbox ∧ t.transit.Sublist s.transit) _ _ ⟨rfl, .refl _⟩ fun t ih x _ => ?_
  rw [emitPacket_inbox, dropTransit_inbox, emitPacket_transit, dropTransit_transit]
  exact ⟨ih.1, List.erase_sublist.trans ih.2⟩

theorem releaseTransit_forwards (s : State) (port : Nat) : Forwards s (releaseTransit s port) :=
  .foldl (fun s t => (dropTransit_forwards s t).trans (emitFlits_forwards _ _ _ _)) _ s

/-- With no packet that waits for a port, none is dropped whose NAK could come in. -/
theorem retryWaiting_inbox {s : State} (h : ∀ x ∈ s.transit, x.port.isSome = true) : (retryWaiting s).inbox = s.inbox := by
  have hnone : s.transit.filter (fun t => t.port.isNone) = [] := List.filter_eq_nil_iff.mpr fun x hx => by
    obtain ⟨q, hq⟩ := Option.isSome_iff_exists.mp (h x hx)
    simp [hq]
  unfold retryWaiting
  rw [hnone]
  rfl

/-- A port whose frame's XOFF state is taken and whose packets that may go have gone. -/
def slotsReady (x : State) (port : Nat) (f : Frame) : State :=
  retryWaiting (releaseTransit (putPort x port { (getPort x port) with xoffFar := bits f.ctl.toNat 504 8 }) port)

theorem takeFrame_of_good {x : State} {port : Nat} {f : Frame} (h : ctlGood f = true) :
    takeFrame x port f = settleXoffs ((List.range 7).foldl (takeSlot port f) (slotsReady x port f)) := by
  unfold takeFrame
  rw [h]
  rfl

theorem slotsReady_forwards (x : State) (port : Nat) (f : Frame) : Forwards x (slotsReady x port f) :=
  ((Forwards.of_changes (putPort_changes x port _)).trans (releaseTransit_forwards _ port)).trans (retryWaiting_forwards _)

theorem slotsReady_changes (x : State) (port : Nat) (f : Frame) :
    Changes [.draws, .od, .fabric, .ports, .recorder, .access, .output] x (slotsReady x port f) :=
  (((putPort_changes x port _).mono rfl).trans ((releaseTransit_changes _ port).mono rfl)).trans ((retryWaiting_changes _).mono rfl)

theorem slotsReady_inbox {x : State} (port : Nat) (f : Frame) (h : ∀ y ∈ x.transit, y.port.isSome = true) : (slotsReady x port f).inbox = x.inbox := by
  obtain ⟨hinbox, hleft⟩ := releaseTransit_leaves (putPort x port { (getPort x port) with xoffFar := bits f.ctl.toNat 504 8 }) port
  unfold slotsReady
  rw [retryWaiting_inbox fun y hy => h y (hleft.subset hy), hinbox]
  rfl

theorem Forwards.ownPkg {s t : State} (h : Forwards s t) : ownPkg t = ownPkg s := 
  h.keeps.get 0x5000 0x01 ⟨not_logKey (by decide) (by decide), by decide, fun h => absurd h (by decide)⟩

/-- Whether the hub serves rests on the supplies, the start and the package number. -/
theorem Forwards.serving {s t : State} (h : Forwards s t) (hsupplies : Kind.supplies.same s t) : serving t = serving s := by
  obtain ⟨hvbulk, -, -, -, haon⟩ := hsupplies
  have hstep := fun n (hn : n < 256) => h.keeps.get 0x1100 n ⟨not_logKey (by decide) hn, by unfold odKey; omega⟩
  unfold Machine.serving hasNumber bulkOn fusesLoaded
  rw [h.ownPkg, hvbulk, haon, hstep _ (by decide), hstep _ (by decide)]

/-- What follows the slots leaves the inbox. -/
theorem inbox_afterSlots (x : State) (port : Nat) (bad : List Nat) : (sendReport (settleXoffs x) port bad).inbox = x.inbox := by
  obtain ⟨-, -, -, -, -, hreport, -⟩ := (sendReport_changes (settleXoffs x) port bad).same .fabric rfl
  obtain ⟨-, -, -, -, -, hsettled, -⟩ := (settleXoffs_changes x).same .fabric rfl
  exact hreport.trans hsettled

/-- A good frame whose slot 0 alone is VALID: what stands before its slots, and the packet of slot 0. -/
theorem takeFrame_slot0 {x : State} {port : Nat} {f : Frame} {p : Packet} (hctl : ctlGood f = true) (hgood : slotGood f 0 = true)
    (hvalid : bitOf (slotTag f 0) 7 = true) (hhead : bitOf (slotTag f 0) 3 = true) (hend : bitOf (slotTag f 0) 2 = true)
    (hflows : bitOf (slotTag f 0) 1 = false) (hrest : ∀ k, 1 ≤ k → k < 7 → bitOf (slotTag f k) 7 = false)
    (hp : p = packetOf [listGet 0 f.slots 0] (bits (slotTag f 0) 4 3) port) :
    ∃ v, takeFrame x port f = settleXoffs (receivePacket (putPort (slotsReady x port f) port v) p) := by
  have hempty : ∀ k ∈ [1, 2, 3, 4, 5, 6], bitOf (slotTag f k) 7 = false := fun k hk => by
    have hbounds : 1 ≤ k ∧ k < 7 := by
      simp only [List.mem_cons, List.not_mem_nil, or_false] at hk
      omega
    exact hrest k hbounds.1 hbounds.2
  obtain ⟨v, hslot⟩ := takeSlot_whole (s := slotsReady x port f) hgood hvalid hhead hend hflows hp
  exact ⟨v, by rw [takeFrame_of_good hctl, range_seven, List.foldl_cons, foldl_takeSlot_empty _ hempty, hslot]⟩

/-- Settles O38: the control flit's check stands before the slots, and slot 0 brings the answer. -/
theorem framesDeliver : Obligations.FramesDeliver := by
  refine fun s port f0 f hport hlen hup hf => ⟨frameReceive_bad hport hlen hup hf,
    fun p hctl hgood hvalid hhead hend hflows hrest hserving hp hkind hown => ?_⟩
  have hrun := frameReceive_of_up f0 hport hlen hup
  obtain ⟨v, htaken⟩ := takeFrame_slot0 (x := frameCounted s port f0) hctl hgood hvalid hhead hend hflows hrest hp
  have hcounted := frameCounted_changes s port f0
  have hready := (frameCounted_forwards s port f0).trans (slotsReady_forwards _ port f)
  have hsupplies := ((hcounted.mono rfl).trans (slotsReady_changes (frameCounted s port f0) port f)).same .supplies rfl
  have hanswer := receivePacket_answer (s := putPort (slotsReady (frameCounted s port f0) port f) port v)
    (by rw [serving_putPort, hready.serving hsupplies, hserving]) hkind (by rw [ownPkg_putPort, hready.ownPkg, hown])
  rw [← hf, htaken, hanswer] at hrun
  have hinbox := inbox_afterSlots { putPort (slotsReady (frameCounted s port f0) port f) port v with
    inbox := (putPort (slotsReady (frameCounted s port f0) port f) port v).inbox ++ [p] } port (getPort (frameCounted s port f0) port).badNow
  refine ⟨_, hrun, ?_, fun hplaced => ?_⟩
  · rw [hinbox]
    exact List.mem_append_right _ (List.mem_singleton.mpr rfl)
  · obtain ⟨-, -, -, -, -, hsame, htransit⟩ := hcounted.same .fabric rfl
    have hslots : (slotsReady (frameCounted s port f0) port f).inbox = s.inbox :=
      (slotsReady_inbox port f (by rw [htransit]; exact hplaced)).trans hsame
    rw [hinbox, ← hslots]
    rfl

end Sys2Proof.Machine
end

section
/-! PROOFS. O56: the light of a port, and its keying (R296, R321, R335, R341 to R344). -/

set_option Elab.async false

namespace Sys2Proof.Machine

/-! ### The light of a port (R321, R341) -/

/-- Whether a port has its laser, and whether its receive input is low. -/
def Port.light (v : Port) : Bool × Bool := (v.laser, v.riLost)

/-- The light of every port is as it was. -/
def SameLight (s t : State) : Prop := ∀ q, (getPort t q).light = (getPort s q).light

theorem SameLight.refl (s : State) : SameLight s s := fun _ => rfl

theorem SameLight.trans {s t u : State} (h : SameLight s t) (g : SameLight t u) : SameLight s u := fun q => (g q).trans (h q)

theorem SameLight.of_ports {s t : State} (h : t.ports = s.ports) : SameLight s t := fun q => by rw [getPort_congr h]

theorem SameLight.of_changes {K : List Kind} {s t : State} (h : Changes K s t) (hk : K.contains .ports = false := by rfl) : SameLight s t :=
  .of_ports (h.same .ports hk).1

theorem SameLight.foldl {α : Type} {f : State → α → State} (hf : ∀ s a, SameLight s (f s a)) (l : List α) (s : State) : SameLight s (l.foldl f s) := by
  induction l generalizing s with
  | nil => exact .refl s
  | cons a r ih => exact (hf s a).trans (ih _)

/-- A port that is written with its light as it was. -/
theorem putPort_light {s : State} {p : Nat} {v : Port} (hlaser : v.laser = (getPort s p).laser) (hlost : v.riLost = (getPort s p).riLost) :
    SameLight s (putPort s p v) := fun q => by
  have h : v.light = (getPort s p).light := Prod.ext hlaser hlost
  by_cases hqp : q = p
  · subst hqp
    by_cases hlen : q < s.ports.length
    · rw [getPort_putPort hlen, h]
    · rw [getPort_congr (t := putPort s q v) (List.set_eq_of_length_le (by omega))]
  · rw [getPort_putPort_ne _ _ hqp]

theorem abortPart_light (s : State) (port vc : Nat) : SameLight s (abortPart s port vc) := by
  unfold abortPart
  split
  · exact .refl s
  · dsimp only
    split
    · exact .refl s
    · split
      · split
        · exact .of_ports rfl
        · exact (SameLight.of_ports rfl).trans (putPort_light rfl rfl)
      · exact .refl s

theorem dropPartial_light (s : State) (port vc : Nat) : SameLight s (dropPartial s port vc) := by
  unfold dropPartial
  split
  · exact .refl s
  · unfold dropPacket
    have haborted := abortPart_light s port vc
    dsimp only
    generalize abortPart s port vc = x at haborted ⊢
    refine SameLight.trans ?_ (.of_changes (odBump_changes _ _ _ _))
    exact haborted.trans (putPort_light rfl rfl)

/-- A port that enters a state leaves the light of every port, its own too. -/
theorem setPortState_light (s : State) (p v code : Nat) : SameLight s (setPortState s p v code) := by
  have hdropped : SameLight s (if portState s p = 3 then dropFlight s p else s) := by
    split
    · refine SameLight.foldl (fun t vc => ?_) _ s
      split
      · exact .refl t
      · exact dropPartial_light t p vc
    · exact .refl s
  rw [setPortState_eq]
  split
  · exact .refl s
  · exact (hdropped.trans (.of_changes (stateChange_changes _ _ _ _ _ _ _))).trans (.of_ports (progress_stepOnly _).ports)

theorem goDark_light (s : State) (p : Nat) : SameLight s (goDark s p) := by
  have hentered := setPortState_light s p 0 0
  unfold goDark
  dsimp only
  generalize setPortState s p 0 0 = x at hentered ⊢
  exact hentered.trans (putPort_light rfl rfl)

theorem enterTraining_light (s : State) (p : Nat) : SameLight s (enterTraining s p) := by
  have hentered := setPortState_light s p 1 0
  unfold enterTraining
  dsimp only
  generalize setPortState s p 1 0 = x at hentered ⊢
  refine SameLight.trans ?_ (.of_changes (sendMarkers_changes _ p))
  exact hentered.trans (putPort_light rfl rfl)

theorem portState_enterTraining (s : State) {p : Nat} (hp : p < 16) : portState (enterTraining s p) p = 1 := by
  unfold enterTraining portState
  dsimp only
  rw [(OdKeeps.of_changes (P := fun _ => True) (sendMarkers_changes _ p)).get _ _ trivial]
  exact portState_setPortState s hp 1 0

/-- A port that is DARK has no ring that is not OFF. -/
theorem goDark_rings {s : State} {p : Nat} (hs : s.Sound) (hp : p < 16) :
    (∀ r ∈ (getPort (goDark s p) p).tx, r = Ring.off) ∧ ∀ r ∈ (getPort (goDark s p) p).rx, r = Ring.off := by
  have hlen : p < (setPortState s p 0 0).ports.length := by
    rw [((setPortState_changes s p 0 0).sound hs).ports]
    exact hp
  unfold goDark
  dsimp only
  rw [getPort_putPort hlen]
  exact ⟨fun r hr => List.eq_of_mem_map_const hr, fun r hr => List.eq_of_mem_map_const hr⟩

/-- The light that a row writes to a port stands through a step that leaves the light. -/
theorem light_after {s : State} {p : Nat} (hs : s.Sound) (hp : p < 16) {t : State} {v : Port} (h : SameLight (putPort s p v) t) : (getPort t p).light = v.light := by
  rw [h p, getPort_putPort (by rw [hs.ports]; exact hp)]

/-- Without VBULK no light is read (R510). -/
theorem light_unread {s : State} (h : bulkOn s = false) (p : Nat) (x : Int) :
    exec (.laserLost p x) s = .next s ∧ exec (.laserPresent p x) s = .next s ∧ exec (.riLow p x) s = .next s ∧ exec (.riRestored p x) s = .next s :=
  ⟨congrArg Host.Outcome.next (if_neg (by simp [h])), congrArg Host.Outcome.next (if_neg (by simp [h])),
    congrArg Host.Outcome.next (if_neg (by simp [h])), congrArg Host.Outcome.next (if_neg (by simp [h]))⟩

section
variable {s : State} {p : Nat} (hs : s.Sound) (hbulk : bulkOn s = true) (hp : p < 16)
include hs hbulk hp

theorem laserLost_darkens {li : Int} (hli : li < 1600) (hlaser : (getPort s p).laser = true) :
    ∃ t, exec (.laserLost p li) s = .next t ∧ portState t p = 0 ∧ (getPort t p).laser = false ∧
      (∀ r ∈ (getPort t p).tx, r = Ring.off) ∧ ∀ r ∈ (getPort t p).rx, r = Ring.off := by
  have hready : (decide (p < 16) && bulkOn s && decide (li < 1600) && (getPort s p).laser) = true := by simp [hp, hbulk, hli, hlaser]
  have hdark := light_after hs hp (goDark_light (putPort s p { getPort s p with laser := false }) p)
  exact ⟨_, congrArg Host.Outcome.next (if_pos hready), portState_goDark _ hp, congrArg Prod.fst hdark,
    goDark_rings ((putPort_changes s p _).sound hs) hp⟩

theorem laserPresent_wakes {li : Int} (hli : 1600 ≤ li) :
    ∃ t, exec (.laserPresent p li) s = .next t ∧ (getPort t p).laser = true ∧
      (8 ≤ startStep s → portState s p = 0 → portEnabled s p = true → s.vhtr = true → portState t p = 1) ∧
      (portState s p ≠ 0 → portState t p = portState s p) := by
  have hready : (decide (p < 16) && bulkOn s && decide (1600 ≤ li)) = true := by simp [hp, hbulk, hli]
  have hlit : (getPort (putPort s p { getPort s p with laser := true }) p).laser = true := by
    rw [getPort_putPort (by rw [hs.ports]; exact hp)]
  refine ⟨_, congrArg Host.Outcome.next (if_pos hready), (wakePort_laser _ p p).trans hlit, fun hstep hdark henabled hvhtr => ?_, fun hnot => ?_⟩
  · exact portState_wakePort hp ⟨hstep, henabled, hvhtr, hlit, .inl hdark⟩
  · have hstays : wakePort (putPort s p { getPort s p with laser := true }) p = putPort s p { getPort s p with laser := true } := by
      have hlight : portState (putPort s p { getPort s p with laser := true }) p ≠ 0 := hnot
      unfold wakePort
      exact if_neg (by simp [hlight])
    rw [hstays]
    rfl

theorem riLow_trains {ri : Int} (hri : ri < -500) :
    ∃ t, exec (.riLow p ri) s = .next t ∧ (getPort t p).riLost = true ∧ portState t p = if portState s p = 3 then 1 else portState s p := by
  have hready : (decide (p < 16) && bulkOn s && decide (ri < -500)) = true := by simp [hp, hbulk, hri]
  refine ⟨_, congrArg Host.Outcome.next (if_pos hready), ?_⟩
  dsimp only
  split
  · exact ⟨congrArg Prod.snd (light_after hs hp (enterTraining_light (putPort s p { getPort s p with riLost := true }) p)),
      portState_enterTraining _ hp⟩
  · exact ⟨congrArg Prod.snd (light_after hs hp (.refl (putPort s p { getPort s p with riLost := true }))), rfl⟩

theorem riRestored_trains {ri : Int} (hri : -500 ≤ ri) :
    ∃ t, exec (.riRestored p ri) s = .next t ∧ (getPort t p).riLost = false ∧
      portState t p = if (getPort s p).riLost = true ∧ portState s p = 4 then 1 else portState s p := by
  have hready : (decide (p < 16) && bulkOn s && decide (-500 ≤ ri)) = true := by simp [hp, hbulk, hri]
  refine ⟨_, congrArg Host.Outcome.next (if_pos hready), ?_⟩
  dsimp only
  split
  · next h =>
    rw [if_pos (by simpa using h)]
    exact ⟨congrArg Prod.snd (light_after hs hp (enterTraining_light (putPort s p { getPort s p with riLost := false }) p)),
      portState_enterTraining _ hp⟩
  · next h =>
    rw [if_neg (by simpa using h)]
    exact ⟨congrArg Prod.snd (light_after hs hp (.refl (putPort s p { getPort s p with riLost := false }))), rfl⟩

end

/-! ### The lanes of a port (R324, R331) -/

/-- The lanes of a port stand as they did: its rings, what its receiver and the far one say of them, and its lane maps. -/
structure SameLanes (p : Nat) (s t : State) : Prop where
  tx : (getPort t p).tx = (getPort s p).tx
  rx : (getPort t p).rx = (getPort s p).rx
  report : (getPort t p).lastReport = (getPort s p).lastReport
  aligned : (getPort t p).aligned = (getPort s p).aligned
  slotBad : (getPort t p).slotBad = (getPort s p).slotBad
  maps : ∀ n, n = 0x0A ∨ n = 0x0B → odGet t (0x5200 + p) n = odGet s (0x5200 + p) n

theorem SameLanes.refl (p : Nat) (s : State) : SameLanes p s s := ⟨rfl, rfl, rfl, rfl, rfl, fun _ _ => rfl⟩

theorem SameLanes.trans {p : Nat} {s t u : State} (h : SameLanes p s t) (g : SameLanes p t u) : SameLanes p s u :=
  ⟨g.tx.trans h.tx, g.rx.trans h.rx, g.report.trans h.report, g.aligned.trans h.aligned, g.slotBad.trans h.slotBad,
    fun n hn => (g.maps n hn).trans (h.maps n hn)⟩

section
variable {p : Nat} {s t : State} (h : SameLanes p s t)
include h

theorem SameLanes.getRing (tx : Bool) (slot : Nat) : getRing t p tx slot = getRing s p tx slot := by
  unfold Machine.getRing
  rw [h.tx, h.rx]

theorem SameLanes.slotRole (tx : Bool) (slot : Nat) : slotRole t p tx slot = slotRole s p tx slot := by
  unfold Machine.slotRole mapByte
  rw [h.maps _ (by cases tx <;> simp [mapSub])]

theorem SameLanes.slotUsable (tx : Bool) (slot : Nat) : slotUsable t p tx slot = slotUsable s p tx slot := by
  unfold Machine.slotUsable farStatus
  rw [h.slotRole, h.getRing, h.report, h.aligned, h.slotBad]

theorem SameLanes.enoughLanes : enoughLanes t p = enoughLanes s p := by
  unfold Machine.enoughLanes usableLanes
  simp only [funext (h.slotUsable true), funext (h.slotUsable false)]

theorem SameLanes.spareComing (tx : Bool) : spareComing t p tx = spareComing s p tx := by
  unfold Machine.spareComing
  simp only [h.slotRole, h.getRing, h.slotUsable]

end

/-- A port that is written with its lanes as they were, the dictionary left alone. -/
theorem SameLanes.of_set {s t : State} {p : Nat} (hlen : p < s.ports.length) {v : Port} (hports : t.ports = s.ports.set p v) (hod : t.od = s.od)
    (htx : v.tx = (getPort s p).tx := by rfl) (hrx : v.rx = (getPort s p).rx := by rfl)
    (hreport : v.lastReport = (getPort s p).lastReport := by rfl) (haligned : v.aligned = (getPort s p).aligned := by rfl)
    (hbad : v.slotBad = (getPort s p).slotBad := by rfl) : SameLanes p s t := by
  have hport : getPort t p = v := (getPort_congr (s := putPort s p v) hports p).trans (getPort_putPort hlen v)
  exact ⟨by rw [hport, htx], by rw [hport, hrx], by rw [hport, hreport], by rw [hport, haligned], by rw [hport, hbad],
    fun n _ => (OdKeeps.of_od (P := fun _ => True) hod).get _ n trivial⟩

theorem SameLanes.of_ports {p : Nat} {s t : State} (h : t.ports = s.ports)
    (hmaps : ∀ n, n = 0x0A ∨ n = 0x0B → odGet t (0x5200 + p) n = odGet s (0x5200 + p) n) : SameLanes p s t := by
  have hport := getPort_congr h p
  exact ⟨by rw [hport], by rw [hport], by rw [hport], by rw [hport], by rw [hport], hmaps⟩

/-! ### A port that goes UP (R334, R335, R341) -/

/-- A lane that takes a usable SPARE is a MOVE that waits and a word that goes out: the dictionary stands. -/
theorem placeLane_od {s : State} {p : Nat} (lane : Nat) (hspare : (freeSpare s p).isSome = true) :
    (placeLane s p lane).od = s.od ∧ (placeLane s p lane).ports.length = s.ports.length := by
  obtain ⟨n, hn⟩ := Option.isSome_iff_exists.mp hspare
  unfold placeLane
  split
  · exact ⟨rfl, rfl⟩
  · simp only [hn]
    exact ⟨rfl, List.length_set ..⟩

theorem placeLane_lanes {s : State} {p : Nat} (hlen : p < s.ports.length) (lane : Nat) (hspare : (freeSpare s p).isSome = true) :
    SameLanes p s (placeLane s p lane) := by
  obtain ⟨n, hn⟩ := Option.isSome_iff_exists.mp hspare
  unfold placeLane
  split
  · exact .refl p s
  · simp only [hn]
    exact .of_set hlen rfl rfl

/-- Lanes are placed on SPAREs that are usable alone, so that what each such lane keeps all of them keep. -/
theorem placeLanes_rec {P : State → Prop} {p : Nat} (hplace : ∀ t lane, (freeSpare t p).isSome = true → P t → P (placeLane t p lane)) {s : State}
    (hs : P s) : P (placeLanes s p) := by
  unfold placeLanes
  refine List.foldlRecOn (motive := P) _ _ hs fun t ih lane _ => ?_
  split
  · next h =>
    rw [Bool.and_eq_true] at h
    exact hplace t lane h.2 ih
  · exact ih

theorem placeLanes_od (s : State) (p : Nat) : (placeLanes s p).od = s.od :=
  placeLanes_rec (P := fun t => t.od = s.od) (fun _ lane hspare ih => (placeLane_od lane hspare).1.trans ih) rfl

theorem placeLanes_lanes {s : State} {p : Nat} (hlen : p < s.ports.length) : SameLanes p s (placeLanes s p) :=
  (placeLanes_rec (P := fun t => SameLanes p s t ∧ p < t.ports.length) (fun _ lane hspare ih =>
    ⟨ih.1.trans (placeLane_lanes ih.2 lane hspare), (placeLane_od lane hspare).2 ▸ ih.2⟩) ⟨.refl p s, hlen⟩).1

/-- A port that is UP with too few usable lanes trains while a spare is still to come, and is isolated else. -/
def upOutcome (s : State) (p : Nat) : Nat := if enoughLanes s p then 3 else if spareComing s p true || spareComing s p false then 1 else 4

theorem settlePort_up {s0 s : State} {p : Nat} (hp : p < 16) (hlen : p < s.ports.length) (hup : portState s p = 3) :
    portState (settlePort s0 s p) p = upOutcome s p ∧ OffPort p s (settlePort s0 s p) := by
  have hlanes := placeLanes_lanes hlen
  have hod := placeLanes_od s p
  have hplaced : portState (placeLanes s p) p = 3 := by unfold portState odGet; rw [hod]; exact hup
  have hkeeps : OffPort p s (placeLanes s p) := .of_od hod
  have hcoat : restartCoat s0 (placeLanes s p) p = placeLanes s p := by simp [restartCoat, hplaced]
  have hsettle : settlePort s0 s p = if enoughLanes (placeLanes s p) p then placeLanes s p
      else if spareComing (placeLanes s p) p true || spareComing (placeLanes s p) p false then enterTraining (placeLanes s p) p
      else isolate (placeLanes s p) p 0 := by
    unfold settlePort
    simp only [hup, show (decide (1 ≤ 3) && decide (3 ≤ 3)) = true from rfl, if_true, hcoat, hplaced]
    cases enoughLanes (placeLanes s p) p <;> simp
  unfold upOutcome
  rw [hsettle, hlanes.enoughLanes, hlanes.spareComing, hlanes.spareComing]
  split_ifs
  · exact ⟨hplaced, hkeeps⟩
  · exact ⟨portState_enterTraining _ hp, hkeeps.trans (enterTraining_offPort _ p)⟩
  · exact ⟨portState_isolate _ hp 0, hkeeps.trans (isolate_offPort _ p 0)⟩

/-- A port that keyed goes UP, as far as its lanes allow. -/
theorem goUp_settles {s : State} {p : Nat} (hp : p < 16) (hlen : p < s.ports.length) (hkeying : portState s p = 2) :
    portState (goUp s p) p = upOutcome s p ∧ OffPort p s (goUp s p) := by
  have hports : (setPortState s p 3 0).ports = s.ports := setPortState_ports (by omega) 3 0
  have hoff := setPortState_offPort s p 3 0
  have hlanes : SameLanes p s (setPortState s p 3 0) := .of_ports hports fun n hn =>
    hoff.get _ _ ⟨not_portOwn_map hp (by omega), not_startPage (by omega) (by omega)⟩
  obtain ⟨hstate, hsettled⟩ := settlePort_up (s0 := s) hp (by rw [hports]; exact hlen) (portState_setPortState s hp 3 0)
  refine ⟨hstate.trans ?_, hoff.trans hsettled⟩
  unfold upOutcome
  rw [hlanes.enoughLanes, hlanes.spareComing, hlanes.spareComing]

/-- An isolated port raises its snag (R335). -/
theorem isolate_snag (s : State) (p detail : Nat) : bitOf (odGet (isolate s p detail) 0x7000 0x01) (112 + p) = true := by
  unfold isolate
  dsimp only
  rw [(OdKeeps.of_changes (P := fun _ => True) (putPort_changes _ p _)).get _ _ trivial]
  exact (fileCode_logs _ _ _ _).snags _ (snagSet_logs _ _).2

/-! ### Keying (R296, R342 to R344) -/

/-- A port whose round trip, headroom, claim and result stand, before it leaves KEYING. -/
def keyedAs (s : State) (p rtt : Nat) (claim : Option Nat) (entry : State → Nat) : State :=
  let noted := odBump (odSet (odSet (putPort s p { (getPort s p) with cls := odGet s (0x5200 + p) 0x02 }) (0x5200 + p) 0x03 rtt) (0x5200 + p) 0x04
    (headroom rtt)) 0x5310 0x03 1
  setKeyEntry (setClaim noted p claim) p (entry noted)

/-- The entries that a keying writes: its round trip and headroom, and the page of the results. -/
def keyingOwn (p k : Nat) : Prop := k = odKey (0x5200 + p) 0x03 ∨ k = odKey (0x5200 + p) 0x04 ∨ k / 256 = 0x5310 ∨ logKey k

section
variable (s : State) {p : Nat} (rtt : Nat) (claim : Option Nat) (entry : State → Nat)

theorem keyedAs_keeps (p : Nat) : OdKeeps (fun k => ¬ keyingOwn p k) s (keyedAs s p rtt claim entry) := by
  have hrtt : OdKeeps (fun k => ¬ keyingOwn p k) s (odSet (putPort s p { (getPort s p) with cls := odGet s (0x5200 + p) 0x02 }) (0x5200 + p) 0x03 rtt) :=
    (OdKeeps.of_changes (putPort_changes s p _)).trans (.set _ _ fun h => h (.inl rfl))
  have hroom := hrtt.trans (.set _ (headroom rtt) fun h => h (.inr (.inl rfl)))
  have hcount := hroom.trans ((odBump_keeps _ 0x5310 0x03 1).mono fun k hk => ⟨fun e => hk (.inr (.inr (.inl (by rw [e]; rfl)))),
    fun hl => hk (.inr (.inr (.inr hl)))⟩)
  exact (hcount.trans (.of_changes (putPort_changes _ p _))).trans (.set _ _ fun h => h (.inr (.inr (.inl (by unfold odKey; omega)))))

theorem keyedAs_reads (hp : p < 16) : odGet (keyedAs s p rtt claim entry) (0x5200 + p) 0x03 = rtt ∧
    odGet (keyedAs s p rtt claim entry) (0x5200 + p) 0x04 = headroom rtt := by
  have hafter : ∀ (x : State) n, n = 3 ∨ n = 4 → odGet (setKeyEntry (setClaim (odBump x 0x5310 0x03 1) p claim) p (entry (odBump x 0x5310 0x03 1)))
      (0x5200 + p) n = odGet x (0x5200 + p) n := fun x n hn => by
    unfold setKeyEntry
    rw [odGet_odSet_ne _ _ (by unfold odKey; omega)]
    exact (odBump_keeps x _ _ _).get _ _ ⟨by unfold odKey; omega, not_logKey (by omega) (by omega)⟩
  unfold keyedAs
  dsimp only
  rw [hafter _ _ (.inl rfl), hafter _ _ (.inr rfl), odGet_odSet, odGet_odSet_ne _ _ (by unfold odKey; omega), odGet_odSet]
  exact ⟨rfl, rfl⟩

theorem keyedAs_lanes (hp : p < 16) (hlen : p < s.ports.length) : SameLanes p s (keyedAs s p rtt claim entry) ∧
    p < (keyedAs s p rtt claim entry).ports.length := by
  have hmaps : ∀ n, n = 0x0A ∨ n = 0x0B → odGet (keyedAs s p rtt claim entry) (0x5200 + p) n = odGet s (0x5200 + p) n := fun n hn =>
    (keyedAs_keeps s rtt claim entry p).get _ _ (by unfold keyingOwn logKey odKey; omega)
  unfold keyedAs at hmaps ⊢
  dsimp only at hmaps ⊢
  have hcounted := ((odBump_changes (odSet (odSet (putPort s p { (getPort s p) with cls := odGet s (0x5200 + p) 0x02 }) (0x5200 + p) 0x03 rtt)
    (0x5200 + p) 0x04 (headroom rtt)) 0x5310 0x03 1).same .ports rfl).1
  generalize odBump (odSet (odSet (putPort s p { (getPort s p) with cls := odGet s (0x5200 + p) 0x02 }) (0x5200 + p) 0x03 rtt)
    (0x5200 + p) 0x04 (headroom rtt)) 0x5310 0x03 1 = x at *
  have hport : getPort x p = { (getPort s p) with cls := odGet s (0x5200 + p) 0x02 } :=
    (getPort_congr hcounted p).trans (getPort_putPort hlen _)
  have hxlen : p < x.ports.length := by rw [hcounted]; exact (List.length_set ..).symm ▸ hlen
  have hclaimed := getPort_putPort hxlen { getPort x p with claim := claim }
  have hlast : getPort (setKeyEntry (setClaim x p claim) p (entry x)) p = { getPort x p with claim := claim } := hclaimed
  exact ⟨⟨by rw [hlast, hport], by rw [hlast, hport], by rw [hlast, hport], by rw [hlast, hport], by rw [hlast, hport], hmaps⟩,
    (List.length_set ..).symm ▸ hxlen⟩

theorem keyedAs_state (hp : p < 16) : portState (keyedAs s p rtt claim entry) p = portState s p :=
  (keyedAs_keeps s rtt claim entry p).get _ _ (by unfold keyingOwn logKey odKey; omega)

end

section
variable {s : State} {p rtt : Nat} {far : Nat × Nat × Nat × Nat} (hp : p < 16) (hlen : p < s.ports.length) (hkeying : portState s p = 2)
  (hfar : (getPort s p).far = some far) (hechoes : 64 ≤ (getPort s p).echoes.length) (hnumber : hasNumber s = true)
  (hrtt : rtt = median64 ((getPort s p).echoes.map (·.2)))
include hkeying hfar hechoes hnumber hrtt

/-- With a far end that the plan names for it the port keys, unless its round trip is beyond the limit of its reach class. -/
theorem keyPort_matched (hplan : planMatches s p far = true) : ∃ entry, keyPort s p =
    if reachLimit (odGet s (0x5200 + p) 0x02) < rtt then isolate (keyedAs s p rtt (some p) entry) p 1 else goUp (keyedAs s p rtt (some p) entry) p := by
  refine ⟨fun x => resultEntry 1 (logicalOf x p) false (decide (reachLimit (odGet s (0x5200 + p) 0x02) < rtt)) far.2.1 far.1, ?_⟩
  have hopen : (decide (portState s p ≠ 2) || decide ((getPort s p).echoes.length < 64)) = false := by simp [hkeying, hechoes]
  unfold keyPort
  simp only [hfar, hopen, hnumber, hplan, ← hrtt, Bool.false_eq_true, if_false, Bool.not_true, if_true, decide_eq_true_eq, keyedAs]

/-- A far end that no entry of the plan names isolates the port. -/
theorem keyPort_unknown (hplan : planMatches s p far = false) (hnone : swappedTo s p far = none) :
    ∃ entry, keyPort s p = isolate (keyedAs s p rtt none entry) p 3 := by
  refine ⟨fun x => resultEntry 3 (logicalOf x p) false (decide (reachLimit (odGet s (0x5200 + p) 0x02) < rtt)) far.2.1 far.1, ?_⟩
  have hopen : (decide (portState s p ≠ 2) || decide ((getPort s p).echoes.length < 64)) = false := by simp [hkeying, hechoes]
  unfold keyPort
  simp only [hfar, hopen, hnumber, hplan, hnone, ← hrtt, Bool.false_eq_true, if_false, Bool.not_true, keyedAs]

include hp

theorem keying_isolates (hplan : planMatches s p far = false) (hnone : swappedTo s p far = none) : ∃ t, exec (.keying p) s = .next t ∧
    portState t p = 4 ∧ bitOf (odGet t 0x7000 0x01) (112 + p) = true := by
  obtain ⟨entry, hkeyed⟩ := keyPort_unknown hkeying hfar hechoes hnumber hrtt hplan hnone
  refine ⟨keyPort s p, congrArg Host.Outcome.next (if_pos hp), ?_⟩
  rw [hkeyed]
  exact ⟨portState_isolate _ hp 3, isolate_snag _ p 3⟩

include hlen

theorem keying_keys (hplan : planMatches s p far = true) : ∃ t, exec (.keying p) s = .next t ∧ odGet t (0x5200 + p) 0x03 = rtt ∧
    odGet t (0x5200 + p) 0x04 = headroom rtt ∧ portState t p = if reachLimit (odGet s (0x5200 + p) 0x02) < rtt then 4 else if enoughLanes s p then 3
      else if spareComing s p true || spareComing s p false then 1 else 4 := by
  obtain ⟨entry, hkeyed⟩ := keyPort_matched hkeying hfar hechoes hnumber hrtt hplan
  obtain ⟨hround, hroom⟩ := keyedAs_reads s rtt (some p) entry hp
  obtain ⟨hlanes, hlen'⟩ := keyedAs_lanes s rtt (some p) entry hp hlen
  obtain ⟨hup, hupOff⟩ := goUp_settles hp hlen' ((keyedAs_state s rtt (some p) entry hp).trans hkeying)
  have hoff : OffPort p (keyedAs s p rtt (some p) entry) (keyPort s p) := by
    rw [hkeyed]
    split
    · exact isolate_offPort _ p 1
    · exact hupOff
  have hreads : ∀ n, n = 3 ∨ n = 4 → odGet (keyPort s p) (0x5200 + p) n = odGet (keyedAs s p rtt (some p) entry) (0x5200 + p) n := fun n hn =>
    hoff.get _ _ ⟨not_portOwn_map hp (by omega), not_startPage (by omega) (by omega)⟩
  refine ⟨keyPort s p, congrArg Host.Outcome.next (if_pos hp), (hreads 3 (.inl rfl)).trans hround, (hreads 4 (.inr rfl)).trans hroom, ?_⟩
  rw [hkeyed]
  split
  · exact portState_isolate _ hp 1
  · rw [hup, upOutcome, hlanes.enoughLanes, hlanes.spareComing, hlanes.spareComing]

end

/-- A keying without an identity in its time counts, and the port goes DARK (R342). -/
theorem keyingTimeExpiry_darkens {s : State} {p : Nat} (hp : p < 16) (hkeying : portState s p = 2) (hfar : (getPort s p).far = none) :
    ∃ t, exec (.keyingTimeExpiry p) s = .next t ∧ portState t p = 0 ∧ odGet t 0x5310 0x03 = min cntMax (odGet s 0x5310 0x03 + 1) := by
  have hready : (decide (p < 16) && decide (portState s p = 2) && (getPort s p).far.isNone) = true := by simp [hp, hkeying, hfar]
  refine ⟨_, congrArg Host.Outcome.next (if_pos hready), portState_goDark _ hp, ?_⟩
  rw [(goDark_offPort _ p).get _ _ ⟨by unfold portOwn logKey odKey; omega, not_startPage (by decide) (by decide)⟩,
    odGet_odBump _ _ _ _ (not_logKey (by decide) (by decide)), setKeyEntry, odGet_odSet_ne _ _ (by decide)]

theorem keyingDarkRetry_wakes {s : State} {p : Nat} (hp : p < 16) (hdark : portState s p = 0) (hresult : bits (keyEntry s p) 60 4 = 4)
    (hstep : 8 ≤ startStep s) (henabled : portEnabled s p = true) (hvhtr : s.vhtr = true) (hlaser : (getPort s p).laser = true) :
    ∃ t, exec (.keyingDarkRetry p) s = .next t ∧ portState t p = 1 := by
  have hready : (decide (p < 16) && decide (portState s p = 0) && decide (bits (keyEntry s p) 60 4 = 4)) = true := by simp [hp, hdark, hresult]
  exact ⟨_, congrArg Host.Outcome.next (if_pos hready), portState_wakePort hp ⟨hstep, henabled, hvhtr, hlaser, .inl hdark⟩⟩

/-- Settles O56: each row of the light and of the keying by its lemma. -/
theorem portsFollowTheirLight : Obligations.PortsFollowTheirLight :=
  ⟨fun _ p x hbulk => light_unread hbulk p x,
    fun _ _ _ hs hbulk hp => ⟨laserLost_darkens hs hbulk hp, laserPresent_wakes hs hbulk hp⟩,
    fun _ _ _ hs hbulk hp => ⟨riLow_trains hs hbulk hp, riRestored_trains hs hbulk hp⟩,
    fun _ _ _ _ hp hlen hkeying hfar hechoes hnumber hrtt => ⟨keying_keys hp hlen hkeying hfar hechoes hnumber hrtt,
      keying_isolates hp hkeying hfar hechoes hnumber hrtt⟩,
    fun _ _ hp => ⟨keyingTimeExpiry_darkens hp, keyingDarkRetry_wakes hp⟩⟩

end Sys2Proof.Machine
end

section
/-! PROOFS. The ports that the package number and a re-key request act on: which entries they write (R288, R341, R342, R345), for O46. -/

set_option Elab.async false

namespace Sys2Proof.Machine

/-! ### Pages below those of the ports -/

/-- The entries below the pages of the ports, but for the start-up's. -/
def belowPorts (k : Nat) : Prop := k < 0x520000 ∧ ¬ startPage k

theorem OffPort.below {p : Nat} {s t : State} (h : OffPort p s t) : OdKeeps belowPorts s t := h.mono fun k hk =>
  ⟨fun hown => by
    have hlow := hk.1
    unfold portOwn logKey odKey at hown
    omega, hk.2⟩

theorem odSet_below (s : State) {i : Nat} (sub v : Nat) (h : 0x5200 ≤ i) : OdKeeps belowPorts s (odSet s i sub v) :=
  .set s v fun hk => by
    have hlow := hk.1
    unfold odKey at hlow
    omega

/-- A port that starts keying writes its state alone. -/
theorem enterKeying_offPort (s : State) (p : Nat) : OffPort p s (enterKeying s p) := by
  have hentered := setPortState_offPort s p 2 0
  unfold enterKeying
  dsimp only
  generalize setPortState s p 2 0 = x at hentered ⊢
  refine OdKeeps.trans ?_ (.of_changes (sendEchoes_changes _ p))
  exact hentered.trans (.of_od rfl)

/-- A re-key request writes the state of its port alone. -/
theorem rekeyPort_offPort (s : State) (p : Nat) : OffPort p s (rekeyPort s p) := by
  unfold rekeyPort
  split
  · exact enterTraining_offPort s p
  split
  · exact .of_od rfl
  split
  · dsimp only
    split
    · refine OdKeeps.trans ?_ (enterKeying_offPort _ p)
      exact .of_od rfl
    · exact .of_od rfl
  · exact .refl s

theorem settlePort_offPort (s0 s : State) (p : Nat) : OffPort p s (settlePort s0 s p) := by
  have hplaced : OffPort p s (restartCoat s0 (if 1 ≤ portState s p && portState s p ≤ 3 then placeLanes s p else s) p) := by
    refine OdKeeps.trans ?_ (.of_changes (restartCoat_changes s0 _ p))
    split
    · exact .of_od (placeLanes_od s p)
    · exact .refl s
  unfold settlePort
  dsimp only
  generalize restartCoat s0 (if 1 ≤ portState s p && portState s p ≤ 3 then placeLanes s p else s) p = x at hplaced ⊢
  split
  · exact hplaced.trans (enterKeying_offPort x p)
  split
  · exact hplaced.trans (enterTraining_offPort x p)
  split
  · split
    · exact hplaced.trans (enterTraining_offPort x p)
    · exact hplaced.trans (isolate_offPort x p 0)
  split
  · exact hplaced.trans (isolate_offPort x p 0)
  · exact hplaced

theorem goUp_below (s : State) (p : Nat) : OdKeeps belowPorts s (goUp s p) :=
  OffPort.below ((setPortState_offPort s p 3 0).trans (settlePort_offPort s _ p))

theorem isolateSwapped_below (s0 s : State) : OdKeeps belowPorts s (isolateSwapped s0 s) :=
  .foldl (fun t x => by
    split
    · exact (isolate_offPort t x.1 2).below
    · exact .refl t) _ s

theorem setKeyEntry_below (s : State) (p v : Nat) : OdKeeps belowPorts s (setKeyEntry s p v) := odSet_below s _ _ (by decide)

theorem setClaim_below (s : State) (p : Nat) (q : Option Nat) : OdKeeps belowPorts s (setClaim s p q) := .of_od rfl

/-- The round trip of a port that keys, and its headroom, are entries of its own; the count of keyings is one of the results' page. -/
theorem roundTrip_below (s : State) (p rtt : Nat) (v : Port) : OdKeeps belowPorts s (odSet (putPort s p v) (0x5200 + p) 0x03 rtt) :=
  (OdKeeps.of_changes (putPort_changes s p v)).trans (odSet_below _ _ _ (by omega))

theorem keyingCount_below (s : State) (p room : Nat) : OdKeeps belowPorts s (odBump (odSet s (0x5200 + p) 0x04 room) 0x5310 0x03 1) :=
  (odSet_below s _ _ (by omega)).trans ((odBump_keeps _ _ _ _).mono fun k hk => by
    have hlow := hk.1
    unfold logKey odKey
    omega)

/-- The keying of a port writes pages of the ports and of their results alone. -/
theorem keyPort_below (s : State) (p : Nat) : OdKeeps belowPorts s (keyPort s p) := by
  unfold keyPort
  split
  · exact .refl s
  split
  · exact .refl s
  dsimp only
  have hround := roundTrip_below s p (median64 ((getPort s p).echoes.map (·.2))) { getPort s p with cls := odGet s (0x5200 + p) 0x02 }
  have hclaim : ∀ (x : State) q v, OdKeeps belowPorts x (setKeyEntry (setClaim x p q) p v) := fun x q v =>
    (setClaim_below x p q).trans (setKeyEntry_below _ p v)
  generalize odSet (putPort s p { getPort s p with cls := odGet s (0x5200 + p) 0x02 }) (0x5200 + p) 0x03
    (median64 ((getPort s p).echoes.map (·.2))) = x at hround ⊢
  split
  · exact hround.trans (setKeyEntry_below x p _)
  have hcount := hround.trans (keyingCount_below x p (headroom (median64 ((getPort s p).echoes.map (·.2)))))
  generalize odBump (odSet x (0x5200 + p) 0x04 (headroom (median64 ((getPort s p).echoes.map (·.2))))) 0x5310 0x03 1 = y at hcount ⊢
  split
  · split
    · exact (hcount.trans (hclaim y _ _)).trans (isolate_offPort _ p 1).below
    · exact (hcount.trans (hclaim y _ _)).trans (goUp_below _ p)
  split
  · split
    · have hmap := fun q v w => (hcount.trans (setClaim_below y p q)).trans ((odSet_below _ 0x02 v (by decide : 0x5200 ≤ 0x5310)).trans
        (setKeyEntry_below _ p w))
      split
      · exact (hmap _ _ _).trans (isolate_offPort _ p 2).below
      · exact (hmap _ _ _).trans (goUp_below _ p)
    · exact (hcount.trans (hclaim y _ _)).trans (isolateSwapped_below s _)
  · exact (hcount.trans (hclaim y _ _)).trans (isolate_offPort _ p 3).below

end Sys2Proof.Machine
end

section
/-! PROOFS. The count of a request that does not saturate, records that saturate no count, and the events of a freeze that has ended (R432, R446,
R451, R475), for O46. -/

set_option Elab.async false

namespace Sys2Proof.Machine

/-! ### The count of a request (R475) -/

/-- Where the count of requests stays below its end, a path adds one to it alone (R446). -/
theorem odGet_countTaken {t : State} {p : Path} (h : countsOn t p) (i : Nat) {n : Nat} (hn : n < 256) :
    odGet (countTaken p t) i n = odGet t i n + afterReset p (odKey i n) := by
  cases p with
  | mailbox d => rfl
  | job c d => rfl
  | hasowa m d =>
    have hbelow : odGet t 0x6800 0x08 + 1 < cntMax := h
    have hcounted : odGet (odCount t 0x6800 0x08 1) 0x6800 0x08 = odGet t 0x6800 0x08 + 1 := by
      unfold odCount
      rw [odGet_odSet]
      omega
    have hquiet : countTaken (.hasowa m d) t = odCount t 0x6800 0x08 1 := by
      unfold countTaken odBump
      dsimp only
      exact if_neg fun hsat => by omega
    rw [hquiet]
    by_cases hkey : odKey i n = odKey 0x6800 0x08
    · obtain ⟨rfl, rfl⟩ : i = 0x6800 ∧ n = 0x08 := by
        unfold odKey at hkey
        omega
      rw [hcounted]
      rfl
    · unfold odCount
      rw [odGet_odSet_ne _ _ hkey, afterReset, if_neg hkey, Nat.add_zero]

theorem countsOn_of_count {s t : State} {p : Path} (h : countsOn s p) (hcount : odGet t 0x6800 0x08 ≤ odGet s 0x6800 0x08) : countsOn t p := by
  cases p with
  | mailbox d => trivial
  | job c d => trivial
  | hasowa m d =>
    have hbelow : odGet s 0x6800 0x08 + 1 < cntMax := h
    show odGet t 0x6800 0x08 + 1 < cntMax
    omega

/-- The same of the answer, which leaves the dictionary. -/
theorem odGet_answerTo {t : State} {p : Path} (h : countsOn t p) (r : OdReq) (status i : Nat) {n : Nat} (hn : n < 256) :
    odGet (answerTo p r status t) i n = odGet t i n + afterReset p (odKey i n) := by
  have hkept := OdKeeps.of_changes (P := fun _ => True) (respond_changes t p r status r.offset 0 [])
  unfold answerTo
  rw [odGet_countTaken (countsOn_of_count h (hkept.get _ _ trivial).le) i hn, hkept.get _ _ trivial]

theorem afterReset_ne (p : Path) {k : Nat} (h : k ≠ odKey 0x6800 0x08) : afterReset p k = 0 := by
  cases p with
  | mailbox d => rfl
  | job c d => rfl
  | hasowa m d => exact if_neg h

/-! ### Records that saturate no count (R432, R448) -/

/-- Under a freeze, the count of what it holds has room for n more. -/
def recordsFit (s : State) (n : Nat) : Prop := s.dust = true → odGet s 0x7A00 0x04 + n < cntMax

/-- The entries that a record which saturates nothing leaves: all but the count of a freeze. -/
theorem addRecordRaw_keeps (s : State) (r : LogRec) : OdKeeps (fun k => k ≠ odKey 0x7A00 0x04) s (addRecordRaw s r) := by
  unfold addRecordRaw
  split
  · exact (OdKeeps.count s (i := 0x7A00) (sub := 0x04) 1 fun h => h rfl).trans .of_od
  · exact .of_changes (ringPush_changes s r)

theorem addRecordRaw_held (s : State) (r : LogRec) : odGet (addRecordRaw s r) 0x7A00 0x04 ≤ odGet s 0x7A00 0x04 + 1 := by
  unfold addRecordRaw
  split
  · have hcounted : odGet (odCount s 0x7A00 0x04 1) 0x7A00 0x04 = min cntMax (odGet s 0x7A00 0x04 + 1) := odGet_odSet _ _ _ _
    exact hcounted.le.trans (Nat.min_le_right _ _)
  · rw [(OdKeeps.of_changes (P := fun _ => True) (ringPush_changes s r)).get _ _ trivial]
    omega

/-- A record whose freeze has room for it saturates no count. -/
theorem addRecord_quiet {s : State} (r : LogRec) (h : recordsFit s 1) : addRecord s r = addRecordRaw s r := by
  have hheld : odGet (addRecordRaw s r) 0x7A00 0x04 = odGet s 0x7A00 0x04 ∨ odGet (addRecordRaw s r) 0x7A00 0x04 ≠ cntMax := by
    cases hdust : s.dust with
    | true =>
      have hroom := h hdust
      have hle := addRecordRaw_held s r
      exact .inr (by omega)
    | false =>
      unfold addRecordRaw
      rw [hdust, if_neg Bool.false_ne_true]
      exact .inl ((OdKeeps.of_changes (P := fun _ => True) (ringPush_changes s r)).get _ _ trivial)
  have hkept := (addRecordRaw_keeps s r).get
  have hnone : newlySaturated s (addRecordRaw s r) = [] := by
    refine List.filter_eq_nil_iff.mpr fun k hk => ?_
    rw [Bool.and_eq_true, beq_iff_eq, bne_iff_ne]
    rintro ⟨hfull, hbefore⟩
    simp only [recorderCounters, List.mem_cons, List.not_mem_nil, or_false] at hk
    rcases hk with rfl | rfl | rfl | rfl | rfl
    · exact hbefore ((hkept 0x7000 3 (by decide)).symm.trans hfull)
    · exact hbefore ((hkept 0x7100 6 (by decide)).symm.trans hfull)
    · exact hbefore ((hkept 0x7100 7 (by decide)).symm.trans hfull)
    · exact hbefore ((hkept 0x7100 8 (by decide)).symm.trans hfull)
    · exact hheld.elim (fun hsame => hbefore (hsame.symm.trans hfull)) fun hfree => hfree hfull
  unfold addRecord saturationEvents
  rw [hnone]

/-! ### Snag bits that clear (R432) -/

theorem testBit_sub_two_pow {v b c : Nat} (hb : v.testBit b = true) (h : c ≠ b) : (v - 2 ^ b).testBit c = v.testBit c := by
  have hlow : v % 2 ^ (b + 1) < 2 ^ (b + 1) := Nat.mod_lt _ (Nat.two_pow_pos _)
  have hbit : (v % 2 ^ (b + 1)).testBit b = true := by simp [Nat.testBit_mod_two_pow, hb]
  have hge : 2 ^ b ≤ v % 2 ^ (b + 1) := Nat.ge_two_pow_of_testBit hbit
  have hv : 2 ^ (b + 1) * (v / 2 ^ (b + 1)) + v % 2 ^ (b + 1) = v := Nat.div_add_mod _ _
  have hsub : v - 2 ^ b = 2 ^ (b + 1) * (v / 2 ^ (b + 1)) + (v % 2 ^ (b + 1) - 2 ^ b) := by omega
  rw [hsub]
  conv_rhs => rw [← hv]
  rw [Nat.testBit_two_pow_mul_add _ (by omega), Nat.testBit_two_pow_mul_add _ hlow]
  split
  · have hflip := Nat.testBit_two_pow_add_gt (show c < b by omega) (v % 2 ^ (b + 1) - 2 ^ b)
    rw [Nat.add_sub_cancel' hge] at hflip
    exact hflip.symm
  · rfl

theorem bitOf_withBit_false (v b c : Nat) : bitOf (withBit v b false) c = (bitOf v c && !decide (c = b)) := by
  by_cases hc : c = b
  · subst hc
    rw [bitOf_withBit_clear]
    simp
  · unfold bitOf withBit
    rw [if_neg Bool.false_ne_true]
    by_cases hb : v.testBit b = true
    · rw [if_pos hb, testBit_sub_two_pow hb hc]
      simp [hc]
    · rw [if_neg hb]
      simp [hc]

/-- A snag bit clears, with its record. -/
def snagCleared (s : State) (b : Nat) : State :=
  addRecord (odSet s 0x7000 0x01 (withBit (odGet s 0x7000 0x01) b false)) ⟨0, 2, pkgUnit, 0, 0, b, 0, none⟩

theorem clearSnags_eq (s : State) (mask : Nat) :
    clearSnags s mask = ((List.range 256).filter (fun b => bitOf (odGet s 0x7000 0x01) b && bitOf mask b)).foldl snagCleared s := rfl

theorem snagCleared_count (s : State) (b : Nat) : odGet (snagCleared s b) 0x6800 0x08 = odGet s 0x6800 0x08 :=
  ((addRecord_offLog _ _).get _ _ (not_logKey (by decide) (by decide))).trans (odGet_odSet_ne _ _ (by decide))

theorem snagCleared_clears {s : State} {n : Nat} (b : Nat) (h : recordsFit s (n + 1)) :
    (∀ c, bitOf (odGet (snagCleared s b) 0x7000 0x01) c = (bitOf (odGet s 0x7000 0x01) c && !decide (c = b))) ∧ recordsFit (snagCleared s b) n := by
  let x := odSet s 0x7000 0x01 (withBit (odGet s 0x7000 0x01) b false)
  let r : LogRec := ⟨0, 2, pkgUnit, 0, 0, b, 0, none⟩
  have hheld : odGet x 0x7A00 0x04 = odGet s 0x7A00 0x04 := odGet_odSet_ne s _ (by decide)
  have hfit : recordsFit x 1 := fun hdust => by
    have hroom := h hdust
    rw [hheld]
    omega
  have hraw : snagCleared s b = addRecordRaw x r := addRecord_quiet r hfit
  have hle := addRecordRaw_held x r
  have hdust : (addRecordRaw x r).dust = s.dust := (addRecordRaw_recorded x r).dust
  rw [hraw]
  refine ⟨fun c => ?_, fun hfrozen => ?_⟩
  · rw [(addRecordRaw_keeps x r).get _ _ (by decide), show odGet x 0x7000 0x01 = _ from odGet_odSet s _ _ _, bitOf_withBit_false]
  · have hroom := h (hdust.symm.trans hfrozen)
    omega

/-- Bits that clear one after the other. -/
theorem foldl_snagCleared (l : List Nat) {s : State} (h : recordsFit s l.length) (c : Nat) :
    bitOf (odGet (l.foldl snagCleared s) 0x7000 0x01) c = (bitOf (odGet s 0x7000 0x01) c && !decide (c ∈ l)) := by
  induction l generalizing s with
  | nil => simp
  | cons b r ih =>
    obtain ⟨hbits, hfit⟩ := snagCleared_clears b h
    rw [List.foldl_cons, ih hfit, hbits]
    by_cases hcb : c = b <;> simp [hcb]

/-- The snags that a mask names clear, and the others stay. -/
theorem clearSnags_clears {s : State} (h : recordsFit s 256) (mask : Nat) {b : Nat} (hb : b < 256) :
    bitOf (odGet (clearSnags s mask) 0x7000 0x01) b = (bitOf (odGet s 0x7000 0x01) b && !bitOf mask b) := by
  have hlen := List.length_filter_le (fun b => bitOf (odGet s 0x7000 0x01) b && bitOf mask b) (List.range 256)
  rw [List.length_range] at hlen
  rw [clearSnags_eq, foldl_snagCleared _ fun hdust => by
    have hroom := h hdust
    omega]
  cases hset : bitOf (odGet s 0x7000 0x01) b
  · rfl
  · simp [hb, hset]

/-! ### The events of a freeze that has ended (R451) -/

/-- The freeze stands or not as it did, and where none is laid no event is held anew. -/
structure HoldsNone (s t : State) : Prop where
  dust : t.dust = s.dust
  held : s.dust = false → t.heldEvents = s.heldEvents

theorem HoldsNone.refl (s : State) : HoldsNone s s := ⟨rfl, fun _ => rfl⟩

theorem HoldsNone.trans {s t u : State} (h : HoldsNone s t) (g : HoldsNone t u) : HoldsNone s u :=
  ⟨g.dust.trans h.dust, fun hopen => (g.held (h.dust.trans hopen)).trans (h.held hopen)⟩

theorem HoldsNone.of_changes {K : List Kind} {s t : State} (h : Changes K s t) (hk : K.contains .recorder = false := by rfl) : HoldsNone s t := by
  obtain ⟨-, -, -, -, -, -, -, -, -, -, hdust, -, hheld, -⟩ := h.same .recorder hk
  exact ⟨hdust, fun _ => hheld⟩

theorem HoldsNone.foldl {α : Type} {f : State → α → State} (hf : ∀ s a, HoldsNone s (f s a)) (l : List α) (s : State) : HoldsNone s (l.foldl f s) := by
  induction l generalizing s with
  | nil => exact .refl s
  | cons a r ih => exact (hf s a).trans (ih _)

theorem ringPush_holdsNone (s : State) (r : LogRec) : HoldsNone s (ringPush s r) := by
  unfold ringPush
  with_reducible exact ⟨rfl, fun _ => rfl⟩

theorem odCount_holdsNone (s : State) (i sub v : Nat) : HoldsNone s (odCount s i sub v) := .of_changes (odCount_changes s i sub v)

theorem odSet_holdsNone (s : State) (i sub v : Nat) : HoldsNone s (odSet s i sub v) := .of_changes (odSet_changes s i sub v)

theorem addRecordRaw_holdsNone (s : State) (r : LogRec) : HoldsNone s (addRecordRaw s r) := by
  unfold addRecordRaw
  split
  · next hdust => exact ⟨rfl, fun hopen => absurd (hdust.symm.trans hopen) (by decide)⟩
  · exact ringPush_holdsNone s r

theorem snagSetRaw_holdsNone (s : State) (b : Nat) : HoldsNone s (snagSetRaw s b) := by
  unfold snagSetRaw
  dsimp only
  split
  · exact .refl s
  · exact (((odSet_holdsNone s _ _ _).trans (odCount_holdsNone _ _ _ _)).trans (addRecordRaw_holdsNone _ _)).trans (.of_changes (notifyAll_changes _ _))

theorem moveHead_holdsNone (s : State) (t a b : Nat) : HoldsNone s (moveHead s t a b) := by
  unfold moveHead
  dsimp only
  split
  · exact .refl s
  · exact ((odSet_holdsNone s _ _ _).trans (odCount_holdsNone _ _ _ _)).trans (snagSetRaw_holdsNone _ 9)

theorem withReports_holdsNone (s : State) (l : List Report) : HoldsNone s { s with reports := l } := ⟨rfl, fun _ => rfl⟩

theorem fileDetected_holdsNone (s : State) (r : Report) : HoldsNone s (fileDetected s r) := by
  have hqueued : ∀ (x : State) (t : Nat) (l : List Report), HoldsNone x (moveHead (moveHead (odCount (odSet { x with reports := l } 0x7100 0x01 t)
      0x7100 0x08 1) t 0x02 0x06) t 0x04 0x07) := fun x t l =>
    (((withReports_holdsNone x l).trans (odSet_holdsNone _ _ _ _)).trans (odCount_holdsNone _ _ _ _)).trans
      ((moveHead_holdsNone _ _ _ _).trans (moveHead_holdsNone _ _ _ _))
  unfold fileDetected
  dsimp only
  split
  · exact (((addRecordRaw_holdsNone _ _).trans (hqueued _ _ _)).trans (.of_changes (raiseVector_changes _ _))).trans (.of_changes (notifyAll_changes _ _))
  · exact (addRecordRaw_holdsNone _ _).trans (hqueued _ _ _)

theorem fileReportRaw_holdsNone (s : State) (r : Report) : HoldsNone s (fileReportRaw s r) := by
  have hdetected : HoldsNone s (detectReport s r).2 := .of_changes (detectReport_changes s r)
  unfold fileReportRaw
  dsimp only
  split
  · exact hdetected.trans ⟨rfl, fun _ => rfl⟩
  · exact hdetected.trans (fileDetected_holdsNone _ _)

theorem saturationEvent_holdsNone (s : State) (i n : Nat) : HoldsNone s (saturationEvent s i n) := by
  have h := (snagSetRaw_holdsNone s 8).trans (fileReportRaw_holdsNone _ (plainReport 0x8060 0 (counterUnit i) (i * 65536 + n) noPeer))
  unfold saturationEvent
  with_reducible exact h

theorem saturationEvents_holdsNone (n : Nat) (s0 s : State) : HoldsNone s (saturationEvents n s0 s) := by
  induction n generalizing s0 s with
  | zero => exact .refl s
  | succ n ih =>
    unfold saturationEvents
    split
    · exact .refl s
    · refine HoldsNone.trans (HoldsNone.foldl ?_ _ s) (ih _ _)
      intro s k
      exact saturationEvent_holdsNone s k.1 k.2

theorem snagSet_holdsNone (s : State) (b : Nat) : HoldsNone s (snagSet s b) := (snagSetRaw_holdsNone s b).trans (saturationEvents_holdsNone 5 s _)

theorem odBump_holdsNone (s : State) (i sub n : Nat) : HoldsNone s (odBump s i sub n) := by
  unfold odBump
  dsimp only
  split
  · exact (odCount_holdsNone s i sub n).trans ((saturationEvent_holdsNone _ i sub).trans (saturationEvents_holdsNone 5 _ _))
  · exact odCount_holdsNone s i sub n

theorem answerTo_holdsNone (p : Path) (r : OdReq) (status : Nat) (s : State) : HoldsNone s (answerTo p r status s) := by
  refine (HoldsNone.of_changes (respond_changes s p r status r.offset 0 [])).trans ?_
  cases p with
  | mailbox d => exact .refl _
  | job c d => exact .refl _
  | hasowa n d => exact odBump_holdsNone _ 0x6800 0x08 1

/-- The events that a freeze held have entered the ring, and none is held. -/
theorem enterHeld_empties (s : State) : (enterHeld s).dust = false ∧ (enterHeld s).heldEvents = [] := by
  have hheld : HoldsNone (unfrozen s) (enterHeld s) := by
    have hentered : HoldsNone (unfrozen s) (s.heldEvents.foldl (fun t e => ringPush t e.body) (unfrozen s)) := by
      refine HoldsNone.foldl ?_ _ _
      intro t e
      exact ringPush_holdsNone t e.body
    unfold enterHeld
    dsimp only
    split
    · exact hentered
    · exact hentered.trans ((ringPush_holdsNone _ _).trans (snagSet_holdsNone _ 7))
  exact ⟨hheld.dust, hheld.held rfl⟩

/-- A sheet that is lifted ends the freeze (R451). -/
theorem liftDust_ends (s : State) : (liftDust s).dust = false ∧ (s.dust = true → (liftDust s).heldEvents = []) := by
  unfold liftDust
  split
  · exact ⟨(enterHeld_empties s).1, fun _ => (enterHeld_empties s).2⟩
  · next h => exact ⟨Bool.eq_false_iff.mpr h, fun hdust => absurd hdust h⟩

end Sys2Proof.Machine
end

section
/-! PROOFS. O46: what the values written to the package's settings do (R288, R302, R341, R345, R421, R424, R432, R446, R451), and their WRITEs. -/

set_option Elab.async false

namespace Sys2Proof.Machine

/-! ### Which effect each entry has -/

section
variable (s : State) (p : Path) (v : Nat) (d : List Byte) (x : Aux)

theorem odApply_packageNumber : odApply s p 0x5000 0x01 v d x = (odOK, writeNumber s v) := by
  simp [odApply, applyIndexed, applyPlain, applySingle, isSelect]

theorem odApply_routes (hv : v ≠ 0) : odApply s p 0x5100 0x04 v d x = activateRoutes s := if_neg hv

theorem odApply_reKey : odApply s p 0x5300 0x03 v d x = (odOK, ((List.range 16).filter (bitOf v)).foldl rekeyPort s) := rfl

theorem odApply_emergency : odApply s p 0x2100 0x06 v d x = (odOK, writeEmergency s v) := rfl

theorem odApply_snags : odApply s p 0x7000 0x02 v d x = (odOK, clearSnags s v) := rfl

theorem odApply_reset : odApply s p 0x7400 0x01 v d x = (odOK, writeReset s p v) := rfl

theorem odApply_dustLaid : odApply s p 0x7A00 0x01 1 d x = (odOK, layDust s) := rfl

theorem odApply_dustLifted : odApply s p 0x7A00 0x01 0 d x = (odOK, liftDust s) := rfl

theorem odApply_portEnable {port : Nat} (hport : port < 16) : odApply s p (0x5200 + port) 0x0C v d x = (odOK, writeEnable s port v) := by
  have hselect : isSelect (0x5200 + port) 0x0C = false := by
    simp only [isSelect, Bool.or_eq_false_iff, Bool.and_eq_false_iff, beq_eq_false_iff_ne, decide_eq_false_iff_not]
    omega
  unfold odApply applyIndexed
  rw [if_neg (by omega), if_neg (by omega), if_neg (by omega), hselect, if_neg Bool.false_ne_true, if_neg (by omega), if_pos (by omega),
    Nat.add_sub_cancel_left]

theorem odApply_refresh {i : Nat} (hi : 0xA000 ≤ i ∧ i < 0xB000) (hv : v ≠ 0) : odApply s p i 0x05 v d x = (odOK, scheduleRefresh s i) := by
  have hselect : isSelect i 0x05 = false := by
    simp only [isSelect, Bool.or_eq_false_iff, Bool.and_eq_false_iff, beq_eq_false_iff_ne, decide_eq_false_iff_not]
    omega
  unfold odApply applyIndexed applyPlain
  rw [if_neg (by omega), if_neg (by omega), if_neg (by omega), hselect, if_neg Bool.false_ne_true]
  iterate 9 rw [if_neg (by omega)]
  rw [if_pos hi, if_neg hv]

end

/-! ### The package number (R288) -/

theorem writeNumber_reads (s : State) (v : Nat) : odGet (writeNumber s v) 0x5000 0x01 = v ∧ (v = 0xFFFFF → odGet (writeNumber s v) 0x5000 0x02 = 0) := by
  have hkeyed : ∀ (y : State) n, n < 256 → odGet (progress ((List.range 16).foldl keyPort (sendIdents y))) 0x5000 n = odGet y 0x5000 n := fun y n hn => by
    rw [(progress_stepOnly _).keeps.get _ _ (not_startPage (by decide) hn),
      (OdKeeps.foldl keyPort_below _ _).get _ _ ⟨by unfold odKey; omega, not_startPage (by decide) hn⟩,
      (OdKeeps.of_changes (P := fun _ => True) (sendIdents_changes y)).get _ _ trivial]
  unfold writeNumber
  dsimp only
  rw [hkeyed _ _ (by decide), hkeyed _ _ (by decide), odGet_odSet_ne _ _ (by decide), odGet_odSet, odGet_odSet]
  exact ⟨rfl, fun hnone => if_pos hnone⟩

theorem packageNumberWrite_outcome (s : State) (p : Path) (row : OdRow) (v : Nat) (h : writable s p 0x5000 0x01 4 v row) :
    ∃ t, exec (.packageNumberWrite p v) s = .next t ∧ writeOutcome s t p 0x5000 0x01 4 v row odOK
      (odGet t 0x5000 0x01 = v ∧ (v = 0xFFFFF → odGet t 0x5000 0x02 = 0)) := by
  refine ⟨_, rfl, doWrite_outcome (effect := fun t => odGet t 0x5000 0x01 = v ∧ (v = 0xFFFFF → odGet t 0x5000 0x02 = 0)) h fun s0 _ => ?_⟩
  rw [odApply_packageNumber]
  refine ⟨rfl, ?_⟩
  dsimp only
  rw [answerTo_odGet _ _ _ _ (by decide) (by decide), answerTo_odGet _ _ _ _ (by decide) (by decide)]
  exact writeNumber_reads s0 v

/-! ### The routes (R302) -/

theorem Arrived.setRefusal {s t : State} (h : Arrived s t) : setRefusal t = setRefusal s := by
  unfold Machine.setRefusal shadowEntry
  simp only [h.odGet]

/-- The tables in the shadow, as one value. -/
def shadowTables (s : State) : Nat :=
  odGet s 0x5100 0x01 % 2 ^ 128 + odGet s 0x5100 0x02 % 2 ^ 16384 * 2 ^ 128 + odGet s 0x5100 0x03 % 2 ^ 16384 * 2 ^ 16512

/-- The shadow tables and those in force are swapped, and the hub routes by the new ones. -/
def tablesSwapped (s t : State) : Prop :=
  odGet t 0x5100 0x05 = (odGet s 0x5100 0x05 + 1) % 2 ^ 32 ∧ odGet t 0x5000 0x02 = 2 ∧ odGet t 0x5100 0x07 = shadowTables s ∧
    odGet t 0x5100 0x01 = bits (odGet s 0x5100 0x07) 0 128

theorem activateRoutes_swaps {s : State} (h : setRefusal s = none) : (activateRoutes s).1 = odOK ∧ tablesSwapped s (activateRoutes s).2 := by
  have hretried : ∀ (y : State) i n, i = 0x5100 ∧ n < 256 ∨ i = 0x5000 ∧ n = 0x02 → odGet (progress (retryWaiting y)) i n = odGet y i n :=
    fun y i n hkey => by
      rw [(progress_stepOnly _).keeps.get _ _ (not_startPage (by omega) (by omega)),
        (retryWaiting_forwards y).keeps.get _ _ ⟨not_logKey (by omega) (by omega), by unfold odKey; omega, by unfold odKey; omega⟩]
  unfold tablesSwapped activateRoutes
  rw [h]
  dsimp only
  refine ⟨rfl, ?_, ?_, ?_, ?_⟩
  · rw [hretried _ _ _ (.inl ⟨rfl, by decide⟩), odGet_odSet_ne _ _ (by decide), odGet_odSet]
  · rw [hretried _ _ _ (.inr ⟨rfl, rfl⟩), odGet_odSet]
  · rw [hretried _ _ _ (.inl ⟨rfl, by decide⟩), odGet_odSet_ne _ _ (by decide), odGet_odSet_ne _ _ (by decide), odGet_odSet]
    rfl
  · rw [hretried _ _ _ (.inl ⟨rfl, by decide⟩)]
    iterate 5 rw [odGet_odSet_ne _ _ (by decide)]
    exact odGet_odSet _ _ _ _

theorem activateRoutes_refused {s : State} {n : Nat} (h : setRefusal s = some n) : activateRoutes s = (odRANGE, odSet s 0x5100 0x06 n) := by
  unfold activateRoutes
  rw [h]

theorem routeActivate_outcome (s : State) (p : Path) (row : OdRow) (v : Nat) (hv : v ≠ 0) (h : writable s p 0x5100 0x04 1 v row) :
    (setRefusal s = none → ∃ t, exec (.routeActivate p v) s = .next t ∧ writeOutcome s t p 0x5100 0x04 1 v row odOK
      (odGet t 0x5100 0x05 = (odGet s 0x5100 0x05 + 1) % 2 ^ 32 ∧ odGet t 0x5000 0x02 = 2 ∧
        odGet t 0x5100 0x07 = odGet s 0x5100 0x01 % 2 ^ 128 + odGet s 0x5100 0x02 % 2 ^ 16384 * 2 ^ 128 + odGet s 0x5100 0x03 % 2 ^ 16384 * 2 ^ 16512 ∧
        odGet t 0x5100 0x01 = bits (odGet s 0x5100 0x07) 0 128)) ∧
    (∀ n, setRefusal s = some n → ∃ t, exec (.routeActivate p v) s = .next t ∧ writeOutcome s t p 0x5100 0x04 1 v row odRANGE
      (odGet t 0x5100 0x06 = n ∧ odGet t 0x5100 0x05 = odGet s 0x5100 0x05 ∧ odGet t 0x5100 0x07 = odGet s 0x5100 0x07)) := by
  refine ⟨fun hgood => ⟨_, rfl, doWrite_outcome (effect := tablesSwapped s) h fun s0 h0 => ?_⟩, fun n hbad => ⟨_, rfl, doWrite_outcome (effect := fun t =>
    odGet t 0x5100 0x06 = n ∧ odGet t 0x5100 0x05 = odGet s 0x5100 0x05 ∧ odGet t 0x5100 0x07 = odGet s 0x5100 0x07) h fun s0 h0 => ?_⟩⟩
  · obtain ⟨hstatus, hswapped⟩ := activateRoutes_swaps (h0.setRefusal.trans hgood)
    rw [odApply_routes _ _ _ _ _ hv]
    refine ⟨hstatus, ?_⟩
    unfold tablesSwapped shadowTables at hswapped ⊢
    iterate 4 rw [answerTo_odGet _ _ _ _ (by decide) (by decide)]
    simp only [← h0.odGet]
    exact hswapped
  · rw [odApply_routes _ _ _ _ _ hv, activateRoutes_refused (h0.setRefusal.trans hbad)]
    dsimp only
    rw [answerTo_odGet _ _ _ _ (by decide) (by decide), answerTo_odGet _ _ _ _ (by decide) (by decide), answerTo_odGet _ _ _ _ (by decide) (by decide),
      odGet_odSet, odGet_odSet_ne _ _ (by decide), odGet_odSet_ne _ _ (by decide), h0.odGet, h0.odGet]
    exact ⟨rfl, rfl, rfl, rfl⟩

/-! ### The ports (R341, R345) -/

theorem portState_rekeyPort {s : State} {port : Nat} (hport : port < 16) (h : portState s port = 4 ∨ portState s port = 1) :
    portState (rekeyPort s port) port = 1 := by
  unfold rekeyPort
  rcases h with hisolated | htraining
  · rw [if_pos hisolated]
    exact portState_enterTraining s hport
  · rw [if_neg (by omega), if_pos htraining]
    exact htraining

/-- An ISOLATED port that a re-key request names trains, and one that it does not name stays. -/
theorem portState_rekeyed {s : State} {port : Nat} (hport : port < 16) (h : portState s port = 4) (v : Nat) :
    portState (((List.range 16).filter (bitOf v)).foldl rekeyPort s) port = if bitOf v port then 1 else 4 := by
  have hother : ∀ (t : State) q, port ≠ q → portState (rekeyPort t q) port = portState t port := fun t q hne =>
    portState_of_offPort (rekeyPort_offPort t q) hport hne
  by_cases hnamed : bitOf v port = true
  · rw [if_pos hnamed]
    refine foldl_ports (I := fun t => portState t port = 4 ∨ portState t port = 1) (P := fun t => portState t port = 1) (fun t q ht => ?_)
      (fun t ht => portState_rekeyPort hport ht) (fun t q hne _ ht => (hother t q hne).trans ht) _ s (.inl h)
      (.inl (List.mem_filter.mpr ⟨List.mem_range.mpr hport, hnamed⟩))
    by_cases hq : port = q
    · exact .inr (hq ▸ portState_rekeyPort hport ht)
    · rw [hother t q hq]
      exact ht
  · rw [if_neg hnamed]
    refine ((OdKeeps.foldl_mem (P := fun k => k = odKey (0x5200 + port) 0x01) (fun q hq t => ⟨fun i n hkey => ?_⟩) s).get _ _ rfl).trans h
    have hne : port ≠ q := fun e => hnamed (e ▸ (List.mem_filter.mp hq).2)
    exact (rekeyPort_offPort t q).get i n (by
      rw [hkey]
      exact ⟨not_portOwn_of_ne hport hne (by decide), not_startPage (by omega) (by decide)⟩)

theorem reKeyRequest_outcome (s : State) (p : Path) (row : OdRow) (v : Nat) (h : writable s p 0x5300 0x03 2 v row) :
    ∃ t, exec (.reKeyRequest p v) s = .next t ∧ writeOutcome s t p 0x5300 0x03 2 v row odOK
      (∀ port, port < 16 → portState s port = 4 → portState t port = if bitOf v port then 1 else 4) := by
  refine ⟨_, rfl, doWrite_outcome (effect := fun t => ∀ port, port < 16 → portState s port = 4 → portState t port = if bitOf v port then 1 else 4) h
    fun s0 h0 => ?_⟩
  rw [odApply_reKey]
  refine ⟨rfl, fun port hport hisolated => ?_⟩
  rw [portState, answerTo_odGet _ _ _ _ (by omega) (by decide)]
  exact portState_rekeyed hport ((h0.odGet _ _).trans hisolated) v

theorem writeEnable_reads (s : State) {port : Nat} (hport : port < 16) (v : Nat) :
    odGet (writeEnable s port v) (0x5200 + port) 0x0C = v ∧ (v = 0 → portState (writeEnable s port v) port = 0) := by
  have hoff : OffPort port (odSet s (0x5200 + port) 0x0C v)
      (if v = 0 then goDark (odSet s (0x5200 + port) 0x0C v) port else wakePort (odSet s (0x5200 + port) 0x0C v) port) := by
    split
    · exact goDark_offPort _ port
    · exact wakePort_offPort _ port
  unfold writeEnable
  dsimp only
  refine ⟨?_, fun hoffered => ?_⟩
  · rw [(progress_stepOnly _).keeps.get _ _ (not_startPage (by omega) (by decide)),
      hoff.get _ _ ⟨not_portOwn_map hport (by decide), not_startPage (by omega) (by decide)⟩, odGet_odSet]
  · rw [portState_of_steps (progress_stepOnly _) hport, if_pos hoffered]
    exact portState_goDark _ hport

theorem portEnableWrite_outcome (s : State) (p : Path) (row : OdRow) (port v : Nat) (hport : port < 16)
    (h : writable s p (0x5200 + port) 0x0C 1 v row) :
    ∃ t, exec (.portEnableWrite p port v) s = .next t ∧ writeOutcome s t p (0x5200 + port) 0x0C 1 v row odOK
      (odGet t (0x5200 + port) 0x0C = v ∧ (v = 0 → portState t port = 0)) := by
  refine ⟨_, congrArg Host.Outcome.next (if_pos hport), doWrite_outcome (effect := fun t => odGet t (0x5200 + port) 0x0C = v ∧
    (v = 0 → portState t port = 0)) h fun s0 _ => ?_⟩
  rw [odApply_portEnable _ _ _ _ _ hport, portState, answerTo_odGet _ _ _ _ (by omega) (by decide), answerTo_odGet _ _ _ _ (by omega) (by decide)]
  exact ⟨rfl, writeEnable_reads s0 hport v⟩

/-! ### The emergency request and the refreshes (R421, R424) -/

/-- A write of the emergency request raises REQUEST or clears it. -/
theorem writeEmergency_request (s : State) (v : Nat) : bitOf (causes (writeEmergency s v)) 4 = (v != 0) := by
  unfold writeEmergency
  dsimp only
  generalize odSet s 0x2100 0x06 v = x
  by_cases hv : v = 0
  · rw [if_pos hv, (clearCause_cleared x 4).bit, hv]
    rfl
  · rw [if_neg hv, bne_iff_ne.mpr hv]
    cases hset : bitOf (causes x) 4 with
    | false => exact (raiseCause_up x 4 hset).1
    | true =>
      have hsame : raiseCause x 4 = x := if_pos hset
      rw [hsame, hset]

theorem emergencyRequest_outcome (s : State) (p : Path) (row : OdRow) (v : Nat) (h : writable s p 0x2100 0x06 1 v row) :
    ∃ t, exec (.emergencyRequest p v) s = .next t ∧ writeOutcome s t p 0x2100 0x06 1 v row odOK (bitOf (causes t) 4 = (v != 0)) := by
  refine ⟨_, rfl, doWrite_outcome (effect := fun t => bitOf (causes t) 4 = (v != 0)) h fun s0 _ => ?_⟩
  rw [odApply_emergency, causes, answerTo_odGet _ _ _ _ (by decide) (by decide)]
  exact ⟨rfl, writeEmergency_request s0 v⟩

theorem calIndexes_page {i : Nat} (h : calIndexes.contains i = true) : 0xA000 ≤ i ∧ i < 0xB000 := by
  have hpage : ∀ j ∈ calIndexes, 0xA000 ≤ j ∧ j < 0xB000 := by decide
  exact hpage i (List.contains_iff_mem.mp h)

theorem scheduleRefresh_schedules (s : State) (i : Nat) : (scheduleRefresh s i).refreshes.any (fun r => r.1 == i) = true := by
  unfold scheduleRefresh
  split
  · assumption
  · simp

theorem refreshRequest_outcome (s : State) (p : Path) (row : OdRow) (i v : Nat) (hi : calIndexes.contains i = true) (hv : v ≠ 0)
    (h : writable s p i 0x05 1 v row) :
    ∃ t, exec (.refreshRequest p i v) s = .next t ∧ writeOutcome s t p i 0x05 1 v row odOK (t.refreshes.any (fun r => r.1 == i) = true) := by
  refine ⟨_, congrArg Host.Outcome.next (if_pos hi), doWrite_outcome (effect := fun t => t.refreshes.any (fun r => r.1 == i) = true) h fun s0 _ => ?_⟩
  rw [odApply_refresh _ _ _ _ _ (calIndexes_page hi) hv]
  obtain ⟨-, -, -, -, -, -, -, -, -, -, -, -, -, hkept, -⟩ := (answerTo_changes p (writeReq i 0x05 1 v) odOK (scheduleRefresh s0 i)).same .power rfl
  refine ⟨rfl, ?_⟩
  dsimp only
  rw [hkept]
  exact scheduleRefresh_schedules s0 i

/-! ### Snags and counters (R432, R446) -/

theorem clearSnags_count (s : State) (mask : Nat) : odGet (clearSnags s mask) 0x6800 0x08 = odGet s 0x6800 0x08 := by
  rw [clearSnags_eq]
  exact foldl_keeps (g := fun t => odGet t 0x6800 0x08) snagCleared_count _ s

theorem snagClear_outcome (s : State) (p : Path) (row : OdRow) (v : Nat) (hcounts : countsOn s p) (h : writable s p 0x7000 0x02 32 v row) :
    ∃ t, exec (.snagClear p v) s = .next t ∧ writeOutcome s t p 0x7000 0x02 32 v row odOK
      ((s.dust = true → odGet s 0x7A00 0x04 + 256 < cntMax) → ∀ b, b < 256 →
        bitOf (odGet t 0x7000 0x01) b = (bitOf (odGet s 0x7000 0x01) b && !bitOf v b)) := by
  refine ⟨_, rfl, doWrite_outcome (effect := fun t => (s.dust = true → odGet s 0x7A00 0x04 + 256 < cntMax) → ∀ b, b < 256 →
    bitOf (odGet t 0x7000 0x01) b = (bitOf (odGet s 0x7000 0x01) b && !bitOf v b)) h fun s0 h0 => ?_⟩
  rw [odApply_snags]
  refine ⟨rfl, fun hroom b hb => ?_⟩
  obtain ⟨-, -, -, -, -, -, -, -, -, -, hdust, -⟩ := h0.changes.same .recorder rfl
  have hfit : recordsFit s0 256 := fun hfrozen => by
    rw [h0.odGet]
    exact hroom (hdust.symm.trans hfrozen)
  have hcounts0 : countsOn (clearSnags s0 v) p := countsOn_of_count hcounts ((clearSnags_count s0 v).trans (h0.odGet _ _)).le
  dsimp only
  rw [odGet_answerTo hcounts0 _ _ _ (by decide), afterReset_ne p (by decide), Nat.add_zero, clearSnags_clears hfit v hb, h0.odGet]

/-- A counter that is named reads 0. -/
theorem writeReset_od (s : State) (p : Path) (v : Nat) : (writeReset s p v).od = (odSet s (bits v 16 16) (bits v 0 8) 0).od := by
  unfold writeReset resetCounter
  dsimp only
  split_ifs <;> rfl

theorem counterReset_outcome (s : State) (p : Path) (row : OdRow) (v : Nat) (hcounts : countsOn s p) (h : writable s p 0x7400 0x01 4 v row) :
    ∃ t, exec (.counterReset p v) s = .next t ∧ writeOutcome s t p 0x7400 0x01 4 v row odOK
      (odGet t (bits v 16 16) (bits v 0 8) = afterReset p (odKey (bits v 16 16) (bits v 0 8))) := by
  refine ⟨_, rfl, doWrite_outcome (effect := fun t => odGet t (bits v 16 16) (bits v 0 8) = afterReset p (odKey (bits v 16 16) (bits v 0 8))) h
    fun s0 h0 => ?_⟩
  have hreads := (OdKeeps.of_od (P := fun _ => True) (writeReset_od s0 p v)).get
  have hzero : odGet (writeReset s0 p v) (bits v 16 16) (bits v 0 8) = 0 := (hreads _ _ trivial).trans (odGet_odSet _ _ _ _)
  have hsub : bits v 0 8 < 256 := Nat.mod_lt _ (by decide)
  have hcounts0 : countsOn (writeReset s0 p v) p := countsOn_of_count hcounts (by
    by_cases hkey : odKey 0x6800 0x08 = odKey (bits v 16 16) (bits v 0 8)
    · obtain ⟨hi, hn⟩ : 0x6800 = bits v 16 16 ∧ 0x08 = bits v 0 8 := by
        unfold odKey at hkey
        omega
      rw [hi, hn, hzero]
      exact Nat.zero_le _
    · rw [hreads _ _ trivial, odGet_odSet_ne _ _ hkey, h0.odGet])
  rw [odApply_reset]
  refine ⟨rfl, ?_⟩
  dsimp only
  rw [odGet_answerTo hcounts0 _ _ _ hsub, hzero, Nat.zero_add]

/-! ### The dust sheet (R451) -/

theorem layDust_freezes (s : State) : (layDust s).dust = true ∧ (layDust s).ring = s.ring ∧ odGet (layDust s) 0x6800 0x08 = odGet s 0x6800 0x08 := by
  unfold layDust
  split
  · exact ⟨‹_›, rfl, rfl⟩
  · exact ⟨rfl, rfl, (odGet_odSet_ne _ _ (by decide)).trans (odGet_odSet_ne _ _ (by decide))⟩

theorem answerTo_ring {s t : State} {p : Path} (h : countsOn s p) (hcount : odGet t 0x6800 0x08 = odGet s 0x6800 0x08) (r : OdReq) (status : Nat) :
    (answerTo p r status t).ring = t.ring := by
  have hanswer := respond_changes t p r status r.offset 0 []
  obtain ⟨-, hring, -⟩ := hanswer.same .recorder rfl
  exact (countTaken_ring h (((OdKeeps.of_changes (P := fun _ => True) hanswer).get _ _ trivial).trans hcount)).trans hring

theorem dustSheetLay_outcome (s : State) (p : Path) (row : OdRow) (hcounts : countsOn s p) (h : writable s p 0x7A00 0x01 1 1 row) :
    ∃ t, exec (.dustSheetLay p) s = .next t ∧ writeOutcome s t p 0x7A00 0x01 1 1 row odOK (t.dust = true ∧ t.ring = s.ring) := by
  refine ⟨_, rfl, doWrite_outcome (effect := fun t => t.dust = true ∧ t.ring = s.ring) h fun s0 h0 => ?_⟩
  obtain ⟨hfrozen, hring, hcount⟩ := layDust_freezes s0
  obtain ⟨-, harrived, -⟩ := h0.changes.same .recorder rfl
  rw [odApply_dustLaid]
  dsimp only
  exact ⟨rfl, (answerTo_holdsNone p _ odOK _).dust.trans hfrozen,
    (answerTo_ring hcounts (hcount.trans (h0.odGet _ _)) _ _).trans (hring.trans harrived)⟩

theorem dustSheetLift_outcome (s : State) (p : Path) (row : OdRow) (h : writable s p 0x7A00 0x01 1 0 row) :
    ∃ t, exec (.dustSheetLift p) s = .next t ∧
      writeOutcome s t p 0x7A00 0x01 1 0 row odOK (t.dust = false ∧ (s.dust = true → t.heldEvents = [])) := by
  refine ⟨_, rfl, doWrite_outcome (effect := fun t => t.dust = false ∧ (s.dust = true → t.heldEvents = [])) h fun s0 h0 => ?_⟩
  obtain ⟨hopen, hempty⟩ := liftDust_ends s0
  obtain ⟨-, -, -, -, -, -, -, -, -, -, hdust, -⟩ := h0.changes.same .recorder rfl
  have hanswered := answerTo_holdsNone p (writeReq 0x7A00 0x01 1 0) odOK (liftDust s0)
  rw [odApply_dustLifted]
  exact ⟨rfl, hanswered.dust.trans hopen, fun hfrozen => (hanswered.held hopen).trans (hempty (hdust.trans hfrozen))⟩

/-- Settles O46: each setting's WRITE in turn, by what its value does. -/
theorem settingsAreWritten : Obligations.SettingsAreWritten :=
  ⟨packageNumberWrite_outcome, routeActivate_outcome, reKeyRequest_outcome, portEnableWrite_outcome, emergencyRequest_outcome,
    refreshRequest_outcome, snagClear_outcome, counterReset_outcome, dustSheetLay_outcome, dustSheetLift_outcome⟩

end Sys2Proof.Machine
end

section
/-! PROOFS. A window of the governor: its prices, and what the causes of an emergency leave of them (R415, R417, R418, R421), for O43. -/

set_option Elab.async false

namespace Sys2Proof.Machine

/-! ### The prices of a window (R415, R417) -/

/-- The entries that a price comes from and is shown in: the watts and the limit factor, a die's price and ratio, the thresholds and their guard. -/
def priceKey (k : Nat) : Prop := k = odKey 0x2100 0x07 ∨ k = odKey 0x2100 0x09 ∨ (0x2300 ≤ k / 256 ∧ k / 256 < 0x2304 ∧ (k % 256 = 0x03 ∨ k % 256 = 0x0D)) ∨
  k / 256 = 0x2400 ∨ k = odKey 0xA001 0x01

/-- What the prices rest on stands. -/
structure SamePrices (s t : State) : Prop where
  keeps : OdKeeps priceKey s t
  sensors : t.sensors = s.sensors

theorem SamePrices.refl (s : State) : SamePrices s s := ⟨.refl s, rfl⟩

theorem SamePrices.trans {s t u : State} (h : SamePrices s t) (g : SamePrices t u) : SamePrices s u :=
  ⟨h.keeps.trans g.keeps, g.sensors.trans h.sensors⟩

theorem SamePrices.of_changes {K : List Kind} {s t : State} (h : Changes K s t) (hkeeps : OdKeeps priceKey s t)
    (hk : K.contains .power = false := by rfl) : SamePrices s t := by
  obtain ⟨-, -, -, -, -, -, -, -, -, -, -, hsensors, -⟩ := h.same .power hk
  exact ⟨hkeeps, hsensors⟩

theorem priceKey_not_log {k : Nat} (h : priceKey k) : ¬ logKey k := by
  unfold priceKey odKey at h
  unfold logKey
  omega

theorem threshold_congr {s t : State} (hkeeps : OdKeeps (fun k => k / 256 = 0x2400 ∨ k = odKey 0xA001 0x01) s t) {sub : Nat} (hsub : sub < 256) :
    threshold t sub = threshold s sub := by
  unfold threshold guarded
  rw [hkeeps.get 0x2400 sub (.inl (by unfold odKey; omega)), hkeeps.get 0xA001 0x01 (.inr rfl)]

theorem theta_congr {s t : State} (hkeeps : OdKeeps (fun k => k / 256 = 0x2400 ∨ k = odKey 0xA001 0x01) s t) (hsensors : t.sensors = s.sensors)
    (d : Nat) : theta t d = theta s d := by
  have hread : ∀ site lo hi, sensorsOf t site lo hi = sensorsOf s site lo hi := fun site lo hi => by unfold sensorsOf; rw [hsensors]
  have hfactor : ∀ sub, sub < 255 → thetaOf t sub = thetaOf s sub := fun sub hsub => by
    funext x
    unfold thetaOf
    rw [threshold_congr hkeeps (by omega : sub < 256), threshold_congr hkeeps (by omega : sub + 1 < 256)]
  unfold theta
  simp only [hread, hfactor 1 (by decide), hfactor 4 (by decide), hfactor 7 (by decide)]

/-- A die shows the price of its ratio, its thermal factor and the limit factor. -/
def priced (s : State) (d : Nat) : Prop :=
  odGet s (0x2300 + d) 0x03 = nextPrice (odGet s (0x2300 + d) 0x0D) (odGet s 0x2100 0x09) (theta s d)

theorem SamePrices.priced {s t : State} {d : Nat} (h : SamePrices s t) (hd : d < 4) (hs : priced s d) : priced t d := by
  unfold Machine.priced
  rw [h.keeps.get (0x2300 + d) 0x03 (.inr (.inr (.inl (by unfold odKey; omega)))), h.keeps.get (0x2300 + d) 0x0D (.inr (.inr (.inl (by unfold odKey; omega)))),
    h.keeps.get 0x2100 0x09 (.inr (.inl rfl)), theta_congr (h.keeps.mono fun k hk => .inr (.inr (.inr hk))) h.sensors]
  exact hs

/-- What governing die e leaves: every entry but the three that it shows for that die. -/
theorem governDie_page (s : State) (e : Nat) : OdKeeps (fun k => k / 256 ≠ 0x2300 + e) s (governDie s e) := by
  have hset : ∀ (x : State) (n v : Nat), n < 256 → OdKeeps (fun k => k / 256 ≠ 0x2300 + e) x (odSet x (0x2300 + e) n v) := fun x n v hn =>
    .set x v fun h => h (by unfold odKey; omega)
  unfold governDie
  exact ((hset _ _ _ (by decide)).trans (hset _ _ _ (by decide))).trans (hset _ _ _ (by decide))

theorem governDie_priced (s : State) {d : Nat} (hd : d < 4) : priced (governDie s d) d := by
  have hkeeps := governDie_page s d
  have htheta : theta (governDie s d) d = theta s d := theta_congr (hkeeps.mono fun k hk => by unfold odKey at hk; omega) rfl d
  unfold priced
  rw [htheta, hkeeps.get 0x2100 0x09 (by unfold odKey; omega)]
  unfold governDie
  dsimp only
  rw [odGet_odSet, odGet_odSet_ne _ _ (by unfold odKey; omega), odGet_odSet_ne _ _ (by unfold odKey; omega), odGet_odSet]

/-- Another die's price stands. -/
theorem priced_governDie_ne {s : State} {d e : Nat} (he : e < 4) (hne : d ≠ e) (h : priced s d) : priced (governDie s e) d := by
  have hkeeps := governDie_page s e
  have htheta : theta (governDie s e) d = theta s d := theta_congr (hkeeps.mono fun k hk => by unfold odKey at hk; omega) rfl d
  unfold priced
  rw [htheta, hkeeps.get 0x2100 0x09 (by unfold odKey; omega), hkeeps.get (0x2300 + d) 0x03 (by unfold odKey; omega),
    hkeeps.get (0x2300 + d) 0x0D (by unfold odKey; omega)]
  exact h

/-- The four dies in turn: what each step brings about for its own die, and leaves for the others, holds of every die in the end. -/
theorem foldl_fourDies {f : State → Nat → State} {P : State → Nat → Prop} (hone : ∀ s d, d < 4 → P (f s d) d)
    (hother : ∀ s d e, d < 4 → e < 4 → d ≠ e → P s d → P (f s e) d) (s : State) {d : Nat} (hd : d < 4) : P (dies.foldl f s) d := by
  have hstay : ∀ x e, e < 4 → d ≠ e → P x d → P (f x e) d := fun x e he hne hx => hother x d e hd he hne hx
  simp only [dies, List.foldl_cons, List.foldl_nil]
  obtain rfl | rfl | rfl | rfl : d = 0 ∨ d = 1 ∨ d = 2 ∨ d = 3 := by omega
  · exact hstay _ 3 (by decide) (by decide) (hstay _ 2 (by decide) (by decide) (hstay _ 1 (by decide) (by decide) (hone _ 0 hd)))
  · exact hstay _ 3 (by decide) (by decide) (hstay _ 2 (by decide) (by decide) (hone _ 1 hd))
  · exact hstay _ 3 (by decide) (by decide) (hone _ 2 hd)
  · exact hone _ 3 hd

/-- A window shows its watts, its limit factor and the price of every die. -/
theorem governWindow_shows (m : List Nat) (watts : Nat) (rs : List Reading) (s : State) : odGet (governWindow m watts rs s) 0x2100 0x07 = watts ∧
    odGet (governWindow m watts rs s) 0x2100 0x09 = nextLambda s watts ∧ ∀ d, d < 4 → priced (governWindow m watts rs s) d := by
  unfold governWindow
  generalize hx : odSet (odSet (takeDynamic (senseAll s rs) m) 0x2100 0x07 watts) 0x2100 0x09 (nextLambda s watts) = x
  have hwatts : odGet x 0x2100 0x07 = watts := by rw [← hx, odGet_odSet_ne _ _ (by decide), odGet_odSet]
  have hfactor : odGet x 0x2100 0x09 = nextLambda s watts := by rw [← hx, odGet_odSet]
  have hgoverned : OdKeeps (fun k => k / 256 = 0x2100) x (dies.foldl governDie x) :=
    .foldl (fun y d => (governDie_page y d).mono fun k hk => by omega) dies x
  have hprices := fun {d : Nat} (hd : d < 4) => foldl_fourDies (P := priced) (fun y _ hd => governDie_priced y hd)
    (fun _ _ _ _ he hne h => priced_governDie_ne he hne h) x hd
  generalize dies.foldl governDie x = y at hgoverned hprices
  have hwindow : OdKeeps (fun _ => True) y (newWindow y) := .of_changes (newWindow_changes y)
  have hsensors : (newWindow y).sensors = y.sensors :=
    foldl_keeps (g := State.sensors) (f := fun s (c : Cmd) => addWindow s (dieOf c.u) (energyPart c.nominal c.winTotal c.winDone)) (fun _ _ => rfl) _ _
  have hsame : SamePrices y (newWindow y) := ⟨hwindow.mono fun _ _ => trivial, hsensors⟩
  rw [hwindow.get _ _ trivial, hwindow.get _ _ trivial, hgoverned.get _ _ (by decide), hgoverned.get _ _ (by decide)]
  exact ⟨hwatts, hfactor, fun d hd => hsame.priced hd (hprices hd)⟩

/-! ### What a cause of an emergency leaves of the prices (R418, R421) -/

theorem priceKey_not_die {k : Nat} (h : priceKey k) {d : Nat} (hd : d < 4) : k ≠ odKey (0x2300 + d) 0x0B := by
  unfold priceKey odKey at h
  unfold odKey
  omega

theorem noteCause_prices (s : State) (b : Nat) : SamePrices s (noteCause s b) :=
  .of_changes (noteCause_changes s b) ((noteCause_keeps s b).mono fun k hk => ⟨by unfold priceKey odKey at hk; unfold odKey; omega, priceKey_not_log hk⟩)

theorem enterEmergency_prices (s : State) : SamePrices s (enterEmergency s) := by
  have hkeeps : OdKeeps priceKey s (enterEmergency s) := (enterEmergency_keeps s).mono fun k hk =>
    ⟨by unfold priceKey odKey at hk; unfold odKey; omega, by unfold priceKey odKey at hk; unfold odKey; omega, fun _ hd => priceKey_not_die hk hd, priceKey_not_log hk⟩
  have hsensors : (emergencyClocks { s with releasing := false }).sensors = s.sensors := by
    rw [emergencyClocks_eq]
    obtain ⟨-, -, -, -, -, -, -, -, -, -, -, hshow, -⟩ := (showFreq_changes (holdAllocations (dies.foldl (floorStep 5) { s with releasing := false }))).same .power rfl
    exact hshow.trans (foldl_keeps (g := State.sensors) (f := floorStep 5) (fun _ _ => rfl) dies { s with releasing := false })
  obtain ⟨-, -, -, -, -, -, -, -, -, -, -, hcount, -⟩ := (odBump_changes (emergencyClocks { s with releasing := false }) 0x2100 0x0B 1).same .power rfl
  exact ⟨hkeeps, hcount.trans hsensors⟩

theorem announceEmergency_prices (s : State) (v : Nat) : SamePrices s (announceEmergency s v) :=
  .of_changes (announceEmergency_changes s v) ((announceEmergency_keeps s v).mono fun k hk => ⟨by unfold priceKey odKey at hk; unfold odKey; omega, priceKey_not_log hk⟩)

/-- A cause that appears, or stands already, leaves the prices and the requests that wait. -/
theorem raiseCause_leaves (s : State) (b : Nat) : SamePrices s (raiseCause s b) ∧ Notified s (raiseCause s b) := by
  cases h : bitOf (causes s) b with
  | true =>
    have hstands : raiseCause s b = s := if_pos h
    rw [hstands]
    exact ⟨.refl s, .refl s⟩
  | false =>
    refine ⟨?_, raiseCause_notified s b h⟩
    rw [raiseCause_eq s b h]
    split
    · exact noteCause_prices s b
    · exact ((noteCause_prices s b).trans (enterEmergency_prices _)).trans (announceEmergency_prices _ _)

theorem clearCause_sensors (s : State) (b : Nat) : (clearCause s b).sensors = s.sensors := by
  obtain ⟨-, -, -, -, -, -, -, -, -, -, -, hchange, -⟩ := (stateChange_changes s pkgUnit 0x2100 0x05 (withBit (causes s) b false) 0 0).same .power rfl
  cases h : bitOf (causes s) b with
  | true =>
    rw [clearCause_eq s b h]
    split
    · exact hchange
    · exact (foldl_keeps (g := State.sensors) (f := fun s d => releaseStretch s d 5) (fun _ _ => rfl) dies _).trans hchange
  | false =>
    have hstands : clearCause s b = s := if_pos (by unfold causes at h; rw [h]; rfl)
    rw [hstands]

/-- A cause that clears does so too. -/
theorem clearCause_leaves (s : State) (b : Nat) : SamePrices s (clearCause s b) ∧ Notified s (clearCause s b) := by
  obtain ⟨-, hkeeps, hnotified⟩ := clearCause_cleared s b
  exact ⟨⟨hkeeps.mono fun k hk => ⟨by unfold priceKey odKey at hk; unfold odKey; omega, priceKey_not_log hk⟩, clearCause_sensors s b⟩, hnotified⟩

/-- What the comparison with the limit makes of a window (R418). -/
def limitCompared (watts : Nat) (g : State) : State :=
  if odGet g 0x2100 0x01 < watts then
    (if g.overWindows + 1 = 1000 then raiseCause { g with overWindows := g.overWindows + 1 } 2 else { g with overWindows := g.overWindows + 1 })
  else clearCause { g with overWindows := 0 } 2

theorem governorLoop_eq {s : State} (hb : bulkOn s = true) (m : List Nat) (watts : Nat) (rs : List Reading) :
    governorLoop m watts rs s = limitCompared watts (governWindow m watts rs s) := if_pos hb

theorem limitCompared_leaves (watts : Nat) (g : State) : SamePrices g (limitCompared watts g) ∧ Notified g (limitCompared watts g) := by
  have hcounted : ∀ n, SamePrices g { g with overWindows := n } ∧ Notified g { g with overWindows := n } := fun n =>
    ⟨⟨.of_od, rfl⟩, ⟨rfl, rfl, rfl, rfl, rfl, rfl⟩⟩
  have hthen : ∀ {n x}, SamePrices { g with overWindows := n } x ∧ Notified { g with overWindows := n } x → SamePrices g x ∧ Notified g x :=
    fun {n _} h => ⟨(hcounted n).1.trans h.1, (hcounted n).2.trans h.2⟩
  unfold limitCompared
  split
  · split
    · exact hthen (raiseCause_leaves _ 2)
    · exact hcounted _
  · exact hthen (clearCause_leaves _ 2)

theorem governorLoop_shows (s : State) (m : List Nat) (watts : Nat) (rs : List Reading) (hw : s.waitingReqs = []) (hb : bulkOn s = true) :
    ∃ t, exec (.governorLoop m watts rs) s = .next t ∧ odGet t 0x2100 0x07 = watts ∧ odGet t 0x2100 0x09 = nextLambda s watts ∧
      ∀ d, d < 4 → odGet t (0x2300 + d) 0x03 = nextPrice (odGet t (0x2300 + d) 0x0D) (odGet t 0x2100 0x09) (theta t d) := by
  obtain ⟨hwatts, hfactor, hprices⟩ := governWindow_shows m watts rs s
  obtain ⟨hsame, hnotified⟩ := limitCompared_leaves watts (governWindow m watts rs s)
  have hwindow : Notified s (governWindow m watts rs s) := .of_changes (governWindow_changes m watts rs s)
  refine ⟨governorLoop m watts rs s, ?_, ?_⟩ <;> rw [governorLoop_eq hb]
  · show execGovernorLoop m watts rs s = _
    rw [execGovernorLoop, governorLoop_eq hb, serveHeld_idle ((hnotified.waitingReqs.trans hwindow.waitingReqs).trans hw)]
  · rw [hsame.keeps.get 0x2100 0x07 (.inl rfl), hsame.keeps.get 0x2100 0x09 (.inr (.inl rfl))]
    refine ⟨hwatts, hfactor, fun d hd => ?_⟩
    have hpriced := hsame.priced hd (hprices d hd)
    unfold priced at hpriced
    rwa [hsame.keeps.get 0x2100 0x09 (.inr (.inl rfl))] at hpriced

end Sys2Proof.Machine
end

section
/-! PROOFS. O43: a window of the governor, the policy loop (R415, R419), and a refresh of a calibration (R340, R424). -/

set_option Elab.async false

namespace Sys2Proof.Machine

/-! ### The policy loop (R415, R419) -/

theorem dies_lt {d : Nat} (hd : d ∈ dies) : d < 4 := by
  have hall : ∀ e ∈ dies, e < 4 := by decide
  exact hall d hd

/-- The set points of the four dies under AUTO. -/
def autoSetPoints (s : State) : State := dies.foldl (fun s d => odSet (odSet s (0x2300 + d) 0x09 1500) (0x2300 + d) 0x0A 1800) s

/-- What AUTO makes of the allocations and the set points. -/
def autoPower (s : State) (u : Nat) : State := autoSetPoints (putAllocations s (autoAllocs s u))

theorem autoSetPoints_keeps (s : State) : OdKeeps (fun k => k / 256 < 0x2300) s (autoSetPoints s) :=
  .foldl (fun x d => (OdKeeps.set x 1500 (by unfold odKey; omega)).trans (.set _ 1800 (by unfold odKey; omega))) dies s

theorem odGet_autoSetPoints (s : State) {d : Nat} (hd : d < 4) :
    odGet (autoSetPoints s) (0x2300 + d) 0x09 = 1500 ∧ odGet (autoSetPoints s) (0x2300 + d) 0x0A = 1800 := by
  refine foldl_fourDies (P := fun t d => odGet t (0x2300 + d) 0x09 = 1500 ∧ odGet t (0x2300 + d) 0x0A = 1800) (fun x d _ => ?_)
    (fun x d e _ _ hne h => ?_) s hd
  · exact ⟨(odGet_odSet_ne _ _ (by unfold odKey; omega)).trans (odGet_odSet _ _ _ _), odGet_odSet _ _ _ _⟩
  · rw [odGet_odSet_ne _ _ (by unfold odKey; omega), odGet_odSet_ne _ _ (by unfold odKey; omega), odGet_odSet_ne _ _ (by unfold odKey; omega),
      odGet_odSet_ne _ _ (by unfold odKey; omega)]
    exact h

theorem putAllocations_keeps (s : State) (v : Nat) : OdKeeps (fun k => k ≠ odKey 0x2100 0x02) s (putAllocations s v) := by
  unfold putAllocations
  split
  · exact (OdKeeps.of_od (s := s)).trans (.set _ _ fun h => h rfl)
  · exact .set s v fun h => h rfl

/-- Without an emergency's hold the allocations put are those shown. -/
theorem putAllocations_free {s : State} (h : s.allocHeld = none) (v : Nat) : putAllocations s v = odSet s 0x2100 0x02 v := by
  unfold putAllocations
  rw [h]

theorem activeOn_congr {s t : State} (h : OdKeeps (fun k => k / 256 ≠ 0x2100) s t) {d : Nat} : activeOn t d = activeOn s d := by
  have hcore : ∀ c, coreState t c = coreState s c := fun c => h.get _ _ (by unfold odKey; omega)
  unfold activeOn
  simp only [hcore]

/-- The AUTO allocations come from the limit and from the cores in service alone. -/
theorem autoAllocs_congr {s t : State} (h : OdKeeps (fun k => k / 256 ≠ 0x2100) s t) (hlimit : odGet t 0x2100 0x01 = odGet s 0x2100 0x01)
    (hout : t.diesOut = s.diesOut) (u : Nat) : autoAllocs t u = autoAllocs s u := by
  unfold autoAllocs autoAlloc
  simp only [activeOn_congr h, hlimit, hout]

/-- The set points and the hold of the allocations stand. -/
structure SameSet (s t : State) : Prop where
  array : t.arraySet = s.arraySet
  core : t.coreSet = s.coreSet
  held : t.allocHeld = s.allocHeld

theorem SameSet.refl (s : State) : SameSet s s := ⟨rfl, rfl, rfl⟩

theorem SameSet.trans {s t u : State} (h : SameSet s t) (g : SameSet t u) : SameSet s u :=
  ⟨g.array.trans h.array, g.core.trans h.core, g.held.trans h.held⟩

theorem SameSet.of_changes {K : List Kind} {s t : State} (h : Changes K s t) (hk : K.contains .power = false := by rfl) : SameSet s t := by
  obtain ⟨-, harray, hcore, -, hheld, -⟩ := h.same .power hk
  exact ⟨harray, hcore, hheld⟩

theorem SameSet.foldl {α : Type} {f : State → α → State} (hf : ∀ s a, SameSet s (f s a)) (l : List α) (s : State) : SameSet s (l.foldl f s) := by
  induction l generalizing s with
  | nil => exact .refl s
  | cons a r ih => exact (hf s a).trans (ih _)

theorem autoSetPoints_sameSet (s : State) : SameSet s (autoSetPoints s) :=
  .foldl (f := fun s d => odSet (odSet s (0x2300 + d) 0x09 1500) (0x2300 + d) 0x0A 1800) (fun _ _ => ⟨rfl, rfl, rfl⟩) dies s

/-- The set points shown take effect. -/
theorem applySetPoints_sets (s : State) : (applySetPoints s).arraySet = dies.map (fun d => odGet s (0x2300 + d) 0x09) ∧
    (applySetPoints s).coreSet = dies.map (fun d => odGet s (0x2300 + d) 0x0A) ∧ (applySetPoints s).allocHeld = s.allocHeld := by
  unfold applySetPoints
  dsimp only
  generalize hx : ({ s with arraySet := dies.map (fun d => odGet s (0x2300 + d) 0x09), coreSet := dies.map (fun d => odGet s (0x2300 + d) 0x0A) } : State) = x
  have hfold : ∀ f : State → Nat → State, (∀ t d, SameSet t (f t d)) → SameSet x (showFreq (dies.foldl f x)) := fun f hf =>
    (SameSet.foldl hf dies x).trans (.of_changes (showFreq_changes _))
  obtain ⟨harray, hcore, hheld⟩ := hfold (fun s d => if s.stretches.any (holdsCore d) || s.allocHeld.isSome then s else setCoreFreq s d (coreSetPoint s d))
    fun t d => by
      split
      · exact .refl t
      · exact ⟨rfl, rfl, rfl⟩
  rw [harray, hcore, hheld, ← hx]
  exact ⟨rfl, rfl, rfl⟩

theorem applySetPoints_keeps (s : State) : OdKeeps (fun k => ∀ d, d < 4 → k ≠ odKey (0x2300 + d) 0x0B) s (applySetPoints s) := by
  unfold applySetPoints
  refine OdKeeps.trans ?_ (showFreq_keeps _)
  refine (OdKeeps.of_od (s := s)).trans (.foldl (fun t d => ?_) dies _)
  split
  · exact .refl t
  · exact .of_changes (setCoreFreq_changes t d _)

theorem scheduleRefresh_sameSet (s : State) (i : Nat) : SameSet s (scheduleRefresh s i) := by
  unfold scheduleRefresh
  split
  · exact .refl s
  · exact ⟨rfl, rfl, rfl⟩

theorem checkCal_sameSet (s : State) (i : Nat) (temp : Int) : SameSet s (checkCal s i temp) := by
  have hsnag : ∀ x, SameSet x (scheduleRefresh (snagSet x 136) i) := fun x =>
    (SameSet.of_changes (snagSet_changes x 136)).trans (scheduleRefresh_sameSet _ i)
  unfold checkCal
  dsimp only
  split
  · refine SameSet.trans ?_ (hsnag _)
    split
    · exact ⟨rfl, rfl, rfl⟩
    · exact ⟨rfl, rfl, rfl⟩
  split
  · split
    · exact ⟨rfl, rfl, rfl⟩
    · exact ⟨rfl, rfl, rfl⟩
  · exact .refl s

/-- The check of a calibration writes its own page and the recorder's. -/
theorem checkCal_keeps (s : State) {i : Nat} (hi : 0xA000 ≤ i) (temp : Int) : OdKeeps (fun k => k < 0x520000) s (checkCal s i temp) := by
  have hset : ∀ (x : State) (n v : Nat), OdKeeps (fun k => k < 0x520000) x (odSet x i n v) := fun x n v =>
    .set x v (by unfold odKey; omega)
  have hsnag : ∀ x, OdKeeps (fun k => k < 0x520000) x (scheduleRefresh (snagSet x 136) i) := fun x =>
    ((snagSet_offLog x 136).mono fun k hk => by unfold logKey; omega).trans (.of_changes (scheduleRefresh_changes _ i))
  unfold checkCal
  dsimp only
  split
  · refine OdKeeps.trans ?_ (hsnag _)
    split
    · exact hset _ _ _
    · exact (hset _ _ _).trans (hset _ _ _)
  split
  · split
    · exact hset _ _ _
    · exact (hset _ _ _).trans (hset _ _ _)
  · exact .refl s

theorem guardMargins_sameSet (s : State) (p : Nat) : SameSet s (guardMargins s p) := .of_changes (guardMargins_changes s p)

theorem checkCals_leaves (s : State) (refs : List Int) : OdKeeps (fun k => k < 0x520000) s (checkCals s refs) ∧ SameSet s (checkCals s refs) := by
  have hmargins : ∀ x : State, OdKeeps (fun k => k < 0x520000) x ((List.range 16).foldl (fun s p => guardMargins s p) x) := fun x =>
    .foldl (fun y p => .set y _ (by unfold odKey; omega)) _ x
  have hchecked : OdKeeps (fun k => k < 0x520000) s ((calIndexes.zip refs).foldl (fun s p => checkCal s p.1 p.2) s) := by
    refine .foldl_mem (fun x hx t => ?_) s
    obtain ⟨hpage, -⟩ := calIndexes_page (List.contains_iff_mem.mpr (List.of_mem_zip hx).1)
    exact checkCal_keeps t hpage x.2
  have hset : ∀ x : State, SameSet x ((List.range 16).foldl guardMargins x) := fun x => .foldl guardMargins_sameSet _ x
  have hcals : SameSet s ((calIndexes.zip refs).foldl (fun s p => checkCal s p.1 p.2) s) :=
    .foldl (f := fun s (p : Nat × Int) => checkCal s p.1 p.2) (fun t x => checkCal_sameSet t x.1 x.2) _ s
  unfold checkCals
  exact ⟨hchecked.trans (hmargins _), hcals.trans (hset _)⟩

theorem restoreCore_sets (s : State) (d : Nat) : (restoreCore s d).arraySet = s.arraySet ∧ (restoreCore s d).coreSet = s.coreSet := by
  unfold restoreCore
  split
  · exact ⟨rfl, rfl⟩
  · exact ⟨rfl, rfl⟩

/-- The end of a release puts the allocations back, and leaves the set points. -/
theorem endRelease_leaves (s : State) : OdKeeps (fun k => k ≠ odKey 0x2100 0x02) s (endRelease s) ∧ (endRelease s).arraySet = s.arraySet ∧
    (endRelease s).coreSet = s.coreSet := by
  unfold endRelease
  split
  · split
    · exact ⟨.refl s, rfl, rfl⟩
    · dsimp only
      generalize hx : odSet { s with allocHeld := none, releasing := false } 0x2100 0x02 _ = x
      have hput : OdKeeps (fun k => k ≠ odKey 0x2100 0x02) s x :=
        hx ▸ (OdKeeps.of_od (s := s) (t := { s with allocHeld := none, releasing := false })).trans (.set _ _ fun h => h rfl)
      refine ⟨hput.trans (.foldl (fun t d => .of_changes (restoreCore_changes t d)) dies x), ?_, ?_⟩
      · exact (foldl_keeps (g := State.arraySet) (fun t d => (restoreCore_sets t d).1) dies x).trans (hx ▸ rfl)
      · exact (foldl_keeps (g := State.coreSet) (fun t d => (restoreCore_sets t d).2) dies x).trans (hx ▸ rfl)
  · exact ⟨.refl s, rfl, rfl⟩

theorem endRelease_free {s : State} (h : s.allocHeld = none) : endRelease s = s := by
  unfold endRelease
  rw [h]

/-- The policy loop once the allocations and the set points of its mode stand: the clocks, the band, the calibrations and an end of release. -/
def policyApplied (w : Nat) (refs : List Int) (s : State) : State :=
  endRelease (checkCals (odSet (applySetPoints s) 0x2100 0x0A (min 7 (w / 700))) refs)

theorem policyApplied_keeps (w : Nat) (refs : List Int) (s : State) :
    OdKeeps (fun k => k / 256 = 0x2100 ∧ k ≠ odKey 0x2100 0x02 ∧ k ≠ odKey 0x2100 0x0A) s (policyApplied w refs s) :=
  ((((applySetPoints_keeps s).mono fun k hk d _ => by unfold odKey; omega).trans (.set _ _ fun h => h.2.2 rfl)).trans
    ((checkCals_leaves _ refs).1.mono fun k hk => by omega)).trans ((endRelease_leaves _).1.mono fun k hk => hk.2.1)

theorem odGet_policyApplied_band (w : Nat) (refs : List Int) (s : State) : odGet (policyApplied w refs s) 0x2100 0x0A = min 7 (w / 700) := by
  unfold policyApplied
  rw [(endRelease_leaves _).1.get 0x2100 0x0A (by decide), (checkCals_leaves _ refs).1.get 0x2100 0x0A (by decide), odGet_odSet]

theorem policyApplied_sets (w : Nat) (refs : List Int) (s : State) : (policyApplied w refs s).arraySet = dies.map (fun d => odGet s (0x2300 + d) 0x09) ∧
    (policyApplied w refs s).coreSet = dies.map (fun d => odGet s (0x2300 + d) 0x0A) := by
  obtain ⟨harray, hcore, -⟩ := applySetPoints_sets s
  obtain ⟨-, hchecked⟩ := checkCals_leaves (odSet (applySetPoints s) 0x2100 0x0A (min 7 (w / 700))) refs
  obtain ⟨-, harray', hcore'⟩ := endRelease_leaves (checkCals (odSet (applySetPoints s) 0x2100 0x0A (min 7 (w / 700))) refs)
  exact ⟨(harray'.trans hchecked.array).trans harray, (hcore'.trans hchecked.core).trans hcore⟩

/-- Where no emergency holds the allocations, they stand as they were put. -/
theorem odGet_policyApplied_allocs {s : State} (h : s.allocHeld = none) (w : Nat) (refs : List Int) :
    odGet (policyApplied w refs s) 0x2100 0x02 = odGet s 0x2100 0x02 := by
  obtain ⟨-, -, hheld⟩ := applySetPoints_sets s
  obtain ⟨hchecked, hset⟩ := checkCals_leaves (odSet (applySetPoints s) 0x2100 0x0A (min 7 (w / 700))) refs
  unfold policyApplied
  rw [endRelease_free (hset.held.trans (hheld.trans h)), hchecked.get 0x2100 0x02 (by decide), odGet_odSet_ne _ _ (by decide),
    (applySetPoints_keeps s).get 0x2100 0x02 fun d hd => by unfold odKey; omega]

/-- The state in which the policy loop notes the uncharged power. -/
def unchargedNoted (s : State) (u : Nat) : State := odSet { s with fencesIn := [] } 0x2100 0x08 u

theorem policyLoop_eq {s : State} {v : Nat} (hb : bulkOn s = true) (hf : s.fwRuns = true) (ha : odGet s 0x8000 0x09 ≠ 3) (w : Nat) (refs : List Int) :
    exec (.policyLoop v w refs) s = .next (policyApplied w refs (if odGet s 0x2100 0x04 = 0 then autoPower (unchargedNoted s (uncharged s v)) (uncharged s v)
      else unchargedNoted s (uncharged s v))) := by
  have hready : (bulkOn s && s.fwRuns && odGet s 0x8000 0x09 != 3) = true := by simp [hb, hf, ha]
  refine congrArg Host.Outcome.next ((if_pos hready).trans ?_)
  by_cases hauto : odGet s 0x2100 0x04 = 0
  · simp only [hauto, beq_self_eq_true, if_true]
    rfl
  · simp only [hauto, beq_iff_eq, if_false]
    rfl

theorem policyLoop_shows (s : State) (v u w : Nat) (refs : List Int) (hu : u = uncharged s v) (hb : bulkOn s = true) (hf : s.fwRuns = true)
    (ha : odGet s 0x8000 0x09 ≠ 3) : ∃ t, exec (.policyLoop v w refs) s = .next t ∧ odGet t 0x2100 0x08 = u ∧ odGet t 0x2100 0x0A = min 7 (w / 700) ∧
      (odGet s 0x2100 0x04 = 0 → t.arraySet = [1500, 1500, 1500, 1500] ∧ t.coreSet = [1800, 1800, 1800, 1800] ∧
        (s.allocHeld = none → odGet t 0x2100 0x02 = autoAllocs s u)) := by
  subst hu
  refine ⟨_, policyLoop_eq hb hf ha w refs, ?_, odGet_policyApplied_band w refs _, fun hauto => ?_⟩
  · rw [(policyApplied_keeps w refs _).get 0x2100 0x08 (by decide)]
    split
    · unfold autoPower
      rw [(autoSetPoints_keeps _).get 0x2100 0x08 (by decide), (putAllocations_keeps _ _).get 0x2100 0x08 (by decide)]
      exact odGet_odSet _ _ _ _
    · exact odGet_odSet _ _ _ _
  · rw [if_pos hauto]
    generalize uncharged s v = u
    have hpoints := fun d (hd : d ∈ dies) => odGet_autoSetPoints (putAllocations (unchargedNoted s u) (autoAllocs (unchargedNoted s u) u)) (dies_lt hd)
    obtain ⟨harray, hcore⟩ := policyApplied_sets w refs (autoPower (unchargedNoted s u) u)
    refine ⟨harray.trans ?_, hcore.trans ?_, fun hheld => ?_⟩
    · exact List.map_eq_replicate_iff.mpr fun d hd => (hpoints d hd).1
    · exact List.map_eq_replicate_iff.mpr fun d hd => (hpoints d hd).2
    · have hfree : (unchargedNoted s u).allocHeld = none := hheld
      have hnoted : OdKeeps (fun k => k ≠ odKey 0x2100 0x08) s (unchargedNoted s u) := (OdKeeps.of_od (s := s)).trans (.set _ _ fun h => h rfl)
      have hallocs : autoAllocs (unchargedNoted s u) u = autoAllocs s u :=
        autoAllocs_congr (hnoted.mono fun k hk he => hk (by rw [he]; rfl)) (hnoted.get _ _ (by decide)) rfl u
      have hput := putAllocations_free hfree (autoAllocs (unchargedNoted s u) u)
      unfold autoPower
      rw [odGet_policyApplied_allocs ((autoSetPoints_sameSet _).held.trans (by rw [hput]; exact hfree)), (autoSetPoints_keeps _).get 0x2100 0x02 (by decide),
        hput, odGet_odSet, hallocs]

/-! ### A refresh of a calibration (R340, R424) -/

theorem calibrationRefresh_begins (s : State) (i : Nat) (temp : Int) (hasked : s.refreshes.any (fun r => r.1 == i) = true) (hc : causes s = 0)
    (hdue : refreshDue s i = true) : ∃ t, exec (.calibrationRefresh ⟨i, false⟩ temp) s = .next t ∧ odGet t i 0x03 = 2 ∧ t.refreshes = s.refreshes := by
  have hcalm : emergency s = false := by
    unfold causes at hc
    unfold emergency
    rw [hc]
    rfl
  have hbegun : beginRefresh s i = odSet s i 0x03 2 := if_pos (by rw [hasked, hcalm, hdue]; rfl)
  exact ⟨odSet s i 0x03 2, congrArg Host.Outcome.next hbegun, odGet_odSet _ _ _ _, rfl⟩

/-- A tag as a capture forms it: valid, of a band and a temperature, its guard bit clear. -/
theorem tag_captured (band : Nat) {c : Nat} (hc : c < 4096) : tagValid (band * 2 ^ 29 + 2 ^ 28 + c * 2 ^ 16) = true ∧
    tagGuard (band * 2 ^ 29 + 2 ^ 28 + c * 2 ^ 16) = false := by
  unfold tagValid tagGuard bitOf
  rw [Nat.testBit_eq_decide_div_mod_eq, Nat.testBit_eq_decide_div_mod_eq]
  simp only [decide_eq_true_eq, decide_eq_false_iff_not]
  omega

/-- A capture writes the three entries of its tag. -/
theorem tagCal_writes (s : State) (i : Nat) (temp : Int) : OdKeeps (fun k => k ≠ odKey i 0x01 ∧ k ≠ odKey i 0x02 ∧ k ≠ odKey i 0x03) s (tagCal s i temp) ∧
    odGet (tagCal s i temp) i 0x02 = s.uptime ∧ tagValid (odGet (tagCal s i temp) i 0x01) = true ∧ guarded (tagCal s i temp) i = false := by
  have hkeeps : OdKeeps (fun k => k ≠ odKey i 0x01 ∧ k ≠ odKey i 0x02 ∧ k ≠ odKey i 0x03) s (tagCal s i temp) :=
    ((OdKeeps.set _ _ fun h => h.1 rfl).trans (.set _ _ fun h => h.2.1 rfl)).trans (.set _ _ fun h => h.2.2 rfl)
  have htag : odGet (tagCal s i temp) i 0x01 = odGet s 0x2100 0x0A * 2 ^ 29 + 2 ^ 28 + (temp % 4096).toNat * 2 ^ 16 := by
    unfold tagCal
    dsimp only
    rw [odGet_odSet_ne _ _ (by unfold odKey; omega), odGet_odSet_ne _ _ (by unfold odKey; omega), odGet_odSet]
  have hfields := tag_captured (odGet s 0x2100 0x0A) (c := (temp % 4096).toNat) (by omega)
  unfold guarded
  rw [htag]
  exact ⟨hkeeps, (odGet_odSet_ne _ _ (by unfold odKey; omega)).trans (odGet_odSet _ _ _ _), hfields⟩

/-- A refresh that has ended is off the list of those asked for, and noted with its time. -/
def refreshTaken (s : State) (i : Nat) : State :=
  { s with refreshes := s.refreshes.filter (fun r => r.1 != i), refreshed := odIns s.refreshed i s.uptime }

/-- The calibration as the end of a refresh tags it and counts it. -/
def refreshTagged (s : State) (i : Nat) (temp : Int) : State := odBump (tagCal (refreshRefs (refreshTaken s i) i) i temp) i 0x04 1

theorem endRefresh_eq {s : State} {i : Nat} (hi : calIndexes.contains i = true) (h : odGet s i 0x03 = 2) (temp : Int) :
    endRefresh s i temp = if 0xA020 ≤ i then guardMargins (refreshTagged s i temp) (i - 0xA020) else refreshTagged s i temp :=
  if_pos (by rw [h, hi]; rfl)

/-- The margins of a mist coat lie on the page of its port. -/
theorem endRefresh_tagged {s : State} {i : Nat} (hi : calIndexes.contains i = true) (h : odGet s i 0x03 = 2) (temp : Int) :
    OdKeeps (fun k => 0x600000 ≤ k) (refreshTagged s i temp) (endRefresh s i temp) ∧ (endRefresh s i temp).ports = (refreshTagged s i temp).ports ∧
      (endRefresh s i temp).refreshes = (refreshTagged s i temp).refreshes := by
  have hlast : ∀ j ∈ calIndexes, j < 0xA030 := by decide
  have hport := hlast i (List.contains_iff_mem.mp hi)
  rw [endRefresh_eq hi h]
  split
  · exact ⟨.set _ _ (by unfold odKey; omega), rfl, rfl⟩
  · exact ⟨.refl _, rfl, rfl⟩

theorem getPort_refreshRefs {s : State} {p : Nat} (hp : p < 16) (hlen : p < s.ports.length) :
    (getPort (refreshRefs s (0xA010 + p)) p).refs = (getPort s p).last.orElse (fun _ => (getPort s p).refs) := by
  have hport : refreshRefs s (0xA010 + p) = putPort s p { getPort s p with refs := (getPort s p).last.orElse (fun _ => (getPort s p).refs) } := by
    unfold refreshRefs putPort getPort
    rw [if_pos (by simp; omega), show 0xA010 + p - 0xA010 = p by omega]
  rw [hport, getPort_putPort hlen]

theorem calibrationRefresh_ends (s : State) (i : Nat) (temp : Int) (hi : calIndexes.contains i = true) (h : odGet s i 0x03 = 2) :
    ∃ t, exec (.calibrationRefresh ⟨i, true⟩ temp) s = .next t ∧ odGet t i 0x02 = s.uptime ∧ tagValid (odGet t i 0x01) = true ∧
      guarded t i = false ∧ odGet t i 0x04 = min cntMax (odGet s i 0x04 + 1) ∧ t.refreshes.any (fun r => r.1 == i) = false ∧
      ∀ p, p < 16 → p < s.ports.length → i = 0xA010 + p → (getPort t p).refs = (getPort s p).last.orElse (fun _ => (getPort s p).refs) := by
  obtain ⟨hlow, hhigh⟩ := calIndexes_page hi
  obtain ⟨hkeeps, hports, hlist⟩ := endRefresh_tagged hi h temp
  obtain ⟨hwritten, htime, hvalid, hguard⟩ := tagCal_writes (refreshRefs (refreshTaken s i) i) i temp
  have hnotlog : ∀ n, n < 256 → ¬ logKey (odKey i n) := fun n hn => not_logKey (by omega) hn
  have hread : ∀ n, n < 4 → odGet (endRefresh s i temp) i n = odGet (tagCal (refreshRefs (refreshTaken s i) i) i temp) i n := fun n hn =>
    (hkeeps.get i n (by unfold odKey; omega)).trans ((odBump_keeps _ i 0x04 1).get i n ⟨by unfold odKey; omega, hnotlog n (by omega)⟩)
  have hrefs := refreshRefs_changes (refreshTaken s i) i
  have htagged := tagCal_changes (refreshRefs (refreshTaken s i) i) i temp
  have hcounted := odBump_changes (tagCal (refreshRefs (refreshTaken s i) i) i temp) i 0x04 1
  have huptime : (refreshRefs (refreshTaken s i) i).uptime = s.uptime := hrefs.same .clock rfl
  refine ⟨endRefresh s i temp, rfl, (hread 2 (by decide)).trans (htime.trans huptime), ?_, ?_, ?_, ?_, fun p hp hlen hip => ?_⟩
  · rw [hread 1 (by decide)]
    exact hvalid
  · unfold guarded
    rw [hread 1 (by decide)]
    exact hguard
  · have hold : odGet (refreshRefs (refreshTaken s i) i) i 0x04 = odGet s i 0x04 := (OdKeeps.of_changes (P := fun _ => True) hrefs).get _ _ trivial
    rw [hkeeps.get i 0x04 (by unfold odKey; omega), refreshTagged, odGet_odBump _ _ _ _ (hnotlog 4 (by decide)),
      hwritten.get i 0x04 (by unfold odKey; omega), hold]
  · have hfiltered : (refreshTagged s i temp).refreshes = s.refreshes.filter (fun r => r.1 != i) := by
      obtain ⟨-, -, -, -, -, -, -, -, -, -, -, -, -, hc, -⟩ := hcounted.same .power rfl
      obtain ⟨-, -, -, -, -, -, -, -, -, -, -, -, -, ht, -⟩ := htagged.same .power rfl
      obtain ⟨-, -, -, -, -, -, -, -, -, -, -, -, -, hr, -⟩ := hrefs.same .power rfl
      exact hc.trans (ht.trans hr)
    rw [hlist, hfiltered]
    simp
  · subst hip
    rw [getPort_congr hports, refreshTagged, getPort_congr (hcounted.same .ports rfl).1, getPort_congr (htagged.same .ports rfl).1]
    exact getPort_refreshRefs hp hlen

/-- Settles O43: a window by its prices and by what the comparison with the limit leaves of them, the policy loop by what follows the entries that it
puts, a refresh by the tag that its end captures. -/
theorem controlLoopsRun : Obligations.ControlLoopsRun :=
  ⟨governorLoop_shows, policyLoop_shows, calibrationRefresh_begins, calibrationRefresh_ends⟩

end Sys2Proof.Machine
end

section
/-! PROOFS. What a port keeps through a change of its state, its reports and its lane moves (R331, R334, R335, R341), for O57. -/

set_option Elab.async false

namespace Sys2Proof.Machine

/-! ### Packets in flight (R293, R294) -/

/-- A port without its packets in flight: what their flits, their drop marks and the frames sent for them touch. -/
def Port.control (v : Port) : Port := { v with partialFlits := [], dropping := [], fseq := 0 }

/-- Every port is as it was but for its packets in flight. -/
structure SameControl (s t : State) : Prop where
  len : t.ports.length = s.ports.length
  control : ∀ q, (getPort t q).control = (getPort s q).control

theorem SameControl.refl (s : State) : SameControl s s := ⟨rfl, fun _ => rfl⟩

theorem SameControl.trans {s t u : State} (h : SameControl s t) (g : SameControl t u) : SameControl s u :=
  ⟨g.len.trans h.len, fun q => (g.control q).trans (h.control q)⟩

theorem SameControl.of_ports {s t : State} (h : t.ports = s.ports) : SameControl s t := ⟨by rw [h], fun q => by rw [getPort_congr h]⟩

theorem SameControl.of_changes {K : List Kind} {s t : State} (h : Changes K s t) (hk : K.contains .ports = false := by rfl) : SameControl s t :=
  .of_ports (h.same .ports hk).1

theorem SameControl.foldl {α : Type} {f : State → α → State} (hf : ∀ s a, SameControl s (f s a)) (l : List α) (s : State) :
    SameControl s (l.foldl f s) := by
  induction l generalizing s with
  | nil => exact .refl s
  | cons a r ih => exact (hf s a).trans (ih _)

theorem putPort_control {s : State} {p : Nat} {v : Port} (h : v.control = (getPort s p).control) : SameControl s (putPort s p v) := by
  refine ⟨List.length_set .., fun q => ?_⟩
  by_cases hqp : q = p
  · subst hqp
    by_cases hlen : q < s.ports.length
    · rw [getPort_putPort hlen, h]
    · rw [getPort_congr (t := putPort s q v) (List.set_eq_of_length_le (by omega))]
  · rw [getPort_putPort_ne _ _ hqp]

theorem sendAbort_control (s : State) (port : Nat) (p : Packet) (k : Nat) : SameControl s (sendAbort s port p k) := by
  unfold sendAbort emitFlits
  refine SameControl.trans ?_ (.of_changes (emit_changes _ _))
  exact putPort_control rfl

theorem abortPart_control (s : State) (port vc : Nat) : SameControl s (abortPart s port vc) := by
  unfold abortPart
  split
  · exact .refl s
  · dsimp only
    split
    · exact .refl s
    · split
      · split
        · exact .of_ports rfl
        · exact SameControl.trans (t := { s with free := s.free + 1 }) (.of_ports rfl) (sendAbort_control _ _ _ _)
      · exact .refl s

theorem dropPartial_control (s : State) (port vc : Nat) : SameControl s (dropPartial s port vc) := by
  unfold dropPartial
  split
  · exact .refl s
  · unfold dropPacket
    have haborted := abortPart_control s port vc
    dsimp only
    generalize abortPart s port vc = x at haborted ⊢
    refine SameControl.trans ?_ (.of_changes (odBump_changes _ _ _ _))
    exact haborted.trans (putPort_control rfl)

/-- A port that enters a state drops packets at the most. -/
theorem setPortState_control (s : State) (p v code : Nat) : SameControl s (setPortState s p v code) := by
  have hdropped : SameControl s (if portState s p = 3 then dropFlight s p else s) := by
    split
    · refine SameControl.foldl (fun t vc => ?_) _ s
      split
      · exact .refl t
      · exact dropPartial_control t p vc
    · exact .refl s
  rw [setPortState_eq]
  split
  · exact .refl s
  · exact (hdropped.trans (.of_changes (stateChange_changes _ _ _ _ _ _ _))).trans (.of_ports (progress_stepOnly _).ports)

/-! ### What a port holds -/

/-- The rings of a bus. -/
def Port.bus (v : Port) (tx : Bool) : List Ring := if tx then v.tx else v.rx

/-- What a port holds whatever state it enters: its rings that are neither OFF nor FAILED, its slot checks, the far power, the records of its coat
and the moves that wait, to which some may come. -/
structure Port.Holds (v w : Port) : Prop where
  ring : ∀ (tx : Bool) (slot : Nat) (r : Ring), (v.bus tx)[slot]? = some r → r.st ≠ 0 → r.st ≠ 4 → (w.bus tx)[slot]? = some r
  slotBad : w.slotBad = v.slotBad
  farLpwr : w.farLpwr = v.farLpwr
  refs : w.refs = v.refs
  pathLoss : w.pathLoss = v.pathLoss
  power : w.power = v.power
  tracking : w.tracking = v.tracking
  rxMove : w.rxMove = v.rxMove
  txMove : ∃ e, w.txMove = v.txMove ++ e

theorem Port.Holds.refl (v : Port) : v.Holds v := ⟨fun _ _ _ h _ _ => h, rfl, rfl, rfl, rfl, rfl, rfl, rfl, ⟨[], (List.append_nil _).symm⟩⟩

theorem Port.Holds.trans {u v w : Port} (h : u.Holds v) (g : v.Holds w) : u.Holds w := by
  obtain ⟨e, he⟩ := h.txMove
  obtain ⟨f, hf⟩ := g.txMove
  exact ⟨fun tx slot r hr h0 h4 => g.ring tx slot r (h.ring tx slot r hr h0 h4) h0 h4, g.slotBad.trans h.slotBad, g.farLpwr.trans h.farLpwr,
    g.refs.trans h.refs, g.pathLoss.trans h.pathLoss, g.power.trans h.power, g.tracking.trans h.tracking, g.rxMove.trans h.rxMove,
    ⟨e ++ f, by rw [hf, he, List.append_assoc]⟩⟩

/-- A port whose rings are mapped by what leaves those that are neither OFF nor FAILED, and whose other fields stand. -/
theorem Port.Holds.of_map {v w : Port} {f : Ring → Ring} (hf : ∀ r, r.st ≠ 0 → r.st ≠ 4 → f r = r) (htx : w.tx = v.tx.map f) (hrx : w.rx = v.rx.map f)
    (slotBad : w.slotBad = v.slotBad := by rfl) (farLpwr : w.farLpwr = v.farLpwr := by rfl) (refs : w.refs = v.refs := by rfl)
    (pathLoss : w.pathLoss = v.pathLoss := by rfl) (power : w.power = v.power := by rfl) (tracking : w.tracking = v.tracking := by rfl)
    (rxMove : w.rxMove = v.rxMove := by rfl) (txMove : w.txMove = v.txMove := by rfl) : v.Holds w := by
  refine ⟨fun tx slot r hr h0 h4 => ?_, slotBad, farLpwr, refs, pathLoss, power, tracking, rxMove, ⟨[], by rw [txMove, List.append_nil]⟩⟩
  have hbus : w.bus tx = (v.bus tx).map f := by cases tx <;> assumption
  rw [hbus, List.getElem?_map, hr, Option.map_some, hf r h0 h4]

/-- A port whose rings stand. -/
theorem Port.Holds.of_rings {v w : Port} (htx : w.tx = v.tx := by rfl) (hrx : w.rx = v.rx := by rfl)
    (slotBad : w.slotBad = v.slotBad := by rfl) (farLpwr : w.farLpwr = v.farLpwr := by rfl) (refs : w.refs = v.refs := by rfl)
    (pathLoss : w.pathLoss = v.pathLoss := by rfl) (power : w.power = v.power := by rfl) (tracking : w.tracking = v.tracking := by rfl)
    (rxMove : w.rxMove = v.rxMove := by rfl) (txMove : w.txMove = v.txMove := by rfl) : v.Holds w :=
  .of_map (f := id) (fun _ _ _ => rfl) (by rw [htx, List.map_id]) (by rw [hrx, List.map_id]) slotBad farLpwr refs pathLoss power tracking rxMove txMove

/-- What a field reads does not rest on the packets in flight. -/
theorem Port.eq_of_control {α : Type} {v w : Port} (h : w.control = v.control) (f : Port → α) (hf : ∀ u : Port, f u.control = f u := by intro; rfl) :
    f w = f v := by
  rw [← hf w, h, hf]

theorem Port.Holds.of_control {v w : Port} (h : w.control = v.control) : v.Holds w :=
  .of_rings (eq_of_control h Port.tx) (eq_of_control h Port.rx) (eq_of_control h Port.slotBad) (eq_of_control h Port.farLpwr) (eq_of_control h Port.refs)
    (eq_of_control h Port.pathLoss) (eq_of_control h Port.power) (eq_of_control h Port.tracking) (eq_of_control h Port.rxMove)
    (eq_of_control h Port.txMove)

/-- Port p holds what it held. -/
structure PortHolds (p : Nat) (s t : State) : Prop where
  len : t.ports.length = s.ports.length
  holds : (getPort s p).Holds (getPort t p)

theorem PortHolds.refl (p : Nat) (s : State) : PortHolds p s s := ⟨rfl, .refl _⟩

theorem PortHolds.trans {p : Nat} {s t u : State} (h : PortHolds p s t) (g : PortHolds p t u) : PortHolds p s u :=
  ⟨g.len.trans h.len, h.holds.trans g.holds⟩

theorem PortHolds.of_control {s t : State} (p : Nat) (h : SameControl s t) : PortHolds p s t := ⟨h.len, .of_control (h.control p)⟩

theorem PortHolds.of_ports {p : Nat} {s t : State} (h : t.ports = s.ports) : PortHolds p s t := .of_control p (.of_ports h)

theorem PortHolds.of_changes {p : Nat} {K : List Kind} {s t : State} (h : Changes K s t) (hk : K.contains .ports = false := by rfl) :
    PortHolds p s t := .of_ports (h.same .ports hk).1

theorem getPort_of_set {p : Nat} {s t : State} {v : Port} (hlen : p < s.ports.length) (hports : t.ports = s.ports.set p v) : getPort t p = v :=
  (getPort_congr (s := putPort s p v) hports p).trans (getPort_putPort hlen v)

/-- A port that is written to hold what it held. -/
theorem PortHolds.of_set {p : Nat} {s t : State} {v : Port} (hlen : p < s.ports.length) (hports : t.ports = s.ports.set p v)
    (h : (getPort s p).Holds v) : PortHolds p s t :=
  ⟨by rw [hports, List.length_set], by rw [getPort_of_set hlen hports]; exact h⟩

theorem PortHolds.lt {p : Nat} {s t : State} (h : PortHolds p s t) (hlen : p < s.ports.length) : p < t.ports.length := h.len ▸ hlen

/-- A ring that is neither OFF nor FAILED stands. -/
theorem PortHolds.ringIs {p : Nat} {s t : State} (h : PortHolds p s t) {tx : Bool} {slot : Nat} {r : Ring} (hr : ringIs s p tx slot r) (h0 : r.st ≠ 0)
    (h4 : r.st ≠ 4) : ringIs t p tx slot r :=
  ⟨h.lt hr.1, h.holds.ring tx slot r hr.2 h0 h4⟩

/-! ### What a port has heard and how far its coat has come -/

/-- The alignment of a port's slots, the far end's last report, and its coat. -/
def Port.signs (v : Port) : List Bool × Nat × Nat := (v.aligned, v.lastReport, v.mist)

/-- Port p holds what it held, and has its signs. -/
structure PortStays (p : Nat) (s t : State) : Prop extends PortHolds p s t where
  signs : (getPort t p).signs = (getPort s p).signs

theorem PortStays.refl (p : Nat) (s : State) : PortStays p s s := ⟨.refl p s, rfl⟩

theorem PortStays.trans {p : Nat} {s t u : State} (h : PortStays p s t) (g : PortStays p t u) : PortStays p s u :=
  ⟨h.toPortHolds.trans g.toPortHolds, g.signs.trans h.signs⟩

theorem PortStays.of_control {s t : State} (p : Nat) (h : SameControl s t) : PortStays p s t :=
  ⟨.of_control p h, Port.eq_of_control (h.control p) Port.signs⟩

theorem PortStays.of_ports {p : Nat} {s t : State} (h : t.ports = s.ports) : PortStays p s t := .of_control p (.of_ports h)

theorem PortStays.of_changes {p : Nat} {K : List Kind} {s t : State} (h : Changes K s t) (hk : K.contains .ports = false := by rfl) :
    PortStays p s t := .of_ports (h.same .ports hk).1

theorem PortStays.of_set {p : Nat} {s t : State} {v : Port} (hlen : p < s.ports.length) (hports : t.ports = s.ports.set p v)
    (h : (getPort s p).Holds v) (hsigns : v.signs = (getPort s p).signs := by rfl) : PortStays p s t :=
  ⟨.of_set hlen hports h, by rw [getPort_of_set hlen hports, hsigns]⟩

theorem PortStays.aligned {p : Nat} {s t : State} (h : PortStays p s t) : (getPort t p).aligned = (getPort s p).aligned := congrArg Prod.fst h.signs

theorem PortStays.report {p : Nat} {s t : State} (h : PortStays p s t) : (getPort t p).lastReport = (getPort s p).lastReport :=
  congrArg (fun x : List Bool × Nat × Nat => x.2.1) h.signs

theorem PortStays.mist {p : Nat} {s t : State} (h : PortStays p s t) : (getPort t p).mist = (getPort s p).mist :=
  congrArg (fun x : List Bool × Nat × Nat => x.2.2) h.signs

/-! ### The states that it enters (R331, R335, R341, R342) -/

theorem toSweep_holds (r : Ring) (h0 : r.st ≠ 0) (h4 : r.st ≠ 4) : toSweep r = r := if_neg (by omega)

theorem listGet_const (l : List Bool) (i : Nat) : listGet false (l.map fun _ => false) i = false := by
  unfold listGet
  rw [List.getD_eq_getElem?_getD, List.getElem?_map]
  cases l[i]? <;> rfl

theorem retryRing_holds (r : Ring) (_ : r.st ≠ 0) (h4 : r.st ≠ 4) : retryRing r = r := if_neg h4

section
variable {s : State} {p : Nat} (hlen : p < s.ports.length)
include hlen

/-- A port that starts training holds what it held, its slots without alignment, and its coat runs. -/
theorem enterTraining_holds : PortHolds p s (enterTraining s p) ∧ (getPort (enterTraining s p) p).mist = 1 ∧
    ∀ slot, listGet false (getPort (enterTraining s p) p).aligned slot = false := by
  have hentered := setPortState_control s p 1 0
  unfold enterTraining
  dsimp only
  generalize setPortState s p 1 0 = x at hentered ⊢
  have hx : p < x.ports.length := hentered.len ▸ hlen
  refine ⟨(PortHolds.of_control p hentered).trans (.trans ?_ (.of_changes (sendMarkers_changes _ p))), ?_⟩
  · exact .of_set hx rfl (.of_map toSweep_holds rfl rfl)
  · rw [getPort_congr ((sendMarkers_changes _ p).same .ports rfl).1, getPort_putPort hx]
    exact ⟨rfl, fun slot => listGet_const (getPort x p).aligned slot⟩

theorem enterKeying_stays : PortStays p s (enterKeying s p) := by
  have hentered := setPortState_control s p 2 0
  unfold enterKeying
  dsimp only
  generalize setPortState s p 2 0 = x at hentered ⊢
  have hx : p < x.ports.length := hentered.len ▸ hlen
  refine (PortStays.of_control p hentered).trans (.trans (.trans ?_ (.of_changes (emit_changes _ _))) (.of_changes (sendEchoes_changes _ p)))
  exact .of_set hx rfl .of_rings

theorem isolate_stays (detail : Nat) : PortStays p s (isolate s p detail) := by
  have hentered := ((setPortState_control s p 4 0x8031).trans (.of_changes (snagSet_changes _ (112 + p)))).trans
    (.of_changes (fileCode_changes _ 0x8031 (portUnit p) detail))
  unfold isolate
  dsimp only
  generalize fileCode (snagSet (setPortState s p 4 0x8031) (112 + p)) 0x8031 (portUnit p) detail = x at hentered ⊢
  exact (PortStays.of_control p hentered).trans (.of_set (hentered.len ▸ hlen) rfl (.of_map retryRing_holds rfl rfl))

/-! ### Reports and lane moves (R326, R334) -/

theorem sendReport_stays (bad : List Nat) : PortStays p s (sendReport s p bad) := by
  unfold sendReport
  dsimp only
  split
  · exact .refl p s
  · exact .of_set hlen rfl .of_rings

/-- A lane that takes a SPARE is one more move that waits. -/
theorem placeLane_stays (lane : Nat) (hspare : (freeSpare s p).isSome = true) : PortStays p s (placeLane s p lane) := by
  obtain ⟨n, hn⟩ := Option.isSome_iff_exists.mp hspare
  unfold placeLane
  split
  · exact .refl p s
  · simp only [hn]
    refine .of_set hlen rfl ⟨fun _ _ _ h _ _ => h, rfl, rfl, rfl, rfl, rfl, rfl, rfl, _, rfl⟩

theorem placeLanes_stays : PortStays p s (placeLanes s p) :=
  placeLanes_rec (P := PortStays p s) (fun _ lane hspare ih => ih.trans (placeLane_stays (ih.lt hlen) lane hspare)) (.refl p s)

theorem noSpare_holds : PortHolds p s (noSpare s p) := by
  unfold noSpare
  split
  · split
    · exact (enterTraining_holds hlen).1
    · exact (isolate_stays hlen 0).toPortHolds
  split
  · exact (isolate_stays hlen 0).toPortHolds
  · exact .refl p s

/-- A lane that is to move takes a SPARE, or finds none. -/
theorem placeLane_cases (lane : Nat) : PortStays p s (placeLane s p lane) ∧ (placeLane s p lane).od = s.od ∨ placeLane s p lane = noSpare s p := by
  cases hspare : freeSpare s p with
  | some n =>
    have hsome : (freeSpare s p).isSome = true := by rw [hspare]; rfl
    exact .inl ⟨placeLane_stays hlen lane hsome, (placeLane_od lane hsome).1⟩
  | none =>
    unfold placeLane
    split
    · exact .inl ⟨.refl p s, rfl⟩
    · rw [hspare]
      exact .inr rfl

theorem moveLane_cases (slot : Nat) : PortStays p s (moveLane s p slot) ∧ (moveLane s p slot).od = s.od ∨ moveLane s p slot = noSpare s p := by
  unfold moveLane
  split
  · exact .inl ⟨.refl p s, rfl⟩
  · exact placeLane_cases hlen _

theorem moveLane_holds (slot : Nat) : PortHolds p s (moveLane s p slot) := by
  rcases moveLane_cases hlen slot with ⟨h, -⟩ | h
  · exact h.toPortHolds
  · rw [h]
    exact noSpare_holds hlen

end

/-! ### What follows an event (R339, R341, R346) -/

/-- The coat restarted where a lane has failed, on the lanes placed: what an event comes to before the port changes its state. -/
def coated (s0 s : State) (p : Nat) : State := restartCoat s0 (if 1 ≤ portState s p && portState s p ≤ 3 then placeLanes s p else s) p

/-- After an event a port stays in its state, or makes one change of it. -/
theorem settlePort_cases (s0 s : State) (p : Nat) : settlePort s0 s p = coated s0 s p ∨
    (settlePort s0 s p = enterKeying (coated s0 s p) p ∧ portState (coated s0 s p) p = 1 ∧ (getPort (coated s0 s p) p).mist = 2) ∨
    (settlePort s0 s p = enterTraining (coated s0 s p) p ∧ (portState (coated s0 s p) p = 3 ∨ portState (coated s0 s p) p = 4)) ∨
    (settlePort s0 s p = isolate (coated s0 s p) p 0 ∧ portState (coated s0 s p) p ≠ 1) := by
  unfold settlePort coated
  dsimp only
  generalize restartCoat s0 (if 1 ≤ portState s p && portState s p ≤ 3 then placeLanes s p else s) p = x
  split
  · next h =>
    simp only [Bool.and_eq_true, decide_eq_true_eq] at h
    exact .inr (.inl ⟨rfl, h.1.1, h.1.2⟩)
  split
  · next h =>
    simp only [Bool.and_eq_true, decide_eq_true_eq] at h
    exact .inr (.inr (.inl ⟨rfl, .inr h.1.1⟩))
  split
  · next h =>
    simp only [Bool.and_eq_true, decide_eq_true_eq] at h
    split
    · exact .inr (.inr (.inl ⟨rfl, .inl h.1⟩))
    · exact .inr (.inr (.inr ⟨rfl, by omega⟩))
  split
  · next h =>
    simp only [Bool.and_eq_true, decide_eq_true_eq] at h
    exact .inr (.inr (.inr ⟨rfl, by omega⟩))
  · exact .inl rfl

theorem placed_stays {s : State} {p : Nat} (hlen : p < s.ports.length) :
    PortStays p s (if 1 ≤ portState s p && portState s p ≤ 3 then placeLanes s p else s) := by
  split
  · exact placeLanes_stays hlen
  · exact .refl p s

theorem placed_od (s : State) (p : Nat) : (if 1 ≤ portState s p && portState s p ≤ 3 then placeLanes s p else s).od = s.od := by
  split
  · exact placeLanes_od s p
  · rfl

theorem coated_od (s0 s : State) (p : Nat) : (coated s0 s p).od = s.od := ((restartCoat_changes s0 _ p).same .od rfl).trans (placed_od s p)

theorem portState_coated (s0 s : State) (p : Nat) : portState (coated s0 s p) p = portState s p := by
  unfold portState odGet
  rw [coated_od]

section
variable {s0 s : State} {p : Nat} (hlen : p < s.ports.length)
include hlen

theorem restartCoat_holds : PortHolds p s (restartCoat s0 s p) := by
  unfold restartCoat
  split
  · exact .of_set hlen rfl .of_rings
  · exact .refl p s

theorem coated_holds : PortHolds p s (coated s0 s p) :=
  (placed_stays hlen).toPortHolds.trans (restartCoat_holds ((placed_stays hlen).lt hlen))

/-- A coat that restarts leaves the alignment and the far end's report, and a coat that runs runs on. -/
theorem coated_signs : (getPort (coated s0 s p) p).aligned = (getPort s p).aligned ∧ (getPort (coated s0 s p) p).lastReport = (getPort s p).lastReport ∧
    ((getPort s p).mist = 1 → (getPort (coated s0 s p) p).mist = 1) := by
  have hplaced := placed_stays hlen
  unfold coated
  generalize (if 1 ≤ portState s p && portState s p ≤ 3 then placeLanes s p else s) = x at hplaced ⊢
  unfold restartCoat
  split
  · rw [getPort_putPort (hplaced.lt hlen)]
    exact ⟨hplaced.aligned, hplaced.report, fun _ => rfl⟩
  · exact ⟨hplaced.aligned, hplaced.report, fun h => hplaced.mist.trans h⟩

/-- What an event comes to holds what the port held. -/
theorem settlePort_holds : PortHolds p s (settlePort s0 s p) := by
  have hcoated := coated_holds (s0 := s0) hlen
  have hx := hcoated.lt hlen
  rcases settlePort_cases s0 s p with h | ⟨h, -⟩ | ⟨h, -⟩ | ⟨h, -⟩ <;> rw [h]
  · exact hcoated
  · exact hcoated.trans (enterKeying_stays hx).toPortHolds
  · exact hcoated.trans (enterTraining_holds hx).1
  · exact hcoated.trans (isolate_stays hx 0).toPortHolds

/-- Alignment and the far end's report stand, unless the port trains anew from UP or ISOLATED, its slots without alignment. -/
theorem settlePort_signs (hp : p < 16) : ((getPort (settlePort s0 s p) p).aligned = (getPort s p).aligned ∧
      (getPort (settlePort s0 s p) p).lastReport = (getPort s p).lastReport) ∨
    (portState (settlePort s0 s p) p = 1 ∧ (portState s p = 3 ∨ portState s p = 4) ∧
      ∀ slot, listGet false (getPort (settlePort s0 s p) p).aligned slot = false) := by
  obtain ⟨haligned, hreport, -⟩ := coated_signs (s0 := s0) hlen
  have hx := (coated_holds (s0 := s0) hlen).lt hlen
  rcases settlePort_cases s0 s p with h | ⟨h, -⟩ | ⟨h, hstate⟩ | ⟨h, -⟩ <;> rw [h]
  · exact .inl ⟨haligned, hreport⟩
  · exact .inl ⟨(enterKeying_stays hx).aligned.trans haligned, (enterKeying_stays hx).report.trans hreport⟩
  · rw [portState_coated] at hstate
    obtain ⟨-, -, hnone⟩ := enterTraining_holds hx
    exact .inr ⟨portState_enterTraining _ hp, hstate, hnone⟩
  · exact .inl ⟨(isolate_stays hx 0).aligned.trans haligned, (isolate_stays hx 0).report.trans hreport⟩

/-- A port whose coat runs trains on. -/
theorem settlePort_trains (htraining : portState s p = 1) (hmist : (getPort s p).mist = 1) : portState (settlePort s0 s p) p = 1 := by
  obtain ⟨-, -, hruns⟩ := coated_signs (s0 := s0) hlen
  have hstate := (portState_coated s0 s p).trans htraining
  rcases settlePort_cases s0 s p with h | ⟨-, -, hdone⟩ | ⟨-, hother⟩ | ⟨-, hother⟩
  · rw [h]
    exact hstate
  · rw [hruns hmist] at hdone
    omega
  · omega
  · exact absurd hstate hother

end

end Sys2Proof.Machine
end


section
/-! PROOFS. The rings of a port: sweeps, feedforward, lost locks and heater jumps (R329 to R333), for O57. -/

set_option Elab.async false

namespace Sys2Proof.Machine

/-! ### What an event of a port writes of the dictionary -/

theorem noSpare_offPort (s : State) (p : Nat) : OffPort p s (noSpare s p) := by
  unfold noSpare
  split
  · split
    · exact enterTraining_offPort s p
    · exact isolate_offPort s p 0
  split
  · exact isolate_offPort s p 0
  · exact .refl s

theorem placeLane_offPort (s : State) (p lane : Nat) : OffPort p s (placeLane s p lane) := by
  cases hspare : freeSpare s p with
  | some n => exact .of_od (placeLane_od lane (by rw [hspare]; rfl)).1
  | none =>
    unfold placeLane
    split
    · exact .refl s
    · rw [hspare]
      exact noSpare_offPort s p

theorem moveLane_offPort (s : State) (p slot : Nat) : OffPort p s (moveLane s p slot) := by
  unfold moveLane
  split
  · exact .refl s
  · exact placeLane_offPort s p _

theorem sendReport_offPort (s : State) (p : Nat) (bad : List Nat) : OffPort p s (sendReport s p bad) := .of_changes (sendReport_changes s p bad)

/-- An entry of a port's own page that neither its state nor its dropped packets are written to stands through an event. -/
theorem OffPort.own {p : Nat} {s t : State} (h : OffPort p s t) (hp : p < 16) {n : Nat} (hn : n < 256) (h1 : n ≠ 1) (h6 : n ≠ 6) :
    odGet t (0x5200 + p) n = odGet s (0x5200 + p) n :=
  h.get _ _ ⟨not_portOwn_map hp ⟨hn, h1, h6⟩, not_startPage (by omega) hn⟩

theorem not_logKey_port {p n : Nat} (hp : p < 16) (hn : n < 256) : ¬ logKey (odKey (0x5200 + p) n) := not_logKey (by omega) hn

/-! ### After a ring event -/

theorem afterRing_offPort (s0 s : State) (p : Nat) (tx : Bool) (slot : Nat) : OffPort p s (afterRing s0 s p tx slot) := by
  unfold afterRing
  dsimp only
  refine OdKeeps.trans ?_ (settlePort_offPort s0 _ p)
  split
  · split
    · exact moveLane_offPort s p slot
    · exact .refl s
  · split
    · exact .refl s
    · exact sendReport_offPort s p []

theorem afterRing_holds (s0 : State) {s : State} {p : Nat} (hlen : p < s.ports.length) (tx : Bool) (slot : Nat) :
    PortHolds p s (afterRing s0 s p tx slot) := by
  have hsettled : ∀ x, PortHolds p s x → PortHolds p s (settlePort s0 x p) := fun x hx => hx.trans (settlePort_holds (hx.lt hlen))
  unfold afterRing
  dsimp only
  refine hsettled _ ?_
  split
  · split
    · exact moveLane_holds hlen slot
    · exact .refl p s
  · split
    · exact .refl p s
    · exact (sendReport_stays hlen []).toPortHolds

theorem getRing_of_ringIs {s : State} {p slot : Nat} {tx : Bool} {r : Ring} (h : ringIs s p tx slot r) : getRing s p tx slot = r := by
  unfold getRing listGet
  rw [List.getD_eq_getElem?_getD, h.2, Option.getD_some]

theorem ringIs_of_ports {s t : State} {p slot : Nat} {tx : Bool} {r : Ring} (h : ringIs s p tx slot r) (hports : t.ports = s.ports) :
    ringIs t p tx slot r := by
  unfold ringIs
  rw [hports, getPort_congr hports]
  exact h

/-- A ring that is written. -/
theorem ringIs_putRing {s : State} {p slot : Nat} {tx : Bool} {r : Ring} (h : ringIs s p tx slot r) (r' : Ring) :
    ringIs (putRing s p tx slot r') p tx slot r' := by
  obtain ⟨hlen, hr⟩ := h
  have hslot := (List.getElem?_eq_some_iff.mp hr).1
  refine ⟨(List.length_set ..).symm ▸ hlen, ?_⟩
  unfold putRing
  dsimp only
  rw [getPort_putPort hlen]
  cases tx <;> exact List.getElem?_set_self hslot

/-- The ring that an event has left, neither OFF nor FAILED, stands through what follows. -/
theorem afterRing_ring (s0 : State) {s : State} {p slot : Nat} {tx : Bool} {r : Ring} (h : ringIs s p tx slot r) (h0 : r.st ≠ 0) (h4 : r.st ≠ 4) :
    getRing (afterRing s0 s p tx slot) p tx slot = r :=
  getRing_of_ringIs ((afterRing_holds s0 h.1 tx slot).ringIs h h0 h4)

/-- A ring waits for its turn. -/
theorem ringSweep_waits {s : State} {p slot : Nat} {tx : Bool} {o : SweepOutcome} (hturn : sweepTurn s p tx slot o.riSteady = false) :
    exec (.ringSweep p tx slot o) s = .next s :=
  congrArg Host.Outcome.next (if_neg (by simp [hturn]))

section
variable {s : State} {p slot : Nat} {tx : Bool} {r : Ring} (hp : p < 16) (hslot : slot < 18) (h : ringIs s p tx slot r)
include hp hslot h

/-! ### The sweep (R329, R330) -/

theorem ringSweep_next {o : SweepOutcome} (hst : r.st = 1) (hturn : sweepTurn s p tx slot o.riSteady = true) :
    exec (.ringSweep p tx slot o) s = .next (afterRing s (ringSwept s p tx slot o) p tx slot) :=
  congrArg Host.Outcome.next (if_pos (by simp [hp, hslot, getRing_of_ringIs h, hst, hturn]))

/-- A sweep that holds the ring's line locks it nearest the middle. -/
theorem ringSweep_locks {o : SweepOutcome} (hst : r.st = 1) {g x : Nat} (hturn : sweepTurn s p tx slot o.riSteady = true)
    (hgap : afterGap o.peaks = some g) (hline : nearestMiddle (targetsOf slot g o.peaks) = some x) :
    ∃ t, exec (.ringSweep p tx slot o) s = .next t ∧ getRing t p tx slot = ⟨2, heaterDrive x, 0, false, r.recheck⟩ := by
  refine ⟨_, ringSweep_next hp hslot h hst hturn, ?_⟩
  have hswept : ringSwept s p tx slot o = putRing s p tx slot ⟨2, heaterDrive x, 0, false, r.recheck⟩ := by
    unfold ringSwept
    simp only [hgap, hline, getRing_of_ringIs h]
  rw [hswept]
  exact afterRing_ring s (ringIs_putRing h _) (by simp) (by simp)

/-- A sweep that finds no gap is tried again. -/
theorem ringSweep_retries {o : SweepOutcome} (hst : r.st = 1) (hturn : sweepTurn s p tx slot o.riSteady = true) (hgap : afterGap o.peaks = none)
    (htries : r.tries < 2) : ∃ t, exec (.ringSweep p tx slot o) s = .next t ∧ getRing t p tx slot = { r with tries := r.tries + 1 } := by
  refine ⟨_, ringSweep_next hp hslot h hst hturn, ?_⟩
  have hswept : ringSwept s p tx slot o = putRing s p tx slot { r with tries := r.tries + 1 } := by
    unfold ringSwept
    simp only [hgap, getRing_of_ringIs h]
    rw [if_neg (by omega)]
  rw [hswept]
  exact afterRing_ring s (ringIs_putRing h _) (by simp [hst]) (by simp [hst])

omit hslot in
/-- Feedforward moves the heaters of both buses, and the rings alone (R331). -/
theorem feedforward_moves (a b : Int) : ∃ t, exec (.feedforward p a b) s = .next t ∧ getRing t p tx slot = feedRing (a + b) r ∧ t.od = s.od := by
  obtain ⟨hlen, hr⟩ := h
  refine ⟨_, congrArg Host.Outcome.next (if_pos hp), getRing_of_ringIs ⟨(List.length_set ..).symm ▸ hlen, ?_⟩, rfl⟩
  rw [getPort_putPort hlen]
  cases tx
  · exact (List.getElem?_map ..).trans (congrArg (Option.map _) hr)
  · exact (List.getElem?_map ..).trans (congrArg (Option.map _) hr)

/-! ### Lost locks and wrong ones (R331, R333) -/

theorem lockLoss_holds (hst : r.st = 2) : ∃ t, exec (.lockLoss p tx slot) s = .next t ∧ getRing t p tx slot = { r with st := 3 } ∧
    odGet t (0x5200 + p) 0x10 = min cntMax (odGet s (0x5200 + p) 0x10 + 1) := by
  have hring := getRing_of_ringIs h
  have hcounted := (odBump_changes (putRing s p tx slot { r with st := 3 }) (0x5200 + p) 0x10 1).same .ports rfl
  refine ⟨_, congrArg Host.Outcome.next (if_pos (by simp [hp, hslot, hring, hst])), ?_, ?_⟩ <;> rw [hring]
  · exact afterRing_ring s (ringIs_of_ports (ringIs_putRing h _) hcounted.1) (by simp) (by simp)
  · rw [(afterRing_offPort s _ p tx slot).own hp (by decide) (by decide) (by decide), odGet_odBump _ _ _ _ (not_logKey_port hp (by decide))]
    rfl

theorem heaterJump_sweeps (hst : r.st = 2) : ∃ t, exec (.heaterJump p tx slot) s = .next t ∧
    getRing t p tx slot = { r with st := 1, tries := 0, wrong := true, recheck := true } ∧
    odGet t (0x5200 + p) 0x0F = (if tx = false ∧ listGet false (getPort s p).slotBad slot = true then odGet s (0x5200 + p) 0x0F
      else min cntMax (odGet s (0x5200 + p) 0x0F + 1)) := by
  have hring := getRing_of_ringIs h
  refine ⟨_, congrArg Host.Outcome.next (if_pos (by simp [hp, hslot, hring, hst])), ?_, ?_⟩
  · refine afterRing_ring s ?_ (by simp) (by simp)
    unfold wrongLock
    rw [hring]
    dsimp only
    split
    · exact ringIs_putRing h _
    · exact ringIs_of_ports (ringIs_putRing h _) ((odBump_changes _ _ _ _).same .ports rfl).1
  · rw [(afterRing_offPort s _ p tx slot).own hp (by decide) (by decide) (by decide)]
    unfold wrongLock
    dsimp only
    by_cases hcounted : tx = false ∧ listGet false (getPort s p).slotBad slot = true
    · rw [if_pos hcounted, if_pos (by simp [hcounted])]
      rfl
    · rw [if_neg hcounted, if_neg (by simpa using hcounted), odGet_odBump _ _ _ _ (not_logKey_port hp (by decide))]
      rfl

theorem recapture_locks (hst : r.st = 3) : ∃ t, exec (.recapture p tx slot) s = .next t ∧ getRing t p tx slot = { r with st := 2 } := by
  have hring := getRing_of_ringIs h
  refine ⟨_, congrArg Host.Outcome.next (if_pos (by simp [hp, hslot, hring, hst])), ?_⟩
  rw [hring]
  exact afterRing_ring s (ringIs_putRing h _) (by simp) (by simp)

theorem holdExpiry_sweeps (hst : r.st = 3) : ∃ t, exec (.holdExpiry p tx slot) s = .next t ∧
    getRing t p tx slot = { r with st := 1, tries := 0, recheck := true } := by
  have hring := getRing_of_ringIs h
  refine ⟨_, congrArg Host.Outcome.next (if_pos (by simp [hp, hslot, hring, hst])), ?_⟩
  rw [hring]
  exact afterRing_ring s (ringIs_putRing h _) (by simp) (by simp)

end

end Sys2Proof.Machine
end


section
/-! PROOFS. The control words of a port: markers and alignment, reports, moves, echoes, identities and margins (R324 to R327, R332 to R334, R342),
for O57. -/

set_option Elab.async false

namespace Sys2Proof.Machine

/-! ### Fields of a word -/

theorem testBit_withField (v lo len x i : Nat) :
    (withField v lo len x).testBit i = if lo ≤ i ∧ i < lo + len then x.testBit (i - lo) else v.testBit i := by
  have hsplit : withField v lo len x = 2 ^ (lo + len) * (v / 2 ^ (lo + len)) + (2 ^ lo * (x % 2 ^ len) + v % 2 ^ lo) := by
    have hlow : 2 ^ lo * (v / 2 ^ lo) + v % 2 ^ lo = v := Nat.div_add_mod _ _
    have hhigh : 2 ^ len * (v / 2 ^ lo / 2 ^ len) + v / 2 ^ lo % 2 ^ len = v / 2 ^ lo := Nat.div_add_mod _ _
    have hfield : 2 ^ (lo + len) * (v / 2 ^ (lo + len)) + 2 ^ lo * (v / 2 ^ lo % 2 ^ len) = 2 ^ lo * (v / 2 ^ lo) := by
      conv_rhs => rw [← hhigh]
      rw [Nat.pow_add, ← Nat.div_div_eq_div_mul]
      ring
    unfold withField bits
    rw [Nat.shiftRight_eq_div_pow, Nat.mul_comm (v / 2 ^ lo % 2 ^ len), Nat.mul_comm (x % 2 ^ len)]
    omega
  have hxlow : v % 2 ^ lo < 2 ^ lo := Nat.mod_lt _ (Nat.two_pow_pos lo)
  have hxlen : x % 2 ^ len < 2 ^ len := Nat.mod_lt _ (Nat.two_pow_pos len)
  have hpart : 2 ^ lo * (x % 2 ^ len) + v % 2 ^ lo < 2 ^ (lo + len) := by
    rw [Nat.pow_add]
    calc 2 ^ lo * (x % 2 ^ len) + v % 2 ^ lo < 2 ^ lo * (x % 2 ^ len) + 2 ^ lo := by omega
      _ = 2 ^ lo * (x % 2 ^ len + 1) := by ring
      _ ≤ 2 ^ lo * 2 ^ len := Nat.mul_le_mul_left _ hxlen
  rw [hsplit, Nat.testBit_two_pow_mul_add _ hpart, Nat.testBit_two_pow_mul_add _ hxlow, Nat.testBit_mod_two_pow, Nat.testBit_mod_two_pow,
    Nat.testBit_div_two_pow]
  by_cases hi : i < lo
  · simp [hi, show i < lo + len by omega, show ¬ (lo ≤ i) by omega]
  · by_cases hend : i < lo + len
    · simp [hi, hend, show i - lo < len by omega, show lo ≤ i by omega]
    · simp [hend, show i - (lo + len) + (lo + len) = i by omega]

theorem bits_withField_self (v lo len x : Nat) : bits (withField v lo len x) lo len = x % 2 ^ len := by
  refine Nat.eq_of_testBit_eq fun i => ?_
  rw [Nat.testBit_mod_two_pow, Nat.testBit_shiftRight, testBit_withField, Nat.testBit_mod_two_pow]
  by_cases hi : i < len
  · rw [if_pos (by omega), Nat.add_sub_cancel_left]
  · simp [hi]

theorem bits_withField_ne (v x : Nat) {lo len lo' len' : Nat} (h : lo' + len' ≤ lo ∨ lo + len ≤ lo') :
    bits (withField v lo len x) lo' len' = bits v lo' len' := by
  refine Nat.eq_of_testBit_eq fun i => ?_
  rw [Nat.testBit_mod_two_pow, Nat.testBit_mod_two_pow, Nat.testBit_shiftRight, Nat.testBit_shiftRight, testBit_withField]
  by_cases hi : i < len'
  · rw [if_neg (by omega)]
  · simp [hi]

/-- A slot's byte of a lane map that is written (R324). -/
theorem mapByte_setMap (s : State) (p : Nat) (tx : Bool) (slot role lane : Nat) :
    mapByte (setMap s p tx slot role lane) p tx slot = (role * 64 + lane) % 256 := by
  unfold mapByte setMap
  rw [odGet_odSet]
  exact bits_withField_self _ _ 8 _

theorem mapByte_setMap_ne (s : State) (p : Nat) (tx : Bool) {slot other : Nat} (role lane : Nat) (h : other ≠ slot) :
    mapByte (setMap s p tx slot role lane) p tx other = mapByte s p tx other := by
  unfold mapByte setMap
  rw [odGet_odSet]
  exact bits_withField_ne _ _ (by omega)

theorem portState_setMap (s : State) (p : Nat) (tx : Bool) (slot role lane : Nat) : portState (setMap s p tx slot role lane) p = portState s p :=
  odGet_odSet_ne _ _ (by cases tx <;> simp [mapSub])

theorem listGet_listSet {α : Type} (d : α) {l : List α} {i : Nat} (h : i < l.length) (v : α) : listGet d (listSet l i v) i = v := by
  simp [listGet, listSet, List.getD_eq_getElem?_getD, h]

/-! ### Markers (R325, R327, R332) -/

/-- A port after a marker of its own slot, which says where the far map has it. -/
def markedPort (v : Port) (slot n : Nat) : Port :=
  { v with aligned := listSet v.aligned slot true, missed := listSet v.missed slot 0, slotBad := listSet v.slotBad slot false,
           farLpwr := markerLpwr n, rxCount := markerCount v }

theorem goodMarker_right {s : State} {p slot n : Nat} (h : bits n 151 5 = slot) : goodMarker s p slot n =
    settlePort s (sendReport (if bitOf n 150 then setMap (putPort s p (markedPort (getPort s p) slot n)) p false slot 1 0
      else setMap (putPort s p (markedPort (getPort s p) slot n)) p false slot 0 (bits n 146 4)) p []) p := by
  have hright : (bits n 151 5 == slot) = true := beq_iff_eq.mpr h
  unfold goodMarker
  simp only [hright, if_true, Bool.not_true, Bool.false_and, Bool.false_eq_true, if_false]
  rfl

section
variable {s : State} {p slot : Nat} (hp : p < 16) (hslot : slot < 18) (hlen : p < s.ports.length) (hdark : portState s p ≠ 0)
include hp hslot hdark

theorem marker_open : (decide (16 ≤ p) || decide (18 ≤ slot) || decide (portState s p = 0)) = false := by
  simp [hp, hslot, hdark]

/-- Two bad markers in a row are a loss of alignment. -/
theorem marker_loses {w : BitVec 160} (hbad : cwGood w = false) (hmissed : listGet 0 (getPort s p).missed slot ≠ 0) :
    exec (.marker p slot w) s = exec (.alignmentLoss p slot) s := by
  have hmark : execMarker p slot w s = .next (loseAlignment s p slot) := by
    unfold execMarker
    simp only [marker_open hp hslot hdark, hbad, Bool.false_and, Bool.false_eq_true, if_false, hmissed]
  exact hmark.trans (congrArg Host.Outcome.next (if_pos (by simp [hp, hslot, hdark]))).symm

include hlen

/-- One bad marker is borne. -/
theorem marker_borne {w : BitVec 160} (hlenm : slot < (getPort s p).missed.length) (hbad : cwGood w = false)
    (hmissed : listGet 0 (getPort s p).missed slot = 0) : ∃ t, exec (.marker p slot w) s = .next t ∧
      listGet 0 (getPort t p).missed slot = 1 ∧ (getPort t p).aligned = (getPort s p).aligned := by
  have hmark : execMarker p slot w s = .next (putPort s p { getPort s p with missed := listSet (getPort s p).missed slot 1 }) := by
    unfold execMarker
    simp only [marker_open hp hslot hdark, hbad, Bool.false_and, Bool.false_eq_true, if_false, hmissed, if_true]
  refine ⟨_, hmark, ?_⟩
  rw [getPort_putPort hlen]
  exact ⟨listGet_listSet 0 hlenm 1, rfl⟩

/-- A marker with the right slot aligns it, unless its map takes an UP port below 16 lanes. -/
theorem marker_aligns {w : BitVec 160} (hlena : slot < (getPort s p).aligned.length) (hlenb : slot < (getPort s p).slotBad.length)
    (hisolated : portState s p ≠ 4) (hgood : cwGood w = true) (htype : cwType w = 1) (hword : bits w.toNat 151 5 = slot) :
    ∃ t, exec (.marker p slot w) s = .next t ∧ listGet false (getPort t p).slotBad slot = false ∧ (getPort t p).farLpwr = markerLpwr w.toNat ∧
      (listGet false (getPort t p).aligned slot = true ∨ (portState s p = 3 ∧ portState t p = 1)) := by
  have hmark : execMarker p slot w s = .next (goodMarker s p slot w.toNat) := by
    unfold execMarker
    simp only [marker_open hp hslot hdark, hgood, htype, beq_self_eq_true, Bool.and_self, Bool.false_eq_true, if_false, if_true]
  refine ⟨_, hmark, ?_⟩
  rw [goodMarker_right hword]
  have hmapped : ∀ role lane, (setMap (putPort s p (markedPort (getPort s p) slot w.toNat)) p false slot role lane).ports =
        s.ports.set p (markedPort (getPort s p) slot w.toNat) ∧
      portState (setMap (putPort s p (markedPort (getPort s p) slot w.toNat)) p false slot role lane) p = portState s p := fun role lane =>
    ⟨rfl, (portState_setMap _ p false slot role lane).trans rfl⟩
  generalize hx : (if bitOf w.toNat 150 then setMap (putPort s p (markedPort (getPort s p) slot w.toNat)) p false slot 1 0
    else setMap (putPort s p (markedPort (getPort s p) slot w.toNat)) p false slot 0 (bits w.toNat 146 4)) = x
  obtain ⟨hports, hstate⟩ : x.ports = s.ports.set p (markedPort (getPort s p) slot w.toNat) ∧ portState x p = portState s p := by
    rw [← hx]
    split
    · exact hmapped _ _
    · exact hmapped _ _
  have hport := getPort_of_set hlen hports
  have hxlen : p < x.ports.length := by rw [hports, List.length_set]; exact hlen
  have hsent := sendReport_stays hxlen []
  have hylen := hsent.lt hxlen
  have hsettled := settlePort_holds (s0 := s) hylen
  have hstate' : portState (sendReport x p []) p = portState s p :=
    ((OdKeeps.of_changes (P := fun _ => True) (sendReport_changes x p [])).get _ _ trivial).trans hstate
  refine ⟨?_, ?_, ?_⟩
  · rw [hsettled.holds.slotBad, hsent.holds.slotBad, hport]
    exact listGet_listSet false hlenb false
  · rw [hsettled.holds.farLpwr, hsent.holds.farLpwr, hport]
    rfl
  · rcases settlePort_signs (s0 := s) hylen hp with ⟨haligned, -⟩ | ⟨htrains, hfrom, -⟩
    · rw [haligned, hsent.aligned, hport]
      exact .inl (listGet_listSet false hlena true)
    · exact .inr ⟨by omega, htrains⟩

/-- A slot that loses its alignment, whose slot check fails with it where its ring is LOCKED. -/
theorem alignmentLoss_loses (hlena : slot < (getPort s p).aligned.length) (hlenb : slot < (getPort s p).slotBad.length) :
    ∃ t, exec (.alignmentLoss p slot) s = .next t ∧ listGet false (getPort t p).aligned slot = false ∧
      ((getRing s p false slot).st = 2 → listGet false (getPort t p).slotBad slot = true) := by
  refine ⟨loseAlignment s p slot, congrArg Host.Outcome.next (if_pos (by simp [hp, hslot, hdark])), ?_⟩
  unfold loseAlignment
  dsimp only
  generalize hv : ({ getPort s p with
    aligned := listSet (getPort s p).aligned slot false, missed := listSet (getPort s p).missed slot 0,
    slotBad := listSet (getPort s p).slotBad slot ((getRing s p false slot).st == 2 || listGet false (getPort s p).slotBad slot) } : Port) = v
  generalize hx : (if (getRing s p false slot).st == 2 && !listGet false (getPort s p).slotBad slot then odBump (putPort s p v) (0x5200 + p) 0x0F 1
    else putPort s p v) = x
  have hports : x.ports = s.ports.set p v := by
    rw [← hx]
    split
    · exact ((odBump_changes _ _ _ _).same .ports rfl).1
    · rfl
  have hport := getPort_of_set hlen hports
  have hxlen : p < x.ports.length := by rw [hports, List.length_set]; exact hlen
  have hsent := sendReport_stays hxlen []
  have hylen := hsent.lt hxlen
  refine ⟨?_, fun hlocked => ?_⟩
  · rcases settlePort_signs (s0 := s) hylen hp with ⟨haligned, -⟩ | ⟨-, -, hnone⟩
    · rw [haligned, hsent.aligned, hport, ← hv]
      exact listGet_listSet false hlena false
    · exact hnone slot
  · rw [(settlePort_holds (s0 := s) hylen).holds.slotBad, hsent.holds.slotBad, hport, ← hv]
    exact (listGet_listSet false hlenb _).trans (by simp [hlocked])

end

/-! ### Reports (R326, R333, R334) -/

/-- The far end's report and the state of a port that trains stand, or the port, not training before, trains anew. -/
structure Heard (p : Nat) (s t : State) : Prop where
  len : t.ports.length = s.ports.length
  word : ((getPort t p).lastReport = (getPort s p).lastReport ∧ (portState s p = 1 → portState t p = 1 ∧ (getPort t p).mist = (getPort s p).mist)) ∨
    (portState s p ≠ 1 ∧ portState t p = 1 ∧ (getPort t p).mist = 1)

theorem Heard.refl (p : Nat) (s : State) : Heard p s s := ⟨rfl, .inl ⟨rfl, fun h => ⟨h, rfl⟩⟩⟩

theorem Heard.trans {p : Nat} {s t u : State} (h : Heard p s t) (g : Heard p t u) : Heard p s u := by
  refine ⟨g.len.trans h.len, ?_⟩
  rcases h.word with ⟨hreport, hsame⟩ | ⟨hnot, htrains, hmist⟩
  · rcases g.word with ⟨greport, gsame⟩ | ⟨gnot, gtrains, gmist⟩
    · exact .inl ⟨greport.trans hreport, fun hs => ⟨(gsame (hsame hs).1).1, (gsame (hsame hs).1).2.trans (hsame hs).2⟩⟩
    · exact .inr ⟨fun hs => gnot (hsame hs).1, gtrains, gmist⟩
  · rcases g.word with ⟨-, gsame⟩ | ⟨gnot, -⟩
    · exact .inr ⟨hnot, (gsame htrains).1, (gsame htrains).2.trans hmist⟩
    · exact absurd htrains gnot

theorem Heard.foldl {p : Nat} {α : Type} {f : State → α → State} (hf : ∀ s a, p < s.ports.length → Heard p s (f s a)) (l : List α) {s : State}
    (hlen : p < s.ports.length) : Heard p s (l.foldl f s) := by
  induction l generalizing s with
  | nil => exact .refl p s
  | cons a r ih => exact (hf s a hlen).trans (ih ((hf s a hlen).len ▸ hlen))

theorem Heard.of_signs {p : Nat} {s t : State} (hlen : t.ports.length = s.ports.length) (hsigns : (getPort t p).signs = (getPort s p).signs)
    (hstate : portState t p = portState s p) : Heard p s t :=
  ⟨hlen, .inl ⟨congrArg (fun x : List Bool × Nat × Nat => x.2.1) hsigns,
    fun hs => ⟨hstate.trans hs, congrArg (fun x : List Bool × Nat × Nat => x.2.2) hsigns⟩⟩⟩

theorem setMap_heard (s : State) (p : Nat) (tx : Bool) (slot role lane : Nat) : Heard p s (setMap s p tx slot role lane) :=
  .of_signs rfl rfl (portState_setMap s p tx slot role lane)

section
variable {s : State} {p : Nat} (hp : p < 16) (hlen : p < s.ports.length)
include hp hlen

theorem noSpare_heard : Heard p s (noSpare s p) := by
  have hisolated : portState s p ≠ 1 → Heard p s (isolate s p 0) := fun hnot =>
    ⟨(isolate_stays hlen 0).len, .inl ⟨(isolate_stays hlen 0).report, fun hs => absurd hs hnot⟩⟩
  unfold noSpare
  split
  · next hup =>
    split
    · obtain ⟨hholds, hmist, -⟩ := enterTraining_holds hlen
      exact ⟨hholds.len, .inr ⟨by omega, portState_enterTraining s hp, hmist⟩⟩
    · exact hisolated (by omega)
  split
  · next hkeying =>
    simp only [Bool.and_eq_true, decide_eq_true_eq] at hkeying
    exact hisolated (by omega)
  · exact .refl p s

theorem moveLane_heard (slot : Nat) : Heard p s (moveLane s p slot) := by
  rcases moveLane_cases hlen slot with ⟨hstays, hod⟩ | h
  · exact .of_signs hstays.len hstays.signs ((OdKeeps.of_od (P := fun _ => True) hod).get _ _ trivial)
  · rw [h]
    exact noSpare_heard hp hlen

theorem wrongLock_heard (slot : Nat) : Heard p s (wrongLock s p true slot false) := by
  let x := putRing s p true slot { getRing s p true slot with st := 1, tries := 0, wrong := true, recheck := true }
  have hports : (wrongLock s p true slot false).ports = x.ports := ((odBump_changes x (0x5200 + p) 0x0F 1).same .ports rfl).1
  have hstate : portState (wrongLock s p true slot false) p = portState x p :=
    (odBump_keeps x (0x5200 + p) 0x0F 1).get _ _ ⟨by unfold odKey; omega, not_logKey_port hp (by decide)⟩
  refine .of_signs ((congrArg List.length hports).trans (List.length_set ..)) ?_ hstate
  have hport : getPort x p = _ := getPort_putPort hlen _
  rw [getPort_congr hports, hport]
  rfl

/-- A report of the far end is kept, unless the port, not training before, trains anew upon it. -/
theorem takeReport_keeps (w : BitVec 160) : (getPort (takeReport s p w) p).lastReport = bits w.toNat 120 36 ∨
    (portState s p ≠ 1 ∧ portState (takeReport s p w) p = 1) := by
  unfold takeReport
  dsimp only
  generalize hx : putPort s p { getPort s p with lastReport := bits w.toNat 120 36 } = x
  have hxlen : p < x.ports.length := by rw [← hx]; exact (List.length_set ..).symm ▸ hlen
  have hxport : (getPort x p).lastReport = bits w.toNat 120 36 := by rw [← hx, getPort_putPort hlen]
  have hxstate : portState x p = portState s p := by rw [← hx]; rfl
  have hspares := Heard.foldl (f := fun s x => setMap s p true x 1 0) (fun t a _ => setMap_heard t p true a 1 0)
    (slots18.filter (backInService x p)) hxlen
  generalize (slots18.filter (backInService x p)).foldl (fun s x => setMap s p true x 1 0) x = y at hspares ⊢
  have hylen : p < y.ports.length := hspares.len ▸ hxlen
  have hmoved := Heard.foldl (f := fun t x => if movesOn (portState t p) (farStatus s p x) (farStatus t p x) then moveLane t p x else t)
    (fun t a ht => by
      split
      · exact moveLane_heard hp ht a
      · exact .refl p t) (slotsByLane y p) hylen
  generalize (slotsByLane y p).foldl (fun t x => if movesOn (portState t p) (farStatus s p x) (farStatus t p x) then moveLane t p x else t) y = z
    at hmoved ⊢
  have hzlen : p < z.ports.length := hmoved.len ▸ hylen
  have hlocks := Heard.foldl (f := fun s x => wrongLock s p true x false) (fun t a ht => wrongLock_heard hp ht a)
    (slots18.filter (fun a => farStatus x p a = 3 && (getRing x p true a).st = 2)) hzlen
  generalize (slots18.filter (fun a => farStatus x p a = 3 && (getRing x p true a).st = 2)).foldl (fun s x => wrongLock s p true x false) z = u
    at hlocks ⊢
  have hulen : p < u.ports.length := hlocks.len ▸ hzlen
  obtain ⟨-, hword⟩ := (hspares.trans hmoved).trans hlocks
  rw [hxstate, hxport] at hword
  rcases hword with ⟨hreport, hsame⟩ | ⟨hnot, htrains, hmist⟩
  · rcases settlePort_signs (s0 := s) hulen hp with ⟨-, hkept⟩ | ⟨htrains, hfrom, -⟩
    · exact .inl (hkept.trans hreport)
    · exact .inr ⟨fun hs => by have := (hsame hs).1; omega, htrains⟩
  · exact .inr ⟨hnot, settlePort_trains hulen htrains hmist⟩

end

theorem report_kept {s : State} {p : Nat} {w : BitVec 160} (h : takesWord s p 2 w) :
    ∃ t, exec (.report p w) s = .next t ∧ ((getPort t p).lastReport = bits w.toNat 120 36 ∨ (portState s p ≠ 1 ∧ portState t p = 1)) := by
  obtain ⟨hp, hlen, hlit, hgood, htype⟩ := h
  exact ⟨_, congrArg Host.Outcome.next (if_pos (by simp [hp, hlit, hgood, htype])), takeReport_keeps hp hlen w⟩

/-! ### Moves (R326, R334) -/

/-- The move that a MOVE word names. -/
def wordMove (w : BitVec 160) : Mv := ⟨bits w.toNat 152 4, bits w.toNat 147 5, bits w.toNat 145 2, bits w.toNat 113 32, bits w.toNat 105 8⟩

theorem move_waits {s : State} {p : Nat} {w : BitVec 160} (h : takesWord s p 3 w) (hfirst : (getPort s p).lastMseq ≠ some (bits w.toNat 105 8))
    (hrole : bits w.toNat 145 2 ≠ 0) (hslot : bits w.toNat 147 5 < 18) (hindex : indexOk s p (bits w.toNat 113 32) = true) :
    ∃ t, exec (.move p w) s = .next t ∧ (getPort t p).lastMseq = some (bits w.toNat 105 8) ∧ (getPort t p).rxMove = (getPort s p).rxMove ++ [wordMove w] := by
  obtain ⟨hp, hlen, hlit, hgood, htype⟩ := h
  refine ⟨_, congrArg Host.Outcome.next (if_pos ?_), ?_⟩
  · simp only [hp, hlit, hgood, htype, hrole, hslot, hindex, decide_true, beq_self_eq_true, Bool.and_true, Bool.true_and, bne_iff_ne, ne_eq, hfirst,
      not_false_eq_true]
  · rw [getPort_putPort hlen]
    exact ⟨rfl, rfl⟩

/-- The pending moves of a direction. -/
def Port.moves (v : Port) (tx : Bool) : List Mv := if tx then v.txMove else v.rxMove

/-- A port with other pending moves in a direction. -/
def Port.withMoves (v : Port) (tx : Bool) (l : List Mv) : Port := if tx then { v with txMove := l } else { v with rxMove := l }

theorem Port.moves_withMoves (v : Port) (tx : Bool) (l : List Mv) : (v.withMoves tx l).moves tx = l := by cases tx <;> rfl

/-- The map once the slot that a moved lane leaves has the role that the move names. -/
def laneLeft (s : State) (p : Nat) (tx : Bool) (m : Mv) : State := (laneSlot s p tx m.lane).elim s fun x => setMap s p tx x m.orole 0

theorem applyMove_eq (s : State) (p : Nat) (tx : Bool) (m : Mv) :
    applyMove s p tx m = odBump (setMap (laneLeft s p tx m) p tx m.nslot 0 m.lane) (0x5200 + p) 0x0E 1 := by
  unfold applyMove laneLeft
  cases laneSlot s p tx m.lane <;> rfl

/-- What a move in effect has left of its map and its counter (R334). -/
theorem applyMove_applies {s : State} {p : Nat} (hp : p < 16) (tx : Bool) (m : Mv) (hlane : m.lane < 64) : (applyMove s p tx m).ports = s.ports ∧
    mapByte (applyMove s p tx m) p tx m.nslot = m.lane ∧ odGet (applyMove s p tx m) (0x5200 + p) 0x0E = min cntMax (odGet s (0x5200 + p) 0x0E + 1) := by
  have hcount : ∀ (x : State) (slot role lane : Nat), odGet (setMap x p tx slot role lane) (0x5200 + p) 0x0E = odGet x (0x5200 + p) 0x0E :=
    fun x slot role lane => odGet_odSet_ne _ _ (by cases tx <;> simp [mapSub])
  have hleft : (laneLeft s p tx m).ports = s.ports ∧ odGet (laneLeft s p tx m) (0x5200 + p) 0x0E = odGet s (0x5200 + p) 0x0E := by
    unfold laneLeft
    cases laneSlot s p tx m.lane
    · exact ⟨rfl, rfl⟩
    · exact ⟨rfl, hcount s _ _ _⟩
  rw [applyMove_eq]
  generalize laneLeft s p tx m = x at hleft ⊢
  have hkeeps := odBump_keeps (setMap x p tx m.nslot 0 m.lane) (0x5200 + p) 0x0E 1
  refine ⟨((odBump_changes (setMap x p tx m.nslot 0 m.lane) (0x5200 + p) 0x0E 1).same .ports rfl).1.trans hleft.1, ?_, ?_⟩
  · have hmap := mapByte_setMap x p tx m.nslot 0 m.lane
    unfold mapByte at hmap ⊢
    rw [hkeeps.get (0x5200 + p) (mapSub tx) ⟨by cases tx <;> simp [mapSub], not_logKey_port hp (by cases tx <;> decide)⟩, hmap]
    omega
  · rw [odGet_odBump _ _ _ _ (not_logKey_port hp (by decide)), hcount, hleft.2]

theorem moveTakesEffect_applies {s : State} {p : Nat} {tx : Bool} {m : Mv} {l : List Mv} (hp : p < 16) (hlen : p < s.ports.length) (hlane : m.lane < 64)
    (hl : (if tx then (getPort s p).txMove else (getPort s p).rxMove) = l)
    (hfirst : ∀ count, count = (if tx then (getPort s p).txCount else (getPort s p).rxCount) →
      firstMove count (l.filter (fun m => reached count m.cwidx)) = some m) :
    ∃ t, exec (.moveTakesEffect p tx) s = .next t ∧
      (∃ e, (if tx then (getPort t p).txMove else (getPort t p).rxMove) = l.erase m ++ e ∧ (tx = false → e = [])) ∧
      mapByte t p tx m.nslot = m.lane ∧ odGet t (0x5200 + p) 0x0E = min cntMax (odGet s (0x5200 + p) 0x0E + 1) := by
  let x := applyMove (putPort s p ((getPort s p).withMoves tx (l.erase m))) p tx m
  have hnext : ∃ t, exec (.moveTakesEffect p tx) s = .next t ∧ (t = enterKeying x p ∨ t = settlePort s x p) := by
    have hput : (if tx then { getPort s p with txMove := l.erase m } else { getPort s p with rxMove := l.erase m }) = (getPort s p).withMoves tx (l.erase m) := rfl
    show ∃ t, execMoveTakesEffect p tx s = .next t ∧ _
    unfold execMoveTakesEffect
    rw [if_neg (by omega)]
    simp only [hl, hfirst _ rfl, hput]
    split
    · exact ⟨_, rfl, .inl rfl⟩
    · exact ⟨_, rfl, .inr rfl⟩
  obtain ⟨hports, hmap, hcount⟩ := applyMove_applies (s := putPort s p ((getPort s p).withMoves tx (l.erase m))) hp tx m hlane
  have hport : getPort x p = (getPort s p).withMoves tx (l.erase m) := getPort_of_set hlen hports
  have hxlen : p < x.ports.length := by rw [hports]; exact (List.length_set ..).symm ▸ hlen
  obtain ⟨t, hexec, ht⟩ := hnext
  have hafter : PortHolds p x t ∧ OffPort p x t := by
    rcases ht with rfl | rfl
    · exact ⟨(enterKeying_stays hxlen).toPortHolds, enterKeying_offPort x p⟩
    · exact ⟨settlePort_holds hxlen, settlePort_offPort s x p⟩
  obtain ⟨hholds, hoff⟩ := hafter
  refine ⟨t, hexec, ?_, ?_, ?_⟩
  · obtain ⟨e, he⟩ := hholds.holds.txMove
    have hmoves : (getPort x p).moves tx = l.erase m := by rw [hport, Port.moves_withMoves]
    cases tx with
    | true => exact ⟨e, he.trans (congrArg (· ++ e) hmoves), fun h => absurd h (by decide)⟩
    | false => exact ⟨[], (hholds.holds.rxMove.trans hmoves).trans (List.append_nil _).symm, fun _ => rfl⟩
  · have hsame : mapByte t p tx m.nslot = mapByte x p tx m.nslot := by
      unfold mapByte
      rw [hoff.own hp (n := mapSub tx) (by cases tx <;> decide) (by cases tx <;> decide) (by cases tx <;> decide)]
    exact hsame.trans hmap
  · rw [hoff.own hp (by decide) (by decide) (by decide), hcount]
    rfl

/-! ### Echoes, identities and margins (R326, R342) -/

section
variable {s : State} {p : Nat} {w : BitVec 160}

theorem echo_open (h : takesWord s p 4 w) :
    (decide (16 ≤ p) || decide (portState s p = 0) || !cwGood w || decide (cwType w ≠ 4)) = false := by
  obtain ⟨hp, -, hlit, hgood, htype⟩ := h
  simp [hp, hlit, hgood, htype]

/-- A request is answered. -/
theorem echo_answers (h : takesWord s p 4 w) (cycle fixed : Nat) (hrequest : bitOf w.toNat 155 = false) :
    exec (.echo p w cycle fixed) s = .next (emit s (.control p 0
      (controlWord 4 (2 ^ 155 + bits w.toNat 147 8 * 2 ^ 147 + bits w.toNat 115 32 * 2 ^ 115 + fixed % 65536 * 2 ^ 99)))) := by
  show execEcho p w cycle fixed s = _
  unfold execEcho
  simp only [echo_open h, hrequest, Bool.false_eq_true, if_false]

/-- The first reply of a tag is kept. -/
theorem echo_keeps (h : takesWord s p 4 w) (cycle fixed : Nat) (hreply : bitOf w.toNat 155 = true) (hkeying : portState s p = 2)
    (htag : bits w.toNat 147 8 < 64) (hfirst : odLook (getPort s p).echoes (bits w.toNat 147 8) = none) :
    ∃ t, exec (.echo p w cycle fixed) s = .next t ∧ (getPort t p).echoes = (getPort s p).echoes ++
      [(bits w.toNat 147 8, ((cycle + 2 ^ 32 - bits w.toNat 115 32) % 2 ^ 32 - bits w.toNat 99 16) * 640 - fixed)] := by
  obtain ⟨-, hlen, -⟩ := id h
  refine ⟨putPort s p { getPort s p with echoes := (getPort s p).echoes ++
    [(bits w.toNat 147 8, ((cycle + 2 ^ 32 - bits w.toNat 115 32) % 2 ^ 32 - bits w.toNat 99 16) * 640 - fixed)] }, ?_, by rw [getPort_putPort hlen]⟩
  show execEcho p w cycle fixed s = _
  unfold execEcho
  simp only [echo_open h, hreply, Bool.false_eq_true, if_false, if_true]
  exact congrArg Host.Outcome.next (if_pos (by simp only [hkeying, htag, hfirst, decide_true, Bool.and_self, Option.isNone_none]))

/-- A further one is not. -/
theorem echo_ignores (h : takesWord s p 4 w) (cycle fixed : Nat) (hreply : bitOf w.toNat 155 = true)
    (hagain : (odLook (getPort s p).echoes (bits w.toNat 147 8)).isSome) : exec (.echo p w cycle fixed) s = .next s := by
  have hnone : (odLook (getPort s p).echoes (bits w.toNat 147 8)).isNone = false := by simpa using hagain
  show execEcho p w cycle fixed s = _
  unfold execEcho
  simp only [echo_open h, hreply, hnone, Bool.and_false, Bool.false_eq_true, if_false, if_true]

theorem ident_kept (h : takesWord s p 5 w) : ∃ t, exec (.ident p w) s = .next t ∧ t.od = s.od ∧
    (getPort t p).far = some (bits w.toNat 136 20, bits w.toNat 132 4, bits w.toNat 68 64, bits w.toNat 67 1) := by
  obtain ⟨hp, hlen, hlit, hgood, htype⟩ := h
  refine ⟨_, congrArg Host.Outcome.next (if_pos (by simp [hp, hlit, hgood, htype])), rfl, ?_⟩
  rw [getPort_putPort hlen]

theorem margin_kept (h : takesWord s p 6 w) (hstep : bits w.toNat 152 4 ≤ 4)
    (hfirst : (getPort s p).mSeq ≠ bits w.toNat 114 8 ∨ (getPort s p).mStep = 0) :
    ∃ t, exec (.margin p w) s = .next t ∧ (getPort t p).mStep = bits w.toNat 152 4 ∧ (getPort t p).mValue = bits w.toNat 140 12 ∧
      (getPort t p).mVerdict = bits w.toNat 122 18 ∧ (getPort t p).mSeq = bits w.toNat 114 8 := by
  obtain ⟨hp, hlen, hlit, hgood, htype⟩ := h
  have hopen : (decide (p < 16) && decide (portState s p ≠ 0) && cwGood w && cwType w == 6 && decide (bits w.toNat 152 4 ≤ 4) &&
      (decide ((getPort s p).mSeq ≠ bits w.toNat 114 8) || decide ((getPort s p).mStep = 0))) = true := by
    simp only [hp, hlit, hgood, htype, hstep, ne_eq, not_false_eq_true, decide_true, beq_self_eq_true, Bool.and_self, Bool.true_and, Bool.or_eq_true,
      decide_eq_true_eq]
    exact hfirst
  refine ⟨_, congrArg Host.Outcome.next (if_pos hopen), ?_⟩
  rw [getPort_putPort hlen]
  exact ⟨rfl, rfl, rfl, rfl⟩

end

end Sys2Proof.Machine
end


section
/-! PROOFS. O57: the mist coat of a port that trains (R338, R339), and the monitors (R336 to R338). -/

set_option Elab.async false

namespace Sys2Proof.Machine

/-! ### What the end of a coat leaves of its records and of the lanes -/

/-- What a coat records. -/
def Port.records (v : Port) : Option MonReadings × Int × List Nat × List Nat × Nat := (v.refs, v.pathLoss, v.power, v.tracking, v.mist)

/-- The entries of a port's state, of its lane maps and of its attenuator. -/
def coatKey (p k : Nat) : Prop := k = odKey (0x5200 + p) 0x01 ∨ k = odKey (0x5200 + p) 0x0A ∨ k = odKey (0x5200 + p) 0x0B ∨ k = odKey (0x5400 + p) 0x08

/-- The records of a coat stand, the port is in its state, its attenuator as it was, and no slot that was usable has ceased to be. -/
structure CoatStays (p : Nat) (s t : State) : Prop where
  len : t.ports.length = s.ports.length
  records : (getPort t p).records = (getPort s p).records
  state : portState t p = portState s p
  atten : odGet t (0x5400 + p) 0x08 = odGet s (0x5400 + p) 0x08
  usable : ∀ tx slot, slotUsable s p tx slot = true → slotUsable t p tx slot = true

theorem CoatStays.refl (p : Nat) (s : State) : CoatStays p s s := ⟨rfl, rfl, rfl, rfl, fun _ _ h => h⟩

theorem CoatStays.trans {p : Nat} {s t u : State} (h : CoatStays p s t) (g : CoatStays p t u) : CoatStays p s u :=
  ⟨g.len.trans h.len, g.records.trans h.records, g.state.trans h.state, g.atten.trans h.atten, fun tx slot hs => g.usable tx slot (h.usable tx slot hs)⟩

theorem CoatStays.foldl {p : Nat} {α : Type} {f : State → α → State} (hf : ∀ s a, p < s.ports.length → CoatStays p s (f s a)) (l : List α) {s : State}
    (hlen : p < s.ports.length) : CoatStays p s (l.foldl f s) := by
  induction l generalizing s with
  | nil => exact .refl p s
  | cons a r ih => exact (hf s a hlen).trans (ih ((hf s a hlen).len ▸ hlen))

/-- A slot stays usable while its role, the state of its ring and what the receivers say of it stand. -/
theorem slotUsable_of {s t : State} {p slot : Nat} {tx : Bool} (hrole : slotRole s p tx slot ≤ 1 → slotRole t p tx slot ≤ 1)
    (hst : (getRing t p tx slot).st = (getRing s p tx slot).st) (hreport : (getPort t p).lastReport = (getPort s p).lastReport)
    (haligned : (getPort t p).aligned = (getPort s p).aligned) (hbad : (getPort t p).slotBad = (getPort s p).slotBad)
    (h : slotUsable s p tx slot = true) : slotUsable t p tx slot = true := by
  unfold slotUsable farStatus at h ⊢
  rw [hst, hreport, haligned, hbad]
  simp only [Bool.and_eq_true, decide_eq_true_eq] at h ⊢
  exact ⟨⟨hrole h.1.1, h.1.2⟩, h.2⟩

theorem CoatStays.of_lanes {p : Nat} {s t : State} (hlanes : SameLanes p s t) (hlen : t.ports.length = s.ports.length)
    (hrecords : (getPort t p).records = (getPort s p).records) (hod : OdKeeps (coatKey p) s t) : CoatStays p s t :=
  ⟨hlen, hrecords, hod.get _ _ (.inl rfl), hod.get _ _ (.inr (.inr (.inr rfl))), fun tx slot hs => by rw [hlanes.slotUsable]; exact hs⟩

theorem coatKey_map {p : Nat} : ∀ n, n = 0x0A ∨ n = 0x0B → coatKey p (odKey (0x5200 + p) n)
  | _, .inl h => h ▸ .inr (.inl rfl)
  | _, .inr h => h ▸ .inr (.inr (.inl rfl))

theorem CoatStays.of_ports {p : Nat} {s t : State} (h : t.ports = s.ports) (hod : OdKeeps (coatKey p) s t) : CoatStays p s t :=
  .of_lanes (.of_ports h fun n hn => hod.get _ _ (coatKey_map n hn)) (congrArg List.length h) (congrArg Port.records (getPort_congr h p)) hod

/-- A port that is written with its rings, its signs and its records as they were. -/
theorem CoatStays.of_set {p : Nat} {s t : State} {v : Port} (hlen : p < s.ports.length) (hports : t.ports = s.ports.set p v) (hod : t.od = s.od)
    (htx : v.tx = (getPort s p).tx := by rfl) (hrx : v.rx = (getPort s p).rx := by rfl) (hreport : v.lastReport = (getPort s p).lastReport := by rfl)
    (haligned : v.aligned = (getPort s p).aligned := by rfl) (hbad : v.slotBad = (getPort s p).slotBad := by rfl)
    (hrecords : v.records = (getPort s p).records := by rfl) : CoatStays p s t :=
  .of_lanes (.of_set hlen hports hod htx hrx hreport haligned hbad) (by rw [hports, List.length_set]) (by rw [getPort_of_set hlen hports, hrecords])
    (.of_od hod)

/-! ### Slots whose margins are checked (R333) -/

theorem listGet_listSet_congr {α β : Type} (f : α → β) (d : α) (l : List α) (i j : Nat) {v : α} (h : f v = f (listGet d l i)) :
    f (listGet d (listSet l i v) j) = f (listGet d l j) := by
  unfold listGet listSet at *
  rw [List.getD_eq_getElem?_getD, List.getElem?_set]
  split
  · next hij =>
    subst hij
    split
    · exact h
    · next hlen => rw [List.getD_eq_getElem?_getD, List.getElem?_eq_none (by omega)]
  · rw [List.getD_eq_getElem?_getD]

/-- A ring that is written in its state. -/
theorem getRing_st_putRing {s : State} {p : Nat} (hlen : p < s.ports.length) {slot : Nat} {r : Ring} (h : r.st = (getRing s p true slot).st) (tx : Bool)
    (other : Nat) : (getRing (putRing s p true slot r) p tx other).st = (getRing s p tx other).st := by
  unfold getRing putRing
  dsimp only
  rw [if_pos rfl, getPort_putPort hlen]
  cases tx
  · rfl
  · exact listGet_listSet_congr Ring.st Ring.off _ slot other h

theorem putRing_coatStays {s : State} {p : Nat} (hlen : p < s.ports.length) {slot : Nat} {r : Ring} (h : r.st = (getRing s p true slot).st) :
    CoatStays p s (putRing s p true slot r) := by
  have hport : getPort (putRing s p true slot r) p = { getPort s p with tx := listSet (getPort s p).tx slot r } := getPort_putPort hlen _
  refine ⟨List.length_set .., by rw [hport]; rfl, rfl, rfl, fun tx other => slotUsable_of (fun hrole => hrole) (getRing_st_putRing hlen h tx other) ?_ ?_ ?_⟩ <;>
    rw [hport]

/-- A FAILED transmit slot that becomes SPARE takes no slot out of use. -/
theorem setMap_coatStays (s : State) (p slot : Nat) : CoatStays p s (setMap s p true slot 1 0) := by
  refine ⟨rfl, rfl, portState_setMap s p true slot 1 0, odGet_odSet_ne _ _ (by simp [mapSub]; omega), fun tx other => slotUsable_of (fun hrole => ?_) rfl rfl rfl rfl⟩
  unfold slotRole at hrole ⊢
  cases tx
  · have hmap : mapByte (setMap s p true slot 1 0) p false other = mapByte s p false other := by
      unfold mapByte setMap
      rw [odGet_odSet_ne _ _ (by simp [mapSub])]
    rw [hmap]
    exact hrole
  · by_cases ho : other = slot
    · rw [ho, mapByte_setMap]
      decide
    · rw [mapByte_setMap_ne _ _ _ _ _ ho]
      exact hrole

theorem listGet_map_st {f : Ring → Ring} (l : List Ring) (h : ∀ r, (f r).st = r.st) (i : Nat) :
    (listGet Ring.off (l.map f) i).st = (listGet Ring.off l i).st := by
  unfold listGet
  rw [List.getD_eq_getElem?_getD, List.getElem?_map, List.getD_eq_getElem?_getD]
  cases l[i]?
  · rfl
  · exact h _

theorem recheckSlots_coatStays {s : State} {p : Nat} (hlen : p < s.ports.length) : CoatStays p s (recheckSlots s p) := by
  have hstep : ∀ (t : State) (x : Nat), p < t.ports.length → CoatStays p t
      (if (getRing t p true x).st = 2 ∧ ((getRing t p true x).recheck ∨ slotRole t p true x = 2) then
        (if slotRole (putRing t p true x { getRing t p true x with recheck := false }) p true x = 2 then
          setMap (putRing t p true x { getRing t p true x with recheck := false }) p true x 1 0
        else putRing t p true x { getRing t p true x with recheck := false })
      else t) := fun t x ht => by
    have hput : CoatStays p t (putRing t p true x { getRing t p true x with recheck := false }) := putRing_coatStays ht rfl
    split
    · split
      · exact hput.trans (setMap_coatStays _ p x)
      · exact hput
    · exact .refl p t
  have hslots := CoatStays.foldl hstep slots18 hlen
  unfold recheckSlots
  dsimp only
  generalize slots18.foldl _ s = y at hslots ⊢
  have hylen : p < y.ports.length := hslots.len ▸ hlen
  refine hslots.trans ?_
  generalize hv : ({ getPort y p with rx := (getPort y p).rx.map (fun r => if r.st = 2 then { r with recheck := false } else r) } : Port) = v
  have hport : getPort (putPort y p v) p = v := getPort_putPort hylen v
  have hst : ∀ tx other, (getRing (putPort y p v) p tx other).st = (getRing y p tx other).st := fun tx other => by
    unfold getRing
    rw [hport, ← hv]
    cases tx
    · exact listGet_map_st _ (fun r => by split <;> rfl) other
    · rfl
  refine ⟨List.length_set .., by rw [hport, ← hv]; rfl, rfl, rfl, fun tx other => slotUsable_of (fun hrole => hrole) (hst tx other) ?_ ?_ ?_⟩ <;>
    rw [hport, ← hv]

/-! ### The coat (R339) -/

/-- A coat that no lane's failure restarts stands through what follows. -/
theorem settlePort_mist {s0 s : State} {p : Nat} (hlen : p < s.ports.length) (htraining : portState s p = 1)
    (husable : ∀ tx slot, slotUsable s0 p tx slot = true → slotUsable s p tx slot = true) : (getPort (settlePort s0 s p) p).mist = (getPort s p).mist := by
  have hplaced := placed_stays hlen
  have hlanes : SameLanes p s (if 1 ≤ portState s p && portState s p ≤ 3 then placeLanes s p else s) := by
    split
    · exact placeLanes_lanes hlen
    · exact .refl p s
  have hnone : lostLane s0 (if 1 ≤ portState s p && portState s p ≤ 3 then placeLanes s p else s) p = false := by
    refine Bool.eq_false_iff.mpr fun hlost => ?_
    unfold lostLane at hlost
    obtain ⟨tx, -, hslots⟩ := List.any_eq_true.mp hlost
    obtain ⟨slot, -, hfailed⟩ := List.any_eq_true.mp hslots
    rw [hlanes.slotUsable, Bool.and_eq_true, Bool.and_eq_true] at hfailed
    simp [husable tx slot hfailed.1.2] at hfailed
  have hcoated : coated s0 s p = if 1 ≤ portState s p && portState s p ≤ 3 then placeLanes s p else s := if_neg (by rw [hnone, Bool.and_false]; decide)
  have hstate := (portState_coated s0 s p).trans htraining
  have hmist : (getPort (coated s0 s p) p).mist = (getPort s p).mist := by
    rw [hcoated]
    exact hplaced.mist
  rcases settlePort_cases s0 s p with h | ⟨h, -⟩ | ⟨-, hother⟩ | ⟨-, hother⟩
  · rw [h, hmist]
  · rw [h, (enterKeying_stays ((coated_holds hlen).lt hlen)).mist, hmist]
  · omega
  · exact absurd hstate hother

/-- A port as a coat records it. -/
def coatedPort (s : State) (p : Nat) (power tracking : List (List Nat)) (refs : MonReadings) : Port :=
  { getPort s p with
    power := coatMargins s p (getPort s p).power (powerMargin power), tracking := coatMargins s p (getPort s p).tracking (trackingMargin tracking),
    refs := some { refs with farLpwr := (getPort s p).farLpwr }, pathLoss := (getPort s p).farLpwr - refs.ri, mist := 2 }

theorem sendMargins_coatStays {s : State} {p : Nat} (hlen : p < s.ports.length) (rows : List (List Nat)) : CoatStays p s (sendMargins s p rows) := by
  have hput : ∀ n, CoatStays p s (putPort s p { getPort s p with sseq := n }) := fun n => .of_set hlen rfl rfl
  exact (hput _).trans (.of_ports ((emitAll_changes _ _).same .ports rfl).1 (.of_changes (emitAll_changes _ _)))

theorem sendReport_coatStays {s : State} {p : Nat} (hlen : p < s.ports.length) (bad : List Nat) : CoatStays p s (sendReport s p bad) := by
  unfold sendReport
  dsimp only
  split
  · exact .refl p s
  · exact .of_set hlen rfl rfl

theorem odSet_coatStays (s : State) {p i n : Nat} (v : Nat) (h : ¬ coatKey p (odKey i n)) : CoatStays p s (odSet s i n v) := .of_ports rfl (.set s v h)

theorem tagCal_coatStays (s : State) {p i : Nat} (hp : p < 16) (hi : 0xA000 ≤ i) (temp : Int) : CoatStays p s (tagCal s i temp) := by
  have hkeeps : OdKeeps (coatKey p) s (tagCal s i temp) := (tagCal_writes s i temp).1.mono fun k hk => by
    unfold coatKey odKey at hk
    unfold odKey
    omega
  exact .of_ports rfl hkeeps

theorem filed_coatStays (s : State) {p : Nat} (hp : p < 16) (b code unit detail : Nat) : CoatStays p s (fileCode (snagSet s b) code unit detail) := by
  have hports := ((fileCode_changes (snagSet s b) code unit detail).same .ports rfl).1.trans ((snagSet_changes s b).same .ports rfl).1
  exact .of_ports hports (((snagSet_offLog s b).trans (fileCode_offLog _ _ _ _)).mono fun k hk => by
    unfold coatKey odKey at hk
    unfold logKey
    omega)

/-- The state in which a coat has recorded its margins, with its attenuator back at 0 dB. -/
def coatNoted (s : State) (p : Nat) (power tracking : List (List Nat)) (refs : MonReadings) : State :=
  odSet (sendMargins (putPort s p (coatedPort s p power tracking refs)) p (power ++ tracking)) (0x5400 + p) 0x08 0

theorem recorded_coatStays {s : State} {p : Nat} (hlen : p < s.ports.length) (power tracking : List (List Nat)) (refs : MonReadings) :
    p < (coatNoted s p power tracking refs).ports.length ∧
    (getPort (coatNoted s p power tracking refs) p).records = (coatedPort s p power tracking refs).records ∧
    portState (coatNoted s p power tracking refs) p = portState s p ∧
    ∀ tx slot, slotUsable s p tx slot = true → slotUsable (coatNoted s p power tracking refs) p tx slot = true := by
  have hput : p < (putPort s p (coatedPort s p power tracking refs)).ports.length := (List.length_set ..).symm ▸ hlen
  have hlanes : SameLanes p s (putPort s p (coatedPort s p power tracking refs)) := .of_set hlen rfl rfl
  have hsent := sendMargins_coatStays hput (power ++ tracking)
  have hstate := odGet_odSet_ne (sendMargins (putPort s p (coatedPort s p power tracking refs)) p (power ++ tracking)) (i := 0x5400 + p) (sub := 0x08)
    (j := 0x5200 + p) (n := 0x01) 0 (by unfold odKey; omega)
  have hzero : SameLanes p (sendMargins (putPort s p (coatedPort s p power tracking refs)) p (power ++ tracking)) (coatNoted s p power tracking refs) :=
    .of_ports rfl fun n hn => odGet_odSet_ne _ _ (by unfold odKey; omega)
  refine ⟨hsent.len ▸ hput, ?_, hstate.trans hsent.state, fun tx slot hs => ?_⟩
  · exact hsent.records.trans (congrArg Port.records (getPort_putPort hlen _))
  · rw [hzero.slotUsable]
    exact hsent.usable tx slot (by rw [hlanes.slotUsable]; exact hs)

/-- The slots checked and both calibrations tagged. -/
def coatTagged (s : State) (p : Nat) : State :=
  tagCal (tagCal (recheckSlots s p) (0xA010 + p) (Store.get 0 s.sensors (0xF * 256 + 2 * p + 1))) (0xA020 + p)
    (Store.get 0 s.sensors (0xF * 256 + 2 * p + 1))

/-- The slots with too low a margin that no SPARE takes over. -/
def coatStaying (s : State) (p : Nat) : List Nat := (slots18.filter (lowSlot s p)).drop (goodSpares s p)

/-- The low slots that can move reported, and the flag of those that cannot. -/
def coatFlagged (s : State) (p : Nat) : State :=
  let moved := sendReport s p ((slots18.filter (lowSlot s p)).take (goodSpares s p))
  odSet (putPort moved p { (getPort moved p) with low := coatStaying s p != [] }) (0x5200 + p) 0x0D (coatStaying s p != []).toNat

/-- The first of those that stay is reported. -/
def coatFiled (s : State) (p : Nat) : State :=
  (coatStaying s p).head?.elim (coatFlagged s p) fun x => fileCode (snagSet (coatFlagged s p) (80 + p)) 0x8032 (portUnit p)
    (pack3 (listGet 0 (getPort s p).power x) (listGet 0 (getPort s p).tracking x) 0)

theorem mistCoat_eq (s : State) (p : Nat) (power tracking : List (List Nat)) (refs : MonReadings) :
    mistCoat s p power tracking refs = settlePort s (coatFiled (coatTagged (coatNoted s p power tracking refs) p) p) p := by
  unfold mistCoat
  dsimp only
  split
  · next h =>
    have hstay : coatStaying (coatTagged (coatNoted s p power tracking refs) p) p = [] := h
    unfold coatFiled
    rw [hstay]
    rfl
  · next k r h =>
    have hstay : coatStaying (coatTagged (coatNoted s p power tracking refs) p) p = k :: r := h
    unfold coatFiled
    rw [hstay]
    rfl

theorem coatTagged_stays {s : State} {p : Nat} (hp : p < 16) (hlen : p < s.ports.length) : CoatStays p s (coatTagged s p) :=
  ((recheckSlots_coatStays hlen).trans (tagCal_coatStays _ hp (by omega) _)).trans (tagCal_coatStays _ hp (by omega) _)

theorem coatFlagged_stays {s : State} {p : Nat} (hlen : p < s.ports.length) : CoatStays p s (coatFlagged s p) := by
  have hmoved := sendReport_coatStays hlen ((slots18.filter (lowSlot s p)).take (goodSpares s p))
  unfold coatFlagged
  dsimp only
  generalize sendReport s p ((slots18.filter (lowSlot s p)).take (goodSpares s p)) = x at hmoved ⊢
  generalize (coatStaying s p != []) = low
  have hput : CoatStays p x (putPort x p { getPort x p with low := low }) := .of_set (hmoved.len ▸ hlen) rfl rfl
  exact (hmoved.trans hput).trans (odSet_coatStays _ _ (by unfold coatKey odKey; omega))

theorem coatFiled_stays {s : State} {p : Nat} (hp : p < 16) (hlen : p < s.ports.length) : CoatStays p s (coatFiled s p) := by
  unfold coatFiled
  cases (coatStaying s p).head? with
  | none => exact coatFlagged_stays hlen
  | some x => exact (coatFlagged_stays hlen).trans (filed_coatStays _ hp _ _ _ _)

theorem coatMargins_training {s : State} {p : Nat} (h : portState s p = 1) (old : List Nat) (new : Nat → Nat) :
    coatMargins s p old new = slots18.map new := by
  unfold coatMargins
  simp only [h, decide_true, Bool.true_or, if_true]

/-- The mist coat of a port that trains records its margins, its references and the path loss, and puts the attenuator back. -/
theorem mistCoat_records {s : State} {p : Nat} {power tracking : List (List Nat)} (refs : MonReadings) (hp : p < 16) (hlen : p < s.ports.length)
    (hpower : power.length = 41) (htracking : tracking.length = 122) (htraining : portState s p = 1) (hmist : (getPort s p).mist = 1)
    (hlanes : 16 ≤ usableLanes s p false) :
    ∃ t, exec (.mistCoat p power tracking refs) s = .next t ∧ (getPort t p).mist = 2 ∧
      (getPort t p).refs = some { refs with farLpwr := (getPort s p).farLpwr } ∧ (getPort t p).pathLoss = (getPort s p).farLpwr - refs.ri ∧
      (getPort t p).power = slots18.map (powerMargin power) ∧ (getPort t p).tracking = slots18.map (trackingMargin tracking) ∧
      odGet t (0x5400 + p) 0x08 = 0 := by
  obtain ⟨hnoted, hrecords, hstate, husable⟩ := recorded_coatStays hlen power tracking refs
  have hzero : odGet (coatNoted s p power tracking refs) (0x5400 + p) 0x08 = 0 := by
    unfold coatNoted
    rw [odGet_odSet]
  have htagged := coatTagged_stays hp hnoted
  have hfiled := htagged.trans (coatFiled_stays hp (hnoted.trans_eq htagged.len.symm))
  refine ⟨mistCoat s p power tracking refs, congrArg Host.Outcome.next (if_pos (by simp [hp, hpower, htracking, htraining, hmist, hlanes])), ?_⟩
  rw [mistCoat_eq]
  generalize coatFiled (coatTagged (coatNoted s p power tracking refs) p) p = x at hfiled ⊢
  have hxlen : p < x.ports.length := hfiled.len ▸ hnoted
  obtain ⟨hrefs, hloss, hpow, htrack, hdone⟩ : (getPort x p).refs = some { refs with farLpwr := (getPort s p).farLpwr } ∧
      (getPort x p).pathLoss = (getPort s p).farLpwr - refs.ri ∧ (getPort x p).power = slots18.map (powerMargin power) ∧
      (getPort x p).tracking = slots18.map (trackingMargin tracking) ∧ (getPort x p).mist = 2 := by
    have hall := hfiled.records.trans hrecords
    rw [← coatMargins_training htraining (getPort s p).power, ← coatMargins_training htraining (getPort s p).tracking]
    simpa only [Port.records, coatedPort, Prod.mk.injEq] using hall
  have hsettled := (settlePort_holds (s0 := s) hxlen).holds
  rw [settlePort_mist hxlen ((hfiled.state.trans hstate).trans htraining) fun tx slot hs => hfiled.usable tx slot (husable tx slot hs),
    hsettled.refs, hsettled.pathLoss, hsettled.power, hsettled.tracking]
  refine ⟨hdone, hrefs, hloss, hpow, htrack, ?_⟩
  rw [(settlePort_offPort s x p).get _ _ ⟨by unfold portOwn logKey odKey; omega, not_startPage (by omega) (by decide)⟩, hfiled.atten, hzero]

/-! ### The monitors (R336 to R338) -/

/-- The readings of a port as they are shown and kept for the next comparison. -/
def readingsShown (s : State) (p : Nat) (r : MonReadings) : State :=
  let s1 := odSet (odSet (odSet (odSet s (0x5400 + p) 0x01 (i32 r.li)) (0x5400 + p) 0x02 (i32 r.sp)) (0x5400 + p) 0x03 (i32 r.mb))
    (0x5400 + p) 0x04 (i32 r.ri)
  putPort s1 p { (getPort s1 p) with last := some r }

/-- A loss located is shown, with its snag and its report. -/
def lossFiled (s : State) (p v : Nat) : State := fileCode (snagSet (odSet s (0x5400 + p) 0x06 v) (80 + p)) 0x8030 (portUnit p) v

theorem readingsShown_shows {s : State} {p : Nat} (hlen : p < s.ports.length) (r : MonReadings) : (getPort (readingsShown s p r) p).last = some r ∧
    odGet (readingsShown s p r) (0x5400 + p) 0x01 = i32 r.li ∧ odGet (readingsShown s p r) (0x5400 + p) 0x02 = i32 r.sp ∧
    odGet (readingsShown s p r) (0x5400 + p) 0x03 = i32 r.mb ∧ odGet (readingsShown s p r) (0x5400 + p) 0x04 = i32 r.ri := by
  have hne : ∀ (x : State) (n m v : Nat), n < 256 → m < 256 → n ≠ m → odGet (odSet x (0x5400 + p) m v) (0x5400 + p) n = odGet x (0x5400 + p) n :=
    fun x n m v hn hm h => odGet_odSet_ne x v (odKey_ne hn hm (.inr h))
  have hput : ∀ (x : State) (v : Port) (n : Nat), odGet (putPort x p v) (0x5400 + p) n = odGet x (0x5400 + p) n := fun _ _ _ => rfl
  unfold readingsShown
  dsimp only
  refine ⟨?_, ?_, ?_, ?_, ?_⟩
  · exact congrArg Port.last (getPort_putPort hlen _)
  · rw [hput, hne _ 1 4 _ (by decide) (by decide) (by decide), hne _ 1 3 _ (by decide) (by decide) (by decide),
      hne _ 1 2 _ (by decide) (by decide) (by decide), odGet_odSet]
  · rw [hput, hne _ 2 4 _ (by decide) (by decide) (by decide), hne _ 2 3 _ (by decide) (by decide) (by decide), odGet_odSet]
  · rw [hput, hne _ 3 4 _ (by decide) (by decide) (by decide), odGet_odSet]
  · rw [hput, odGet_odSet]

theorem lossFiled_files (s : State) {p : Nat} (hp : p < 16) (v : Nat) : (lossFiled s p v).ports = s.ports ∧
    (∀ n, n < 6 → odGet (lossFiled s p v) (0x5400 + p) n = odGet s (0x5400 + p) n) ∧ odGet (lossFiled s p v) (0x5400 + p) 0x06 = v ∧
    bitOf (odGet (lossFiled s p v) 0x7000 0x01) (80 + p) = true := by
  have hoff := (snagSet_offLog (odSet s (0x5400 + p) 0x06 v) (80 + p)).trans (fileCode_offLog _ 0x8030 (portUnit p) v)
  have hread : ∀ n, n < 256 → odGet (lossFiled s p v) (0x5400 + p) n = odGet (odSet s (0x5400 + p) 0x06 v) (0x5400 + p) n := fun n hn =>
    hoff.get _ _ (not_logKey (by omega) hn)
  refine ⟨?_, fun n hn => ?_, ?_, ?_⟩
  · exact ((fileCode_changes _ _ _ _).same .ports rfl).1.trans ((snagSet_changes _ _).same .ports rfl).1
  · rw [hread n (by omega), odGet_odSet_ne _ _ (odKey_ne (by omega) (by decide) (.inr (by omega)))]
  · rw [hread 6 (by decide), odGet_odSet]
  · exact (fileCode_logs _ _ _ _).snags _ (snagSet_logs _ _).2

/-- A comparison shows the readings, and files the loss that it locates. -/
theorem monitorCompare_cases (s : State) (p : Nat) (x : MonReadings) :
    (∃ ref code loc fall, (getPort s p).refs = some ref ∧ lossLocation (lossThreshold s p) ref { x with farLpwr := (getPort s p).farLpwr } =
        some (code, loc, fall) ∧ monitorCompare s p x = lossFiled (readingsShown s p { x with farLpwr := (getPort s p).farLpwr }) p
          (code * 2 ^ 24 + loc * 2 ^ 16 + min 65535 fall.toNat)) ∨
    ((∀ ref, (getPort s p).refs = some ref → lossLocation (lossThreshold s p) ref { x with farLpwr := (getPort s p).farLpwr } = none) ∧
      monitorCompare s p x = readingsShown s p { x with farLpwr := (getPort s p).farLpwr }) := by
  unfold monitorCompare
  dsimp only
  split
  · next hnone => exact .inr ⟨fun ref href => absurd (hnone.symm.trans href) (by simp), rfl⟩
  · next ref href =>
    split
    · next hloss => exact .inr ⟨fun ref' href' => by rw [href] at href'; rw [← Option.some.inj href']; exact hloss, rfl⟩
    · next code loc fall hloss => exact .inl ⟨ref, code, loc, fall, href, hloss, rfl⟩

theorem monitorCompare_compares {s : State} {p : Nat} (x : MonReadings) (hbulk : bulkOn s = true) (hp : p < 16) (hlen : p < s.ports.length) :
    ∃ t, exec (.monitorCompare p x) s = .next t ∧
      (getPort t p).last = some { x with farLpwr := (getPort s p).farLpwr } ∧ odGet t (0x5400 + p) 0x01 = i32 x.li ∧ odGet t (0x5400 + p) 0x02 = i32 x.sp ∧
      odGet t (0x5400 + p) 0x03 = i32 x.mb ∧ odGet t (0x5400 + p) 0x04 = i32 x.ri ∧
      ∀ ref code loc fall, (getPort s p).refs = some ref →
        lossLocation (lossThreshold s p) ref { x with farLpwr := (getPort s p).farLpwr } = some (code, loc, fall) →
        odGet t (0x5400 + p) 0x06 = code * 2 ^ 24 + loc * 2 ^ 16 + min 65535 fall.toNat ∧ bitOf (odGet t 0x7000 0x01) (80 + p) = true := by
  obtain ⟨hlast, hli, hsp, hmb, hri⟩ := readingsShown_shows hlen { x with farLpwr := (getPort s p).farLpwr }
  refine ⟨monitorCompare s p x, congrArg Host.Outcome.next (if_pos (by simp [hp, hbulk])), ?_⟩
  rcases monitorCompare_cases s p x with ⟨ref, code, loc, fall, href, hloss, h⟩ | ⟨hnone, h⟩
  · obtain ⟨hports, hread, hshown, hsnag⟩ := lossFiled_files (readingsShown s p { x with farLpwr := (getPort s p).farLpwr }) hp
      (code * 2 ^ 24 + loc * 2 ^ 16 + min 65535 fall.toNat)
    rw [h, getPort_congr hports, hread 1 (by decide), hread 2 (by decide), hread 3 (by decide), hread 4 (by decide)]
    refine ⟨hlast, hli, hsp, hmb, hri, fun ref' code' loc' fall' href' hloss' => ?_⟩
    obtain rfl := Option.some.inj (href.symm.trans href')
    simp only [hloss, Option.some.injEq, Prod.mk.injEq] at hloss'
    obtain ⟨rfl, rfl, rfl⟩ := hloss'
    exact ⟨hshown, hsnag⟩
  · rw [h]
    exact ⟨hlast, hli, hsp, hmb, hri, fun ref code loc fall href hloss => absurd ((hnone ref href).symm.trans hloss) (by simp)⟩

/-- Settles O57: the rings by what an event leaves them to `afterRing`, the control words by what settling keeps of them, the coat and the monitors
by the records that they write. -/
theorem ringsAndControlWords : Obligations.RingsAndControlWords :=
  ⟨fun _ _ _ _ _ hp hslot h => ⟨fun _ hst => ⟨ringSweep_waits, fun _ _ => ringSweep_locks hp hslot h hst, ringSweep_retries hp hslot h hst⟩,
      feedforward_moves hp h, fun hst => ⟨lockLoss_holds hp hslot h hst, heaterJump_sweeps hp hslot h hst⟩,
      fun hst => ⟨recapture_locks hp hslot h hst, holdExpiry_sweeps hp hslot h hst⟩⟩,
    fun _ _ _ _ hp hslot hlen hlena hlenm hlenb hdark hisolated => ⟨marker_aligns hp hslot hlen hdark hlena hlenb hisolated,
      marker_borne hp hslot hlen hdark hlenm, marker_loses hp hslot hdark, alignmentLoss_loses hp hslot hlen hdark hlena hlenb⟩,
    fun _ _ _ => report_kept, fun _ _ _ => move_waits, fun _ _ _ _ _ => moveTakesEffect_applies,
    fun _ _ cycle fixed _ h => ⟨echo_answers h cycle fixed, echo_keeps h cycle fixed, echo_ignores h cycle fixed⟩,
    fun _ _ _ => ident_kept, fun _ _ _ => margin_kept, fun _ _ _ _ refs => mistCoat_records refs, fun _ _ x => monitorCompare_compares x⟩

end Sys2Proof.Machine
end
